-- ==== Sys2Proof/Word.lean ====
section
/-!
DEFINITION. The word types of the device and the names of its fixed sets: register-sized words, bytes, the copies of a triad and
the identity of a requester (R6, R9, R56, R84, R173).
-/

namespace Sys2Proof

/-- A 64-bit register or memory word (R9, R84). -/
abbrev Word := BitVec 64

/-- The smallest addressable unit of the physical map (R146). -/
abbrev Byte := BitVec 8

/-- A five-bit register number (R84, R89). -/
abbrev RegNo := BitVec 5

/-- A member of a triad (00_scope.md, "Fixed terms"). -/
inductive CopyId where
  | a | b | c
  deriving DecidableEq, Repr

/-- The number of a copy: 0 for A, 1 for B, 2 for C (R56, R148). -/
def CopyId.num : CopyId → Nat
  | .a => 0 | .b => 1 | .c => 2

/-- The triad an instruction runs in and the copy that runs it. The copy matters in SPLIT and DEBUG_SPLIT alone: in VOTE and
PAIR every compared copy executes the instruction (R45, R56). -/
structure Who where
  t : Fin 16
  c : CopyId
  deriving DecidableEq, Repr

/-- How an instruction is conditioned and how long it is: a 32-bit instruction carries a condition code [31:28], a 16-bit one the
carried-condition bit K (R88, R91, R92). -/
inductive Guard where
  | c32 (cond : BitVec 4)
  | c16 (k : Bool)
  deriving DecidableEq, Repr

/-- The requester of a memory or register access: its initiator index of the table "Initiator IDs" and the copy tag that goes
beside it (R56, R173). -/
structure Rq where
  init : Fin 30
  tag  : BitVec 2
  deriving DecidableEq, Repr

end Sys2Proof
end

