-- ==== Sys2Proof/Syntax.lean ====
section
/-!
DEFINITION. The commands of the device, one constructor per row of spec/opcode_table.json, with the operands each row carries.
An instruction row carries the fields of its encoding as the chapter "The Bruavo Instruction Set" lays them out (R89, R94, R95),
the fields that "must be 0" among them, so that every form R90 makes undefined can be written.
-/

namespace Sys2Proof

/-- ALU fn 0x00 to 0x03 (R94). -/
inductive AddOp where | add | adc | sub | sbc
  deriving DecidableEq, Repr
/-- ALU fn 0x04 to 0x08 (R94). -/
inductive LogicOp where | and | or | xor | andn | orn
  deriving DecidableEq, Repr
/-- ALU fn 0x09 to 0x0C and SHI [24:23] (R94). -/
inductive ShiftOp where | sll | srl | sra | ror
  deriving DecidableEq, Repr
/-- ALU fn 0x0D to 0x10 (R94). -/
inductive MinMaxOp where | min | max | minu | maxu
  deriving DecidableEq, Repr
/-- ALU fn 0x11 to 0x16 (R94). -/
inductive ExtOp where | sextb | sexth | sextw | zextb | zexth | zextw
  deriving DecidableEq, Repr
/-- ALU fn 0x17 to 0x1A (R94). -/
inductive CountOp where | clz | ctz | popc | rev
  deriving DecidableEq, Repr
/-- Classes 0b00001 to 0b00100 (R94). -/
inductive ImmOp where | addi | andi | ori | xori
  deriving DecidableEq, Repr
/-- MULDIV fn 0x00 to 0x02 (R94). -/
inductive MulOp where | mul | mulh | mulhu
  deriving DecidableEq, Repr
/-- MULDIV fn 0x04 to 0x07 (R94). -/
inductive DivOp where | div | divu | rem | remu
  deriving DecidableEq, Repr
/-- FPOP fn 0x00 to 0x02 (R94). -/
inductive FAddOp where | fadd | fsub | fmul
  deriving DecidableEq, Repr
/-- FPOP fn 0x05 to 0x08 (R94). -/
inductive FMinOp where | fmin | fmax | fneg | fabs
  deriving DecidableEq, Repr
/-- FPOP fn 0x0A to 0x0C: FCVT.IF, FCVT.FI and FCVT.FF (R94). -/
inductive FCvtOp where | toInt | fromInt | other
  deriving DecidableEq, Repr
/-- The three shadowed registers of a gate rule (R176). -/
inductive RuleReg where | base | limit | mask
  deriving DecidableEq, Repr
/-- The operations of a mesh request, as GATE_VLOGn_INFO.OP codes them (05_translation_and_gates.md). -/
inductive MeshOp where | read | write | atomic | fetch | walkRead | walkCas
  deriving DecidableEq, Repr
/-- The operation a target controller performs for an atomic request (R105, R106, R166). -/
inductive AtomOp where | swap | add | cas | ll | sc
  deriving DecidableEq, Repr

/-- A request on the mesh: who asks, what for, and where (R56, R173, R174). `len` is its length in bytes, `data` its write data or
operand read as a little-endian number, `cmp` the compare value of a compare-and-swap. -/
structure MeshReq where
  rq   : Rq
  op   : MeshOp
  atom : AtomOp
  pa   : BitVec 44
  len  : Nat
  data : Nat
  cmp  : Nat
  deriving DecidableEq, Repr


/-- The header of a Zhegus frame beside its TYPE (R352): FSEQ, cumulative ACK, NAK flag, EPOCH, sender role, sender operating state, SAFE_ASSERTED. -/
structure ZHdr where
  fseq  : BitVec 12
  ack   : BitVec 12
  nak   : Bool
  epoch : BitVec 16
  role  : BitVec 3
  op    : BitVec 3
  safe  : BitVec 4
  deriving DecidableEq, Repr

/-- A journal entry (R357): TYPE (0 WRITE, 1 POISON, 2 PAD), address of the 32-byte block, byte enables, JSEQ, data and epoch at capture. -/
structure JEnt where
  kind  : BitVec 2
  pa    : BitVec 44
  be    : BitVec 32
  jseq  : BitVec 32
  data  : BitVec 256
  epoch : BitVec 16
  deriving DecidableEq, Repr

/-- A frame that arrives at a port (R294): its port and MAC; whether its FEC codeword is uncorrectable, its FCS wrong, whether it came in
fragments; the quarter-nanoseconds since its first bit crossed the reference plane; and its bytes from the destination address, without
FCS. -/
structure FrameIn where
  p         : Fin 2
  m         : Fin 4
  fecBad    : Bool
  fcsBad    : Bool
  preempted : Bool
  age       : Nat
  data      : List Byte
  deriving DecidableEq, Repr

/-- The commands of the device: one constructor per row of spec/opcode_table.json. -/
inductive Instr where
  /-- ADD_ADC_SUB_SBC (R94): ALU add or subtract instruction, optionally setting flags. -/
  | addAdcSubSbc (w : Who) (g : Guard) (fn : AddOp) (sf : Bool) (d : RegNo) (a : RegNo) (b : RegNo)
  /-- AND_OR_XOR_ANDN_ORN (R94): ALU bitwise logic instruction. -/
  | andOrXorAndnOrn (w : Who) (g : Guard) (fn : LogicOp) (sf : Bool) (d : RegNo) (a : RegNo) (b : RegNo)
  /-- SLL_SRL_SRA_ROR (R93): ALU shift or rotate by register amount. -/
  | sllSrlSraRor (w : Who) (g : Guard) (fn : ShiftOp) (sf : Bool) (d : RegNo) (a : RegNo) (b : RegNo)
  /-- MIN_MAX_MINU_MAXU (R94): Signed or unsigned minimum or maximum. -/
  | minMaxMinuMaxu (w : Who) (g : Guard) (fn : MinMaxOp) (sf : Bool) (d : RegNo) (a : RegNo) (b : RegNo)
  /-- SEXT_ZEXT (R94): Sign- or zero-extend from 8, 16 or 32 bits. -/
  | sextZext (w : Who) (g : Guard) (fn : ExtOp) (sf : Bool) (d : RegNo) (a : RegNo) (b : RegNo)
  /-- CLZ_CTZ_POPC_REV (R94): Bit count or byte reverse instruction. -/
  | clzCtzPopcRev (w : Who) (g : Guard) (fn : CountOp) (sf : Bool) (d : RegNo) (a : RegNo) (b : RegNo)
  /-- SLT_SLTU (R94): Set-less-than, signed or unsigned. -/
  | sltSltu (w : Who) (g : Guard) (uns : Bool) (sf : Bool) (d : RegNo) (a : RegNo) (b : RegNo)
  /-- ADDI_ANDI_ORI_XORI (R94): Register-immediate arithmetic or logic. -/
  | addiAndiOriXori (w : Who) (g : Guard) (fn : ImmOp) (d : RegNo) (a : RegNo) (imm : BitVec 13)
  /-- SHI (R93): Shift or rotate by immediate amount, optionally setting flags. -/
  | shi (w : Who) (g : Guard) (fn : ShiftOp) (sf : Bool) (d : RegNo) (a : RegNo) (amt : BitVec 6) (z : BitVec 2)
  /-- CMPI (R93): Set flags from register minus immediate. -/
  | cmpi (w : Who) (g : Guard) (d : RegNo) (a : RegNo) (imm : BitVec 11)
  /-- MOVI (R94): Load sign-extended 16-bit immediate. -/
  | movi (w : Who) (g : Guard) (d : RegNo) (imm : BitVec 16)
  /-- MOVH (R94): Shift register left 16 and insert immediate. -/
  | movh (w : Who) (g : Guard) (d : RegNo) (imm : BitVec 16)
  /-- MUL_MULH_MULHU (R94): Integer multiply, low or high part. -/
  | mulMulhMulhu (w : Who) (g : Guard) (fn : MulOp) (d : RegNo) (a : RegNo) (b : RegNo)
  /-- DIV_DIVU_REM_REMU (R98): Abandonable integer divide or remainder. -/
  | divDivuRemRemu (w : Who) (g : Guard) (fn : DivOp) (d : RegNo) (a : RegNo) (b : RegNo)
  /-- FADD_FSUB_FMUL (R111): Floating-point add, subtract or multiply. -/
  | faddFsubFmul (w : Who) (g : Guard) (fn : FAddOp) (p : Bool) (d : RegNo) (a : RegNo) (b : RegNo)
  /-- FDIV (R98): Abandonable floating-point divide. -/
  | fdiv (w : Who) (g : Guard) (p : Bool) (d : RegNo) (a : RegNo) (b : RegNo)
  /-- FSQRT (R98): Abandonable floating-point square root. -/
  | fsqrt (w : Who) (g : Guard) (p : Bool) (d : RegNo) (a : RegNo) (b : RegNo)
  /-- FMIN_FMAX_FNEG_FABS (R111): Floating-point minimum, maximum or sign operation. -/
  | fminFmaxFnegFabs (w : Who) (g : Guard) (fn : FMinOp) (p : Bool) (d : RegNo) (a : RegNo) (b : RegNo)
  /-- FCMP (R93): Quiet floating-point compare setting NZCV. -/
  | fcmp (w : Who) (g : Guard) (p : Bool) (d : RegNo) (a : RegNo) (b : RegNo)
  /-- FCVT (R111): Floating-point/integer or precision conversion. -/
  | fcvt (w : Who) (g : Guard) (fn : FCvtOp) (p : Bool) (d : RegNo) (a : RegNo) (b : RegNo)
  /-- FMV_GF_FG (R94): Bit move between integer and floating-point registers. -/
  | fmvGfFg (w : Who) (g : Guard) (toF : Bool) (d : RegNo) (a : RegNo) (b : RegNo)
  /-- FMADD_FMSUB (R111): Fused multiply-add or multiply-subtract. -/
  | fmaddFmsub (w : Who) (g : Guard) (sub : Bool) (p : Bool) (d : RegNo) (a : RegNo) (b : RegNo) (c : RegNo)
  /-- LD_LDU (R96): Memory load with load delay slot. -/
  | ldLdu (w : Who) (g : Guard) (uns : Bool) (size : BitVec 2) (d : RegNo) (a : RegNo) (imm : BitVec 9)
  /-- ST (R99): Memory store completing before commit. -/
  | st (w : Who) (g : Guard) (size : BitVec 2) (d : RegNo) (a : RegNo) (imm : BitVec 9)
  /-- FLD_FST (R96): Floating-point load or store. -/
  | fldFst (w : Who) (g : Guard) (store : Bool) (size : BitVec 2) (d : RegNo) (a : RegNo) (imm : BitVec 9)
  /-- MEMX_LOAD_STORE (R94): Register-indexed load or store (LDX, LDUX, STX, FLDX, FSTX). -/
  | memxLoadStore (w : Who) (g : Guard) (kind : BitVec 2) (size : BitVec 2) (scale : Bool) (freg : Bool) (d : RegNo) (a : RegNo) (b : RegNo)
  /-- LL (R106): Load-linked setting a granule reservation. -/
  | ll (w : Who) (g : Guard) (size : BitVec 2) (z : Bool) (d : RegNo) (a : RegNo)
  /-- SC (R106): Store-conditional on the reservation. -/
  | sc (w : Who) (g : Guard) (size : BitVec 2) (z : Bool) (d : RegNo) (a : RegNo) (b : RegNo)
  /-- AMOSWAP (R105): Atomic swap at the target controller. -/
  | amoswap (w : Who) (g : Guard) (size : BitVec 2) (z : Bool) (d : RegNo) (a : RegNo) (b : RegNo)
  /-- AMOADD (R105): Atomic add at the target controller. -/
  | amoadd (w : Who) (g : Guard) (size : BitVec 2) (z : Bool) (d : RegNo) (a : RegNo) (b : RegNo)
  /-- AMOCAS (R105): Atomic compare-and-swap against ACMP, setting Z. -/
  | amocas (w : Who) (g : Guard) (size : BitVec 2) (z : Bool) (d : RegNo) (a : RegNo) (b : RegNo)
  /-- B (R123): Relative branch using the BTB. -/
  | b (w : Who) (g : Guard) (off : BitVec 21)
  /-- BL (R94): Branch and link to g31. -/
  | bl (w : Who) (g : Guard) (off : BitVec 21)
  /-- JALR (R94): Register-indirect jump and link. -/
  | jalr (w : Who) (g : Guard) (d : RegNo) (a : RegNo) (imm : BitVec 11)
  /-- CSRR (R110): Read a CSR. -/
  | csrr (w : Who) (g : Guard) (d : RegNo) (csr : BitVec 12)
  /-- CSRW (R110): Write a CSR without behaviour of its own. -/
  | csrw (w : Who) (g : Guard) (d : RegNo) (csr : BitVec 12)
  /-- PSR_WRITE (R87): CSRW to PSR with privilege and CC rules. -/
  | psrWrite (w : Who) (g : Guard) (d : RegNo)
  /-- AGTIME_READ (R110): Read of agreed time opening a class-1 agreement. -/
  | agtimeRead (w : Who) (g : Guard) (d : RegNo) (oa : Word) (ob : Word) (oc : Word)
  /-- AGEVENT_READ (R110): Read of agreed event word opening a class-3 agreement. -/
  | ageventRead (w : Who) (g : Guard) (d : RegNo) (ea : Word) (eb : Word) (ec : Word)
  /-- ICINV_VA (R110): Invalidate instruction-cache line of a virtual address. -/
  | icinvVa (w : Who) (g : Guard) (d : RegNo)
  /-- ICINV_ALL (R127): Invalidate all unlocked instruction-cache lines. -/
  | icinvAll (w : Who) (g : Guard) (d : RegNo)
  /-- DCINV_VA (R110): Invalidate data-cache line, discarding dirty data. -/
  | dcinvVa (w : Who) (g : Guard) (d : RegNo)
  /-- DCCLEAN_VA (R110): Start posted clean write of a dirty data-cache line. -/
  | dccleanVa (w : Who) (g : Guard) (d : RegNo)
  /-- DCCLEAN_ALL (R110): Start clean writes of all dirty data-cache lines. -/
  | dccleanAll (w : Who) (g : Guard) (d : RegNo)
  /-- DCINV_ALL (R110): Invalidate all data-cache lines. -/
  | dcinvAll (w : Who) (g : Guard) (d : RegNo)
  /-- IC_SWSET (R134): Set a software interrupt latch in this copy. -/
  | icSwset (w : Who) (g : Guard) (d : RegNo)
  /-- PATCH_DATA_WRITE (R117): Write patch entry word or header, checking header validity. -/
  | patchDataWrite (w : Who) (g : Guard) (d : RegNo)
  /-- TRAP (R108): Raise trap TRAP with a code. -/
  | trap (w : Who) (g : Guard) (d : RegNo) (code : BitVec 10)
  /-- ERET (R142): Return from interrupt or trap, possibly tail-chaining. -/
  | eret (w : Who) (g : Guard) (d : RegNo) (a : RegNo) (b : RegNo)
  /-- WFI (R108): Wait for an interrupt. -/
  | wfi (w : Who) (g : Guard)
  /-- MSYNC (R76): Mode-change barrier applying an armed mode request. -/
  | msync (w : Who) (g : Guard) (d : RegNo) (a : RegNo) (b : RegNo)
  /-- IBAR (R108): Discard F-stage and prefetch lines and refetch. -/
  | ibar (w : Who) (g : Guard)
  /-- DBAR (R109): Stall until clean writes and coprocessor packets are accepted. -/
  | dbar (w : Who) (g : Guard)
  /-- TLBWR (R156): Write a TLB entry, invalidating overlaps. -/
  | tlbwr (w : Who) (g : Guard) (d : RegNo) (a : RegNo) (b : RegNo)
  /-- TLBRD_T (R162): Read TLB entry tag. -/
  | tlbrdT (w : Who) (g : Guard) (d : RegNo) (a : RegNo) (b : RegNo)
  /-- TLBRD_P (R162): Read TLB entry PTE. -/
  | tlbrdP (w : Who) (g : Guard) (d : RegNo) (a : RegNo) (b : RegNo)
  /-- TLBINV_VA (R160): Invalidate unlocked entries matching address and ASID. -/
  | tlbinvVa (w : Who) (g : Guard) (a : RegNo) (b : RegNo)
  /-- TLBINV_ASID (R160): Invalidate unlocked non-global entries of an ASID. -/
  | tlbinvAsid (w : Who) (g : Guard) (a : RegNo)
  /-- TLBINV_ALL (R160): Invalidate every unlocked entry. -/
  | tlbinvAll (w : Who) (g : Guard)
  /-- TLBINV_IDX (R160): Invalidate one indexed entry. -/
  | tlbinvIdx (w : Who) (g : Guard) (a : RegNo)
  /-- COP (R113): Issue a Fuller instruction packet through the fence. -/
  | cop (w : Who) (word : BitVec 32)
  /-- PATCH (R117): Execute a microcode patch entry as one instruction. -/
  | patch (w : Who) (word : BitVec 32)
  /-- INSTRUCTION_FETCH (R122): F stage requests a line into the prefetch buffer. -/
  | instructionFetch (w : Who)
  /-- IAU_AGREEMENT (R61): Opener opens an agreement; samples evaluated and agreed value delivered. -/
  | iauAgreement (w : Who)
  /-- INTERRUPT_LATCH_SET (R134): An interrupt source sets the copies' input latches. -/
  | interruptLatchSet (src : BitVec 8) (triads : BitVec 16) (copies : BitVec 3)
  /-- TIME_COMPARE (R134): Device count reaches IC_TCMP and sets source 0. -/
  | timeCompare (t : Fin 16)
  /-- TAG_ISSUE (R43): A request stalled for a tag issues when a tag frees. -/
  | tagIssue (init : Fin 30)
  /-- MESH_REQUEST (R175): A request reaches a gate, is evaluated and served by its target. -/
  | meshRequest (m : MeshReq)
  /-- MESH_RESPONSE (R37): A response arrives at its initiator, late epochs discarded. -/
  | meshResponse (init : Fin 30)
  /-- TAG_RESP_TIMEOUT (R37): Initiator response timeout fires and increments the tag epoch. -/
  | tagRespTimeout (rq : Rq) (va : Word) (isWrite : Bool)
  /-- MESH_VC_STALL (R41): A virtual-channel head has not advanced for 10 us. -/
  | meshVcStall
  /-- FCRU_EVALUATION (R25): FCRU evaluates detected sources and applies matrix reactions. -/
  | fcruEvaluation
  /-- ESC_WINDOW_EXPIRE (R28): An escalation window expires and its count is discarded. -/
  | escWindowExpire (src : BitVec 9)
  /-- FCRU_WDOG_EXPIRE (R18): FCRU watchdog sees no kick for 2 us and forces safe outputs. -/
  | fcruWdogExpire
  /-- FCRU_SW_RAISE (R35): Software raises a fault source as if detected. -/
  | fcruSwRaise (rq : Rq) (v : Word)
  /-- GLOBAL_LOCK (R35): Set LOCK in every matrix entry. -/
  | globalLock (rq : Rq)
  /-- LOG_WRAP_CLEAR (R7): W1C of FCRU_STATUS.LOG_WRAP. -/
  | logWrapClear (rq : Rq)
  /-- PEND_CLEAR (R7): W1C of FCRU pending bits. -/
  | pendClear (rq : Rq) (n : BitVec 3) (v : Word)
  /-- MATRIX_WRITE (R36): Write a matrix entry, clearing its open escalation window. -/
  | matrixWrite (rq : Rq) (src : BitVec 9) (v : Word)
  /-- MATRIX_LOCK (R35): W1S LOCK freezing a matrix entry until reset. -/
  | matrixLock (rq : Rq) (src : BitVec 9)
  /-- GO (R70): Software TRI_RESYNC_CTL.GO starts a resynchronisation. -/
  | go (rq : Rq) (t : Fin 16)
  /-- RESYNC_COPY_DONE (R71): Array copy completes and a pause is requested. -/
  | resyncCopyDone (t : Fin 16)
  /-- RESYNC_PAUSE (R72): Pair reaches boundary M; state transferred and verified. -/
  | resyncPause (t : Fin 16) (sigOk : Bool)
  /-- RESYNC_REJOIN (R70): All three copies resume at skews after the pause. -/
  | resyncRejoin (t : Fin 16)
  /-- ARM (R76): Write TRI_MODE_REQ arming a mode request. -/
  | arm (rq : Rq) (t : Fin 16) (v : Word)
  /-- MSYNC_TIMEOUT (R78): SPLIT MSYNC wait times out after TRI_MSYNC_TMO. -/
  | msyncTimeout (t : Fin 16)
  /-- MODE_TRANSITION_DONE (R79): Cleaning and rebuild of a mode transition complete and copies resume. -/
  | modeTransitionDone (t : Fin 16)
  /-- TRI_INJECT (R60): Flip a bit in a copy's next valid bundle. -/
  | triInject (rq : Rq) (t : Fin 16) (v : Word)
  /-- TRI_WDOG_KICK (R83): Kick the triad watchdog with the expected key. -/
  | triWdogKick (rq : Rq) (t : Fin 16) (v : Word)
  /-- WATCHDOG (R83): Triad watchdog count expires and raises WATCHDOG. -/
  | watchdog (t : Fin 16)
  /-- TRI_MISMATCH_CLEAR (R7): W1C of TRI_MISMATCH.VALID. -/
  | triMismatchClear (rq : Rq) (t : Fin 16)
  /-- DEBUG_ATTACH (R81): Debugger attach breaks lockstep into DEBUG_SPLIT. -/
  | debugAttach (w : Who)
  /-- GATE_RULE_SHADOW_WRITE (R176): Write rule BASE, LIMIT or MASK to the shadow copy. -/
  | gateRuleShadowWrite (rq : Rq) (gt : Fin 27) (k : BitVec 5) (which : RuleReg) (v : Word)
  /-- GATE_RULE_CTL_WRITE (R176): Write rule CTL applying shadow and CTL together. -/
  | gateRuleCtlWrite (rq : Rq) (gt : Fin 27) (k : BitVec 5) (v : Word)
  /-- LOCK_ALL (R176): Set LOCK in all 32 rules of a gate. -/
  | lockAll (rq : Rq) (gt : Fin 27)
  /-- GATE_DRAIN (R179): Read of GATE_DRAIN noting the evaluation point. -/
  | gateDrain (rq : Rq) (gt : Fin 27)
  /-- GATE_DRAIN_COMPLETE (R179): Drain read responds once earlier requests have completed. -/
  | gateDrainComplete (rq : Rq) (gt : Fin 27)
  /-- GATE_LOG_CLR (R177): Clear a gate's violation log. -/
  | gateLogClr (rq : Rq) (gt : Fin 27)
  /-- XLT_ROOT_WRITE (R170): Write a context's root table pointer. -/
  | xltRootWrite (rq : Rq) (c : Fin 8) (v : Word)
  /-- XLT_ASID_WRITE (R170): Write a context's ASID. -/
  | xltAsidWrite (rq : Rq) (c : Fin 8) (v : Word)
  /-- XLT_ROOT_LOCK (R7): W1S LOCK freezing XLT_Cc_ROOT. -/
  | xltRootLock (rq : Rq) (c : Fin 8)
  /-- FUL_WALK (R165): Fuller walker translates a missing address, updating A and D by CAS. -/
  | fulWalk (c : Fin 8) (va : Word) (write : Bool)
  /-- FUL_PACKET_ACCEPT (R193): Issue packet reaches acceptance, gets a sequence number and is checked. -/
  | fulPacketAccept (c : Fin 8) (parityOk : Bool)
  /-- FUL_INSTR_COMPLETE (R200): A Fuller instruction completes; IDLE entered if queue empty. -/
  | fulInstrComplete (c : Fin 8) (k : BitVec 5)
  /-- VI (R197): Vector integer function. -/
  | vi (c : Fin 8)
  /-- VI_M (R197): Masked vector integer function. -/
  | viM (c : Fin 8)
  /-- VF (R190): Vector floating-point function. -/
  | vf (c : Fin 8)
  /-- VF_M (R190): Masked vector floating-point function. -/
  | vfM (c : Fin 8)
  /-- VFMA (R190): Vector fused multiply-add. -/
  | vfma (c : Fin 8)
  /-- VFMA_M (R190): Masked vector fused multiply-add. -/
  | vfmaM (c : Fin 8)
  /-- VFNMA (R190): Vector fused negative multiply-add. -/
  | vfnma (c : Fin 8)
  /-- VDOT (R197): Vector int8 dot product accumulate. -/
  | vdot (c : Fin 8)
  /-- VCMP (R197): Vector compare into a mask register. -/
  | vcmp (c : Fin 8)
  /-- VCMPU (R197): Vector unordered test into a mask. -/
  | vcmpu (c : Fin 8)
  /-- VRED (R199): Vector reduction by fixed pairwise tree. -/
  | vred (c : Fin 8)
  /-- VMASK (R197): Mask register logic operation. -/
  | vmask (c : Fin 8)
  /-- VMERGE (R197): Select elements under m0. -/
  | vmerge (c : Fin 8)
  /-- VMOV (R198): Vector move, slide, iota or conversion. -/
  | vmov (c : Fin 8)
  /-- VINV_ALL (R169): Remove every Fuller TLB entry of the context. -/
  | vinvAll (c : Fin 8)
  /-- WALKINV (R169): Remove every walk-cache entry of the context. -/
  | walkinv (c : Fin 8)
  /-- VLD (R205): Vector register load. -/
  | vld (c : Fin 8)
  /-- VLD_M (R205): Masked vector register load. -/
  | vldM (c : Fin 8)
  /-- VST (R205): Vector register store. -/
  | vst (c : Fin 8)
  /-- VST_M (R205): Masked vector register store. -/
  | vstM (c : Fin 8)
  /-- VSPLAT (R197): Broadcast a scalar into a vector. -/
  | vsplat (c : Fin 8)
  /-- VSLIDEDN (R197): Slide vector down by a scalar amount. -/
  | vslidedn (c : Fin 8)
  /-- STRM (R214): Memory-to-memory stream reading and checking its descriptor. -/
  | strm (c : Fin 8)
  /-- VINV_VA (R169): Remove Fuller TLB entries matching address and ASID. -/
  | vinvVa (c : Fin 8)
  /-- VINV_ASID (R169): Remove non-global Fuller TLB entries of an ASID. -/
  | vinvAsid (c : Fin 8)
  /-- VSYNC (R202): Wait for older instructions and return status word. -/
  | vsync (c : Fin 8)
  /-- VMVS (R197): Return element 0 to a scalar register. -/
  | vmvs (c : Fin 8)
  /-- VMPOP (R197): Return population count of a mask. -/
  | vmpop (c : Fin 8)
  /-- VMFIRST (R197): Return lowest set mask index. -/
  | vmfirst (c : Fin 8)
  /-- VGETVL (R201): Return VL and VTYPE at acceptance. -/
  | vgetvl (c : Fin 8)
  /-- VRDSEQ (R201): Return own sequence number at acceptance. -/
  | vrdseq (c : Fin 8)
  /-- VSHAPE (R198): Set VTYPE and VL at acceptance and return VLMAX. -/
  | vshape (c : Fin 8)
  /-- STREAM_CHUNK (R221): A stream stage processes one chunk of elements. -/
  | streamChunk (c : Fin 8)
  /-- STREAM_PREFETCH (R224): Prefetcher reads source granules into staging ahead of the load stage. -/
  | streamPrefetch (c : Fin 8) (src : Fin 3)
  /-- FUL_WINDOW_BOUNDARY (R209): A schedule window boundary takes effect; streams suspend, work defers. -/
  | fulWindowBoundary
  /-- FUL_GAP_END (R210): Hand-over gap ends; incoming context takes slices; overrun cancelled. -/
  | fulGapEnd (late : BitVec 8)
  /-- FUL_WATCHDOG (R208): Context watchdog reaches WDOG_US and stops started work. -/
  | fulWatchdog (c : Fin 8)
  /-- FUL_SLICE_GATE (R213): An idle slice power-gates after THRESH us. -/
  | fulSliceGate (i : Fin 4)
  /-- FUL_SLICE_WAKE_DONE (R213): A slice wake completes after 2.5 us. -/
  | fulSliceWakeDone (i : Fin 4)
  /-- FUL_PG_CTL_WRITE (R213): Write power-gating control, effective at next boundary. -/
  | fulPgCtlWrite (rq : Rq) (v : Word)
  /-- FUL_EVENT_PEND_CLEAR (R207): W1C of context event pending bits. -/
  | fulEventPendClear (rq : Rq) (c : Fin 8) (v : Word)
  /-- CLEAR (R185): FUL_Cc_CTL.CLEAR leaves FAULTED. -/
  | clear (rq : Rq) (c : Fin 8)
  /-- FFLAGS_CLEAR (R7): W1C of context floating-point flags. -/
  | fflagsClear (rq : Rq) (c : Fin 8) (v : Word)
  /-- CHECK_LAST_CLEAR (R7): W1C of FUL_Cc_CHECK_LAST.VALID. -/
  | checkLastClear (rq : Rq) (c : Fin 8)
  /-- SPARE_WAKE_DONE (R248): Rotation spare bank wakes and its valid bits are cleared. -/
  | spareWakeDone
  /-- ROTATION_COPY_DONE (R248): Bank copy to spare completes and the map switches. -/
  | rotationCopyDone (cr : Bool)
  /-- ROTATION_MARCH_DONE (R373): March test of the isolated bank ends; pass or FAILED. -/
  | rotationMarchDone (cr : Bool) (pass : Bool)
  /-- ROTATION_CLEAR_DONE (R248): Tested bank cleared and settled as spare. -/
  | rotationClearDone (cr : Bool)
  /-- MEM_SS_PWR_WRITE (R251): Request ON or low power state for Stream SRAM banks. -/
  | memSsPwrWrite (rq : Rq) (n : BitVec 2) (v : Word)
  /-- BANK_ENTER_LOW (R251): Bank enters RET or OFF once no request is in progress. -/
  | bankEnterLow (b : BitVec 8)
  /-- BANK_WAKE_DONE (R252): A bank wake completes and waiting requests are served. -/
  | bankWakeDone (b : BitVec 8)
  /-- ZOD_CLEAR_DONE (R265): Region clear completes and waiting accesses proceed. -/
  | zodClearDone (r : BitVec 20)
  /-- ZOD_BACKGROUND_CLEAR (R264): Background clearer clears the next uncleared region. -/
  | zodBackgroundClear
  /-- DDR_ZOD_CTL_WRITE (R264): Write background clearing enable and rate. -/
  | ddrZodCtlWrite (rq : Rq) (v : Word)
  /-- DDR_ZOD_PROBE_WRITE (R264): Select a region to query its cleared state. -/
  | ddrZodProbeWrite (rq : Rq) (v : Word)
  /-- CE_WRITEBACK (R276): Queued corrected write-back lands in an idle cycle unless superseded. -/
  | ceWriteback (pa : BitVec 44)
  /-- MERGE_DRAIN (R285): Merge-buffer entry drains to the array. -/
  | mergeDrain (pa : BitVec 44)
  /-- REMAP (R281): Nominated unit copied to a spare row and redirected. -/
  | remap (k : Fin 4) (n : Fin 32)
  /-- EDC_CTL_WRITE (R279): Write protection mode and auto-remap. -/
  | edcCtlWrite (rq : Rq) (v : Word)
  /-- EDC_LOCK (R7): W1S EDC_CTL.LOCK freezing mode bits. -/
  | edcLock (rq : Rq)
  /-- LOG_CLR (R277): Invalidate every entry of a class log. -/
  | logClr (rq : Rq) (m : BitVec 5)
  /-- UE_FIRST_CLEAR (R280): W1C of EDC_CLASSk_UE_FIRST.VALID. -/
  | ueFirstClear (rq : Rq) (k : Fin 5)
  /-- EDC_INJ_ARM (R287): Arm an error injection. -/
  | edcInjArm (rq : Rq) (v : BitVec 4)
  /-- FIRED_CLEAR (R7): W1C of EDC_INJ_CTL.FIRED. -/
  | firedClear (rq : Rq)
  /-- SCRUB_GO (R288): Start a scrub of a range or refuse it. -/
  | scrubGo (rq : Rq)
  /-- SCRUB_ABORT (R288): Stop a running scrub after its current unit. -/
  | scrubAbort (rq : Rq)
  /-- SCRUB_UNIT (R289): Scrub engine reads and handles the next unit. -/
  | scrubUnit
  /-- REMAP_LOCK (R282): W1S LOCK keeping a remap entry through reset. -/
  | remapLock (rq : Rq) (i : Fin 312) (e : Fin 8)
  /-- FRAME_RECEIVE (R294): An arriving frame passes the ingress stages to steering. -/
  | frameReceive (f : FrameIn)
  /-- RING_DESCRIPTOR_VISIBLE (R302): Descriptor written after data responses; doorbell raised. -/
  | ringDescriptorVisible (ring : Fin 128)
  /-- CB_SEQ_RECOVERY (R299): Sequence recovery function resets after RESET_US without a frame. -/
  | cbSeqRecovery (f : Fin 512)
  /-- LINK_DOWN (R294): A MAC link falls and Pn_LINK_DOWN is raised. -/
  | linkDown (p : Fin 2) (m : Fin 4) (lanes : BitVec 4)
  /-- PREEMPT_VERIFY (R313): IEEE 802.3br verification of a MAC completes. -/
  | preemptVerify (p : Fin 2) (m : Fin 4) (ok : Bool)
  /-- ADM_RING_CONS_WRITE (R303): Consumer returns Crown RAM ring space. -/
  | admRingConsWrite (rq : Rq) (n : Fin 64) (cons : BitVec 18)
  /-- ADM_SRING_CONS_WRITE (R303): Consumer returns Stream SRAM ring space. -/
  | admSringConsWrite (rq : Rq) (n : Fin 64) (cons : BitVec 28)
  /-- ADM_REQ_ADMIT (R308): Run-time admission of an entry through ADM_REQ. -/
  | admReqAdmit (rq : Rq) (n : BitVec 10)
  /-- ADM_REQ_WITHDRAW (R309): Run-time withdrawal of an entry through ADM_REQ. -/
  | admReqWithdraw (rq : Rq) (n : BitVec 10)
  /-- ETH_TXQ_TAIL_WRITE (R311): Software advances an egress queue tail. -/
  | ethTxqTailWrite (rq : Rq) (p : Fin 2) (q : Fin 32) (tail : BitVec 16)
  /-- FRAME_TRANSMIT (R312): Port sends the next queued frame under the gate and writes back. -/
  | frameTransmit (p : Fin 2) (q : Fin 32) (fragments : Bool)
  /-- GCL_ENTRY_ADVANCE (R312): Gate control list moves to the next entry or cycle. -/
  | gclEntryAdvance (p : Fin 2)
  /-- CHANGE (R312): Start a gate control list configuration change. -/
  | change (rq : Rq) (p : Fin 2)
  /-- GCL_CONFIG_CHANGE (R312): Administrative bank becomes operational at a cycle start. -/
  | gclConfigChange (p : Fin 2)
  /-- INSTALL (R295): Load and validate a MACsec secure association. -/
  | install (rq : Rq) (p : Fin 2)
  /-- RETIRE (R295): Invalidate a MACsec secure association. -/
  | retire (rq : Rq) (p : Fin 2)
  /-- PING (R320): DHP echo, or session open with OPEN. -/
  | ping
  /-- GET_STATE (R326): DHP command returning device state. -/
  | getState
  /-- TIME_QUERY (R326): DHP command returning timestamps and time status. -/
  | timeQuery
  /-- ADMIT (R327): DHP command admitting a flow. -/
  | admitFlow
  /-- WITHDRAW (R327): DHP command withdrawing a flow. -/
  | withdraw
  /-- SUBMIT_JOB (R328): DHP command queuing a job and taking a result slot. -/
  | submitJob
  /-- GET_RESULT (R330): DHP command reading a job result. -/
  | getResult
  /-- RELEASE_RESULT (R329): DHP command releasing or cancelling a result slot. -/
  | releaseResult
  /-- GET_PROGRESS (R332): DHP command reporting progress of a target. -/
  | getProgress
  /-- REC_FREEZE (R337): DHP command triggering a recorder freeze. -/
  | recFreeze
  /-- REC_READ (R339): DHP command reading the frozen span. -/
  | recRead
  /-- REC_RELEASE (R339): DHP command releasing the frozen span. -/
  | recRelease
  /-- ENTER_MAINT (R327): DHP command entering MAINT. -/
  | enterMaint
  /-- IMAGE_WRITE (R400): DHP command programming image data to flash. -/
  | imageWrite
  /-- CODE_WRITE (R401): DHP command writing the code store. -/
  | codeWrite
  /-- RESET_REQ (R327): DHP command requesting a reset. -/
  | resetReq
  /-- HANDOVER_COMMAND (R327): DHP command applying the HANDOVER reaction. -/
  | handoverCommand
  /-- RESET_REQ_RESET (R327): Internal reset once the RESET_REQ response has left. -/
  | resetReqReset
  /-- DHP_SESSION_CLOSE (R321): Session closes after IDLE_MS without a request. -/
  | dhpSessionClose (k : Fin 8)
  /-- JOB_DEADLINE_EXPIRE (R329): Result slot deadline passes. -/
  | jobDeadlineExpire (n : Fin 64)
  /-- DHP_SLOT_DONE (R331): Owner writes DONE completing a result slot. -/
  | dhpSlotDone (rq : Rq) (n : Fin 64) (v : Word)
  /-- DHP_SLOT_PROG_WRITE (R332): Owner writes slot progress. -/
  | dhpSlotProgWrite (rq : Rq) (n : Fin 64) (v : Word)
  /-- DHP_JOBQ_CONS_WRITE (R328): Owner returns job queue entries. -/
  | dhpJobqConsWrite (rq : Rq) (j : Fin 32) (cons : BitVec 8)
  /-- REC_RECORD_WRITE (R335): Recorder writes a record from its buffer to ring or reserve. -/
  | recRecordWrite
  /-- FREEZE (R337): REC_CTL.FREEZE triggers the recorder. -/
  | freeze (rq : Rq)
  /-- RELEASE (R339): REC_CTL.RELEASE releases the frozen span. -/
  | release (rq : Rq)
  /-- TIME_STEP (R343): Write a signed step to the device time. -/
  | timeStep (rq : Rq) (v : Word)
  /-- TIME_RATE_WRITE (R342): Write the time rate correction. -/
  | timeRateWrite (rq : Rq) (v : Word)
  /-- TIME_NOW_READ (R342): Read TIME_NOW taking a snapshot. -/
  | timeNowRead (rq : Rq)
  /-- SERVO_REFERENCE_EVENT (R345): Servo measures offset at a reference event and steps or slews. -/
  | servoReferenceEvent (ofs : Word)
  /-- TIME_SOURCE_LOSS (R346): No reference event for 1.5 intervals; HOLDOVER entered. -/
  | timeSourceLoss
  /-- HOLDOVER_LIMIT (R346): Estimated error exceeds LIMIT_NS. -/
  | holdoverLimit
  /-- TCXO_CHECK (R346): REFCLK measured against crystal every 10 ms. -/
  | tcxoCheck (dev : BitVec 16)
  /-- TIME_OUT_EDGE (R350): A TIME_OUT line edge falls due. -/
  | timeOutEdge (n : Fin 4) (stuck : Bool)
  /-- TIME_OUT_CFG_WRITE (R350): Write TIME_OUT configuration, turning OFF if invalid. -/
  | timeOutCfgWrite (rq : Rq) (n : Fin 4) (v : Word)
  /-- TIME_IN_EDGE (R351): A selected TIME_IN edge is captured into the FIFO. -/
  | timeInEdge (n : Fin 2) (falling : Bool) (age : Nat)
  /-- TIME_IN_CAP_READ (R351): Read TIME_INn_CAP popping the oldest capture. -/
  | timeInCapRead (rq : Rq) (n : Fin 2)
  /-- GPTP_SYNC_TRANSMIT (R349): GM domain sends Sync, Follow_Up or Announce. -/
  | gptpSyncTransmit (k : Fin 4) (p : Fin 2) (m : Fin 4) (kind : Fin 3)
  /-- PDELAY_EXCHANGE (R348): Peer delay measurement on an enabled MAC. -/
  | pdelayExchange (p : Fin 2) (m : Fin 4) (delay : BitVec 32)
  /-- GPTP_FRAME_RECEIVE (R348): A diverted gPTP frame is processed by the time block. -/
  | gptpFrameReceive (k : Fin 4) (ofs : Word)
  /-- HEARTBEAT (R354): Zhegus HEARTBEAT frame received. -/
  | heartbeat (h : ZHdr) (applied : BitVec 32)
  /-- HEARTBEAT_SEND (R354): Device sends a heartbeat every 1 us. -/
  | heartbeatSend
  /-- ALIVE_TOGGLE (R354): TWIN_ALIVE_OUT toggles every 1 us. -/
  | aliveToggle
  /-- JOURNAL (R357): JOURNAL frame received and entries applied in JSEQ order. -/
  | journal (h : ZHdr) (es : List JEnt)
  /-- BULK (R358): BULK frame received and block written. -/
  | bulk (h : ZHdr) (pa : BitVec 44) (d : List Byte)
  /-- HANDOVER_FRAME (R361): HANDOVER frame received, triggering takeover. -/
  | handoverFrame (h : ZHdr)
  /-- HANDOVER_ACK (R363): HANDOVER_ACK received; primary becomes RETIRED. -/
  | handoverAck (h : ZHdr)
  /-- CONFIG (R355): CONFIG frame exchanged at link establishment; roles resolved. -/
  | config (h : ZHdr) (standby : Bool) (epoch : BitVec 16) (crcSame : Bool)
  /-- JOURNAL_SEND (R357): Primary sends captured journal entries. -/
  | journalSend
  /-- BULK_SEND (R358): Primary sends the next bulk synchronisation block. -/
  | bulkSend
  /-- ZHEGUS_RETRANSMIT (R353): No ACK within 500 ns; go-back-N resend. -/
  | zhegusRetransmit
  /-- LINK_RETRAIN_DONE (R353): Zhegus link retraining completes. -/
  | linkRetrainDone (lanes : BitVec 4)
  /-- TWIN_HB_LOSS (R354): Heartbeat absent for 8 us. -/
  | twinHbLoss
  /-- SIDEBAND_LOSS (R354): TWIN_ALIVE_IN not toggling for 8 us. -/
  | sidebandLoss
  /-- TWIN_SAFE_IN (R361): TWIN_SAFE_IN_N held low for 100 ns. -/
  | twinSafeIn
  /-- TAKEOVER (R362): Standby increments epoch and quiesces the link. -/
  | takeover
  /-- TAKEOVER_COMPLETE (R362): Entries applied; standby becomes PRIMARY in RUN. -/
  | takeoverComplete
  /-- HANDOVER_ACK_TIMEOUT (R363): No HANDOVER_ACK within 2 us; primary falls silent. -/
  | handoverAckTimeout
  /-- SOLO_TIMEOUT (R355): Unarmed standby sees no twin for SOLO_MS and takes over. -/
  | soloTimeout
  /-- POUNCE_SLICE_DUE (R370): A schedule entry falls due; run, defer or drop. -/
  | pounceSliceDue (n : Fin 32)
  /-- POUNCE_RETRY (R369): Deferred slice retried after 1 ms. -/
  | pounceRetry (n : Fin 32)
  /-- TRIAD_CHECK (R371): Injection hold then array scan of a triad. -/
  | triadCheck (bad : Option (BitVec 5))
  /-- ARRAY_SCAN_DONE (R372): Array scan ends and CRCs are compared. -/
  | arrayScanDone (t : Fin 16)
  /-- SSRAM_BANK (R371): Stream SRAM rotation slice starts. -/
  | ssramBank
  /-- CROWN_BANK (R371): Crown RAM rotation slice starts. -/
  | crownBank
  /-- TEMP (R371): Temperature pair test slice. -/
  | tempTest
  /-- VMON (R371): Voltage monitor test slice. -/
  | vmonTest
  /-- ADC (R371): Hatbox ADC test slice. -/
  | adcTest
  /-- PLL (R371): PLL lock-monitor test slice. -/
  | pll
  /-- ZHEGUS_PRBS (R371): PRBS loopback test of an unused lane. -/
  | zhegusPrbs
  /-- POUNCE_SLICE_COMPLETE (R374): A timed test slice ends, pass or marked failure. -/
  | pounceSliceComplete (kind : Fin 5) (pass : Bool)
  /-- PNC_RUN (R375): Start a schedule entry's slice at once. -/
  | pncRun (rq : Rq) (n : BitVec 5)
  /-- HALT (R375): Halt or resume the Pounce schedule. -/
  | halt (rq : Rq) (on : Bool)
  /-- MT_GO (R375): Start a March C- range test as initiator PNC. -/
  | mtGo (rq : Rq)
  /-- PNC_FAIL_LAST_CLEAR (R7): W1C of PNC_FAIL_LAST.VALID. -/
  | pncFailLastClear (rq : Rq)
  /-- VDD_AON_POWER_UP (R383): VDD_AON first applied; Hatbox starts and raises PMIC_EN. -/
  | vddAonPowerUp
  /-- HBX_LEVEL_CHANGE (R376): Fast-path debounce completes and LEVEL changes. -/
  | hbxLevelChange (n : Fin 8) (level : Bool) (ticks : Nat)
  /-- HBX_SLOW_SAMPLE (R376): Slow-path ADC sample completes and is filtered. -/
  | hbxSlowSample (n : Fin 8) (raw : BitVec 12) (ticks : Nat)
  /-- OFF_MIN_EXPIRE (R385): Held WAKE raises PMIC_EN after OFF_MIN_MS. -/
  | offMinExpire
  /-- PMIC_TIMEOUT (R386): PGOOD not risen within 20 ms; PMIC_EN lowered. -/
  | pmicTimeout (ticks : Nat)
  /-- PMIC_RETRY (R386): PMIC_EN retried 100 ms after a failed attempt. -/
  | pmicRetry
  /-- PGOOD_RISE (R412): Filtered PGOOD releases power-on reset into BOOT. -/
  | pgoodRise (ticks : Nat) (units : BitVec 16)
  /-- PGOOD_FALL (R386): PGOOD falls while PMIC_EN high without sleep request. -/
  | pgoodFall (ticks : Nat)
  /-- RESET_N_ASSERT (R387): RESET_N asserted resets all but the Hatbox. -/
  | resetNAssert
  /-- RESET_N_RELEASE (R420): RESET_N released; start-up restarts at step 3. -/
  | resetNRelease (ticks : Nat)
  /-- PLL_LOCK_DONE (R388): POR done and all PLLs locked; image read begins. -/
  | pllLockDone
  /-- STARTUP_PHASE1_DONE (R365): Pounce start-up phase 1 completes. -/
  | startupPhase1Done (copies : BitVec 48) (banks : BitVec 16)
  /-- IMAGE_CHECK (R393): Image read and checks 1 to 8, halting on failure. -/
  | imageCheck (sfdp : Bool) (ext : Option (List Byte)) (units : BitVec 16) (readUs : BitVec 16) (verifyUs : BitVec 16)
  /-- BLOCKING (R396): Image sections applied to registers with check 9. -/
  | blocking (units : BitVec 16) (blockUs : BitVec 16)
  /-- DRAM_TRAINING (R389): DRAM fast or full training completes. -/
  | dramTraining (rejected : BitVec 16) (failed : BitVec 16) (timeUs : BitVec 18) (tj : BitVec 8)
  /-- CODE_STORE_CHECK (R390): Code-store digests verified. -/
  | codeStoreCheck
  /-- STARTUP_PHASE2_DONE (R365): Pounce start-up phase 2 completes. -/
  | startupPhase2Done (conf : BitVec 16) (pll : BitVec 11) (freq : BitVec 11) (vmon : BitVec 20) (temp : BitVec 6) (adc : BitVec 8)
  /-- TRIAD_RELEASE (R388): Locked ways filled, pinned entries installed, triads released. -/
  | triadRelease (units : BitVec 16)
  /-- SYS_SLEEP (R384): Sleep request stops the device and enters SLEEP. -/
  | sysSleep (rq : Rq) (v : Word)
  /-- SYS_IPI (R134): Raise inter-triad interrupts. -/
  | sysIpi (rq : Rq) (v : Word)
  /-- MANUFACTURE_TO_SECURED (R398): Life-cycle OP 1. -/
  | manufactureToSecured (rq : Rq) (key : BitVec 16)
  /-- SECURED_TO_RMA (R398): Life-cycle OP 2 with signature. -/
  | securedToRma (rq : Rq)
  /-- SCRAP (R398): Life-cycle OP 3 to SCRAPPED. -/
  | scrap (rq : Rq) (key : BitVec 16)
  /-- SECURED_TO_FIELD_DEBUG (R398): Life-cycle OP 4 with signed nonce. -/
  | securedToFieldDebug (rq : Rq)
  /-- SYS_LC_CHAL_READ (R398): Read of SYS_LC_CHAL0 draws a new nonce. -/
  | sysLcChalRead (rq : Rq)
  /-- NVM_PROGRAM_DONE (R400): Flash programming completes; image read back and checked. -/
  | nvmProgramDone
  /-- CODE_PROGRAM_DONE (R401): Code-store line writes complete. -/
  | codeProgramDone
  /-- EV_WRAP_CLEAR (R7): W1C of HBX_STATUS.EV_WRAP. -/
  | evWrapClear (rq : Rq)
  /-- RET_UE_CLEAR (R7): W1C of HBX_RET.RET_UE. -/
  | retUeClear (rq : Rq)
  /-- CLK_LOSS (R406): A PLL lock or frequency monitor flags loss of its clock. -/
  | clkLoss (p : Fin 11)
  /-- VMON_TRIP (R410): Supply outside the 4% window for 100 ns. -/
  | vmonTrip (n : Fin 10) (win : BitVec 4) (mv : BitVec 12)
  /-- VDD_AON_BROWNOUT (R410): VDD_AON below 0.70 V in SLEEP resets the Hatbox. -/
  | vddAonBrownout
  /-- TEMP_SAMPLE (R411): Sensor pairs read every 1 ms against thresholds. -/
  | tempSample (c0 : BitVec 8 × BitVec 8) (c1 : BitVec 8 × BitVec 8) (c2 : BitVec 8 × BitVec 8) (c3 : BitVec 8 × BitVec 8) (mesh : BitVec 8 × BitVec 8) (serdes : BitVec 8 × BitVec 8)
  /-- I2C_GO (R422): Start one PMIC I2C register transfer. -/
  | i2cGo (rq : Rq) (v : BitVec 24)
  /-- I2C_DONE (R422): I2C transfer completes or NACKs. -/
  | i2cDone (data : Byte) (nack : Bool)
  /-- GPIO_OUT_WRITE (R423): Drive new GPIO output levels. -/
  | gpioOutWrite (rq : Rq) (v : BitVec 32)
  /-- GPIO_INPUT_CHANGE (R423): A GPIO pin level changes and is synchronised. -/
  | gpioInputChange (n : Fin 32) (level : Bool)
  /-- MMIO_WRITE (R7): Write to a register without behaviour of its own. -/
  | mmioWrite (rq : Rq) (off : BitVec 24) (half : Bool) (v : Word)
  /-- LINK_UP (R404): An Ethernet MAC's link comes up after training, its SFD path delay is calibrated and it begins to carry frames. -/
  | linkUp (p : Fin 2) (m : Fin 4)
  /-- TWIN_LANE_FAIL (R352): A Zhegus lane fails in service and the link continues on two lanes at half rate. -/
  | twinLaneFail (lane : Fin 4)
  /-- ZHEGUS_CRC_ERROR (R353): A Zhegus frame arrives with a CRC error and the receiver sends a NAK at once. -/
  | zhegusCrcError
  /-- TWIN_ALIVE_IN_TOGGLE (R354): The TWIN_ALIVE_IN sideband from the partner toggles, restoring ALIVE_IN after an absence. -/
  | twinAliveInToggle
  /-- DDR_TEMP_DERATE (R268): A DRAM channel's temperature reporting changes its refresh rate and the channel enters or leaves derating. -/
  | ddrTempDerate (ch : Fin 16) (refresh : BitVec 3) (derated : Bool)
  /-- FUL_SCHEDULED_WAKE (R213): A gated slice that a later window grants starts waking 2.5 us before that window's boundary. -/
  | fulScheduledWake (i : Fin 4)
  /-- SUPPLIES_REMOVED (R325): All supplies, VDD_AON included, are removed and the device enters OFF. -/
  | suppliesRemoved
  /-- OTP_PROVISIONING (R397): OTP provisioning through JTAG moves a BLANK device to MANUFACTURE. -/
  | otpProvisioning (id : Word) (keys : List (BitVec 384)) (wrap : BitVec 256) (minSvn : Nat)
  deriving DecidableEq, Repr

end Sys2Proof
end

