-- ==== Sys2Proof/Decode.lean ====
section
/-!
DEFINITION. The command that a word spells. The rows of spec/opcode_table.json give no bits, so no word spells a command (log entry 30); the
instructions of the Bruavo triads reach the device as rows with their fields as operands.
-/

namespace Sys2Proof

/-- The command that an instruction word of the table spells: none, since no row of the table gives bits (log entry 30). -/
def decodeTableWord (_nbits _w : Nat) : Option Instr := none

end Sys2Proof
end

