-- ==== Sys2Proof/Config.lean ====
section
/-!
DEFINITION. The values the spec leaves open. Every constant here is opaque: nothing in Lean can evaluate it, so a claim that
holds of the model holds for every value. The assumption log names each one.
-/

namespace Sys2Proof.Config

/-- A fresh free value: the step applies it to the counter `free` of the state and advances the counter (log entry 3). -/
opaque freeWord : Nat → Word

/-- The number of cycles by which an external access stalls beyond its class minimum, before it is cut to the class bounds of
the table "Target class stall bounds" (R129): free, applied to the counter `free` of the state (log entry 4). -/
opaque freeStall : Nat → Nat

/-- How an agreement lane codes an interrupt sample, its source and level (R62, R66): the layout is not stated (log entry 10). -/
opaque irqSample : Nat → Nat → Nat

/-- What an agreement lane holds for a copy with no candidate (log entry 10). -/
opaque irqNone : Nat

/-- How the agreed field codes the function used (R66): the encoding is not stated (log entry 10). -/
opaque fnUsed : Nat → Nat

/-- The AES-256 block cipher that R293 and R318 name: key and block, whose first byte is the most significant (log entry 19). -/
opaque aes256 : BitVec 256 → BitVec 128 → BitVec 128

/-- How TIME_QUERY codes a timestamp, seconds, nanoseconds and quarter-nanoseconds, in twelve bytes (R326): the layout is not stated
(log entry 20). -/
opaque stampWire : Nat → Nat → Nat → Nat

/-- The SHA-384 digest that R390 to R393 name, its first byte the most significant (log entry 23). -/
opaque digest384 : List (BitVec 8) → BitVec 384

/-- The digest as its 48 bytes. -/
def sha384 (d : List (BitVec 8)) : List (BitVec 8) := (List.range 48).map fun i => (digest384 d).extractLsb' (8 * (47 - i)) 8

/-- ECDSA P-384 verification over the SHA-384 digest of a message (R392, R398): public key, message, and the signature's 96 bytes (log
entry 23). -/
opaque ecdsaP384 : List (BitVec 8) → List (BitVec 8) → List (BitVec 8) → Bool

/-- AES Key Unwrap of RFC 3394 (R395): wrap key and the wrapped bytes; none where the integrity check fails (log entry 23). -/
opaque keyUnwrap : Nat → List (BitVec 8) → Option Nat

/-- The rate that the servo's PI loop sets (R345): the two shifts, the offset in nanoseconds and the sum of the offsets; the loop's units are not
stated (log entry 24). -/
opaque servoRate : Nat → Nat → Int → Int → Nat

/-- The frame that the time block sends (R348, R349): message kind, domain, sequence number; its bytes are those of IEEE 802.1AS, which the spec
does not give (log entry 25). -/
opaque gptpFrame : Nat → Nat → Nat → List (BitVec 8)

end Sys2Proof.Config
end

