-- ==== Sys2Proof/Machine/RegMap.lean ====
section
/-!
DEFINITION. The register map of the device: for every register that a chapter of spec/ describes, its offset from the MMIO base
0x600_0000_0000 (block offset of the table "MMIO block offset table", 05_translation_and_gates.md, plus the register's own
offset), its fields (lowest bit and length) and the access type of every field (R7).
Each docstring names the register as the spec writes it and the section file that gives its table.
-/

namespace Sys2Proof.Machine

/-- A field of a 64-bit register: its lowest bit and its length in bits (R6). -/
structure Fld where
  lo  : Nat
  len : Nat
  deriving DecidableEq, Repr

/-- The access masks of one register (or family of registers): bits that are RW, W1C, W1S, RWL and WO (R7). Every other bit is RO, IMG
or reserved: a run-time write leaves it alone. `d1`, `d2` and `d3` are the (count, stride) pairs of an indexed family. -/
structure RegDesc where
  base : Nat
  d1   : Nat × Nat
  d2   : Nat × Nat
  d3   : Nat × Nat
  rw   : Nat
  w1c  : Nat
  w1s  : Nat
  rwl  : Nat
  wo   : Nat
  deriving DecidableEq, Repr

namespace Reg

/-- FCRU_STATUS (01_safety_model.md). -/
def fcruStatus : Nat := 0x10000
def fcruStatus_AGREE : Fld := ⟨0, 1⟩ -- RO
def fcruStatus_WDOG_EXPIRED : Fld := ⟨1, 1⟩ -- RO
def fcruStatus_SAFE_ASSERTED : Fld := ⟨2, 4⟩ -- RO
def fcruStatus_LOG_WRAP : Fld := ⟨6, 1⟩ -- W1C
def fcruStatus_GLOBAL_LOCK : Fld := ⟨7, 1⟩ -- W1S

/-- FCRU_FIRST (01_safety_model.md). -/
def fcruFirst : Nat := 0x10008
def fcruFirst_SOURCE : Fld := ⟨0, 9⟩ -- RO
def fcruFirst_REACTION : Fld := ⟨9, 3⟩ -- RO
def fcruFirst_VALID : Fld := ⟨12, 1⟩ -- RO
def fcruFirst_TIME_NS : Fld := ⟨24, 40⟩ -- RO

/-- FCRU_PEND0 to FCRU_PEND7 (01_safety_model.md). -/
def fcruPend (i : Nat) : Nat := 0x10040 + 0x8 * i
def fcruPend_PEND : Fld := ⟨0, 64⟩ -- W1C

/-- FCRU_SW_RAISE (01_safety_model.md). -/
def fcruSwRaise : Nat := 0x10080
def fcruSwRaise_SOURCE : Fld := ⟨0, 9⟩ -- WO

/-- FCRU_LOG_HEAD (01_safety_model.md). -/
def fcruLogHead : Nat := 0x10088
def fcruLogHead_NEXT : Fld := ⟨0, 5⟩ -- RO

/-- FCRU_LOG0 to FCRU_LOG31 (01_safety_model.md). -/
def fcruLog (i : Nat) : Nat := 0x10100 + 0x8 * i
def fcruLog_SOURCE : Fld := ⟨0, 9⟩ -- RO
def fcruLog_REACTION : Fld := ⟨9, 3⟩ -- RO
def fcruLog_ESCALATED : Fld := ⟨12, 1⟩ -- RO
def fcruLog_APPLIED : Fld := ⟨13, 1⟩ -- RO
def fcruLog_VALID : Fld := ⟨14, 1⟩ -- RO
def fcruLog_TIME_NS : Fld := ⟨24, 40⟩ -- RO

/-- FCRU_MATRIX0 to FCRU_MATRIX511 (01_safety_model.md). -/
def fcruMatrix (i : Nat) : Nat := 0x11000 + 0x8 * i
def fcruMatrix_REACTION : Fld := ⟨0, 3⟩ -- RWL
def fcruMatrix_ESC_REACTION : Fld := ⟨3, 3⟩ -- RWL
def fcruMatrix_ESC_COUNT : Fld := ⟨6, 4⟩ -- RWL
def fcruMatrix_ESC_WINDOW : Fld := ⟨10, 4⟩ -- RWL
def fcruMatrix_SAFE_MASK : Fld := ⟨14, 4⟩ -- RWL
def fcruMatrix_IRQ_LINE : Fld := ⟨18, 6⟩ -- RWL
def fcruMatrix_IRQ_TRIADS : Fld := ⟨24, 16⟩ -- RWL
def fcruMatrix_REC_FREEZE : Fld := ⟨40, 1⟩ -- RWL
def fcruMatrix_LOCK : Fld := ⟨63, 1⟩ -- W1S

/-- FCRU_CNT0 to FCRU_CNT511 (01_safety_model.md). -/
def fcruCnt (i : Nat) : Nat := 0x12000 + 0x8 * i
def fcruCnt_TOTAL : Fld := ⟨0, 16⟩ -- RO
def fcruCnt_IN_WINDOW : Fld := ⟨16, 4⟩ -- RO
def fcruCnt_WINDOW_OPEN : Fld := ⟨20, 1⟩ -- RO

/-- TRI_STATUS (02_triads.md). -/
def triStatus (i : Nat) : Nat := 0x20000 + 0x1000 * i
def triStatus_MODE : Fld := ⟨0, 2⟩ -- RO
def triStatus_LIVE : Fld := ⟨2, 3⟩ -- RO
def triStatus_ISOLATED : Fld := ⟨5, 3⟩ -- RO
def triStatus_RESYNC_BUSY : Fld := ⟨8, 1⟩ -- RO
def triStatus_SPARE_RUN : Fld := ⟨9, 1⟩ -- RO
def triStatus_DBG_BROKEN : Fld := ⟨10, 1⟩ -- RO
def triStatus_MSYNC_WAIT : Fld := ⟨11, 1⟩ -- RO
def triStatus_STOPPED : Fld := ⟨12, 1⟩ -- RO
def triStatus_RESYNC_PHASE : Fld := ⟨13, 3⟩ -- RO

/-- TRI_MODE_REQ (02_triads.md). -/
def triModeReq (i : Nat) : Nat := 0x20008 + 0x1000 * i
def triModeReq_TARGET : Fld := ⟨0, 2⟩ -- RW
def triModeReq_SPARE : Fld := ⟨2, 1⟩ -- RW
def triModeReq_ARM : Fld := ⟨3, 1⟩ -- W1S

/-- TRI_MODE_ALLOW (02_triads.md). -/
def triModeAllow (i : Nat) : Nat := 0x20010 + 0x1000 * i
def triModeAllow_VOTE_OK : Fld := ⟨0, 1⟩ -- IMG
def triModeAllow_PAIR_OK : Fld := ⟨1, 1⟩ -- IMG
def triModeAllow_SPLIT_OK : Fld := ⟨2, 1⟩ -- IMG
def triModeAllow_SPARE_RUN : Fld := ⟨3, 1⟩ -- IMG
def triModeAllow_BOOT_MODE : Fld := ⟨4, 2⟩ -- IMG

/-- TRI_MSYNC_TMO (02_triads.md). -/
def triMsyncTmo (i : Nat) : Nat := 0x20018 + 0x1000 * i
def triMsyncTmo_TMO : Fld := ⟨0, 16⟩ -- RW

/-- TRI_COMMIT_COUNT (02_triads.md). -/
def triCommitCount (i : Nat) : Nat := 0x20020 + 0x1000 * i
def triCommitCount_COUNT : Fld := ⟨0, 64⟩ -- RO

/-- TRI_MISMATCH (02_triads.md). -/
def triMismatch (i : Nat) : Nat := 0x20028 + 0x1000 * i
def triMismatch_GROUPS : Fld := ⟨0, 11⟩ -- RO
def triMismatch_COPIES : Fld := ⟨11, 3⟩ -- RO
def triMismatch_VALID : Fld := ⟨14, 1⟩ -- W1C
def triMismatch_FETCH : Fld := ⟨15, 1⟩ -- RO
def triMismatch_COUNT : Fld := ⟨16, 48⟩ -- RO

/-- TRI_CONF_CNT (02_triads.md). -/
def triConfCnt (i : Nat) : Nat := 0x20030 + 0x1000 * i
def triConfCnt_ODD_A : Fld := ⟨0, 16⟩ -- RO
def triConfCnt_ODD_B : Fld := ⟨16, 16⟩ -- RO
def triConfCnt_ODD_C : Fld := ⟨32, 16⟩ -- RO
def triConfCnt_PAIR_MM : Fld := ⟨48, 16⟩ -- RO

/-- TRI_RESYNC_CTL (02_triads.md). -/
def triResyncCtl (i : Nat) : Nat := 0x20038 + 0x1000 * i
def triResyncCtl_GO : Fld := ⟨0, 1⟩ -- WO

/-- TRI_RESYNC_STAT (02_triads.md). -/
def triResyncStat (i : Nat) : Nat := 0x20040 + 0x1000 * i
def triResyncStat_LAST_TOTAL : Fld := ⟨0, 16⟩ -- RO
def triResyncStat_LAST_PAUSE : Fld := ⟨16, 10⟩ -- RO
def triResyncStat_DONE : Fld := ⟨26, 16⟩ -- RO
def triResyncStat_FAILED : Fld := ⟨42, 8⟩ -- RO

/-- TRI_INJECT (02_triads.md). -/
def triInject (i : Nat) : Nat := 0x20048 + 0x1000 * i
def triInject_GROUP : Fld := ⟨0, 4⟩ -- WO
def triInject_COPY : Fld := ⟨4, 2⟩ -- WO
def triInject_BIT : Fld := ⟨6, 7⟩ -- WO
def triInject_ARM : Fld := ⟨13, 1⟩ -- WO

/-- TRI_WDOG_CTL (02_triads.md). -/
def triWdogCtl (i : Nat) : Nat := 0x20050 + 0x1000 * i
def triWdogCtl_PERIOD : Fld := ⟨0, 16⟩ -- IMG
def triWdogCtl_ENABLE : Fld := ⟨16, 1⟩ -- IMG
def triWdogCtl_NEXT_KEY : Fld := ⟨17, 1⟩ -- RO

/-- TRI_WDOG_KICK (02_triads.md). -/
def triWdogKick (i : Nat) : Nat := 0x20058 + 0x1000 * i
def triWdogKick_KEY : Fld := ⟨0, 32⟩ -- WO

/-- IAU_SLOT_BASE (02_triads.md). -/
def iauSlotBase : Nat := 0x30000
def iauSlotBase_OFFSET : Fld := ⟨0, 18⟩ -- IMG

/-- IAU_TIME_WIN (02_triads.md). -/
def iauTimeWin : Nat := 0x30008
def iauTimeWin_WIN_NS : Fld := ⟨0, 8⟩ -- IMG

/-- IAU_PERSIST (02_triads.md). -/
def iauPersist : Nat := 0x30010
def iauPersist_POINTS : Fld := ⟨0, 4⟩ -- IMG

/-- IAU_Tn_CFG (02_triads.md). -/
def iauCfg (i : Nat) : Nat := 0x30100 + 0x20 * i
def iauCfg_SLOTS : Fld := ⟨0, 4⟩ -- IMG
def iauCfg_FIRST_SLOT : Fld := ⟨4, 10⟩ -- IMG

/-- IAU_Tn_CNT (02_triads.md). -/
def iauCnt (i : Nat) : Nat := 0x30108 + 0x20 * i
def iauCnt_AGREEMENTS : Fld := ⟨0, 32⟩ -- RO
def iauCnt_MINORITY : Fld := ⟨32, 16⟩ -- RO
def iauCnt_SLOT_STALLS : Fld := ⟨48, 16⟩ -- RO

/-- IAU_Tn_LAST (02_triads.md). -/
def iauLast (i : Nat) : Nat := 0x30110 + 0x20 * i
def iauLast_COUNT : Fld := ⟨0, 48⟩ -- RO
def iauLast_CLASS : Fld := ⟨48, 2⟩ -- RO
def iauLast_MINORITY : Fld := ⟨50, 3⟩ -- RO
def iauLast_DISAGREE : Fld := ⟨53, 1⟩ -- RO

/-- XLT_Cc_ROOT (05_translation_and_gates.md). -/
def xltRoot (i : Nat) : Nat := 0x50000 + 0x40 * i
def xltRoot_PPN : Fld := ⟨12, 32⟩ -- RWL
def xltRoot_LOCK : Fld := ⟨63, 1⟩ -- W1S

/-- XLT_Cc_ASID (05_translation_and_gates.md). -/
def xltAsid (i : Nat) : Nat := 0x50008 + 0x40 * i
def xltAsid_ASID : Fld := ⟨0, 16⟩ -- RW

/-- XLT_Cc_CFG (05_translation_and_gates.md). -/
def xltCfg (i : Nat) : Nat := 0x50010 + 0x40 * i
def xltCfg_PRIV : Fld := ⟨0, 1⟩ -- IMG

/-- XLT_Cc_STAT (05_translation_and_gates.md). -/
def xltStat (i : Nat) : Nat := 0x50018 + 0x40 * i
def xltStat_WALKS : Fld := ⟨0, 16⟩ -- RO
def xltStat_CAS_RESTARTS : Fld := ⟨16, 16⟩ -- RO
def xltStat_WALK_FAULTS : Fld := ⟨32, 16⟩ -- RO
def xltStat_TLB_EVICTS : Fld := ⟨48, 16⟩ -- RO

/-- XLT_Cc_OCC (05_translation_and_gates.md). -/
def xltOcc (i : Nat) : Nat := 0x50020 + 0x40 * i
def xltOcc_TLB_VALID : Fld := ⟨0, 11⟩ -- RO
def xltOcc_WC_VALID : Fld := ⟨16, 9⟩ -- RO
def xltOcc_WALKS_BUSY : Fld := ⟨25, 3⟩ -- RO

/-- XLT_PIN_TAG (05_translation_and_gates.md). -/
def xltPinTag (i j : Nat) : Nat := 0x51000 + 0x80 * i + 0x10 * j
def xltPinTag_SIZE : Fld := ⟨0, 2⟩ -- IMG
def xltPinTag_V : Fld := ⟨2, 1⟩ -- IMG
def xltPinTag_VPN : Fld := ⟨12, 36⟩ -- IMG
def xltPinTag_ASID : Fld := ⟨48, 16⟩ -- IMG

/-- XLT_PIN_PTE (05_translation_and_gates.md). -/
def xltPinPte (i j : Nat) : Nat := 0x51008 + 0x80 * i + 0x10 * j
def xltPinPte_PTE : Fld := ⟨0, 64⟩ -- IMG

/-- GATE_CTL (05_translation_and_gates.md). -/
def gateCtl (i : Nat) : Nat := 0x60000 + 0x800 * i
def gateCtl_LOCK_ALL : Fld := ⟨0, 1⟩ -- W1S
def gateCtl_CFG_FAILED : Fld := ⟨1, 1⟩ -- RO
def gateCtl_LOCKED : Fld := ⟨8, 6⟩ -- RO

/-- GATE_DRAIN (05_translation_and_gates.md). -/
def gateDrain (i : Nat) : Nat := 0x60008 + 0x800 * i
def gateDrain_WAITED : Fld := ⟨0, 32⟩ -- RO

/-- GATE_STAT (05_translation_and_gates.md). -/
def gateStat (i : Nat) : Nat := 0x60010 + 0x800 * i
def gateStat_DENIED : Fld := ⟨0, 32⟩ -- RO
def gateStat_LOG_COUNT : Fld := ⟨32, 4⟩ -- RO
def gateStat_LOG_OVF : Fld := ⟨36, 1⟩ -- RO

/-- GATE_LOG_CLR (05_translation_and_gates.md). -/
def gateLogClr (i : Nat) : Nat := 0x60018 + 0x800 * i
def gateLogClr_CLEAR : Fld := ⟨0, 1⟩ -- WO

/-- GATE_VLOGn_ADDR (05_translation_and_gates.md). -/
def gateVlogAddr (i j : Nat) : Nat := 0x60080 + 0x800 * i + 0x10 * j
def gateVlogAddr_PA : Fld := ⟨0, 44⟩ -- RO

/-- GATE_VLOGn_INFO (05_translation_and_gates.md). -/
def gateVlogInfo (i j : Nat) : Nat := 0x60088 + 0x800 * i + 0x10 * j
def gateVlogInfo_INITIATOR : Fld := ⟨0, 5⟩ -- RO
def gateVlogInfo_OP : Fld := ⟨5, 3⟩ -- RO
def gateVlogInfo_CAUSE : Fld := ⟨8, 2⟩ -- RO
def gateVlogInfo_VALID : Fld := ⟨10, 1⟩ -- RO
def gateVlogInfo_TIME_NS : Fld := ⟨24, 40⟩ -- RO

/-- GATE_RULEk_BASE (05_translation_and_gates.md). -/
def gateRuleBase (i j : Nat) : Nat := 0x60100 + 0x800 * i + 0x20 * j
def gateRuleBase_BASE : Fld := ⟨6, 38⟩ -- RWL

/-- GATE_RULEk_LIMIT (05_translation_and_gates.md). -/
def gateRuleLimit (i j : Nat) : Nat := 0x60108 + 0x800 * i + 0x20 * j
def gateRuleLimit_LIMIT : Fld := ⟨6, 38⟩ -- RWL

/-- GATE_RULEk_MASK (05_translation_and_gates.md). -/
def gateRuleMask (i j : Nat) : Nat := 0x60110 + 0x800 * i + 0x20 * j
def gateRuleMask_MASK : Fld := ⟨0, 32⟩ -- RWL

/-- GATE_RULEk_CTL (05_translation_and_gates.md). -/
def gateRuleCtl (i j : Nat) : Nat := 0x60118 + 0x800 * i + 0x20 * j
def gateRuleCtl_EN : Fld := ⟨0, 1⟩ -- RWL
def gateRuleCtl_R : Fld := ⟨1, 1⟩ -- RWL
def gateRuleCtl_W : Fld := ⟨2, 1⟩ -- RWL
def gateRuleCtl_F : Fld := ⟨3, 1⟩ -- RWL
def gateRuleCtl_LOCK : Fld := ⟨4, 1⟩ -- RWL
def gateRuleCtl_FROM_IMG : Fld := ⟨5, 1⟩ -- RO

/-- FUL_STATUS (06_fuller_programming.md). -/
def fulStatus : Nat := 0x40000
def fulStatus_SLICE_ON : Fld := ⟨0, 4⟩ -- RO
def fulStatus_SLICE_WAKE : Fld := ⟨4, 4⟩ -- RO
def fulStatus_WIN : Fld := ⟨8, 6⟩ -- RO
def fulStatus_SCHED_ACTIVE : Fld := ⟨14, 1⟩ -- RO
def fulStatus_GAP : Fld := ⟨15, 1⟩ -- RO

/-- FUL_SCHED_CFG (06_fuller_programming.md). -/
def fulSchedCfg : Nat := 0x40008
def fulSchedCfg_NWIN_M1 : Fld := ⟨0, 6⟩ -- IMG

/-- FUL_SCHED_T0 (06_fuller_programming.md). -/
def fulSchedT0 : Nat := 0x40010
def fulSchedT0_T0 : Fld := ⟨0, 64⟩ -- IMG

/-- FUL_SCHED_STAT (06_fuller_programming.md). -/
def fulSchedStat : Nat := 0x40018
def fulSchedStat_FRAMES : Fld := ⟨0, 32⟩ -- RO
def fulSchedStat_FRAME_US : Fld := ⟨32, 32⟩ -- RO

/-- FUL_PG_CTL (06_fuller_programming.md). -/
def fulPgCtl : Nat := 0x40020
def fulPgCtl_EN : Fld := ⟨0, 1⟩ -- RW
def fulPgCtl_IN_WINDOW : Fld := ⟨1, 1⟩ -- RW
def fulPgCtl_THRESH : Fld := ⟨16, 16⟩ -- RW

/-- FUL_PG_STAT (06_fuller_programming.md). -/
def fulPgStat : Nat := 0x40028
def fulPgStat_WAKES : Fld := ⟨0, 16⟩ -- RO
def fulPgStat_WAKE_STALLS : Fld := ⟨16, 16⟩ -- RO

/-- FUL_WIN0 to FUL_WIN63 (06_fuller_programming.md). -/
def fulWin (i : Nat) : Nat := 0x40400 + 0x8 * i
def fulWin_LEN : Fld := ⟨0, 16⟩ -- IMG
def fulWin_S0_CTX : Fld := ⟨16, 3⟩ -- IMG
def fulWin_S0_V : Fld := ⟨19, 1⟩ -- IMG
def fulWin_S1_CTX : Fld := ⟨20, 3⟩ -- IMG
def fulWin_S1_V : Fld := ⟨23, 1⟩ -- IMG
def fulWin_S2_CTX : Fld := ⟨24, 3⟩ -- IMG
def fulWin_S2_V : Fld := ⟨27, 1⟩ -- IMG
def fulWin_S3_CTX : Fld := ⟨28, 3⟩ -- IMG
def fulWin_S3_V : Fld := ⟨31, 1⟩ -- IMG

/-- FUL_Cc_BIND (06_fuller_programming.md). -/
def fulCBind (i : Nat) : Nat := 0x41000 + 0x100 * i
def fulCBind_VALID : Fld := ⟨0, 1⟩ -- IMG
def fulCBind_TRIAD : Fld := ⟨1, 4⟩ -- IMG
def fulCBind_PAIRED : Fld := ⟨5, 1⟩ -- IMG
def fulCBind_WDOG_US : Fld := ⟨6, 16⟩ -- IMG

/-- FUL_Cc_STATE (06_fuller_programming.md). -/
def fulCState (i : Nat) : Nat := 0x41008 + 0x100 * i
def fulCState_STATE : Fld := ⟨0, 3⟩ -- RO
def fulCState_QUEUED : Fld := ⟨3, 5⟩ -- RO
def fulCState_SLICES : Fld := ⟨8, 4⟩ -- RO
def fulCState_WAKE_WAIT : Fld := ⟨12, 1⟩ -- RO

/-- FUL_Cc_SEQ (06_fuller_programming.md). -/
def fulCSeq (i : Nat) : Nat := 0x41010 + 0x100 * i
def fulCSeq_ACCEPTED : Fld := ⟨0, 32⟩ -- RO
def fulCSeq_RETIRED : Fld := ⟨32, 32⟩ -- RO

/-- FUL_Cc_VTYPE (06_fuller_programming.md). -/
def fulCVtype (i : Nat) : Nat := 0x41018 + 0x100 * i
def fulCVtype_VL : Fld := ⟨0, 16⟩ -- RO
def fulCVtype_VTYPE : Fld := ⟨16, 10⟩ -- RO

/-- FUL_Cc_CTX_FAULT (06_fuller_programming.md). -/
def fulCCtxFault (i : Nat) : Nat := 0x41020 + 0x100 * i
def fulCCtxFault_SEQ : Fld := ⟨0, 32⟩ -- RO
def fulCCtxFault_CAUSE : Fld := ⟨32, 6⟩ -- RO
def fulCCtxFault_VALID : Fld := ⟨38, 1⟩ -- RO
def fulCCtxFault_WRITE : Fld := ⟨39, 1⟩ -- RO

/-- FUL_Cc_CTX_FAULT_ELEM (06_fuller_programming.md). -/
def fulCCtxFaultElem (i : Nat) : Nat := 0x41028 + 0x100 * i
def fulCCtxFaultElem_ELEM : Fld := ⟨0, 32⟩ -- RO

/-- FUL_Cc_CTX_FAULT_VA (06_fuller_programming.md). -/
def fulCCtxFaultVa (i : Nat) : Nat := 0x41030 + 0x100 * i
def fulCCtxFaultVa_VA : Fld := ⟨0, 48⟩ -- RO

/-- FUL_Cc_EVENT (06_fuller_programming.md). -/
def fulCEvent (i : Nat) : Nat := 0x41038 + 0x100 * i
def fulCEvent_EN : Fld := ⟨0, 6⟩ -- RW
def fulCEvent_PEND : Fld := ⟨8, 6⟩ -- W1C

/-- FUL_Cc_CTL (06_fuller_programming.md). -/
def fulCCtl (i : Nat) : Nat := 0x41040 + 0x100 * i
def fulCCtl_CLEAR : Fld := ⟨0, 1⟩ -- WO

/-- FUL_Cc_FFLAGS (06_fuller_programming.md). -/
def fulCFflags (i : Nat) : Nat := 0x41048 + 0x100 * i
def fulCFflags_FLAGS : Fld := ⟨0, 5⟩ -- W1C

/-- FUL_Cc_CNT (06_fuller_programming.md). -/
def fulCCnt (i : Nat) : Nat := 0x41050 + 0x100 * i
def fulCCnt_COMPLETED : Fld := ⟨0, 32⟩ -- RO
def fulCCnt_CANCELLED : Fld := ⟨32, 16⟩ -- RO
def fulCCnt_DEFERRED : Fld := ⟨48, 16⟩ -- RO

/-- FUL_Cc_WDOG (06_fuller_programming.md). -/
def fulCWdog (i : Nat) : Nat := 0x41058 + 0x100 * i
def fulCWdog_EPOCH : Fld := ⟨0, 8⟩ -- RO
def fulCWdog_ELAPSED : Fld := ⟨8, 16⟩ -- RO
def fulCWdog_EXPIRIES : Fld := ⟨24, 16⟩ -- RO

/-- FUL_Cc_STRM_STAT (07_fuller_streams.md). -/
def fulCStrmStat (i : Nat) : Nat := 0x41060 + 0x100 * i
def fulCStrmStat_PHASE : Fld := ⟨0, 3⟩ -- RO
def fulCStrmStat_FF_CAUSE : Fld := ⟨3, 6⟩ -- RO
def fulCStrmStat_TAG : Fld := ⟨16, 16⟩ -- RO
def fulCStrmStat_SEQ : Fld := ⟨32, 32⟩ -- RO

/-- FUL_Cc_STRM_POS (07_fuller_streams.md). -/
def fulCStrmPos (i : Nat) : Nat := 0x41068 + 0x100 * i
def fulCStrmPos_DONE : Fld := ⟨0, 32⟩ -- RO
def fulCStrmPos_LOADED : Fld := ⟨32, 32⟩ -- RO

/-- FUL_Cc_STRM_CNT (07_fuller_streams.md). -/
def fulCStrmCnt (i : Nat) : Nat := 0x41070 + 0x100 * i
def fulCStrmCnt_COUNT_M1 : Fld := ⟨0, 32⟩ -- RO
def fulCStrmCnt_SUSPENDS : Fld := ⟨32, 16⟩ -- RO
def fulCStrmCnt_MARKS : Fld := ⟨48, 16⟩ -- RO

/-- FUL_Cc_STAGE (07_fuller_streams.md). -/
def fulCStage (i : Nat) : Nat := 0x41078 + 0x100 * i
def fulCStage_BASE : Fld := ⟨12, 14⟩ -- IMG
def fulCStage_SIZE : Fld := ⟨32, 10⟩ -- IMG

/-- FUL_Cc_TAGS (07_fuller_streams.md). -/
def fulCTags (i : Nat) : Nat := 0x41080 + 0x100 * i
def fulCTags_MIN : Fld := ⟨0, 12⟩ -- IMG
def fulCTags_MAX : Fld := ⟨16, 12⟩ -- IMG
def fulCTags_IN_USE : Fld := ⟨32, 12⟩ -- RO
def fulCTags_STALLS : Fld := ⟨48, 16⟩ -- RO

/-- FUL_Cc_CHECK_CNT (07_fuller_streams.md). -/
def fulCCheckCnt (i : Nat) : Nat := 0x41088 + 0x100 * i
def fulCCheckCnt_RESIDUE : Fld := ⟨0, 16⟩ -- RO
def fulCCheckCnt_PAIRED_MM : Fld := ⟨16, 16⟩ -- RO
def fulCCheckCnt_POISON_OUT : Fld := ⟨32, 16⟩ -- RO
def fulCCheckCnt_POISON_SET : Fld := ⟨48, 16⟩ -- RO

/-- FUL_Cc_CHECK_LAST (07_fuller_streams.md). -/
def fulCCheckLast (i : Nat) : Nat := 0x41090 + 0x100 * i
def fulCCheckLast_SEQ : Fld := ⟨0, 32⟩ -- RO
def fulCCheckLast_UNIT : Fld := ⟨32, 3⟩ -- RO
def fulCCheckLast_SLICE : Fld := ⟨35, 2⟩ -- RO
def fulCCheckLast_MISMATCH : Fld := ⟨37, 1⟩ -- RO
def fulCCheckLast_VALID : Fld := ⟨38, 1⟩ -- W1C

/-- MEM_SS_PWR0 to MEM_SS_PWR3 (08_on_chip_and_dram.md). -/
def memSsPwr (i : Nat) : Nat := 0x70000 + 0x8 * i
def memSsPwr_ON : Fld := ⟨0, 64⟩ -- RW

/-- MEM_SS_LOWMODE0 to MEM_SS_LOWMODE3 (08_on_chip_and_dram.md). -/
def memSsLowmode (i : Nat) : Nat := 0x70020 + 0x8 * i
def memSsLowmode_OFF : Fld := ⟨0, 64⟩ -- IMG

/-- MEM_SS_STATE0 to MEM_SS_STATE7 (08_on_chip_and_dram.md). -/
def memSsState (i : Nat) : Nat := 0x70040 + 0x8 * i
/-- MEM_SS_STATE0 to MEM_SS_STATE7.STATEk (RO), 32 entries of 2 bits: entry k. -/
def memSsState_STATEk (k : Nat) : Fld := ⟨2 * k, 2⟩

/-- MEM_ROT_STAT (08_on_chip_and_dram.md). -/
def memRotStat : Nat := 0x70210
def memRotStat_SS_ACTIVE : Fld := ⟨0, 1⟩ -- RO
def memRotStat_SS_BANK : Fld := ⟨1, 8⟩ -- RO
def memRotStat_SS_PHASE : Fld := ⟨9, 3⟩ -- RO
def memRotStat_CR_ACTIVE : Fld := ⟨12, 1⟩ -- RO
def memRotStat_CR_BANK : Fld := ⟨13, 4⟩ -- RO
def memRotStat_CR_PHASE : Fld := ⟨17, 3⟩ -- RO
def memRotStat_SS_DONE : Fld := ⟨32, 16⟩ -- RO
def memRotStat_CR_DONE : Fld := ⟨48, 16⟩ -- RO

/-- MEM_STAT (08_on_chip_and_dram.md). -/
def memStat : Nat := 0x70218
def memStat_DEMAND_WAKES : Fld := ⟨0, 16⟩ -- RO
def memStat_CR_DELAYED : Fld := ⟨16, 32⟩ -- RO
def memStat_SS_DEGRADED : Fld := ⟨48, 5⟩ -- RO

/-- MEM_CR_PART0 to MEM_CR_PART15 (08_on_chip_and_dram.md). -/
def memCrPart (i : Nat) : Nat := 0x70400 + 0x8 * i
def memCrPart_BASE : Fld := ⟨0, 4⟩ -- IMG
def memCrPart_BANKS : Fld := ⟨4, 4⟩ -- IMG
def memCrPart_KIND : Fld := ⟨8, 3⟩ -- IMG
def memCrPart_VALID : Fld := ⟨11, 1⟩ -- IMG

/-- MEM_CR_RING0 to MEM_CR_RING63 (08_on_chip_and_dram.md). -/
def memCrRing (i : Nat) : Nat := 0x70800 + 0x8 * i
def memCrRing_BASE : Fld := ⟨0, 6⟩ -- IMG
def memCrRing_SIZE : Fld := ⟨6, 6⟩ -- IMG
def memCrRing_OWNER : Fld := ⟨12, 4⟩ -- IMG
def memCrRing_DOORBELL : Fld := ⟨16, 6⟩ -- IMG
def memCrRing_VALID : Fld := ⟨22, 1⟩ -- IMG
def memCrRing_SERVICE_US : Fld := ⟨32, 16⟩ -- IMG

/-- MEM_SS_MAPg_LO (08_on_chip_and_dram.md). -/
def memSsMapLo (i : Nat) : Nat := 0x70100 + 0x10 * i
/-- MEM_SS_MAPg_LO.PHYSk (RO), 12 entries of 5 bits: entry k. -/
def memSsMapLo_PHYSk (k : Nat) : Fld := ⟨5 * k, 5⟩

/-- MEM_SS_MAPg_HI (08_on_chip_and_dram.md). -/
def memSsMapHi (i : Nat) : Nat := 0x70108 + 0x10 * i
/-- MEM_SS_MAPg_HI.PHYS(12 + j) (RO), 4 entries of 5 bits: entry k. -/
def memSsMapHi_PHYS (k : Nat) : Fld := ⟨5 * k, 5⟩
def memSsMapHi_SPARE : Fld := ⟨20, 5⟩ -- RO
def memSsMapHi_DEGRADED : Fld := ⟨25, 1⟩ -- RO
def memSsMapHi_FAILED : Fld := ⟨26, 5⟩ -- RO

/-- MEM_CR_MAP (08_on_chip_and_dram.md). -/
def memCrMap : Nat := 0x70200
/-- MEM_CR_MAP.PHYSk (RO), 15 entries of 4 bits: entry k. -/
def memCrMap_PHYSk (k : Nat) : Fld := ⟨4 * k, 4⟩

/-- MEM_CR_SPARE (08_on_chip_and_dram.md). -/
def memCrSpare : Nat := 0x70208
def memCrSpare_SPARE : Fld := ⟨0, 4⟩ -- RO
def memCrSpare_DEGRADED : Fld := ⟨4, 1⟩ -- RO
def memCrSpare_FAILED : Fld := ⟨5, 4⟩ -- RO

/-- DDR_CFG (08_on_chip_and_dram.md). -/
def ddrCfg : Nat := 0x90000
def ddrCfg_CAP : Fld := ⟨0, 2⟩ -- IMG
def ddrCfg_RANKS : Fld := ⟨2, 1⟩ -- IMG

/-- DDR_STATUS (08_on_chip_and_dram.md). -/
def ddrStatus : Nat := 0x90008
def ddrStatus_TRAINED : Fld := ⟨0, 1⟩ -- RO
def ddrStatus_CH_OK : Fld := ⟨1, 16⟩ -- RO
def ddrStatus_DERATED : Fld := ⟨17, 1⟩ -- RO
def ddrStatus_ZOD_FAILED : Fld := ⟨18, 1⟩ -- RO

/-- DDR_ZOD_CTL (08_on_chip_and_dram.md). -/
def ddrZodCtl : Nat := 0x90010
def ddrZodCtl_BG_EN : Fld := ⟨0, 1⟩ -- RW
def ddrZodCtl_RATE : Fld := ⟨1, 10⟩ -- RW

/-- DDR_ZOD_STAT (08_on_chip_and_dram.md). -/
def ddrZodStat : Nat := 0x90018
def ddrZodStat_UNCLEARED : Fld := ⟨0, 21⟩ -- RO
def ddrZodStat_DEMAND : Fld := ⟨32, 16⟩ -- RO

/-- DDR_ZOD_RANGE0 to DDR_ZOD_RANGE3 (08_on_chip_and_dram.md). -/
def ddrZodRange (i : Nat) : Nat := 0x90020 + 0x8 * i
def ddrZodRange_FIRST_REGION : Fld := ⟨0, 20⟩ -- IMG
def ddrZodRange_REGIONS : Fld := ⟨20, 20⟩ -- IMG
def ddrZodRange_MODE : Fld := ⟨40, 2⟩ -- IMG

/-- DDR_ZOD_PROBE (08_on_chip_and_dram.md). -/
def ddrZodProbe : Nat := 0x90040
def ddrZodProbe_REGION : Fld := ⟨0, 20⟩ -- RW
def ddrZodProbe_CLEARED : Fld := ⟨20, 1⟩ -- RO

/-- DDR_CHn_STAT (08_on_chip_and_dram.md). -/
def ddrChStat (i : Nat) : Nat := 0x90100 + 0x8 * i
def ddrChStat_REFRESH : Fld := ⟨0, 3⟩ -- RO
def ddrChStat_DERATED : Fld := ⟨3, 1⟩ -- RO
def ddrChStat_BUSY : Fld := ⟨4, 7⟩ -- RO

/-- DDR_TRAIN_STAT (14_wake_boot_and_image.md). -/
def ddrTrainStat : Nat := 0x90200
def ddrTrainStat_DONE : Fld := ⟨0, 1⟩ -- RO
def ddrTrainStat_FULL : Fld := ⟨1, 16⟩ -- RO
def ddrTrainStat_FAILED : Fld := ⟨17, 16⟩ -- RO
def ddrTrainStat_TIME_US : Fld := ⟨33, 18⟩ -- RO

/-- DDR_TRAIN_SAVED (14_wake_boot_and_image.md). -/
def ddrTrainSaved : Nat := 0x90208
def ddrTrainSaved_VALID : Fld := ⟨0, 1⟩ -- RO
def ddrTrainSaved_CFG : Fld := ⟨1, 3⟩ -- RO
def ddrTrainSaved_TJ : Fld := ⟨4, 8⟩ -- RO
def ddrTrainSaved_SAVES : Fld := ⟨12, 16⟩ -- RO

/-- DDR_TRAIN_CHn (14_wake_boot_and_image.md). -/
def ddrTrainCh (i : Nat) : Nat := 0x90210 + 0x8 * i
def ddrTrainCh_READ_EYE_PS : Fld := ⟨0, 10⟩ -- RO
def ddrTrainCh_WRITE_EYE_PS : Fld := ⟨10, 10⟩ -- RO
def ddrTrainCh_VREF_MARGIN : Fld := ⟨20, 8⟩ -- RO
def ddrTrainCh_FAST_REJECTED : Fld := ⟨28, 1⟩ -- RO

/-- EDC_CTL (09_stored_data_protection.md). -/
def edcCtl : Nat := 0x80000
def edcCtl_COMPAT7300 : Fld := ⟨0, 1⟩ -- RWL
def edcCtl_AUTO_REMAP : Fld := ⟨1, 1⟩ -- RWL
def edcCtl_LOCK : Fld := ⟨2, 1⟩ -- W1S
def edcCtl_LOG_CLR : Fld := ⟨8, 5⟩ -- WO

/-- EDC_CE_THRESH (09_stored_data_protection.md). -/
def edcCeThresh : Nat := 0x80008
def edcCeThresh_SSRAM : Fld := ⟨0, 8⟩ -- RW
def edcCeThresh_CROWN : Fld := ⟨8, 8⟩ -- RW
def edcCeThresh_CODE : Fld := ⟨16, 8⟩ -- RW
def edcCeThresh_DRAM : Fld := ⟨24, 8⟩ -- RW

/-- EDC_CLASSk_CNT (09_stored_data_protection.md). -/
def edcClassCnt (i : Nat) : Nat := 0x80040 + 0x10 * i
def edcClassCnt_CE : Fld := ⟨0, 32⟩ -- RO
def edcClassCnt_UE : Fld := ⟨32, 16⟩ -- RO
def edcClassCnt_EVICTS : Fld := ⟨48, 8⟩ -- RO
def edcClassCnt_NOMINATED : Fld := ⟨56, 8⟩ -- RO

/-- EDC_CLASSk_UE_FIRST (09_stored_data_protection.md). -/
def edcClassUeFirst (i : Nat) : Nat := 0x80048 + 0x10 * i
def edcClassUeFirst_ADDR : Fld := ⟨0, 44⟩ -- RO
def edcClassUeFirst_VALID : Fld := ⟨63, 1⟩ -- W1C

/-- EDC_INJ_CTL (09_stored_data_protection.md). -/
def edcInjCtl : Nat := 0x80100
def edcInjCtl_CLASS : Fld := ⟨0, 3⟩ -- RW
def edcInjCtl_ADDR_MATCH : Fld := ⟨3, 1⟩ -- RW
def edcInjCtl_ARM : Fld := ⟨4, 1⟩ -- W1S
def edcInjCtl_FIRED : Fld := ⟨5, 1⟩ -- W1C

/-- EDC_INJ_ADDR (09_stored_data_protection.md). -/
def edcInjAddr : Nat := 0x80108
def edcInjAddr_ADDR : Fld := ⟨3, 41⟩ -- RW

/-- EDC_FLIP_DATA (09_stored_data_protection.md). -/
def edcFlipData : Nat := 0x80110
def edcFlipData_MASK : Fld := ⟨0, 64⟩ -- RW

/-- EDC_FLIP_CHECK (09_stored_data_protection.md). -/
def edcFlipCheck : Nat := 0x80118
def edcFlipCheck_MASK : Fld := ⟨0, 64⟩ -- RW

/-- EDC_SCRUB_BASE (09_stored_data_protection.md). -/
def edcScrubBase : Nat := 0x80200
def edcScrubBase_BASE : Fld := ⟨6, 38⟩ -- RW

/-- EDC_SCRUB_LEN (09_stored_data_protection.md). -/
def edcScrubLen : Nat := 0x80208
def edcScrubLen_LEN : Fld := ⟨6, 36⟩ -- RW

/-- EDC_SCRUB_GO (09_stored_data_protection.md). -/
def edcScrubGo : Nat := 0x80210
def edcScrubGo_GO : Fld := ⟨0, 1⟩ -- WO
def edcScrubGo_ABORT : Fld := ⟨1, 1⟩ -- WO

/-- EDC_SCRUB_CFG (09_stored_data_protection.md). -/
def edcScrubCfg : Nat := 0x80218
def edcScrubCfg_RATE : Fld := ⟨0, 10⟩ -- RW

/-- EDC_SCRUB_POS (09_stored_data_protection.md). -/
def edcScrubPos : Nat := 0x80220
def edcScrubPos_POS : Fld := ⟨6, 38⟩ -- RO
def edcScrubPos_PCT : Fld := ⟨44, 7⟩ -- RO
def edcScrubPos_STATE : Fld := ⟨51, 3⟩ -- RO

/-- EDC_SCRUB_SUM (09_stored_data_protection.md). -/
def edcScrubSum : Nat := 0x80228
def edcScrubSum_CE : Fld := ⟨0, 24⟩ -- RO
def edcScrubSum_UE : Fld := ⟨24, 16⟩ -- RO
def edcScrubSum_REMAPS : Fld := ⟨40, 8⟩ -- RO
def edcScrubSum_SKIPPED : Fld := ⟨48, 16⟩ -- RO

/-- EDC_SCRUB_FIRST_UE (09_stored_data_protection.md). -/
def edcScrubFirstUe : Nat := 0x80230
def edcScrubFirstUe_ADDR : Fld := ⟨0, 44⟩ -- RO
def edcScrubFirstUe_VALID : Fld := ⟨63, 1⟩ -- RO

/-- EDC_LOGk_n_ADDR (09_stored_data_protection.md). -/
def edcLogAddr (i j : Nat) : Nat := 0x81000 + 0x200 * i + 0x10 * j
def edcLogAddr_ADDR : Fld := ⟨0, 44⟩ -- RO

/-- EDC_LOGk_n_INFO (09_stored_data_protection.md). -/
def edcLogInfo (i j : Nat) : Nat := 0x81008 + 0x200 * i + 0x10 * j
def edcLogInfo_SYNDROME : Fld := ⟨0, 8⟩ -- RO
def edcLogInfo_COUNT : Fld := ⟨8, 8⟩ -- RO
def edcLogInfo_NOMINATED : Fld := ⟨16, 1⟩ -- RO
def edcLogInfo_REMAPPED : Fld := ⟨17, 1⟩ -- RO
def edcLogInfo_VALID : Fld := ⟨18, 1⟩ -- RO
def edcLogInfo_TIME_NS : Fld := ⟨24, 40⟩ -- RO

/-- EDC_REMAPi_e (09_stored_data_protection.md). -/
def edcRemap (i j : Nat) : Nat := 0x84000 + 0x40 * i + 0x8 * j
def edcRemap_ADDR : Fld := ⟨3, 41⟩ -- RO
def edcRemap_SPARE : Fld := ⟨44, 3⟩ -- RO
def edcRemap_VALID : Fld := ⟨47, 1⟩ -- RO
def edcRemap_LOCK : Fld := ⟨48, 1⟩ -- W1S
def edcRemap_RESTORED : Fld := ⟨49, 1⟩ -- RO

/-- ETH_CFG (10_backbone_ports.md). -/
def ethCfg (i : Nat) : Nat := 0xa0000 + 0x10000 * i
def ethCfg_MODE : Fld := ⟨0, 2⟩ -- IMG
def ethCfg_MAC_EN : Fld := ⟨2, 4⟩ -- IMG
def ethCfg_PREEMPT_EN : Fld := ⟨6, 4⟩ -- IMG
def ethCfg_VERIFY_EN : Fld := ⟨10, 4⟩ -- IMG
def ethCfg_ADD_FRAG : Fld := ⟨14, 2⟩ -- IMG
def ethCfg_MAX_FRAME : Fld := ⟨16, 14⟩ -- IMG

/-- ETH_STATUS (10_backbone_ports.md). -/
def ethStatus (i : Nat) : Nat := 0xa0008 + 0x10000 * i
def ethStatus_LANE_LOCK : Fld := ⟨0, 4⟩ -- RO
def ethStatus_LINK_UP : Fld := ⟨4, 4⟩ -- RO
def ethStatus_PREEMPT_ACTIVE : Fld := ⟨8, 4⟩ -- RO
def ethStatus_GCL_PENDING : Fld := ⟨12, 1⟩ -- RO
def ethStatus_OPER_BANK : Fld := ⟨13, 1⟩ -- RO

/-- ETH_GCL_BASE (10_backbone_ports.md). -/
def ethGclBase (i : Nat) : Nat := 0xa0010 + 0x10000 * i
def ethGclBase_BASE_NS : Fld := ⟨0, 64⟩ -- RW

/-- ETH_GCL_CTL (10_backbone_ports.md). -/
def ethGclCtl (i : Nat) : Nat := 0xa0018 + 0x10000 * i
def ethGclCtl_CYCLE_NS : Fld := ⟨0, 32⟩ -- RW
def ethGclCtl_LEN_M1 : Fld := ⟨32, 8⟩ -- RW
def ethGclCtl_ENABLE : Fld := ⟨40, 1⟩ -- RW
def ethGclCtl_CHANGE : Fld := ⟨41, 1⟩ -- W1S

/-- ETH_GCLk (10_backbone_ports.md). -/
def ethGcl (i j k : Nat) : Nat := 0xa0800 + 0x10000 * i + 0x800 * j + 0x8 * k
def ethGcl_GATES : Fld := ⟨0, 32⟩ -- RW
def ethGcl_INTERVAL_NS : Fld := ⟨32, 32⟩ -- RW

/-- ETH_MSEC_CTL (10_backbone_ports.md). -/
def ethMsecCtl (i : Nat) : Nat := 0xa2000 + 0x10000 * i
def ethMsecCtl_TX_EN : Fld := ⟨0, 4⟩ -- RW
def ethMsecCtl_RX_STRICT : Fld := ⟨4, 4⟩ -- RW
def ethMsecCtl_REPLAY_WIN : Fld := ⟨8, 16⟩ -- RW
def ethMsecCtl_ICV_THRESH : Fld := ⟨24, 8⟩ -- RW
def ethMsecCtl_TX_AN_M0 : Fld := ⟨32, 2⟩ -- RW
def ethMsecCtl_TX_AN_M1_M3 : Fld := ⟨34, 6⟩ -- RW

/-- ETH_MACm_TC (10_backbone_ports.md). -/
def ethMacTc (i j : Nat) : Nat := 0xa0100 + 0x10000 * i + 0x20 * j
def ethMacTc_EXPRESS : Fld := ⟨0, 8⟩ -- IMG

/-- ETH_MACm_RXCNT (10_backbone_ports.md). -/
def ethMacRxcnt (i j : Nat) : Nat := 0xa0108 + 0x10000 * i + 0x20 * j
def ethMacRxcnt_RX_FRAMES : Fld := ⟨0, 32⟩ -- RO
def ethMacRxcnt_RX_DISCARD : Fld := ⟨32, 32⟩ -- RO

/-- ETH_MACm_MSCNT (10_backbone_ports.md). -/
def ethMacMscnt (i j : Nat) : Nat := 0xa0110 + 0x10000 * i + 0x20 * j
def ethMacMscnt_ICV_FAIL : Fld := ⟨0, 32⟩ -- RO
def ethMacMscnt_REPLAY : Fld := ⟨32, 16⟩ -- RO
def ethMacMscnt_NO_SA : Fld := ⟨48, 16⟩ -- RO

/-- ETH_MACm_TXCNT (10_backbone_ports.md). -/
def ethMacTxcnt (i j : Nat) : Nat := 0xa0118 + 0x10000 * i + 0x20 * j
def ethMacTxcnt_TX_FRAMES : Fld := ⟨0, 32⟩ -- RO
def ethMacTxcnt_PREEMPTED : Fld := ⟨32, 16⟩ -- RO

/-- ETH_TXQq_BASE (10_backbone_ports.md). -/
def ethTxqBase (i j : Nat) : Nat := 0xa0400 + 0x10000 * i + 0x20 * j
def ethTxqBase_BASE : Fld := ⟨5, 39⟩ -- IMG

/-- ETH_TXQq_CFG (10_backbone_ports.md). -/
def ethTxqCfg (i j : Nat) : Nat := 0xa0408 + 0x10000 * i + 0x20 * j
def ethTxqCfg_ENTRIES : Fld := ⟨0, 16⟩ -- IMG

/-- ETH_TXQq_TAIL (10_backbone_ports.md). -/
def ethTxqTail (i j : Nat) : Nat := 0xa0410 + 0x10000 * i + 0x20 * j
def ethTxqTail_TAIL : Fld := ⟨0, 16⟩ -- RW

/-- ETH_TXQq_HEAD (10_backbone_ports.md). -/
def ethTxqHead (i j : Nat) : Nat := 0xa0418 + 0x10000 * i + 0x20 * j
def ethTxqHead_HEAD : Fld := ⟨0, 16⟩ -- RO

/-- ETH_MSEC_SEL (10_backbone_ports.md). -/
def ethMsecSel (i : Nat) : Nat := 0xa2008 + 0x10000 * i
def ethMsecSel_MAC : Fld := ⟨0, 2⟩ -- RW
def ethMsecSel_DIR : Fld := ⟨2, 1⟩ -- RW
def ethMsecSel_SC : Fld := ⟨3, 2⟩ -- RW
def ethMsecSel_AN : Fld := ⟨5, 2⟩ -- RW

/-- ETH_MSEC_SCI (10_backbone_ports.md). -/
def ethMsecSci (i : Nat) : Nat := 0xa2010 + 0x10000 * i
def ethMsecSci_SCI : Fld := ⟨0, 64⟩ -- RW

/-- ETH_MSEC_KEYn (10_backbone_ports.md). -/
def ethMsecKey (i j : Nat) : Nat := 0xa2018 + 0x10000 * i + 0x8 * j
def ethMsecKey_KEY : Fld := ⟨0, 64⟩ -- WO

/-- ETH_MSEC_SALT0 (10_backbone_ports.md). -/
def ethMsecSalt0 (i : Nat) : Nat := 0xa2038 + 0x10000 * i
def ethMsecSalt0_SALT : Fld := ⟨0, 64⟩ -- WO

/-- ETH_MSEC_SALT1 (10_backbone_ports.md). -/
def ethMsecSalt1 (i : Nat) : Nat := 0xa2040 + 0x10000 * i
def ethMsecSalt1_SALT : Fld := ⟨0, 32⟩ -- WO
def ethMsecSalt1_SSCI : Fld := ⟨32, 32⟩ -- WO

/-- ETH_MSEC_PN (10_backbone_ports.md). -/
def ethMsecPn (i : Nat) : Nat := 0xa2048 + 0x10000 * i
def ethMsecPn_PN : Fld := ⟨0, 64⟩ -- RW

/-- ETH_MSEC_INSTALL (10_backbone_ports.md). -/
def ethMsecInstall (i : Nat) : Nat := 0xa2050 + 0x10000 * i
def ethMsecInstall_INSTALL : Fld := ⟨0, 1⟩ -- WO
def ethMsecInstall_RETIRE : Fld := ⟨1, 1⟩ -- WO

/-- ADM_CFG (10_backbone_ports.md). -/
def admCfg : Nat := 0xc0000
def admCfg_DEFAULT : Fld := ⟨0, 10⟩ -- IMG
def admCfg_DEFAULT_EN : Fld := ⟨10, 1⟩ -- IMG
def admCfg_RT_ADMIT : Fld := ⟨11, 1⟩ -- IMG

/-- ADM_BUDGET (10_backbone_ports.md). -/
def admBudget : Nat := 0xc0008
def admBudget_P0_MBPS : Fld := ⟨0, 32⟩ -- IMG
def admBudget_P1_MBPS : Fld := ⟨32, 32⟩ -- IMG

/-- ADM_BUDGET_USED (10_backbone_ports.md). -/
def admBudgetUsed : Nat := 0xc0010
def admBudgetUsed_P0_MBPS : Fld := ⟨0, 32⟩ -- RO
def admBudgetUsed_P1_MBPS : Fld := ⟨32, 32⟩ -- RO

/-- ADM_STAT (10_backbone_ports.md). -/
def admStat : Nat := 0xc0018
def admStat_UNIDENTIFIED : Fld := ⟨0, 32⟩ -- RO
def admStat_POLICED : Fld := ⟨32, 32⟩ -- RO

/-- ADM_POLICE_THRESH (10_backbone_ports.md). -/
def admPoliceThresh : Nat := 0xc0020
def admPoliceThresh_PER_MS : Fld := ⟨0, 16⟩ -- RW

/-- ADM_REQ_W0 to W2 (10_backbone_ports.md). -/
def admReqW (i : Nat) : Nat := 0xc0100 + 0x8 * i
def admReqW_STAGED : Fld := ⟨0, 64⟩ -- RW

/-- ADM_REQ_CTL (10_backbone_ports.md). -/
def admReqCtl : Nat := 0xc0118
def admReqCtl_INDEX : Fld := ⟨0, 10⟩ -- WO
def admReqCtl_OP : Fld := ⟨10, 2⟩ -- WO
def admReqCtl_GO : Fld := ⟨12, 1⟩ -- WO

/-- ADM_REQ_STATUS (10_backbone_ports.md). -/
def admReqStatus : Nat := 0xc0120
def admReqStatus_BUSY : Fld := ⟨0, 1⟩ -- RO
def admReqStatus_CODE : Fld := ⟨1, 4⟩ -- RO

/-- ADM_RINGn_PTR (10_backbone_ports.md). -/
def admRingPtr (i : Nat) : Nat := 0xc0400 + 0x8 * i
def admRingPtr_PROD : Fld := ⟨0, 18⟩ -- RO
def admRingPtr_CONS : Fld := ⟨24, 18⟩ -- RW
def admRingPtr_DROPS : Fld := ⟨48, 16⟩ -- RO

/-- ADM_SRINGn_CFG (10_backbone_ports.md). -/
def admSringCfg (i : Nat) : Nat := 0xc0800 + 0x20 * i
def admSringCfg_BASE : Fld := ⟨0, 14⟩ -- IMG
def admSringCfg_SIZE : Fld := ⟨14, 15⟩ -- IMG
def admSringCfg_OWNER : Fld := ⟨29, 4⟩ -- IMG
def admSringCfg_DOORBELL : Fld := ⟨33, 6⟩ -- IMG
def admSringCfg_DB_EN : Fld := ⟨39, 1⟩ -- IMG
def admSringCfg_VALID : Fld := ⟨40, 1⟩ -- IMG
def admSringCfg_SERVICE_US : Fld := ⟨41, 16⟩ -- IMG

/-- ADM_SRINGn_PTR (10_backbone_ports.md). -/
def admSringPtr (i : Nat) : Nat := 0xc0808 + 0x20 * i
def admSringPtr_PROD : Fld := ⟨0, 28⟩ -- RO
def admSringPtr_CONS : Fld := ⟨30, 28⟩ -- RW

/-- ADM_SRINGn_DROPS (10_backbone_ports.md). -/
def admSringDrops (i : Nat) : Nat := 0xc0810 + 0x20 * i
def admSringDrops_DROPS : Fld := ⟨0, 32⟩ -- RO

/-- ADM_CBFf_CFG (10_backbone_ports.md). -/
def admCbfCfg (i : Nat) : Nat := 0xc1000 + 0x10 * i
def admCbfCfg_HIST : Fld := ⟨0, 6⟩ -- IMG
def admCbfCfg_VALID : Fld := ⟨6, 1⟩ -- IMG
def admCbfCfg_RESET_US : Fld := ⟨8, 24⟩ -- IMG

/-- ADM_CBFf_STAT (10_backbone_ports.md). -/
def admCbfStat (i : Nat) : Nat := 0xc1008 + 0x10 * i
def admCbfStat_PASSED : Fld := ⟨0, 32⟩ -- RO
def admCbfStat_DISCARDED : Fld := ⟨32, 16⟩ -- RO
def admCbfStat_RESETS : Fld := ⟨48, 16⟩ -- RO

/-- ADM_ENTRYn_ID (10_backbone_ports.md). -/
def admEntryId (i : Nat) : Nat := 0xc8000 + 0x20 * i
def admEntryId_MAC : Fld := ⟨0, 48⟩ -- RO
def admEntryId_VID : Fld := ⟨48, 12⟩ -- RO
def admEntryId_METHOD : Fld := ⟨60, 2⟩ -- RO
def admEntryId_PORT : Fld := ⟨62, 2⟩ -- RO

/-- ADM_ENTRYn_CONTRACT (10_backbone_ports.md). -/
def admEntryContract (i : Nat) : Nat := 0xc8008 + 0x20 * i
def admEntryContract_MAX_SDU : Fld := ⟨0, 14⟩ -- RO
def admEntryContract_K : Fld := ⟨14, 10⟩ -- RO
def admEntryContract_INTERVAL : Fld := ⟨24, 24⟩ -- RO

/-- ADM_ENTRYn_DEST (10_backbone_ports.md). -/
def admEntryDest (i : Nat) : Nat := 0xc8010 + 0x20 * i
def admEntryDest_CLASS : Fld := ⟨0, 2⟩ -- RO
def admEntryDest_DEST : Fld := ⟨2, 2⟩ -- RO
def admEntryDest_RING : Fld := ⟨4, 6⟩ -- RO
def admEntryDest_RECORD : Fld := ⟨10, 1⟩ -- RO
def admEntryDest_CB_EN : Fld := ⟨11, 1⟩ -- RO
def admEntryDest_CBF : Fld := ⟨12, 9⟩ -- RO
def admEntryDest_VALID : Fld := ⟨21, 1⟩ -- RO
def admEntryDest_FROM_IMG : Fld := ⟨22, 1⟩ -- RO
def admEntryDest_OWNER : Fld := ⟨23, 4⟩ -- RO

/-- ADM_ENTRYn_CNT (10_backbone_ports.md). -/
def admEntryCnt (i : Nat) : Nat := 0xc8018 + 0x20 * i
def admEntryCnt_ADMITTED : Fld := ⟨0, 32⟩ -- RO
def admEntryCnt_POLICED : Fld := ⟨32, 32⟩ -- RO

/-- DHP_CFG (11_host_protocol_and_recorder.md). -/
def dhpCfg : Nat := 0xd0000
def dhpCfg_UDP : Fld := ⟨0, 1⟩ -- IMG
def dhpCfg_UDP_PORT : Fld := ⟨1, 16⟩ -- IMG
def dhpCfg_TC : Fld := ⟨17, 3⟩ -- IMG
def dhpCfg_IDLE_MS : Fld := ⟨20, 16⟩ -- IMG

/-- DHP_ADDR (11_host_protocol_and_recorder.md). -/
def dhpAddr : Nat := 0xd0008
def dhpAddr_MAC : Fld := ⟨0, 48⟩ -- IMG

/-- DHP_IPADDR (11_host_protocol_and_recorder.md). -/
def dhpIpaddr : Nat := 0xd0010
def dhpIpaddr_IPV4 : Fld := ⟨0, 32⟩ -- IMG

/-- DHP_AREA (11_host_protocol_and_recorder.md). -/
def dhpArea : Nat := 0xd0018
def dhpArea_BASE : Fld := ⟨0, 14⟩ -- IMG
def dhpArea_SLOT_KIB : Fld := ⟨14, 6⟩ -- IMG

/-- DHP_STAT (11_host_protocol_and_recorder.md). -/
def dhpStat : Nat := 0xd0020
def dhpStat_AUTH_FAIL : Fld := ⟨0, 16⟩ -- RO
def dhpStat_EPOCH_DISCARD : Fld := ⟨16, 16⟩ -- RO
def dhpStat_QUEUE_DROPS : Fld := ⟨32, 16⟩ -- RO
def dhpStat_TX_DROPS : Fld := ⟨48, 8⟩ -- RO
def dhpStat_BAD_FRAME : Fld := ⟨56, 8⟩ -- RO

/-- DHP_SLOT_CNT (11_host_protocol_and_recorder.md). -/
def dhpSlotCnt : Nat := 0xd0028
def dhpSlotCnt_LATE_DONE : Fld := ⟨0, 16⟩ -- RO
def dhpSlotCnt_EXPIRED : Fld := ⟨16, 16⟩ -- RO

/-- DHP_KEYk (11_host_protocol_and_recorder.md). -/
def dhpKey (i : Nat) : Nat := 0xd0100 + 0x8 * i
def dhpKey_VALID : Fld := ⟨0, 1⟩ -- IMG
def dhpKey_RIGHTS : Fld := ⟨1, 3⟩ -- IMG
def dhpKey_OPEN : Fld := ⟨4, 1⟩ -- RO
def dhpKey_EPOCH : Fld := ⟨5, 16⟩ -- RO
def dhpKey_HIGH_SEQ : Fld := ⟨21, 32⟩ -- RO
def dhpKey_OUTSTANDING : Fld := ⟨53, 5⟩ -- RO

/-- DHP_JOBTj_CFG (11_host_protocol_and_recorder.md). -/
def dhpJobtCfg (i : Nat) : Nat := 0xd0200 + 0x10 * i
def dhpJobtCfg_OWNER : Fld := ⟨0, 4⟩ -- IMG
def dhpJobtCfg_DOORBELL : Fld := ⟨4, 6⟩ -- IMG
def dhpJobtCfg_VALID : Fld := ⟨10, 1⟩ -- IMG
def dhpJobtCfg_QDEPTH : Fld := ⟨11, 8⟩ -- IMG
def dhpJobtCfg_IN_MAX : Fld := ⟨19, 8⟩ -- IMG
def dhpJobtCfg_PROG_CTX : Fld := ⟨27, 3⟩ -- IMG
def dhpJobtCfg_DEADLINE_US : Fld := ⟨32, 32⟩ -- IMG

/-- DHP_JOBTj_QBASE (11_host_protocol_and_recorder.md). -/
def dhpJobtQbase (i : Nat) : Nat := 0xd0208 + 0x10 * i
def dhpJobtQbase_BASE : Fld := ⟨6, 38⟩ -- IMG

/-- DHP_JOBQj_PTR (11_host_protocol_and_recorder.md). -/
def dhpJobqPtr (i : Nat) : Nat := 0xd0400 + 0x8 * i
def dhpJobqPtr_PROD : Fld := ⟨0, 8⟩ -- RO
def dhpJobqPtr_CONS : Fld := ⟨8, 8⟩ -- RW
def dhpJobqPtr_JOBS : Fld := ⟨16, 32⟩ -- RO

/-- DHP_SLOTs_STAT (11_host_protocol_and_recorder.md). -/
def dhpSlotStat (i : Nat) : Nat := 0xd1000 + 0x20 * i
def dhpSlotStat_STATE : Fld := ⟨0, 3⟩ -- RO
def dhpSlotStat_GEN : Fld := ⟨3, 10⟩ -- RO
def dhpSlotStat_JOBT : Fld := ⟨13, 5⟩ -- RO
def dhpSlotStat_KEY : Fld := ⟨18, 3⟩ -- RO
def dhpSlotStat_LEN : Fld := ⟨21, 16⟩ -- RO
def dhpSlotStat_RSTATUS : Fld := ⟨37, 8⟩ -- RO

/-- DHP_SLOTs_PROG (11_host_protocol_and_recorder.md). -/
def dhpSlotProg (i : Nat) : Nat := 0xd1008 + 0x20 * i
def dhpSlotProg_POS : Fld := ⟨0, 32⟩ -- RW
def dhpSlotProg_PERMILLE : Fld := ⟨32, 10⟩ -- RW
def dhpSlotProg_SRC : Fld := ⟨42, 1⟩ -- RW

/-- DHP_SLOTs_DONE (11_host_protocol_and_recorder.md). -/
def dhpSlotDone (i : Nat) : Nat := 0xd1010 + 0x20 * i
def dhpSlotDone_HANDLE : Fld := ⟨0, 16⟩ -- WO
def dhpSlotDone_LEN : Fld := ⟨16, 16⟩ -- WO
def dhpSlotDone_RSTATUS : Fld := ⟨32, 8⟩ -- WO

/-- DHP_SLOTs_DEADLINE (11_host_protocol_and_recorder.md). -/
def dhpSlotDeadline (i : Nat) : Nat := 0xd1018 + 0x20 * i
def dhpSlotDeadline_NS : Fld := ⟨0, 64⟩ -- RO

/-- REC_CFG (11_host_protocol_and_recorder.md). -/
def recCfg : Nat := 0xe0000
def recCfg_ENABLE : Fld := ⟨0, 1⟩ -- IMG

/-- REC_RING, REC_RES (11_host_protocol_and_recorder.md). -/
def recBase (i : Nat) : Nat := 0xe0008 + 0x10 * i
def recBase_BASE : Fld := ⟨21, 23⟩ -- IMG

/-- REC_RING_SIZE, REC_RES_SIZE (11_host_protocol_and_recorder.md). -/
def recSize (i : Nat) : Nat := 0xe0010 + 0x10 * i
def recSize_REGIONS : Fld := ⟨0, 21⟩ -- IMG

/-- REC_SPAN (11_host_protocol_and_recorder.md). -/
def recSpan : Nat := 0xe0028
def recSpan_PRE : Fld := ⟨0, 26⟩ -- IMG
def recSpan_POST : Fld := ⟨26, 26⟩ -- IMG

/-- REC_CTL (11_host_protocol_and_recorder.md). -/
def recCtl : Nat := 0xe0030
def recCtl_FREEZE : Fld := ⟨0, 1⟩ -- WO
def recCtl_RELEASE : Fld := ⟨1, 1⟩ -- WO

/-- REC_STATUS (11_host_protocol_and_recorder.md). -/
def recStatus : Nat := 0xe0038
def recStatus_STATE : Fld := ⟨0, 2⟩ -- RO
def recStatus_WRAPPED : Fld := ⟨2, 1⟩ -- RO

/-- REC_WPTR (11_host_protocol_and_recorder.md). -/
def recWptr : Nat := 0xe0040
def recWptr_OFFSET : Fld := ⟨0, 41⟩ -- RO

/-- REC_FRZ (11_host_protocol_and_recorder.md). -/
def recFrz : Nat := 0xe0048
def recFrz_VALID : Fld := ⟨0, 1⟩ -- RO
def recFrz_TRIGGER : Fld := ⟨1, 5⟩ -- RO
def recFrz_SOURCE : Fld := ⟨6, 9⟩ -- RO
def recFrz_TIME_NS : Fld := ⟨24, 40⟩ -- RO

/-- REC_FRZ_POS (11_host_protocol_and_recorder.md). -/
def recFrzPos : Nat := 0xe0050
def recFrzPos_FREEZE_OFF : Fld := ⟨0, 41⟩ -- RO

/-- REC_FRZ_SPAN (11_host_protocol_and_recorder.md). -/
def recFrzSpan : Nat := 0xe0058
def recFrzSpan_SPAN_START : Fld := ⟨0, 41⟩ -- RO

/-- REC_FRZ_LEN (11_host_protocol_and_recorder.md). -/
def recFrzLen : Nat := 0xe0060
def recFrzLen_PRE_LEN : Fld := ⟨0, 41⟩ -- RO

/-- REC_CNT (11_host_protocol_and_recorder.md). -/
def recCnt : Nat := 0xe0068
def recCnt_RECORDS : Fld := ⟨0, 32⟩ -- RO
def recCnt_DROPPED : Fld := ⟨32, 16⟩ -- RO
def recCnt_SKIPPED : Fld := ⟨48, 16⟩ -- RO

/-- REC_CNT2 (11_host_protocol_and_recorder.md). -/
def recCnt2 : Nat := 0xe0070
def recCnt2_IGNORED : Fld := ⟨0, 16⟩ -- RO
def recCnt2_GAPS : Fld := ⟨16, 16⟩ -- RO

/-- REC_UNLOAD (11_host_protocol_and_recorder.md). -/
def recUnload : Nat := 0xe0078
def recUnload_UNLOADED : Fld := ⟨0, 42⟩ -- RO
def recUnload_PERMILLE : Fld := ⟨42, 10⟩ -- RO

/-- REC_FRZ_POST (11_host_protocol_and_recorder.md). -/
def recFrzPost : Nat := 0xe0080
def recFrzPost_POST_LEN : Fld := ⟨0, 41⟩ -- RO

/-- TIME_NOW (12_time_and_twin.md). -/
def timeNow : Nat := 0xf0000
def timeNow_COUNT : Fld := ⟨0, 64⟩ -- RO

/-- TIME_NOW_PTP (12_time_and_twin.md). -/
def timeNowPtp : Nat := 0xf0008
def timeNowPtp_NS : Fld := ⟨0, 32⟩ -- RO
def timeNowPtp_FRAC : Fld := ⟨32, 2⟩ -- RO

/-- TIME_NOW_SEC (12_time_and_twin.md). -/
def timeNowSec : Nat := 0xf0010
def timeNowSec_SEC : Fld := ⟨0, 48⟩ -- RO

/-- TIME_STEP (12_time_and_twin.md). -/
def timeStep : Nat := 0xf0018
def timeStep_OFFSET_NS : Fld := ⟨0, 64⟩ -- WO

/-- TIME_RATE (12_time_and_twin.md). -/
def timeRate : Nat := 0xf0020
def timeRate_PPB : Fld := ⟨0, 32⟩ -- RW

/-- TIME_CTL (12_time_and_twin.md). -/
def timeCtl : Nat := 0xf0028
def timeCtl_SOURCE : Fld := ⟨0, 3⟩ -- RW
def timeCtl_SERVO_EN : Fld := ⟨3, 1⟩ -- RW
def timeCtl_GPTP_TC : Fld := ⟨4, 3⟩ -- IMG

/-- TIME_STATUS (12_time_and_twin.md). -/
def timeStatus : Nat := 0xf0030
def timeStatus_STATE : Fld := ⟨0, 3⟩ -- RO
def timeStatus_SOURCE : Fld := ⟨3, 3⟩ -- RO
def timeStatus_GM : Fld := ⟨6, 1⟩ -- RO
def timeStatus_ERR_EST_NS : Fld := ⟨8, 24⟩ -- RO
def timeStatus_STEPS : Fld := ⟨32, 16⟩ -- RO

/-- TIME_SERVO (12_time_and_twin.md). -/
def timeServo : Nat := 0xf0038
def timeServo_KP_SHIFT : Fld := ⟨0, 5⟩ -- IMG
def timeServo_KI_SHIFT : Fld := ⟨5, 5⟩ -- IMG
def timeServo_STEP_US : Fld := ⟨10, 16⟩ -- IMG

/-- TIME_HOLD (12_time_and_twin.md). -/
def timeHold : Nat := 0xf0040
def timeHold_LIMIT_NS : Fld := ⟨0, 32⟩ -- RW

/-- TIME_GM_ID (12_time_and_twin.md). -/
def timeGmId : Nat := 0xf0048
def timeGmId_CLOCK_ID : Fld := ⟨0, 64⟩ -- IMG

/-- TIME_DOMk_CFG (12_time_and_twin.md). -/
def timeDomCfg (i : Nat) : Nat := 0xf0100 + 0x10 * i
def timeDomCfg_DOMAIN : Fld := ⟨0, 8⟩ -- IMG
def timeDomCfg_ROLE : Fld := ⟨8, 2⟩ -- IMG
def timeDomCfg_LOG_SYNC : Fld := ⟨10, 4⟩ -- IMG
def timeDomCfg_ONE_STEP : Fld := ⟨14, 1⟩ -- IMG
def timeDomCfg_PRIORITY1 : Fld := ⟨15, 8⟩ -- IMG
def timeDomCfg_SLAVE_MAC : Fld := ⟨23, 3⟩ -- IMG

/-- TIME_DOMk_OFS (12_time_and_twin.md). -/
def timeDomOfs (i : Nat) : Nat := 0xf0108 + 0x10 * i
def timeDomOfs_OFS_NS : Fld := ⟨0, 64⟩ -- RO

/-- TIME_PDLYm (12_time_and_twin.md). -/
def timePdly (i : Nat) : Nat := 0xf0200 + 0x8 * i
def timePdly_DELAY_QNS : Fld := ⟨0, 32⟩ -- RO
def timePdly_VALID : Fld := ⟨32, 1⟩ -- RO

/-- TIME_OUTn_CFG (12_time_and_twin.md). -/
def timeOutCfg (i : Nat) : Nat := 0xf0300 + 0x20 * i
def timeOutCfg_MODE : Fld := ⟨0, 2⟩ -- RW
def timeOutCfg_FRAC : Fld := ⟨2, 2⟩ -- RW
def timeOutCfg_PRIMARY_ONLY : Fld := ⟨4, 1⟩ -- RW
def timeOutCfg_WIDTH_NS : Fld := ⟨32, 32⟩ -- RW

/-- TIME_OUTn_START (12_time_and_twin.md). -/
def timeOutStart (i : Nat) : Nat := 0xf0308 + 0x20 * i
def timeOutStart_START : Fld := ⟨0, 64⟩ -- RW

/-- TIME_OUTn_PERIOD (12_time_and_twin.md). -/
def timeOutPeriod (i : Nat) : Nat := 0xf0310 + 0x20 * i
def timeOutPeriod_PERIOD_NS : Fld := ⟨0, 32⟩ -- RW

/-- TIME_INn_CFG (12_time_and_twin.md). -/
def timeInCfg (i : Nat) : Nat := 0xf0400 + 0x20 * i
def timeInCfg_EN : Fld := ⟨0, 1⟩ -- RW
def timeInCfg_EDGE : Fld := ⟨1, 1⟩ -- RW

/-- TIME_INn_CAP (12_time_and_twin.md). -/
def timeInCap (i : Nat) : Nat := 0xf0408 + 0x20 * i
def timeInCap_TIME : Fld := ⟨0, 64⟩ -- RO

/-- TIME_INn_CAPF (12_time_and_twin.md). -/
def timeInCapf (i : Nat) : Nat := 0xf0410 + 0x20 * i
def timeInCapf_FRAC : Fld := ⟨0, 2⟩ -- RO
def timeInCapf_LEVEL : Fld := ⟨2, 3⟩ -- RO
def timeInCapf_LOST : Fld := ⟨5, 16⟩ -- RO

/-- TWIN_CFG (12_time_and_twin.md). -/
def twinCfg : Nat := 0x100000
def twinCfg_PRESENT : Fld := ⟨0, 1⟩ -- IMG
def twinCfg_ROLE : Fld := ⟨1, 1⟩ -- IMG
def twinCfg_SAFE_IN_EN : Fld := ⟨2, 1⟩ -- IMG
def twinCfg_SOLO_MS : Fld := ⟨3, 16⟩ -- IMG
def twinCfg_TAKE_DB : Fld := ⟨19, 6⟩ -- IMG
def twinCfg_TAKE_TRIADS : Fld := ⟨25, 16⟩ -- IMG

/-- TWIN_STATUS (12_time_and_twin.md). -/
def twinStatus : Nat := 0x100008
def twinStatus_ROLE : Fld := ⟨0, 3⟩ -- RO
def twinStatus_PEER_ROLE : Fld := ⟨3, 3⟩ -- RO
def twinStatus_LINK : Fld := ⟨6, 2⟩ -- RO
def twinStatus_LANES : Fld := ⟨8, 3⟩ -- RO
def twinStatus_ARMED : Fld := ⟨11, 1⟩ -- RO
def twinStatus_ALIVE_IN : Fld := ⟨12, 1⟩ -- RO
def twinStatus_CONFLICT : Fld := ⟨13, 2⟩ -- RO
def twinStatus_EPOCH : Fld := ⟨16, 16⟩ -- RO
def twinStatus_TIME_ERR_NS : Fld := ⟨32, 16⟩ -- RO

/-- TWIN_LINK_STAT (12_time_and_twin.md). -/
def twinLinkStat : Nat := 0x100010
def twinLinkStat_RETX : Fld := ⟨0, 16⟩ -- RO
def twinLinkStat_CRC_ERR : Fld := ⟨16, 16⟩ -- RO
def twinLinkStat_EPOCH_DISCARD : Fld := ⟨32, 16⟩ -- RO
def twinLinkStat_RETRAINS : Fld := ⟨48, 16⟩ -- RO

/-- TWIN_JRN (12_time_and_twin.md). -/
def twinJrn : Nat := 0x100018
def twinJrn_BANK : Fld := ⟨0, 4⟩ -- IMG
def twinJrn_BANKS : Fld := ⟨4, 4⟩ -- IMG

/-- TWIN_JRN_POS (12_time_and_twin.md). -/
def twinJrnPos : Nat := 0x100020
def twinJrnPos_SENT : Fld := ⟨0, 32⟩ -- RO
def twinJrnPos_APPLIED : Fld := ⟨32, 32⟩ -- RO

/-- TWIN_JRN_OCC (12_time_and_twin.md). -/
def twinJrnOcc : Nat := 0x100028
def twinJrnOcc_ENTRIES : Fld := ⟨0, 16⟩ -- RO
def twinJrnOcc_OVERFLOWS : Fld := ⟨16, 16⟩ -- RO

/-- TWIN_BULK (12_time_and_twin.md). -/
def twinBulk : Nat := 0x100030
def twinBulk_ACTIVE : Fld := ⟨0, 1⟩ -- RO
def twinBulk_PERMILLE : Fld := ⟨1, 10⟩ -- RO
def twinBulk_RUNS : Fld := ⟨11, 16⟩ -- RO

/-- TWIN_QMODE (12_time_and_twin.md). -/
def twinQmode : Nat := 0x100038
def twinQmode_DUAL : Fld := ⟨0, 64⟩ -- IMG

/-- TWIN_MREGr_BASE (12_time_and_twin.md). -/
def twinMregBase (i : Nat) : Nat := 0x100100 + 0x10 * i
def twinMregBase_BASE : Fld := ⟨12, 32⟩ -- IMG
def twinMregBase_VALID : Fld := ⟨63, 1⟩ -- IMG

/-- TWIN_MREGr_SIZE (12_time_and_twin.md). -/
def twinMregSize (i : Nat) : Nat := 0x100108 + 0x10 * i
def twinMregSize_PAGES : Fld := ⟨0, 25⟩ -- IMG

/-- PNC_STATUS (13_pounce_self_test.md). -/
def pncStatus : Nat := 0x110000
def pncStatus_SU1_DONE : Fld := ⟨0, 1⟩ -- RO
def pncStatus_SU2_DONE : Fld := ⟨1, 1⟩ -- RO
def pncStatus_SU_PASS : Fld := ⟨2, 1⟩ -- RO
def pncStatus_SCHED_ACTIVE : Fld := ⟨3, 1⟩ -- RO
def pncStatus_BUSY_SS : Fld := ⟨4, 1⟩ -- RO
def pncStatus_BUSY_CR : Fld := ⟨5, 1⟩ -- RO
def pncStatus_CUR_ENTRY : Fld := ⟨6, 5⟩ -- RO
def pncStatus_PERMILLE : Fld := ⟨11, 10⟩ -- RO

/-- PNC_SCHED (13_pounce_self_test.md). -/
def pncSched : Nat := 0x110008
def pncSched_NENT : Fld := ⟨0, 6⟩ -- IMG
def pncSched_DEFER_LIMIT : Fld := ⟨6, 8⟩ -- IMG

/-- PNC_T0 (13_pounce_self_test.md). -/
def pncT0 : Nat := 0x110010
def pncT0_T0 : Fld := ⟨0, 64⟩ -- IMG

/-- PNC_CTL (13_pounce_self_test.md). -/
def pncCtl : Nat := 0x110018
def pncCtl_ENTRY : Fld := ⟨0, 5⟩ -- RW
def pncCtl_RUN : Fld := ⟨5, 1⟩ -- WO
def pncCtl_HALT : Fld := ⟨6, 1⟩ -- RW
def pncCtl_MT_GO : Fld := ⟨7, 1⟩ -- WO

/-- PNC_FAIL_LAST (13_pounce_self_test.md). -/
def pncFailLast : Nat := 0x110020
def pncFailLast_KIND : Fld := ⟨0, 4⟩ -- RO
def pncFailLast_ITEM : Fld := ⟨4, 8⟩ -- RO
def pncFailLast_DETAIL : Fld := ⟨12, 8⟩ -- RO
def pncFailLast_STARTUP : Fld := ⟨20, 1⟩ -- RO
def pncFailLast_VALID : Fld := ⟨21, 1⟩ -- W1C
def pncFailLast_TIME_NS : Fld := ⟨24, 40⟩ -- RO

/-- PNC_FAILED_COPIES (13_pounce_self_test.md). -/
def pncFailedCopies : Nat := 0x110028
def pncFailedCopies_COPY : Fld := ⟨0, 48⟩ -- RO

/-- PNC_FAILED_MISC (13_pounce_self_test.md). -/
def pncFailedMisc : Nat := 0x110030
def pncFailedMisc_ADC : Fld := ⟨0, 8⟩ -- RO
def pncFailedMisc_LANE : Fld := ⟨8, 4⟩ -- RO
def pncFailedMisc_VMON : Fld := ⟨12, 20⟩ -- RO
def pncFailedMisc_PLL : Fld := ⟨32, 11⟩ -- RO
def pncFailedMisc_TEMP : Fld := ⟨43, 6⟩ -- RO

/-- PNC_SWEEP (13_pounce_self_test.md). -/
def pncSweep : Nat := 0x110038
def pncSweep_SS_SWEEPS : Fld := ⟨0, 16⟩ -- RO
def pncSweep_CR_SWEEPS : Fld := ⟨16, 16⟩ -- RO
def pncSweep_SS_NEXT : Fld := ⟨32, 8⟩ -- RO
def pncSweep_CR_NEXT : Fld := ⟨40, 4⟩ -- RO
def pncSweep_TRIAD_NEXT : Fld := ⟨44, 4⟩ -- RO

/-- PNC_MT_BASE (13_pounce_self_test.md). -/
def pncMtBase : Nat := 0x110040
def pncMtBase_BASE : Fld := ⟨6, 38⟩ -- RW

/-- PNC_MT_LEN (13_pounce_self_test.md). -/
def pncMtLen : Nat := 0x110048
def pncMtLen_LEN : Fld := ⟨6, 36⟩ -- RW

/-- PNC_MT_STAT (13_pounce_self_test.md). -/
def pncMtStat : Nat := 0x110050
def pncMtStat_STATE : Fld := ⟨0, 2⟩ -- RO
def pncMtStat_ERRORS : Fld := ⟨2, 32⟩ -- RO

/-- PNC_ENTn (13_pounce_self_test.md). -/
def pncEnt (i : Nat) : Nat := 0x110100 + 0x8 * i
def pncEnt_KIND : Fld := ⟨0, 4⟩ -- IMG
def pncEnt_TARGET : Fld := ⟨4, 8⟩ -- IMG
def pncEnt_PERIOD_MS : Fld := ⟨12, 16⟩ -- IMG
def pncEnt_OFFSET_MS : Fld := ⟨28, 16⟩ -- IMG

/-- PNC_ENTn_STAT (13_pounce_self_test.md). -/
def pncEntStat (i : Nat) : Nat := 0x110200 + 0x8 * i
def pncEntStat_RUNS : Fld := ⟨0, 16⟩ -- RO
def pncEntStat_DEFERS : Fld := ⟨16, 16⟩ -- RO
def pncEntStat_CONSEC : Fld := ⟨32, 8⟩ -- RO
def pncEntStat_OVERLAPS : Fld := ⟨40, 8⟩ -- RO
def pncEntStat_FAILS : Fld := ⟨48, 16⟩ -- RO

/-- SYS_ID (14_wake_boot_and_image.md). -/
def sysId : Nat := 0x0
def sysId_ID : Fld := ⟨0, 64⟩ -- RO

/-- SYS_STATE (14_wake_boot_and_image.md). -/
def sysState : Nat := 0x8
def sysState_OPSTATE : Fld := ⟨0, 3⟩ -- RO
def sysState_LC : Fld := ⟨3, 3⟩ -- RO
def sysState_RST_CAUSE : Fld := ⟨6, 3⟩ -- RO

/-- SYS_BOOT_STAT (14_wake_boot_and_image.md). -/
def sysBootStat : Nat := 0x10
def sysBootStat_STEP : Fld := ⟨0, 4⟩ -- RO
def sysBootStat_HALT : Fld := ⟨4, 4⟩ -- RO
def sysBootStat_TRAIN_FULL : Fld := ⟨8, 1⟩ -- RO
def sysBootStat_TRAIN_FAILED : Fld := ⟨9, 1⟩ -- RO

/-- SYS_BOOT_TIME (14_wake_boot_and_image.md). -/
def sysBootTime : Nat := 0x18
def sysBootTime_PGOOD : Fld := ⟨0, 16⟩ -- RO
def sysBootTime_IMAGE : Fld := ⟨16, 16⟩ -- RO
def sysBootTime_BLOCKED : Fld := ⟨32, 16⟩ -- RO
def sysBootTime_RELEASED : Fld := ⟨48, 16⟩ -- RO

/-- SYS_PERM (14_wake_boot_and_image.md). -/
def sysPerm : Nat := 0x20
def sysPerm_INJECT : Fld := ⟨0, 1⟩ -- IMG
def sysPerm_SLEEP_TRIADS : Fld := ⟨1, 16⟩ -- IMG

/-- SYS_SLEEP (14_wake_boot_and_image.md). -/
def sysSleep : Nat := 0x28
def sysSleep_KEY : Fld := ⟨0, 16⟩ -- WO

/-- SYS_IPI (14_wake_boot_and_image.md). -/
def sysIpi : Nat := 0x30
def sysIpi_TARGETS : Fld := ⟨0, 16⟩ -- WO

/-- SYS_LC_CTL (14_wake_boot_and_image.md). -/
def sysLcCtl : Nat := 0x40
def sysLcCtl_OP : Fld := ⟨0, 3⟩ -- WO
def sysLcCtl_KEY : Fld := ⟨16, 16⟩ -- WO

/-- SYS_LC_STAT (14_wake_boot_and_image.md). -/
def sysLcStat : Nat := 0x48
def sysLcStat_RESULT : Fld := ⟨0, 2⟩ -- RO
def sysLcStat_CHAL_VALID : Fld := ⟨2, 1⟩ -- RO

/-- SYS_LC_CHALn (14_wake_boot_and_image.md). -/
def sysLcChal (i : Nat) : Nat := 0x50 + 0x8 * i
def sysLcChal_NONCE : Fld := ⟨0, 64⟩ -- RO

/-- SYS_LC_RESPn (14_wake_boot_and_image.md). -/
def sysLcResp (i : Nat) : Nat := 0x80 + 0x8 * i
def sysLcResp_SIG : Fld := ⟨0, 64⟩ -- WO

/-- SYS_TAGQi (14_wake_boot_and_image.md). -/
def sysTagq (i : Nat) : Nat := 0x400 + 0x8 * i
def sysTagq_MIN : Fld := ⟨0, 12⟩ -- IMG
def sysTagq_MAX : Fld := ⟨12, 12⟩ -- IMG
def sysTagq_IN_USE : Fld := ⟨24, 12⟩ -- RO

/-- SYS_TRIt_START (14_wake_boot_and_image.md). -/
def sysTriStart (i : Nat) : Nat := 0x1000 + 0x40 * i
def sysTriStart_VA : Fld := ⟨0, 48⟩ -- IMG
def sysTriStart_LWAYS : Fld := ⟨48, 2⟩ -- IMG

/-- SYS_TRIt_LRANGEk (14_wake_boot_and_image.md). -/
def sysTriLrange (i j : Nat) : Nat := 0x1008 + 0x40 * i + 0x8 * j
def sysTriLrange_FIRST_LINE : Fld := ⟨0, 20⟩ -- IMG
def sysTriLrange_LINES : Fld := ⟨20, 20⟩ -- IMG

/-- HBX_STATUS (14_wake_boot_and_image.md). -/
def hbxStatus : Nat := 0x120000
def hbxStatus_WAKE_RULE : Fld := ⟨0, 4⟩ -- RO
def hbxStatus_WAKE_VALID : Fld := ⟨4, 1⟩ -- RO
def hbxStatus_RULES_VALID : Fld := ⟨5, 1⟩ -- RO
def hbxStatus_EV_HEAD : Fld := ⟨6, 4⟩ -- RO
def hbxStatus_EV_WRAP : Fld := ⟨10, 1⟩ -- W1C
def hbxStatus_LEVEL : Fld := ⟨11, 8⟩ -- RO
def hbxStatus_PMIC_TRIES : Fld := ⟨19, 2⟩ -- RO

/-- HBX_CFG (14_wake_boot_and_image.md). -/
def hbxCfg : Nat := 0x120008
def hbxCfg_OFF_MIN_MS : Fld := ⟨0, 8⟩ -- IMG

/-- HBX_RET (14_wake_boot_and_image.md). -/
def hbxRet : Nat := 0x120010
def hbxRet_VALID : Fld := ⟨0, 6⟩ -- RO
def hbxRet_RET_UE : Fld := ⟨6, 1⟩ -- W1C

/-- HBX_INn_CFG (14_wake_boot_and_image.md). -/
def hbxInCfg (i : Nat) : Nat := 0x120100 + 0x10 * i
def hbxInCfg_FAST_EN : Fld := ⟨0, 1⟩ -- IMG
def hbxInCfg_FAST_THR : Fld := ⟨1, 8⟩ -- IMG
def hbxInCfg_DEB_US : Fld := ⟨9, 10⟩ -- IMG
def hbxInCfg_SLOW_EN : Fld := ⟨19, 1⟩ -- IMG
def hbxInCfg_RATE_HZ : Fld := ⟨20, 10⟩ -- IMG
def hbxInCfg_MED : Fld := ⟨30, 1⟩ -- IMG
def hbxInCfg_IIR_SHIFT : Fld := ⟨31, 4⟩ -- IMG

/-- HBX_INn_VAL (14_wake_boot_and_image.md). -/
def hbxInVal (i : Nat) : Nat := 0x120108 + 0x10 * i
def hbxInVal_RAW : Fld := ⟨0, 12⟩ -- RO
def hbxInVal_FILT : Fld := ⟨12, 12⟩ -- RO
def hbxInVal_LEVEL : Fld := ⟨24, 1⟩ -- RO
def hbxInVal_FAILED : Fld := ⟨25, 1⟩ -- RO

/-- HBX_RULEr (14_wake_boot_and_image.md). -/
def hbxRule (i : Nat) : Nat := 0x120200 + 0x8 * i
def hbxRule_INPUT : Fld := ⟨0, 3⟩ -- IMG
def hbxRule_PATH : Fld := ⟨3, 1⟩ -- IMG
def hbxRule_COND : Fld := ⟨4, 2⟩ -- IMG
def hbxRule_IN_SLEEP : Fld := ⟨6, 1⟩ -- IMG
def hbxRule_AWAKE : Fld := ⟨7, 1⟩ -- IMG
def hbxRule_DECISION : Fld := ⟨8, 2⟩ -- IMG
def hbxRule_FREEZE : Fld := ⟨10, 1⟩ -- IMG
def hbxRule_VALID : Fld := ⟨11, 1⟩ -- IMG
def hbxRule_THR : Fld := ⟨12, 12⟩ -- IMG

/-- HBX_EVLOGn (14_wake_boot_and_image.md). -/
def hbxEvlog (i : Nat) : Nat := 0x120300 + 0x8 * i
def hbxEvlog_RULE : Fld := ⟨0, 4⟩ -- RO
def hbxEvlog_INPUT : Fld := ⟨4, 3⟩ -- RO
def hbxEvlog_PATH : Fld := ⟨7, 1⟩ -- RO
def hbxEvlog_DECISION : Fld := ⟨8, 2⟩ -- RO
def hbxEvlog_FROZE : Fld := ⟨10, 1⟩ -- RO
def hbxEvlog_VALID : Fld := ⟨11, 1⟩ -- RO
def hbxEvlog_VALUE : Fld := ⟨12, 12⟩ -- RO
def hbxEvlog_TIME_NS : Fld := ⟨24, 40⟩ -- RO

/-- NVM_STATUS (14_wake_boot_and_image.md). -/
def nvmStatus : Nat := 0x140000
def nvmStatus_PINS : Fld := ⟨0, 2⟩ -- RO
def nvmStatus_PROFILE_OK : Fld := ⟨2, 1⟩ -- RO

/-- NVM_IMG (14_wake_boot_and_image.md). -/
def nvmImg : Nat := 0x140008
def nvmImg_LEN64 : Fld := ⟨0, 18⟩ -- RO
def nvmImg_KEY_IDX : Fld := ⟨18, 2⟩ -- RO
def nvmImg_SVN : Fld := ⟨32, 32⟩ -- RO

/-- NVM_TIME (14_wake_boot_and_image.md). -/
def nvmTime : Nat := 0x140010
def nvmTime_READ_US : Fld := ⟨0, 16⟩ -- RO
def nvmTime_VERIFY_US : Fld := ⟨16, 16⟩ -- RO
def nvmTime_BLOCK_US : Fld := ⟨32, 16⟩ -- RO

/-- NVM_PROG (14_wake_boot_and_image.md). -/
def nvmProg : Nat := 0x140018
def nvmProg_WRITTEN : Fld := ⟨0, 32⟩ -- RO
def nvmProg_PERMILLE : Fld := ⟨32, 10⟩ -- RO
def nvmProg_CHECK : Fld := ⟨42, 2⟩ -- RO
def nvmProg_CHECK_CAUSE : Fld := ⟨44, 4⟩ -- RO
def nvmProg_BUSY : Fld := ⟨48, 1⟩ -- RO

/-- NVM_CODE_PROG (14_wake_boot_and_image.md). -/
def nvmCodeProg : Nat := 0x140020
def nvmCodeProg_WRITTEN : Fld := ⟨0, 32⟩ -- RO
def nvmCodeProg_PERMILLE : Fld := ⟨32, 10⟩ -- RO
def nvmCodeProg_BUSY : Fld := ⟨42, 1⟩ -- RO

/-- CLK_STATUS (15_clocks_power_and_package.md). -/
def clkStatus : Nat := 0x130000
def clkStatus_LOCK : Fld := ⟨0, 11⟩ -- RO
def clkStatus_FREQ_OK : Fld := ⟨11, 11⟩ -- RO
def clkStatus_REF_OK : Fld := ⟨22, 1⟩ -- RO
def clkStatus_SD0_PRESENT : Fld := ⟨23, 1⟩ -- RO
def clkStatus_SD1_PRESENT : Fld := ⟨24, 1⟩ -- RO

/-- CLK_REF (15_clocks_power_and_package.md). -/
def clkRef : Nat := 0x130008
def clkRef_DEV : Fld := ⟨0, 16⟩ -- RO

/-- CLK_TEMP_THR (15_clocks_power_and_package.md). -/
def clkTempThr : Nat := 0x130010
def clkTempThr_HIGH : Fld := ⟨0, 8⟩ -- IMG
def clkTempThr_CRIT : Fld := ⟨8, 8⟩ -- IMG

/-- CLK_PLLp (15_clocks_power_and_package.md). -/
def clkPll (i : Nat) : Nat := 0x130100 + 0x8 * i
def clkPll_FREQ_KHZ : Fld := ⟨0, 20⟩ -- RO
def clkPll_LOSSES : Fld := ⟨20, 16⟩ -- RO
def clkPll_STOPPED : Fld := ⟨36, 1⟩ -- RO

/-- CLK_VMONs (15_clocks_power_and_package.md). -/
def clkVmon (i : Nat) : Nat := 0x130200 + 0x8 * i
def clkVmon_WIN3 : Fld := ⟨0, 2⟩ -- RO
def clkVmon_WIN4 : Fld := ⟨2, 2⟩ -- RO
def clkVmon_TRIPS : Fld := ⟨4, 16⟩ -- RO
def clkVmon_MV : Fld := ⟨20, 12⟩ -- RO

/-- CLK_TEMPi (15_clocks_power_and_package.md). -/
def clkTemp (i : Nat) : Nat := 0x130300 + 0x8 * i
def clkTemp_A : Fld := ⟨0, 8⟩ -- RO
def clkTemp_B : Fld := ⟨8, 8⟩ -- RO
def clkTemp_VALUE : Fld := ⟨16, 8⟩ -- RO
def clkTemp_FAILED : Fld := ⟨24, 1⟩ -- RO
def clkTemp_HIGH : Fld := ⟨25, 1⟩ -- RO
def clkTemp_CRIT : Fld := ⟨26, 1⟩ -- RO

/-- CLK_I2C_CMD (15_clocks_power_and_package.md). -/
def clkI2cCmd : Nat := 0x130400
def clkI2cCmd_ADDR : Fld := ⟨0, 7⟩ -- WO
def clkI2cCmd_READ : Fld := ⟨7, 1⟩ -- WO
def clkI2cCmd_REG : Fld := ⟨8, 8⟩ -- WO
def clkI2cCmd_DATA : Fld := ⟨16, 8⟩ -- WO
def clkI2cCmd_GO : Fld := ⟨24, 1⟩ -- WO

/-- CLK_I2C_STAT (15_clocks_power_and_package.md). -/
def clkI2cStat : Nat := 0x130408
def clkI2cStat_DATA : Fld := ⟨0, 8⟩ -- RO
def clkI2cStat_BUSY : Fld := ⟨8, 1⟩ -- RO
def clkI2cStat_NACK : Fld := ⟨9, 1⟩ -- RO

/-- CLK_GPIO_DIR (15_clocks_power_and_package.md). -/
def clkGpioDir : Nat := 0x130500
def clkGpioDir_OUT_EN : Fld := ⟨0, 32⟩ -- RW

/-- CLK_GPIO_OUT (15_clocks_power_and_package.md). -/
def clkGpioOut : Nat := 0x130508
def clkGpioOut_LEVEL : Fld := ⟨0, 32⟩ -- RW

/-- CLK_GPIO_IN (15_clocks_power_and_package.md). -/
def clkGpioIn : Nat := 0x130510
def clkGpioIn_PIN : Fld := ⟨0, 32⟩ -- RO

end Reg

/-- Access masks of the registers, part 0 (R7, R8). -/
def regTable0 : List RegDesc :=
  [ ⟨0x10000, (1, 0x10000000), (1, 0x10000000), (1, 0x10000000), 0x0, 0x40, 0x80, 0x0, 0x0⟩ -- FCRU_STATUS
  , ⟨0x10008, (1, 0x10000000), (1, 0x10000000), (1, 0x10000000), 0x0, 0x0, 0x0, 0x0, 0x0⟩ -- FCRU_FIRST
  , ⟨0x10040, (1, 0x10000000), (1, 0x10000000), (8, 8), 0x0, 0xffffffffffffffff, 0x0, 0x0, 0x0⟩ -- FCRU_PEND0 to FCRU_PEND7
  , ⟨0x10080, (1, 0x10000000), (1, 0x10000000), (1, 0x10000000), 0x0, 0x0, 0x0, 0x0, 0x1ff⟩ -- FCRU_SW_RAISE
  , ⟨0x10088, (1, 0x10000000), (1, 0x10000000), (1, 0x10000000), 0x0, 0x0, 0x0, 0x0, 0x0⟩ -- FCRU_LOG_HEAD
  , ⟨0x10100, (1, 0x10000000), (1, 0x10000000), (32, 8), 0x0, 0x0, 0x0, 0x0, 0x0⟩ -- FCRU_LOG0 to FCRU_LOG31
  , ⟨0x11000, (1, 0x10000000), (1, 0x10000000), (512, 8), 0x0, 0x0, 0x8000000000000000, 0x1ffffffffff, 0x0⟩ -- FCRU_MATRIX0 to FCRU_MATRIX511
  , ⟨0x12000, (1, 0x10000000), (1, 0x10000000), (512, 8), 0x0, 0x0, 0x0, 0x0, 0x0⟩ -- FCRU_CNT0 to FCRU_CNT511
  , ⟨0x20000, (1, 0x10000000), (1, 0x10000000), (16, 4096), 0x0, 0x0, 0x0, 0x0, 0x0⟩ -- TRI_STATUS
  , ⟨0x20008, (1, 0x10000000), (1, 0x10000000), (16, 4096), 0x7, 0x0, 0x8, 0x0, 0x0⟩ -- TRI_MODE_REQ
  , ⟨0x20010, (1, 0x10000000), (1, 0x10000000), (16, 4096), 0x0, 0x0, 0x0, 0x0, 0x0⟩ -- TRI_MODE_ALLOW
  , ⟨0x20018, (1, 0x10000000), (1, 0x10000000), (16, 4096), 0xffff, 0x0, 0x0, 0x0, 0x0⟩ -- TRI_MSYNC_TMO
  , ⟨0x20020, (1, 0x10000000), (1, 0x10000000), (16, 4096), 0x0, 0x0, 0x0, 0x0, 0x0⟩ -- TRI_COMMIT_COUNT
  , ⟨0x20028, (1, 0x10000000), (1, 0x10000000), (16, 4096), 0x0, 0x4000, 0x0, 0x0, 0x0⟩ -- TRI_MISMATCH
  , ⟨0x20030, (1, 0x10000000), (1, 0x10000000), (16, 4096), 0x0, 0x0, 0x0, 0x0, 0x0⟩ -- TRI_CONF_CNT
  , ⟨0x20038, (1, 0x10000000), (1, 0x10000000), (16, 4096), 0x0, 0x0, 0x0, 0x0, 0x1⟩ -- TRI_RESYNC_CTL
  , ⟨0x20040, (1, 0x10000000), (1, 0x10000000), (16, 4096), 0x0, 0x0, 0x0, 0x0, 0x0⟩ -- TRI_RESYNC_STAT
  , ⟨0x20048, (1, 0x10000000), (1, 0x10000000), (16, 4096), 0x0, 0x0, 0x0, 0x0, 0x3fff⟩ -- TRI_INJECT
  , ⟨0x20050, (1, 0x10000000), (1, 0x10000000), (16, 4096), 0x0, 0x0, 0x0, 0x0, 0x0⟩ -- TRI_WDOG_CTL
  , ⟨0x20058, (1, 0x10000000), (1, 0x10000000), (16, 4096), 0x0, 0x0, 0x0, 0x0, 0xffffffff⟩ -- TRI_WDOG_KICK
  , ⟨0x30000, (1, 0x10000000), (1, 0x10000000), (1, 0x10000000), 0x0, 0x0, 0x0, 0x0, 0x0⟩ -- IAU_SLOT_BASE
  , ⟨0x30008, (1, 0x10000000), (1, 0x10000000), (1, 0x10000000), 0x0, 0x0, 0x0, 0x0, 0x0⟩ -- IAU_TIME_WIN
  , ⟨0x30010, (1, 0x10000000), (1, 0x10000000), (1, 0x10000000), 0x0, 0x0, 0x0, 0x0, 0x0⟩ -- IAU_PERSIST
  , ⟨0x30100, (1, 0x10000000), (1, 0x10000000), (16, 32), 0x0, 0x0, 0x0, 0x0, 0x0⟩ -- IAU_Tn_CFG
  ]

/-- Access masks of the registers, part 1 (R7, R8). -/
def regTable1 : List RegDesc :=
  [ ⟨0x30108, (1, 0x10000000), (1, 0x10000000), (16, 32), 0x0, 0x0, 0x0, 0x0, 0x0⟩ -- IAU_Tn_CNT
  , ⟨0x30110, (1, 0x10000000), (1, 0x10000000), (16, 32), 0x0, 0x0, 0x0, 0x0, 0x0⟩ -- IAU_Tn_LAST
  , ⟨0x50000, (1, 0x10000000), (1, 0x10000000), (8, 64), 0x0, 0x0, 0x8000000000000000, 0xffffffff000, 0x0⟩ -- XLT_Cc_ROOT
  , ⟨0x50008, (1, 0x10000000), (1, 0x10000000), (8, 64), 0xffff, 0x0, 0x0, 0x0, 0x0⟩ -- XLT_Cc_ASID
  , ⟨0x50010, (1, 0x10000000), (1, 0x10000000), (8, 64), 0x0, 0x0, 0x0, 0x0, 0x0⟩ -- XLT_Cc_CFG
  , ⟨0x50018, (1, 0x10000000), (1, 0x10000000), (8, 64), 0x0, 0x0, 0x0, 0x0, 0x0⟩ -- XLT_Cc_STAT
  , ⟨0x50020, (1, 0x10000000), (1, 0x10000000), (8, 64), 0x0, 0x0, 0x0, 0x0, 0x0⟩ -- XLT_Cc_OCC
  , ⟨0x51000, (1, 0x10000000), (16, 128), (8, 16), 0x0, 0x0, 0x0, 0x0, 0x0⟩ -- XLT_PIN_TAG
  , ⟨0x51008, (1, 0x10000000), (16, 128), (8, 16), 0x0, 0x0, 0x0, 0x0, 0x0⟩ -- XLT_PIN_PTE
  , ⟨0x60000, (1, 0x10000000), (1, 0x10000000), (27, 2048), 0x0, 0x0, 0x1, 0x0, 0x0⟩ -- GATE_CTL
  , ⟨0x60008, (1, 0x10000000), (1, 0x10000000), (27, 2048), 0x0, 0x0, 0x0, 0x0, 0x0⟩ -- GATE_DRAIN
  , ⟨0x60010, (1, 0x10000000), (1, 0x10000000), (27, 2048), 0x0, 0x0, 0x0, 0x0, 0x0⟩ -- GATE_STAT
  , ⟨0x60018, (1, 0x10000000), (1, 0x10000000), (27, 2048), 0x0, 0x0, 0x0, 0x0, 0x1⟩ -- GATE_LOG_CLR
  , ⟨0x60080, (1, 0x10000000), (27, 2048), (8, 16), 0x0, 0x0, 0x0, 0x0, 0x0⟩ -- GATE_VLOGn_ADDR
  , ⟨0x60088, (1, 0x10000000), (27, 2048), (8, 16), 0x0, 0x0, 0x0, 0x0, 0x0⟩ -- GATE_VLOGn_INFO
  , ⟨0x60100, (1, 0x10000000), (27, 2048), (32, 32), 0x0, 0x0, 0x0, 0xfffffffffc0, 0x0⟩ -- GATE_RULEk_BASE
  , ⟨0x60108, (1, 0x10000000), (27, 2048), (32, 32), 0x0, 0x0, 0x0, 0xfffffffffc0, 0x0⟩ -- GATE_RULEk_LIMIT
  , ⟨0x60110, (1, 0x10000000), (27, 2048), (32, 32), 0x0, 0x0, 0x0, 0xffffffff, 0x0⟩ -- GATE_RULEk_MASK
  , ⟨0x60118, (1, 0x10000000), (27, 2048), (32, 32), 0x0, 0x0, 0x0, 0x1f, 0x0⟩ -- GATE_RULEk_CTL
  , ⟨0x40000, (1, 0x10000000), (1, 0x10000000), (1, 0x10000000), 0x0, 0x0, 0x0, 0x0, 0x0⟩ -- FUL_STATUS
  , ⟨0x40008, (1, 0x10000000), (1, 0x10000000), (1, 0x10000000), 0x0, 0x0, 0x0, 0x0, 0x0⟩ -- FUL_SCHED_CFG
  , ⟨0x40010, (1, 0x10000000), (1, 0x10000000), (1, 0x10000000), 0x0, 0x0, 0x0, 0x0, 0x0⟩ -- FUL_SCHED_T0
  , ⟨0x40018, (1, 0x10000000), (1, 0x10000000), (1, 0x10000000), 0x0, 0x0, 0x0, 0x0, 0x0⟩ -- FUL_SCHED_STAT
  , ⟨0x40020, (1, 0x10000000), (1, 0x10000000), (1, 0x10000000), 0xffff0003, 0x0, 0x0, 0x0, 0x0⟩ -- FUL_PG_CTL
  ]

/-- Access masks of the registers, part 2 (R7, R8). -/
def regTable2 : List RegDesc :=
  [ ⟨0x40028, (1, 0x10000000), (1, 0x10000000), (1, 0x10000000), 0x0, 0x0, 0x0, 0x0, 0x0⟩ -- FUL_PG_STAT
  , ⟨0x40400, (1, 0x10000000), (1, 0x10000000), (64, 8), 0x0, 0x0, 0x0, 0x0, 0x0⟩ -- FUL_WIN0 to FUL_WIN63
  , ⟨0x41000, (1, 0x10000000), (1, 0x10000000), (8, 256), 0x0, 0x0, 0x0, 0x0, 0x0⟩ -- FUL_Cc_BIND
  , ⟨0x41008, (1, 0x10000000), (1, 0x10000000), (8, 256), 0x0, 0x0, 0x0, 0x0, 0x0⟩ -- FUL_Cc_STATE
  , ⟨0x41010, (1, 0x10000000), (1, 0x10000000), (8, 256), 0x0, 0x0, 0x0, 0x0, 0x0⟩ -- FUL_Cc_SEQ
  , ⟨0x41018, (1, 0x10000000), (1, 0x10000000), (8, 256), 0x0, 0x0, 0x0, 0x0, 0x0⟩ -- FUL_Cc_VTYPE
  , ⟨0x41020, (1, 0x10000000), (1, 0x10000000), (8, 256), 0x0, 0x0, 0x0, 0x0, 0x0⟩ -- FUL_Cc_CTX_FAULT
  , ⟨0x41028, (1, 0x10000000), (1, 0x10000000), (8, 256), 0x0, 0x0, 0x0, 0x0, 0x0⟩ -- FUL_Cc_CTX_FAULT_ELEM
  , ⟨0x41030, (1, 0x10000000), (1, 0x10000000), (8, 256), 0x0, 0x0, 0x0, 0x0, 0x0⟩ -- FUL_Cc_CTX_FAULT_VA
  , ⟨0x41038, (1, 0x10000000), (1, 0x10000000), (8, 256), 0x3f, 0x3f00, 0x0, 0x0, 0x0⟩ -- FUL_Cc_EVENT
  , ⟨0x41040, (1, 0x10000000), (1, 0x10000000), (8, 256), 0x0, 0x0, 0x0, 0x0, 0x1⟩ -- FUL_Cc_CTL
  , ⟨0x41048, (1, 0x10000000), (1, 0x10000000), (8, 256), 0x0, 0x1f, 0x0, 0x0, 0x0⟩ -- FUL_Cc_FFLAGS
  , ⟨0x41050, (1, 0x10000000), (1, 0x10000000), (8, 256), 0x0, 0x0, 0x0, 0x0, 0x0⟩ -- FUL_Cc_CNT
  , ⟨0x41058, (1, 0x10000000), (1, 0x10000000), (8, 256), 0x0, 0x0, 0x0, 0x0, 0x0⟩ -- FUL_Cc_WDOG
  , ⟨0x41060, (1, 0x10000000), (1, 0x10000000), (8, 256), 0x0, 0x0, 0x0, 0x0, 0x0⟩ -- FUL_Cc_STRM_STAT
  , ⟨0x41068, (1, 0x10000000), (1, 0x10000000), (8, 256), 0x0, 0x0, 0x0, 0x0, 0x0⟩ -- FUL_Cc_STRM_POS
  , ⟨0x41070, (1, 0x10000000), (1, 0x10000000), (8, 256), 0x0, 0x0, 0x0, 0x0, 0x0⟩ -- FUL_Cc_STRM_CNT
  , ⟨0x41078, (1, 0x10000000), (1, 0x10000000), (8, 256), 0x0, 0x0, 0x0, 0x0, 0x0⟩ -- FUL_Cc_STAGE
  , ⟨0x41080, (1, 0x10000000), (1, 0x10000000), (8, 256), 0x0, 0x0, 0x0, 0x0, 0x0⟩ -- FUL_Cc_TAGS
  , ⟨0x41088, (1, 0x10000000), (1, 0x10000000), (8, 256), 0x0, 0x0, 0x0, 0x0, 0x0⟩ -- FUL_Cc_CHECK_CNT
  , ⟨0x41090, (1, 0x10000000), (1, 0x10000000), (8, 256), 0x0, 0x4000000000, 0x0, 0x0, 0x0⟩ -- FUL_Cc_CHECK_LAST
  , ⟨0x70000, (1, 0x10000000), (1, 0x10000000), (4, 8), 0xffffffffffffffff, 0x0, 0x0, 0x0, 0x0⟩ -- MEM_SS_PWR0 to MEM_SS_PWR3
  , ⟨0x70020, (1, 0x10000000), (1, 0x10000000), (4, 8), 0x0, 0x0, 0x0, 0x0, 0x0⟩ -- MEM_SS_LOWMODE0 to MEM_SS_LOWMODE3
  , ⟨0x70040, (1, 0x10000000), (1, 0x10000000), (8, 8), 0x0, 0x0, 0x0, 0x0, 0x0⟩ -- MEM_SS_STATE0 to MEM_SS_STATE7
  ]

/-- Access masks of the registers, part 3 (R7, R8). -/
def regTable3 : List RegDesc :=
  [ ⟨0x70210, (1, 0x10000000), (1, 0x10000000), (1, 0x10000000), 0x0, 0x0, 0x0, 0x0, 0x0⟩ -- MEM_ROT_STAT
  , ⟨0x70218, (1, 0x10000000), (1, 0x10000000), (1, 0x10000000), 0x0, 0x0, 0x0, 0x0, 0x0⟩ -- MEM_STAT
  , ⟨0x70400, (1, 0x10000000), (1, 0x10000000), (16, 8), 0x0, 0x0, 0x0, 0x0, 0x0⟩ -- MEM_CR_PART0 to MEM_CR_PART15
  , ⟨0x70800, (1, 0x10000000), (1, 0x10000000), (64, 8), 0x0, 0x0, 0x0, 0x0, 0x0⟩ -- MEM_CR_RING0 to MEM_CR_RING63
  , ⟨0x70100, (1, 0x10000000), (1, 0x10000000), (16, 16), 0x0, 0x0, 0x0, 0x0, 0x0⟩ -- MEM_SS_MAPg_LO
  , ⟨0x70108, (1, 0x10000000), (1, 0x10000000), (16, 16), 0x0, 0x0, 0x0, 0x0, 0x0⟩ -- MEM_SS_MAPg_HI
  , ⟨0x70200, (1, 0x10000000), (1, 0x10000000), (1, 0x10000000), 0x0, 0x0, 0x0, 0x0, 0x0⟩ -- MEM_CR_MAP
  , ⟨0x70208, (1, 0x10000000), (1, 0x10000000), (1, 0x10000000), 0x0, 0x0, 0x0, 0x0, 0x0⟩ -- MEM_CR_SPARE
  , ⟨0x90000, (1, 0x10000000), (1, 0x10000000), (1, 0x10000000), 0x0, 0x0, 0x0, 0x0, 0x0⟩ -- DDR_CFG
  , ⟨0x90008, (1, 0x10000000), (1, 0x10000000), (1, 0x10000000), 0x0, 0x0, 0x0, 0x0, 0x0⟩ -- DDR_STATUS
  , ⟨0x90010, (1, 0x10000000), (1, 0x10000000), (1, 0x10000000), 0x7ff, 0x0, 0x0, 0x0, 0x0⟩ -- DDR_ZOD_CTL
  , ⟨0x90018, (1, 0x10000000), (1, 0x10000000), (1, 0x10000000), 0x0, 0x0, 0x0, 0x0, 0x0⟩ -- DDR_ZOD_STAT
  , ⟨0x90020, (1, 0x10000000), (1, 0x10000000), (4, 8), 0x0, 0x0, 0x0, 0x0, 0x0⟩ -- DDR_ZOD_RANGE0 to DDR_ZOD_RANGE3
  , ⟨0x90040, (1, 0x10000000), (1, 0x10000000), (1, 0x10000000), 0xfffff, 0x0, 0x0, 0x0, 0x0⟩ -- DDR_ZOD_PROBE
  , ⟨0x90100, (1, 0x10000000), (1, 0x10000000), (16, 8), 0x0, 0x0, 0x0, 0x0, 0x0⟩ -- DDR_CHn_STAT
  , ⟨0x90200, (1, 0x10000000), (1, 0x10000000), (1, 0x10000000), 0x0, 0x0, 0x0, 0x0, 0x0⟩ -- DDR_TRAIN_STAT
  , ⟨0x90208, (1, 0x10000000), (1, 0x10000000), (1, 0x10000000), 0x0, 0x0, 0x0, 0x0, 0x0⟩ -- DDR_TRAIN_SAVED
  , ⟨0x90210, (1, 0x10000000), (1, 0x10000000), (16, 8), 0x0, 0x0, 0x0, 0x0, 0x0⟩ -- DDR_TRAIN_CHn
  , ⟨0x80000, (1, 0x10000000), (1, 0x10000000), (1, 0x10000000), 0x0, 0x0, 0x4, 0x3, 0x1f00⟩ -- EDC_CTL
  , ⟨0x80008, (1, 0x10000000), (1, 0x10000000), (1, 0x10000000), 0xffffffff, 0x0, 0x0, 0x0, 0x0⟩ -- EDC_CE_THRESH
  , ⟨0x80040, (1, 0x10000000), (1, 0x10000000), (5, 16), 0x0, 0x0, 0x0, 0x0, 0x0⟩ -- EDC_CLASSk_CNT
  , ⟨0x80048, (1, 0x10000000), (1, 0x10000000), (5, 16), 0x0, 0x8000000000000000, 0x0, 0x0, 0x0⟩ -- EDC_CLASSk_UE_FIRST
  , ⟨0x80100, (1, 0x10000000), (1, 0x10000000), (1, 0x10000000), 0xf, 0x20, 0x10, 0x0, 0x0⟩ -- EDC_INJ_CTL
  , ⟨0x80108, (1, 0x10000000), (1, 0x10000000), (1, 0x10000000), 0xffffffffff8, 0x0, 0x0, 0x0, 0x0⟩ -- EDC_INJ_ADDR
  ]

/-- Access masks of the registers, part 4 (R7, R8). -/
def regTable4 : List RegDesc :=
  [ ⟨0x80110, (1, 0x10000000), (1, 0x10000000), (1, 0x10000000), 0xffffffffffffffff, 0x0, 0x0, 0x0, 0x0⟩ -- EDC_FLIP_DATA
  , ⟨0x80118, (1, 0x10000000), (1, 0x10000000), (1, 0x10000000), 0xffffffffffffffff, 0x0, 0x0, 0x0, 0x0⟩ -- EDC_FLIP_CHECK
  , ⟨0x80200, (1, 0x10000000), (1, 0x10000000), (1, 0x10000000), 0xfffffffffc0, 0x0, 0x0, 0x0, 0x0⟩ -- EDC_SCRUB_BASE
  , ⟨0x80208, (1, 0x10000000), (1, 0x10000000), (1, 0x10000000), 0x3ffffffffc0, 0x0, 0x0, 0x0, 0x0⟩ -- EDC_SCRUB_LEN
  , ⟨0x80210, (1, 0x10000000), (1, 0x10000000), (1, 0x10000000), 0x0, 0x0, 0x0, 0x0, 0x3⟩ -- EDC_SCRUB_GO
  , ⟨0x80218, (1, 0x10000000), (1, 0x10000000), (1, 0x10000000), 0x3ff, 0x0, 0x0, 0x0, 0x0⟩ -- EDC_SCRUB_CFG
  , ⟨0x80220, (1, 0x10000000), (1, 0x10000000), (1, 0x10000000), 0x0, 0x0, 0x0, 0x0, 0x0⟩ -- EDC_SCRUB_POS
  , ⟨0x80228, (1, 0x10000000), (1, 0x10000000), (1, 0x10000000), 0x0, 0x0, 0x0, 0x0, 0x0⟩ -- EDC_SCRUB_SUM
  , ⟨0x80230, (1, 0x10000000), (1, 0x10000000), (1, 0x10000000), 0x0, 0x0, 0x0, 0x0, 0x0⟩ -- EDC_SCRUB_FIRST_UE
  , ⟨0x81000, (1, 0x10000000), (5, 512), (32, 16), 0x0, 0x0, 0x0, 0x0, 0x0⟩ -- EDC_LOGk_n_ADDR
  , ⟨0x81008, (1, 0x10000000), (5, 512), (32, 16), 0x0, 0x0, 0x0, 0x0, 0x0⟩ -- EDC_LOGk_n_INFO
  , ⟨0x84000, (1, 0x10000000), (312, 64), (8, 8), 0x0, 0x0, 0x1000000000000, 0x0, 0x0⟩ -- EDC_REMAPi_e
  , ⟨0xa0000, (1, 0x10000000), (1, 0x10000000), (2, 65536), 0x0, 0x0, 0x0, 0x0, 0x0⟩ -- ETH_CFG
  , ⟨0xa0008, (1, 0x10000000), (1, 0x10000000), (2, 65536), 0x0, 0x0, 0x0, 0x0, 0x0⟩ -- ETH_STATUS
  , ⟨0xa0010, (1, 0x10000000), (1, 0x10000000), (2, 65536), 0xffffffffffffffff, 0x0, 0x0, 0x0, 0x0⟩ -- ETH_GCL_BASE
  , ⟨0xa0018, (1, 0x10000000), (1, 0x10000000), (2, 65536), 0x1ffffffffff, 0x0, 0x20000000000, 0x0, 0x0⟩ -- ETH_GCL_CTL
  , ⟨0xa0800, (2, 65536), (2, 2048), (256, 8), 0xffffffffffffffff, 0x0, 0x0, 0x0, 0x0⟩ -- ETH_GCLk
  , ⟨0xa2000, (1, 0x10000000), (1, 0x10000000), (2, 65536), 0xffffffffff, 0x0, 0x0, 0x0, 0x0⟩ -- ETH_MSEC_CTL
  , ⟨0xa0100, (1, 0x10000000), (2, 65536), (4, 32), 0x0, 0x0, 0x0, 0x0, 0x0⟩ -- ETH_MACm_TC
  , ⟨0xa0108, (1, 0x10000000), (2, 65536), (4, 32), 0x0, 0x0, 0x0, 0x0, 0x0⟩ -- ETH_MACm_RXCNT
  , ⟨0xa0110, (1, 0x10000000), (2, 65536), (4, 32), 0x0, 0x0, 0x0, 0x0, 0x0⟩ -- ETH_MACm_MSCNT
  , ⟨0xa0118, (1, 0x10000000), (2, 65536), (4, 32), 0x0, 0x0, 0x0, 0x0, 0x0⟩ -- ETH_MACm_TXCNT
  , ⟨0xa0400, (1, 0x10000000), (2, 65536), (32, 32), 0x0, 0x0, 0x0, 0x0, 0x0⟩ -- ETH_TXQq_BASE
  , ⟨0xa0408, (1, 0x10000000), (2, 65536), (32, 32), 0x0, 0x0, 0x0, 0x0, 0x0⟩ -- ETH_TXQq_CFG
  ]

/-- Access masks of the registers, part 5 (R7, R8). -/
def regTable5 : List RegDesc :=
  [ ⟨0xa0410, (1, 0x10000000), (2, 65536), (32, 32), 0xffff, 0x0, 0x0, 0x0, 0x0⟩ -- ETH_TXQq_TAIL
  , ⟨0xa0418, (1, 0x10000000), (2, 65536), (32, 32), 0x0, 0x0, 0x0, 0x0, 0x0⟩ -- ETH_TXQq_HEAD
  , ⟨0xa2008, (1, 0x10000000), (1, 0x10000000), (2, 65536), 0x7f, 0x0, 0x0, 0x0, 0x0⟩ -- ETH_MSEC_SEL
  , ⟨0xa2010, (1, 0x10000000), (1, 0x10000000), (2, 65536), 0xffffffffffffffff, 0x0, 0x0, 0x0, 0x0⟩ -- ETH_MSEC_SCI
  , ⟨0xa2018, (1, 0x10000000), (2, 65536), (4, 8), 0x0, 0x0, 0x0, 0x0, 0xffffffffffffffff⟩ -- ETH_MSEC_KEYn
  , ⟨0xa2038, (1, 0x10000000), (1, 0x10000000), (2, 65536), 0x0, 0x0, 0x0, 0x0, 0xffffffffffffffff⟩ -- ETH_MSEC_SALT0
  , ⟨0xa2040, (1, 0x10000000), (1, 0x10000000), (2, 65536), 0x0, 0x0, 0x0, 0x0, 0xffffffffffffffff⟩ -- ETH_MSEC_SALT1
  , ⟨0xa2048, (1, 0x10000000), (1, 0x10000000), (2, 65536), 0xffffffffffffffff, 0x0, 0x0, 0x0, 0x0⟩ -- ETH_MSEC_PN
  , ⟨0xa2050, (1, 0x10000000), (1, 0x10000000), (2, 65536), 0x0, 0x0, 0x0, 0x0, 0x3⟩ -- ETH_MSEC_INSTALL
  , ⟨0xc0000, (1, 0x10000000), (1, 0x10000000), (1, 0x10000000), 0x0, 0x0, 0x0, 0x0, 0x0⟩ -- ADM_CFG
  , ⟨0xc0008, (1, 0x10000000), (1, 0x10000000), (1, 0x10000000), 0x0, 0x0, 0x0, 0x0, 0x0⟩ -- ADM_BUDGET
  , ⟨0xc0010, (1, 0x10000000), (1, 0x10000000), (1, 0x10000000), 0x0, 0x0, 0x0, 0x0, 0x0⟩ -- ADM_BUDGET_USED
  , ⟨0xc0018, (1, 0x10000000), (1, 0x10000000), (1, 0x10000000), 0x0, 0x0, 0x0, 0x0, 0x0⟩ -- ADM_STAT
  , ⟨0xc0020, (1, 0x10000000), (1, 0x10000000), (1, 0x10000000), 0xffff, 0x0, 0x0, 0x0, 0x0⟩ -- ADM_POLICE_THRESH
  , ⟨0xc0100, (1, 0x10000000), (1, 0x10000000), (3, 8), 0xffffffffffffffff, 0x0, 0x0, 0x0, 0x0⟩ -- ADM_REQ_W0 to W2
  , ⟨0xc0118, (1, 0x10000000), (1, 0x10000000), (1, 0x10000000), 0x0, 0x0, 0x0, 0x0, 0x1fff⟩ -- ADM_REQ_CTL
  , ⟨0xc0120, (1, 0x10000000), (1, 0x10000000), (1, 0x10000000), 0x0, 0x0, 0x0, 0x0, 0x0⟩ -- ADM_REQ_STATUS
  , ⟨0xc0400, (1, 0x10000000), (1, 0x10000000), (64, 8), 0x3ffff000000, 0x0, 0x0, 0x0, 0x0⟩ -- ADM_RINGn_PTR
  , ⟨0xc0800, (1, 0x10000000), (1, 0x10000000), (64, 32), 0x0, 0x0, 0x0, 0x0, 0x0⟩ -- ADM_SRINGn_CFG
  , ⟨0xc0808, (1, 0x10000000), (1, 0x10000000), (64, 32), 0x3ffffffc0000000, 0x0, 0x0, 0x0, 0x0⟩ -- ADM_SRINGn_PTR
  , ⟨0xc0810, (1, 0x10000000), (1, 0x10000000), (64, 32), 0x0, 0x0, 0x0, 0x0, 0x0⟩ -- ADM_SRINGn_DROPS
  , ⟨0xc1000, (1, 0x10000000), (1, 0x10000000), (512, 16), 0x0, 0x0, 0x0, 0x0, 0x0⟩ -- ADM_CBFf_CFG
  , ⟨0xc1008, (1, 0x10000000), (1, 0x10000000), (512, 16), 0x0, 0x0, 0x0, 0x0, 0x0⟩ -- ADM_CBFf_STAT
  , ⟨0xc8000, (1, 0x10000000), (1, 0x10000000), (1024, 32), 0x0, 0x0, 0x0, 0x0, 0x0⟩ -- ADM_ENTRYn_ID
  ]

/-- Access masks of the registers, part 6 (R7, R8). -/
def regTable6 : List RegDesc :=
  [ ⟨0xc8008, (1, 0x10000000), (1, 0x10000000), (1024, 32), 0x0, 0x0, 0x0, 0x0, 0x0⟩ -- ADM_ENTRYn_CONTRACT
  , ⟨0xc8010, (1, 0x10000000), (1, 0x10000000), (1024, 32), 0x0, 0x0, 0x0, 0x0, 0x0⟩ -- ADM_ENTRYn_DEST
  , ⟨0xc8018, (1, 0x10000000), (1, 0x10000000), (1024, 32), 0x0, 0x0, 0x0, 0x0, 0x0⟩ -- ADM_ENTRYn_CNT
  , ⟨0xd0000, (1, 0x10000000), (1, 0x10000000), (1, 0x10000000), 0x0, 0x0, 0x0, 0x0, 0x0⟩ -- DHP_CFG
  , ⟨0xd0008, (1, 0x10000000), (1, 0x10000000), (1, 0x10000000), 0x0, 0x0, 0x0, 0x0, 0x0⟩ -- DHP_ADDR
  , ⟨0xd0010, (1, 0x10000000), (1, 0x10000000), (1, 0x10000000), 0x0, 0x0, 0x0, 0x0, 0x0⟩ -- DHP_IPADDR
  , ⟨0xd0018, (1, 0x10000000), (1, 0x10000000), (1, 0x10000000), 0x0, 0x0, 0x0, 0x0, 0x0⟩ -- DHP_AREA
  , ⟨0xd0020, (1, 0x10000000), (1, 0x10000000), (1, 0x10000000), 0x0, 0x0, 0x0, 0x0, 0x0⟩ -- DHP_STAT
  , ⟨0xd0028, (1, 0x10000000), (1, 0x10000000), (1, 0x10000000), 0x0, 0x0, 0x0, 0x0, 0x0⟩ -- DHP_SLOT_CNT
  , ⟨0xd0100, (1, 0x10000000), (1, 0x10000000), (8, 8), 0x0, 0x0, 0x0, 0x0, 0x0⟩ -- DHP_KEYk
  , ⟨0xd0200, (1, 0x10000000), (1, 0x10000000), (32, 16), 0x0, 0x0, 0x0, 0x0, 0x0⟩ -- DHP_JOBTj_CFG
  , ⟨0xd0208, (1, 0x10000000), (1, 0x10000000), (32, 16), 0x0, 0x0, 0x0, 0x0, 0x0⟩ -- DHP_JOBTj_QBASE
  , ⟨0xd0400, (1, 0x10000000), (1, 0x10000000), (32, 8), 0xff00, 0x0, 0x0, 0x0, 0x0⟩ -- DHP_JOBQj_PTR
  , ⟨0xd1000, (1, 0x10000000), (1, 0x10000000), (64, 32), 0x0, 0x0, 0x0, 0x0, 0x0⟩ -- DHP_SLOTs_STAT
  , ⟨0xd1008, (1, 0x10000000), (1, 0x10000000), (64, 32), 0x7ffffffffff, 0x0, 0x0, 0x0, 0x0⟩ -- DHP_SLOTs_PROG
  , ⟨0xd1010, (1, 0x10000000), (1, 0x10000000), (64, 32), 0x0, 0x0, 0x0, 0x0, 0xffffffffff⟩ -- DHP_SLOTs_DONE
  , ⟨0xd1018, (1, 0x10000000), (1, 0x10000000), (64, 32), 0x0, 0x0, 0x0, 0x0, 0x0⟩ -- DHP_SLOTs_DEADLINE
  , ⟨0xe0000, (1, 0x10000000), (1, 0x10000000), (1, 0x10000000), 0x0, 0x0, 0x0, 0x0, 0x0⟩ -- REC_CFG
  , ⟨0xe0008, (1, 0x10000000), (1, 0x10000000), (2, 16), 0x0, 0x0, 0x0, 0x0, 0x0⟩ -- REC_RING, REC_RES
  , ⟨0xe0010, (1, 0x10000000), (1, 0x10000000), (2, 16), 0x0, 0x0, 0x0, 0x0, 0x0⟩ -- REC_RING_SIZE, REC_RES_SIZE
  , ⟨0xe0028, (1, 0x10000000), (1, 0x10000000), (1, 0x10000000), 0x0, 0x0, 0x0, 0x0, 0x0⟩ -- REC_SPAN
  , ⟨0xe0030, (1, 0x10000000), (1, 0x10000000), (1, 0x10000000), 0x0, 0x0, 0x0, 0x0, 0x3⟩ -- REC_CTL
  , ⟨0xe0038, (1, 0x10000000), (1, 0x10000000), (1, 0x10000000), 0x0, 0x0, 0x0, 0x0, 0x0⟩ -- REC_STATUS
  , ⟨0xe0040, (1, 0x10000000), (1, 0x10000000), (1, 0x10000000), 0x0, 0x0, 0x0, 0x0, 0x0⟩ -- REC_WPTR
  ]

/-- Access masks of the registers, part 7 (R7, R8). -/
def regTable7 : List RegDesc :=
  [ ⟨0xe0048, (1, 0x10000000), (1, 0x10000000), (1, 0x10000000), 0x0, 0x0, 0x0, 0x0, 0x0⟩ -- REC_FRZ
  , ⟨0xe0050, (1, 0x10000000), (1, 0x10000000), (1, 0x10000000), 0x0, 0x0, 0x0, 0x0, 0x0⟩ -- REC_FRZ_POS
  , ⟨0xe0058, (1, 0x10000000), (1, 0x10000000), (1, 0x10000000), 0x0, 0x0, 0x0, 0x0, 0x0⟩ -- REC_FRZ_SPAN
  , ⟨0xe0060, (1, 0x10000000), (1, 0x10000000), (1, 0x10000000), 0x0, 0x0, 0x0, 0x0, 0x0⟩ -- REC_FRZ_LEN
  , ⟨0xe0068, (1, 0x10000000), (1, 0x10000000), (1, 0x10000000), 0x0, 0x0, 0x0, 0x0, 0x0⟩ -- REC_CNT
  , ⟨0xe0070, (1, 0x10000000), (1, 0x10000000), (1, 0x10000000), 0x0, 0x0, 0x0, 0x0, 0x0⟩ -- REC_CNT2
  , ⟨0xe0078, (1, 0x10000000), (1, 0x10000000), (1, 0x10000000), 0x0, 0x0, 0x0, 0x0, 0x0⟩ -- REC_UNLOAD
  , ⟨0xe0080, (1, 0x10000000), (1, 0x10000000), (1, 0x10000000), 0x0, 0x0, 0x0, 0x0, 0x0⟩ -- REC_FRZ_POST
  , ⟨0xf0000, (1, 0x10000000), (1, 0x10000000), (1, 0x10000000), 0x0, 0x0, 0x0, 0x0, 0x0⟩ -- TIME_NOW
  , ⟨0xf0008, (1, 0x10000000), (1, 0x10000000), (1, 0x10000000), 0x0, 0x0, 0x0, 0x0, 0x0⟩ -- TIME_NOW_PTP
  , ⟨0xf0010, (1, 0x10000000), (1, 0x10000000), (1, 0x10000000), 0x0, 0x0, 0x0, 0x0, 0x0⟩ -- TIME_NOW_SEC
  , ⟨0xf0018, (1, 0x10000000), (1, 0x10000000), (1, 0x10000000), 0x0, 0x0, 0x0, 0x0, 0xffffffffffffffff⟩ -- TIME_STEP
  , ⟨0xf0020, (1, 0x10000000), (1, 0x10000000), (1, 0x10000000), 0xffffffff, 0x0, 0x0, 0x0, 0x0⟩ -- TIME_RATE
  , ⟨0xf0028, (1, 0x10000000), (1, 0x10000000), (1, 0x10000000), 0xf, 0x0, 0x0, 0x0, 0x0⟩ -- TIME_CTL
  , ⟨0xf0030, (1, 0x10000000), (1, 0x10000000), (1, 0x10000000), 0x0, 0x0, 0x0, 0x0, 0x0⟩ -- TIME_STATUS
  , ⟨0xf0038, (1, 0x10000000), (1, 0x10000000), (1, 0x10000000), 0x0, 0x0, 0x0, 0x0, 0x0⟩ -- TIME_SERVO
  , ⟨0xf0040, (1, 0x10000000), (1, 0x10000000), (1, 0x10000000), 0xffffffff, 0x0, 0x0, 0x0, 0x0⟩ -- TIME_HOLD
  , ⟨0xf0048, (1, 0x10000000), (1, 0x10000000), (1, 0x10000000), 0x0, 0x0, 0x0, 0x0, 0x0⟩ -- TIME_GM_ID
  , ⟨0xf0100, (1, 0x10000000), (1, 0x10000000), (4, 16), 0x0, 0x0, 0x0, 0x0, 0x0⟩ -- TIME_DOMk_CFG
  , ⟨0xf0108, (1, 0x10000000), (1, 0x10000000), (4, 16), 0x0, 0x0, 0x0, 0x0, 0x0⟩ -- TIME_DOMk_OFS
  , ⟨0xf0200, (1, 0x10000000), (1, 0x10000000), (8, 8), 0x0, 0x0, 0x0, 0x0, 0x0⟩ -- TIME_PDLYm
  , ⟨0xf0300, (1, 0x10000000), (1, 0x10000000), (4, 32), 0xffffffff0000001f, 0x0, 0x0, 0x0, 0x0⟩ -- TIME_OUTn_CFG
  , ⟨0xf0308, (1, 0x10000000), (1, 0x10000000), (4, 32), 0xffffffffffffffff, 0x0, 0x0, 0x0, 0x0⟩ -- TIME_OUTn_START
  , ⟨0xf0310, (1, 0x10000000), (1, 0x10000000), (4, 32), 0xffffffff, 0x0, 0x0, 0x0, 0x0⟩ -- TIME_OUTn_PERIOD
  ]

/-- Access masks of the registers, part 8 (R7, R8). -/
def regTable8 : List RegDesc :=
  [ ⟨0xf0400, (1, 0x10000000), (1, 0x10000000), (2, 32), 0x3, 0x0, 0x0, 0x0, 0x0⟩ -- TIME_INn_CFG
  , ⟨0xf0408, (1, 0x10000000), (1, 0x10000000), (2, 32), 0x0, 0x0, 0x0, 0x0, 0x0⟩ -- TIME_INn_CAP
  , ⟨0xf0410, (1, 0x10000000), (1, 0x10000000), (2, 32), 0x0, 0x0, 0x0, 0x0, 0x0⟩ -- TIME_INn_CAPF
  , ⟨0x100000, (1, 0x10000000), (1, 0x10000000), (1, 0x10000000), 0x0, 0x0, 0x0, 0x0, 0x0⟩ -- TWIN_CFG
  , ⟨0x100008, (1, 0x10000000), (1, 0x10000000), (1, 0x10000000), 0x0, 0x0, 0x0, 0x0, 0x0⟩ -- TWIN_STATUS
  , ⟨0x100010, (1, 0x10000000), (1, 0x10000000), (1, 0x10000000), 0x0, 0x0, 0x0, 0x0, 0x0⟩ -- TWIN_LINK_STAT
  , ⟨0x100018, (1, 0x10000000), (1, 0x10000000), (1, 0x10000000), 0x0, 0x0, 0x0, 0x0, 0x0⟩ -- TWIN_JRN
  , ⟨0x100020, (1, 0x10000000), (1, 0x10000000), (1, 0x10000000), 0x0, 0x0, 0x0, 0x0, 0x0⟩ -- TWIN_JRN_POS
  , ⟨0x100028, (1, 0x10000000), (1, 0x10000000), (1, 0x10000000), 0x0, 0x0, 0x0, 0x0, 0x0⟩ -- TWIN_JRN_OCC
  , ⟨0x100030, (1, 0x10000000), (1, 0x10000000), (1, 0x10000000), 0x0, 0x0, 0x0, 0x0, 0x0⟩ -- TWIN_BULK
  , ⟨0x100038, (1, 0x10000000), (1, 0x10000000), (1, 0x10000000), 0x0, 0x0, 0x0, 0x0, 0x0⟩ -- TWIN_QMODE
  , ⟨0x100100, (1, 0x10000000), (1, 0x10000000), (16, 16), 0x0, 0x0, 0x0, 0x0, 0x0⟩ -- TWIN_MREGr_BASE
  , ⟨0x100108, (1, 0x10000000), (1, 0x10000000), (16, 16), 0x0, 0x0, 0x0, 0x0, 0x0⟩ -- TWIN_MREGr_SIZE
  , ⟨0x110000, (1, 0x10000000), (1, 0x10000000), (1, 0x10000000), 0x0, 0x0, 0x0, 0x0, 0x0⟩ -- PNC_STATUS
  , ⟨0x110008, (1, 0x10000000), (1, 0x10000000), (1, 0x10000000), 0x0, 0x0, 0x0, 0x0, 0x0⟩ -- PNC_SCHED
  , ⟨0x110010, (1, 0x10000000), (1, 0x10000000), (1, 0x10000000), 0x0, 0x0, 0x0, 0x0, 0x0⟩ -- PNC_T0
  , ⟨0x110018, (1, 0x10000000), (1, 0x10000000), (1, 0x10000000), 0x5f, 0x0, 0x0, 0x0, 0xa0⟩ -- PNC_CTL
  , ⟨0x110020, (1, 0x10000000), (1, 0x10000000), (1, 0x10000000), 0x0, 0x200000, 0x0, 0x0, 0x0⟩ -- PNC_FAIL_LAST
  , ⟨0x110028, (1, 0x10000000), (1, 0x10000000), (1, 0x10000000), 0x0, 0x0, 0x0, 0x0, 0x0⟩ -- PNC_FAILED_COPIES
  , ⟨0x110030, (1, 0x10000000), (1, 0x10000000), (1, 0x10000000), 0x0, 0x0, 0x0, 0x0, 0x0⟩ -- PNC_FAILED_MISC
  , ⟨0x110038, (1, 0x10000000), (1, 0x10000000), (1, 0x10000000), 0x0, 0x0, 0x0, 0x0, 0x0⟩ -- PNC_SWEEP
  , ⟨0x110040, (1, 0x10000000), (1, 0x10000000), (1, 0x10000000), 0xfffffffffc0, 0x0, 0x0, 0x0, 0x0⟩ -- PNC_MT_BASE
  , ⟨0x110048, (1, 0x10000000), (1, 0x10000000), (1, 0x10000000), 0x3ffffffffc0, 0x0, 0x0, 0x0, 0x0⟩ -- PNC_MT_LEN
  , ⟨0x110050, (1, 0x10000000), (1, 0x10000000), (1, 0x10000000), 0x0, 0x0, 0x0, 0x0, 0x0⟩ -- PNC_MT_STAT
  ]

/-- Access masks of the registers, part 9 (R7, R8). -/
def regTable9 : List RegDesc :=
  [ ⟨0x110100, (1, 0x10000000), (1, 0x10000000), (32, 8), 0x0, 0x0, 0x0, 0x0, 0x0⟩ -- PNC_ENTn
  , ⟨0x110200, (1, 0x10000000), (1, 0x10000000), (32, 8), 0x0, 0x0, 0x0, 0x0, 0x0⟩ -- PNC_ENTn_STAT
  , ⟨0x0, (1, 0x10000000), (1, 0x10000000), (1, 0x10000000), 0x0, 0x0, 0x0, 0x0, 0x0⟩ -- SYS_ID
  , ⟨0x8, (1, 0x10000000), (1, 0x10000000), (1, 0x10000000), 0x0, 0x0, 0x0, 0x0, 0x0⟩ -- SYS_STATE
  , ⟨0x10, (1, 0x10000000), (1, 0x10000000), (1, 0x10000000), 0x0, 0x0, 0x0, 0x0, 0x0⟩ -- SYS_BOOT_STAT
  , ⟨0x18, (1, 0x10000000), (1, 0x10000000), (1, 0x10000000), 0x0, 0x0, 0x0, 0x0, 0x0⟩ -- SYS_BOOT_TIME
  , ⟨0x20, (1, 0x10000000), (1, 0x10000000), (1, 0x10000000), 0x0, 0x0, 0x0, 0x0, 0x0⟩ -- SYS_PERM
  , ⟨0x28, (1, 0x10000000), (1, 0x10000000), (1, 0x10000000), 0x0, 0x0, 0x0, 0x0, 0xffff⟩ -- SYS_SLEEP
  , ⟨0x30, (1, 0x10000000), (1, 0x10000000), (1, 0x10000000), 0x0, 0x0, 0x0, 0x0, 0xffff⟩ -- SYS_IPI
  , ⟨0x40, (1, 0x10000000), (1, 0x10000000), (1, 0x10000000), 0x0, 0x0, 0x0, 0x0, 0xffff0007⟩ -- SYS_LC_CTL
  , ⟨0x48, (1, 0x10000000), (1, 0x10000000), (1, 0x10000000), 0x0, 0x0, 0x0, 0x0, 0x0⟩ -- SYS_LC_STAT
  , ⟨0x50, (1, 0x10000000), (1, 0x10000000), (4, 8), 0x0, 0x0, 0x0, 0x0, 0x0⟩ -- SYS_LC_CHALn
  , ⟨0x80, (1, 0x10000000), (1, 0x10000000), (12, 8), 0x0, 0x0, 0x0, 0x0, 0xffffffffffffffff⟩ -- SYS_LC_RESPn
  , ⟨0x400, (1, 0x10000000), (1, 0x10000000), (22, 8), 0x0, 0x0, 0x0, 0x0, 0x0⟩ -- SYS_TAGQi
  , ⟨0x1000, (1, 0x10000000), (1, 0x10000000), (16, 64), 0x0, 0x0, 0x0, 0x0, 0x0⟩ -- SYS_TRIt_START
  , ⟨0x1008, (1, 0x10000000), (16, 64), (4, 8), 0x0, 0x0, 0x0, 0x0, 0x0⟩ -- SYS_TRIt_LRANGEk
  , ⟨0x120000, (1, 0x10000000), (1, 0x10000000), (1, 0x10000000), 0x0, 0x400, 0x0, 0x0, 0x0⟩ -- HBX_STATUS
  , ⟨0x120008, (1, 0x10000000), (1, 0x10000000), (1, 0x10000000), 0x0, 0x0, 0x0, 0x0, 0x0⟩ -- HBX_CFG
  , ⟨0x120010, (1, 0x10000000), (1, 0x10000000), (1, 0x10000000), 0x0, 0x40, 0x0, 0x0, 0x0⟩ -- HBX_RET
  , ⟨0x120100, (1, 0x10000000), (1, 0x10000000), (8, 16), 0x0, 0x0, 0x0, 0x0, 0x0⟩ -- HBX_INn_CFG
  , ⟨0x120108, (1, 0x10000000), (1, 0x10000000), (8, 16), 0x0, 0x0, 0x0, 0x0, 0x0⟩ -- HBX_INn_VAL
  , ⟨0x120200, (1, 0x10000000), (1, 0x10000000), (16, 8), 0x0, 0x0, 0x0, 0x0, 0x0⟩ -- HBX_RULEr
  , ⟨0x120300, (1, 0x10000000), (1, 0x10000000), (16, 8), 0x0, 0x0, 0x0, 0x0, 0x0⟩ -- HBX_EVLOGn
  , ⟨0x140000, (1, 0x10000000), (1, 0x10000000), (1, 0x10000000), 0x0, 0x0, 0x0, 0x0, 0x0⟩ -- NVM_STATUS
  ]

/-- Access masks of the registers, part 10 (R7, R8). -/
def regTable10 : List RegDesc :=
  [ ⟨0x140008, (1, 0x10000000), (1, 0x10000000), (1, 0x10000000), 0x0, 0x0, 0x0, 0x0, 0x0⟩ -- NVM_IMG
  , ⟨0x140010, (1, 0x10000000), (1, 0x10000000), (1, 0x10000000), 0x0, 0x0, 0x0, 0x0, 0x0⟩ -- NVM_TIME
  , ⟨0x140018, (1, 0x10000000), (1, 0x10000000), (1, 0x10000000), 0x0, 0x0, 0x0, 0x0, 0x0⟩ -- NVM_PROG
  , ⟨0x140020, (1, 0x10000000), (1, 0x10000000), (1, 0x10000000), 0x0, 0x0, 0x0, 0x0, 0x0⟩ -- NVM_CODE_PROG
  , ⟨0x130000, (1, 0x10000000), (1, 0x10000000), (1, 0x10000000), 0x0, 0x0, 0x0, 0x0, 0x0⟩ -- CLK_STATUS
  , ⟨0x130008, (1, 0x10000000), (1, 0x10000000), (1, 0x10000000), 0x0, 0x0, 0x0, 0x0, 0x0⟩ -- CLK_REF
  , ⟨0x130010, (1, 0x10000000), (1, 0x10000000), (1, 0x10000000), 0x0, 0x0, 0x0, 0x0, 0x0⟩ -- CLK_TEMP_THR
  , ⟨0x130100, (1, 0x10000000), (1, 0x10000000), (11, 8), 0x0, 0x0, 0x0, 0x0, 0x0⟩ -- CLK_PLLp
  , ⟨0x130200, (1, 0x10000000), (1, 0x10000000), (10, 8), 0x0, 0x0, 0x0, 0x0, 0x0⟩ -- CLK_VMONs
  , ⟨0x130300, (1, 0x10000000), (1, 0x10000000), (6, 8), 0x0, 0x0, 0x0, 0x0, 0x0⟩ -- CLK_TEMPi
  , ⟨0x130400, (1, 0x10000000), (1, 0x10000000), (1, 0x10000000), 0x0, 0x0, 0x0, 0x0, 0x1ffffff⟩ -- CLK_I2C_CMD
  , ⟨0x130408, (1, 0x10000000), (1, 0x10000000), (1, 0x10000000), 0x0, 0x0, 0x0, 0x0, 0x0⟩ -- CLK_I2C_STAT
  , ⟨0x130500, (1, 0x10000000), (1, 0x10000000), (1, 0x10000000), 0xffffffff, 0x0, 0x0, 0x0, 0x0⟩ -- CLK_GPIO_DIR
  , ⟨0x130508, (1, 0x10000000), (1, 0x10000000), (1, 0x10000000), 0xffffffff, 0x0, 0x0, 0x0, 0x0⟩ -- CLK_GPIO_OUT
  , ⟨0x130510, (1, 0x10000000), (1, 0x10000000), (1, 0x10000000), 0x0, 0x0, 0x0, 0x0, 0x0⟩ -- CLK_GPIO_IN
  ]

/-- The whole register table of the device (R7, R8). -/
def regTable : List RegDesc :=
  regTable0 ++ regTable1 ++ regTable2 ++ regTable3 ++ regTable4 ++ regTable5 ++ regTable6 ++ regTable7 ++ regTable8 ++ regTable9 ++ regTable10

end Sys2Proof.Machine
end

