-- ==== Sys2Proof/Machine/State.lean ====
section
/-!
DEFINITION. The state of the device as plain data: the register file of the MMIO blocks, the byte memories, the sixteen triads with
their three copies each, the engines and queues behind the registers, the pins, and the queue of waiting commands.
Every array is a sparse map in one canonical form (keys strictly rising, no entry equal to the map's default). The default of each
map is what an unlisted key reads as; it is named beside the map's accessor in Machine/Ops.lean.
-/

namespace Sys2Proof.Machine

/-- A sparse array: key and value pairs, keys strictly rising, no value equal to the array's default. -/
abbrev SMap (α : Type) := List (Nat × α)

/-! ### A core copy (chapters 02 to 05) -/

/-- The arrays of a copy that carry codes of their own (R131, R132). -/
inductive ArrayId where
  | icache | itag | dcache | dtag | tcm | tlb | btb
  deriving DecidableEq, Repr

/-- An entry of the scalar TLB (R155 to R162). `size` is 0 for 4 KiB, 1 for 2 MiB and 2 for 1 GiB. -/
structure TlbEntry where
  v    : Bool
  lock : Bool
  pin  : Bool
  size : Nat
  vpn  : Nat
  asid : Nat
  pte  : Word
  deriving DecidableEq, Repr

/-- A line of the instruction or data cache (R110, R125, R128): `line` is the physical address divided by the line size, `flag` the
lock bit of an instruction-cache line (R126) and the dirty bit of a data-cache line, `age` the stamp of its last use. -/
structure CacheLine where
  valid : Bool
  flag  : Bool
  line  : Nat
  data  : Nat
  age   : Nat
  deriving DecidableEq, Repr

/-- An entry of the branch-target buffer (R123). -/
structure BtbEntry where
  valid  : Bool
  tag    : Nat
  target : Word
  deriving DecidableEq, Repr

/-- A 32-byte line buffer of the F stage (R122): `bad` lists its 64-bit words that were read with an uncorrectable error, each with the array word or
entry that has it (R426), and bit j of `lack` marks word j as not held, because its fetch failed before any instruction needed it (R88, R120). -/
structure FLine where
  valid : Bool
  va    : Nat
  data  : Nat
  bad   : List (Nat × ArrayId × Nat)
  lack  : Nat
  deriving DecidableEq, Repr

/-- What a copy is doing between two commands. -/
inductive CopyRun where
  /-- it executes instructions -/
  | run
  /-- stopped in WFI (R108) -/
  | wfi
  /-- waits at MSYNC; the status goes to register `d` (R77 to R80) -/
  | msync (d : RegNo) (len16 : Bool)
  /-- waits for the value of a coprocessor instruction (R114) -/
  | cop
  /-- waits at a read of an agreed value of class `cls` whose agreement has delivered nothing (R428) -/
  | agree (cls : Nat)
  /-- its clock is held: isolated, parked or not yet rebuilt (R55, R70) -/
  | held
  /-- halted by the debugger (R81) -/
  | dbg
  /-- stopped until reset (R132, R139) -/
  | dead
  deriving DecidableEq, Repr

/-- A core copy: its architectural registers (R84), its interrupt controller, its arrays and its F stage. `pend` is the loaded value not yet written
(R96), `slot` says that the next instruction is in a load's delay slot (R97); `ue` and `ce` are the words of its arrays that read with an
uncorrectable and with a correctable error (R131, R132): word j of instruction-cache line k is 4 * k + j, of data-cache line k 8 * k + j. -/
structure Copy where
  g         : SMap Word
  f         : SMap Word
  pc        : Word
  psr       : Word
  fcsr      : Word
  cause     : Word
  faultVa   : Word
  tlbMissVa : Word
  acmp      : Word
  asid      : Word
  vectb     : Word
  troute    : Word
  fctx      : Word
  instret   : Word
  cycle     : Word
  icLvl     : SMap Word
  icEn      : SMap Word
  icPend    : SMap Word
  icMask    : Word
  icState   : Word
  icStk     : Word
  icTcmp    : Word
  icSources : List Nat
  pend      : Option (Bool × RegNo × Word)
  slot      : Bool
  tlb       : SMap TlbEntry
  tlbPtr    : Nat
  icache    : SMap CacheLine
  dcache    : SMap CacheLine
  lru       : Nat
  btb       : SMap BtbEntry
  fCur      : FLine
  fNext     : FLine
  fPre      : FLine
  ue        : List (ArrayId × Nat)
  ce        : List (ArrayId × Nat)
  status    : CopyRun
  deriving DecidableEq, Repr

/-- The status of a response (R118, R177). -/
inductive RespStatus where
  | ok | denied | ue | timeout
  deriving DecidableEq, Repr

/-- A response: its status and its data as a little-endian number. -/
structure Resp where
  status : RespStatus
  data   : Nat
  deriving DecidableEq, Repr

/-- What a triad holds outside its copies and its registers. -/
structure Triad where
  /-- the triad has been released (R388) -/
  released  : Bool
  /-- an armed comparison injection: group, copy, bit (R60) -/
  inject    : Option (Nat × Nat × Nat)
  /-- the last agreed time delivered (R65) -/
  lastTime  : Word
  /-- consecutive minority counts, by class and copy, and PAIR differences by class (R64) -/
  minority  : SMap Nat
  /-- the opener's cycle count at which each agreement slot is released (R66, R67) -/
  slotBusy  : SMap Nat
  /-- RESYNC_FAIL has been raised since reset (R73, R76) -/
  resyncBad : Bool
  /-- the copies being rebuilt, and the length of the rebuild so far in units of 10 ns -/
  rebuild   : List Nat
  rebuilt10 : Nat
  /-- a mode transition in progress: target mode, spare bit (R79) -/
  trans     : Option (Nat × Bool)
  /-- the microcode patch table, word w of entry e at 16*e + w, header at 16*e + 8, and PATCH_IDX (R116) -/
  patch     : SMap Word
  patchIdx  : Word
  /-- the copy that the next Pounce injection hold uses (R59) -/
  holdCopy  : Nat
  /-- the running time at which the watchdog's count last started from zero (R83) -/
  wdogFrom  : Nat
  /-- the running time at which the first copy of a SPLIT triad reached the barrier (R78) -/
  msyncFrom : Nat
  /-- loads of GATE_DRAIN under way, by copy tag: the gate and the requests they wait for (R179) -/
  drain     : List (Nat × Nat × List Nat)
  /-- the requests of the accesses in progress that have their response, with it: the rest of such an access waits (R252, R265) -/
  got       : List (MeshReq × Resp)
  deriving DecidableEq, Repr

/-! ### FCRU, mesh and gates (chapters 01 and 05) -/

/-- A source detected and not yet evaluated: its ID, the low 40 bits of the device count at detection, the group that R21 names for a
source raised on behalf of an initiator, whether the source's triad was in VOTE mode with three live copies (R20), and the matrix entries in force at
the detection (R36): the source's own, and that of RESYNC_FAIL of its triad (R29). -/
structure Detection where
  src   : Nat
  time  : Nat
  grp   : Option Nat
  full  : Bool
  entry : Word
  fail  : Word
  deriving DecidableEq, Repr

/-- A memory operation in flight (R37, R38, R42, R175): its number, the gate it passed, the epoch it carries, the device count at its
issue in nanoseconds of running time, whether it still holds its tag, whether its target has served it, the response its target has given, and whether
an instruction of a triad waits for it. -/
structure Flight where
  num   : Nat
  gate  : Nat
  epoch : Nat
  time  : Nat
  held  : Bool
  done  : Bool
  req   : MeshReq
  resp  : Resp
  own   : Bool
  deriving DecidableEq, Repr

/-- A read of GATE_DRAIN that has not responded: who reads, which gate, and the numbers of the requests it waits for (R179). -/
structure Drain where
  rq   : Rq
  gate : Nat
  wait : List Nat
  deriving DecidableEq, Repr

/-- The memory tag table and what hangs on it (R37 to R43). `late` lists the accesses, by initiator, address and whether they write, whose response timeout has fired: the
instruction that makes such an access finds no response. -/
structure Mesh where
  nextNum : Nat
  flights : List Flight
  epochs  : SMap Nat
  stalled : List MeshReq
  drains  : List Drain
  last    : SMap Resp
  late    : List (Nat × Word × Bool)
  deriving DecidableEq, Repr

/-- An entry of a context's Fuller TLB (R163). -/
structure FulTlbEntry where
  valid : Bool
  size  : Nat
  vpn   : Nat
  asid  : Nat
  pte   : Word
  age   : Nat
  deriving DecidableEq, Repr

/-- An entry of a context's walk cache (R164). -/
structure WcEntry where
  asid  : Nat
  level : Nat
  pfx   : Nat
  ppn   : Nat
  age   : Nat
  deriving DecidableEq, Repr

/-- The translation state of a Fuller context (R163 to R166). -/
structure Xlt where
  tlb  : SMap FulTlbEntry
  wc   : List WcEntry
  tick : Nat
  deriving DecidableEq, Repr

/-! ### Fuller (chapters 06 and 07) -/

/-- An issue packet on its way to a context (R112, R191): the word, the scalar operands and the copy tag. -/
structure FulPkt where
  word : BitVec 32
  a    : Word
  b    : Word
  tag  : Nat
  deriving DecidableEq, Repr

/-- An accepted instruction (R193, R196): its sequence number, its word and operands, the VL and VTYPE it captured, whether it has been
deferred in the present window (R210), and the memory its elements have written. `next` is the next element of a VLD or VST that has started (R210),
`newVl` the VL that a first-fault stream leaves at its completion (R232, R233); `old` and `oldBad` hold the registers of its destination's kind, and their
poison, as they were at its start (R205, R212). -/
structure FulOp where
  seq      : Nat
  word     : BitVec 32
  a        : Word
  b        : Word
  tag      : Nat
  vl       : Nat
  vtype    : Nat
  deferred : Bool
  written  : List (Nat × Nat)
  next     : Nat
  newVl    : Option Nat
  old      : SMap Word
  oldBad   : SMap Bool
  deriving DecidableEq, Repr

/-- A granule of a source held in the staging area (R224): the source, the virtual granule, its slot, its page's NA hint, and the physical address it
was read from. -/
structure Staged where
  src  : Nat
  gran : Nat
  slot : Nat
  na   : Bool
  pa   : Nat
  deriving DecidableEq, Repr

/-- A granule that a load stage has fetched for the chunk it loads (R221): the source that fetched it, the virtual granule, the physical address, and the
64 bytes. -/
structure Gran where
  src  : Nat
  gran : Nat
  pa   : Nat
  data : Nat
  deriving DecidableEq, Repr

/-- A source element in the stream buffer (R222, R241): its value, whether it is poisoned, whether its block is the very block that DST is (R226), and
the bytes it was read from. -/
structure SrcVal where
  val : Nat
  bad : Bool
  own : Bool
  ps  : List (Nat × Nat)
  deriving DecidableEq, Repr

/-- A stream in progress (R214 to R238): its descriptor as a little-endian number, the next element that OP takes and the next that the load stages
take, the results of the current reduction block, the combined earlier blocks, whether an element of the reduction was poisoned, the prefetch positions
of the sources, the staged granules, oldest first, the granules of the chunk being loaded, the stream buffer, one list of source elements for each step of
OP, the load fault to be taken behind it (element, cause, address), the bytes read and written by blocks that are not the same block, and those that other
initiators have written since the stream's start (R226). -/
structure Strm where
  desc    : Nat
  pos     : Nat
  lpos    : Nat
  blk     : List Nat
  acc     : Option Nat
  bad     : Bool
  pf      : SMap Nat
  staged  : List Staged
  grans   : List Gran
  buf     : List (List SrcVal)
  err     : Option (Nat × Nat × Nat)
  reads   : List (Nat × Nat)
  writes  : List (Nat × Nat)
  foreign : List (Nat × Nat)
  deriving DecidableEq, Repr

/-- A context (R187, R191, R200, R241): vector word j of register r at 512 * r + j, mask word j of register r at 64 * r + j, and the words
that carry poison. `vUe` and `vCe` are the words of its register file that read with an uncorrectable and with a correctable error (R182): word j of
vector register r at 512 * r + j, of mask register r at 0x4000 + 64 * r + j, the word index of an array location code. -/
structure Ctx where
  v        : SMap Word
  vPoison  : SMap Bool
  m        : SMap Word
  mPoison  : SMap Bool
  vUe      : List Nat
  vCe      : List Nat
  crossing : List FulPkt
  queue    : List FulOp
  run      : List FulOp
  ret      : List (Nat × Word)
  strm     : Option Strm
  wdogFrom : Nat
  deriving DecidableEq, Repr

/-- The schedule and power gating of the slices (R209, R213): the frame in progress, the power-gating control in force, the running time at which each
slice was last not idle, and, in a hand-over gap, the contexts whose grant has changed and those that have lost a slice (R207, R212). -/
structure Fuller where
  frame   : Nat
  pg      : Word
  busy    : SMap Nat
  changed : List Nat
  lost    : List Nat
  deriving DecidableEq, Repr

/-! ### Memories and their protection (chapters 08 and 09) -/

/-- A merge-buffer entry (R284): the unit it holds and the bytes written to it. -/
structure MergeEnt where
  unit : Nat
  mask : Nat
  deriving DecidableEq, Repr

/-- What the memories hold beside their data (R248, R252, R264, R270 to R276, R281, R284): by word (address / 8), the stored data bits that
differ from what was written, and by unit the check bits that differ and the mark of a unit written to read uncorrectable; the two copies of
the valid bits as a number from 0 to 3, plus 4 for a word that was not written before a copy came to be set (R274); the units that wait for a
corrected write-back, by address, and those of them whose write-back holds a miscorrected word (R271); the merge buffers, oldest entry first; the
cleared DRAM regions and those being cleared; the Stream SRAM banks that wait for a wake; the physical banks under test; the units a scrub has skipped. -/
structure Prot where
  flip     : SMap Nat
  chk      : SMap Nat
  forced   : SMap Bool
  valid    : SMap Nat
  wb       : List Nat
  miss     : List Nat
  merge    : List MergeEnt
  zod      : SMap Bool
  clearing : List Nat
  wakeQ    : List Nat
  testSs   : Nat
  testCr   : Nat
  skipped  : Nat
  deriving DecidableEq, Repr
/-! ### Ports and admission (chapter 10) -/

/-- The device time (R342): seconds, nanoseconds below 10^9, and the accumulator's fraction in units of 2^-16 x 10^-9 ns, the unit of
TIME_RATE. -/
structure DevTime where
  sec  : Nat
  ns   : Nat
  frac : Nat
  deriving DecidableEq, Repr

/-- A timestamp (R292, R344): seconds, nanoseconds and quarter-nanoseconds. -/
structure Stamp where
  sec : Nat
  ns  : Nat
  q   : Nat
  deriving DecidableEq, Repr

/-- A secure association (ETH_MSEC_*): `pn` is the next packet number of a transmit association or the lowest acceptable one of a receive
association, `next` the packet number that a receive association expects. -/
structure MsecSa where
  valid : Bool
  sci   : Nat
  key   : Nat
  salt  : Nat
  ssci  : Nat
  pn    : Nat
  next  : Nat
  deriving DecidableEq, Repr

/-- A frame that waits to be written to a ring or by the recorder (R301, R302, R334): its timestamp, the device count at its last bit, byte 11
of its descriptor, its entry, its R-TAG sequence number and its data. -/
structure RxRec where
  ts    : Stamp
  last  : Nat
  src   : Nat
  entry : Nat
  seq   : Nat
  data  : List Byte
  deriving DecidableEq, Repr

/-- A delivery ring outside its registers (R301): the records written since reset, the PHASE of the next descriptor (`flip` is its inverse),
and the records that wait, in the order in which they become visible. -/
structure Ring where
  rseq : Nat
  flip : Bool
  wait : List RxRec
  deriving DecidableEq, Repr

/-- The last frame with an R-TAG that a sequence recovery function passed (R299): the cycle in which it reached the function, its entry, and its
record. -/
structure CbWon where
  tick  : Nat
  entry : Nat
  frame : RxRec
  deriving DecidableEq, Repr

/-- A sequence recovery function (R299): whether it has taken a sequence number since its reset, the newest one, the history with bit i for
the number i below it, the device count at the last frame passed, and that frame. -/
structure CbFn where
  taken : Bool
  seq   : Nat
  hist  : Nat
  last  : Nat
  won   : Option CbWon
  deriving DecidableEq, Repr

/-- A gate control list (R312): the operational base, cycle and number of entries, the entry in force, and the change that is pending with the
time of its first cycle. -/
structure Gcl where
  base  : Nat
  cycle : Nat
  len   : Nat
  entry : Nat
  chg   : Option (Nat × Nat × Nat)
  deriving DecidableEq, Repr

/-- A gPTP frame diverted to the time block (R294 stage 3): MAC index, ingress timestamp and frame. -/
structure GptpIn where
  mac  : Nat
  ts   : Stamp
  data : List Byte
  deriving DecidableEq, Repr

/-- A frame that has left the device (R311): MAC index, its bytes from the destination address without FCS, and its egress timestamp. -/
structure TxFrame where
  mac  : Nat
  data : List Byte
  ts   : Stamp
  deriving DecidableEq, Repr

/-- The ports and the admission block outside their registers: secure associations by 32 * MAC index + 16 * direction + 4 * channel + number;
the write-only key registers by offset; times of recent ICV failures by port and of recently policed frames; by entry the interval
being counted and its frames; sequence recovery functions; rings (Crown RAM ring n at n, Stream SRAM ring n at 64 + n); gate control lists by
port; diverted gPTP frames; whether egress has been stopped; and the frames sent, oldest first. -/
structure Eth where
  sas     : SMap MsecSa
  keys    : SMap Word
  icv     : SMap (List Nat)
  police  : SMap (Nat × Nat)
  policed : List Nat
  cbf     : SMap CbFn
  rings   : SMap Ring
  gcl     : SMap Gcl
  gptp    : List GptpIn
  stopped : Bool
  sent    : List TxFrame
  deriving DecidableEq, Repr

/-! ### The host protocol and the recorder (chapter 11) -/

/-- A request frame in the command engine's queue (R315, R323): its class is CONTROLLED, the MAC index and timestamp of its arrival, its source
MAC, its C-tag if it has one, its source IP address and port if it came in UDP, and the DHP frame. -/
structure DhpReq where
  ctrl : Bool
  mac  : Nat
  ts   : Stamp
  src  : Nat
  ctag : Option Nat
  udp  : Option (Nat × Nat)
  data : List Byte
  deriving DecidableEq, Repr

/-- An open session (R320 to R322): its key K1 and K2 as one number, the held responses with their sequence numbers, oldest first, the number
of responses held so far, and the device count at its last authenticated request. -/
structure Sess where
  key   : Nat
  held  : List (Nat × List Byte)
  count : Nat
  last  : Nat
  deriving DecidableEq, Repr

/-- The command engine outside its registers: the host keys by number (R319), the sessions, the request queue, the frames in the response
queues with their port and queue (R316), whether a RESET_REQ has been answered and awaits its reset, with the port and queue of its response and how many
responses are to leave that queue up to it (R327), and of each job queue whether PROD has wrapped an odd number of times and how many jobs it holds (R328). -/
structure Dhp where
  keys  : SMap Nat
  sess  : SMap (Option Sess)
  queue : List DhpReq
  txq   : List (Nat × Nat × List Byte)
  resetDue : Bool
  resetResp : Option (Nat × Nat × Nat)
  flip  : SMap Bool
  held  : SMap Nat
  deriving DecidableEq, Repr

/-- The recorder outside its registers (R334 to R336): the records written since RESET_N, the records in the on-chip buffer, and the frames
dropped since the last GAP record. -/
structure Recdr where
  rseq : Nat
  buf  : List RxRec
  lost : Nat
  deriving DecidableEq, Repr


/-! ### Time and the twin (chapter 12) -/

/-- A TIME_OUT line (R350): its driven level, and the device time in quarter-nanoseconds up to which its edges have been generated. -/
structure TimeLine where
  level : Bool
  seen  : Nat
  deriving DecidableEq, Repr

/-- The time block outside its registers (R345, R346, R350, R351): the TIME_OUT lines, the capture FIFOs, oldest first, the values of TIME_RATE
at the last reference events, newest first, the consecutive events within 100 ns, the integral of the loop, the device count and the error
estimate at the entry to HOLDOVER, whether HOLDOVER_LIMIT has been raised in it, and the source that the image gives. -/
structure TimeB where
  lines : SMap TimeLine
  fifo  : SMap (List Stamp)
  rates : List Nat
  good  : Nat
  integ : Int
  hold  : Option (Nat × Nat)
  limit : Bool
  image : Nat
  deriving DecidableEq, Repr

/-- What a Zhegus frame carries (R352). -/
inductive ZBody where
  /-- the sender's time and its last applied JSEQ (R354) -/
  | heartbeat (time : DevTime) (applied : Nat)
  /-- journal entries (R357) -/
  | journal (es : List JEnt)
  /-- a block of a bulk synchronisation (R358) -/
  | bulk (pa : Nat) (d : List Byte)
  /-- the final JSEQ (R363) -/
  | handover (final : Nat)
  | handoverAck
  /-- role, epoch and the CRC-32 of the twin settings (R355) -/
  | config (role epoch crc : Nat)
  deriving DecidableEq, Repr

/-- A Zhegus frame that the device has sent: its header and what it carries. -/
structure ZFrame where
  hdr  : ZHdr
  body : ZBody
  deriving DecidableEq, Repr

/-- The twin logic outside its registers: the next frame sequence number to send and the next expected, the frames in the retry window with
their retransmissions (R353); the last JSEQ captured, the entries captured and not yet acknowledged, oldest first, and the ring position of the next
one (R357); the bytes of the regions copied by a bulk synchronisation in progress, and the last JSEQ captured when its copy ended (R358);
whether TWIN_ALIVE_OUT toggles and its level, whether every transmission has stopped (R18, R363), whether a HANDOVER_ACK is awaited; whether heartbeat
and sideband are lost (R354); a takeover triggered, with whether a HANDOVER triggered it, and whether its step 1 is done (R361, R362); the
lanes in use; and the frames sent, oldest first. -/
structure Twin where
  fseq    : Nat
  rseq    : Nat
  unacked : List (ZFrame × Nat)
  jseq    : Nat
  journal : List JEnt
  jpos    : Nat
  bulk    : Option Nat
  bulkEnd : Option Nat
  alive   : Bool
  level   : Bool
  silent  : Bool
  waitAck : Bool
  hbLost  : Bool
  sbLost  : Bool
  taking  : Option Bool
  begun   : Bool
  lanes   : Nat
  sent    : List ZFrame
  deriving DecidableEq, Repr

/-! ### Pounce (chapter 13) -/

/-- Where a schedule entry's slice is (R369, R371). -/
inductive SlicePhase where
  | idle
  /-- deferred, retried every 1 ms -/
  | deferred
  /-- waiting for a slice of its kind -/
  | waiting
  /-- let to run, not yet started -/
  | granted
  | running
  deriving DecidableEq, Repr

/-- A schedule entry outside its registers: the device count up to which its due times have been taken, where its slice is, the item and the
further items of the slice. -/
structure PncEnt where
  seen  : Nat
  phase : SlicePhase
  item  : Nat
  rest  : List Nat
  deriving DecidableEq, Repr

/-- An array scan in progress (R372): the entry, and TRI_STATUS and TRI_RESYNC_STAT at its start. -/
structure Scan where
  entry  : Nat
  status : Word
  resync : Word
  deriving DecidableEq, Repr

/-- Pounce outside its registers: the schedule entries, the next bit to flip by 64 * triad + 4 * group + copy (R368), the scans by triad, the supplies
whose monitor B is tested next, and the next lane of a rotating ZHEGUS_PRBS. -/
structure Pnc where
  ents  : SMap PncEnt
  flips : SMap Nat
  scans : SMap (Option Scan)
  side  : Nat
  lane  : Nat
  deriving DecidableEq, Repr

/-! ### Hatbox, start-up, life cycle and programming (chapter 14), clocks and pins (chapter 15) -/

/-- The OTP (R393, R397 to R399): life-cycle state, serial number, root key hashes that are programmed, revoked root keys, minimum SVN and device wrap key. -/
structure Otp where
  lc      : Nat
  id      : Word
  keys    : SMap (Option Nat)
  revoked : Nat
  minSvn  : Nat
  wrap    : Nat
  deriving DecidableEq, Repr

/-- Start-up (R366, R388 to R399): the image read, the root key that verified it, whether it asks for its SVN to be committed, the sources to raise once the
matrix takes effect, whether the device has been in RUN since the reset (R30), the device count at triad release, whether it halts at SAFE at
release (R366), the signature registers, whether the code store has been checked, and whether RESET_N is low (R387). -/
structure Boot where
  image   : List Byte
  pub     : List Byte
  commit  : Bool
  late    : List Nat
  ran     : Bool
  release : Option Nat
  toSafe  : Bool
  resp    : SMap Word
  codeOk  : Bool
  low     : Bool
  deriving DecidableEq, Repr

/-- Programming in MAINT (R400, R401): the flash, the sectors erased and the 256-byte units programmed since the entry to MAINT, the data being
programmed and the code-store data being written, each with its offset. -/
structure Nvm where
  flash  : SMap Byte
  erased : List Nat
  units  : SMap Bool
  prog   : Option (Nat × List Byte)
  code   : Option (Nat × List Byte)
  deriving DecidableEq, Repr

/-- A wake input (R376): the last raw samples, newest first, the filter's value with four fraction bits, and whether it has been sampled. -/
structure HbxIn where
  raws    : List Nat
  y       : Nat
  sampled : Bool
  deriving DecidableEq, Repr

/-- The retained results of DRAM training (R381, R389): DDR_CFG at the save, the junction temperature, and the saves since power-up. -/
structure TrainSave where
  cfg   : Word
  tj    : Nat
  saves : Nat
  deriving DecidableEq, Repr

/-- The Hatbox outside its registers: its inputs; PMIC_EN and PGOOD; whether OFF_MIN_MS have passed since PMIC_EN fell, and a WAKE decision held for it
(R385); whether a retry is due (R386); the stored time (R347); and the retained training results, locked remap entries and memory maps. -/
structure Hatbox where
  ins     : SMap HbxIn
  pmicEn  : Bool
  pgood   : Bool
  offDone : Bool
  held    : Bool
  retry   : Bool
  stored  : Option DevTime
  train   : Option TrainSave
  remaps  : List (Nat × Word)
  maps    : List (Nat × Word)
  deriving DecidableEq, Repr

/-- The clock block outside its registers: the PMIC transfer in progress (R422) and the levels that the board drives on the GPIO pins (R423). -/
structure Clk where
  i2c : Option Word
  ext : Nat
  deriving DecidableEq, Repr


/-! ### What the hardware has wrong -/

/-- What a check of a Fuller element finds (R222, R239, R243): a failed residue or parity of a lane, or of an address adder; in PAIRED checking two
results, two addresses or two store words that differ; a stream-buffer word of source `k` with an uncorrectable or a correctable error. -/
inductive CheckKind where
  | lane | addr | pairLane | pairAddr | pairStore | bufUe (k : Nat) | bufCe (k : Nat)
  deriving DecidableEq, Repr

/-- An error that the next check of an element of a context finds: the context, the element, and what it is. -/
structure LaneErr where
  ctx  : Nat
  elem : Nat
  kind : CheckKind
  deriving DecidableEq, Repr

/-- Internal errors that the device has at the moment and that no row of the command table makes (log entry 161): the SAFE_N pins that FCRU instance F1
would demand in the next evaluation where it decides differently from F0 (R17); the triads whose two Conformer instances disagree on the next
comparison, or whose two-rail checker is faulty (R52, R58); the triads whose verification signatures differ (R73); the gates whose rule
storage reads with an uncorrectable error (R178); the code units whose next read selects another unit, with that unit (R271, R272); the DRAM lines whose
next read meets an error of the channel that a second read does not (R280); the DRAM regions whose map word is uncorrectable (R267); and the
errors that the next check of a Fuller element finds. -/
structure Latent where
  f1     : Option Nat
  conf   : List Nat
  sig    : List Nat
  gate   : List Nat
  rows   : List (Nat × Nat)
  lines  : List Nat
  zod    : List Nat
  checks : List LaneErr
  deriving DecidableEq, Repr

/-! ### The whole state -/

/-- The device. -/
structure State where
  /-- the registers of the MMIO blocks, by offset from 0x600_0000_0000; an unlisted register reads 0 -/
  regs     : SMap Word
  /-- the bytes of DRAM, Stream SRAM, Crown RAM, code store and data TCMs, by physical address -/
  mem      : List Host.Cell
  /-- the copies, copy c of triad t at 3*t + c -/
  copies   : SMap Copy
  /-- the triads -/
  triads   : SMap Triad
  /-- fault sources detected and not yet evaluated, oldest first -/
  detected : List Detection
  /-- the memory tag table -/
  mesh     : Mesh
  /-- shadow copies of the gate rules' BASE, LIMIT and MASK, by register offset (R176) -/
  shadow   : SMap Word
  /-- translation state of the Fuller contexts (R163) -/
  xlt      : SMap Xlt
  /-- the Fuller contexts -/
  ctxs     : SMap Ctx
  /-- the Fuller schedule -/
  ful      : Fuller
  /-- protection state of the memories -/
  prot     : Prot
  /-- LL reservations by initiator: the 64-byte granule held (R106) -/
  resv     : SMap (Option Nat)
  /-- the device time (R342) -/
  time     : DevTime
  /-- the ports and the admission block -/
  eth      : Eth
  /-- the command engine of the host protocol -/
  dhp      : Dhp
  /-- the recorder -/
  recd     : Recdr
  /-- the time block -/
  timeB    : TimeB
  /-- the twin logic -/
  twin     : Twin
  /-- the self-test -/
  pnc      : Pnc
  /-- one-time programmable memory -/
  otp      : Otp
  /-- start-up -/
  boot     : Boot
  /-- the flash and programming -/
  nvm      : Nvm
  /-- the Hatbox -/
  hbx      : Hatbox
  /-- clocks and pins -/
  clk      : Clk
  /-- internal errors waiting to be found -/
  latent   : Latent
  /-- the nanoseconds for which the TIME clock has run since the reset; no write moves it -/
  ticks    : Nat
  /-- the model's own counter of free values drawn (log entry 3) -/
  free     : Nat
  /-- the commands that are waiting, first in first out -/
  pending  : List Instr
  deriving DecidableEq, Repr

/-- A fault stops the machine. No command raises one: the device answers every command with a state. -/
inductive Fault where
  /-- a command names a thing the device does not have; raised by no arm of `exec` (safe) -/
  | noSuchThing
  deriving DecidableEq, Repr

/-- A refusal says why a command has no meaning. -/
inductive Refusal where
  /-- no meaning written yet; raised by `exec` for the row named (safe) -/
  | notModelled (mnemonic : String)
  deriving DecidableEq, Repr

def TlbEntry.empty : TlbEntry := { v := false, lock := false, pin := false, size := 0, vpn := 0, asid := 0, pte := 0 }
def CacheLine.empty : CacheLine := { valid := false, flag := false, line := 0, data := 0, age := 0 }
def BtbEntry.empty : BtbEntry := { valid := false, tag := 0, target := 0 }
def FLine.empty : FLine := { valid := false, va := 0, data := 0, bad := [], lack := 0 }

/-- A copy right after reset: PSR with CC = AL and level MON (03, "PSR"), IC_TCMP all ones (04, "IC_TCMP"), everything else zero or
empty; general registers and the program counter have no stated reset value (log entry 1). -/
def Copy.reset : Copy :=
  { g := [], f := [], pc := 0, psr := 0x270, fcsr := 0, cause := 0, faultVa := 0, tlbMissVa := 0, acmp := 0, asid := 0, vectb := 0,
    troute := 0, fctx := 0, instret := 0, cycle := 0, icLvl := [], icEn := [], icPend := [], icMask := 0, icState := 0, icStk := 0,
    icTcmp := 0xFFFFFFFFFFFFFFFF, icSources := [], pend := none, slot := false, tlb := [], tlbPtr := 0, icache := [], dcache := [], lru := 0,
    btb := [], fCur := FLine.empty, fNext := FLine.empty, fPre := FLine.empty, ue := [], ce := [], status := .held }

def Triad.reset : Triad :=
  { released := false, inject := none, lastTime := 0, minority := [], slotBusy := [], resyncBad := false, rebuild := [], rebuilt10 := 0,
    trans := none, patch := [], patchIdx := 0, holdCopy := 0, wdogFrom := 0, msyncFrom := 0, drain := [], got := [] }

/-- No internal error. -/
def Latent.none : Latent :=
  { f1 := Option.none, conf := [], sig := [], gate := [], rows := [], lines := [], zod := [], checks := [] }

def Mesh.reset : Mesh := { nextNum := 0, flights := [], epochs := [], stalled := [], drains := [], last := [], late := [] }

def FulTlbEntry.empty : FulTlbEntry := { valid := false, size := 0, vpn := 0, asid := 0, pte := 0, age := 0 }
def Xlt.reset : Xlt := { tlb := [], wc := [], tick := 0 }

/-- A context after reset: all registers zero, nothing queued (R182, R187, R241). -/
def Ctx.reset : Ctx :=
  { v := [], vPoison := [], m := [], mPoison := [], vUe := [], vCe := [], crossing := [], queue := [], run := [], ret := [], strm := none,
    wdogFrom := 0 }

/-- A stream that has read its descriptor (R214). -/
def Strm.start (d : Nat) : Strm :=
  { desc := d, pos := 0, lpos := 0, blk := [], acc := none, bad := false, pf := [], staged := [], grans := [], buf := [], err := none, reads := [],
    writes := [], foreign := [] }

def Fuller.reset : Fuller := { frame := 0, pg := 0, busy := [], changed := [], lost := [] }

/-- The memories after power-up: nothing written, no region cleared (R266, R273). -/
def Prot.reset : Prot :=
  { flip := [], chk := [], forced := [], valid := [], wb := [], miss := [], merge := [], zod := [], clearing := [], wakeQ := [], testSs := 0, testCr := 0,
    skipped := 0 }

def DevTime.zero : DevTime := { sec := 0, ns := 0, frac := 0 }
def Stamp.zero : Stamp := { sec := 0, ns := 0, q := 0 }
def MsecSa.empty : MsecSa := { valid := false, sci := 0, key := 0, salt := 0, ssci := 0, pn := 0, next := 0 }
def Ring.reset : Ring := { rseq := 0, flip := false, wait := [] }
def CbFn.reset : CbFn := { taken := false, seq := 0, hist := 0, last := 0, won := none }
def Gcl.reset : Gcl := { base := 0, cycle := 0, len := 0, entry := 0, chg := none }
def Eth.reset : Eth :=
  { sas := [], keys := [], icv := [], police := [], policed := [], cbf := [], rings := [], gcl := [], gptp := [], stopped := false, sent := [] }
def Dhp.reset : Dhp := { keys := [], sess := [], queue := [], txq := [], resetDue := false, resetResp := none, flip := [], held := [] }
def TimeLine.reset : TimeLine := { level := false, seen := 0 }
def TimeB.reset : TimeB := { lines := [], fifo := [], rates := [], good := 0, integ := 0, hold := none, limit := false, image := 0 }
def Twin.reset : Twin :=
  { fseq := 0, rseq := 0, unacked := [], jseq := 0, journal := [], jpos := 0, bulk := none, bulkEnd := none, alive := false, level := false,
    silent := false, waitAck := false, hbLost := false, sbLost := false, taking := none, begun := false, lanes := 0, sent := [] }
def PncEnt.reset : PncEnt := { seen := 0, phase := .idle, item := 0, rest := [] }
def Pnc.reset : Pnc := { ents := [], flips := [], scans := [], side := 0, lane := 0 }

/-- A BLANK part: nothing programmed (log entry 22). -/
def Otp.blank : Otp := { lc := 0, id := 0, keys := [], revoked := 0, minSvn := 0, wrap := 0 }
def Boot.reset : Boot :=
  { image := [], pub := [], commit := false, late := [], ran := false, release := none, toSafe := false, resp := [], codeOk := false, low := false }
def flashErased : Byte := 0xFF
def Nvm.reset : Nvm := { flash := [], erased := [], units := [], prog := none, code := none }
def HbxIn.reset : HbxIn := { raws := [], y := 0, sampled := false }

/-- The Hatbox when VDD_AON is first applied (R383). -/
def Hatbox.powerUp : Hatbox :=
  { ins := [], pmicEn := false, pgood := false, offDone := true, held := false, retry := false, stored := none, train := none, remaps := [],
    maps := [] }
def Clk.reset : Clk := { i2c := none, ext := 0 }
def Recdr.reset : Recdr := { rseq := 0, buf := [], lost := 0 }

/-- The registers whose reset value is not zero, from the Reset columns of spec/ and from R427. -/
def resetRegs : SMap Word :=
  [ (0x8, 0x2) -- SYS_STATE
  , (0x10, 0x3) -- SYS_BOOT_STAT
  , (0x10000, 0x3D) -- FCRU_STATUS
  , (0x20018, 0x64) -- TRI_MSYNC_TMO
  , (0x21018, 0x64) -- TRI_MSYNC_TMO
  , (0x22018, 0x64) -- TRI_MSYNC_TMO
  , (0x23018, 0x64) -- TRI_MSYNC_TMO
  , (0x24018, 0x64) -- TRI_MSYNC_TMO
  , (0x25018, 0x64) -- TRI_MSYNC_TMO
  , (0x26018, 0x64) -- TRI_MSYNC_TMO
  , (0x27018, 0x64) -- TRI_MSYNC_TMO
  , (0x28018, 0x64) -- TRI_MSYNC_TMO
  , (0x29018, 0x64) -- TRI_MSYNC_TMO
  , (0x2A018, 0x64) -- TRI_MSYNC_TMO
  , (0x2B018, 0x64) -- TRI_MSYNC_TMO
  , (0x2C018, 0x64) -- TRI_MSYNC_TMO
  , (0x2D018, 0x64) -- TRI_MSYNC_TMO
  , (0x2E018, 0x64) -- TRI_MSYNC_TMO
  , (0x2F018, 0x64) -- TRI_MSYNC_TMO
  , (0x30008, 0x10) -- IAU_TIME_WIN
  , (0x30010, 0x8) -- IAU_PERSIST
  , (0x70100, 0x5A928398A418820) -- MEM_SS_MAPg_LO
  , (0x70108, 0x107B9AC) -- MEM_SS_MAPg_HI
  , (0x70110, 0x5A928398A418820) -- MEM_SS_MAPg_LO
  , (0x70118, 0x107B9AC) -- MEM_SS_MAPg_HI
  , (0x70120, 0x5A928398A418820) -- MEM_SS_MAPg_LO
  , (0x70128, 0x107B9AC) -- MEM_SS_MAPg_HI
  , (0x70130, 0x5A928398A418820) -- MEM_SS_MAPg_LO
  , (0x70138, 0x107B9AC) -- MEM_SS_MAPg_HI
  , (0x70140, 0x5A928398A418820) -- MEM_SS_MAPg_LO
  , (0x70148, 0x107B9AC) -- MEM_SS_MAPg_HI
  , (0x70150, 0x5A928398A418820) -- MEM_SS_MAPg_LO
  , (0x70158, 0x107B9AC) -- MEM_SS_MAPg_HI
  , (0x70160, 0x5A928398A418820) -- MEM_SS_MAPg_LO
  , (0x70168, 0x107B9AC) -- MEM_SS_MAPg_HI
  , (0x70170, 0x5A928398A418820) -- MEM_SS_MAPg_LO
  , (0x70178, 0x107B9AC) -- MEM_SS_MAPg_HI
  , (0x70180, 0x5A928398A418820) -- MEM_SS_MAPg_LO
  , (0x70188, 0x107B9AC) -- MEM_SS_MAPg_HI
  , (0x70190, 0x5A928398A418820) -- MEM_SS_MAPg_LO
  , (0x70198, 0x107B9AC) -- MEM_SS_MAPg_HI
  , (0x701A0, 0x5A928398A418820) -- MEM_SS_MAPg_LO
  , (0x701A8, 0x107B9AC) -- MEM_SS_MAPg_HI
  , (0x701B0, 0x5A928398A418820) -- MEM_SS_MAPg_LO
  , (0x701B8, 0x107B9AC) -- MEM_SS_MAPg_HI
  , (0x701C0, 0x5A928398A418820) -- MEM_SS_MAPg_LO
  , (0x701C8, 0x107B9AC) -- MEM_SS_MAPg_HI
  , (0x701D0, 0x5A928398A418820) -- MEM_SS_MAPg_LO
  , (0x701D8, 0x107B9AC) -- MEM_SS_MAPg_HI
  , (0x701E0, 0x5A928398A418820) -- MEM_SS_MAPg_LO
  , (0x701E8, 0x107B9AC) -- MEM_SS_MAPg_HI
  , (0x701F0, 0x5A928398A418820) -- MEM_SS_MAPg_LO
  , (0x701F8, 0x107B9AC) -- MEM_SS_MAPg_HI
  , (0x70200, 0xEDCBA9876543210) -- MEM_CR_MAP
  , (0x70208, 0xF) -- MEM_CR_SPARE
  , (0x80008, 0x4) -- EDC_CE_THRESH
  , (0x80218, 0x10) -- EDC_SCRUB_CFG
  , (0x90018, 0x20000) -- DDR_ZOD_STAT
  , (0xD0100, 0x20) -- DHP_KEYk
  , (0xD0108, 0x20) -- DHP_KEYk
  , (0xD0110, 0x20) -- DHP_KEYk
  , (0xD0118, 0x20) -- DHP_KEYk
  , (0xD0120, 0x20) -- DHP_KEYk
  , (0xD0128, 0x20) -- DHP_KEYk
  , (0xD0130, 0x20) -- DHP_KEYk
  , (0xD0138, 0x20) -- DHP_KEYk
  , (0x120008, 0x5) -- HBX_CFG
  , (0x130010, 0x8073) -- CLK_TEMP_THR
  , (0x140000, 0x1) -- NVM_STATUS
  ]

/-- The machine right after reset (power-on, BOOT, nothing applied yet). -/
def State.reset : State :=
  { regs := resetRegs, mem := [], copies := [], triads := [], detected := [], mesh := Mesh.reset, shadow := [], xlt := [], ctxs := [],
    ful := Fuller.reset, prot := Prot.reset, resv := [],
    time := DevTime.zero, eth := Eth.reset, dhp := Dhp.reset, recd := Recdr.reset, timeB := TimeB.reset,
    twin := Twin.reset, pnc := Pnc.reset, otp := Otp.blank, boot := Boot.reset, nvm := Nvm.reset,
    hbx := { Hatbox.powerUp with pmicEn := true, pgood := true }, clk := Clk.reset, latent := Latent.none, ticks := 0,
    free := 0, pending := [] }

end Sys2Proof.Machine
end

