-- ==== Sys2Proof/Machine/Ops.lean ====
section
/-!
DEFINITION. The shared operations over the state: bit fields, sparse arrays, registers of the MMIO blocks, bytes of memory, copies and
triads, raising a fault source and setting an interrupt latch.
-/

namespace Sys2Proof.Machine

/-! ### Bit fields (R6) -/

/-- A 64-bit word whose low `len` bits are ones. -/
def mask64 (len : Nat) : Word := BitVec.ofNat 64 (2 ^ len - 1)

/-- The field of `len` bits of `w` that starts at bit `lo`, as a number. -/
def bits (w : Word) (lo len : Nat) : Nat := ((w >>> lo) &&& mask64 len).toNat

/-- `w` with the field of `len` bits at bit `lo` replaced by the low `len` bits of `v`. -/
def setBits (w : Word) (lo len v : Nat) : Word :=
  (w &&& ~~~(mask64 len <<< lo)) ||| ((BitVec.ofNat 64 v &&& mask64 len) <<< lo)

/-- Bit `n` of a word. -/
def bit (w : Word) (n : Nat) : Bool := w.getLsbD n

/-- One or zero. -/
def b2n (b : Bool) : Nat := if b then 1 else 0

/-- A counter of `len` bits that saturates, plus `n`. -/
def satAdd (len v n : Nat) : Nat := min (2 ^ len - 1) (v + n)

/-- A number read as a signed number of `len` bits. -/
def signed (len v : Nat) : Int :=
  if v % 2 ^ len < 2 ^ (len - 1) then (v % 2 ^ len : Nat) else ((v % 2 ^ len : Nat) : Int) - ((2 ^ len : Nat) : Int)

/-! ### Sparse arrays -/

namespace SMap
variable {α : Type}

/-- The entry of key `i`; an unlisted key reads as the default `d`. -/
def get (d : α) : SMap α → Nat → α
  | [], _ => d
  | (k, v) :: r, i => if i = k then v else get d r i

/-- The array with `x` at key `i`; writing the default removes the entry, so that equal arrays are equal lists. -/
def put [DecidableEq α] (d : α) : SMap α → Nat → α → SMap α
  | [], i, x => if x = d then [] else [(i, x)]
  | (k, v) :: r, i, x =>
    if i < k then
      if x = d then (k, v) :: put d r i x else (i, x) :: (k, v) :: r
    else if i = k then
      if x = d then put d r i x else (i, x) :: r
    else (k, v) :: put d r i x

/-- The canonical form: keys strictly rising, no entry equal to the default. -/
def wf [DecidableEq α] (d : α) : SMap α → Bool
  | [] => true
  | [(_, v)] => decide (v ≠ d)
  | (k, v) :: (k', v') :: r => decide (v ≠ d) && decide (k < k') && wf d ((k', v') :: r)

/-- The array with the entries of keys `lo` to `lo + n - 1` back at the default. -/
def clear (m : SMap α) (lo n : Nat) : SMap α := m.filter fun e => !(decide (lo ≤ e.1) && decide (e.1 < lo + n))

/-- The array with the entries of keys `src` to `src + n - 1` copied to keys `dst` to `dst + n - 1`. -/
def copyRange [DecidableEq α] (d : α) (m : SMap α) (src dst n : Nat) : SMap α :=
  (m.filter fun e => decide (src ≤ e.1) && decide (e.1 < src + n)).foldl
    (fun acc e => put d acc (e.1 - src + dst) e.2) (clear m dst n)

end SMap

/-! ### Registers of the MMIO blocks -/

/-- The register at offset `r` from the MMIO base 0x600_0000_0000. -/
def State.rd (s : State) (r : Nat) : Word := SMap.get 0 s.regs r

/-- The state with the register at offset `r` holding `v`. -/
def State.wr (s : State) (r : Nat) (v : Word) : State := { s with regs := SMap.put 0 s.regs r v }

/-- A field of a register. -/
def State.fget (s : State) (r : Nat) (f : Fld) : Nat := bits (s.rd r) f.lo f.len

/-- Write a field of a register. -/
def State.fset (s : State) (r : Nat) (f : Fld) (v : Nat) : State := s.wr r (setBits (s.rd r) f.lo f.len v)

/-- Add to a saturating counter field. -/
def State.fsat (s : State) (r : Nat) (f : Fld) (n : Nat) : State := s.fset r f (satAdd f.len (s.fget r f) n)

/-- Add to a wrapping counter field. -/
def State.fadd (s : State) (r : Nat) (f : Fld) (n : Nat) : State := s.fset r f (s.fget r f + n)

/-- The device nanosecond count: SEC x 10^9 + NS modulo 2^64 (R342). -/
def State.now (s : State) : Word := BitVec.ofNat 64 (s.time.sec * 1000000000 + s.time.ns)

/-- The low 40 bits of the device nanosecond count, as the logs record it. -/
def State.now40 (s : State) : Nat := bits s.now 0 40

/-- Draw a fresh free value (log entry 3). -/
def State.fresh (s : State) : Word × State := (Config.freeWord s.free, { s with free := s.free + 1 })

/-! ### Memory bytes -/

/-- What a byte of memory that nothing has written reads as (log entry 2). -/
def memDefault : Byte := 0

/-- One byte of memory at a physical address. -/
def State.byte (s : State) (pa : Nat) : Byte := SMap.get memDefault s.mem pa

/-- Write one byte of memory. -/
def State.setByte (s : State) (pa : Nat) (b : Byte) : State := { s with mem := SMap.put memDefault s.mem pa b }

/-- `n` bytes of memory as a little-endian number (log entry 5). -/
def State.bytes (s : State) (pa : Nat) : Nat → Nat
  | 0 => 0
  | n + 1 => (s.byte pa).toNat + 256 * s.bytes (pa + 1) n

/-- Write the low `n` bytes of a number, the least significant first (log entry 5). -/
def State.setBytes (s : State) (pa : Nat) : Nat → Nat → State
  | 0, _ => s
  | n + 1, v => (s.setByte pa (BitVec.ofNat 8 v)).setBytes (pa + 1) n (v / 256)

/-- The form every memory keeps: addresses strictly rising, no listed byte equal to what an unlisted address reads as. -/
abbrev Memory.wf (m : List Host.Cell) : Prop := SMap.wf memDefault m = true

/-! ### Copies and triads -/

/-- The index of copy `c` of triad `t`. -/
def copyIx (t c : Nat) : Nat := 3 * t + c

/-- The copy with index `k`. -/
def State.copy (s : State) (k : Nat) : Copy := SMap.get Copy.reset s.copies k

/-- Replace the copy with index `k`. -/
def State.setCopy (s : State) (k : Nat) (c : Copy) : State := { s with copies := SMap.put Copy.reset s.copies k c }

/-- Change the copy with index `k`. -/
def State.modCopy (s : State) (k : Nat) (f : Copy → Copy) : State := s.setCopy k (f (s.copy k))

/-- What triad `t` holds outside its copies and registers. -/
def State.triad (s : State) (t : Nat) : Triad := SMap.get Triad.reset s.triads t

/-- Change what triad `t` holds outside its copies and registers. -/
def State.modTriad (s : State) (t : Nat) (f : Triad → Triad) : State :=
  { s with triads := SMap.put Triad.reset s.triads t (f (s.triad t)) }

/-- The mode of a triad: 0 VOTE, 1 PAIR, 2 SPLIT, 3 DEBUG_SPLIT (TRI_STATUS.MODE). -/
def State.mode (s : State) (t : Nat) : Nat := s.fget (Reg.triStatus t) Reg.triStatus_MODE

/-- VOTE or PAIR (R13). -/
def State.groupMode (s : State) (t : Nat) : Bool := decide (s.mode t < 2)

/-- Copy `c` of triad `t` is live (TRI_STATUS.LIVE). -/
def State.live (s : State) (t c : Nat) : Bool := bit (s.rd (Reg.triStatus t)) (Reg.triStatus_LIVE.lo + c)

/-- The live copies of a triad, in order. -/
def State.liveCopies (s : State) (t : Nat) : List Nat := [0, 1, 2].filter (s.live t)

/-- The leading live copy (R70). -/
def State.leader (s : State) (t : Nat) : Nat := (s.liveCopies t).headD 0

/-- The copies that execute the instructions of a group: the live ones, and a free-running spare (R55). -/
def State.executing (s : State) (t : Nat) : List Nat :=
  [0, 1, 2].filter fun c => s.live t c ||
    (decide (c = 2) && decide (s.mode t = 1) && decide (s.fget (Reg.triStatus t) Reg.triStatus_SPARE_RUN = 1))

/-- Apply a change to every listed copy of a triad. -/
def State.forCopies (s : State) (t : Nat) (cs : List Nat) (f : Copy → Copy) : State :=
  cs.foldl (fun s c => s.modCopy (copyIx t c) f) s

/-! ### Raising a fault source and setting an interrupt latch -/

/-- A fault source is detected (R11, R32): its pending bit is set (FCRU_PENDn), and the FCRU has not evaluated it yet; the matrix entry in force now
decides it (R36). `grp` names the initiator on whose behalf it is raised (R21). -/
def State.raiseFor (s : State) (src : Nat) (grp : Option Nat) : State :=
  let t := src / 16
  let full := decide (src < 0x100) && decide (s.mode t = 0) &&
    decide (s.fget (Reg.triStatus t) Reg.triStatus_LIVE = 7)
  let s := s.wr (Reg.fcruPend (src / 64)) (setBits (s.rd (Reg.fcruPend (src / 64))) (src % 64) 1 1)
  let d : Detection :=
    { src := src, time := s.now40, grp := grp, full := full, entry := s.rd (Reg.fcruMatrix src), fail := s.rd (Reg.fcruMatrix (0x10 * t + 3)) }
  { s with detected := s.detected ++ [d] }

/-- A fault source is detected. -/
def State.raise (s : State) (src : Nat) : State := s.raiseFor src none

/-- Set the input latch of an interrupt source in one copy; a reserved source is never pending (R134). -/
def Copy.setLatch (c : Copy) (src : Nat) : Copy :=
  if (3 ≤ src ∧ src ≤ 15) ∨ (240 ≤ src) then c
  else { c with icPend := SMap.put 0 c.icPend (src / 64) (setBits (SMap.get 0 c.icPend (src / 64)) (src % 64) 1 1) }

/-- Clear the input latch of an interrupt source in one copy (R60: an agreed acknowledge). -/
def Copy.clrLatch (c : Copy) (src : Nat) : Copy :=
  { c with icPend := SMap.put 0 c.icPend (src / 64) (setBits (SMap.get 0 c.icPend (src / 64)) (src % 64) 1 0) }

/-- The latch of an interrupt source. -/
def Copy.latch (c : Copy) (src : Nat) : Bool := bit (SMap.get 0 c.icPend (src / 64)) (src % 64)

/-- An event sets a source's latch in every copy of one triad (06 "Input agreement"). -/
def State.irqTriad (s : State) (t src : Nat) : State := s.forCopies t [0, 1, 2] (·.setLatch src)

/-- An event sets a source's latch in every copy of every triad of a mask. -/
def State.irq (s : State) (triads : Nat) (src : Nat) : State :=
  (List.range 16).foldl (fun s t => if triads.testBit t then s.irqTriad t src else s) s

end Sys2Proof.Machine
end

