-- ==== Sys2Proof/Machine/Crypto.lean ====
section
/-!
DEFINITION. Byte strings and the functions the spec names over them: CMAC-AES-256 (R318), GCM-AES-XPN-256 (R293), the CRC-16 of a recorder
header (R334) and the CRC-32 of journal entries and link frames (R352, R357). The block cipher itself is a constant without a body (log entry 19).
-/

namespace Sys2Proof.Machine

/-! ### Byte strings -/

/-- A byte of a string; past its end, zero. -/
def byteAt (d : List Byte) (i : Nat) : Nat := (d.getD i 0).toNat

/-- A string as a big-endian number. -/
def beNat (d : List Byte) : Nat := d.foldl (fun n b => n * 256 + b.toNat) 0

/-- The `n` bytes of a string from byte `i`, as a big-endian number. -/
def be (d : List Byte) (i n : Nat) : Nat := (List.range n).foldl (fun v k => v * 256 + byteAt d (i + k)) 0

/-- A number as `n` big-endian bytes. -/
def toBe (n v : Nat) : List Byte := (List.range n).map fun i => BitVec.ofNat 8 (v / 2 ^ (8 * (n - 1 - i)))

/-- A string as a little-endian number. -/
def leNat : List Byte → Nat
  | [] => 0
  | b :: r => b.toNat + 256 * leNat r

/-- A number as `n` little-endian bytes. -/
def toLe (n v : Nat) : List Byte := (List.range n).map fun i => BitVec.ofNat 8 (v / 2 ^ (8 * i))

/-- A string followed by zeros up to a multiple of `n` bytes. -/
def padTo (n : Nat) (d : List Byte) : List Byte := d ++ List.replicate ((n - d.length % n) % n) 0

/-- A string cut into blocks of 16 bytes, the last one possibly shorter; `fuel` is at least the number of blocks. -/
def blocks16 : Nat → List Byte → List (List Byte)
  | 0, _ => []
  | f + 1, d => if d.length ≤ 16 then [d] else d.take 16 :: blocks16 f (d.drop 16)

/-! ### CMAC (R318) -/

/-- A block of 128 bits under AES-256, key and blocks as big-endian numbers. -/
def aesBlock (key x : Nat) : Nat := (Config.aes256 (BitVec.ofNat 256 key) (BitVec.ofNat 128 x)).toNat

/-- Doubling in the field of CMAC's subkeys. -/
def cmacDbl (x : Nat) : Nat := (2 * x % 2 ^ 128) ^^^ (if 2 ^ 127 ≤ x then 0x87 else 0)

/-- CMAC-AES-256 of a message, as a 128-bit number. -/
def cmac (key : Nat) (d : List Byte) : Nat :=
  let k1 := cmacDbl (aesBlock key 0)
  let bs := blocks16 (d.length + 1) d
  let last := bs.getLastD []
  let m := if last.length = 16 then beNat last ^^^ k1 else beNat (padTo 16 (last ++ [0x80])) ^^^ cmacDbl k1
  aesBlock key (bs.dropLast.foldl (fun x b => aesBlock key (x ^^^ beNat b)) 0 ^^^ m)

/-! ### GCM (R293, R295, R311) -/

/-- Multiplication in the field of GHASH. -/
def gfMul (x y : Nat) : Nat :=
  ((List.range 128).foldl (fun (a : Nat × Nat) i =>
    (if x.testBit (127 - i) then a.1 ^^^ a.2 else a.1,
     if a.2.testBit 0 then a.2 / 2 ^^^ 0xE1 * 2 ^ 120 else a.2 / 2)) (0, y)).1

/-- GHASH over a string that is a multiple of 16 bytes long. -/
def ghash (h : Nat) (d : List Byte) : Nat := (blocks16 (d.length + 1) d).foldl (fun x b => gfMul (x ^^^ beNat b) h) 0

/-- The key stream applied to a string: counter mode from a 96-bit IV. -/
def gcmCtr (key iv : Nat) (d : List Byte) : List Byte :=
  let bs := blocks16 (d.length + 1) d
  (bs.zipIdx.flatMap fun (b, i) => List.zipWith (· ^^^ ·) b (toBe 16 (aesBlock key (iv * 2 ^ 32 + (i + 2) % 2 ^ 32))))

/-- The 128-bit integrity check value of associated data and ciphertext. -/
def gcmTag (key iv : Nat) (aad ct : List Byte) : Nat :=
  ghash (aesBlock key 0) (padTo 16 aad ++ padTo 16 ct ++ toBe 8 (8 * aad.length) ++ toBe 8 (8 * ct.length)) ^^^
    aesBlock key (iv * 2 ^ 32 + 1)

/-- The IV of GCM-AES-XPN-256: the salt against the short channel identifier and the packet number. -/
def xpnIv (salt ssci pn : Nat) : Nat := salt % 2 ^ 96 ^^^ (ssci % 2 ^ 32 * 2 ^ 64 + pn % 2 ^ 64)

/-! ### Check values -/

/-- CRC-16: polynomial 0x1021, initial value 0xFFFF, no reflection, no final XOR (R334). -/
def crc16 (d : List Byte) : Nat :=
  d.foldl (fun c b =>
    (List.range 8).foldl (fun c _ => (2 * c % 2 ^ 16) ^^^ (if 2 ^ 15 ≤ c then 0x1021 else 0)) (c ^^^ b.toNat * 256)) 0xFFFF

/-- CRC-32 with the polynomial of Ethernet; R352 and R357 name no polynomial (log entry 21). -/
def crc32 (d : List Byte) : Nat :=
  0xFFFFFFFF ^^^ d.foldl (fun c b =>
    (List.range 8).foldl (fun c _ => c / 2 ^^^ (if c % 2 = 1 then 0xEDB88320 else 0)) (c ^^^ b.toNat)) 0xFFFFFFFF

/-- The ones' complement sum of IPv4 and UDP over a string, big-endian 16-bit words, and its complement. -/
def inetSum (d : List Byte) : Nat :=
  let d := padTo 2 d
  let n := (List.range (d.length / 2)).foldl (fun a i => a + be d (2 * i) 2) 0
  let n := n % 2 ^ 16 + n / 2 ^ 16
  let n := n % 2 ^ 16 + n / 2 ^ 16
  0xFFFF - n % 2 ^ 16

end Sys2Proof.Machine
end

