-- ==== Sys2Proof/Machine/Flags.lean ====
section
/-!
DEFINITION. Integer results and flag computations of the Bruavo instructions, as functions of the operands alone (R91, R93, R94).
-/

namespace Sys2Proof.Machine

/-- The four flags of PSR (03_bruavo_isa.md, "PSR"). -/
structure Nzcv where
  n : Bool
  z : Bool
  c : Bool
  v : Bool
  deriving DecidableEq, Repr

/-- The flags held in a PSR value: V [0], C [1], Z [2], N [3]. -/
def psrFlags (p : Word) : Nzcv := { n := bit p 3, z := bit p 2, c := bit p 1, v := bit p 0 }

/-- A PSR value with its flags replaced. -/
def psrWithFlags (p : Word) (f : Nzcv) : Word :=
  setBits p 0 4 (8 * b2n f.n + 4 * b2n f.z + 2 * b2n f.c + b2n f.v)

/-- A condition code holds on the flags (R91): bits [2:0] name the base condition, bit [3] inverts it, 0x7 is AL. 0xF never holds. -/
def condHolds (cond : Nat) (f : Nzcv) : Bool :=
  let base : Bool :=
    match cond % 8 with
    | 0 => f.z
    | 1 => f.c
    | 2 => f.n
    | 3 => f.v
    | 4 => f.c && !f.z
    | 5 => f.n == f.v
    | 6 => !f.z && (f.n == f.v)
    | _ => true
  if cond < 8 then base else !base

/-- The result and flags of an addition with carry in (R93): C is the carry out, V the signed overflow. -/
def addWithCarry (a b : Word) (cin : Bool) : Word × Nzcv :=
  let u := a.toNat + b.toNat + b2n cin
  let i := a.toInt + b.toInt + (b2n cin : Int)
  let r := BitVec.ofNat 64 u
  (r, { n := r.msb, z := decide (r = 0), c := decide (2 ^ 64 ≤ u), v := decide (r.toInt ≠ i) })

/-- ADD, ADC, SUB and SBC (R94): a subtraction adds the complement, so that C = 1 means no borrow (R93). -/
def addResult (op : AddOp) (a b : Word) (c : Bool) : Word × Nzcv :=
  match op with
  | .add => addWithCarry a b false
  | .adc => addWithCarry a b c
  | .sub => addWithCarry a (~~~b) true
  | .sbc => addWithCarry a (~~~b) c

/-- N and Z from the result, C and V cleared (R93: logical, count, extend, minimum/maximum and set-less-than operations). -/
def logicFlags (r : Word) : Nzcv := { n := r.msb, z := decide (r = 0), c := false, v := false }

/-- AND, OR, XOR, ANDN and ORN (R94). -/
def logicResult (op : LogicOp) (a b : Word) : Word :=
  match op with
  | .and => a &&& b
  | .or => a ||| b
  | .xor => a ^^^ b
  | .andn => a &&& ~~~b
  | .orn => a ||| ~~~b

/-- A shift or rotate by 0 to 63 (R94). -/
def shiftResult (op : ShiftOp) (a : Word) (n : Nat) : Word :=
  match op with
  | .sll => a <<< n
  | .srl => a >>> n
  | .sra => a.sshiftRight n
  | .ror => a.rotateRight n

/-- The flags of a shift or rotate (R93): C is the last bit shifted out, 0 for a shift by zero, V is cleared; N and Z follow the
result (log entry 6). -/
def shiftFlags (op : ShiftOp) (a : Word) (n : Nat) : Nzcv :=
  let r := shiftResult op a n
  let c := if n = 0 then false else match op with
    | .sll => bit a (64 - n)
    | _ => bit a (n - 1)
  { n := r.msb, z := decide (r = 0), c := c, v := false }

/-- MIN, MAX, MINU and MAXU (R94). -/
def minMaxResult (op : MinMaxOp) (a b : Word) : Word :=
  match op with
  | .min => if a.slt b then a else b
  | .max => if a.slt b then b else a
  | .minu => if a.ult b then a else b
  | .maxu => if a.ult b then b else a

/-- Sign or zero extension from 8, 16 or 32 bits (R94). -/
def extResult (op : ExtOp) (a : Word) : Word :=
  match op with
  | .sextb => (a.setWidth 8).signExtend 64
  | .sexth => (a.setWidth 16).signExtend 64
  | .sextw => (a.setWidth 32).signExtend 64
  | .zextb => (a.setWidth 8).setWidth 64
  | .zexth => (a.setWidth 16).setWidth 64
  | .zextw => (a.setWidth 32).setWidth 64

/-- The number of ones among the low `n` bits. -/
def popCount (a : Word) : Nat → Nat
  | 0 => 0
  | n + 1 => b2n (bit a n) + popCount a n

/-- The number of zeros above the highest one among the low `n` bits. -/
def leadZeros (a : Word) : Nat → Nat
  | 0 => 0
  | n + 1 => if bit a n then 0 else 1 + leadZeros a n

/-- The number of zeros below the lowest one, counted from bit `64 - n`. -/
def trailZeros (a : Word) : Nat → Nat
  | 0 => 0
  | n + 1 => if bit a (63 - n) then 0 else 1 + trailZeros a n

/-- The bytes of a word in reverse order. -/
def byteReverse (a : Word) : Word :=
  (List.range 8).foldl (fun r i => r ||| (((a >>> (8 * i)) &&& 0xff#64) <<< (56 - 8 * i))) 0

/-- CLZ, CTZ, POPC and REV (R94). -/
def countResult (op : CountOp) (a : Word) : Word :=
  match op with
  | .clz => BitVec.ofNat 64 (leadZeros a 64)
  | .ctz => BitVec.ofNat 64 (trailZeros a 64)
  | .popc => BitVec.ofNat 64 (popCount a 64)
  | .rev => byteReverse a

/-- SLT and SLTU (R94). -/
def sltResult (uns : Bool) (a b : Word) : Word :=
  if (if uns then a.ult b else a.slt b) then 1 else 0

/-- ADDI, ANDI, ORI and XORI (R94). -/
def immResult (op : ImmOp) (a imm : Word) : Word :=
  match op with
  | .addi => a + imm
  | .andi => a &&& imm
  | .ori => a ||| imm
  | .xori => a ^^^ imm

/-- MUL, MULH and MULHU (R94). -/
def mulResult (op : MulOp) (a b : Word) : Word :=
  match op with
  | .mul => a * b
  | .mulh => BitVec.ofInt 64 ((a.toInt * b.toInt) / (2 ^ 64 : Int))
  | .mulhu => BitVec.ofNat 64 (a.toNat * b.toNat / 2 ^ 64)

/-- DIV, DIVU, REM and REMU (R94): truncating; divisor 0 gives all ones and a; signed minimum by −1 gives a and 0. -/
def divResult (op : DivOp) (a b : Word) : Word :=
  match op with
  | .div => if b = 0 then BitVec.allOnes 64 else a.sdiv b
  | .divu => if b = 0 then BitVec.allOnes 64 else a / b
  | .rem => if b = 0 then a else a.srem b
  | .remu => if b = 0 then a else a % b

end Sys2Proof.Machine
end

