-- ==== Sys2Proof/Machine/Fp.lean ====
section
/-!
DEFINITION. Floating-point arithmetic of IEEE 754-2019 in binary16, bfloat16, binary32 and binary64, in every rounding mode, with the
choices R111 fixes: exact results are formed over integers and rounded once.
-/

namespace Sys2Proof.Machine

/-- A format: `eb` exponent bits and `fb` fraction bits. -/
structure Fmt where
  eb : Nat
  fb : Nat
  deriving DecidableEq, Repr

def Fmt.b16 : Fmt := ⟨5, 10⟩
def Fmt.bf16 : Fmt := ⟨8, 7⟩
def Fmt.b32 : Fmt := ⟨8, 23⟩
def Fmt.b64 : Fmt := ⟨11, 52⟩

/-- The width of a format in bits. -/
def Fmt.width (f : Fmt) : Nat := 1 + f.eb + f.fb
/-- The exponent bias. -/
def Fmt.bias (f : Fmt) : Int := ((2 ^ (f.eb - 1) : Nat) : Int) - 1
/-- The largest exponent field, that of infinities and NaNs. -/
def Fmt.emax (f : Fmt) : Nat := 2 ^ f.eb - 1
/-- The canonical quiet NaN (R111). -/
def Fmt.nan (f : Fmt) : Nat := f.emax * 2 ^ f.fb + 2 ^ (f.fb - 1)
/-- An infinity. -/
def Fmt.inf (f : Fmt) (s : Bool) : Nat := b2n s * 2 ^ (f.eb + f.fb) + f.emax * 2 ^ f.fb
/-- A zero. -/
def Fmt.zero (f : Fmt) (s : Bool) : Nat := b2n s * 2 ^ (f.eb + f.fb)
/-- The largest finite value of a sign. -/
def Fmt.maxFin (f : Fmt) (s : Bool) : Nat := f.inf s - 1

/-- What a bit pattern stands for: a NaN (signalling or not), an infinity, or a finite value m × 2^e. -/
inductive FpVal where
  | nan (signalling : Bool)
  | inf (s : Bool)
  | fin (s : Bool) (m : Nat) (e : Int)
  deriving DecidableEq, Repr

/-- Read a bit pattern. -/
def Fmt.decode (f : Fmt) (x : Nat) : FpVal :=
  let s := decide (x / 2 ^ (f.eb + f.fb) % 2 = 1)
  let e := x / 2 ^ f.fb % 2 ^ f.eb
  let m := x % 2 ^ f.fb
  if e = f.emax then
    if m = 0 then .inf s else .nan (decide (m < 2 ^ (f.fb - 1)))
  else if e = 0 then .fin s m (1 - f.bias - (f.fb : Int))
  else .fin s (2 ^ f.fb + m) ((e : Int) - f.bias - (f.fb : Int))

/-- Exception flags as FCSR.FLAGS orders them: NX 1, UF 2, OF 4, DZ 8, NV 16. -/
def fNX : Nat := 1
def fUF : Nat := 2
def fOF : Nat := 4
def fDZ : Nat := 8
def fNV : Nat := 16

/-- A rounding mode: 0 nearest-even, 1 toward zero, 2 down, 3 up, 4 nearest-away; 5 to 7 are treated as 0 (FCSR.RM). -/
def roundUp (rm : Nat) (s : Bool) (m rem half : Nat) : Bool :=
  match rm with
  | 1 => false
  | 2 => s && decide (rem ≠ 0)
  | 3 => !s && decide (rem ≠ 0)
  | 4 => decide (half ≤ rem) && decide (rem ≠ 0)
  | _ => decide (half < rem) || (decide (half = rem) && decide (rem ≠ 0) && decide (m % 2 = 1))

/-- Round m × 2^e to a multiple of 2^q: the multiple, and whether it is inexact. -/
def roundAt (rm : Nat) (s : Bool) (m : Nat) (e q : Int) : Nat × Bool :=
  if q ≤ e then (m * 2 ^ (e - q).toNat, false)
  else
    let k := (q - e).toNat
    let up := roundUp rm s (m / 2 ^ k) (m % 2 ^ k) (2 ^ (k - 1))
    (m / 2 ^ k + b2n up, decide (m % 2 ^ k ≠ 0))

/-- Round the exact value ±m × 2^e to the format: the bit pattern and the flags. Tininess is detected after rounding, and UF is set for
a tiny inexact result alone (R111). -/
def Fmt.round (f : Fmt) (rm : Nat) (s : Bool) (m : Nat) (e : Int) : Nat × Nat :=
  if m = 0 then (f.zero s, 0)
  else
    let top : Int := e + (Nat.log2 m : Int)
    let emin : Int := 1 - f.bias
    let q := max top emin - (f.fb : Int)
    let (r, inex) := roundAt rm s m e q
    let (ru, _) := roundAt rm s m e (top - (f.fb : Int))
    let tiny := decide (top < emin) && !(decide (top = emin - 1) && decide (ru = 2 ^ (f.fb + 1)))
    let (r, q) := if r = 2 ^ (f.fb + 1) then (2 ^ f.fb, q + 1) else (r, q)
    if decide (2 ^ f.fb ≤ r) && decide (f.bias < q + (f.fb : Int)) then
      let toInf := match rm with
        | 1 => false
        | 2 => s
        | 3 => !s
        | _ => true
      (if toInf then f.inf s else f.maxFin s, fOF + fNX)
    else
      let ef : Nat := if r < 2 ^ f.fb then 0 else (q + (f.fb : Int) + f.bias).toNat
      (b2n s * 2 ^ (f.eb + f.fb) + ef * 2 ^ f.fb + r % 2 ^ f.fb,
        (if inex then fNX else 0) + (if tiny && inex then fUF else 0))

/-- The bit pattern and flags of a NaN result: NV if an operand is signalling (R111). -/
def Fmt.nanResult (f : Fmt) (sig : Bool) : Nat × Nat := (f.nan, if sig then fNV else 0)

/-- A value is a NaN. -/
def FpVal.isNan : FpVal → Bool
  | .nan _ => true
  | _ => false

/-- A value is a signalling NaN. -/
def FpVal.isSnan : FpVal → Bool
  | .nan s => s
  | _ => false

/-- The opposite of a value; a NaN stays one. -/
def FpVal.neg : FpVal → FpVal
  | .nan s => .nan s
  | .inf s => .inf !s
  | .fin s m e => .fin (!s) m e

/-- The signed integer of sign and magnitude. -/
def sgn (s : Bool) (m : Nat) : Int := if s then -(m : Int) else (m : Int)

/-- Round an exact sum: a zero sum takes the common sign, and otherwise is negative in the downward mode alone. -/
def Fmt.roundSum (f : Fmt) (rm : Nat) (sa sb : Bool) (v e : Int) : Nat × Nat :=
  if v = 0 then (f.zero (if sa = sb then sa else decide (rm = 2)), 0)
  else f.round rm (decide (v < 0)) v.natAbs e

/-- The exact sum of two dyadic numbers, as an integer and its exponent. -/
def dyAdd (va ea vb eb : Int) : Int × Int :=
  let e := min ea eb
  (va * 2 ^ (ea - e).toNat + vb * 2 ^ (eb - e).toNat, e)

/-- Addition of decoded values. -/
def Fmt.addVal (f : Fmt) (rm : Nat) (a b : FpVal) : Nat × Nat :=
  match a, b with
  | .nan x, y => f.nanResult (x || y.isSnan)
  | _, .nan y => f.nanResult y
  | .inf s, .inf t => if s = t then (f.inf s, 0) else f.nanResult true
  | .inf s, _ => (f.inf s, 0)
  | _, .inf t => (f.inf t, 0)
  | .fin s m e, .fin t n g =>
    let r := dyAdd (sgn s m) e (sgn t n) g
    f.roundSum rm s t r.1 r.2

/-- FADD and the additions of every format. -/
def Fmt.add (f : Fmt) (rm x y : Nat) : Nat × Nat := f.addVal rm (f.decode x) (f.decode y)

/-- FSUB: the addition of the opposite. -/
def Fmt.sub (f : Fmt) (rm x y : Nat) : Nat × Nat := f.addVal rm (f.decode x) (f.decode y).neg

/-- FMUL. -/
def Fmt.mul (f : Fmt) (rm x y : Nat) : Nat × Nat :=
  match f.decode x, f.decode y with
  | .nan a, b => f.nanResult (a || b.isSnan)
  | _, .nan b => f.nanResult b
  | .inf s, .inf t => (f.inf (s != t), 0)
  | .inf s, .fin t n _ => if n = 0 then f.nanResult true else (f.inf (s != t), 0)
  | .fin s m _, .inf t => if m = 0 then f.nanResult true else (f.inf (s != t), 0)
  | .fin s m e, .fin t n g => f.round rm (s != t) (m * n) (e + g)

/-- The fused multiply-add of decoded values, rounded once; infinity times zero raises NV whatever the addend (R111). -/
def Fmt.fmaVal (f : Fmt) (rm : Nat) (a b c : FpVal) : Nat × Nat :=
  let invalid := match a, b with
    | .inf _, .fin _ 0 _ => true
    | .fin _ 0 _, .inf _ => true
    | _, _ => false
  if invalid then f.nanResult true
  else match a, b, c with
  | .nan x, y, z => f.nanResult (x || y.isSnan || z.isSnan)
  | _, .nan y, z => f.nanResult (y || z.isSnan)
  | _, _, .nan z => f.nanResult z
  | .fin s m e, .fin t n g, .fin u k h =>
    let r := dyAdd (sgn (s != t) (m * n)) (e + g) (sgn u k) h
    f.roundSum rm (s != t) u r.1 r.2
  | .fin _ _ _, .fin _ _ _, .inf u => (f.inf u, 0)
  | .inf s, .inf t, .inf u => if (s != t) = u then (f.inf u, 0) else f.nanResult true
  | .inf s, .fin t _ _, .inf u => if (s != t) = u then (f.inf u, 0) else f.nanResult true
  | .fin s _ _, .inf t, .inf u => if (s != t) = u then (f.inf u, 0) else f.nanResult true
  | .inf s, .inf t, .fin _ _ _ => (f.inf (s != t), 0)
  | .inf s, .fin t _ _, .fin _ _ _ => (f.inf (s != t), 0)
  | .fin s _ _, .inf t, .fin _ _ _ => (f.inf (s != t), 0)

/-- FMADD: x × y + z with one rounding. -/
def Fmt.fma (f : Fmt) (rm x y z : Nat) : Nat × Nat := f.fmaVal rm (f.decode x) (f.decode y) (f.decode z)

/-- FMSUB: x × y − z with one rounding. -/
def Fmt.fms (f : Fmt) (rm x y z : Nat) : Nat × Nat := f.fmaVal rm (f.decode x) (f.decode y) (f.decode z).neg

/-- FDIV: the quotient is formed with more bits than the format holds, its last bit telling whether a remainder is left. -/
def Fmt.div (f : Fmt) (rm x y : Nat) : Nat × Nat :=
  match f.decode x, f.decode y with
  | .nan a, b => f.nanResult (a || b.isSnan)
  | _, .nan b => f.nanResult b
  | .inf _, .inf _ => f.nanResult true
  | .inf s, .fin t _ _ => (f.inf (s != t), 0)
  | .fin s _ _, .inf t => (f.zero (s != t), 0)
  | .fin s m e, .fin t n g =>
    if n = 0 then (if m = 0 then f.nanResult true else (f.inf (s != t), fDZ))
    else
      let k := 2 * f.fb + 6
      let q := m * 2 ^ k / n
      let sticky := b2n (decide (m * 2 ^ k % n ≠ 0))
      f.round rm (s != t) (2 * q + sticky) (e - g - (k : Int) - 1)

/-- The integer square root of `n`, found bit by bit from bit `i` down. -/
def isqrtFrom (n : Nat) : Nat → Nat → Nat
  | 0, r => r
  | i + 1, r => if (r + 2 ^ i) * (r + 2 ^ i) ≤ n then isqrtFrom n i (r + 2 ^ i) else isqrtFrom n i r

/-- FSQRT. -/
def Fmt.sqrt (f : Fmt) (rm x : Nat) : Nat × Nat :=
  match f.decode x with
  | .nan a => f.nanResult a
  | .inf s => if s then f.nanResult true else (f.inf false, 0)
  | .fin s m e =>
    if m = 0 then (f.zero s, 0)
    else if s then f.nanResult true
    else
      let odd : Nat := if e % 2 = 0 then 0 else 1
      let k := f.fb + 4
      let n := m * 2 ^ (odd + 2 * k)
      let r := isqrtFrom n (f.fb + k + 4) 0
      let sticky := b2n (decide (r * r ≠ n))
      f.round rm false (2 * r + sticky) ((e - (odd : Int)) / 2 - (k : Int) - 1)

/-- The order of two values: less, equal, greater or unordered. -/
inductive FpOrd where
  | lt | eq | gt | un
  deriving DecidableEq, Repr

/-- Quiet comparison (R111): the order, and NV if an operand is a signalling NaN. -/
def Fmt.cmp (f : Fmt) (x y : Nat) : FpOrd × Nat :=
  match f.decode x, f.decode y with
  | .nan a, b => (.un, if a || b.isSnan then fNV else 0)
  | _, .nan b => (.un, if b then fNV else 0)
  | .inf s, .inf t => (if s = t then .eq else if s then .lt else .gt, 0)
  | .inf s, _ => (if s then .lt else .gt, 0)
  | _, .inf t => (if t then .gt else .lt, 0)
  | .fin s m e, .fin t n g =>
    let r := dyAdd (sgn s m) e (-(sgn t n)) g
    (if r.1 < 0 then .lt else if r.1 = 0 then .eq else .gt, 0)

/-- IEEE 754-2019 minimum and maximum: a NaN operand gives the canonical NaN, and −0 is less than +0. -/
def Fmt.minMax (f : Fmt) (isMax : Bool) (x y : Nat) : Nat × Nat :=
  match f.decode x, f.decode y with
  | .nan a, b => f.nanResult (a || b.isSnan)
  | _, .nan b => f.nanResult b
  | _, _ =>
    let x := x % 2 ^ f.width
    let y := y % 2 ^ f.width
    let pick (lo hi : Nat) := if isMax then hi else lo
    match (f.cmp x y).1 with
    | .lt => (pick x y, 0)
    | .gt => (pick y x, 0)
    | _ => (if x / 2 ^ (f.eb + f.fb) = 1 then pick x y else pick y x, 0)

/-- FNEG and FABS: the sign changed or cleared; a NaN result is the canonical quiet NaN (R111, log entry 7). -/
def Fmt.signOp (f : Fmt) (isAbs : Bool) (x : Nat) : Nat :=
  let x := x % 2 ^ f.width
  let top := 2 ^ (f.eb + f.fb)
  if (f.decode x).isNan then f.nan
  else if isAbs then x % top
  else (if x / top = 1 then x - top else x + top)

/-- Conversion between formats. -/
def Fmt.convert (f src : Fmt) (rm x : Nat) : Nat × Nat :=
  match src.decode x with
  | .nan a => f.nanResult a
  | .inf s => (f.inf s, 0)
  | .fin s m e => f.round rm s m e

/-- Conversion of an integer to a format. -/
def Fmt.ofInt (f : Fmt) (rm : Nat) (v : Int) : Nat × Nat := f.round rm (decide (v < 0)) v.natAbs 0

/-- Conversion to an integer between `lo` and `hi`: out-of-range values saturate and a NaN gives `hi`, both with NV (R111). -/
def Fmt.toInt (f : Fmt) (rm x : Nat) (lo hi : Int) : Int × Nat :=
  match f.decode x with
  | .nan _ => (hi, fNV)
  | .inf s => (if s then lo else hi, fNV)
  | .fin s m e =>
    let r := roundAt rm s m e 0
    let v := sgn s r.1
    if v < lo then (lo, fNV) else if hi < v then (hi, fNV) else (v, if r.2 then fNX else 0)

end Sys2Proof.Machine
end

