-- ==== Sys2Proof/Machine/FulVec.lean ====
section
/-!
DEFINITION. Fuller element types and element arithmetic (R187 to R190, R197 to R199, R218): results as functions of the operands alone, with
the floating-point flags they raise.
-/

namespace Sys2Proof.Machine

/-- The width in bits of an element TYPE (the table "VTYPE encoding"). -/
def elemBits (t : Nat) : Nat :=
  match t % 16 with
  | 0 | 4 => 8
  | 1 | 5 | 8 | 9 => 16
  | 2 | 6 | 10 => 32
  | _ => 64

/-- A signed integer TYPE. -/
def tySigned (t : Nat) : Bool := decide (t < 4)
/-- A floating-point TYPE. -/
def tyFloat (t : Nat) : Bool := decide (8 ≤ t)
/-- A legal TYPE (R198). -/
def tyLegal (t : Nat) : Bool := decide (t ≤ 11)

/-- The format of a floating-point TYPE. -/
def tyFmt (t : Nat) : Fmt := match t with | 8 => .b16 | 9 => .bf16 | 10 => .b32 | _ => .b64

/-- An element read as an integer, signed or unsigned by its TYPE. -/
def elemInt (t x : Nat) : Int := if tySigned t then signed (elemBits t) x else ((x % 2 ^ elemBits t : Nat) : Int)

/-- The low bits of an integer as an element (R190: integer arithmetic wraps). -/
def wrapTo (t : Nat) (v : Int) : Nat := (v % ((2 ^ elemBits t : Nat) : Int)).toNat

/-- The least and greatest value of an integer TYPE. -/
def tyMin (t : Nat) : Int := if tySigned t then -((2 ^ (elemBits t - 1) : Nat) : Int) else 0
def tyMax (t : Nat) : Int := if tySigned t then ((2 ^ (elemBits t - 1) : Nat) : Int) - 1 else ((2 ^ elemBits t : Nat) : Int) - 1

/-- An integer saturated to a TYPE. -/
def saturate (t : Nat) (v : Int) : Nat := wrapTo t (max (tyMin t) (min (tyMax t) v))

/-- An integer VI function of vd = `x` and va = `y` (the table "Integer and floating-point functions"); the shift amount is the low
log2(w) bits of the element (R190). -/
def viFn (t fn x y : Nat) : Nat :=
  let a := elemInt t x
  let b := elemInt t y
  let w := elemBits t
  let m := 2 ^ w
  match fn with
  | 0x00 => wrapTo t (a + b)
  | 0x01 => wrapTo t (a - b)
  | 0x02 => wrapTo t (b - a)
  | 0x03 => wrapTo t (a * b)
  | 0x04 => wrapTo t (a * b / ((m : Nat) : Int))
  | 0x05 => wrapTo t (min a b)
  | 0x06 => wrapTo t (max a b)
  | 0x07 => (x % m) &&& (y % m)
  | 0x08 => (x % m) ||| (y % m)
  | 0x09 => (x % m) ^^^ (y % m)
  | 0x0A => x * 2 ^ (y % w) % m
  | 0x0B => x % m / 2 ^ (y % w)
  | 0x0C => wrapTo t (signed w x / ((2 ^ (y % w) : Nat) : Int))
  | 0x0D => saturate t (a + b)
  | 0x0E => saturate t (a - b)
  | _ => wrapTo t ((a - b).natAbs)

/-- A floating-point VF function of vd = `x` and va = `y`: the result and its flags. -/
def vfFn (t rm fn x y : Nat) : Nat × Nat :=
  let f := tyFmt t
  match fn with
  | 0x00 => f.add rm x y
  | 0x01 => f.sub rm x y
  | 0x02 => f.sub rm y x
  | 0x03 => f.mul rm x y
  | 0x04 => f.div rm x y
  | 0x05 => f.div rm y x
  | 0x06 => f.sqrt rm y
  | 0x07 => f.minMax false x y
  | 0x08 => f.minMax true x y
  | 0x09 => (f.signOp true y, 0)
  | _ => (f.signOp false y, 0)

/-- x + y × z, or x − y × z: one rounding for a floating-point TYPE, wrapping for an integer one. -/
def mulAdd (t rm : Nat) (neg : Bool) (x y z : Nat) : Nat × Nat :=
  if tyFloat t then
    let f := tyFmt t
    f.fmaVal rm (if neg then (f.decode y).neg else f.decode y) (f.decode z) (f.decode x)
  else
    let p := elemInt t y * elemInt t z
    (wrapTo t (if neg then elemInt t x - p else elemInt t x + p), 0)

/-- Byte `k` of a 32-bit element, signed or unsigned. -/
def byteOf (sgnd : Bool) (x k : Nat) : Int := if sgnd then signed 8 (x / 2 ^ (8 * k)) else ((x / 2 ^ (8 * k) % 256 : Nat) : Int)

/-- The sum of the four byte products of two 32-bit words, added to an element (VDOT, DOT4). -/
def dot4 (t acc x y : Nat) : Nat :=
  let s := tySigned t
  wrapTo t (elemInt t acc + (([0, 1, 2, 3].map fun k => byteOf s x k * byteOf s y k).foldl (· + ·) 0))

/-- Two elements compared: less, equal, unordered, and the flags (R190: compares are quiet). -/
def elemCmp (t x y : Nat) : FpOrd × Nat :=
  if tyFloat t then (tyFmt t).cmp x y
  else
    let a := elemInt t x
    let b := elemInt t y
    (if a < b then .lt else if a = b then .eq else .gt, 0)

/-- A VCMP function: 0 EQ, 1 NE, 2 LT, 3 LE; false for a NaN (R190). -/
def cmpFn (fn : Nat) (o : FpOrd) : Bool :=
  match fn, o with
  | _, .un => false
  | 0, o => decide (o = .eq)
  | 1, o => decide (o ≠ .eq)
  | 2, o => decide (o = .lt)
  | _, o => decide (o = .lt) || decide (o = .eq)

/-- Conversion between TYPEs (R198): rounds under RM; out-of-range float-to-integer saturates with NV, a NaN gives the most positive integer;
an integer narrowed keeps its low bits (log entry 15). -/
def convertElem (src dst rm x : Nat) : Nat × Nat :=
  match tyFloat src, tyFloat dst with
  | true, true => (tyFmt dst).convert (tyFmt src) rm x
  | true, false =>
    let r := (tyFmt src).toInt rm x (tyMin dst) (tyMax dst)
    (wrapTo dst r.1, r.2)
  | false, true => (tyFmt dst).ofInt rm (elemInt src x)
  | false, false => (wrapTo dst (elemInt src x), 0)

/-- A pairwise tree over a list: adjacent elements are combined level by level, an odd one passes on; the absent elements of a full tree
count as the identity (R199, R223). `op` answers the result and its flags. -/
def treeLevel (op : Nat → Nat → Nat × Nat) : List (Option Nat) → List (Option Nat) × Nat
  | x :: y :: r =>
    let (t, fl) := treeLevel op r
    match x, y with
    | some a, some b => (some (op a b).1 :: t, (op a b).2 ||| fl)
    | some a, none => (some a :: t, fl)
    | none, b => (b :: t, fl)
  | l => (l, 0)

/-- The tree of `n` levels. -/
def treeReduce (op : Nat → Nat → Nat × Nat) : Nat → List (Option Nat) → Option Nat × Nat
  | 0, l => (l.headD none, 0)
  | n + 1, l =>
    let (l', fl) := treeLevel op l
    let (r, fl') := treeReduce op n l'
    (r, fl ||| fl')

/-- The operations of VRED: 0 SUM, 1 MIN, 2 MAX, 3 AND, 4 OR, 5 XOR, 6 FSUM, 7 FMIN, 8 FMAX. -/
def redOp (t rm fn x y : Nat) : Nat × Nat :=
  match fn with
  | 0 => (viFn t 0x00 x y, 0)
  | 1 => (viFn t 0x05 x y, 0)
  | 2 => (viFn t 0x06 x y, 0)
  | 3 => (viFn t 0x07 x y, 0)
  | 4 => (viFn t 0x08 x y, 0)
  | 5 => (viFn t 0x09 x y, 0)
  | 6 => (tyFmt t).add rm x y
  | 7 => (tyFmt t).minMax false x y
  | _ => (tyFmt t).minMax true x y

/-- The identity of a VRED function, the result over no element (R199). -/
def redIdentity (t rm fn : Nat) : Nat :=
  let ones := 2 ^ elemBits t - 1
  match fn with
  | 1 => wrapTo t (tyMax t)
  | 2 => wrapTo t (tyMin t)
  | 3 => ones
  | 6 => (tyFmt t).zero (decide (rm ≠ 2))
  | 7 => (tyFmt t).inf false
  | 8 => (tyFmt t).inf true
  | _ => 0

end Sys2Proof.Machine
end

