-- ==== Sys2Proof/Machine/Operands.lean ====
section
/-!
DEFINITION. Operand forms of the Bruavo instructions: the registers of a copy, the guard of an instruction, effective addresses,
translation by the scalar TLB, and the arrays of a copy.
-/

namespace Sys2Proof.Machine

/-! ### Registers (R84, R85) -/

/-- An integer register; g0 reads as zero (R84). -/
def Copy.reg (c : Copy) (r : RegNo) : Word := if r = 0 then 0 else SMap.get 0 c.g r.toNat

/-- Write an integer register; a write to g0 is discarded (R84). -/
def Copy.setReg (c : Copy) (r : RegNo) (v : Word) : Copy :=
  if r = 0 then c else { c with g := SMap.put 0 c.g r.toNat v }

/-- A floating-point register; f0 is an ordinary one (R84). -/
def Copy.freg (c : Copy) (r : RegNo) : Word := SMap.get 0 c.f r.toNat

/-- Write a floating-point register. -/
def Copy.setFreg (c : Copy) (r : RegNo) (v : Word) : Copy := { c with f := SMap.put 0 c.f r.toNat v }

/-- Write a register of either file. -/
def Copy.setFile (c : Copy) (isF : Bool) (r : RegNo) (v : Word) : Copy := if isF then c.setFreg r v else c.setReg r v

/-- The privilege level of a copy: 0 USR, 1 SUP, 2 MON (PSR.PRIV). -/
def Copy.priv (c : Copy) : Nat := bits c.psr 8 2

/-- Interrupts are enabled (PSR.IE). -/
def Copy.ie (c : Copy) : Bool := bit c.psr 10

/-- The carried condition (PSR.CC). -/
def Copy.cc (c : Copy) : Nat := bits c.psr 4 4

/-- The flags. -/
def Copy.flags (c : Copy) : Nzcv := psrFlags c.psr

/-- Replace the flags. -/
def Copy.setFlags (c : Copy) (f : Nzcv) : Copy := { c with psr := psrWithFlags c.psr f }

/-- Accrue floating-point exception flags into FCSR.FLAGS (R111). -/
def Copy.addFflags (c : Copy) (fl : Nat) : Copy := { c with fcsr := c.fcsr ||| (BitVec.ofNat 64 fl <<< 3) }

/-- The rounding mode (FCSR.RM). -/
def Copy.rm (c : Copy) : Nat := bits c.fcsr 0 3

end Sys2Proof.Machine

namespace Sys2Proof

/-! ### The guard (R88, R90 to R92) -/

/-- The length of an instruction in bytes (R88). -/
def Guard.len : Guard → Nat
  | .c32 _ => 4
  | .c16 _ => 2

/-- Condition 0xF is undefined and traps (R90, R91). -/
def Guard.undef : Guard → Bool
  | .c32 c => decide (c = 0xF)
  | .c16 _ => false

/-- The instruction executes: its condition, or its carried condition, is true on the flags of the moment (R91, R92). -/
def Guard.holds (g : Guard) (c : Machine.Copy) : Bool :=
  match g with
  | .c32 k => Machine.condHolds k.toNat c.flags
  | .c16 k => !k || Machine.condHolds c.cc c.flags

/-- The CC latch: a 32-bit instruction whose condition is not AL writes its code into PSR.CC, true or false (R92). -/
def Guard.latch (g : Guard) (c : Machine.Copy) : Machine.Copy :=
  match g with
  | .c32 k => if k = 7 then c else { c with psr := Machine.setBits c.psr 4 4 k.toNat }
  | .c16 _ => c

end Sys2Proof

namespace Sys2Proof.Machine

/-! ### Effective addresses (R89, R94, R95) -/

/-- M layout: a + imm × 2^size. -/
def eaM (c : Copy) (a : RegNo) (imm : BitVec 9) (size : BitVec 2) : Word :=
  c.reg a + (imm.signExtend 64 <<< size.toNat)

/-- MEMX: a + (b << (scale ? size : 0)). -/
def eaX (c : Copy) (a b : RegNo) (scale : Bool) (size : BitVec 2) : Word :=
  c.reg a + (c.reg b <<< (if scale then size.toNat else 0))

/-- The branch target: PC + off × 2. -/
def eaB (c : Copy) (off : BitVec 21) : Word := c.pc + (off.signExtend 64 <<< 1)

/-! ### Page-table entries and the scalar TLB (R149 to R160) -/

def pteV (p : Word) : Bool := bit p 0
def pteR (p : Word) : Bool := bit p 1
def pteW (p : Word) : Bool := bit p 2
def pteX (p : Word) : Bool := bit p 3
def pteU (p : Word) : Bool := bit p 4
def pteG (p : Word) : Bool := bit p 5
def pteA (p : Word) : Bool := bit p 6
def pteD (p : Word) : Bool := bit p 7
def pteMT (p : Word) : Nat := bits p 8 3
def pteNA (p : Word) : Bool := bit p 11
def ptePPN (p : Word) : Nat := bits p 12 32

/-- A valid entry with R = W = X = 0 is a table pointer, any other valid entry a leaf (R151). -/
def pteLeaf (p : Word) : Bool := pteR p || pteW p || pteX p

/-- The levels of leaves by size: 4 KiB at level 3, 2 MiB at 2, 1 GiB at 1 (R149). -/
def sizeBits (size : Nat) : Nat := match size with | 0 => 12 | 1 => 21 | _ => 30

/-- A valid entry is malformed at a level (R151). The MT of a table pointer counts too: the list names any entry whose MT is 6 or 7, though bits [11:4] of
a pointer are otherwise ignored (DEDUCED; log entry 162). -/
def pteMalformed (p : Word) (level : Nat) : Bool :=
  (pteLeaf p && decide (level = 0)) || (!pteLeaf p && decide (level = 3)) ||
  (pteLeaf p && pteW p && !pteR p) || decide (6 ≤ pteMT p) || decide (bits p 44 20 ≠ 0) ||
  (pteLeaf p && decide (level = 2) && decide (ptePPN p % 2 ^ 9 ≠ 0)) ||
  (pteLeaf p && decide (level = 1) && decide (ptePPN p % 2 ^ 18 ≠ 0))

/-- The memory type an access is performed under: a NORMAL or STREAM page whose address lies in the MMIO window is DEVICE_ORDERED (R153). -/
def effMT (mt : Nat) (mmio : Bool) : Nat := if mmio && decide (mt < 4) then 4 else mt

/-- The physical address a leaf of a size gives a virtual address. -/
def leafPa (p : Word) (size va : Nat) : Nat :=
  ptePPN p * 2 ^ 12 / 2 ^ sizeBits size * 2 ^ sizeBits size + va % 2 ^ sizeBits size

/-- The virtual address bits that translation uses (R149). -/
def va48 (va : Word) : Nat := bits va 0 48

/-- An entry matches an address under an address space (R155). -/
def TlbEntry.hits (e : TlbEntry) (va asid : Nat) : Bool :=
  e.v && decide (va / 2 ^ sizeBits e.size = e.vpn * 2 ^ 12 / 2 ^ sizeBits e.size) && (pteG e.pte || decide (e.asid = asid))

/-- Entry `i` of the TLB. -/
def Copy.tlbAt (c : Copy) (i : Nat) : TlbEntry := SMap.get TlbEntry.empty c.tlb i

/-- The words `lo` to `lo + n - 1` of an array are written anew, with fresh codes: their errors are gone (R131). -/
def Copy.mend (c : Copy) (a : ArrayId) (lo n : Nat) : Copy :=
  let keep (e : ArrayId × Nat) : Bool := !(decide (e.1 = a) && decide (lo ≤ e.2) && decide (e.2 < lo + n))
  { c with ue := c.ue.filter keep, ce := c.ce.filter keep }

/-- Write entry `i` of the TLB. -/
def Copy.setTlb (c : Copy) (i : Nat) (e : TlbEntry) : Copy := { c with tlb := SMap.put TlbEntry.empty c.tlb i e }.mend .tlb i 1

/-- The index of the entry that matches an address under the current ASID (R155). -/
def Copy.tlbFind (c : Copy) (va : Nat) : Option Nat :=
  (List.range 64).find? fun i => (c.tlbAt i).hits va (bits c.asid 0 16)

/-- Two entries overlap: their ranges intersect and one is global or their ASIDs are equal (R158). -/
def TlbEntry.overlaps (x y : TlbEntry) : Bool :=
  let k := sizeBits (max x.size y.size)
  x.v && y.v && decide (x.vpn * 2 ^ 12 / 2 ^ k = y.vpn * 2 ^ 12 / 2 ^ k) && (pteG x.pte || pteG y.pte || decide (x.asid = y.asid))

/-! ### Traps (R118) -/

/-- A trap: its code and what CAUSE, FAULT_VA and TLB_MISS_VA record. -/
structure TrapInfo where
  code    : Nat
  va      : Word
  isWrite : Bool
  half    : Nat
  partialSt : Bool
  trapno  : Nat
  deriving DecidableEq, Repr

/-- A trap that records nothing but its code. -/
def trapOf (code : Nat) : TrapInfo := { code := code, va := 0, isWrite := false, half := 0, partialSt := false, trapno := 0 }

/-- A trap with a faulting address. -/
def trapAt (code : Nat) (va : Word) (w : Bool) : TrapInfo := { trapOf code with va := va, isWrite := w }

def cUNDEF : Nat := 0x01
def cPRIV : Nat := 0x02
def cTRAP : Nat := 0x03
def cALIGN : Nat := 0x04
def cTLB_MISS_I : Nat := 0x05
def cTLB_MISS_D : Nat := 0x06
def cPERM_X : Nat := 0x07
def cPERM_R : Nat := 0x08
def cPERM_W : Nat := 0x09
def cDIRTY : Nat := 0x0A
def cBUS_ERR : Nat := 0x0B
def cBUS_UE : Nat := 0x0C
def cBUS_TIMEOUT : Nat := 0x0D
def cATOMIC_TARGET : Nat := 0x0E
def cCOP_UNBOUND : Nat := 0x0F

/-- What an access does, for the permissions of R154. -/
inductive AccKind where
  | load | store | atomic | fetch
  deriving DecidableEq, Repr

/-- The permission trap of R154, before D is considered: none if the access is permitted at the level. -/
def permTrap (k : AccKind) (priv : Nat) (p : Word) : Option Nat :=
  let dev := decide (4 ≤ pteMT p)
  let usr := decide (priv = 0)
  match k with
  | .load => if pteR p && (!usr || pteU p) then none else some cPERM_R
  | .store => if pteW p && (!usr || pteU p) then none else some cPERM_W
  | .atomic => if !(pteR p && (!usr || pteU p)) then some cPERM_R else if pteW p then none else some cPERM_W
  | .fetch => if pteX p && (if usr then pteU p else !pteU p) && !dev then none else some cPERM_X

/-! ### Physical windows (R146 to R148) -/

def paStream : Nat := 0x40000000000
def paCrown : Nat := 0x40010000000
def paCode : Nat := 0x40020000000
def paTcm : Nat := 0x40030000000
def paMmio : Nat := 0x60000000000
/-- The base of the self alias of a copy's own data TCM (R148). -/
def paSelf : Nat := 0x4003FFF0000

/-- The kinds of physical window. -/
inductive Window where
  | dram | stream | crown | code | tcm | mmio
  deriving DecidableEq, Repr

/-- The window an address lies in (R146). -/
def windowOf (pa : Nat) : Window :=
  if pa < paStream then .dram else if pa < paCrown then .stream else if pa < paCode then .crown
  else if pa < paTcm then .code else if pa < paMmio then .tcm else .mmio

/-- An address in the self alias (R148). -/
def isSelf (pa : Nat) : Bool := decide (paSelf ≤ pa) && decide (pa < paSelf + 0x10000)

/-- The window address of a byte of the data TCM of the copy with index `k` (R148). -/
def tcmAddr (k off : Nat) : Nat := paTcm + 0x10000 * k + off % 0x10000

/-! ### Data-cache and instruction-cache lookups (R110, R125, R128) -/

/-- Way `w` of set `set` of a 4-way cache. -/
def cacheKey (set w : Nat) : Nat := 4 * set + w

/-- The set of a data-cache line number: 128 sets. -/
def dSet (line : Nat) : Nat := line % 128
/-- The set of an instruction-cache line number: 256 sets. -/
def iSet (line : Nat) : Nat := line % 256

/-- The way of a set that holds a line. -/
def cacheFind (m : SMap CacheLine) (set line : Nat) : Option Nat :=
  (List.range 4).find? fun w =>
    let l := SMap.get CacheLine.empty m (cacheKey set w)
    l.valid && decide (l.line = line)

/-- The way a fill takes: the lowest-numbered invalid way that may be used, otherwise the least recently used one (R125, R128). -/
def cacheVictim (m : SMap CacheLine) (set : Nat) (usable : CacheLine → Bool) : Option Nat :=
  let ways := (List.range 4).filter fun w => usable (SMap.get CacheLine.empty m (cacheKey set w))
  match ways.find? fun w => !(SMap.get CacheLine.empty m (cacheKey set w)).valid with
  | some w => some w
  | none => ways.foldl (fun best w => match best with
      | none => some w
      | some b => if (SMap.get CacheLine.empty m (cacheKey set w)).age < (SMap.get CacheLine.empty m (cacheKey set b)).age
          then some w else some b) none

/-- `n` bytes at byte offset `o` of a line held as a little-endian number. -/
def lineBytes (data o n : Nat) : Nat := data / 2 ^ (8 * o) % 2 ^ (8 * n)

/-- A line with `n` bytes at byte offset `o` replaced. -/
def lineWrite (data o n v : Nat) : Nat :=
  data - lineBytes data o n * 2 ^ (8 * o) + v % 2 ^ (8 * n) * 2 ^ (8 * o)

/-- The data-cache line that holds a physical address, with its key. -/
def Copy.dHit (c : Copy) (pa : Nat) : Option Nat := (cacheFind c.dcache (dSet (pa / 64)) (pa / 64)).map (cacheKey (dSet (pa / 64)))

/-- The instruction-cache line that holds a physical address, with its key. -/
def Copy.iHit (c : Copy) (pa : Nat) : Option Nat := (cacheFind c.icache (iSet (pa / 32)) (pa / 32)).map (cacheKey (iSet (pa / 32)))

/-- A data-cache line by key. -/
def Copy.dLine (c : Copy) (key : Nat) : CacheLine := SMap.get CacheLine.empty c.dcache key

/-- Write a data-cache line, stamping its use. -/
def Copy.setDLine (c : Copy) (key : Nat) (l : CacheLine) : Copy :=
  { c with dcache := SMap.put CacheLine.empty c.dcache key { l with age := c.lru + 1 }, lru := c.lru + 1 }

/-- A data-cache line filled: its words and its tag are new. -/
def Copy.fillDLine (c : Copy) (key : Nat) (l : CacheLine) : Copy := ((c.setDLine key l).mend .dcache (8 * key) 8).mend .dtag key 1

/-- An instruction-cache line by key. -/
def Copy.iLine (c : Copy) (key : Nat) : CacheLine := SMap.get CacheLine.empty c.icache key

/-- Write an instruction-cache line, stamping its use. -/
def Copy.setILine (c : Copy) (key : Nat) (l : CacheLine) : Copy :=
  { c with icache := SMap.put CacheLine.empty c.icache key { l with age := c.lru + 1 }, lru := c.lru + 1 }

/-- An instruction-cache line filled: its words and its tag are new. -/
def Copy.fillILine (c : Copy) (key : Nat) (l : CacheLine) : Copy := ((c.setILine key l).mend .icache (4 * key) 4).mend .itag key 1

/-- Remove a data-cache line, its data discarded. -/
def Copy.dropDLine (c : Copy) (key : Nat) : Copy := { c with dcache := SMap.put CacheLine.empty c.dcache key CacheLine.empty }

/-! ### The branch-target buffer (R123) -/

/-- The index and tag of a branch at an address. -/
def btbIx (pc : Word) : Nat := bits pc 1 8
def btbTag (pc : Word) : Nat := bits pc 9 39

/-- The entry a branch hits. -/
def Copy.btbHit (c : Copy) (pc : Word) : Option BtbEntry :=
  let e := SMap.get BtbEntry.empty c.btb (btbIx pc)
  if e.valid && decide (e.tag = btbTag pc) then some e else none

/-- The buffer after a branch at `pc` that was taken to a target, or not taken (R123). -/
def Copy.btbUpdate (c : Copy) (pc : Word) (taken : Option Word) : Copy :=
  match taken, c.btbHit pc with
  | some tgt, _ =>
    { c with btb := SMap.put BtbEntry.empty c.btb (btbIx pc) { valid := true, tag := btbTag pc, target := tgt } }.mend .btb (btbIx pc) 1
  | none, some _ => { c with btb := SMap.put BtbEntry.empty c.btb (btbIx pc) BtbEntry.empty }.mend .btb (btbIx pc) 1
  | none, none => c

/-- The cycles a branch costs (R94): taken 1 on a hit and 2 otherwise; not taken 1, or 2 on a hit. -/
def branchCycles (hit taken : Bool) : Nat := if hit = taken then 1 else 2

end Sys2Proof.Machine
end

