-- ==== Sys2Proof/Machine/FulDesc.lean ====
section
/-!
DEFINITION. Stream descriptors (R216 to R220) and the addresses of a block's elements (R217, R227).
-/

namespace Sys2Proof.Machine

/-! ### The descriptor (R216) -/

/-- `n` bytes of a descriptor from a byte offset on. -/
def dField (d off n : Nat) : Nat := d / 2 ^ (8 * off) % 2 ^ (8 * n)

/-- A stream block: 0 to 2 are the sources, 3 is DST. -/
structure Blk where
  valid  : Bool
  base   : Nat
  stride : Int
  strRaw : Nat
  typ    : Nat
  form   : Nat
  index  : Nat
  mem    : Nat
  rsvd   : Nat
  deriving DecidableEq, Repr

/-- Block `k` of a descriptor. -/
def dBlk (d k : Nat) : Blk :=
  let o := 16 + 24 * k
  { valid := (dField d 1 1).testBit k, base := dField d o 8, stride := signed 32 (dField d (o + 8) 4), strRaw := dField d (o + 8) 4,
    typ := dField d (o + 12) 1, form := dField d (o + 13) 1, index := dField d (o + 14) 1, mem := dField d (o + 15) 1,
    rsvd := dField d (o + 16) 8 }

/-- The form of a block: 0 unit stride, 1 strided, 2 structure, 3 indexed. -/
def Blk.kind (b : Blk) : Nat := b.form % 4
/-- FIELDS − 1. -/
def Blk.fieldsM1 (b : Blk) : Nat := b.form / 4 % 4
/-- FIELD. -/
def Blk.field (b : Blk) : Nat := b.form / 16 % 4
/-- The index source and the scale of an indexed block. -/
def Blk.idx (b : Blk) : Nat := b.index % 4
def Blk.scale (b : Blk) : Nat := b.index / 4 % 4
/-- The element size in bytes. -/
def Blk.size (b : Blk) : Nat := elemBits b.typ / 8

def dFunc (d : Nat) : Nat := dField d 112 1
def dRM (d : Nat) : Nat := let r := dField d 113 1 % 8; if 4 < r then 0 else r
def dCount (d : Nat) : Nat := dField d 4 4 + 1
def dMark (d : Nat) : Nat := dField d 8 4
def dFF (d : Nat) : Bool := (dField d 2 1).testBit 0
def dMarkEv (d : Nat) : Bool := (dField d 2 1).testBit 1
def dScalar (d : Nat) : Nat := dField d 120 8
/-- The function is a reduction. -/
def dReduction (d : Nat) : Bool := decide (0x20 ≤ dFunc d)

/-- The valid blocks that name an index source `k`. -/
def dIsIndex (d k : Nat) : Bool :=
  [0, 1, 2, 3].any fun j => (dBlk d j).valid && decide ((dBlk d j).kind = 3) && decide ((dBlk d j).idx = k)

/-- The operands a, b, c: the valid sources that are no index source, ascending (R218). -/
def dOperands (d : Nat) : List Nat := [0, 1, 2].filter fun k => (dBlk d k).valid && !dIsIndex d k

/-- The operation type: a's TYPE (R218). -/
def dType (d : Nat) : Nat := match dOperands d with | k :: _ => (dBlk d k).typ | [] => 0

/-- The operand counts a function takes; none where it is not listed (R218). -/
def dArity (fn : Nat) : List Nat :=
  match fn with
  | 0x00 | 0x0A | 0x0B | 0x20 | 0x21 | 0x22 | 0x23 | 0x24 => [1]
  | 0x01 | 0x02 | 0x03 | 0x04 | 0x05 | 0x06 | 0x07 | 0x08 | 0x09 => [2]
  | 0x0C | 0x0D | 0x0E => [3]
  | 0x0F => [2, 3]
  | _ => []

/-- A field that must be 0 is not (R216, R220). -/
def Blk.reserved (b : Blk) : Bool :=
  b.valid && (decide (2 ^ 48 ≤ b.base) || (decide (b.kind ≠ 1) && decide (b.strRaw ≠ 0)) || decide (16 ≤ b.typ) ||
    (decide (b.kind ≠ 2) && decide (b.form / 4 % 16 ≠ 0)) || decide (64 ≤ b.form) || decide (16 ≤ b.index) ||
    (decide (b.kind ≠ 3) && decide (b.index ≠ 0)) || decide (8 ≤ b.mem) || decide (b.rsvd ≠ 0))

def dReserved (d : Nat) : Bool :=
  decide (16 ≤ dField d 1 1) || decide (4 ≤ dField d 2 1) || decide (dField d 3 1 ≠ 0) || decide (dField d 12 4 ≠ 0) ||
    decide (8 ≤ dField d 113 1) || decide (dField d 114 6 ≠ 0) || ([0, 1, 2, 3].any fun k => (dBlk d k).reserved)

/-- A type rule of R219 is broken, or a TYPE is 12 to 15. -/
def dTypeBad (d : Nat) : Bool :=
  let t := dType d
  let dst := (dBlk d 3).typ
  let ops := (dOperands d).map fun k => (dBlk d k).typ
  let fn := dFunc d
  ([0, 1, 2, 3].any fun k => (dBlk d k).valid && decide (11 < (dBlk d k).typ)) ||
  ([0, 1, 2].any fun k => dIsIndex d k && !([2, 3, 6, 7].contains (dBlk d k).typ)) ||
  (if fn = 0x0F then
      let big := if t = 0 then 2 else 6
      !(decide (t = 0) || decide (t = 4)) || decide (ops.getD 1 t ≠ t) || decide (ops.getD 2 big ≠ big) || decide (dst ≠ big)
    else
      ops.any (fun x => decide (x ≠ t)) ||
      (if fn = 0x23 ∨ fn = 0x24 then decide (dst ≠ 7) else decide (fn ≠ 0x00) && decide (dst ≠ t)) ||
      ((decide (fn = 0x07) || decide (fn = 0x08) || decide (fn = 0x09)) && tyFloat t) ||
      ((decide (fn = 0x0C) || decide (fn = 0x0D) || decide (fn = 0x0E)) && !tyFloat t))

/-- The form conditions of one block (R220). -/
def dBlkBad (d k : Nat) : Bool :=
  let b := dBlk d k
  b.valid && (
    (decide (b.kind = 3) && (decide (k ≤ b.idx) || decide (b.idx = 3) || !(dBlk d b.idx).valid || decide ((dBlk d b.idx).kind = 3))) ||
    (decide (b.kind = 2) && (decide (b.fieldsM1 + 1 ≤ b.field) || decide (b.fieldsM1 = 0))) ||
    decide (b.mem % 4 = 3) || (decide (b.mem % 4 = 2) && decide (k < 3)) ||
    (dFF d && decide (k < 3) && (decide (b.kind = 1) || decide (b.kind = 2))))

/-- The cause for which a descriptor faults, 0 for none (R220). -/
def dCause (d : Nat) : Nat :=
  if dField d 0 1 ≠ 1 then 0x22
  else if dReserved d then 0x23
  else if !(dBlk d 3).valid || !(dArity (dFunc d)).contains (dOperands d).length || ([0, 1, 2, 3].any fun k => dBlkBad d k) ||
      dTypeBad d || (dReduction d && decide ((dBlk d 3).kind ≠ 0)) || (decide (dFunc d = 0x0F) && decide (dCount d % 4 ≠ 0)) then 0x24
  else 0

/-! ### The elements of a block -/

/-- The address of element `i` of a block, given its index value (R217). -/
def Blk.va (b : Blk) (i : Nat) (x : Int) : Int :=
  match b.kind with
  | 0 => ((b.base + i * b.size : Nat) : Int)
  | 1 => (b.base : Int) + (i : Int) * b.stride
  | 2 => ((b.base + (i * (b.fieldsM1 + 1) + b.field) * b.size : Nat) : Int)
  | _ => (b.base : Int) + x * ((2 ^ b.scale : Nat) : Int)

/-- The cause for which an element address faults (R217): out of range, or misaligned in any form but unit stride. -/
def Blk.vaBad (b : Blk) (va : Int) : Option Nat :=
  if va < 0 ∨ ((2 ^ 48 : Nat) : Int) ≤ va then some 0x27
  else if b.kind ≠ 0 ∧ va.toNat % b.size ≠ 0 then some 0x26
  else none

/-- The memory that a block names (R216, R227). -/
def Blk.inMem (b : Blk) (pa : Nat) : Bool :=
  match b.mem % 4 with
  | 0 => decide (windowOf pa = .dram)
  | 1 => decide (windowOf pa = .stream)
  | 2 => decide (windowOf pa = .crown)
  | _ => false

/-- The same block, element for element (R226). -/
def Blk.same (a b : Blk) : Bool :=
  decide (a.base = b.base) && decide (a.typ = b.typ) && decide (a.form = b.form) && decide (a.strRaw = b.strRaw) &&
    decide (a.index = b.index)

end Sys2Proof.Machine
end

