-- ==== Sys2Proof/Machine/Gate.lean ====
section
/-!
DEFINITION. The target gates (R172 to R180): which gate guards an address, whether its rules grant a request, the effects of a denial,
and the writes of a gate's own registers.
-/

namespace Sys2Proof.Machine

/-- The size of the DRAM addressable part (R261): 256 GiB shifted by DDR_CFG.CAP. -/
def State.dramSize (s : State) : Nat := 2 ^ (38 + s.fget Reg.ddrCfg Reg.ddrCfg_CAP)

/-- The number of an MMIO block: 64 KiB each (R146). -/
def mmioBlock (pa : Nat) : Nat := (pa - paMmio) / 0x10000

/-- The gate that guards an address (R146). -/
def gateOf (pa : Nat) : Nat :=
  match windowOf pa with
  | .dram => 0 | .stream => 1 | .crown => 2 | .code => 3 | .tcm => 4
  | .mmio => if mmioBlock pa < 22 then 5 + mmioBlock pa else 5

/-- The address lies in the addressable part of its window (R146, R147). -/
def State.mapped (s : State) (pa : Nat) : Bool :=
  match windowOf pa with
  | .dram => decide (pa < s.dramSize)
  | .stream => decide (pa < paStream + 0x4000000)
  | .crown => decide (pa < paCrown + 0x3C000)
  | .code => decide (pa < paCode + 0x2000000)
  | .tcm => decide (pa < paTcm + 0x300000)
  | .mmio => decide (mmioBlock pa < 22)

/-- A rule of a gate in force (R174). -/
structure Rule where
  en     : Bool
  locked : Bool
  base   : Nat
  limit  : Nat
  mask   : Nat
  r      : Bool
  w      : Bool
  f      : Bool
  deriving DecidableEq, Repr

/-- Rule `k` of gate `g`. -/
def State.rule (s : State) (g k : Nat) : Rule :=
  let c := s.rd (Reg.gateRuleCtl g k)
  { en := bit c 0, locked := bit c 4, base := s.fget (Reg.gateRuleBase g k) Reg.gateRuleBase_BASE,
    limit := s.fget (Reg.gateRuleLimit g k) Reg.gateRuleLimit_LIMIT,
    mask := s.fget (Reg.gateRuleMask g k) Reg.gateRuleMask_MASK, r := bit c 1, w := bit c 2, f := bit c 3 }

/-- An enabled rule covers the granule of an address; a rule with LIMIT below BASE covers nothing (R174). -/
def Rule.covers (r : Rule) (pa : Nat) : Bool := r.en && decide (r.base ≤ pa / 64) && decide (pa / 64 ≤ r.limit)

/-- The rule has the initiator's bit set (R173). -/
def Rule.admits (r : Rule) (init : Nat) : Bool := r.mask.testBit init

/-- The rule holds every permission an operation needs (R174). -/
def Rule.permits (r : Rule) (op : MeshOp) : Bool :=
  match op with
  | .read | .walkRead => r.r
  | .write => r.w
  | .atomic | .walkCas => r.r && r.w
  | .fetch => r.f

/-- The rules consulted for a granule: the enabled locked rules that cover it where there is one, every covering rule elsewhere (R174). -/
def State.consulted (s : State) (g pa : Nat) : List Rule :=
  let cov := ((List.range 32).map (s.rule g)).filter (·.covers pa)
  if cov.any (·.locked) then cov.filter (·.locked) else cov

/-- A denial cause (GATE_VLOGn_INFO.CAUSE). -/
def dNO_RULE : Nat := 0
def dPERM : Nat := 1
def dUNMAPPED : Nat := 2
def dCFG_UE : Nat := 3

/-- The cause for which a gate denies a request, or none if it passes (R147, R174, R178, R50). -/
def State.gateCause (s : State) (m : MeshReq) : Option Nat :=
  let pa := m.pa.toNat
  let g := gateOf pa
  let init := m.rq.init.val
  if s.fget (Reg.gateCtl g) Reg.gateCtl_CFG_FAILED = 1 ∨ s.latent.gate.contains g then some dCFG_UE
  else if !s.mapped pa then some dUNMAPPED
  else if decide (windowOf pa = .tcm) && (decide (m.op = .write) || decide (m.op = .atomic) || decide (m.op = .walkCas)) &&
      s.groupMode ((pa - paTcm) / 0x30000) then some dPERM
  else
    let rs := (s.consulted g pa).filter (·.admits init)
    if rs.any (·.permits m.op) then none
    else if rs.isEmpty then some dNO_RULE else some dPERM

/-- The code of an operation in the violation log (GATE_VLOGn_INFO.OP). -/
def meshOpCode : MeshOp → Nat
  | .read => 0 | .write => 1 | .atomic => 2 | .fetch => 3 | .walkRead => 4 | .walkCas => 5

/-- The effects of a denial (R177): the source, the count and the violation log, which keeps the first eight. -/
def State.deny (s : State) (m : MeshReq) (cause : Nat) : State :=
  let g := gateOf m.pa.toNat
  let s := s.raiseFor (0x160 + g) (some m.rq.init.val)
  let s := s.fsat (Reg.gateStat g) Reg.gateStat_DENIED 1
  let n := s.fget (Reg.gateStat g) Reg.gateStat_LOG_COUNT
  if 8 ≤ n then s.fset (Reg.gateStat g) Reg.gateStat_LOG_OVF 1
  else
    let s := s.wr (Reg.gateVlogAddr g n) (m.pa.setWidth 64)
    let info := BitVec.ofNat 64
      (m.rq.init.val + 2 ^ 5 * meshOpCode m.op + 2 ^ 8 * cause + 2 ^ 10 + 2 ^ 24 * s.now40)
    let s := s.wr (Reg.gateVlogInfo g n) info
    s.fset (Reg.gateStat g) Reg.gateStat_LOG_COUNT (n + 1)

/-- A gate whose rule storage reads with an uncorrectable error sets CFG_FAILED and raises GATE_CFG_UE (R178). -/
def State.gateFail (s : State) (g : Nat) : State :=
  if s.latent.gate.contains g ∧ s.fget (Reg.gateCtl g) Reg.gateCtl_CFG_FAILED = 0 then
    (s.fset (Reg.gateCtl g) Reg.gateCtl_CFG_FAILED 1).raise 0x17F
  else s

/-- A request meets its gate: the state after a denial, or none if the request passes (R172, R175, R178). -/
def State.gateDenies (s : State) (m : MeshReq) : Option State :=
  (s.gateCause m).map fun c => (s.gateFail (gateOf m.pa.toNat)).deny m c

/-! ### The GATE block's own registers (R176 to R178) -/

/-- Recount GATE_CTL.LOCKED, the number of locked rules of a gate. -/
def State.recountLocked (s : State) (g : Nat) : State :=
  s.fset (Reg.gateCtl g) Reg.gateCtl_LOCKED (((List.range 32).filter fun k => bit (s.rd (Reg.gateRuleCtl g k)) 4).length)

/-- The offset of a shadowed register of a rule. -/
def ruleRegOff (which : RuleReg) (g k : Nat) : Nat :=
  match which with
  | .base => Reg.gateRuleBase g k
  | .limit => Reg.gateRuleLimit g k
  | .mask => Reg.gateRuleMask g k

/-- The bits of a shadowed register that exist. -/
def ruleRegMask (which : RuleReg) : Word :=
  match which with
  | .base | .limit => 0xFFFFFFFFFC0
  | .mask => 0xFFFFFFFF

/-- A write of BASE, LIMIT or MASK goes to the shadow copy; a locked rule ignores it (R176). `wm` selects the bytes accessed. -/
def State.shadowWrite (s : State) (g k : Nat) (which : RuleReg) (wm v : Word) : State :=
  if bit (s.rd (Reg.gateRuleCtl g k)) 4 then s
  else
    let o := ruleRegOff which g k
    let old := SMap.get 0 s.shadow o
    { s with shadow := SMap.put 0 s.shadow o (((old &&& ~~~wm) ||| (v &&& wm)) &&& ruleRegMask which) }

/-- A write of CTL applies the shadow copy together with CTL in one evaluation cycle; a locked rule ignores it (R176), and a word write that
reaches only the register's upper half, which holds no field, changes nothing (R9). -/
def State.ruleCtlWrite (s : State) (g k : Nat) (wm v : Word) : State :=
  let c := s.rd (Reg.gateRuleCtl g k)
  if bit c 4 || !bit wm 0 then s
  else
    let s := s.wr (Reg.gateRuleBase g k) (SMap.get 0 s.shadow (Reg.gateRuleBase g k))
    let s := s.wr (Reg.gateRuleLimit g k) (SMap.get 0 s.shadow (Reg.gateRuleLimit g k))
    let s := s.wr (Reg.gateRuleMask g k) (SMap.get 0 s.shadow (Reg.gateRuleMask g k))
    let s := s.wr (Reg.gateRuleCtl g k) ((c &&& ~~~(wm &&& 0x1F)) ||| (v &&& wm &&& 0x1F))
    s.recountLocked g

/-- Writing 1 to GATE_CTL.LOCK_ALL sets LOCK in all 32 rules, enabled or not (R176). -/
def State.lockAll (s : State) (g : Nat) : State :=
  let s := (List.range 32).foldl (fun s k => s.fset (Reg.gateRuleCtl g k) Reg.gateRuleCtl_LOCK 1) s
  (s.fset (Reg.gateCtl g) Reg.gateCtl_LOCK_ALL 1).recountLocked g

/-- GATE_LOG_CLR.CLEAR invalidates the entries and clears LOG_COUNT and LOG_OVF. -/
def State.gateLogClear (s : State) (g : Nat) : State :=
  let s := (List.range 8).foldl (fun s n => s.fset (Reg.gateVlogInfo g n) Reg.gateVlogInfo_VALID 0) s
  (s.fset (Reg.gateStat g) Reg.gateStat_LOG_COUNT 0).fset (Reg.gateStat g) Reg.gateStat_LOG_OVF 0

/-- The index of an offset in a family of registers. -/
def famIx (off base stride count : Nat) : Option Nat :=
  if base ≤ off ∧ (off - base) % stride = 0 ∧ (off - base) / stride < count then some ((off - base) / stride) else none

/-- The GATE block's writes that do more than store: none where the register is an ordinary one. -/
def State.gateWrite (s : State) (off : Nat) (wm v : Word) : Option State :=
  let g := (off - 0x60000) / 0x800
  let o := (off - 0x60000) % 0x800
  if 27 ≤ g then none
  else if o = 0 then some (if bit (v &&& wm) 0 then s.lockAll g else s)
  else if o = 0x18 then some (if bit (v &&& wm) 0 then s.gateLogClear g else s)
  else if 0x100 ≤ o ∧ o < 0x500 ∧ o % 8 = 0 then
    let k := (o - 0x100) / 0x20
    match (o - 0x100) % 0x20 / 8 with
    | 0 => some (s.shadowWrite g k .base wm v)
    | 1 => some (s.shadowWrite g k .limit wm v)
    | 2 => some (s.shadowWrite g k .mask wm v)
    | _ => some (s.ruleCtlWrite g k wm v)
  else none

end Sys2Proof.Machine
end

