-- ==== Sys2Proof/Machine/TriadOps.lean ====
section
/-!
DEFINITION. What a triad does as a group (chapters 01 and 02): stopping, isolating a copy, resynchronisation, mode requests, the
watchdog and comparison injection, and the writes of the TRI and FCRU blocks' registers.
-/

namespace Sys2Proof.Machine

/-! ### Source numbers of a triad (R32) -/

def srcODD_COPY (t : Nat) : Nat := 0x10 * t
def srcPAIR_MISMATCH (t : Nat) : Nat := 0x10 * t + 1
def srcCONFORMER_FAULT (t : Nat) : Nat := 0x10 * t + 2
def srcRESYNC_FAIL (t : Nat) : Nat := 0x10 * t + 3
def srcDEBUG_LOCKSTEP_BREAK (t : Nat) : Nat := 0x10 * t + 4
def srcIAU_DISAGREE (t : Nat) : Nat := 0x10 * t + 5
def srcCACHE_UE (t : Nat) : Nat := 0x10 * t + 6
def srcTCM_UE (t : Nat) : Nat := 0x10 * t + 7
def srcWATCHDOG (t : Nat) : Nat := 0x10 * t + 8
def srcMODE_SWITCH_ILLEGAL (t : Nat) : Nat := 0x10 * t + 9

/-- The table "Fault sources and default reactions" lists the source (R32). -/
def sourceListed (src : Nat) : Bool :=
  if src < 0x100 then decide (src % 16 ≤ 9)
  else if src < 0x140 then true
  else if src ≤ 0x147 then true
  else if 0x160 ≤ src ∧ src ≤ 0x17A then true
  else decide (src = 0x17F) || (decide (0x180 ≤ src) && decide (src ≤ 0x18A)) ||
    (decide (0x1A0 ≤ src) && decide (src ≤ 0x1B4)) || (decide (0x1C0 ≤ src) && decide (src ≤ 0x1CB)) ||
    (decide (0x1D0 ≤ src) && decide (src ≤ 0x1D5)) || (decide (0x1E0 ≤ src) && decide (src ≤ 0x1E6)) ||
    (decide (0x1F0 ≤ src) && decide (src ≤ 0x1FE))

/-- FCRU_SELF and FCRU_WDOG have a fixed reaction and no matrix entry (R33). -/
def sourceFixed (src : Nat) : Bool := decide (src = 0x1FD) || decide (src = 0x1FE)

/-- A source has a group to stop in the three cases of R21. -/
def sourceGrouped (src : Nat) : Bool :=
  decide (src < 0x140) || (decide (0x160 ≤ src) && decide (src ≤ 0x17A)) || decide (src = 0x146) || decide (src = 0x147)

/-- ODD_COPY, CACHE_UE and TCM_UE: the sources to which RESYNC may be assigned (R33). -/
def sourceResyncable (src : Nat) : Bool :=
  decide (src < 0x100) && (decide (src % 16 = 0) || decide (src % 16 = 6) || decide (src % 16 = 7))

/-- A matrix entry value is forbidden for a source by R21, R33, R34 or because it holds the value 7 (R35). -/
def matrixForbidden (src : Nat) (v : Word) : Bool :=
  let bad (c : Nat) : Bool :=
    decide (c = 7) || (decide (c = 2) && !sourceResyncable src) || (decide (c = 3) && !sourceGrouped src) ||
    (decide (src < 0x100) && (decide (src % 16 = 1) || decide (src % 16 = 2)) && decide (c < 4))
  bad (bits v 0 3) || bad (bits v 3 3)

/-- Close a source's escalation window, its count discarded (R28, R36). -/
def State.closeWindow (s : State) (src : Nat) : State :=
  (s.fset (Reg.fcruCnt src) Reg.fcruCnt_IN_WINDOW 0).fset (Reg.fcruCnt src) Reg.fcruCnt_WINDOW_OPEN 0

/-- A write of a matrix entry (R35, R36): ignored for a reserved source and for a locked entry; a forbidden value is ignored and raises
the GATE_DENIED source of the FCRU gate; a write that takes effect closes the entry's escalation window. -/
def State.matrixWrite (s : State) (src : Nat) (rq : Rq) (wm v : Word) : State :=
  let old := s.rd (Reg.fcruMatrix src)
  let new := ((old &&& ~~~wm) ||| (v &&& wm)) &&& 0x800001FFFFFFFFFF
  if !sourceListed src || sourceFixed src || bit old 63 then s
  else if matrixForbidden src new then s.raiseFor 0x166 (some rq.init.val)
  else (s.wr (Reg.fcruMatrix src) new).closeWindow src

/-- FCRU_STATUS.GLOBAL_LOCK: writing 1 sets LOCK in every matrix entry. -/
def State.globalLock (s : State) : State :=
  let s := (List.range 512).foldl (fun s i =>
    if sourceFixed i then s else s.fset (Reg.fcruMatrix i) Reg.fcruMatrix_LOCK 1) s
  s.fset Reg.fcruStatus Reg.fcruStatus_GLOBAL_LOCK 1

/-- The image grants INJECT (SYS_PERM.INJECT). -/
def State.injectOk (s : State) : Bool := decide (s.fget Reg.sysPerm Reg.sysPerm_INJECT = 1)

/-- FCRU_SW_RAISE: raises the source as if detected, under INJECT, never 0x1FD or 0x1FE, never a reserved ID (R32). -/
def State.swRaise (s : State) (src : Nat) : State :=
  if s.injectOk && sourceListed src && !sourceFixed src then s.raise src else s

/-- The FCRU block's writes that do more than store. -/
def State.fcruWrite (s : State) (rq : Rq) (off : Nat) (wm v : Word) : Option State :=
  match famIx off (Reg.fcruMatrix 0) 8 512 with
  | some src => some (s.matrixWrite src rq wm v)
  | none =>
    if off = Reg.fcruStatus then
      let s := if bit (v &&& wm) 6 then s.fset Reg.fcruStatus Reg.fcruStatus_LOG_WRAP 0 else s
      some (if bit (v &&& wm) 7 then s.globalLock else s)
    else if off = Reg.fcruSwRaise then (if bit wm 0 then some (s.swRaise (bits v 0 9)) else some s)
    else none

/-- The FCRU watchdog has expired: the condition of R18 holds until RESET_N. -/
def State.wdogDead (s : State) : Bool := decide (s.fget Reg.fcruStatus Reg.fcruStatus_WDOG_EXPIRED = 1)

/-! ### The operating state (R325) -/

def opOFF : Nat := 0
def opSLEEP : Nat := 1
def opBOOT : Nat := 2
def opRUN : Nat := 3
def opDEGRADED : Nat := 4
def opSAFE : Nat := 5
def opSTANDBY : Nat := 6
def opMAINT : Nat := 7

/-- The operating state (SYS_STATE.OPSTATE). -/
def State.opstate (s : State) : Nat := s.fget Reg.sysState Reg.sysState_OPSTATE
/-- Enter an operating state. -/
def State.setOp (s : State) (x : Nat) : State := s.fset Reg.sysState Reg.sysState_OPSTATE x
/-- A reaction moves a RUN device to DEGRADED (R19, R23). -/
def State.degrade (s : State) : State := if s.opstate = opRUN then s.setOp opDEGRADED else s

/-! ### Resynchronisation (R70 to R75) -/

/-- A flag of TRI_STATUS. -/
def State.tri (s : State) (t : Nat) (f : Fld) : Nat := s.fget (Reg.triStatus t) f

/-- A resynchronisation or a rebuild of the triad is running. -/
def State.resyncBusy (s : State) (t : Nat) : Bool := decide (s.tri t Reg.triStatus_RESYNC_BUSY = 1)

/-- The copies isolated after being odd. -/
def State.isolated (s : State) (t : Nat) : List Nat :=
  [0, 1, 2].filter fun c => bit (s.rd (Reg.triStatus t)) (Reg.triStatus_ISOLATED.lo + c)

/-- A copy that Pounce has marked failed (PNC_FAILED_COPIES, R366). -/
def State.copyFailed (s : State) (t c : Nat) : Bool := bit (s.rd Reg.pncFailedCopies) (copyIx t c)

/-- The engine starts copying into the listed copies: phase 1 (R70). -/
def State.rebuildStart (s : State) (t : Nat) (cs : List Nat) : State :=
  let s := (s.fset (Reg.triStatus t) Reg.triStatus_RESYNC_BUSY 1).fset (Reg.triStatus t) Reg.triStatus_RESYNC_PHASE 1
  s.modTriad t fun x => { x with rebuild := cs, rebuilt10 := 0 }

/-- A resynchronisation starts, if the triad is in VOTE mode with exactly one copy isolated and none resynchronising, and the copy
can be rebuilt (R70, R73, R76). -/
def State.resyncStart (s : State) (t : Nat) : State :=
  match s.isolated t with
  | [c] =>
    if s.mode t = 0 ∧ !s.resyncBusy t ∧ !(s.triad t).resyncBad ∧ !s.copyFailed t c then s.rebuildStart t [c] else s
  | _ => s

/-- A resynchronisation is abandoned: the phase returns to 0 and FAILED counts it; with `fail` the triad raises RESYNC_FAIL and no
further one starts until reset (R73). -/
def State.resyncAbandon (s : State) (t : Nat) (fail : Bool) : State :=
  if s.resyncBusy t then
    let s := (s.fset (Reg.triStatus t) Reg.triStatus_RESYNC_BUSY 0).fset (Reg.triStatus t) Reg.triStatus_RESYNC_PHASE 0
    let s := s.fsat (Reg.triResyncStat t) Reg.triResyncStat_FAILED 1
    let s := s.modTriad t fun x => { x with rebuild := [], trans := none, resyncBad := x.resyncBad || fail }
    if fail then s.raise (srcRESYNC_FAIL t) else s
  else s

/-- The group stops: it holds at its fence with its transactions withheld, and a running resynchronisation is abandoned without
RESYNC_FAIL (R52, R73). -/
def State.stopTriad (s : State) (t : Nat) : State :=
  (s.fset (Reg.triStatus t) Reg.triStatus_STOPPED 1).resyncAbandon t false

/-- A copy leaves the compared set: isolated, its clock held, its minority counts in progress cleared (R52, R64, R70). -/
def State.isolate (s : State) (t c : Nat) : State :=
  let w := s.rd (Reg.triStatus t)
  let s := s.wr (Reg.triStatus t) (setBits (setBits w (Reg.triStatus_LIVE.lo + c) 1 0) (Reg.triStatus_ISOLATED.lo + c) 1 1)
  let s := s.modCopy (copyIx t c) fun x => { x with status := .held }
  s.modTriad t fun x => { x with minority := [] }

/-- Count one odd copy in TRI_CONF_CNT and isolate it, raising the source first, while three copies are still live (R52, R132). -/
def State.oddCopy (s : State) (t c src : Nat) : State :=
  let s := s.raise src
  let f := match c with
    | 0 => Reg.triConfCnt_ODD_A | 1 => Reg.triConfCnt_ODD_B | _ => Reg.triConfCnt_ODD_C
  (s.fsat (Reg.triConfCnt t) f 1).isolate t c

/-- Record a mismatch in TRI_MISMATCH. -/
def State.recordMismatch (s : State) (t groups copies : Nat) (fetch : Bool) : State :=
  let n := bits (s.rd (Reg.triCommitCount t)) 0 48
  s.wr (Reg.triMismatch t) (BitVec.ofNat 64 (groups + 2 ^ 11 * copies + 2 ^ 14 + 2 ^ 15 * b2n fetch + 2 ^ 16 * n))

/-- Two compared copies differ: the fence withholds, the group stops, PAIR_MISMATCH is raised, and a resynchronisation in progress is
abandoned with RESYNC_FAIL (R27, R52, R73). -/
def State.pairMismatch (s : State) (t : Nat) : State :=
  let s := s.raise (srcPAIR_MISMATCH t)
  let s := s.fsat (Reg.triConfCnt t) Reg.triConfCnt_PAIR_MM 1
  let s := if decide (s.mode t = 0) then s.resyncAbandon t true else s
  s.stopTriad t

/-! ### TRI registers -/

/-- The width of each compared group of a bundle (R47). -/
def groupWidth : Nat → Nat
  | 0 => 14 | 1 => 16 | 2 => 47 | 3 => 7 | 4 => 64 | 5 => 13 | 6 => 3 | 7 => 48 | 8 => 64 | 9 => 64 | 10 => 69 | _ => 0

/-- A write of TRI_INJECT arms a flip of one bit of one group of one copy's next valid bundle, under INJECT (R60). -/
def State.triInject (s : State) (t : Nat) (v : Word) : State :=
  let grp := bits v 0 4
  let cp := bits v 4 2
  let b := bits v 6 7
  if s.injectOk && bit v 13 && decide (grp ≤ 10) && decide (cp < 3) && decide (b < groupWidth grp) then
    s.modTriad t fun x => { x with inject := some (grp, cp, b) }
  else s

/-- A write of TRI_MODE_REQ: in SPLIT mode only copy A's writes take effect, and a write from B or C of the triad is ignored and raises
MODE_SWITCH_ILLEGAL (R78). ARM is set by a 1 (R7). -/
def State.modeReqWrite (s : State) (t : Nat) (rq : Rq) (wm v : Word) : State :=
  let own := decide (rq.init.val = t)
  if s.mode t = 2 ∧ !(own && decide (rq.tag = 0)) then
    (if own && (decide (rq.tag = 1) || decide (rq.tag = 2)) then s.raise (srcMODE_SWITCH_ILLEGAL t) else s)
  else
    let old := s.rd (Reg.triModeReq t)
    let m := wm &&& 7
    s.wr (Reg.triModeReq t) (((old &&& ~~~m) ||| (v &&& m)) ||| (v &&& wm &&& 8))

/-- The key the triad watchdog expects next (R83). -/
def State.wdogKey (s : State) (t : Nat) : Nat :=
  if s.fget (Reg.triWdogCtl t) Reg.triWdogCtl_NEXT_KEY = 0 then 0xA5C3 else 0x3C5A

/-- The watchdog's count starts from zero (R83). -/
def State.wdogZero (s : State) (t : Nat) : State := s.modTriad t fun x => { x with wdogFrom := s.ticks }

/-- A write of TRI_WDOG_KICK (R83): the expected key advances NEXT_KEY; any other value raises WATCHDOG; both restart the count. Nothing happens
while ENABLE = 0. -/
def State.wdogKick (s : State) (t key : Nat) : State :=
  if s.fget (Reg.triWdogCtl t) Reg.triWdogCtl_ENABLE = 0 then s
  else if key = s.wdogKey t then
    (s.fset (Reg.triWdogCtl t) Reg.triWdogCtl_NEXT_KEY (1 - s.fget (Reg.triWdogCtl t) Reg.triWdogCtl_NEXT_KEY)).wdogZero t
  else (s.raise (srcWATCHDOG t)).wdogZero t

/-- The TRI block's writes that do more than store. -/
def State.triWrite (s : State) (rq : Rq) (off : Nat) (wm v : Word) : Option State :=
  let t := (off - 0x20000) / 0x1000
  let o := (off - 0x20000) % 0x1000
  if o = 0x008 then some (s.modeReqWrite t rq wm v)
  else if o = 0x018 then
    let old := s.rd (Reg.triMsyncTmo t)
    let n := ((old &&& ~~~wm) ||| (v &&& wm)) &&& 0xFFFF
    some (s.wr (Reg.triMsyncTmo t) (if n = 0 then 1 else n))
  else if o = 0x038 then some (if bit (v &&& wm) 0 then s.resyncStart t else s)
  else if o = 0x048 then some (if bit wm 0 then s.triInject t v else s)
  else if o = 0x058 then some (if bit wm 0 then s.wdogKick t (bits v 0 32) else s)
  else none

end Sys2Proof.Machine
end

