-- ==== Sys2Proof/Machine/Xlt.lean ====
section
/-!
DEFINITION. The look-ups of the Fuller translation (R163), and where an address of a context lies, found without an access.
-/

namespace Sys2Proof.Machine

/-- The translation state of a context. -/
def State.xltOf (s : State) (c : Nat) : Xlt := SMap.get Xlt.reset s.xlt c

/-- An entry of a context's Fuller TLB; way `w` of set `set` is at 8 * set + w. -/
def Xlt.at (x : Xlt) (i : Nat) : FulTlbEntry := SMap.get FulTlbEntry.empty x.tlb i

/-- The set a size's leaves use (R163): VA[18:12], VA[27:21] and VA[36:30]. -/
def fulSet (size va : Nat) : Nat := va / 2 ^ sizeBits size % 128

/-- An entry matches an address under an address space (R163, R169). -/
def FulTlbEntry.hits (e : FulTlbEntry) (size va asid : Nat) : Bool :=
  e.valid && decide (e.size = size) && decide (e.vpn = va / 2 ^ sizeBits size) && (pteG e.pte || decide (e.asid = asid))

/-- The index of the entry that matches an address: three sets are probed (R163). DESIGN CHOICE (log entry 173): where entries of two sizes match, that of
the smaller size is used. -/
def Xlt.find (x : Xlt) (va asid : Nat) : Option Nat :=
  ([0, 1, 2].flatMap fun size => (List.range 8).map fun w => (size, 8 * fulSet size va + w)).findSome? fun p =>
    if (x.at p.2).hits p.1 va asid then some p.2 else none

/-- The leaf that the tables in memory give an address, from a table on: its value and size; `n` bounds the levels left. -/
def State.peekWalk (s : State) (va : Nat) : Nat → Nat → Nat → Option (Word × Nat)
  | 0, _, _ => none
  | n + 1, level, table =>
    let pte : Word := BitVec.ofNat 64 (s.bytes (table + 8 * (va / 2 ^ (39 - 9 * level) % 512)) 8)
    if !pteV pte || pteMalformed pte level then none
    else if pteLeaf pte then some (pte, 3 - level)
    else s.peekWalk va n (level + 1) (ptePPN pte * 2 ^ 12)

/-- The physical address that a context's write of an address would go to, as its translation stands: by its TLB, else by the tables. -/
def State.peek (s : State) (c va : Nat) : Option Nat :=
  let va := va % 2 ^ 48
  let x := s.xltOf c
  let hit := (x.find va (s.fget (Reg.xltAsid c) Reg.xltAsid_ASID)).map fun i => ((x.at i).pte, (x.at i).size)
  match hit.orElse fun _ => s.peekWalk va 4 0 (s.fget (Reg.xltRoot c) Reg.xltRoot_PPN * 2 ^ 12) with
  | some (pte, size) => if pteW pte then some (leafPa pte size va) else none
  | none => none

end Sys2Proof.Machine
end

