-- ==== Sys2Proof/Machine/FulCtx.lean ====
section
/-!
DEFINITION. Fuller contexts as the acceptance stage and the schedule see them (R183 to R186, R191 to R196, R202 to R208): state, events,
returned values, cancellation, faults and STOP_GROUP.
-/

namespace Sys2Proof.Machine

/-! ### Context storage (R187, R241) -/

/-- A context. -/
def State.ctx (s : State) (c : Nat) : Ctx := SMap.get Ctx.reset s.ctxs c
/-- Replace a context. -/
def State.setCtx (s : State) (c : Nat) (x : Ctx) : State := { s with ctxs := SMap.put Ctx.reset s.ctxs c x }
/-- Change a context. -/
def State.modCtx (s : State) (c : Nat) (f : Ctx → Ctx) : State := s.setCtx c (f (s.ctx c))

/-! ### Elements, mask bits and poison -/

/-- Element `i` of width `w` of the group at register `r`. -/
def Ctx.elem (x : Ctx) (r w i : Nat) : Nat := bits (SMap.get 0 x.v (512 * r + i * w / 64)) (i * w % 64) w
/-- The word of an element carries poison. -/
def Ctx.elemBad (x : Ctx) (r w i : Nat) : Bool := SMap.get false x.vPoison (512 * r + i * w / 64)
/-- Write an element; its word then takes a fresh code, and is free of poison or carries it (R182, R241). -/
def Ctx.putElem (x : Ctx) (r w i v : Nat) (bad : Bool) : Ctx :=
  let k := 512 * r + i * w / 64
  { x with
    v := SMap.put 0 x.v k (setBits (SMap.get 0 x.v k) (i * w % 64) w v)
    vPoison := SMap.put false x.vPoison k bad
    vUe := x.vUe.filter (· ≠ k)
    vCe := x.vCe.filter (· ≠ k) }
/-- Mask bit `i` of the group at mask register `m`. -/
def Ctx.maskBit (x : Ctx) (m i : Nat) : Bool := bit (SMap.get 0 x.m (64 * m + i / 64)) (i % 64)
/-- The word of a mask bit carries poison. -/
def Ctx.maskBad (x : Ctx) (m i : Nat) : Bool := SMap.get false x.mPoison (64 * m + i / 64)
/-- Write a mask bit. -/
def Ctx.putMask (x : Ctx) (m i : Nat) (v bad : Bool) : Ctx :=
  let k := 64 * m + i / 64
  { x with
    m := SMap.put 0 x.m k (setBits (SMap.get 0 x.m k) (i % 64) 1 (b2n v))
    mPoison := SMap.put false x.mPoison k bad
    vUe := x.vUe.filter (· ≠ 0x4000 + k)
    vCe := x.vCe.filter (· ≠ 0x4000 + k) }

/-! ### The fields of an instruction (R197) -/

/-- Bits of an instruction word. -/
def fwBits (w : BitVec 32) (lo len : Nat) : Nat := w.toNat / 2 ^ lo % 2 ^ len
/-- The fields of a Fuller instruction (R197). -/
def fwSC (w : BitVec 32) : Nat := fwBits w 26 2
def fwMAJ (w : BitVec 32) : Nat := fwBits w 22 4
def fwD (w : BitVec 32) : Nat := fwBits w 7 5
def fwA (w : BitVec 32) : Nat := fwBits w 12 5
def fwB (w : BitVec 32) : Nat := fwBits w 17 5
/-- An instruction that returns a value (R112): SC bit 27. -/
def fwReturns (w : BitVec 32) : Bool := decide (2 ≤ fwSC w)
/-- VSYNC. -/
def fwIsVsync (w : BitVec 32) : Bool := decide (fwSC w = 2) && decide (fwMAJ w = 0)

/-- Context states (R185). -/
def cxUNBOUND : Nat := 0
def cxIDLE : Nat := 1
def cxRUNNING : Nat := 2
def cxWAITING : Nat := 3
def cxFAULTED : Nat := 4
def cxSTOPPED : Nat := 5

/-- The state of a context (FUL_Cc_STATE.STATE). -/
def State.cxState (s : State) (c : Nat) : Nat := s.fget (Reg.fulCState c) Reg.fulCState_STATE
/-- The slices bound to a context (FUL_Cc_STATE.SLICES). -/
def State.cxSlices (s : State) (c : Nat) : Nat := s.fget (Reg.fulCState c) Reg.fulCState_SLICES
/-- The triad that owns a context. -/
def State.cxTriad (s : State) (c : Nat) : Nat := s.fget (Reg.fulCBind c) Reg.fulCBind_TRIAD
/-- The context is bound. -/
def State.cxBound (s : State) (c : Nat) : Bool := decide (s.fget (Reg.fulCBind c) Reg.fulCBind_VALID = 1)

/-- The effective lanes of a context (R199). -/
def State.lanes (s : State) (c : Nat) : Nat :=
  let n := 32 * ([0, 1, 2, 3].filter fun i => (s.cxSlices c).testBit i).length
  if s.fget (Reg.fulCBind c) Reg.fulCBind_PAIRED = 1 then n / 2 else n

/-- The grant of a schedule window to a context, as a set of slices (FUL_WINw). -/
def State.winGrant (s : State) (w c : Nat) : Nat :=
  let x := s.rd (Reg.fulWin w)
  [0, 1, 2, 3].foldl (fun n i => if bits x (16 + 4 * i) 3 = c ∧ bit x (19 + 4 * i) then n + 2 ^ i else n) 0

/-- The current window. -/
def State.curWin (s : State) : Nat := s.fget Reg.fulStatus Reg.fulStatus_WIN
/-- Frame 0 has begun. -/
def State.schedOn (s : State) : Bool := decide (s.fget Reg.fulStatus Reg.fulStatus_SCHED_ACTIVE = 1)

/-- The slices a context is granted in the current window. -/
def State.curGrant (s : State) (c : Nat) : Nat := if s.schedOn then s.winGrant s.curWin c else 0

/-- An interrupt event of a context (R207): the pending bit always, the triad's latch while the event is enabled. -/
def State.ctxEvent (s : State) (c e : Nat) : State :=
  let w := s.rd (Reg.fulCEvent c)
  let s := s.wr (Reg.fulCEvent c) (setBits w (Reg.fulCEvent_PEND.lo + e) 1 1)
  if bit w e then s.irqTriad (s.cxTriad c) (16 + 6 * c + e) else s

/-- The watchdog of a context counts: slices bound and an instruction started and not completed (R208). -/
def State.wdogOn (s : State) (c : Nat) : Bool := decide (s.cxSlices c ≠ 0) && !(s.ctx c).run.isEmpty

/-- The count is held while the watchdog does not count and runs on when it counts again (R208): `was` says whether it counted before. -/
def State.wdogKeep (s : State) (c : Nat) (was : Bool) : State :=
  if s.wdogOn c = was then s else s.modCtx c fun x => { x with wdogFrom := s.ticks - x.wdogFrom }

/-- A completion restarts the count (R208). -/
def State.wdogRestart (s : State) (c : Nat) : State :=
  s.modCtx c fun x => { x with wdogFrom := if s.wdogOn c then s.ticks else 0 }

/-- The watchdog count in µs (FUL_Cc_WDOG.ELAPSED). -/
def State.wdogElapsed (s : State) (c : Nat) : Nat :=
  (if s.wdogOn c then s.ticks - (s.ctx c).wdogFrom else (s.ctx c).wdogFrom) / 1000

/-- The state a context that is neither unbound, faulted nor stopped is in (R185). -/
def State.cxActive (s : State) (c : Nat) : Nat :=
  let x := s.ctx c
  if x.queue.isEmpty && x.run.isEmpty then cxIDLE else if s.cxSlices c ≠ 0 then cxRUNNING else cxWAITING

/-- The slices granted to a context have been in use up to now (R213). -/
def State.slicesBusy (s : State) (c : Nat) : State :=
  { s with ful := { s.ful with
    busy := [0, 1, 2, 3].foldl (fun m i => if (s.curGrant c).testBit i then SMap.put 0 m i s.ticks else m) s.ful.busy } }

/-- A context moves to a state; entering IDLE sets the event, and its slices' idle time starts (R185, R207, R213). -/
def State.cxEnter (s : State) (c n : Nat) : State :=
  let old := s.cxState c
  let s := s.fset (Reg.fulCState c) Reg.fulCState_STATE n
  if n = cxIDLE ∧ old ≠ cxIDLE then (s.slicesBusy c).ctxEvent c 0 else s

/-- The state register follows the queue and the bound slices (R185). -/
def State.fulUpd (s : State) (c : Nat) : State :=
  let s := s.fset (Reg.fulCState c) Reg.fulCState_QUEUED (s.ctx c).queue.length
  let st := s.cxState c
  if st = cxUNBOUND ∨ st = cxFAULTED ∨ st = cxSTOPPED then s else s.cxEnter c (s.cxActive c)

/-- A context leaves FAULTED for the state its queue and the window select (R185, R202). -/
def State.leaveFaulted (s : State) (c : Nat) : State := if s.cxState c = cxFAULTED then s.cxEnter c (s.cxActive c) else s

/-- A returned value leaves for the copy that issued the instruction (R114, R194, R203). -/
def State.ctxReturn (s : State) (c tag : Nat) (v : Word) : State := s.modCtx c fun x => { x with ret := x.ret ++ [(tag, v)] }

/-- The accrued flags of a context. -/
def State.cxFlags (s : State) (c : Nat) : Nat := s.fget (Reg.fulCFflags c) Reg.fulCFflags_FLAGS
/-- Accrue flags (R190). -/
def State.accrue (s : State) (c fl : Nat) : State := s.fset (Reg.fulCFflags c) Reg.fulCFflags_FLAGS (s.cxFlags c ||| fl)

/-- The VSYNC status word (R202). -/
def vsyncWord (seq st cause fl : Nat) : Word :=
  BitVec.ofNat 64 (seq % 2 ^ 32 + 2 ^ 32 * (st % 4) + 2 ^ 34 * (cause % 64) + 2 ^ 40 * (fl % 32))

/-- The last instruction completed or cancelled (FUL_Cc_SEQ.RETIRED). -/
def State.ctxRetire (s : State) (c seq : Nat) : State := s.fset (Reg.fulCSeq c) Reg.fulCSeq_RETIRED seq

/-- An instruction is cancelled (R186, R205, R206): counted, and a value-returning one returns 0, or the status STOPPED for a VSYNC cancelled by
STOP_GROUP. -/
def State.ctxCancel (s : State) (c : Nat) (o : FulOp) (stopped : Bool) : State :=
  let s := (s.fsat (Reg.fulCCnt c) Reg.fulCCnt_CANCELLED 1).ctxRetire c o.seq
  if fwReturns o.word then
    s.ctxReturn c o.tag (if stopped && fwIsVsync o.word then vsyncWord o.seq 2 0 (s.cxFlags c) else 0)
  else s

/-- An instruction completes (R200): counted, retired, the watchdog restarted. -/
def State.ctxComplete (s : State) (c : Nat) (o : FulOp) : State :=
  (((s.fadd (Reg.fulCCnt c) Reg.fulCCnt_COMPLETED 1).ctxRetire c o.seq).wdogRestart c).fulUpd c

/-- Sequence number `a` is older than `b`, modulo 2^32 (R196). -/
def seqOlder (a b : Nat) : Bool := decide (0 < (b + 2 ^ 32 - a) % 2 ^ 32) && decide ((b + 2 ^ 32 - a) % 2 ^ 32 < 2 ^ 31)

/-- A fault of an instruction at an element (R205, R206): the record holds the oldest; the source, the event, the cancellation of every
younger queued instruction but VSYNC, and 0 for a value it should have returned. -/
def State.ctxFault (s : State) (c : Nat) (o : FulOp) (cause elem va : Nat) (write : Bool) : State :=
  let old := s.fget (Reg.fulCCtxFault c) Reg.fulCCtxFault_SEQ
  if s.cxState c = cxFAULTED ∧ seqOlder old o.seq then (s.ctxCancel c o false).fulUpd c
  else
    let s := if s.cxState c = cxFAULTED then s.fsat (Reg.fulCCnt c) Reg.fulCCnt_CANCELLED 1 else s
    let s := s.wr (Reg.fulCCtxFault c) (BitVec.ofNat 64 (o.seq % 2 ^ 32 + 2 ^ 32 * (cause % 64) + 2 ^ 38 + 2 ^ 39 * b2n write))
    let s := s.wr (Reg.fulCCtxFaultElem c) (BitVec.ofNat 64 (elem % 2 ^ 32))
    let s := s.wr (Reg.fulCCtxFaultVa c) (BitVec.ofNat 64 (va % 2 ^ 48))
    let s := s.ctxRetire c o.seq
    let s := s.fset (Reg.fulCState c) Reg.fulCState_STATE cxFAULTED
    let s := (s.raise (0x103 + 8 * c)).ctxEvent c 1
    let gone := (s.ctx c).queue.filter fun q => seqOlder o.seq q.seq && !fwIsVsync q.word
    let s := gone.foldl (fun s q => s.ctxCancel c q false) s
    let s := s.modCtx c fun x => { x with queue := x.queue.filter fun q => !(seqOlder o.seq q.seq && !fwIsVsync q.word) }
    let s := if fwReturns o.word then s.ctxReturn c o.tag 0 else s
    s.fulUpd c

/-! ### Work stopped in the middle (R186, R208, R212) -/

/-- Free values in `n` words of a map from a key on (log entry 3). -/
def freeWords (m : SMap Word) (k : Nat) (ctr : Nat) : Nat → SMap Word
  | 0 => m
  | n + 1 => SMap.put 0 (freeWords m k ctr n) (k + n) (Config.freeWord (ctr + n))

/-- Bytes of memory replaced by free values (log entry 3). -/
def State.freeBytes (s : State) (pa : Nat) : Nat → State
  | 0 => s
  | n + 1 =>
    let (v, s) := s.fresh
    (s.setByte pa (v.setWidth 8)).freeBytes (pa + 1) n

/-- The vector registers of a group, by VTYPE (R188). -/
def vtGroup (vt : Nat) : Nat := 2 ^ (vt / 16 % 4)

/-- VLMAX of a VTYPE, and the mask group MG (R188). -/
def vtVlmax (vt : Nat) : Nat := 32768 * vtGroup vt / elemBits vt
def vtMG (vt : Nat) : Nat := max 1 (vtVlmax vt / 4096)

/-- The kind of destination of an instruction: 0 none, 1 a vector group, 2 a mask group. -/
def fwDest (w : BitVec 32) : Nat :=
  match fwSC w, fwMAJ w with
  | 0, 0xE => 0
  | 0, 0x8 => 2
  | 0, 0x9 => 2
  | 0, 0xB => 2
  | 0, _ => 1
  | 1, 0x0 => 1
  | 1, 0x1 => 1
  | 1, 0x4 => 1
  | 1, 0x5 => 1
  | _, _ => 0

/-- The word is STRM. -/
def fwIsStrm (w : BitVec 32) : Bool := decide (fwSC w = 1) && decide (fwMAJ w = 6)
/-- The word is a VLD or VST, in either form; a VST; a form under m0. -/
def fwIsRegMem (w : BitVec 32) : Bool := decide (fwSC w = 1) && decide (fwMAJ w < 4)
def fwIsVst (w : BitVec 32) : Bool := decide (fwSC w = 1) && (decide (fwMAJ w = 2) || decide (fwMAJ w = 3))
def fwMemMasked (w : BitVec 32) : Bool := decide (fwMAJ w % 2 = 1)

/-- A request of a context (R173). -/
def ctxReq (c : Nat) (op : MeshOp) (pa len data : Nat) : MeshReq :=
  { rq := { init := Fin.ofNat 30 (16 + c), tag := 0 }, op := op, atom := .swap, pa := BitVec.ofNat 44 pa, len := len, data := data, cmp := 0 }

/-- The bytes of an access up to the next 64-byte boundary. -/
def firstPart (va n : Nat) : Nat := min n (64 - va % 64)

/-- The virtual address of element `i` of a VLD or VST: base plus i strides. DESIGN CHOICE (log entry 177): modulo 2^48. -/
def regElemVa (o : FulOp) (i : Nat) : Nat := (o.a + BitVec.ofNat 64 i * o.b).toNat % 2 ^ 48

/-- The bytes of an element that a context would write, as its translation and its gates stand, become free values (log entry 3). -/
def State.freeElem (s : State) (c va n : Nat) (ok : Nat → Bool) : State :=
  let part (s : State) (va n : Nat) : State :=
    match s.peek c va with
    | some pa => if ok pa && (s.gateCause (ctxReq c .write pa n 0)).isNone then s.freeBytes pa n else s
    | none => s
  let k := firstPart va n
  if k = n then part s va n else part (part s va k) (va + k) (n - k)

/-- The elements of a stream's DST (R217). -/
def dDstCount (d : Nat) : Nat := if dReduction d then 1 else if dFunc d = 0x0F then dCount d / 4 else dCount d

/-- The address of element `j` of a stream's DST, as the index source in memory stands. -/
def State.dstVa (s : State) (c d j : Nat) : Int :=
  let b := dBlk d 3
  if b.kind ≠ 3 then b.va j 0
  else
    let q := dBlk d b.idx
    b.va j (elemInt q.typ (((s.peek c (q.va j 0).toNat).map fun pa => s.bytes pa q.size).getD 0))

/-- The destination of a started instruction is unspecified (R186, R235): its register group, or the memory that its elements go to. -/
def State.unspecify (s : State) (c : Nat) (o : FulOp) : State :=
  let g := vtGroup o.vtype
  let d := fwD o.word
  let s := match fwDest o.word with
    | 1 => { s.modCtx c (fun x => { x with v := freeWords x.v (512 * d) s.free (512 * g) }) with free := s.free + 512 * g }
    | 2 => { s.modCtx c (fun x => { x with m := freeWords x.m (64 * (d % 8)) s.free (64 * vtMG o.vtype) }) with free := s.free + 64 * vtMG o.vtype }
    | _ => s
  let s := o.written.foldl (fun s p => s.freeBytes p.1 p.2) s
  if fwIsVst o.word then
    (List.range o.vl).foldl (fun s i =>
      if fwMemMasked o.word && !(s.ctx c).maskBit 0 i then s else s.freeElem c (regElemVa o i) (elemBits o.vtype / 8) fun _ => true) s
  else match fwIsStrm o.word, (s.ctx c).strm with
    | true, some st =>
      let b := dBlk st.desc 3
      (List.range (dDstCount st.desc)).foldl (fun s j => s.freeElem c (s.dstVa c st.desc j).toNat b.size b.inMem) s
    | _, _ => s

/-- The phase of a stream (FUL_Cc_STRM_STAT.PHASE). -/
def State.setStrmPhase (s : State) (c n : Nat) : State := s.fset (Reg.fulCStrmStat c) Reg.fulCStrmStat_PHASE n

/-- The started instructions of a context are gone; a stream ends with the phase given. -/
def State.dropRun (s : State) (c phase : Nat) : State :=
  let s := if (s.ctx c).strm.isSome then s.setStrmPhase c phase else s
  s.modCtx c fun x => { x with run := [], strm := none }

/-- Every started instruction of a context stops, its destination unspecified (R186, R208). -/
def State.stopRun (s : State) (c phase : Nat) : State :=
  ((s.ctx c).run.foldl (fun s o => s.unspecify c o) s).dropRun c phase

/-- Started instructions that end with no result of their own count as cancelled. -/
def State.cancelAll (s : State) (c : Nat) (os : List FulOp) (stopped : Bool) : State :=
  os.foldl (fun s o => s.ctxCancel c o stopped) s

/-- STOP_GROUP applied to a context (R186): STOPPED until reset, started work stopped, queued work cancelled. DESIGN CHOICE (log entry 174): a started
instruction that stops is not counted in CANCELLED and not in RETIRED; R186 calls the queued ones cancelled. -/
def State.stopContext (s : State) (c : Nat) : State :=
  if s.cxState c = cxSTOPPED ∨ s.cxState c = cxUNBOUND then s
  else
    let q := (s.ctx c).queue
    let s := s.stopRun c 7
    let s := s.cancelAll c q true
    let s := s.modCtx c fun x => { x with queue := [], wdogFrom := 0 }
    (s.fset (Reg.fulCState c) Reg.fulCState_STATE cxSTOPPED).fulUpd c

/-- The elements of a register instruction from `e` on as they were before its start (R205, R212). -/
def Ctx.restore (x : Ctx) (o : FulOp) (e : Nat) : Ctx :=
  let w := elemBits o.vtype
  let d := fwD o.word
  let was : Ctx := { x with v := o.old, vPoison := o.oldBad, m := o.old, mPoison := o.oldBad }
  (List.range o.vl).foldl (fun x i =>
    if i < e then x
    else match fwDest o.word with
      | 1 => x.putElem d w i (was.elem d w i) (was.elemBad d w i)
      | 2 => x.putMask (d % 8) i (was.maskBit (d % 8) i) (was.maskBad (d % 8) i)
      | _ => x) x

/-- The element at which a started instruction stops: a stream at its DONE count, a VLD or VST at its next element, a register instruction at some
element, which is free (log entry 3). -/
def State.stopElem (s : State) (c : Nat) (o : FulOp) : Nat × State :=
  if fwIsStrm o.word then (s.fget (Reg.fulCStrmPos c) Reg.fulCStrmPos_DONE, s)
  else if fwIsRegMem o.word || decide (fwDest o.word = 0) then (o.next, s)
  else
    let (v, s) := s.fresh
    (v.toNat % (o.vl + 1), s)

/-- Started work is cancelled in the middle (R205, R212): of each instruction the elements before the one it stops at stand, the others are as they
were. -/
def State.cutRun (s : State) (c : Nat) (os : List FulOp) : State :=
  os.foldr (fun o s =>
    if fwIsRegMem o.word then s
    else
      let (e, s) := s.stopElem c o
      s.modCtx c fun x => x.restore o e) s

/-- The started instructions of a context end with a cause for the oldest (R208, R212): an overrun cuts them where they are, the watchdog leaves their
destinations unspecified. The others are younger and count as cancelled. -/
def State.killRun (s : State) (c cause : Nat) (overrun : Bool) : State :=
  match (s.ctx c).run with
  | [] => s
  | o :: r =>
    let (e, s) := s.stopElem c o
    let s := if overrun then (s.cutRun c r).modCtx c fun x => if fwIsRegMem o.word then x else x.restore o e
      else (o :: r).foldl (fun s o => s.unspecify c o) s
    let s := (s.dropRun c (if fwIsStrm o.word then 5 else 7)).ctxFault c o cause e 0 false
    ((s.cancelAll c r false).modCtx c fun x => { x with wdogFrom := 0 }).fulUpd c

/-! ### Register writes with an effect -/

/-- The FUL block's writes that do more than store: FUL_PG_CTL takes a THRESH of 0 as 1; FUL_Cc_CTL.CLEAR leaves FAULTED (R185, R213). -/
def State.fulWrite (s : State) (off : Nat) (wm v : Word) : Option State :=
  if off = Reg.fulPgCtl then
    let n := ((s.rd off &&& ~~~wm) ||| (v &&& wm)) &&& 0xFFFF0003
    some (s.wr off (if bits n 16 16 = 0 then setBits n 16 16 1 else n))
  else
    match famIx off (Reg.fulCCtl 0) 0x100 8 with
    | some c => some (if bit (v &&& wm) 0 then s.leaveFaulted c else s)
    | none => none

/-- The FUL block's reads that compute their value: the watchdog's elapsed count. -/
def State.fulRead (s : State) (off : Nat) : Option Word :=
  (famIx off (Reg.fulCWdog 0) 0x100 8).map fun c => setBits (s.rd off) Reg.fulCWdog_ELAPSED.lo Reg.fulCWdog_ELAPSED.len (min 0xFFFF (s.wdogElapsed c))

end Sys2Proof.Machine
end

