-- ==== Sys2Proof/Machine/Prot.lean ====
section
/-!
DEFINITION. Stored-data protection and the power and clearing states of the memories (R245 to R253, R261 to R268, R269 to R290): code units,
what a read finds in them, correctable-error logs, merge buffers, injection, remapping, banks and zero-on-demand regions.
-/

namespace Sys2Proof.Machine

/-- Change the protection state. -/
def State.modProt (s : State) (f : Prot → Prot) : State := { s with prot := f s.prot }

/-! ### Where an address lies -/

/-- The error class of an address: 0 Stream SRAM, 1 Crown RAM, 2 code store, 3 DRAM; none for a window without a class (R277). -/
def classOf (pa : Nat) : Option Nat :=
  match windowOf pa with
  | .stream => some 0
  | .crown => some 1
  | .code => some 2
  | .dram => some 3
  | _ => none

/-- The size of the code unit of a class (R269). -/
def unitSize (k : Nat) : Nat := if k = 3 then 64 else 8

/-- The logical bank of a Stream SRAM offset (R245). -/
def ssBank (a : Nat) : Nat := (a / 2 ^ 6 % 256) ^^^ (a / 2 ^ 14 % 256) ^^^ (a / 2 ^ 22 % 16)

/-- The row of a Stream SRAM offset (R245). -/
def ssRow (a : Nat) : Nat := a / 2 ^ 14 % 4096

/-- The channel of a DRAM address (R263). -/
def ddrChannel (a : Nat) : Nat := (a / 2 ^ 8 % 16) ^^^ (a / 2 ^ 18 % 16) ^^^ (a / 2 ^ 28 % 16)

/-- The 2 MiB region of a DRAM address (R264). -/
def ddrRegion (a : Nat) : Nat := a / 2 ^ 21

/-- The physical bank of a logical Stream SRAM bank (MEM_SS_MAPg). -/
def State.ssPhys (s : State) (b : Nat) : Nat :=
  let g := b / 16
  let k := b % 16
  if k < 12 then s.fget (Reg.memSsMapLo g) (Reg.memSsMapLo_PHYSk k) else s.fget (Reg.memSsMapHi g) (Reg.memSsMapHi_PHYS (k - 12))

/-- Map a logical Stream SRAM bank to a physical one. -/
def State.ssMapTo (s : State) (b p : Nat) : State :=
  let g := b / 16
  let k := b % 16
  if k < 12 then s.fset (Reg.memSsMapLo g) (Reg.memSsMapLo_PHYSk k) p else s.fset (Reg.memSsMapHi g) (Reg.memSsMapHi_PHYS (k - 12)) p

/-- The controller a unit's merge buffer belongs to: a Stream SRAM bank, a Crown RAM bank or a DRAM channel (R284). -/
def mergeCtrl (u : Nat) : Nat :=
  match windowOf u with
  | .stream => ssBank (u - paStream)
  | .crown => 256 + (u - paCrown) / 0x4000
  | _ => 272 + ddrChannel u

/-- The remap instance of a unit (EDC_REMAPi_e). -/
def State.remapInst (s : State) (u : Nat) : Nat :=
  match windowOf u with
  | .stream => let b := ssBank (u - paStream); 17 * (b / 16) + s.ssPhys b
  | .crown => 272 + s.fget Reg.memCrMap (Reg.memCrMap_PHYSk ((u - paCrown) / 0x4000))
  | .code => 288 + (u - paCode) / 0x400000
  | _ => 296 + ddrChannel u

/-- The aligned unit that a remap entry redirects: 32 bytes of SRAM or code store, a line of DRAM (R281). -/
def remapSpan (u : Nat) : Nat := if windowOf u = .dram then 64 else 32

/-- The source an uncorrectable word of a class raises (R280). -/
def ueSource (k u : Nat) : Nat :=
  match k with | 0 => 0x181 | 1 => 0x184 | 2 => 0x187 | _ => 0x1A0 + ddrChannel u

/-- The threshold source of a class (R278). -/
def ceSource (k : Nat) : Nat := match k with | 0 => 0x180 | 1 => 0x183 | 2 => 0x186 | _ => 0x1B0

/-! ### What a stored unit holds (R270 to R274) -/

/-- The bits set in a number. -/
def popcount : Nat → Nat → Nat
  | 0, _ => 0
  | n + 1, v => v % 2 + popcount n (v / 2)

/-- The bytes of a number that are not zero. -/
def badSymbols : Nat → Nat → Nat
  | 0, _ => 0
  | n + 1, v => b2n (decide (v % 256 ≠ 0)) + badSymbols n (v / 256)

/-- What the code of a stored unit says. -/
inductive CodeSays where
  /-- a clean unit -/
  | clean
  /-- a correctable error -/
  | ce
  /-- an uncorrectable error -/
  | ue
  /-- an error the code does not cover (R271, R272) -/
  | beyond
  deriving DecidableEq, Repr

/-- The code of a unit of a class: one bit of an SRAM word or three symbols of a DRAM line are corrected, two bits or five symbols detected
(R270, R272). A word wrongly treated as written fails its check (R274). -/
def State.codeSays (s : State) (k u : Nat) : CodeSays :=
  let word (i : Nat) : Nat := SMap.get 0 s.prot.flip (u / 8 + i)
  let chk := SMap.get 0 s.prot.chk (u / 8)
  if SMap.get false s.prot.forced (u / 8) || (decide (k < 2) && decide (4 ≤ SMap.get 0 s.prot.valid (u / 8))) then .ue
  else if k = 3 then
    let n := ((List.range 8).map fun i => badSymbols 8 (word i)).sum + badSymbols 8 chk
    if n = 0 then .clean else if n ≤ 3 then .ce else if n ≤ 5 then .ue else .beyond
  else
    let n := popcount 64 (word 0) + popcount 8 chk
    if n = 0 then .clean else if n = 1 then .ce else if n = 2 then .ue else .beyond

/-- The word has been written: either copy of its valid bit is set; the code store and DRAM keep none (R273, R274). -/
def State.written (s : State) (k u : Nat) : Bool := decide (2 ≤ k) || decide (SMap.get 0 s.prot.valid (u / 8) ≠ 0)

/-- A DRAM region is cleared (R264). -/
def State.cleared (s : State) (r : Nat) : Bool := SMap.get false s.prot.zod r

/-- The unit's errors are gone: it has been written with a fresh code. -/
def State.cleanUnit (s : State) (k u : Nat) : State :=
  s.modProt fun p => { p with
    flip := p.flip.clear (u / 8) (unitSize k / 8)
    chk := SMap.put 0 p.chk (u / 8) 0
    forced := SMap.put false p.forced (u / 8) false
    wb := p.wb.filter fun x => decide (x ≠ u)
    miss := p.miss.filter fun x => decide (x ≠ u) }

/-! ### The class logs, thresholds and remapping (R275 to R282) -/

/-- The log entry of a class that holds an address. -/
def State.logFind (s : State) (k u : Nat) : Option Nat :=
  (List.range 32).find? fun n =>
    decide (s.fget (Reg.edcLogInfo k n) Reg.edcLogInfo_VALID = 1) && decide (s.fget (Reg.edcLogAddr k n) Reg.edcLogAddr_ADDR = u)

/-- The entry replaced when none is invalid: the lowest COUNT, the oldest among equals, no nominated one (R277). -/
def State.logVictim (s : State) (k : Nat) : Option Nat :=
  let cand := (List.range 32).filter fun n => decide (s.fget (Reg.edcLogInfo k n) Reg.edcLogInfo_NOMINATED = 0)
  let key (n : Nat) : Nat :=
    s.fget (Reg.edcLogInfo k n) Reg.edcLogInfo_COUNT * 2 ^ 40 + s.fget (Reg.edcLogInfo k n) Reg.edcLogInfo_TIME_NS
  match cand with
  | [] => none
  | n :: r => some (r.foldl (fun b n => if key n < key b then n else b) n)

/-- The threshold of a class (EDC_CE_THRESH). -/
def State.ceThresh (s : State) (k : Nat) : Nat := bits (s.rd Reg.edcCeThresh) (8 * k) 8

/-- An entry whose COUNT has reached its class's threshold is nominated (R278). -/
def State.nominate (s : State) (k n : Nat) : State :=
  let i := s.rd (Reg.edcLogInfo k n)
  if s.ceThresh k ≠ 0 ∧ s.ceThresh k ≤ bits i 8 8 ∧ !bit i 16 ∧ k < 4 then
    let s := s.fset (Reg.edcLogInfo k n) Reg.edcLogInfo_NOMINATED 1
    (s.fsat (Reg.edcClassCnt k) Reg.edcClassCnt_NOMINATED 1).raise (ceSource k)
  else s

/-- The log entry written with an occurrence; the syndrome's bits depend on the code's matrix, which is not given: a free value (log
entry 3). -/
def State.logPut (s : State) (k n u count nom : Nat) : State :=
  let (y, s) := s.fresh
  let s := s.wr (Reg.edcLogAddr k n) (BitVec.ofNat 64 u)
  s.wr (Reg.edcLogInfo k n) (BitVec.ofNat 64 (y.toNat % 256 + 2 ^ 8 * min 255 count + 2 ^ 16 * nom + 2 ^ 18 + 2 ^ 24 * s.now40))

/-- A correctable error is logged (R277). -/
def State.ceLog (s : State) (k u : Nat) : State :=
  match s.logFind k u with
  | some n =>
    let i := s.rd (Reg.edcLogInfo k n)
    (s.logPut k n u (bits i 8 8 + 1) (bits i 16 2)).nominate k n
  | none =>
    match (List.range 32).find? fun n => decide (s.fget (Reg.edcLogInfo k n) Reg.edcLogInfo_VALID = 0) with
    | some n => (s.logPut k n u 1 0).nominate k n
    | none =>
      match s.logVictim k with
      | none => s
      | some n => ((s.fsat (Reg.edcClassCnt k) Reg.edcClassCnt_EVICTS 1).logPut k n u 1 0).nominate k n

/-- DL7300-compatible handling (R279). -/
def State.compat (s : State) : Bool := decide (s.fget Reg.edcCtl Reg.edcCtl_COMPAT7300 = 1)

/-- A corrected write-back is queued (R275); in the code store write-backs take place in MAINT alone (R289). -/
def State.queueWb (s : State) (k u : Nat) : State :=
  if k = 2 ∧ s.opstate ≠ opMAINT then s
  else s.modProt fun p => { p with wb := if p.wb.contains u then p.wb else p.wb ++ [u] }

/-- The write-back queued holds a miscorrected word (R271, R272, R275). -/
def State.queueMiss (s : State) (k u : Nat) : State :=
  let s := s.queueWb k u
  if s.prot.wb.contains u then s.modProt fun p => { p with miss := if p.miss.contains u then p.miss else p.miss ++ [u] } else s

/-- A correctable error is found by a read (R275, R279): counted; in native mode logged, and a corrected write-back queued. -/
def State.ceFound (s : State) (k u : Nat) : State :=
  let s := s.fsat (Reg.edcClassCnt k) Reg.edcClassCnt_CE 1
  if s.compat then s else (s.queueWb k u).ceLog k u

/-- An uncorrectable error is found (R280): the source, the count and the first address. -/
def State.ueFound (s : State) (k u : Nat) : State :=
  let s := (s.raise (ueSource k u)).fsat (Reg.edcClassCnt k) Reg.edcClassCnt_UE 1
  if s.fget (Reg.edcClassUeFirst k) Reg.edcClassUeFirst_VALID = 1 then s
  else s.wr (Reg.edcClassUeFirst k) (BitVec.ofNat 64 (u + 2 ^ 63))

/-- What a read of a unit returns. -/
inductive UnitRead where
  /-- the data written -/
  | good
  /-- wrong data, taken for good: an error the code does not cover (R271, R272) -/
  | wrong
  /-- an uncorrectable-error response -/
  | ue
  deriving DecidableEq, Repr

/-- Valid-bit copies of a word that disagree raise VALID_MISMATCH, and both are set (R274). -/
def State.validCheck (s : State) (w : Nat) : State :=
  let v := SMap.get 0 s.prot.valid w
  if v % 4 = 1 ∨ v % 4 = 2 then (s.raise 0x188).modProt fun p => { p with valid := SMap.put 0 p.valid w (v / 4 * 4 + 3) } else s

/-- What the code says of a unit that a read selects instead of the one asked for, by the address bits in which the two differ (R271, R272). -/
def State.rowSays (s : State) (k u x : Nat) : CodeSays :=
  let n := popcount 44 ((u ^^^ x) / unitSize k)
  if n = 0 then s.codeSays k u else if n ≤ 2 ∧ s.codeSays k x = .clean then .ue else .beyond

/-- A unit is read once: what its code says of it. A read that selects the wrong unit does so once (R271, R272), and so does an error of a DRAM channel
that the stored line does not have (R280). -/
def State.unitSays (s : State) (k u : Nat) : CodeSays × State :=
  if decide (k = 3) && s.latent.lines.contains u then (.ue, { s with latent := { s.latent with lines := s.latent.lines.erase u } })
  else
    match s.latent.rows.find? fun x => decide (x.1 = u) with
    | some x => (s.rowSays k u x.2, { s with latent := { s.latent with rows := s.latent.rows.erase x } })
    | none => (s.codeSays k u, s)

/-- What a read of a unit returns on what its code says, and whether it corrected an error. An error beyond the code may be reported, miscorrected or
unseen: which is a free value (log entry 17). -/
def State.unitOut (s : State) (k u : Nat) (c : CodeSays) : UnitRead × Bool × State :=
  match c with
  | .clean => (.good, false, s)
  | .ce => (.good, true, s.ceFound k u)
  | .ue => (.ue, false, s)
  | .beyond =>
    let (f, s) := s.fresh
    match f.toNat % 3 with
    | 0 => (.ue, false, s)
    | 1 => let s := s.ceFound k u; (.wrong, true, if s.compat then s else s.queueMiss k u)
    | _ => (.wrong, false, s)

/-- One read of a unit. -/
def State.unitOnce (s : State) (k u : Nat) : UnitRead × Bool × State := match s.unitSays k u with | (c, s) => s.unitOut k u c

/-- A unit is read, and whether an error was corrected (R274, R275, R280). An unwritten word returns zero without a check. A DRAM line found
uncorrectable is read once more, and what the second read finds counts. -/
def State.unitFind (s : State) (k u : Nat) : UnitRead × Bool × State :=
  if !s.written k u || (decide (k = 3) && !s.cleared (ddrRegion u)) then (.good, false, s)
  else
    let s := if k < 2 then s.validCheck (u / 8) else s
    match s.unitOnce k u with
    | (.ue, _, s) =>
      (match (if k = 3 then s.unitOnce k u else (.ue, false, s)) with
       | (.ue, _, s) => (.ue, false, s.ueFound k u)
       | r => r)
    | r => r

/-- A unit is read. -/
def State.unitRead (s : State) (k u : Nat) : UnitRead × State := match s.unitFind k u with | (r, _, s) => (r, s)

/-! ### Array writes, injection and merge buffers (R284 to R287) -/

/-- An armed injection fires at an array write of its class (R287). -/
def State.injectAt (s : State) (k u : Nat) : State :=
  let c := s.rd Reg.edcInjCtl
  let a := s.fget Reg.edcInjAddr Reg.edcInjAddr_ADDR
  let hit := if k = 3 then decide (a / 8 = u / 64) else decide (a = u / 8)
  if bit c 4 && decide (bits c 0 3 = k) && (!bit c 3 || hit) then
    let w := if k = 3 then u / 8 + (if bit c 3 then a % 8 else 0) else u / 8
    let chk := if k = 3 then (s.rd Reg.edcFlipCheck).toNat else (s.rd Reg.edcFlipCheck).toNat % 256
    let s := s.modProt fun p => { p with
      flip := SMap.put 0 p.flip w ((SMap.get 0 p.flip w) ^^^ (s.rd Reg.edcFlipData).toNat)
      chk := SMap.put 0 p.chk (u / 8) ((SMap.get 0 p.chk (u / 8)) ^^^ chk) }
    (s.wr Reg.edcInjCtl (setBits (setBits c 4 1 0) 5 1 1)).raise 0x18A
  else s

/-- A unit is written to its array with a fresh code by an initiator's write or a merge-buffer drain (R273, R276, R287). -/
def State.arrayWrite (s : State) (k u : Nat) : State :=
  let s := s.cleanUnit k u
  let s := if k < 2 then s.modProt fun p => { p with valid := SMap.put 0 p.valid (u / 8) 3 } else s
  s.injectAt k u

/-! ### Mirroring (R356 to R358) -/

/-- Change what the twin logic holds outside its registers. -/
def State.modTwin (s : State) (f : Twin → Twin) : State := { s with twin := f s.twin }

/-- A field of TWIN_STATUS. -/
def State.tw (s : State) (f : Fld) : Nat := s.fget Reg.twinStatus f

/-- The entries that the journal ring holds (TWIN_JRN): 256 in each bank; BANKS = 0 is taken as 1 (R427). -/
def State.jrnSize (s : State) : Nat := 256 * max 1 (s.fget Reg.twinJrn Reg.twinJrn_BANKS)

/-- An address lies in a mirrored region (R356). -/
def State.mirrored (s : State) (pa : Nat) : Bool :=
  (List.range 16).any fun r =>
    let b := s.fget (Reg.twinMregBase r) Reg.twinMregBase_BASE * 4096
    decide (s.fget (Reg.twinMregBase r) Reg.twinMregBase_VALID = 1) && decide (b ≤ pa) &&
      decide (pa < b + s.fget (Reg.twinMregSize r) Reg.twinMregSize_PAGES * 4096)

/-- The device is a primary that mirrors to a standby over an established link. -/
def State.mirroring (s : State) : Bool :=
  decide (s.tw Reg.twinStatus_ROLE = 1) && decide (s.tw Reg.twinStatus_LINK = 2) &&
    (decide (s.tw Reg.twinStatus_PEER_ROLE = 2) || decide (s.tw Reg.twinStatus_PEER_ROLE = 3))

/-- A bulk synchronisation starts: the standby is SYNCING until it has ended (R358). -/
def State.bulkStart (s : State) : State :=
  let s := s.fset Reg.twinStatus Reg.twinStatus_PEER_ROLE 3
  let s := (s.fset Reg.twinBulk Reg.twinBulk_ACTIVE 1).fset Reg.twinBulk Reg.twinBulk_PERMILLE 0
  (s.fsat Reg.twinBulk Reg.twinBulk_RUNS 1).modTwin fun x => { x with bulk := some 0, bulkEnd := none }

/-- The 64 bytes of a journal entry (R357). -/
def jrnBytes (e : JEnt) : List Byte :=
  let d := toLe 8 (e.pa.toNat + e.kind.toNat) ++ toLe 4 e.be.toNat ++ toLe 4 e.jseq.toNat ++ toLe 32 e.data.toNat ++ toLe 2 e.epoch.toNat ++
    List.replicate 10 0
  d ++ toLe 4 (crc32 d)

/-- An entry is written to the next place of the journal ring in the JOURNAL partition of Crown RAM (R357). -/
def State.jrnWrite (s : State) (e : JEnt) : State :=
  let pa := paCrown + 0x4000 * s.fget Reg.twinJrn Reg.twinJrn_BANK + 64 * (s.twin.jpos % s.jrnSize)
  let s := (s.setBytes pa 64 (leNat (jrnBytes e))).modTwin fun x => { x with jpos := x.jpos + 1 }
  ((List.range 8).map (pa + 8 * ·)).foldl (fun s u => s.arrayWrite 1 u) s

/-- An entry is captured: it takes the next JSEQ and joins the journal, unless that is full (R356, R358). -/
def State.jrnPut (s : State) (kind : BitVec 2) (blk be data : Nat) : State :=
  if s.jrnSize ≤ s.twin.journal.length then
    ((s.raise 0x1E3).fsat Reg.twinJrnOcc Reg.twinJrnOcc_OVERFLOWS 1).bulkStart
  else
    let n := (s.twin.jseq + 1) % 2 ^ 32
    let e : JEnt := { kind := kind, pa := BitVec.ofNat 44 blk, be := BitVec.ofNat 32 be, jseq := BitVec.ofNat 32 n,
                      data := BitVec.ofNat 256 data, epoch := BitVec.ofNat 16 (s.tw Reg.twinStatus_EPOCH) }
    let s := s.jrnWrite e
    let s := s.modTwin fun x => { x with jseq := n, journal := x.journal ++ [e] }
    s.fset Reg.twinJrnOcc Reg.twinJrnOcc_ENTRIES s.twin.journal.length

/-- The bytes of a 32-byte block that a mask enables, the others zero. -/
def State.blockData (s : State) (blk mask : Nat) : Nat :=
  leNat ((List.range 32).map fun i => if mask.testBit i then s.byte (blk + i) else 0)

/-- A write that has landed is captured, one entry for each 32-byte block of the mirrored regions that it touches (R356). -/
def State.capture (s : State) (pa len : Nat) : State :=
  if !s.mirroring || decide (len = 0) then s
  else
    ((List.range ((pa + len - 1) / 32 - pa / 32 + 1)).map fun i => (pa / 32 + i) * 32).foldl (fun s blk =>
      if s.mirrored blk then
        let mask := (2 ^ (min 32 (pa + len - blk)) - 1) - (2 ^ (pa - blk) - 1)
        s.jrnPut 0 blk mask (s.blockData blk mask)
      else s) s

/-- The bytes of a unit that a mask leaves out become free values (R271, R272: a miscorrected unit is written back, by a read-modify-write or by the
write-back of R275). -/
def State.freeOutside (s : State) (u mask : Nat) : Nat → State
  | 0 => s
  | n + 1 =>
    let s := s.freeOutside u mask n
    if mask.testBit n then s
    else
      let (v, s) := s.fresh
      s.setByte (u + n) (v.setWidth 8)

/-- A unit is read and written with a fresh code, with correction, where no read is counted: a remap's copy, and a restored entry's reload (R281,
R282). An uncorrectable unit stays so; one beyond the code is found so, or is miscorrected: a free value (log entry 17). -/
def State.fixUnit (s : State) (k u : Nat) : State :=
  match s.codeSays k u with
  | .clean | .ue => s
  | .ce => s.cleanUnit k u
  | .beyond =>
    let (f, s) := s.fresh
    if f.toNat % 2 = 0 then s else (s.freeOutside u 0 (unitSize k)).cleanUnit k u

/-- A read-modify-write of a unit whose new bytes are in place: an uncorrectable unit is written so that every later read reports it (R285). -/
def State.rmw (s : State) (k u mask : Nat) : State :=
  match s.unitRead k u with
  | (.good, s) => s.arrayWrite k u
  | (.wrong, s) => (s.freeOutside u mask (unitSize k)).arrayWrite k u
  | (.ue, s) => (s.arrayWrite k u).modProt fun p => { p with forced := SMap.put false p.forced (u / 8) true }

/-- The merge-buffer entry of a unit. -/
def State.mergeOf (s : State) (u : Nat) : Option MergeEnt := s.prot.merge.find? fun e => decide (e.unit = u)

/-- A merge-buffer entry leaves the buffer for the array: complete without a read, incomplete by read-modify-write (R285); the drain is captured
(R356). -/
def State.drain (s : State) (k : Nat) (e : MergeEnt) : State :=
  let s := s.modProt fun p => { p with merge := p.merge.filter fun x => decide (x.unit ≠ e.unit) }
  let s := if e.mask = 2 ^ unitSize k - 1 then s.arrayWrite k e.unit else s.rmw k e.unit e.mask
  s.capture e.unit (unitSize k)

/-- Every entry of the controllers that a test selects drains, the oldest first (R285). -/
def State.drainAll (s : State) (sel : Nat → Bool) : State :=
  (s.prot.merge.filter fun e => sel (mergeCtrl e.unit)).foldl (fun s e => s.drain ((classOf e.unit).getD 0) e) s

/-- The memory has a merge buffer for an initiator's narrow writes: Stream SRAM, Crown RAM's port Y, DRAM (R284, R286). -/
def merges (k init : Nat) : Bool := decide (k = 0) || decide (k = 3) || (decide (k = 1) && decide (16 ≤ init) && decide (init < 30))

/-- Bytes of a unit have been written by an initiator (R284 to R286): a whole unit goes to the array, a narrow write merges or is a
read-modify-write. -/
def State.unitWritten (s : State) (k init u mask : Nat) : State :=
  let full := 2 ^ unitSize k - 1
  match s.mergeOf u with
  | some e => if e.mask ||| mask = full then s.drain k { e with mask := full }
    else s.modProt fun p => { p with
      merge := p.merge.map fun x => if x.unit = u then { x with mask := x.mask ||| mask } else x
      wb := p.wb.filter fun x => decide (x ≠ u)
      miss := p.miss.filter fun x => decide (x ≠ u) }
  | none =>
    if mask = full then s.arrayWrite k u
    else if merges k init then
      let mine := s.prot.merge.filter fun e => decide (mergeCtrl e.unit = mergeCtrl u)
      let s := match mine with
        | e :: _ => if 8 ≤ mine.length then s.drain k e else s
        | [] => s
      s.modProt fun p => { p with
        merge := p.merge ++ [{ unit := u, mask := mask }]
        wb := p.wb.filter fun x => decide (x ≠ u)
        miss := p.miss.filter fun x => decide (x ≠ u) }
    else s.rmw k u mask

/-- The units that `len` bytes at an address touch. -/
def unitsOf (k pa len : Nat) : List Nat :=
  if len = 0 then []
  else
    let z := unitSize k
    (List.range ((pa + len - 1) / z - pa / z + 1)).map fun i => (pa / z + i) * z

/-- The bytes of a unit that `len` bytes at an address cover. -/
def unitMask (k u pa len : Nat) : Nat :=
  let lo := pa - u
  let hi := min (unitSize k) (pa + len - u)
  (2 ^ hi - 1) - (2 ^ lo - 1)

/-! ### Banks of Stream SRAM (R250 to R253) -/

/-- The state of a bank: 0 ON, 1 RET, 2 OFF, 3 WAKING (MEM_SS_STATEn). -/
def State.bankState (s : State) (b : Nat) : Nat := bits (s.rd (Reg.memSsState (b / 32))) (2 * (b % 32)) 2
/-- Set the state of a bank. -/
def State.setBank (s : State) (b n : Nat) : State :=
  s.wr (Reg.memSsState (b / 32)) (setBits (s.rd (Reg.memSsState (b / 32))) (2 * (b % 32)) 2 n)
/-- The power request of a bank (MEM_SS_PWRn). -/
def State.bankPwr (s : State) (b : Nat) : Bool := bit (s.rd (Reg.memSsPwr (b / 64))) (b % 64)

/-- A bank starts its wake, or waits for the one wake its group allows (R251, R252). -/
def State.wakeBank (s : State) (b : Nat) : State :=
  if s.bankState b = 0 ∨ s.bankState b = 3 ∨ s.prot.wakeQ.contains b then s
  else if (List.range 16).any fun i => decide (s.bankState (b / 16 * 16 + i) = 3) then
    s.modProt fun p => { p with wakeQ := p.wakeQ ++ [b] }
  else s.setBank b 3

/-- A wake ends: the bank is ON, and the next bank of its group that waits starts (R252). -/
def State.bankOn (s : State) (b : Nat) : State :=
  let s := (s.setBank b 0).modProt fun p => { p with wakeQ := p.wakeQ.filter fun x => decide (x ≠ b) }
  match s.prot.wakeQ.find? fun x => decide (x / 16 = b / 16) with
  | none => s
  | some x =>
    if (List.range 16).any fun i => decide (s.bankState (b / 16 * 16 + i) = 3) then s
    else (s.modProt fun p => { p with wakeQ := p.wakeQ.filter fun y => decide (y ≠ x) }).setBank x 3

/-- A word of Stream SRAM lies in a bank. -/
def inBank (b w : Nat) : Bool := decide (windowOf (8 * w) = .stream) && decide (ssBank (8 * w - paStream) = b)

/-- A bank loses its contents: data, errors and valid bits (R250, R253, R273). -/
def State.loseBank (s : State) (b : Nat) : State :=
  { s with
    mem := s.mem.filter fun e => !inBank b (e.1 / 8)
    prot := { s.prot with
      flip := s.prot.flip.filter fun e => !inBank b e.1
      chk := s.prot.chk.filter fun e => !inBank b e.1
      forced := s.prot.forced.filter fun e => !inBank b e.1
      valid := s.prot.valid.filter fun e => !inBank b e.1
      wb := s.prot.wb.filter fun u => !inBank b (u / 8)
      miss := s.prot.miss.filter fun u => !inBank b (u / 8) } }

/-! ### Regions of DRAM (R264 to R266) -/

/-- A region's clear starts at demand priority (R264). -/
def State.zodStart (s : State) (r : Nat) : State :=
  if s.cleared r || s.prot.clearing.contains r then s
  else (s.modProt fun p => { p with clearing := p.clearing ++ [r] }).fsat Reg.ddrZodStat Reg.ddrZodStat_DEMAND 1

/-- A region is cleared. -/
def State.zodDone (s : State) (r : Nat) : State :=
  let s := if s.cleared r then s
    else s.fset Reg.ddrZodStat Reg.ddrZodStat_UNCLEARED (s.fget Reg.ddrZodStat Reg.ddrZodStat_UNCLEARED - 1)
  s.modProt fun p => { p with zod := SMap.put false p.zod r true, clearing := p.clearing.filter fun x => decide (x ≠ r) }

/-- The map word of an address's region is uncorrectable (R267). -/
def State.zodBad (s : State) (pa : Nat) : Bool := decide (windowOf pa = .dram) && s.latent.zod.contains (ddrRegion pa)

/-- An access meets an uncorrectable map word: ZOD_MAP_UE, and DDR_STATUS.ZOD_FAILED (R267). -/
def State.zodFail (s : State) : State := (s.raise 0x1B3).fset Reg.ddrStatus Reg.ddrStatus_ZOD_FAILED 1

/-! ### Waiting for a bank or a region (R252, R265) -/

/-- An access to an address must wait: for its bank's wake, or for its region's clear. -/
def State.memBlocked (s : State) (writes : Bool) (pa : Nat) : Bool :=
  match windowOf pa with
  | .stream => decide (s.bankState (ssBank (pa - paStream)) ≠ 0)
  | .dram => !s.zodBad pa && (s.prot.clearing.contains (ddrRegion pa) || (writes && !s.cleared (ddrRegion pa)))
  | _ => false

/-- The access starts what it waits for: the wake, counted and asked for in MEM_SS_PWR, or the clear. -/
def State.memDemand (s : State) (pa : Nat) : State :=
  match windowOf pa with
  | .stream =>
    let b := ssBank (pa - paStream)
    let s := if s.bankState b ≠ 3 ∧ !s.prot.wakeQ.contains b then s.fsat Reg.memStat Reg.memStat_DEMAND_WAKES 1 else s
    (s.wr (Reg.memSsPwr (b / 64)) (setBits (s.rd (Reg.memSsPwr (b / 64))) (b % 64) 1 1)).wakeBank b
  | .dram => s.zodStart (ddrRegion pa)
  | _ => s

/-- The wakes of a bank's group take place in their order until the bank is ON; `n` bounds them (R252). -/
def State.bankTurn (s : State) (b : Nat) : Nat → State
  | 0 => s
  | n + 1 =>
    if s.bankState b = 0 then s
    else
      match ((List.range 16).map (b / 16 * 16 + ·)).find? fun x => decide (s.bankState x = 3) with
      | some x => (s.bankOn x).bankTurn b n
      | none => (s.wakeBank b).bankTurn b n

/-- The wait passes within the command: for an access of an engine, whose command is not sent again (log entry 18). The wakes of the bank's group that
come before its own pass with it (R252). -/
def State.memReady (s : State) (writes : Bool) (pa : Nat) : State :=
  if !s.memBlocked writes pa then s
  else
    let s := s.memDemand pa
    match windowOf pa with
    | .stream => s.bankTurn (ssBank (pa - paStream)) 18
    | .dram => s.zodDone (ddrRegion pa)
    | _ => s

/-! ### The arrays of a copy (R131, R269, R273 to R280) -/

/-- The number of an array in a location code (the table "Array location code"). -/
def arrayNum : ArrayId → Nat
  | .icache => 0 | .itag => 1 | .dcache => 2 | .dtag => 3 | .tcm => 4 | .tlb => 5 | .btb => 6

/-- The location code of word `i` of an array of the copy with index `k`. -/
def arrayCode (k : Nat) (a : ArrayId) (i : Nat) : Nat := i % 2 ^ 16 + 2 ^ 16 * arrayNum a + 2 ^ 19 * (k % 3) + 2 ^ 21 * (k / 3)

/-- The location code of word `i` of the vector registers, or of a stream buffer, of a context. -/
def fulArrayCode (c i : Nat) : Nat := i % 2 ^ 16 + 2 ^ 16 * 7 + 2 ^ 19 * 3 + 2 ^ 21 * c

/-- An array corrects an error: it is counted in class 4, and in native mode logged (R275, R277, R279). -/
def State.arrayCe (s : State) (code : Nat) : State :=
  let s := s.fsat (Reg.edcClassCnt 4) Reg.edcClassCnt_CE 1
  if s.compat then s else s.ceLog 4 code

/-- An array reads an uncorrectable word: it is counted in class 4, with the first location (R280). The owner of the array raises the source. -/
def State.arrayUe (s : State) (code : Nat) : State :=
  let s := s.fsat (Reg.edcClassCnt 4) Reg.edcClassCnt_UE 1
  if s.fget (Reg.edcClassUeFirst 4) Reg.edcClassUeFirst_VALID = 1 then s
  else s.wr (Reg.edcClassUeFirst 4) (BitVec.ofNat 64 (code + 2 ^ 63))

/-- The words of a data TCM that `len` bytes at an address touch are marked written (R273). -/
def State.tcmMark (s : State) (pa len : Nat) : State :=
  s.modProt fun p => { p with valid := (unitsOf 0 pa len).foldl (fun m u => SMap.put 0 m (u / 8) 3) p.valid }

/-- The number of the copy whose data TCM an address lies in. -/
def tcmCopy (pa : Nat) : Nat := (pa - paTcm) / 0x10000

/-- A copy's array word is read (R131): a correctable error is corrected, logged and, in native mode, written back; a word of the data TCM whose
valid-bit copies disagree is treated as written, and fails its code if it never was (R274). -/
def State.arrayRead (s : State) (k : Nat) (r : ArrayId × Nat) : State :=
  let s := if (s.copy k).ce.contains r then
      (let s := s.arrayCe (arrayCode k r.1 r.2)
       if s.compat then s else s.modCopy k fun c => { c with ce := c.ce.filter fun x => decide (x ≠ r) })
    else s
  if r.1 = .tcm then
    let w := (tcmAddr k (8 * r.2)) / 8
    let fails := decide (4 ≤ SMap.get 0 s.prot.valid w)
    let s := s.validCheck w
    if fails && !(s.copy k).ue.contains r then s.modCopy k fun c => { c with ue := c.ue ++ [r] } else s
  else s

/-! ### Register writes and reads with an effect -/

/-- The scrubbed range lies wholly in the addressable part of one memory (R288). -/
def State.scrubRangeOk (s : State) (base len : Nat) : Bool :=
  decide (len ≠ 0) && s.mapped base && s.mapped (base + len - 1) && (classOf base).isSome &&
    decide (windowOf base = windowOf (base + len - 1))

/-- GO starts a scrub or refuses it; ABORT stops a running one (R288, R290). -/
def State.scrubGoWrite (s : State) (v : Word) : State :=
  let st := s.fget Reg.edcScrubPos Reg.edcScrubPos_STATE
  let base := s.fget Reg.edcScrubBase Reg.edcScrubBase_BASE * 64
  let len := s.fget Reg.edcScrubLen Reg.edcScrubLen_LEN * 64
  let s :=
    if bit v 0 && decide (st ≠ 1) then
      let s := ((s.wr Reg.edcScrubSum 0).wr Reg.edcScrubFirstUe 0).modProt fun p => { p with skipped := 0 }
      s.wr Reg.edcScrubPos (BitVec.ofNat 64 (base + 2 ^ 51 * (if s.scrubRangeOk base len then 1 else 4)))
    else s
  if bit v 1 && decide (s.fget Reg.edcScrubPos Reg.edcScrubPos_STATE = 1) && decide (st = 1) then
    s.fset Reg.edcScrubPos Reg.edcScrubPos_STATE 3
  else s

/-- EDC_CTL.LOG_CLR invalidates every entry of the classes written as 1. -/
def State.edcLogClear (s : State) (m : Nat) : State :=
  (List.range 5).foldl (fun s k => if m.testBit k then
    (List.range 32).foldl (fun s n => (s.wr (Reg.edcLogAddr k n) 0).wr (Reg.edcLogInfo k n) 0) s else s) s

/-- The EDC block's writes that do more than store; EDC_INJ_CTL.ARM needs INJECT (R287). -/
def State.edcWrite (s : State) (off : Nat) (wm v : Word) : Option State :=
  if off = Reg.edcCtl then
    let old := s.rd off
    let lk := bit old 2
    let m : Word := wm &&& (if lk then 0 else 3)
    let s := s.wr off (((old &&& ~~~m) ||| (v &&& m)) ||| (v &&& wm &&& 4))
    some (s.edcLogClear (bits (v &&& wm) 8 5))
  else if off = Reg.edcInjCtl then
    let old := s.rd off
    let m : Word := wm &&& 0xF
    let x := (old &&& ~~~m) ||| (v &&& m)
    let x := if bit (v &&& wm) 4 && s.injectOk then setBits x 4 1 1 else x
    some (s.wr off (if bit (v &&& wm) 5 then setBits x 5 1 0 else x))
  else if off = Reg.edcScrubGo then some (s.scrubGoWrite (v &&& wm))
  else none

/-- The banks whose MEM_SS_PWR bit asks for ON start their wakes, a group in rotation apart (R251). -/
def State.pwrApply (s : State) (bs : List Nat) : State :=
  let rot := decide (s.fget Reg.memRotStat Reg.memRotStat_SS_ACTIVE = 1)
  let g := s.fget Reg.memRotStat Reg.memRotStat_SS_BANK / 16
  bs.foldl (fun s b =>
    if s.bankPwr b && (decide (s.bankState b = 1) || decide (s.bankState b = 2)) && !(rot && decide (b / 16 = g)) then s.wakeBank b else s) s

/-- The MEM block's writes that do more than store. -/
def State.memRegWrite (s : State) (off : Nat) (wm v : Word) : Option State :=
  (famIx off (Reg.memSsPwr 0) 8 4).map fun n =>
    (s.wr off ((s.rd off &&& ~~~wm) ||| (v &&& wm))).pwrApply ((List.range 64).map (64 * n + ·))

/-- DDR_ZOD_PROBE.CLEARED is computed as of the read. -/
def State.ddrRead (s : State) (off : Nat) : Option Word :=
  if off = Reg.ddrZodProbe then
    let r := s.fget off Reg.ddrZodProbe_REGION
    some (setBits (s.rd off) 20 1 (b2n (s.cleared r && decide (r < s.dramSize / 2 ^ 21))))
  else none

end Sys2Proof.Machine
end

