-- ==== Sys2Proof/Machine/Ports.lean ====
section
/-!
DEFINITION. The registers of the ports and of the admission block that do more than hold bits (R291 to R312): secure associations, gate control
lists, egress tails, ring pointers and run-time admission.
-/

namespace Sys2Proof.Machine

/-- Change what the ports and the admission block hold outside their registers. -/
def State.modEth (s : State) (f : Eth → Eth) : State := { s with eth := f s.eth }

/-! ### Ports (R291) -/

/-- The MACs that a mode provides (table "Port modes"). -/
def macsOf (mode : Nat) : Nat := match mode with | 0 => 1 | 1 => 2 | 2 => 4 | _ => 0

/-- The rate of a MAC in a mode, in Gb/s (table "Port modes"). -/
def gbpsOf (mode : Nat) : Nat := match mode with | 0 => 400 | 1 => 200 | _ => 100

/-- The mode of a port. -/
def State.portMode (s : State) (p : Nat) : Nat := s.fget (Reg.ethCfg p) Reg.ethCfg_MODE

/-- MAC `m` of port `p` is provided by the mode, enabled, and its link is up. -/
def State.macUp (s : State) (p m : Nat) : Bool :=
  decide (m < macsOf (s.portMode p)) && (s.fget (Reg.ethCfg p) Reg.ethCfg_MAC_EN).testBit m &&
    (s.fget (Reg.ethStatus p) Reg.ethStatus_LINK_UP).testBit m

/-- The largest frame of a port, FCS included. -/
def State.maxFrame (s : State) (p : Nat) : Nat := s.fget (Reg.ethCfg p) Reg.ethCfg_MAX_FRAME

/-! ### Secure associations (ETH_MSEC_*) -/

/-- The place of a secure association: MAC index, direction, channel and association number. -/
def saIx (mi dir sc an : Nat) : Nat := 32 * mi + 16 * dir + 4 * sc + an

/-- The secure association at a place. -/
def State.sa (s : State) (ix : Nat) : MsecSa := SMap.get MsecSa.empty s.eth.sas ix

/-- Replace the secure association at a place. -/
def State.setSa (s : State) (ix : Nat) (a : MsecSa) : State := s.modEth fun e => { e with sas := SMap.put MsecSa.empty e.sas ix a }

/-- The association that ETH_MSEC_SEL selects; the channel is ignored for transmit. -/
def State.saSel (s : State) (p : Nat) : Nat :=
  let dir := s.fget (Reg.ethMsecSel p) Reg.ethMsecSel_DIR
  saIx (4 * p + s.fget (Reg.ethMsecSel p) Reg.ethMsecSel_MAC) dir
    (if dir = 1 then 0 else s.fget (Reg.ethMsecSel p) Reg.ethMsecSel_SC) (s.fget (Reg.ethMsecSel p) Reg.ethMsecSel_AN)

/-- A write-only key register. -/
def State.keyReg (s : State) (off : Nat) : Nat := (SMap.get 0 s.eth.keys off).toNat

/-- INSTALL loads SCI, key, salt and PN into the selected association and makes it valid; the key registers then hold zero. -/
def State.msecInstall (s : State) (p : Nat) : State :=
  let pn := (s.rd (Reg.ethMsecPn p)).toNat
  let salt1 := SMap.get 0 s.eth.keys (Reg.ethMsecSalt1 p)
  let a : MsecSa :=
    { valid := true, sci := (s.rd (Reg.ethMsecSci p)).toNat,
      key := s.keyReg (Reg.ethMsecKey p 0) + 2 ^ 64 * s.keyReg (Reg.ethMsecKey p 1) + 2 ^ 128 * s.keyReg (Reg.ethMsecKey p 2) +
        2 ^ 192 * s.keyReg (Reg.ethMsecKey p 3),
      salt := s.keyReg (Reg.ethMsecSalt0 p) + 2 ^ 64 * bits salt1 0 32, ssci := bits salt1 32 32, pn := pn, next := pn }
  (s.setSa (s.saSel p) a).modEth fun e => { e with keys := SMap.clear e.keys (Reg.ethMsecKey p 0) 32 }

/-- RETIRE invalidates the selected association. -/
def State.msecRetire (s : State) (p : Nat) : State := s.setSa (s.saSel p) MsecSa.empty

/-! ### Gate control lists (R312) -/

/-- What a port holds of its gate control list. -/
def State.gclOf (s : State) (p : Nat) : Gcl := SMap.get Gcl.reset s.eth.gcl p

/-- Replace it. -/
def State.setGcl (s : State) (p : Nat) (g : Gcl) : State := s.modEth fun e => { e with gcl := SMap.put Gcl.reset e.gcl p g }

/-- The first start of a cycle at or after `base` that is not before `now`. -/
def firstCycle (base cyc now : Nat) : Nat := if now ≤ base then base else base + (now - base + cyc - 1) / cyc * cyc

/-- CHANGE starts a configuration change, unless one is pending: the administrative settings become operational at the first cycle start at or
after the base time that is not in the past. -/
def State.gclChange (s : State) (p : Nat) : State :=
  if s.fget (Reg.ethStatus p) Reg.ethStatus_GCL_PENDING = 1 then s
  else
    let cyc := max 1 (s.fget (Reg.ethGclCtl p) Reg.ethGclCtl_CYCLE_NS)
    let start := firstCycle (s.rd (Reg.ethGclBase p)).toNat cyc s.now.toNat
    let g := s.gclOf p
    let s := s.setGcl p { g with chg := some (start, cyc, s.fget (Reg.ethGclCtl p) Reg.ethGclCtl_LEN_M1 + 1) }
    (s.fset (Reg.ethGclCtl p) Reg.ethGclCtl_CHANGE 1).fset (Reg.ethStatus p) Reg.ethStatus_GCL_PENDING 1

/-- The value a register takes from a write through a byte mask, in the bits `fld` alone. -/
def merged (old wm v fld : Word) : Word := (old &&& ~~~(wm &&& fld)) ||| (v &&& wm &&& fld)

/-- The ETH blocks' writes that do more than store: none where the register is an ordinary one. -/
def State.ethWrite (s : State) (off : Nat) (wm v : Word) : Option State :=
  let p := off / 0x10000 - 0xA
  let o := off % 0x10000
  if o = 0x18 then
    let s := s.wr off (merged (s.rd off) wm v (mask64 41))
    some (if bit (v &&& wm) 41 then s.gclChange p else s)
  else if 0x400 ≤ o ∧ o < 0x800 ∧ o % 0x20 = 0x10 then
    let x := merged (s.rd off) wm v 0xFFFF
    some (if x.toNat < s.fget (Reg.ethTxqCfg p ((o - 0x400) / 0x20)) Reg.ethTxqCfg_ENTRIES then s.wr off x else s)
  else if 0x800 ≤ o ∧ o < 0x1800 ∧ (o - 0x800) / 0x800 = s.fget (Reg.ethStatus p) Reg.ethStatus_OPER_BANK then some s
  else if 0x2018 ≤ o ∧ o ≤ 0x2040 ∧ o % 8 = 0 then
    some (s.modEth fun e => { e with keys := SMap.put 0 e.keys off (merged (SMap.get 0 e.keys off) wm v (BitVec.allOnes 64)) })
  else if o = 0x2050 then
    let s := if bit (v &&& wm) 0 then s.msecInstall p else s
    some (if bit (v &&& wm) 1 then s.msecRetire p else s)
  else none

/-! ### Rings (R301, R303) -/

/-- What a ring holds outside its registers: Crown RAM ring n at n, Stream SRAM ring n at 64 + n. -/
def State.ring (s : State) (ix : Nat) : Ring := SMap.get Ring.reset s.eth.rings ix

/-- Replace it. -/
def State.setRing (s : State) (ix : Nat) (r : Ring) : State := s.modEth fun e => { e with rings := SMap.put Ring.reset e.rings ix r }

/-- The size of a ring in bytes (MEM_CR_RINGn, ADM_SRINGn_CFG). -/
def State.ringSize (s : State) (ix : Nat) : Nat :=
  4096 * (if ix < 64 then s.fget (Reg.memCrRing ix) Reg.memCrRing_SIZE else s.fget (Reg.admSringCfg (ix - 64)) Reg.admSringCfg_SIZE)

/-- Where a ring starts. -/
def State.ringBase (s : State) (ix : Nat) : Nat :=
  if ix < 64 then paCrown + 4096 * s.fget (Reg.memCrRing ix) Reg.memCrRing_BASE
  else paStream + 4096 * s.fget (Reg.admSringCfg (ix - 64)) Reg.admSringCfg_BASE

/-- The ring is defined. -/
def State.ringValid (s : State) (ix : Nat) : Bool :=
  if ix < 64 then decide (s.fget (Reg.memCrRing ix) Reg.memCrRing_VALID = 1)
  else decide (s.fget (Reg.admSringCfg (ix - 64)) Reg.admSringCfg_VALID = 1)

/-- The register of a ring's pointers and its two fields. -/
def ptrReg (ix : Nat) : Nat := if ix < 64 then Reg.admRingPtr ix else Reg.admSringPtr (ix - 64)
/-- The PROD field of a ring. -/
def prodFld (ix : Nat) : Fld := if ix < 64 then Reg.admRingPtr_PROD else Reg.admSringPtr_PROD
/-- The CONS field of a ring. -/
def consFld (ix : Nat) : Fld := if ix < 64 then Reg.admRingPtr_CONS else Reg.admSringPtr_CONS

/-- The producer offset. -/
def State.prod (s : State) (ix : Nat) : Nat := s.fget (ptrReg ix) (prodFld ix)
/-- The consumer offset. -/
def State.cons (s : State) (ix : Nat) : Nat := s.fget (ptrReg ix) (consFld ix)

/-- The distance from `a` forward to `b` in a ring of `n` bytes. -/
def ringDist (n a b : Nat) : Nat := (b + n - a % n) % n

/-- A write of CONS: ignored unless it lands on a multiple of 64 between the present CONS and PROD in ring order (R303). -/
def State.consWrite (s : State) (ix : Nat) (wm v : Word) : State :=
  let f := consFld ix
  let x := bits (merged (s.rd (ptrReg ix)) wm v (mask64 f.len <<< f.lo)) f.lo f.len
  let n := s.ringSize ix
  if x % 64 = 0 ∧ x < n ∧ ringDist n (s.cons ix) x ≤ ringDist n (s.cons ix) (s.prod ix) then s.fset (ptrReg ix) f x else s

/-- The bytes a frame of `len` bytes takes in a ring: its descriptor and its data rounded up (10, "Delivery rings"). -/
def recordBytes (len : Nat) : Nat := 64 + 64 * ((len + 63) / 64)

/-! ### Run-time admission (R307 to R309) -/

/-- A flow's share of the ring inequality R259: service interval `S`, frame length `sdu`, interval `i`, frames `k`. -/
def flowNeed (S sdu k i : Nat) : Nat := k * ((S + i - 1) / i + 1) * recordBytes sdu

/-- A valid entry. -/
def State.entryValid (s : State) (n : Nat) : Bool := decide (s.fget (Reg.admEntryDest n) Reg.admEntryDest_VALID = 1)

/-- The sum of R259 over the flows of a ring. -/
def State.ringNeed (s : State) (dest ring S : Nat) : Nat :=
  (List.range 1024).foldl (fun a n =>
    let d := s.rd (Reg.admEntryDest n)
    let c := s.rd (Reg.admEntryContract n)
    if s.entryValid n ∧ bits d 2 2 = dest ∧ bits d 4 6 = ring then a + flowNeed S (bits c 0 14) (bits c 14 10) (bits c 24 24) else a) 0

/-- The charge of a contract in Mb/s; BEST_EFFORT is charged nothing (R308). -/
def chargeOf (c d : Word) : Nat :=
  if 1 < bits d 0 2 then 0
  else
    let i := max 1 (bits c 24 24)
    (max 1 (bits c 14 10) * (bits c 0 14 + 70) * 8 + i - 1) / i

/-- The ports that an entry's PORT field selects. -/
def portsOf (id : Word) : List Nat := match bits id 62 2 with | 0 => [0, 1] | 1 => [0] | 2 => [1] | _ => []

/-- A field of ADM_BUDGET or ADM_BUDGET_USED of one port. -/
def budgetFld (p : Nat) : Fld := ⟨32 * p, 32⟩

/-- The class and destination form an allowed pair (R300). -/
def pairOk (d : Word) : Bool :=
  match bits d 0 2, bits d 2 2 with
  | 0, 0 => true
  | 1, 1 | 1, 2 | 2, 2 | 2, 1 => true
  | 1, 3 | 2, 3 => bit d 10
  | _, _ => false

/-- The contract of a request is well formed (R308, check 3). -/
def State.contractOk (s : State) (id c d : Word) : Bool :=
  let ps := if (portsOf id).isEmpty then [0, 1] else portsOf id
  let sdu := bits c 0 14
  decide (60 ≤ sdu) && ps.all (fun p => decide (sdu + 4 ≤ s.maxFrame p)) && decide (1 ≤ bits c 14 10) && decide (1 ≤ bits c 24 24) &&
    pairOk d && decide (bits c 48 16 = 0) && decide (bits d 27 37 = 0) &&
    (!bit d 11 || decide (s.fget (Reg.admCbfCfg (bits d 12 9)) Reg.admCbfCfg_VALID = 1))

/-- The ring that an entry word names; none for the command engine and the recorder. -/
def destRing (d : Word) : Option Nat := match bits d 2 2 with | 0 => some (bits d 4 6) | 1 => some (64 + bits d 4 6) | _ => none

/-- The ring named is valid and, in Crown RAM, owned by the owner the request names (R308, check 4). -/
def State.ringNamedOk (s : State) (d : Word) : Bool :=
  match destRing d with
  | none => true
  | some ix => s.ringValid ix && (decide (64 ≤ ix) || decide (s.fget (Reg.memCrRing ix) Reg.memCrRing_OWNER = bits d 23 4))

/-- The service interval of a ring in µs. -/
def State.serviceUs (s : State) (ix : Nat) : Nat :=
  if ix < 64 then s.fget (Reg.memCrRing ix) Reg.memCrRing_SERVICE_US else s.fget (Reg.admSringCfg (ix - 64)) Reg.admSringCfg_SERVICE_US

/-- The ring's sum with the new flow added fits the ring (R308, check 6). -/
def State.ringFits (s : State) (c d : Word) : Bool :=
  match destRing d with
  | none => true
  | some ix =>
    let S := s.serviceUs ix
    decide (s.ringNeed (bits d 2 2) (bits d 4 6) S + flowNeed S (bits c 0 14) (bits c 14 10) (bits c 24 24) ≤ s.ringSize ix)

/-- The charge stays within the budget of every port selected (R308, check 7). -/
def State.budgetOk (s : State) (id c d : Word) : Bool :=
  decide (1 < bits d 0 2) || (portsOf id).all fun p =>
    decide (s.fget Reg.admBudgetUsed (budgetFld p) + chargeOf c d ≤ s.fget Reg.admBudget (budgetFld p))

/-- The first of the checks of R308 that fails, as its code; 0 where none does. -/
def State.admitCode (s : State) (n : Nat) (id c d : Word) : Nat :=
  if s.fget Reg.admCfg Reg.admCfg_RT_ADMIT = 0 then 8
  else if s.entryValid n then 1
  else if !s.contractOk id c d then 3
  else if !s.ringNamedOk d then 4
  else if (List.range n).any fun k => s.entryValid k && decide (s.rd (Reg.admEntryId k) = id) then 9
  else if !s.ringFits c d then 5
  else if !s.budgetOk id c d then 6
  else 0

/-- Add or return an entry's charge (R308, R309). -/
def State.chargePorts (s : State) (id : Word) (f : Nat → Nat) : State :=
  (portsOf id).foldl (fun s p => s.fset Reg.admBudgetUsed (budgetFld p) (f (s.fget Reg.admBudgetUsed (budgetFld p)))) s

/-- ADMIT: the checks in order, then the entry is written and its counters cleared (R308). The code and the state after it. -/
def State.admitTo (s : State) (n : Nat) (id c d : Word) : Nat × State :=
  match s.admitCode n id c d with
  | 0 =>
    let s := s.wr (Reg.admEntryId n) id
    let s := s.wr (Reg.admEntryContract n) c
    let s := s.wr (Reg.admEntryDest n) (setBits (setBits d 21 1 1) 22 1 0)
    let s := s.wr (Reg.admEntryCnt n) 0
    let s := s.modEth fun e => { e with police := SMap.put (0, 0) e.police n (0, 0) }
    (0, s.chargePorts id (· + chargeOf c d))
  | k => (k, s)

/-- WITHDRAW: an entry of the image is locked, an invalid one not admitted; otherwise VALID is cleared and the charge returned (R309). -/
def State.withdraw (s : State) (n : Nat) : Nat × State :=
  let d := s.rd (Reg.admEntryDest n)
  if bit d 22 then (2, s)
  else if !s.entryValid n then (7, s)
  else
    let id := s.rd (Reg.admEntryId n)
    let charge := chargeOf (s.rd (Reg.admEntryContract n)) d
    (0, (s.fset (Reg.admEntryDest n) Reg.admEntryDest_VALID 0).chargePorts id (· - charge))

/-- A request runs: op 1 ADMIT, 2 WITHDRAW, others ignored; its result is left in ADM_REQ_STATUS.CODE (R307). -/
def State.admRequest (s : State) (op n : Nat) : State :=
  let put (x : Nat × State) : State := x.2.fset Reg.admReqStatus Reg.admReqStatus_CODE x.1
  match op with
  | 1 => put (s.admitTo n (s.rd (Reg.admReqW 0)) (s.rd (Reg.admReqW 1)) (s.rd (Reg.admReqW 2)))
  | 2 => put (s.withdraw n)
  | _ => s

/-- The ADM block's writes that do more than store. -/
def State.admWrite (s : State) (off : Nat) (wm v : Word) : Option State :=
  let o := off - 0xC0000
  if o = 0x118 then
    let x := v &&& wm
    some (if bit x 12 && decide (s.fget Reg.admReqStatus Reg.admReqStatus_BUSY = 0) then s.admRequest (bits x 10 2) (bits x 0 10) else s)
  else if 0x400 ≤ o ∧ o < 0x600 ∧ o % 8 = 0 then some (s.consWrite ((o - 0x400) / 8) wm v)
  else if 0x800 ≤ o ∧ o < 0x1000 ∧ o % 0x20 = 8 then some (s.consWrite (64 + (o - 0x800) / 0x20) wm v)
  else none

end Sys2Proof.Machine
end

