-- ==== Sys2Proof/Machine/HostRegs.lean ====
section
/-!
DEFINITION. The registers of the host protocol and of the recorder that do more than hold bits: result slots and job queues (R328, R329,
R331), the recorder's triggers and its release (R337 to R341).
-/

namespace Sys2Proof.Machine

/-- Change what the command engine holds outside its registers. -/
def State.modDhp (s : State) (f : Dhp → Dhp) : State := { s with dhp := f s.dhp }

/-- Change what the recorder holds outside its registers. -/
def State.modRecd (s : State) (f : Recdr → Recdr) : State := { s with recd := f s.recd }

/-! ### Result slots and job queues -/

/-- The state of a result slot: 0 FREE, 1 PENDING, 2 READY, 3 READ, 4 EXPIRED, 5 CANCELLED. -/
def State.slotState (s : State) (n : Nat) : Nat := s.fget (Reg.dhpSlotStat n) Reg.dhpSlotStat_STATE

/-- Give a slot a state. -/
def State.setSlot (s : State) (n st : Nat) : State := s.fset (Reg.dhpSlotStat n) Reg.dhpSlotStat_STATE st

/-- The handle of a slot: its number in [15:10], its generation in [9:0] (R328). -/
def State.slotHandle (s : State) (n : Nat) : Nat := 1024 * n + s.fget (Reg.dhpSlotStat n) Reg.dhpSlotStat_GEN

/-- A slot becomes FREE and its generation increments (R329). -/
def State.slotFree (s : State) (n : Nat) : State := (s.setSlot n 0).fadd (Reg.dhpSlotStat n) Reg.dhpSlotStat_GEN 1

/-- A DONE write is ignored and counted. -/
def State.lateDone (s : State) : State := s.fsat Reg.dhpSlotCnt Reg.dhpSlotCnt_LATE_DONE 1

/-- The owner of a slot's job. -/
def State.slotOwner (s : State) (n : Nat) : Nat :=
  s.fget (Reg.dhpJobtCfg (s.fget (Reg.dhpSlotStat n) Reg.dhpSlotStat_JOBT)) Reg.dhpJobtCfg_OWNER

/-- A write of DHP_SLOTs_DONE (R329, R331). -/
def State.slotDone (s : State) (init n : Nat) (v : Word) : State :=
  let len := bits v 16 16
  if init ≠ s.slotOwner n ∨ 1024 * s.fget Reg.dhpArea Reg.dhpArea_SLOT_KIB < len then s.lateDone
  else if bits v 0 16 ≠ s.slotHandle n then s
  else
    match s.slotState n with
    | 1 =>
      let s := (s.setSlot n 2).fset (Reg.dhpSlotStat n) Reg.dhpSlotStat_LEN len
      s.fset (Reg.dhpSlotStat n) Reg.dhpSlotStat_RSTATUS (bits v 32 8)
    | 5 => s.slotFree n
    | _ => s.lateDone

/-- A write of DHP_JOBQj_PTR.CONS: ignored unless it lies between CONS and PROD in queue order (R328). A full queue has PROD = CONS; there a
write of that value returns every entry. -/
def State.jobqCons (s : State) (j : Nat) (wm v : Word) : State :=
  let r := Reg.dhpJobqPtr j
  let x := bits (merged (s.rd r) wm v 0xFF00) 8 8
  let depth := s.fget (Reg.dhpJobtCfg j) Reg.dhpJobtCfg_QDEPTH
  let held := SMap.get 0 s.dhp.held j
  let dist := ringDist depth (s.fget r Reg.dhpJobqPtr_CONS) x
  let n := if dist = 0 ∧ held = depth then depth else dist
  if x < depth ∧ n ≤ held ∧ bit wm 8 then
    (s.fset r Reg.dhpJobqPtr_CONS x).modDhp fun d => { d with held := SMap.put 0 d.held j (held - n) }
  else s

/-- The DHP block's writes that do more than store; a word write of the half without HANDLE, or without CONS, does nothing (R9). -/
def State.dhpWrite (s : State) (rq : Rq) (off : Nat) (wm v : Word) : Option State :=
  let o := off - 0xD0000
  if 0x400 ≤ o ∧ o < 0x500 ∧ o % 8 = 0 then some (s.jobqCons ((o - 0x400) / 8) wm v)
  else if 0x1000 ≤ o ∧ o < 0x1800 ∧ o % 0x20 = 0x10 then
    some (if bit wm 0 then s.slotDone rq.init.val ((o - 0x1000) / 0x20) (v &&& wm) else s)
  else none

/-! ### The recorder (R337 to R341) -/

/-- The recorder's state: 0 OFF, 1 RECORDING, 2 POST, 3 FROZEN. -/
def State.recState (s : State) : Nat := s.fget Reg.recStatus Reg.recStatus_STATE

/-- The size of the ring (0) or of the reserve (1) in bytes. -/
def State.recBytes (s : State) (i : Nat) : Nat := 2 ^ 21 * s.fget (Reg.recSize i) Reg.recSize_REGIONS

/-- FROZEN is entered; the frames in the buffer are not recorded and are counted (R338). -/
def State.recFreeze (s : State) : State :=
  let s := (s.fset Reg.recStatus Reg.recStatus_STATE 3).fsat Reg.recCnt Reg.recCnt_SKIPPED s.recd.buf.length
  s.modRecd fun r => { r with buf := [] }

/-- A trigger: bit `kind` of REC_FRZ.TRIGGER and, for the FCRU, its source (R337, R338). -/
def State.recTrigger (s : State) (kind src : Nat) : State :=
  match s.recState with
  | 0 => s
  | 1 =>
    let off := s.fget Reg.recWptr Reg.recWptr_OFFSET
    let size := s.recBytes 0
    let pre := 65536 * s.fget Reg.recSpan Reg.recSpan_PRE
    let start := if s.fget Reg.recStatus Reg.recStatus_WRAPPED = 0 ∧ off < pre then 0 else ringDist size pre off / 65536 * 65536
    let s := s.wr Reg.recFrz (BitVec.ofNat 64 (1 + 2 ^ kind + 2 ^ 6 * src + 2 ^ 24 * s.now40))
    let s := (s.wr Reg.recFrzPos (BitVec.ofNat 64 off)).wr Reg.recFrzSpan (BitVec.ofNat 64 start)
    let s := (s.wr Reg.recFrzLen (BitVec.ofNat 64 (ringDist size start off))).wr Reg.recFrzPost 0
    let s := ((s.wr Reg.recUnload 0).wr Reg.recWptr 0).fset Reg.recStatus Reg.recStatus_STATE 2
    if s.fget Reg.recSpan Reg.recSpan_POST = 0 then s.recFreeze else s
  | _ => s.fsat Reg.recCnt2 Reg.recCnt2_IGNORED 1

/-- A release, ignored unless FROZEN: recording resumes at the start of the block after the one that holds FREEZE_OFF (R339). -/
def State.recRelease (s : State) : State :=
  if s.recState ≠ 3 then s
  else
    let s := (s.fset Reg.recFrz Reg.recFrz_VALID 0).wr Reg.recUnload 0
    let next := (s.fget Reg.recFrzPos Reg.recFrzPos_FREEZE_OFF / 65536 + 1) * 65536
    let s := s.wr Reg.recWptr (BitVec.ofNat 64 (next % s.recBytes 0))
    (s.fset Reg.recStatus Reg.recStatus_STATE 1).fset Reg.recStatus Reg.recStatus_WRAPPED 0

/-- The REC block's writes that do more than store. -/
def State.recWrite (s : State) (off : Nat) (wm v : Word) : Option State :=
  if off = Reg.recCtl then
    let x := v &&& wm
    let s := if bit x 0 then s.recTrigger 3 0 else s
    some (if bit x 1 then s.recRelease else s)
  else none

end Sys2Proof.Machine
end

