-- ==== Sys2Proof/Machine/TimeOps.lean ====
section
/-!
DEFINITION. The device time and the registers of the time block (R342 to R351): the counter and its rate, steps, the TIME_OUT lines, the capture
FIFOs, and the reads and writes that do more than move bits.
-/

namespace Sys2Proof.Machine

/-- Change what the time block holds outside its registers. -/
def State.modTimeB (s : State) (f : TimeB → TimeB) : State := { s with timeB := f s.timeB }

/-- The device time in quarter-nanoseconds since its origin. -/
def DevTime.quarters (t : DevTime) : Nat := (t.sec * 1000000000 + t.ns) * 4 + t.frac / 16384000000000

/-- The device time in nanoseconds since its origin. -/
def DevTime.total (t : DevTime) : Nat := t.sec * 1000000000 + t.ns

/-- A device time of so many nanoseconds and the fraction given. -/
def DevTime.ofTotal (n frac : Nat) : DevTime := { sec := n / 1000000000 % 2 ^ 48, ns := n % 1000000000, frac := frac }

/-- The correction of TIME_RATE, signed, in units of 2^-16 x 10^-9 of the reference frequency (R342). -/
def State.ratePpb (s : State) : Int := signed 32 (s.fget Reg.timeRate Reg.timeRate_PPB)

/-- One TIME cycle: the accumulator adds 1 ns corrected by TIME_RATE (R342). -/
def State.timeCycle (s : State) : State :=
  let f := (s.time.frac + (65536000000000 + s.ratePpb).toNat)
  { s with time := DevTime.ofTotal (s.time.total + f / 65536000000000) (f % 65536000000000) }

/-! ### The TIME_OUT lines (R350) -/

/-- The line of TIME_OUTn. -/
def State.line (s : State) (n : Nat) : TimeLine := SMap.get TimeLine.reset s.timeB.lines n

/-- Replace a line. -/
def State.setLine (s : State) (n : Nat) (x : TimeLine) : State := s.modTimeB fun b => { b with lines := SMap.put TimeLine.reset b.lines n x }

/-- The latest rising edge of a line at or before a time in nanoseconds, if there is one (R350). -/
def State.lastRise (s : State) (n t : Nat) : Option Nat :=
  let start := s.fget (Reg.timeOutStart n) Reg.timeOutStart_START
  let per := s.fget (Reg.timeOutPeriod n) Reg.timeOutPeriod_PERIOD_NS
  match s.fget (Reg.timeOutCfg n) Reg.timeOutCfg_MODE with
  | 1 =>
    let o := start % 1000000000
    if o ≤ t then some ((t - o) / 1000000000 * 1000000000 + o) else none
  | 2 => if start ≤ t ∧ per ≠ 0 then some (start + (t - start) / per * per) else none
  | 3 => if start ≤ t then some start else none
  | _ => none

/-- The latest edge of a line at or before a time in quarter-nanoseconds: its time and its direction (R350). -/
def State.lastEdge (s : State) (n q : Nat) : Option (Nat × Bool) :=
  let frac := s.fget (Reg.timeOutCfg n) Reg.timeOutCfg_FRAC
  let width := s.fget (Reg.timeOutCfg n) Reg.timeOutCfg_WIDTH_NS
  if q < frac then none
  else
    let t := (q - frac) / 4
    match s.lastRise n t, (if width ≤ t then s.lastRise n (t - width) else none) with
    | some r, some f => if r ≤ f + width then some ((f + width) * 4 + frac, false) else some (r * 4 + frac, true)
    | some r, none => some (r * 4 + frac, true)
    | none, some f => some ((f + width) * 4 + frac, false)
    | none, none => none

/-- A write to a line's registers: the line goes OFF where WIDTH_NS is not below PERIOD_NS or PERIOD_NS is below 20, and edges start again from the
write (R350). -/
def State.lineWritten (s : State) (n : Nat) : State :=
  let per := s.fget (Reg.timeOutPeriod n) Reg.timeOutPeriod_PERIOD_NS
  let s := if per ≤ s.fget (Reg.timeOutCfg n) Reg.timeOutCfg_WIDTH_NS ∨ per < 20 then s.fset (Reg.timeOutCfg n) Reg.timeOutCfg_MODE 0 else s
  let off := decide (s.fget (Reg.timeOutCfg n) Reg.timeOutCfg_MODE = 0)
  s.setLine n { level := (s.line n).level && !off, seen := s.time.quarters }

/-! ### Steps (R343) -/

/-- The time steps to a new value: IC_TCMP latches that a forward step passes are set, edges that it passes are not generated, and after a
backward step edges and due times come again (R343, R350, R370). -/
def State.stepTo (s : State) (new : Nat) : State :=
  let old := s.time.total
  let s := { s with time := DevTime.ofTotal new s.time.frac }
  let s := s.fsat Reg.timeStatus Reg.timeStatus_STEPS 1
  let q := s.time.quarters
  let s := (List.range 4).foldl (fun s n =>
    let x := s.line n
    s.setLine n { x with seen := if old < new then max x.seen q else min x.seen q }) s
  let s := (List.range 32).foldl (fun s n =>
    let e := SMap.get PncEnt.reset s.pnc.ents n
    { s with pnc := { s.pnc with ents := SMap.put PncEnt.reset s.pnc.ents n { e with seen := min e.seen new } } }) s
  (List.range 16).foldl (fun s t => s.forCopies t [0, 1, 2] fun c =>
    if old < c.icTcmp.toNat ∧ c.icTcmp.toNat ≤ new then c.setLatch 0 else c) s

/-- A signed step of the device time; it does not pass below zero. -/
def State.stepTime (s : State) (d : Int) : State := s.stepTo ((s.time.total : Int) + d).toNat

/-! ### Captures (R351) -/

/-- The captures held for TIME_INn, the oldest first. -/
def State.caps (s : State) (n : Nat) : List Stamp := SMap.get [] s.timeB.fifo n

/-- The captures of TIME_INn change, and with them what its registers show. -/
def State.setCaps (s : State) (n : Nat) (cs : List Stamp) : State :=
  let s := s.modTimeB fun b => { b with fifo := SMap.put [] b.fifo n cs }
  let h := cs.headD Stamp.zero
  let s := s.wr (Reg.timeInCap n) (BitVec.ofNat 64 (h.sec * 1000000000 + h.ns))
  (s.fset (Reg.timeInCapf n) Reg.timeInCapf_FRAC h.q).fset (Reg.timeInCapf n) Reg.timeInCapf_LEVEL cs.length

/-! ### Status (R346) -/

/-- The error estimate in HOLDOVER: the estimate at its entry, 0.1 ppm of the time since, and a drift of 1 ppb per second (R346). -/
def State.errEst (s : State) : Nat :=
  match s.timeB.hold with
  | none => s.fget Reg.timeStatus Reg.timeStatus_ERR_EST_NS
  | some (from', e0) =>
    let t := s.now.toNat - from'
    min (2 ^ 24 - 1) (e0 + t / 10000000 + t * t / 2000000000000000000)

/-- TIME_STATUS as it reads now. -/
def State.timeStatusNow (s : State) : Word :=
  setBits (s.rd Reg.timeStatus) Reg.timeStatus_ERR_EST_NS.lo Reg.timeStatus_ERR_EST_NS.len s.errEst

/-! ### Register accesses -/

/-- The TIME block's writes that do more than store: steps, the rate, and the TIME_OUT registers. -/
def State.timeWrite (s : State) (off : Nat) (wm v : Word) : Option State :=
  let servo := decide (s.fget Reg.timeCtl Reg.timeCtl_SERVO_EN = 1)
  if off = Reg.timeStep then some (if servo then s else s.stepTime (signed 64 (v &&& wm).toNat))
  else if off = Reg.timeRate then
    some (if servo then s else s.wr off (((s.rd off &&& ~~~wm) ||| (v &&& wm)) &&& 0xFFFFFFFF))
  else if 0xF0300 ≤ off ∧ off < 0xF0380 ∧ off % 0x20 < 0x18 then
    let n := (off - 0xF0300) / 0x20
    let fld : Word := if off % 0x20 = 0 then 0xFFFFFFFF0000001F else if off % 0x20 = 8 then BitVec.allOnes 64 else 0xFFFFFFFF
    some ((s.wr off ((s.rd off &&& ~~~(wm &&& fld)) ||| (v &&& wm &&& fld))).lineWritten n)
  else none

/-- The TIME block's reads that do more than return a register: TIME_NOW takes a snapshot, TIME_STATUS estimates its error, and a capture is
popped. -/
def State.timeRead (s : State) (off : Nat) : Word × State :=
  if off = Reg.timeNow then
    let s := s.wr Reg.timeNowPtp (BitVec.ofNat 64 (s.time.ns + 2 ^ 32 * (s.time.quarters % 4)))
    let s := s.wr Reg.timeNowSec (BitVec.ofNat 64 s.time.sec)
    (s.now, s)
  else if off = Reg.timeStatus then (s.timeStatusNow, s)
  else
    match famIx off (Reg.timeInCap 0) 0x20 2 with
    | some n => (s.rd off, s.setCaps n ((s.caps n).drop 1))
    | none => (s.rd off, s)

end Sys2Proof.Machine
end

