-- ==== Sys2Proof/Machine/Reset.lean ====
section
/-!
DEFINITION. Resets (R19, R30, R266, R282, R341, R347, R381, R387): what a reset clears, what it keeps, and what the Hatbox retains.
-/

namespace Sys2Proof.Machine

/-- Change the Hatbox outside its registers. -/
def State.modHbx (s : State) (f : Hatbox → Hatbox) : State := { s with hbx := f s.hbx }

/-- Change what start-up holds. -/
def State.modBoot (s : State) (f : Boot → Boot) : State := { s with boot := f s.boot }

/-- A register of the HBX block. -/
def isHbx (o : Nat) : Bool := decide (o / 0x10000 = 0x12)

/-- A register that keeps its value through DEVICE_RESET and RESET_REQ but not through RESET_N: the FCRU's log and first fault and the frozen
span (R19, R341). -/
def keptWarm (o : Nat) : Bool :=
  decide (o = Reg.fcruFirst) || decide (o = Reg.fcruLogHead) || (famIx o (Reg.fcruLog 0) 8 32).isSome || decide (o = Reg.recFrz) ||
    decide (o = Reg.recFrzPos) || decide (o = Reg.recFrzSpan) || decide (o = Reg.recFrzLen) || decide (o = Reg.recFrzPost)

/-- The bits of a register that count since RESET_N or that only RESET_N clears (FCRU_CNT.TOTAL, CLK_PLLp.LOSSES, GATE_STAT.DENIED, WDOG_EXPIRED). -/
def keptBits (o : Nat) : Word :=
  if (famIx o (Reg.fcruCnt 0) 8 512).isSome then 0xFFFF
  else if (famIx o (Reg.clkPll 0) 8 11).isSome then mask64 16 <<< Reg.clkPll_LOSSES.lo
  else if o = Reg.fcruStatus then 0x42
  else if (famIx o (Reg.gateStat 0) 0x800 27).isSome then 0xFFFFFFFF
  else 0

/-- The registers after a reset: the HBX block keeps its own, `warm` keeps what only RESET_N clears, everything else has its reset value. -/
def State.resetRegsOf (s : State) (warm : Bool) : SMap Word :=
  let keep (o : Nat) : Bool := isHbx o || (warm && keptWarm o)
  let base := resetRegs.filter fun e => !keep e.1
  let r := (s.regs.filter fun e => keep e.1).foldl (fun m e => SMap.put 0 m e.1 e.2) base
  if warm then (s.regs.filter fun e => keptBits e.1 ≠ 0).foldl
    (fun m e => SMap.put 0 m e.1 (SMap.get 0 m e.1 ||| (e.2 &&& keptBits e.1))) r
  else r

/-- A region of DRAM lies in a range of mode KEEP (R266). -/
def State.keepRegion (s : State) (r : Nat) : Bool :=
  (List.range 4).any fun n =>
    let w := s.rd (Reg.ddrZodRange n)
    decide (bits w 40 2 = 1) && decide (bits w 0 20 ≤ r) && decide (r < bits w 0 20 + bits w 20 20)

/-- A byte of memory keeps its value: the code store always, a KEEP range through a warm reset (R266). -/
def State.keepsByte (s : State) (warm : Bool) (pa : Nat) : Bool :=
  match windowOf pa with
  | .code => true
  | .dram => warm && s.keepRegion (ddrRegion pa)
  | _ => false

/-- The regions marked cleared after a reset. -/
def State.keptRegions (s : State) (warm : Bool) : List Nat :=
  if warm then (List.range (s.dramSize / 2 ^ 21)).filter s.keepRegion else []

/-- The protection state after a reset. -/
def State.resetProt (s : State) (warm : Bool) : Prot :=
  let k (w : Nat) : Bool := s.keepsByte warm (8 * w)
  { Prot.reset with
    flip := s.prot.flip.filter fun e => k e.1
    chk := s.prot.chk.filter fun e => k e.1
    forced := s.prot.forced.filter fun e => k e.1
    zod := (s.keptRegions warm).map fun r => (r, true) }

/-- The memory maps that the Hatbox retains (R381). -/
def State.mapRegs (s : State) : List (Nat × Word) :=
  ((List.range 16).flatMap fun g => [Reg.memSsMapLo g, Reg.memSsMapHi g]).map (fun o => (o, s.rd o)) ++
    [(Reg.memCrMap, s.rd Reg.memCrMap), (Reg.memCrSpare, s.rd Reg.memCrSpare)]

/-- An item of the retention area is present or not (HBX_RET.VALID). -/
def State.retItem (s : State) (i : Nat) (b : Bool) : State :=
  s.wr Reg.hbxRet (setBits (s.rd Reg.hbxRet) (Reg.hbxRet_VALID.lo + i) 1 (b2n b))

/-- The maps have changed: the Hatbox retains those of `u` (R381). -/
def State.retainMapsOf (s u : State) : State := (s.modHbx fun h => { h with maps := u.mapRegs }).retItem 2 true

/-- The maps have changed: the Hatbox retains them (R381). -/
def State.retainMaps (s : State) : State := s.retainMapsOf s

/-- The locked remap entries (R282). -/
def State.lockedRemaps (s : State) : List (Nat × Word) :=
  (s.regs.filter fun e =>
    decide (Reg.edcRemap 0 0 ≤ e.1) && decide (e.1 < Reg.edcRemap 312 0) && decide (bits e.2 Reg.edcRemap_LOCK.lo 1 = 1))

/-- The locked remap entries go to the retention area (R282, R381). -/
def State.retainRemaps (s : State) : State :=
  let l := s.lockedRemaps
  (s.modHbx fun h => { h with remaps := l }).retItem 3 !l.isEmpty

/-- Everything but the Hatbox is reset (R387): the state before start-up step 3, in BOOT, with every SAFE_N pin low; the maps are rebuilt from the
retention area, the life cycle and the serial number come from OTP. `cause` is SYS_STATE.RST_CAUSE. -/
def State.resetMain (s : State) (warm : Bool) (cause : Nat) : State :=
  let z : State := { State.reset with
    regs := s.resetRegsOf warm, mem := s.mem.filter fun e => s.keepsByte warm e.1, prot := s.resetProt warm, free := s.free
    pending := s.pending, recd := { Recdr.reset with rseq := if warm then s.recd.rseq else 0 }
    hbx := s.hbx, otp := s.otp, nvm := { Nvm.reset with flash := s.nvm.flash } }
  let z := s.hbx.maps.foldl (fun z e => z.wr e.1 e.2) z
  let z := z.fset Reg.ddrZodStat Reg.ddrZodStat_UNCLEARED (131072 - (s.keptRegions warm).length)
  let z := ((z.fset Reg.sysState Reg.sysState_LC s.otp.lc).fset Reg.sysState Reg.sysState_RST_CAUSE cause).wr Reg.sysId s.otp.id
  { z with clk := { z.clk with ext := s.clk.ext }, twin := { z.twin with silent := warm && s.wdogDead } }

/-- The lines of DRAM that the valid remap entries redirect (R281). -/
def State.dramRemaps (s : State) : List Nat :=
  (s.regs.filter fun e =>
    decide (Reg.edcRemap 296 0 ≤ e.1) && decide (e.1 < Reg.edcRemap 312 0) && decide (bits e.2 Reg.edcRemap_VALID.lo 1 = 1)).map
      fun e => bits e.2 Reg.edcRemap_ADDR.lo 41 * 8 / 64 * 64

/-- The lines of DRAM that remap entries redirect are corrected: written back before the channels enter self-refresh, and reloaded after the reset
(R282). -/
def State.remapLines (s : State) : State := s.dramRemaps.foldl (fun s u => s.fixUnit 3 u) s

/-- DEVICE_RESET and the reset of RESET_REQ (R19, R327): the redirected lines go back to DRAM, and the locked remap entries are retained first. -/
def State.internalReset (s : State) (cause : Nat) : State := s.remapLines.retainRemaps.resetMain true cause

/-- The Hatbox stores the device time (R347). -/
def State.storeTime (s : State) : State := (s.modHbx fun h => { h with stored := some s.time }).retItem 0 true

/-- The nanoseconds of so many ticks of the crystal: 30,517.578125 each (R347). -/
def tickNs (n : Nat) : Nat := n * 30517578125 / 1000000

/-- At power-good the time is the stored one plus the ticks since, in SLEEP_RESTORED with the error of R347; with no stored time it starts at
zero in FREE_RUN (R347). -/
def State.restoreTime (s : State) (ticks : Nat) : State :=
  match s.hbx.stored with
  | none => s
  | some t =>
    let d := tickNs ticks
    let s := { s with time := DevTime.ofTotal (t.total + d) t.frac }
    (s.fset Reg.timeStatus Reg.timeStatus_STATE 4).fset Reg.timeStatus Reg.timeStatus_ERR_EST_NS (min (2 ^ 24 - 1) (d * 50 / 1000000 + 31000))

end Sys2Proof.Machine
end

