-- ==== Sys2Proof/Machine/HbxOps.lean ====
section
/-!
DEFINITION. The Hatbox's events and rules, its log, and the way into SLEEP (R376 to R386).
-/

namespace Sys2Proof.Machine

/-- A field of HBX_STATUS. -/
def State.hs (s : State) (f : Fld) : Nat := s.fget Reg.hbxStatus f

/-- The device is in SLEEP. -/
def State.asleep (s : State) : Bool := decide (s.opstate = opSLEEP)

/-- The low 40 bits of the device count as the Hatbox reckons it (R347): in SLEEP from the stored time and its ticks. -/
def State.hbxTime (s : State) (ticks : Nat) : Nat :=
  if s.asleep then ((match s.hbx.stored with | some t => t.total | none => 0) + tickNs ticks) % 2 ^ 40 else s.now40

/-- An entry of the event log (R379, HBX_EVLOGn): rule [3:0], input [6:4], path [7], decision [9:8], FROZE [10], value [23:12]. -/
def State.hbxLog (s : State) (ticks low value : Nat) : State :=
  let n := s.hs Reg.hbxStatus_EV_HEAD
  let s := if s.fget (Reg.hbxEvlog n) Reg.hbxEvlog_VALID = 1 then s.fset Reg.hbxStatus Reg.hbxStatus_EV_WRAP 1 else s
  let s := s.wr (Reg.hbxEvlog n) (BitVec.ofNat 64 (low % 2 ^ 11 + 2 ^ 11 + 2 ^ 12 * (value % 2 ^ 12) + 2 ^ 24 * s.hbxTime ticks))
  s.fset Reg.hbxStatus Reg.hbxStatus_EV_HEAD ((n + 1) % 16)

/-- PMIC_EN rises for a WAKE decision. -/
def State.raisePmic (s : State) : State :=
  (s.modHbx fun h => { h with pmicEn := true, held := false, retry := false, offDone := false })

/-- A WAKE decision in SLEEP: the rule is recorded and PMIC_EN rises, held until OFF_MIN_MS have passed (R379, R385). -/
def State.wake (s : State) (rule : Nat) : State :=
  let s := ((s.fset Reg.hbxStatus Reg.hbxStatus_WAKE_RULE rule).fset Reg.hbxStatus Reg.hbxStatus_WAKE_VALID 1).fset Reg.hbxStatus
    Reg.hbxStatus_PMIC_TRIES 0
  if s.hbx.offDone then s.raisePmic else s.modHbx fun h => { h with held := true }

/-- A rule is considered for an event: VALID, of the event's input and path, and for the present condition (R378). -/
def State.ruleApplies (s : State) (r inp path : Nat) : Bool :=
  let w := s.rd (Reg.hbxRule r)
  bit w 11 && decide (bits w 0 3 = inp) && decide (bits w 3 1 = path) && (if s.asleep then bit w 6 else bit w 7)

/-- An event is evaluated: the first rule whose condition holds decides (R377 to R379). -/
def State.hbxEvent (s : State) (ticks inp path value : Nat) (holds : Word → Bool) : State :=
  match (List.range 16).find? fun r => s.ruleApplies r inp path && holds (s.rd (Reg.hbxRule r)) with
  | none => s
  | some r =>
    let w := s.rd (Reg.hbxRule r)
    let d := bits w 8 2
    if d = 1 ∨ d = 2 then
      let froze := bit w 10 && !s.asleep
      let s' := s.hbxLog ticks (r + 2 ^ 4 * inp + 2 ^ 7 * path + 2 ^ 8 * d + 2 ^ 10 * b2n froze) value
      let s' := if froze then s'.recTrigger 4 0 else s'
      if decide (d = 2) && s.asleep then s'.wake r else s'
    else s

/-- The condition of a fast-path rule (R378). -/
def fastHolds (old new : Bool) (w : Word) : Bool :=
  match bits w 4 2 with
  | 0 => new | 1 => !new | 2 => !old && new | _ => old && !new

/-- The condition of a slow-path rule: the filtered value, and the previous sample's if there is one (R378). -/
def slowHolds (prev : Option Nat) (filt : Nat) (w : Word) : Bool :=
  let thr := bits w 12 12
  match bits w 4 2 with
  | 0 => decide (thr < filt)
  | 1 => decide (filt < thr)
  | 2 => decide (thr < filt) && !(prev.any fun p => decide (thr < p))
  | _ => decide (filt < thr) && !(prev.any fun p => decide (p < thr))

/-- The LEVEL of an input. -/
def State.hbxLevel (s : State) (n : Nat) : Bool := bit (s.rd Reg.hbxStatus) (Reg.hbxStatus_LEVEL.lo + n)

/-- A fast-path event of an input whose level was `old`. -/
def State.fastEvent (s : State) (ticks n : Nat) (old : Bool) : State :=
  let new := s.hbxLevel n
  s.hbxEvent ticks n 0 (b2n new) (fastHolds old new)

/-- PMIC_EN falls: the main supplies go, the Hatbox evaluates rules as in SLEEP, and every input's present LEVEL is one fast-path event (R384,
R385, R413). -/
def State.pmicOff (s : State) : State :=
  let s := (s.resetMain false (s.fget Reg.sysState Reg.sysState_RST_CAUSE)).setOp opSLEEP
  let s := s.modHbx fun h => { h with pmicEn := false, pgood := false, offDone := false, held := false }
  (List.range 8).foldl (fun s n =>
    if s.fget (Reg.hbxInCfg n) Reg.hbxInCfg_FAST_EN = 1 then s.fastEvent 0 n (s.hbxLevel n) else s) s

/-- Every triad is stopped at its fence and every Fuller context as STOP_GROUP does (R327, R384). -/
def State.stopAll (s : State) : State :=
  let s := (List.range 16).foldl State.stopTriad s
  (List.range 8).foldl State.stopContext s

/-- SAFE_N pins are driven low (FCRU_STATUS.SAFE_ASSERTED). -/
def State.assertPins (s : State) (m : Nat) : State :=
  s.fset Reg.fcruStatus Reg.fcruStatus_SAFE_ASSERTED (s.fget Reg.fcruStatus Reg.fcruStatus_SAFE_ASSERTED ||| m)

/-- An honoured sleep request (R384). -/
def State.sleep (s : State) : State :=
  let s := (s.assertPins 0xF).modTwin fun x => { x with alive := false }
  (((s.modEth fun e => { e with stopped := true }).stopAll).storeTime).pmicOff

/-- A sleep request: a permitted triad, the key, and RUN, DEGRADED, SAFE or STANDBY; anything else is ignored (R384). -/
def State.sleepRequest (s : State) (init : Nat) (v : Word) : State :=
  if init < 16 ∧ (s.fget Reg.sysPerm Reg.sysPerm_SLEEP_TRIADS).testBit init ∧ bits v 0 16 = 0x51EE ∧ 3 ≤ s.opstate ∧ s.opstate ≤ 6 then s.sleep
  else s

/-- A failed attempt of the supplies: PMIC_EN falls, the log says so, and a retry is due 100 ms later unless it was the third (R386); a new
WAKE decision, of a level still held, has its own attempts. -/
def State.pmicFail (s : State) (ticks : Nat) : State :=
  let rule := s.hs Reg.hbxStatus_WAKE_RULE
  let tries := s.hs Reg.hbxStatus_PMIC_TRIES + 1
  let s := s.pmicOff
  let s' := s.hbxLog ticks (rule + 2 ^ 8 * 3) 0
  if s.hbx.held then s'
  else
    let s' := s'.fset Reg.hbxStatus Reg.hbxStatus_PMIC_TRIES tries
    if tries < 3 then s'.modHbx fun h => { h with retry := true } else s'

end Sys2Proof.Machine
end

