-- ==== Sys2Proof/Machine/PncOps.lean ====
section
/-!
DEFINITION. Pounce's schedule (R369 to R371, R374, R375): which item a slice takes, when it runs, is deferred, waits or is dropped, and what its end
records.
-/

namespace Sys2Proof.Machine

/-- Change what Pounce holds outside its registers. -/
def State.modPnc (s : State) (f : Pnc → Pnc) : State := { s with pnc := f s.pnc }

/-- A schedule entry. -/
def State.pncEnt (s : State) (n : Nat) : PncEnt := SMap.get PncEnt.reset s.pnc.ents n

/-- Replace a schedule entry. -/
def State.setEnt (s : State) (n : Nat) (e : PncEnt) : State := s.modPnc fun p => { p with ents := SMap.put PncEnt.reset p.ents n e }

/-- The kind of an entry (table "Test slice kinds"). -/
def State.entKind (s : State) (n : Nat) : Nat := s.fget (Reg.pncEnt n) Reg.pncEnt_KIND

/-- The items of a kind: triads, banks, pairs, supplies, channels, PLLs, lanes. -/
def kindItems (k : Nat) : Nat :=
  match k with | 0 => 16 | 1 => 256 | 2 => 15 | 3 => 6 | 4 => 10 | 5 => 8 | 6 => 11 | 7 => 4 | _ => 0

/-- A bit of PNC_FAILED_MISC. -/
def State.miscFailed (s : State) (f : Fld) (i : Nat) : Bool := bit (s.rd Reg.pncFailedMisc) (f.lo + i)

/-- An item is eligible for a slice of its kind (R371, R374). -/
def State.eligible (s : State) (k i : Nat) : Bool :=
  decide (i < kindItems k) &&
  match k with
  | 0 => (s.triad i).released && s.groupMode i && decide (s.tri i Reg.triStatus_STOPPED = 0)
  | 1 => decide (s.fget (Reg.memSsMapHi (i / 16)) Reg.memSsMapHi_DEGRADED = 0)
  | 2 => decide (s.fget Reg.memCrSpare Reg.memCrSpare_DEGRADED = 0)
  | 3 => !s.miscFailed Reg.pncFailedMisc_TEMP i
  | 4 => !s.miscFailed Reg.pncFailedMisc_VMON (2 * i) && !s.miscFailed Reg.pncFailedMisc_VMON (2 * i + 1)
  | 5 => !s.miscFailed Reg.pncFailedMisc_ADC i
  | 6 => !s.miscFailed Reg.pncFailedMisc_PLL i
  | 7 => !s.miscFailed Reg.pncFailedMisc_LANE i && !s.twin.lanes.testBit i
  | _ => false

/-- The next item of a rotating kind. -/
def State.nextItem (s : State) (k : Nat) : Nat :=
  match k with
  | 0 => s.fget Reg.pncSweep Reg.pncSweep_TRIAD_NEXT
  | 1 => s.fget Reg.pncSweep Reg.pncSweep_SS_NEXT
  | 2 => s.fget Reg.pncSweep Reg.pncSweep_CR_NEXT
  | _ => s.pnc.lane

/-- The rotation of a kind moves past an item. -/
def State.setNext (s : State) (k i : Nat) : State :=
  let n := (i + 1) % kindItems k
  match k with
  | 0 => s.fset Reg.pncSweep Reg.pncSweep_TRIAD_NEXT n
  | 1 => s.fset Reg.pncSweep Reg.pncSweep_SS_NEXT n
  | 2 => s.fset Reg.pncSweep Reg.pncSweep_CR_NEXT n
  | 7 => s.modPnc fun p => { p with lane := n }
  | _ => s

/-- The items that a slice of an entry tests: its target if eligible, the next in rotation, or for kinds 3 to 6 every item (R371). -/
def State.sliceItems (s : State) (n : Nat) : List Nat :=
  let k := s.entKind n
  let tgt := s.fget (Reg.pncEnt n) Reg.pncEnt_TARGET
  if tgt ≠ 0xFF then (if s.eligible k tgt then [tgt] else [])
  else
    let all := ((List.range (kindItems k)).map fun j => (s.nextItem k + j) % kindItems k).filter (s.eligible k)
    if 3 ≤ k ∧ k ≤ 6 then (List.range (kindItems k)).filter (s.eligible k) else all.take 1

/-- Every supply is within 3 % on its working monitors, every clock within 1 %, and no PLL reports loss of lock (R369). -/
def State.pncConditions (s : State) : Bool :=
  ((List.range 10).all fun i => (List.range 2).all fun m =>
    s.miscFailed Reg.pncFailedMisc_VMON (2 * i + m) || bit (s.rd (Reg.clkVmon i)) m) &&
  (List.range 11).all fun p => bit (s.rd Reg.clkStatus) (11 + p) && (s.miscFailed Reg.pncFailedMisc_PLL p || bit (s.rd Reg.clkStatus) p)

/-- A slice of a kind is let to run or running, of another entry. -/
def State.kindBusy (s : State) (n k : Nat) : Bool :=
  (List.range 32).any fun m => decide (m ≠ n) && decide (s.entKind m = k) &&
    (decide ((s.pncEnt m).phase = .granted) || decide ((s.pncEnt m).phase = .running))

/-- A due slice cannot run: the deferral is counted once for each due time, and the limit raises PNC_DEFER_LIMIT (R369). -/
def State.deferSlice (s : State) (n : Nat) (first : Bool) : State :=
  let s := s.setEnt n { s.pncEnt n with phase := .deferred }
  if !first then s
  else
    let s := s.fsat (Reg.pncEntStat n) Reg.pncEntStat_DEFERS 1
    let c := s.fget (Reg.pncEntStat n) Reg.pncEntStat_CONSEC + 1
    if max 1 (s.fget Reg.pncSched Reg.pncSched_DEFER_LIMIT) ≤ c then (s.fset (Reg.pncEntStat n) Reg.pncEntStat_CONSEC 0).raise 0x1F1
    else s.fset (Reg.pncEntStat n) Reg.pncEntStat_CONSEC c

/-- An entry's slice is due or tried again: it is skipped, deferred, waits for a slice of its kind, or is let to run (R369, R371). -/
def State.trySlice (s : State) (n : Nat) (first : Bool) : State :=
  let k := s.entKind n
  match s.sliceItems n with
  | [] => s.setEnt n { s.pncEnt n with phase := .idle }
  | i :: rest =>
    if !s.pncConditions || (decide (k = 0) && s.resyncBusy i) then s.deferSlice n first
    else if s.kindBusy n k then s.setEnt n { s.pncEnt n with phase := .waiting }
    else
      let s := if s.fget (Reg.pncEnt n) Reg.pncEnt_TARGET = 0xFF then s.setNext k i else s
      let s := s.fset (Reg.pncEntStat n) Reg.pncEntStat_CONSEC 0
      (s.setEnt n { s.pncEnt n with phase := .granted, item := i, rest := rest }).fset Reg.pncStatus Reg.pncStatus_CUR_ENTRY n

/-- The last due time of an entry at or before now, if there is one (R370). -/
def State.lastDue (s : State) (n : Nat) : Option Nat :=
  let base := (s.rd Reg.pncT0).toNat + s.fget (Reg.pncEnt n) Reg.pncEnt_OFFSET_MS * 1000000
  let per := max 1 (s.fget (Reg.pncEnt n) Reg.pncEnt_PERIOD_MS) * 1000000
  let now := s.now.toNat
  if base ≤ now then some (base + (now - base) / per * per) else none

/-- The schedule runs: T0 has been reached, HALT = 0, and start-up is over (R369, R375). -/
def State.schedActive (s : State) : Bool :=
  decide ((s.rd Reg.pncT0).toNat ≤ s.now.toNat) && decide (s.fget Reg.pncCtl Reg.pncCtl_HALT = 0) &&
    decide (s.fget Reg.sysBootStat Reg.sysBootStat_STEP = 9)

/-- A failure is recorded (R374, PNC_FAIL_LAST). -/
def State.failLast (s : State) (kind item detail : Nat) (startup : Bool) : State :=
  s.wr Reg.pncFailLast (BitVec.ofNat 64 (kind + 2 ^ 4 * (item % 256) + 2 ^ 12 * (detail % 256) + 2 ^ 20 * b2n startup + 2 ^ 21 + 2 ^ 24 * s.now40))

/-- A slice's failure is counted in its entry and recorded (R374). -/
def State.sliceFail (s : State) (n item detail : Nat) : State :=
  (s.failLast (s.entKind n) item detail false).fsat (Reg.pncEntStat n) Reg.pncEntStat_FAILS 1

/-- The first entry that waits for a slice of a kind is tried (R371). -/
def State.wakeWaiting (s : State) (k : Nat) : State :=
  match (List.range 32).find? fun m => decide (s.entKind m = k) && decide ((s.pncEnt m).phase = .waiting) with
  | some m => s.trySlice m false
  | none => s

/-- An entry's slice ends without counting. -/
def State.sliceEnd (s : State) (n : Nat) : State :=
  (s.setEnt n { s.pncEnt n with phase := .idle, rest := [] }).wakeWaiting (s.entKind n)

/-- An entry's slice completes; a rotation that has passed its last bank completes a sweep (R373). -/
def State.sliceDone (s : State) (n : Nat) : State :=
  let k := s.entKind n
  let item := (s.pncEnt n).item
  let s := s.fsat (Reg.pncEntStat n) Reg.pncEntStat_RUNS 1
  let last := decide (s.fget (Reg.pncEnt n) Reg.pncEnt_TARGET = 0xFF) &&
    !((List.range (kindItems k)).any fun j => decide (item < j) && s.eligible k j)
  let s := if last && decide (k = 1) then s.fsat Reg.pncSweep Reg.pncSweep_SS_SWEEPS 1
    else if last && decide (k = 2) then s.fsat Reg.pncSweep Reg.pncSweep_CR_SWEEPS 1 else s
  s.sliceEnd n

/-- The entry whose slice of a kind is running. -/
def State.runningOf (s : State) (k : Nat) : Option Nat :=
  (List.range 32).find? fun n => decide (s.entKind n = k) && decide ((s.pncEnt n).phase = .running)

/-- The entry whose slice of a kind may start. -/
def State.grantedOf (s : State) (k : Nat) : Option Nat :=
  (List.range 32).find? fun n => decide (s.entKind n = k) && decide ((s.pncEnt n).phase = .granted)

/-- The life cycle lets PNC_CTL and PNC_MT_* be written (R375). -/
def State.pncWritable (s : State) : Bool :=
  let lc := s.fget Reg.sysState Reg.sysState_LC
  decide (lc = 1) || decide (lc = 4)

/-- MT_GO starts the march of a range in DRAM or Stream SRAM, or is refused (R375). -/
def State.mtGo (s : State) : State :=
  let base := s.fget Reg.pncMtBase Reg.pncMtBase_BASE * 64
  let len := s.fget Reg.pncMtLen Reg.pncMtLen_LEN * 64
  let ok := decide (len ≠ 0) && decide (windowOf base = windowOf (base + len - 1)) &&
    (decide (windowOf base = .dram) || decide (windowOf base = .stream))
  if s.fget Reg.pncMtStat Reg.pncMtStat_STATE = 1 then s
  else s.wr Reg.pncMtStat (if ok then 1 else 3)

/-- Due times before now are past: none of them falls due any more (R370, R375). -/
def State.skipDue (s : State) : State :=
  (List.range 32).foldl (fun s n => s.setEnt n { s.pncEnt n with seen := max (s.pncEnt n).seen s.now.toNat }) s

/-- The PNC block's writes that do more than store (R375). -/
def State.pncWrite (s : State) (off : Nat) (wm v : Word) : Option State :=
  let x := v &&& wm
  if off = Reg.pncCtl then
    if !s.pncWritable then some s
    else
      let halted := bit (s.rd off) 6
      let s := s.wr off ((s.rd off &&& ~~~(wm &&& 0x5F)) ||| (x &&& 0x5F))
      let s := if halted && !bit (s.rd off) 6 then s.skipDue else s
      let n := s.fget off Reg.pncCtl_ENTRY
      let e := (s.pncEnt n).phase
      let s := if bit x 5 && decide (n < s.fget Reg.pncSched Reg.pncSched_NENT) && (decide (e = .idle) || decide (e = .deferred)) then s.trySlice n true else s
      some (if bit x 7 then s.mtGo else s)
  else if off = Reg.pncMtBase ∨ off = Reg.pncMtLen then (if s.pncWritable then none else some s)
  else none

/-- PNC_STATUS.SCHED_ACTIVE is computed as of the read. -/
def State.pncRead (s : State) (off : Nat) : Option Word :=
  if off = Reg.pncStatus then some (setBits (s.rd off) 3 1 (b2n s.schedActive)) else none

end Sys2Proof.Machine
end

