-- ==== Sys2Proof/Machine/SysRegs.lean ====
section
/-!
DEFINITION. The SYS and CLK registers that do more than hold bits: sleep, inter-triad interrupts and life-cycle control (R134, R384, R398), the PMIC
controller and the GPIO pins (R422, R423).
-/

namespace Sys2Proof.Machine

/-! ### Life cycle (R397, R398) -/

/-- Change the OTP. -/
def State.modOtp (s : State) (f : Otp → Otp) : State := { s with otp := f s.otp }

/-- The result of a life-cycle request: 1 done, 2 refused, 3 signature failed (SYS_LC_STAT). -/
def State.lcResult (s : State) (r : Nat) : State := s.fset Reg.sysLcStat Reg.sysLcStat_RESULT r

/-- The life-cycle state in force (SYS_STATE.LC). -/
def State.lcNow (s : State) : Nat := s.fget Reg.sysState Reg.sysState_LC

/-- The signature in SYS_LC_RESP0 to SYS_LC_RESP11: r, then s. -/
def State.lcSig (s : State) : List Byte := (List.range 12).flatMap fun n => toLe 8 (SMap.get 0 s.boot.resp n).toNat

/-- The nonce in SYS_LC_CHAL0 to SYS_LC_CHAL3. -/
def State.lcNonce (s : State) : List Byte := (List.range 4).flatMap fun n => toLe 8 (s.rd (Reg.sysLcChal n)).toNat

/-- The signature verifies over a message under the root key that verified the present image (R398). -/
def State.lcSigned (s : State) (tag : List Nat) (tail : List Byte) : Bool :=
  Config.ecdsaP384 s.boot.pub (tag.map (BitVec.ofNat 8) ++ toLe 8 (s.rd Reg.sysId).toNat ++ tail) s.lcSig

/-- OP 1 and OP 3: the transition of OTP under the key (R398). -/
def State.lcKeyed (s : State) (key : Nat) (ok : Bool) (tgt : Nat) : State :=
  if ok && decide (key = 0x4C43) then (s.modOtp fun o => { o with lc := tgt }).lcResult 1 else s.lcResult 2

/-- OP 2: SECURED to RMA under a signature over "RMA1" and SYS_ID; the wrap key is replaced by zeros (R398). -/
def State.lcRma (s : State) : State :=
  if s.lcNow ≠ 2 then s.lcResult 2
  else if s.lcSigned [0x52, 0x4D, 0x41, 0x31] [] then (s.modOtp fun o => { o with lc := 4, wrap := 0 }).lcResult 1
  else s.lcResult 3

/-- OP 4: SECURED to FIELD_DEBUG, at once, under a signature over "DBG1", SYS_ID and a nonce that serves this request alone (R398). -/
def State.lcDebug (s : State) : State :=
  if s.lcNow ≠ 2 ∨ s.fget Reg.sysLcStat Reg.sysLcStat_CHAL_VALID = 0 then s.lcResult 2
  else
    let ok := s.lcSigned [0x44, 0x42, 0x47, 0x31] s.lcNonce
    let s := s.fset Reg.sysLcStat Reg.sysLcStat_CHAL_VALID 0
    if ok then (s.fset Reg.sysState Reg.sysState_LC 3).lcResult 1 else s.lcResult 3

/-- A write of SYS_LC_CTL (R398). -/
def State.lcRequest (s : State) (v : Word) : State :=
  let key := bits v 16 16
  match bits v 0 3 with
  | 1 => s.lcKeyed key (decide (s.lcNow = 1)) 2
  | 2 => s.lcRma
  | 3 => s.lcKeyed key true 5
  | 4 => s.lcDebug
  | _ => s.lcResult 2

/-- A read of SYS_LC_CHAL0 draws a new nonce (R398). -/
def State.drawNonce (s : State) : State :=
  let s := (List.range 4).foldl (fun (s : State) n => let (w, s) := s.fresh; s.wr (Reg.sysLcChal n) w) s
  s.fset Reg.sysLcStat Reg.sysLcStat_CHAL_VALID 1

/-! ### Inter-triad interrupts -/

/-- A triad's write of SYS_IPI sets source 224 + u in every copy of the triads named, where u is the writer (R134, SYS_IPI). -/
def State.ipi (s : State) (init : Nat) (v : Word) : State := if init < 16 then s.irq (bits v 0 16) (224 + init) else s

/-- The SYS block's writes that do more than store; a word write that reaches the other half of SYS_LC_CTL makes no request (R9). -/
def State.sysWrite (s : State) (rq : Rq) (off : Nat) (wm v : Word) : Option State :=
  let x := v &&& wm
  if off = Reg.sysSleep then some (s.sleepRequest rq.init.val x)
  else if off = Reg.sysIpi then some (s.ipi rq.init.val x)
  else if off = Reg.sysLcCtl then some (if bit wm 0 then s.lcRequest x else s)
  else
    (famIx off (Reg.sysLcResp 0) 8 12).map fun n =>
      s.modBoot fun b => { b with resp := SMap.put 0 b.resp n ((SMap.get 0 b.resp n &&& ~~~wm) ||| x) }

/-- The SYS block's reads with an effect. -/
def State.sysRead (s : State) (off : Nat) : Word × State :=
  let s := if off = Reg.sysLcChal 0 then s.drawNonce else s
  (s.rd off, s)

/-! ### The CLK block (R422, R423) -/

/-- The level of every GPIO pin: driven by the device where CLK_GPIO_DIR is 1, by the board elsewhere. -/
def State.gpioSync (s : State) : State :=
  let dir := bits (s.rd Reg.clkGpioDir) 0 32
  let out := bits (s.rd Reg.clkGpioOut) 0 32
  s.wr Reg.clkGpioIn (BitVec.ofNat 64 ((dir &&& out) ||| ((dir ^^^ 0xFFFFFFFF) &&& s.clk.ext % 2 ^ 32)))

/-- The CLK block's writes that do more than store: GO starts a PMIC transfer unless one runs; GPIO writes drive the pins. -/
def State.clkWrite (s : State) (off : Nat) (wm v : Word) : Option State :=
  let x := v &&& wm
  if off = Reg.clkI2cCmd then
    some (if bit x 24 && decide (s.fget Reg.clkI2cStat Reg.clkI2cStat_BUSY = 0) then
        { s with clk := { s.clk with i2c := some x } }.fset Reg.clkI2cStat Reg.clkI2cStat_BUSY 1
      else s)
  else if off = Reg.clkGpioDir ∨ off = Reg.clkGpioOut then
    let m := wm &&& 0xFFFFFFFF
    some (s.wr off ((s.rd off &&& ~~~m) ||| (v &&& m))).gpioSync
  else none

end Sys2Proof.Machine
end

