-- ==== Sys2Proof/Machine/Mmio.lean ====
section
/-!
DEFINITION. Access to the registers of the MMIO blocks (R7 to R9): the access types, the lock bits, the registers whose reads or writes
do more than move bits, and the gated register write that the register rows of the command table perform.
-/

namespace Sys2Proof.Machine

/-- The offset belongs to a family described by a register table row: its index within each dimension is below the count and nothing
is left over. -/
def RegDesc.has (d : RegDesc) (off : Nat) : Bool :=
  decide (d.base ≤ off) &&
  (let x := off - d.base
   let i := x / d.d1.2
   let x := x % d.d1.2
   let j := x / d.d2.2
   let x := x % d.d2.2
   let k := x / d.d3.2
   decide (i < d.d1.1) && decide (j < d.d2.1) && decide (k < d.d3.1) && decide (x % d.d3.2 = 0))

/-- The register at an offset, if there is one (R8). -/
def regAt (off : Nat) : Option RegDesc := regTable.find? (·.has off)

/-- The lock that governs a register's RWL fields is set (R7). -/
def State.regLocked (s : State) (off : Nat) : Bool :=
  match famIx off (Reg.xltRoot 0) 0x40 8 with
  | some c => bit (s.rd (Reg.xltRoot c)) 63
  | none => if off = Reg.edcCtl then decide (s.fget Reg.edcCtl Reg.edcCtl_LOCK = 1) else false

/-- The value a register takes when `v` is written through the byte mask `wm`: RW takes the value, W1C clears, W1S sets, RWL is RW until
its lock is set, everything else keeps (R7, R8). -/
def regNext (d : RegDesc) (locked : Bool) (old wm v : Word) : Word :=
  let rw := (BitVec.ofNat 64 d.rw ||| (if locked then 0 else BitVec.ofNat 64 d.rwl)) &&& wm
  let x := (old &&& ~~~rw) ||| (v &&& rw)
  let x := x &&& ~~~(v &&& wm &&& BitVec.ofNat 64 d.w1c)
  x ||| (v &&& wm &&& BitVec.ofNat 64 d.w1s)

/-- A write to a register without behaviour of its own; an offset that holds no register ignores it (R7, R8). -/
def State.plainWrite (s : State) (off : Nat) (wm v : Word) : State :=
  match regAt off with
  | none => s
  | some d => s.wr off (regNext d (s.regLocked off) (s.rd off) wm v)

/-- A write that has passed its gate reaches a register: the registers with behaviour of their own first, then the plain ones. -/
def State.regWrite (s : State) (rq : Rq) (off : Nat) (wm v : Word) : State :=
  let special : Option State :=
    match off / 0x10000 with
    | 0 => s.sysWrite rq off wm v
    | 1 => s.fcruWrite rq off wm v
    | 2 => s.triWrite rq off wm v
    | 4 => s.fulWrite off wm v
    | 6 => s.gateWrite off wm v
    | 7 => s.memRegWrite off wm v
    | 8 => s.edcWrite off wm v
    | 10 | 11 => s.ethWrite off wm v
    | 12 => s.admWrite off wm v
    | 13 => s.dhpWrite rq off wm v
    | 14 => s.recWrite off wm v
    | 15 => s.timeWrite off wm v
    | 17 => s.pncWrite off wm v
    | 19 => s.clkWrite off wm v
    | _ => none
  special.getD (s.plainWrite off wm v)

/-- A read that has passed its gate: the register's value and the state after the read (R7, R8). -/
def State.regRead (s : State) (_rq : Rq) (off : Nat) : Word × State :=
  match off / 0x10000 with
  | 0 => s.sysRead off
  | 4 => ((s.fulRead off).getD (s.rd off), s)
  | 9 => ((s.ddrRead off).getD (s.rd off), s)
  | 15 => s.timeRead off
  | 17 => ((s.pncRead off).getD (s.rd off), s)
  | _ => (s.rd off, s)

/-- The byte mask of an access of `len` bytes at an offset: the whole register or one half of it (R9). -/
def accMask (off len : Nat) : Word :=
  if len = 8 then BitVec.allOnes 64 else if off % 8 = 4 then 0xFFFFFFFF00000000 else 0xFFFFFFFF

/-- The access is a naturally aligned word or double (R9). -/
def mmioSizeOk (off len : Nat) : Bool := (decide (len = 8) && decide (off % 8 = 0)) || (decide (len = 4) && decide (off % 4 = 0))

/-- An MMIO access at an offset, past its gate. Any but an aligned word or double completes with a bus error and has no effect (R9). -/
def State.mmioAt (s : State) (m : MeshReq) (off : Nat) : Resp × State :=
  if !mmioSizeOk off m.len then ({ status := .denied, data := 0 }, s)
  else
    let r := off / 8 * 8
    let sh := if off % 8 = 4 then 32 else 0
    match m.op with
    | .write => ({ status := .ok, data := 0 }, s.regWrite m.rq r (accMask off m.len) (BitVec.ofNat 64 m.data <<< sh))
    | .read | .fetch =>
      let (v, s) := s.regRead m.rq r
      ({ status := .ok, data := (v.toNat / 2 ^ sh) % 2 ^ (8 * m.len) }, s)
    | _ => ({ status := .denied, data := 0 }, s)

/-- An MMIO access that has passed its gate. -/
def State.mmioAccess (s : State) (m : MeshReq) : Resp × State := s.mmioAt m (m.pa.toNat - paMmio)

/-- A register write of a command row: a double write by a requester, which meets the block's gate first (R172, R177). -/
def State.gatedWrite (s : State) (rq : Rq) (off : Nat) (v : Word) : State :=
  let m : MeshReq := { rq := rq, op := .write, atom := .swap, pa := BitVec.ofNat 44 (paMmio + off), len := 8, data := v.toNat, cmp := 0 }
  match s.gateDenies m with
  | some s' => s'
  | none => s.regWrite rq off (BitVec.allOnes 64) v

/-- A register read of a command row: a double read by a requester, which meets the block's gate first; a denied read returns zero. -/
def State.gatedRead (s : State) (rq : Rq) (off : Nat) : Word × State :=
  let m : MeshReq := { rq := rq, op := .read, atom := .swap, pa := BitVec.ofNat 44 (paMmio + off), len := 8, data := 0, cmp := 0 }
  match s.gateDenies m with
  | some s' => (0, s')
  | none => s.regRead rq off

end Sys2Proof.Machine
end

