-- ==== Sys2Proof/Machine/Target.lean ====
section
/-!
DEFINITION. What the target of a mesh request does once its gate has let it pass: memory reads and writes, atomics at the memory's
controller, LL/SC reservations (R99, R104 to R107, R175).
-/

namespace Sys2Proof.Machine

/-- A granule's reservations of every initiator but one are cleared by a write (R106). -/
def State.breakResv (s : State) (init granule : Nat) : State :=
  { s with resv := (List.range 30).foldl (fun r i =>
      if i ≠ init ∧ SMap.get none r i = some granule then SMap.put none r i none else r) s.resv }

/-- Every DRAM access completes with an uncorrectable-error response until reset: the clock of the DDR domain is lost, or a channel is left
untrained (R389, R406). -/
def State.dramDead (s : State) : Bool :=
  decide (s.fget (Reg.clkPll 5) Reg.clkPll_STOPPED = 1) || decide (s.fget Reg.ddrTrainStat Reg.ddrTrainStat_FAILED ≠ 0)

/-- A unit's bytes of a value read are replaced by free ones: word `i` of the unit, `n` words (R271, R272; log entry 17). -/
def State.freeData (s : State) (pa len u : Nat) : Nat → Nat → Nat × State
  | 0, d => (d, s)
  | n + 1, d =>
    let (d, s) := s.freeData pa len u n d
    let lo := max pa (u + 8 * n)
    let hi := min (pa + len) (u + 8 * n + 8)
    if hi ≤ lo then (d, s)
    else
      let (v, s) := s.fresh
      (lineWrite d (lo - pa) (hi - lo) v.toNat, s)

/-- A data TCM is read through its window (R50, R131, R132, R280): its words are corrected, and an uncorrectable one answers so and raises TCM_UE for
its triad (log entry 164). -/
def State.tcmWindow (s : State) (pa len : Nat) : Resp × State :=
  let k := tcmCopy pa
  let rs := (unitsOf 0 pa len).map fun u => (ArrayId.tcm, u % 0x10000 / 8)
  let s := rs.foldl (fun s r => s.arrayRead k r) s
  match rs.find? fun r => (s.copy k).ue.contains r with
  | some r => ({ status := .ue, data := 0 }, (s.arrayUe (arrayCode k r.1 r.2)).raise (srcTCM_UE (k / 3)))
  | none => ({ status := .ok, data := s.bytes pa len }, s)

/-- Memory is read (R9, R264, R267, R275, R280): the bytes, and the status that the codes of the units read give. -/
def State.memRead (s : State) (pa len : Nat) : Resp × State :=
  match classOf pa with
  | none => s.tcmWindow pa len
  | some k =>
    if decide (k = 3) && s.dramDead then ({ status := .ue, data := 0 }, s)
    else if s.zodBad pa then ({ status := .ue, data := 0 }, s.zodFail)
    else
    let d := s.bytes pa len
    (unitsOf k pa len).foldl (fun (x : Resp × State) u =>
      match x.2.unitRead k u with
      | (.good, s) => (x.1, s)
      | (.ue, s) => ({ status := .ue, data := 0 }, s)
      | (.wrong, s) =>
        if x.1.status = .ue then (x.1, s)
        else
          let (d, s) := s.freeData pa len u (unitSize k / 8) x.1.data
          ({ x.1 with data := d }, s)) ({ status := .ok, data := d }, s)

/-- The copies into which a resynchronisation's engine mirrors the writes of a copy's data TCM: those it rebuilds from the copy, once its copy phase has
ended (R71). -/
def State.mirrors (s : State) (k : Nat) : List Nat :=
  let t := k / 3
  if s.tri t Reg.triStatus_RESYNC_PHASE = 2 ∧ k % 3 = s.leader t then (s.triad t).rebuild.map (copyIx t) else []

/-- One data TCM is written: the words touched are marked written and take fresh codes (R273). -/
def State.tcmStoreOne (s : State) (k off len v : Nat) : State :=
  ((s.setBytes (tcmAddr k off) len v).tcmMark (tcmAddr k off) len).modCopy k fun c =>
    c.mend .tcm (off % 0x10000 / 8) (unitsOf 0 (tcmAddr k off) len).length

/-- A data TCM is written at an address of its window, and the copies that mirror it (R50, R71). -/
def State.tcmStoreAt (s : State) (pa len v : Nat) : State :=
  let k := tcmCopy pa
  let off := pa - tcmAddr k 0
  (s.mirrors k).foldl (fun s j => s.tcmStoreOne j off len v) (s.tcmStoreOne k off len v)

/-- A write to memory is noted by the streams of the other contexts that run (R226). -/
def State.noteForeign (s : State) (init pa len : Nat) : State :=
  { s with ctxs := s.ctxs.map fun e =>
      if e.1 + 16 = init then e else (e.1, { e.2 with strm := e.2.strm.map fun st => { st with foreign := st.foreign ++ [(pa, len)] } }) }

/-- Memory is written by an initiator (R284): the bytes land, their units take fresh codes or merge, a mirrored region's write is captured (R356),
and other initiators' reservations of the granule end. -/
def State.memWrite (s : State) (init pa len v : Nat) : Resp × State :=
  let ok : Resp := { status := .ok, data := 0 }
  match classOf pa with
  | none => (ok, (s.tcmStoreAt pa len v).breakResv init (pa / 64))
  | some k =>
    if decide (k = 3) && s.dramDead then ({ status := .ue, data := 0 }, s)
    else if s.zodBad pa then ({ status := .ue, data := 0 }, s.zodFail)
    else
    let s := s.setBytes pa len v
    let s := (unitsOf k pa len).foldl (fun s u => s.unitWritten k init u (unitMask k u pa len)) s
    (ok, ((s.capture pa len).breakResv init (pa / 64)).noteForeign init pa len)

/-- An atomic at the target memory's controller (R105, R106, R166): the response holds the old value; an SC responds 0 on success and 1
on failure; a compare-and-swap writes only where the old value equals the compare value. -/
def State.memAtomic (s : State) (m : MeshReq) : Resp × State :=
  let pa := m.pa.toNat
  let init := m.rq.init.val
  let granule := pa / 64
  let (r, s) := s.memRead pa m.len
  match m.atom with
  | .ll =>
    match r.status with
    | .ok => (r, { s with resv := SMap.put none s.resv init (some granule) })
    | _ => (r, s)
  | .sc =>
    let held := decide (SMap.get none s.resv init = some granule)
    let s := { s with resv := SMap.put none s.resv init none }
    if held then
      let (w, s) := s.memWrite init pa m.len m.data
      ({ w with data := 0 }, s)
    else ({ status := .ok, data := 1 }, s)
  | .swap | .add | .cas =>
    match r.status with
    | .ok =>
      let new := match m.atom with
        | .add => (r.data + m.data) % 2 ^ (8 * m.len)
        | _ => m.data % 2 ^ (8 * m.len)
      if decide (m.atom = .cas) && decide (r.data ≠ m.cmp % 2 ^ (8 * m.len)) then (r, s)
      else
        let (w, s) := s.memWrite init pa m.len new
        ({ w with data := r.data }, s)
    | _ => (r, s)

/-- The target performs a request (R175). -/
def State.perform (s : State) (m : MeshReq) : Resp × State :=
  if windowOf m.pa.toNat = .mmio then s.mmioAccess m
  else
    match m.op with
    | .read | .fetch | .walkRead => s.memRead m.pa.toNat m.len
    | .write => s.memWrite m.rq.init.val m.pa.toNat m.len m.data
    | .atomic | .walkCas => s.memAtomic m

/-- A request writes. -/
def reqWrites (m : MeshReq) : Bool := match m.op with | .write | .atomic | .walkCas => true | _ => false

/-- A request that has passed its gate must wait for a bank's wake or a region's clear (R252, R265). -/
def State.reqBlocked (s : State) (m : MeshReq) : Bool :=
  !(decide (windowOf m.pa.toNat = .dram) && s.dramDead) && s.memBlocked (reqWrites m) m.pa.toNat

/-- The requests that waited at their targets and wait no longer are performed, in arrival order (R246, R252, R265). -/
def State.serveWaiting (s : State) : State :=
  (s.mesh.flights.filter fun f => !f.done).foldl (fun s f =>
    if s.reqBlocked f.req then s
    else
      let (r, s) := s.perform f.req
      { s with mesh := { s.mesh with
        flights := s.mesh.flights.map fun (x : Flight) => if x.num = f.num then { x with done := true, resp := r } else x } }) s

/-- The target serves a request that has passed its gate (R175). An engine's request that must wait does so within its command, behind the requests that
reached the bank or the region before it (R246, R252, R265; log entry 18). -/
def State.target (s : State) (m : MeshReq) : Resp × State :=
  (if s.reqBlocked m then (s.memReady (reqWrites m) m.pa.toNat).serveWaiting else s).perform m

/-- A request reaches its gate, is evaluated and, if granted, served by its target (R172, R175, R177). -/
def State.serve (s : State) (m : MeshReq) : Resp × State :=
  match s.gateDenies m with
  | some s' => ({ status := .denied, data := 0 }, s')
  | none => s.target m

/-- An access made at an address: served, unless its response timeout has fired (R37, TAG_RESP_TIMEOUT). Then the initiator finds no response, the access
has no effect (R103), and its completion, which carries the epoch before the timeout, is on its way. -/
def State.serveAt (s : State) (m : MeshReq) (a : Word) : Resp × State :=
  let init := m.rq.init.val
  if s.mesh.late.contains (init, a, reqWrites m) then
    let f : Flight :=
      { num := s.mesh.nextNum, gate := gateOf m.pa.toNat, epoch := (SMap.get 0 s.mesh.epochs init + 255) % 256, time := s.ticks, held := false,
        done := true, req := m, resp := { status := .ok, data := 0 }, own := false }
    ({ status := .timeout, data := 0 },
      { s with mesh := { s.mesh with late := s.mesh.late.erase (init, a, reqWrites m), nextNum := s.mesh.nextNum + 1, flights := s.mesh.flights ++ [f] } })
  else s.serve m

/-! ### The memory tag table (R37 to R43) -/

/-- The quota an initiator draws on (SYS_TAGQi). -/
def quotaOf (init : Nat) : Nat :=
  if init < 16 then init else if init < 24 then 16
  else match init with | 24 => 17 | 26 => 17 | 25 => 18 | 27 => 19 | 28 => 20 | _ => 21

/-- The tags a quota holds now. -/
def State.tagsHeld (s : State) (q : Nat) : Nat := (s.mesh.flights.filter fun f => f.held && decide (quotaOf f.req.rq.init.val = q)).length

/-- The shared pool: 4,096 minus the sum of the minima, minus what is drawn above the minima (01, "The memory-operation bound"). -/
def State.tagPool (s : State) : Nat :=
  let mins := (List.range 22).foldl (fun n q => n + s.fget (Reg.sysTagq q) Reg.sysTagq_MIN) 0
  let drawn := (List.range 22).foldl (fun n q => n + (s.tagsHeld q - s.fget (Reg.sysTagq q) Reg.sysTagq_MIN)) 0
  4096 - mins - drawn

/-- The tags that one initiator holds now. -/
def State.tagsOf (s : State) (init : Nat) : Nat := (s.mesh.flights.filter fun f => f.held && decide (f.req.rq.init.val = init)).length

/-- A Fuller context is below its own maximum; every other initiator has the quota's alone (R236). -/
def State.ctxTagFree (s : State) (init : Nat) : Bool :=
  !(decide (16 ≤ init) && decide (init < 24)) ||
    decide (s.tagsOf init < max 1 (s.fget (Reg.fulCTags (init - 16)) Reg.fulCTags_MAX))

/-- An initiator may take a tag: below its maximum, and below its minimum or with the shared pool not empty (R43, R236). -/
def State.tagFree (s : State) (init : Nat) : Bool :=
  let q := quotaOf init
  let n := s.tagsHeld q
  decide (n < max 1 (s.fget (Reg.sysTagq q) Reg.sysTagq_MAX)) &&
    (decide (n < s.fget (Reg.sysTagq q) Reg.sysTagq_MIN) || decide (0 < s.tagPool)) && s.ctxTagFree init

/-- The tag epoch of an initiator (R37): eight bits. -/
def State.epoch (s : State) (init : Nat) : Nat := SMap.get 0 s.mesh.epochs init

/-- Recount SYS_TAGQi.IN_USE of one quota, and for Fuller's FUL_Cc_TAGS.IN_USE of each context (R236). -/
def State.recountTags (s : State) (q : Nat) : State :=
  let s := s.fset (Reg.sysTagq q) Reg.sysTagq_IN_USE (s.tagsHeld q)
  if q = 16 then (List.range 8).foldl (fun s c => s.fset (Reg.fulCTags c) Reg.fulCTags_IN_USE (s.tagsOf (16 + c))) s else s

/-- A request takes a tag, meets its gate and is served, or waits at its target; its response waits to arrive (R175), for an instruction where `own`. -/
def State.issueAs (s : State) (own : Bool) (m : MeshReq) : State :=
  let wait := (s.gateCause m).isNone && s.reqBlocked m
  let (r, s) : Resp × State := if wait then ({ status := .ok, data := 0 }, s.memDemand m.pa.toNat) else s.serve m
  let f : Flight :=
    { num := s.mesh.nextNum, gate := gateOf m.pa.toNat, epoch := s.epoch m.rq.init.val, time := s.ticks, held := true, done := !wait,
      req := m, resp := r, own := own }
  let s := { s with mesh := { s.mesh with nextNum := s.mesh.nextNum + 1, flights := s.mesh.flights ++ [f] } }
  s.recountTags (quotaOf m.rq.init.val)

/-- A request takes a tag and is issued; its response will be delivered to the initiator. -/
def State.meshIssue (s : State) (m : MeshReq) : State := s.issueAs false m

/-- Remove the flight with a number. -/
def State.dropFlight (s : State) (f : Flight) : State :=
  let s := { s with mesh := { s.mesh with flights := s.mesh.flights.filter fun x => decide (x.num ≠ f.num) } }
  s.recountTags (quotaOf f.req.rq.init.val)

/-- Post a request: it takes a tag at once, or waits in the initiator's issue point behind earlier ones (R43). -/
def State.meshPost (s : State) (m : MeshReq) : State :=
  if s.tagFree m.rq.init.val && !(s.mesh.stalled.any fun x => decide (x.rq.init = m.rq.init)) then s.meshIssue m
  else { s with mesh := { s.mesh with stalled := s.mesh.stalled ++ [m] } }

end Sys2Proof.Machine
end

