-- ==== Sys2Proof/Machine/Fence.lean ====
section
/-!
DEFINITION. How a triad executes one instruction: what each copy does by itself, the commit bundle, the comparison of the bundles at the
fence, the one external access that follows, taking a trap, and the commit in every copy (R45 to R56, R96 to R103, R118, R132, R138 to
R141).
-/

namespace Sys2Proof.Machine

/-! ### What one copy does by itself -/

/-- How one half of an access is served: in the copy's own data TCM, by a data-cache line it holds, by a line fill that allocates, or as
an external access of its own (R49, R128, R152, R153). -/
inductive HalfHow where
  | tcm | hit (key : Nat) | fill (key : Nat) | plain
  deriving DecidableEq, Repr

/-- One access, or one half of a split access (R101, R102). -/
structure Half where
  va   : Word
  pa   : Nat
  n    : Nat
  mt   : Nat
  tlbI : Nat
  how  : HalfHow
  deriving DecidableEq, Repr

/-- The kind of a memory access. -/
inductive AccessKind where
  | load | store | atom (op : AtomOp)
  deriving DecidableEq, Repr

/-- An access an instruction makes: its halves, its data, and where a loaded value goes. -/
structure Access where
  kind   : AccessKind
  halves : List Half
  size   : Nat
  data   : Word
  cmp    : Word
  sext   : Bool
  isF    : Bool
  dest   : RegNo
  now    : Bool
  deriving DecidableEq, Repr

/-- The side kinds of a bundle (R47, R48). -/
structure Side where
  kind : Nat
  a    : Nat
  b    : Nat
  c    : Nat
  deriving DecidableEq, Repr

def Side.none : Side := { kind := 0, a := 0, b := 0, c := 0 }

/-- What an instruction does in one copy before the fence decides: the copy with its own results written, the destination and side
effect its bundle shows, the access it wants, its cycle count, the array words it read (R131, R132), and whether it stays at its
instruction, its result still to come (R114); `irq` marks an interrupt entry, which commits a bundle and executes nothing (R138). -/
structure Local where
  copy   : Copy
  trap   : Option TrapInfo
  kind   : Nat
  idx    : Nat
  val    : Word
  fpfl   : Nat
  sides  : List Side
  acc    : Option Access
  nextPc : Option Word
  cycles : Nat
  reads  : List (ArrayId × Nat)
  eret   : Bool
  msync  : Bool
  noLatch : Bool
  stay   : Bool
  irq    : Bool
  deriving DecidableEq, Repr

/-- An instruction with no destination, no side effect and a count of one. -/
def Local.nop (c : Copy) : Local :=
  { copy := c, trap := none, kind := 0, idx := 0, val := 0, fpfl := 0, sides := [Side.none], acc := none, nextPc := none, cycles := 1,
    reads := [], eret := false, msync := false, noLatch := false, stay := false, irq := false }

/-- An instruction that traps. -/
def Local.trapping (c : Copy) (t : TrapInfo) : Local := { Local.nop c with trap := some t }

/-- An instruction that writes an integer register. -/
def Local.toG (c : Copy) (d : RegNo) (v : Word) (cyc : Nat) : Local :=
  { Local.nop (c.setReg d v) with kind := 1, idx := d.toNat, val := if d = 0 then 0 else v, cycles := cyc }

/-- An instruction that writes a floating-point register and raises exception flags. -/
def Local.toF (c : Copy) (d : RegNo) (v fl : Nat) (cyc : Nat) : Local :=
  { Local.nop ((c.setFreg d (BitVec.ofNat 64 v)).addFflags fl) with
    kind := 2, idx := d.toNat, val := BitVec.ofNat 64 v, fpfl := fl, cycles := cyc }

/-! ### Translation and planning of data accesses (R101 to R104, R119, R154) -/

/-- Where an access goes in a copy: data TCM by the self alias, a held line, a fill, or outside (R49, R54, R128, R148, R152, R153). -/
def Copy.planHow (c : Copy) (kind : AccessKind) (pa mt : Nat) (na : Bool) : HalfHow :=
  if isSelf pa then .tcm
  else if mt ≤ 1 ∧ windowOf pa ≠ .mmio then
    match kind, c.dHit pa with
    | .atom _, _ => .plain
    | _, some key => .hit key
    | .load, none =>
      if na then .plain
      else match cacheVictim c.dcache (dSet (pa / 64)) (fun _ => true) with
        | some w => .fill (cacheKey (dSet (pa / 64)) w)
        | none => .plain
    | .store, none => .plain
  else .plain

/-- Translate one half: the TLB index that matches, or none on a miss (R155). -/
def Copy.xlate (c : Copy) (va : Word) : Option (Nat × Word × Nat) :=
  (c.tlbFind (va48 va)).map fun i =>
    let e := c.tlbAt i
    (i, e.pte, leafPa e.pte e.size (va48 va))

/-- The permission kind of an access. -/
def AccessKind.perm : AccessKind → AccKind
  | .load => .load
  | .store => .store
  | .atom _ => .atomic

/-- The access writes, for CAUSE.WRITE: stores, SC and the AMOs (log entry 8). -/
def AccessKind.writes : AccessKind → Bool
  | .load => false
  | .store => true
  | .atom .ll => false
  | .atom _ => true

/-- The halves of an access at an address: one if it lies within an aligned double, otherwise two (R101). -/
def splitVa (va : Word) (n : Nat) : List (Word × Nat) :=
  let o := va.toNat % 8
  if o + n ≤ 8 then [(va, n)] else [(va, 8 - o), (BitVec.ofNat 64 (va.toNat - o + 8), n - (8 - o))]

/-- The first item with a property, with its position. -/
def firstIx {α : Type} (p : α → Bool) : List α → Option (Nat × α)
  | [] => none
  | x :: r => if p x then some (0, x) else (firstIx p r).map fun q => (q.1 + 1, q.2)

/-- Plan an access, or name the trap it takes: misaligned atomic, TLB miss, permission, unaligned device access, atomic target, D, each
step for both halves before the next (R103, R104, R119). -/
def Copy.plan (c : Copy) (kind : AccessKind) (va : Word) (n : Nat) : Except TrapInfo (List Half) :=
  let w := kind.writes
  let aligned := decide (va.toNat % n = 0)
  let isAtom := match kind with | .atom _ => true | _ => false
  if isAtom && !aligned then .error (trapAt cALIGN va w)
  else
    let hs := (splitVa va n).map fun h => (h, c.xlate h.1)
    match firstIx (fun x => x.2.isNone) hs with
    | some (i, x) => .error { trapAt cTLB_MISS_D (BitVec.ofNat 64 (va48 x.1.1)) w with half := i }
    | none =>
      let ts := hs.filterMap fun x => x.2.map fun y => (x.1, y)
      match firstIx (fun x => (permTrap kind.perm c.priv x.2.2.1).isSome) ts with
      | some (i, x) => .error { trapAt ((permTrap kind.perm c.priv x.2.2.1).getD 0) x.1.1 w with half := i }
      | none =>
        match firstIx (fun x => !aligned && decide (4 ≤ effMT (pteMT x.2.2.1) (decide (windowOf x.2.2.2 = .mmio)))) ts with
        | some (i, x) => .error { trapAt cALIGN x.1.1 w with half := i }
        | none =>
          match firstIx (fun x => isAtom && (decide (4 ≤ pteMT x.2.2.1) || isSelf x.2.2.2 ||
              !(decide (windowOf x.2.2.2 = .dram) || decide (windowOf x.2.2.2 = .stream) || decide (windowOf x.2.2.2 = .crown)))) ts with
          | some (i, x) => .error { trapAt cATOMIC_TARGET x.1.1 w with half := i }
          | none =>
            match firstIx (fun x => decide (kind.perm ≠ .load) && !pteD x.2.2.1) ts with
            | some (i, x) => .error { trapAt cDIRTY x.1.1 w with half := i }
            | none => .ok (ts.map fun x =>
                { va := x.1.1, pa := x.2.2.2, n := x.1.2, mt := pteMT x.2.2.1, tlbI := x.2.1,
                  how := c.planHow kind x.2.2.2 (pteMT x.2.2.1) (pteNA x.2.2.1) })

/-- The operation codes of G8 (R100). -/
def accessOp (kind : AccessKind) (two : Bool) (i : Nat) : Nat :=
  match kind with
  | .load => if two then (if i = 0 then 2 else 3) else 0
  | .store => if two then (if i = 0 then 4 else 5) else 1
  | .atom .ll => 6
  | .atom .sc => 7
  | .atom .swap => 8
  | .atom .add => 9
  | .atom .cas => 0xA

/-- The side-effect payload of one half (R48): byte enables within its double, operation, size, memory type and data. -/
def halfSide (acc : Access) (i : Nat) (h : Half) : Side :=
  let k := match acc.kind with
    | .load => 1 | .store => 2 | .atom .ll => 4 | .atom .sc => 4 | .atom _ => 3
  let be := (2 ^ h.n - 1) * 2 ^ (h.pa % 8)
  { kind := k, a := va48 h.va,
    b := h.pa + 2 ^ 44 * be + 2 ^ 52 * accessOp acc.kind (decide (1 < acc.halves.length)) i + 2 ^ 56 * acc.size + 2 ^ 58 * h.mt,
    c := match acc.kind with | .load => 0 | .atom .ll => 0 | _ => acc.data.toNat }

/-- The words of a dirty line, as a clean write reads them (R426). -/
def lineReads (key : Nat) : List (ArrayId × Nat) := (List.range 8).map fun j => (ArrayId.dcache, 8 * key + j)

/-- A fill into a line first writes a dirty victim to memory (R128). -/
def Copy.dirtyAt (c : Copy) (key : Nat) : Bool := (c.dLine key).valid && (c.dLine key).flag

/-- The array words that one half of an access reads in its copy (R426): the TLB entry, the tags of the data cache's set, and the held word; a store of
a whole word reads no data word, and a fill reads its dirty victim. -/
def halfReads (c : Copy) (kind : AccessKind) (h : Half) : List (ArrayId × Nat) :=
  let whole := decide (kind = .store) && decide (h.n = 8)
  let tags := if decide (h.mt ≤ 1) && decide (windowOf h.pa ≠ .mmio) && !isSelf h.pa then
    (List.range 4).map fun w => (ArrayId.dtag, cacheKey (dSet (h.pa / 64)) w) else []
  (ArrayId.tlb, h.tlbI) :: tags ++ (match h.how with
    | .tcm => if whole then [] else [(ArrayId.tcm, h.pa % 0x10000 / 8)]
    | .hit key => if whole then [] else [(ArrayId.dcache, 8 * key + h.pa % 64 / 8)]
    | .fill key => if c.dirtyAt key then lineReads key else []
    | .plain => [])

/-- The array words that an access reads in its copy. -/
def accessReads (c : Copy) (kind : AccessKind) (hs : List Half) : List (ArrayId × Nat) := hs.flatMap (halfReads c kind)

/-- The side effects of a clean write of a line, operation 0xB, one for each 64-bit word (R48, R100; log entry 163). -/
def cleanSides (c : Copy) (key : Nat) : List Side :=
  (List.range 8).map fun j =>
    { kind := 2, a := 0, b := (c.dLine key).line * 64 + 8 * j + 2 ^ 44 * 0xFF + 2 ^ 52 * 0xB + 2 ^ 56 * 3,
      c := lineBytes (c.dLine key).data (8 * j) 8 }

/-- The side effects of one half: the clean write of its fill's victim, then its own (R48, R128). -/
def halfSides (c : Copy) (acc : Access) (i : Nat) (h : Half) : List Side :=
  (match h.how with
    | .fill key => if c.dirtyAt key then cleanSides c key else []
    | _ => []) ++ [halfSide acc i h]

/-- An access returns a value to a register. -/
def AccessKind.returns : AccessKind → Bool
  | .store => false
  | _ => true

/-- An instruction that accesses memory: the trap its plan names, or the planned access (R94: count 1, or 2 if split). -/
def Local.access (c : Copy) (acc : Access) (va : Word) : Local :=
  match c.plan acc.kind va (2 ^ acc.size) with
  | .error t => Local.trapping c t
  | .ok hs =>
    let acc := { acc with halves := hs }
    { Local.nop c with
      acc := some acc, cycles := hs.length, reads := accessReads c acc.kind hs,
      kind := if acc.kind.returns then (if acc.isF then 2 else 1) else 0, idx := if acc.kind.returns then acc.dest.toNat else 0,
      sides := ((List.range hs.length).zipWith (fun i h => halfSides c acc i h) hs).flatten }

/-! ### The commit bundle (R47) -/

/-- A commit bundle: the eleven compared groups. -/
structure Bundle where
  g0  : BitVec 14
  g1  : BitVec 16
  g2  : BitVec 47
  g3  : BitVec 7
  g4  : BitVec 64
  g5  : BitVec 13
  g6  : BitVec 3
  g7  : BitVec 48
  g8  : BitVec 64
  g9  : BitVec 64
  g10 : BitVec 69
  deriving DecidableEq, Repr

/-- The bundles of one instruction in one copy, one for each half of a split access and each word of a clean write (R47, R102): `c` is the copy before
the instruction. A trap leaves the flags and CC as they were; an interrupt entry shows them as they stand (R138). -/
def bundlesOf (c : Copy) (count : Nat) (g : Guard) (l : Local) : List Bundle :=
  let last := l.sides.length - 1
  let after := if l.trap.isSome || l.irq then c else if l.noLatch then l.copy else g.latch l.copy
  let pend := match c.pend with
    | some (_, i, v) => BitVec.ofNat 69 (i.toNat + 32 * v.toNat)
    | none => 0
  (List.range l.sides.length).zipWith (fun i sd =>
    { g0 := BitVec.ofNat 14 (1 + 2 * b2n (decide (g.len = 4)) + 4 * c.priv + 16 * ((l.trap.map (·.code)).getD 0) +
        1024 * b2n l.trap.isSome + 2048 * b2n l.eret + 4096 * b2n l.irq + 8192 * b2n l.msync)
      g1 := BitVec.ofNat 16 count
      g2 := BitVec.ofNat 47 (va48 c.pc / 2)
      g3 := if i = last then BitVec.ofNat 7 (l.kind + 4 * l.idx) else 0
      g4 := if i = last then l.val else 0
      g5 := BitVec.ofNat 13 (8 * b2n after.flags.n + 4 * b2n after.flags.z + 2 * b2n after.flags.c + b2n after.flags.v +
          16 * after.cc + 256 * l.fpfl)
      g6 := BitVec.ofNat 3 sd.kind
      g7 := BitVec.ofNat 48 sd.a
      g8 := BitVec.ofNat 64 sd.b
      g9 := BitVec.ofNat 64 sd.c
      g10 := if i = last then pend else 0 }) l.sides

/-- One bit of one group flipped, after the delay register (R60). -/
def Bundle.flip (b : Bundle) (grp n : Nat) : Bundle :=
  match grp with
  | 0 => { b with g0 := b.g0 ^^^ BitVec.twoPow 14 n }
  | 1 => { b with g1 := b.g1 ^^^ BitVec.twoPow 16 n }
  | 2 => { b with g2 := b.g2 ^^^ BitVec.twoPow 47 n }
  | 3 => { b with g3 := b.g3 ^^^ BitVec.twoPow 7 n }
  | 4 => { b with g4 := b.g4 ^^^ BitVec.twoPow 64 n }
  | 5 => { b with g5 := b.g5 ^^^ BitVec.twoPow 13 n }
  | 6 => { b with g6 := b.g6 ^^^ BitVec.twoPow 3 n }
  | 7 => { b with g7 := b.g7 ^^^ BitVec.twoPow 48 n }
  | 8 => { b with g8 := b.g8 ^^^ BitVec.twoPow 64 n }
  | 9 => { b with g9 := b.g9 ^^^ BitVec.twoPow 64 n }
  | _ => { b with g10 := b.g10 ^^^ BitVec.twoPow 69 n }

/-- The groups in which two bundles differ, as the bits of TRI_MISMATCH.GROUPS. -/
def Bundle.diff (x y : Bundle) : Nat :=
  b2n (x.g0 != y.g0) + 2 * b2n (x.g1 != y.g1) + 4 * b2n (x.g2 != y.g2) + 8 * b2n (x.g3 != y.g3) + 16 * b2n (x.g4 != y.g4) +
  32 * b2n (x.g5 != y.g5) + 64 * b2n (x.g6 != y.g6) + 128 * b2n (x.g7 != y.g7) + 256 * b2n (x.g8 != y.g8) +
  512 * b2n (x.g9 != y.g9) + 1024 * b2n (x.g10 != y.g10)

/-- The groups in which two lists of bundles differ; lists of different length differ in their control group. -/
def diffAll : List Bundle → List Bundle → Nat
  | [], [] => 0
  | x :: r, y :: q => x.diff y ||| diffAll r q
  | _, _ => 1

/-- What the fence decides on an aligned set of bundles, given with their copies (R52). -/
inductive Verdict where
  /-- released -/
  | release
  /-- released, the odd copy isolated; the groups in which it differs -/
  | odd (c groups : Nat)
  /-- withheld; the groups and copies that differ -/
  | withhold (groups copies : Nat)
  deriving DecidableEq, Repr

/-- The comparison outcomes of R52 for the live copies' bundles. -/
def verdict : List (Nat × List Bundle) → Verdict
  | [(a, x), (b, y), (c, z)] =>
    if x = y then (if y = z then .release else .odd c (diffAll z x))
    else if x = z then .odd b (diffAll y x)
    else if y = z then .odd a (diffAll x y)
    else .withhold (diffAll x y ||| diffAll x z) 7
  | [(a, x), (b, y)] => if x = y then .release else .withhold (diffAll x y) (2 ^ a + 2 ^ b)
  | _ => .release

/-! ### Entry (R137 to R141) -/

/-- Double words placed in a copy's own data TCM from an offset on. -/
def State.tcmPut (s : State) (k off : Nat) : List Word → State
  | [] => s
  | v :: r => (s.setBytes (tcmAddr k off) 8 v.toNat).tcmPut k (off + 8) r

/-- Double words written to a copy's own data TCM, and to the copies that mirror it: they are marked written and take fresh codes (R71, R131, R273). -/
def State.tcmWrite (s : State) (k off : Nat) (ws : List Word) : State :=
  let one (s : State) (j : Nat) : State :=
    ((s.tcmPut j off ws).tcmMark (tcmAddr j off) (8 * ws.length)).modCopy j fun c => c.mend .tcm (off % 0x10000 / 8) ws.length
  (s.mirrors k).foldl one (one s k)

/-- A double word of a copy's own data TCM. -/
def State.tcmRead (s : State) (k off : Nat) : Word := BitVec.ofNat 64 (s.bytes (tcmAddr k off) 8)

/-- The pending load value is written (R96, R97). -/
def Copy.flushPend (c : Copy) : Copy :=
  match c.pend with
  | some (f, i, v) => { c.setFile f i v with pend := none }
  | none => c

/-- The offset of the next entry frame (R139). -/
def Copy.frameOff (c : Copy) (depth : Nat) : Nat := bits c.icStk 12 4 * 0x1000 + 128 * depth

/-- The frame DEPTH (IC_STK.DEPTH). -/
def Copy.depth (c : Copy) : Nat := bits c.icStk 16 6

/-- The routing of a source: its level and its MON bit (IC_LVLn). -/
def Copy.srcLevel (c : Copy) (src : Nat) : Nat := bits (SMap.get 0 c.icLvl (src / 8)) (8 * (src % 8)) 4
def Copy.srcMon (c : Copy) (src : Nat) : Bool := bit (SMap.get 0 c.icLvl (src / 8)) (8 * (src % 8) + 4)

/-- Push a level and its source: the innermost handler (IC_STATE). -/
def Copy.pushLevel (c : Copy) (lvl src : Nat) : Copy :=
  let w := setBits (setBits (setBits (setBits c.icState 0 4 lvl) 4 1 1) (5 + lvl) 1 1) 21 8 src
  { c with icState := w, icSources := src :: c.icSources }

/-- The highest level on the active-level stack of an IC_STATE value, below a bound. -/
def topLevel (w : Word) : Nat → Option Nat
  | 0 => none
  | n + 1 => if bit w (5 + n) then some n else topLevel w n

/-- Pop the top level (IC_STATE): the handler below becomes the innermost one. -/
def Copy.popLevel (c : Copy) : Copy :=
  let w := setBits c.icState (5 + bits c.icState 0 4) 1 0
  let srcs := c.icSources.tail
  match topLevel w 16 with
  | some l => { c with icState := setBits (setBits w 0 4 l) 21 8 (srcs.headD 0), icSources := srcs }
  | none => { c with icState := setBits (setBits (setBits w 0 4 0) 4 1 0) 21 8 0, icSources := srcs }

/-- What an entry is for: a trap, or an interrupt source. -/
inductive EntryFor where
  | trap (t : TrapInfo)
  | irq (src : Nat)
  deriving DecidableEq, Repr

/-- The level a trap is taken at: the higher of the current level and the one TROUTE selects (R140). -/
def Copy.trapLevel (c : Copy) (code : Nat) : Nat := max c.priv (if bit c.troute code then 2 else 1)

/-- The TCM offset of the vector of an entry (R137). -/
def Copy.vectorOff (c : Copy) (e : EntryFor) : Nat :=
  bits c.vectb 12 4 * 0x1000 + (match e with
    | .trap t => (if c.trapLevel t.code = 2 then 0x200 else 0) + 8 * t.code
    | .irq src => 0x400 + 8 * src)

/-- The architectural state an entry leaves (R118, R138 to R140): PRIV, CAUSE and the fault addresses, DEPTH, and for an interrupt the
pushed level and the cleared latch. -/
def Copy.entered (c : Copy) (e : EntryFor) (pc : Word) : Copy :=
  let c := { c with pc := pc, icStk := setBits c.icStk 16 6 (c.depth + 1), cycle := c.cycle + 12, status := .run, slot := false }
  match e with
  | .trap t =>
    let cause := BitVec.ofNat 64 (t.code + 64 * b2n t.partialSt + 128 * t.half + 256 * b2n t.isWrite + 512 * t.trapno)
    let c := { c with psr := setBits c.psr 8 2 (c.trapLevel t.code), cause := cause }
    if t.code = cTLB_MISS_I ∨ t.code = cTLB_MISS_D then { c with tlbMissVa := t.va }
    else if t.code = cALIGN ∨ (cPERM_X ≤ t.code ∧ t.code ≤ cATOMIC_TARGET) then { c with faultVa := t.va }
    else c
  | .irq src =>
    let lvl := c.srcLevel src
    let c := { c with psr := setBits c.psr 8 2 (if c.srcMon src then 2 else max 1 c.priv), cause := 0 }
    (c.pushLevel lvl src).clrLatch src

/-- The array word that an entry reads: its vector (R426). -/
def Copy.vectorWord (c : Copy) (e : EntryFor) : ArrayId × Nat := (ArrayId.tcm, c.vectorOff e % 0x10000 / 8)

/-- Take an exception in one copy: the one operation behind every trap and interrupt entry (R138 to R140). `pc` is the program counter
the frame saves. An entry that finds DEPTH = 32 writes nothing, sets OVF and stops the copy until reset (R139). An uncorrectable vector
word cannot trap: it raises TCM_UE for a live copy and stops the copy (R132). -/
def State.takeEntry (s : State) (k : Nat) (e : EntryFor) (pc : Word) : State :=
  let c := (s.copy k).flushPend
  if 32 ≤ c.depth then s.setCopy k { c with icStk := setBits c.icStk 22 1 1, status := .dead }
  else if c.ue.contains (c.vectorWord e) then
    (let s := s.setCopy k { c with status := .dead }
     if s.live (k / 3) (k % 3) then (s.arrayUe (arrayCode k .tcm (c.vectorWord e).2)).raise (srcTCM_UE (k / 3)) else s)
  else
    let tag := match e with
      | .trap _ => 0
      | .irq src => 2 ^ 55 * src + 2 ^ 63
    let frame := pc :: BitVec.ofNat 64 (bits c.psr 0 11 + tag) ::
      (List.range 14).map fun i => SMap.get 0 c.g (i + 1)
    let vec := s.tcmRead k (c.vectorOff e)
    let s := s.setCopy k (c.entered e vec)
    let s := s.tcmWrite k (c.frameOff c.depth) frame
    { s with resv := SMap.put none s.resv (k / 3) none }

/-! ### Uncorrectable words of a copy's own arrays (R132) -/

/-- The source an array's error raises: CACHE_UE, or TCM_UE for the data TCM. -/
def ueSrc (t : Nat) (a : ArrayId) : Nat := if a = .tcm then srcTCM_UE t else srcCACHE_UE t

/-- Two compared copies, one reading an uncorrectable word: the fence withholds, the group stops, and a RUN device degrades (R52, R132). -/
def State.ueStop (s : State) (t : Nat) (a : ArrayId) : State :=
  let s := s.raise (ueSrc t a)
  let s := if s.mode t = 0 then s.resyncAbandon t true else s
  (s.stopTriad t).degrade

/-- The live copies of a group that read an uncorrectable word, each with the array and the word: with three live copies the first is isolated, and the
group goes on; with two, or where a second copy reads one too, the group stops (R52, R132). -/
def State.groupUe (s : State) (t : Nat) : List (Nat × ArrayId × Nat) → Bool × State
  | [] => (true, s)
  | (c, a, i) :: more =>
    let s := s.arrayUe (arrayCode (copyIx t c) a i)
    if (s.liveCopies t).length = 3 then
      let s := s.oddCopy t c (ueSrc t a)
      match more with
      | [] => (true, s)
      | (c', a', i') :: _ => (false, (s.arrayUe (arrayCode (copyIx t c') a' i')).ueStop t a')
    else (false, s.ueStop t a)

/-- Copies of a triad enter, each for a reason and with the program counter of its own. The vectors are read first (R131, R426): in a group an
uncorrectable one is that of a compared copy (R132). -/
def State.enterAll (s : State) (t : Nat) (es : List (Nat × EntryFor × Word)) : State :=
  let rs := (es.filter fun x => decide ((s.copy (copyIx t x.1)).depth < 32)).map fun x => (x.1, (s.copy (copyIx t x.1)).vectorWord x.2.1)
  let s := rs.foldl (fun s x => s.arrayRead (copyIx t x.1) x.2) s
  let bad := rs.filter fun x => s.groupMode t && s.live t x.1 && (s.copy (copyIx t x.1)).ue.contains x.2
  match s.groupUe t bad with
  | (false, s) => s
  | (true, s) =>
    (es.filter fun x => !(bad.any fun y => decide (y.1 = x.1))).foldl (fun s x => s.takeEntry (copyIx t x.1) x.2.1 x.2.2) s

/-- The program counter a trap's frame saves: the trapping instruction's, or the following one for TRAP (R108, R118). -/
def Copy.trapPc (c : Copy) (t : TrapInfo) : Word := if t.code = cTRAP then c.pc + 4 else c.pc

/-- Every listed copy of a triad takes the trap its own execution names (R118, R141). -/
def State.trapCopies (s : State) (t : Nat) (ts : List (Nat × TrapInfo)) : State :=
  s.enterAll t (ts.map fun x => (x.1, .trap x.2, (s.copy (copyIx t x.1)).trapPc x.2))

/-! ### The external access of a released instruction (R53, R99, R102, R103, R128) -/

/-- The mesh request of a released transaction. -/
def coreReq (t tag : Nat) (op : MeshOp) (atom : AtomOp) (pa len data cmp : Nat) : MeshReq :=
  { rq := { init := Fin.ofNat 30 t, tag := BitVec.ofNat 2 tag }, op := op, atom := atom, pa := BitVec.ofNat 44 pa, len := len, data := data,
    cmp := cmp }

/-- The bytes of a store that one half carries. -/
def halfData (acc : Access) (i : Nat) : Nat :=
  match acc.halves with
  | [h, h'] => if i = 0 then acc.data.toNat % 2 ^ (8 * h.n) else acc.data.toNat / 2 ^ (8 * h.n) % 2 ^ (8 * h'.n)
  | _ => acc.data.toNat % 2 ^ (8 * 2 ^ acc.size)

/-- In VOTE mode every cacheable store is written through; in PAIR and SPLIT the page's type applies (R54, R128). -/
def State.writeBack (s : State) (t mt : Nat) : Bool := decide (s.mode t ≠ 0) && decide (mt = 0)

/-- Update a held line in every listed copy. -/
def State.updateLines (s : State) (t : Nat) (ks : List Nat) (h : Half) (v : Nat) (dirty : Bool) : State :=
  s.forCopies t ks fun c => match c.dHit h.pa with
    | some key => let l := c.dLine key
      (c.setDLine key { l with data := lineWrite l.data (h.pa % 64) h.n v, flag := l.flag || dirty }).mend .dcache (8 * key + h.pa % 64 / 8) 1
    | none => c

/-- The bounds of the stall of an external access by its target class (R129): a DRAM read that was read once more, and a DRAM write that waited for its
region's clear, have longer ones. -/
def classBounds (op : MeshOp) (pa : Nat) (again waited : Bool) : Nat × Nat :=
  match windowOf pa with
  | .crown => (16, 16)
  | .code => (16, 40)
  | .stream => (20, 96)
  | .tcm => (24, 112)
  | .dram => (80, if op = .write then (if waited then 5600 else 1600) else (if again then 2400 else 1600))
  | .mmio => if 1 ≤ mmioBlock pa ∧ mmioBlock pa ≤ 3 then (16, 48) else (24, 400)

/-- Every executing copy stalls for the same number of cycles, a free value within the bounds (R53, R129; log entry 4). -/
def State.stall (s : State) (t : Nat) (ks : List Nat) (b : Nat × Nat) : State :=
  let n := b.1 + Config.freeStall s.free % (b.2 - b.1 + 1)
  { s.forCopies t ks (fun c => { c with cycle := c.cycle + BitVec.ofNat 64 n }) with free := s.free + 1 }

/-- A read of DRAM finds a line that it reads once more (R37, R280). -/
def State.readsAgain (s : State) (m : MeshReq) : Bool :=
  decide (windowOf m.pa.toNat = .dram) && (unitsOf 3 m.pa.toNat m.len).any fun u => s.cleared (ddrRegion u) &&
    (s.latent.lines.contains u || decide (s.codeSays 3 u = .ue) || decide (s.codeSays 3 u = .beyond))

/-- What an access in progress has got so far: the requests that have their response, with it. -/
abbrev Got := List (MeshReq × Resp)

/-- One request of a released access (R53, R252, R265): its response, once; or none, where it waits for a bank or a region behind the requests that came
there before it, holding a tag. A request whose response timeout has fired gets none (R37). `a` is the address the instruction names. -/
def State.coreServe (s : State) (t : Nat) (ks : List Nat) (got : Got) (m : MeshReq) (a : Word) : Option Resp × Got × State :=
  match got.find? fun x => decide (x.1 = m) with
  | some x => (some x.2, got, s)
  | none =>
    match s.mesh.flights.find? fun f => f.own && decide (f.req = m) with
    | some f =>
      if f.epoch ≠ s.epoch m.rq.init.val then
        (some { status := .timeout, data := 0 }, got, { s with mesh := { s.mesh with
          flights := s.mesh.flights.map fun (x : Flight) => if x.num = f.num then { x with own := false } else x } })
      else if f.done then
        (some f.resp, got ++ [(m, f.resp)], (s.dropFlight f).stall t ks (classBounds m.op m.pa.toNat false true))
      else (none, got, s)
    | none =>
      if !s.mesh.late.contains (m.rq.init.val, a, reqWrites m) && (s.gateCause m).isNone && s.reqBlocked m then (none, got, s.issueAs true m)
      else
        let again := s.readsAgain m
        let (r, s) := s.serveAt m a
        (some r, got ++ [(m, r)], s.stall t ks (classBounds m.op m.pa.toNat again false))

/-- The response of a request that is not made. -/
def Resp.fine : Resp := { status := .ok, data := 0 }

/-- Write back a dirty victim before a fill (R128). -/
def State.victimClean (s : State) (t tag : Nat) (ks : List Nat) (got : Got) (c : Copy) (key : Nat) : Option Resp × Got × State :=
  let l := c.dLine key
  if c.dirtyAt key then s.coreServe t ks got (coreReq t tag .write .swap (l.line * 64) 64 l.data 0) (BitVec.ofNat 64 (l.line * 64))
  else (some Resp.fine, got, s)

/-- What follows a response that reports no error. -/
def onOk (x : Option Resp × Got × State) (f : Resp → State → State) : Option Resp × Got × State :=
  match x with
  | (some r, got, s) => if r.status = .ok then (some r, got, f r s) else (some r, got, s)
  | (none, got, s) => (none, got, s)

/-- One half of an access as the fence releases it: the response, with the shared data of an external read; none where it waits. -/
def State.accessHalf (s : State) (t tag : Nat) (ks : List Nat) (acc : Access) (i : Nat) (h : Half) (got : Got) : Option Resp × Got × State :=
  let lead := s.copy (copyIx t (ks.headD 0))
  let write (s : State) := s.coreServe t ks got (coreReq t tag .write .swap h.pa h.n (halfData acc i) 0) h.va
  match acc.kind, h.how with
  | .load, .plain => s.coreServe t ks got (coreReq t tag .read .swap h.pa h.n 0 0) h.va
  | .load, .fill key =>
    (match s.victimClean t tag ks got lead key with
     | (some r0, got, s) =>
       if r0.status ≠ .ok then (some r0, got, s)
       else
         let line := h.pa / 64
         onOk (s.coreServe t ks got (coreReq t tag .read .swap (line * 64) 64 0 0) h.va) fun r s =>
           s.forCopies t ks fun c => c.fillDLine key { valid := true, flag := false, line := line, data := r.data, age := 0 }
     | x => x)
  | .load, .hit key => (some Resp.fine, got, s.forCopies t ks fun c => c.setDLine key (c.dLine key))
  | .load, .tcm => (some Resp.fine, got, s)
  | .store, .tcm => (some Resp.fine, got, s)
  | .store, .hit _ =>
    if s.writeBack t h.mt then (some Resp.fine, got, s.updateLines t ks h (halfData acc i) true)
    else onOk (write s) fun _ s => s.updateLines t ks h (halfData acc i) false
  | .store, _ => write s
  | .atom op, _ =>
    onOk (s.coreServe t ks got (coreReq t tag .atomic op h.pa h.n acc.data.toNat acc.cmp.toNat) h.va) fun _ s =>
      s.forCopies t ks fun c => match c.dHit h.pa with
        | some key => c.dropDLine key
        | none => c

/-- The trap of a failed response (R118). -/
def respTrap (st : RespStatus) : Nat :=
  match st with
  | .denied => cBUS_ERR
  | .ue => cBUS_UE
  | .timeout => cBUS_TIMEOUT
  | .ok => 0

/-- The store halves that go to each copy's own data TCM (R49). -/
def State.tcmStore (s : State) (k : Nat) (acc : Access) (i : Nat) (h : Half) : State :=
  match acc.kind, h.how with
  | .store, .tcm => s.tcmStoreAt (tcmAddr k (h.pa % 0x10000)) h.n (halfData acc i)
  | _, _ => s

/-- How an access ends: with the shared data of its halves, with a trap, or not yet. -/
inductive AccessOut where
  | done (data : List Nat)
  | trap (t : TrapInfo)
  | waits
  deriving DecidableEq, Repr

/-- What the accesses in progress of a copy tag have got. -/
def State.gotOf (s : State) (t tag : Nat) : Got := (s.triad t).got.filter fun x => decide (x.1.rq.tag.toNat = tag)

/-- The access in progress of a copy tag keeps what it has got while it waits, and nothing once it has ended. -/
def State.setGot (s : State) (t tag : Nat) (got : Got) : State :=
  if s.gotOf t tag = got then s
  else s.modTriad t fun x => { x with got := x.got.filter (fun x => decide (x.1.rq.tag.toNat ≠ tag)) ++ got }

/-- All halves in order: the second is issued only after the first has its response, and an error ends the access with the half and the
partial store it names (R102, R103). Each copy's own TCM bytes are written with its half. `n` is the number of halves gone before. -/
def State.accessAll (s : State) (t tag : Nat) (ks : List Nat) (accs : List (Nat × Access)) (acc : Access) (got : Got) :
    List Half → Nat → List Nat → AccessOut × State
  | [], _, data => (.done data, s.setGot t tag [])
  | h :: r, i, data =>
    match s.accessHalf t tag ks acc i h got with
    | (none, got, s) => (.waits, s.setGot t tag got)
    | (some resp, got, s) =>
      if resp.status ≠ .ok then
        let part := decide (acc.kind = .store) && decide (i = 1)
        (.trap { trapAt (respTrap resp.status) h.va acc.kind.writes with half := i, partialSt := part }, s.setGot t tag [])
      else
        let s := accs.foldl (fun s x => s.tcmStore (copyIx t x.1) x.2 i h) s
        s.accessAll t tag ks accs acc got r (i + 1) (data ++ [resp.data])

/-- The bytes of one half as a copy reads them: its own TCM, its own line, or the shared response. -/
def State.halfValue (s : State) (k : Nat) (h : Half) (shared : Nat) : Nat :=
  match h.how with
  | .tcm => s.bytes (tcmAddr k (h.pa % 0x10000)) h.n
  | .hit key => lineBytes ((s.copy k).dLine key).data (h.pa % 64) h.n
  | .fill key => lineBytes ((s.copy k).dLine key).data (h.pa % 64) h.n
  | .plain => shared % 2 ^ (8 * h.n)

/-- The value an access loads into a copy's register: the halves joined, then sign- or zero-extended (R94, R105). -/
def State.loaded (s : State) (k : Nat) (acc : Access) (got : List Nat) : Word :=
  let raw := match acc.halves, got with
    | [h], [x] => s.halfValue k h x
    | [h, h'], [x, x'] => s.halfValue k h x + 2 ^ (8 * h.n) * s.halfValue k h' x'
    | _, _ => 0
  if acc.sext then BitVec.ofInt 64 (signed (8 * 2 ^ acc.size) raw) else BitVec.ofNat 64 raw

/-! ### Commit -/

/-- The copy with the condition latch applied, unless the instruction writes CC itself (R87, R92). -/
def Local.latched (l : Local) (g : Guard) : Copy := if l.noLatch then l.copy else g.latch l.copy

/-- Commit one instruction in one copy: CC latch, pending load written, program counter, counts (R92, R96). -/
def Copy.retire (c : Copy) (g : Guard) (l : Local) : Copy :=
  if l.stay then { c with status := l.copy.status, cycle := c.cycle + BitVec.ofNat 64 l.cycles }
  else
  let x := l.latched g
  let x := x.flushPend
  { x with
    pc := l.nextPc.getD (c.pc + BitVec.ofNat 64 g.len)
    slot := false
    instret := x.instret + 1
    cycle := c.cycle + BitVec.ofNat 64 l.cycles
    ue := x.ue.filter fun r => c.ue.contains r
    ce := x.ce.filter fun r => c.ce.contains r
    lru := if l.acc.isSome then c.lru else x.lru
    dcache := if l.acc.isSome then c.dcache else x.dcache }

/-- The value of a load becomes pending, or for a patch entry's load is written at once (R96, R117); a g0 destination leaves nothing
pending, but the next instruction is in the load's delay slot all the same (R97). AMOCAS sets Z (R105). -/
def Copy.takeLoad (c : Copy) (acc : Access) (v : Word) : Copy :=
  let c := match acc.kind with
    | .atom .cas =>
      let n := 2 ^ (8 * 2 ^ acc.size)
      c.setFlags { c.flags with z := decide (v.toNat % n = acc.cmp.toNat % n) }
    | _ => c
  if acc.now then c.setFile acc.isF acc.dest v
  else if !acc.isF && decide (acc.dest = 0) then { c with pend := none, slot := true }
  else { c with pend := some (acc.isF, acc.dest, v), slot := true }

/-- Count one committed instruction of the group (TRI_COMMIT_COUNT): in SPLIT and DEBUG_SPLIT the lowest live copy's (02). -/
def State.countCommit (s : State) (t c : Nat) (grp : Bool) : State :=
  if grp || decide (c = s.leader t) then s.fadd (Reg.triCommitCount t) Reg.triCommitCount_COUNT 1 else s

/-! ### The array words an instruction reads (R131, R132, R426) -/

/-- The halfword at the program counter, in a copy whose current line is held. -/
def Copy.half0 (c : Copy) : Nat := lineBytes c.fCur.data (va48 c.pc % 32) 2

/-- Word `j` of an F-stage line is held with the mark of an uncorrectable word. -/
def FLine.badAt (l : FLine) (j : Nat) : Option (ArrayId × Nat) := (l.bad.find? fun x => decide (x.1 = j)).map (·.2)

/-- The instruction at the program counter uses a word held with the mark of an uncorrectable word: the address of the halfword, and the array word or
entry (R88, R426). -/
def Copy.fetchBad (c : Copy) : Option (Word × ArrayId × Nat) :=
  let o := va48 c.pc % 32
  if bit c.pc 0 || !c.fCur.valid || decide (c.fCur.va ≠ va48 c.pc / 32) then none
  else
    match c.fCur.badAt (o / 8) with
    | some r => some (c.pc, r)
    | none =>
      if c.half0 % 4 ≠ 3 then none
      else if o + 2 < 32 then (c.fCur.badAt ((o + 2) / 8)).map fun r => (c.pc + 2, r)
      else if c.fNext.valid then (c.fNext.badAt 0).map fun r => (c.pc + 2, r)
      else none

/-- The reads of the copies' arrays by one instruction: what they find is corrected and logged (R131). -/
def State.noteReads (s : State) (t : Nat) (ls : List (Nat × Local)) : State :=
  ls.foldl (fun s x => x.2.reads.foldl (fun s r => s.arrayRead (copyIx t x.1) r) s) s

/-- The copies that read an uncorrectable word, with the array and the word. -/
def ueHits (s : State) (t : Nat) (ls : List (Nat × Local)) : List (Nat × ArrayId × Nat) :=
  ls.filterMap fun x =>
    let c := s.copy (copyIx t x.1)
    match c.fetchBad with
    | some (_, r) => some (x.1, r)
    | none => (x.2.reads.find? fun r => c.ue.contains r).map fun r => (x.1, r)

/-! ### Running one instruction -/

/-- An access of a triad under a copy tag is in progress: it waits at its target, or has got a part of what it needs. -/
def State.inAccess (s : State) (t : Nat) (p : Nat → Bool) : Bool :=
  ((s.triad t).got.any fun x => p x.1.rq.tag.toNat) || ((s.triad t).drain.any fun x => p x.1) ||
    s.mesh.flights.any fun f => f.own && decide (f.req.rq.init.val = t) && p f.req.rq.tag.toNat

/-- The triad's instruction in progress goes on: it is released, not stopped, in no pause and no mode transition (R52, R72, R79). -/
def State.triadWaits (s : State) (t : Nat) : Bool :=
  (s.triad t).released && decide (s.tri t Reg.triStatus_STOPPED = 0) && (s.triad t).trans.isNone &&
    decide (s.tri t Reg.triStatus_RESYNC_PHASE < 3)

/-- The triad can execute: nothing is executed, fetched or agreed from the boundary at which a pause is requested on, but for an instruction in progress
there (R52, R72, R79). -/
def State.triadRuns (s : State) (t : Nat) : Bool :=
  s.triadWaits t && (decide (s.tri t Reg.triStatus_RESYNC_PHASE < 2) || s.inAccess t fun _ => true)

/-- A copy executes instructions. -/
def State.copyRuns (s : State) (t c : Nat) : Bool := decide ((s.copy (copyIx t c)).status = .run)

/-- The copies that execute a command: every executing copy of a group, or the one copy named (R45, R56). -/
def State.runners (s : State) (w : Who) : List Nat :=
  if !s.triadRuns w.t.val then []
  else if s.groupMode w.t.val then (s.executing w.t.val).filter (s.copyRuns w.t.val)
  else if s.live w.t.val w.c.num && s.copyRuns w.t.val w.c.num then [w.c.num] else []

/-- The copy tag of a released transaction (R56). -/
def State.copyTag (s : State) (w : Who) : Nat := if s.groupMode w.t.val then 3 else w.c.num

/-- Flip the armed bit in the named copy's next valid bundle (R60). -/
def State.applyInject (s : State) (t : Nat) (bs : List (Nat × List Bundle)) : List (Nat × List Bundle) × State :=
  match (s.triad t).inject with
  | none => (bs, s)
  | some (grp, c, n) =>
    if bs.any (fun x => decide (x.1 = c)) then
      (bs.map fun x => if x.1 = c then (x.1, match x.2 with | b :: r => b.flip grp n :: r | [] => []) else x,
        s.modTriad t fun x => { x with inject := none })
    else (bs, s)

/-- The instruction of one copy before the fence: the traps of fetch and encoding come first, then the condition (R90, R91, R119). -/
def localOf (g : Guard) (undef : Bool) (skip body : Copy → Local) (c : Copy) : Local :=
  if bit c.pc 0 then Local.trapping c (trapAt cALIGN c.pc false)
  else if undef || g.undef then Local.trapping c (trapOf cUNDEF)
  else if g.holds c then body c else skip c

/-- The halves of an access that leave the triad (R49): all but those in the copy's own data TCM, loads from a line it holds, and stores that only mark
one dirty. -/
def State.outside (s : State) (t : Nat) (acc : Access) : List Half :=
  acc.halves.filter fun h => match acc.kind, h.how with
    | _, .tcm => false
    | .load, .hit _ => false
    | .store, .hit _ => !s.writeBack t h.mt
    | _, _ => true

/-- One released copy commits: its own results, and the value of its access, if it returns one (R92, R96). -/
def State.commitOne (s : State) (t : Nat) (g : Guard) (got : List Nat) (x : Nat × Local) : State :=
  let k := copyIx t x.1
  let c := (s.copy k).retire g x.2
  s.setCopy k (match x.2.acc with
    | some acc => if acc.kind.returns then c.takeLoad acc (s.loaded k acc got) else c
    | none => c)

/-- How a released instruction ends: committed, trapped, or not yet. -/
inductive Ended where
  | committed | trapped | waits
  deriving DecidableEq, Repr

/-- The copies take their trap, or the one access is made and they commit (R53, R99, R118). -/
def State.commitAll (s : State) (t tag : Nat) (g : Guard) (ls : List (Nat × Local)) : Ended × State :=
  match ls with
  | [] => (.waits, s)
  | (_, l0) :: _ =>
    match l0.trap with
    | some _ => (.trapped, s.trapCopies t (ls.filterMap fun x => x.2.trap.map fun ti => (x.1, ti)))
    | none =>
      let ks := ls.map (·.1)
      let (res, s) := match l0.acc with
        | some acc => s.accessAll t tag ks (ls.filterMap fun (x : Nat × Local) => x.2.acc.map fun a => (x.1, a)) acc (s.gotOf t tag) acc.halves 0 []
        | none => (.done [], s)
      match res with
      | .waits => (.waits, s)
      | .trap ti => (.trapped, s.trapCopies t (ks.map fun c => (c, ti)))
      | .done got => (.committed, ls.foldl (fun s x => s.commitOne t g got x) s)

/-- What follows the fence's release: the instruction ends in every executing copy, and a commit is counted (TRI_COMMIT_COUNT); or it waits. -/
def State.release (s : State) (w : Who) (g : Guard) (ls : List (Nat × Local)) : State × Bool :=
  let t := w.t.val
  match s.commitAll t (s.copyTag w) g ls, ls with
  | (.committed, s), (c, l0) :: _ => (if l0.stay then s else s.countCommit t c (s.groupMode t), true)
  | (.trapped, s), _ => (s, true)
  | (_, s), _ => (s, false)

/-- The request of a load of GATE_DRAIN, with the gate (R179). -/
def Access.drain (t tag : Nat) (acc : Access) : Option (Nat × MeshReq) :=
  match acc.kind, acc.halves with
  | .load, [h] =>
    if windowOf h.pa = .mmio then
      (famIx ((h.pa - paMmio) / 8 * 8) (Reg.gateDrain 0) 0x800 27).map fun g => (g, coreReq t tag .read .swap h.pa h.n 0 0)
    else none
  | _, _ => none

/-- A load of GATE_DRAIN notes, once it has passed the GATE block's own gate, the requests that have passed the gate and not completed; it waits for
them and for no later ones, and reads their number (R179). The answer is whether it waits. -/
def State.drainStep (s : State) (t tag : Nat) (l : Local) : Bool × State :=
  match l.acc.bind (·.drain t tag) with
  | none => (false, s)
  | some (g, m) =>
    if (s.gateCause m).isSome then (false, s)
    else
      match (s.triad t).drain.find? fun x => decide (x.1 = tag) && decide (x.2.1 = g) with
      | none =>
        let nums := (s.mesh.flights.filter fun f => decide (f.gate = g)).map (·.num)
        if nums.isEmpty then (false, s.fset (Reg.gateDrain g) Reg.gateDrain_WAITED 0)
        else (true, s.modTriad t fun x => { x with drain := x.drain ++ [(tag, g, nums)] })
      | some (a, b, nums) =>
        if s.mesh.flights.any fun f => nums.contains f.num then (true, s)
        else (false, (s.modTriad t fun y => { y with drain := y.drain.filter fun z => decide (z ≠ (a, b, nums)) }).fset (Reg.gateDrain g)
          Reg.gateDrain_WAITED nums.length)

/-- A context takes no further packet: its queue is full and a packet waits in the crossing (R191). -/
def State.crossingFull (s : State) (c : Nat) : Bool := decide (16 ≤ (s.ctx c).queue.length + (s.ctx c).crossing.length)

/-- An instruction stalls at the fence: its triad has no tag for an access that leaves it and is not under way (R43, R44), or the context of its issue
packet takes none (R113). -/
def State.stalls (s : State) (t tag : Nat) (l : Local) : Bool :=
  ((match l.acc with | some acc => !(s.outside t acc).isEmpty | none => false) && !(s.inAccess t fun x => decide (x = tag)) && !s.tagFree t) ||
    l.sides.any fun x => decide (x.kind = 6) && s.crossingFull (x.a / 2 ^ 32)

/-- An instruction that the fence lets go: it stalls behind the compare (R44), or waits in a drain (R179); otherwise it is released. -/
def State.letGo (s : State) (w : Who) (g : Guard) (ls : List (Nat × Local)) : State × Bool :=
  let t := w.t.val
  let tag := s.copyTag w
  match ls with
  | [] => (s, false)
  | (_, l0) :: _ =>
    if l0.trap.isSome then s.release w g ls
    else if s.stalls t tag l0 then (s, false)
    else
      match s.drainStep t tag l0 with
      | (true, s) => (s, false)
      | (false, s) => s.release w g ls

/-- The instruction completes inside its copy: nothing of it passes the fence (R49). -/
def State.inside (s : State) (t : Nat) (l : Local) : Bool :=
  match l.acc with
  | some acc => (s.outside t acc).isEmpty
  | none => l.sides.all fun x => decide (x.kind = 0)

/-- One copy completes an instruction of which nothing passes the fence, whatever the fence decides on the copies' bundles (R49). -/
def State.finishOne (s : State) (t : Nat) (g : Guard) (ls : List (Nat × Local)) (c : Nat) : State :=
  match ls.find? fun x => decide (x.1 = c) with
  | none => s
  | some x =>
    match x.2.trap with
    | some ti => s.takeEntry (copyIx t c) (.trap ti) ((s.copy (copyIx t c)).trapPc ti)
    | none => if s.inside t x.2 then (s.commitAll t 3 g [x]).2 else s

/-- The bundles of the live copies are compared (R52): whether they are released. What the odd copy, or every copy of bundles withheld, does by itself,
`finish` completes. -/
def State.compare (s : State) (t : Nat) (fetch : Bool) (finish : State → Nat → State) (bs : List (Nat × List Bundle)) : Bool × State :=
  match verdict bs with
  | .release => (true, s)
  | .odd c groups =>
    (true, ((finish s c).recordMismatch t (if fetch then 0 else groups) (2 ^ c) fetch).oddCopy t c (srcODD_COPY t))
  | .withhold groups copies =>
    (false, ((bs.foldl (fun s x => finish s x.1) s).recordMismatch t (if fetch then 0 else groups) copies fetch).pairMismatch t)

/-- The Conformer and the fence on one aligned set of bundles (R13, R52, R58, R132): whether it is released to the copies still in the group. Instances that
disagree, and a faulty checker, withhold it and stop the group. A spare's bundles and errors decide nothing (R55). -/
def State.fence (s : State) (t : Nat) (fetch : Bool) (hits : List (Nat × ArrayId × Nat)) (finish : State → Nat → State)
    (bs : List (Nat × List Bundle)) : Bool × State :=
  let bs := bs.filter fun x => s.live t x.1
  let hits := hits.filter fun x => s.live t x.1
  let well := bs.filter fun x => !(hits.any fun y => decide (y.1 = x.1))
  if s.latent.conf.contains t then
    (false, (well.foldl (fun s x => finish s x.1) (s.raise (srcCONFORMER_FAULT t))).stopTriad t)
  else
    match s.groupUe t hits with
    | (false, s) => (false, well.foldl (fun s x => finish s x.1) s)
    | (true, s) => s.compare t fetch finish well

/-- A SPLIT copy's instruction reads an uncorrectable word of the copy's arrays (R132): it traps BUS_UE at the address of the access or the fetch, and an
ERET stops the copy. Of a split access the first half is done before the second reads its word (R103). -/
def State.splitUe (s : State) (t tag c : Nat) (l : Local) (r : ArrayId × Nat) : State :=
  let k := copyIx t c
  let x := s.copy k
  let found (s : State) : State := (s.arrayUe (arrayCode k r.1 r.2)).raise (ueSrc t r.1)
  match x.fetchBad with
  | some (va, _) => (found s).trapCopies t [(c, trapAt cBUS_UE va false)]
  | none =>
    if l.eret then (found s).modCopy k fun y => { y with status := .dead }
    else
      match l.acc with
      | none => (found s).trapCopies t [(c, trapAt cBUS_UE (if l.kind = 3 then l.val else x.pc) false)]
      | some acc =>
        let i := ((acc.halves.findIdx? fun h => (halfReads x acc.kind h).contains r).getD 0)
        let va := (acc.halves[i]?.map (·.va)).getD x.pc
        let before := if r.1 = .tlb then [] else acc.halves.take i
        match s.accessAll t tag [c] [(c, acc)] acc (s.gotOf t tag) before 0 [] with
        | (.waits, s) => s
        | (.trap ti, s) => s.trapCopies t [(c, ti)]
        | (.done _, s) =>
          (found s).trapCopies t [(c, { trapAt cBUS_UE va acc.kind.writes with
            half := i, partialSt := decide (acc.kind = .store) && decide (i = 1) && decide (before ≠ []) })]

/-- Run one instruction in listed copies: each copy by itself, its arrays read, then the bundles pass the Conformer and the fence, and what
the fence lets go is released, or waits (R13, R44, R52, R132). The second component says whether the instruction ended. -/
def State.runOn (s : State) (w : Who) (ks : List Nat) (g : Guard) (undef : Bool) (skip body : State → Nat → Copy → Local) : State × Bool :=
  let t := w.t.val
  let count := bits (s.rd (Reg.triCommitCount t)) 0 16
  let ls := ks.map fun c => (c, localOf g undef (skip s (copyIx t c)) (body s (copyIx t c)) (s.copy (copyIx t c)))
  let s := s.noteReads t ls
  let hits := ueHits s t ls
  let (bs, s) := s.applyInject t (ls.map fun x => (x.1, bundlesOf (s.copy (copyIx t x.1)) count g x.2))
  if !s.groupMode t then
    match hits, ls with
    | (c, r) :: _, (_, l) :: _ => (s.splitUe t (s.copyTag w) c l r, false)
    | _, _ => s.letGo w g ls
  else
    match s.fence t false hits (fun s c => s.finishOne t g ls c) bs with
    | (true, s') => s'.letGo w g (ls.filter fun x => s'.live t x.1 || !s.live t x.1)
    | (false, s') => (s', false)

/-- Run one instruction in the copies that execute it. -/
def State.runInstr (s : State) (w : Who) (g : Guard) (undef : Bool) (skip body : State → Nat → Copy → Local) : State × Bool :=
  s.runOn w (s.runners w) g undef skip body

/-- Run one instruction and, where it was released and executed without a trap, apply what follows from it outside the copies; `post`
gets the released copies and the first of them as it was before the instruction. -/
def State.runThen (s : State) (w : Who) (g : Guard) (undef : Bool) (body : State → Nat → Copy → Local)
    (post : List Nat → Copy → State → State) : State :=
  let t := w.t.val
  let ks := s.runners w
  let r := s.runInstr w g undef (fun _ _ c => Local.nop c) body
  let left := ks.filter fun c => r.1.live t c || !s.live t c
  match left with
  | [] => r.1
  | x :: _ =>
    let k := copyIx t x
    let c := s.copy k
    if r.2 && !bit c.pc 0 && !undef && !g.undef && g.holds c && (body s k c).trap.isNone then post left c r.1 else r.1

/-- The copies that run a command fetch and decode its instruction without a trap, and its condition is true: it executes (R91, R118). -/
def State.executes (s : State) (w : Who) (g : Guard) : Bool :=
  match s.runners w with
  | [] => false
  | x :: _ =>
    let c := s.copy (copyIx w.t.val x)
    !bit c.pc 0 && !g.undef && g.holds c

/-- An instruction that acts in its copies alone or through one access. -/
def State.run (s : State) (w : Who) (g : Guard) (undef : Bool) (body : Copy → Local) : State :=
  (s.runInstr w g undef (fun _ _ c => Local.nop c) (fun _ _ c => body c)).1

end Sys2Proof.Machine
end

