-- ==== Sys2Proof/Machine/Alu.lean ====
section
/-!
DEFINITION. The integer instructions (R93, R94): ALU, immediates, shifts, multiply and divide.
-/

namespace Sys2Proof.Machine

/-- The outcome of a command. -/
abbrev Out : Type := Host.Outcome State Fault Refusal

/-- An ALU result written to `d`, with its flags where S = 1 (R93). -/
def Local.alu (c : Copy) (sf : Bool) (d : RegNo) (r : Word) (f : Nzcv) : Local :=
  let l := Local.toG c d r 1
  if sf then { l with copy := l.copy.setFlags f } else l

/-- ADD, ADC, SUB, SBC, and the 16-bit MOV, ADD, SUB and CMP (R94, R95). -/
def execAddAdcSubSbc (w : Who) (g : Guard) (fn : AddOp) (sf : Bool) (d a b : RegNo) (s : State) : Out :=
  .next (s.run w g false fun c =>
    let r := addResult fn (c.reg a) (c.reg b) c.flags.c
    Local.alu c sf d r.1 r.2)

/-- AND, OR, XOR, ANDN, ORN, and the 16-bit AND (R94, R95). -/
def execAndOrXorAndnOrn (w : Who) (g : Guard) (fn : LogicOp) (sf : Bool) (d a b : RegNo) (s : State) : Out :=
  .next (s.run w g false fun c =>
    let r := logicResult fn (c.reg a) (c.reg b)
    Local.alu c sf d r (logicFlags r))

/-- SLL, SRL, SRA and ROR by b[5:0] (R94). -/
def execSllSrlSraRor (w : Who) (g : Guard) (fn : ShiftOp) (sf : Bool) (d a b : RegNo) (s : State) : Out :=
  .next (s.run w g false fun c =>
    let n := bits (c.reg b) 0 6
    Local.alu c sf d (shiftResult fn (c.reg a) n) (shiftFlags fn (c.reg a) n))

/-- MIN, MAX, MINU and MAXU (R94). -/
def execMinMaxMinuMaxu (w : Who) (g : Guard) (fn : MinMaxOp) (sf : Bool) (d a b : RegNo) (s : State) : Out :=
  .next (s.run w g false fun c =>
    let r := minMaxResult fn (c.reg a) (c.reg b)
    Local.alu c sf d r (logicFlags r))

/-- SEXTB to ZEXTW; b must be 0 (R90, R94). -/
def execSextZext (w : Who) (g : Guard) (fn : ExtOp) (sf : Bool) (d a b : RegNo) (s : State) : Out :=
  .next (s.run w g (decide (b ≠ 0)) fun c =>
    let r := extResult fn (c.reg a)
    Local.alu c sf d r (logicFlags r))

/-- CLZ, CTZ, POPC and REV; b must be 0 (R90, R94). -/
def execClzCtzPopcRev (w : Who) (g : Guard) (fn : CountOp) (sf : Bool) (d a b : RegNo) (s : State) : Out :=
  .next (s.run w g (decide (b ≠ 0)) fun c =>
    let r := countResult fn (c.reg a)
    Local.alu c sf d r (logicFlags r))

/-- SLT and SLTU (R94). -/
def execSltSltu (w : Who) (g : Guard) (uns sf : Bool) (d a b : RegNo) (s : State) : Out :=
  .next (s.run w g false fun c =>
    let r := sltResult uns (c.reg a) (c.reg b)
    Local.alu c sf d r (logicFlags r))

/-- ADDI, ANDI, ORI and XORI, and the 16-bit ADDI and ADDSP; no flag changes (R93 to R95). The operand is wide enough for ADDSP's simm10 × 8. -/
def execAddiAndiOriXori (w : Who) (g : Guard) (fn : ImmOp) (d a : RegNo) (imm : BitVec 13) (s : State) : Out :=
  .next (s.run w g false fun c => Local.toG c d (immResult fn (c.reg a) (imm.signExtend 64)) 1)

/-- SHI: a shifted by an immediate amount; imm[27:26] must be 0 (R90, R94). -/
def execShi (w : Who) (g : Guard) (fn : ShiftOp) (sf : Bool) (d a : RegNo) (amt : BitVec 6) (z : BitVec 2) (s : State) : Out :=
  .next (s.run w g (decide (z ≠ 0)) fun c =>
    Local.alu c sf d (shiftResult fn (c.reg a) amt.toNat) (shiftFlags fn (c.reg a) amt.toNat))

/-- CMPI: flags from a − imm; d must be 0 (R90, R94). -/
def execCmpi (w : Who) (g : Guard) (d a : RegNo) (imm : BitVec 11) (s : State) : Out :=
  .next (s.run w g (decide (d ≠ 0)) fun c =>
    Local.nop (c.setFlags (addResult .sub (c.reg a) (imm.signExtend 64) false).2))

/-- MOVI: the sign-extended immediate (R94). -/
def execMovi (w : Who) (g : Guard) (d : RegNo) (imm : BitVec 16) (s : State) : Out :=
  .next (s.run w g false fun c => Local.toG c d (imm.signExtend 64) 1)

/-- MOVH: (d << 16) | imm16 (R94). -/
def execMovh (w : Who) (g : Guard) (d : RegNo) (imm : BitVec 16) (s : State) : Out :=
  .next (s.run w g false fun c => Local.toG c d ((c.reg d <<< 16) ||| imm.setWidth 64) 1)

/-- MUL, MULH and MULHU: 2 cycles (R94). -/
def execMulMulhMulhu (w : Who) (g : Guard) (fn : MulOp) (d a b : RegNo) (s : State) : Out :=
  .next (s.run w g false fun c => Local.toG c d (mulResult fn (c.reg a) (c.reg b)) 2)

/-- DIV, DIVU, REM and REMU: 34 cycles. An interrupt at an abandon point is an IAU_AGREEMENT command that comes before this one: the
abandoned instruction changes nothing and its PC is stacked (R94, R98). -/
def execDivDivuRemRemu (w : Who) (g : Guard) (fn : DivOp) (d a b : RegNo) (s : State) : Out :=
  .next (s.run w g false fun c => Local.toG c d (divResult fn (c.reg a) (c.reg b)) 34)

end Sys2Proof.Machine
end

