-- ==== Sys2Proof/Machine/MeshCmds.lean ====
section
/-!
DEFINITION. The mesh and the memory tag table as commands (R37 to R43, R172, R175): requests, stalls and responses.
-/

namespace Sys2Proof.Machine

/-- The requests an initiator has waiting at its issue point. -/
def State.waiting (s : State) (init : Nat) : List MeshReq := s.mesh.stalled.filter fun m => decide (m.rq.init.val = init)

/-- Remove the first waiting request of an initiator. -/
def dropFirst (init : Nat) : List MeshReq → List MeshReq
  | [] => []
  | m :: r => if m.rq.init.val = init then r else m :: dropFirst init r

/-- TAG_ISSUE: the oldest request an initiator has stalled issues when a tag is free for it (R43). -/
def execTagIssue (init : Fin 30) (s : State) : Out :=
  match s.waiting init.val with
  | m :: _ =>
    if s.tagFree init.val then
      .next ({ s with mesh := { s.mesh with stalled := dropFirst init.val s.mesh.stalled } }.meshIssue m)
    else .next s
  | [] => .next s

/-- The gate whose drain a request reads (R179). -/
def drainOf (m : MeshReq) : Option Nat :=
  if decide (m.op = .read) && decide (windowOf m.pa.toNat = .mmio) then famIx (m.pa.toNat - paMmio) (Reg.gateDrain 0) 0x800 27 else none

/-- A read of GATE_DRAIN notes the gate's evaluation point: the requests that have passed it and not completed (R179). -/
def State.drainStart (s : State) (rq : Rq) (g : Nat) : State :=
  let wait := (s.mesh.flights.filter fun f => decide (f.gate = g)).map (·.num)
  { s with mesh := { s.mesh with drains := s.mesh.drains ++ [{ rq := rq, gate := g, wait := wait }] } }

/-- A response is delivered to its initiator. -/
def State.answer (s : State) (init : Nat) (r : Resp) : State :=
  { s with mesh := { s.mesh with last := SMap.put { status := .ok, data := 0 } s.mesh.last init r } }

/-- MESH_REQUEST: a request takes a tag, meets its gate and is served, or stalls at its initiator's issue point (R43, R172, R175). A read
of GATE_DRAIN that passes its gate answers later (R179). -/
def execMeshRequest (m : MeshReq) (s : State) : Out :=
  match drainOf m with
  | some g =>
    (match s.gateDenies m with
     | some s' => .next (s'.answer m.rq.init.val { status := .denied, data := 0 })
     | none => .next (s.drainStart m.rq g))
  | none => .next (s.meshPost m)

/-- The initiator is a triad that has stopped. -/
def State.triadStopped (s : State) (init : Nat) : Bool := decide (init < 16) && decide (s.tri init Reg.triStatus_STOPPED = 1)

/-- MESH_RESPONSE: the oldest outstanding response of an initiator arrives. One older than 64 µs is discarded by the mesh (R38); one that
carries an older epoch is discarded and raises TAG_LATE_DISCARD for the initiator (R37); any other is delivered. One that an instruction of a triad
waits for goes to that instruction, unless the triad has stopped. -/
def execMeshResponse (init : Fin 30) (s : State) : Out :=
  match s.mesh.flights.find? fun f => f.done && decide (f.req.rq.init = init) && (!f.own || s.triadStopped init.val) with
  | none => .next s
  | some f =>
    let s := s.dropFlight f
    if 64000 < s.ticks - f.time then .next s
    else if f.epoch ≠ s.epoch init.val then .next (s.raiseFor 0x147 (some init.val))
    else .next (s.answer init.val f.resp)

/-- An initiator's tag epoch advances (R37): eight bits. -/
def State.nextEpoch (s : State) (init : Nat) : State :=
  { s with mesh := { s.mesh with epochs := SMap.put 0 s.mesh.epochs init ((s.epoch init + 1) % 256) } }

/-- The flight with a number gives up its tag. -/
def State.releaseTag (s : State) (num : Nat) : State :=
  { s with mesh := { s.mesh with
    flights := s.mesh.flights.map fun (x : Flight) => if x.num = num then { x with held := false } else x } }

/-- MESH_VC_STALL: a virtual-channel head has not advanced for 10 µs; nothing else is specified (R41). -/
def execMeshVcStall (s : State) : Out := .next (s.raise 0x144)

end Sys2Proof.Machine
end

