-- ==== Sys2Proof/Machine/DevIo.lean ====
section
/-!
DEFINITION. Memory accesses of the units that are no triad and no Fuller context (R172, R173): granule by granule, through the gates, each
served within the command; and timestamps of the device time (R292, R344).
-/

namespace Sys2Proof.Machine

/-- The initiators that are units (table "Initiator IDs"). -/
def iETH : Fin 30 := 24
def iDHP : Fin 30 := 25
def iREC : Fin 30 := 26
def iTWIN : Fin 30 := 27
def iPNC : Fin 30 := 28

/-- A range of bytes cut at 64-byte granules (R174). -/
def granules (pa len : Nat) : List (Nat × Nat) :=
  ((List.range ((pa % 64 + len + 63) / 64)).map fun i =>
    let a := if i = 0 then pa else (pa / 64 + i) * 64
    (a, min (pa + len) ((pa / 64 + i + 1) * 64) - a)).filter fun g => decide (0 < g.2)

/-- A unit's request for a part of a granule. -/
def unitReq (init : Fin 30) (op : MeshOp) (pa len data : Nat) : MeshReq :=
  { rq := { init := init, tag := 0 }, op := op, atom := .swap, pa := BitVec.ofNat 44 pa, len := len, data := data, cmp := 0 }

/-- A unit writes a byte string to memory. -/
def State.devWrite (s : State) (init : Fin 30) (pa : Nat) (d : List Byte) : State :=
  (granules pa d.length).foldl (fun s (a, n) => (s.serve (unitReq init .write a n (leNat ((d.drop (a - pa)).take n)))).2) s

/-- A unit reads bytes of memory: the bytes, or none where a response reports an error. -/
def State.devRead (s : State) (init : Fin 30) (pa len : Nat) : Option (List Byte) × State :=
  (granules pa len).foldl (fun (x : Option (List Byte) × State) (a, n) =>
    match x.2.serve (unitReq init .read a n 0) with
    | (r, s) => (match x.1, r.status with
      | some d, .ok => some (d ++ toLe n r.data)
      | _, _ => none, s)) (some [], s)

/-- The timestamp that lies `age` quarter-nanoseconds before now. -/
def State.stampAt (s : State) (age : Nat) : Stamp :=
  let q := s.time.quarters - age
  { sec := q / 4000000000 % 2 ^ 48, ns := q / 4 % 1000000000, q := q % 4 }

/-- A timestamp as a device nanosecond count (R342). -/
def Stamp.count (t : Stamp) : Nat := (t.sec * 1000000000 + t.ns) % 2 ^ 64

/-- The first eleven bytes of a descriptor or record header: NS, SEC and FRAC, little-endian (R301, R334). -/
def Stamp.bytes (t : Stamp) : List Byte := toLe 4 t.ns ++ toLe 6 t.sec ++ toLe 1 t.q

end Sys2Proof.Machine
end

