-- ==== Sys2Proof/Machine/TwinOps.lean ====
section
/-!
DEFINITION. The twin's shared operations (R352 to R363): sending and receiving Zhegus frames, the loss of the link, journal and bulk traffic,
hand-over and takeover.
-/

namespace Sys2Proof.Machine

/-! ### Sending (R353) -/

/-- The header of the next frame. -/
def State.zHdr (s : State) (nak : Bool) : ZHdr :=
  { fseq := BitVec.ofNat 12 s.twin.fseq, ack := BitVec.ofNat 12 (s.twin.rseq + 4095), nak := nak,
    epoch := BitVec.ofNat 16 (s.tw Reg.twinStatus_EPOCH), role := BitVec.ofNat 3 (s.tw Reg.twinStatus_ROLE), op := BitVec.ofNat 3 s.opstate,
    safe := BitVec.ofNat 4 (s.fget Reg.fcruStatus Reg.fcruStatus_SAFE_ASSERTED) }

/-- The link carries frames from this device: UP, its transmitter not stopped (R18, R363). -/
def State.zCarries (s : State) : Bool := decide (s.tw Reg.twinStatus_LINK = 2) && !s.twin.silent

/-- The window has room for another frame (R353). -/
def State.zRoom (s : State) : Bool := s.zCarries && decide (s.twin.unacked.length < 64)

/-- A frame is sent and joins the retry window. -/
def State.zPut (s : State) (nak : Bool) (b : ZBody) : State :=
  let f : ZFrame := { hdr := s.zHdr nak, body := b }
  s.modTwin fun x => { x with fseq := (x.fseq + 1) % 4096, unacked := x.unacked ++ [(f, 0)], sent := x.sent ++ [f] }

/-- A frame is sent if the link carries it and the window has room. -/
def State.zSend (s : State) (b : ZBody) : State := if s.zRoom then s.zPut false b else s

/-- A heartbeat: the time and the last JSEQ applied (R354). -/
def State.heartbeat (s : State) : ZBody := .heartbeat s.time (s.fget Reg.twinJrnPos Reg.twinJrnPos_APPLIED)

/-- The link goes down for retraining: the frames in the window are lost, and a primary's mirror with them (R353, R354, R358). -/
def State.zDown (s : State) (state : Nat) : State :=
  let s := (s.fset Reg.twinStatus Reg.twinStatus_LINK state).fset Reg.twinStatus Reg.twinStatus_LANES 0
  let s := s.modTwin fun x => { x with unacked := [], fseq := 0, rseq := 0, lanes := 0 }
  if s.tw Reg.twinStatus_PEER_ROLE = 2 then s.fset Reg.twinStatus Reg.twinStatus_PEER_ROLE 3 else s

/-! ### Receiving (R353, R355) -/

/-- The frames acknowledged leave the window; the rest stay. -/
def acked (ack : Nat) (l : List (ZFrame × Nat)) : List (ZFrame × Nat) :=
  l.filter fun e => decide (64 ≤ (ack + 4096 - e.1.hdr.fseq.toNat) % 4096)

/-- Every frame of the window is sent again and its count rises (R353). -/
def State.zResend (s : State) : State :=
  if s.twin.silent then s
  else
  let n := s.twin.unacked.length
  let s := s.modTwin fun x => { x with unacked := x.unacked.map fun e => (e.1, e.2 + 1), sent := x.sent ++ x.unacked.map (·.1) }
  s.fsat Reg.twinLinkStat Reg.twinLinkStat_RETX n

/-- The partner's role as its header gives it; a standby that is not synchronised stays SYNCING (PEER_ROLE). -/
def State.peerSeen (s : State) (role : Nat) : State :=
  if (role = 2 ∨ role = 3) ∧ s.tw Reg.twinStatus_ROLE = 1 then s else s.fset Reg.twinStatus Reg.twinStatus_PEER_ROLE role

/-- A frame arrives: discarded while the link is down, under an older epoch (counted) and out of sequence; a newer epoch is adopted. The state
after, if the frame is taken (R353). -/
def State.zTake (s : State) (h : ZHdr) : Bool × State :=
  let mine := s.tw Reg.twinStatus_EPOCH
  if s.tw Reg.twinStatus_LINK ≠ 2 then (false, s)
  else if h.epoch.toNat < mine then (false, s.fsat Reg.twinLinkStat Reg.twinLinkStat_EPOCH_DISCARD 1)
  else
    let s := s.fset Reg.twinStatus Reg.twinStatus_EPOCH h.epoch.toNat
    let s := s.modTwin fun x => { x with unacked := acked h.ack.toNat x.unacked }
    let s := if h.nak then s.zResend else s
    if h.fseq.toNat ≠ s.twin.rseq then (false, s)
    else (true, (s.modTwin fun x => { x with rseq := (x.rseq + 1) % 4096 }).peerSeen h.role.toNat)

/-! ### Mirroring (R357, R358) -/

/-- A synchronisation has ended once its copy has ended and every entry captured until then has been applied (R358). -/
def State.bulkCheck (s : State) : State :=
  match s.twin.bulkEnd with
  | some j =>
    if (s.fget Reg.twinJrnPos Reg.twinJrnPos_APPLIED + 2 ^ 32 - j) % 2 ^ 32 < 2 ^ 31 then
      ((s.modTwin fun x => { x with bulkEnd := none }).fset Reg.twinBulk Reg.twinBulk_ACTIVE 0).fset Reg.twinStatus Reg.twinStatus_PEER_ROLE 2
    else s
  | none => s

/-- The bytes of the mirrored regions. -/
def State.mirrorTotal (s : State) : Nat :=
  ((List.range 16).map fun r => if s.fget (Reg.twinMregBase r) Reg.twinMregBase_VALID = 1 then
    s.fget (Reg.twinMregSize r) Reg.twinMregSize_PAGES * 4096 else 0).sum

/-- The address of byte `o` of the mirrored regions taken together, and the bytes left in its region. -/
def State.mirrorAt (s : State) : Nat → Nat → Option (Nat × Nat)
  | 0, _ => none
  | k + 1, o =>
    let r := 15 - k
    let n := if s.fget (Reg.twinMregBase r) Reg.twinMregBase_VALID = 1 then s.fget (Reg.twinMregSize r) Reg.twinMregSize_PAGES * 4096 else 0
    if o < n then some (s.fget (Reg.twinMregBase r) Reg.twinMregBase_BASE * 4096 + o, n - o) else s.mirrorAt k (o - n)

/-- The copy of a synchronisation that has nothing left to send ends. -/
def State.bulkEnded (s : State) : State :=
  ((s.modTwin fun x => { x with bulk := none, bulkEnd := some x.jseq }).fset Reg.twinBulk Reg.twinBulk_PERMILLE 1000).bulkCheck

/-- A synchronisation starts; with no region it is over at once (R358). -/
def State.syncStart (s : State) : State :=
  let s := s.bulkStart
  if s.mirrorTotal = 0 then s.bulkEnded else s

/-- The entries captured and not yet sent, the oldest first. -/
def State.unsent (s : State) : List JEnt :=
  let sent := s.fget Reg.twinJrnPos Reg.twinJrnPos_SENT
  s.twin.journal.filter fun e => decide ((e.jseq.toNat + 2 ^ 32 - sent - 1) % 2 ^ 32 < 2 ^ 31)

/-- A JOURNAL frame of up to seven entries is sent (R357). -/
def State.journalOut (s : State) : State :=
  let es := s.unsent.take 7
  match es.getLast? with
  | none => s
  | some e => (s.zPut false (.journal es)).fset Reg.twinJrnPos Reg.twinJrnPos_SENT e.jseq.toNat

/-- Every captured entry is sent (R363). -/
def State.journalFlush (s : State) : Nat → State
  | 0 => s
  | n + 1 => if s.unsent.isEmpty then s else s.journalOut.journalFlush n

/-- A journal entry is applied at the standby: to its ring and, as initiator TWIN, to its address; a POISON entry makes its block read
uncorrectable (R357). -/
def State.applyEntry (s : State) (e : JEnt) : State :=
  let applied := s.fget Reg.twinJrnPos Reg.twinJrnPos_APPLIED
  if (applied + 1) % 2 ^ 32 ≠ e.jseq.toNat then s
  else
    let pa := e.pa.toNat
    let s := (s.jrnWrite e).fset Reg.twinJrnPos Reg.twinJrnPos_APPLIED e.jseq.toNat
    match e.kind.toNat with
    | 0 =>
      if e.be = BitVec.allOnes 32 then s.devWrite iTWIN pa (toLe 32 e.data.toNat)
      else (List.range 32).foldl (fun s i =>
        if e.be.getLsbD i then s.devWrite iTWIN (pa + i) [BitVec.ofNat 8 (e.data.toNat / 2 ^ (8 * i))] else s) s
    | 1 =>
      match classOf pa with
      | none => s
      | some k => (unitsOf k pa 32).foldl (fun (s : State) u =>
          (s.cleanUnit k u).modProt fun p => { p with
            forced := SMap.put false p.forced (u / 8) true
            valid := if k < 2 then SMap.put 0 p.valid (u / 8) 3 else p.valid }) (s.memReady true pa)
    | _ => s

/-! ### Hand-over and takeover (R361 to R363) -/

/-- TWIN_STATUS shows a twin in STANDBY role with an established link (R22). -/
def State.twinReady (s : State) : Bool := decide (s.tw Reg.twinStatus_PEER_ROLE = 2) && decide (s.tw Reg.twinStatus_LINK = 2)

/-- A primary applies HANDOVER: egress stops but for the DHP response queues, every captured entry and then HANDOVER are sent, and the device is in
STANDBY until reset (R19, R363). Only RUN and DEGRADED are left by a HANDOVER (R325). -/
def State.handover (s : State) : State :=
  let s := s.modEth fun e => { e with stopped := true }
  let s := if s.opstate = opRUN ∨ s.opstate = opDEGRADED then s.setOp opSTANDBY else s
  let s := if s.zCarries then (s.journalFlush (s.unsent.length)).zPut false (.handover s.twin.jseq) else s
  s.modTwin fun x => { x with waitAck := true }

/-- A takeover trigger at an armed standby; during a takeover it has no further effect (R361). -/
def State.trigger (s : State) (byHandover : Bool) : State :=
  if s.tw Reg.twinStatus_ROLE = 2 ∧ s.tw Reg.twinStatus_ARMED = 1 ∧ s.opstate = opSTANDBY ∧ s.twin.taking = none then
    s.modTwin fun x => { x with taking := some byHandover }
  else s

/-- The device enters RUN; SAFE_N pins go high at its first entry (R30), unless the FCRU watchdog holds them low (R18). -/
def State.enterRun (s : State) : State :=
  let s := if s.boot.ran || s.wdogDead then s else s.fset Reg.fcruStatus Reg.fcruStatus_SAFE_ASSERTED 0
  (s.modBoot fun b => { b with ran := true }).setOp opRUN

/-- The twin's settings conflict: the standby is disarmed and the source raised (R355). -/
def State.conflict (s : State) (n : Nat) : State :=
  ((s.fset Reg.twinStatus Reg.twinStatus_CONFLICT n).fset Reg.twinStatus Reg.twinStatus_ARMED 0).raise 0x1E4

end Sys2Proof.Machine
end

