-- ==== Sys2Proof/Machine/ClkCmds.lean ====
section
/-!
DEFINITION. Clocks, supplies, temperature, the PMIC controller and the pins as commands (R406, R410, R411, R422, R423), and the SYS registers as
commands (R134, R384, R398).
-/

namespace Sys2Proof.Machine

/-- The device halts in BOOT with a cause: the NVM pins are high-impedance (R394). -/
def State.halt (s : State) (cause : Nat) : State :=
  (s.fset Reg.sysBootStat Reg.sysBootStat_HALT cause).fset Reg.nvmStatus Reg.nvmStatus_PINS 0

/-- The main supplies are up and RESET_N is high: the clocks run. -/
def State.powered (s : State) : Bool := decide (2 ≤ s.opstate) && s.hbx.pgood && !s.boot.low

/-! ### Clocks (R406) -/

/-- What the loss of a domain's clock does (table "Loss of a clock"). -/
def State.clkEffect (s : State) (p : Nat) : State :=
  match p with
  | 4 => (s.raise 0x1F6).stopAll
  | 5 => s.raise 0x1B2
  | 6 | 7 =>
    let q := p - 6
    ((s.fset (Reg.ethStatus q) Reg.ethStatus_LINK_UP 0).fset (Reg.ethStatus q) Reg.ethStatus_LANE_LOCK 0).raise (0x1C0 + q)
  | 8 => s.raise 0x1D0
  | 9 => ((s.modTwin fun x => { x with lanes := 0 }).zDown 0).raise 0x1E2
  | 10 => if s.fget Reg.sysBootStat Reg.sysBootStat_STEP < 6 then s.halt 1 else s
  | _ => ((List.range 4).foldl (fun s i => s.stopTriad (4 * p + i)) s).raise (0x1F2 + p)

/-- CLK_LOSS: a monitor of PLL p flags the loss of its clock, which is not restarted before reset (R406). -/
def execClkLoss (p : Fin 11) (s : State) : Out :=
  if !s.powered || decide (s.fget (Reg.clkPll p) Reg.clkPll_STOPPED = 1) || decide (s.fget Reg.sysBootStat Reg.sysBootStat_STEP < 4) then .next s
  else
    let s := (s.fsat (Reg.clkPll p) Reg.clkPll_LOSSES 1).fset (Reg.clkPll p) Reg.clkPll_STOPPED 1
    let w := s.rd Reg.clkStatus
    .next ((s.wr Reg.clkStatus (setBits (setBits w p 1 0) (11 + p) 1 0)).clkEffect p)

/-! ### Supplies (R410) -/

/-- The source of a supply outside its window. -/
def vmonSource (n : Nat) : Nat := if n = 0 then 0x1F7 else if n = 1 then 0x1F8 else 0x1F9

/-- VMON_TRIP: the two monitors of a supply show new windows: bits 0 and 1 the ±3 % windows of A and B, bits 2 and 3 the ±4 % windows; a working
monitor outside ±4 % raises the source (R374, R410). -/
def execVmonTrip (n : Fin 10) (win : BitVec 4) (mv : BitVec 12) (s : State) : Out :=
  if !s.powered then .next s
  else
    let was (m : Nat) : Bool := bit (s.rd (Reg.clkVmon n)) (2 + m) || s.miscFailed Reg.pncFailedMisc_VMON (2 * n + m)
    let out (m : Nat) : Bool := !win.getLsbD (2 + m) && !s.miscFailed Reg.pncFailedMisc_VMON (2 * n + m)
    let trips := (out 0 || out 1) && (was 0 && was 1)
    let s := s.wr (Reg.clkVmon n) (setBits (setBits (s.rd (Reg.clkVmon n)) 0 4 win.toNat) Reg.clkVmon_MV.lo 12 mv.toNat)
    .next (if trips then (s.fsat (Reg.clkVmon n) Reg.clkVmon_TRIPS 1).raise (vmonSource n) else s)

/-! ### Temperature (R411) -/

/-- One pair is read, its sensors in °C + 64: the pair's value, and TEMP_SENSOR_MISMATCH where its sensors come to differ by more than 4 °C (R374,
R411). -/
def State.tempPair (s : State) (i a b : Nat) : State :=
  let w := s.rd (Reg.clkTemp i)
  let failed := bit w 24
  let v := if failed then max a b else (a + b) / 2
  let apart (x y : Nat) : Bool := decide (4 < x - y) || decide (4 < y - x)
  let s := s.wr (Reg.clkTemp i) (setBits (setBits (setBits w 0 8 a) 8 8 b) 16 8 v)
  if apart a b && !apart (bits w 0 8) (bits w 8 8) then s.raise 0x1FC else s

/-- The value of a pair in °C. -/
def State.tempOf (s : State) (i : Nat) : Int := (bits (s.rd (Reg.clkTemp i)) 16 8 : Nat) - 64

/-- A threshold is compared with every pair: a pair at or above it sets its flag and the first one raises the source; every pair 5 °C below it re-arms
it (R411). -/
def State.tempThreshold (s : State) (f : Fld) (thr src : Nat) : State :=
  let armed := (List.range 6).all fun i => decide (s.fget (Reg.clkTemp i) f = 0)
  if (List.range 6).all fun i => decide (s.tempOf i ≤ (thr : Int) - 5) then
    (List.range 6).foldl (fun s i => s.fset (Reg.clkTemp i) f 0) s
  else
    let hot := (List.range 6).filter fun i => decide ((thr : Int) ≤ s.tempOf i)
    let s := hot.foldl (fun s i => s.fset (Reg.clkTemp i) f 1) s
    if armed && !hot.isEmpty then s.raise src else s

/-- TEMP_SAMPLE: the six pairs are read (R411). -/
def execTempSample (c0 c1 c2 c3 mesh serdes : BitVec 8 × BitVec 8) (s : State) : Out :=
  if !s.powered then .next s
  else
    let s := ((List.range 6).zip [c0, c1, c2, c3, mesh, serdes]).foldl (fun s x => s.tempPair x.1 x.2.1.toNat x.2.2.toNat) s
    let s := s.tempThreshold Reg.clkTemp_HIGH (s.fget Reg.clkTempThr Reg.clkTempThr_HIGH) 0x1FA
    .next (s.tempThreshold Reg.clkTemp_CRIT (s.fget Reg.clkTempThr Reg.clkTempThr_CRIT) 0x1FB)

/-! ### PMIC and pins (R422, R423) -/

/-- I2C_GO: a write of CLK_I2C_CMD with GO = 1. -/
def execI2cGo (rq : Rq) (v : BitVec 24) (s : State) : Out := .next (s.gatedWrite rq Reg.clkI2cCmd (v.setWidth 64 ||| 0x1000000))

/-- I2C_DONE: the transfer ends, or its target has not acknowledged (R422). -/
def execI2cDone (data : Byte) (nack : Bool) (s : State) : Out :=
  match s.clk.i2c with
  | none => .next s
  | some cmd =>
    let s := { s with clk := { s.clk with i2c := none } }
    let s := (s.fset Reg.clkI2cStat Reg.clkI2cStat_BUSY 0).fset Reg.clkI2cStat Reg.clkI2cStat_NACK (b2n nack)
    .next (if bit cmd 7 && !nack then s.fset Reg.clkI2cStat Reg.clkI2cStat_DATA data.toNat else s)

/-- GPIO_OUT_WRITE: a write of CLK_GPIO_OUT drives the pins that CLK_GPIO_DIR enables. -/
def execGpioOutWrite (rq : Rq) (v : BitVec 32) (s : State) : Out := .next (s.gatedWrite rq Reg.clkGpioOut (v.setWidth 64))

/-- GPIO_INPUT_CHANGE: the board drives a pin to a new level, which CLK_GPIO_IN shows where the device does not drive the pin. -/
def execGpioInputChange (n : Fin 32) (level : Bool) (s : State) : Out :=
  let e := if s.clk.ext.testBit n = level then s.clk.ext else s.clk.ext ^^^ 2 ^ n.val
  let s := { s with clk := { s.clk with ext := e } }
  .next (if s.powered then s.gpioSync else s)

/-! ### The SYS block (R134, R384, R398) -/

/-- SYS_SLEEP: a write of SYS_SLEEP. -/
def execSysSleep (rq : Rq) (v : Word) (s : State) : Out := .next (s.gatedWrite rq Reg.sysSleep v)
/-- SYS_IPI: a write of SYS_IPI. -/
def execSysIpi (rq : Rq) (v : Word) (s : State) : Out := .next (s.gatedWrite rq Reg.sysIpi v)
/-- MANUFACTURE_TO_SECURED: a write of SYS_LC_CTL with OP 1 and a key. -/
def execManufactureToSecured (rq : Rq) (key : BitVec 16) (s : State) : Out := .next (s.gatedWrite rq Reg.sysLcCtl (1 ||| (key.setWidth 64 <<< 16)))
/-- SECURED_TO_RMA: OP 2, with the signature in SYS_LC_RESPn. -/
def execSecuredToRma (rq : Rq) (s : State) : Out := .next (s.gatedWrite rq Reg.sysLcCtl 2)
/-- SCRAP: OP 3 and a key. -/
def execScrap (rq : Rq) (key : BitVec 16) (s : State) : Out := .next (s.gatedWrite rq Reg.sysLcCtl (3 ||| (key.setWidth 64 <<< 16)))
/-- SECURED_TO_FIELD_DEBUG: OP 4, with the signature over the nonce. -/
def execSecuredToFieldDebug (rq : Rq) (s : State) : Out := .next (s.gatedWrite rq Reg.sysLcCtl 4)
/-- SYS_LC_CHAL_READ: a read of SYS_LC_CHAL0, which draws a new nonce. -/
def execSysLcChalRead (rq : Rq) (s : State) : Out :=
  let (v, s) := s.gatedRead rq (Reg.sysLcChal 0)
  .next (s.answer rq.init.val { status := .ok, data := v.toNat })

/-- OTP_PROVISIONING: a BLANK device is provisioned through JTAG: its serial number, root key hashes, wrap key and minimum SVN; it is in MANUFACTURE
from the next reset (R397, R398). -/
def execOtpProvisioning (id : Word) (keys : List (BitVec 384)) (wrap : BitVec 256) (minSvn : Nat) (s : State) : Out :=
  if s.otp.lc ≠ 0 then .next s
  else
    .next (s.modOtp fun o => { o with
      lc := 1, id := id, wrap := wrap.toNat, minSvn := min 64 minSvn
      keys := ((List.range 4).zip keys).foldl (fun m x => SMap.put none m x.1 (some x.2.toNat)) o.keys })

/-- MMIO_WRITE: a write of one register, whole or one half (R7 to R9). -/
def execMmioWrite (rq : Rq) (off : BitVec 24) (half : Bool) (v : Word) (s : State) : Out :=
  let m : MeshReq :=
    { rq := rq, op := .write, atom := .swap, pa := BitVec.ofNat 44 (paMmio + off.toNat), len := if half then 4 else 8, data := v.toNat, cmp := 0 }
  .next (s.serve m).2

end Sys2Proof.Machine
end

