-- ==== Sys2Proof/Machine/ImgMap.lean ====
section
/-!
DEFINITION. What an image record may set (R395): for every register that lies in a block a section may write, the bits that a record may set, the
sections, the bit whose 0 lifts the range checks, and the ranges of the fields that do not allow every value.
-/

namespace Sys2Proof.Machine

/-- The range of a field: lowest bit, length, least and greatest value, and the number it must be a multiple of. -/
structure FRange where
  lo   : Nat
  len  : Nat
  min  : Nat
  max  : Nat
  step : Nat
  deriving DecidableEq, Repr

/-- A register as image records see it: `sets` are the bits a record may set, bit k of `secs` names the section of TYPE k. -/
structure ImgReg where
  desc   : RegDesc
  sets   : Nat
  secs   : Nat
  valid  : Option Nat
  ranges : List FRange
  deriving DecidableEq, Repr

/-- The registers that image records may address, part 0 (R395). -/
def imgTable0 : List ImgReg :=
  [ ⟨⟨0x11000, (1, 0x10000000), (1, 0x10000000), (512, 8), 0, 0, 0, 0, 0⟩, 0x800001ffffffffff, 0x10, none, [⟨0, 3, 0, 6, 1⟩, ⟨3, 3, 0, 6, 1⟩]⟩ -- FCRU_MATRIX0 to FCRU_MATRIX511
  , ⟨⟨0x20010, (1, 0x10000000), (1, 0x10000000), (16, 4096), 0, 0, 0, 0, 0⟩, 0x3f, 0x4, none, [⟨4, 2, 0, 2, 1⟩]⟩ -- TRI_MODE_ALLOW
  , ⟨⟨0x20050, (1, 0x10000000), (1, 0x10000000), (16, 4096), 0, 0, 0, 0, 0⟩, 0x1ffff, 0x4, some 16, [⟨0, 16, 1, 65535, 1⟩]⟩ -- TRI_WDOG_CTL
  , ⟨⟨0x30000, (1, 0x10000000), (1, 0x10000000), (1, 0x10000000), 0, 0, 0, 0, 0⟩, 0x3ffff, 0x4, none, [⟨0, 18, 0, 262143, 16384⟩]⟩ -- IAU_SLOT_BASE
  , ⟨⟨0x30008, (1, 0x10000000), (1, 0x10000000), (1, 0x10000000), 0, 0, 0, 0, 0⟩, 0xff, 0x4, none, [⟨0, 8, 8, 255, 1⟩]⟩ -- IAU_TIME_WIN
  , ⟨⟨0x30010, (1, 0x10000000), (1, 0x10000000), (1, 0x10000000), 0, 0, 0, 0, 0⟩, 0xf, 0x4, none, [⟨0, 4, 2, 15, 1⟩]⟩ -- IAU_PERSIST
  , ⟨⟨0x30100, (1, 0x10000000), (1, 0x10000000), (16, 32), 0, 0, 0, 0, 0⟩, 0x3fff, 0x4, none, [⟨0, 4, 1, 8, 1⟩]⟩ -- IAU_Tn_CFG
  , ⟨⟨0x30108, (1, 0x10000000), (1, 0x10000000), (16, 32), 0, 0, 0, 0, 0⟩, 0x0, 0x4, none, []⟩ -- IAU_Tn_CNT
  , ⟨⟨0x30110, (1, 0x10000000), (1, 0x10000000), (16, 32), 0, 0, 0, 0, 0⟩, 0x0, 0x4, none, []⟩ -- IAU_Tn_LAST
  , ⟨⟨0x51000, (1, 0x10000000), (16, 128), (8, 16), 0, 0, 0, 0, 0⟩, 0xfffffffffffff007, 0x4, some 2, [⟨0, 2, 0, 2, 1⟩]⟩ -- XLT_PIN_TAG
  , ⟨⟨0x51008, (1, 0x10000000), (16, 128), (8, 16), 0, 0, 0, 0, 0⟩, 0xffffffffffffffff, 0x4, none, []⟩ -- XLT_PIN_PTE
  , ⟨⟨0x60000, (1, 0x10000000), (1, 0x10000000), (27, 2048), 0, 0, 0, 0, 0⟩, 0x1, 0x8, none, []⟩ -- GATE_CTL
  , ⟨⟨0x60008, (1, 0x10000000), (1, 0x10000000), (27, 2048), 0, 0, 0, 0, 0⟩, 0x0, 0x8, none, []⟩ -- GATE_DRAIN
  , ⟨⟨0x60010, (1, 0x10000000), (1, 0x10000000), (27, 2048), 0, 0, 0, 0, 0⟩, 0x0, 0x8, none, []⟩ -- GATE_STAT
  , ⟨⟨0x60018, (1, 0x10000000), (1, 0x10000000), (27, 2048), 0, 0, 0, 0, 0⟩, 0x0, 0x8, none, []⟩ -- GATE_LOG_CLR
  , ⟨⟨0x60080, (1, 0x10000000), (27, 2048), (8, 16), 0, 0, 0, 0, 0⟩, 0x0, 0x8, none, []⟩ -- GATE_VLOGn_ADDR
  , ⟨⟨0x60088, (1, 0x10000000), (27, 2048), (8, 16), 0, 0, 0, 0, 0⟩, 0x0, 0x8, none, []⟩ -- GATE_VLOGn_INFO
  , ⟨⟨0x60100, (1, 0x10000000), (27, 2048), (32, 32), 0, 0, 0, 0, 0⟩, 0xfffffffffc0, 0x8, none, []⟩ -- GATE_RULEk_BASE
  , ⟨⟨0x60108, (1, 0x10000000), (27, 2048), (32, 32), 0, 0, 0, 0, 0⟩, 0xfffffffffc0, 0x8, none, []⟩ -- GATE_RULEk_LIMIT
  , ⟨⟨0x60110, (1, 0x10000000), (27, 2048), (32, 32), 0, 0, 0, 0, 0⟩, 0xffffffff, 0x8, none, []⟩ -- GATE_RULEk_MASK
  , ⟨⟨0x60118, (1, 0x10000000), (27, 2048), (32, 32), 0, 0, 0, 0, 0⟩, 0x1f, 0x8, none, []⟩ -- GATE_RULEk_CTL
  , ⟨⟨0x41078, (1, 0x10000000), (1, 0x10000000), (8, 256), 0, 0, 0, 0, 0⟩, 0x3ff03fff000, 0x20, none, []⟩ -- FUL_Cc_STAGE
  , ⟨⟨0x41080, (1, 0x10000000), (1, 0x10000000), (8, 256), 0, 0, 0, 0, 0⟩, 0xfff0fff, 0x40, none, [⟨16, 12, 0, 3072, 1⟩]⟩ -- FUL_Cc_TAGS
  , ⟨⟨0x70000, (1, 0x10000000), (1, 0x10000000), (4, 8), 0, 0, 0, 0, 0⟩, 0xffffffffffffffff, 0x20, none, []⟩ -- MEM_SS_PWR0 to MEM_SS_PWR3
  ]

/-- The registers that image records may address, part 1 (R395). -/
def imgTable1 : List ImgReg :=
  [ ⟨⟨0x70020, (1, 0x10000000), (1, 0x10000000), (4, 8), 0, 0, 0, 0, 0⟩, 0xffffffffffffffff, 0x20, none, []⟩ -- MEM_SS_LOWMODE0 to MEM_SS_LOWMODE3
  , ⟨⟨0x70040, (1, 0x10000000), (1, 0x10000000), (8, 8), 0, 0, 0, 0, 0⟩, 0x0, 0x20, none, []⟩ -- MEM_SS_STATE0 to MEM_SS_STATE7
  , ⟨⟨0x70210, (1, 0x10000000), (1, 0x10000000), (1, 0x10000000), 0, 0, 0, 0, 0⟩, 0x0, 0x20, none, []⟩ -- MEM_ROT_STAT
  , ⟨⟨0x70218, (1, 0x10000000), (1, 0x10000000), (1, 0x10000000), 0, 0, 0, 0, 0⟩, 0x0, 0x20, none, []⟩ -- MEM_STAT
  , ⟨⟨0x70400, (1, 0x10000000), (1, 0x10000000), (16, 8), 0, 0, 0, 0, 0⟩, 0xfff, 0x20, some 11, [⟨4, 4, 1, 15, 1⟩, ⟨8, 3, 0, 4, 1⟩]⟩ -- MEM_CR_PART0 to MEM_CR_PART15
  , ⟨⟨0x70800, (1, 0x10000000), (1, 0x10000000), (64, 8), 0, 0, 0, 0, 0⟩, 0xffff007fffff, 0x20, some 22, [⟨0, 6, 0, 59, 1⟩, ⟨6, 6, 1, 60, 1⟩, ⟨32, 16, 1, 65535, 1⟩]⟩ -- MEM_CR_RING0 to MEM_CR_RING63
  , ⟨⟨0x70100, (1, 0x10000000), (1, 0x10000000), (16, 16), 0, 0, 0, 0, 0⟩, 0x0, 0x20, none, []⟩ -- MEM_SS_MAPg_LO
  , ⟨⟨0x70108, (1, 0x10000000), (1, 0x10000000), (16, 16), 0, 0, 0, 0, 0⟩, 0x0, 0x20, none, []⟩ -- MEM_SS_MAPg_HI
  , ⟨⟨0x70200, (1, 0x10000000), (1, 0x10000000), (1, 0x10000000), 0, 0, 0, 0, 0⟩, 0x0, 0x20, none, []⟩ -- MEM_CR_MAP
  , ⟨⟨0x70208, (1, 0x10000000), (1, 0x10000000), (1, 0x10000000), 0, 0, 0, 0, 0⟩, 0x0, 0x20, none, []⟩ -- MEM_CR_SPARE
  , ⟨⟨0x90000, (1, 0x10000000), (1, 0x10000000), (1, 0x10000000), 0, 0, 0, 0, 0⟩, 0x7, 0x8000, none, []⟩ -- DDR_CFG
  , ⟨⟨0x90010, (1, 0x10000000), (1, 0x10000000), (1, 0x10000000), 0, 0, 0, 0, 0⟩, 0x7ff, 0x8000, none, [⟨1, 10, 0, 614, 1⟩]⟩ -- DDR_ZOD_CTL
  , ⟨⟨0x90018, (1, 0x10000000), (1, 0x10000000), (1, 0x10000000), 0, 0, 0, 0, 0⟩, 0x0, 0x8000, none, []⟩ -- DDR_ZOD_STAT
  , ⟨⟨0x90020, (1, 0x10000000), (1, 0x10000000), (4, 8), 0, 0, 0, 0, 0⟩, 0x3ffffffffff, 0x8000, none, [⟨40, 2, 0, 2, 1⟩]⟩ -- DDR_ZOD_RANGE0 to DDR_ZOD_RANGE3
  , ⟨⟨0x90040, (1, 0x10000000), (1, 0x10000000), (1, 0x10000000), 0, 0, 0, 0, 0⟩, 0xfffff, 0x8000, none, []⟩ -- DDR_ZOD_PROBE
  , ⟨⟨0x80000, (1, 0x10000000), (1, 0x10000000), (1, 0x10000000), 0, 0, 0, 0, 0⟩, 0x7, 0x8000, none, []⟩ -- EDC_CTL
  , ⟨⟨0x80008, (1, 0x10000000), (1, 0x10000000), (1, 0x10000000), 0, 0, 0, 0, 0⟩, 0xffffffff, 0x8000, none, []⟩ -- EDC_CE_THRESH
  , ⟨⟨0xa0000, (1, 0x10000000), (1, 0x10000000), (2, 65536), 0, 0, 0, 0, 0⟩, 0x3fffffff, 0x1000, none, [⟨0, 2, 0, 2, 1⟩, ⟨16, 14, 64, 9216, 1⟩]⟩ -- ETH_CFG
  , ⟨⟨0xa0008, (1, 0x10000000), (1, 0x10000000), (2, 65536), 0, 0, 0, 0, 0⟩, 0x0, 0x1000, none, []⟩ -- ETH_STATUS
  , ⟨⟨0xa0010, (1, 0x10000000), (1, 0x10000000), (2, 65536), 0, 0, 0, 0, 0⟩, 0xffffffffffffffff, 0x1000, none, []⟩ -- ETH_GCL_BASE
  , ⟨⟨0xa0018, (1, 0x10000000), (1, 0x10000000), (2, 65536), 0, 0, 0, 0, 0⟩, 0x1ffffffffff, 0x1000, none, [⟨0, 32, 1000, 4294967295, 1⟩]⟩ -- ETH_GCL_CTL
  , ⟨⟨0xa0800, (2, 65536), (2, 2048), (256, 8), 0, 0, 0, 0, 0⟩, 0xffffffffffffffff, 0x1000, none, []⟩ -- ETH_GCLk
  , ⟨⟨0xa2000, (1, 0x10000000), (1, 0x10000000), (2, 65536), 0, 0, 0, 0, 0⟩, 0xffffffffff, 0x1000, none, []⟩ -- ETH_MSEC_CTL
  , ⟨⟨0xa0100, (1, 0x10000000), (2, 65536), (4, 32), 0, 0, 0, 0, 0⟩, 0xff, 0x1000, none, []⟩ -- ETH_MACm_TC
  ]

/-- The registers that image records may address, part 2 (R395). -/
def imgTable2 : List ImgReg :=
  [ ⟨⟨0xa0108, (1, 0x10000000), (2, 65536), (4, 32), 0, 0, 0, 0, 0⟩, 0x0, 0x1000, none, []⟩ -- ETH_MACm_RXCNT
  , ⟨⟨0xa0110, (1, 0x10000000), (2, 65536), (4, 32), 0, 0, 0, 0, 0⟩, 0x0, 0x1000, none, []⟩ -- ETH_MACm_MSCNT
  , ⟨⟨0xa0118, (1, 0x10000000), (2, 65536), (4, 32), 0, 0, 0, 0, 0⟩, 0x0, 0x1000, none, []⟩ -- ETH_MACm_TXCNT
  , ⟨⟨0xa0400, (1, 0x10000000), (2, 65536), (32, 32), 0, 0, 0, 0, 0⟩, 0xfffffffffe0, 0x1000, none, []⟩ -- ETH_TXQq_BASE
  , ⟨⟨0xa0408, (1, 0x10000000), (2, 65536), (32, 32), 0, 0, 0, 0, 0⟩, 0xffff, 0x1000, none, []⟩ -- ETH_TXQq_CFG
  , ⟨⟨0xa0410, (1, 0x10000000), (2, 65536), (32, 32), 0, 0, 0, 0, 0⟩, 0xffff, 0x1000, none, []⟩ -- ETH_TXQq_TAIL
  , ⟨⟨0xa0418, (1, 0x10000000), (2, 65536), (32, 32), 0, 0, 0, 0, 0⟩, 0x0, 0x1000, none, []⟩ -- ETH_TXQq_HEAD
  , ⟨⟨0xa2008, (1, 0x10000000), (1, 0x10000000), (2, 65536), 0, 0, 0, 0, 0⟩, 0x7f, 0x1000, none, []⟩ -- ETH_MSEC_SEL
  , ⟨⟨0xa2010, (1, 0x10000000), (1, 0x10000000), (2, 65536), 0, 0, 0, 0, 0⟩, 0xffffffffffffffff, 0x1000, none, []⟩ -- ETH_MSEC_SCI
  , ⟨⟨0xa2018, (1, 0x10000000), (2, 65536), (4, 8), 0, 0, 0, 0, 0⟩, 0x0, 0x1000, none, []⟩ -- ETH_MSEC_KEYn
  , ⟨⟨0xa2038, (1, 0x10000000), (1, 0x10000000), (2, 65536), 0, 0, 0, 0, 0⟩, 0x0, 0x1000, none, []⟩ -- ETH_MSEC_SALT0
  , ⟨⟨0xa2040, (1, 0x10000000), (1, 0x10000000), (2, 65536), 0, 0, 0, 0, 0⟩, 0x0, 0x1000, none, []⟩ -- ETH_MSEC_SALT1
  , ⟨⟨0xa2048, (1, 0x10000000), (1, 0x10000000), (2, 65536), 0, 0, 0, 0, 0⟩, 0xffffffffffffffff, 0x1000, none, []⟩ -- ETH_MSEC_PN
  , ⟨⟨0xa2050, (1, 0x10000000), (1, 0x10000000), (2, 65536), 0, 0, 0, 0, 0⟩, 0x0, 0x1000, none, []⟩ -- ETH_MSEC_INSTALL
  , ⟨⟨0xc0000, (1, 0x10000000), (1, 0x10000000), (1, 0x10000000), 0, 0, 0, 0, 0⟩, 0xfff, 0x1000, none, []⟩ -- ADM_CFG
  , ⟨⟨0xc0008, (1, 0x10000000), (1, 0x10000000), (1, 0x10000000), 0, 0, 0, 0, 0⟩, 0xffffffffffffffff, 0x1000, none, []⟩ -- ADM_BUDGET
  , ⟨⟨0xc0010, (1, 0x10000000), (1, 0x10000000), (1, 0x10000000), 0, 0, 0, 0, 0⟩, 0x0, 0x1000, none, []⟩ -- ADM_BUDGET_USED
  , ⟨⟨0xc0018, (1, 0x10000000), (1, 0x10000000), (1, 0x10000000), 0, 0, 0, 0, 0⟩, 0x0, 0x1000, none, []⟩ -- ADM_STAT
  , ⟨⟨0xc0020, (1, 0x10000000), (1, 0x10000000), (1, 0x10000000), 0, 0, 0, 0, 0⟩, 0xffff, 0x1000, none, []⟩ -- ADM_POLICE_THRESH
  , ⟨⟨0xc0100, (1, 0x10000000), (1, 0x10000000), (3, 8), 0, 0, 0, 0, 0⟩, 0xffffffffffffffff, 0x1000, none, []⟩ -- ADM_REQ_W0 to W2
  , ⟨⟨0xc0118, (1, 0x10000000), (1, 0x10000000), (1, 0x10000000), 0, 0, 0, 0, 0⟩, 0x0, 0x1000, none, []⟩ -- ADM_REQ_CTL
  , ⟨⟨0xc0120, (1, 0x10000000), (1, 0x10000000), (1, 0x10000000), 0, 0, 0, 0, 0⟩, 0x0, 0x1000, none, []⟩ -- ADM_REQ_STATUS
  , ⟨⟨0xc0400, (1, 0x10000000), (1, 0x10000000), (64, 8), 0, 0, 0, 0, 0⟩, 0x3ffff000000, 0x1000, none, []⟩ -- ADM_RINGn_PTR
  , ⟨⟨0xc0800, (1, 0x10000000), (1, 0x10000000), (64, 32), 0, 0, 0, 0, 0⟩, 0x1ffffffffffffff, 0x1000, some 40, [⟨14, 15, 1, 16384, 1⟩]⟩ -- ADM_SRINGn_CFG
  ]

/-- The registers that image records may address, part 3 (R395). -/
def imgTable3 : List ImgReg :=
  [ ⟨⟨0xc0808, (1, 0x10000000), (1, 0x10000000), (64, 32), 0, 0, 0, 0, 0⟩, 0x3ffffffc0000000, 0x1000, none, []⟩ -- ADM_SRINGn_PTR
  , ⟨⟨0xc0810, (1, 0x10000000), (1, 0x10000000), (64, 32), 0, 0, 0, 0, 0⟩, 0x0, 0x1000, none, []⟩ -- ADM_SRINGn_DROPS
  , ⟨⟨0xc1000, (1, 0x10000000), (1, 0x10000000), (512, 16), 0, 0, 0, 0, 0⟩, 0xffffff7f, 0x1000, some 6, [⟨0, 6, 2, 32, 1⟩]⟩ -- ADM_CBFf_CFG
  , ⟨⟨0xc1008, (1, 0x10000000), (1, 0x10000000), (512, 16), 0, 0, 0, 0, 0⟩, 0x0, 0x1000, none, []⟩ -- ADM_CBFf_STAT
  , ⟨⟨0xc8000, (1, 0x10000000), (1, 0x10000000), (1024, 32), 0, 0, 0, 0, 0⟩, 0xffffffffffffffff, 0x1000, none, []⟩ -- ADM_ENTRYn_ID
  , ⟨⟨0xc8008, (1, 0x10000000), (1, 0x10000000), (1024, 32), 0, 0, 0, 0, 0⟩, 0xffffffffffff, 0x1000, none, []⟩ -- ADM_ENTRYn_CONTRACT
  , ⟨⟨0xc8010, (1, 0x10000000), (1, 0x10000000), (1024, 32), 0, 0, 0, 0, 0⟩, 0x7ffffff, 0x1000, some 21, [⟨0, 2, 0, 2, 1⟩]⟩ -- ADM_ENTRYn_DEST
  , ⟨⟨0xc8018, (1, 0x10000000), (1, 0x10000000), (1024, 32), 0, 0, 0, 0, 0⟩, 0xffffffffffffffff, 0x1000, none, []⟩ -- ADM_ENTRYn_CNT
  , ⟨⟨0xd0000, (1, 0x10000000), (1, 0x10000000), (1, 0x10000000), 0, 0, 0, 0, 0⟩, 0xfffffffff, 0x2000, none, [⟨20, 16, 1, 65535, 1⟩]⟩ -- DHP_CFG
  , ⟨⟨0xd0008, (1, 0x10000000), (1, 0x10000000), (1, 0x10000000), 0, 0, 0, 0, 0⟩, 0xffffffffffff, 0x2000, none, []⟩ -- DHP_ADDR
  , ⟨⟨0xd0010, (1, 0x10000000), (1, 0x10000000), (1, 0x10000000), 0, 0, 0, 0, 0⟩, 0xffffffff, 0x2000, none, []⟩ -- DHP_IPADDR
  , ⟨⟨0xd0018, (1, 0x10000000), (1, 0x10000000), (1, 0x10000000), 0, 0, 0, 0, 0⟩, 0xfffff, 0x2000, none, [⟨14, 6, 1, 63, 1⟩]⟩ -- DHP_AREA
  , ⟨⟨0xd0020, (1, 0x10000000), (1, 0x10000000), (1, 0x10000000), 0, 0, 0, 0, 0⟩, 0x0, 0x2000, none, []⟩ -- DHP_STAT
  , ⟨⟨0xd0028, (1, 0x10000000), (1, 0x10000000), (1, 0x10000000), 0, 0, 0, 0, 0⟩, 0x0, 0x2000, none, []⟩ -- DHP_SLOT_CNT
  , ⟨⟨0xd0100, (1, 0x10000000), (1, 0x10000000), (8, 8), 0, 0, 0, 0, 0⟩, 0xf, 0x2000, none, []⟩ -- DHP_KEYk
  , ⟨⟨0xd0200, (1, 0x10000000), (1, 0x10000000), (32, 16), 0, 0, 0, 0, 0⟩, 0xffffffff3fffffff, 0x2000, some 10, [⟨11, 8, 1, 255, 1⟩, ⟨19, 8, 1, 128, 1⟩, ⟨32, 32, 1, 4294967295, 1⟩]⟩ -- DHP_JOBTj_CFG
  , ⟨⟨0xd0208, (1, 0x10000000), (1, 0x10000000), (32, 16), 0, 0, 0, 0, 0⟩, 0xfffffffffc0, 0x2000, none, []⟩ -- DHP_JOBTj_QBASE
  , ⟨⟨0xd0400, (1, 0x10000000), (1, 0x10000000), (32, 8), 0, 0, 0, 0, 0⟩, 0xff00, 0x2000, none, []⟩ -- DHP_JOBQj_PTR
  , ⟨⟨0xd1000, (1, 0x10000000), (1, 0x10000000), (64, 32), 0, 0, 0, 0, 0⟩, 0x0, 0x2000, none, []⟩ -- DHP_SLOTs_STAT
  , ⟨⟨0xd1008, (1, 0x10000000), (1, 0x10000000), (64, 32), 0, 0, 0, 0, 0⟩, 0x7ffffffffff, 0x2000, none, []⟩ -- DHP_SLOTs_PROG
  , ⟨⟨0xd1010, (1, 0x10000000), (1, 0x10000000), (64, 32), 0, 0, 0, 0, 0⟩, 0x0, 0x2000, none, []⟩ -- DHP_SLOTs_DONE
  , ⟨⟨0xd1018, (1, 0x10000000), (1, 0x10000000), (64, 32), 0, 0, 0, 0, 0⟩, 0x0, 0x2000, none, []⟩ -- DHP_SLOTs_DEADLINE
  , ⟨⟨0xe0000, (1, 0x10000000), (1, 0x10000000), (1, 0x10000000), 0, 0, 0, 0, 0⟩, 0x1, 0xfc7e, none, []⟩ -- REC_CFG
  , ⟨⟨0xe0008, (1, 0x10000000), (1, 0x10000000), (2, 16), 0, 0, 0, 0, 0⟩, 0xfffffe00000, 0xfc7e, none, []⟩ -- REC_RING, REC_RES
  ]

/-- The registers that image records may address, part 4 (R395). -/
def imgTable4 : List ImgReg :=
  [ ⟨⟨0xe0010, (1, 0x10000000), (1, 0x10000000), (2, 16), 0, 0, 0, 0, 0⟩, 0x1fffff, 0xfc7e, none, []⟩ -- REC_RING_SIZE, REC_RES_SIZE
  , ⟨⟨0xe0028, (1, 0x10000000), (1, 0x10000000), (1, 0x10000000), 0, 0, 0, 0, 0⟩, 0xfffffffffffff, 0xfc7e, none, []⟩ -- REC_SPAN
  , ⟨⟨0xe0030, (1, 0x10000000), (1, 0x10000000), (1, 0x10000000), 0, 0, 0, 0, 0⟩, 0x0, 0xfc7e, none, []⟩ -- REC_CTL
  , ⟨⟨0xe0038, (1, 0x10000000), (1, 0x10000000), (1, 0x10000000), 0, 0, 0, 0, 0⟩, 0x0, 0xfc7e, none, []⟩ -- REC_STATUS
  , ⟨⟨0xe0040, (1, 0x10000000), (1, 0x10000000), (1, 0x10000000), 0, 0, 0, 0, 0⟩, 0x0, 0xfc7e, none, []⟩ -- REC_WPTR
  , ⟨⟨0xe0048, (1, 0x10000000), (1, 0x10000000), (1, 0x10000000), 0, 0, 0, 0, 0⟩, 0x0, 0xfc7e, none, []⟩ -- REC_FRZ
  , ⟨⟨0xe0050, (1, 0x10000000), (1, 0x10000000), (1, 0x10000000), 0, 0, 0, 0, 0⟩, 0x0, 0xfc7e, none, []⟩ -- REC_FRZ_POS
  , ⟨⟨0xe0058, (1, 0x10000000), (1, 0x10000000), (1, 0x10000000), 0, 0, 0, 0, 0⟩, 0x0, 0xfc7e, none, []⟩ -- REC_FRZ_SPAN
  , ⟨⟨0xe0060, (1, 0x10000000), (1, 0x10000000), (1, 0x10000000), 0, 0, 0, 0, 0⟩, 0x0, 0xfc7e, none, []⟩ -- REC_FRZ_LEN
  , ⟨⟨0xe0068, (1, 0x10000000), (1, 0x10000000), (1, 0x10000000), 0, 0, 0, 0, 0⟩, 0x0, 0xfc7e, none, []⟩ -- REC_CNT
  , ⟨⟨0xe0070, (1, 0x10000000), (1, 0x10000000), (1, 0x10000000), 0, 0, 0, 0, 0⟩, 0x0, 0xfc7e, none, []⟩ -- REC_CNT2
  , ⟨⟨0xe0078, (1, 0x10000000), (1, 0x10000000), (1, 0x10000000), 0, 0, 0, 0, 0⟩, 0x0, 0xfc7e, none, []⟩ -- REC_UNLOAD
  , ⟨⟨0xe0080, (1, 0x10000000), (1, 0x10000000), (1, 0x10000000), 0, 0, 0, 0, 0⟩, 0x0, 0xfc7e, none, []⟩ -- REC_FRZ_POST
  , ⟨⟨0xf0000, (1, 0x10000000), (1, 0x10000000), (1, 0x10000000), 0, 0, 0, 0, 0⟩, 0x0, 0x400, none, []⟩ -- TIME_NOW
  , ⟨⟨0xf0008, (1, 0x10000000), (1, 0x10000000), (1, 0x10000000), 0, 0, 0, 0, 0⟩, 0x0, 0x400, none, []⟩ -- TIME_NOW_PTP
  , ⟨⟨0xf0010, (1, 0x10000000), (1, 0x10000000), (1, 0x10000000), 0, 0, 0, 0, 0⟩, 0x0, 0x400, none, []⟩ -- TIME_NOW_SEC
  , ⟨⟨0xf0018, (1, 0x10000000), (1, 0x10000000), (1, 0x10000000), 0, 0, 0, 0, 0⟩, 0x0, 0x400, none, []⟩ -- TIME_STEP
  , ⟨⟨0xf0020, (1, 0x10000000), (1, 0x10000000), (1, 0x10000000), 0, 0, 0, 0, 0⟩, 0xffffffff, 0x400, none, []⟩ -- TIME_RATE
  , ⟨⟨0xf0028, (1, 0x10000000), (1, 0x10000000), (1, 0x10000000), 0, 0, 0, 0, 0⟩, 0x7f, 0x400, none, [⟨0, 3, 0, 6, 1⟩]⟩ -- TIME_CTL
  , ⟨⟨0xf0030, (1, 0x10000000), (1, 0x10000000), (1, 0x10000000), 0, 0, 0, 0, 0⟩, 0x0, 0x400, none, []⟩ -- TIME_STATUS
  , ⟨⟨0xf0038, (1, 0x10000000), (1, 0x10000000), (1, 0x10000000), 0, 0, 0, 0, 0⟩, 0x3ffffff, 0x400, none, []⟩ -- TIME_SERVO
  , ⟨⟨0xf0040, (1, 0x10000000), (1, 0x10000000), (1, 0x10000000), 0, 0, 0, 0, 0⟩, 0xffffffff, 0x400, none, []⟩ -- TIME_HOLD
  , ⟨⟨0xf0048, (1, 0x10000000), (1, 0x10000000), (1, 0x10000000), 0, 0, 0, 0, 0⟩, 0xffffffffffffffff, 0x400, none, []⟩ -- TIME_GM_ID
  , ⟨⟨0xf0100, (1, 0x10000000), (1, 0x10000000), (4, 16), 0, 0, 0, 0, 0⟩, 0x3ffffff, 0x400, none, [⟨8, 2, 0, 2, 1⟩]⟩ -- TIME_DOMk_CFG
  ]

/-- The registers that image records may address, part 5 (R395). -/
def imgTable5 : List ImgReg :=
  [ ⟨⟨0xf0108, (1, 0x10000000), (1, 0x10000000), (4, 16), 0, 0, 0, 0, 0⟩, 0x0, 0x400, none, []⟩ -- TIME_DOMk_OFS
  , ⟨⟨0xf0200, (1, 0x10000000), (1, 0x10000000), (8, 8), 0, 0, 0, 0, 0⟩, 0x0, 0x400, none, []⟩ -- TIME_PDLYm
  , ⟨⟨0xf0300, (1, 0x10000000), (1, 0x10000000), (4, 32), 0, 0, 0, 0, 0⟩, 0xffffffff0000001f, 0x400, none, []⟩ -- TIME_OUTn_CFG
  , ⟨⟨0xf0308, (1, 0x10000000), (1, 0x10000000), (4, 32), 0, 0, 0, 0, 0⟩, 0xffffffffffffffff, 0x400, none, []⟩ -- TIME_OUTn_START
  , ⟨⟨0xf0310, (1, 0x10000000), (1, 0x10000000), (4, 32), 0, 0, 0, 0, 0⟩, 0xffffffff, 0x400, none, [⟨0, 32, 20, 4294967295, 1⟩]⟩ -- TIME_OUTn_PERIOD
  , ⟨⟨0xf0400, (1, 0x10000000), (1, 0x10000000), (2, 32), 0, 0, 0, 0, 0⟩, 0x3, 0x400, none, []⟩ -- TIME_INn_CFG
  , ⟨⟨0xf0408, (1, 0x10000000), (1, 0x10000000), (2, 32), 0, 0, 0, 0, 0⟩, 0x0, 0x400, none, []⟩ -- TIME_INn_CAP
  , ⟨⟨0xf0410, (1, 0x10000000), (1, 0x10000000), (2, 32), 0, 0, 0, 0, 0⟩, 0x0, 0x400, none, []⟩ -- TIME_INn_CAPF
  , ⟨⟨0x100000, (1, 0x10000000), (1, 0x10000000), (1, 0x10000000), 0, 0, 0, 0, 0⟩, 0x1ffffffffff, 0x800, none, []⟩ -- TWIN_CFG
  , ⟨⟨0x100008, (1, 0x10000000), (1, 0x10000000), (1, 0x10000000), 0, 0, 0, 0, 0⟩, 0x0, 0x800, none, []⟩ -- TWIN_STATUS
  , ⟨⟨0x100010, (1, 0x10000000), (1, 0x10000000), (1, 0x10000000), 0, 0, 0, 0, 0⟩, 0x0, 0x800, none, []⟩ -- TWIN_LINK_STAT
  , ⟨⟨0x100018, (1, 0x10000000), (1, 0x10000000), (1, 0x10000000), 0, 0, 0, 0, 0⟩, 0xff, 0x800, none, [⟨4, 4, 1, 15, 1⟩]⟩ -- TWIN_JRN
  , ⟨⟨0x100020, (1, 0x10000000), (1, 0x10000000), (1, 0x10000000), 0, 0, 0, 0, 0⟩, 0x0, 0x800, none, []⟩ -- TWIN_JRN_POS
  , ⟨⟨0x100028, (1, 0x10000000), (1, 0x10000000), (1, 0x10000000), 0, 0, 0, 0, 0⟩, 0x0, 0x800, none, []⟩ -- TWIN_JRN_OCC
  , ⟨⟨0x100030, (1, 0x10000000), (1, 0x10000000), (1, 0x10000000), 0, 0, 0, 0, 0⟩, 0x0, 0x800, none, []⟩ -- TWIN_BULK
  , ⟨⟨0x100038, (1, 0x10000000), (1, 0x10000000), (1, 0x10000000), 0, 0, 0, 0, 0⟩, 0xffffffffffffffff, 0x800, none, []⟩ -- TWIN_QMODE
  , ⟨⟨0x100100, (1, 0x10000000), (1, 0x10000000), (16, 16), 0, 0, 0, 0, 0⟩, 0x80000ffffffff000, 0x800, none, []⟩ -- TWIN_MREGr_BASE
  , ⟨⟨0x100108, (1, 0x10000000), (1, 0x10000000), (16, 16), 0, 0, 0, 0, 0⟩, 0x1ffffff, 0x800, none, []⟩ -- TWIN_MREGr_SIZE
  , ⟨⟨0x20, (1, 0x10000000), (1, 0x10000000), (1, 0x10000000), 0, 0, 0, 0, 0⟩, 0x1ffff, 0x2, none, []⟩ -- SYS_PERM
  , ⟨⟨0x400, (1, 0x10000000), (1, 0x10000000), (22, 8), 0, 0, 0, 0, 0⟩, 0xffffff, 0x40, none, []⟩ -- SYS_TAGQi
  , ⟨⟨0x1000, (1, 0x10000000), (1, 0x10000000), (16, 64), 0, 0, 0, 0, 0⟩, 0x3ffffffffffff, 0x4, none, []⟩ -- SYS_TRIt_START
  , ⟨⟨0x1008, (1, 0x10000000), (16, 64), (4, 8), 0, 0, 0, 0, 0⟩, 0xffffffffff, 0x4, none, []⟩ -- SYS_TRIt_LRANGEk
  , ⟨⟨0x120008, (1, 0x10000000), (1, 0x10000000), (1, 0x10000000), 0, 0, 0, 0, 0⟩, 0xff, 0x4000, none, []⟩ -- HBX_CFG
  , ⟨⟨0x120100, (1, 0x10000000), (1, 0x10000000), (8, 16), 0, 0, 0, 0, 0⟩, 0x7ffffffff, 0x4000, none, [⟨20, 10, 1, 1000, 1⟩, ⟨31, 4, 0, 12, 1⟩]⟩ -- HBX_INn_CFG
  ]

/-- The registers that image records may address, part 6 (R395). -/
def imgTable6 : List ImgReg :=
  [ ⟨⟨0x120200, (1, 0x10000000), (1, 0x10000000), (16, 8), 0, 0, 0, 0, 0⟩, 0xffffff, 0x4000, some 11, [⟨8, 2, 0, 2, 1⟩]⟩ -- HBX_RULEr
  , ⟨⟨0x130000, (1, 0x10000000), (1, 0x10000000), (1, 0x10000000), 0, 0, 0, 0, 0⟩, 0x0, 0xfc7e, none, []⟩ -- CLK_STATUS
  , ⟨⟨0x130008, (1, 0x10000000), (1, 0x10000000), (1, 0x10000000), 0, 0, 0, 0, 0⟩, 0x0, 0xfc7e, none, []⟩ -- CLK_REF
  , ⟨⟨0x130010, (1, 0x10000000), (1, 0x10000000), (1, 0x10000000), 0, 0, 0, 0, 0⟩, 0xffff, 0xfc7e, none, [⟨0, 8, 60, 125, 1⟩, ⟨8, 8, 100, 140, 1⟩]⟩ -- CLK_TEMP_THR
  , ⟨⟨0x130100, (1, 0x10000000), (1, 0x10000000), (11, 8), 0, 0, 0, 0, 0⟩, 0x0, 0xfc7e, none, []⟩ -- CLK_PLLp
  , ⟨⟨0x130200, (1, 0x10000000), (1, 0x10000000), (10, 8), 0, 0, 0, 0, 0⟩, 0x0, 0xfc7e, none, []⟩ -- CLK_VMONs
  , ⟨⟨0x130300, (1, 0x10000000), (1, 0x10000000), (6, 8), 0, 0, 0, 0, 0⟩, 0x0, 0xfc7e, none, []⟩ -- CLK_TEMPi
  , ⟨⟨0x130400, (1, 0x10000000), (1, 0x10000000), (1, 0x10000000), 0, 0, 0, 0, 0⟩, 0x0, 0xfc7e, none, []⟩ -- CLK_I2C_CMD
  , ⟨⟨0x130408, (1, 0x10000000), (1, 0x10000000), (1, 0x10000000), 0, 0, 0, 0, 0⟩, 0x0, 0xfc7e, none, []⟩ -- CLK_I2C_STAT
  , ⟨⟨0x130500, (1, 0x10000000), (1, 0x10000000), (1, 0x10000000), 0, 0, 0, 0, 0⟩, 0xffffffff, 0xfc7e, none, []⟩ -- CLK_GPIO_DIR
  , ⟨⟨0x130508, (1, 0x10000000), (1, 0x10000000), (1, 0x10000000), 0, 0, 0, 0, 0⟩, 0xffffffff, 0xfc7e, none, []⟩ -- CLK_GPIO_OUT
  , ⟨⟨0x130510, (1, 0x10000000), (1, 0x10000000), (1, 0x10000000), 0, 0, 0, 0, 0⟩, 0x0, 0xfc7e, none, []⟩ -- CLK_GPIO_IN
  ]

/-- The registers that image records may address (R395). -/
def imgTable : List ImgReg :=
  imgTable0 ++ imgTable1 ++ imgTable2 ++ imgTable3 ++ imgTable4 ++ imgTable5 ++ imgTable6

end Sys2Proof.Machine
end

