-- ==== Sys2Proof/Machine/Image.lean ====
section
/-!
DEFINITION. The Kopex image (R391 to R396): its checks, its sections, and what each section writes.
-/

namespace Sys2Proof.Machine

/-! ### The image's bytes (R392) -/

/-- A byte of the flash. -/
def State.flashByte (s : State) (i : Nat) : Byte := SMap.get flashErased s.nvm.flash i

/-- Bytes of the flash. -/
def State.flashBytes (s : State) (off n : Nat) : List Byte := (List.range n).map fun i => s.flashByte (off + i)

/-- A little-endian field. -/
def leAt (d : List Byte) (i n : Nat) : Nat := leNat ((d.drop i).take n)

/-- Bytes that are all zero. -/
def zeros (d : List Byte) (i n : Nat) : Bool := ((d.drop i).take n).all fun b => decide (b = 0)

/-- IMAGE_LEN. -/
def imgLen (h : List Byte) : Nat := leAt h 8 4
/-- SVN. -/
def imgSvn (h : List Byte) : Nat := leAt h 0xC 4
/-- KEY_IDX. -/
def imgKey (h : List Byte) : Nat := byteAt h 0x19
/-- PUBKEY. -/
def imgPub (h : List Byte) : List Byte := (h.drop 0x20).take 97
/-- SVN_COMMIT [0]. -/
def imgCommit (h : List Byte) : Bool := decide (byteAt h 0x1A % 2 = 1)

/-- An entry of the section table: TYPE, OFFSET, LENGTH, DIGEST. -/
def imgEntry (h : List Byte) (k : Nat) : Nat × Nat × Nat × List Byte :=
  let e := (h.drop (0x200 + 64 * k)).take 64
  (byteAt e 0, leAt e 4 4, leAt e 8 4, (e.drop 16).take 48)

/-- The section table. -/
def imgEntries (h : List Byte) : List (Nat × Nat × Nat × List Byte) := (List.range 16).map (imgEntry h)

/-! ### Checks 2 to 8 (R393) -/

/-- Check 2: MAGIC, FORMAT, NSECT, IMAGE_LEN and the reserved header bytes. -/
def imgHeaderOk (h : List Byte) : Bool :=
  decide (leAt h 0 4 = 0x3158504B) && decide (leAt h 4 2 = 1) && decide (leAt h 6 2 = 16) && decide (imgLen h % 64 = 0) &&
    decide (imgLen h ≤ 14680064) && zeros h 0x1B 5 && zeros h 0x81 0x1F && zeros h 0x100 0x100

/-- Check 3: the root key is programmed, not revoked, and its hash is that of PUBKEY. -/
def State.imgKeyOk (s : State) (h : List Byte) : Bool :=
  let k := imgKey h
  decide (k < 4) && !s.otp.revoked.testBit k &&
    match SMap.get none s.otp.keys k with
    | some x => decide (beNat (Config.sha384 (imgPub h)) = x)
    | none => false

/-- Check 4: the signature over the header up to 0x09F and the section table. -/
def imgSigOk (h : List Byte) : Bool := Config.ecdsaP384 (imgPub h) (h.take 0xA0 ++ (h.drop 0x200).take 1024) ((h.drop 0xA0).take 96)

/-- Check 6: LC_MASK and DEVICE_ID. -/
def State.imgForUs (s : State) (h : List Byte) : Bool :=
  let lc := s.lcNow
  let dev := leAt h 0x10 8
  (decide (lc = 1) || decide (lc = 2) || decide (lc = 4)) && (byteAt h 0x18).testBit lc && (decide (dev = 0) || decide (dev = (s.rd Reg.sysId).toNat))

/-- Check 7: every type once, every section in its place, none overlapping. -/
def imgTableOk (h : List Byte) : Bool :=
  let es := imgEntries h
  ((List.range 16).all fun t => decide ((es.filter fun e => decide (e.1 = t + 1)).length = 1)) &&
    (es.all fun e => decide (e.2.1 % 64 = 0) && decide (0x600 ≤ e.2.1) && decide (e.2.1 + e.2.2.1 ≤ imgLen h)) &&
    ((List.range 16).all fun i => (List.range i).all fun j =>
      let a := imgEntry h i
      let b := imgEntry h j
      decide (a.2.1 + a.2.2.1 ≤ b.2.1) || decide (b.2.1 + b.2.2.1 ≤ a.2.1) || decide (a.2.2.1 = 0) || decide (b.2.2.1 = 0))

/-- Check 8: every section's digest. -/
def State.imgDigestsOk (s : State) (h : List Byte) : Bool :=
  (imgEntries h).all fun e => decide (Config.sha384 (s.flashBytes e.2.1 e.2.2.1) = e.2.2.2)

/-- The cause of the first of the checks 2 to 8 that the image in the flash fails. -/
def State.imgCause (s : State) : Option Nat :=
  let h := s.flashBytes 0 0x600
  if !imgHeaderOk h then some 2
  else if !s.imgKeyOk h then some 3
  else if !imgSigOk h then some 4
  else if imgSvn h < s.otp.minSvn then some 5
  else if !s.imgForUs h then some 6
  else if !imgTableOk h then some 7
  else if !s.imgDigestsOk h then some 8
  else none

/-- The contents of the section of a type. -/
def imgSection (img : List Byte) (t : Nat) : List Byte :=
  match (imgEntries img).find? fun e => decide (e.1 = t) with
  | some e => (img.drop e.2.1).take e.2.2.1
  | none => []

/-! ### Records (R395) -/

/-- The records of a section: addresses and values; none if the section is no whole number of records. -/
def imgRecords (d : List Byte) : Option (List (Nat × Word)) :=
  if d.length % 16 ≠ 0 then none
  else some ((List.range (d.length / 16)).map fun i => (leAt d (16 * i) 8, BitVec.ofNat 64 (leAt d (16 * i + 8) 8)))

/-- Every field of a value lies in its range; the checks do not apply where the register's VALID, or ENABLE for TRI_WDOG_CTL, is 0 (R395). -/
def ImgReg.inRange (r : ImgReg) (v : Word) : Bool :=
  (match r.valid with | some n => !bit v n | none => false) ||
    r.ranges.all fun f => decide (f.min ≤ bits v f.lo f.len) && decide (bits v f.lo f.len ≤ f.max) && decide (bits v f.lo f.len % f.step = 0)

/-- The ranges that are signed, or depend on the index or on another field of the register: LOG_SYNC, domain 0, and CRIT above HIGH. -/
def imgSpecialOk (off : Nat) (v : Word) : Bool :=
  match famIx off (Reg.timeDomCfg 0) 0x10 4 with
  | some k =>
    let l := bits v Reg.timeDomCfg_LOG_SYNC.lo 4
    (decide (l ≤ 3) || decide (11 ≤ l)) && (decide (k ≠ 0) || (decide (bits v 0 8 = 0) && decide (bits v 8 2 = 1)))
  | none => decide (off ≠ Reg.clkTempThr) || decide (bits v 0 8 < bits v 8 8)

/-- The gate and rule of a register of a gate rule. -/
def ruleAt (off : Nat) : Option (Nat × Nat) :=
  let g := (off - 0x60000) / 0x800
  let o := (off - 0x60000) % 0x800
  if 0x60000 ≤ off ∧ g < 27 ∧ 0x100 ≤ o ∧ o < 0x500 then some (g, (o - 0x100) / 0x20) else none

/-- The register is frozen by a lock that blocking has set (R395). -/
def State.imgFrozen (s : State) (off : Nat) : Bool :=
  if (famIx off (Reg.fcruMatrix 0) 8 512).isSome then bit (s.rd off) 63
  else if off = Reg.edcCtl then bit (s.rd off) 2
  else match ruleAt off with
    | some (g, k) => bit (s.rd (Reg.gateRuleCtl g k)) 4
    | none => false

/-- A record writes its register; an entry of the matrix for a reserved or fixed source takes nothing (R33, R35); a rule's CTL takes FROM_IMG. -/
def State.imgStore (s : State) (off : Nat) (v : Word) : State :=
  match famIx off (Reg.fcruMatrix 0) 8 512 with
  | some src => if sourceListed src && !sourceFixed src then s.wr off v else s
  | none =>
    match ruleAt off with
    | some (g, k) => if off = Reg.gateRuleCtl g k then (s.wr off v).fset off Reg.gateRuleCtl_FROM_IMG 1 else s.wr off v
    | none => s.wr off v

/-- A record at an offset from the MMIO base: check 9 and its effect (R393, R395). -/
def State.imgRecordAt (s : State) (sec off : Nat) (v : Word) : Option State :=
  match imgTable.find? fun x => x.desc.has off with
  | none => none
  | some x =>
    let m := BitVec.ofNat 64 x.sets
    let old := s.rd off
    if !x.secs.testBit sec || decide (v &&& ~~~m ≠ 0) || !x.inRange v || !imgSpecialOk off v then none
    else if s.imgFrozen off && decide (old &&& m ≠ v) then none
    else if s.imgFrozen off || decide (x.sets = 0) then some s
    else some (s.imgStore off ((old &&& ~~~m) ||| v))

/-- One record of a section; none where it fails check 9 (R395). -/
def State.imgRecord (s : State) (sec : Nat) (r : Nat × Word) : Option State :=
  if r.1 % 8 ≠ 0 ∨ r.1 < paMmio then none else s.imgRecordAt sec (r.1 - paMmio) r.2

/-- The records of a section are applied in order. -/
def State.imgApply (s : State) (sec : Nat) : List (Nat × Word) → Option State
  | [] => some s
  | r :: rs => (s.imgRecord sec r).bind fun s => s.imgApply sec rs

/-- A section of records. -/
def State.imgSec (s : State) (img : List Byte) (t : Nat) : Option State := (imgRecords (imgSection img t)).bind (s.imgApply t)

/-! ### Sections of fixed format (R184, R209, R370, R395) -/

/-- One Fuller binding record (R184). -/
def State.imgBind (s : State) (c : Nat) (d : List Byte) : Option State :=
  let fl := byteAt d 0
  let valid := fl.testBit 0
  let root := leAt d 8 8
  if 16 ≤ fl ∨ leAt d 6 2 ≠ 0 ∨ root % 2 ^ 12 ≠ 0 ∨ 2 ^ 44 ≤ root ∨ (valid ∧ (15 < byteAt d 1 ∨ leAt d 2 2 < 10)) then none
  else
    let s := s.wr (Reg.fulCBind c) (BitVec.ofNat 64 (b2n valid + 2 * (byteAt d 1 % 16) + 2 ^ 5 * b2n (fl.testBit 1) + 2 ^ 6 * leAt d 2 2))
    let s := s.fset (Reg.xltCfg c) Reg.xltCfg_PRIV (b2n (fl.testBit 2))
    let s := (s.fset (Reg.xltRoot c) Reg.xltRoot_PPN (root / 2 ^ 12)).fset (Reg.xltRoot c) Reg.xltRoot_LOCK (b2n (fl.testBit 3))
    some (s.fset (Reg.xltAsid c) Reg.xltAsid_ASID (leAt d 4 2))

/-- The FUL_BIND section: eight records. -/
def State.imgBinds (s : State) (d : List Byte) : Option State :=
  if d.length ≠ 128 then none
  else (List.range 8).foldl (fun (o : Option State) c => o.bind fun s => s.imgBind c (d.drop (16 * c))) (some s)

/-- One window of the schedule section (R209). -/
def State.imgWindow (s : State) (w : Nat) (d : List Byte) : Option State :=
  if leAt d 0 2 = 0 ∨ leAt d 6 2 ≠ 0 ∨ ((List.range 4).any fun i => decide (16 ≤ byteAt d (2 + i))) then none
  else
    some (s.wr (Reg.fulWin w) (BitVec.ofNat 64
      (leAt d 0 2 + (List.range 4).foldl (fun n i => n + 2 ^ (16 + 4 * i) * byteAt d (2 + i)) 0)))

/-- The FUL_SCHED section (R209, R395). -/
def State.imgSched (s : State) (d : List Byte) : Option State :=
  let n := byteAt d 0
  if d.length ≠ 16 + 8 * n ∨ n < 1 ∨ 64 < n ∨ 4 ≤ byteAt d 1 ∨ leAt d 2 2 = 0 ∨ leAt d 4 4 ≠ 0 then none
  else
    let s := (s.wr Reg.fulSchedCfg (BitVec.ofNat 64 (n - 1))).wr Reg.fulSchedT0 (BitVec.ofNat 64 (leAt d 8 8))
    let s := s.wr Reg.fulPgCtl (BitVec.ofNat 64 (byteAt d 1 + 2 ^ 16 * leAt d 2 2))
    (List.range n).foldl (fun (o : Option State) w => o.bind fun s => s.imgWindow w (d.drop (16 + 8 * w))) (some s)

/-- One entry of the Pounce schedule section (R370). -/
def State.imgPncEnt (s : State) (n : Nat) (d : List Byte) : Option State :=
  if 7 < byteAt d 0 ∨ leAt d 2 2 = 0 ∨ leAt d 6 2 ≠ 0 then none
  else some (s.wr (Reg.pncEnt n) (BitVec.ofNat 64 (byteAt d 0 + 2 ^ 4 * byteAt d 1 + 2 ^ 12 * leAt d 2 2 + 2 ^ 28 * leAt d 4 2)))

/-- The PNC_SCHED section (R370, R395). -/
def State.imgPnc (s : State) (d : List Byte) : Option State :=
  let n := byteAt d 0
  if d.length ≠ 16 + 8 * n ∨ 32 < n ∨ byteAt d 1 = 0 ∨ leAt d 2 6 ≠ 0 then none
  else
    let s := (s.wr Reg.pncSched (BitVec.ofNat 64 (n + 2 ^ 6 * byteAt d 1))).wr Reg.pncT0 (BitVec.ofNat 64 (leAt d 8 8))
    (List.range n).foldl (fun (o : Option State) k => o.bind fun s => s.imgPncEnt k (d.drop (16 + 8 * k))) (some s)

/-- One host-key entry: a key index and the wrapped key (R395). -/
def State.imgHostKey (s : State) (d : List Byte) : Option State :=
  if 8 ≤ byteAt d 0 then none
  else
    match Config.keyUnwrap s.otp.wrap ((d.drop 1).take 40) with
    | none => none
    | some k => some (s.modDhp fun x => { x with keys := SMap.put 0 x.keys (byteAt d 0) k })

/-- The DHP section: records, then eight host-key entries of 41 bytes. -/
def State.imgDhp (s : State) (d : List Byte) : Option State :=
  if d.length < 328 then none
  else
    let ks := d.drop (d.length - 328)
    ((imgRecords (d.take (d.length - 328))).bind (s.imgApply 13)).bind fun s =>
      (List.range 8).foldl (fun (o : Option State) k => o.bind fun s => s.imgHostKey (ks.drop (41 * k))) (some s)

/-- The entries of the CODE section: offset, length and digest. -/
def imgCode (d : List Byte) : List (Nat × Nat × List Byte) :=
  (List.range (d.length / 56)).map fun i => (leAt d (56 * i) 4, leAt d (56 * i + 4) 4, (d.drop (56 * i + 8)).take 48)

/-- The CODE section's fields are in their ranges. -/
def imgCodeOk (d : List Byte) : Bool :=
  decide (d.length % 56 = 0) && decide (d.length ≤ 448) &&
    (imgCode d).all fun e => decide (e.1 % 32 = 0) && decide (e.2.1 % 32 = 0) && decide (e.1 + e.2.1 ≤ 2 ^ 25)

/-- The contracts that records wrote of entries in use hold values in their ranges (ADM_ENTRYn_CONTRACT). -/
def State.imgContracts (s : State) (img : List Byte) : Bool :=
  ((imgRecords (imgSection img 12)).getD []).all fun r =>
    match famIx (r.1 - paMmio) (Reg.admEntryContract 0) 0x20 1024 with
    | some n =>
      let c := s.rd (Reg.admEntryContract n)
      !s.entryValid n || (decide (1 ≤ bits c 14 10) && decide (1 ≤ bits c 24 24))
    | none => true

/-- The sections in ascending TYPE, or none where one fails check 9 (R395, R396). -/
def State.imgSections (s : State) (img : List Byte) : Option State :=
  ([1, 2, 3, 4, 5, 6].foldl (fun (o : Option State) t => o.bind fun s => s.imgSec img t) (some s)).bind fun s =>
  (s.imgBinds (imgSection img 7)).bind fun s =>
  (s.imgSched (imgSection img 8)).bind fun s =>
  (s.imgPnc (imgSection img 9)).bind fun s =>
  ([10, 11, 12].foldl (fun (o : Option State) t => o.bind fun s => s.imgSec img t) (some s)).bind fun s =>
  (s.imgDhp (imgSection img 13)).bind fun s =>
  ([14, 15].foldl (fun (o : Option State) t => o.bind fun s => s.imgSec img t) (some s)).bind fun s =>
  if imgCodeOk (imgSection img 16) && s.imgContracts img then some s else none

/-! ### A halt after tables have been applied (R394) -/

/-- The registers that a section's records name, each with the bits that a record may set. -/
def imgNamed (d : List Byte) : List (Nat × Nat) :=
  ((imgRecords d).getD []).filterMap fun r =>
    match imgTable.find? fun x => x.desc.has (r.1 - paMmio) with
    | none => none
    | some x => if r.1 % 8 ≠ 0 ∨ r.1 < paMmio then none else some (r.1 - paMmio, x.sets)

/-- The registers that the tables of an image write, each with the bits that they may set: records, then the sections of fixed format (R184, R209,
R370, R395). -/
def imgWritten (img : List Byte) : List (Nat × Nat) :=
  let dhp := imgSection img 13
  let all (r : Nat) : Nat × Nat := (r, 2 ^ 64 - 1)
  let fld (r : Nat) (f : Fld) : Nat × Nat := (r, 2 ^ f.lo * (2 ^ f.len - 1))
  ([1, 2, 3, 4, 5, 6, 10, 11, 12, 14, 15].flatMap fun t => imgNamed (imgSection img t)) ++ imgNamed (dhp.take (dhp.length - 328)) ++
    ((List.range 8).flatMap fun c => [(Reg.fulCBind c, 2 ^ 22 - 1), fld (Reg.xltCfg c) Reg.xltCfg_PRIV, fld (Reg.xltRoot c) Reg.xltRoot_PPN,
      fld (Reg.xltRoot c) Reg.xltRoot_LOCK, fld (Reg.xltAsid c) Reg.xltAsid_ASID]) ++
    [(Reg.fulSchedCfg, 63), all Reg.fulSchedT0, (Reg.fulPgCtl, 0xFFFF0003)] ++
    ((List.range (byteAt (imgSection img 8) 0)).map fun w => (Reg.fulWin w, 2 ^ 32 - 1)) ++
    [(Reg.pncSched, 2 ^ 14 - 1), all Reg.pncT0] ++ ((List.range (min 32 (byteAt (imgSection img 9) 0))).map fun n => (Reg.pncEnt n, 2 ^ 44 - 1))

/-- The registers that tables wrote before a halt of cause 9 or 10 hold unspecified values (R394): free values, in every bit that a table of the image may
set (log entry 140). -/
def State.unspecTables (s : State) : State :=
  (imgWritten s.boot.image).foldl (fun s x =>
    let m := BitVec.ofNat 64 x.2
    s.fresh.2.wr x.1 ((s.rd x.1 &&& ~~~m) ||| (s.fresh.1 &&& m))) s

end Sys2Proof.Machine
end

