-- ==== Sys2Proof/Machine/MemCmds.lean ====
section
/-!
DEFINITION. The memories as commands (R245 to R290): rotation of the spare banks, power states, zero-on-demand clearing, corrected write-backs,
merge-buffer drains, remapping, injection, scrubbing, and the registers of the MEM, EDC and DDR blocks.
-/

namespace Sys2Proof.Machine

/-! ### Rotation (R247 to R249, R256) -/

/-- The phase of a rotation, for Crown RAM or Stream SRAM (MEM_ROT_STAT); none while none runs. -/
def State.rotPhase (s : State) (cr : Bool) : Option Nat :=
  let w := s.rd Reg.memRotStat
  if cr then (if bit w 12 then some (bits w 17 3) else none) else (if bit w 0 then some (bits w 9 3) else none)

/-- The rotation enters a phase. -/
def State.setRotPhase (s : State) (cr : Bool) (n : Nat) : State :=
  s.fset Reg.memRotStat (if cr then Reg.memRotStat_CR_PHASE else Reg.memRotStat_SS_PHASE) n

/-- The logical bank being rotated. -/
def State.rotBank (s : State) (cr : Bool) : Nat :=
  s.fget Reg.memRotStat (if cr then Reg.memRotStat_CR_BANK else Reg.memRotStat_SS_BANK)

/-- The rotation ends; power requests that waited for it take effect (R251). -/
def State.rotEnd (s : State) (cr : Bool) : State :=
  let b := s.rotBank cr
  let s := s.fset Reg.memRotStat (if cr then Reg.memRotStat_CR_ACTIVE else Reg.memRotStat_SS_ACTIVE) 0
  if cr then s else s.pwrApply ((List.range 16).map (b / 16 * 16 + ·))

/-- The slice of a rotation ends, with the rotation; a failed march is recorded (R371, R373, R374). -/
def State.rotSliceEnd (s : State) (cr pass : Bool) : State :=
  let k := if cr then 2 else 1
  let b := s.rotBank cr
  let s := (s.rotEnd cr).fset Reg.pncStatus (if cr then Reg.pncStatus_BUSY_CR else Reg.pncStatus_BUSY_SS) 0
  let s := (s.fset Reg.pncStatus Reg.pncStatus_PERMILLE 0).retainMaps
  match s.runningOf k with
  | none => s
  | some n => (if pass then s else s.sliceFail n b 0).sliceDone n

/-- SPARE_WAKE_DONE: the Stream SRAM spare is awake with its valid bits cleared; the copy begins (R248). -/
def execSpareWakeDone (s : State) : Out :=
  .next (if s.rotPhase false = some 0 then s.setRotPhase false 1 else s)

/-- ROTATION_COPY_DONE: every row has been copied; the bank's merge buffer drains, the map switches to the spare, and the bank left is
tested (R248, R256, R285). The map retained names the bank left as the spare: it is the one no logical bank has, also where a reset ends the
rotation here (R381). -/
def execRotationCopyDone (cr : Bool) (s : State) : Out :=
  if s.rotPhase cr ≠ some 1 then .next s
  else
    let b := s.rotBank cr
    if cr then
      let s := s.drainAll fun c => decide (c = 256 + b)
      let old := s.fget Reg.memCrMap (Reg.memCrMap_PHYSk b)
      let s := s.fset Reg.memCrMap (Reg.memCrMap_PHYSk b) (s.fget Reg.memCrSpare Reg.memCrSpare_SPARE)
      .next (((s.modProt fun p => { p with testCr := old }).setRotPhase true 3).retainMapsOf
        (s.fset Reg.memCrSpare Reg.memCrSpare_SPARE old))
    else
      let s := s.drainAll fun c => decide (c = b)
      let old := s.ssPhys b
      let s := s.ssMapTo b (s.fget (Reg.memSsMapHi (b / 16)) Reg.memSsMapHi_SPARE)
      .next (((s.modProt fun p => { p with testSs := old }).setRotPhase false 3).retainMapsOf
        (s.fset (Reg.memSsMapHi (b / 16)) Reg.memSsMapHi_SPARE old))

/-- ROTATION_MARCH_DONE: the march test of the isolated bank ends (R249, R256, R373): on a pass its valid bits are cleared; a failure marks it,
leaves the group, or Crown RAM, without a spare, and raises the source. -/
def execRotationMarchDone (cr pass : Bool) (s : State) : Out :=
  if s.rotPhase cr ≠ some 3 then .next s
  else if pass then .next ((s.setRotPhase cr 4).fset Reg.pncStatus Reg.pncStatus_PERMILLE 1000)
  else if cr then
    let s := (s.fset Reg.memCrSpare Reg.memCrSpare_DEGRADED 1).fset Reg.memCrSpare Reg.memCrSpare_FAILED s.prot.testCr
    .next ((s.raise 0x185).rotSliceEnd true false)
  else
    let r := Reg.memSsMapHi (s.rotBank false / 16)
    let s := (s.fset r Reg.memSsMapHi_DEGRADED 1).fset r Reg.memSsMapHi_FAILED s.prot.testSs
    let s := s.fadd Reg.memStat Reg.memStat_SS_DEGRADED 1
    .next ((s.raise 0x182).rotSliceEnd false false)

/-- ROTATION_CLEAR_DONE: the tested bank is cleared and settles as the spare (R248, R256). -/
def execRotationClearDone (cr : Bool) (s : State) : Out :=
  if s.rotPhase cr ≠ some 4 then .next s
  else
    let s := s.setRotPhase cr 5
    let s := if cr then (s.fset Reg.memCrSpare Reg.memCrSpare_SPARE s.prot.testCr).fsat Reg.memRotStat Reg.memRotStat_CR_DONE 1
      else (s.fset (Reg.memSsMapHi (s.rotBank false / 16)) Reg.memSsMapHi_SPARE s.prot.testSs).fsat Reg.memRotStat Reg.memRotStat_SS_DONE 1
    .next (s.rotSliceEnd cr true)

/-! ### Power states (R250 to R253) -/

/-- MEM_SS_PWR_WRITE: requests ON or the low state for 64 banks; ON starts wakes at once (R251). -/
def execMemSsPwrWrite (rq : Rq) (n : BitVec 2) (v : Word) (s : State) : Out := .next (s.gatedWrite rq (Reg.memSsPwr n.toNat) v)

/-- BANK_ENTER_LOW: a bank asked for its low state enters it once no request is in progress, its merge buffer drained; a bank going OFF
loses its contents (R250, R251, R285). -/
def execBankEnterLow (b : BitVec 8) (s : State) : Out :=
  let b := b.toNat
  let rot := decide (s.fget Reg.memRotStat Reg.memRotStat_SS_ACTIVE = 1) && decide (s.rotBank false / 16 = b / 16)
  let busy := s.mesh.flights.any fun f =>
    !f.done && decide (windowOf f.req.pa.toNat = .stream) && decide (ssBank (f.req.pa.toNat - paStream) = b)
  if s.bankState b ≠ 0 ∨ s.bankPwr b ∨ rot ∨ busy then .next s
  else
    let s := s.drainAll fun c => decide (c = b)
    if bit (s.rd (Reg.memSsLowmode (b / 64))) (b % 64) then .next ((s.loseBank b).setBank b 2) else .next (s.setBank b 1)

/-- BANK_WAKE_DONE: a waking bank is ON; the next of its group that waits starts, and the requests that waited are served (R252). -/
def execBankWakeDone (b : BitVec 8) (s : State) : Out :=
  if s.bankState b.toNat ≠ 3 then .next s else .next (s.bankOn b.toNat).serveWaiting

/-! ### Zero-on-demand (R264 to R266) -/

/-- ZOD_CLEAR_DONE: a region's clear completes; the accesses that waited are performed in arrival order (R264, R265). -/
def execZodClearDone (r : BitVec 20) (s : State) : Out :=
  if s.prot.clearing.contains r.toNat then .next (s.zodDone r.toNat).serveWaiting else .next s

/-- The regions in the order in which the background clearer takes them: the ranges of mode FIRST in entry order, then all others,
ascending (R264, R266). -/
def State.bgOrder (s : State) : List Nat :=
  ((List.range 4).flatMap fun n =>
    let w := s.rd (Reg.ddrZodRange n)
    if bits w 40 2 = 2 then (List.range (bits w 20 20)).map (bits w 0 20 + ·) else []) ++ List.range (s.dramSize / 2 ^ 21)

/-- ZOD_BACKGROUND_CLEAR: the background clearer clears the next uncleared region, while it is enabled, after DRAM training, and between demand clears
(R264, R266, R389). It takes no region whose map word is uncorrectable (R267). -/
def execZodBackgroundClear (s : State) : Out :=
  if s.fget Reg.ddrZodCtl Reg.ddrZodCtl_BG_EN = 0 ∨ s.fget Reg.ddrTrainStat Reg.ddrTrainStat_DONE = 0 ∨ s.prot.clearing ≠ [] then .next s
  else
    match s.bgOrder.find? fun r => !s.cleared r && !s.latent.zod.contains r && decide (r < s.dramSize / 2 ^ 21) with
    | none => .next s
    | some r => .next (s.zodDone r)

/-- DDR_ZOD_CTL_WRITE: background clearing's enable and rate. -/
def execDdrZodCtlWrite (rq : Rq) (v : Word) (s : State) : Out := .next (s.gatedWrite rq Reg.ddrZodCtl v)

/-- DDR_ZOD_PROBE_WRITE: selects the region that a read of DDR_ZOD_PROBE reports. -/
def execDdrZodProbeWrite (rq : Rq) (v : Word) (s : State) : Out := .next (s.gatedWrite rq Reg.ddrZodProbe v)

/-- DDR_TEMP_DERATE: a channel's temperature reporting changes its refresh rate, and the channel enters or leaves derating; entering raises
the source (R268, DDR_CHn_STAT). -/
def execDdrTempDerate (ch : Fin 16) (refresh : BitVec 3) (derated : Bool) (s : State) : Out :=
  let was := s.fget (Reg.ddrChStat ch) Reg.ddrChStat_DERATED
  let s := (s.fset (Reg.ddrChStat ch) Reg.ddrChStat_REFRESH refresh.toNat).fset (Reg.ddrChStat ch) Reg.ddrChStat_DERATED (b2n derated)
  let any := (List.range 16).any fun n => decide (s.fget (Reg.ddrChStat n) Reg.ddrChStat_DERATED = 1)
  let s := s.fset Reg.ddrStatus Reg.ddrStatus_DERATED (b2n any)
  .next (if derated && decide (was = 0) then s.raise 0x1B4 else s)

/-! ### Codes, logs, remapping and scrubbing (R275 to R290) -/

/-- CE_WRITEBACK: a queued corrected write-back lands, unless newer data has superseded it (R275, R276). A miscorrected word is written as the read
gave it: its bytes are free values (R271, R272; log entry 17). -/
def execCeWriteback (pa : BitVec 44) (s : State) : Out :=
  let u := pa.toNat
  let k := (classOf u).getD 0
  if !s.prot.wb.contains u then .next s
  else .next ((if s.prot.miss.contains u then s.freeOutside u 0 (unitSize k) else s).cleanUnit k u)

/-- MERGE_DRAIN: a merge-buffer entry drains to its array (R285). -/
def execMergeDrain (pa : BitVec 44) (s : State) : Out :=
  match s.mergeOf pa.toNat with
  | some e => .next (s.drain ((classOf e.unit).getD 0) e)
  | none => .next s

/-- A nominated unit is copied to a spare row and redirected: the lowest invalid entry of its instance, or REMAP_FULL (R281, R282). The second
component says whether it was. -/
def State.remapUnit (s : State) (k n : Nat) : State × Bool :=
  let u := s.fget (Reg.edcLogAddr k n) Reg.edcLogAddr_ADDR
  let i := s.remapInst u
  let span := remapSpan u
  let base := u / span * span
  let mark (s : State) : State := s.fset (Reg.edcLogInfo k n) Reg.edcLogInfo_REMAPPED 1
  let covers (e : Nat) : Bool :=
    decide (s.fget (Reg.edcRemap i e) Reg.edcRemap_VALID = 1) && decide (s.fget (Reg.edcRemap i e) Reg.edcRemap_ADDR * 8 / span * span = base)
  if (List.range 8).any covers then (mark s, false)
  else
    match (List.range 8).find? fun e => decide (s.fget (Reg.edcRemap i e) Reg.edcRemap_VALID = 0) with
    | none => (s.raise 0x189, false)
    | some e =>
      let s := (unitsOf k base span).foldl (fun s x => s.fixUnit k x) s
      (mark (s.wr (Reg.edcRemap i e) (BitVec.ofNat 64 (u / 8 * 8 + 2 ^ 44 * e + 2 ^ 47))), true)

/-- The log entry waits to be remapped: nominated, not yet remapped, with AUTO_REMAP set (R278). -/
def State.remapDue (s : State) (k n : Nat) : Bool :=
  let i := s.rd (Reg.edcLogInfo k n)
  bit i 18 && bit i 16 && !bit i 17 && decide (s.fget Reg.edcCtl Reg.edcCtl_AUTO_REMAP = 1)

/-- REMAP: a nominated log entry's unit is remapped (R278, R281). -/
def execRemap (k : Fin 4) (n : Fin 32) (s : State) : Out := if s.remapDue k n then .next (s.remapUnit k n).1 else .next s

/-- EDC_CTL_WRITE: the protection mode and automatic remapping, while not locked. -/
def execEdcCtlWrite (rq : Rq) (v : Word) (s : State) : Out := .next (s.gatedWrite rq Reg.edcCtl v)
/-- EDC_LOCK: EDC_CTL.LOCK freezes bits [1:0] until reset. -/
def execEdcLock (rq : Rq) (s : State) : Out := .next (s.gatedWrite rq Reg.edcCtl ((s.rd Reg.edcCtl &&& 3) ||| 4))
/-- LOG_CLR: invalidates every entry of the classes given (EDC_CTL.LOG_CLR). -/
def execLogClr (rq : Rq) (m : BitVec 5) (s : State) : Out :=
  .next (s.gatedWrite rq Reg.edcCtl ((s.rd Reg.edcCtl &&& 3) ||| (m.setWidth 64 <<< 8)))
/-- UE_FIRST_CLEAR: lets the next uncorrectable error of a class be recorded. -/
def execUeFirstClear (rq : Rq) (k : Fin 5) (s : State) : Out := .next (s.gatedWrite rq (Reg.edcClassUeFirst k) (BitVec.twoPow 64 63))
/-- EDC_INJ_ARM: a write of EDC_INJ_CTL that arms an injection; without INJECT the ARM bit is ignored (R287). -/
def execEdcInjArm (rq : Rq) (v : BitVec 4) (s : State) : Out := .next (s.gatedWrite rq Reg.edcInjCtl (v.setWidth 64 ||| 0x10))
/-- FIRED_CLEAR: EDC_INJ_CTL.FIRED. -/
def execFiredClear (rq : Rq) (s : State) : Out := .next (s.gatedWrite rq Reg.edcInjCtl ((s.rd Reg.edcInjCtl &&& 0xF) ||| 0x20))
/-- SCRUB_GO: starts a scrub or refuses it (R288). -/
def execScrubGo (rq : Rq) (s : State) : Out := .next (s.gatedWrite rq Reg.edcScrubGo 1)
/-- SCRUB_ABORT: stops a running scrub (R288). -/
def execScrubAbort (rq : Rq) (s : State) : Out := .next (s.gatedWrite rq Reg.edcScrubGo 2)
/-- REMAP_LOCK: keeps a remap entry through reset (R282). -/
def execRemapLock (rq : Rq) (i : Fin 312) (e : Fin 8) (s : State) : Out := .next (s.gatedWrite rq (Reg.edcRemap i e) (BitVec.twoPow 64 48))

/-- A unit that the scrub skips: an unwritten SRAM word, an uncleared region, a bank that is not ON (R289). -/
def State.scrubSkips (s : State) (k u : Nat) : Bool :=
  !s.written k u || (decide (k = 3) && !s.cleared (ddrRegion u)) || (decide (k = 0) && decide (s.bankState (ssBank (u - paStream)) ≠ 0))

/-- One skipped unit; the register counts in thousands (EDC_SCRUB_SUM.SKIPPED). -/
def State.countSkip (s : State) : State :=
  let s := s.modProt fun p => { p with skipped := p.skipped + 1 }
  s.fset Reg.edcScrubSum Reg.edcScrubSum_SKIPPED (min 0xFFFF (s.prot.skipped / 1000))

/-- The scrub's remaps that a correctable unit triggers (R278, R289, R290). -/
def State.scrubRemap (s : State) (k u : Nat) : State :=
  match s.logFind k u with
  | none => s
  | some n =>
    if s.compat || !s.remapDue k n then s
    else
      match s.remapUnit k n with
      | (s, true) => s.fsat Reg.edcScrubSum Reg.edcScrubSum_REMAPS 1
      | (s, false) => s

/-- The scrub finds an uncorrectable unit: counted, with the first address (R290). -/
def State.scrubUe (s : State) (u : Nat) : State :=
  let s := s.fsat Reg.edcScrubSum Reg.edcScrubSum_UE 1
  if s.fget Reg.edcScrubFirstUe Reg.edcScrubFirstUe_VALID = 1 then s else s.wr Reg.edcScrubFirstUe (BitVec.ofNat 64 (u + 2 ^ 63))

/-- The scrub reads one unit (R289): what the read corrects is counted and written back in both modes. A line whose map word is uncorrectable answers as
an uncorrectable unit (R267). -/
def State.scrubOne (s : State) (k u : Nat) : State :=
  if decide (k = 3) && s.zodBad u then s.zodFail.scrubUe u
  else if s.scrubSkips k u then s.countSkip
  else
    match s.unitFind k u with
    | (.ue, _, s) => s.scrubUe u
    | (_, false, s) => s
    | (r, true, s) =>
      let s := s.fsat Reg.edcScrubSum Reg.edcScrubSum_CE 1
      (if r = .wrong then s.queueMiss k u else s.queueWb k u).scrubRemap k u

/-- SCRUB_UNIT: the running scrub reads its next granule, unit by unit, and moves on (R289, R290). -/
def execScrubUnit (s : State) : Out :=
  if s.fget Reg.edcScrubPos Reg.edcScrubPos_STATE ≠ 1 then .next s
  else
    let pos := s.fget Reg.edcScrubPos Reg.edcScrubPos_POS * 64
    let base := s.fget Reg.edcScrubBase Reg.edcScrubBase_BASE * 64
    let len := s.fget Reg.edcScrubLen Reg.edcScrubLen_LEN * 64
    let k := (classOf pos).getD 3
    let s := (unitsOf k pos 64).foldl (fun s u => s.scrubOne k u) s
    let next := pos + 64
    let ended := decide (base + len ≤ next)
    let pct := if ended then 100 else (next - base) * 100 / len
    .next (s.wr Reg.edcScrubPos (BitVec.ofNat 64 (next + 2 ^ 44 * pct + 2 ^ 51 * (if ended then 2 else 1))))

end Sys2Proof.Machine
end

