-- ==== Sys2Proof/Machine/PncCmds.lean ====
section
/-!
DEFINITION. Pounce as commands (R365 to R375): slices falling due, the triad check with its array scan, the bank rotations, the timed tests, and
the PNC registers.
-/

namespace Sys2Proof.Machine

/-! ### The schedule (R369 to R371) -/

/-- Entry `n` falls due at the time given: its slice is tried, or an overlap with its earlier slice is counted (R369, R370). -/
def State.sliceDueAt (s : State) (n : Nat) : Option Nat → State
  | none => s
  | some d =>
    let e := s.pncEnt n
    if d < e.seen then s
    else
      let s := s.setEnt n { e with seen := d + 1 }
      match e.phase with
      | .waiting | .granted | .running => s.fsat (Reg.pncEntStat n) Reg.pncEntStat_OVERLAPS 1
      | .idle | .deferred => s.trySlice n true

/-- POUNCE_SLICE_DUE: an entry's due time has come: an entry still waiting or running counts an overlap, else the slice is tried (R369 to R371). -/
def execPounceSliceDue (n : Fin 32) (s : State) : Out :=
  if !s.schedActive || decide (s.fget Reg.pncSched Reg.pncSched_NENT ≤ n.val) then .next s else .next (s.sliceDueAt n (s.lastDue n))

/-- POUNCE_RETRY: a deferred slice is tried again (R369). -/
def execPounceRetry (n : Fin 32) (s : State) : Out :=
  .next (if (s.pncEnt n).phase = .deferred then s.trySlice n false else s)

/-- A slice that may run starts (PNC_STATUS.CUR_ENTRY). -/
def State.sliceStart (s : State) (n : Nat) : State :=
  (s.setEnt n { s.pncEnt n with phase := .running }).fset Reg.pncStatus Reg.pncStatus_CUR_ENTRY n

/-! ### The triad check (R368, R372) -/

/-- The bits flipped by a hold advance: each group of the copy, wrapping at its width (R368). -/
def State.holdAdvance (s : State) (t : Nat) : State :=
  let c := (s.triad t).holdCopy
  let s := s.modPnc fun p => { p with flips := (List.range 11).foldl (fun m g =>
    let k := 64 * t + 4 * g + c
    SMap.put 0 m k ((SMap.get 0 m k + 1) % groupWidth g)) p.flips }
  s.modTriad t fun x => { x with holdCopy := (c + 1) % 3 }

/-- TRIAD_CHECK: the injection hold of the slice that may run, then its array scan begins; `bad` is the hold cycle whose result was not the
expected one (R59, R368, R371, R372). How DETAIL packs it is not stated (a free value). -/
def execTriadCheck (bad : Option (BitVec 5)) (s : State) : Out :=
  match s.grantedOf 0 with
  | none => .next s
  | some n =>
    let t := (s.pncEnt n).item
    if !s.eligible 0 t then .next (s.sliceEnd n)
    else if s.resyncBusy t || (s.triad t).trans.isSome then .next ((s.deferSlice n true).wakeWaiting 0)
    else
      let s := (s.sliceStart n).holdAdvance t
      let s := match bad with
        | none => s
        | some _ =>
          let (v, s) := s.fresh
          (s.raise (srcCONFORMER_FAULT t)).sliceFail n t v.toNat
      let sc : Scan := { entry := n, status := s.rd (Reg.triStatus t), resync := s.rd (Reg.triResyncStat t) }
      .next (s.modPnc fun p => { p with scans := SMap.put none p.scans t (some sc) })

/-- The bytes of a copy's data TCM, by offset. -/
def State.tcmOf (s : State) (k : Nat) : SMap Byte :=
  (s.mem.filter fun e => decide (tcmAddr k 0 ≤ e.1) && decide (e.1 < tcmAddr k 0 + 0x10000)).map fun e => (e.1 - tcmAddr k 0, e.2)

/-- Two copies hold the same in every array that the scan reads (R372). -/
def State.sameArrays (s : State) (a b : Nat) : Bool :=
  let x := s.copy a
  let y := s.copy b
  decide (s.tcmOf a = s.tcmOf b) && decide (x.icache = y.icache) && decide (x.dcache = y.dcache) && decide (x.tlb = y.tlb) &&
    decide (x.btb = y.btb)

/-- The scan found an uncorrectable word of a copy: its source, and isolation as a read of it would bring (R132, R372). -/
def State.scanUe (s : State) (t c : Nat) (a : ArrayId) : State :=
  if s.mode t = 0 ∧ (s.liveCopies t).length = 3 then s.oddCopy t c (ueSrc t a) else s.ueStop t a

/-- What the scan's comparison finds: none, or the change that the outcome makes (R372). -/
def State.scanOutcome (s : State) (t : Nat) : Option State :=
  let live := s.liveCopies t
  match live.find? fun c => !(s.copy (copyIx t c)).ue.isEmpty with
  | some c => (s.copy (copyIx t c)).ue.head?.map fun u => s.scanUe t c u.1
  | none =>
    let same (a b : Nat) : Bool := s.sameArrays (copyIx t a) (copyIx t b)
    match live with
    | [a, b, c] =>
      if same a b && same b c then none
      else if same a b then some (s.oddCopy t c (srcODD_COPY t))
      else if same a c then some (s.oddCopy t b (srcODD_COPY t))
      else if same b c then some (s.oddCopy t a (srcODD_COPY t))
      else some (s.pairMismatch t)
    | [a, b] => if same a b then none else some (s.pairMismatch t)
    | _ => none

/-- ARRAY_SCAN_DONE: the scan of a triad ends; a resynchronisation, a mode change or a debugger attach since its start has abandoned it, which
counts as a deferral (R372, R374). The number of the array in DETAIL is a free value. -/
def execArrayScanDone (t : Fin 16) (s : State) : Out :=
  let t := t.val
  match SMap.get none s.pnc.scans t with
  | none => .next s
  | some sc =>
    let n := sc.entry
    let s := s.modPnc fun p => { p with scans := SMap.put none p.scans t none }
    let st := s.rd (Reg.triStatus t)
    let lost := s.resyncBusy t || (s.triad t).trans.isSome || decide (s.rd (Reg.triResyncStat t) ≠ sc.resync) ||
      decide (bits st Reg.triStatus_MODE.lo 2 ≠ bits sc.status Reg.triStatus_MODE.lo 2) ||
      decide (bits st Reg.triStatus_DBG_BROKEN.lo 1 ≠ bits sc.status Reg.triStatus_DBG_BROKEN.lo 1)
    if lost then .next ((s.deferSlice n true).wakeWaiting 0)
    else
      match s.scanOutcome t with
      | none => .next (s.sliceDone n)
      | some s' =>
        let (v, s') := s'.fresh
        .next ((s'.sliceFail n t v.toNat).sliceDone n)

/-! ### The bank rotations (R248, R256, R371) -/

/-- SSRAM_BANK: the rotation of the slice that may run starts with the spare's wake; none starts in a degraded group or one with a bank that is
not ON (R248, R249, R251). -/
def execSsramBank (s : State) : Out :=
  match s.grantedOf 1 with
  | none => .next s
  | some n =>
    let b := (s.pncEnt n).item
    let on := (List.range 16).all fun i => decide (s.bankState (b / 16 * 16 + i) = 0)
    if !s.eligible 1 b || !on || (s.rotPhase false).isSome then .next (s.sliceEnd n)
    else
      let s := ((s.sliceStart n).fset Reg.memRotStat Reg.memRotStat_SS_BANK b).fset Reg.memRotStat Reg.memRotStat_SS_ACTIVE 1
      .next ((s.setRotPhase false 0).fset Reg.pncStatus Reg.pncStatus_BUSY_SS 1)

/-- CROWN_BANK: the rotation of the slice that may run starts with the copy: the spare needs no wake (R256). -/
def execCrownBank (s : State) : Out :=
  match s.grantedOf 2 with
  | none => .next s
  | some n =>
    let b := (s.pncEnt n).item
    if !s.eligible 2 b || (s.rotPhase true).isSome then .next (s.sliceEnd n)
    else
      let s := ((s.sliceStart n).fset Reg.memRotStat Reg.memRotStat_CR_BANK b).fset Reg.memRotStat Reg.memRotStat_CR_ACTIVE 1
      .next ((s.setRotPhase true 1).fset Reg.pncStatus Reg.pncStatus_BUSY_CR 1)

/-! ### The timed tests (R371, R374) -/

/-- The slice of a kind that may run starts. -/
def State.timedStart (s : State) (k : Nat) : State :=
  match s.grantedOf k with
  | none => s
  | some n => s.sliceStart n

/-- TEMP: a temperature pair's test starts. -/
def execTempTest (s : State) : Out := .next (s.timedStart 3)
/-- VMON: a voltage monitor's test starts. -/
def execVmonTest (s : State) : Out := .next (s.timedStart 4)
/-- ADC: an ADC channel's test starts. -/
def execAdcTest (s : State) : Out := .next (s.timedStart 5)
/-- PLL: a PLL lock monitor's test starts. -/
def execPll (s : State) : Out := .next (s.timedStart 6)
/-- ZHEGUS_PRBS: an unused lane's loopback test starts. -/
def execZhegusPrbs (s : State) : Out := .next (s.timedStart 7)

/-- A bit of PNC_FAILED_MISC is set. -/
def State.miscMark (s : State) (f : Fld) (i : Nat) : State :=
  s.wr Reg.pncFailedMisc (setBits (s.rd Reg.pncFailedMisc) (f.lo + i) 1 1)

/-- A failed test marks its item and raises its source (table "Failure handling"). -/
def State.markFailed (s : State) (k i : Nat) : State :=
  match k with
  | 3 => ((s.miscMark Reg.pncFailedMisc_TEMP i).fset (Reg.clkTemp i) Reg.clkTemp_FAILED 1).raise 0x1FC
  | 4 => (s.miscMark Reg.pncFailedMisc_VMON (2 * i + b2n (s.pnc.side.testBit i))).raise 0x1F0
  | 5 => ((s.miscMark Reg.pncFailedMisc_ADC i).fset (Reg.hbxInVal i) Reg.hbxInVal_FAILED 1).raise 0x1F0
  | 6 => (s.miscMark Reg.pncFailedMisc_PLL i).raise 0x1F0
  | 7 => (s.miscMark Reg.pncFailedMisc_LANE i).raise 0x1E2
  | _ => s

/-- The two monitors of a supply alternate between slices. -/
def State.alternate (s : State) (k i : Nat) : State :=
  if k = 4 then s.modPnc fun p => { p with side := p.side ^^^ 2 ^ i } else s

/-- POUNCE_SLICE_COMPLETE: the timed test of one item ends; the slice goes on to its next item or completes (R371, R374). -/
def execPounceSliceComplete (kind : Fin 5) (pass : Bool) (s : State) : Out :=
  let k := kind.val + 3
  match s.runningOf k with
  | none => .next s
  | some n =>
    let e := s.pncEnt n
    let s := if pass then s else (s.markFailed k e.item).sliceFail n e.item 0
    let s := s.alternate k e.item
    match e.rest with
    | [] => .next (s.sliceDone n)
    | i :: r => .next (s.setEnt n { e with item := i, rest := r })

/-! ### The PNC registers (R375) -/

/-- The march of a range that MT_GO has started: as initiator PNC every granule is written and read back, its contents lost; a granule whose
write or read is not granted or does not read cleanly counts as failing (R375). -/
def State.mtGranules (s : State) (base errs : Nat) : Nat → Nat × State
  | 0 => (errs, s)
  | n + 1 =>
    let (v, s) := s.fresh
    let m : MeshReq :=
      { rq := { init := iPNC, tag := 0 }, op := .write, atom := .swap, pa := BitVec.ofNat 44 base, len := 64, data := v.toNat, cmp := 0 }
    let (r1, s) := s.serve m
    let (r2, s) := s.serve { m with op := .read, data := 0 }
    s.mtGranules (base + 64) (if r1.status = .ok ∧ r2.status = .ok then errs else errs + 1) n

/-- A march that runs completes (PNC_MT_STAT). -/
def State.mtRun (s : State) : State :=
  if s.fget Reg.pncMtStat Reg.pncMtStat_STATE ≠ 1 then s
  else
    let (errs, s) := s.mtGranules (s.fget Reg.pncMtBase Reg.pncMtBase_BASE * 64) 0 (s.fget Reg.pncMtLen Reg.pncMtLen_LEN)
    s.wr Reg.pncMtStat (BitVec.ofNat 64 (2 + 4 * min (2 ^ 32 - 1) errs))

/-- PNC_RUN: a write of PNC_CTL that starts an entry's slice. -/
def execPncRun (rq : Rq) (n : BitVec 5) (s : State) : Out :=
  .next (s.gatedWrite rq Reg.pncCtl ((s.rd Reg.pncCtl &&& 0x40) ||| n.setWidth 64 ||| 0x20))

/-- HALT: a write of PNC_CTL that halts or resumes the schedule. -/
def execHalt (rq : Rq) (on : Bool) (s : State) : Out :=
  .next (s.gatedWrite rq Reg.pncCtl ((s.rd Reg.pncCtl &&& 0x1F) ||| (if on then 0x40 else 0)))

/-- MT_GO: a write of PNC_CTL that starts the range march, and the march. -/
def execMtGo (rq : Rq) (s : State) : Out :=
  .next (s.gatedWrite rq Reg.pncCtl ((s.rd Reg.pncCtl &&& 0x5F) ||| 0x80)).mtRun

/-- PNC_FAIL_LAST_CLEAR: PNC_FAIL_LAST.VALID. -/
def execPncFailLastClear (rq : Rq) (s : State) : Out := .next (s.gatedWrite rq Reg.pncFailLast (BitVec.twoPow 64 21))

end Sys2Proof.Machine
end

