-- ==== Sys2Proof/Machine/React.lean ====
section
/-!
DEFINITION. The Fault Collection and Reaction Unit (R11 to R31, R425): evaluation of the sources detected in one TIME cycle, escalation, the
reactions and the log; the FCRU watchdog.
-/

namespace Sys2Proof.Machine

/-- The decision on one occurrence: its source, the matrix entry it was detected under, its time and group, the reaction, the SAFE_N pins, whether it
escalated, and whether it is applied. -/
structure Dec where
  src  : Nat
  entry : Word
  time : Nat
  grp  : Option Nat
  code : Nat
  mask : Nat
  esc  : Bool
  run  : Bool
  deriving DecidableEq, Repr

/-- The group of an occurrence: triad t at t, context c at 16 + c (R21). -/
def groupOf (src : Nat) (grp : Option Nat) : Option Nat :=
  if src < 0x100 then some (src / 16)
  else if src < 0x140 then some (16 + (src - 0x100) / 8)
  else if (0x160 ≤ src ∧ src ≤ 0x17A) ∨ src = 0x146 ∨ src = 0x147 then
    match grp with
    | some i => if i < 24 then some i else none
    | none => none
  else none

/-- An occurrence under the entry `e` counts toward escalation; it escalates when it brings the open window's count to ESC_COUNT, which closes the window (R28). -/
def State.escalate (s : State) (src : Nat) (e : Word) : Bool × State :=
  let count := bits e 6 4
  if count = 0 ∨ bits e 10 4 = 0 ∨ sourceFixed src then (false, s)
  else
    let n := if s.fget (Reg.fcruCnt src) Reg.fcruCnt_WINDOW_OPEN = 1 then s.fget (Reg.fcruCnt src) Reg.fcruCnt_IN_WINDOW + 1 else 1
    if count ≤ n then (true, s.closeWindow src)
    else (false, (s.fset (Reg.fcruCnt src) Reg.fcruCnt_WINDOW_OPEN 1).fset (Reg.fcruCnt src) Reg.fcruCnt_IN_WINDOW n)

/-- The reaction after the substitutions of R20, R21 and R22, under the entry `e`. -/
def State.substitute (s : State) (d : Detection) (e : Word) (code : Nat) : Nat × Bool :=
  let code := if code = 2 ∧ !d.full then
      (if bits e 3 3 = 2 then 1 else bits e 3 3) else code
  let code := if code = 3 ∧ (groupOf d.src d.grp).isNone then 1 else code
  if code = 4 ∧ !s.twinReady then (5, true) else (code, false)

/-- The decision on one occurrence, and the occurrences that it makes: an ODD_COPY that escalates is not applied and raises RESYNC_FAIL in the
same evaluation (R29). -/
def State.decision (s : State) (d : Detection) : Dec × List Detection × State :=
  let e := d.entry
  let s := s.fsat (Reg.fcruCnt d.src) Reg.fcruCnt_TOTAL 1
  let (esc, s) := s.escalate d.src e
  if esc && decide (d.src < 0x100) && decide (d.src % 16 = 0) then
    let t := d.src / 16
    let rf : Detection := { d with src := srcRESYNC_FAIL t, entry := d.fail }
    let s := s.modTriad t fun x => { x with resyncBad := true }
    let s := s.wr (Reg.fcruPend (rf.src / 64)) (setBits (s.rd (Reg.fcruPend (rf.src / 64))) (rf.src % 64) 1 1)
    ({ src := d.src, entry := e, time := d.time, grp := d.grp, code := 2, mask := 0, esc := true, run := false }, [rf], s)
  else
    let raw := if sourceFixed d.src then 5 else if esc then bits e 3 3 else bits e 0 3
    let (code, all) := s.substitute d e raw
    let m := bits e 14 4
    let mask := if all || decide (code = 6) || decide (m = 0) then 0xF else m
    ({ src := d.src, entry := e, time := d.time, grp := d.grp, code := code, mask := mask, esc := esc, run := true }, [], s)

/-- Insert an occurrence in ascending source ID. -/
def insertDet (d : Detection) : List Detection → List Detection
  | [] => [d]
  | x :: r => if d.src < x.src then d :: x :: r else x :: insertDet d r

/-- The decisions on the occurrences of one cycle, in ascending source ID (R25). -/
def State.decideAll (s : State) : Nat → List Detection → List Dec × State
  | 0, _ => ([], s)
  | _, [] => ([], s)
  | n + 1, d :: r =>
    let (x, more, s) := s.decision d
    let (xs, s) := s.decideAll n (more.foldl (fun l m => insertDet m l) r)
    (x :: xs, s)

/-- A SAFE_STATE reaction drives its pins; with all four low the device is in SAFE, with fewer a RUN device is DEGRADED (R23). MAINT alone is kept: it
is left by a reset only (R325; log entry 110). -/
def State.safeState (s : State) (mask : Nat) : State :=
  let s := s.assertPins mask
  if s.fget Reg.fcruStatus Reg.fcruStatus_SAFE_ASSERTED = 0xF then
    (if s.opstate = opMAINT then s else s.setOp opSAFE)
  else s.degrade

/-- A group is stopped: a triad at its fence, a Fuller context with its instructions cancelled (R19). -/
def State.stopGroup (s : State) (g : Nat) : State := if g < 16 then s.stopTriad g else s.stopContext (g - 16)

/-- A reaction is applied, but for the internal reset of DEVICE_RESET (R19, R24). -/
def State.applyDec (s : State) (d : Dec) : State :=
  let e := d.entry
  let s := if 1 ≤ d.code then s.irq (bits e 24 16) (128 + bits e 18 6) else s
  let s := if 3 ≤ d.code ∨ bit e 40 then s.recTrigger 1 d.src else s
  match d.code with
  | 2 => s.resyncStart (d.src / 16)
  | 3 => match groupOf d.src d.grp with
    | some g => (s.stopGroup g).degrade
    | none => s
  | 4 => s.handover
  | 5 | 6 => s.safeState d.mask
  | _ => s

/-- A reaction's unit has already been stopped, handed over or reset by a higher reaction of the same evaluation (R25, log entry 26). -/
def subsumed (done : List Dec) (d : Dec) : Bool :=
  done.any fun h => decide (d.code < h.code) &&
    (decide (h.code = 6) || (decide (h.code = 4) && decide (2 ≤ d.code)) ||
      (decide (h.code = 3) && (groupOf d.src d.grp).isSome && decide (groupOf h.src h.grp = groupOf d.src d.grp)))

/-- The reactions of one code are applied; the answer holds those applied so far. -/
def State.applyCode (code : Nat) (s : State) : List Dec → List Dec → List Dec × State
  | done, [] => (done, s)
  | done, d :: r =>
    if d.code = code ∧ d.run ∧ !subsumed done d then (s.applyDec d).applyCode code (done ++ [d]) r else s.applyCode code done r

/-- The reactions are applied in descending code (R25). -/
def State.applyAll (s : State) (ds : List Dec) : List Dec × State :=
  [6, 5, 4, 3, 2, 1, 0].foldl (fun (x : List Dec × State) c => x.2.applyCode c x.1 ds) ([], s)

/-- A log entry (R425, FCRU_LOGn), and the first fault if none is recorded (FCRU_FIRST). -/
def State.fcruLogPut (s : State) (src code : Nat) (esc applied : Bool) (time : Nat) : State :=
  let n := s.fget Reg.fcruLogHead Reg.fcruLogHead_NEXT
  let s := if s.fget (Reg.fcruLog n) Reg.fcruLog_VALID = 1 then s.fset Reg.fcruStatus Reg.fcruStatus_LOG_WRAP 1 else s
  let s := s.wr (Reg.fcruLog n) (BitVec.ofNat 64
    (src + 2 ^ 9 * code + 2 ^ 12 * b2n esc + 2 ^ 13 * b2n applied + 2 ^ 14 + 2 ^ 24 * time))
  let s := s.wr Reg.fcruLogHead (BitVec.ofNat 64 ((n + 1) % 32))
  if s.fget Reg.fcruFirst Reg.fcruFirst_VALID = 1 then s
  else s.wr Reg.fcruFirst (BitVec.ofNat 64 (src + 2 ^ 9 * code + 2 ^ 12 + 2 ^ 24 * time))

/-- The FCRU runs: its watchdog has not expired and the TIME clock is present (R18, R406). -/
def State.fcruRuns (s : State) : Bool :=
  decide (s.fget Reg.fcruStatus Reg.fcruStatus_WDOG_EXPIRED = 0) && decide (s.fget (Reg.clkPll 8) Reg.clkPll_STOPPED = 0)

/-- F0 and F1 compare their decisions: where F1 decides differently, AGREE is cleared, the pins that F1 demands low are driven low as well, and
FCRU_SELF is raised (R17). -/
def State.compareFcru (s : State) : State :=
  match s.latent.f1 with
  | none => s
  | some pins =>
    let s := (s.assertPins pins).fset Reg.fcruStatus Reg.fcruStatus_AGREE 0
    { s with latent := { s.latent with f1 := none } }.raise 0x1FD

/-- One evaluation of the sources given (R25): decided and logged in ascending source ID, applied in descending code; an internal reset comes
last. -/
def State.evaluate (s : State) (ds : List Detection) : State :=
  let (xs, s) := s.decideAll (2 * ds.length) (ds.foldl (fun l d => insertDet d l) [])
  let (done, s) := s.applyAll xs
  let s := xs.foldl (fun s d => s.fcruLogPut d.src d.code d.esc (done.contains d) d.time) s
  if done.any fun d => decide (d.code = 6) then s.internalReset 3 else s

/-- FCRU_EVALUATION: the FCRU handles the oldest detections, those of one TIME cycle, in one evaluation (R16, R25); a difference between its two
instances is found as it decides (R17). -/
def execFcruEvaluation (s : State) : Out :=
  match s.detected with
  | [] => .next s
  | d :: _ =>
    if !s.fcruRuns then .next s
    else
      let now := s.detected.filter fun x => decide (x.time = d.time)
      let s := { s with detected := s.detected.filter fun x => decide (x.time ≠ d.time) }
      .next (s.compareFcru.evaluate now)

/-- ESC_WINDOW_EXPIRE: an open escalation window closes with its count discarded (R28). -/
def execEscWindowExpire (src : BitVec 9) (s : State) : Out :=
  .next (if s.fget (Reg.fcruCnt src.toNat) Reg.fcruCnt_WINDOW_OPEN = 1 then s.closeWindow src.toNat else s)

/-- FCRU_WDOG_EXPIRE: without the FCRU, all SAFE_N pins are driven low, TWIN_ALIVE_OUT is inactive, the Zhegus transmitter stops, WDOG_EXPIRED is
set and the Hatbox keeps the flag (R18, R381). -/
def execFcruWdogExpire (s : State) : Out :=
  let s := (s.assertPins 0xF).fset Reg.fcruStatus Reg.fcruStatus_WDOG_EXPIRED 1
  .next ((s.modTwin fun x => { x with alive := false, silent := true }).retItem 5 true)

/-- When blocking completes, a retained expiry is recorded as FCRU_WDOG, without a reaction, and the flag is cleared (R18). -/
def State.recordWdog (s : State) : State :=
  if bit (s.rd Reg.hbxRet) 5 then
    let s := s.wr (Reg.fcruPend 7) (setBits (s.rd (Reg.fcruPend 7)) 62 1 1)
    let s := s.fsat (Reg.fcruCnt 0x1FE) Reg.fcruCnt_TOTAL 1
    (s.fcruLogPut 0x1FE 5 false false s.now40).retItem 5 false
  else s

end Sys2Proof.Machine
end

