-- ==== Sys2Proof/Machine/EthCmds.lean ====
section
/-!
DEFINITION. The ports as commands (R291 to R314): the ingress stages, delivery to the rings, the engine and the recorder, run-time admission,
the gate control lists and egress.
-/

namespace Sys2Proof.Machine

/-! ### Stages 1 to 3 (R294, R295) -/

/-- Seen events within the last millisecond, with one more added. -/
def recent (now : Nat) (ts : List Nat) : List Nat := ts.filter fun t => decide (now < t + 1000000)

/-- An ICV failure of a port: counted, and the source is raised when the failures of one millisecond come to exceed the threshold (R295). -/
def State.icvFail (s : State) (p m : Nat) : State :=
  let s := s.fsat (Reg.ethMacMscnt p m) Reg.ethMacMscnt_ICV_FAIL 1
  let ts := recent s.now.toNat (SMap.get [] s.eth.icv p)
  let s := s.modEth fun e => { e with icv := SMap.put [] e.icv p (ts ++ [s.now.toNat]) }
  let thr := s.fget (Reg.ethMsecCtl p) Reg.ethMsecCtl_ICV_THRESH
  if thr ≠ 0 ∧ ts.length = thr then s.raise 0x1C4 else s

/-- The packet number that a SecTAG's low half stands for, from the lowest acceptable one (GCM-AES-XPN). -/
def xpnRecover (low pn32 : Nat) : Nat :=
  let up := low / 2 ^ 32
  if 2 ^ 31 ≤ low % 2 ^ 32 ∧ pn32 < 2 ^ 31 then (up + 1) * 2 ^ 32 + pn32 else up * 2 ^ 32 + pn32

/-- Stage 2: a STRICT MAC verifies and decrypts, a DISABLED one passes the frame as it is (R295). The frame, and whether it was verified. -/
def State.macsecIn (s : State) (p m : Nat) (d : List Byte) : Option (List Byte × Bool) × State :=
  if !(s.fget (Reg.ethMsecCtl p) Reg.ethMsecCtl_RX_STRICT).testBit m then (some (d, false), s)
  else
    let noSa := (none, s.fsat (Reg.ethMacMscnt p m) Reg.ethMacMscnt_NO_SA 1)
    let tci := byteAt d 14
    let hdr := if tci.testBit 5 then 28 else 20
    if be d 12 2 ≠ 0x88E5 ∨ d.length < hdr + 16 ∨ tci.testBit 7 ∨ tci.testBit 3 ≠ tci.testBit 2 then noSa
    else
      let sci := if tci.testBit 5 then be d 20 8 else be d 6 6 * 65536 + 1
      let an := tci % 4
      match [0, 1, 2, 3].find? fun c => (s.sa (saIx (4 * p + m) 0 c an)).valid && decide ((s.sa (saIx (4 * p + m) 0 c an)).sci = sci) with
      | none => noSa
      | some c =>
        let ix := saIx (4 * p + m) 0 c an
        let a := s.sa ix
        let pn := xpnRecover a.pn (be d 16 4)
        if pn < a.pn then (none, s.fsat (Reg.ethMacMscnt p m) Reg.ethMacMscnt_REPLAY 1)
        else
          let sl := byteAt d 15 % 64
          let n := if sl = 0 then d.length - hdr - 16 else min sl (d.length - hdr - 16)
          let aad := d.take hdr
          let ct := (d.drop hdr).take n
          let iv := xpnIv a.salt a.ssci pn
          let enc := tci.testBit 3
          if be d (hdr + n) 16 ≠ (if enc then gcmTag a.key iv aad ct else gcmTag a.key iv (aad ++ ct) []) then (none, s.icvFail p m)
          else
            let next := max a.next (pn + 1)
            let s := s.setSa ix { a with next := next, pn := max a.pn (next - s.fget (Reg.ethMsecCtl p) Reg.ethMsecCtl_REPLAY_WIN) }
            (some (d.take 12 ++ (if enc then gcmCtr a.key iv ct else ct), true), s)

/-- A frame as stages 3 to 8 see it: its addresses, the VID of a C-tag, its EtherType, where its client data begins, its R-TAG's sequence
number, and its bytes with the R-TAG removed (10, "Contracts and policing"). -/
structure FrameHdr where
  dst   : Nat
  src   : Nat
  vid   : Option Nat
  etype : Nat
  off   : Nat
  rseq  : Option Nat
  body  : List Byte
  deriving DecidableEq, Repr

/-- Take a frame apart: at most one C-tag, then at most one R-TAG (R293). -/
def parseFrame (d : List Byte) : FrameHdr :=
  let tagged := decide (be d 12 2 = 0x8100)
  let o := if tagged then 16 else 12
  let rt := decide (be d o 2 = 0xF1C1)
  let body := if rt then d.take o ++ d.drop (o + 6) else d
  { dst := be d 0 6, src := be d 6 6, vid := if tagged then some (be d 14 2 % 4096) else none, etype := be body o 2, off := o + 2,
    rseq := if rt then some (be d (o + 4) 2) else none, body := body }

/-! ### Stages 4 and 5 (R296 to R298) -/

/-- An entry's VID field matches the frame's; 0 matches untagged frames only. -/
def vidMatches (f : Nat) (v : Option Nat) : Bool := if f = 0 then v.isNone else decide (v = some f)

/-- An entry identifies a frame of port `p` (R296, table "Admission entry"). -/
def entryMatches (id : Word) (p : Nat) (h : FrameHdr) : Bool :=
  (portsOf id).contains p &&
  (match bits id 60 2 with
   | 0 => decide (bits id 0 48 = h.dst) && vidMatches (bits id 48 12) h.vid
   | 1 => decide (bits id 0 48 = h.src) && vidMatches (bits id 48 12) h.vid
   | 2 => decide (bits id 0 48 = h.dst)
   | _ => false)

/-- The entry of a frame: the lowest that matches, or the default entry (R296). -/
def State.identify (s : State) (p : Nat) (h : FrameHdr) : Option Nat :=
  match (List.range 1024).find? fun n => s.entryValid n && entryMatches (s.rd (Reg.admEntryId n)) p h with
  | some n => some n
  | none => if s.fget Reg.admCfg Reg.admCfg_DEFAULT_EN = 1 then some (s.fget Reg.admCfg Reg.admCfg_DEFAULT) else none

/-- The frame's contract check (R297): whether it is admitted, and the state with the interval's count. -/
def State.police (s : State) (n len count : Nat) : Bool × State :=
  let c := s.rd (Reg.admEntryContract n)
  let (j0, k0) := SMap.get (0, 0) s.eth.police n
  let j := count / (bits c 24 24 * 1000)
  let (j, k) := if j0 < j then (j, 0) else (j0, k0)
  let ok := decide (len ≤ bits c 0 14) && decide (k < bits c 14 10)
  let k := if ok then k + 1 else k
  (ok, s.modEth fun e => { e with police := SMap.put (0, 0) e.police n (j, k) })

/-- A policed frame is counted; the source is raised when the policed frames of one millisecond come to exceed the threshold (R298). -/
def State.policedFrame (s : State) (n : Nat) : State :=
  let s := (s.fsat (Reg.admEntryCnt n) Reg.admEntryCnt_POLICED 1).fsat Reg.admStat Reg.admStat_POLICED 1
  let ts := recent s.now.toNat s.eth.policed
  let s := s.modEth fun e => { e with policed := ts ++ [s.now.toNat] }
  let thr := s.fget Reg.admPoliceThresh Reg.admPoliceThresh_PER_MS
  if thr ≠ 0 ∧ ts.length = thr then s.raise 0x1C5 else s

/-! ### Stage 7 (R299) -/

/-- A sequence recovery function. -/
def State.cbFn (s : State) (f : Nat) : CbFn := SMap.get CbFn.reset s.eth.cbf f

/-- The vector recovery algorithm: whether a sequence number is passed, and the function after it. -/
def CbFn.recover (c : CbFn) (hist seq : Nat) : Bool × CbFn :=
  if !c.taken then (true, { c with taken := true, seq := seq, hist := 1 })
  else
    let ahead := (seq + 65536 - c.seq) % 65536
    if ahead < 32768 then
      if ahead = 0 then (false, c)
      else if hist ≤ ahead then (false, c)
      else (true, { c with seq := seq, hist := (c.hist * 2 ^ ahead + 1) % 2 ^ hist })
    else
      let back := 65536 - ahead
      if hist ≤ back ∨ c.hist.testBit back then (false, c) else (true, { c with hist := c.hist + 2 ^ back })

/-- Elimination: whether the frame passes; a frame without an R-TAG does. -/
def State.eliminate (s : State) (f : Nat) (seq : Option Nat) : Bool × State :=
  let c := s.cbFn f
  let (ok, c) := match seq with | none => (true, c) | some q => c.recover (s.fget (Reg.admCbfCfg f) Reg.admCbfCfg_HIST) q
  let c := if ok then { c with last := s.now.toNat } else c
  let s := s.modEth fun e => { e with cbf := SMap.put CbFn.reset e.cbf f c }
  (ok, if ok then s.fadd (Reg.admCbfStat f) Reg.admCbfStat_PASSED 1 else s.fsat (Reg.admCbfStat f) Reg.admCbfStat_DISCARDED 1)

/-! ### Stage 8 (R300, R302, R304) -/

/-- The order in which records become visible: by timestamp, then P0 before P1, then the lower MAC index (R302). -/
def RxRec.before (a b : RxRec) : Bool :=
  let k (r : RxRec) : Nat := ((r.ts.sec * 1000000000 + r.ts.ns) * 4 + r.ts.q) * 8 + r.src % 8
  decide (k a ≤ k b)

/-- Put a record into the waiting order. -/
def insertRec (r : RxRec) : List RxRec → List RxRec
  | [] => [r]
  | x :: xs => if x.before r then x :: insertRec r xs else r :: x :: xs

/-- A record for a ring: it waits to be written, or the frame is dropped and counted where it does not fit (R304). -/
def State.toRing (s : State) (ix : Nat) (r : RxRec) : State :=
  let g := s.ring ix
  let waiting := g.wait.foldl (fun n x => n + recordBytes x.data.length) 0
  let free := s.ringSize ix - ringDist (s.ringSize ix) (s.cons ix) (s.prod ix)
  if s.ringValid ix && decide (waiting + recordBytes r.data.length < free) then s.setRing ix { g with wait := insertRec r g.wait }
  else if ix < 64 then s.fsat (Reg.admRingPtr ix) Reg.admRingPtr_DROPS 1
  else s.fsat (Reg.admSringDrops (ix - 64)) Reg.admSringDrops_DROPS 1

/-- The bytes a recorder record takes (R334). -/
def recSize (len : Nat) : Nat := 32 + 32 * ((len + 31) / 32)

/-- The recorder's copy of a frame: it enters the buffer, or is dropped or skipped and counted (R336, R338). -/
def State.toRecorder (s : State) (r : RxRec) : State :=
  match s.recState with
  | 0 => s
  | 3 => s.fsat Reg.recCnt Reg.recCnt_SKIPPED 1
  | _ =>
    let used := s.recd.buf.foldl (fun n x => n + recSize x.data.length) 0
    if used + recSize r.data.length ≤ 2 ^ 20 then s.modRecd fun x => { x with buf := insertRec r x.buf }
    else (s.fsat Reg.recCnt Reg.recCnt_DROPPED 1).modRecd fun x => { x with lost := x.lost + 1 }

/-- The DHP frame in a frame of the carriage selected, with the source address and port of a datagram (R315); none where it is not one. -/
def State.carried (s : State) (h : FrameHdr) : Option (Option (Nat × Nat) × List Byte) :=
  if s.fget Reg.dhpCfg Reg.dhpCfg_UDP = 0 then
    if h.etype = 0x88B5 then some (none, h.body.drop h.off) else none
  else
    let d := h.body.drop h.off
    let ulen := be d 24 2
    let u := (d.drop 20).take ulen
    let pseudo := (d.drop 12).take 8 ++ toBe 2 17 ++ toBe 2 ulen
    if h.etype = 0x0800 ∧ byteAt d 0 = 0x45 ∧ be d 6 2 % 2 ^ 14 = 0 ∧ byteAt d 9 = 17 ∧ be d 16 4 = s.fget Reg.dhpIpaddr Reg.dhpIpaddr_IPV4 ∧
        be d 22 2 = s.fget Reg.dhpCfg Reg.dhpCfg_UDP_PORT ∧ 8 ≤ ulen ∧ 20 + ulen ≤ d.length ∧
        (be d 26 2 = 0 ∨ inetSum (pseudo ++ u) = 0) then
      some (some (be d 12 4, be d 20 2), u.drop 8)
    else none

/-- Delivery to the command engine: its queue holds 64 frames (R315, R323). -/
def State.toEngine (s : State) (ctrl : Bool) (mac : Nat) (ts : Stamp) (h : FrameHdr) : State :=
  match s.carried h with
  | none => s.fsat Reg.dhpStat Reg.dhpStat_BAD_FRAME 1
  | some (udp, d) =>
    if 64 ≤ s.dhp.queue.length then s.fsat Reg.dhpStat Reg.dhpStat_QUEUE_DROPS 1
    else
      let q : DhpReq := { ctrl := ctrl, mac := mac, ts := ts, src := h.src, ctag := if h.vid.isSome then some (be h.body 14 2) else none,
                          udp := udp, data := d }
      s.modDhp fun x => { x with queue := x.queue ++ [q] }

/-- Steering: the frame goes to its entry's destination, and a copy to the recorder where the entry says so (R300). -/
def State.steer (s : State) (n mac : Nat) (r : RxRec) (h : FrameHdr) : State :=
  let d := s.rd (Reg.admEntryDest n)
  let s := match bits d 2 2 with
    | 0 => s.toRing (bits d 4 6) r
    | 1 => s.toRing (64 + bits d 4 6) r
    | 2 => s.toEngine (decide (bits d 0 2 = 1)) mac r.ts h
    | _ => s
  if bit d 10 then s.toRecorder r else s

/-- The record of a frame of entry `n` (R301). -/
def State.rxRec (s : State) (f : FrameIn) (verified : Bool) (h : FrameHdr) (ts : Stamp) (n last : Nat) : RxRec :=
  let src := 4 * f.p.val + f.m.val + 8 * b2n f.preempted + 16 * b2n verified + 32 * b2n h.rseq.isSome +
    64 * bits (s.rd (Reg.admEntryDest n)) 0 2
  { ts := ts, last := last, src := src, entry := n, seq := h.rseq.getD 0, data := h.body }

/-- Steering of a frame that elimination passed; one that it did not pass goes nowhere (R299, R300). -/
def State.steerFrame (f : FrameIn) (verified : Bool) (h : FrameHdr) (ts : Stamp) (n last : Nat) : Bool × State → State
  | (false, s) => s
  | (true, s) => s.steer n (4 * f.p.val + f.m.val) (s.rxRec f verified h ts n last) h

/-- Take a passed frame back while it still waits; none where it has been delivered. A frame goes back in the cycle that brought it only, so its
records are those that steering has just queued. -/
def State.unsteer (s : State) (w : CbWon) : Option State :=
  let d := s.rd (Reg.admEntryDest w.entry)
  let drop (s : State) : State := s.modRecd fun x => { x with buf := x.buf.erase w.frame }
  let ring (ix : Nat) : Option State :=
    let g := s.ring ix
    if g.wait.contains w.frame then some (drop (s.setRing ix { g with wait := g.wait.erase w.frame })) else none
  match bits d 2 2 with
  | 0 => ring (bits d 4 6)
  | 1 => ring (64 + bits d 4 6)
  | 2 =>
    let mine (q : DhpReq) : Bool := decide (q.mac = w.frame.src % 8) && decide (q.ts = w.frame.ts)
    if s.dhp.queue.any mine then some (drop (s.modDhp fun x => { x with queue := x.queue.eraseP mine })) else none
  | _ => if s.recd.buf.contains w.frame then some (drop s) else none

/-- Two frames of one sequence number in one cycle: the one of the lower MAC index of the device, P0's MACs before P1's, is passed (R299). The
frame that arrives second here takes the place of the first where it comes before it in that order. -/
def State.tieBreak (s : State) (fn n : Nat) (r : RxRec) (x : Bool × State) : Bool × State :=
  let note (s : State) : State :=
    s.modEth fun e => { e with cbf := SMap.put CbFn.reset e.cbf fn { s.cbFn fn with won := some { tick := s.ticks, entry := n, frame := r } } }
  if x.1 then (true, note x.2)
  else
    match (s.cbFn fn).won with
    | none => x
    | some w =>
      if w.tick = s.ticks ∧ w.frame.seq = r.seq ∧ w.frame.last = r.last ∧ r.src % 8 < w.frame.src % 8 then
        match x.2.unsteer w with
        | none => x
        | some t => (true, note t)
      else x

/-- Stage 7: elimination of a frame with an R-TAG, with the order of frames that arrive together; one without is passed (R299). -/
def State.stage7 (s : State) (fn n : Nat) (r : RxRec) (rseq : Option Nat) : Bool × State :=
  match rseq with
  | none => s.eliminate fn none
  | some q => s.tieBreak fn n r (s.eliminate fn (some q))

/-- Stages 6 to 8 for a frame that the policer let through, or the count of one that it did not. -/
def State.policedInto (f : FrameIn) (verified : Bool) (h : FrameHdr) (ts : Stamp) (n last : Nat) : Bool × State → State
  | (false, s) => s.policedFrame n
  | (true, s) =>
    let s := s.fadd (Reg.admEntryCnt n) Reg.admEntryCnt_ADMITTED 1
    let d := s.rd (Reg.admEntryDest n)
    State.steerFrame f verified h ts n last
      (if bit d 11 then s.stage7 (bits d 12 9) n (s.rxRec f verified h ts n last) h.rseq else (true, s))

/-- Stages 4 to 8 for a frame that has passed MACsec and is no gPTP frame. -/
def State.admitFrame (s : State) (f : FrameIn) (verified : Bool) (h : FrameHdr) (ts : Stamp) : State :=
  match s.identify f.p h with
  | none => s.fsat Reg.admStat Reg.admStat_UNIDENTIFIED 1
  | some n => State.policedInto f verified h ts n s.now.toNat (s.police n h.body.length ts.count)

/-- No frame is received in OFF (0) and SLEEP (1) (R325). -/
def State.receives (s : State) : Bool := decide (1 < s.fget Reg.sysState Reg.sysState_OPSTATE)

/-- Stages 3 to 8 for a frame that MACsec let through: a gPTP frame goes to its queue, another to admission. -/
def State.frameInto (f : FrameIn) (ts : Stamp) : Option (List Byte × Bool) × State → State
  | (none, s) => s
  | (some (d, verified), s) =>
    let h := parseFrame d
    if h.etype = 0x88F7 then s.modEth fun e => { e with gptp := e.gptp ++ [{ mac := 4 * f.p.val + f.m.val, ts := ts, data := d }] }
    else s.admitFrame f verified h ts

/-- Stages 2 to 8 for a frame of a port that is up. -/
def State.frameAt (s : State) (f : FrameIn) (ts : Stamp) : State :=
  let n := f.data.length + 4
  if f.fcsBad || decide (n < 64) || decide (s.maxFrame f.p < n) || decide (be f.data 12 2 = 0x8808) then
    s.fsat (Reg.ethMacRxcnt f.p f.m) Reg.ethMacRxcnt_RX_DISCARD 1
  else State.frameInto f ts ((s.fadd (Reg.ethMacRxcnt f.p f.m) Reg.ethMacRxcnt_RX_FRAMES 1).macsecIn f.p f.m f.data)

/-- FRAME_RECEIVE: an arriving frame passes the stages of the table "Ingress stages" in order (R294). -/
def execFrameReceive (f : FrameIn) (s : State) : Out :=
  if !s.receives || !s.macUp f.p f.m then .next s
  else if f.fecBad then .next ((s.fsat (Reg.ethMacRxcnt f.p f.m) Reg.ethMacRxcnt_RX_DISCARD 1).raise (0x1C2 + f.p.val))
  else .next (s.frameAt f (s.stampAt f.age))

/-! ### Ring delivery (R301, R302, R306) -/

/-- The ring descriptor of a record (R301). -/
def ringDesc (r : RxRec) (rseq off : Nat) (phase : Bool) : List Byte :=
  r.ts.bytes ++ toLe 1 r.src ++ toLe 2 r.data.length ++ toLe 2 r.entry ++ toLe 4 rseq ++ toLe 2 r.seq ++ toLe 2 0 ++ toLe 4 off ++
    toLe 35 0 ++ toLe 1 (b2n phase)

/-- The owner and the doorbell of a ring; none where the ring raises no doorbell. -/
def State.ringBell (s : State) (ix : Nat) : Option (Nat × Nat) :=
  if ix < 64 then some (s.fget (Reg.memCrRing ix) Reg.memCrRing_OWNER, s.fget (Reg.memCrRing ix) Reg.memCrRing_DOORBELL)
  else if s.fget (Reg.admSringCfg (ix - 64)) Reg.admSringCfg_DB_EN = 1 then
    some (s.fget (Reg.admSringCfg (ix - 64)) Reg.admSringCfg_OWNER, s.fget (Reg.admSringCfg (ix - 64)) Reg.admSringCfg_DOORBELL)
  else none

/-- RING_DESCRIPTOR_VISIBLE: the first waiting record of a ring is written, its data granules and then its descriptor; PROD advances, the
doorbell is raised, and a GUARANTEED descriptor later than 1,500 ns after the frame's last bit raises its source (R301, R302, R306). ETH waits
for a tag (R43). -/
def execRingDescriptorVisible (ring : Fin 128) (s : State) : Out :=
  let ix := ring.val
  let g := s.ring ix
  match g.wait with
  | [] => .next s
  | r :: rest =>
    if !s.tagFree iETH.val then .next s
    else
    let n := s.ringSize ix
    let base := s.ringBase ix
    let prod := s.prod ix
    let data := padTo 64 r.data
    let s := (List.range (data.length / 64)).foldl (fun s i =>
      s.devWrite iETH (base + (prod + 64 + 64 * i) % n) ((data.drop (64 * i)).take 64)) s
    let s := s.devWrite iETH (base + prod) (ringDesc r g.rseq ((prod + 64) % n) (!g.flip))
    let next := (prod + recordBytes r.data.length) % n
    let s := s.fset (ptrReg ix) (prodFld ix) next
    let s := s.setRing ix { rseq := (g.rseq + 1) % 2 ^ 32, flip := g.flip ^^ decide (next < prod), wait := rest }
    let s := match s.ringBell ix with
      | some (t, d) => s.irqTriad t (64 + d)
      | none => s
    .next (if r.src / 64 = 0 ∧ r.last + 1500 < s.now.toNat then s.raise 0x1C7 else s)

/-- CB_SEQ_RECOVERY: a function that has passed no frame for RESET_US resets; the next frame is passed (R299). -/
def execCbSeqRecovery (f : Fin 512) (s : State) : Out :=
  let c := s.cbFn f
  if c.taken && decide (c.last + 1000 * s.fget (Reg.admCbfCfg f) Reg.admCbfCfg_RESET_US ≤ s.now.toNat) then
    let s := s.modEth fun e => { e with cbf := SMap.put CbFn.reset e.cbf f { c with taken := false, seq := 0, hist := 0 } }
    .next ((s.fsat (Reg.admCbfStat f) Reg.admCbfStat_RESETS 1).raise 0x1C9)
  else .next s

/-! ### Links and preemption (R294, R313) -/

/-- The lanes of a MAC in a mode (table "Port modes"). -/
def lanesOf (mode m : Nat) : Nat := match mode with | 0 => 15 | 1 => 3 * 4 ^ (m % 2) | _ => 2 ^ m

/-- Change one bit of a field. -/
def State.setFieldBit (s : State) (r : Nat) (f : Fld) (i : Nat) (b : Bool) : State := s.wr r (setBits (s.rd r) (f.lo + i) 1 (b2n b))

/-- LINK_DOWN: the link of a MAC falls, the source of its port is raised, and verified preemption ends; `lanes` are the lanes that stay
aligned (ETH_STATUS). -/
def execLinkDown (p : Fin 2) (m : Fin 4) (lanes : BitVec 4) (s : State) : Out :=
  if !(s.fget (Reg.ethStatus p) Reg.ethStatus_LINK_UP).testBit m then .next s
  else
    let mine := lanesOf (s.portMode p) m
    let lock := s.fget (Reg.ethStatus p) Reg.ethStatus_LANE_LOCK
    let s := s.setFieldBit (Reg.ethStatus p) Reg.ethStatus_LINK_UP m false
    let s := s.setFieldBit (Reg.ethStatus p) Reg.ethStatus_PREEMPT_ACTIVE m false
    let s := s.fset (Reg.ethStatus p) Reg.ethStatus_LANE_LOCK ((lock &&& (15 - mine)) ||| (lanes.toNat &&& mine))
    .next (s.raise (0x1C0 + p.val))

/-- LINK_UP: the link of a MAC that its port's mode provides and the image enables comes up, its lanes aligned; a port whose clock is lost stays
down until reset (R404, R406, ETH_STATUS). -/
def execLinkUp (p : Fin 2) (m : Fin 4) (s : State) : Out :=
  let en := decide (m.val < macsOf (s.portMode p)) && (s.fget (Reg.ethCfg p) Reg.ethCfg_MAC_EN).testBit m
  if !en || decide (s.fget (Reg.clkPll (6 + p)) Reg.clkPll_STOPPED = 1) || decide (s.fget Reg.sysBootStat Reg.sysBootStat_STEP < 6) then .next s
  else
    let lock := s.fget (Reg.ethStatus p) Reg.ethStatus_LANE_LOCK
    .next ((s.setFieldBit (Reg.ethStatus p) Reg.ethStatus_LINK_UP m true).fset (Reg.ethStatus p) Reg.ethStatus_LANE_LOCK
      (lock ||| lanesOf (s.portMode p) m))

/-- PREEMPT_VERIFY: the verification of a MAC with preemption and verification enabled completes (R313). -/
def execPreemptVerify (p : Fin 2) (m : Fin 4) (ok : Bool) (s : State) : Out :=
  let en := (s.fget (Reg.ethCfg p) Reg.ethCfg_PREEMPT_EN).testBit m && (s.fget (Reg.ethCfg p) Reg.ethCfg_VERIFY_EN).testBit m
  if en && s.macUp p m then .next (s.setFieldBit (Reg.ethStatus p) Reg.ethStatus_PREEMPT_ACTIVE m ok) else .next s

/-! ### Register commands of the ports and the admission block -/

/-- ADM_RING_CONS_WRITE: the consumer of a Crown RAM ring returns space (R303). -/
def execAdmRingConsWrite (rq : Rq) (n : Fin 64) (cons : BitVec 18) (s : State) : Out :=
  .next (s.gatedWrite rq (Reg.admRingPtr n) (cons.setWidth 64 <<< 24))
/-- ADM_SRING_CONS_WRITE: the consumer of a Stream SRAM ring returns space (R303). -/
def execAdmSringConsWrite (rq : Rq) (n : Fin 64) (cons : BitVec 28) (s : State) : Out :=
  .next (s.gatedWrite rq (Reg.admSringPtr n) (cons.setWidth 64 <<< 30))
/-- ADM_REQ_ADMIT: a write of ADM_REQ_CTL that starts ADMIT on the staged words (R307, R308). -/
def execAdmReqAdmit (rq : Rq) (n : BitVec 10) (s : State) : Out := .next (s.gatedWrite rq Reg.admReqCtl (n.setWidth 64 ||| 0x1400))
/-- ADM_REQ_WITHDRAW: a write of ADM_REQ_CTL that starts WITHDRAW (R307, R309). -/
def execAdmReqWithdraw (rq : Rq) (n : BitVec 10) (s : State) : Out := .next (s.gatedWrite rq Reg.admReqCtl (n.setWidth 64 ||| 0x1800))
/-- ETH_TXQ_TAIL_WRITE: software advances an egress queue's tail; an index past the ring is ignored (ETH_TXQq_TAIL). -/
def execEthTxqTailWrite (rq : Rq) (p : Fin 2) (q : Fin 32) (tail : BitVec 16) (s : State) : Out :=
  .next (s.gatedWrite rq (Reg.ethTxqTail p q) (tail.setWidth 64))
/-- CHANGE: a write of ETH_GCL_CTL that keeps its settings and starts a configuration change (R312). -/
def execChange (rq : Rq) (p : Fin 2) (s : State) : Out :=
  .next (s.gatedWrite rq (Reg.ethGclCtl p) (s.rd (Reg.ethGclCtl p) ||| BitVec.twoPow 64 41))
/-- INSTALL: loads the selected secure association (ETH_MSEC_INSTALL). -/
def execInstall (rq : Rq) (p : Fin 2) (s : State) : Out := .next (s.gatedWrite rq (Reg.ethMsecInstall p) 1)
/-- RETIRE: invalidates the selected secure association. -/
def execRetire (rq : Rq) (p : Fin 2) (s : State) : Out := .next (s.gatedWrite rq (Reg.ethMsecInstall p) 2)

/-! ### The gate control list in force (R312) -/

/-- The gates and lengths of a bank's cycle, entry by entry: the last entry holds to the cycle's end, a short cycle cuts entries off. -/
def State.bankSegs (s : State) (p bank cycle len : Nat) : List (Nat × Nat) :=
  ((List.range len).foldl (fun (x : List (Nat × Nat) × Nat) k =>
    let w := s.rd (Reg.ethGcl p bank k)
    let d := if k + 1 = len then x.2 else min x.2 (max 1 (bits w 32 32))
    (x.1 ++ [(bits w 0 32, d)], x.2 - d)) ([], cycle)).1

/-- The gates and lengths of the operational cycle. -/
def State.gclSegs (s : State) (p : Nat) : List (Nat × Nat) :=
  s.bankSegs p (s.fget (Reg.ethStatus p) Reg.ethStatus_OPER_BANK) (s.gclOf p).cycle (s.gclOf p).len

/-- A cycle's segments from `t` ns on. -/
def dropTime : Nat → List (Nat × Nat) → List (Nat × Nat)
  | _, [] => []
  | t, (g, d) :: r => if t < d then (g, d - t) :: r else dropTime (t - d) r

/-- What is left of the current cycle; before the first cycle start, nothing is in force. -/
def State.gclRest (s : State) (p : Nat) : List (Nat × Nat) :=
  let g := s.gclOf p
  dropTime ((s.now.toNat - g.base) % max 1 g.cycle) (s.gclSegs p)

/-- The list governs the gates: enabled, and its first cycle has begun. -/
def State.gclOn (s : State) (p : Nat) : Bool :=
  decide (s.fget (Reg.ethGclCtl p) Reg.ethGclCtl_ENABLE = 1) && decide ((s.gclOf p).base ≤ s.now.toNat) && decide (0 < (s.gclOf p).len)

/-- The segments of a list from now on: before its first cycle every gate is open (the model's reading, log 91), then its cycles, two of them,
which is as far as a gate that closes at all stays open. -/
def State.segsAhead (s : State) (base cycle : Nat) (segs : List (Nat × Nat)) : List (Nat × Nat) :=
  if s.now.toNat < base then (2 ^ 32 - 1, base - s.now.toNat) :: segs
  else dropTime ((s.now.toNat - base) % max 1 cycle) segs ++ segs

/-- How long a gate stays open along segments that repeat; none where it does not close. -/
def openFor (q : Nat) (segs : List (Nat × Nat)) : Option Nat :=
  if segs.all (fun x => x.1.testBit q) then none else some ((segs.takeWhile fun x => x.1.testBit q).foldl (fun n x => n + x.2) 0)

/-- How long the gate of a queue stays open from now, in ns; none where it does not close. The operational list decides up to the first cycle of
a pending one, that one from then on; with ENABLE = 0 every gate is open (R312). -/
def State.gateOpenFor (s : State) (p q : Nat) : Option Nat :=
  let g := s.gclOf p
  let oper := openFor q (s.segsAhead g.base g.cycle (s.gclSegs p))
  if s.fget (Reg.ethGclCtl p) Reg.ethGclCtl_ENABLE = 0 then none
  else
    match g.chg with
    | none => oper
    | some (at', cyc, len) =>
      let t := at' - s.now.toNat
      let next := s.bankSegs p (1 - s.fget (Reg.ethStatus p) Reg.ethStatus_OPER_BANK) cyc len
      let pend := (openFor q (if s.now.toNat < at' then next else s.segsAhead at' cyc next)).map (t + ·)
      match oper with
      | none => pend
      | some x => if x < t then some x else pend

/-- GCL_ENTRY_ADVANCE: the list moves to the entry that the device time is in (R312). -/
def execGclEntryAdvance (p : Fin 2) (s : State) : Out :=
  if !s.gclOn p then .next s
  else
    let g := s.gclOf p
    .next (s.setGcl p { g with entry := (s.gclSegs p).length - (s.gclRest p).length })

/-- GCL_CONFIG_CHANGE: at the cycle start chosen, the administrative bank becomes operational (R312). -/
def execGclConfigChange (p : Fin 2) (s : State) : Out :=
  match (s.gclOf p).chg with
  | none => .next s
  | some (at', cyc, len) =>
    if s.now.toNat < at' then .next s
    else
      let s := s.setGcl p { base := at', cycle := cyc, len := len, entry := 0, chg := none }
      let s := s.fset (Reg.ethStatus p) Reg.ethStatus_OPER_BANK (1 - s.fget (Reg.ethStatus p) Reg.ethStatus_OPER_BANK)
      .next ((s.fset (Reg.ethGclCtl p) Reg.ethGclCtl_CHANGE 0).fset (Reg.ethStatus p) Reg.ethStatus_GCL_PENDING 0)

/-! ### Egress (R311 to R314, R360) -/

/-- The device's twin role: 0 NONE, 1 PRIMARY, 2 STANDBY, 3 SYNCING, 4 RETIRED (TWIN_STATUS.ROLE). -/
def State.role (s : State) : Nat := s.fget Reg.twinStatus Reg.twinStatus_ROLE

/-- The next frame of a queue is a host-protocol response (R316). -/
def State.respHead (s : State) (p q : Nat) : Option (List Byte) :=
  (s.dhp.txq.find? fun x => decide (x.1 = p) && decide (x.2.1 = q)).map (·.2.2)

/-- The response at the head of a queue has left; one that a reset waits for comes nearer, or has left (R327). -/
def State.respSent (s : State) (p q : Nat) : State :=
  s.modDhp fun x => { x with
    txq := x.txq.eraseP fun y => decide (y.1 = p) && decide (y.2.1 = q)
    resetResp := match x.resetResp with
      | none => none
      | some (a, b, n) => if a = p ∧ b = q then (if n ≤ 1 then none else some (a, b, n - 1)) else some (a, b, n) }

/-- A queue has a frame to send. -/
def State.txReady (s : State) (p q : Nat) : Bool :=
  decide (s.fget (Reg.ethTxqHead p q) Reg.ethTxqHead_HEAD ≠ s.fget (Reg.ethTxqTail p q) Reg.ethTxqTail_TAIL) &&
    decide (s.fget (Reg.ethTxqCfg p q) Reg.ethTxqCfg_ENTRIES ≠ 0) &&
    ((s.respHead p q).isSome || (!s.eth.stopped && decide (s.role ≠ 4)))

/-- The gate of a queue is open now. -/
def State.gateOpen (s : State) (p q : Nat) : Bool :=
  !s.gclOn p ||
    (bits (s.rd (Reg.ethGcl p (s.fget (Reg.ethStatus p) Reg.ethStatus_OPER_BANK) (s.gclOf p).entry)) 0 32).testBit q

/-- The MAC preempts: preemption is enabled and its verification succeeded (R313). -/
def State.preempts (s : State) (p m : Nat) : Bool := (s.fget (Reg.ethStatus p) Reg.ethStatus_PREEMPT_ACTIVE).testBit m

/-- A class is preemptable on a MAC that preempts. -/
def State.preemptable (s : State) (p q : Nat) : Bool :=
  s.preempts p (q / 8) && !(s.fget (Reg.ethMacTc p (q / 8)) Reg.ethMacTc_EXPRESS).testBit (q % 8)

/-- A frame of `len` bytes, or its next fragment, completes before its gate closes (R312). -/
def State.fitsGate (s : State) (p q len : Nat) : Bool :=
  let unit := if s.preemptable p q then min (len + 4) (64 * (1 + s.fget (Reg.ethCfg p) Reg.ethCfg_ADD_FRAG)) else len + 4
  match s.gateOpenFor p q with
  | none => true
  | some t => decide (unit * 8 ≤ t * gbpsOf (s.portMode p))

/-- An R-TAG inserted after the addresses and the C-tag (R311). -/
def rtagInsert (d : List Byte) (seq : Nat) : List Byte :=
  let o := if be d 12 2 = 0x8100 then 16 else 12
  d.take o ++ toBe 2 0xF1C1 ++ toBe 2 0 ++ toBe 2 seq ++ d.drop o

/-- The active transmit association of a MAC (ETH_MSEC_CTL). -/
def State.txSa (s : State) (p m : Nat) : Nat := saIx (4 * p + m) 1 0 (bits (s.rd (Reg.ethMsecCtl p)) (32 + 2 * m) 2)

/-- A MAC may protect egress frames: enabled, and its active association is valid. -/
def State.protects (s : State) (p m : Nat) : Bool :=
  (s.fget (Reg.ethMsecCtl p) Reg.ethMsecCtl_TX_EN).testBit m && (s.sa (s.txSa p m)).valid

/-- A frame protected with the MAC's active association, whose packet number advances. -/
def State.protect (s : State) (p m : Nat) (d : List Byte) : List Byte × State :=
  let ix := s.txSa p m
  let a := s.sa ix
  let user := d.drop 12
  let tag := toBe 2 0x88E5 ++ toBe 1 (0x2C + ix % 4) ++ toBe 1 (if user.length < 48 then user.length else 0) ++ toBe 4 a.pn ++ toBe 8 a.sci
  let iv := xpnIv a.salt a.ssci a.pn
  let ct := gcmCtr a.key iv user
  (d.take 12 ++ tag ++ ct ++ toBe 16 (gcmTag a.key iv (d.take 12 ++ tag) ct), s.setSa ix { a with pn := a.pn + 1 })

/-- A frame leaves the port: it is counted, and the queue's HEAD advances. -/
def State.sendFrame (s : State) (p q : Nat) (d : List Byte) (fragments : Bool) : State :=
  let m := q / 8
  let s := s.fadd (Reg.ethMacTxcnt p m) Reg.ethMacTxcnt_TX_FRAMES 1
  let s := if fragments then s.fsat (Reg.ethMacTxcnt p m) Reg.ethMacTxcnt_PREEMPTED 1 else s
  s.modEth fun e => { e with sent := e.sent ++ [{ mac := 4 * p + m, data := d, ts := s.stampAt 0 }] }

/-- HEAD advances. -/
def State.headNext (s : State) (p q : Nat) : State :=
  let h := s.fget (Reg.ethTxqHead p q) Reg.ethTxqHead_HEAD
  s.fset (Reg.ethTxqHead p q) Reg.ethTxqHead_HEAD ((h + 1) % s.fget (Reg.ethTxqCfg p q) Reg.ethTxqCfg_ENTRIES)

/-- The descriptor at HEAD is written back with DONE and its status, and its egress timestamp if one was asked for (R311). -/
def State.txDone (s : State) (p q pa flags status : Nat) (ts : Bool) : State :=
  let s := s.devWrite iETH (pa + 10) (toLe 1 (flags ||| 8) ++ toLe 1 status)
  let s := if ts then s.devWrite iETH (pa + 16) (s.stampAt 0).bytes else s
  s.headNext p q

/-- The frame of the descriptor at HEAD: sent, withheld on a standby, or written back with its error (R311, R360). -/
def State.txDescriptor (s : State) (p q : Nat) (fragments : Bool) : State :=
  let m := q / 8
  let pa := s.fget (Reg.ethTxqBase p q) Reg.ethTxqBase_BASE * 32 + 32 * s.fget (Reg.ethTxqHead p q) Reg.ethTxqHead_HEAD
  let dual := bit (s.rd Reg.twinQmode) (32 * p + q)
  match s.devRead iETH pa 32 with
  | (none, s) => s.txDone p q pa 0 1 false
  | (some w, s) =>
    let n := leNat w
    let addr := n % 2 ^ 64
    let len := n / 2 ^ 64 % 2 ^ 16
    let fl := n / 2 ^ 80 % 2 ^ 8
    if !dual && (decide (s.role = 2) || decide (s.role = 3)) then s.txDone p q pa fl 3 false
    else if 2 ^ 44 ≤ addr ∨ 16 ≤ fl ∨ len < 60 ∨ s.maxFrame p < len + 4 ∨ (fl.testBit 2 ∧ !s.protects p m) then s.txDone p q pa fl 2 false
    else
      match s.devRead iETH addr len with
      | (none, s) => s.txDone p q pa fl 1 false
      | (some d, s) =>
        let d := if fl.testBit 0 then rtagInsert d (n / 2 ^ 96 % 2 ^ 16) else d
        let (d, s) := if fl.testBit 2 then s.protect p m d else (d, s)
        (s.sendFrame p q d (fragments && s.preemptable p q)).txDone p q pa fl 0 (fl.testBit 1)

/-- The bytes the next frame of a queue takes on the wire, without FCS: a peek at its descriptor. -/
def State.txLen (s : State) (p q : Nat) : Nat :=
  match s.respHead p q with
  | some d => d.length
  | none =>
    let pa := s.fget (Reg.ethTxqBase p q) Reg.ethTxqBase_BASE * 32 + 32 * s.fget (Reg.ethTxqHead p q) Reg.ethTxqHead_HEAD
    let fl := (s.byte (pa + 10)).toNat
    s.bytes (pa + 8) 2 + 6 * b2n (fl.testBit 0) + 32 * b2n (fl.testBit 2)

/-- FRAME_TRANSMIT: a port sends the next frame of a queue, if the queue may send: its gate is open and stays open long enough, and no queue of
a higher class of its MAC is open with a frame (R311, R312, R316, R360). A descriptor is read once ETH has a tag (R43). -/
def execFrameTransmit (p : Fin 2) (q : Fin 32) (fragments : Bool) (s : State) : Out :=
  let p := p.val
  let q := q.val
  let higher := (List.range 8).any fun t => decide (q % 8 < t) && s.txReady p (q / 8 * 8 + t) && s.gateOpen p (q / 8 * 8 + t)
  if !s.receives || !s.macUp p (q / 8) || !s.txReady p q || !s.gateOpen p q || higher || !s.fitsGate p q (s.txLen p q) then .next s
  else
    match s.respHead p q with
    | some d =>
      let s := s.respSent p q
      .next ((s.sendFrame p q d (fragments && s.preemptable p q)).headNext p q)
    | none => if s.tagFree iETH.val then .next (s.txDescriptor p q fragments) else .next s

end Sys2Proof.Machine
end

