-- ==== Sys2Proof/Machine/TimeCmds.lean ====
section
/-!
DEFINITION. The time block as commands (R342 to R351): steps and rates, the servo, holdover, the reference check, the timed lines, and gPTP.
-/

namespace Sys2Proof.Machine

/-- TIME_STEP: a signed step of the device time (R343). -/
def execTimeStep (rq : Rq) (v : Word) (s : State) : Out := .next (s.gatedWrite rq Reg.timeStep v)

/-- TIME_RATE_WRITE: the rate correction (R342). -/
def execTimeRateWrite (rq : Rq) (v : Word) (s : State) : Out := .next (s.gatedWrite rq Reg.timeRate v)

/-- TIME_NOW_READ: a read of TIME_NOW, which takes a snapshot into the other two registers (R342). -/
def execTimeNowRead (rq : Rq) (s : State) : Out :=
  let (v, s) := s.gatedRead rq Reg.timeNow
  .next (s.answer rq.init.val { status := .ok, data := v.toNat })

/-! ### The servo (R345, R346) -/

/-- The source that the servo follows (TIME_CTL.SOURCE). -/
def State.timeSource (s : State) : Nat := s.fget Reg.timeCtl Reg.timeCtl_SOURCE

/-- A field of TIME_STATUS. -/
def State.timeState (s : State) : Nat := s.fget Reg.timeStatus Reg.timeStatus_STATE

/-- The servo steps, or slews through its PI loop (R345); the loop's arithmetic is a free value of its operands (log entry 24). -/
def State.servoAct (s : State) (ofs : Int) : State :=
  if s.fget Reg.timeServo Reg.timeServo_STEP_US * 1000 < ofs.natAbs then s.stepTime ofs
  else
    let i := s.timeB.integ + ofs
    let r := Config.servoRate (s.fget Reg.timeServo Reg.timeServo_KP_SHIFT) (s.fget Reg.timeServo Reg.timeServo_KI_SHIFT) ofs i
    (s.fset Reg.timeRate Reg.timeRate_PPB r).modTimeB fun b => { b with integ := i }

/-- SERVO_REFERENCE_EVENT: a reference event; `ofs` is the reference's time minus the device's, signed, in ns (R345, R346, R364). -/
def execServoReferenceEvent (ofs : Word) (s : State) : Out :=
  let o := signed 64 ofs.toNat
  let src := s.timeSource
  if s.fget Reg.timeCtl Reg.timeCtl_SERVO_EN = 0 ∨ src = 0 ∨ src = 7 then .next s
  else
    let s := s.servoAct o
    let good := if o.natAbs ≤ 100 then s.timeB.good + 1 else 0
    let st := s.timeState
    let st' := if 8 ≤ good then 2 else if st = 2 ∨ st = 4 then st else 1
    let (e, s) := s.fresh
    let s := ((s.fset Reg.timeStatus Reg.timeStatus_STATE st').fset Reg.timeStatus Reg.timeStatus_SOURCE src).fset Reg.timeStatus
      Reg.timeStatus_ERR_EST_NS e.toNat
    let s := if src = 6 then s.fset Reg.twinStatus Reg.twinStatus_TIME_ERR_NS ((-o) % 65536).toNat else s
    let r := s.fget Reg.timeRate Reg.timeRate_PPB
    .next (s.modTimeB fun b => { b with good := good, rates := (r :: b.rates).take 16, hold := none, limit := false })

/-- The average of the rates of the last 16 events (R346). -/
def avgRate (rs : List Nat) : Nat := ((((rs.map (signed 32)).sum : Int) / (rs.length : Nat)) % 2 ^ 32).toNat

/-- TIME_SOURCE_LOSS: no reference event for 1.5 intervals (R346): TIME_IN_LOSS for a TIME_IN line, and HOLDOVER with the rate frozen at its average;
a source that had not been locked leaves the device without one. -/
def execTimeSourceLoss (s : State) : Out :=
  let src := s.timeSource
  let st := s.timeState
  if src = 0 ∨ (st ≠ 1 ∧ st ≠ 2) then .next s
  else
    let s := if src = 1 ∨ src = 2 then s.raise 0x1D2 else s
    let s := s.modTimeB fun b => { b with good := 0, integ := 0 }
    if st = 1 then .next (s.fset Reg.timeStatus Reg.timeStatus_STATE 0)
    else
      let s := if s.timeB.rates.isEmpty then s else s.fset Reg.timeRate Reg.timeRate_PPB (avgRate s.timeB.rates)
      let e := s.fget Reg.timeStatus Reg.timeStatus_ERR_EST_NS
      let s := s.modTimeB fun b => { b with hold := some (s.now.toNat, e), limit := false }
      .next (s.fset Reg.timeStatus Reg.timeStatus_STATE 3)

/-- HOLDOVER_LIMIT: the error estimate has passed LIMIT_NS (R346). -/
def execHoldoverLimit (s : State) : Out :=
  if s.timeState = 3 ∧ s.fget Reg.timeHold Reg.timeHold_LIMIT_NS < s.errEst ∧ !s.timeB.limit then
    .next ((s.raise 0x1D3).modTimeB fun b => { b with limit := true })
  else .next s

/-- TCXO_CHECK: REFCLK has been measured against the crystal over 10 ms; `dev` is the deviation in 0.1 ppm, signed (R346, CLK_REF). -/
def execTcxoCheck (dev : BitVec 16) (s : State) : Out :=
  let ok := decide (dev.toInt.natAbs ≤ 1000)
  let s := (s.fset Reg.clkRef Reg.clkRef_DEV dev.toNat).fset Reg.clkStatus Reg.clkStatus_REF_OK (b2n ok)
  .next (if ok then s else s.raise 0x1D4)

/-! ### TIME_OUT and TIME_IN (R350, R351) -/

/-- A line is held low: PRIMARY_ONLY on a device that is not PRIMARY (R350). -/
def State.lineHeld (s : State) (n : Nat) : Bool :=
  decide (s.fget (Reg.timeOutCfg n) Reg.timeOutCfg_PRIMARY_ONLY = 1) && decide (s.role ≠ 1)

/-- The line meets its latest edge at or before quarter-nanosecond `q`, if it has not met it yet. -/
def State.lineEdge (s : State) (n : Nat) (stuck : Bool) (q : Nat) : Option (Nat × Bool) → State
  | none => s
  | some (e, up) =>
    if e ≤ (s.line n).seen then s
    else
      let s := s.setLine n { level := up && !s.lineHeld n, seen := q }
      if stuck then s.raise 0x1D5 else s

/-- TIME_OUT_EDGE: an edge of a line falls due; `stuck` says that the pad does not follow the driven level (R344, R350). -/
def execTimeOutEdge (n : Fin 4) (stuck : Bool) (s : State) : Out :=
  .next (s.lineEdge n stuck s.time.quarters (s.lastEdge n s.time.quarters))

/-- TIME_OUT_CFG_WRITE: the configuration of a line, OFF where WIDTH_NS and PERIOD_NS are out of range (R350). -/
def execTimeOutCfgWrite (rq : Rq) (n : Fin 4) (v : Word) (s : State) : Out := .next (s.gatedWrite rq (Reg.timeOutCfg n) v)

/-- TIME_IN_EDGE: an edge at an input, `age` quarter-nanoseconds ago; the selected edge of an enabled input is captured, or lost where the FIFO is
full (R351). -/
def execTimeInEdge (n : Fin 2) (falling : Bool) (age : Nat) (s : State) : Out :=
  let c := Reg.timeInCfg n
  if s.fget c Reg.timeInCfg_EN = 0 ∨ s.fget c Reg.timeInCfg_EDGE ≠ b2n falling then .next s
  else if 4 ≤ (s.caps n).length then .next (s.fsat (Reg.timeInCapf n) Reg.timeInCapf_LOST 1)
  else .next (s.setCaps n (s.caps n ++ [s.stampAt age]))

/-- TIME_IN_CAP_READ: a read of TIME_INn_CAP pops the oldest capture (R351). -/
def execTimeInCapRead (rq : Rq) (n : Fin 2) (s : State) : Out :=
  let (v, s) := s.gatedRead rq (Reg.timeInCap n)
  .next (s.answer rq.init.val { status := .ok, data := v.toNat })

/-! ### gPTP (R348, R349) -/

/-- The device transmits as a grandmaster: its role is PRIMARY or it has no twin (R349). -/
def State.gmActive (s : State) : Bool := decide (s.role = 1) || decide (s.fget Reg.twinCfg Reg.twinCfg_PRESENT = 0)

/-- A gPTP frame leaves a MAC under the gate of TIME_CTL.GPTP_TC, where it completes before that closes (R312, R348), unless a HANDOVER has
stopped egress (R19). -/
def State.gptpSend (s : State) (p m kind dom : Nat) : State :=
  let q := 8 * m + s.fget Reg.timeCtl Reg.timeCtl_GPTP_TC
  let d := Config.gptpFrame kind dom s.now.toNat
  if s.macUp p m && s.gateOpen p q && s.fitsGate p q d.length && s.receives && !s.eth.stopped then s.sendFrame p q d false else s

/-- GPTP_SYNC_TRANSMIT: a grandmaster domain sends Sync (0), Follow_Up (1, two-step alone) or Announce (2) on a MAC (R348, R349). -/
def execGptpSyncTransmit (k : Fin 4) (p : Fin 2) (m : Fin 4) (kind : Fin 3) (s : State) : Out :=
  let c := Reg.timeDomCfg k
  let gm := decide (k.val = 0) || decide (s.fget c Reg.timeDomCfg_ROLE = 1)
  if !gm || !s.gmActive || (decide (kind.val = 1) && decide (s.fget c Reg.timeDomCfg_ONE_STEP = 1)) then .next s
  else .next (s.gptpSend p m kind (s.fget c Reg.timeDomCfg_DOMAIN))

/-- PDELAY_EXCHANGE: peer delay is measured on an enabled MAC; `delay` is the mean link delay in quarter-nanoseconds (R348, TIME_PDLYm). -/
def execPdelayExchange (p : Fin 2) (m : Fin 4) (delay : BitVec 32) (s : State) : Out :=
  if !s.macUp p m then .next s
  else .next ((s.gptpSend p m 3 0).wr (Reg.timePdly (4 * p + m)) (BitVec.ofNat 64 (delay.toNat + 2 ^ 32)))

/-- GPTP_FRAME_RECEIVE: the time block takes its oldest diverted frame (R294, R348); a frame for slave domain `k` on its port gives the domain's time
minus the device's, `ofs`. -/
def execGptpFrameReceive (k : Fin 4) (ofs : Word) (s : State) : Out :=
  match s.eth.gptp with
  | [] => .next s
  | g :: r =>
    let s := s.modEth fun e => { e with gptp := r }
    let c := Reg.timeDomCfg k
    if k.val ≠ 0 ∧ s.fget c Reg.timeDomCfg_ROLE = 2 ∧ s.fget c Reg.timeDomCfg_SLAVE_MAC = g.mac then .next (s.wr (Reg.timeDomOfs k) ofs)
    else .next s

end Sys2Proof.Machine
end

