-- ==== Sys2Proof/Machine/TlbIns.lean ====
section
/-!
DEFINITION. The TLB instructions (R155 to R162).
-/

namespace Sys2Proof.Machine

/-- A TLB instruction needs SUP (R86, table "Traps"). -/
def Local.tlbOp (c : Copy) (body : Local) : Local := if c.priv = 0 then Local.trapping c (trapOf cPRIV) else body

/-- The indices whose entries satisfy a condition. -/
def Copy.tlbWhere (c : Copy) (p : TlbEntry → Bool) : List Nat := (List.range 64).filter fun i => p (c.tlbAt i)

/-- Invalidate the listed entries. -/
def Copy.tlbDrop (c : Copy) (is : List Nat) : Copy :=
  is.foldl (fun c i => let e := c.tlbAt i; c.setTlb i { e with v := false }) c

/-- The next unlocked index at or after `i`, wrapping after 63 (R157). -/
def Copy.nextUnlocked (c : Copy) (i : Nat) : Nat :=
  (((List.range 64).map fun j => (i + j) % 64).find? fun j => !(c.tlbAt j).lock).getD i

/-- The entry a TLBWR writes (R156): the tag's VPN with the bits below the size zero, its ASID, and the PTE. -/
def tlbwrEntry (tag pte : Word) (size : Nat) (lock : Bool) : TlbEntry :=
  let k := sizeBits size - 12
  { v := true, lock := lock, pin := false, size := size, vpn := bits tag 12 36 / 2 ^ k * 2 ^ k, asid := bits tag 48 16, pte := pte }

/-- The trap of a TLBWR, UNDEF before PRIV (R119, R156, R158, R159). -/
def Copy.tlbwrTrap (c : Copy) (tag pte ctl : Word) : Option Nat :=
  let idx := bits ctl 0 6
  let useIdx := bit ctl 6
  let size := bits ctl 7 2
  let lock := bit ctl 9
  let e := tlbwrEntry tag pte size lock
  let held := c.tlbAt idx
  let others (i : Nat) : Bool := !(useIdx && decide (i = idx))
  let lockedOther := ((c.tlbWhere (·.lock)).filter others).length
  if size = 3 ∨ bits ctl 10 54 ≠ 0 ∨ !pteV pte ∨ !pteLeaf pte ∨ pteMalformed pte (3 - size) then some cUNDEF
  else if (c.tlbWhere fun x => x.lock && x.overlaps e).any others then some cUNDEF
  else if lock ∧ 8 ≤ lockedOther then some cUNDEF
  else if useIdx ∧ held.pin then some cPRIV
  else if c.priv < 2 ∧ (lock ∨ (useIdx ∧ held.lock)) then some cPRIV
  else none

/-- The copy after a TLBWR (R157, R158). -/
def Copy.tlbwr (c : Copy) (tag pte ctl : Word) : Copy :=
  let e := tlbwrEntry tag pte (bits ctl 7 2) (bit ctl 9)
  let x := c.tlbDrop (c.tlbWhere fun y => !y.lock && y.overlaps e)
  if bit ctl 6 then x.setTlb (bits ctl 0 6) e
  else
    match (List.range 64).find? fun i => !(x.tlbAt i).v && !(x.tlbAt i).lock with
    | some i => x.setTlb i e
    | none =>
      let p := x.nextUnlocked x.tlbPtr
      let y := x.setTlb p e
      { y with tlbPtr := y.nextUnlocked ((p + 1) % 64) }

/-- TLBWR: tag a, PTE b, control d; 2 cycles (R94, R156 to R159). -/
def execTlbwr (w : Who) (g : Guard) (d a b : RegNo) (s : State) : Out :=
  .next (s.run w g false fun c => Local.tlbOp c (
    match c.tlbwrTrap (c.reg a) (c.reg b) (c.reg d) with
    | some t => Local.trapping c (trapOf t)
    | none => { Local.nop (c.tlbwr (c.reg a) (c.reg b) (c.reg d)) with cycles := 2 }))

/-- The tag form that TLBRD.T returns (R162). -/
def TlbEntry.tag (e : TlbEntry) : Word :=
  BitVec.ofNat 64 (e.vpn * 2 ^ 12 + e.asid * 2 ^ 48 + e.size + 4 * b2n e.v + 8 * b2n e.lock + 16 * b2n e.pin)

/-- TLBRD.T: the tag of entry a[5:0]; b must be 0 (R94, R162). -/
def execTlbrdT (w : Who) (g : Guard) (d a b : RegNo) (s : State) : Out :=
  .next (s.run w g (decide (b ≠ 0)) fun c => Local.tlbOp c (
    { Local.toG c d (c.tlbAt (bits (c.reg a) 0 6)).tag 1 with reads := [(ArrayId.tlb, bits (c.reg a) 0 6)] }))

/-- TLBRD.P: the stored PTE of entry a[5:0]; b must be 0 (R94, R162). -/
def execTlbrdP (w : Who) (g : Guard) (d a b : RegNo) (s : State) : Out :=
  .next (s.run w g (decide (b ≠ 0)) fun c => Local.tlbOp c (
    { Local.toG c d (c.tlbAt (bits (c.reg a) 0 6)).pte 1 with reads := [(ArrayId.tlb, bits (c.reg a) 0 6)] }))

/-- TLBINV.VA: every unlocked entry that matches address a with ASID b (R160). -/
def execTlbinvVa (w : Who) (g : Guard) (a b : RegNo) (s : State) : Out :=
  .next (s.run w g false fun c => Local.tlbOp c (
    Local.nop (c.tlbDrop (c.tlbWhere fun e => !e.lock && e.hits (va48 (c.reg a)) (bits (c.reg b) 0 16)))))

/-- TLBINV.ASID: every unlocked entry with G = 0 and ASID a (R160). -/
def execTlbinvAsid (w : Who) (g : Guard) (a : RegNo) (s : State) : Out :=
  .next (s.run w g false fun c => Local.tlbOp c (
    Local.nop (c.tlbDrop (c.tlbWhere fun e => !e.lock && !pteG e.pte && decide (e.asid = bits (c.reg a) 0 16)))))

/-- TLBINV.ALL: every unlocked entry; 64 cycles (R94, R160). -/
def execTlbinvAll (w : Who) (g : Guard) (s : State) : Out :=
  .next (s.run w g false fun c => Local.tlbOp c { Local.nop (c.tlbDrop (c.tlbWhere fun e => !e.lock)) with cycles := 64 })

/-- TLBINV.IDX: entry a[5:0]; a locked one needs MON and loses its LOCK, a pinned one raises PRIV (R159, R160). -/
def execTlbinvIdx (w : Who) (g : Guard) (a : RegNo) (s : State) : Out :=
  .next (s.run w g false fun c => Local.tlbOp c (
    let i := bits (c.reg a) 0 6
    let e := c.tlbAt i
    if e.pin || (e.lock && decide (c.priv < 2)) then Local.trapping c (trapOf cPRIV)
    else Local.nop (c.setTlb i { e with v := false, lock := false })))

end Sys2Proof.Machine
end

