-- ==== Sys2Proof/Machine/Boot.lean ====
section
/-!
DEFINITION. Start-up (R365 to R367, R387 to R396, R427): the steps from PLL lock to triad release.
-/

namespace Sys2Proof.Machine

/-- A step of start-up may end: the device is powered, in BOOT, not halted and at that step. -/
def State.bootAt (s : State) (n : Nat) : Bool :=
  s.powered && (decide (s.opstate = opBOOT) || decide (s.opstate = opSAFE)) && decide (s.fget Reg.sysBootStat Reg.sysBootStat_HALT = 0) &&
    decide (s.fget Reg.sysBootStat Reg.sysBootStat_STEP = n)

/-- Start-up goes on to a step. -/
def State.toStep (s : State) (n : Nat) : State := s.fset Reg.sysBootStat Reg.sysBootStat_STEP n

/-- A source that is raised once the matrix takes effect (R366, R389). -/
def State.raiseLate (s : State) (src : Nat) : State := s.modBoot fun b => { b with late := b.late ++ [src] }

/-! ### Steps 3 and 4 -/

/-- PLL_LOCK_DONE: REFCLK is present and every PLL locked; the image read and phase 1 begin (R388). The frequencies and voltages measured are free
values; the supplies are within their windows, as the operating conditions ask (R407). -/
def execPllLockDone (s : State) : Out :=
  if !s.bootAt 3 then .next s
  else
    let s := (s.wr Reg.clkStatus 0x1FFFFFF)
    let s := (List.range 11).foldl (fun (s : State) p => let (v, s) := s.fresh; s.fset (Reg.clkPll p) Reg.clkPll_FREQ_KHZ v.toNat) s
    let s := (List.range 10).foldl (fun (s : State) n =>
      let (v, s) := s.fresh
      (s.fset (Reg.clkVmon n) Reg.clkVmon_MV v.toNat).wr (Reg.clkVmon n) (setBits (s.rd (Reg.clkVmon n)) 0 4 15)) s
    .next (s.toStep 4)

/-- The failed physical Crown RAM bank is taken out of use: as the spare, or with the spare taking its place (R256, R366). -/
def State.crownFail (s : State) (b : Nat) : State :=
  if s.fget Reg.memCrSpare Reg.memCrSpare_DEGRADED = 1 then s
  else
    let spare := s.fget Reg.memCrSpare Reg.memCrSpare_SPARE
    let s := (List.range 15).foldl (fun s k =>
      if s.fget Reg.memCrMap (Reg.memCrMap_PHYSk k) = b ∧ b ≠ spare then s.fset Reg.memCrMap (Reg.memCrMap_PHYSk k) spare else s) s
    ((s.fset Reg.memCrSpare Reg.memCrSpare_DEGRADED 1).fset Reg.memCrSpare Reg.memCrSpare_FAILED b).retainMaps

/-- STARTUP_PHASE1_DONE: the start-up test of the arrays ends; `copies` and `banks` have failed it (R365, R366). Which array of a copy failed is a
free value of PNC_FAIL_LAST.DETAIL. -/
def execStartupPhase1Done (copies : BitVec 48) (banks : BitVec 16) (s : State) : Out :=
  if !(s.bootAt 4 || s.bootAt 5) || decide (s.fget Reg.pncStatus Reg.pncStatus_SU1_DONE = 1) then .next s
  else
    let cs := (List.range 48).filter copies.getLsbD
    let bs := (List.range 16).filter banks.getLsbD
    let gone := if s.fget Reg.memCrSpare Reg.memCrSpare_DEGRADED = 1 then [s.fget Reg.memCrSpare Reg.memCrSpare_FAILED] else []
    let s := s.fset Reg.pncFailedCopies Reg.pncFailedCopies_COPY copies.toNat
    let s := cs.foldl (fun (s : State) k => let (v, s) := s.fresh; s.failLast 0xF (k / 3) v.toNat true) s
    let s := bs.foldl (fun s b => (s.crownFail b).failLast 0xF b 0 true) s
    let two := decide (2 ≤ (gone ++ bs.filter fun b => !gone.contains b).length)
    let s := if cs.isEmpty then s else s.raiseLate 0x1F0
    let s := if bs.isEmpty then s else s.raiseLate 0x185
    let s := if two then (s.raiseLate 0x1F0).modBoot fun b => { b with toSafe := true } else s
    .next (s.fset Reg.pncStatus Reg.pncStatus_SU1_DONE 1)

/-- IMAGE_CHECK: the flash is opened and the image read and checked, or the device halts with the cause of the first failing check (R391 to R394).
`sfdp` says whether check 1 passes, `ext` what the flash has been reprogrammed to from outside, if it has; the times are those that SYS_BOOT_TIME and
NVM_TIME record. -/
def execImageCheck (sfdp : Bool) (ext : Option (List Byte)) (units readUs verifyUs : BitVec 16) (s : State) : Out :=
  if !s.bootAt 4 then .next s
  else
    let s := match ext with
      | none => s
      | some d => { s with nvm := { s.nvm with
          flash := ((List.range d.length).zip d).foldl (fun (m : SMap Byte) (x : Nat × Byte) => SMap.put flashErased m x.1 x.2) s.nvm.flash } }
    let s := s.fset Reg.nvmStatus Reg.nvmStatus_PROFILE_OK (b2n sfdp)
    let s := (s.fset Reg.nvmTime Reg.nvmTime_READ_US readUs.toNat).fset Reg.nvmTime Reg.nvmTime_VERIFY_US verifyUs.toNat
    if !sfdp then .next (s.halt 1)
    else
      match s.imgCause with
      | some c => .next (s.halt c)
      | none =>
        let h := s.flashBytes 0 0x600
        let img := s.flashBytes 0 (imgLen h)
        let s := s.modBoot fun b => { b with image := img, pub := imgPub h, commit := imgCommit h }
        .next ((s.fset Reg.sysBootTime Reg.sysBootTime_IMAGE units.toNat).toStep 5)

/-! ### Blocking (R396, R427) -/

/-- The gates after blocking: the shadow copies hold the rules in force, the locked rules are counted (R176). -/
def State.blockGates (s : State) : State :=
  (List.range 27).foldl (fun (s : State) g =>
    let s := (List.range 32).foldl (fun (s : State) k => [Reg.gateRuleBase g k, Reg.gateRuleLimit g k, Reg.gateRuleMask g k].foldl
      (fun (s : State) o => { s with shadow := SMap.put 0 s.shadow o (s.rd o) }) s) s
    s.recountLocked g) s

/-- The triads after blocking: the mode is BOOT_MODE, every copy of it live (TRI_STATUS), and DEBUG_SPLIT stays where a debugger has attached (R81, R82).
DESIGN CHOICE (log entry 171): with BOOT_MODE = PAIR no MSYNC has selected SPARE, and copy C starts parked. -/
def State.blockTriads (s : State) : State :=
  (List.range 16).foldl (fun (s : State) t =>
    let m := s.fget (Reg.triModeAllow t) Reg.triModeAllow_BOOT_MODE
    let now := if s.tri t Reg.triStatus_DBG_BROKEN = 1 then 3 else m
    (s.fset (Reg.triStatus t) Reg.triStatus_MODE now).fset (Reg.triStatus t) Reg.triStatus_LIVE (if m = 1 then 3 else 7)) s

/-- Fuller after blocking: contexts IDLE or UNBOUND, every slice powered, the frame's length, the power gating in force (R185, R209, R213). -/
def State.blockFuller (s : State) : State :=
  let s := (List.range 8).foldl (fun (s : State) c =>
    s.fset (Reg.fulCState c) Reg.fulCState_STATE (if s.cxBound c then cxIDLE else cxUNBOUND)) s
  let us := (List.range (s.fget Reg.fulSchedCfg Reg.fulSchedCfg_NWIN_M1 + 1)).foldl (fun n w => n + s.fget (Reg.fulWin w) Reg.fulWin_LEN) 0
  let s := (s.fset Reg.fulStatus Reg.fulStatus_SLICE_ON 0xF).fset Reg.fulSchedStat Reg.fulSchedStat_FRAME_US us
  { s with ful := { s.ful with pg := s.rd Reg.fulPgCtl } }

/-- The memories after blocking: each bank in its starting state (R250), the locked remap entries restored (R282), the regions of the configuration
uncleared but for those kept (R266). -/
def State.blockMemories (s : State) : State :=
  let s := (List.range 256).foldl (fun (s : State) b =>
    s.setBank b (if s.bankPwr b then 0 else if bit (s.rd (Reg.memSsLowmode (b / 64))) (b % 64) then 2 else 1)) s
  let s := (s.hbx.remaps.foldl (fun (s : State) e => s.wr e.1 (setBits e.2 Reg.edcRemap_RESTORED.lo 1 1)) s).remapLines
  s.fset Reg.ddrZodStat Reg.ddrZodStat_UNCLEARED (s.dramSize / 2 ^ 21 - s.prot.zod.length)

/-- The ports and admission after blocking: the gate control lists of bank 0 are operational (R312), the entries in use come from the image and are
charged to their ports (R308). -/
def State.blockPorts (s : State) : State :=
  let s := (List.range 2).foldl (fun (s : State) p =>
    s.setGcl p { base := (s.rd (Reg.ethGclBase p)).toNat, cycle := max 1000 (s.fget (Reg.ethGclCtl p) Reg.ethGclCtl_CYCLE_NS)
                 len := s.fget (Reg.ethGclCtl p) Reg.ethGclCtl_LEN_M1 + 1, entry := 0, chg := none }) s
  ((List.range 1024).filter s.entryValid).foldl (fun (s : State) n =>
    let d := s.rd (Reg.admEntryDest n)
    (s.fset (Reg.admEntryDest n) Reg.admEntryDest_FROM_IMG 1).chargePorts (s.rd (Reg.admEntryId n)) (· + chargeOf (s.rd (Reg.admEntryContract n)) d)) s

/-- A range of DRAM lies in KEEP ranges. -/
def State.keptArea (s : State) (base len : Nat) : Bool :=
  (List.range ((len + 2 ^ 21 - 1) / 2 ^ 21)).all fun i => s.keepRegion (ddrRegion base + i)

/-- The recorder after blocking (R341): OFF, RECORDING, or FROZEN again over a span that has been kept. -/
def State.blockRecorder (s : State) : State :=
  if s.fget Reg.recCfg Reg.recCfg_ENABLE = 0 then s.fset Reg.recStatus Reg.recStatus_STATE 0
  else
    let kept := (List.range 2).all fun i => s.keptArea (s.fget (Reg.recBase i) Reg.recBase_BASE * 2 ^ 21) (s.recBytes i)
    if s.fget Reg.recFrz Reg.recFrz_VALID = 1 ∧ kept then s.fset Reg.recStatus Reg.recStatus_STATE 3
    else (s.fset Reg.recFrz Reg.recFrz_VALID 0).fset Reg.recStatus Reg.recStatus_STATE 1

/-- The twin and the time block after blocking: the image's role, link training where a twin is fitted, the image's time source (R355, R362). -/
def State.blockTwin (s : State) : State :=
  let present := decide (s.fget Reg.twinCfg Reg.twinCfg_PRESENT = 1)
  let standby := decide (s.fget Reg.twinCfg Reg.twinCfg_ROLE = 1)
  let s := s.fset Reg.twinStatus Reg.twinStatus_ROLE (if standby then 2 else if present then 1 else 0)
  let s := if present then s.fset Reg.twinStatus Reg.twinStatus_LINK 1 else s
  let s := (List.range 4).foldl (fun (s : State) n => s.setLine n { level := false, seen := s.time.quarters }) s
  s.modTimeB fun b => { b with image := s.timeSource }

/-- The Hatbox after blocking: it holds a rule table, and no input is failed (R377, R381). -/
def State.blockHatbox (s : State) : State :=
  let s := (s.fset Reg.hbxStatus Reg.hbxStatus_RULES_VALID 1).retItem 4 true
  (List.range 8).foldl (fun (s : State) n => s.fset (Reg.hbxInVal n) Reg.hbxInVal_FAILED 0) s

/-- The sources that waited for the matrix are raised (R366). -/
def State.raiseLates (s : State) : State := (s.boot.late.foldl State.raise s).modBoot fun b => { b with late := [] }

/-- The end of blocking (R396). -/
def State.blocked (s : State) (img : List Byte) : State :=
  let s := ((((((s.blockGates.blockTriads).blockFuller).blockMemories).blockPorts).blockRecorder).blockTwin).blockHatbox
  let s := s.wr Reg.nvmImg (BitVec.ofNat 64 (imgLen img / 64 % 2 ^ 18 + 2 ^ 18 * imgKey img + 2 ^ 32 * imgSvn img))
  ((s.fset Reg.nvmStatus Reg.nvmStatus_PINS 0).gpioSync.raiseLates.recordWdog).toStep 6

/-- BLOCKING: the image's sections are applied in ascending TYPE, once phase 1 has ended; a failing check 9 halts the device with cause 9, and the
registers that tables had written hold unspecified values then: free values (R394 to R396). DESIGN CHOICE (log entry 140): every register that a table of
the image names counts as written, also one of a table after the record that failed. -/
def execBlocking (units blockUs : BitVec 16) (s : State) : Out :=
  if !s.bootAt 5 || decide (s.fget Reg.pncStatus Reg.pncStatus_SU1_DONE = 0) then .next s
  else
    match s.imgSections s.boot.image with
    | none => .next (s.unspecTables.halt 9)
    | some s =>
      let s := (s.fset Reg.sysBootTime Reg.sysBootTime_BLOCKED units.toNat).fset Reg.nvmTime Reg.nvmTime_BLOCK_US blockUs.toNat
      .next (s.blocked s.boot.image)

/-! ### Step 6 (R389, R390) -/

/-- Step 6 ends when DRAM is trained and the code store checked. -/
def State.step6End (s : State) : State :=
  if s.boot.codeOk ∧ s.fget Reg.ddrTrainStat Reg.ddrTrainStat_DONE = 1 then s.toStep 7 else s

/-- The margins of a channel: free values; whether its fast training was outside limits. -/
def State.trainMargins (s : State) (rejected : BitVec 16) : State :=
  (List.range 16).foldl (fun (s : State) ch =>
    let (v, s) := s.fresh
    s.wr (Reg.ddrTrainCh ch) (BitVec.ofNat 64 (bits v 0 28 + 2 ^ 28 * b2n (rejected.getLsbD ch)))) s

/-- DRAM_TRAINING: fast training where the retained results are usable, full training of the channels `rejected` by it, of all where they are not;
`failed` channels that also fail full training are left untrained (R389). `tj` is the junction temperature in °C + 40. -/
def execDramTraining (rejected failed : BitVec 16) (timeUs : BitVec 18) (tj : BitVec 8) (s : State) : Out :=
  if !s.bootAt 6 || decide (s.fget Reg.ddrTrainStat Reg.ddrTrainStat_DONE = 1) then .next s
  else
    let cfg := s.rd Reg.ddrCfg
    let usable := match s.hbx.train with | some t => decide (t.cfg = cfg) | none => false
    let full : BitVec 16 := if usable then rejected else BitVec.allOnes 16
    let bad := failed &&& full
    let s := s.trainMargins (if usable then rejected else 0)
    let saves := match s.hbx.train with | some t => t.saves | none => 0
    let s := if full = 0 then s
      else (s.modHbx fun h => { h with train := some { cfg := cfg, tj := tj.toNat, saves := min 65535 (saves + 1) } }).retItem 1 true
    let t := s.hbx.train.getD { cfg := 0, tj := 0, saves := 0 }
    let s := s.wr Reg.ddrTrainSaved (BitVec.ofNat 64 (b2n usable + 2 * bits t.cfg 0 3 + 2 ^ 4 * (t.tj % 256) + 2 ^ 12 * t.saves))
    let s := s.wr Reg.ddrTrainStat (BitVec.ofNat 64 (1 + 2 * full.toNat + 2 ^ 17 * bad.toNat + 2 ^ 33 * timeUs.toNat))
    let s := (s.fset Reg.ddrStatus Reg.ddrStatus_TRAINED (b2n (decide (bad = 0)))).fset Reg.ddrStatus Reg.ddrStatus_CH_OK (~~~bad).toNat
    let s := (s.fset Reg.sysBootStat Reg.sysBootStat_TRAIN_FULL (b2n (decide (full ≠ 0)))).fset Reg.sysBootStat Reg.sysBootStat_TRAIN_FAILED
      (b2n (decide (bad ≠ 0)))
    .next ((if bad = 0 then s else s.raiseLate 0x1B1).step6End)

/-- The bytes of the code store. -/
def State.codeBytes (s : State) (off n : Nat) : List Byte := (List.range n).map fun i => s.byte (paCode + off + i)

/-- CODE_STORE_CHECK: each range of the CODE section has the digest given there, or the device halts with cause 10 and the
registers of the tables unspecified (R390, R394). -/
def execCodeStoreCheck (s : State) : Out :=
  if !s.bootAt 6 || s.boot.codeOk then .next s
  else if (imgCode (imgSection s.boot.image 16)).all fun e => decide (Config.sha384 (s.codeBytes e.1 e.2.1) = e.2.2) then
    .next (s.modBoot fun b => { b with codeOk := true }).step6End
  else .next (s.unspecTables.halt 10)

/-! ### Step 7 (R365, R367) -/

/-- STARTUP_PHASE2_DONE: the second start-up test ends with the failures given: of Conformers by triad, PLL lock monitors, clock frequencies, voltage
monitors at 2·s + m, temperature pairs and ADC channels (R365, R367, R374). Each triad has had one hold for each copy (R368). -/
def execStartupPhase2Done (conf : BitVec 16) (pll freq : BitVec 11) (vmon : BitVec 20) (temp : BitVec 6) (adc : BitVec 8) (s : State) : Out :=
  if !s.bootAt 7 then .next s
  else
    let each (n : Nat) (p : Nat → Bool) (f : State → Nat → State) (s : State) : State :=
      ((List.range n).filter p).foldl (fun (s : State) i => (f s i).failLast 0xF i 0 true) s
    let s := (List.range 16).foldl (fun (s : State) t => ((s.holdAdvance t).holdAdvance t).holdAdvance t) s
    let s := each 16 conf.getLsbD (fun s t => s.raise (srcCONFORMER_FAULT t)) s
    let s := each 11 pll.getLsbD (fun s p => s.markFailed 6 p) s
    let s := each 11 freq.getLsbD (fun s _ => s.raise 0x1F0) s
    let s := each 20 vmon.getLsbD (fun s i => (s.miscMark Reg.pncFailedMisc_VMON i).raise 0x1F0) s
    let s := each 6 temp.getLsbD (fun s i => s.markFailed 3 i) s
    let s := each 8 adc.getLsbD (fun s i => s.markFailed 5 i) s
    let pass := decide (s.fget Reg.pncFailLast Reg.pncFailLast_VALID = 0)
    .next (((s.fset Reg.pncStatus Reg.pncStatus_SU2_DONE 1).fset Reg.pncStatus Reg.pncStatus_SU_PASS (b2n pass)).toStep 8)

/-! ### Triad release (R126, R162, R366, R388, R399) -/

/-- The lines of a triad's code-store ranges, in range order, that lie in the code store (R126). -/
def State.lockLines (s : State) (t : Nat) : List Nat :=
  ((List.range 4).flatMap fun k =>
    let r := s.rd (Reg.sysTriLrange t k)
    (List.range (bits r 20 20)).map fun i => bits r 0 20 + i).filter fun l => decide (l < 2 ^ 20)

/-- The locked ways of an instruction cache are filled; a line beyond its set's locked ways is not (R126). -/
def State.lockFill (s : State) (t : Nat) (c : Copy) : Copy :=
  let ways := s.fget (Reg.sysTriStart t) Reg.sysTriStart_LWAYS
  (s.lockLines t).foldl (fun (c : Copy) l =>
    let line := paCode / 32 + l
    match (List.range ways).find? fun w => !(c.iLine (cacheKey (iSet line) w)).valid with
    | none => c
    | some w => c.setILine (cacheKey (iSet line) w) { valid := true, flag := true, line := line, data := s.bytes (32 * line) 32, age := 0 }) c

/-- The pinned entries of a triad, installed in indices 0 upward (R159, R162). -/
def State.pinned (s : State) (t : Nat) : List TlbEntry :=
  ((List.range 8).filter fun e => bit (s.rd (Reg.xltPinTag t e)) 2).map fun e =>
    let tag := s.rd (Reg.xltPinTag t e)
    { tlbwrEntry tag (s.rd (Reg.xltPinPte t e)) (bits tag 0 2) true with pin := true }

/-- A copy at release: its locked ways and pinned entries, the start address, and running unless it is not live or a debugger holds it (R55, R81, R126,
R162). -/
def State.releaseCopy (s : State) (t k : Nat) : State :=
  let es := s.pinned t
  s.modCopy (copyIx t k) fun c =>
    let c := s.lockFill t c
    let c := ((List.range es.length).zip es).foldl (fun (c : Copy) x => c.setTlb x.1 x.2) c
    { c with pc := BitVec.ofNat 64 (s.fget (Reg.sysTriStart t) Reg.sysTriStart_VA), status := if s.live t k then (if c.status = .dbg then .dbg else .run) else .held }

/-- A triad at release: its failed copies isolated; a PAIR that has lost A or B, and a VOTE triad with one copy left, do not start (R366). -/
def State.releaseTriad (s : State) (t : Nat) : State :=
  let bad := (s.liveCopies t).filter (s.copyFailed t)
  let w := s.rd (Reg.triStatus t)
  let w := bad.foldl (fun w c => setBits (setBits w (Reg.triStatus_LIVE.lo + c) 1 0) (Reg.triStatus_ISOLATED.lo + c) 1 1) w
  let s := s.wr (Reg.triStatus t) w
  let s := if s.groupMode t && decide ((s.liveCopies t).length < 2) then s.fset (Reg.triStatus t) Reg.triStatus_STOPPED 1 else s
  let s := [0, 1, 2].foldl (fun (s : State) k => s.releaseCopy t k) s
  s.modTriad t fun x => { x with released := true, wdogFrom := s.ticks }

/-- The minimum SVN rises to the image's, if the image asks for it (R399). -/
def State.commitSvn (s : State) : State :=
  let svn := s.fget Reg.nvmImg Reg.nvmImg_SVN
  if s.boot.commit ∧ s.otp.minSvn < svn then s.modOtp fun o => { o with minSvn := min 64 svn } else s

/-- The operating state at release: SAFE where a reaction has put the device there (R23), STANDBY by the twin's role, SAFE where Crown RAM has lost two banks, else RUN with SAFE_N high (R30, R325, R366). -/
def State.releaseState (s : State) : State :=
  if s.opstate = opSAFE then s
  else if s.tw Reg.twinStatus_ROLE = 2 then s.setOp opSTANDBY else if s.boot.toSafe then s.setOp opSAFE else s.enterRun

/-- TRIAD_RELEASE: start-up ends (R388): the triads start, the device is ready, TWIN_ALIVE_OUT toggles, and the schedule of Pounce begins. -/
def execTriadRelease (units : BitVec 16) (s : State) : Out :=
  if !s.bootAt 8 then .next s
  else
    let s := (List.range 16).foldl State.releaseTriad s
    let s := ((s.commitSvn).releaseState).raiseLates
    let gm := decide (s.tw Reg.twinStatus_ROLE < 2)
    let s := (s.fset Reg.timeStatus Reg.timeStatus_GM (b2n gm)).modTwin fun x => { x with alive := !s.wdogDead }
    let s := (s.fset Reg.sysBootTime Reg.sysBootTime_RELEASED units.toNat).toStep 9
    .next ((s.modBoot fun b => { b with release := some s.now.toNat }).skipDue)

/-! ### MAINT (R400, R401) -/

/-- The bytes written from offset 0 without a gap, in units of 256. -/
def State.nvmRun (s : State) : Nat :=
  match (List.range 0x40000).find? fun u => !SMap.get false s.nvm.units u with
  | some u => 256 * u
  | none => 2 ^ 26

/-- A sector is erased the first time a write of this entry to MAINT reaches it. -/
def State.eraseFor (s : State) (off len : Nat) : State :=
  ((List.range ((off + len - 1) / 0x10000 - off / 0x10000 + 1)).map (off / 0x10000 + ·)).foldl (fun (s : State) n =>
    if s.nvm.erased.contains n then s
    else { s with nvm := { s.nvm with
      erased := s.nvm.erased ++ [n]
      flash := s.nvm.flash.filter fun (e : Nat × Byte) => decide (e.1 / 0x10000 ≠ n)
      units := s.nvm.units.filter fun (e : Nat × Bool) => decide (e.1 / 256 ≠ n) } }) s

/-- The image written is read back: the checks 2 to 8 without effect (NVM_PROG.CHECK). -/
def State.nvmReadBack (s : State) : State :=
  match s.imgCause with
  | none => (s.fset Reg.nvmProg Reg.nvmProg_CHECK 2).fset Reg.nvmProg Reg.nvmProg_CHECK_CAUSE 0
  | some c => (s.fset Reg.nvmProg Reg.nvmProg_CHECK 3).fset Reg.nvmProg Reg.nvmProg_CHECK_CAUSE c

/-- NVM_PROGRAM_DONE: the data of IMAGE_WRITE is in the flash; once the bytes from offset 0 cover the image it is read back and checked (R400). -/
def execNvmProgramDone (s : State) : Out :=
  match s.nvm.prog with
  | none => .next s
  | some (off, d) =>
    let s := s.eraseFor off d.length
    let s := { s with nvm := { s.nvm with
      prog := none
      flash := ((List.range d.length).zip d).foldl (fun (m : SMap Byte) (x : Nat × Byte) => SMap.put flashErased m (off + x.1) x.2) s.nvm.flash
      units := (List.range (d.length / 256)).foldl (fun (m : SMap Bool) (i : Nat) => SMap.put false m (off / 256 + i) true) s.nvm.units } }
    let s := (s.fsat Reg.nvmProg Reg.nvmProg_WRITTEN d.length).fset Reg.nvmProg Reg.nvmProg_BUSY 0
    let s := s.fset Reg.nvmStatus Reg.nvmStatus_PINS 0
    let len := max 1 (imgLen (s.flashBytes 0 16))
    let run := s.nvmRun
    let s := s.fset Reg.nvmProg Reg.nvmProg_PERMILLE (min 1000 (run * 1000 / len))
    .next (if 512 ≤ run ∧ len ≤ run then s.nvmReadBack else s)

/-- CODE_PROGRAM_DONE: the lines of CODE_WRITE are in the code store; locked lines keep their old code (R127, R401). -/
def execCodeProgramDone (s : State) : Out :=
  match s.nvm.code with
  | none => .next s
  | some (off, d) =>
    let s := { s with nvm := { s.nvm with code := none } }
    let s := (unitsOf 2 (paCode + off) d.length).foldl (fun (s : State) u => s.arrayWrite 2 u) s
    let s := ((List.range d.length).zip d).foldl (fun (s : State) x => s.setByte (paCode + off + x.1) x.2) s
    let s := (s.fsat Reg.nvmCodeProg Reg.nvmCodeProg_WRITTEN d.length).fset Reg.nvmCodeProg Reg.nvmCodeProg_PERMILLE 1000
    .next (s.fset Reg.nvmCodeProg Reg.nvmCodeProg_BUSY 0)

end Sys2Proof.Machine
end

