-- ==== Sys2Proof/Machine/BranchIns.lean ====
section
/-!
DEFINITION. Branches (R91, R94, R95, R123): B, BL and JALR with their 16-bit forms, and the branch-target buffer they keep.
-/

namespace Sys2Proof.Machine

/-- A not-taken branch: its cost, and a hit entry removed (R91, R94, R123). -/
def Local.notTaken (c : Copy) : Local :=
  { Local.nop (c.btbUpdate c.pc none) with
    cycles := branchCycles (c.btbHit c.pc).isSome false, reads := [(ArrayId.btb, btbIx c.pc)] }

/-- A taken branch to a target, with an optional link register. -/
def Local.taken (c : Copy) (tgt : Word) (link : Option (RegNo × Word)) : Local :=
  let l := match link with
    | some (d, v) => Local.toG (c.btbUpdate c.pc (some tgt)) d v 1
    | none => Local.nop (c.btbUpdate c.pc (some tgt))
  { l with
    cycles := branchCycles (c.btbHit c.pc).isSome true, nextPc := some tgt, reads := [(ArrayId.btb, btbIx c.pc)] }

/-- Run a branch: its false condition is a not-taken branch (R91). -/
def State.runBranch (s : State) (w : Who) (g : Guard) (body : Copy → Local) : State :=
  (s.runInstr w g false (fun _ _ c => Local.notTaken c) (fun _ _ c => body c)).1

/-- B and the 16-bit B16: PC + off × 2 (R94, R95). -/
def execB (w : Who) (g : Guard) (off : BitVec 21) (s : State) : Out :=
  .next (s.runBranch w g fun c => Local.taken c (eaB c off) none)

/-- BL: g31 = PC + 4; PC = PC + off × 2 (R94). -/
def execBl (w : Who) (g : Guard) (off : BitVec 21) (s : State) : Out :=
  .next (s.runBranch w g fun c => Local.taken c (eaB c off) (some (31, c.pc + BitVec.ofNat 64 g.len)))

/-- JALR, and the 16-bit JR and JALR16: t = a + imm × 2; d = PC + 4 (PC + 2 for the 16-bit form); PC = t. An odd target raises ALIGN
when it is fetched (R94, R95, R118). -/
def execJalr (w : Who) (g : Guard) (d a : RegNo) (imm : BitVec 11) (s : State) : Out :=
  .next (s.runBranch w g fun c =>
    Local.taken c (c.reg a + (imm.signExtend 64 <<< 1)) (some (d, c.pc + BitVec.ofNat 64 g.len)))

end Sys2Proof.Machine
end

