-- ==== Sys2Proof/Machine/Walk.lean ====
section
/-!
DEFINITION. Translation for the Fuller contexts (R163 to R170): the Fuller TLB, the walk cache and the walker.
-/

namespace Sys2Proof.Machine

/-- The number of valid entries. -/
def Xlt.validCount (x : Xlt) : Nat := (x.tlb.filter fun e => e.2.valid).length

/-- Write a context's translation state and recount XLT_Cc_OCC. -/
def State.setXlt (s : State) (c : Nat) (x : Xlt) : State :=
  let s := { s with xlt := SMap.put Xlt.reset s.xlt c x }
  let s := s.fset (Reg.xltOcc c) Reg.xltOcc_TLB_VALID x.validCount
  s.fset (Reg.xltOcc c) Reg.xltOcc_WC_VALID x.wc.length

/-- The oldest of the listed entries, the lowest index among equals. -/
def oldestOf (age : Nat → Nat) : List Nat → Nat → Nat
  | [], b => b
  | i :: r, b => oldestOf age r (if age i < age b then i else b)

/-- The way of its set that a leaf fills (R163): that of the entry that matches already, else an invalid one, else the least recently used one, whose entry
is evicted. -/
def Xlt.fillWay (x : Xlt) (base : Nat) (own : Option Nat) : Nat × Bool :=
  let ways := (List.range 8).map (base + ·)
  match own.filter fun i => decide (i / 8 * 8 = base) with
  | some i => (i, false)
  | none => match ways.find? fun i => !(x.at i).valid with
    | some i => (i, false)
    | none => (oldestOf (fun i => (x.at i).age) ways base, true)

/-- Fill the Fuller TLB with a leaf (R163): every entry that matches the address already goes, and no page has two; a valid entry that is evicted is
counted. -/
def State.fulFill (s : State) (c va size : Nat) (pte : Word) : State :=
  let x := s.xltOf c
  let asid := s.fget (Reg.xltAsid c) Reg.xltAsid_ASID
  let own := x.find va asid
  let x := { x with tlb := x.tlb.filter fun e => !e.2.hits e.2.size va asid }
  let (i, evict) := x.fillWay (8 * fulSet size va) own
  let e : FulTlbEntry := { valid := true, size := size, vpn := va / 2 ^ sizeBits size, asid := asid, pte := pte, age := x.tick + 1 }
  let s := s.setXlt c { x with tlb := SMap.put FulTlbEntry.empty x.tlb i e, tick := x.tick + 1 }
  if evict then s.fsat (Reg.xltStat c) Reg.xltStat_TLB_EVICTS 1 else s

/-- The address prefix of a walk-cache entry at a level (R164). -/
def wcPfx (level va : Nat) : Nat := va / 2 ^ (39 - 9 * level)

/-- The deepest walk-cache hit: the level to read next and its table (R164). -/
def Xlt.wcHit (x : Xlt) (asid va : Nat) : Option (Nat × Nat) :=
  [2, 1, 0].findSome? fun l =>
    (x.wc.find? fun e => decide (e.asid = asid) && decide (e.level = l) && decide (e.pfx = wcPfx l va)).map fun e => (l + 1, e.ppn * 2 ^ 12)

/-- The use stamp of an entry that was hit. -/
def Xlt.wcTouch (x : Xlt) (asid va level : Nat) : Xlt :=
  { x with
    wc := x.wc.map fun e => if e.asid = asid ∧ e.level = level ∧ e.pfx = wcPfx level va then { e with age := x.tick + 1 } else e
    tick := x.tick + 1 }

/-- The entries without the least recently used one. -/
def wcEvict (es : List WcEntry) : List WcEntry :=
  let m := es.foldl (fun m e => min m e.age) (es.headD { asid := 0, level := 0, pfx := 0, ppn := 0, age := 0 }).age
  es.filter fun e => decide (e.age ≠ m)

/-- Enter a table pointer, replacing any match (R164, R165): 256 entries, the least recently used one goes. -/
def Xlt.wcEnter (x : Xlt) (asid level va ppn : Nat) : Xlt :=
  let rest := x.wc.filter fun e => !(decide (e.asid = asid) && decide (e.level = level) && decide (e.pfx = wcPfx level va))
  let rest := if 256 ≤ rest.length then wcEvict rest else rest
  { x with wc := rest ++ [{ asid := asid, level := level, pfx := wcPfx level va, ppn := ppn, age := x.tick + 1 }], tick := x.tick + 1 }

/-- The request of a walk, under the context's initiator ID (R165, R173). -/
def walkReq (c : Nat) (op : MeshOp) (pa data cmp : Nat) : MeshReq :=
  { rq := { init := Fin.ofNat 30 (16 + c), tag := 0 }, op := op, atom := .cas, pa := BitVec.ofNat 44 pa, len := 8, data := data, cmp := cmp }

/-- The fault of a walk's response (R165, R167): a read that stays uncorrectable when it is read again, or has timed out, is WALK_DATA_ERR. -/
def walkFault (st : RespStatus) : Nat := match st with | .denied => 0x17 | _ => 0x15

/-- The memories a walk may read (R165). -/
def walkMemory (pa : Nat) : Bool := decide (windowOf pa = .dram) || decide (windowOf pa = .stream) || decide (windowOf pa = .crown)

/-- The leaf that a descent from a table finds: its address, value and level, or the fault (R165). `n` bounds the levels left. -/
def State.descend (s : State) (c va : Nat) : Nat → Nat → Nat → Except Nat (Nat × Word × Nat) × State
  | 0, _, _ => (.error 0x11, s)
  | n + 1, level, table =>
    let pa := table + 8 * (va / 2 ^ (39 - 9 * level) % 512)
    if !walkMemory pa then (.error 0x16, s)
    else
      let (r, s) := s.serveAt (walkReq c .walkRead pa 0 0) (BitVec.ofNat 64 pa)
      if r.status ≠ .ok then (.error (walkFault r.status), s)
      else
        let pte : Word := BitVec.ofNat 64 r.data
        if !pteV pte then (.error 0x10, s)
        else if pteMalformed pte level then (.error 0x11, s)
        else if pteLeaf pte then (.ok (pa, pte, level), s)
        else
          let asid := s.fget (Reg.xltAsid c) Reg.xltAsid_ASID
          let s := s.setXlt c ((s.xltOf c).wcEnter asid level va (ptePPN pte))
          s.descend c va n (level + 1) (ptePPN pte * 2 ^ 12)

/-- The level at which a context's accesses are checked (XLT_Cc_CFG.PRIV): 0 USR, 1 SUP. -/
def State.ctxPriv (s : State) (c : Nat) : Nat := s.fget (Reg.xltCfg c) Reg.xltCfg_PRIV

/-- The permission fault of a leaf for a context's access (R154, R165, R167). -/
def State.leafFault (s : State) (c : Nat) (pte : Word) (write : Bool) : Option Nat :=
  let u := decide (s.ctxPriv c = 0) && !pteU pte
  if write then (if pteW pte && !u then none else some 0x13) else (if pteR pte && !u then none else some 0x12)

/-- The attempts of a walk (R165, R166): each from the walk cache, or from the root once a compare-and-swap has failed; the third failure
reports PTE_UNSTABLE. -/
def State.walkTry (s : State) (c va : Nat) (write : Bool) : Nat → Bool → Except Nat (Word × Nat) × State
  | 0, _ => (.error 0x18, s)
  | n + 1, useCache =>
    let asid := s.fget (Reg.xltAsid c) Reg.xltAsid_ASID
    let start := (if useCache then (s.xltOf c).wcHit asid va else none)
    let s := match start with
      | some (l, _) => s.setXlt c ((s.xltOf c).wcTouch asid va (l - 1))
      | none => s
    let (level, table) := start.getD (0, s.fget (Reg.xltRoot c) Reg.xltRoot_PPN * 2 ^ 12)
    match s.descend c va 4 level table with
    | (.error f, s) => (.error f, s)
    | (.ok (pa, pte, lvl), s) =>
      match s.leafFault c pte write with
      | some f => (.error f, s)
      | none =>
        if 4 ≤ pteMT pte then (.error 0x14, s)
        else
          let new := pte ||| BitVec.ofNat 64 (0x40 + 0x80 * b2n write)
          if new = pte then (.ok (pte, 3 - lvl), s)
          else
            let (r, s) := s.serveAt (walkReq c .walkCas pa new.toNat pte.toNat) (BitVec.ofNat 64 pa)
            if r.status ≠ .ok then (.error (walkFault r.status), s)
            else if r.data = pte.toNat then (.ok (new, 3 - lvl), s)
            else
              let s := if n = 0 then s else s.fsat (Reg.xltStat c) Reg.xltStat_CAS_RESTARTS 1
              s.walkTry c va write n false

/-- A walk (R165): it fills the Fuller TLB, or faults without filling; the statistics count it (XLT_Cc_STAT). -/
def State.walk (s : State) (c va : Nat) (write : Bool) : Except Nat (Word × Nat) × State :=
  let s := s.fsat (Reg.xltStat c) Reg.xltStat_WALKS 1
  match s.walkTry c va write 3 true with
  | (.error f, s) => (.error f, s.fsat (Reg.xltStat c) Reg.xltStat_WALK_FAULTS 1)
  | (.ok (pte, size), s) => (.ok (pte, size), s.fulFill c va size pte)

/-- The translation of a context's element access: a hit with its permissions checked, or a walk; a write through an entry with D = 0 is a
miss (R154, R163). The answer is the physical address and the memory type, or the cause of R167. -/
def State.ctxXlate (s : State) (c va : Nat) (write : Bool) : Except Nat (Nat × Nat) × State :=
  let va := va % 2 ^ 48
  let x := s.xltOf c
  let asid := s.fget (Reg.xltAsid c) Reg.xltAsid_ASID
  let walk (s : State) : Except Nat (Nat × Nat) × State :=
    match s.walk c va write with
    | (.error f, s) => (.error f, s)
    | (.ok (pte, size), s) => (.ok (leafPa pte size va, pteMT pte), s)
  match x.find va asid with
  | none => walk s
  | some i =>
    let e := x.at i
    match s.leafFault c e.pte write with
    | some f => (.error f, s)
    | none =>
      if write && !pteD e.pte then walk s
      else
        let s := s.setXlt c { x with tlb := SMap.put FulTlbEntry.empty x.tlb i { e with age := x.tick + 1 }, tick := x.tick + 1 }
        (.ok (leafPa e.pte e.size va, pteMT e.pte), s)

/-! ### Invalidation (R169) -/

/-- VINV.VA: the entries that match an address under an ASID, global ones regardless. -/
def Xlt.invVa (x : Xlt) (va asid : Nat) : Xlt := { x with tlb := x.tlb.filter fun e => !(e.2.hits e.2.size (va % 2 ^ 48) asid) }
/-- VINV.ASID: the entries with G = 0 and the ASID. -/
def Xlt.invAsid (x : Xlt) (asid : Nat) : Xlt := { x with tlb := x.tlb.filter fun e => pteG e.2.pte || decide (e.2.asid ≠ asid) }
/-- VINV.ALL: every entry. -/
def Xlt.invAll (x : Xlt) : Xlt := { x with tlb := [] }
/-- WALKINV: every walk-cache entry. -/
def Xlt.walkInv (x : Xlt) : Xlt := { x with wc := [] }

end Sys2Proof.Machine
end

