-- ==== Sys2Proof/Machine/Fuller.lean ====
section
/-!
DEFINITION. Fuller instructions on a context's registers (R187 to R190, R197 to R200, R241): encodings and their checks, elements and
poison, when an instruction may start, and how it starts.
-/

namespace Sys2Proof.Machine

/-! ### Results, poison and the checks -/

/-- The result of one element: its value, whether it is poisoned, the flags it raises. -/
structure ElemRes where
  val : Nat
  bad : Bool
  fl  : Nat
  deriving DecidableEq, Repr

/-- Results written to elements `0` to `n - 1` of a vector group, in order; `none` leaves the element (R189). A word is left poisoned where
any element written to it is (R241). -/
def Ctx.writeVec (x : Ctx) (r w n : Nat) (res : Nat → Option ElemRes) : Ctx :=
  let y := (List.range n).foldl (fun y i => match res i with
    | some e => y.putElem r w i e.val false
    | none => y) x
  (List.range n).foldl (fun y i => match res i with
    | some e => if e.bad then { y with vPoison := SMap.put false y.vPoison (512 * r + i * w / 64) true } else y
    | none => y) y

/-- Results written to bits `0` to `n - 1` of a mask group (R189, R241). -/
def Ctx.writeMask (x : Ctx) (m n : Nat) (res : Nat → ElemRes) : Ctx :=
  let y := (List.range n).foldl (fun y i => y.putMask m i (decide ((res i).val ≠ 0)) false) x
  (List.range n).foldl (fun y i =>
    if (res i).bad then { y with mPoison := SMap.put false y.mPoison (64 * m + i / 64) true } else y) y

/-- The flags of all elements written. -/
def resFlags (n : Nat) (res : Nat → Option ElemRes) : Nat :=
  (List.range n).foldl (fun fl i => fl ||| ((res i).map (·.fl)).getD 0) 0

/-! ### The checks of elements (R182, R239, R241, R243) -/

/-- The context runs with PAIRED checking (R243). -/
def State.paired (s : State) (c : Nat) : Bool := decide (s.fget (Reg.fulCBind c) Reg.fulCBind_PAIRED = 1)

/-- The errors that a check of an element finds, of the kinds it can find; they are found once (log entry 161). -/
def State.takeCheck (s : State) (c elem : Nat) (p : CheckKind → Bool) : List CheckKind × State :=
  let hit (e : LaneErr) : Bool := decide (e.ctx = c) && decide (e.elem = elem) && p e.kind
  match s.latent.checks.filter hit with
  | [] => ([], s)
  | es => (es.map (·.kind), { s with latent := { s.latent with checks := s.latent.checks.filter fun e => !hit e } })

/-- The slice in which an element is checked: the lower one of its pair under PAIRED (FUL_Cc_CHECK_LAST.SLICE). -/
def State.checkSlice (s : State) (c elem : Nat) : Nat :=
  let sl := [0, 1, 2, 3].filter fun i => (s.cxSlices c).testBit i
  (if s.paired c then sl.filter (· < 2) else sl).getD (elem % s.lanes c / 32) 0

/-- A checking error is recorded and its event set (FUL_Cc_CHECK_LAST, R207). -/
def State.checkNote (s : State) (c seq unit elem : Nat) (mm : Bool) : State :=
  (s.wr (Reg.fulCCheckLast c)
    (BitVec.ofNat 64 (seq % 2 ^ 32 + 2 ^ 32 * unit + 2 ^ 35 * s.checkSlice c elem + 2 ^ 37 * b2n mm + 2 ^ 38))).ctxEvent c 2

/-- A failed residue or parity check raises FUL_RESIDUE and is counted; a PAIRED mismatch raises FUL_PAIRED_MISMATCH and is counted. Under PAIRED the
first makes the two lanes differ, and is both (R239, R243). -/
def State.checkFail (s : State) (c seq unit elem : Nat) (residue mm : Bool) : State :=
  let mm := mm || (residue && s.paired c)
  let s := if residue then (s.raise (0x100 + 8 * c)).fsat (Reg.fulCCheckCnt c) Reg.fulCCheckCnt_RESIDUE 1 else s
  let s := if mm then (s.raise (0x101 + 8 * c)).fsat (Reg.fulCCheckCnt c) Reg.fulCCheckCnt_PAIRED_MM 1 else s
  s.checkNote c seq unit elem mm

/-- A check of an element in a unit: whether it fails, and what it does then. `res` is its residue or parity, `pair` its comparison under PAIRED. -/
def State.check (s : State) (c seq unit elem : Nat) (res pair : CheckKind → Bool) : Bool × State :=
  match s.takeCheck c elem fun k => res k || (s.paired c && pair k) with
  | ([], s) => (false, s)
  | (ks, s) => (true, s.checkFail c seq unit elem (ks.any res) (ks.any pair))

/-- The result of an element is checked in its lane (R239, R243). -/
def State.laneCheck (s : State) (c seq unit elem : Nat) : Bool × State := s.check c seq unit elem (· = .lane) (· = .pairLane)
/-- The address of an element is checked: its residue where an adder computes it, the two addresses under PAIRED (R239, R243). -/
def State.addrCheck (s : State) (c seq elem : Nat) (adder : Bool) : Bool × State :=
  s.check c seq 4 elem (fun k => adder && decide (k = .addr)) (· = .pairAddr)
/-- The data of an element is checked again on the store path (R240, R243). -/
def State.storeCheck (s : State) (c seq elem : Nat) : Bool × State := s.check c seq 3 elem (· = .lane) (· = .pairStore)

/-- The pipe of a register instruction as a unit of FUL_Cc_CHECK_LAST: 1 floating-point, 0 integer (R199). -/
def fwUnit (w : BitVec 32) : Nat :=
  b2n (decide (fwSC w = 0) && ((decide (2 ≤ fwMAJ w) && decide (fwMAJ w ≤ 7)) || (decide (fwMAJ w = 0xA) && decide (6 ≤ fwB w % 16))))

/-- The elements of a register instruction whose lane check fails. -/
def State.laneChecks (s : State) (c : Nat) (o : FulOp) : List Nat × State :=
  if s.latent.checks = [] then ([], s)
  else (List.range o.vl).foldl (fun (x : List Nat × State) i =>
    match x.2.laneCheck c o.seq (fwUnit o.word) i with
    | (true, s) => (x.1 ++ [i], s)
    | (false, s) => (x.1, s)) ([], s)

/-- The words that carry poison and did not. -/
def newPoison (old new : SMap Bool) : Nat := (new.filter fun e => e.2 && !SMap.get false old e.1).length

/-- The words newly poisoned since a context was `x` are counted (FUL_Cc_CHECK_CNT.POISON_SET). -/
def State.poisonSince (s : State) (c : Nat) (x : Ctx) : State :=
  let n := newPoison x.vPoison (s.ctx c).vPoison + newPoison x.mPoison (s.ctx c).mPoison
  if n = 0 then s else s.fsat (Reg.fulCCheckCnt c) Reg.fulCCheckCnt_POISON_SET n

/-- The operands that an instruction reads from the register file: whether a mask register, the register, the element width. -/
def fwSources (w : BitVec 32) (vt : Nat) : List (Bool × Nat × Nat) :=
  let e := elemBits vt
  let d := (false, fwD w, e)
  let a := (false, fwA w, e)
  let b := (false, fwB w, e)
  let m0 := (true, 0, 1)
  let one := decide (fwB w = 6) || decide (fwB w = 9) || decide (fwB w = 10)
  match fwSC w, fwMAJ w with
  | 0, 0x0 => [d, a]
  | 0, 0x1 => [d, a, m0]
  | 0, 0x2 => if one then [a] else [d, a]
  | 0, 0x3 => if one then [a, m0] else [d, a, m0]
  | 0, 0x4 | 0, 0x6 | 0, 0x7 => [d, a, b]
  | 0, 0x5 => [d, a, b, m0]
  | 0, 0x8 | 0, 0x9 => [a, b]
  | 0, 0xA => if fwB w < 16 then [a] else [a, m0]
  | 0, 0xB =>
    let fn := 4 * (fwD w / 8) + fwA w / 8
    (if fn < 6 then [(true, fwA w % 8, 1)] else []) ++ (if fn < 4 then [(true, fwB w % 8, 1)] else [])
  | 0, 0xC => [a, b, m0]
  | 0, 0xD => if 16 ≤ fwB w then [(false, fwA w, elemBits (fwB w))] else if fwB w = 3 then [] else [a]
  | 1, 0x1 => [m0]
  | 1, 0x2 | 1, 0x5 => [d]
  | 1, 0x3 => [d, m0]
  | 2, 0x1 => [a]
  | 2, 0x2 | 2, 0x3 => [(true, fwA w % 8, 1)]
  | _, _ => []

/-- A word of the register file is read with the instruction of element `elem` (R182, R241): an uncorrectable one is poisoned, raises FUL_VRF_UE and
sets event CHECK (log entry 178); a correctable one is corrected and, in native mode, written back (R275). -/
def State.vrfWord (s : State) (c seq elem k : Nat) : State :=
  let x := s.ctx c
  if x.vUe.contains k then
    let s := (s.arrayUe (fulArrayCode c k)).modCtx c fun x =>
      if k < 0x4000 then { x with vPoison := SMap.put false x.vPoison k true } else { x with mPoison := SMap.put false x.mPoison (k - 0x4000) true }
    ((s.poisonSince c x).raise (0x105 + 8 * c)).checkNote c seq 5 elem false
  else if x.vCe.contains k then
    let s := s.arrayCe (fulArrayCode c k)
    if s.compat then s else s.modCtx c fun x => { x with vCe := x.vCe.filter (· ≠ k) }
  else s

/-- An instruction that starts reads its operands' words (R182, R241). -/
def State.vrfRead (s : State) (c : Nat) (o : FulOp) : State :=
  if (s.ctx c).vUe = [] ∧ (s.ctx c).vCe = [] then s
  else
    let n := if decide (fwSC o.word = 2) && decide (fwMAJ o.word = 1) then 1 else o.vl
    (fwSources o.word o.vtype).foldl (fun s q =>
      (List.range ((n * q.2.2 + 63) / 64)).foldl (fun s j =>
        s.vrfWord c o.seq (j * 64 / q.2.2) ((if q.1 then 0x4000 + 64 * q.2.1 else 512 * q.2.1) + j)) s) s

/-! ### Encodings (R197, R198) -/

/-- The instruction of a word is undefined (R197). -/
def fwUndef (w : BitVec 32) : Bool :=
  let d := fwD w
  let a := fwA w
  let b := fwB w
  match fwSC w, fwMAJ w with
  | 0, 0x0 => decide (0x0F < b)
  | 0, 0x1 => decide (0x0F < b)
  | 0, 0x2 => decide (0x0A < b)
  | 0, 0x3 => decide (0x0A < b)
  | 0, 0x4 => false
  | 0, 0x5 => false
  | 0, 0x6 => false
  | 0, 0x7 => false
  | 0, 0x8 => false
  | 0, 0x9 => decide (d / 8 ≠ 0)
  | 0, 0xA => decide (8 < b % 16)
  | 0, 0xB => decide (b / 8 ≠ 0) || decide (7 < 4 * (d / 8) + a / 8)
  | 0, 0xC => false
  | 0, 0xD => if b < 16 then decide (3 < b) else decide (11 < b % 16)
  | 0, 0xE => decide (d ≠ 0) || decide (a ≠ 0) || decide (1 < b)
  | 1, 0x4 => decide (b ≠ 0)
  | 1, 0x5 => decide (b ≠ 0)
  | 1, 0x6 => decide (d ≠ 0)
  | 1, 0x7 => decide (d ≠ 0)
  | 1, 0x8 => decide (d ≠ 0) || decide (b ≠ 0)
  | 1, m => decide (3 < m)
  | 2, 0x0 => decide (a ≠ 0) || decide (b ≠ 0)
  | 2, 0x1 => decide (b ≠ 0)
  | 2, 0x2 => decide (a / 8 ≠ 0) || decide (b ≠ 0)
  | 2, 0x3 => decide (a / 8 ≠ 0) || decide (b ≠ 0)
  | 2, 0x4 => decide (a ≠ 0) || decide (b ≠ 0)
  | 2, 0x5 => decide (a ≠ 0) || decide (b ≠ 0)
  | 3, 0x0 => false
  | _, _ => true

/-- The source group factor of a VMOV convert, or none where it is not 1, 2, 4 or 8 (R198). -/
def convGroup (vt src : Nat) : Option Nat :=
  let n := vtGroup vt * elemBits src
  let w := elemBits vt
  if n % w = 0 ∧ (n / w = 1 ∨ n / w = 2 ∨ n / w = 4 ∨ n / w = 8) then some (n / w) else none

/-- One of the operands breaks R188, or a convert's source group is no group or overlaps its destination (R198). -/
def fwMisaligned (w : BitVec 32) (vt : Nat) : Bool :=
  let g := vtGroup vt
  let mg := vtMG vt
  let v (r : Nat) : Bool := decide (r % g ≠ 0)
  let m (r : Nat) : Bool := decide (r % 8 % mg ≠ 0)
  let d := fwD w
  let a := fwA w
  let b := fwB w
  match fwSC w, fwMAJ w with
  | 0, 0x0 | 0, 0x1 | 0, 0x2 | 0, 0x3 | 0, 0xA => v d || v a
  | 0, 0x4 | 0, 0x5 | 0, 0x6 | 0, 0x7 | 0, 0xC => v d || v a || v b
  | 0, 0x8 | 0, 0x9 => m d || v a || v b
  | 0, 0xB => m d || m a || m b
  | 0, 0xD =>
    if b < 16 then v d || v a
    else v d || (match convGroup vt (b % 16) with
      | none => true
      | some gs => decide (a % gs ≠ 0) || (decide (a < d + g) && decide (d < a + gs)))
  | 1, 0x0 | 1, 0x1 | 1, 0x2 | 1, 0x3 | 1, 0x4 | 1, 0x5 => v d
  | 2, 0x1 => v a
  | 2, 0x2 | 2, 0x3 => m a
  | _, _ => false

/-- The function does not fit the TYPE (R198). -/
def fwMismatched (w : BitVec 32) (vt : Nat) : Bool :=
  let b := fwB w
  match fwSC w, fwMAJ w with
  | 0, 0x0 | 0, 0x1 => tyFloat (vt % 16) && !(decide (7 ≤ b) && decide (b ≤ 12))
  | 0, 0x2 | 0, 0x3 => !tyFloat (vt % 16)
  | 0, 0x7 => !(decide (vt % 16 = 2) || decide (vt % 16 = 6))
  | 0, 0xA => decide (6 ≤ b % 16) && !tyFloat (vt % 16)
  | _, _ => false

/-- The word is VSHAPE. -/
def fwIsVshape (w : BitVec 32) : Bool := decide (fwSC w = 3) && decide (fwMAJ w = 0)
/-- The word is VGETVL or VRDSEQ. -/
def fwIsVgetvl (w : BitVec 32) : Bool := decide (fwSC w = 2) && decide (fwMAJ w = 4)
def fwIsVrdseq (w : BitVec 32) : Bool := decide (fwSC w = 2) && decide (fwMAJ w = 5)

/-- The cause for which an instruction faults at acceptance, 0 for none (R197, R198). -/
def acceptCause (w : BitVec 32) (vt : Nat) (a b : Word) : Nat :=
  if fwUndef w then 0x01
  else if fwIsVshape w then
    if !tyLegal (b.toNat % 16) || decide (b.toNat / 512 ≠ 0) then 0x02
    else if vtVlmax b.toNat < a.toNat then 0x07
    else 0
  else if fwMisaligned w vt then 0x03
  else if fwMismatched w vt then 0x04
  else 0

/-! ### When an instruction may start (R199, R200, R210) -/

/-- The instruction is a memory instruction in the sense of R200. -/
def fwIsMem (w : BitVec 32) : Bool :=
  (decide (fwSC w = 1) && (decide (fwMAJ w < 4) || decide (5 < fwMAJ w))) || (decide (fwSC w = 0) && decide (fwMAJ w = 0xE))

/-- The smallest n with 2^n at least v. -/
def clog2 (v : Nat) : Nat := Nat.log2 (v - 1) + (if v ≤ 1 then 0 else 1)

/-- Beats and latency of a register instruction at `lanes` effective lanes (R199). -/
def beatsLat (w : BitVec 32) (vt vl lanes : Nat) : Nat × Nat :=
  let width := match fwSC w, fwMAJ w with
    | 0, 0x7 => 32
    | 0, 0xD => if fwB w < 16 then elemBits vt else max (elemBits vt) (elemBits (fwB w))
    | _, _ => elemBits vt
  let n := (vl * width + (64 * lanes - 1)) / (64 * lanes)
  let lg := clog2 (max vl 2)
  let b := fwB w
  match fwSC w, fwMAJ w with
  | 0, 0x0 => (n, if b = 3 ∨ b = 4 then 3 else 2)
  | 0, 0x1 => (n, if b = 3 ∨ b = 4 then 3 else 2)
  | 0, 0x2 => if b = 4 ∨ b = 5 then (8 * n, 20) else if b = 6 then (8 * n, 24) else (n, 4)
  | 0, 0x3 => if b = 4 ∨ b = 5 then (8 * n, 20) else if b = 6 then (8 * n, 24) else (n, 4)
  | 0, 0x4 => (n, 5)
  | 0, 0x5 => (n, 5)
  | 0, 0x6 => (n, 5)
  | 0, 0x7 => (n, 4)
  | 0, 0xA => (n, if 6 ≤ b % 16 then 2 + 4 * lg else 2 + lg)
  | 0, 0xB => (vtMG vt, 1)
  | 0, 0xD => (n, if b < 16 then 2 else 3)
  | 2, 0x1 => (1, 2)
  | 2, 0x2 => (vtMG vt, 2)
  | 2, 0x3 => (vtMG vt, 2)
  | _, _ => (n, 2)

/-- The number of windows in a frame. -/
def State.nwin (s : State) : Nat := s.fget Reg.fulSchedCfg Reg.fulSchedCfg_NWIN_M1 + 1
/-- The length of a window in ns. -/
def State.winLen (s : State) (w : Nat) : Nat := 1000 * s.fget (Reg.fulWin w) Reg.fulWin_LEN
/-- The frame length in ns. -/
def State.frameLen (s : State) : Nat := ((List.range s.nwin).map s.winLen).sum
/-- The start of the current window, in ns of the device count (R209). -/
def State.winStart (s : State) : Nat :=
  (s.rd Reg.fulSchedT0).toNat + s.ful.frame * s.frameLen + ((List.range s.curWin).map s.winLen).sum

/-- The length of the run of windows from `w` on in which a context's grant stays as it is, over at most `n` windows; none if it never
changes (R210). -/
def State.runLen (s : State) (c g : Nat) : Nat → Nat → Option Nat
  | 0, _ => none
  | n + 1, w =>
    if s.winGrant w c = g then (s.runLen c g n ((w + 1) % s.nwin)).map (s.winLen w + ·) else some 0

/-- The end E of a context's run of windows, in ns; none if the grant never changes (R210). -/
def State.runEnd (s : State) (c : Nat) : Option Nat := (s.runLen c (s.curGrant c) s.nwin s.curWin).map (s.winStart + ·)

/-- Work of `cyc` MESH cycles that starts now ends by E + 64 cycles; a MESH cycle is 5/6 ns (R210). -/
def State.fitsBy (s : State) (c cyc : Nat) : Bool :=
  match s.runEnd c with
  | none => true
  | some e => decide (6 * s.now.toNat + 5 * cyc ≤ 6 * e + 5 * 64)

/-- The context's window has not ended. -/
def State.beforeEnd (s : State) (c : Nat) : Bool :=
  match s.runEnd c with
  | none => true
  | some e => decide (s.now.toNat ≤ e)

/-- The conditions of R200 under which the head of a queue may start, the window rule of R210 apart: no older memory instruction runs,
slices are bound where a pipe is used, no slice wake is awaited (R213), and a VSYNC finds every older instruction completed (R202). -/
def State.mayStart (s : State) (c : Nat) (o : FulOp) : Bool :=
  let x := s.ctx c
  let pipe := !(fwIsVsync o.word || (decide (fwSC o.word = 0) && decide (fwMAJ o.word = 0xE)) ||
    (decide (fwSC o.word = 1) && decide (6 < fwMAJ o.word)))
  !(x.run.any fun r => fwIsMem r.word) && (!pipe || decide (s.cxSlices c ≠ 0)) && (!fwIsVsync o.word || x.run.isEmpty) &&
    decide (s.cxState c ≠ cxSTOPPED) && decide (s.fget (Reg.fulCState c) Reg.fulCState_WAKE_WAIT = 0)

/-- The window rule of R210 for the head of a queue. -/
def State.windowOk (s : State) (c : Nat) (o : FulOp) : Bool :=
  if fwIsVsync o.word then true
  else if fwIsMem o.word then (decide (fwSC o.word = 0) || decide (6 < fwMAJ o.word) || s.beforeEnd c)
  else
    let p := beatsLat o.word o.vtype o.vl (s.lanes c)
    s.fitsBy c (p.1 + p.2)

/-- The head of a queue is deferred: the event, and the count, once in a window (R210). -/
def State.deferHead (s : State) (c : Nat) : State :=
  match (s.ctx c).queue with
  | o :: r =>
    if o.deferred then s
    else
      let s := s.modCtx c fun x => { x with queue := { o with deferred := true } :: r }
      (s.fsat (Reg.fulCCnt c) Reg.fulCCnt_DEFERRED 1).ctxEvent c 4
  | [] => s

/-- The instruction acts on its elements one by one (R189): every register instruction that writes registers, and VLD and VST. -/
def fwElementwise (w : BitVec 32) : Bool := (decide (fwSC w = 0) && decide (fwMAJ w ≠ 0xE)) || (decide (fwSC w = 1) && decide (fwMAJ w < 6))

/-- The instruction makes memory requests as it starts. -/
def FulOp.accesses (o : FulOp) : Bool := fwIsStrm o.word || (fwIsRegMem o.word && decide (o.vl ≠ 0))

/-- A context that finds no tag stalls at its issue point (R43, R236): nothing happens until one is free, and the stall is counted. -/
def State.ctxStall (s : State) (c : Nat) : State := s.fsat (Reg.fulCTags c) Reg.fulCTags_STALLS 1

/-- A register instruction as it starts, with what its destination's registers hold (R205, R212). -/
def State.keepOld (s : State) (c : Nat) (o : FulOp) : FulOp :=
  let x := s.ctx c
  if fwIsRegMem o.word then o
  else match fwDest o.word with
    | 1 => { o with old := x.v, oldBad := x.vPoison }
    | 2 => { o with old := x.m, oldBad := x.mPoison }
    | _ => o

/-- The head of a context's queue, if it is the instruction asked for, starts: it leaves the queue, its effect is applied and it runs until
it completes (R200), with VL = 0 at once (R189); or it waits, or is deferred. `eff` is given the state with the instruction out of the queue; it answers
the state and the instruction as it goes on running, or none where it has ended at once. -/
def State.startHead (s : State) (c : Nat) (is : BitVec 32 → Bool) (eff : State → FulOp → State × Option FulOp) : State :=
  match (s.ctx c).queue with
  | [] => s
  | o :: r =>
    if !is o.word || !s.mayStart c o then s
    else if !s.windowOk c o then s.deferHead c
    else if o.accesses && !s.tagFree (16 + c) then s.ctxStall c
    else
      let was := s.wdogOn c
      let s := (s.modCtx c fun x => { x with queue := r }).vrfRead c o
      match eff s (s.keepOld c o) with
      | (s, some o') =>
        if fwElementwise o.word && decide (o.vl = 0) then s.ctxComplete c o
        else ((s.modCtx c fun x => { x with run := x.run ++ [o'] }).wdogKeep c was).fulUpd c
      | (s, none) => s.fulUpd c

/-- A VLD or VST that its window's end has stopped resumes at its next element once its context holds slices again (R210); else the head of the queue
starts, if it is the instruction asked for. -/
def State.resumeOrStart (s : State) (c : Nat) (is : BitVec 32 → Bool) (eff : State → FulOp → State × Option FulOp) : State :=
  match (s.ctx c).run.find? fun o => is o.word && decide (o.next < o.vl) with
  | none => s.startHead c is eff
  | some o =>
    if decide (s.cxSlices c = 0) || !s.beforeEnd c || decide (s.fget (Reg.fulCState c) Reg.fulCState_WAKE_WAIT ≠ 0) then s
    else if !s.tagFree (16 + c) then s.ctxStall c
    else
      match eff (s.modCtx c fun x => { x with run := x.run.filter fun r => decide (r.seq ≠ o.seq) }) o with
      | (s, some o') => s.modCtx c fun x => { x with run := x.run ++ [o'] }
      | (s, none) => (s.modCtx c fun x => { x with wdogFrom := 0 }).fulUpd c

/-! ### The effects of register instructions -/

/-- A vector result applied to the destination group, its flags accrued. -/
def State.vecEffect (s : State) (c : Nat) (o : FulOp) (res : Ctx → Nat → Option ElemRes) : State × Option FulOp :=
  let x := s.ctx c
  let (bad, s) := s.laneChecks c o
  let res (i : Nat) : Option ElemRes := (res x i).map fun e => { e with bad := e.bad || bad.contains i }
  let s := (s.setCtx c (x.writeVec (fwD o.word) (elemBits o.vtype) o.vl res)).poisonSince c x
  (s.accrue c (resFlags o.vl res), some o)

/-- A mask result applied to the destination mask group. -/
def State.maskEffect (s : State) (c : Nat) (o : FulOp) (res : Ctx → Nat → ElemRes) : State × Option FulOp :=
  let x := s.ctx c
  let (bad, s) := s.laneChecks c o
  let res (i : Nat) : ElemRes := { res x i with bad := (res x i).bad || bad.contains i }
  let s := (s.setCtx c (x.writeMask (fwD o.word % 8) o.vl res)).poisonSince c x
  (s.accrue c (resFlags o.vl fun i => some (res i)), some o)

/-- A value-returning instruction completes with its value (R203). -/
def State.valueEffect (s : State) (c : Nat) (o : FulOp) (v : Word) : State × Option FulOp :=
  ((s.ctxReturn c o.tag v).ctxComplete c o, none)

/-- Poisoned data that was about to leave Fuller (R242): the count, the fault POISON_STORE, and for a store the source. -/
def State.poisonFault (s : State) (c : Nat) (o : FulOp) (elem va : Nat) (write : Bool) : State :=
  let s := if write then s.raise (0x102 + 8 * c) else s
  (s.fsat (Reg.fulCCheckCnt c) Reg.fulCCheckCnt_POISON_OUT 1).ctxFault c o 0x0B elem va write

/-- An element under the implicit mask m0: not written where its bit is 0, poisoned where its mask word is (R189, R241). -/
def Ctx.under (x : Ctx) (masked : Bool) (i : Nat) (e : ElemRes) : Option ElemRes :=
  if !masked then some e else if x.maskBit 0 i then some { e with bad := e.bad || x.maskBad 0 i } else none

/-- The rounding mode of a VTYPE: 5 to 7 are taken as 0. -/
def vtRM (vt : Nat) : Nat := let r := vt / 64 % 8; if 4 < r then 0 else r

/-- VI: vd op va by an integer function (R190). -/
def viRes (o : FulOp) (masked : Bool) (x : Ctx) (i : Nat) : Option ElemRes :=
  let t := o.vtype % 16
  let w := elemBits t
  let d := fwD o.word
  let a := fwA o.word
  x.under masked i
    { val := viFn t (fwB o.word) (x.elem d w i) (x.elem a w i), bad := x.elemBad d w i || x.elemBad a w i, fl := 0 }

/-- VF: vd op va by a floating-point function (R190); FSQRT, FABS and FNEG have one source. -/
def vfRes (o : FulOp) (masked : Bool) (x : Ctx) (i : Nat) : Option ElemRes :=
  let t := o.vtype % 16
  let w := elemBits t
  let d := fwD o.word
  let a := fwA o.word
  let fn := fwB o.word
  let r := vfFn t (vtRM o.vtype) fn (x.elem d w i) (x.elem a w i)
  let one := decide (fn = 6) || decide (fn = 9) || decide (fn = 10)
  x.under masked i { val := r.1, bad := (!one && x.elemBad d w i) || x.elemBad a w i, fl := r.2 }

/-- VFMA and VFNMA: vd + va × vb and vd − va × vb (R190, R197). -/
def fmaRes (o : FulOp) (masked neg : Bool) (x : Ctx) (i : Nat) : Option ElemRes :=
  let t := o.vtype % 16
  let w := elemBits t
  let d := fwD o.word
  let a := fwA o.word
  let b := fwB o.word
  let r := mulAdd t (vtRM o.vtype) neg (x.elem d w i) (x.elem a w i) (x.elem b w i)
  x.under masked i { val := r.1, bad := x.elemBad d w i || x.elemBad a w i || x.elemBad b w i, fl := r.2 }

/-- VDOT: the four byte products of each 32-bit element added to vd (R197). -/
def dotRes (o : FulOp) (x : Ctx) (i : Nat) : Option ElemRes :=
  let d := fwD o.word
  let a := fwA o.word
  let b := fwB o.word
  some { val := dot4 (o.vtype % 16) (x.elem d 32 i) (x.elem a 32 i) (x.elem b 32 i)
         bad := x.elemBad d 32 i || x.elemBad a 32 i || x.elemBad b 32 i, fl := 0 }

/-- VCMP: one mask bit for each pair of elements (R190, R197). -/
def cmpRes (o : FulOp) (x : Ctx) (i : Nat) : ElemRes :=
  let t := o.vtype % 16
  let w := elemBits t
  let r := elemCmp t (x.elem (fwA o.word) w i) (x.elem (fwB o.word) w i)
  { val := b2n (cmpFn (fwD o.word / 8) r.1), bad := x.elemBad (fwA o.word) w i || x.elemBad (fwB o.word) w i, fl := r.2 }

/-- VCMPU: unordered; all 0 for integer TYPEs (R197). -/
def cmpuRes (o : FulOp) (x : Ctx) (i : Nat) : ElemRes :=
  let t := o.vtype % 16
  let w := elemBits t
  let r := elemCmp t (x.elem (fwA o.word) w i) (x.elem (fwB o.word) w i)
  { val := b2n (tyFloat t && decide (r.1 = .un)), bad := x.elemBad (fwA o.word) w i || x.elemBad (fwB o.word) w i, fl := r.2 }

/-- VMASK: the function {D[4:3], A[4:3]} on mask bits (R197). -/
def maskFn (fn : Nat) (a b : Bool) : Bool :=
  match fn with
  | 0 => a && b
  | 1 => a || b
  | 2 => a != b
  | 3 => a && !b
  | 4 => !a
  | 5 => a
  | 6 => true
  | _ => false

/-- VMASK's result: the poison of the mask words it computes from. -/
def vmaskRes (o : FulOp) (x : Ctx) (i : Nat) : ElemRes :=
  let fn := 4 * (fwD o.word / 8) + fwA o.word / 8
  let a := fwA o.word % 8
  let b := fwB o.word % 8
  { val := b2n (maskFn fn (x.maskBit a i) (x.maskBit b i))
    bad := (decide (fn < 6) && x.maskBad a i) || (decide (fn < 4) && x.maskBad b i), fl := 0 }

/-- VMERGE: m0 selects va or vb (R197). -/
def mergeRes (o : FulOp) (x : Ctx) (i : Nat) : Option ElemRes :=
  let w := elemBits o.vtype
  let a := fwA o.word
  let b := fwB o.word
  some { val := if x.maskBit 0 i then x.elem a w i else x.elem b w i
         bad := x.elemBad a w i || x.elemBad b w i || x.maskBad 0 i, fl := 0 }

/-- VMOV: MOV, SLIDE1DN, SLIDE1UP, IOTA, or a conversion (R197, R198). The element that a slide by one brings in from outside the vector, and
IOTA under a floating-point TYPE, are stated nowhere: free values (log entry 16). DEDUCED (log entry 176): IOTA under an integer TYPE gives the element's
index, modulo 2^w. -/
def movRes (o : FulOp) (free : Nat) (x : Ctx) (i : Nat) : Option ElemRes :=
  let t := o.vtype % 16
  let w := elemBits t
  let a := fwA o.word
  let fn := fwB o.word
  let wild : ElemRes := { val := (Config.freeWord (free + i)).toNat % 2 ^ w, bad := false, fl := 0 }
  if fn < 16 then
    match fn with
    | 0 => some { val := x.elem a w i, bad := x.elemBad a w i, fl := 0 }
    | 1 => if i + 1 < o.vl then some { val := x.elem a w (i + 1), bad := x.elemBad a w (i + 1), fl := 0 } else some wild
    | 2 => if i = 0 then some wild else some { val := x.elem a w (i - 1), bad := x.elemBad a w (i - 1), fl := 0 }
    | _ => if tyFloat t then some wild else some { val := i % 2 ^ w, bad := false, fl := 0 }
  else
    let ws := elemBits fn
    let r := convertElem (fn % 16) t (vtRM o.vtype) (x.elem a ws i)
    some { val := r.1, bad := x.elemBad a ws i, fl := r.2 }

/-- VRED: the reduction of va over elements 0 to VL − 1 by a fixed pairwise tree, into vd[0]; masked-off elements count as the identity; VL = 0
leaves vd (R199, R241). SUM, MIN and MAX under a floating-point TYPE have no stated result: a free value (log entry 16). -/
def redRes (o : FulOp) (free : Nat) (x : Ctx) (i : Nat) : Option ElemRes :=
  let t := o.vtype % 16
  let w := elemBits t
  let fn := fwB o.word % 16
  let masked := decide (16 ≤ fwB o.word)
  let rm := vtRM o.vtype
  if i ≠ 0 ∨ o.vl = 0 then none
  else
    let use (k : Nat) : Bool := !masked || x.maskBit 0 k
    let elems := (List.range o.vl).map fun k => some (if use k then x.elem (fwA o.word) w k else redIdentity t rm fn)
    let bad := (List.range o.vl).any fun k => (use k && x.elemBad (fwA o.word) w k) || (masked && x.maskBad 0 k)
    let (r, fl) := treeReduce (redOp t rm fn) (clog2 o.vl) elems
    let v := if fn < 3 ∧ tyFloat t then (Config.freeWord free).toNat % 2 ^ w else r.getD 0
    some { val := v, bad := bad, fl := if fn < 6 then 0 else fl }

/-- VSPLAT: the low w bits of the scalar in every element (R197). -/
def splatRes (o : FulOp) (_ : Ctx) (_ : Nat) : Option ElemRes :=
  some { val := o.a.toNat % 2 ^ elemBits o.vtype, bad := false, fl := 0 }

/-- VSLIDEDN: vd[i + g[a]] where that is below VL, else 0 (R197). -/
def slideRes (o : FulOp) (x : Ctx) (i : Nat) : Option ElemRes :=
  let w := elemBits o.vtype
  let k := i + o.a.toNat
  if k < o.vl then some { val := x.elem (fwD o.word) w k, bad := x.elemBad (fwD o.word) w k, fl := 0 }
  else some { val := 0, bad := false, fl := 0 }

/-- Draw free values for an instruction: the counter moves on past those it may have used. -/
def State.draw (s : State) (n : Nat) : State := { s with free := s.free + n }

/-! ### Memory elements (R205) -/

/-- The cause of a failed element response (the table "Context fault causes"). -/
def elemCause (st : RespStatus) : Nat := match st with | .denied => 0x08 | .ue => 0x09 | .timeout => 0x0A | .ok => 0

/-- One part of an element is translated, and `ok` asked of its physical address (R227). -/
def State.partXlate (s : State) (c va : Nat) (write : Bool) (ok : Nat → Bool) : Except Nat Nat × State :=
  match s.ctxXlate c va write with
  | (.error f, s) => (.error f, s)
  | (.ok (pa, _), s) => if ok pa then (.ok pa, s) else (.error 0x25, s)

/-- One part of an element is read: its value, or the cause of a failed response (R206). -/
def State.partRead (s : State) (c va pa n : Nat) : Except Nat Nat × State :=
  let (r, s) := s.serveAt (ctxReq c .read pa n 0) (BitVec.ofNat 64 va)
  if r.status = .ok then (.ok r.data, s) else (.error (elemCause r.status), s)

/-- One part of an element is written. -/
def State.partWrite (s : State) (c va pa n v : Nat) : Except Nat Unit × State :=
  let (r, s) := s.serveAt (ctxReq c .write pa n (v % 2 ^ (8 * n))) (BitVec.ofNat 64 va)
  if r.status = .ok then (.ok (), s) else (.error (elemCause r.status), s)

/-- An element read of `n` bytes, in two parts where it straddles a 64-byte boundary, both translated and checked before the first is issued (R227): the
value, and the bytes read. -/
def State.elemRead (s : State) (c va n : Nat) (ok : Nat → Bool) : Except Nat (Nat × List (Nat × Nat)) × State :=
  let k := firstPart va n
  match s.partXlate c va false ok with
  | (.error f, s) => (.error f, s)
  | (.ok pa, s) =>
    if k = n then
      match s.partRead c va pa n with
      | (.error f, s) => (.error f, s)
      | (.ok v, s) => (.ok (v, [(pa, n)]), s)
    else
      match s.partXlate c (va + k) false ok with
      | (.error f, s) => (.error f, s)
      | (.ok pa', s) =>
        match s.partRead c va pa k with
        | (.error f, s) => (.error f, s)
        | (.ok v, s) =>
          match s.partRead c (va + k) pa' (n - k) with
          | (.error f, s) => (.error f, s)
          | (.ok v', s) => (.ok (v + 2 ^ (8 * k) * v', [(pa, k), (pa', n - k)]), s)

/-- A write of a context would be turned away, by its gate or by the memory. -/
def State.writeStops (s : State) (c pa n : Nat) : Bool :=
  (s.gateCause (ctxReq c .write pa n 0)).isSome || (decide (windowOf pa = .dram) && (s.dramDead || s.zodBad pa))

/-- The two parts of an element are written, none of them where the second would be turned away: a fault leaves the element as it was (R205, R231). -/
def State.pairWrite (s : State) (c va n v k pa pa' : Nat) : Except Nat (List (Nat × Nat)) × State :=
  let first := !s.writeStops c pa' (n - k) || s.writeStops c pa k
  match (if first then s.partWrite c va pa k v else (.ok (), s)) with
  | (.error f, s) => (.error f, s)
  | (.ok (), s) =>
    match s.partWrite c (va + k) pa' (n - k) (v / 2 ^ (8 * k)) with
    | (.error f, s) => (.error f, s)
    | (.ok (), s) => (.ok [(pa, k), (pa', n - k)], s)

/-- An element write of `n` bytes: every part is translated and checked before the first is issued (R227). -/
def State.elemWrite (s : State) (c va n v : Nat) (ok : Nat → Bool) : Except Nat (List (Nat × Nat)) × State :=
  let k := firstPart va n
  match s.partXlate c va true ok with
  | (.error f, s) => (.error f, s)
  | (.ok pa, s) =>
    if k = n then
      match s.partWrite c va pa n v with
      | (.error f, s) => (.error f, s)
      | (.ok (), s) => (.ok [(pa, n)], s)
    else
      match s.partXlate c (va + k) true ok with
      | (.error f, s) => (.error f, s)
      | (.ok pa', s) => s.pairWrite c va n v k pa pa'

/-- The base or the stride is no multiple of the element size (cause ALIGN). -/
def regMisaligned (o : FulOp) : Bool :=
  let n := elemBits o.vtype / 8
  decide (o.a.toNat % n ≠ 0) || decide (o.b.toNat % n ≠ 0)

/-- The elements that a VLD or VST may issue before its window ends (R210): those of the beats up to E, at the rate of R199. -/
def State.issueTo (s : State) (c : Nat) (o : FulOp) : Nat :=
  let w := elemBits o.vtype
  let per := if o.b.toNat = w / 8 then 64 * s.lanes c / w else s.lanes c / 8
  match s.runEnd c with
  | none => o.vl
  | some e => if e < s.now.toNat then o.next else min o.vl (o.next + (6 * (e - s.now.toNat) / 5 + 1) * per)

/-- The stride is not the element size: an adder computes the address (R199, R239). -/
def regStrided (o : FulOp) : Bool := decide (o.b.toNat ≠ elemBits o.vtype / 8)

/-- The elements of a VLD from `i` on, one by one (R205): a fault at element e leaves e and every later element as they were. -/
def State.loadElems (s : State) (c : Nat) (o : FulOp) (masked : Bool) : Nat → Nat → State × Option FulOp
  | 0, i => (s, some { o with next := i })
  | n + 1, i =>
    let w := elemBits o.vtype
    if masked && !(s.ctx c).maskBit 0 i then s.loadElems c o masked n (i + 1)
    else
      match s.addrCheck c o.seq i (regStrided o) with
      | (true, s) => (s.ctxFault c o 0x28 i (regElemVa o i) false, none)
      | (false, s) =>
        match s.elemRead c (regElemVa o i) (w / 8) (fun _ => true) with
        | (.error f, s) => (s.ctxFault c o f i (regElemVa o i) false, none)
        | (.ok (v, _), s) =>
          let (bad, s) := s.laneCheck c o.seq 2 i
          let x := s.ctx c
          let s := (s.modCtx c fun x => x.putElem (fwD o.word) w i v (bad || (masked && x.maskBad 0 i))).poisonSince c x
          s.loadElems c o masked n (i + 1)

/-- VLD: ALIGN is a fault of element 0; nothing is accessed with VL = 0 (R189). It issues no element after its window's end (R210). -/
def State.loadEffect (s : State) (c : Nat) (masked : Bool) (o : FulOp) : State × Option FulOp :=
  if o.vl = 0 then (s, some o)
  else if regMisaligned o then (s.ctxFault c o 0x05 0 (regElemVa o 0) false, none)
  else s.loadElems c o masked (s.issueTo c o - o.next) o.next

/-- A write whose response timed out may still land: the bytes of its element, and of the later elements already issued, are unspecified (R230). -/
def State.freeIssued (s : State) (c : Nat) (o : FulOp) (masked : Bool) (i n : Nat) : State :=
  (List.range n).foldl (fun s j =>
    if masked && !(s.ctx c).maskBit 0 (i + j) then s else s.freeElem c (regElemVa o (i + j)) (elemBits o.vtype / 8) fun _ => true) s

/-- The elements of a VST from `i` on (R205, R242). -/
def State.storeElems (s : State) (c : Nat) (masked : Bool) : FulOp → Nat → Nat → State × Option FulOp
  | o, 0, i => (s, some { o with next := i })
  | o, n + 1, i =>
    let w := elemBits o.vtype
    if masked && !(s.ctx c).maskBit 0 i then s.storeElems c masked o n (i + 1)
    else
      match s.addrCheck c o.seq i (regStrided o) with
      | (true, s) => (s.ctxFault c o 0x28 i (regElemVa o i) true, none)
      | (false, s) =>
        let (bad, s) := s.storeCheck c o.seq i
        let x := s.ctx c
        if bad || x.elemBad (fwD o.word) w i || (masked && x.maskBad 0 i) then (s.poisonFault c o i (regElemVa o i) true, none)
        else
          match s.elemWrite c (regElemVa o i) (w / 8) (x.elem (fwD o.word) w i) (fun _ => true) with
          | (.error f, s) =>
            let s := if f = 0x0A then s.freeIssued c o masked i (n + 1) else s
            (s.ctxFault c o f i (regElemVa o i) true, none)
          | (.ok ps, s) => s.storeElems c masked { o with written := o.written ++ ps } n (i + 1)

/-- VST. -/
def State.storeEffect (s : State) (c : Nat) (masked : Bool) (o : FulOp) : State × Option FulOp :=
  if o.vl = 0 then (s, some o)
  else if regMisaligned o then (s.ctxFault c o 0x05 0 (regElemVa o 0) true, none)
  else s.storeElems c masked o (s.issueTo c o - o.next) o.next

end Sys2Proof.Machine
end

