-- ==== Sys2Proof/Machine/FulIns.lean ====
section
/-!
DEFINITION. The Fuller instructions as commands: each starts where it is the head of its context's queue and may start (R200, R210), and has
its effect (R197 to R203).
-/

namespace Sys2Proof.Machine

/-- The word selects an instruction by its (SC, MAJ) pair (R197). -/
def fwIs (sc maj : Nat) (w : BitVec 32) : Bool := decide (fwSC w = sc) && decide (fwMAJ w = maj)

/-- VI. -/
def execVi (c : Fin 8) (s : State) : Out := .next (s.startHead c (fwIs 0 0x0) fun s o => s.vecEffect c o (viRes o false))
/-- VI.M: under m0. -/
def execViM (c : Fin 8) (s : State) : Out := .next (s.startHead c (fwIs 0 0x1) fun s o => s.vecEffect c o (viRes o true))
/-- VF. -/
def execVf (c : Fin 8) (s : State) : Out := .next (s.startHead c (fwIs 0 0x2) fun s o => s.vecEffect c o (vfRes o false))
/-- VF.M: under m0. -/
def execVfM (c : Fin 8) (s : State) : Out := .next (s.startHead c (fwIs 0 0x3) fun s o => s.vecEffect c o (vfRes o true))
/-- VFMA. -/
def execVfma (c : Fin 8) (s : State) : Out := .next (s.startHead c (fwIs 0 0x4) fun s o => s.vecEffect c o (fmaRes o false false))
/-- VFMA.M: under m0. -/
def execVfmaM (c : Fin 8) (s : State) : Out := .next (s.startHead c (fwIs 0 0x5) fun s o => s.vecEffect c o (fmaRes o true false))
/-- VFNMA. -/
def execVfnma (c : Fin 8) (s : State) : Out := .next (s.startHead c (fwIs 0 0x6) fun s o => s.vecEffect c o (fmaRes o false true))
/-- VDOT. -/
def execVdot (c : Fin 8) (s : State) : Out := .next (s.startHead c (fwIs 0 0x7) fun s o => s.vecEffect c o (dotRes o))
/-- VCMP. -/
def execVcmp (c : Fin 8) (s : State) : Out := .next (s.startHead c (fwIs 0 0x8) fun s o => s.maskEffect c o (cmpRes o))
/-- VCMPU. -/
def execVcmpu (c : Fin 8) (s : State) : Out := .next (s.startHead c (fwIs 0 0x9) fun s o => s.maskEffect c o (cmpuRes o))
/-- VRED. -/
def execVred (c : Fin 8) (s : State) : Out :=
  .next (s.startHead c (fwIs 0 0xA) fun s o =>
    let r := s.vecEffect c o (redRes o s.free)
    (r.1.draw 1, r.2))
/-- VMASK. -/
def execVmask (c : Fin 8) (s : State) : Out := .next (s.startHead c (fwIs 0 0xB) fun s o => s.maskEffect c o (vmaskRes o))
/-- VMERGE. -/
def execVmerge (c : Fin 8) (s : State) : Out := .next (s.startHead c (fwIs 0 0xC) fun s o => s.vecEffect c o (mergeRes o))
/-- VMOV. -/
def execVmov (c : Fin 8) (s : State) : Out :=
  .next (s.startHead c (fwIs 0 0xD) fun s o =>
    let r := s.vecEffect c o (movRes o s.free)
    (r.1.draw o.vl, r.2))
/-- VINV.ALL: VSYS function 0 (R169). -/
def execVinvAll (c : Fin 8) (s : State) : Out :=
  .next (s.startHead c (fun w => fwIs 0 0xE w && decide (fwB w = 0)) fun s o => (s.setXlt c (s.xltOf c).invAll, some o))
/-- WALKINV: VSYS function 1 (R169). -/
def execWalkinv (c : Fin 8) (s : State) : Out :=
  .next (s.startHead c (fun w => fwIs 0 0xE w && decide (fwB w = 1)) fun s o => (s.setXlt c (s.xltOf c).walkInv, some o))
/-- VLD. -/
def execVld (c : Fin 8) (s : State) : Out := .next (s.resumeOrStart c (fwIs 1 0x0) fun s o => s.loadEffect c false o)
/-- VLD.M: under m0. -/
def execVldM (c : Fin 8) (s : State) : Out := .next (s.resumeOrStart c (fwIs 1 0x1) fun s o => s.loadEffect c true o)
/-- VST. -/
def execVst (c : Fin 8) (s : State) : Out := .next (s.resumeOrStart c (fwIs 1 0x2) fun s o => s.storeEffect c false o)
/-- VST.M: under m0. -/
def execVstM (c : Fin 8) (s : State) : Out := .next (s.resumeOrStart c (fwIs 1 0x3) fun s o => s.storeEffect c true o)
/-- VSPLAT. -/
def execVsplat (c : Fin 8) (s : State) : Out := .next (s.startHead c (fwIs 1 0x4) fun s o => s.vecEffect c o (splatRes o))
/-- VSLIDEDN. -/
def execVslidedn (c : Fin 8) (s : State) : Out := .next (s.startHead c (fwIs 1 0x5) fun s o => s.vecEffect c o (slideRes o))
/-- VINV.VA (R169). -/
def execVinvVa (c : Fin 8) (s : State) : Out :=
  .next (s.startHead c (fwIs 1 0x7) fun s o => (s.setXlt c ((s.xltOf c).invVa o.a.toNat (o.b.toNat % 0x10000)), some o))
/-- VINV.ASID (R169). -/
def execVinvAsid (c : Fin 8) (s : State) : Out :=
  .next (s.startHead c (fwIs 1 0x8) fun s o => (s.setXlt c ((s.xltOf c).invAsid (o.a.toNat % 0x10000)), some o))

/-- VSYNC (R202): the status word; a FAULTED context is reported once and leaves FAULTED. -/
def execVsync (c : Fin 8) (s : State) : Out :=
  .next (s.startHead c fwIsVsync fun s o =>
    let f := decide (s.cxState c = cxFAULTED)
    let cause := if f then s.fget (Reg.fulCCtxFault c) Reg.fulCCtxFault_CAUSE else 0
    (s.leaveFaulted c).valueEffect c o (vsyncWord o.seq (b2n f) cause (s.cxFlags c)))

/-- The value of VMVS: element 0, sign-extended for signed integer TYPEs, else zero-extended (R197). -/
def mvsValue (o : FulOp) (x : Ctx) : Word :=
  let t := o.vtype % 16
  let v := x.elem (fwA o.word) (elemBits t) 0
  if tySigned t then BitVec.ofInt 64 (signed (elemBits t) v) else BitVec.ofNat 64 v

/-- VMVS; a poisoned element returns 0 and faults (R242). -/
def execVmvs (c : Fin 8) (s : State) : Out :=
  .next (s.startHead c (fwIs 2 0x1) fun s o =>
    if (s.ctx c).elemBad (fwA o.word) (elemBits o.vtype) 0 then (s.poisonFault c o 0 0 false, none)
    else s.valueEffect c o (mvsValue o (s.ctx c)))

/-- The mask words a VMPOP or VMFIRST reads carry poison. -/
def maskAnyBad (o : FulOp) (x : Ctx) : Bool := (List.range o.vl).any fun i => x.maskBad (fwA o.word % 8) i

/-- VMPOP (R197). -/
def execVmpop (c : Fin 8) (s : State) : Out :=
  .next (s.startHead c (fwIs 2 0x2) fun s o =>
    if maskAnyBad o (s.ctx c) then (s.poisonFault c o 0 0 false, none)
    else s.valueEffect c o (BitVec.ofNat 64 ((List.range o.vl).filter fun i => (s.ctx c).maskBit (fwA o.word % 8) i).length))

/-- VMFIRST: all ones if no bit is set (R197). -/
def execVmfirst (c : Fin 8) (s : State) : Out :=
  .next (s.startHead c (fwIs 2 0x3) fun s o =>
    if maskAnyBad o (s.ctx c) then (s.poisonFault c o 0 0 false, none)
    else s.valueEffect c o (match (List.range o.vl).find? fun i => (s.ctx c).maskBit (fwA o.word % 8) i with
      | some i => BitVec.ofNat 64 i
      | none => BitVec.allOnes 64))

end Sys2Proof.Machine
end

