-- ==== Sys2Proof/Machine/Stream.lean ====
section
/-!
DEFINITION. Memory-to-memory streams (R214 to R238): the descriptor and its checks, elements, chunks, reductions, prefetch, first-fault
ends and suspension.
-/

namespace Sys2Proof.Machine

/-! ### Elements -/

/-- The running stream of a context. -/
def State.strmOf (s : State) (c : Nat) : Strm := (s.ctx c).strm.getD (Strm.start 0)

/-- Change the running stream. -/
def State.modStrm (s : State) (c : Nat) (f : Strm → Strm) : State := s.modCtx c fun x => { x with strm := x.strm.map f }

/-- The sequence number of the stream (FUL_Cc_STRM_STAT.SEQ). -/
def State.strmSeq (s : State) (c : Nat) : Nat := s.fget (Reg.fulCStrmStat c) Reg.fulCStrmStat_SEQ

/-- Two ranges of bytes overlap. -/
def rangesMeet (xs ys : List (Nat × Nat)) : Bool :=
  xs.any fun x => ys.any fun y => decide (x.1 < y.1 + y.2) && decide (y.1 < x.1 + x.2)

/-- The staged granule of a source that holds an address (R224). -/
def Strm.stagedAt (st : Strm) (k va : Nat) : Option Staged :=
  st.staged.find? fun g => decide (g.src = k) && decide (g.gran = va / 64)

/-- The physical address of a slot of a context's staging area (FUL_Cc_STAGE). -/
def State.stageAddr (s : State) (c slot : Nat) : Nat :=
  paStream + s.fget (Reg.fulCStage c) Reg.fulCStage_BASE * 0x1000 + 64 * slot

/-- The source that fetches the structures of source `k`: the lowest-numbered one with the same BASE and FIELDS (R221). -/
def dFetcher (d k : Nat) : Nat :=
  let b := dBlk d k
  if b.kind ≠ 2 then k
  else ([0, 1, 2].find? fun j => (dBlk d j).valid && decide ((dBlk d j).kind = 2) && decide ((dBlk d j).base = b.base) &&
    decide ((dBlk d j).fieldsM1 = b.fieldsM1)).getD k

/-- Bytes of a source at an address and its physical address: from the staging area where their granule is staged, else from memory (R224, R227). -/
def State.srcBytes (s : State) (c k : Nat) (b : Blk) (va n : Nat) : Except Nat (Nat × List (Nat × Nat)) × State :=
  match (s.strmOf c).stagedAt k va with
  | some g =>
    if va % 64 + n ≤ 64 then
      match s.partRead c va (s.stageAddr c g.slot + va % 64) n with
      | (.error f, s) => (.error f, s)
      | (.ok v, s) => (.ok (v, [(g.pa + va % 64, n)]), s)
    else s.elemRead c va n b.inMem
  | none => s.elemRead c va n b.inMem

/-- Granule `g` of a unit-stride or structure source: one request in the chunk that is loaded (R221). -/
def State.granule (s : State) (c k : Nat) (b : Blk) (g : Nat) : Except Nat Gran × State :=
  let j := dFetcher (s.strmOf c).desc k
  match (s.strmOf c).grans.find? fun x => decide (x.src = j) && decide (x.gran = g) with
  | some x => (.ok x, s)
  | none =>
    match s.srcBytes c j b (64 * g) 64 with
    | (.error f, s) => (.error f, s)
    | (.ok (v, ps), s) =>
      let x : Gran := { src := j, gran := g, pa := (ps.headD (0, 0)).1, data := v }
      (.ok x, s.modStrm c fun st => { st with grans := st.grans ++ [x] })

/-- One element of a block at an address (R221): out of its granules for the unit-stride and structure forms, by its own request for the others; the value,
and the bytes it lies in. -/
def State.blkRead (s : State) (c k : Nat) (b : Blk) (va : Nat) : Except Nat (Nat × List (Nat × Nat)) × State :=
  if b.kind = 0 ∨ b.kind = 2 then
    let n := firstPart va b.size
    match s.granule c k b (va / 64) with
    | (.error f, s) => (.error f, s)
    | (.ok g, s) =>
      let lo := g.data / 2 ^ (8 * (va % 64)) % 2 ^ (8 * n)
      if n = b.size then (.ok (lo, [(g.pa + va % 64, n)]), s)
      else
        match s.granule c k b (va / 64 + 1) with
        | (.error f, s) => (.error f, s)
        | (.ok g', s) =>
          (.ok (lo + 2 ^ (8 * n) * (g'.data % 2 ^ (8 * (b.size - n))), [(g.pa + va % 64, n), (g'.pa, b.size - n)]), s)
  else s.srcBytes c k b va b.size

/-- The stream-buffer word of an element is read (R222, R239): a correctable error is corrected, an uncorrectable one poisons it and raises FUL_VRF_UE
(log entries 178 and 179). -/
def State.bufCheck (s : State) (c k e : Nat) (b : Blk) : Bool × State :=
  let code := fulArrayCode c (0x4200 + 1024 * k + e * b.size / 8 % 1024)
  match s.takeCheck c e fun x => decide (x = .bufUe k) || decide (x = .bufCe k) with
  | ([], s) => (false, s)
  | (ks, s) =>
    if ks.contains (.bufUe k) then
      let s := ((s.arrayUe code).raise (0x105 + 8 * c)).fsat (Reg.fulCCheckCnt c) Reg.fulCCheckCnt_POISON_SET 1
      (true, s.checkNote c (s.strmSeq c) 6 e false)
    else (false, s.arrayCe code)

/-- Elements that an overlap leaves unspecified (R226): one whose bytes DST has written as another block, or that another initiator has written since the
stream began. Its value is free, and so are the bytes that DST wrote. -/
def State.settle (s : State) (c : Nat) (v : SrcVal) : SrcVal × State :=
  let st := s.strmOf c
  let hit := !v.own && rangesMeet v.ps st.writes
  let s := if hit then v.ps.foldl (fun s p => s.freeBytes p.1 p.2) s else s
  if hit || rangesMeet v.ps st.foreign then
    let (f, s) := s.fresh
    ({ v with val := f.toNat % 2 ^ (8 * (v.ps.map (·.2)).sum) }, s)
  else (v, s)

/-- The element of a block at an address is loaded (R217, R222, R226, R239): the address is checked, the element read, and its word put into the stream
buffer. -/
def State.loadAt (s : State) (c k e : Nat) (va : Int) : Except (Nat × Nat) SrcVal × State :=
  let d := (s.strmOf c).desc
  let b := dBlk d k
  match b.vaBad va with
  | some f => (.error (f, va.toNat), s)
  | none =>
    match s.addrCheck c (s.strmSeq c) e (decide (b.kind ≠ 0)) with
    | (true, s) => (.error (0x28, va.toNat), s)
    | (false, s) =>
      match s.blkRead c k b va.toNat with
      | (.error f, s) => (.error (f, va.toNat), s)
      | (.ok (v, ps), s) =>
        let own := b.same (dBlk d 3)
        let s := if own then s else s.modStrm c fun st => { st with reads := st.reads ++ ps }
        let (bad, s) := s.bufCheck c k e b
        let (x, s) := s.settle c { val := v, bad := bad, own := own, ps := ps }
        (.ok x, s)

/-- The index value of an indexed block's element, sign- or zero-extended (R217); an index that carries poison stops the element (R242). -/
def State.indexOf (s : State) (c k e : Nat) : Except (Nat × Nat) Int × State :=
  let d := (s.strmOf c).desc
  let q := dBlk d (dBlk d k).idx
  match s.loadAt c (dBlk d k).idx e (q.va e 0) with
  | (.error f, s) => (.error f, s)
  | (.ok v, s) =>
    if v.bad then (.error (0x0B, 0), s.fsat (Reg.fulCCheckCnt c) Reg.fulCCheckCnt_POISON_OUT 1) else (.ok (elemInt q.typ v.val), s)

/-- An element of a source (R217): its word in the buffer, or the cause and the address. -/
def State.srcElem (s : State) (c k e : Nat) : Except (Nat × Nat) SrcVal × State :=
  let b := dBlk (s.strmOf c).desc k
  if b.kind ≠ 3 then s.loadAt c k e (b.va e 0)
  else
    match s.indexOf c k e with
    | (.error f, s) => (.error f, s)
    | (.ok x, s) => s.loadAt c k e (b.va e x)

/-- Source elements loaded in order, given as block, element of the block, and element of the stream: their words, or the stream's element, cause and
address of the first fault. -/
def State.srcElems (s : State) (c : Nat) : List (Nat × Nat × Nat) → Except (Nat × Nat × Nat) (List SrcVal) × State
  | [] => (.ok [], s)
  | (k, e, i) :: r =>
    match s.srcElem c k e with
    | (.error (f, va), s) => (.error (i, f, va), s)
    | (.ok v, s) =>
      match s.srcElems c r with
      | (.error x, s) => (.error x, s)
      | (.ok vs, s) => (.ok (v :: vs), s)

/-- Element `j` of DST is written (R217, R226, R242, R243), `i` being the stream's element and `x` its index: or the cause and the address. Poisoned data
is not written, and raises FUL_POISON_STORE. -/
def State.dstElem (s : State) (c i j : Nat) (x : Int) (v : Nat) (bad : Bool) : Except (Nat × Nat) Unit × State :=
  let b := dBlk (s.strmOf c).desc 3
  let va := b.va j x
  match b.vaBad va with
  | some f => (.error (f, va.toNat), s)
  | none =>
    match s.addrCheck c (s.strmSeq c) i (decide (b.kind ≠ 0)) with
    | (true, s) => (.error (0x28, va.toNat), s)
    | (false, s) =>
      let (worse, s) := s.storeCheck c (s.strmSeq c) i
      if bad || worse then
        (.error (0x0B, va.toNat), (s.raise (0x102 + 8 * c)).fsat (Reg.fulCCheckCnt c) Reg.fulCCheckCnt_POISON_OUT 1)
      else
        match s.elemWrite c va.toNat b.size v b.inMem with
        | (.error f, s) => (.error (f, va.toNat), s)
        | (.ok ps, s) =>
          let hit := rangesMeet ps (s.strmOf c).reads
          let s := s.modStrm c fun st => { st with writes := st.writes ++ ps }
          let s := s.modCtx c fun x => { x with run := x.run.map fun o => if fwIsStrm o.word then { o with written := o.written ++ ps } else o }
          (.ok (), if hit then ps.foldl (fun s p => s.freeBytes p.1 p.2) s else s)

/-- An element-wise stream function (the table "Stream operations"): the result and its flags. -/
def streamFn (d : Nat) (vs : List Nat) : Nat × Nat :=
  let t := dType d
  let rm := dRM d
  let a := vs.getD 0 0
  let b := vs.getD 1 0
  let c := vs.getD 2 0
  let sc := dScalar d % 2 ^ elemBits t
  let f := tyFmt t
  let two (vi vf : Nat) (x y : Nat) : Nat × Nat := if tyFloat t then vfFn t rm vf x y else (viFn t vi x y, 0)
  match dFunc d with
  | 0x00 => if (dBlk d 3).typ = t then (a, 0) else convertElem t (dBlk d 3).typ rm a
  | 0x01 => two 0x00 0x00 a b
  | 0x02 => two 0x01 0x01 a b
  | 0x03 => two 0x03 0x03 a b
  | 0x04 => two 0x05 0x07 a b
  | 0x05 => two 0x06 0x08 a b
  | 0x06 => if tyFloat t then let r := f.sub rm a b; (f.signOp true r.1, r.2) else (viFn t 0x0F a b, 0)
  | 0x07 => (viFn t 0x07 a b, 0)
  | 0x08 => (viFn t 0x08 a b, 0)
  | 0x09 => (viFn t 0x09 a b, 0)
  | 0x0A => two 0x00 0x00 a sc
  | 0x0B => two 0x03 0x03 a sc
  | 0x0C => mulAdd t rm false c a b
  | 0x0D => mulAdd t rm true c a b
  | _ =>
    let r := f.sub rm b a
    let m := mulAdd t rm false a c r.1
    (m.1, r.2 ||| m.2)

/-- What an element contributes to a reduction, with the flags of its comparison (R218). -/
def redElem (d i a : Nat) : Nat × Nat :=
  let t := dType d
  let r := elemCmp t a (dScalar d % 2 ^ elemBits t)
  match dFunc d with
  | 0x23 => (b2n (decide (r.1 = .gt)), r.2)
  | 0x24 => (if r.1 = .gt then i else 2 ^ 64 - 1, r.2)
  | _ => (a, 0)

/-- The type and VRED function that combine a reduction's elements (R218, R223). -/
def redKind (d : Nat) : Nat × Nat :=
  let t := dType d
  match dFunc d with
  | 0x20 => (t, if tyFloat t then 6 else 0)
  | 0x21 => (t, if tyFloat t then 7 else 1)
  | 0x22 => (t, if tyFloat t then 8 else 2)
  | 0x23 => (7, 0)
  | _ => (7, 1)

/-- A block of up to 4,096 elements reduced, absent ones counting as the identity, and combined with the earlier blocks (R223). -/
def redBlock (d : Nat) (acc : Option Nat) (blk : List Nat) : Option Nat × Nat :=
  if blk.isEmpty then (acc, 0)
  else
    let k := redKind d
    let rm := dRM d
    let pad := List.replicate (4096 - blk.length) (redIdentity k.1 rm k.2)
    let (r, fl) := treeReduce (redOp k.1 rm k.2) 12 ((blk ++ pad).map some)
    let r := r.getD 0
    match acc with
    | none => (some r, if k.2 < 6 then 0 else fl)
    | some a => let x := redOp k.1 rm k.2 a r; (some x.1, (if k.2 < 6 then 0 else fl) ||| x.2)

/-! ### The course of a stream -/

/-- FUL_Cc_STRM_POS: DONE, and the elements loaded as the load stages stand (R238). -/
def State.setStrmPos (s : State) (c done loaded : Nat) : State :=
  s.wr (Reg.fulCStrmPos c) (BitVec.ofNat 64 (done % 2 ^ 32 + 2 ^ 32 * (loaded % 2 ^ 32)))

/-- A stream faults at an element (R205, R228, R231). -/
def State.strmFault (s : State) (c : Nat) (o : FulOp) (cause e va : Nat) (write : Bool) : State :=
  let s := (s.setStrmPos c e (s.strmOf c).lpos).setStrmPhase c 5
  let s := s.modCtx c fun x => { x with strm := none, run := x.run.filter fun r => !fwIsStrm r.word, wdogFrom := 0 }
  s.ctxFault c o cause e va write

/-- The cause is one that a first-fault stream ends on (R232). -/
def ffCause (f : Nat) : Bool :=
  decide (f = 0x08) || (decide (0x10 ≤ f) && decide (f ≤ 0x18)) || decide (f = 0x25) || decide (f = 0x26) || decide (f = 0x27)

/-- A stream ends after `e` elements with a phase (R232, R238): a reduction writes its result first, which carries the poison of its elements (R241). The VL
that a first-fault end leaves is written as the instruction completes (R233). -/
def State.strmEnd (s : State) (c : Nat) (o : FulOp) (e phase cause : Nat) : State :=
  let st := s.strmOf c
  let d := st.desc
  let (r, fl) := redBlock d st.acc st.blk
  let s := if dReduction d then s.accrue c fl else s
  let (w, s) := if dReduction d then s.dstElem c 0 0 0 (r.getD 0) st.bad else (.ok (), s)
  match w with
  | .error (f, va) => s.strmFault c o f 0 va true
  | .ok () =>
    let s := ((s.setStrmPos c e (s.strmOf c).lpos).setStrmPhase c phase).fset (Reg.fulCStrmStat c) Reg.fulCStrmStat_FF_CAUSE cause
    let vl := min e (vtVlmax (s.fget (Reg.fulCVtype c) Reg.fulCVtype_VTYPE))
    s.modCtx c fun x => { x with strm := none, run := if phase = 6 then x.run.map fun q => if fwIsStrm q.word then { q with newVl := some vl } else q
      else x.run }

/-- A source element faults: a first-fault stream ends without fault where R232 says so, any other faults. -/
def State.strmSrcFault (s : State) (c : Nat) (o : FulOp) (cause e va : Nat) : State :=
  if dFF (s.strmOf c).desc && decide (0 < e) && ffCause cause then s.strmEnd c o e 6 cause else s.strmFault c o cause e va false

/-- Progress marks passed between two positions (R238). -/
def State.strmMarks (s : State) (c p q : Nat) : State :=
  let d := (s.strmOf c).desc
  if dMark d = 0 ∨ !dMarkEv d then s
  else
    let n := q / dMark d - p / dMark d
    if n = 0 then s else (s.fsat (Reg.fulCStrmCnt c) Reg.fulCStrmCnt_MARKS n).ctxEvent c 5

/-- The stream has consumed elements up to `q`, the oldest step of its buffer with them. -/
def State.strmAdvance (s : State) (c p q : Nat) : State :=
  ((s.modStrm c fun st => { st with pos := q, buf := st.buf.tail }).strmMarks c p q).setStrmPos c q (s.strmOf c).lpos

/-- The elements of one step of OP: four for DOT4, else one (R217). -/
def stepLen (d : Nat) : Nat := if dFunc d = 0x0F then 4 else 1

/-- The source elements that a step at element `i` needs: one of each operand, or for DOT4 c's and four of a and b, element by element (R217, R228). -/
def stepReads (d i : Nat) : List (Nat × Nat × Nat) :=
  let ops := dOperands d
  if dFunc d = 0x0F then
    ((ops.drop 2).map fun k => (k, i / 4, i)) ++ ((List.range 4).flatMap fun j => (ops.take 2).map fun k => (k, i + j, i + j))
  else ops.map fun k => (k, i, i)

/-- The index source's element of an indexed DST, which the load stages read behind a step's operands (R217, R222). -/
def stepIndex (d i : Nat) : List (Nat × Nat × Nat) :=
  let b := dBlk d 3
  if decide (b.kind = 3) && !dReduction d then [(b.idx, i / stepLen d, i)] else []

/-- The load stages take one step (R222): its words go into the stream buffer; or the fault they meet waits behind the elements before it. -/
def State.loadStep (s : State) (c : Nat) : State :=
  let d := (s.strmOf c).desc
  let i := (s.strmOf c).lpos
  match s.srcElems c (stepReads d i ++ stepIndex d i) with
  | (.error (e, f, va), s) => s.modStrm c fun st => { st with lpos := e, err := some (e, f, va) }
  | (.ok vs, s) => s.modStrm c fun st => { st with lpos := i + stepLen d, buf := st.buf ++ [vs] }

/-- Steps of the load stages up to element `stop`, at most `n` of them. -/
def State.loadSteps (s : State) (c stop : Nat) : Nat → State
  | 0 => s
  | n + 1 => if stop ≤ (s.strmOf c).lpos || (s.strmOf c).err.isSome then s else (s.loadStep c).loadSteps c stop n

/-- The DOT4 of the values a step has read: c's value, if there is one, then a's and b's in turn. -/
def dotOf (d : Nat) (vs : List Nat) : Nat :=
  let c := if (dOperands d).length = 3 then vs.headD 0 else 0
  let ab := if (dOperands d).length = 3 then vs.tail else vs
  let pack (k : Nat) : Nat := (List.range 4).foldl (fun n j => n + 2 ^ (8 * j) * (ab.getD (2 * j + k) 0 % 256)) 0
  dot4 ((dBlk d 3).typ) c (pack 0) (pack 1)

/-- The unit of a stream's OP stage in FUL_Cc_CHECK_LAST. -/
def opUnit (d : Nat) : Nat := b2n (tyFloat (dType d) || decide (dFunc d = 0x0F))

/-- The words of a step as OP takes them (R226), and whether one carries poison. -/
def State.takeStep (s : State) (c : Nat) : List SrcVal → List Nat × Bool × State
  | [] => ([], false, s)
  | v :: r =>
    let (v, s) := s.settle c v
    let (vs, bad, s) := s.takeStep c r
    (v.val :: vs, v.bad || bad, s)

/-- OP's result is checked in its lane (R239, R243): it is poisoned by a failed check, or by a word it is computed from (R241). -/
def State.opCheck (s : State) (c d i : Nat) (bad : Bool) : Bool × State :=
  let (failed, s) := s.laneCheck c (s.strmSeq c) (opUnit d) i
  if bad || failed then (true, s.fsat (Reg.fulCCheckCnt c) Reg.fulCCheckCnt_POISON_SET 1) else (false, s)

/-- The elements of DST from a step on are unspecified, as their writes may have been issued before one timed out (R230). -/
def State.freeAhead (s : State) (c d j : Nat) (n : Nat) : State :=
  let b := dBlk d 3
  (List.range n).foldl (fun s k => s.freeElem c (s.dstVa c d (j + k)).toNat b.size b.inMem) s

/-- One step of OP and ST: the elements of one result, out of the words of the stream buffer. The second component says whether the stream goes on. -/
def State.strmStep (s : State) (c : Nat) (o : FulOp) (vs : List SrcVal) : State × Bool :=
  let d := (s.strmOf c).desc
  let i := (s.strmOf c).pos
  let (xs, bad, s) := s.takeStep c vs
  let (bad, s) := s.opCheck c d i bad
  if dReduction d then
    let r := redElem d i (xs.getD 0 0)
    let s := s.accrue c r.2
    let blk := (s.strmOf c).blk ++ [r.1]
    let s := s.modStrm c fun st => { st with bad := st.bad || bad }
    let s :=
      if blk.length = 4096 then
        let x := redBlock d (s.strmOf c).acc blk
        (s.modStrm c fun st => { st with blk := [], acc := x.1 }).accrue c x.2
      else s.modStrm c fun st => { st with blk := blk }
    (s.strmAdvance c i (i + 1), true)
  else
    let b := dBlk d 3
    let n := stepLen d
    let r := if dFunc d = 0x0F then (dotOf d xs, 0) else streamFn d xs
    let x : Int := if b.kind = 3 then elemInt (dBlk d b.idx).typ (xs.getLastD 0) else 0
    let s := s.accrue c r.2
    match s.dstElem c i (i / n) x r.1 bad with
    | (.error (f, va), s) => ((if f = 0x0A then s.freeAhead c d (i / n) (s.strmOf c).buf.length else s).strmFault c o f i va true, false)
    | (.ok (), s) => (s.strmAdvance c i (i + n), true)

/-- Steps of OP and ST up to element `stop`, at most `n` of them; behind the last loaded element the fault that the load stages met is taken. -/
def State.strmSteps (s : State) (c : Nat) (o : FulOp) (stop : Nat) : Nat → State
  | 0 => s
  | n + 1 =>
    let st := s.strmOf c
    if stop ≤ st.pos then s
    else
      match st.buf with
      | vs :: _ =>
        match s.strmStep c o vs with
        | (s, true) => s.strmSteps c o stop n
        | (s, false) => s
      | [] =>
        match st.err with
        | some (e, f, va) => s.strmSrcFault c o f e va
        | none => s

/-- The elements of a chunk (R221). -/
def chunkElems (d : Nat) : Nat := 8192 / elemBits (dType d)

/-- The latency of a stream's OP stage (the table "Stream operations"). -/
def opLat (d : Nat) : Nat :=
  let f := tyFloat (dType d)
  match dFunc d with
  | 0x00 => if (dBlk d 3).typ = dType d then 2 else 3
  | 0x07 | 0x08 | 0x09 => 2
  | 0x03 | 0x0B => if f then 4 else 3
  | 0x0C | 0x0D => 5
  | 0x0E => 9
  | 0x0F => 4
  | 0x20 | 0x21 | 0x22 => if f then 48 else 16
  | 0x23 | 0x24 => 16
  | _ => if f then 4 else 2

/-- The cycles that a chunk's OP and ST stages take (R221, R234). -/
def chunkCycles (d n lanes : Nat) : Nat :=
  let b := dBlk d 3
  let up (x y : Nat) : Nat := (x + (y - 1)) / y
  let op := up (n * elemBits (dType d)) (64 * lanes)
  let m := if dFunc d = 0x0F then n / 4 else n
  let unit := up (m * elemBits b.typ) (64 * lanes) + b2n (decide (b.base % 64 ≠ 0))
  let st := if dReduction d then 0 else
    match b.kind with
    | 0 => unit
    | 2 => (b.fieldsM1 + 1) * unit
    | _ => up (m * 8) lanes
  op + st + opLat d

/-- Staged granules that hold no element still to come are released (R224). -/
def Strm.release (st : Strm) : Strm :=
  { st with staged := st.staged.filter fun g =>
      (List.range (dCount st.desc - st.pos)).any fun j =>
        decide (((dBlk st.desc g.src).va (st.pos + j) 0 + ((dBlk st.desc g.src).size : Int) - 1).toNat / 64 = g.gran) ||
        decide (((dBlk st.desc g.src).va (st.pos + j) 0).toNat / 64 = g.gran) }

/-- The load stages fetch the next chunk (R221, R222): not past the last element, behind a fault, or more than eight chunks ahead of OP. The granules that
they have fetched serve this chunk only. -/
def State.loadChunk (s : State) (c : Nat) : State :=
  let st := s.strmOf c
  let n := min (chunkElems st.desc) (dCount st.desc - st.lpos)
  if st.err.isSome || decide (st.pos + 8 * chunkElems st.desc < st.lpos + n) then s
  else ((s.modStrm c fun st => { st with grans := [] }).loadSteps c (st.lpos + n) n).modStrm c fun st => { st with grans := [] }

/-- OP and ST process the oldest chunk that has been loaded (R222, R228, R235). -/
def State.storeChunk (s : State) (c : Nat) (o : FulOp) : State :=
  let st := s.strmOf c
  let d := st.desc
  let left := min (chunkElems d) (dCount d - st.pos)
  let s := (s.setStrmPhase c 2).strmSteps c o (st.pos + left) (left + 1)
  if (s.ctx c).strm.isNone then s
  else
    let s := (s.modStrm c Strm.release).wdogRestart c
    if (s.strmOf c).pos = dCount d then s.strmEnd c o (dCount d) 4 0 else s

/-- STREAM_CHUNK: the stages of a context's running stream take a chunk (R221, R222, R228, R234): the load stages fetch the next one, while their window
lasts and a tag is free, and OP and ST process the oldest loaded one, if it ends by its window's end plus 64 cycles. -/
def execStreamChunk (c : Fin 8) (s : State) : Out :=
  match (s.ctx c).strm, (s.ctx c).run.find? fun o => fwIsStrm o.word with
  | some st, some o =>
    if s.cxSlices c = 0 ∨ !s.beforeEnd c then .next s
    else if !s.tagFree (16 + c) then .next (s.ctxStall c)
    else
      let s := s.loadChunk c
      let s := s.setStrmPos c st.pos (s.strmOf c).lpos
      if s.fitsBy c (chunkCycles st.desc (min (chunkElems st.desc) (dCount st.desc - st.pos)) (s.lanes c)) then .next (s.storeChunk c o) else .next s
  | _, _ => .next s

/-! ### The descriptor is read (R214, R215, R220) -/

/-- The descriptor read: two granules, or the cause. -/
def State.readDesc (s : State) (c va : Nat) : Except Nat Nat × State :=
  if va % 128 ≠ 0 then (.error 0x20, s)
  else
    match s.ctxXlate c va false with
    | (.error f, s) => (.error f, s)
    | (.ok (pa, _), s) =>
      if !(decide (windowOf pa = .crown) || decide (windowOf pa = .stream)) then (.error 0x21, s)
      else
        match s.partRead c va pa 64 with
        | (.error f, s) => (.error f, s)
        | (.ok v, s) =>
          match s.partRead c (va + 64) (pa + 64) 64 with
          | (.error f, s) => (.error f, s)
          | (.ok v', s) => (.ok (v + 2 ^ 512 * v'), s)

/-- STRM starts: the descriptor is read and checked, and the stream runs (R214, R215, R220). -/
def State.strmStart (s : State) (c : Nat) (o : FulOp) : State × Option FulOp :=
  let va := o.a.toNat % 2 ^ 48
  let s := s.wr (Reg.fulCStrmStat c) (BitVec.ofNat 64 (1 + 2 ^ 16 * (o.b.toNat % 2 ^ 16) + 2 ^ 32 * (o.seq % 2 ^ 32)))
  let s := (s.wr (Reg.fulCStrmPos c) 0).wr (Reg.fulCStrmCnt c) 0
  match s.readDesc c va with
  | (.error f, s) => (s.ctxFault c o f 0 va false, none)
  | (.ok d, s) =>
    if dCause d ≠ 0 then (s.ctxFault c o (dCause d) 0 va false, none)
    else
      let s := (s.fset (Reg.fulCStrmCnt c) Reg.fulCStrmCnt_COUNT_M1 (dField d 4 4)).setStrmPhase c 2
      (s.modCtx c fun x => { x with strm := some (Strm.start d) }, some o)

/-- STRM. -/
def execStrm (c : Fin 8) (s : State) : Out := .next (s.startHead c fwIsStrm fun s o => s.strmStart c o)

/-! ### Prefetch (R224, R225) -/

/-- The source is one that is prefetched. -/
def State.prefetchable (s : State) (c : Nat) (b : Blk) : Bool :=
  b.valid && decide (b.mem % 4 = 0) && b.mem.testBit 2 && decide (b.kind ≠ 3) &&
    decide (s.fget (Reg.fulCStage c) Reg.fulCStage_SIZE ≠ 0)

/-- A slot for a new granule: a free one, else the one released first: pages with NA before others, then the oldest (R224). -/
def Strm.slotFor (st : Strm) (slots : Nat) : Nat × Strm :=
  match (List.range slots).find? fun n => !(st.staged.any fun g => decide (g.slot = n)) with
  | some n => (n, st)
  | none =>
    match st.staged.find? (·.na), st.staged with
    | some g, _ => (g.slot, { st with staged := st.staged.filter fun x => decide (x.slot ≠ g.slot) })
    | none, g :: r => (g.slot, { st with staged := r })
    | none, [] => (0, st)

/-- A granule that has been translated is read, and put into a slot of the staging area (R224, FUL_Cc_STAGE). NA counts on NORMAL_WB and NORMAL_WT pages
alone (R152). -/
def State.granuleStage (s : State) (c src : Nat) (va pa mt : Nat) : State :=
  match s.partRead c va pa 64 with
  | (.error _, s) => s
  | (.ok v, s) =>
    let slots := 64 * s.fget (Reg.fulCStage c) Reg.fulCStage_SIZE
    let (slot, st) := (s.strmOf c).slotFor slots
    match s.partWrite c va (s.stageAddr c slot) 64 v with
    | (.error _, s) => s
    | (.ok (), s) =>
      let x := s.xltOf c
      let na := match x.find va (s.fget (Reg.xltAsid c) Reg.xltAsid_ASID) with
        | some i => decide (mt ≤ 1) && pteNA (x.at i).pte
        | none => false
      s.modStrm c fun _ => { st with staged := st.staged ++ [{ src := src, gran := va / 64, slot := slot, na := na, pa := pa }] }

/-- A granule is translated and staged; one that is not cacheable, or outside the block's memory, is dropped. -/
def State.granuleFetch (s : State) (c src : Nat) (b : Blk) (va : Nat) : State :=
  match s.ctxXlate c (va / 64 * 64) false with
  | (.error _, s) => s
  | (.ok (pa, mt), s) => if mt = 2 ∨ !b.inMem pa then s else s.granuleStage c src (va / 64 * 64) pa mt

/-- The granules that a source holds staged: the prefetcher is that far ahead of the load stage, and no farther than SIZE bytes (R224). -/
def Strm.aheadOf (st : Strm) (src : Nat) : Nat := (st.staged.filter fun g => decide (g.src = src)).length

/-- STREAM_PREFETCH: the prefetcher reads a source's next granule into the staging area; a read that faults is dropped (R224, R225). -/
def execStreamPrefetch (c : Fin 8) (src : Fin 3) (s : State) : Out :=
  match (s.ctx c).strm with
  | none => .next s
  | some st =>
    let b := dBlk st.desc src
    let e := max (SMap.get 0 st.pf src) st.lpos
    let va := (b.va e 0).toNat
    if !s.prefetchable c b || decide (s.cxSlices c = 0) || !s.beforeEnd c || decide (dCount st.desc ≤ e) || (b.vaBad (b.va e 0)).isSome ||
        decide (64 * s.fget (Reg.fulCStage c) Reg.fulCStage_SIZE ≤ st.aheadOf src)
    then .next s
    else if !s.tagFree (16 + c) then .next (s.ctxStall c)
    else
      let next := ((List.range (dCount st.desc - e)).find? fun j => decide ((b.va (e + j) 0).toNat / 64 ≠ va / 64)).getD (dCount st.desc - e)
      let s := s.modStrm c fun st => { st with pf := SMap.put 0 st.pf src (e + next) }
      if (st.stagedAt src va).isSome then .next s else .next (s.granuleFetch c src b va)

end Sys2Proof.Machine
end

