-- ==== Sys2Proof/Machine/FulCmds.lean ====
section
/-!
DEFINITION. Fuller beside its instructions: acceptance of issue packets, completion, the schedule, the watchdog and slice power gating (R191
to R196, R200 to R213), and the register accesses of the FUL block.
-/

namespace Sys2Proof.Machine

/-! ### Acceptance (R191 to R193, R196, R201) -/

/-- A slice is idle (R213): it has no grant in the current window, or its context is IDLE under IN_WINDOW. -/
def State.sliceIdle (s : State) (i : Nat) : Bool :=
  match (List.range 8).find? fun c => (s.curGrant c).testBit i with
  | none => true
  | some c => bit s.ful.pg 1 && decide (s.cxState c = cxIDLE)

/-- The running time at which each slice was last not idle (R213). -/
def State.noteBusy (s : State) : State :=
  [0, 1, 2, 3].foldl (fun s i => if s.sliceIdle i then s else { s with ful := { s.ful with busy := SMap.put 0 s.ful.busy i s.ticks } }) s

/-- A slice that a context is granted is waking. -/
def State.wakes (s : State) (c : Nat) : Bool :=
  [0, 1, 2, 3].any fun i => (s.curGrant c).testBit i && bit (s.rd Reg.fulStatus) (4 + i)

/-- A context waits no longer once no slice that it is granted wakes (R213). -/
def State.wakeWaits (s : State) (c : Nat) : State := if s.wakes c then s else s.fset (Reg.fulCState c) Reg.fulCState_WAKE_WAIT 0

/-- Under IN_WINDOW an accepted instruction wakes the gated slices its context is granted, and waits for them with every one after it; `stalls` where the
instruction itself is delayed (R201, R213). -/
def State.wakeOnAccept (s : State) (c : Nat) (stalls : Bool) : State :=
  let st := s.rd Reg.fulStatus
  let gated := [0, 1, 2, 3].filter fun i => (s.curGrant c).testBit i && !bit st i
  if !bit s.ful.pg 1 || gated.isEmpty then s
  else
    let fresh := gated.filter fun i => !bit st (4 + i)
    let s := fresh.foldl (fun s i =>
      (s.wr Reg.fulStatus (setBits (s.rd Reg.fulStatus) (4 + i) 1 1)).fsat Reg.fulPgStat Reg.fulPgStat_WAKES 1) s
    let s := s.fset (Reg.fulCState c) Reg.fulCState_WAKE_WAIT 1
    if stalls then s.fsat Reg.fulPgStat Reg.fulPgStat_WAKE_STALLS 1 else s

/-- An acceptance-time instruction completes with its value (R201, R213). -/
def State.actsNow (s : State) (c : Nat) (o : FulOp) (v : Word) : State := (((s.ctxReturn c o.tag v).wakeOnAccept c false).ctxComplete c o).noteBusy

/-- A packet reaches acceptance: it takes the next sequence number, captures VL and VTYPE, and is cancelled, faulted, completed at once or
queued. DESIGN CHOICE (log entry 175): a packet with bad parity that is accepted in STOPPED or FAULTED is cancelled as any other there, with the value that
R186 gives, and records no fault. -/
def State.acceptPkt (s : State) (c : Nat) (parityOk : Bool) (p : FulPkt) (rest : List FulPkt) : State :=
  let seq := (s.fget (Reg.fulCSeq c) Reg.fulCSeq_ACCEPTED + 1) % 2 ^ 32
  let o : FulOp :=
    { seq := seq, word := p.word, a := p.a, b := p.b, tag := p.tag, vl := s.fget (Reg.fulCVtype c) Reg.fulCVtype_VL,
      vtype := s.fget (Reg.fulCVtype c) Reg.fulCVtype_VTYPE, deferred := false, written := [], next := 0,
      newVl := none, old := [], oldBad := [] }
  let s := s.modCtx c fun x => { x with crossing := rest }
  let s := s.fset (Reg.fulCSeq c) Reg.fulCSeq_ACCEPTED seq
  let s := if parityOk then s else s.raise (0x107 + 8 * c)
  if s.cxState c = cxSTOPPED then s.ctxCancel c o true
  else if s.cxState c = cxFAULTED ∧ !(parityOk && fwIsVsync p.word && !fwUndef p.word) then (s.ctxCancel c o false).fulUpd c
  else if !parityOk then s.ctxFault c o 0x06 0 0 false
  else if acceptCause p.word o.vtype p.a p.b ≠ 0 then s.ctxFault c o (acceptCause p.word o.vtype p.a p.b) 0 0 false
  else if fwIsVshape p.word then
    let vt := p.b.toNat % 512
    let s := s.wr (Reg.fulCVtype c) (BitVec.ofNat 64 (p.a.toNat % 2 ^ 16 + 2 ^ 16 * vt))
    s.actsNow c o (BitVec.ofNat 64 (vtVlmax vt))
  else if fwIsVgetvl p.word then s.actsNow c o (BitVec.ofNat 64 (o.vl + 2 ^ 16 * o.vtype))
  else if fwIsVrdseq p.word then s.actsNow c o (BitVec.ofNat 64 seq)
  else (((s.modCtx c fun x => { x with queue := x.queue ++ [o] }).wakeOnAccept c true).fulUpd c).noteBusy

/-- The oldest packet in a context's crossing is accepted if it is one asked for and an entry is free (R191). -/
def State.acceptHead (s : State) (c : Nat) (parityOk : Bool) (is : BitVec 32 → Bool) : State :=
  match (s.ctx c).crossing with
  | [] => s
  | p :: rest => if is p.word && decide ((s.ctx c).queue.length < 16) then s.acceptPkt c parityOk p rest else s

/-- FUL_PACKET_ACCEPT: the oldest packet in a context's crossing reaches acceptance; `parityOk` is its issue parity (R192). -/
def execFulPacketAccept (c : Fin 8) (parityOk : Bool) (s : State) : Out := .next (s.acceptHead c parityOk fun _ => true)

/-- VSHAPE: acts at acceptance (R198, R201). -/
def execVshape (c : Fin 8) (s : State) : Out := .next (s.acceptHead c true fwIsVshape)
/-- VGETVL: acts at acceptance (R201). -/
def execVgetvl (c : Fin 8) (s : State) : Out := .next (s.acceptHead c true fwIsVgetvl)
/-- VRDSEQ: acts at acceptance (R201). -/
def execVrdseq (c : Fin 8) (s : State) : Out := .next (s.acceptHead c true fwIsVrdseq)

/-- FUL_INSTR_COMPLETE: a started instruction of a context completes, the `k`-th of those started; a stream only once it has ended, a VLD or VST once it
has issued its last element (R200, R210). A first-fault stream writes VL here (R232, R233). -/
def execFulInstrComplete (c : Fin 8) (k : BitVec 5) (s : State) : Out :=
  match (s.ctx c).run[k.toNat]? with
  | none => .next s
  | some o =>
    if (fwIsStrm o.word ∧ (s.ctx c).strm.isSome) ∨ (fwIsRegMem o.word ∧ o.next < o.vl) then .next s
    else
      let s := match o.newVl with | some v => s.fset (Reg.fulCVtype c) Reg.fulCVtype_VL v | none => s
      .next ((s.modCtx c fun x => { x with run := x.run.eraseIdx k.toNat }).ctxComplete c o)

/-- FUL_WALK: the walker translates an address for a context (R165); a fault of a walk made ahead of its element is not recorded (R231). It waits for a tag
(R236). -/
def execFulWalk (c : Fin 8) (va : Word) (write : Bool) (s : State) : Out :=
  if s.tagFree (16 + c) then .next (s.walk c (va.toNat % 2 ^ 48) write).2 else .next (s.ctxStall c)

/-! ### The schedule (R209 to R212) -/

/-- The window that an offset into a frame falls in, from window `w` on. -/
def State.winAt (s : State) : Nat → Nat → Nat → Nat
  | 0, w, _ => w
  | n + 1, w, off => if off < s.winLen w ∨ n = 0 then w else s.winAt n (w + 1) (off - s.winLen w)

/-- The frame and the window of the present device count; none before frame 0 or with no schedule (R209). -/
def State.locate (s : State) : Option (Nat × Nat) :=
  let t0 := (s.rd Reg.fulSchedT0).toNat
  let f := s.frameLen
  if f = 0 ∨ s.now.toNat < t0 then none
  else some ((s.now.toNat - t0) / f, s.winAt s.nwin 0 ((s.now.toNat - t0) % f))

/-- The slices a context is granted in a window, or none outside the schedule. -/
def State.grantIn (s : State) (w : Option Nat) (c : Nat) : Nat := match w with | some w => s.winGrant w c | none => 0

/-- A context's work at the end of its run of windows (R210, R234): a stream suspends, and a deferred instruction may be deferred anew. -/
def State.windowEnds (s : State) (c : Nat) : State :=
  let s := s.modCtx c fun x => { x with queue := x.queue.map fun o => { o with deferred := false } }
  if (s.ctx c).strm.isSome && decide (s.fget (Reg.fulCStrmStat c) Reg.fulCStrmStat_PHASE = 2) then
    (s.setStrmPhase c 3).fsat (Reg.fulCStrmCnt c) Reg.fulCStrmCnt_SUSPENDS 1
  else s

/-- The slices bound to a context change; its watchdog counts or holds accordingly, and its state follows. -/
def State.setSlices (s : State) (c n : Nat) : State :=
  let was := s.wdogOn c
  ((s.fset (Reg.fulCState c) Reg.fulCState_SLICES n).wdogKeep c was).fulUpd c

/-- What a boundary does to one context: slices whose grant changes leave it at once, and a changed grant ends its run of windows; an
unchanged one begins the window with the slices it holds (R207, R210). -/
def State.boundaryCtx (old new : Option Nat) (s : State) (c : Nat) : State :=
  let g := s.grantIn old c
  let g' := s.grantIn new c
  let had := s.cxSlices c
  let s := s.setSlices c (had &&& g')
  let s := if had &&& g' = had then s else { s with ful := { s.ful with lost := c :: s.ful.lost } }
  let s := s.wakeWaits c
  if g ≠ g' then { s.windowEnds c with ful := { s.ful with changed := c :: s.ful.changed } } else if g' ≠ 0 then s.ctxEvent c 3 else s

/-- A boundary takes effect (R209, R210): `old` and `new` are the windows before and after it, none outside the schedule. -/
def State.crossBoundary (s : State) (old new : Option Nat) (frame : Nat) : State :=
  let changed := (List.range 8).any fun c => decide (s.grantIn old c ≠ s.grantIn new c)
  let s := s.noteBusy
  let s := { s with ful := { s.ful with frame := frame, pg := s.rd Reg.fulPgCtl, changed := [], lost := [] } }
  let s := ((s.fset Reg.fulStatus Reg.fulStatus_WIN (new.getD 0)).fset Reg.fulStatus Reg.fulStatus_SCHED_ACTIVE (b2n new.isSome)).fset Reg.fulStatus
    Reg.fulStatus_GAP (b2n changed)
  ((List.range 8).foldl (State.boundaryCtx old new) s).noteBusy

/-- FUL_WINDOW_BOUNDARY: the window of the present device count takes effect (R209, R210): frames counted, slices whose grant changes are
bound to nobody until the gap ends, a write of FUL_PG_CTL comes into force (R213). A step of the count to before frame 0 leaves the schedule: no slice is
granted there. -/
def execFulWindowBoundary (s : State) : Out :=
  let old := if s.schedOn then some s.curWin else none
  match s.locate with
  | none => .next (if s.schedOn then s.crossBoundary old none s.ful.frame else s)
  | some (k, w) =>
    if old = some w ∧ s.ful.frame = k then .next s
    else
      let s := if old.isSome then s.fadd Reg.fulSchedStat Reg.fulSchedStat_FRAMES (k - s.ful.frame) else s
      .next (s.crossBoundary old (some w) k)

/-- A context takes the slices of its grant that are powered, at the end of the gap (R210); the window event where its grant has changed and it holds
slices (R207). -/
def State.takeSlices (s : State) (c : Nat) : State :=
  let g := s.curGrant c &&& s.fget Reg.fulStatus Reg.fulStatus_SLICE_ON
  let s := s.setSlices c g
  if s.ful.changed.contains c && decide (g ≠ 0) then s.ctxEvent c 3 else s

/-- FUL_GAP_END: the hand-over gap ends (R210, R212): work of a context in `late` that a slice it has lost still holds is cancelled as an
overrun, and every incoming context takes its slices. -/
def execFulGapEnd (late : BitVec 8) (s : State) : Out :=
  if s.fget Reg.fulStatus Reg.fulStatus_GAP = 0 then .next s
  else
    let s := (List.range 8).foldl (fun s c =>
      if late.getLsbD c && s.ful.lost.contains c && !(s.ctx c).run.isEmpty then (s.raise (0x106 + 8 * c)).killRun c 0x0C true else s) s
    let s := (List.range 8).foldl State.takeSlices (s.fset Reg.fulStatus Reg.fulStatus_GAP 0)
    .next { s with ful := { s.ful with changed := [], lost := [] } }

/-- FUL_WATCHDOG: a context's watchdog reaches WDOG_US (R208). -/
def execFulWatchdog (c : Fin 8) (s : State) : Out :=
  if !s.wdogOn c || decide (s.wdogElapsed c < s.fget (Reg.fulCBind c) Reg.fulCBind_WDOG_US) then .next s
  else
    let s := s.raise (0x104 + 8 * c)
    let s := s.fadd (Reg.fulCWdog c) Reg.fulCWdog_EPOCH 1
    let s := s.fsat (Reg.fulCWdog c) Reg.fulCWdog_EXPIRIES 1
    .next ((s.nextEpoch (16 + c)).killRun c 0x0D false)

/-! ### Slice power gating (R213) -/

/-- The context a slice is granted to in the current window. -/
def State.sliceCtx (s : State) (i : Nat) : Option Nat := (List.range 8).find? fun c => (s.curGrant c).testBit i

/-- FUL_SLICE_GATE: a slice idle for THRESH µs power-gates, while gating is enabled (R213). -/
def execFulSliceGate (i : Fin 4) (s : State) : Out :=
  let idle := s.sliceIdle i && decide (1000 * bits s.ful.pg 16 16 ≤ s.ticks - SMap.get 0 s.ful.busy i)
  if bit s.ful.pg 0 && idle && bit (s.rd Reg.fulStatus) i then
    let s := s.wr Reg.fulStatus (setBits (s.rd Reg.fulStatus) i 1 0)
    .next (match s.sliceCtx i with
      | some c => s.setSlices c (s.cxSlices c &&& (15 - 2 ^ i.val))
      | none => s)
  else .next s

/-- FUL_SLICE_WAKE_DONE: a waking slice is powered; the context it is granted to takes it, and every context waits no longer once none of its slices
wakes (R213). -/
def execFulSliceWakeDone (i : Fin 4) (s : State) : Out :=
  if !bit (s.rd Reg.fulStatus) (4 + i) then .next s
  else
    let s := s.wr Reg.fulStatus (setBits (setBits (s.rd Reg.fulStatus) (4 + i) 1 0) i 1 1)
    let s := (List.range 8).foldl State.wakeWaits s
    match s.sliceCtx i with
    | none => .next s
    | some c =>
      .next (if s.fget Reg.fulStatus Reg.fulStatus_GAP = 1 then s else s.setSlices c (s.cxSlices c ||| 2 ^ i.val))

/-- FUL_SCHEDULED_WAKE: a gated slice that some later window grants starts to wake (R213). -/
def execFulScheduledWake (i : Fin 4) (s : State) : Out :=
  let st := s.rd Reg.fulStatus
  let later := (List.range s.nwin).any fun w => bit (s.rd (Reg.fulWin w)) (19 + 4 * i)
  if bit st i || bit st (4 + i) || !later then .next s
  else .next ((s.wr Reg.fulStatus (setBits st (4 + i) 1 1)).fsat Reg.fulPgStat Reg.fulPgStat_WAKES 1)

/-! ### Register accesses of the FUL block -/

/-- FUL_PG_CTL_WRITE (R213): takes effect at the next window boundary. -/
def execFulPgCtlWrite (rq : Rq) (v : Word) (s : State) : Out := .next (s.gatedWrite rq Reg.fulPgCtl v)
/-- FUL_EVENT_PEND_CLEAR: the pending bits written as 1 (R207); the enables are written with it, as the register is one word. -/
def execFulEventPendClear (rq : Rq) (c : Fin 8) (v : Word) (s : State) : Out := .next (s.gatedWrite rq (Reg.fulCEvent c) v)
/-- CLEAR: FUL_Cc_CTL.CLEAR leaves FAULTED (R185). -/
def execClear (rq : Rq) (c : Fin 8) (s : State) : Out := .next (s.gatedWrite rq (Reg.fulCCtl c) 1)
/-- FFLAGS_CLEAR: the flags written as 1. -/
def execFflagsClear (rq : Rq) (c : Fin 8) (v : Word) (s : State) : Out := .next (s.gatedWrite rq (Reg.fulCFflags c) v)
/-- CHECK_LAST_CLEAR: FUL_Cc_CHECK_LAST.VALID. -/
def execCheckLastClear (rq : Rq) (c : Fin 8) (s : State) : Out := .next (s.gatedWrite rq (Reg.fulCCheckLast c) (BitVec.twoPow 64 38))

/-! ### A tag times out (R37, R38) -/

/-- TAG_RESP_TIMEOUT: the response of an initiator's oldest outstanding request is overdue: the source is raised for it, its epoch advances
and the tag is released (R37, R38). `va` and `isWrite` name the overdue access where an instruction, an element, a walk or a unit makes it: that access finds
no response (BUS_TIMEOUT of R103, R118 and R206, WALK_DATA_ERR of R165), and its completion comes late, with the old epoch. -/
def execTagRespTimeout (rq : Rq) (va : Word) (isWrite : Bool) (s : State) : Out :=
  let i := rq.init.val
  match s.mesh.flights.find? fun f => f.held && decide (f.req.rq = rq) with
  | some f =>
    let s := (s.raiseFor 0x146 (some i)).nextEpoch i
    .next ((s.releaseTag f.num).recountTags (quotaOf i))
  | none =>
    let s := (s.raiseFor 0x146 (some i)).nextEpoch i
    .next { s with mesh := { s.mesh with late := s.mesh.late ++ [(i, va, isWrite)] } }

end Sys2Proof.Machine
end

