-- ==== Sys2Proof/Machine/Iau.lean ====
section
/-!
DEFINITION. Input agreement (R61 to R69, R428): the samples of the live copies, the agreement functions, the slots in Crown RAM, the
counters, and the interrupt candidate of a copy (R135).
-/

namespace Sys2Proof.Machine

/-! ### The interrupt candidate (R135) -/

/-- A source is pending and enabled. -/
def Copy.awaits (c : Copy) (src : Nat) : Bool := c.latch src && bit (SMap.get 0 c.icEn (src / 64)) (src % 64)

/-- A source is pending and enabled, with a level at or above the threshold. -/
def Copy.qualifies (c : Copy) (src : Nat) : Bool := c.awaits src && decide (bits c.icMask 0 4 ≤ c.srcLevel src)

/-- Of the sources with a property, the one of the highest level, and among equal levels the lowest number, with its level. -/
def Copy.highest (c : Copy) (p : Nat → Bool) : Option (Nat × Nat) :=
  (List.range 256).foldl (fun best src =>
    if p src then
      match best with
      | none => some (src, c.srcLevel src)
      | some (_, l) => if l < c.srcLevel src then some (src, c.srcLevel src) else best
    else best) none

/-- The candidate (R135). -/
def Copy.candidate (c : Copy) : Option (Nat × Nat) := c.highest c.qualifies

/-- What a copy samples for an interrupt: its candidate; while it waits in a WFI executed with IE = 0, its highest enabled pending source, whatever the
threshold (R62, R108). -/
def Copy.sample (c : Copy) (waking : Bool) : Option (Nat × Nat) := if waking then c.highest c.awaits else c.candidate

/-- A candidate is taken if IE = 1 and no handler is active or its level exceeds the current one (R135). -/
def Copy.takes (c : Copy) (lvl : Nat) : Bool :=
  c.ie && (!bit c.icState 4 || decide (bits c.icState 0 4 < lvl))

/-! ### The agreement functions (R63, R64) -/

/-- What an agreement delivers and records: the value, the copies in the minority, and whether no agreement was possible. -/
structure Agreed where
  value    : Option Nat
  minority : List Nat
  disagree : Bool
  fn       : Nat
  deriving DecidableEq, Repr

/-- Majority of three samples, or both equal of two (R63). -/
def agreeEqual (pairCol : Bool) (xs : List (Nat × Option Nat)) : Agreed :=
  match xs with
  | [(_, x), (b, y), (c, z)] =>
    if x = y then { value := x, minority := if y = z then [] else [c], disagree := false, fn := 0 }
    else if x = z then { value := x, minority := [b], disagree := false, fn := 0 }
    else if y = z then { value := y, minority := (xs.head?.map (·.1)).toList, disagree := false, fn := 0 }
    else { value := none, minority := xs.map (·.1), disagree := true, fn := 0 }
  | [(a, x), (b, y)] =>
    if x = y then { value := x, minority := [], disagree := false, fn := 0 }
    else { value := none, minority := [a, b], disagree := !pairCol, fn := 0 }
  | (_, x) :: _ => { value := x, minority := [], disagree := false, fn := 0 }
  | [] => { value := none, minority := [], disagree := false, fn := 0 }

/-- Two samples lie within W of each other. -/
def within (w x y : Nat) : Bool := decide (x ≤ y + w) && decide (y ≤ x + w)

/-- Time (R63, R64; log entry 11): the median of three, an outlier beyond W of both others dropped and the lower of the remaining two
delivered; the lower of two within W; nothing where no two lie within W. -/
def agreeTime (w : Nat) (xs : List (Nat × Nat)) : Agreed :=
  match xs with
  | [(a, x), (b, y), (c, z)] =>
    let xy := within w x y
    let xz := within w x z
    let yz := within w y z
    if (xy && xz) || (xy && yz) || (xz && yz) then
      { value := some (max (min x y) (min (max x y) z)), minority := [], disagree := false, fn := 1 }
    else if xy then { value := some (min x y), minority := [c], disagree := false, fn := 2 }
    else if xz then { value := some (min x z), minority := [b], disagree := false, fn := 2 }
    else if yz then { value := some (min y z), minority := [a], disagree := false, fn := 2 }
    else { value := none, minority := [a, b, c], disagree := true, fn := 1 }
  | [(a, x), (b, y)] =>
    if within w x y then { value := some (min x y), minority := [], disagree := false, fn := 2 }
    else { value := none, minority := [a, b], disagree := true, fn := 2 }
  | (_, x) :: _ => { value := some x, minority := [], disagree := false, fn := 2 }
  | [] => { value := none, minority := [], disagree := false, fn := 2 }

/-- A field of an image register, a zero outside its range taken as the lowest value (R427). -/
def State.atLeast (s : State) (r : Nat) (f : Fld) (lo : Nat) : Nat := max lo (s.fget r f)

/-- The persistence limit P (IAU_PERSIST). -/
def State.persist (s : State) : Nat := s.atLeast Reg.iauPersist Reg.iauPersist_POINTS 2

/-- The window W (IAU_TIME_WIN). -/
def State.timeWin (s : State) : Nat := s.atLeast Reg.iauTimeWin Reg.iauTimeWin_WIN_NS 8

/-! ### Slots, counters and persistence (R64, R66, R67) -/

/-- The Crown RAM address of slot `n` of a triad (R68). -/
def State.slotAddr (s : State) (t n : Nat) : Nat :=
  paCrown + s.fget Reg.iauSlotBase Reg.iauSlotBase_OFFSET + 64 * (s.fget (Reg.iauCfg t) Reg.iauCfg_FIRST_SLOT + n)

/-- A number of slots of one class: SLOTS of each (R66). -/
def State.slotsPerClass (s : State) (t : Nat) : Nat := s.atLeast (Reg.iauCfg t) Reg.iauCfg_SLOTS 1

/-- Every live copy stalls for a number of cycles. -/
def State.stallCopies (s : State) (t : Nat) (n : Nat) : State :=
  s.forCopies t (s.executing t) fun c => { c with cycle := c.cycle + BitVec.ofNat 64 n }

/-- Take the lowest free slot of a class, waiting for a release where none is free (R67; log entry 12): the slot and the state after the
wait. -/
def State.takeSlot (s : State) (t cls : Nat) : Nat × State :=
  let now := (s.copy (copyIx t (s.leader t))).cycle.toNat
  let slots := (List.range (s.slotsPerClass t)).map fun j => 4 * j + cls
  let busy (n : Nat) : Nat := SMap.get 0 (s.triad t).slotBusy n
  match slots.find? fun n => decide (busy n ≤ now) with
  | some n => (n, s.modTriad t fun x => { x with slotBusy := SMap.put 0 x.slotBusy n (now + 9) })
  | none =>
    let n := slots.foldl (fun b x => if busy x < busy b then x else b) cls
    let wait := busy n - now
    let s := s.stallCopies t wait
    let s := s.fsat (Reg.iauCnt t) Reg.iauCnt_SLOT_STALLS 1
    (n, s.modTriad t fun x => { x with slotBusy := SMap.put 0 x.slotBusy n (now + wait + 9) })

/-- An internal write of the IAU into its slot; no gate sees it (R69, R172). -/
def State.slotWrite (s : State) (pa len v : Nat) : State := (s.memWrite 31 pa len v).2

/-- A slot's record: a value, and a word of the count K and 32 bits more; each word is written whole, and an error in it goes (R66, R69). -/
def State.slotPut (s : State) (pa v k hi : Nat) : State := (s.slotWrite pa 8 v).slotWrite (pa + 8) 8 (k % 2 ^ 32 + 2 ^ 32 * hi)

/-- The lanes of the live copies are written to the slot (R66). -/
def State.writeLanes (s : State) (base k cls : Nat) (lanes : List (Nat × Option Nat × Nat)) : State :=
  lanes.foldl (fun s x => s.slotPut (base + 16 * x.1) (x.2.1.getD x.2.2) k (cls + 4 * b2n x.2.1.isSome)) s

/-- A slot's records are read: whether one holds an uncorrectable word (R69). -/
def State.slotBad (s : State) (base : Nat) (lanes : List Nat) : Bool × State :=
  lanes.foldl (fun (x : Bool × State) c =>
    match x.2.memRead (base + 16 * c) 16 with
    | (r, s) => (x.1 || decide (r.status ≠ .ok), s)) (false, s)

/-- The bit mask of a list of copies. -/
def copyMask (cs : List Nat) : Nat := cs.foldl (fun m c => m ||| 2 ^ c) 0

/-- Persistence (R64): with three live copies a copy in the minority for P consecutive agreements of a class is raised as ODD_COPY; with
two, samples that differ for P consecutive agreements raise IAU_DISAGREE, once where the agreement itself has raised it. -/
def State.persistence (s : State) (t cls : Nat) (a : Agreed) (three : Bool) : State :=
  if three then
    let bump (c : Nat) : Nat :=
      if a.minority = [c] then SMap.get 0 (s.triad t).minority (4 * cls + c) + 1 else 0
    let odd := [0, 1, 2].filter fun c => decide (s.persist ≤ bump c)
    let s' := s.modTriad t fun x =>
      { x with minority := [0, 1, 2].foldl (fun m c => SMap.put 0 m (4 * cls + c) (if s.persist ≤ bump c then 0 else bump c)) x.minority }
    odd.foldl (fun s c => s.oddCopy t c (srcODD_COPY t)) s'
  else
    let n := if a.value.isNone && !a.minority.isEmpty then SMap.get 0 (s.triad t).minority (16 + cls) + 1 else 0
    let hit := decide (s.persist ≤ n)
    let s := s.modTriad t fun x => { x with minority := SMap.put 0 x.minority (16 + cls) (if hit then 0 else n) }
    if hit && !a.disagree then s.raise (srcIAU_DISAGREE t) else s

/-- One agreement of a class at the opener's count K: the slot is taken and written, the live copies stall for 4 cycles, and what the
agreement decides is recorded (R61 to R68). `lanes` holds each live copy's lane value, with what an empty lane holds. The value delivered
is none where no agreement was possible, where the samples of a pair differ, or where a lane of a live copy, or the agreed field as it is
delivered, reads as uncorrectable (R64, R69). -/
def State.agreement (s : State) (t cls : Nat) (lanes : List (Nat × Option Nat × Nat)) (a : Agreed) : Option Nat × State :=
  let three := decide (lanes.length = 3)
  let k := bits (s.rd (Reg.triCommitCount t)) 0 48
  let (n, s) := s.takeSlot t cls
  let base := s.slotAddr t n
  let s := s.writeLanes base k cls lanes
  let (bad, s) := s.slotBad base (lanes.map (·.1))
  let a : Agreed := if bad then { a with value := none, disagree := true } else a
  let deferred := a.value.isNone && !a.disagree && !a.minority.isEmpty
  let s := s.slotPut (base + 48) (a.value.getD 0) k
    (Config.fnUsed a.fn % 4 + 4 * copyMask a.minority + 32 * b2n deferred + 64 * b2n a.disagree)
  let (bad, s) := s.slotBad base [3]
  let a : Agreed := if bad then { a with value := none, disagree := true } else a
  let s := s.stallCopies t 4
  let s := s.fadd (Reg.iauCnt t) Reg.iauCnt_AGREEMENTS 1
  let marked := deferred || !a.minority.isEmpty
  let s := if marked then (s.fsat (Reg.iauCnt t) Reg.iauCnt_MINORITY 1).irqTriad t 1 else s
  let s := s.wr (Reg.iauLast t)
    (BitVec.ofNat 64 (k + 2 ^ 48 * cls + 2 ^ 50 * copyMask a.minority + 2 ^ 53 * b2n a.value.isNone))
  let s := if a.disagree then s.raise (srcIAU_DISAGREE t) else s
  (a.value, s.persistence t cls a three)

/-! ### The four classes -/

/-- The interrupt agreement's function (R63): majority of source and level; if there is none, the lowest-numbered sample present in two
latches. DESIGN CHOICE (log entry 166): this fallback records no copy in the minority, for the spec names none. -/
def State.agreeIrq (s : State) (t : Nat) (live : List Nat) (waking : Bool) : Agreed :=
  let samples := live.map fun c => (c, ((s.copy (copyIx t c)).sample waking).map fun x => x.1 + 256 * x.2)
  let a := agreeEqual true samples
  match live with
  | [_, _, _] =>
    if a.disagree then
      let srcs := (samples.filterMap fun x => x.2.map (· % 256))
      let inTwo (src : Nat) : Bool := decide (2 ≤ (live.filter fun c => (s.copy (copyIx t c)).latch src).length)
      match ((List.range 256).filter srcs.contains).find? inTwo with
      | some src => { value := some (src + 256 * (s.copy (copyIx t (s.leader t))).srcLevel src), minority := [], disagree := false, fn := 3 }
      | none => a
    else a
  | _ => a

/-- The class 0 agreement of a group (R61, R63). -/
def State.irqAgreement (s : State) (t : Nat) (waking : Bool) : Option Nat × State :=
  let live := s.liveCopies t
  let lanes := live.map fun c => (c, ((s.copy (copyIx t c)).sample waking).map (fun x => Config.irqSample x.1 x.2), Config.irqNone)
  let (v, s) := s.agreement t 0 lanes (s.agreeIrq t live waking)
  (v.map (· % 256), s)

/-- The class 1 agreement of a group: each copy samples the device count at its own local time, `off` ahead of the count held (R62);
what is delivered never decreases (R65). -/
def State.timeAgreement (s : State) (t : Nat) (off : Nat → Word) : Option Word × State :=
  let samples := (s.liveCopies t).map fun c => (c, (s.now + off c).toNat)
  let lanes := samples.map fun x => (x.1, some x.2, 0)
  let (v, s) := s.agreement t 1 lanes (agreeTime s.timeWin samples)
  match v with
  | none => (none, s)
  | some v =>
    let d := BitVec.ofNat 64 (max v (s.triad t).lastTime.toNat)
    (some d, s.modTriad t fun x => { x with lastTime := d })

/-- A class 2 or 3 agreement of a group over the value presented to each copy's latch (R62, R63). -/
def State.valueAgreement (s : State) (t cls : Nat) (val : Nat → Word) : Option Word × State :=
  let samples := (s.liveCopies t).map fun c => (c, some (val c).toNat)
  let lanes := samples.map fun x => (x.1, x.2, 0)
  let (v, s) := s.agreement t cls lanes (agreeEqual (decide ((s.liveCopies t).length < 3)) samples)
  (v.map (BitVec.ofNat 64), s)

/-! ### Interrupts -/

/-- A copy waits in a WFI that it executed with IE = 0. -/
def Copy.waking (c : Copy) : Bool := decide (c.status = .wfi) && !c.ie

/-- An interrupt may be taken between the instructions of a copy: not between a load and its delay slot (R97, R136). -/
def Copy.atBoundary (c : Copy) : Bool := c.pend.isNone && !c.slot

/-- An interrupt entry of one copy as its bundle shows it: IRQ_ENTRY with the interrupt acknowledge (R47, R48, R138). -/
def Local.irqEntry (c : Copy) (src : Nat) : Local :=
  { Local.nop c with irq := true, sides := [{ kind := 7, a := src + 256 * c.srcLevel src, b := 0, c := 0 }] }

/-- The bundles of an interrupt entry in the listed copies; an armed flip strikes the named copy's (R60; log entry 167). -/
def State.irqBundles (s : State) (t src : Nat) (ks : List Nat) : List (Nat × List Bundle) × State :=
  s.applyInject t (ks.map fun x =>
    let c := s.copy (copyIx t x)
    (x, bundlesOf c (bits (s.rd (Reg.triCommitCount t)) 0 16) (.c16 false) (Local.irqEntry c src)))

/-- An interrupt reaches one SPLIT copy without agreement: it takes its own candidate, or ends a WFI executed with IE = 0 (R56, R108). -/
def State.irqSplit (s : State) (t x : Nat) : State :=
  let c := s.copy (copyIx t x)
  if !c.atBoundary || s.inAccess t (fun y => decide (y = x)) then s
  else
    match c.sample c.waking with
    | none => s
    | some (src, lvl) =>
      if c.waking then s.setCopy (copyIx t x) { c with status := .run }
      else if c.takes lvl then (s.irqBundles t src [x]).2.enterAll t [(x, .irq src, c.pc)]
      else s

/-- Every executing copy enters a source's handler at the same count: the bundles of the entry pass the fence, the acknowledge leaves through it, and
the copies of the group enter (R49, R61, R138). -/
def State.irqEnter (s : State) (t src : Nat) : State :=
  let ks := s.executing t
  let (bs, s) := s.irqBundles t src ks
  match s.fence t false [] (fun s _ => s) bs with
  | (false, s) => s
  | (true, s') => s'.enterAll t ((ks.filter fun x => s'.live t x || !s.live t x).map fun x => (x, .irq src, (s'.copy (copyIx t x)).pc))

/-- The opener opens an interrupt agreement and, if it delivers, every executing copy enters the handler at the same count, or a WFI
executed with IE = 0 ends (R61, R97, R108, R136, R138). No agreement is opened between a load and its delay slot, while an instruction's
access is in progress, or where the opener has no candidate it could take. -/
def State.irqGroup (s : State) (t : Nat) : State :=
  let c := s.copy (copyIx t (s.leader t))
  match c.sample c.waking with
  | none => s
  | some (_, lvl) =>
    if !(c.waking || c.takes lvl) || !c.atBoundary || s.inAccess t (fun _ => true) then s
    else
      match s.irqAgreement t c.waking with
      | (none, s) => s
      | (some src, s) =>
        if c.waking then s.forCopies t (s.executing t) fun c => { c with status := .run } else s.irqEnter t src

/-- IAU_AGREEMENT: the opener opens an agreement at an instruction boundary or an abandon point (R61, R98); in SPLIT and DEBUG_SPLIT the
named copy takes its interrupt directly (R56). None is opened from the request of a pause on (R72). -/
def execIauAgreement (w : Who) (s : State) : Out :=
  let t := w.t.val
  let ready (c : Nat) : Bool := s.copyRuns t c || decide ((s.copy (copyIx t c)).status = .wfi)
  if !s.triadRuns t then .next s
  else if s.groupMode t then (if ready (s.leader t) then .next (s.irqGroup t) else .next s)
  else if s.live t w.c.num && ready w.c.num then .next (s.irqSplit t w.c.num)
  else .next s

/-- INTERRUPT_LATCH_SET: an event sets a source's latch in the named paths of the named triads; in a group mode a copy's path may be late
(R64, R134). -/
def execInterruptLatchSet (src : BitVec 8) (triads : BitVec 16) (copies : BitVec 3) (s : State) : Out :=
  .next ((List.range 16).foldl (fun s t =>
    if triads.getLsbD t then s.forCopies t ([0, 1, 2].filter copies.getLsbD) (·.setLatch src.toNat) else s) s)

/-- TIME_COMPARE: the device count has reached a copy's IC_TCMP; source 0 is set in every copy of the triad whose comparator matches
(R134, IC_TCMP). -/
def execTimeCompare (t : Fin 16) (s : State) : Out :=
  .next (s.forCopies t.val [0, 1, 2] fun c => if c.icTcmp.toNat ≤ s.now.toNat then c.setLatch 0 else c)

/-- The copies that wait at a read of an agreed value of a class for its next attempt (R428): each attempt belongs to the instruction in progress, and is
made while a pause is requested too. DESIGN CHOICE (log entry 168): R72 opens no agreement then, and the pause waits for the instruction's end. -/
def State.agreeing (s : State) (t cls : Nat) : List Nat :=
  if s.triadWaits t then (s.executing t).filter fun x => decide ((s.copy (copyIx t x)).status = .agree cls) else []

/-- An instruction that reads an agreed value of a class (R428): it writes its destination only from an agreement that delivers; where none does, it
writes nothing, and the copies wait at it for the next attempt. -/
def State.agreedRead (s : State) (w : Who) (g : Guard) (d : RegNo) (cls : Nat) (own : Nat → Word) (agree : State → Option Word × State) : State :=
  let t := w.t.val
  if !s.groupMode t then
    (s.runOn w (if (s.agreeing t cls).contains w.c.num then [w.c.num] else s.runners w) g false (fun _ _ c => Local.nop c)
      fun _ _ c => Local.toG { c with status := .run } d (own w.c.num) 1).1
  else
    let ks := match s.agreeing t cls with | [] => s.runners w | l => l
    match ks with
    | [] => s
    | x :: _ =>
      let c := s.copy (copyIx t x)
      if bit c.pc 0 || g.undef || !g.holds c then s.run w g false fun c => Local.nop c
      else
        match agree s with
        | (none, s) => s.forCopies t (s.executing t) fun c => { c with status := .agree cls }
        | (some v, s) =>
          (s.runOn w (ks.filter (s.executing t).contains) g false (fun _ _ c => Local.nop c)
            fun _ _ c => Local.toG { c with status := .run } d v 1).1

/-- The per-copy operand of a command. -/
def pick3 (a b c : Word) (i : Nat) : Word := match i with | 0 => a | 1 => b | _ => c

/-- AGTIME_READ: `oa`, `ob` and `oc` are how far ahead of the held count each copy samples (R62); class 1 (R110). -/
def execAgtimeRead (w : Who) (g : Guard) (d : RegNo) (oa ob oc : Word) (s : State) : Out :=
  .next (s.agreedRead w g d 1 (fun i => s.now + pick3 oa ob oc i) (fun s => s.timeAgreement w.t.val (pick3 oa ob oc)))

/-- AGEVENT_READ: `ea`, `eb` and `ec` are the event words presented to the copies' latches (R62); class 3 (R110). -/
def execAgeventRead (w : Who) (g : Guard) (d : RegNo) (ea eb ec : Word) (s : State) : Out :=
  .next (s.agreedRead w g d 3 (pick3 ea eb ec) (fun s => s.valueAgreement w.t.val 3 (pick3 ea eb ec)))

end Sys2Proof.Machine
end

