-- ==== Sys2Proof/Machine/MemIns.lean ====
section
/-!
DEFINITION. Loads, stores and atomics (R94 to R107).
-/

namespace Sys2Proof.Machine

/-- A load of 2^size bytes into a register of either file. -/
def loadAcc (size : BitVec 2) (sext isF : Bool) (d : RegNo) : Access :=
  { kind := .load, halves := [], size := size.toNat, data := 0, cmp := 0, sext := sext, isF := isF, dest := d, now := false }

/-- A store of the low 2^size bytes of a value. -/
def storeAcc (size : BitVec 2) (v : Word) : Access :=
  { kind := .store, halves := [], size := size.toNat, data := v &&& mask64 (8 * 2 ^ size.toNat), cmp := 0, sext := false, isF := false,
    dest := 0, now := false }

/-- An atomic at the target. -/
def atomAcc (op : AtomOp) (size : BitVec 2) (v cmp : Word) (d : RegNo) : Access :=
  { kind := .atom op, halves := [], size := size.toNat, data := v &&& mask64 (8 * 2 ^ size.toNat), cmp := cmp, sext := false, isF := false,
    dest := d, now := false }

/-- LD and LDU, and the 16-bit LDW, LDWU and LDD; an LDU of size 3 is undefined (R90, R94, R95). -/
def execLdLdu (w : Who) (g : Guard) (uns : Bool) (size : BitVec 2) (d a : RegNo) (imm : BitVec 9) (s : State) : Out :=
  .next (s.run w g (uns && decide (size = 3)) fun c => Local.access c (loadAcc size (!uns) false d) (eaM c a imm size))

/-- ST, and the 16-bit STW and STD (R94, R95). -/
def execSt (w : Who) (g : Guard) (size : BitVec 2) (d a : RegNo) (imm : BitVec 9) (s : State) : Out :=
  .next (s.run w g false fun c => Local.access c (storeAcc size (c.reg d)) (eaM c a imm size))

/-- FLD and FST, and the 16-bit FLDD and FSTD; sizes 0 and 1 are undefined (R90, R94, R95). -/
def execFldFst (w : Who) (g : Guard) (store : Bool) (size : BitVec 2) (d a : RegNo) (imm : BitVec 9) (s : State) : Out :=
  .next (s.run w g (decide (size = 0) || decide (size = 1)) fun c =>
    if store then Local.access c (storeAcc size (c.freg d)) (eaM c a imm size)
    else Local.access c (loadAcc size false true d) (eaM c a imm size))

/-- LDX, LDUX, STX, FLDX and FSTX with the undefined forms of R90: kind 3, LDUX of size 3, f-register sizes 0 and 1, and an unsigned
load of an f register (R94). -/
def execMemxLoadStore (w : Who) (g : Guard) (kind size : BitVec 2) (scale freg : Bool) (d a b : RegNo) (s : State) : Out :=
  let undef := decide (kind = 3) || (decide (kind = 1) && (decide (size = 3) || freg)) ||
    (freg && (decide (size = 0) || decide (size = 1)))
  .next (s.run w g undef fun c =>
    let va := eaX c a b scale size
    if kind = 2 then Local.access c (storeAcc size (if freg then c.freg d else c.reg d)) va
    else Local.access c (loadAcc size (decide (kind = 0) && !freg) freg d) va)

/-- LL: sizes 2 and 3, [27] must be 0; the word result is zero-extended (R90, R94, R105, R106). -/
def execLl (w : Who) (g : Guard) (size : BitVec 2) (z : Bool) (d a : RegNo) (s : State) : Out :=
  .next (s.run w g (decide (size = 0) || decide (size = 1) || z) fun c => Local.access c (atomAcc .ll size 0 0 d) (c.reg a))

/-- SC: stores b if the initiator's reservation covers the granule; 0 on success and 1 on failure (R106). -/
def execSc (w : Who) (g : Guard) (size : BitVec 2) (z : Bool) (d a b : RegNo) (s : State) : Out :=
  .next (s.run w g (decide (size = 0) || decide (size = 1) || z) fun c => Local.access c (atomAcc .sc size (c.reg b) 0 d) (c.reg a))

/-- AMOSWAP: sizes 0 and 1 and [27] = 1 are undefined (R90, R105). -/
def execAmoswap (w : Who) (g : Guard) (size : BitVec 2) (z : Bool) (d a b : RegNo) (s : State) : Out :=
  .next (s.run w g (decide (size = 0) || decide (size = 1) || z) fun c => Local.access c (atomAcc .swap size (c.reg b) 0 d) (c.reg a))

/-- AMOADD (R90, R105). -/
def execAmoadd (w : Who) (g : Guard) (size : BitVec 2) (z : Bool) (d a b : RegNo) (s : State) : Out :=
  .next (s.run w g (decide (size = 0) || decide (size = 1) || z) fun c => Local.access c (atomAcc .add size (c.reg b) 0 d) (c.reg a))

/-- AMOCAS: compares the old value with ACMP and sets Z (R90, R105). -/
def execAmocas (w : Who) (g : Guard) (size : BitVec 2) (z : Bool) (d a b : RegNo) (s : State) : Out :=
  .next (s.run w g (decide (size = 0) || decide (size = 1) || z) fun c =>
    Local.access c (atomAcc .cas size (c.reg b) c.acmp d) (c.reg a))

end Sys2Proof.Machine
end

