-- ==== Sys2Proof/Machine/Patch.lean ====
section
/-!
DEFINITION. The microcode patch table (R115 to R117): its activity, the reading of a micro-op, and the check of a header.
-/

namespace Sys2Proof.Machine

/-- The life-cycle state (SYS_STATE.LC). -/
def State.lc (s : State) : Nat := s.fget Reg.sysState Reg.sysState_LC

/-- The patch table is active in BOOT, and in MANUFACTURE and RMA in any operating state (R115). -/
def State.patchActive (s : State) : Bool := decide (s.opstate = opBOOT) || decide (s.lc = 1) || decide (s.lc = 4)

/-- Word `w` of entry `e` of a triad's patch table, and its header. -/
def Triad.patchWord (x : Triad) (e w : Nat) : Word := SMap.get 0 x.patch (16 * e + w)
def Triad.patchHeader (x : Triad) (e : Nat) : Word := SMap.get 0 x.patch (16 * e + 8)

/-! ### The fields of a 32-bit word (R89) -/

/-- A field of an instruction word. -/
def wbits (w : BitVec 32) (lo len : Nat) : Nat := w.toNat / 2 ^ lo % 2 ^ len
def wClass (w : BitVec 32) : Nat := wbits w 2 5
def wCond (w : BitVec 32) : BitVec 4 := BitVec.ofNat 4 (wbits w 28 4)
def wD (w : BitVec 32) : RegNo := BitVec.ofNat 5 (wbits w 7 5)
def wA (w : BitVec 32) : RegNo := BitVec.ofNat 5 (wbits w 12 5)
def wB (w : BitVec 32) : RegNo := BitVec.ofNat 5 (wbits w 17 5)
def wFn (w : BitVec 32) : Nat := wbits w 22 6
def wImm11 (w : BitVec 32) : BitVec 11 := BitVec.ofNat 11 (wbits w 17 11)
def wImm9 (w : BitVec 32) : BitVec 9 := BitVec.ofNat 9 (wbits w 19 9)
def wImm16 (w : BitVec 32) : BitVec 16 := BitVec.ofNat 16 (wbits w 12 16)
def wMSize (w : BitVec 32) : BitVec 2 := BitVec.ofNat 2 (wbits w 17 2)
def wFSize (w : BitVec 32) : BitVec 2 := BitVec.ofNat 2 (wbits w 22 2)

/-! ### Micro-ops (R116) -/

/-- What a micro-op does: a register result with its flags and count, or a memory access at an address. -/
inductive UopAct where
  | calc (d : Option RegNo) (v : Word) (f : Option Nzcv) (cyc : Nat)
  | mem (acc : Access) (va : Word)
  deriving DecidableEq, Repr

/-- An ALU micro-op (R94). -/
def uopAlu (fn5 : Nat) (sf : Bool) (bz : Bool) (d : RegNo) (a b : Word) (c : Bool) : Option UopAct :=
  let out (r : Word) (f : Nzcv) : Option UopAct := some (.calc (some d) r (if sf then some f else none) 1)
  let add (op : AddOp) := let r := addResult op a b c; out r.1 r.2
  let log (op : LogicOp) := let r := logicResult op a b; out r (logicFlags r)
  let sh (op : ShiftOp) := let n := bits b 0 6; out (shiftResult op a n) (shiftFlags op a n)
  let mm (op : MinMaxOp) := let r := minMaxResult op a b; out r (logicFlags r)
  let ex (op : ExtOp) := if bz then (let r := extResult op a; out r (logicFlags r)) else none
  let ct (op : CountOp) := if bz then (let r := countResult op a; out r (logicFlags r)) else none
  let sl (u : Bool) := let r := sltResult u a b; out r (logicFlags r)
  match fn5 with
  | 0x00 => add .add | 0x01 => add .adc | 0x02 => add .sub | 0x03 => add .sbc
  | 0x04 => log .and | 0x05 => log .or | 0x06 => log .xor | 0x07 => log .andn | 0x08 => log .orn
  | 0x09 => sh .sll | 0x0A => sh .srl | 0x0B => sh .sra | 0x0C => sh .ror
  | 0x0D => mm .min | 0x0E => mm .max | 0x0F => mm .minu | 0x10 => mm .maxu
  | 0x11 => ex .sextb | 0x12 => ex .sexth | 0x13 => ex .sextw | 0x14 => ex .zextb | 0x15 => ex .zexth | 0x16 => ex .zextw
  | 0x17 => ct .clz | 0x18 => ct .ctz | 0x19 => ct .popc | 0x1A => ct .rev
  | 0x1B => sl false | 0x1C => sl true
  | _ => none

/-- A MULDIV micro-op (R94). -/
def uopMul (fn : Nat) (d : RegNo) (a b : Word) : Option UopAct :=
  match fn with
  | 0 => some (.calc (some d) (mulResult .mul a b) none 2)
  | 1 => some (.calc (some d) (mulResult .mulh a b) none 2)
  | 2 => some (.calc (some d) (mulResult .mulhu a b) none 2)
  | 4 => some (.calc (some d) (divResult .div a b) none 34)
  | 5 => some (.calc (some d) (divResult .divu a b) none 34)
  | 6 => some (.calc (some d) (divResult .rem a b) none 34)
  | 7 => some (.calc (some d) (divResult .remu a b) none 34)
  | _ => none

/-- A SHI micro-op (R94). -/
def uopShi (w : BitVec 32) (a : Word) : Option UopAct :=
  let n := wbits w 17 6
  let op : ShiftOp := match wbits w 23 2 with | 0 => .sll | 1 => .srl | 2 => .sra | _ => .ror
  if wbits w 26 2 ≠ 0 then none
  else some (.calc (some (wD w)) (shiftResult op a n) (if wbits w 25 1 = 1 then some (shiftFlags op a n) else none) 1)

/-- What a micro-op does, given the reading of its register fields, the copy (for flags, ACMP and f registers) — none where its encoding
is undefined (R90). -/
def uopAct (w : BitVec 32) (rf : RegNo → Word) (c : Copy) : Option UopAct :=
  let a := rf (wA w)
  let b := rf (wB w)
  let d := wD w
  let immR (op : ImmOp) : Option UopAct := some (.calc (some d) (immResult op a ((wImm11 w).signExtend 64)) none 1)
  let eam : Word := a + ((wImm9 w).signExtend 64 <<< (wMSize w).toNat)
  match wClass w with
  | 0 => uopAlu (wbits w 22 5) (decide (wbits w 27 1 = 1)) (decide (wB w = 0)) d a b c.flags.c
  | 1 => immR .addi
  | 2 => immR .andi
  | 3 => immR .ori
  | 4 => immR .xori
  | 5 => uopShi w a
  | 6 => if d ≠ 0 then none else some (.calc none 0 (some (addResult .sub a ((wImm11 w).signExtend 64) false).2) 1)
  | 7 => some (.calc (some d) ((wImm16 w).signExtend 64) none 1)
  | 8 => some (.calc (some d) ((rf d <<< 16) ||| (wImm16 w).setWidth 64) none 1)
  | 9 => uopMul (wFn w) d a b
  | 13 => some (.mem (loadAcc (wMSize w) true false d) eam)
  | 14 => if wMSize w = 3 then none else some (.mem (loadAcc (wMSize w) false false d) eam)
  | 15 => some (.mem (storeAcc (wMSize w) (rf d)) eam)
  | 18 =>
    let kind := wbits w 24 2
    let size := wFSize w
    let fr := decide (wbits w 27 1 = 1)
    let va := a + (b <<< (if wbits w 26 1 = 1 then size.toNat else 0))
    if kind = 3 ∨ (kind = 1 ∧ (size = 3 ∨ fr)) ∨ (fr ∧ size.toNat < 2) then none
    else if kind = 2 then some (.mem (storeAcc size (if fr then c.freg d else rf d)) va)
    else some (.mem (loadAcc size (decide (kind = 0) && !fr) fr d) va)
  | 19 =>
    let size := wFSize w
    if size.toNat < 2 ∨ wbits w 27 1 = 1 then none
    else match wbits w 24 3 with
      | 0 => some (.mem (atomAcc .ll size 0 0 d) a)
      | 1 => some (.mem (atomAcc .sc size b 0 d) a)
      | 2 => some (.mem (atomAcc .swap size b 0 d) a)
      | 3 => some (.mem (atomAcc .add size b 0 d) a)
      | 4 => some (.mem (atomAcc .cas size b c.acmp d) a)
      | _ => none
  | _ => none

/-- The classes a micro-op may have (R116), with condition AL. -/
def uopAllowed (w : BitVec 32) : Bool :=
  decide (w.toNat % 4 = 3) && decide (wCond w = 7) &&
    (decide (wClass w ≤ 9) || decide (wClass w = 13) || decide (wClass w = 14) || decide (wClass w = 15) || decide (wClass w = 18) ||
      decide (wClass w = 19))

/-- The micro-op accesses memory. -/
def uopMem (w : BitVec 32) : Bool := decide (13 ≤ wClass w)

/-- The integer register a micro-op writes: none for CMPI, a store, or an f-register load (log entry 13). -/
def uopWrites (w : BitVec 32) : Option RegNo :=
  match wClass w with
  | 6 => none
  | 15 => none
  | 18 => if wbits w 24 2 = 2 ∨ wbits w 27 1 = 1 then none else some (wD w)
  | _ => some (wD w)

/-- The micro-op writes something: a register, memory or the flags (R117). -/
def uopWritesAny (w : BitVec 32) : Bool :=
  (uopWrites w).isSome || uopMem w || decide (wClass w = 6) || (decide (wClass w = 0) && decide (wbits w 27 1 = 1)) ||
    (decide (wClass w = 5) && decide (wbits w 25 1 = 1))

/-- No micro-op after the one that writes register 30 writes anything, and at most one writes it (R117). -/
def uopLast30 : List (BitVec 32) → Bool
  | [] => true
  | w :: r => if uopWrites w = some 30 then !(r.any uopWritesAny) else uopLast30 r

/-- The check of a header write with VALID = 1 (R117). -/
def uopsValid (ws : List (BitVec 32)) : Bool :=
  ws.all uopAllowed && decide ((ws.filter uopMem).length ≤ 1) && uopLast30 ws && !(ws.any fun w => decide (uopWrites w = some 31))

/-- The micro-ops of an entry: the words up to COUNT of a header (R116). -/
def Triad.patchOps (x : Triad) (e : Nat) (header : Word) : List (BitVec 32) :=
  (List.range (bits header 0 3 + 1)).map fun i => (x.patchWord e i).setWidth 32

/-- A write of PATCH_IDX: it has no effect while the table is inactive (R115, R116). -/
def State.patchIdxWrite (s : State) (t : Nat) (v : Word) : State :=
  if s.patchActive then s.modTriad t fun x => { x with patchIdx := v &&& 0xFF } else s

/-- A write of PATCH_DATA lands where PATCH_IDX selects; a header write with VALID = 1 that fails the check is stored with VALID = 0 and
sets interrupt source 2 (R115 to R117, R134). -/
def State.patchDataWrite (s : State) (t : Nat) (v : Word) : State :=
  if !s.patchActive then s
  else
    let x := s.triad t
    let e := bits x.patchIdx 0 4
    if bit x.patchIdx 7 then
      let h := v &&& 0xF
      if bit h 3 && !uopsValid (x.patchOps e h) then
        (s.modTriad t fun x => { x with patch := SMap.put 0 x.patch (16 * e + 8) (h &&& 7) }).irqTriad t 2
      else s.modTriad t fun x => { x with patch := SMap.put 0 x.patch (16 * e + 8) h }
    else s.modTriad t fun x => { x with patch := SMap.put 0 x.patch (16 * e + bits x.patchIdx 4 3) (v &&& 0xFFFFFFFF) }

/-- A read of PATCH_DATA: the word that PATCH_IDX selects (log entry 13). -/
def Triad.patchDataRead (x : Triad) : Word :=
  if bit x.patchIdx 7 then x.patchHeader (bits x.patchIdx 0 4) else x.patchWord (bits x.patchIdx 0 4) (bits x.patchIdx 4 3)

end Sys2Proof.Machine
end

