-- ==== Sys2Proof/Machine/CopIns.lean ====
section
/-!
DEFINITION. The coprocessor class: a Fuller instruction leaves the triad through the fence, and a returned value enters the triad's agreement
(R112 to R114, R191, R194, R428).
-/

namespace Sys2Proof.Machine

/-- The context a copy's FCTX names. -/
def Copy.cop (c : Copy) : Nat := bits c.fctx 0 3

/-- The image binds a context to a triad (R113, R183). -/
def State.boundTo (s : State) (c t : Nat) : Bool := s.cxBound c && decide (s.cxTriad c = t)

/-- The instruction by itself: COP_UNBOUND before issue, else the packet as side effect (R48, R112, R113). -/
def copLocal (s : State) (t : Nat) (word : BitVec 32) (c : Copy) : Local :=
  if !s.boundTo c.cop t then Local.trapping c (trapOf cCOP_UNBOUND)
  else
    let sends := fwBits word 26 1 = 1
    let a := if sends then c.reg (wA word) else 0
    let b := if sends then c.reg (wB word) else 0
    let waits := fwReturns word
    { Local.nop (if waits then { c with status := .cop } else c) with
      sides := [{ kind := 6, a := word.toNat + 2 ^ 32 * c.cop, b := a.toNat, c := b.toNat }], stay := waits }

/-- The packet reaches the context's crossing with the copy tag (R112, R191, R194). -/
def State.copIssue (s : State) (w : Who) (word : BitVec 32) (c : Copy) : State :=
  let sends := fwBits word 26 1 = 1
  let p : FulPkt :=
    { word := word, a := if sends then c.reg (wA word) else 0, b := if sends then c.reg (wB word) else 0, tag := s.copyTag w }
  s.modCtx c.cop fun x => { x with crossing := x.crossing ++ [p] }

/-- Remove the first value returned for a copy tag. -/
def dropRet (tag : Nat) : List (Nat × Word) → List (Nat × Word)
  | [] => []
  | x :: r => if x.1 = tag then r else x :: dropRet tag r

/-- The copies that wait for a value: every executing copy of a group, or the one copy named. A pause that is requested waits for it (R72, R204). -/
def State.copWaiters (s : State) (w : Who) : List Nat :=
  let waits (c : Nat) : Bool := decide ((s.copy (copyIx w.t.val c)).status = .cop)
  if !s.triadWaits w.t.val then []
  else if s.groupMode w.t.val then (s.executing w.t.val).filter waits
  else if s.live w.t.val w.c.num && waits w.c.num then [w.c.num] else []

/-- The value arrives: a group agrees on it, class 2, and retries while its agreement delivers nothing; a SPLIT copy takes its own
(R114, R194, R428). The waiting copies write it and go on. -/
def State.copValue (s : State) (w : Who) (word : BitVec 32) (ws : List Nat) : State :=
  let t := w.t.val
  let cx := (s.copy (copyIx t (ws.headD 0))).cop
  match (s.ctx cx).ret.find? fun x => decide (x.1 = s.copyTag w) with
  | none => s
  | some (_, v) =>
    let finish (s : State) (v : Word) : State :=
      let s := s.modCtx cx fun x => { x with ret := dropRet (s.copyTag w) x.ret }
      (s.runOn w (ws.filter (s.executing t).contains) (.c32 (wCond word)) false (fun _ _ c => Local.nop c)
        fun _ _ c => Local.toG { c with status := .run } (wD word) v 1).1
    if s.groupMode t then
      match s.valueAgreement t 2 fun _ => v with
      | (none, s) => s
      | (some v, s) => finish s v
    else finish s v

/-- COP: issues the packet, behind the compare and once the context takes it (R44, R113), or for a value-returning form sent again while its copies
wait, takes the value that has arrived (R112 to R114, R191; log entry 9). -/
def execCop (w : Who) (word : BitVec 32) (s : State) : Out :=
  match s.copWaiters w with
  | x :: ws => .next (s.copValue w word (x :: ws))
  | [] => .next (s.runThen w (.c32 (wCond word)) false (fun s _ c => copLocal s w.t.val word c) fun _ c s => s.copIssue w word c)

end Sys2Proof.Machine
end

