-- ==== Sys2Proof/Machine/CsrIns.lean ====
section
/-!
DEFINITION. CSRR and CSRW (R57, R86, R87, R110): the levels of the CSRs, their contents, the cache operations and the patch table's window.
-/

namespace Sys2Proof.Machine

/-- The read and write levels of a CSR number; none is "—", and an unlisted number gives neither (R110, 04 "Interrupt controller CSRs"). -/
def csrLevels (n : Nat) : Option Nat × Option Nat :=
  if n = 0x000 ∨ n = 0x001 ∨ n = 0x013 then (some 0, some 0)
  else if n = 0x002 ∨ n = 0x003 ∨ n = 0x004 ∨ n = 0x008 ∨ n = 0x009 then (some 0, none)
  else if n = 0x010 ∨ n = 0x011 ∨ n = 0x012 then (some 1, none)
  else if n = 0x014 ∨ n = 0x020 then (some 1, some 1)
  else if n = 0x018 ∨ n = 0x019 ∨ n = 0x030 ∨ n = 0x031 then (some 2, some 2)
  else if 0x028 ≤ n ∧ n ≤ 0x02D then (none, some 1)
  else if (0x124 ≤ n ∧ n ≤ 0x127) ∨ n = 0x12A then (some 1, none)
  else if 0x100 ≤ n ∧ n ≤ 0x12C then (some 1, some 1)
  else (none, none)

/-- The trap of an access at a privilege level: UNDEF before PRIV (R110, R119). -/
def csrTrap (lvl : Option Nat) (priv : Nat) : Option Nat :=
  match lvl with
  | none => some cUNDEF
  | some l => if priv < l then some cPRIV else none

/-- COREID (R57). -/
def State.coreId (s : State) (k : Nat) : Word :=
  let t := k / 3
  BitVec.ofNat 64 ((if s.groupMode t then 3 else k % 3) + 4 * t + 64 * (t / 4))

/-- What a CSR reads as in the copy with index `k` (R110 and the register tables of 03 and 04); AGTIME and AGEVENT are read by agreement. -/
def State.csrValue (s : State) (k : Nat) (c : Copy) (n : Nat) : Word :=
  if n = 0x000 then c.psr else if n = 0x001 then c.fcsr else if n = 0x002 then s.coreId k
  else if n = 0x003 then c.instret else if n = 0x004 then c.cycle
  else if n = 0x010 then c.cause else if n = 0x011 then c.faultVa else if n = 0x012 then c.tlbMissVa else if n = 0x013 then c.acmp
  else if n = 0x014 then c.asid else if n = 0x018 then c.vectb else if n = 0x019 then c.troute else if n = 0x020 then c.fctx
  else if n = 0x030 then (s.triad (k / 3)).patchIdx else if n = 0x031 then (s.triad (k / 3)).patchDataRead
  else if 0x100 ≤ n ∧ n ≤ 0x11F then SMap.get 0 c.icLvl (n - 0x100)
  else if 0x120 ≤ n ∧ n ≤ 0x123 then SMap.get 0 c.icEn (n - 0x120)
  else if 0x124 ≤ n ∧ n ≤ 0x127 then (if s.groupMode (k / 3) then 0 else SMap.get 0 c.icPend (n - 0x124))
  else if n = 0x129 then c.icMask else if n = 0x12A then c.icState else if n = 0x12B then c.icStk
  else if n = 0x12C then c.icTcmp else 0

/-- The cycles of a CSR write: 1, those of the cache operations, and the fixed stall of a non-local CSR (R94, R110, R129). -/
def csrwCycles (n : Nat) : Nat :=
  if n = 0x028 ∨ n = 0x02A ∨ n = 0x02B then 2 else if n = 0x029 then 256 else if n = 0x02C ∨ n = 0x02D then 128
  else if n = 0x030 ∨ n = 0x031 then 9 else 1

/-- The copy after a write of a copy-local CSR without behaviour of its own. -/
def Copy.csrSet (c : Copy) (n : Nat) (v : Word) : Copy :=
  if n = 0x001 then { c with fcsr := v &&& 0xFF } else if n = 0x013 then { c with acmp := v }
  else if n = 0x014 then { c with asid := v &&& 0xFFFF } else if n = 0x018 then { c with vectb := v &&& 0xF000 }
  else if n = 0x019 then { c with troute := v } else if n = 0x020 then { c with fctx := v &&& 7 }
  else if 0x100 ≤ n ∧ n ≤ 0x11F then { c with icLvl := SMap.put 0 c.icLvl (n - 0x100) (v &&& 0x1F1F1F1F1F1F1F1F) }
  else if 0x120 ≤ n ∧ n ≤ 0x123 then { c with icEn := SMap.put 0 c.icEn (n - 0x120) v }
  else if n = 0x129 then { c with icMask := v &&& 0xF }
  else if n = 0x12B then (if c.depth = 0 then { c with icStk := setBits c.icStk 12 4 (bits v 12 4) } else c)
  else if n = 0x12C then { c with icTcmp := v }
  else c

/-! ### Cache operations (R110, R127) -/

/-- Every instruction-cache line but the locked ones is invalidated (R127). -/
def Copy.icInvAll (c : Copy) : Copy := { c with icache := c.icache.filter fun e => e.2.valid && e.2.flag }

/-- The instruction-cache line of a physical address is invalidated unless it is locked (R127). -/
def Copy.icInv (c : Copy) (pa : Nat) : Copy :=
  match c.iHit pa with
  | some key => if (c.iLine key).flag then c else { c with icache := SMap.put CacheLine.empty c.icache key CacheLine.empty }
  | none => c

/-- The data-cache line of a physical address is invalidated, dirty data discarded. -/
def Copy.dcInv (c : Copy) (pa : Nat) : Copy :=
  match c.dHit pa with
  | some key => c.dropDLine key
  | none => c

/-- The keys of the dirty lines of a copy, in set and way order. -/
def Copy.dirtyKeys (c : Copy) : List Nat := (c.dcache.filter fun e => e.2.valid && e.2.flag).map (·.1)

/-- A line marked clean. -/
def Copy.markClean (c : Copy) (key : Nat) : Copy :=
  let l := c.dLine key
  { c with dcache := SMap.put CacheLine.empty c.dcache key { l with flag := false } }

/-- The clean writes of the listed lines of the first copy, posted once for the triad, and the lines marked clean in every copy named. -/
def State.cleanPost (s : State) (t tag : Nat) (ks : List Nat) (keys : List Nat) : State :=
  let lead := s.copy (copyIx t (ks.headD 0))
  let s := keys.foldl (fun s key =>
    let l := lead.dLine key
    s.meshPost (coreReq t tag .write .swap (l.line * 64) 64 l.data 0)) s
  s.forCopies t ks fun c => keys.foldl (fun c key => c.markClean key) c

/-! ### CSRW -/

/-- A cache operation that cleans lines: the dirty ones are read, and each word is a clean write of its bundle (R48, R100, R426). -/
def Copy.cleaning (c : Copy) (l : Local) (keys : List Nat) : Local :=
  let ds := keys.filter c.dirtyAt
  if ds.isEmpty then l else { l with reads := l.reads ++ ds.flatMap lineReads, sides := ds.flatMap (cleanSides c) }

/-- What a CSR write does in one copy, before the fence (R87, R110). -/
def Local.csrw (c : Copy) (d : RegNo) (n : Nat) : Local :=
  let v := c.reg d
  let done (x : Copy) : Local :=
    { Local.nop x with
      kind := 3, idx := n % 32, val := v, cycles := csrwCycles n,
      sides := if n = 0x030 ∨ n = 0x031 then [{ kind := 5, a := n, b := 0, c := v.toNat }] else [Side.none] }
  match csrTrap (csrLevels n).2 c.priv with
  | some t => Local.trapping c (trapOf t)
  | none =>
    if n = 0 then
      let p := if c.priv = 0 then (c.psr &&& ~~~0xFF) ||| (v &&& 0xFF) else v &&& 0x7FF
      if c.priv ≠ 0 ∧ bits v 8 2 = 3 then Local.trapping c (trapOf cUNDEF)
      else if c.priv ≠ 0 ∧ c.priv < bits v 8 2 then Local.trapping c (trapOf cPRIV)
      else { done { c with psr := p } with noLatch := true }
    else if n = 0x028 ∨ n = 0x02A ∨ n = 0x02B then
      match c.xlate v with
      | none => Local.trapping c (trapAt cTLB_MISS_D (BitVec.ofNat 64 (va48 v)) false)
      | some (i, _, pa) =>
        let x := if n = 0x028 then c.icInv pa else if n = 0x02A then c.dcInv pa else c
        let tags := (List.range 4).map fun y =>
          if n = 0x028 then (ArrayId.itag, cacheKey (iSet (pa / 32)) y) else (ArrayId.dtag, cacheKey (dSet (pa / 64)) y)
        let l := { done x with reads := (ArrayId.tlb, i) :: tags }
        if n = 0x02B then c.cleaning l (c.dHit pa).toList else l
    else if n = 0x02C then
      c.cleaning { done c with reads := (List.range 512).map fun key => (ArrayId.dtag, key) } c.dirtyKeys
    else if n = 0x029 then done c.icInvAll
    else if n = 0x02D then done { c with dcache := [] }
    else if n = 0x128 then done (c.setLatch (192 + bits v 0 5))
    else done (c.csrSet n v)

/-- CSRW of a CSR number, with what follows outside the copies: the clean writes (R109, R110) and the triad's patch table (R116). -/
def State.csrw (s : State) (w : Who) (g : Guard) (d : RegNo) (n : Nat) : State :=
  let t := w.t.val
  s.runThen w g false (fun _ _ c => Local.csrw c d n) fun ks c s =>
    let v := c.reg d
    if n = 0x02B then
      match (c.xlate v).bind fun x => c.dHit x.2.2 with
      | some key => if (c.dLine key).flag then s.cleanPost t (s.copyTag w) ks [key] else s
      | none => s
    else if n = 0x02C then s.cleanPost t (s.copyTag w) ks c.dirtyKeys
    else if n = 0x030 then s.patchIdxWrite t v
    else if n = 0x031 then s.patchDataWrite t v
    else s

/-- CSRR: AGTIME and AGEVENT are read by agreement in a group mode (R110, R428); the device count read by every copy at the same instant,
and an event word of its own, a fresh free value (log entry 3), stand for what the copies sample. -/
def execCsrr (w : Who) (g : Guard) (d : RegNo) (csr : BitVec 12) (s : State) : Out :=
  let n := csr.toNat
  if n = 0x008 then .next (s.agreedRead w g d 1 (fun _ => s.now) (fun s => s.timeAgreement w.t.val (fun _ => 0)))
  else if n = 0x009 ∧ s.executes w g then
    let (v, s) := s.fresh
    .next (s.agreedRead w g d 3 (fun _ => v) (fun s => s.valueAgreement w.t.val 3 (fun _ => v)))
  else .next (s.runThen w g false (fun s k c =>
    match csrTrap (csrLevels n).1 c.priv with
    | some t => Local.trapping c (trapOf t)
    | none => Local.toG c d (s.csrValue k c n) 1) fun _ _ s => s)

/-- CSRW (R110). -/
def execCsrw (w : Who) (g : Guard) (d : RegNo) (csr : BitVec 12) (s : State) : Out := .next (s.csrw w g d csr.toNat)

/-- PSR_WRITE: CSRW to PSR under the privilege and CC rules (R87). -/
def execPsrWrite (w : Who) (g : Guard) (d : RegNo) (s : State) : Out := .next (s.csrw w g d 0x000)

/-- ICINV_VA: the unlocked instruction-cache line of a virtual address is invalidated (R110, R127). -/
def execIcinvVa (w : Who) (g : Guard) (d : RegNo) (s : State) : Out := .next (s.csrw w g d 0x028)

/-- ICINV_ALL: every unlocked instruction-cache line is invalidated (R127). -/
def execIcinvAll (w : Who) (g : Guard) (d : RegNo) (s : State) : Out := .next (s.csrw w g d 0x029)

/-- DCINV_VA: the data-cache line of a virtual address is invalidated, dirty data discarded (R110). -/
def execDcinvVa (w : Who) (g : Guard) (d : RegNo) (s : State) : Out := .next (s.csrw w g d 0x02A)

/-- DCCLEAN_VA: the clean write of a dirty line is posted (R109, R110). -/
def execDccleanVa (w : Who) (g : Guard) (d : RegNo) (s : State) : Out := .next (s.csrw w g d 0x02B)

/-- DCCLEAN_ALL: the clean writes of all dirty lines are posted (R109, R110). -/
def execDccleanAll (w : Who) (g : Guard) (d : RegNo) (s : State) : Out := .next (s.csrw w g d 0x02C)

/-- DCINV_ALL: every data-cache line is invalidated (R110). -/
def execDcinvAll (w : Who) (g : Guard) (d : RegNo) (s : State) : Out := .next (s.csrw w g d 0x02D)

/-- IC_SWSET: sets the latch of source 192 + N in this copy (R134). -/
def execIcSwset (w : Who) (g : Guard) (d : RegNo) (s : State) : Out := .next (s.csrw w g d 0x128)

/-- PATCH_DATA_WRITE: a word or header of the patch table (R115 to R117). -/
def execPatchDataWrite (w : Who) (g : Guard) (d : RegNo) (s : State) : Out := .next (s.csrw w g d 0x031)

end Sys2Proof.Machine
end

