-- ==== Sys2Proof/Machine/DhpCmds.lean ====
section
/-!
DEFINITION. The command engine of the host protocol (R315 to R332): the checks on a request, sessions, responses, and the commands.
-/

namespace Sys2Proof.Machine

/-! ### Requests and responses (R316 to R318) -/

/-- A request as its header gives it (table "DHP header"). -/
structure DhpMsg where
  q     : DhpReq
  hdr   : List Byte
  opens : Bool
  cmd   : Nat
  sess  : Nat
  epoch : Nat
  seq   : Nat
  len   : Nat
  tag   : Nat
  pay   : List Byte

/-- The request in a frame. -/
def DhpReq.msg (q : DhpReq) : DhpMsg :=
  let d := q.data
  { q := q, hdr := d.take 16, opens := (byteAt d 1).testBit 1, cmd := byteAt d 2, sess := be d 4 2, epoch := be d 6 2, seq := be d 8 4,
    len := be d 12 2, tag := be d 16 16, pay := (d.drop 32).take (be d 12 2) }

/-- The frame is not one of the protocol: too short for its LENGTH, a payload above 8,208 bytes, or another VERSION (R317). -/
def DhpMsg.malformed (m : DhpMsg) : Bool :=
  decide (m.q.data.length < 32 + m.len) || decide (8208 < m.len) || decide (byteAt m.q.data 0 ≠ 1)

/-- An IPv4 and UDP datagram with valid checksums; the identification, service and lifetime bytes are not stated and are free values. -/
def State.udpWrap (s : State) (m : DhpReq) (ip port : Nat) (d : List Byte) : List Byte × State :=
  let (f, s) := s.fresh
  let free (i : Nat) : List Byte := toBe 1 (f.toNat / 256 ^ i % 256)
  let own := toBe 4 (s.fget Reg.dhpIpaddr Reg.dhpIpaddr_IPV4)
  let head (sum : Nat) : List Byte :=
    toBe 1 0x45 ++ free 0 ++ toBe 2 (28 + d.length) ++ free 1 ++ free 2 ++ toBe 2 0 ++ free 3 ++ toBe 1 17 ++ toBe 2 sum ++ own ++ toBe 4 ip
  let udp (sum : Nat) : List Byte := toBe 2 (s.fget Reg.dhpCfg Reg.dhpCfg_UDP_PORT) ++ toBe 2 port ++ toBe 2 (8 + d.length) ++ toBe 2 sum ++ d
  let pseudo := own ++ toBe 4 ip ++ toBe 2 17 ++ toBe 2 (8 + d.length)
  let c := inetSum (pseudo ++ udp 0)
  (head (inetSum (head 0)) ++ udp (if c = 0 then 0xFFFF else c), let _ := m; s)

/-- A DHP frame is addressed to the requester and queued on the response queue of the MAC of arrival; a full queue drops it (R316). -/
def State.dhpSend (s : State) (q : DhpReq) (d : List Byte) : State :=
  let p := q.mac / 4
  let txq := 8 * (q.mac % 4) + s.fget Reg.dhpCfg Reg.dhpCfg_TC
  let n := s.fget (Reg.ethTxqCfg p txq) Reg.ethTxqCfg_ENTRIES
  let t := s.fget (Reg.ethTxqTail p txq) Reg.ethTxqTail_TAIL
  if n = 0 ∨ (t + 1) % n = s.fget (Reg.ethTxqHead p txq) Reg.ethTxqHead_HEAD then s.fsat Reg.dhpStat Reg.dhpStat_TX_DROPS 1
  else
    let mac := s.fget Reg.dhpAddr Reg.dhpAddr_MAC / 8 * 8 + q.mac
    let l2 := toBe 6 q.src ++ toBe 6 mac ++ (match q.ctag with | some c => toBe 2 0x8100 ++ toBe 2 c | none => [])
    let (body, s) : List Byte × State := match q.udp with
      | none => (toBe 2 0x88B5 ++ d, s)
      | some (ip, port) => match s.udpWrap q ip port d with | (u, s) => (toBe 2 0x0800 ++ u, s)
    let f := l2 ++ body
    let f := f ++ List.replicate (60 - f.length) 0
    (s.fset (Reg.ethTxqTail p txq) Reg.ethTxqTail_TAIL ((t + 1) % n)).modDhp fun x => { x with txq := x.txq ++ [(p, txq, f)] }

/-- The session of a key. -/
def State.sess (s : State) (k : Nat) : Option Sess := SMap.get none s.dhp.sess k

/-- Replace the session of a key. -/
def State.setSess (s : State) (k : Nat) (x : Option Sess) : State := s.modDhp fun d => { d with sess := SMap.put none d.sess k x }

/-- A session's key K1 and K2 as one number. -/
def State.sessKey (s : State) (k : Nat) : Nat := match s.sess k with | some x => x.key | none => 0

/-- A response is held by its session, at most sixteen, and kept in the working area (R322, R331). -/
def State.hold (s : State) (k seq : Nat) (d : List Byte) : State :=
  match s.sess k with
  | none => s
  | some x =>
    let held := x.held ++ [(seq, d)]
    let s := s.setSess k (some { x with held := held.drop (held.length - 16), count := x.count + 1 })
    s.devWrite iDHP (paStream + s.fget Reg.dhpArea Reg.dhpArea_BASE * 4096 + (16 * k + x.count % 16) * 9216) d

/-- A response: STATUS and payload, tagged under `key` if there is one, and held by session `keep` if it is to be (R317, R318, R322). -/
def State.respond (s : State) (m : DhpMsg) (epoch status : Nat) (pay : List Byte) (key keep : Option Nat) : State :=
  let hdr := toBe 1 1 ++ toBe 1 (1 + 2 * b2n m.opens) ++ toBe 1 m.cmd ++ toBe 1 status ++ toBe 2 m.sess ++ toBe 2 epoch ++ toBe 4 m.seq ++
    toBe 2 pay.length ++ toBe 2 0
  let tag := match key with | some k => cmac k (hdr ++ pay) | none => 0
  let d := hdr ++ toBe 16 tag ++ pay
  let s := match keep with | some k => s.hold k m.seq d | none => s
  s.dhpSend m.q d

/-! ### Sessions (R320 to R322) -/

/-- A session closes: its held responses are dropped and the key's epoch is incremented (R321, R322). -/
def State.sessClose (s : State) (k : Nat) : State :=
  match s.sess k with
  | none => s
  | some _ => ((s.setSess k none).fset (Reg.dhpKey k) Reg.dhpKey_OPEN 0).fadd (Reg.dhpKey k) Reg.dhpKey_EPOCH 1

/-- A request whose tag fails is discarded, counted and raised (R318). -/
def State.authFail (s : State) : State := (s.fsat Reg.dhpStat Reg.dhpStat_AUTH_FAIL 1).raise 0x1CA

/-- The tag of a request verifies under a key. -/
def DhpMsg.verifies (m : DhpMsg) (key : Nat) : Bool := decide (m.tag = cmac key (m.hdr ++ m.pay))

/-- Half of a session key: CMAC of i, "DHP1" and the nonces under the host key (R320). -/
def deriveKey (host : Nat) (nh nd : List Byte) (i : Nat) : Nat :=
  cmac host (toBe 1 i ++ [0x44, 0x48, 0x50, 0x31].map (BitVec.ofNat 8) ++ nh ++ nd)

/-- An opening PING: its session names a valid key and its tag verifies under it, or it is discarded (R318, R320). -/
def State.sessOpen (s : State) (m : DhpMsg) : State :=
  let k := m.sess - 1
  let host := SMap.get 0 s.dhp.keys k
  if m.sess = 0 ∨ 8 < m.sess ∨ s.fget (Reg.dhpKey k) Reg.dhpKey_VALID = 0 ∨ !m.verifies host ∨ m.epoch ≠ 0 ∨ m.pay.length ≠ 16 then s.authFail
  else
    let (a, s) := s.fresh
    let (b, s) := s.fresh
    let nd := toBe 8 a.toNat ++ toBe 8 b.toNat
    let s := s.sessClose k
    let s := s.fadd (Reg.dhpKey k) Reg.dhpKey_EPOCH 1
    let key := deriveKey host m.pay nd 1 * 2 ^ 128 + deriveKey host m.pay nd 2
    let s := s.setSess k (some { key := key, held := [], count := 0, last := s.now.toNat })
    let s := (s.fset (Reg.dhpKey k) Reg.dhpKey_OPEN 1).fset (Reg.dhpKey k) Reg.dhpKey_HIGH_SEQ m.seq
    s.respond m (s.fget (Reg.dhpKey k) Reg.dhpKey_EPOCH) 0 nd (some host) (some k)

/-! ### The checks (R324 to R326) -/

/-- What a command answers: its status, its payload, the state after it, and what follows once the response is queued. -/
structure DhpAns where
  status : Nat
  pay    : List Byte
  st     : State
  post   : State → State

/-- An answer with nothing to follow. -/
def ans (status : Nat) (pay : List Byte) (s : State) : DhpAns := { status := status, pay := pay, st := s, post := fun s => s }

/-- The command codes that the protocol defines. -/
def cmdDefined (c : Nat) : Bool :=
  [0x01, 0x02, 0x03, 0x10, 0x11, 0x20, 0x21, 0x22, 0x23, 0x30, 0x31, 0x32, 0x40, 0x41, 0x42, 0x43, 0x44].contains c

/-- The right that a command needs: none, or a bit of DHP_KEYk.RIGHTS (R319). -/
def cmdRight (c : Nat) : Option Nat :=
  if c < 0x10 then none else if c < 0x30 then some 0 else if c < 0x40 then some 1 else some 2

/-- The operating states in which a command is legal (table "DHP commands"). -/
def cmdLegal (c op : Nat) : Bool :=
  if c < 0x10 then decide (2 ≤ op)
  else if c = 0x10 ∨ c = 0x11 ∨ c = 0x20 ∨ c = 0x44 then decide (op = 3) || decide (op = 4)
  else if c < 0x40 then decide (3 ≤ op)
  else if c = 0x40 then decide (op = 5) || decide (op = 6)
  else if c = 0x43 then decide (5 ≤ op)
  else decide (op = 7)

/-- The checks from "command defined" on, then the command (R324); `k` is the key of the session, none for a sessionless request. -/
def State.runCmd (s : State) (m : DhpMsg) (k : Option Nat) (h : State → DhpMsg → Nat → DhpAns) : State :=
  let granted := match cmdRight m.cmd, k with
    | none, _ => true
    | some b, some k => (s.fget (Reg.dhpKey k) Reg.dhpKey_RIGHTS).testBit b
    | some _, none => false
  let a := if !cmdDefined m.cmd then ans 5 [] s
    else if !granted then ans 8 [] s
    else if !cmdLegal m.cmd s.opstate then ans 4 (toBe 1 s.opstate) s
    else h s m (k.getD 0)
  a.post (a.st.respond m m.epoch a.status a.pay (k.map a.st.sessKey) k)

/-- A sequence number is newer than another (R322). -/
def seqNewer (x high : Nat) : Bool :=
  let d := (x + 2 ^ 32 - high) % 2 ^ 32
  decide (1 ≤ d) && decide (d ≤ 2 ^ 31)

/-- A tagged request of an open session: held response, new command, or stale (R322). -/
def State.runSession (s : State) (m : DhpMsg) (k : Nat) (x : Sess) (h : State → DhpMsg → Nat → DhpAns) : State :=
  let s := s.setSess k (some { x with last := s.now.toNat })
  match x.held.find? fun e => decide (e.1 = m.seq) with
  | some e => s.dhpSend m.q e.2
  | none =>
    if seqNewer m.seq (s.fget (Reg.dhpKey k) Reg.dhpKey_HIGH_SEQ) then
      let s := s.fset (Reg.dhpKey k) Reg.dhpKey_HIGH_SEQ m.seq
      if 16 ≤ s.fget (Reg.dhpKey k) Reg.dhpKey_OUTSTANDING then s.respond m m.epoch 9 [] (some x.key) (some k)
      else s.runCmd m (some k) h
    else s.respond m m.epoch 0xB [] (some x.key) none

/-- The engine takes a request through its checks in order (R324). -/
def State.runReq (s : State) (m : DhpMsg) (h : State → DhpMsg → Nat → DhpAns) : State :=
  if m.malformed then s.fsat Reg.dhpStat Reg.dhpStat_BAD_FRAME 1
  else if m.cmd = 1 ∧ m.opens then s.sessOpen m
  else if m.sess = 0 then (if m.tag = 0 then s.runCmd m none h else s.authFail)
  else if 8 < m.sess then s.respond m m.epoch 7 [] none none
  else
    match s.sess (m.sess - 1) with
    | none => s.respond m m.epoch 7 [] none none
    | some x =>
      if m.epoch ≠ s.fget (Reg.dhpKey (m.sess - 1)) Reg.dhpKey_EPOCH then s.fsat Reg.dhpStat Reg.dhpStat_EPOCH_DISCARD 1
      else if !m.verifies x.key then s.authFail
      else s.runSession m (m.sess - 1) x h

/-- The request that the engine takes next: the oldest CONTROLLED one, else the oldest (R323). -/
def State.engineHead (s : State) : Option DhpReq :=
  match s.dhp.queue.find? (·.ctrl) with
  | some q => some q
  | none => s.dhp.queue.head?

/-- The engine runs: from the end of blocking on (R325). -/
def State.engineRuns (s : State) : Bool :=
  decide (3 ≤ s.opstate) || (decide (s.opstate = opBOOT) && decide (6 ≤ s.fget Reg.sysBootStat Reg.sysBootStat_STEP))

/-- A request leaves the queue. -/
def State.dropReq (s : State) (q : DhpReq) : State := s.modDhp fun d => { d with queue := d.queue.erase q }

/-- The requests at the head that name no command are answered or discarded. -/
def State.flushBad (s : State) : Nat → State
  | 0 => s
  | n + 1 =>
    match s.engineHead with
    | none => s
    | some q =>
      let m := q.msg
      if m.malformed || !cmdDefined m.cmd then ((s.dropReq q).runReq m fun s _ _ => ans 5 [] s).flushBad n else s

/-- The engine takes the request at its head, if it names the command `code` (R323); it stands still while it has no tag (R43). -/
def State.dhpServe (s : State) (code : Nat) (h : State → DhpMsg → Nat → DhpAns) : State :=
  if !s.engineRuns || !s.tagFree iDHP.val then s
  else
    let s := s.flushBad 64
    match s.engineHead with
    | none => s
    | some q => if q.msg.cmd = code then (s.dropReq q).runReq q.msg h else s

/-! ### State and time (R326) -/

/-- PING: the payload is echoed; with OPEN it opens a session (R320, R326). -/
def execPing (s : State) : Out := .next (s.dhpServe 0x01 fun s m _ => ans 0 m.pay s)

/-- GET_STATE: operating state, life cycle, twin role, SAFE_ASSERTED, first fault, nanoseconds since triad release; before a release the last is a free
value (R326). -/
def execGetState (s : State) : Out :=
  .next (s.dhpServe 0x02 fun s m _ =>
    if !m.pay.isEmpty then ans 6 [] s
    else
      let (t, s) : Word × State := match s.boot.release with
        | some r => (s.now - BitVec.ofNat 64 r, s)
        | none => s.fresh
      ans 0 (toBe 1 s.opstate ++ toBe 1 s.lcNow ++ toBe 1 s.role ++ toBe 1 (s.fget Reg.fcruStatus Reg.fcruStatus_SAFE_ASSERTED) ++
        toBe 8 (s.rd Reg.fcruFirst).toNat ++ toBe 8 t.toNat) s)

/-- TIME_QUERY: the request's ingress timestamp, the device time and the time status (R326). -/
def execTimeQuery (s : State) : Out :=
  .next (s.dhpServe 0x03 fun s m _ =>
    if !m.pay.isEmpty then ans 6 [] s
    else
      let n := s.stampAt 0
      ans 0 (toBe 12 (Config.stampWire m.q.ts.sec m.q.ts.ns m.q.ts.q) ++ toBe 12 (Config.stampWire n.sec n.ns n.q) ++
        toBe 4 (bits s.timeStatusNow 0 32)) s)

/-! ### Admission (R327) -/

/-- ADMIT: an entry is requested under R307 and R308; the answer is its code (R327). -/
def execAdmit (s : State) : Out :=
  .next (s.dhpServe 0x10 fun s m _ =>
    let n := be m.pay 0 2
    if m.pay.length ≠ 26 ∨ 1024 ≤ n then ans 6 [] s
    else
      let s := (List.range 3).foldl (fun (s : State) i => s.wr (Reg.admReqW i) (BitVec.ofNat 64 (be m.pay (2 + 8 * i) 8))) s
      let s := s.admRequest 1 n
      ans 0 (toBe 1 (s.fget Reg.admReqStatus Reg.admReqStatus_CODE)) s)

/-- WITHDRAW: an entry is withdrawn under R309; the answer is its code (R327). -/
def execWithdraw (s : State) : Out :=
  .next (s.dhpServe 0x11 fun s m _ =>
    let n := be m.pay 0 2
    if m.pay.length ≠ 2 ∨ 1024 ≤ n then ans 6 [] s
    else
      let s := s.admRequest 2 n
      ans 0 (toBe 1 (s.fget Reg.admReqStatus Reg.admReqStatus_CODE)) s)

/-! ### Jobs (R328 to R332) -/

/-- The lowest FREE slot. -/
def State.freeSlot (s : State) : Option Nat := (List.range 64).find? fun n => decide (s.slotState n = 0)

/-- The job record (table in R328). -/
def jobRecord (handle j k len accept deadline tag : Nat) (phase : Bool) : List Byte :=
  toLe 2 handle ++ toLe 1 j ++ toLe 1 k ++ toLe 4 len ++ toLe 8 accept ++ toLe 8 deadline ++ toLe 2 tag ++ List.replicate 37 0 ++ toLe 1 (b2n phase)

/-- A job is queued in a free slot (R328). -/
def State.submit (s : State) (m : DhpMsg) (k j slot : Nat) : DhpAns :=
  let cfg := s.rd (Reg.dhpJobtCfg j)
  let r := Reg.dhpJobqPtr j
  let prod := s.fget r Reg.dhpJobqPtr_PROD
  let depth := max 1 (s.fget (Reg.dhpJobtCfg j) Reg.dhpJobtCfg_QDEPTH)
  let deadline := (m.q.ts.count + max 1 (bits cfg 32 32) * 1000) % 2 ^ 64
  let h := s.slotHandle slot
  let st := s.rd (Reg.dhpSlotStat slot)
  let st := setBits (setBits (setBits (setBits (setBits st 0 3 1) 13 5 j) 18 3 k) 21 16 0) 37 8 0
  let s := ((s.wr (Reg.dhpSlotStat slot) st).wr (Reg.dhpSlotProg slot) 0).wr (Reg.dhpSlotDeadline slot) (BitVec.ofNat 64 deadline)
  let size := 64 + 64 * max 1 (s.fget (Reg.dhpJobtCfg j) Reg.dhpJobtCfg_IN_MAX)
  let flip := SMap.get false s.dhp.flip j
  let pa := s.fget (Reg.dhpJobtQbase j) Reg.dhpJobtQbase_BASE * 64 + prod * size
  let s := s.devWrite iDHP pa (jobRecord h j k (be m.pay 4 4) m.q.ts.count deadline (be m.pay 2 2) (!flip) ++ m.pay.drop 8)
  let next := (prod + 1) % depth
  let s := (s.fset r Reg.dhpJobqPtr_PROD next).fadd r Reg.dhpJobqPtr_JOBS 1
  let s := s.modDhp fun d => { d with
    flip := if next = 0 then SMap.put false d.flip j (!flip) else d.flip
    held := SMap.put 0 d.held j (SMap.get 0 d.held j + 1) }
  ans 0 (toBe 2 h ++ toBe 8 deadline) (s.irqTriad (bits cfg 0 4) (64 + bits cfg 4 6))

/-- SUBMIT_JOB: a job is queued and takes a result slot (R328). -/
def execSubmitJob (s : State) : Out :=
  .next (s.dhpServe 0x20 fun s m k =>
    let j := byteAt m.pay 0
    let len := be m.pay 4 4
    let own := s.fget (Reg.dhpJobtCfg j) Reg.dhpJobtCfg_OWNER
    if m.pay.length ≠ 8 + len ∨ m.pay.length < 8 ∨ 32 ≤ j ∨ s.fget (Reg.dhpJobtCfg j) Reg.dhpJobtCfg_VALID = 0 ∨
        64 * max 1 (s.fget (Reg.dhpJobtCfg j) Reg.dhpJobtCfg_IN_MAX) < len then ans 6 [] s
    else if s.tri own Reg.triStatus_STOPPED = 1 ∨ s.tri own Reg.triStatus_DBG_BROKEN = 1 then ans 0xF [] s
    else
      match s.freeSlot with
      | none => ans 0xA [] s
      | some slot =>
        if max 1 (s.fget (Reg.dhpJobtCfg j) Reg.dhpJobtCfg_QDEPTH) ≤ SMap.get 0 s.dhp.held j then ans 9 [] s else s.submit m k j slot)

/-- The slot that a handle names, if the handle is not stale (R329). -/
def State.slotOf (s : State) (h k : Nat) : Option Nat :=
  let n := h / 1024
  if s.slotHandle n = h ∧ s.fget (Reg.dhpSlotStat n) Reg.dhpSlotStat_KEY = k then some n else none

/-- The progress of a slot: position and per mille, from its register or from the stream that carries its handle (R332, R238). -/
def State.slotProgress (s : State) (n : Nat) : Nat × Nat :=
  let own := (s.fget (Reg.dhpSlotProg n) Reg.dhpSlotProg_POS, min 1000 (s.fget (Reg.dhpSlotProg n) Reg.dhpSlotProg_PERMILLE))
  if s.fget (Reg.dhpSlotProg n) Reg.dhpSlotProg_SRC = 0 then own
  else
    let c := s.fget (Reg.dhpJobtCfg (s.fget (Reg.dhpSlotStat n) Reg.dhpSlotStat_JOBT)) Reg.dhpJobtCfg_PROG_CTX
    if s.fget (Reg.fulCStrmStat c) Reg.fulCStrmStat_TAG ≠ s.slotHandle n then own
    else
      let done := s.fget (Reg.fulCStrmPos c) Reg.fulCStrmPos_DONE
      let all := s.fget (Reg.fulCStrmCnt c) Reg.fulCStrmCnt_COUNT_M1 + 1
      (done, if s.fget (Reg.fulCStrmStat c) Reg.fulCStrmStat_PHASE = 4 then 1000 else done * 1000 / all)

/-- Bytes that a unit reads for a response; a part that reads with an error is free values (log entry 27). -/
def State.readFree (s : State) (init : Fin 30) (pa len : Nat) : List Byte × State :=
  (granules pa len).foldl (fun (x : List Byte × State) (a, n) =>
    match x.2.devRead init a n with
    | (some d, s) => (x.1 ++ d, s)
    | (none, s) => (List.range n).foldl (fun (x : List Byte × State) _ =>
        let (f, s) := x.2.fresh
        (x.1 ++ [f.setWidth 8], s)) (x.1, s)) ([], s)

/-- The address of a slot's result buffer, in the working area after the held responses (R330, R331, DHP_AREA). -/
def State.resultBuf (s : State) (n : Nat) : Nat :=
  paStream + s.fget Reg.dhpArea Reg.dhpArea_BASE * 4096 + 1179648 + n * (max 1 (s.fget Reg.dhpArea Reg.dhpArea_SLOT_KIB) * 1024)

/-- A result's answer: the bytes read, and the slot READ once they are (R329, R330). -/
def resultOut (m : DhpMsg) (n status len off : Nat) (x : List Byte × State) : DhpAns :=
  let s := if x.2.slotState n = 2 then x.2.setSlot n 3 else x.2
  ans status (toBe 2 (be m.pay 0 2) ++ toBe 1 (s.fget (Reg.dhpSlotStat n) Reg.dhpSlotStat_RSTATUS) ++ toBe 1 0 ++ toBe 4 len ++ toBe 4 off ++ x.1) s

/-- The result of a slot, from its buffer (R330, R331). -/
def State.resultAns (s : State) (m : DhpMsg) (n status : Nat) : DhpAns :=
  let len := s.fget (Reg.dhpSlotStat n) Reg.dhpSlotStat_LEN
  let off := be m.pay 4 4
  if len < off then ans 6 [] s
  else resultOut m n status len off (s.readFree iDHP (s.resultBuf n + off) (min (min (be m.pay 8 2) 8192) (len - off)))

/-- GET_RESULT: by the state of the slot (R329, R330). -/
def execGetResult (s : State) : Out :=
  .next (s.dhpServe 0x21 fun s m k =>
    if m.pay.length ≠ 10 then ans 6 [] s
    else
      match s.slotOf (be m.pay 0 2) k with
      | none => ans 3 [] s
      | some n =>
        match s.slotState n with
        | 1 => let p := s.slotProgress n; ans 2 (toBe 8 p.1 ++ toBe 2 p.2) s
        | 2 => s.resultAns m n 0
        | 3 => s.resultAns m n 1
        | 4 => ans 0xC [] s
        | _ => ans 3 [] s)

/-- RELEASE_RESULT: a PENDING slot is cancelled, a finished one freed (R329). -/
def execReleaseResult (s : State) : Out :=
  .next (s.dhpServe 0x22 fun s m k =>
    if m.pay.length ≠ 2 then ans 6 [] s
    else
      match s.slotOf (be m.pay 0 2) k with
      | none => ans 3 [] s
      | some n =>
        match s.slotState n with
        | 1 => ans 0 [] (s.setSlot n 5)
        | 2 | 3 | 4 => ans 0 [] (s.slotFree n)
        | _ => ans 3 [] s)

/-- GET_PROGRESS: a job's state and progress, the recorder's unload, an image write or a code write; what STATE means for the writes is not stated
and is a free value (R332, R340, R400, R401). -/
def execGetProgress (s : State) : Out :=
  .next (s.dhpServe 0x23 fun s m k =>
    let put (st pos pm : Nat) (s : State) : DhpAns := ans 0 (toBe 1 st ++ toBe 8 pos ++ toBe 2 pm) s
    if m.pay.length ≠ 3 then ans 6 [] s
    else
      match byteAt m.pay 0 with
      | 0 =>
        (match s.slotOf (be m.pay 1 2) k with
        | none => ans 3 [] s
        | some n => let p := s.slotProgress n; put (s.slotState n) p.1 p.2 s)
      | 1 => put s.recState (s.fget Reg.recUnload Reg.recUnload_UNLOADED) (s.fget Reg.recUnload Reg.recUnload_PERMILLE) s
      | 2 => let (f, s) := s.fresh; put (f.toNat % 256) (s.fget Reg.nvmProg Reg.nvmProg_WRITTEN) (s.fget Reg.nvmProg Reg.nvmProg_PERMILLE) s
      | 3 =>
        let (f, s) := s.fresh
        put (f.toNat % 256) (s.fget Reg.nvmCodeProg Reg.nvmCodeProg_WRITTEN) (s.fget Reg.nvmCodeProg Reg.nvmCodeProg_PERMILLE) s
      | _ => ans 6 [] s)

/-! ### The recorder (R337 to R340) -/

/-- REC_FREEZE: a trigger; OK in every recorder state (R337). -/
def execRecFreeze (s : State) : Out :=
  .next (s.dhpServe 0x30 fun s m _ => if !m.pay.isEmpty then ans 6 [] s else ans 0 [] (s.recTrigger 2 0))

/-- The address of an offset of the frozen span (R338). -/
def State.spanAddr (s : State) (o : Nat) : Nat :=
  let pre := s.fget Reg.recFrzLen Reg.recFrzLen_PRE_LEN
  if o < pre then
    s.fget (Reg.recBase 0) Reg.recBase_BASE * 2 ^ 21 + (s.fget Reg.recFrzSpan Reg.recFrzSpan_SPAN_START + o) % s.recBytes 0
  else s.fget (Reg.recBase 1) Reg.recBase_BASE * 2 ^ 21 + (o - pre)

/-- A part of the frozen span, and the unload position it moves (R339, R340). -/
def State.spanRead (s : State) (off len : Nat) : DhpAns :=
  let total := s.fget Reg.recFrzLen Reg.recFrzLen_PRE_LEN + s.fget Reg.recFrzPost Reg.recFrzPost_POST_LEN
  if total ≤ off then ans 6 [] s
  else
    let n := min len (total - off)
    let (d, s) := (List.range (n / 32)).foldl (fun (x : List Byte × State) i =>
      match x.2.readFree iDHP (s.spanAddr (off + 32 * i)) 32 with
      | (b, s) => (x.1 ++ b, s)) ([], s)
    let u := s.fget Reg.recUnload Reg.recUnload_UNLOADED
    let s := if off ≤ u ∧ u < off + n then s.wr Reg.recUnload (BitVec.ofNat 64 (off + n + 2 ^ 42 * ((off + n) * 1000 / total))) else s
    ans 0 (toBe 8 off ++ toBe 2 n ++ d) s

/-- REC_READ: the frozen span from an offset (R339). -/
def execRecRead (s : State) : Out :=
  .next (s.dhpServe 0x31 fun s m _ =>
    let off := be m.pay 0 8
    let len := be m.pay 8 2
    if m.pay.length ≠ 10 ∨ off % 32 ≠ 0 ∨ len % 32 ≠ 0 ∨ len < 32 ∨ 8192 < len then ans 6 [] s
    else if s.recState ≠ 3 then ans 0xD [] s
    else s.spanRead off len)

/-- REC_RELEASE: the frozen span is released and recording resumes (R339). -/
def execRecRelease (s : State) : Out :=
  .next (s.dhpServe 0x32 fun s m _ =>
    if !m.pay.isEmpty then ans 6 [] s else if s.recState ≠ 3 then ans 0xD [] s else ans 0 [] s.recRelease)

/-! ### Maintenance (R327, R400 to R402) -/

/-- ENTER_MAINT: SAFE_N low, triads, contexts and egress stopped, the recorder frozen (R327). -/
def execEnterMaint (s : State) : Out :=
  .next (s.dhpServe 0x40 fun s m _ =>
    if !m.pay.isEmpty then ans 6 [] s
    else
      let s := ((s.assertPins 0xF).setOp opMAINT).stopAll
      let s := (s.modEth fun e => { e with stopped := true }).recTrigger 5 0
      let s := (s.wr Reg.nvmProg 0).wr Reg.nvmCodeProg 0
      ans 0 [] { s with nvm := { s.nvm with erased := [], units := [] } })

/-- Programming is in progress (R402). -/
def State.programming (s : State) : Bool := s.nvm.prog.isSome || s.nvm.code.isSome

/-- IMAGE_WRITE: data for the flash is buffered (R400, R402). -/
def execImageWrite (s : State) : Out :=
  .next (s.dhpServe 0x41 fun s m _ =>
    let off := be m.pay 0 4
    let d := m.pay.drop 4
    if m.pay.length < 4 ∨ off % 256 ≠ 0 ∨ d.length % 256 ≠ 0 ∨ d.length < 256 ∨ 8192 < d.length ∨ 2 ^ 26 < off + d.length then ans 6 [] s
    else if s.programming then ans 9 [] s
    else
      let s := { s with nvm := { s.nvm with prog := some (off, d) } }
      ans 0 [] ((s.fset Reg.nvmProg Reg.nvmProg_BUSY 1).fset Reg.nvmStatus Reg.nvmStatus_PINS 2))

/-- CODE_WRITE: data for the code store is buffered (R401, R402). -/
def execCodeWrite (s : State) : Out :=
  .next (s.dhpServe 0x42 fun s m _ =>
    let off := be m.pay 0 4
    let d := m.pay.drop 4
    if m.pay.length < 4 ∨ off % 32 ≠ 0 ∨ d.length % 32 ≠ 0 ∨ d.length < 32 ∨ 8192 < d.length ∨ 2 ^ 25 < off + d.length then ans 6 [] s
    else if s.programming then ans 9 [] s
    else
      let s := { s with nvm := { s.nvm with code := some (off, d) } }
      ans 0 [] ((s.fset Reg.nvmCodeProg Reg.nvmCodeProg_BUSY 1).fset Reg.nvmCodeProg Reg.nvmCodeProg_PERMILLE 0))

/-- A reset falls due with the response just queued, the last of those in its queue; `before` is how many responses waited before it. A response
that found no room leaves nothing to wait for (log 180), and a reset that is due already keeps its own. -/
def State.resetAfter (before : Nat) (s : State) : State :=
  s.modDhp fun d =>
    if d.resetDue then d
    else
      let resp := if before < d.txq.length then
          d.txq.getLast?.map fun x => (x.1, x.2.1, (d.txq.filter fun y => decide (y.1 = x.1) && decide (y.2.1 = x.2.1)).length)
        else none
      { d with resetDue := true, resetResp := resp }

/-- RESET_REQ: OK, and the reset once the response has left the port (R327, R402). -/
def execResetReq (s : State) : Out :=
  .next (s.dhpServe 0x43 fun s m _ =>
    if !m.pay.isEmpty then ans 6 [] s
    else if s.programming then ans 9 [] s
    else { ans 0 [] s with post := State.resetAfter s.dhp.txq.length })

/-- HANDOVER: OK first, then the hand-over, if a twin is ready for it (R22, R327). -/
def execHandoverCommand (s : State) : Out :=
  .next (s.dhpServe 0x44 fun s m _ =>
    if !m.pay.isEmpty then ans 6 [] s
    else if !s.twinReady then ans 0xE [] s
    else { ans 0 [] s with post := State.handover })

/-- RESET_REQ_RESET: the response to RESET_REQ has left the port, and the reset follows with the effects of DEVICE_RESET (R327). -/
def execResetReqReset (s : State) : Out :=
  .next (if s.dhp.resetDue && s.dhp.resetResp.isNone then s.internalReset 4 else s)

/-! ### Time and owners -/

/-- DHP_SESSION_CLOSE: no authenticated request has arrived on a session for IDLE_MS (R321). -/
def execDhpSessionClose (k : Fin 8) (s : State) : Out :=
  match s.sess k with
  | some x =>
    if x.last + max 1 (s.fget Reg.dhpCfg Reg.dhpCfg_IDLE_MS) * 1000000 ≤ s.now.toNat then .next (s.sessClose k) else .next s
  | none => .next s

/-- JOB_DEADLINE_EXPIRE: a slot's deadline has passed: PENDING expires and is counted, CANCELLED is freed (R329). -/
def execJobDeadlineExpire (n : Fin 64) (s : State) : Out :=
  if (s.rd (Reg.dhpSlotDeadline n)).toNat < s.now.toNat then
    match s.slotState n with
    | 1 => .next ((s.setSlot n 4).fsat Reg.dhpSlotCnt Reg.dhpSlotCnt_EXPIRED 1)
    | 5 => .next (s.slotFree n)
    | _ => .next s
  else .next s

/-- DHP_SLOT_DONE: a write of DHP_SLOTs_DONE (R329, R331). -/
def execDhpSlotDone (rq : Rq) (n : Fin 64) (v : Word) (s : State) : Out := .next (s.gatedWrite rq (Reg.dhpSlotDone n) v)

/-- DHP_SLOT_PROG_WRITE: a write of DHP_SLOTs_PROG (R332). -/
def execDhpSlotProgWrite (rq : Rq) (n : Fin 64) (v : Word) (s : State) : Out := .next (s.gatedWrite rq (Reg.dhpSlotProg n) v)

/-- DHP_JOBQ_CONS_WRITE: the owner returns entries of a job queue (R328). -/
def execDhpJobqConsWrite (rq : Rq) (j : Fin 32) (cons : BitVec 8) (s : State) : Out :=
  .next (s.gatedWrite rq (Reg.dhpJobqPtr j) (cons.setWidth 64 <<< 8))

end Sys2Proof.Machine
end

