-- ==== Sys2Proof/Machine/Words.lean ====
section
/-!
DEFINITION. The instruction that a word of the Bruavo instruction set spells (R88 to R90, R94, R95): the command it stands for, for the copies that
execute it, or none where the encoding is undefined.
-/

namespace Sys2Proof.Machine

/-- A field that must be 0 (R90). -/
def must (ok : Bool) (i : Instr) : Option Instr := if ok then some i else none

/-- Class ALU: fn [26:22], S [27] (R94). -/
def decAlu (w : Who) (g : Guard) (x : BitVec 32) : Option Instr :=
  let sf := decide (wbits x 27 1 = 1)
  let d := wD x
  let a := wA x
  let b := wB x
  let bz := decide (b = 0)
  match wbits x 22 5 with
  | 0x00 => some (.addAdcSubSbc w g .add sf d a b) | 0x01 => some (.addAdcSubSbc w g .adc sf d a b)
  | 0x02 => some (.addAdcSubSbc w g .sub sf d a b) | 0x03 => some (.addAdcSubSbc w g .sbc sf d a b)
  | 0x04 => some (.andOrXorAndnOrn w g .and sf d a b) | 0x05 => some (.andOrXorAndnOrn w g .or sf d a b)
  | 0x06 => some (.andOrXorAndnOrn w g .xor sf d a b) | 0x07 => some (.andOrXorAndnOrn w g .andn sf d a b)
  | 0x08 => some (.andOrXorAndnOrn w g .orn sf d a b)
  | 0x09 => some (.sllSrlSraRor w g .sll sf d a b) | 0x0A => some (.sllSrlSraRor w g .srl sf d a b)
  | 0x0B => some (.sllSrlSraRor w g .sra sf d a b) | 0x0C => some (.sllSrlSraRor w g .ror sf d a b)
  | 0x0D => some (.minMaxMinuMaxu w g .min sf d a b) | 0x0E => some (.minMaxMinuMaxu w g .max sf d a b)
  | 0x0F => some (.minMaxMinuMaxu w g .minu sf d a b) | 0x10 => some (.minMaxMinuMaxu w g .maxu sf d a b)
  | 0x11 => must bz (.sextZext w g .sextb sf d a b) | 0x12 => must bz (.sextZext w g .sexth sf d a b)
  | 0x13 => must bz (.sextZext w g .sextw sf d a b) | 0x14 => must bz (.sextZext w g .zextb sf d a b)
  | 0x15 => must bz (.sextZext w g .zexth sf d a b) | 0x16 => must bz (.sextZext w g .zextw sf d a b)
  | 0x17 => must bz (.clzCtzPopcRev w g .clz sf d a b) | 0x18 => must bz (.clzCtzPopcRev w g .ctz sf d a b)
  | 0x19 => must bz (.clzCtzPopcRev w g .popc sf d a b) | 0x1A => must bz (.clzCtzPopcRev w g .rev sf d a b)
  | 0x1B => some (.sltSltu w g false sf d a b) | 0x1C => some (.sltSltu w g true sf d a b)
  | _ => none

/-- Classes SHI, CMPI and MULDIV (R94). -/
def decShi (w : Who) (g : Guard) (x : BitVec 32) : Option Instr :=
  let op : ShiftOp := match wbits x 23 2 with | 0 => .sll | 1 => .srl | 2 => .sra | _ => .ror
  must (decide (wbits x 26 2 = 0))
    (.shi w g op (decide (wbits x 25 1 = 1)) (wD x) (wA x) (BitVec.ofNat 6 (wbits x 17 6)) (BitVec.ofNat 2 (wbits x 26 2)))

def decMul (w : Who) (g : Guard) (x : BitVec 32) : Option Instr :=
  match wFn x with
  | 0 => some (.mulMulhMulhu w g .mul (wD x) (wA x) (wB x)) | 1 => some (.mulMulhMulhu w g .mulh (wD x) (wA x) (wB x))
  | 2 => some (.mulMulhMulhu w g .mulhu (wD x) (wA x) (wB x))
  | 4 => some (.divDivuRemRemu w g .div (wD x) (wA x) (wB x)) | 5 => some (.divDivuRemRemu w g .divu (wD x) (wA x) (wB x))
  | 6 => some (.divDivuRemRemu w g .rem (wD x) (wA x) (wB x)) | 7 => some (.divDivuRemRemu w g .remu (wD x) (wA x) (wB x))
  | _ => none

/-- Class FPOP: fn [26:22], P [27] (R94). -/
def decFpop (w : Who) (g : Guard) (x : BitVec 32) : Option Instr :=
  let p := decide (wbits x 27 1 = 1)
  let d := wD x
  let a := wA x
  let b := wB x
  let bz := decide (b = 0)
  match wbits x 22 5 with
  | 0x00 => some (.faddFsubFmul w g .fadd p d a b) | 0x01 => some (.faddFsubFmul w g .fsub p d a b)
  | 0x02 => some (.faddFsubFmul w g .fmul p d a b) | 0x03 => some (.fdiv w g p d a b)
  | 0x04 => must bz (.fsqrt w g p d a b)
  | 0x05 => some (.fminFmaxFnegFabs w g .fmin p d a b) | 0x06 => some (.fminFmaxFnegFabs w g .fmax p d a b)
  | 0x07 => must bz (.fminFmaxFnegFabs w g .fneg p d a b) | 0x08 => must bz (.fminFmaxFnegFabs w g .fabs p d a b)
  | 0x09 => must (decide (d = 0)) (.fcmp w g p d a b)
  | 0x0A => must bz (.fcvt w g .toInt p d a b) | 0x0B => must bz (.fcvt w g .fromInt p d a b) | 0x0C => must bz (.fcvt w g .other p d a b)
  | 0x0D => must bz (.fmvGfFg w g false d a b) | 0x0E => must bz (.fmvGfFg w g true d a b)
  | _ => none

/-- Class MEMX: size [23:22], kind [25:24], scale [26], f register [27] (R90, R94). -/
def decMemx (w : Who) (g : Guard) (x : BitVec 32) : Option Instr :=
  let k := wbits x 24 2
  let size := wFSize x
  let fr := decide (wbits x 27 1 = 1)
  must (!(decide (k = 3) || (decide (k = 1) && (decide (size = 3) || fr)) || (fr && decide (size.toNat < 2))))
    (.memxLoadStore w g (BitVec.ofNat 2 k) size (decide (wbits x 26 1 = 1)) fr (wD x) (wA x) (wB x))

/-- Class ATOM: size [23:22], which must be 2 or 3, fn [26:24], and [27], which must be 0 (R90, R94). -/
def decAtom (w : Who) (g : Guard) (x : BitVec 32) : Option Instr :=
  let z := decide (wbits x 27 1 = 1)
  let size := wFSize x
  let ok := decide (2 ≤ size.toNat) && !z
  match wbits x 24 3 with
  | 0 => must ok (.ll w g size z (wD x) (wA x))
  | 1 => must ok (.sc w g size z (wD x) (wA x) (wB x))
  | 2 => must ok (.amoswap w g size z (wD x) (wA x) (wB x))
  | 3 => must ok (.amoadd w g size z (wD x) (wA x) (wB x))
  | 4 => must ok (.amocas w g size z (wD x) (wA x) (wB x))
  | _ => none

/-- A CSRW, by the number it names: those of an effect of their own are rows of their own. -/
def decCsrw (w : Who) (g : Guard) (d : RegNo) (n : BitVec 12) : Instr :=
  if n = 0x000 then .psrWrite w g d else if n = 0x028 then .icinvVa w g d else if n = 0x029 then .icinvAll w g d
  else if n = 0x02A then .dcinvVa w g d else if n = 0x02B then .dccleanVa w g d else if n = 0x02C then .dccleanAll w g d
  else if n = 0x02D then .dcinvAll w g d else if n = 0x031 then .patchDataWrite w g d else if n = 0x128 then .icSwset w g d
  else .csrw w g d n

/-- Class SYS (R94). -/
def decSys (w : Who) (g : Guard) (x : BitVec 32) : Option Instr :=
  let d := wD x
  let a := wA x
  let b := wB x
  let az := decide (a = 0)
  let bz := decide (b = 0)
  match wFn x with
  | 0x00 => must (decide (d = 0)) (.trap w g d (BitVec.ofNat 10 (wbits x 12 10)))
  | 0x01 => must (decide (d = 0) && az && bz) (.eret w g d a b)
  | 0x02 => some (.wfi w g)
  | 0x03 => must (az && bz) (.msync w g d a b)
  | 0x04 => some (.ibar w g) | 0x05 => some (.dbar w g) | 0x06 => some (.tlbwr w g d a b)
  | 0x07 => must bz (.tlbrdT w g d a b) | 0x08 => must bz (.tlbrdP w g d a b)
  | 0x09 => some (.tlbinvVa w g a b) | 0x0A => some (.tlbinvAsid w g a) | 0x0B => some (.tlbinvAll w g) | 0x0C => some (.tlbinvIdx w g a)
  | _ => none

/-- The instruction that a 32-bit word spells (R89, R90, R94). -/
def decode32 (w : Who) (x : BitVec 32) : Option Instr :=
  let g := Guard.c32 (wCond x)
  let d := wD x
  let a := wA x
  let immI (op : ImmOp) : Option Instr := some (.addiAndiOriXori w g op d a ((wImm11 x).signExtend 13))
  if x.toNat % 4 ≠ 3 ∨ wCond x = 0xF then none
  else
    match wClass x with
    | 0 => decAlu w g x
    | 1 => immI .addi | 2 => immI .andi | 3 => immI .ori | 4 => immI .xori
    | 5 => decShi w g x
    | 6 => must (decide (d = 0)) (.cmpi w g d a (wImm11 x))
    | 7 => some (.movi w g d (wImm16 x)) | 8 => some (.movh w g d (wImm16 x))
    | 9 => decMul w g x
    | 10 => decFpop w g x
    | 11 => some (.fmaddFmsub w g false (decide (wbits x 27 1 = 1)) d a (wB x) (BitVec.ofNat 5 (wbits x 22 5)))
    | 12 => some (.fmaddFmsub w g true (decide (wbits x 27 1 = 1)) d a (wB x) (BitVec.ofNat 5 (wbits x 22 5)))
    | 13 => some (.ldLdu w g false (wMSize x) d a (wImm9 x))
    | 14 => must (decide (wMSize x ≠ 3)) (.ldLdu w g true (wMSize x) d a (wImm9 x))
    | 15 => some (.st w g (wMSize x) d a (wImm9 x))
    | 16 => must (decide (2 ≤ (wMSize x).toNat)) (.fldFst w g false (wMSize x) d a (wImm9 x))
    | 17 => must (decide (2 ≤ (wMSize x).toNat)) (.fldFst w g true (wMSize x) d a (wImm9 x))
    | 18 => decMemx w g x
    | 19 => decAtom w g x
    | 20 => some (.b w g (BitVec.ofNat 21 (wbits x 7 21)))
    | 21 => some (.bl w g (BitVec.ofNat 21 (wbits x 7 21)))
    | 22 => some (.jalr w g d a (wImm11 x))
    | 23 =>
      let n := BitVec.ofNat 12 (wbits x 12 12)
      match wbits x 24 4 with
      | 0 => some (.csrr w g d n)
      | 1 => some (decCsrw w g d n)
      | _ => none
    | 24 => decSys w g x
    | 30 => some (.cop w x)
    | 31 => must (decide (wbits x 26 2 = 0)) (.patch w x)
    | _ => none

/-- The instruction that a 16-bit halfword spells (R90, R95): each form is the 32-bit instruction named, under the carried condition K. -/
def decode16 (w : Who) (h : BitVec 16) : Option Instr :=
  let n := h.toNat
  let g := Guard.c16 (h.getLsbD 15)
  let x : RegNo := BitVec.ofNat 5 (n / 2 ^ 5)
  let y : RegNo := BitVec.ofNat 5 (n / 2 ^ 10)
  let op := n / 4 % 8
  let off : BitVec 9 := BitVec.ofNat 9 (n / 2 ^ 10 % 32)
  let mem : Option Instr := match op with
    | 0 => some (.ldLdu w g false 2 x 30 off) | 1 => some (.ldLdu w g true 2 x 30 off) | 2 => some (.ldLdu w g false 3 x 30 off)
    | 3 => some (.st w g 2 x 30 off) | 4 => some (.st w g 3 x 30 off)
    | 5 => some (.fldFst w g false 3 x 30 off) | 6 => some (.fldFst w g true 3 x 30 off)
    | _ => none
  if n = 0 then none
  else
    match n % 4 with
    | 0 =>
      (match op with
       | 0 => some (.addAdcSubSbc w g .add false x y 0)
       | 1 => some (.addiAndiOriXori w g .addi x x (y.signExtend 13))
       | 2 => some (.addAdcSubSbc w g .sub true 0 x y)
       | 3 => some (.cmpi w g 0 x (y.signExtend 11))
       | 4 => some (.addAdcSubSbc w g .add false x x y)
       | 5 => some (.addAdcSubSbc w g .sub false x x y)
       | 6 => some (.andOrXorAndnOrn w g .and false x x y)
       | _ => some (.movi w g x (y.signExtend 16)))
    | 1 => mem
    | 2 =>
      if op % 2 = 0 then some (.b w g ((BitVec.ofNat 12 (n / 2 ^ 3)).signExtend 21))
      else
        match op with
        | 1 => must (decide (y = 0)) (.jalr w g 0 x 0)
        | 3 => must (decide (y = 0)) (.jalr w g 31 x 0)
        | 5 => some (.addiAndiOriXori w g .addi 30 30 ((BitVec.ofNat 10 (n / 2 ^ 5)).signExtend 13 <<< 3))
        | _ => none
    | _ => none

/-- Copy A of triad 0 stands for whoever executes, where only the encoding counts. -/
def anyone : Who := { t := 0, c := .a }

/-- A 16-bit halfword is a defined instruction (R90, R95). -/
def defined16 (h : Nat) : Bool := (decode16 anyone (BitVec.ofNat 16 h)).isSome

/-- A 32-bit word is a defined instruction (R90, R94). -/
def defined32 (x : BitVec 32) : Bool := (decode32 anyone x).isSome

end Sys2Proof.Machine
end

