-- ==== Sys2Proof/Machine/FetchIns.lean ====
section
/-!
DEFINITION. Instruction fetch (R88, R90, R118, R119, R122, R124, R125): the lines the F stage asks for, their translation and traps, and the
undefined encodings that no instruction row can spell.
-/

namespace Sys2Proof.Machine

/-! ### The lines a copy asks for (R122) -/

/-- The F stage lined up with the program counter: the line that holds it is current, lines already held move down, others are dropped. -/
def Copy.lineUp (c : Copy) : Copy :=
  let l := va48 c.pc / 32
  let has (x : FLine) (n : Nat) : Bool := x.valid && decide (x.va = n)
  let pick (n : Nat) : FLine :=
    if has c.fCur n then c.fCur else if has c.fNext n then c.fNext else if has c.fPre n then c.fPre else FLine.empty
  { c with fCur := pick l, fNext := pick ((l + 1) % 2 ^ 43), fPre := pick ((l + 2) % 2 ^ 43) }

/-- A 64-bit word of a line is held. -/
def FLine.holds (l : FLine) (j : Nat) : Bool := l.valid && !l.lack.testBit j

/-- The first halfword of the instruction at the program counter is held. -/
def Copy.holds0 (c : Copy) : Bool := c.fCur.holds (va48 c.pc % 32 / 8)

/-- The instruction at the program counter is a 32-bit one, as its first halfword, which is held, says (R88). -/
def Copy.long (c : Copy) : Bool := c.holds0 && decide (c.half0 % 4 = 3)

/-- The instruction at the program counter is a 32-bit one whose second halfword lies in the next line (R88). -/
def Copy.straddles (c : Copy) : Bool := c.long && decide (va48 c.pc % 32 = 30)

/-- All bytes of the instruction at the program counter are held. -/
def Copy.holdsAll (c : Copy) : Bool :=
  c.holds0 && (!c.long || (if c.straddles then c.fNext.holds 0 else c.fCur.holds ((va48 c.pc % 32 + 2) / 8)))

/-- The first line the F stage lacks, or lacks a word of that the instruction at the program counter needs: 0 current, 1 next, 2 the line after next. -/
def Copy.missing (c : Copy) : Option Nat :=
  if !c.holds0 || (!c.straddles && !c.holdsAll) then some 0
  else if !c.fNext.valid || (c.straddles && !c.holdsAll) then some 1
  else if !c.fPre.valid then some 2 else none

/-- The line is needed by the instruction at the program counter. -/
def Copy.needs (c : Copy) (slot : Nat) : Bool := decide (slot = 0) || (decide (slot = 1) && c.straddles)

/-- The encoding at the program counter, all its bytes held, is undefined (R90). -/
def Copy.undefHeld (c : Copy) : Bool :=
  c.holdsAll &&
  (if !c.long then !defined16 c.half0
   else if c.straddles then !defined32 (BitVec.ofNat 32 (c.half0 + 2 ^ 16 * lineBytes c.fNext.data 0 2))
   else !defined32 (BitVec.ofNat 32 (lineBytes c.fCur.data (va48 c.pc % 32) 4)))

/-- The address a fault of translation reports: that of the halfword that faulted (R88). -/
def Copy.faultHalf (c : Copy) (slot : Nat) : Word := if slot = 0 then c.pc else c.pc + 2

/-- Words of a line read with an uncorrectable error, each with the array word or entry that has it (R426). -/
abbrev Marks := List (Nat × ArrayId × Nat)

/-- What a copy's F stage does next: a fetch trap; a line it holds in its data TCM, or in its instruction cache under a key; a request to a target,
allocating or not; or nothing. -/
inductive FetchPlan where
  | trap (t : TrapInfo)
  | fill (slot data : Nat) (bad : Marks) (key : Option Nat)
  | request (slot pa : Nat) (alloc : Bool) (bad : Marks)
  | idle
  deriving DecidableEq, Repr

/-- The marks of a line read through bad array words: an entry or a tag spoils every word of the line. -/
def Copy.marks (c : Copy) (whole : List (ArrayId × Nat)) (words : List (ArrayId × Nat)) : Marks :=
  match whole.find? fun r => c.ue.contains r with
  | some r => (List.range 4).map fun j => (j, r)
  | none => ((List.range words.length).zip words).filter fun x => c.ue.contains x.2

/-- The entry and the tags that a line's lookup reads, and the words of a line found (R426). -/
def Copy.lookupReads (c : Copy) (i pa : Nat) : List (ArrayId × Nat) × List (ArrayId × Nat) :=
  if isSelf pa then ([(ArrayId.tlb, i)], (List.range 4).map fun j => (ArrayId.tcm, pa % 0x10000 / 8 + j))
  else
    ((ArrayId.tlb, i) :: (List.range 4).map (fun w => (ArrayId.itag, cacheKey (iSet (pa / 32)) w)),
      match c.iHit pa with
      | some key => (List.range 4).map fun j => (ArrayId.icache, 4 * key + j)
      | none => [])

/-- The address of the first byte of a line of the F stage. -/
def Copy.lineVa (c : Copy) (slot : Nat) : Word := BitVec.ofNat 64 ((va48 c.pc / 32 + slot) % 2 ^ 43 * 32)

/-- The array words that a copy's next fetch reads (R426). -/
def Copy.fetchReads (c : Copy) : List (ArrayId × Nat) :=
  match c.missing with
  | none => []
  | some slot => match c.xlate (c.lineVa slot) with
    | none => []
    | some (i, _, pa) => let r := c.lookupReads i pa; r.1 ++ r.2

/-- The plan of a copy (R119, R122, R125, R154, R155). A fault of a line that no instruction needs yet is no trap. Fetches from the code store allocate
whatever the page's type: R125 names the code store beside the allocating types (DEDUCED; log entry 165). -/
def State.fetchPlan (s : State) (k : Nat) (c : Copy) : FetchPlan :=
  if bit c.pc 0 then .trap (trapAt cALIGN c.pc false)
  else
    match c.missing with
    | none => .idle
    | some slot =>
      let fail (t : TrapInfo) : FetchPlan := if c.needs slot then .trap t else .idle
      match c.xlate (c.lineVa slot) with
      | none => fail (trapAt cTLB_MISS_I (BitVec.ofNat 64 (va48 (c.faultHalf slot))) false)
      | some (i, pte, pa) =>
        match permTrap .fetch c.priv pte with
        | some t => fail (trapAt t (c.faultHalf slot) false)
        | none =>
          let r := c.lookupReads i pa
          let bad := c.marks r.1 r.2
          if isSelf pa then .fill slot (s.bytes (tcmAddr k (pa % 0x10000)) 32) bad none
          else match c.iHit pa with
            | some key => .fill slot (c.iLine key).data bad (some key)
            | none => .request slot (pa / 32 * 32)
                (decide (windowOf pa = .code) || (decide (pteMT pte ≤ 1) && decide (windowOf pa ≠ .mmio))) bad

/-- A line placed in a buffer of the F stage. -/
def Copy.putLine (c : Copy) (slot data : Nat) (bad : Marks) (lack : Nat) : Copy :=
  let l : FLine := { valid := true, va := (va48 c.pc / 32 + slot) % 2 ^ 43, data := data, bad := bad, lack := lack }
  match slot with
  | 0 => { c with fCur := l }
  | 1 => { c with fNext := l }
  | _ => { c with fPre := l }

/-- The line of a buffer of the F stage. -/
def Copy.lineAt (c : Copy) (slot : Nat) : FLine := match slot with | 0 => c.fCur | 1 => c.fNext | _ => c.fPre

/-- A fetched line allocates in the instruction cache: the lowest invalid unlocked way, else the least recently used unlocked one (R125). -/
def Copy.iFill (c : Copy) (pa data : Nat) : Copy :=
  match cacheVictim c.icache (iSet (pa / 32)) (fun l => !(l.valid && l.flag)) with
  | some w => c.fillILine (cacheKey (iSet (pa / 32)) w) { valid := true, flag := false, line := pa / 32, data := data, age := 0 }
  | none => c

/-- The comparison of the copies' fetch requests (R124), as the comparison of bundles that hold nothing but the request. -/
def planKey (p : FetchPlan) : List Bundle :=
  let b : Bundle := { g0 := 0, g1 := 0, g2 := 0, g3 := 0, g4 := 0, g5 := 0, g6 := 0, g7 := 0, g8 := 0, g9 := 0, g10 := 0 }
  match p with
  | .request slot pa al _ => [{ b with g0 := 1, g3 := BitVec.ofNat 7 slot, g5 := BitVec.ofNat 13 (b2n al), g8 := BitVec.ofNat 64 pa }]
  | _ => [b]

/-- The plan asks for a line from outside. -/
def FetchPlan.asks (p : FetchPlan) : Bool := match p with | .request _ _ _ _ => true | _ => false

/-- What the fetches of a line have brought: its data, the words that failed, and what has come so far; or one of them waits. -/
structure Fetched where
  data  : Nat
  fails : List (Nat × RespStatus)
  got   : Got
  waits : Bool
  deriving DecidableEq, Repr

/-- The fetches of a line that does not allocate: one for each 64-bit word (R125). Words at addresses from `va` on. -/
def State.fetchWords (s : State) (t tag : Nat) (ks : List Nat) (pa : Nat) (va : Word) : List Nat → Fetched → Fetched × State
  | [], f => (f, s)
  | j :: r, f =>
    match s.coreServe t ks f.got (coreReq t tag .fetch .swap (pa + 8 * j) 8 0 0) (va + BitVec.ofNat 64 (8 * j)) with
    | (none, got, s) => ({ f with got := got, waits := true }, s)
    | (some x, got, s) =>
      s.fetchWords t tag ks pa va r (if x.status = .ok then { f with data := lineWrite f.data (8 * j) 8 x.data, got := got }
        else { f with fails := f.fails ++ [(j, x.status)], got := got })

/-- The failed word that the instruction at the program counter needs, with the address of its halfword (R88): in the next line the first, in the
current one that of the first halfword and, for a 32-bit instruction, that of the second. -/
def Copy.neededFail (c : Copy) (slot data : Nat) (fails : List (Nat × RespStatus)) : Option (RespStatus × Word) :=
  let at? (j : Nat) (va : Word) : Option (RespStatus × Word) := (fails.find? fun x => decide (x.1 = j)).map fun x => (x.2, va)
  let o := va48 c.pc % 32
  if slot = 0 then
    match at? (o / 8) c.pc with
    | some x => some x
    | none => if lineBytes data o 2 % 4 = 3 ∧ o + 2 < 32 then at? ((o + 2) / 8) (c.pc + 2) else none
  else if slot = 1 ∧ c.straddles then at? 0 (c.pc + 2)
  else none

/-- The fetch request of the first copy is issued once, and its line is delivered to every copy, each with its own marks (R124, R125): one 32-byte line where
it allocates, four 64-bit fetches where it does not, of which only the words not held are asked for again. A word whose fetch fails traps where the
instruction at the program counter needs it, and is else not held (R88). -/
def State.fetchIssue (s : State) (w : Who) (ks : List Nat) (slot pa : Nat) (alloc : Bool) (bad : Nat → Marks) : State :=
  let t := w.t.val
  let tag := s.copyTag w
  let lead := s.copy (copyIx t (ks.headD 0))
  let need := lead.needs slot
  let ks' := if need then ks else []
  let old := lead.lineAt slot
  let words := if old.valid then (List.range 4).filter old.lack.testBit else List.range 4
  let f0 : Fetched := { data := if old.valid then old.data else 0, fails := [], got := s.gotOf t tag, waits := false }
  let (f, s) :=
    if alloc then
      match s.coreServe t ks' f0.got (coreReq t tag .fetch .swap pa 32 0 0) (lead.lineVa slot) with
      | (none, got, s) => ({ f0 with got := got, waits := true }, s)
      | (some x, _, s) => (if x.status = .ok then { f0 with data := x.data } else { f0 with fails := (List.range 4).map fun j => (j, x.status) }, s)
    else s.fetchWords t tag ks' pa (lead.lineVa slot) words f0
  if f.waits then s.setGot t tag f.got
  else
    let s := s.setGot t tag []
    match lead.neededFail slot f.data f.fails with
    | some (st, va) => s.trapCopies t (ks.map fun c => (c, trapAt (respTrap st) va false))
    | none =>
      if alloc && !f.fails.isEmpty then s
      else
        ks.foldl (fun s c => s.modCopy (copyIx t c) fun x =>
          let x := x.putLine slot f.data (bad c) (f.fails.foldl (fun m y => m + 2 ^ y.1) 0)
          if alloc then x.iFill pa f.data else x) s

/-- The request of a line as its gate sees it: the line, or its first word. -/
def lineReq (t pa : Nat) (alloc : Bool) : MeshReq := coreReq t 3 .fetch .swap pa (if alloc then 32 else 8) 0 0

/-- A line is asked for, unless no tag is free (R43). One that no instruction needs yet has no effect but the filling of the buffers and the cache (R120):
it is not made where its gate would deny it, and it waits for nothing. -/
def State.fetchAsk (s : State) (w : Who) (ks : List Nat) (slot pa : Nat) (alloc : Bool) (bad : Nat → Marks) : State :=
  let t := w.t.val
  let tag := s.copyTag w
  let m := lineReq t pa alloc
  let need := (s.copy (copyIx t (ks.headD 0))).needs slot
  if !(s.inAccess t fun x => decide (x = tag)) && !s.tagFree t then s
  else if !need && (s.gateCause m).isSome then s
  else if !need && s.reqBlocked m then s.memDemand pa
  else s.fetchIssue w ks slot pa alloc bad

/-- INSTRUCTION_FETCH: the F stage of the copies lines up with the program counter and asks for the first line it lacks; an undefined
encoding whose bytes are held traps UNDEF (R90, R118, R122, R124, R125). A copy whose request differs from the others' is odd (R124). -/
def execInstructionFetch (w : Who) (s : State) : Out :=
  let t := w.t.val
  let ks := s.runners w
  match ks with
  | [] => .next s
  | x :: _ =>
    let s := s.forCopies t ks (·.lineUp)
    let s := ks.foldl (fun s c => (s.copy (copyIx t c)).fetchReads.foldl (fun s r => s.arrayRead (copyIx t c) r) s) s
    let plan (s : State) (c : Nat) : FetchPlan := s.fetchPlan (copyIx t c) (s.copy (copyIx t c))
    let trapWith (f : Copy → FetchPlan → Option TrapInfo) : State :=
      (s.runInstr w (.c32 7) false (fun _ _ c => Local.nop c) fun s k c => match f c (s.fetchPlan k c) with
        | some ti => Local.trapping c ti
        | none => { Local.nop c with stay := true, cycles := 0 }).1
    if (s.copy (copyIx t x)).undefHeld then .next (trapWith fun c _ => if c.undefHeld then some (trapOf cUNDEF) else none)
    else
      let pass : Bool × State :=
        if s.groupMode t && ks.any fun c => s.live t c && (plan s c).asks then
          s.compare t true (fun s _ => s) ((ks.filter (s.live t)).map fun c => (c, planKey (plan s c)))
        else (true, s)
      match pass with
      | (false, s) => .next s
      | (true, s') =>
        let ks := ks.filter fun c => s'.live t c || !s.live t c
        match plan s' (ks.headD 0) with
        | .trap _ => .next (trapWith fun _ p => match p with
            | .trap t => some t
            | _ => none)
        | .request slot pa al _ =>
          .next (s'.fetchAsk w ks slot pa al fun c => match plan s' c with
            | .request _ _ _ bad => bad
            | _ => [])
        | _ =>
          .next (ks.foldl (fun s c => match plan s' c with
            | .fill slot data bad key => s.modCopy (copyIx t c) fun x =>
              let x := x.putLine slot data bad 0
              match key with
              | some key => x.setILine key (x.iLine key)
              | none => x
            | _ => s) s')

end Sys2Proof.Machine
end

