-- ==== Sys2Proof/Machine/FpIns.lean ====
section
/-!
DEFINITION. The floating-point instructions (R85, R93, R94, R111): operands of binary32 or binary64 by P, results rounded once, exceptions
accrued in FCSR.FLAGS and never trapping.
-/

namespace Sys2Proof.Machine

/-- The format P selects: binary32 (0) or binary64 (1) (R94). -/
def fmtP (p : Bool) : Fmt := if p then Fmt.b64 else Fmt.b32

/-- A floating-point operand: all 64 bits, or bits [31:0] of a binary32 one (R85). -/
def Copy.fop (c : Copy) (p : Bool) (r : RegNo) : Nat := if p then (c.freg r).toNat else bits (c.freg r) 0 32

/-- FADD, FSUB and FMUL (R94, R111). -/
def fAddResult (fn : FAddOp) (f : Fmt) (rm x y : Nat) : Nat × Nat :=
  match fn with
  | .fadd => f.add rm x y
  | .fsub => f.sub rm x y
  | .fmul => f.mul rm x y

/-- FADD, FSUB and FMUL: 2 cycles (R94). -/
def execFaddFsubFmul (w : Who) (g : Guard) (fn : FAddOp) (p : Bool) (d a b : RegNo) (s : State) : Out :=
  .next (s.run w g false fun c =>
    let r := fAddResult fn (fmtP p) c.rm (c.fop p a) (c.fop p b)
    Local.toF c d r.1 r.2 2)

/-- FDIV: 27 cycles, abandonable (R94, R98). -/
def execFdiv (w : Who) (g : Guard) (p : Bool) (d a b : RegNo) (s : State) : Out :=
  .next (s.run w g false fun c =>
    let r := (fmtP p).div c.rm (c.fop p a) (c.fop p b)
    Local.toF c d r.1 r.2 27)

/-- FSQRT: 29 cycles, abandonable; b must be 0 (R90, R94, R98). -/
def execFsqrt (w : Who) (g : Guard) (p : Bool) (d a b : RegNo) (s : State) : Out :=
  .next (s.run w g (decide (b ≠ 0)) fun c =>
    let r := (fmtP p).sqrt c.rm (c.fop p a)
    Local.toF c d r.1 r.2 29)

/-- FMIN, FMAX, FNEG and FABS (R94). -/
def fMinResult (fn : FMinOp) (f : Fmt) (x y : Nat) : Nat × Nat :=
  match fn with
  | .fmin => f.minMax false x y
  | .fmax => f.minMax true x y
  | .fneg => (f.signOp false x, 0)
  | .fabs => (f.signOp true x, 0)

/-- FMIN, FMAX, FNEG and FABS; b must be 0 for FNEG and FABS (R90, R94). -/
def execFminFmaxFnegFabs (w : Who) (g : Guard) (fn : FMinOp) (p : Bool) (d a b : RegNo) (s : State) : Out :=
  .next (s.run w g (decide (b ≠ 0) && (decide (fn = .fneg) || decide (fn = .fabs))) fun c =>
    let r := fMinResult fn (fmtP p) (c.fop p a) (c.fop p b)
    Local.toF c d r.1 r.2 1)

/-- The flags of a comparison: 0b1000 less, 0b0110 equal, 0b0010 greater, 0b0011 unordered (R93). -/
def fcmpFlags (o : FpOrd) : Nzcv :=
  match o with
  | .lt => { n := true, z := false, c := false, v := false }
  | .eq => { n := false, z := true, c := true, v := false }
  | .gt => { n := false, z := false, c := true, v := false }
  | .un => { n := false, z := false, c := true, v := true }

/-- FCMP: quiet; d must be 0 (R90, R93, R111). -/
def execFcmp (w : Who) (g : Guard) (p : Bool) (d a b : RegNo) (s : State) : Out :=
  .next (s.run w g (decide (d ≠ 0)) fun c =>
    let r := (fmtP p).cmp (c.fop p a) (c.fop p b)
    { Local.nop ((c.setFlags (fcmpFlags r.1)).addFflags r.2) with fpfl := r.2 })

/-- FCVT.IF, FCVT.FI and FCVT.FF: 2 cycles; b must be 0 (R90, R94, R111). -/
def execFcvt (w : Who) (g : Guard) (fn : FCvtOp) (p : Bool) (d a b : RegNo) (s : State) : Out :=
  .next (s.run w g (decide (b ≠ 0)) fun c =>
    match fn with
    | .toInt =>
      let r := (fmtP p).toInt c.rm (c.fop p a) (-(2 ^ 63)) (2 ^ 63 - 1)
      let l := Local.toG (c.addFflags r.2) d (BitVec.ofInt 64 r.1) 2
      { l with fpfl := r.2 }
    | .fromInt =>
      let r := (fmtP p).ofInt c.rm (c.reg a).toInt
      Local.toF c d r.1 r.2 2
    | .other =>
      let r := (fmtP p).convert (fmtP (!p)) c.rm (c.fop (!p) a)
      Local.toF c d r.1 r.2 2)

/-- FMV.GF and FMV.FG; b must be 0 (R90, R94). -/
def execFmvGfFg (w : Who) (g : Guard) (toF : Bool) (d a b : RegNo) (s : State) : Out :=
  .next (s.run w g (decide (b ≠ 0)) fun c =>
    if toF then Local.toF c d (c.reg a).toNat 0 1 else Local.toG c d (c.freg a) 1)

/-- FMADD and FMSUB: 3 cycles, one rounding (R94, R111). -/
def execFmaddFmsub (w : Who) (g : Guard) (sub p : Bool) (d a b c : RegNo) (s : State) : Out :=
  .next (s.run w g false fun x =>
    let f := fmtP p
    let r := if sub then f.fms x.rm (x.fop p a) (x.fop p b) (x.fop p c) else f.fma x.rm (x.fop p a) (x.fop p b) (x.fop p c)
    Local.toF x d r.1 r.2 3)

end Sys2Proof.Machine
end

