-- ==== Sys2Proof/Machine/HbxCmds.lean ====
section
/-!
DEFINITION. The Hatbox and the power pins as commands (R376 to R387, R410, R412, R420).
-/

namespace Sys2Proof.Machine

/-! ### VDD_AON (R383, R410) -/

/-- VDD_AON comes up: the Hatbox starts in SLEEP with its registers at reset and nothing retained, and raises PMIC_EN because it holds no
rules (R383). -/
def State.hatboxStart (s : State) : State :=
  let main : SMap Word := s.regs.filter fun e => !isHbx e.1
  let own : SMap Word := resetRegs.filter fun e => isHbx e.1
  let s := { s with regs := own.foldl (fun (m : SMap Word) (e : Nat × Word) => SMap.put 0 m e.1 e.2) main }
  { s with hbx := { Hatbox.powerUp with pmicEn := true } }.setOp opSLEEP

/-- VDD_AON_POWER_UP: VDD_AON is first applied (R383). -/
def execVddAonPowerUp (s : State) : Out := .next (if s.opstate = opOFF then s.hatboxStart else s)

/-- VDD_AON_BROWNOUT: in SLEEP, VDD_AON below 0.70 V resets the Hatbox as its first power-up does (R410). -/
def execVddAonBrownout (s : State) : Out := .next (if s.asleep then s.hatboxStart else s)

/-- SUPPLIES_REMOVED: every supply goes, and with it all but OTP, flash and code store (R325). -/
def execSuppliesRemoved (s : State) : Out :=
  let z := s.resetMain false 0
  let z := { z with hbx := Hatbox.powerUp, regs := z.regs.filter fun e => !isHbx e.1 }
  let z := (z.wr (Reg.memCrMap) (SMap.get 0 resetRegs Reg.memCrMap)).wr Reg.memCrSpare (SMap.get 0 resetRegs Reg.memCrSpare)
  let z := (List.range 16).foldl (fun z g =>
    (z.wr (Reg.memSsMapLo g) (SMap.get 0 resetRegs (Reg.memSsMapLo g))).wr (Reg.memSsMapHi g) (SMap.get 0 resetRegs (Reg.memSsMapHi g))) z
  .next (z.setOp opOFF)

/-! ### Inputs (R376 to R380) -/

/-- HBX_LEVEL_CHANGE: the comparator of an input has held a new value for DEB_US; the rules see the event. `ticks` are the crystal ticks since the
device time was stored, which count in SLEEP alone (R347, R376 to R379). -/
def execHbxLevelChange (n : Fin 8) (level : Bool) (ticks : Nat) (s : State) : Out :=
  let old := s.hbxLevel n
  if s.opstate = opOFF ∨ s.fget (Reg.hbxInCfg n) Reg.hbxInCfg_FAST_EN = 0 ∨ old = level then .next s
  else
    let s := s.wr Reg.hbxStatus (setBits (s.rd Reg.hbxStatus) (Reg.hbxStatus_LEVEL.lo + n) 1 (b2n level))
    .next ((s.fset (Reg.hbxInVal n) Reg.hbxInVal_LEVEL (b2n level)).fastEvent ticks n old)

/-- Put a number in its place in a rising list. -/
def insertNat (n : Nat) : List Nat → List Nat
  | [] => [n]
  | x :: r => if n ≤ x then n :: x :: r else x :: insertNat n r

/-- The median of the last five raw samples; what it is of fewer is not stated (a free value). -/
def State.median5 (s : State) (raws : List Nat) : Nat × State :=
  if raws.length = 5 then ((raws.foldl (fun l x => insertNat x l) []).getD 2 0, s)
  else let (v, s) := s.fresh; (bits v 0 12, s)

/-- One step of the first-order filter, with four fraction bits, rounded down (R376). -/
def iirStep (k y x : Nat) : Nat := ((y : Int) + ((16 * (x : Int) - (y : Int)) / (2 ^ k : Nat))).toNat

/-- The rounded output of the filter. -/
def iirOut (y : Nat) : Nat := min 4095 ((y + 8) / 16)

/-- HBX_SLOW_SAMPLE: the ADC samples an input; median, filter, and the rules see the event (R376 to R379). An input whose channel has failed its
self-test gives no slow-path events (R377). -/
def execHbxSlowSample (n : Fin 8) (raw : BitVec 12) (ticks : Nat) (s : State) : Out :=
  let cfg := s.rd (Reg.hbxInCfg n)
  if s.opstate = opOFF ∨ bits cfg 19 1 = 0 ∨ s.fget (Reg.hbxInVal n) Reg.hbxInVal_FAILED = 1 then .next s
  else
    let i := SMap.get HbxIn.reset s.hbx.ins n
    let raws := (raw.toNat :: i.raws).take 5
    let prev := if i.sampled then some (s.fget (Reg.hbxInVal n) Reg.hbxInVal_FILT) else none
    let (x, s) : Nat × State := if bit cfg 30 then s.median5 raws else (raw.toNat, s)
    let k := bits cfg 31 4
    let y := if k = 0 then 16 * x else iirStep k i.y x
    let s := s.modHbx fun h => { h with ins := SMap.put HbxIn.reset h.ins n { raws := raws, y := y, sampled := true } }
    let s := (s.fset (Reg.hbxInVal n) Reg.hbxInVal_RAW raw.toNat).fset (Reg.hbxInVal n) Reg.hbxInVal_FILT (iirOut y)
    .next (s.hbxEvent ticks n 1 (iirOut y) (slowHolds prev (iirOut y)))

/-! ### Power (R384 to R387) -/

/-- OFF_MIN_EXPIRE: PGOOD has been low for OFF_MIN_MS: a WAKE decision that was held takes effect (R385). -/
def execOffMinExpire (s : State) : Out :=
  if !s.asleep || s.hbx.pmicEn || s.hbx.offDone then .next s
  else .next (if s.hbx.held then s.raisePmic else s.modHbx fun h => { h with offDone := true })

/-- PMIC_TIMEOUT: PGOOD has not risen within 20 ms of PMIC_EN (R386). -/
def execPmicTimeout (ticks : Nat) (s : State) : Out := .next (if s.asleep && s.hbx.pmicEn && !s.hbx.pgood then s.pmicFail ticks else s)

/-- PMIC_RETRY: 100 ms after a failed attempt PMIC_EN rises again (R386). -/
def execPmicRetry (s : State) : Out := .next (if s.asleep && s.hbx.retry && !s.hbx.pmicEn then s.raisePmic else s)

/-- PGOOD_RISE: power-good: the power-on reset is released into BOOT, with the device time restored (R347, R388, R412); `units` is the time since the
wake edge in steps of 10 µs (SYS_BOOT_TIME.PGOOD). -/
def execPgoodRise (ticks : Nat) (units : BitVec 16) (s : State) : Out :=
  if !(s.asleep && s.hbx.pmicEn && !s.hbx.pgood) then .next s
  else
    let low := s.boot.low
    let s := (s.resetMain false (s.hs Reg.hbxStatus_WAKE_VALID)).restoreTime ticks
    let s := (s.modHbx fun h => { h with pgood := true }).modBoot fun b => { b with low := low }
    .next (s.fset Reg.sysBootTime Reg.sysBootTime_PGOOD units.toNat)

/-- PGOOD_FALL: PGOOD falls while PMIC_EN is high and no sleep was requested: a failed attempt, or with RESET_N low one that is handled at its
release (R386, R420). -/
def execPgoodFall (ticks : Nat) (s : State) : Out :=
  if !(s.hbx.pmicEn && s.hbx.pgood) then .next s
  else if s.boot.low then .next (s.modHbx fun h => { h with pgood := false })
  else .next (s.pmicFail ticks)

/-- RESET_N_ASSERT: with PMIC_EN high, everything but the Hatbox is reset; the Hatbox stores the device time, the maps and the locked remap entries
(R282, R381, R387, R420). -/
def execResetNAssert (s : State) : Out :=
  if !s.hbx.pmicEn || s.boot.low then .next s
  else if !s.hbx.pgood then .next (s.modBoot fun b => { b with low := true })
  else .next ((s.storeTime.retainRemaps.resetMain false 2).modBoot fun b => { b with low := true })

/-- RESET_N_RELEASE: start-up begins again at step 3, with the stored time restored (R347, R387, R420). -/
def execResetNRelease (ticks : Nat) (s : State) : Out :=
  if !s.boot.low then .next s
  else
    let s := s.modBoot fun b => { b with low := false }
    if s.asleep then .next s
    else if !s.hbx.pgood then .next (s.pmicFail ticks)
    else .next (s.restoreTime ticks)

/-! ### The HBX block's W1C fields -/

/-- EV_WRAP_CLEAR: HBX_STATUS.EV_WRAP. -/
def execEvWrapClear (rq : Rq) (s : State) : Out := .next (s.gatedWrite rq Reg.hbxStatus (BitVec.twoPow 64 10))

/-- RET_UE_CLEAR: HBX_RET.RET_UE. -/
def execRetUeClear (rq : Rq) (s : State) : Out := .next (s.gatedWrite rq Reg.hbxRet (BitVec.twoPow 64 6))

end Sys2Proof.Machine
end

