-- ==== Sys2Proof/Machine/PatchIns.lean ====
section
/-!
DEFINITION. The microcode patch class (R115 to R117): a patch entry executed as one instruction.
-/

namespace Sys2Proof.Machine

/-- The progress of a patch entry: the copy with the registers written so far, the temporaries, the value written to register 30, the
memory micro-op met, and the counts. -/
structure UState where
  copy : Copy
  u0   : Word
  u1   : Word
  r30  : Option Word
  mem  : Option (Access × Word)
  cyc  : Nat
  deriving DecidableEq, Repr

/-- The register fields of a micro-op as they are read (R116): `pa` and `pb` are the patch instruction's a and b registers. -/
def UState.read (u : UState) (pa pb r : RegNo) : Word :=
  if r = 28 then u.u0 else if r = 29 then u.u1 else if r = 30 then u.copy.reg pa else if r = 31 then u.copy.reg pb else u.copy.reg r

/-- A register field as it is written (R116): `pd` is the patch instruction's d register. -/
def UState.write (u : UState) (pd r : RegNo) (v : Word) : UState :=
  if r = 28 then { u with u0 := v } else if r = 29 then { u with u1 := v }
  else if r = 30 then { u with copy := u.copy.setReg pd v, r30 := some (if pd = 0 then 0 else v) }
  else { u with copy := u.copy.setReg r v }

/-- A loaded value written by a memory micro-op, with the Z flag of an AMOCAS (R105, R117). -/
def UState.take (u : UState) (pd : RegNo) (acc : Access) (v : Word) : UState :=
  let u := match acc.kind with
    | .atom .cas =>
      let n := 2 ^ (8 * 2 ^ acc.size)
      { u with copy := u.copy.setFlags { u.copy.flags with z := decide (v.toNat % n = acc.cmp.toNat % n) } }
    | _ => u
  if acc.isF then { u with copy := u.copy.setFreg acc.dest v } else u.write pd acc.dest v

/-- The micro-ops in order: up to a memory micro-op whose value is not there yet, or to the end with the value it loaded (R117). DESIGN CHOICE (log entry
172): a micro-op word that is rewritten after its header has passed the check runs as it stands, with no new check; of two memory micro-ops the later
one counts. -/
def runUops (pd pa pb : RegNo) (loaded : Option Word) : List (BitVec 32) → UState → UState
  | [], u => u
  | w :: r, u =>
    match uopAct w (u.read pa pb) u.copy with
    | none => u
    | some (.calc d v f cyc) =>
      let u := { u with cyc := u.cyc + cyc }
      let u := match f with
        | some fl => { u with copy := u.copy.setFlags fl }
        | none => u
      runUops pd pa pb loaded r (match d with
        | some d => u.write pd d v
        | none => u)
    | some (.mem acc va) =>
      let u := { u with mem := some (acc, va) }
      if !acc.kind.returns then runUops pd pa pb loaded r u
      else match loaded with
        | none => u
        | some v => runUops pd pa pb loaded r (u.take pd acc v)

/-- An entry's start: temporaries zero (R116). -/
def UState.init (c : Copy) : UState := { copy := c, u0 := 0, u1 := 0, r30 := none, mem := none, cyc := 0 }

/-- PATCH in one copy: UNDEF for an inactive table, an invalid entry or an undefined micro-op; otherwise the entry as one instruction of 1
cycle plus the counts of its micro-ops, its destination the register-30 write and its side effect the memory micro-op (R115, R117). A register-30 write that
rests on the loaded value shows its register, and no value yet (log entry 13). -/
def State.patchLocal (s : State) (word : BitVec 32) (k : Nat) (c : Copy) : Local :=
  let x := s.triad (k / 3)
  let e := wFn word % 16
  let h := x.patchHeader e
  let ops := x.patchOps e h
  let bad := !s.patchActive || !bit h 3 || ops.any fun w => (uopAct w (fun _ => 0) c).isNone
  if bad then Local.trapping c (trapOf cUNDEF)
  else
    let u := runUops (wD word) (wA word) (wB word) none ops (UState.init c)
    let dest (l : Local) : Local := match u.r30 with
      | some v => { l with kind := 1, idx := (wD word).toNat, val := v }
      | none => if ops.any fun w => decide (uopWrites w = some 30) then { l with kind := 1, idx := (wD word).toNat, val := 0 }
        else { l with kind := 0, idx := 0 }
    match u.mem with
    | none => { dest (Local.nop u.copy) with cycles := 1 + u.cyc }
    | some (acc, va) =>
      let acc := { acc with dest := 1, isF := false, now := false }
      let l := Local.access c acc va
      if l.trap.isSome then l
      else { dest l with copy := u.copy, cycles := 1 + u.cyc + l.cycles }

/-- The condition of a PATCH word. -/
def patchGuard (word : BitVec 32) : Guard := .c32 (wCond word)

/-- A patch entry whose memory micro-op loaded a value: each released copy runs the entry's micro-ops with its own value, which it holds
as pending, counts those that come after it, and has no delay slot (R117; log entry 13). -/
def State.patchFinish (s0 s : State) (word : BitVec 32) (t : Nat) (ks : List Nat) : State :=
  ks.foldl (fun s x =>
    let k := copyIx t x
    let c0 := s0.copy k
    let c1 := s.copy k
    match c1.pend with
    | none => s
    | some (_, _, v) =>
      let e := wFn word % 16
      let tr := s0.triad t
      let run (got : Option Word) : UState :=
        runUops (wD word) (wA word) (wB word) got (tr.patchOps e (tr.patchHeader e)) (UState.init c0)
      let done := ((patchGuard word).latch (run (some v)).copy).flushPend
      s.setCopy k { c1 with
        g := done.g, f := done.f, psr := done.psr, pend := none, slot := false
        cycle := c1.cycle + BitVec.ofNat 64 ((run (some v)).cyc - (run none).cyc) }) s

/-- PATCH: a patch entry, its word as class 0b11111 lays it out; fn[27:26] must be 0 (R115 to R117). -/
def execPatch (w : Who) (word : BitVec 32) (s : State) : Out :=
  let undef := decide (wbits word 26 2 ≠ 0)
  .next (s.runThen w (patchGuard word) undef (fun s k c => s.patchLocal word k c) fun ks c s' =>
    match (s.patchLocal word (copyIx w.t.val 0) c).acc with
    | some acc => if acc.kind.returns then s.patchFinish s' word w.t.val ks else s'
    | none => s')

end Sys2Proof.Machine
end

