-- ==== Sys2Proof/Machine/RecCmds.lean ====
section
/-!
DEFINITION. The recorder as commands (R334 to R339): the writing of records to the ring or the reserve, and the two controls.
-/

namespace Sys2Proof.Machine

/-- A record's header (R334): `a` the eleven bytes of its timestamp, then SRC, LEN, ENTRY, RSEQ, CB_SEQ, TYPE, FLAGS, SIZE, DROPPED and the CHECK over
them. -/
def recHeader (a : List Byte) (src len entry rseq cb typ flags size dropped : Nat) : List Byte :=
  let h := a ++ toLe 1 src ++ toLe 2 len ++ toLe 2 entry ++ toLe 4 rseq ++ toLe 2 cb ++ toLe 1 typ ++ toLe 1 flags ++ toLe 4 size ++ toLe 2 dropped
  h ++ toLe 2 (crc16 h)

/-- The area being written: the ring while RECORDING, the reserve in POST. -/
def State.recArea (s : State) : Nat := if s.recState = 2 then 1 else 0

/-- The next record would end beyond the reserve's POST blocks (R338). -/
def State.postFull (s : State) (size : Nat) : Bool :=
  decide (s.recState = 2) &&
    decide (65536 * s.fget Reg.recSpan Reg.recSpan_POST < s.fget Reg.recWptr Reg.recWptr_OFFSET + size)

/-- A record is written at the write position as initiator REC, and the position moves; the ring wraps to its start (R335, R338). -/
def State.recPut (s : State) (d : List Byte) : State :=
  let i := s.recArea
  let off := s.fget Reg.recWptr Reg.recWptr_OFFSET
  let s := s.devWrite iREC (s.fget (Reg.recBase i) Reg.recBase_BASE * 2 ^ 21 + off) d
  let next := off + d.length
  if i = 1 then (s.wr Reg.recWptr (BitVec.ofNat 64 next)).wr Reg.recFrzPost (BitVec.ofNat 64 next)
  else
    let s := if next = s.recBytes 0 then s.fset Reg.recStatus Reg.recStatus_WRAPPED 1 else s
    s.wr Reg.recWptr (BitVec.ofNat 64 (next % max 1 (s.recBytes 0)))

/-- The header fields that a PAD or GAP record has no stated value for: timestamp, SRC, ENTRY, CB_SEQ and, in a PAD, RSEQ and DROPPED (log entry
28). -/
def State.freeHead (s : State) : List Byte × Nat × Nat × Nat × State :=
  let (a, s) := s.fresh
  let (b, s) := s.fresh
  (toLe 8 a.toNat ++ toLe 3 b.toNat, b.toNat / 2 ^ 24 % 256, b.toNat / 2 ^ 32 % 1024, b.toNat / 2 ^ 42 % 2 ^ 16, s)

/-- A PAD record fills the rest of a block that the next record does not fit (R335). -/
def State.padFor (s : State) (size : Nat) : State :=
  let off := s.fget Reg.recWptr Reg.recWptr_OFFSET
  let left := 65536 - off % 65536
  if size ≤ left then s
  else
    let flags := b2n (decide (s.recState = 2))
    let (a, src, entry, cb, s) := s.freeHead
    let (x, s) := s.fresh
    s.recPut (recHeader a src 0 entry (x.toNat % 2 ^ 32) cb 1 flags left (x.toNat / 2 ^ 32 % 2 ^ 16) ++ List.replicate (left - 32) 0)

/-- The bytes that a record takes, with the PAD before it. -/
def State.recNeed (s : State) (size : Nat) : Nat :=
  let left := 65536 - s.fget Reg.recWptr Reg.recWptr_OFFSET % 65536
  if size ≤ left then size else left + size

/-- The GAP record that tells of the frames dropped (R336). -/
def State.putGap (s : State) : State :=
  let s := s.padFor 32
  let (a, src, entry, cb, s) := s.freeHead
  let s := s.recPut (recHeader a src 0 entry s.recd.rseq cb 2 (b2n (decide (s.recState = 2))) 32 (min 65535 s.recd.lost))
  let s := (s.raise 0x1CB).fsat Reg.recCnt2 Reg.recCnt2_GAPS 1
  s.modRecd fun r => { r with rseq := (r.rseq + 1) % 2 ^ 32, lost := 0 }

/-- The FRAME record of a frame; its DROPPED bytes are not stated and are free values (R334). -/
def State.putFrame (s : State) (r : RxRec) : State :=
  let size := recSize r.data.length
  let s := s.padFor size
  let (f, s) := s.fresh
  let h := recHeader r.ts.bytes r.src r.data.length r.entry s.recd.rseq r.seq 0 (b2n (decide (s.recState = 2))) size (f.toNat % 2 ^ 16)
  let s := s.recPut (h ++ padTo 32 r.data)
  (s.fadd Reg.recCnt Reg.recCnt_RECORDS 1).modRecd fun x => { x with rseq := (x.rseq + 1) % 2 ^ 32, buf := x.buf.drop 1 }

/-- REC_RECORD_WRITE: the recorder writes the record at the head of its buffer, after a GAP record where frames have been dropped; a record that would
end beyond the reserve's blocks freezes instead (R335, R336, R338). It waits for a tag (R43). -/
def execRecRecordWrite (s : State) : Out :=
  match s.recd.buf with
  | [] => .next s
  | r :: _ =>
    if (s.recState ≠ 1 ∧ s.recState ≠ 2) ∨ !s.tagFree iREC.val then .next s
    else if decide (0 < s.recd.lost) && s.postFull (s.recNeed 32) then .next s.recFreeze
    else
      let s := if 0 < s.recd.lost then s.putGap else s
      if s.postFull (s.recNeed (recSize r.data.length)) then .next s.recFreeze else .next (s.putFrame r)

/-- FREEZE: REC_CTL.FREEZE triggers the recorder (R337). -/
def execFreeze (rq : Rq) (s : State) : Out := .next (s.gatedWrite rq Reg.recCtl 1)

/-- RELEASE: REC_CTL.RELEASE releases the frozen span (R339). -/
def execRelease (rq : Rq) (s : State) : Out := .next (s.gatedWrite rq Reg.recCtl 2)

end Sys2Proof.Machine
end

