-- ==== Sys2Proof/Machine/RegCmds.lean ====
section
/-!
DEFINITION. Register accesses of the FCRU, TRI, GATE and XLT blocks as commands: each meets the block's gate first (R172), then does what
the register's description says.
-/

namespace Sys2Proof.Machine

/-! ### FCRU (01) -/

/-- FCRU_SW_RAISE: raises a source as if detected, under INJECT (R32, FCRU_SW_RAISE). -/
def execFcruSwRaise (rq : Rq) (v : Word) (s : State) : Out := .next (s.gatedWrite rq Reg.fcruSwRaise v)

/-- GLOBAL_LOCK: sets LOCK in every matrix entry (FCRU_STATUS). -/
def execGlobalLock (rq : Rq) (s : State) : Out := .next (s.gatedWrite rq Reg.fcruStatus 0x80)

/-- LOG_WRAP_CLEAR: clears FCRU_STATUS.LOG_WRAP. -/
def execLogWrapClear (rq : Rq) (s : State) : Out := .next (s.gatedWrite rq Reg.fcruStatus 0x40)

/-- PEND_CLEAR: clears the pending bits written as 1 (FCRU_PENDn). -/
def execPendClear (rq : Rq) (n : BitVec 3) (v : Word) (s : State) : Out := .next (s.gatedWrite rq (Reg.fcruPend n.toNat) v)

/-- MATRIX_WRITE: a write of a matrix entry under R35 and R36. -/
def execMatrixWrite (rq : Rq) (src : BitVec 9) (v : Word) (s : State) : Out := .next (s.gatedWrite rq (Reg.fcruMatrix src.toNat) v)

/-- MATRIX_LOCK: the entry written back with LOCK = 1, which freezes it until reset. -/
def execMatrixLock (rq : Rq) (src : BitVec 9) (s : State) : Out :=
  .next (s.gatedWrite rq (Reg.fcruMatrix src.toNat) (s.rd (Reg.fcruMatrix src.toNat) ||| BitVec.twoPow 64 63))

/-! ### TRI (02) -/

/-- GO: TRI_RESYNC_CTL.GO starts a resynchronisation under R70. -/
def execGo (rq : Rq) (t : Fin 16) (s : State) : Out := .next (s.gatedWrite rq (Reg.triResyncCtl t.val) 1)

/-- ARM: a write of TRI_MODE_REQ (R76, R78). -/
def execArm (rq : Rq) (t : Fin 16) (v : Word) (s : State) : Out := .next (s.gatedWrite rq (Reg.triModeReq t.val) v)

/-- TRI_INJECT: arms a comparison injection (R60). -/
def execTriInject (rq : Rq) (t : Fin 16) (v : Word) (s : State) : Out := .next (s.gatedWrite rq (Reg.triInject t.val) v)

/-- TRI_WDOG_KICK: a kick of the triad's watchdog (R83). -/
def execTriWdogKick (rq : Rq) (t : Fin 16) (v : Word) (s : State) : Out := .next (s.gatedWrite rq (Reg.triWdogKick t.val) v)

/-- TRI_MISMATCH_CLEAR: clears TRI_MISMATCH.VALID. -/
def execTriMismatchClear (rq : Rq) (t : Fin 16) (s : State) : Out := .next (s.gatedWrite rq (Reg.triMismatch t.val) 0x4000)

/-! ### GATE (05) -/

/-- GATE_RULE_SHADOW_WRITE: BASE, LIMIT or MASK of a rule, into its shadow copy (R176). -/
def execGateRuleShadowWrite (rq : Rq) (gt : Fin 27) (k : BitVec 5) (which : RuleReg) (v : Word) (s : State) : Out :=
  .next (s.gatedWrite rq (ruleRegOff which gt.val k.toNat) v)

/-- GATE_RULE_CTL_WRITE: applies the shadow copy together with CTL (R176). -/
def execGateRuleCtlWrite (rq : Rq) (gt : Fin 27) (k : BitVec 5) (v : Word) (s : State) : Out :=
  .next (s.gatedWrite rq (Reg.gateRuleCtl gt.val k.toNat) v)

/-- LOCK_ALL: sets LOCK in all 32 rules of a gate (R176). -/
def execLockAll (rq : Rq) (gt : Fin 27) (s : State) : Out := .next (s.gatedWrite rq (Reg.gateCtl gt.val) 1)

/-- GATE_LOG_CLR: empties a gate's violation log. -/
def execGateLogClr (rq : Rq) (gt : Fin 27) (s : State) : Out := .next (s.gatedWrite rq (Reg.gateLogClr gt.val) 1)

/-- A read request for the GATE_DRAIN register of a gate. -/
def drainReq (rq : Rq) (g : Nat) : MeshReq :=
  { rq := rq, op := .read, atom := .swap, pa := BitVec.ofNat 44 (paMmio + Reg.gateDrain g), len := 8, data := 0, cmp := 0 }

/-- GATE_DRAIN: a read of GATE_DRAIN reaches the GATE block and notes the gate's evaluation point (R179). -/
def execGateDrain (rq : Rq) (gt : Fin 27) (s : State) : Out :=
  match s.gateDenies (drainReq rq gt.val) with
  | some s' => .next (s'.answer rq.init.val { status := .denied, data := 0 })
  | none => .next (s.drainStart rq gt.val)

/-- Remove the first drain of a requester at a gate. -/
def dropDrain (rq : Rq) (g : Nat) : List Drain → List Drain
  | [] => []
  | d :: r => if d.rq = rq ∧ d.gate = g then r else d :: dropDrain rq g r

/-- GATE_DRAIN_COMPLETE: the drain responds once every request it waits for has completed, with their number (R179). -/
def execGateDrainComplete (rq : Rq) (gt : Fin 27) (s : State) : Out :=
  match s.mesh.drains.find? fun d => decide (d.rq = rq) && decide (d.gate = gt.val) with
  | none => .next s
  | some d =>
    if s.mesh.flights.any fun f => d.wait.contains f.num then .next s
    else
      let n := min (2 ^ 32 - 1) d.wait.length
      let s := { s with mesh := { s.mesh with drains := dropDrain rq gt.val s.mesh.drains } }
      let s := s.fset (Reg.gateDrain gt.val) Reg.gateDrain_WAITED n
      .next (s.answer rq.init.val { status := .ok, data := n })

/-! ### XLT (05) -/

/-- XLT_ROOT_WRITE: the root table of a context; it applies to walks that start later (R170). -/
def execXltRootWrite (rq : Rq) (c : Fin 8) (v : Word) (s : State) : Out := .next (s.gatedWrite rq (Reg.xltRoot c.val) v)

/-- XLT_ASID_WRITE: the address-space identifier of a context (R170). -/
def execXltAsidWrite (rq : Rq) (c : Fin 8) (v : Word) (s : State) : Out := .next (s.gatedWrite rq (Reg.xltAsid c.val) v)

/-- XLT_ROOT_LOCK: freezes the root table's PPN until reset. -/
def execXltRootLock (rq : Rq) (c : Fin 8) (s : State) : Out :=
  .next (s.gatedWrite rq (Reg.xltRoot c.val) (s.rd (Reg.xltRoot c.val) ||| BitVec.twoPow 64 63))

end Sys2Proof.Machine
end

