-- ==== Sys2Proof/Machine/SysIns.lean ====
section
/-!
DEFINITION. The system instructions TRAP, ERET, WFI, MSYNC, IBAR and DBAR (R76 to R80, R108, R109, R142, R143).
-/

namespace Sys2Proof.Machine

/-- TRAP: the trap TRAP with its 10-bit code; d must be 0 (R90, R94, R108). -/
def execTrap (w : Who) (g : Guard) (d : RegNo) (code : BitVec 10) (s : State) : Out :=
  .next (s.run w g (decide (d ≠ 0)) fun c => Local.trapping c { trapOf cTRAP with trapno := code.toNat })

/-- WFI stops the copy until an interrupt; PRIV at USR (R86, R108). -/
def execWfi (w : Who) (g : Guard) (s : State) : Out :=
  .next (s.run w g false fun c =>
    if c.priv = 0 then Local.trapping c (trapOf cPRIV) else Local.nop { c with status := .wfi })

/-- IBAR discards both F-stage lines and the prefetched line: 3 cycles (R94, R108, R133). -/
def execIbar (w : Who) (g : Guard) (s : State) : Out :=
  .next (s.run w g false fun c =>
    { Local.nop { c with fCur := FLine.empty, fNext := FLine.empty, fPre := FLine.empty } with cycles := 3 })

/-- A copy has outstanding posted writes of its own, or a coprocessor packet its context has not accepted (R109). -/
def State.outstanding (s : State) (w : Who) : Bool :=
  let mine (m : MeshReq) : Bool :=
    decide (m.rq.init.val = w.t.val) && decide (m.rq.tag.toNat = s.copyTag w) && decide (m.op = .write)
  (s.mesh.flights.any fun f => f.held && mine f.req) || s.mesh.stalled.any mine ||
    (List.range 8).any fun c => (SMap.get Ctx.reset s.ctxs c).crossing.any fun p => decide (p.tag = s.copyTag w) &&
      decide (s.fget (Reg.fulCBind c) Reg.fulCBind_TRIAD = w.t.val)

/-- DBAR stalls until every earlier clean write has its response and every earlier packet has been accepted (R109; log entry 9). -/
def execDbar (w : Who) (g : Guard) (s : State) : Out :=
  let waits := s.executes w g && s.outstanding w
  .next (if waits then s else s.run w g false fun c => Local.nop c)

/-! ### ERET (R142, R143) -/

/-- A frame of a copy: PC, the word of PSR, SOURCE and KIND, and g1 to g14. -/
def State.frame (s : State) (k : Nat) (off : Nat) : List Word := (List.range 16).map fun i => s.tcmRead k (off + 8 * i)

/-- The copy with a frame restored: PSR, g1 to g14, DEPTH, and the level popped if KIND = 1 (R142). -/
def Copy.restored (c : Copy) (fr : List Word) : Copy :=
  let w := fr.getD 1 0
  let x := { c with
    g := (List.range 14).foldl (fun m i => SMap.put 0 m (i + 1) (fr.getD (i + 2) 0)) c.g
    psr := setBits c.psr 0 11 (bits w 0 11)
    icStk := setBits c.icStk 16 6 (c.depth - 1) }
  if bit w 63 then x.popLevel else x

/-- The candidate that would preempt the restored context (R143). -/
def State.chainCandidate (s : State) (k : Nat) : Option Nat :=
  let c := s.copy k
  if c.priv = 0 ∨ c.depth = 0 then none
  else
    let x := c.restored (s.frame k (c.frameOff (c.depth - 1)))
    x.candidate.bind fun y => if x.takes y.2 then some y.1 else none

/-- The array words that an ERET reads: the frame in the data TCM (R426). -/
def frameReads (off : Nat) : List (ArrayId × Nat) := (List.range 16).map fun i => (ArrayId.tcm, (off + 8 * i) % 0x10000 / 8)

/-- ERET in one copy: a plain return, or a tail chain into a source's handler (R142, R143). DESIGN CHOICE (log entry 169): the handler that it chains to
runs with the PSR of the handler that executed the ERET, but for PRIV. -/
def State.eretLocal (s : State) (k : Nat) (c : Copy) (chain : Option Nat) : Local :=
  if c.priv = 0 then Local.trapping c (trapOf cPRIV)
  else if c.depth = 0 then Local.trapping c (trapOf cUNDEF)
  else
    let off := c.frameOff (c.depth - 1)
    let fr := s.frame k off
    match chain with
    | none =>
      { Local.nop (c.restored fr) with
        nextPc := some (fr.getD 0 0), cycles := 10, reads := frameReads off, eret := true, noLatch := true }
    | some src =>
      let popped := if bit (fr.getD 1 0) 63 then c.popLevel else c
      let lvl := c.srcLevel src
      let x := { popped with psr := setBits c.psr 8 2 (if c.srcMon src then 2 else max 1 c.priv), cause := 0 }
      { Local.nop ((x.pushLevel lvl src).clrLatch src) with
        nextPc := some (s.tcmRead k (c.vectorOff (.irq src))), cycles := 4, eret := true,
        reads := frameReads off ++ [(ArrayId.tcm, c.vectorOff (.irq src) % 0x10000 / 8)],
        sides := [{ kind := 7, a := src + 256 * lvl, b := 0, c := 0 }] }

/-- After ERET: the triad's reservation is cleared (R106), and a tail chain has rewritten SOURCE and KIND of the frame in each copy's own TCM. -/
def State.eretPost (s : State) (t : Nat) (ks : List Nat) (c : Copy) (chain : Option Nat) : State :=
  let s := { s with resv := SMap.put none s.resv t none }
  match chain with
  | none => s
  | some src => ks.foldl (fun s x =>
      let k := copyIx t x
      let a := c.frameOff (c.depth - 1) + 8
      let w := setBits (setBits (s.tcmRead k a) 55 8 src) 63 1 1
      s.tcmWrite k a [w]) s

/-- ERET: d, a and b must be 0 (R94); in a group mode the opener opens an agreement where its own latches hold a candidate that would
preempt, and in SPLIT a copy chains to its own candidate (R142, R143). An uncorrectable frame word stops a SPLIT copy (R132). -/
def execEret (w : Who) (g : Guard) (d a b : RegNo) (s : State) : Out :=
  let t := w.t.val
  let undef := decide (d ≠ 0) || decide (a ≠ 0) || decide (b ≠ 0)
  let go (s : State) (chain : Option Nat) : State :=
    s.runThen w g undef (fun s k c => s.eretLocal k c chain) fun ks c s => s.eretPost t ks c chain
  match s.runners w with
  | [] => .next s
  | x :: _ =>
    let k := copyIx t x
    let c := s.copy k
    if undef || g.undef || bit c.pc 0 || !g.holds c then .next (go s none)
    else
      match s.chainCandidate k with
      | none => .next (go s none)
      | some src =>
        if s.groupMode t then
          match s.irqAgreement t false with
          | (got, s) => .next (go s got)
        else .next (go s (some src))

/-! ### MSYNC (R76 to R80) -/

/-- The copies that a transition to a mode rebuilds (R79). -/
def State.transRebuilds (s : State) (t tgt sp : Nat) : List Nat :=
  match s.mode t, tgt with
  | 0, 1 => (s.isolated t).filter (· < 2)
  | 0, 2 => s.isolated t
  | 1, 0 => [2]
  | 1, 2 => [2]
  | 2, 0 => [1, 2]
  | 2, 1 => if sp = 1 then [1, 2] else [1]
  | _, _ => []

/-- The armed request is legal (R76). -/
def State.modeLegal (s : State) (t : Nat) : Bool :=
  let tgt := s.fget (Reg.triModeReq t) Reg.triModeReq_TARGET
  let sp := s.fget (Reg.triModeReq t) Reg.triModeReq_SPARE
  let allow := s.rd (Reg.triModeAllow t)
  let rb := s.transRebuilds t tgt sp
  decide (tgt < 3) && bit allow tgt && (decide (sp = 0) || bit allow Reg.triModeAllow_SPARE_RUN.lo) &&
    decide (s.tri t Reg.triStatus_DBG_BROKEN = 0) && decide (s.tri t Reg.triStatus_STOPPED = 0) &&
    (rb.isEmpty || (!(s.triad t).resyncBad && !rb.any (s.copyFailed t)))

/-- A request is armed (TRI_MODE_REQ.ARM). -/
def State.armed (s : State) (t : Nat) : Bool := decide (s.fget (Reg.triModeReq t) Reg.triModeReq_ARM = 1)

/-- The next MSYNC clears ARM. -/
def State.disarm (s : State) (t : Nat) : State := s.fset (Reg.triModeReq t) Reg.triModeReq_ARM 0

/-- An illegal request is refused (R76). -/
def State.refuseMode (s : State) (t : Nat) : State := (s.disarm t).raise (srcMODE_SWITCH_ILLEGAL t)

/-- The triad's status fields and its spare after it has entered a mode (R55, R79). -/
def State.enterMode (s : State) (t tgt : Nat) (spareRuns : Bool) : State :=
  let w := s.rd (Reg.triStatus t)
  let w := setBits w Reg.triStatus_MODE.lo 2 tgt
  let w := setBits w Reg.triStatus_LIVE.lo 3 (if tgt = 1 then 3 else 7)
  let w := setBits w Reg.triStatus_ISOLATED.lo 3 0
  let w := setBits w Reg.triStatus_SPARE_RUN.lo 1 (b2n (decide (tgt = 1) && spareRuns))
  let s := s.wr (Reg.triStatus t) w
  if tgt = 1 ∧ !spareRuns then s.modCopy (copyIx t 2) fun c => { c with status := .held } else s

/-- The words that cleaning the dirty lines of a copy reads. -/
def Copy.dirtyReads (c : Copy) : List (ArrayId × Nat) := c.dirtyKeys.flatMap lineReads

/-- Dirty lines of a copy are written to memory and marked clean (R79). A line with an uncorrectable word is not written: it raises CACHE_UE (log
entry 170). -/
def State.cleanCopy (s : State) (t tag c : Nat) : State :=
  let k := copyIx t c
  let s := (s.copy k).dirtyReads.foldl (fun s r => s.arrayRead k r) s
  let x := s.copy k
  let s := x.dirtyKeys.foldl (fun s key =>
    let l := x.dLine key
    match (lineReads key).find? fun r => x.ue.contains r with
    | some r => (s.arrayUe (arrayCode k r.1 r.2)).raise (srcCACHE_UE t)
    | none => (s.serve (coreReq t tag .write .swap (l.line * 64) 64 l.data 0)).2) s
  s.modCopy k fun y => x.dirtyKeys.foldl (fun y key => y.markClean key) y

/-- A and B of a PAIR clean their dirty lines: each word is one compared write (R13, R79, R100), and it leaves once. -/
def State.cleanPair (s : State) (t : Nat) : Bool × State :=
  let count := bits (s.rd (Reg.triCommitCount t)) 0 16
  let ls := [0, 1].map fun c =>
    let x := s.copy (copyIx t c)
    (c, { Local.nop x with msync := true, reads := x.dirtyReads, sides := x.dirtyKeys.flatMap (cleanSides x) })
  let s := s.noteReads t ls
  match s.fence t false (ueHits s t ls) (fun s _ => s) (ls.map fun x => (x.1, bundlesOf (s.copy (copyIx t x.1)) count (.c16 false) x.2)) with
  | (false, s) => (false, s)
  | (true, s) =>
    let s := s.cleanCopy t 3 0
    (true, s.modCopy (copyIx t 1) fun y => y.dirtyKeys.foldl (fun y key => y.markClean key) y)

/-- Every dirty line reaches memory before any array is overwritten: A and B from PAIR, B, C and then A from SPLIT (R79). -/
def State.cleanForMode (s : State) (t : Nat) : Bool × State :=
  match s.mode t with
  | 1 => s.cleanPair t
  | 2 => (true, ((s.cleanCopy t 1 1).cleanCopy t 2 2).cleanCopy t 0 0)
  | _ => (true, s)

/-- A copy waiting at MSYNC completes it with a status (R80). -/
def Copy.finishMsync (c : Copy) (st : Nat) : Copy :=
  match c.status with
  | .msync d len16 =>
    let x := (c.setReg d (BitVec.ofNat 64 st)).flushPend
    { x with pc := c.pc + (if len16 then 2 else 4), slot := false, instret := x.instret + 1, cycle := x.cycle + 4, status := .run }
  | _ => c

/-- Every waiting copy of a triad completes its MSYNC with a status, one committed instruction of the group (TRI_COMMIT_COUNT). -/
def State.finishMsyncs (s : State) (t st : Nat) : State :=
  let s := s.fadd (Reg.triCommitCount t) Reg.triCommitCount_COUNT 1
  (s.forCopies t [0, 1, 2] (·.finishMsync st)).fset (Reg.triStatus t) Reg.triStatus_MSYNC_WAIT 0

/-- A transition that rebuilds copies begins: dirty lines are cleaned, and the engine starts copying while the live copies wait (R79). A triad whose
clean writes differ stops instead. -/
def State.beginTransition (s : State) (t tgt : Nat) (sp : Bool) (rb : List Nat) : State :=
  match if s.mode t = 1 ∧ tgt = 2 then (true, s) else s.cleanForMode t with
  | (false, s) => s
  | (true, s) => (s.rebuildStart t rb).modTriad t fun x => { x with trans := some (tgt, sp) }

/-- The waiting copies of the triad meet an armed request: refused, without effect, entered at once, or begun (R76, R79, R80). -/
def State.applyMode (s : State) (t : Nat) : State :=
  let tgt := s.fget (Reg.triModeReq t) Reg.triModeReq_TARGET
  let sp := decide (s.fget (Reg.triModeReq t) Reg.triModeReq_SPARE = 1)
  let rb := s.transRebuilds t tgt (b2n sp)
  if !s.modeLegal t then (s.refuseMode t).finishMsyncs t 2
  else if s.mode t = tgt then (s.disarm t).finishMsyncs t 0
  else if rb.isEmpty then
    let spareRuns := sp && s.live t 2
    ((s.disarm t).finishMsyncs t 0).enterMode t tgt spareRuns
  else (s.disarm t).beginTransition t tgt sp rb

/-- The trap of an MSYNC, or the status it completes with at once, or none where it meets the armed request. -/
def Local.msyncAt (c : Copy) (d : RegNo) (st : Nat) : Local :=
  if c.priv = 0 then Local.trapping c (trapOf cPRIV)
  else { Local.toG c d (BitVec.ofNat 64 st) 4 with msync := true }

/-- An MSYNC that meets an armed request commits its bundle (R47, R76): the copies that go on to wait at it. In a group mode the bundles, with the
status it will return unless a rebuild fails, pass the fence; in SPLIT an uncorrectable word of a fetch traps. -/
def State.msyncPass (s : State) (w : Who) (g : Guard) (d : RegNo) (ks : List Nat) : List Nat × State :=
  let t := w.t.val
  let ls := ks.map fun x => (x, Local.msyncAt (s.copy (copyIx t x)) d (if s.modeLegal t then 0 else 2))
  let hits := ueHits s t ls
  let count := bits (s.rd (Reg.triCommitCount t)) 0 16
  let (bs, s) := s.applyInject t (ls.map fun x => (x.1, bundlesOf (s.copy (copyIx t x.1)) count g x.2))
  if !s.groupMode t then
    match hits, ls with
    | (c, r) :: _, (_, l) :: _ => ([], s.splitUe t (s.copyTag w) c l r)
    | _, _ => (ks, s)
  else
    match s.fence t false hits (fun s _ => s) bs with
    | (true, s') => (ks.filter fun x => s'.live t x || !s.live t x, s')
    | (false, s') => ([], s')

/-- A live copy waits at MSYNC. -/
def Copy.atMsync (c : Copy) : Bool := match c.status with | .msync _ _ => true | _ => false

/-- MSYNC: a and b must be 0 (R94). It waits while a resynchronisation runs (R77) and while transactions of a SPLIT copy are outstanding
(R78); without an armed request it returns status 1; in DEBUG_SPLIT an armed one is refused at once (R78). In SPLIT a copy that meets
an armed request waits for the other live ones (R78), from the first one's arrival on for TRI_MSYNC_TMO at most. -/
def execMsync (w : Who) (g : Guard) (d a b : RegNo) (s : State) : Out :=
  let t := w.t.val
  let undef := decide (a ≠ 0) || decide (b ≠ 0)
  let done (s : State) (st : Nat) : State := (s.runInstr w g undef (fun _ _ c => Local.nop c) fun _ _ c => Local.msyncAt c d st).1
  match s.runners w with
  | [] => .next s
  | x :: r =>
    let c := s.copy (copyIx t x)
    if undef || g.undef || bit c.pc 0 || !g.holds c || decide (c.priv = 0) then .next (done s 1)
    else if s.resyncBusy t then .next s
    else if !s.armed t then .next (done s 1)
    else if s.mode t = 3 then .next (s.runThen w g undef (fun _ _ c => Local.msyncAt c d 2) fun _ _ s => s.refuseMode t)
    else if s.outstanding w then .next s
    else
      let wait (c : Copy) : Copy := { g.latch c with status := .msync d (decide (g.len = 2)) }
      match s.msyncPass w g d (x :: r) with
      | ([], s) => .next s
      | (ks, s) =>
        let s := s.forCopies t ks wait
        if s.groupMode t || (s.liveCopies t).all fun c => (s.copy (copyIx t c)).atMsync then .next (s.applyMode t)
        else if s.tri t Reg.triStatus_MSYNC_WAIT = 1 then .next s
        else .next ((s.modTriad t fun x => { x with msyncFrom := s.ticks }).fset (Reg.triStatus t) Reg.triStatus_MSYNC_WAIT 1)

end Sys2Proof.Machine
end

