-- ==== Sys2Proof/Machine/TriadCmds.lean ====
section
/-!
DEFINITION. What happens to a triad outside its instructions (R70 to R83): the phases of a resynchronisation, the end of a mode
transition, the SPLIT barrier's timeout, a debugger attach and the watchdog.
-/

namespace Sys2Proof.Machine

/-- The arrays of the source copied into a copy (R71): data TCM with its valid bits, caches, TLB and BTB. Each word is read from the source, corrected
where that is needed (R131), and written with a fresh code. -/
def State.copyArrays (s : State) (src dst : Nat) : State :=
  let s := (s.copy src).ce.foldl (fun s r => s.arrayRead src r) s
  let a := s.copy src
  let s := { s with
    mem := SMap.copyRange memDefault s.mem (tcmAddr src 0) (tcmAddr dst 0) 0x10000
    prot := { s.prot with valid := SMap.copyRange 0 s.prot.valid (tcmAddr src 0 / 8) (tcmAddr dst 0 / 8) 0x2000 } }
  s.modCopy dst fun x => { x with
    tlb := a.tlb, tlbPtr := a.tlbPtr, icache := a.icache, dcache := a.dcache, lru := a.lru, btb := a.btb, ue := [], ce := [] }

/-- Everything of the source transferred into a copy (the table "Pause transfer"). -/
def State.copyWhole (s : State) (src dst : Nat) : State :=
  let s := s.copyArrays src dst
  let a := s.copy src
  s.modCopy dst fun _ => { a with ue := [], ce := [] }

/-- A phase of TRI_STATUS.RESYNC_PHASE. -/
def State.setPhase (s : State) (t n : Nat) : State := s.fset (Reg.triStatus t) Reg.triStatus_RESYNC_PHASE n

/-- The source copy holds an uncorrectable array word (R73). -/
def State.sourceBad (s : State) (t : Nat) : Bool := !(s.copy (copyIx t (s.leader t))).ue.isEmpty

/-- A completed resynchronisation is counted (TRI_RESYNC_STAT); its duration is a free value (log entry 3). -/
def State.countResync (s : State) (t : Nat) : State :=
  let (v, s) := s.fresh
  let s := s.fset (Reg.triResyncStat t) Reg.triResyncStat_LAST_TOTAL v.toNat
  let s := s.fset (Reg.triResyncStat t) Reg.triResyncStat_LAST_PAUSE 320
  s.fsat (Reg.triResyncStat t) Reg.triResyncStat_DONE 1

/-- RESYNC_COPY_DONE: the copy phase ends; the engine requests a pause (R70, R71). An uncorrectable source word abandons it (R73). -/
def execResyncCopyDone (t : Fin 16) (s : State) : Out :=
  let t := t.val
  if s.tri t Reg.triStatus_RESYNC_PHASE ≠ 1 ∨ (s.triad t).trans.isSome then .next s
  else if s.sourceBad t then .next (s.resyncAbandon t true)
  else
    let src := copyIx t (s.leader t)
    .next (((s.triad t).rebuild.foldl (fun s c => s.copyArrays src (copyIx t c)) s).setPhase t 2)

/-- A live copy of the triad is within an instruction: it waits for a coprocessor's or an agreed value, or an access of its is in progress (R72, R204,
R428). -/
def State.midInstr (s : State) (t : Nat) : Bool :=
  s.inAccess t (fun _ => true) || (s.liveCopies t).any fun c => match (s.copy (copyIx t c)).status with
    | .cop => true
    | .agree _ => true
    | _ => false

/-- A verification finds that the signatures of source and target differ (R73), once. -/
def State.sigTake (s : State) (t : Nat) : Bool × State :=
  (s.latent.sig.contains t, { s with latent := { s.latent with sig := s.latent.sig.erase t } })

/-- RESYNC_PAUSE: the pair stops at the instruction boundary it has reached and its state is transferred (R71, R72); a verification whose signatures
differ abandons it (R73). -/
def execResyncPause (t : Fin 16) (sigOk : Bool) (s : State) : Out :=
  let t := t.val
  if s.tri t Reg.triStatus_RESYNC_PHASE ≠ 2 ∨ (s.triad t).trans.isSome ∨ s.midInstr t then .next s
  else
    match s.sigTake t with
    | (bad, s) =>
    if bad || !sigOk || s.sourceBad t then .next (s.resyncAbandon t true)
    else
      let src := copyIx t (s.leader t)
      .next (((s.triad t).rebuild.foldl (fun s c => s.copyWhole src (copyIx t c)) s).setPhase t 3)

/-- The rebuilt copies join the compared set. -/
def State.rejoin (s : State) (t : Nat) (cs : List Nat) : State :=
  cs.foldl (fun s c =>
    let w := s.rd (Reg.triStatus t)
    s.wr (Reg.triStatus t) (setBits (setBits w (Reg.triStatus_LIVE.lo + c) 1 1) (Reg.triStatus_ISOLATED.lo + c) 1 0)) s

/-- RESYNC_REJOIN: all three copies resume from the boundary (R70). -/
def execResyncRejoin (t : Fin 16) (s : State) : Out :=
  let t := t.val
  if s.tri t Reg.triStatus_RESYNC_PHASE ≠ 3 ∨ (s.triad t).trans.isSome then .next s
  else
    let s := s.rejoin t (s.triad t).rebuild
    let s := (s.setPhase t 0).fset (Reg.triStatus t) Reg.triStatus_RESYNC_BUSY 0
    let s := s.modTriad t fun x => { x with rebuild := [] }
    .next (s.countResync t)

/-- MSYNC_TIMEOUT: a SPLIT barrier has waited TRI_MSYNC_TMO microseconds; the waiting copies continue in SPLIT with status 3 (R78, R80). Before that
time it changes nothing. -/
def execMsyncTimeout (t : Fin 16) (s : State) : Out :=
  let t := t.val
  let due := decide (1000 * s.fget (Reg.triMsyncTmo t) Reg.triMsyncTmo_TMO ≤ s.ticks - (s.triad t).msyncFrom)
  if s.mode t = 2 ∧ s.tri t Reg.triStatus_MSYNC_WAIT = 1 ∧ (s.triad t).trans.isNone ∧ due then .next ((s.finishMsyncs t 3).refuseMode t)
  else .next s

/-- MODE_TRANSITION_DONE: the copies being rebuilt take the source's arrays and state, and the triad enters the mode with status 0 (R79,
R80). Signatures that differ, and an uncorrectable source word, abandon the rebuild: the mode stays and the status is 2 (R73; log entry 14). -/
def execModeTransitionDone (t : Fin 16) (s : State) : Out :=
  let t := t.val
  match (s.triad t).trans with
  | none => .next s
  | some (tgt, sp) =>
    match s.sigTake t with
    | (bad, s) =>
    if bad || s.sourceBad t then .next ((s.resyncAbandon t true).finishMsyncs t 2)
    else
      let rb := (s.triad t).rebuild
      let src := copyIx t (s.leader t)
      let spareRuns := sp && (rb.contains 2 || s.live t 2)
      let s := rb.foldl (fun s c => s.copyWhole src (copyIx t c)) s
      let s := (s.setPhase t 0).fset (Reg.triStatus t) Reg.triStatus_RESYNC_BUSY 0
      let s := s.modTriad t fun x => { x with rebuild := [], trans := none }
      .next (((s.countResync t).finishMsyncs t 0).enterMode t tgt spareRuns)

/-- The life-cycle states in which a debugger may attach (R397). -/
def State.attachOk (s : State) : Bool := decide (s.lc = 1) || decide (s.lc = 3) || decide (s.lc = 4)

/-- The access by which a debugger reaches a copy: the DBG block, as initiator DBG (R82, R180). -/
def dbgReq : MeshReq :=
  { rq := { init := 29, tag := 0 }, op := .write, atom := .swap, pa := BitVec.ofNat 44 (paMmio + 0x150000), len := 8, data := 0, cmp := 0 }

/-- DEBUG_ATTACH: a debugger attaches to a copy where the life-cycle state and the DBG gate allow it; the triad enters DEBUG_SPLIT, sets
DBG_BROKEN and raises DEBUG_LOCKSTEP_BREAK, and a running resynchronisation is abandoned without RESYNC_FAIL (R74, R81, R82, R397). A copy of a triad
not yet released is attached too, and stays halted at the release. -/
def execDebugAttach (w : Who) (s : State) : Out :=
  let t := w.t.val
  if !s.attachOk then .next s
  else
    match s.gateDenies dbgReq with
    | some s' => .next s'
    | none =>
      let held := (s.executing t).filter fun c => !s.live t c
      let s := s.resyncAbandon t false
      let s := s.modTriad t fun x => { x with trans := none, rebuild := [] }
      let s := s.forCopies t held fun c => { c with status := .held }
      let s := s.forCopies t (s.liveCopies t) fun c => match c.status with
        | .msync _ _ => { c with status := .run }
        | _ => c
      let s := if s.live t w.c.num || !(s.triad t).released then s.modCopy (copyIx t w.c.num) fun c => { c with status := .dbg } else s
      let x := s.rd (Reg.triStatus t)
      let x := setBits (setBits (setBits (setBits x Reg.triStatus_MODE.lo 2 3) Reg.triStatus_DBG_BROKEN.lo 1 1)
        Reg.triStatus_SPARE_RUN.lo 1 0) Reg.triStatus_MSYNC_WAIT.lo 1 0
      .next ((s.wr (Reg.triStatus t) x).raise (srcDEBUG_LOCKSTEP_BREAK t))

/-- The triad's watchdog count has reached PERIOD (R83): it runs from the release on while ENABLE = 1, and is frozen while a debugger holds a copy
halted. -/
def State.wdogDue (s : State) (t : Nat) : Bool :=
  let halted := [0, 1, 2].any fun c => decide ((s.copy (copyIx t c)).status = .dbg)
  decide (s.fget (Reg.triWdogCtl t) Reg.triWdogCtl_ENABLE = 1) && (s.triad t).released && !halted &&
    decide (1000 * s.fget (Reg.triWdogCtl t) Reg.triWdogCtl_PERIOD ≤ s.ticks - (s.triad t).wdogFrom)

/-- WATCHDOG: the triad's watchdog count expires, and starts again from zero (R83). Before its time it changes nothing. -/
def execWatchdog (t : Fin 16) (s : State) : Out :=
  if s.wdogDue t.val then .next ((s.raise (srcWATCHDOG t.val)).wdogZero t.val) else .next s

end Sys2Proof.Machine
end

