-- ==== Sys2Proof/Machine/TwinCmds.lean ====
section
/-!
DEFINITION. The twin as commands (R352 to R364): frames received and sent, the sidebands, roles, hand-over and takeover.
-/

namespace Sys2Proof.Machine

/-- What a received frame does once it is taken. -/
def State.zRecv (s : State) (h : ZHdr) (f : State → State) : State :=
  match s.zTake h with
  | (true, s) => f s
  | (false, s) => s

/-! ### Frames received -/

/-- HEARTBEAT: the partner's time and its last applied JSEQ; a primary drops the entries acknowledged, and a synchronisation may end (R354, R357,
R358). -/
def execHeartbeat (h : ZHdr) (applied : BitVec 32) (s : State) : Out :=
  .next (s.zRecv h fun s =>
    let s := s.modTwin fun x => { x with hbLost := false }
    if s.role ≠ 1 then s
    else
      let s := s.fset Reg.twinJrnPos Reg.twinJrnPos_APPLIED applied.toNat
      let s := s.modTwin fun x => { x with
        journal := x.journal.filter fun e => decide ((e.jseq.toNat + 2 ^ 32 - applied.toNat - 1) % 2 ^ 32 < 2 ^ 31) }
      (s.fset Reg.twinJrnOcc Reg.twinJrnOcc_ENTRIES s.twin.journal.length).bulkCheck)

/-- JOURNAL: the entries are applied in JSEQ order, at a device that is no primary (R357). While TWIN has no tag its input stands still, and the frame is
not taken (R43). -/
def execJournal (h : ZHdr) (es : List JEnt) (s : State) : Out :=
  if !s.tagFree iTWIN.val then .next s
  else .next (s.zRecv h fun s => if s.role = 1 then s else (es.take 7).foldl State.applyEntry s)

/-- BULK: a block of at most 448 bytes is written as initiator TWIN (R358), once it has a tag (R43). -/
def execBulk (h : ZHdr) (pa : BitVec 44) (d : List Byte) (s : State) : Out :=
  if !s.tagFree iTWIN.val then .next s
  else .next (s.zRecv h fun s => if s.role = 1 then s else s.devWrite iTWIN pa.toNat (d.take 448))

/-- HANDOVER_FRAME: the primary hands over, a takeover trigger (R361). -/
def execHandoverFrame (h : ZHdr) (s : State) : Out := .next (s.zRecv h fun s => s.trigger true)

/-- HANDOVER_ACK: the hand-over is acknowledged and the device is RETIRED (R363). -/
def execHandoverAck (h : ZHdr) (s : State) : Out :=
  .next (s.zRecv h fun s =>
    if s.twin.waitAck then (s.modTwin fun x => { x with waitAck := false }).fset Reg.twinStatus Reg.twinStatus_ROLE 4 else s)

/-- CONFIG: the partner's role (0 PRIMARY, 1 STANDBY), its epoch, and whether the settings' CRC-32 agree; the roles are resolved (R355). -/
def execConfig (h : ZHdr) (standby : Bool) (epoch : BitVec 16) (crcSame : Bool) (s : State) : Out :=
  let mine := s.tw Reg.twinStatus_EPOCH
  .next (s.zRecv h fun s =>
    let s := s.fset Reg.twinStatus Reg.twinStatus_EPOCH (max (s.tw Reg.twinStatus_EPOCH) epoch.toNat)
    if !crcSame then s.conflict 2
    else if !standby && decide (epoch.toNat ≠ 0) && decide (mine < epoch.toNat) then
      let s := ((s.fset Reg.twinStatus Reg.twinStatus_ROLE 2).fset Reg.twinStatus Reg.twinStatus_PEER_ROLE 1).fset Reg.twinStatus
        Reg.twinStatus_ARMED 1
      s.fset Reg.twinStatus Reg.twinStatus_CONFLICT 0
    else if s.role = 1 then
      (if standby || decide (mine ≠ 0) then (s.fset Reg.twinStatus Reg.twinStatus_CONFLICT 0).syncStart else s.conflict 1)
    else if s.role = 2 then
      (if standby then s.conflict 1
       else ((s.fset Reg.twinStatus Reg.twinStatus_PEER_ROLE 1).fset Reg.twinStatus Reg.twinStatus_ARMED 1).fset Reg.twinStatus
        Reg.twinStatus_CONFLICT 0)
    else s)

/-- ZHEGUS_CRC_ERROR: a frame that fails its CRC is counted, and a NAK is sent at once (R353). -/
def execZhegusCrcError (s : State) : Out :=
  if s.tw Reg.twinStatus_LINK ≠ 2 then .next s
  else
    let s := s.fsat Reg.twinLinkStat Reg.twinLinkStat_CRC_ERR 1
    .next (if s.zRoom then s.zPut true s.heartbeat else s)

/-! ### Frames sent -/

/-- HEARTBEAT_SEND: a heartbeat every 1 us while the link is up (R354). -/
def execHeartbeatSend (s : State) : Out := .next (s.zSend s.heartbeat)

/-- JOURNAL_SEND: up to seven captured entries (R357). -/
def execJournalSend (s : State) : Out := .next (if decide (s.role = 1) && s.zRoom then s.journalOut else s)

/-- The 32-byte blocks of a range that read uncorrectable become POISON entries, and the source is raised (R358). -/
def State.bulkRead (s : State) (pa len : Nat) : List Byte × State :=
  ((List.range ((len + 31) / 32)).foldl (fun (x : List Byte × State) i =>
    let n := min 32 (len - 32 * i)
    match x.2.devRead iTWIN (pa + 32 * i) n with
    | (some d, s) => (x.1 ++ d, s)
    | (none, s) => (x.1 ++ List.replicate n 0, (s.raise 0x1E5).jrnPut 1 (pa + 32 * i) (2 ^ 32 - 1) 0)) ([], s))

/-- A part of the bulk copy is read and sent; the copy has then come to offset `next` of `tot` (R358, TWIN_BULK). -/
def State.bulkPart (s : State) (pa n next tot : Nat) : State :=
  let (d, s) := s.bulkRead pa n
  let s := s.zPut false (.bulk pa d)
  let s := (s.modTwin fun x => { x with bulk := some next }).fset Reg.twinBulk Reg.twinBulk_PERMILLE (next * 1000 / tot)
  if tot ≤ next then s.bulkEnded else s

/-- The part of the mirrored windows at offset `o`, or the end of the copy where there is none left. -/
def State.bulkStep (s : State) (o : Nat) : Option (Nat × Nat) → State
  | none => s.bulkEnded
  | some (pa, left) => s.bulkPart pa (min 448 left) (o + min 448 left) s.mirrorTotal

/-- BULK_SEND: the next block of a bulk synchronisation, of at most 448 bytes (R358), once TWIN has a tag (R43). -/
def execBulkSend (s : State) : Out :=
  match s.twin.bulk with
  | none => .next s
  | some o =>
    if decide (s.role ≠ 1) || !s.zRoom || !s.tagFree iTWIN.val then .next s else .next (s.bulkStep o (s.mirrorAt 16 o))

/-- ALIVE_TOGGLE: TWIN_ALIVE_OUT toggles, from triad release until the watchdog, a sleep or a reset stops it (R354). -/
def execAliveToggle (s : State) : Out :=
  .next (if s.twin.alive then s.modTwin fun x => { x with level := !x.level } else s)

/-- ZHEGUS_RETRANSMIT: no ACK within 500 ns: everything from the oldest frame is sent again, at most three times; the fourth failure takes the link down
for retraining (R353). -/
def execZhegusRetransmit (s : State) : Out :=
  match s.twin.unacked with
  | [] => .next s
  | (_, n) :: _ =>
    if !s.zCarries then .next s
    else if n < 3 then .next s.zResend
    else .next ((s.raise 0x1E1).zDown 1)

/-! ### The link -/

/-- The lanes that the link uses of those that work: all four, or 0 and 1, or 2 and 3 (R352, R374). -/
def State.usableLanes (s : State) (good : Nat) : Nat :=
  let g := good &&& (15 - s.fget Reg.pncFailedMisc Reg.pncFailedMisc_LANE)
  if g = 15 then 15 else if g &&& 3 = 3 then 3 else if g &&& 12 = 12 then 12 else 0

/-- The link uses lanes. -/
def State.setLanes (s : State) (l : Nat) : State :=
  (s.modTwin fun x => { x with lanes := l }).fset Reg.twinStatus Reg.twinStatus_LANES (if l = 15 then 4 else if l = 0 then 0 else 2)

/-- LINK_RETRAIN_DONE: training ends with the lanes that work; the link is up on four or two of them and CONFIG is exchanged (R352, R353, R355). -/
def execLinkRetrainDone (lanes : BitVec 4) (s : State) : Out :=
  if s.tw Reg.twinStatus_LINK ≠ 1 then .next s
  else
    let l := s.usableLanes lanes.toNat
    let s := s.fsat Reg.twinLinkStat Reg.twinLinkStat_RETRAINS 1
    if l = 0 then .next ((s.fset Reg.twinStatus Reg.twinStatus_LINK 0).setLanes 0)
    else
      let s := (s.fset Reg.twinStatus Reg.twinStatus_LINK 2).setLanes l
      let s := if l = 15 then s else s.raise 0x1E2
      let (c, s) := s.fresh
      .next (s.zSend (.config (s.fget Reg.twinCfg Reg.twinCfg_ROLE) (s.tw Reg.twinStatus_EPOCH) (c.toNat % 2 ^ 32)))

/-- TWIN_LANE_FAIL: a lane in use fails; the link goes on with two lanes at half rate, or goes down (R352). -/
def execTwinLaneFail (lane : Fin 4) (s : State) : Out :=
  if s.tw Reg.twinStatus_LINK ≠ 2 ∨ !s.twin.lanes.testBit lane then .next s
  else
    let l := s.usableLanes (if s.twin.lanes = 15 then 15 - 2 ^ lane.val else 0)
    let s := s.raise 0x1E2
    .next (if l = 0 then s.zDown 0 else s.setLanes l)

/-- TWIN_HB_LOSS: no heartbeat for 8 us. With the sideband present a standby raises the source and the link retrains; with both gone it is a takeover
trigger (R354, R361). -/
def execTwinHbLoss (s : State) : Out :=
  let s := s.modTwin fun x => { x with hbLost := true }
  if s.role ≠ 2 then .next s
  else if s.twin.sbLost then .next (s.trigger false)
  else .next ((s.raise 0x1E0).zDown 1)

/-- SIDEBAND_LOSS: TWIN_ALIVE_IN has not toggled for 8 us (R354). -/
def execSidebandLoss (s : State) : Out :=
  let s := (s.fset Reg.twinStatus Reg.twinStatus_ALIVE_IN 0).modTwin fun x => { x with sbLost := true }
  if s.role ≠ 2 then .next s
  else if s.twin.hbLost then .next (s.trigger false)
  else .next (s.raise 0x1E6)

/-- TWIN_ALIVE_IN_TOGGLE: the partner's sideband toggles (R354, TWIN_STATUS.ALIVE_IN). -/
def execTwinAliveInToggle (s : State) : Out :=
  .next ((s.fset Reg.twinStatus Reg.twinStatus_ALIVE_IN 1).modTwin fun x => { x with sbLost := false })

/-- TWIN_SAFE_IN: TWIN_SAFE_IN_N has been low for 100 ns, a trigger while SAFE_IN_EN = 1 (R361). -/
def execTwinSafeIn (s : State) : Out := .next (if s.fget Reg.twinCfg Reg.twinCfg_SAFE_IN_EN = 1 then s.trigger false else s)

/-! ### Takeover and hand-over -/

/-- TAKEOVER: steps 1 and 2: the epoch is incremented, a HANDOVER is acknowledged, and the retry window is resolved (R362). -/
def execTakeover (s : State) : Out :=
  match s.twin.taking with
  | none => .next s
  | some byHandover =>
    if s.twin.begun then .next s
    else
      let s := s.fset Reg.twinStatus Reg.twinStatus_EPOCH ((s.tw Reg.twinStatus_EPOCH + 1) % 65536)
      let s := if byHandover && s.zCarries then s.zPut false .handoverAck else s
      .next (s.modTwin fun x => { x with begun := true, unacked := [] })

/-- TAKEOVER_COMPLETE: step 4: the device is PRIMARY in RUN, its SAFE_N pins high at its first RUN, time from the image's source, grandmaster, and the
takeover doorbell is raised (R362). -/
def execTakeoverComplete (s : State) : Out :=
  if s.twin.taking = none ∨ !s.twin.begun then .next s
  else
    let s := (s.modTwin fun x => { x with taking := none, begun := false, bulk := none, bulkEnd := none }).fset Reg.twinStatus
      Reg.twinStatus_ROLE 1
    let s := s.enterRun
    let s := if s.fget Reg.timeCtl Reg.timeCtl_SOURCE = 6 then s.fset Reg.timeCtl Reg.timeCtl_SOURCE s.timeB.image else s
    let s := s.fset Reg.timeStatus Reg.timeStatus_GM 1
    .next (s.irq (s.fget Reg.twinCfg Reg.twinCfg_TAKE_TRIADS) (64 + s.fget Reg.twinCfg Reg.twinCfg_TAKE_DB))

/-- HANDOVER_ACK_TIMEOUT: no HANDOVER_ACK within 2 us: the device is RETIRED, falls silent on the link and stops TWIN_ALIVE_OUT (R363). -/
def execHandoverAckTimeout (s : State) : Out :=
  if !s.twin.waitAck then .next s
  else .next ((s.modTwin fun x => { x with waitAck := false, silent := true, alive := false }).fset Reg.twinStatus Reg.twinStatus_ROLE 4)

/-- SOLO_TIMEOUT: a standby that is not armed and sees neither link nor sideband for SOLO_MS takes over with epoch 1 (R355). -/
def execSoloTimeout (s : State) : Out :=
  if s.role = 2 ∧ s.opstate = opSTANDBY ∧ s.tw Reg.twinStatus_ARMED = 0 ∧ s.fget Reg.twinCfg Reg.twinCfg_SOLO_MS ≠ 0 ∧
      s.tw Reg.twinStatus_LINK ≠ 2 ∧ s.tw Reg.twinStatus_ALIVE_IN = 0 ∧ s.twin.taking = none then
    .next ((s.fset Reg.twinStatus Reg.twinStatus_EPOCH 1).modTwin fun x => { x with taking := some false, begun := true })
  else .next s

end Sys2Proof.Machine
end

