-- ==== Sys2Proof/Machine/Dispatch.lean ====
section
/-!
DEFINITION. The dispatch of the commands: one arm per constructor of Instr, each a direct call of its meaning.
-/

namespace Sys2Proof.Machine

def exec (i : Instr) (s : State) : Host.Outcome State Fault Refusal :=
  match i with
  | .addAdcSubSbc w g fn sf d a b => Sys2Proof.Machine.execAddAdcSubSbc w g fn sf d a b s
  | .andOrXorAndnOrn w g fn sf d a b => Sys2Proof.Machine.execAndOrXorAndnOrn w g fn sf d a b s
  | .sllSrlSraRor w g fn sf d a b => Sys2Proof.Machine.execSllSrlSraRor w g fn sf d a b s
  | .minMaxMinuMaxu w g fn sf d a b => Sys2Proof.Machine.execMinMaxMinuMaxu w g fn sf d a b s
  | .sextZext w g fn sf d a b => Sys2Proof.Machine.execSextZext w g fn sf d a b s
  | .clzCtzPopcRev w g fn sf d a b => Sys2Proof.Machine.execClzCtzPopcRev w g fn sf d a b s
  | .sltSltu w g uns sf d a b => Sys2Proof.Machine.execSltSltu w g uns sf d a b s
  | .addiAndiOriXori w g fn d a imm => Sys2Proof.Machine.execAddiAndiOriXori w g fn d a imm s
  | .shi w g fn sf d a amt z => Sys2Proof.Machine.execShi w g fn sf d a amt z s
  | .cmpi w g d a imm => Sys2Proof.Machine.execCmpi w g d a imm s
  | .movi w g d imm => Sys2Proof.Machine.execMovi w g d imm s
  | .movh w g d imm => Sys2Proof.Machine.execMovh w g d imm s
  | .mulMulhMulhu w g fn d a b => Sys2Proof.Machine.execMulMulhMulhu w g fn d a b s
  | .divDivuRemRemu w g fn d a b => Sys2Proof.Machine.execDivDivuRemRemu w g fn d a b s
  | .faddFsubFmul w g fn p d a b => Sys2Proof.Machine.execFaddFsubFmul w g fn p d a b s
  | .fdiv w g p d a b => Sys2Proof.Machine.execFdiv w g p d a b s
  | .fsqrt w g p d a b => Sys2Proof.Machine.execFsqrt w g p d a b s
  | .fminFmaxFnegFabs w g fn p d a b => Sys2Proof.Machine.execFminFmaxFnegFabs w g fn p d a b s
  | .fcmp w g p d a b => Sys2Proof.Machine.execFcmp w g p d a b s
  | .fcvt w g fn p d a b => Sys2Proof.Machine.execFcvt w g fn p d a b s
  | .fmvGfFg w g toF d a b => Sys2Proof.Machine.execFmvGfFg w g toF d a b s
  | .fmaddFmsub w g sub p d a b c => Sys2Proof.Machine.execFmaddFmsub w g sub p d a b c s
  | .ldLdu w g uns size d a imm => Sys2Proof.Machine.execLdLdu w g uns size d a imm s
  | .st w g size d a imm => Sys2Proof.Machine.execSt w g size d a imm s
  | .fldFst w g store size d a imm => Sys2Proof.Machine.execFldFst w g store size d a imm s
  | .memxLoadStore w g kind size scale freg d a b => Sys2Proof.Machine.execMemxLoadStore w g kind size scale freg d a b s
  | .ll w g size z d a => Sys2Proof.Machine.execLl w g size z d a s
  | .sc w g size z d a b => Sys2Proof.Machine.execSc w g size z d a b s
  | .amoswap w g size z d a b => Sys2Proof.Machine.execAmoswap w g size z d a b s
  | .amoadd w g size z d a b => Sys2Proof.Machine.execAmoadd w g size z d a b s
  | .amocas w g size z d a b => Sys2Proof.Machine.execAmocas w g size z d a b s
  | .b w g off => Sys2Proof.Machine.execB w g off s
  | .bl w g off => Sys2Proof.Machine.execBl w g off s
  | .jalr w g d a imm => Sys2Proof.Machine.execJalr w g d a imm s
  | .csrr w g d csr => Sys2Proof.Machine.execCsrr w g d csr s
  | .csrw w g d csr => Sys2Proof.Machine.execCsrw w g d csr s
  | .psrWrite w g d => Sys2Proof.Machine.execPsrWrite w g d s
  | .agtimeRead w g d oa ob oc => Sys2Proof.Machine.execAgtimeRead w g d oa ob oc s
  | .ageventRead w g d ea eb ec => Sys2Proof.Machine.execAgeventRead w g d ea eb ec s
  | .icinvVa w g d => Sys2Proof.Machine.execIcinvVa w g d s
  | .icinvAll w g d => Sys2Proof.Machine.execIcinvAll w g d s
  | .dcinvVa w g d => Sys2Proof.Machine.execDcinvVa w g d s
  | .dccleanVa w g d => Sys2Proof.Machine.execDccleanVa w g d s
  | .dccleanAll w g d => Sys2Proof.Machine.execDccleanAll w g d s
  | .dcinvAll w g d => Sys2Proof.Machine.execDcinvAll w g d s
  | .icSwset w g d => Sys2Proof.Machine.execIcSwset w g d s
  | .patchDataWrite w g d => Sys2Proof.Machine.execPatchDataWrite w g d s
  | .trap w g d code => Sys2Proof.Machine.execTrap w g d code s
  | .eret w g d a b => Sys2Proof.Machine.execEret w g d a b s
  | .wfi w g => Sys2Proof.Machine.execWfi w g s
  | .msync w g d a b => Sys2Proof.Machine.execMsync w g d a b s
  | .ibar w g => Sys2Proof.Machine.execIbar w g s
  | .dbar w g => Sys2Proof.Machine.execDbar w g s
  | .tlbwr w g d a b => Sys2Proof.Machine.execTlbwr w g d a b s
  | .tlbrdT w g d a b => Sys2Proof.Machine.execTlbrdT w g d a b s
  | .tlbrdP w g d a b => Sys2Proof.Machine.execTlbrdP w g d a b s
  | .tlbinvVa w g a b => Sys2Proof.Machine.execTlbinvVa w g a b s
  | .tlbinvAsid w g a => Sys2Proof.Machine.execTlbinvAsid w g a s
  | .tlbinvAll w g => Sys2Proof.Machine.execTlbinvAll w g s
  | .tlbinvIdx w g a => Sys2Proof.Machine.execTlbinvIdx w g a s
  | .cop w word => Sys2Proof.Machine.execCop w word s
  | .patch w word => Sys2Proof.Machine.execPatch w word s
  | .instructionFetch w => Sys2Proof.Machine.execInstructionFetch w s
  | .iauAgreement w => Sys2Proof.Machine.execIauAgreement w s
  | .interruptLatchSet src triads copies => Sys2Proof.Machine.execInterruptLatchSet src triads copies s
  | .timeCompare t => Sys2Proof.Machine.execTimeCompare t s
  | .tagIssue init => Sys2Proof.Machine.execTagIssue init s
  | .meshRequest m => Sys2Proof.Machine.execMeshRequest m s
  | .meshResponse init => Sys2Proof.Machine.execMeshResponse init s
  | .tagRespTimeout rq va isWrite => Sys2Proof.Machine.execTagRespTimeout rq va isWrite s
  | .meshVcStall => Sys2Proof.Machine.execMeshVcStall s
  | .fcruEvaluation => Sys2Proof.Machine.execFcruEvaluation s
  | .escWindowExpire src => Sys2Proof.Machine.execEscWindowExpire src s
  | .fcruWdogExpire => Sys2Proof.Machine.execFcruWdogExpire s
  | .fcruSwRaise rq v => Sys2Proof.Machine.execFcruSwRaise rq v s
  | .globalLock rq => Sys2Proof.Machine.execGlobalLock rq s
  | .logWrapClear rq => Sys2Proof.Machine.execLogWrapClear rq s
  | .pendClear rq n v => Sys2Proof.Machine.execPendClear rq n v s
  | .matrixWrite rq src v => Sys2Proof.Machine.execMatrixWrite rq src v s
  | .matrixLock rq src => Sys2Proof.Machine.execMatrixLock rq src s
  | .go rq t => Sys2Proof.Machine.execGo rq t s
  | .resyncCopyDone t => Sys2Proof.Machine.execResyncCopyDone t s
  | .resyncPause t sigOk => Sys2Proof.Machine.execResyncPause t sigOk s
  | .resyncRejoin t => Sys2Proof.Machine.execResyncRejoin t s
  | .arm rq t v => Sys2Proof.Machine.execArm rq t v s
  | .msyncTimeout t => Sys2Proof.Machine.execMsyncTimeout t s
  | .modeTransitionDone t => Sys2Proof.Machine.execModeTransitionDone t s
  | .triInject rq t v => Sys2Proof.Machine.execTriInject rq t v s
  | .triWdogKick rq t v => Sys2Proof.Machine.execTriWdogKick rq t v s
  | .watchdog t => Sys2Proof.Machine.execWatchdog t s
  | .triMismatchClear rq t => Sys2Proof.Machine.execTriMismatchClear rq t s
  | .debugAttach w => Sys2Proof.Machine.execDebugAttach w s
  | .gateRuleShadowWrite rq gt k which v => Sys2Proof.Machine.execGateRuleShadowWrite rq gt k which v s
  | .gateRuleCtlWrite rq gt k v => Sys2Proof.Machine.execGateRuleCtlWrite rq gt k v s
  | .lockAll rq gt => Sys2Proof.Machine.execLockAll rq gt s
  | .gateDrain rq gt => Sys2Proof.Machine.execGateDrain rq gt s
  | .gateDrainComplete rq gt => Sys2Proof.Machine.execGateDrainComplete rq gt s
  | .gateLogClr rq gt => Sys2Proof.Machine.execGateLogClr rq gt s
  | .xltRootWrite rq c v => Sys2Proof.Machine.execXltRootWrite rq c v s
  | .xltAsidWrite rq c v => Sys2Proof.Machine.execXltAsidWrite rq c v s
  | .xltRootLock rq c => Sys2Proof.Machine.execXltRootLock rq c s
  | .fulWalk c va write => Sys2Proof.Machine.execFulWalk c va write s
  | .fulPacketAccept c parityOk => Sys2Proof.Machine.execFulPacketAccept c parityOk s
  | .fulInstrComplete c k => Sys2Proof.Machine.execFulInstrComplete c k s
  | .vi c => Sys2Proof.Machine.execVi c s
  | .viM c => Sys2Proof.Machine.execViM c s
  | .vf c => Sys2Proof.Machine.execVf c s
  | .vfM c => Sys2Proof.Machine.execVfM c s
  | .vfma c => Sys2Proof.Machine.execVfma c s
  | .vfmaM c => Sys2Proof.Machine.execVfmaM c s
  | .vfnma c => Sys2Proof.Machine.execVfnma c s
  | .vdot c => Sys2Proof.Machine.execVdot c s
  | .vcmp c => Sys2Proof.Machine.execVcmp c s
  | .vcmpu c => Sys2Proof.Machine.execVcmpu c s
  | .vred c => Sys2Proof.Machine.execVred c s
  | .vmask c => Sys2Proof.Machine.execVmask c s
  | .vmerge c => Sys2Proof.Machine.execVmerge c s
  | .vmov c => Sys2Proof.Machine.execVmov c s
  | .vinvAll c => Sys2Proof.Machine.execVinvAll c s
  | .walkinv c => Sys2Proof.Machine.execWalkinv c s
  | .vld c => Sys2Proof.Machine.execVld c s
  | .vldM c => Sys2Proof.Machine.execVldM c s
  | .vst c => Sys2Proof.Machine.execVst c s
  | .vstM c => Sys2Proof.Machine.execVstM c s
  | .vsplat c => Sys2Proof.Machine.execVsplat c s
  | .vslidedn c => Sys2Proof.Machine.execVslidedn c s
  | .strm c => Sys2Proof.Machine.execStrm c s
  | .vinvVa c => Sys2Proof.Machine.execVinvVa c s
  | .vinvAsid c => Sys2Proof.Machine.execVinvAsid c s
  | .vsync c => Sys2Proof.Machine.execVsync c s
  | .vmvs c => Sys2Proof.Machine.execVmvs c s
  | .vmpop c => Sys2Proof.Machine.execVmpop c s
  | .vmfirst c => Sys2Proof.Machine.execVmfirst c s
  | .vgetvl c => Sys2Proof.Machine.execVgetvl c s
  | .vrdseq c => Sys2Proof.Machine.execVrdseq c s
  | .vshape c => Sys2Proof.Machine.execVshape c s
  | .streamChunk c => Sys2Proof.Machine.execStreamChunk c s
  | .streamPrefetch c src => Sys2Proof.Machine.execStreamPrefetch c src s
  | .fulWindowBoundary => Sys2Proof.Machine.execFulWindowBoundary s
  | .fulGapEnd late => Sys2Proof.Machine.execFulGapEnd late s
  | .fulWatchdog c => Sys2Proof.Machine.execFulWatchdog c s
  | .fulSliceGate k => Sys2Proof.Machine.execFulSliceGate k s
  | .fulSliceWakeDone k => Sys2Proof.Machine.execFulSliceWakeDone k s
  | .fulPgCtlWrite rq v => Sys2Proof.Machine.execFulPgCtlWrite rq v s
  | .fulEventPendClear rq c v => Sys2Proof.Machine.execFulEventPendClear rq c v s
  | .clear rq c => Sys2Proof.Machine.execClear rq c s
  | .fflagsClear rq c v => Sys2Proof.Machine.execFflagsClear rq c v s
  | .checkLastClear rq c => Sys2Proof.Machine.execCheckLastClear rq c s
  | .spareWakeDone => Sys2Proof.Machine.execSpareWakeDone s
  | .rotationCopyDone cr => Sys2Proof.Machine.execRotationCopyDone cr s
  | .rotationMarchDone cr pass => Sys2Proof.Machine.execRotationMarchDone cr pass s
  | .rotationClearDone cr => Sys2Proof.Machine.execRotationClearDone cr s
  | .memSsPwrWrite rq n v => Sys2Proof.Machine.execMemSsPwrWrite rq n v s
  | .bankEnterLow b => Sys2Proof.Machine.execBankEnterLow b s
  | .bankWakeDone b => Sys2Proof.Machine.execBankWakeDone b s
  | .zodClearDone r => Sys2Proof.Machine.execZodClearDone r s
  | .zodBackgroundClear => Sys2Proof.Machine.execZodBackgroundClear s
  | .ddrZodCtlWrite rq v => Sys2Proof.Machine.execDdrZodCtlWrite rq v s
  | .ddrZodProbeWrite rq v => Sys2Proof.Machine.execDdrZodProbeWrite rq v s
  | .ceWriteback pa => Sys2Proof.Machine.execCeWriteback pa s
  | .mergeDrain pa => Sys2Proof.Machine.execMergeDrain pa s
  | .remap k n => Sys2Proof.Machine.execRemap k n s
  | .edcCtlWrite rq v => Sys2Proof.Machine.execEdcCtlWrite rq v s
  | .edcLock rq => Sys2Proof.Machine.execEdcLock rq s
  | .logClr rq m => Sys2Proof.Machine.execLogClr rq m s
  | .ueFirstClear rq k => Sys2Proof.Machine.execUeFirstClear rq k s
  | .edcInjArm rq v => Sys2Proof.Machine.execEdcInjArm rq v s
  | .firedClear rq => Sys2Proof.Machine.execFiredClear rq s
  | .scrubGo rq => Sys2Proof.Machine.execScrubGo rq s
  | .scrubAbort rq => Sys2Proof.Machine.execScrubAbort rq s
  | .scrubUnit => Sys2Proof.Machine.execScrubUnit s
  | .remapLock rq k e => Sys2Proof.Machine.execRemapLock rq k e s
  | .frameReceive f => Sys2Proof.Machine.execFrameReceive f s
  | .ringDescriptorVisible ring => Sys2Proof.Machine.execRingDescriptorVisible ring s
  | .cbSeqRecovery f => Sys2Proof.Machine.execCbSeqRecovery f s
  | .linkDown p m lanes => Sys2Proof.Machine.execLinkDown p m lanes s
  | .preemptVerify p m ok => Sys2Proof.Machine.execPreemptVerify p m ok s
  | .admRingConsWrite rq n cons => Sys2Proof.Machine.execAdmRingConsWrite rq n cons s
  | .admSringConsWrite rq n cons => Sys2Proof.Machine.execAdmSringConsWrite rq n cons s
  | .admReqAdmit rq n => Sys2Proof.Machine.execAdmReqAdmit rq n s
  | .admReqWithdraw rq n => Sys2Proof.Machine.execAdmReqWithdraw rq n s
  | .ethTxqTailWrite rq p q tail => Sys2Proof.Machine.execEthTxqTailWrite rq p q tail s
  | .frameTransmit p q fragments => Sys2Proof.Machine.execFrameTransmit p q fragments s
  | .gclEntryAdvance p => Sys2Proof.Machine.execGclEntryAdvance p s
  | .change rq p => Sys2Proof.Machine.execChange rq p s
  | .gclConfigChange p => Sys2Proof.Machine.execGclConfigChange p s
  | .install rq p => Sys2Proof.Machine.execInstall rq p s
  | .retire rq p => Sys2Proof.Machine.execRetire rq p s
  | .ping => Sys2Proof.Machine.execPing s
  | .getState => Sys2Proof.Machine.execGetState s
  | .timeQuery => Sys2Proof.Machine.execTimeQuery s
  | .admitFlow => Sys2Proof.Machine.execAdmit s
  | .withdraw => Sys2Proof.Machine.execWithdraw s
  | .submitJob => Sys2Proof.Machine.execSubmitJob s
  | .getResult => Sys2Proof.Machine.execGetResult s
  | .releaseResult => Sys2Proof.Machine.execReleaseResult s
  | .getProgress => Sys2Proof.Machine.execGetProgress s
  | .recFreeze => Sys2Proof.Machine.execRecFreeze s
  | .recRead => Sys2Proof.Machine.execRecRead s
  | .recRelease => Sys2Proof.Machine.execRecRelease s
  | .enterMaint => Sys2Proof.Machine.execEnterMaint s
  | .imageWrite => Sys2Proof.Machine.execImageWrite s
  | .codeWrite => Sys2Proof.Machine.execCodeWrite s
  | .resetReq => Sys2Proof.Machine.execResetReq s
  | .handoverCommand => Sys2Proof.Machine.execHandoverCommand s
  | .resetReqReset => Sys2Proof.Machine.execResetReqReset s
  | .dhpSessionClose k => Sys2Proof.Machine.execDhpSessionClose k s
  | .jobDeadlineExpire n => Sys2Proof.Machine.execJobDeadlineExpire n s
  | .dhpSlotDone rq n v => Sys2Proof.Machine.execDhpSlotDone rq n v s
  | .dhpSlotProgWrite rq n v => Sys2Proof.Machine.execDhpSlotProgWrite rq n v s
  | .dhpJobqConsWrite rq j cons => Sys2Proof.Machine.execDhpJobqConsWrite rq j cons s
  | .recRecordWrite => Sys2Proof.Machine.execRecRecordWrite s
  | .freeze rq => Sys2Proof.Machine.execFreeze rq s
  | .release rq => Sys2Proof.Machine.execRelease rq s
  | .timeStep rq v => Sys2Proof.Machine.execTimeStep rq v s
  | .timeRateWrite rq v => Sys2Proof.Machine.execTimeRateWrite rq v s
  | .timeNowRead rq => Sys2Proof.Machine.execTimeNowRead rq s
  | .servoReferenceEvent ofs => Sys2Proof.Machine.execServoReferenceEvent ofs s
  | .timeSourceLoss => Sys2Proof.Machine.execTimeSourceLoss s
  | .holdoverLimit => Sys2Proof.Machine.execHoldoverLimit s
  | .tcxoCheck dev => Sys2Proof.Machine.execTcxoCheck dev s
  | .timeOutEdge n stuck => Sys2Proof.Machine.execTimeOutEdge n stuck s
  | .timeOutCfgWrite rq n v => Sys2Proof.Machine.execTimeOutCfgWrite rq n v s
  | .timeInEdge n falling age => Sys2Proof.Machine.execTimeInEdge n falling age s
  | .timeInCapRead rq n => Sys2Proof.Machine.execTimeInCapRead rq n s
  | .gptpSyncTransmit k p m kind => Sys2Proof.Machine.execGptpSyncTransmit k p m kind s
  | .pdelayExchange p m delay => Sys2Proof.Machine.execPdelayExchange p m delay s
  | .gptpFrameReceive k ofs => Sys2Proof.Machine.execGptpFrameReceive k ofs s
  | .heartbeat h applied => Sys2Proof.Machine.execHeartbeat h applied s
  | .heartbeatSend => Sys2Proof.Machine.execHeartbeatSend s
  | .aliveToggle => Sys2Proof.Machine.execAliveToggle s
  | .journal h es => Sys2Proof.Machine.execJournal h es s
  | .bulk h pa d => Sys2Proof.Machine.execBulk h pa d s
  | .handoverFrame h => Sys2Proof.Machine.execHandoverFrame h s
  | .handoverAck h => Sys2Proof.Machine.execHandoverAck h s
  | .config h standby epoch crcSame => Sys2Proof.Machine.execConfig h standby epoch crcSame s
  | .journalSend => Sys2Proof.Machine.execJournalSend s
  | .bulkSend => Sys2Proof.Machine.execBulkSend s
  | .zhegusRetransmit => Sys2Proof.Machine.execZhegusRetransmit s
  | .linkRetrainDone lanes => Sys2Proof.Machine.execLinkRetrainDone lanes s
  | .twinHbLoss => Sys2Proof.Machine.execTwinHbLoss s
  | .sidebandLoss => Sys2Proof.Machine.execSidebandLoss s
  | .twinSafeIn => Sys2Proof.Machine.execTwinSafeIn s
  | .takeover => Sys2Proof.Machine.execTakeover s
  | .takeoverComplete => Sys2Proof.Machine.execTakeoverComplete s
  | .handoverAckTimeout => Sys2Proof.Machine.execHandoverAckTimeout s
  | .soloTimeout => Sys2Proof.Machine.execSoloTimeout s
  | .pounceSliceDue n => Sys2Proof.Machine.execPounceSliceDue n s
  | .pounceRetry n => Sys2Proof.Machine.execPounceRetry n s
  | .triadCheck bad => Sys2Proof.Machine.execTriadCheck bad s
  | .arrayScanDone t => Sys2Proof.Machine.execArrayScanDone t s
  | .ssramBank => Sys2Proof.Machine.execSsramBank s
  | .crownBank => Sys2Proof.Machine.execCrownBank s
  | .tempTest => Sys2Proof.Machine.execTempTest s
  | .vmonTest => Sys2Proof.Machine.execVmonTest s
  | .adcTest => Sys2Proof.Machine.execAdcTest s
  | .pll => Sys2Proof.Machine.execPll s
  | .zhegusPrbs => Sys2Proof.Machine.execZhegusPrbs s
  | .pounceSliceComplete kind pass => Sys2Proof.Machine.execPounceSliceComplete kind pass s
  | .pncRun rq n => Sys2Proof.Machine.execPncRun rq n s
  | .halt rq on => Sys2Proof.Machine.execHalt rq on s
  | .mtGo rq => Sys2Proof.Machine.execMtGo rq s
  | .pncFailLastClear rq => Sys2Proof.Machine.execPncFailLastClear rq s
  | .vddAonPowerUp => Sys2Proof.Machine.execVddAonPowerUp s
  | .hbxLevelChange n level ticks => Sys2Proof.Machine.execHbxLevelChange n level ticks s
  | .hbxSlowSample n raw ticks => Sys2Proof.Machine.execHbxSlowSample n raw ticks s
  | .offMinExpire => Sys2Proof.Machine.execOffMinExpire s
  | .pmicTimeout ticks => Sys2Proof.Machine.execPmicTimeout ticks s
  | .pmicRetry => Sys2Proof.Machine.execPmicRetry s
  | .pgoodRise ticks units => Sys2Proof.Machine.execPgoodRise ticks units s
  | .pgoodFall ticks => Sys2Proof.Machine.execPgoodFall ticks s
  | .resetNAssert => Sys2Proof.Machine.execResetNAssert s
  | .resetNRelease ticks => Sys2Proof.Machine.execResetNRelease ticks s
  | .pllLockDone => Sys2Proof.Machine.execPllLockDone s
  | .startupPhase1Done copies banks => Sys2Proof.Machine.execStartupPhase1Done copies banks s
  | .imageCheck sfdp ext units readUs verifyUs => Sys2Proof.Machine.execImageCheck sfdp ext units readUs verifyUs s
  | .blocking units blockUs => Sys2Proof.Machine.execBlocking units blockUs s
  | .dramTraining rejected failed timeUs tj => Sys2Proof.Machine.execDramTraining rejected failed timeUs tj s
  | .codeStoreCheck => Sys2Proof.Machine.execCodeStoreCheck s
  | .startupPhase2Done conf pll freq vmon temp adc => Sys2Proof.Machine.execStartupPhase2Done conf pll freq vmon temp adc s
  | .triadRelease units => Sys2Proof.Machine.execTriadRelease units s
  | .sysSleep rq v => Sys2Proof.Machine.execSysSleep rq v s
  | .sysIpi rq v => Sys2Proof.Machine.execSysIpi rq v s
  | .manufactureToSecured rq key => Sys2Proof.Machine.execManufactureToSecured rq key s
  | .securedToRma rq => Sys2Proof.Machine.execSecuredToRma rq s
  | .scrap rq key => Sys2Proof.Machine.execScrap rq key s
  | .securedToFieldDebug rq => Sys2Proof.Machine.execSecuredToFieldDebug rq s
  | .sysLcChalRead rq => Sys2Proof.Machine.execSysLcChalRead rq s
  | .nvmProgramDone => Sys2Proof.Machine.execNvmProgramDone s
  | .codeProgramDone => Sys2Proof.Machine.execCodeProgramDone s
  | .evWrapClear rq => Sys2Proof.Machine.execEvWrapClear rq s
  | .retUeClear rq => Sys2Proof.Machine.execRetUeClear rq s
  | .clkLoss p => Sys2Proof.Machine.execClkLoss p s
  | .vmonTrip n win mv => Sys2Proof.Machine.execVmonTrip n win mv s
  | .vddAonBrownout => Sys2Proof.Machine.execVddAonBrownout s
  | .tempSample c0 c1 c2 c3 mesh serdes => Sys2Proof.Machine.execTempSample c0 c1 c2 c3 mesh serdes s
  | .i2cGo rq v => Sys2Proof.Machine.execI2cGo rq v s
  | .i2cDone data nack => Sys2Proof.Machine.execI2cDone data nack s
  | .gpioOutWrite rq v => Sys2Proof.Machine.execGpioOutWrite rq v s
  | .gpioInputChange n level => Sys2Proof.Machine.execGpioInputChange n level s
  | .mmioWrite rq off half v => Sys2Proof.Machine.execMmioWrite rq off half v s
  | .linkUp p m => Sys2Proof.Machine.execLinkUp p m s
  | .twinLaneFail lane => Sys2Proof.Machine.execTwinLaneFail lane s
  | .zhegusCrcError => Sys2Proof.Machine.execZhegusCrcError s
  | .twinAliveInToggle => Sys2Proof.Machine.execTwinAliveInToggle s
  | .ddrTempDerate ch refresh derated => Sys2Proof.Machine.execDdrTempDerate ch refresh derated s
  | .fulScheduledWake k => Sys2Proof.Machine.execFulScheduledWake k s
  | .suppliesRemoved => Sys2Proof.Machine.execSuppliesRemoved s
  | .otpProvisioning id keys wrap minSvn => Sys2Proof.Machine.execOtpProvisioning id keys wrap minSvn s

end Sys2Proof.Machine
end

