-- ==== Sys2Proof/Machine/Idle.lean ====
section
/-!
DEFINITION. What the device does while no command waits: one cycle of the TIME domain (R342), and the range march that a register write has
started (R375). Log entry 29.
-/

namespace Sys2Proof.Machine

/-- The clock of the TIME domain runs: the device is powered and PLL 8 is locked (R342, R406). -/
def State.timeRuns (s : State) : Bool := s.powered && bit (s.rd Reg.clkStatus) (Reg.clkStatus_LOCK.lo + 8)

/-- One idle step: a TIME cycle, a nanosecond of running time while the device is powered, in which the slices that work are noted (R213), and a range
march that runs completes (R342, R375; log entry 29). -/
def State.idle (s : State) : State :=
  let s := if s.timeRuns then s.timeCycle else s
  (if s.powered then { s with ticks := s.ticks + 1 }.noteBusy else s).mtRun

end Sys2Proof.Machine
end

