-- ==== Sys2Proof/Safety.lean ====
section
/-!
DEFINITION. The terms in which claims are stated: the canonical form of the sparse arrays, a run of several steps, when an instruction is
ready to run, what it leaves where it commits, and when a target gate lets a register access pass.
-/

namespace Sys2Proof

/-- The copies that an instruction command runs in, and its condition (R91, R92); none for the commands that are no instructions. -/
def Instr.guard : Instr → Option (Who × Guard)
  | .addAdcSubSbc w g _ _ _ _ _ => some (w, g)
  | .andOrXorAndnOrn w g _ _ _ _ _ => some (w, g)
  | .sllSrlSraRor w g _ _ _ _ _ => some (w, g)
  | .minMaxMinuMaxu w g _ _ _ _ _ => some (w, g)
  | .sextZext w g _ _ _ _ _ => some (w, g)
  | .clzCtzPopcRev w g _ _ _ _ _ => some (w, g)
  | .sltSltu w g _ _ _ _ _ => some (w, g)
  | .addiAndiOriXori w g _ _ _ _ => some (w, g)
  | .shi w g _ _ _ _ _ _ => some (w, g)
  | .cmpi w g _ _ _ => some (w, g)
  | .movi w g _ _ => some (w, g)
  | .movh w g _ _ => some (w, g)
  | .mulMulhMulhu w g _ _ _ _ => some (w, g)
  | .divDivuRemRemu w g _ _ _ _ => some (w, g)
  | .faddFsubFmul w g _ _ _ _ _ => some (w, g)
  | .fdiv w g _ _ _ _ => some (w, g)
  | .fsqrt w g _ _ _ _ => some (w, g)
  | .fminFmaxFnegFabs w g _ _ _ _ _ => some (w, g)
  | .fcmp w g _ _ _ _ => some (w, g)
  | .fcvt w g _ _ _ _ _ => some (w, g)
  | .fmvGfFg w g _ _ _ _ => some (w, g)
  | .fmaddFmsub w g _ _ _ _ _ _ => some (w, g)
  | .ldLdu w g _ _ _ _ _ => some (w, g)
  | .st w g _ _ _ _ => some (w, g)
  | .fldFst w g _ _ _ _ _ => some (w, g)
  | .memxLoadStore w g _ _ _ _ _ _ _ => some (w, g)
  | .ll w g _ _ _ _ => some (w, g)
  | .sc w g _ _ _ _ _ => some (w, g)
  | .amoswap w g _ _ _ _ _ => some (w, g)
  | .amoadd w g _ _ _ _ _ => some (w, g)
  | .amocas w g _ _ _ _ _ => some (w, g)
  | .b w g _ => some (w, g)
  | .bl w g _ => some (w, g)
  | .jalr w g _ _ _ => some (w, g)
  | .csrr w g _ _ => some (w, g)
  | .csrw w g _ _ => some (w, g)
  | .psrWrite w g _ => some (w, g)
  | .agtimeRead w g _ _ _ _ => some (w, g)
  | .ageventRead w g _ _ _ _ => some (w, g)
  | .icinvVa w g _ => some (w, g)
  | .icinvAll w g _ => some (w, g)
  | .dcinvVa w g _ => some (w, g)
  | .dccleanVa w g _ => some (w, g)
  | .dccleanAll w g _ => some (w, g)
  | .dcinvAll w g _ => some (w, g)
  | .icSwset w g _ => some (w, g)
  | .patchDataWrite w g _ => some (w, g)
  | .trap w g _ _ => some (w, g)
  | .eret w g _ _ _ => some (w, g)
  | .wfi w g => some (w, g)
  | .msync w g _ _ _ => some (w, g)
  | .ibar w g => some (w, g)
  | .dbar w g => some (w, g)
  | .tlbwr w g _ _ _ => some (w, g)
  | .tlbrdT w g _ _ _ => some (w, g)
  | .tlbrdP w g _ _ _ => some (w, g)
  | .tlbinvVa w g _ _ => some (w, g)
  | .tlbinvAsid w g _ => some (w, g)
  | .tlbinvAll w g => some (w, g)
  | .tlbinvIdx w g _ => some (w, g)
  | .cop w word => some (w, .c32 (BitVec.ofNat 4 (word.toNat / 2 ^ 28)))
  | .patch w word => some (w, .c32 (BitVec.ofNat 4 (word.toNat / 2 ^ 28)))
  | _ => none

/-- The instruction has a field value that R90 makes undefined; conditions, and what depends on the machine's state, apart. -/
def Instr.reserved : Instr → Bool
  | .sextZext _ _ _ _ _ _ rb => rb != 0
  | .clzCtzPopcRev _ _ _ _ _ _ rb => rb != 0
  | .shi _ _ _ _ _ _ _ z => z != 0
  | .cmpi _ _ d _ _ => d != 0
  | .fsqrt _ _ _ _ _ rb => rb != 0
  | .fminFmaxFnegFabs _ _ fn _ _ _ rb => rb != 0 && (fn == .fneg || fn == .fabs)
  | .fcmp _ _ _ d _ _ => d != 0
  | .fcvt _ _ _ _ _ _ rb => rb != 0
  | .fmvGfFg _ _ _ _ _ rb => rb != 0
  | .ldLdu _ _ uns size _ _ _ => uns && size == 3
  | .fldFst _ _ _ size _ _ _ => size == 0 || size == 1
  | .memxLoadStore _ _ kind size _ freg _ _ _ => kind == 3 || (kind == 1 && (size == 3 || freg)) || (freg && (size == 0 || size == 1))
  | .ll _ _ size z _ _ => size == 0 || size == 1 || z
  | .sc _ _ size z _ _ _ => size == 0 || size == 1 || z
  | .amoswap _ _ size z _ _ _ => size == 0 || size == 1 || z
  | .amoadd _ _ size z _ _ _ => size == 0 || size == 1 || z
  | .amocas _ _ size z _ _ _ => size == 0 || size == 1 || z
  | .trap _ _ d _ => d != 0
  | .eret _ _ d a rb => d != 0 || a != 0 || rb != 0
  | .msync _ _ _ a rb => a != 0 || rb != 0
  | .tlbrdT _ _ _ _ rb => rb != 0
  | .tlbrdP _ _ _ _ rb => rb != 0
  | .patch _ word => word.toNat / 2 ^ 26 % 4 != 0
  | _ => false

/-- The instruction is a branch, whose false condition is a branch not taken (R91). -/
def Instr.isBranch : Instr → Bool
  | .b _ _ _ | .bl _ _ _ | .jalr _ _ _ _ _ => true
  | _ => false

end Sys2Proof

namespace Sys2Proof.Machine

/-- The invariant of the model: the memories and the registers are in canonical form, so that equal arrays are equal data. -/
def State.canonical (s : State) : Prop := Memory.wf s.mem ∧ SMap.wf 0 s.regs = true

/-- A run of `n` steps from `s` that neither faults nor is refused. -/
def runsTo (n : Nat) (s t : State) : Prop := Host.Core.run Sys2Proof.core n s = .next t

/-! ### Instructions -/

/-- The first of the copies that a command runs in. -/
def State.lead (s : State) (w : Who) : Copy := s.copy (copyIx w.t.val ((s.runners w).headD 0))

/-- The arrays of a copy hold no error (R131, R132), and the two valid copies of every word of its data TCM agree (R273). -/
structure State.sound (s : State) (k : Nat) : Prop where
  ue    : (s.copy k).ue = []
  ce    : (s.copy k).ce = []
  valid : ∀ i, SMap.get 0 s.prot.valid (tcmAddr k (8 * i) / 8) = 0 ∨ SMap.get 0 s.prot.valid (tcmAddr k (8 * i) / 8) = 3

/-- The copies that run a command are in lockstep and able to take an instruction: at least one runs, each holds what the first holds, the
program counter is even (R118), no word that they hold is in error (R131, R132), the two instances of the Conformer agree (R58), no comparison
injection is armed (R60), no pause is requested (R72), no access of theirs is in progress (R53), and no copy waits at a read of an agreed value (R428). -/
structure Lockstep (s : State) (w : Who) : Prop where
  runs   : s.runners w ≠ []
  same   : ∀ c ∈ s.runners w, s.copy (copyIx w.t.val c) = s.lead w
  even   : bit (s.lead w).pc 0 = false
  sound  : ∀ c ∈ s.runners w, s.sound (copyIx w.t.val c)
  fetch  : (s.lead w).fetchBad = none
  conf   : w.t.val ∉ s.latent.conf
  inject : (s.triad w.t.val).inject = none
  phase  : s.tri w.t.val Reg.triStatus_RESYNC_PHASE ≠ 2
  idle   : s.inAccess w.t.val (fun x => decide (x = s.copyTag w)) = false
  agree  : ∀ cls, s.agreeing w.t.val cls = []

/-- An instruction executes: the copies are ready, its condition code is one of R91's and holds (R91, R92). -/
structure Ready (s : State) (w : Who) (g : Guard) : Prop extends Lockstep s w where
  defd  : g.undef = false
  holds : g.holds (s.lead w) = true

/-- An instruction with a false condition: the copies are ready, its condition code is one of R91's and does not hold. -/
structure Skips (s : State) (w : Who) (g : Guard) : Prop extends Lockstep s w where
  defd  : g.undef = false
  fails : g.holds (s.lead w) = false

/-- The copy `c` once an instruction with the results in `x` has committed: the condition is latched (R92), a pending load is written (R96), the
program counter moves past the instruction, the instruction and `n` cycles are counted (R94), the next instruction is in no delay slot (R97), and the
errors that the instruction's writes have mended are gone (R131). -/
def Copy.done (c : Copy) (g : Guard) (n : Nat) (x : Copy) : Copy :=
  let y := (g.latch x).flushPend
  { y with
    pc := c.pc + BitVec.ofNat 64 g.len
    slot := false
    instret := y.instret + 1
    cycle := c.cycle + BitVec.ofNat 64 n
    ue := y.ue.filter fun r => c.ue.contains r
    ce := y.ce.filter fun r => c.ce.contains r }

/-- The commit count of a triad advances with an instruction of its group, or of its leading copy (TRI_COMMIT_COUNT). -/
def State.counted (s : State) (w : Who) : Bool :=
  s.groupMode w.t.val || decide ((s.runners w).headD 0 = s.leader w.t.val)

/-- From `s` to `t` each copy that runs the command becomes what `f` makes of it, the triad's commit count advances, and nothing else
changes: no other copy, no other register, no byte of memory, and no other part of the state. -/
structure Committed (s t : State) (w : Who) (f : Copy → Copy) : Prop where
  each   : ∀ c ∈ s.runners w, t.copy (copyIx w.t.val c) = f (s.copy (copyIx w.t.val c))
  others : ∀ k, (∀ c ∈ s.runners w, k ≠ copyIx w.t.val c) → t.copy k = s.copy k
  count  : t.fget (Reg.triCommitCount w.t.val) Reg.triCommitCount_COUNT =
    (s.fget (Reg.triCommitCount w.t.val) Reg.triCommitCount_COUNT + b2n (s.counted w)) % 2 ^ 64
  regs   : ∀ r, r ≠ Reg.triCommitCount w.t.val → t.rd r = s.rd r
  bytes  : ∀ a, t.byte a = s.byte a
  rest   : t = { s with copies := t.copies, regs := t.regs }

/-- The access that a load, store or atomic makes in a copy, and its virtual address (R94, R105). -/
def accessOf (i : Instr) (c : Copy) : Option (Access × Word) :=
  match i with
  | .ldLdu _ _ uns size d a imm => some (loadAcc size (!uns) false d, eaM c a imm size)
  | .st _ _ size d a imm => some (storeAcc size (c.reg d), eaM c a imm size)
  | .fldFst _ _ store size d a imm => some (if store then storeAcc size (c.freg d) else loadAcc size false true d, eaM c a imm size)
  | .memxLoadStore _ _ kind size scale freg d a b =>
    some (if kind = 2 then storeAcc size (if freg then c.freg d else c.reg d) else loadAcc size (decide (kind = 0) && !freg) freg d,
      eaX c a b scale size)
  | .ll _ _ size _ d a => some (atomAcc .ll size 0 0 d, c.reg a)
  | .sc _ _ size _ d a b => some (atomAcc .sc size (c.reg b) 0 d, c.reg a)
  | .amoswap _ _ size _ d a b => some (atomAcc .swap size (c.reg b) 0 d, c.reg a)
  | .amoadd _ _ size _ d a b => some (atomAcc .add size (c.reg b) 0 d, c.reg a)
  | .amocas _ _ size _ d a b => some (atomAcc .cas size (c.reg b) c.acmp d, c.reg a)
  | _ => none

/-- The mesh request that the fence releases for an access in one piece that leaves the triad (R53, R100). -/
def State.accessReq (s : State) (w : Who) (acc : Access) (h : Half) : MeshReq :=
  match acc.kind with
  | .load => coreReq w.t.val (s.copyTag w) .read .swap h.pa h.n 0 0
  | .store => coreReq w.t.val (s.copyTag w) .write .swap h.pa h.n (acc.data.toNat % 2 ^ (8 * 2 ^ acc.size)) 0
  | .atom op => coreReq w.t.val (s.copyTag w) .atomic op h.pa h.n acc.data.toNat acc.cmp.toNat

/-- An access to memory needs to wait for nothing: its initiator has a free tag, no bank or region on its way is asleep or being cleared, and no
timeout of it has fired (R37, R43, R252, R265). -/
def State.unblocked (s : State) (w : Who) (acc : Access) (h : Half) : Prop :=
  windowOf h.pa ≠ .mmio ∧ s.tagFree w.t.val = true ∧ s.reqBlocked (s.accessReq w acc h) = false ∧
    (w.t.val, h.va, reqWrites (s.accessReq w acc h)) ∉ s.mesh.late

/-- `Committed` for an instruction whose results differ from copy to copy or that writes memory: `f k` is what the copy with index `k` becomes,
`m` is memory afterwards, and `v` the valid copies of each word afterwards (R273). -/
structure CommittedAt (s t : State) (w : Who) (f : Nat → Copy → Copy) (m : Nat → Byte) (v : Nat → Nat) : Prop where
  each   : ∀ c ∈ s.runners w, t.copy (copyIx w.t.val c) = f (copyIx w.t.val c) (s.copy (copyIx w.t.val c))
  others : ∀ k, (∀ c ∈ s.runners w, k ≠ copyIx w.t.val c) → t.copy k = s.copy k
  count  : t.fget (Reg.triCommitCount w.t.val) Reg.triCommitCount_COUNT =
    (s.fget (Reg.triCommitCount w.t.val) Reg.triCommitCount_COUNT + b2n (s.counted w)) % 2 ^ 64
  regs   : ∀ r, r ≠ Reg.triCommitCount w.t.val → t.rd r = s.rd r
  bytes  : ∀ a, t.byte a = m a
  valid  : ∀ j, SMap.get 0 t.prot.valid j = v j
  rest   : t = { s with copies := t.copies, regs := t.regs, mem := t.mem, prot := { s.prot with valid := t.prot.valid } }

/-- What taking a trap makes of a copy whose pending load has been written (R118, R138, R140): `vec` is the double word of its vector. The level
is the higher of the current one and the one TROUTE routes the trap to, CAUSE records the trap, DEPTH counts the frame, the entry takes 12 cycles
(R138), and the faulting address is in TLB_MISS_VA or FAULT_VA. -/
def Copy.trapped (c : Copy) (ti : TrapInfo) (vec : Word) : Copy :=
  { c with
    pc := vec
    psr := setBits c.psr 8 2 (max c.priv (if bit c.troute ti.code then 2 else 1))
    cause := BitVec.ofNat 64 (ti.code + 64 * b2n ti.partialSt + 128 * ti.half + 256 * b2n ti.isWrite + 512 * ti.trapno)
    icStk := setBits c.icStk 16 6 (c.depth + 1)
    cycle := c.cycle + 12
    status := .run
    slot := false
    tlbMissVa := if ti.code = cTLB_MISS_I ∨ ti.code = cTLB_MISS_D then ti.va else c.tlbMissVa
    faultVa := if ti.code = cALIGN ∨ (cPERM_X ≤ ti.code ∧ ti.code ≤ cATOMIC_TARGET) then ti.va else c.faultVa }

/-- The sixteen double words that an entry stacks for a trap (R139): the program counter, PSR, and g1 to g14. -/
def Copy.trapFrame (c : Copy) (pc : Word) : List Word :=
  pc :: BitVec.ofNat 64 (bits c.psr 0 11) :: (List.range 14).map fun i => SMap.get 0 c.g (i + 1)

/-- From `s` to `t` every copy that runs the command takes the trap `ti`, each into the next frame of its own data TCM, whose words are then marked
written (R273), the triad's reservation is cleared (R106), and nothing else changes. -/
structure Trapped (s t : State) (w : Who) (ti : TrapInfo) : Prop where
  each   : ∀ c ∈ s.runners w, let x := (s.copy (copyIx w.t.val c)).flushPend
    t.copy (copyIx w.t.val c) = x.trapped ti (s.tcmRead (copyIx w.t.val c) (x.vectorOff (.trap ti)))
  frame  : ∀ c ∈ s.runners w, let x := (s.copy (copyIx w.t.val c)).flushPend
    ∀ i < 16, t.tcmRead (copyIx w.t.val c) (x.frameOff x.depth + 8 * i) = (x.trapFrame (x.trapPc ti)).getD i 0
  others : ∀ k, (∀ c ∈ s.runners w, k ≠ copyIx w.t.val c) → t.copy k = s.copy k
  bytes  : ∀ a, (∀ c ∈ s.runners w, let x := (s.copy (copyIx w.t.val c)).flushPend
    ¬ (tcmAddr (copyIx w.t.val c) (x.frameOff x.depth) ≤ a ∧ a < tcmAddr (copyIx w.t.val c) (x.frameOff x.depth) + 128)) → t.byte a = s.byte a
  valid  : ∀ k off, SMap.get 0 t.prot.valid (tcmAddr k off / 8) =
    if ∃ c ∈ s.runners w, let x := (s.copy (copyIx w.t.val c)).flushPend
      k = copyIx w.t.val c ∧ x.frameOff x.depth ≤ off % 0x10000 ∧ off % 0x10000 < x.frameOff x.depth + 128 then 3
    else SMap.get 0 s.prot.valid (tcmAddr k off / 8)
  resv   : t.resv = SMap.put none s.resv w.t.val none
  rest   : t = { s with copies := t.copies, mem := t.mem, resv := t.resv, prot := { s.prot with valid := t.prot.valid } }

/-! ### Register accesses -/

/-- The requester and the register of a command that is one register write (R172). -/
def regRow : Instr → Option (Rq × Nat)
  | .fcruSwRaise rq _ => some (rq, Reg.fcruSwRaise)
  | .globalLock rq => some (rq, Reg.fcruStatus)
  | .logWrapClear rq => some (rq, Reg.fcruStatus)
  | .pendClear rq n _ => some (rq, Reg.fcruPend n.toNat)
  | .matrixWrite rq src _ => some (rq, Reg.fcruMatrix src.toNat)
  | .matrixLock rq src => some (rq, Reg.fcruMatrix src.toNat)
  | .go rq t => some (rq, Reg.triResyncCtl t.val)
  | .arm rq t _ => some (rq, Reg.triModeReq t.val)
  | .triInject rq t _ => some (rq, Reg.triInject t.val)
  | .triWdogKick rq t _ => some (rq, Reg.triWdogKick t.val)
  | .triMismatchClear rq t => some (rq, Reg.triMismatch t.val)
  | .gateRuleShadowWrite rq gt k which _ => some (rq, ruleRegOff which gt.val k.toNat)
  | .gateRuleCtlWrite rq gt k _ => some (rq, Reg.gateRuleCtl gt.val k.toNat)
  | .lockAll rq gt => some (rq, Reg.gateCtl gt.val)
  | .gateLogClr rq gt => some (rq, Reg.gateLogClr gt.val)
  | .xltRootWrite rq c _ => some (rq, Reg.xltRoot c.val)
  | .xltAsidWrite rq c _ => some (rq, Reg.xltAsid c.val)
  | .xltRootLock rq c => some (rq, Reg.xltRoot c.val)
  | .fulPgCtlWrite rq _ => some (rq, Reg.fulPgCtl)
  | .fulEventPendClear rq c _ => some (rq, Reg.fulCEvent c)
  | .clear rq c => some (rq, Reg.fulCCtl c)
  | .fflagsClear rq c _ => some (rq, Reg.fulCFflags c)
  | .checkLastClear rq c => some (rq, Reg.fulCCheckLast c)
  | .memSsPwrWrite rq n _ => some (rq, Reg.memSsPwr n.toNat)
  | .ddrZodCtlWrite rq _ => some (rq, Reg.ddrZodCtl)
  | .ddrZodProbeWrite rq _ => some (rq, Reg.ddrZodProbe)
  | .edcCtlWrite rq _ => some (rq, Reg.edcCtl)
  | .edcLock rq => some (rq, Reg.edcCtl)
  | .logClr rq _ => some (rq, Reg.edcCtl)
  | .ueFirstClear rq k => some (rq, Reg.edcClassUeFirst k)
  | .edcInjArm rq _ => some (rq, Reg.edcInjCtl)
  | .firedClear rq => some (rq, Reg.edcInjCtl)
  | .scrubGo rq => some (rq, Reg.edcScrubGo)
  | .scrubAbort rq => some (rq, Reg.edcScrubGo)
  | .remapLock rq i e => some (rq, Reg.edcRemap i e)
  | .admRingConsWrite rq n _ => some (rq, Reg.admRingPtr n)
  | .admSringConsWrite rq n _ => some (rq, Reg.admSringPtr n)
  | .admReqAdmit rq _ => some (rq, Reg.admReqCtl)
  | .admReqWithdraw rq _ => some (rq, Reg.admReqCtl)
  | .ethTxqTailWrite rq p q _ => some (rq, Reg.ethTxqTail p q)
  | .change rq p => some (rq, Reg.ethGclCtl p)
  | .install rq p => some (rq, Reg.ethMsecInstall p)
  | .retire rq p => some (rq, Reg.ethMsecInstall p)
  | .dhpSlotDone rq n _ => some (rq, Reg.dhpSlotDone n)
  | .dhpSlotProgWrite rq n _ => some (rq, Reg.dhpSlotProg n)
  | .dhpJobqConsWrite rq j _ => some (rq, Reg.dhpJobqPtr j)
  | .freeze rq => some (rq, Reg.recCtl)
  | .release rq => some (rq, Reg.recCtl)
  | .timeStep rq _ => some (rq, Reg.timeStep)
  | .timeRateWrite rq _ => some (rq, Reg.timeRate)
  | .timeOutCfgWrite rq n _ => some (rq, Reg.timeOutCfg n)
  | .pncRun rq _ => some (rq, Reg.pncCtl)
  | .halt rq _ => some (rq, Reg.pncCtl)
  | .pncFailLastClear rq => some (rq, Reg.pncFailLast)
  | .sysSleep rq _ => some (rq, Reg.sysSleep)
  | .sysIpi rq _ => some (rq, Reg.sysIpi)
  | .manufactureToSecured rq _ => some (rq, Reg.sysLcCtl)
  | .securedToRma rq => some (rq, Reg.sysLcCtl)
  | .scrap rq _ => some (rq, Reg.sysLcCtl)
  | .securedToFieldDebug rq => some (rq, Reg.sysLcCtl)
  | .evWrapClear rq => some (rq, Reg.hbxStatus)
  | .retUeClear rq => some (rq, Reg.hbxRet)
  | .i2cGo rq _ => some (rq, Reg.clkI2cCmd)
  | .gpioOutWrite rq _ => some (rq, Reg.clkGpioOut)
  | _ => none

/-- The request that a register access of a command row makes. -/
def regReq (rq : Rq) (op : MeshOp) (off : Nat) : MeshReq :=
  { rq := rq, op := op, atom := .swap, pa := BitVec.ofNat 44 (paMmio + off), len := 8, data := 0, cmp := 0 }

/-- The gate of the register's block lets the requester write it (R172, R174). -/
def State.grants (s : State) (rq : Rq) (off : Nat) : Prop := s.gateCause (regReq rq .write off) = none

/-- The gate of the register's block lets the requester read it (R172, R174). -/
def State.grantsRead (s : State) (rq : Rq) (off : Nat) : Prop := s.gateCause (regReq rq .read off) = none

/-- The gate of its register's block lets a register write pass. -/
def State.grantsRow (s : State) (i : Instr) : Prop := ∃ rq off, regRow i = some (rq, off) ∧ s.grants rq off

/-- Each command listed that its gate lets pass leads to the state beside it. -/
def State.rows (s : State) (l : List (Instr × State)) : Prop := ∀ x ∈ l, s.grantsRow x.1 → exec x.1 s = .next x.2

/-! ### Fuller -/

/-- The instruction `o` is the head of the context's queue, with `r` behind it, and may start (R200, R210). -/
structure State.starts (s : State) (c : Nat) (o : FulOp) (r : List FulOp) : Prop where
  queue  : (s.ctx c).queue = o :: r
  may    : s.mayStart c o = true
  window : s.windowOk c o = true

/-- From `s` to `t` the head `o` of the queue of context `c` has left it and runs as `o'` (R200): the context's state register and its flags
follow, and no other context and no other register changes. -/
structure Began (s t : State) (c : Nat) (o' : FulOp) (r : List FulOp) : Prop where
  queue  : (t.ctx c).queue = r
  run    : (t.ctx c).run = (s.ctx c).run ++ [o']
  state  : s.cxState c = cxIDLE ∨ s.cxState c = cxRUNNING ∨ s.cxState c = cxWAITING →
    t.cxState c = if s.cxSlices c ≠ 0 then cxRUNNING else cxWAITING
  others : ∀ j, j ≠ c → t.ctx j = s.ctx j
  pend   : t.pending = s.pending

/-- From `s` to `t` the head `o` of the queue of context `c` has left it and has completed (R189, R200, R203): it is counted and retired, what runs goes
on running, and no other context changes. -/
structure Completed (s t : State) (c : Nat) (o : FulOp) (r : List FulOp) : Prop where
  queue   : (t.ctx c).queue = r
  run     : (t.ctx c).run = (s.ctx c).run
  others  : ∀ j, j ≠ c → t.ctx j = s.ctx j
  retired : t.fget (Reg.fulCSeq c) Reg.fulCSeq_RETIRED = o.seq % 2 ^ 32
  counted : t.fget (Reg.fulCCnt c) Reg.fulCCnt_COMPLETED = (s.fget (Reg.fulCCnt c) Reg.fulCCnt_COMPLETED + 1) % 2 ^ Reg.fulCCnt_COMPLETED.len

/-- An instruction on registers has started: with VL = 0 it completes at once (R189), else it runs, and keeps what its destination held (R205). -/
def Acted (s t : State) (c : Nat) (o : FulOp) (r : List FulOp) : Prop :=
  if o.vl = 0 then Completed s t c o r ∧ t = { s with ctxs := t.ctxs, regs := t.regs, free := t.free, copies := t.copies, ful := t.ful }
  else Began s t c (s.keepOld c o) r ∧ t = { s with ctxs := t.ctxs, regs := t.regs, free := t.free }

/-- No error waits to be found in a context (R182, R239, R243): no check of an element fails, and every word of its registers is good. -/
def State.faultless (s : State) (c : Nat) : Prop := s.latent.checks = [] ∧ (s.ctx c).vUe = [] ∧ (s.ctx c).vCe = []

/-- The elements 0 to `n - 1` of width `w` of the group at register `d` hold what `val` names, or what they held where it names nothing, and no
other element of any register has changed (R187 to R189). -/
def Ctx.holds (y x : Ctx) (d w n : Nat) (val : Nat → Option Nat) : Prop :=
  (∀ i < n, y.elem d w i = ((val i).map (· % 2 ^ w)).getD (x.elem d w i)) ∧ (∀ i ≥ n, y.elem d w i = x.elem d w i) ∧
    (∀ k < 512 * d, SMap.get 0 y.v k = SMap.get 0 x.v k) ∧ y.m = x.m ∧ y.mPoison = x.mPoison

/-- The mask bits 0 to `n - 1` of the group at mask register `d` are what `val` names, and no other mask bit has changed. -/
def Ctx.maskHolds (y x : Ctx) (d n : Nat) (val : Nat → Bool) : Prop :=
  (∀ i < n, y.maskBit d i = val i) ∧ (∀ i ≥ n, y.maskBit d i = x.maskBit d i) ∧
    (∀ k < 64 * d, SMap.get 0 y.m k = SMap.get 0 x.m k) ∧ y.v = x.v ∧ y.vPoison = x.vPoison

/-! ### The host protocol -/

/-- The engine runs and has a tag, and the request at its head is `m`, well formed and of a command that the protocol defines (R43, R316, R317, R323,
R325). -/
structure Asked (s : State) (m : DhpMsg) : Prop where
  runs   : s.engineRuns = true
  tag    : s.tagFree iDHP.val = true
  head   : s.engineHead = some m.q
  msg    : m = m.q.msg
  formed : m.malformed = false
  known  : cmdDefined m.cmd = true

/-- The request is tagged under the open session `x` of key `k`, with the session's epoch (R318, R321). -/
structure InSession (s : State) (m : DhpMsg) (k : Nat) (x : Sess) : Prop where
  key    : m.sess = k + 1 ∧ k < 8
  held   : s.sess k = some x
  epoch  : m.epoch = s.fget (Reg.dhpKey k) Reg.dhpKey_EPOCH
  tagged : m.verifies x.key = true

/-- The machine in which a session's new request runs: it has left the queue, the session has been used, and its number is the highest (R322). -/
def State.taken (s : State) (m : DhpMsg) (k : Nat) (x : Sess) : State :=
  ((s.dropReq m.q).setSess k (some { x with last := s.now.toNat })).fset (Reg.dhpKey k) Reg.dhpKey_HIGH_SEQ m.seq

/-- The request at the engine's head passes the checks up to "command defined" and its command is considered in `u` (R324): sessionless and untagged, or
in a session, with a new sequence number and room for one more response. -/
structure Heard (s : State) (m : DhpMsg) (k : Option Nat) (u : State) : Prop extends Asked s m where
  closed : ¬ (m.cmd = 1 ∧ m.opens = true)
  route  : (k = none ∧ m.sess = 0 ∧ m.tag = 0 ∧ u = s.dropReq m.q) ∨
    ∃ j x, k = some j ∧ InSession s m j x ∧ (∀ e ∈ x.held, e.1 ≠ m.seq) ∧ seqNewer m.seq (s.fget (Reg.dhpKey j) Reg.dhpKey_HIGH_SEQ) = true ∧
      s.fget (Reg.dhpKey j) Reg.dhpKey_OUTSTANDING < 16 ∧ u = s.taken m j x

/-- The sender has the right that the command needs: a sessionless request only where it needs none (R319). -/
def State.mayAsk (s : State) (m : DhpMsg) (k : Option Nat) : Prop :=
  cmdRight m.cmd = none ∨ ∃ b j, cmdRight m.cmd = some b ∧ k = some j ∧ (s.fget (Reg.dhpKey j) Reg.dhpKey_RIGHTS).testBit b = true

/-- A request that passes every check of R324, and whose command runs in `u`. -/
structure Passed (s : State) (m : DhpMsg) (k : Option Nat) (u : State) : Prop extends Heard s m k u where
  right : u.mayAsk m k
  legal : cmdLegal m.cmd u.opstate = true

/-- The response with a status and a payload: tagged and held in a session (R317, R318, R322). -/
def State.reply (u : State) (m : DhpMsg) (k : Option Nat) (status : Nat) (pay : List Byte) : State :=
  u.respond m m.epoch status pay (k.map u.sessKey) k

/-- The command that each code names (table "DHP commands"). -/
def dhpRows : List (Nat × Instr) :=
  [(0x01, .ping), (0x02, .getState), (0x03, .timeQuery), (0x10, .admitFlow), (0x11, .withdraw), (0x20, .submitJob), (0x21, .getResult),
    (0x22, .releaseResult), (0x23, .getProgress), (0x30, .recFreeze), (0x31, .recRead), (0x32, .recRelease), (0x40, .enterMaint),
    (0x41, .imageWrite), (0x42, .codeWrite), (0x43, .resetReq), (0x44, .handoverCommand)]

end Sys2Proof.Machine
end

