-- ==== Sys2Proof/Certificates/Slice0/Obligations.lean ====
section
/-!
DEFINITION. The statements for the provers. Each is about the machine of this package and follows the rules of the specification that its
docstring names.
-/

open Sys2Proof Sys2Proof.Machine

/-! ### The machine as a whole -/

/-- A step with a command at the front of the queue is that command's effect on the state with the queue's rest: `step` adds nothing around `exec`. -/
def Obligations.StepRunsFront : Prop :=
  ∀ (s : State) (c : Instr) (cs : List Instr), s.pending = c :: cs → step s = exec c { s with pending := cs }

/-- With an empty queue the device idles. Without power nothing changes. A powered device runs for a nanosecond: the running time advances, each slice
that is not idle is noted as working (R213), and the device time advances by one cycle where its clock runs, 1 ns at a rate correction of 0; nothing
else changes unless a march runs (R342, R375). That a step with an empty queue is one TIME cycle is the model's choice (log entry 29). -/
def Obligations.EmptyQueueIdles : Prop :=
  ∀ s : State, s.pending = [] → s.fget Reg.pncMtStat Reg.pncMtStat_STATE ≠ 1 →
    let clocked : Bool := bit (s.rd Reg.clkStatus) 8
    (s.powered = false → step s = .next s) ∧
    (s.powered = true → ∃ t, step s = .next t ∧ t = { s with time := t.time, ticks := s.ticks + 1, ful := { s.ful with busy := t.ful.busy } } ∧
      (∀ i, SMap.get 0 t.ful.busy i = if i < 4 ∧ s.sliceIdle i = false then s.ticks + 1 else SMap.get 0 s.ful.busy i) ∧
      (clocked = false → t.time = s.time) ∧
      (clocked = true → s.fget Reg.timeRate Reg.timeRate_PPB = 0 → s.time.frac < 65536000000000 → s.time.total < 2 ^ 48 →
        t.time.total = s.time.total + 1 ∧ t.time.frac = s.time.frac))

/-- What reset leaves: the device in BOOT (R385), every copy with the values that the spec gives its registers, the TCMs, the TLBs and the caches empty,
every register of the register file at its reset value, and no command waiting. -/
def Obligations.ResetValues : Prop :=
  let s := State.reset
  s.pending = [] ∧ s.mem = [] ∧ s.resv = [] ∧ s.opstate = opBOOT ∧ (∀ a, s.byte a = 0) ∧ (∀ c, s.copy c = Copy.reset) ∧
  (∀ t < 16, s.mode t = 0) ∧ (∀ off, s.rd off = SMap.get 0 resetRegs off) ∧
  (let c := Copy.reset
   c.g = [] ∧ c.f = [] ∧ c.psr = 0x270 ∧ c.cause = 0 ∧ c.icStk = 0 ∧ c.instret = 0 ∧ c.cycle = 0 ∧ c.pend = none ∧ c.ue = [] ∧
     (∀ n, c.latch n = false))

/-- The invariant of the machine: every step from a state whose memory and registers are in canonical form leads to one whose are, over every command and
every operand, so that equal contents are always equal data. -/
def Obligations.StepKeepsCanonical : Prop :=
  ∀ s t : State, s.canonical → step s = .next t → t.canonical

/-- The state after reset is in canonical form. -/
def Obligations.ResetIsCanonical : Prop := State.reset.canonical

/-- A command changes nothing of the queue of waiting commands, and draws free values only forward, so that no free value is drawn twice. No command stops
the machine: each answers a next state from every state, with every operand. -/
def Obligations.CommandsAnswerAndKeepTheQueue : Prop :=
  (∀ (i : Instr) (s t : State), exec i s = .next t → t.pending = s.pending ∧ s.free ≤ t.free) ∧
  (∀ (i : Instr) (s : State), ∃ t, exec i s = .next t)

/-! ### Instructions that act in the copies alone (03) -/

/-- R93, R94: ADD, ADC, SUB and SBC, ready to run, write the sum or the difference of the operands, with the carry or the borrow where they take one. With
S = 1 they set N and Z from the result, C to the carry out (for a subtraction: to "no borrow"), and V to signed overflow; with S = 0 no flag changes.
A write to g0 is discarded (R84). Nothing else changes but the program counter and the counts. R93, R94: the bitwise operations, MIN to MAXU, the
extensions, the counts, and SLT and SLTU write their result, and with S = 1 set N and Z from it and clear C and V. The extensions and counts are
stated for b = 0; any other b is undefined (R90), see `UndefinedEncodingsTrap`. R93, R94: SLL, SRL, SRA and ROR shift a by b[5:0], SHI by its
immediate amount. With S = 1, C is the last bit shifted out, 0 for a shift by zero, and V is cleared. That N and Z follow the result is the model's
reading (log entry 6). SHI is stated for imm[27:26] = 0 (R90). -/
def Obligations.IntegerAluResultAndFlags : Prop :=
  (∀ (s : State) (w : Who) (g : Guard) (fn : AddOp) (sf : Bool) (d a b : RegNo), Ready s w g →
     ∃ t, exec (.addAdcSubSbc w g fn sf d a b) s = .next t ∧ Committed s t w fun c =>
       let x := c.reg a
       let y := c.reg b
       let k : Nat := match fn with | .add | .sub => 0 | .adc => b2n c.flags.c | .sbc => 1 - b2n c.flags.c
       let r : Word := match fn with | .add | .adc => x + y + BitVec.ofNat 64 k | .sub | .sbc => x - y - BitVec.ofNat 64 k
       let carry : Bool := match fn with | .add | .adc => decide (2 ^ 64 ≤ x.toNat + y.toNat + k) | .sub | .sbc => decide (y.toNat + k ≤ x.toNat)
       let exact : Int := match fn with | .add | .adc => x.toInt + y.toInt + k | .sub | .sbc => x.toInt - y.toInt - k
       let flags : Nzcv := { n := r.msb, z := decide (r = 0), c := carry, v := decide (r.toInt ≠ exact) }
       c.done g 1 (if sf then (c.setReg d r).setFlags flags else c.setReg d r)) ∧
  (∀ (s : State) (w : Who) (g : Guard) (sf : Bool) (d a b : RegNo), Ready s w g →
     let post (r : Copy → Word) (c : Copy) : Copy :=
       c.done g 1 (if sf then (c.setReg d (r c)).setFlags { n := (r c).msb, z := decide (r c = 0), c := false, v := false } else c.setReg d (r c))
     (∀ fn, ∃ t, exec (.andOrXorAndnOrn w g fn sf d a b) s = .next t ∧ Committed s t w (post fun c => match fn with
       | .and => c.reg a &&& c.reg b
       | .or => c.reg a ||| c.reg b
       | .xor => c.reg a ^^^ c.reg b
       | .andn => c.reg a &&& ~~~c.reg b
       | .orn => c.reg a ||| ~~~c.reg b)) ∧
     (∀ fn, ∃ t, exec (.minMaxMinuMaxu w g fn sf d a b) s = .next t ∧ Committed s t w (post fun c => match fn with
       | .min => if (c.reg a).toInt ≤ (c.reg b).toInt then c.reg a else c.reg b
       | .max => if (c.reg a).toInt ≤ (c.reg b).toInt then c.reg b else c.reg a
       | .minu => if (c.reg a).toNat ≤ (c.reg b).toNat then c.reg a else c.reg b
       | .maxu => if (c.reg a).toNat ≤ (c.reg b).toNat then c.reg b else c.reg a)) ∧
     (∀ fn, ∃ t, exec (.sextZext w g fn sf d a 0) s = .next t ∧ Committed s t w (post fun c => match fn with
       | .sextb => ((c.reg a).setWidth 8).signExtend 64
       | .sexth => ((c.reg a).setWidth 16).signExtend 64
       | .sextw => ((c.reg a).setWidth 32).signExtend 64
       | .zextb => c.reg a &&& 0xFF
       | .zexth => c.reg a &&& 0xFFFF
       | .zextw => c.reg a &&& 0xFFFFFFFF)) ∧
     (∀ fn, ∃ t, exec (.clzCtzPopcRev w g fn sf d a 0) s = .next t ∧ Committed s t w (post fun c => match fn with
       | .clz => BitVec.ofNat 64 ((List.range 64).takeWhile fun i => !(c.reg a).getLsbD (63 - i)).length
       | .ctz => BitVec.ofNat 64 ((List.range 64).takeWhile fun i => !(c.reg a).getLsbD i).length
       | .popc => BitVec.ofNat 64 ((List.range 64).filter fun i => (c.reg a).getLsbD i).length
       | .rev => (List.range 8).foldl (fun r i => r * 256 + ((c.reg a >>> (8 * i)) &&& 0xFF)) 0)) ∧
     (∀ uns, ∃ t, exec (.sltSltu w g uns sf d a b) s = .next t ∧ Committed s t w (post fun c =>
       if (if uns then decide ((c.reg a).toNat < (c.reg b).toNat) else decide ((c.reg a).toInt < (c.reg b).toInt)) then 1 else 0))) ∧
  (∀ (s : State) (w : Who) (g : Guard) (fn : ShiftOp) (sf : Bool) (d a b : RegNo) (amt : BitVec 6), Ready s w g →
     let post (n : Copy → Nat) (c : Copy) : Copy :=
       let x := c.reg a
       let k := n c
       let r : Word := match fn with
         | .sll => x <<< k
         | .srl => x >>> k
         | .sra => BitVec.ofInt 64 (x.toInt / 2 ^ k)
         | .ror => (x >>> k) ||| (x <<< (64 - k))
       let last : Bool := match fn with | .sll => x.getLsbD (64 - k) | _ => x.getLsbD (k - 1)
       let flags : Nzcv := { n := r.msb, z := decide (r = 0), c := decide (0 < k) && last, v := false }
       c.done g 1 (if sf then (c.setReg d r).setFlags flags else c.setReg d r)
     (∃ t, exec (.sllSrlSraRor w g fn sf d a b) s = .next t ∧ Committed s t w (post fun c => (c.reg b).toNat % 64)) ∧
     (∃ t, exec (.shi w g fn sf d a amt 0) s = .next t ∧ Committed s t w (post fun _ => amt.toNat)))

/-- R93, R94: ADDI, ANDI, ORI and XORI combine a register with the sign-extended immediate and change no flag; CMPI sets the flags of a − imm and writes
no register (d = 0); MOVI writes the sign-extended immediate; MOVH writes (d << 16) | imm16. R94: MUL writes the low 64 bits of the product in 2
cycles, MULH and MULHU the high 64 bits of the signed and of the unsigned product; DIV and REM truncate toward zero in 34 cycles, DIVU and REMU are
unsigned; a divisor of 0 gives all ones as quotient and a as remainder, and the signed minimum divided by −1 gives a and 0. -/
def Obligations.ImmediateAndMultiplyResults : Prop :=
  (∀ (s : State) (w : Who) (g : Guard) (d a : RegNo), Ready s w g →
     (∀ fn (imm : BitVec 13), ∃ t, exec (.addiAndiOriXori w g fn d a imm) s = .next t ∧ Committed s t w fun c =>
       let y : Word := imm.signExtend 64
       c.done g 1 (c.setReg d (match fn with
         | .addi => c.reg a + y
         | .andi => c.reg a &&& y
         | .ori => c.reg a ||| y
         | .xori => c.reg a ^^^ y))) ∧
     (∀ imm : BitVec 11, ∃ t, exec (.cmpi w g 0 a imm) s = .next t ∧ Committed s t w fun c =>
       let x := c.reg a
       let y : Word := imm.signExtend 64
       let ovf : Bool := decide ((x - y).toInt ≠ x.toInt - y.toInt)
       c.done g 1 (c.setFlags { n := (x - y).msb, z := decide (x = y), c := decide (y.toNat ≤ x.toNat), v := ovf })) ∧
     (∀ imm : BitVec 16, ∃ t, exec (.movi w g d imm) s = .next t ∧ Committed s t w fun c => c.done g 1 (c.setReg d (imm.signExtend 64))) ∧
     (∀ imm : BitVec 16, ∃ t, exec (.movh w g d imm) s = .next t ∧ Committed s t w fun c =>
       c.done g 1 (c.setReg d (BitVec.ofNat 64 ((c.reg d).toNat * 2 ^ 16 + imm.toNat))))) ∧
  (∀ (s : State) (w : Who) (g : Guard) (d a b : RegNo), Ready s w g →
     (∀ fn, ∃ t, exec (.mulMulhMulhu w g fn d a b) s = .next t ∧ Committed s t w fun c =>
       let x := c.reg a
       let y := c.reg b
       c.done g 2 (c.setReg d (match fn with
         | .mul => BitVec.ofNat 64 (x.toNat * y.toNat)
         | .mulh => BitVec.ofInt 64 (x.toInt * y.toInt / 2 ^ 64)
         | .mulhu => BitVec.ofNat 64 (x.toNat * y.toNat / 2 ^ 64)))) ∧
     (∀ fn, ∃ t, exec (.divDivuRemRemu w g fn d a b) s = .next t ∧ Committed s t w fun c =>
       let x := c.reg a
       let y := c.reg b
       c.done g 34 (c.setReg d (match fn with
         | .div => if y = 0 then BitVec.allOnes 64 else BitVec.ofInt 64 (x.toInt.tdiv y.toInt)
         | .divu => if y = 0 then BitVec.allOnes 64 else BitVec.ofNat 64 (x.toNat / y.toNat)
         | .rem => if y = 0 then x else BitVec.ofInt 64 (x.toInt.tmod y.toInt)
         | .remu => if y = 0 then x else BitVec.ofNat 64 (x.toNat % y.toNat)))))

/-! ### Floating point, branches, false conditions (03) -/

/-- R85, R94, R111: FADD, FSUB, FMUL, FDIV, FSQRT, FMADD and FMSUB write the result of the format's operation under FCSR.RM, rounded once, and accrue its
exceptions in FCSR.FLAGS, in 2, 27, 29 and 3 cycles; no condition flag changes. FSQRT is stated for b = 0 (R90). R93, R94, R111: FMIN and FMAX, FNEG
and FABS (b = 0), FCVT and FMV (b = 0) write their result; FCMP (d = 0) writes no register and sets NZCV to 1000 for less, 0110 for equal, 0010 for
greater and 0011 for unordered. The exceptions accrue in FCSR.FLAGS. -/
def Obligations.FloatResults : Prop :=
  (∀ (s : State) (w : Who) (g : Guard) (p : Bool) (d a b c : RegNo), Ready s w g →
     let post (n : Nat) (r : Copy → Nat × Nat) (x : Copy) : Copy :=
       x.done g n ({ x.setFreg d (BitVec.ofNat 64 (r x).1) with fcsr := x.fcsr ||| (BitVec.ofNat 64 (r x).2 <<< 3) })
     (∀ fn, ∃ t, exec (.faddFsubFmul w g fn p d a b) s = .next t ∧ Committed s t w (post 2 fun x => match fn with
       | .fadd => (fmtP p).add x.rm (x.fop p a) (x.fop p b)
       | .fsub => (fmtP p).sub x.rm (x.fop p a) (x.fop p b)
       | .fmul => (fmtP p).mul x.rm (x.fop p a) (x.fop p b))) ∧
     (∃ t, exec (.fdiv w g p d a b) s = .next t ∧ Committed s t w (post 27 fun x => (fmtP p).div x.rm (x.fop p a) (x.fop p b))) ∧
     (∃ t, exec (.fsqrt w g p d a 0) s = .next t ∧ Committed s t w (post 29 fun x => (fmtP p).sqrt x.rm (x.fop p a))) ∧
     (∃ t, exec (.fmaddFmsub w g false p d a b c) s = .next t ∧
       Committed s t w (post 3 fun x => (fmtP p).fma x.rm (x.fop p a) (x.fop p b) (x.fop p c))) ∧
     (∃ t, exec (.fmaddFmsub w g true p d a b c) s = .next t ∧
       Committed s t w (post 3 fun x => (fmtP p).fms x.rm (x.fop p a) (x.fop p b) (x.fop p c)))) ∧
  (∀ (s : State) (w : Who) (g : Guard) (p : Bool) (d a b : RegNo), Ready s w g →
     let post (n : Nat) (r : Copy → Nat × Nat) (x : Copy) : Copy :=
       x.done g n ({ x.setFreg d (BitVec.ofNat 64 (r x).1) with fcsr := x.fcsr ||| (BitVec.ofNat 64 (r x).2 <<< 3) })
     (∀ mx : Bool, ∃ t, exec (.fminFmaxFnegFabs w g (if mx then .fmax else .fmin) p d a b) s = .next t ∧
       Committed s t w (post 1 fun x => (fmtP p).minMax mx (x.fop p a) (x.fop p b))) ∧
     (∀ ab : Bool, ∃ t, exec (.fminFmaxFnegFabs w g (if ab then .fabs else .fneg) p d a 0) s = .next t ∧
       Committed s t w (post 1 fun x => ((fmtP p).signOp ab (x.fop p a), 0))) ∧
     (∃ t, exec (.fcmp w g p 0 a b) s = .next t ∧ Committed s t w fun x =>
       let r := (fmtP p).cmp (x.fop p a) (x.fop p b)
       let y := x.setFlags { n := decide (r.1 = .lt), z := decide (r.1 = .eq), c := decide (r.1 ≠ .lt), v := decide (r.1 = .un) }
       x.done g 1 { y with fcsr := x.fcsr ||| (BitVec.ofNat 64 r.2 <<< 3) }) ∧
     (∃ t, exec (.fcvt w g .toInt p d a 0) s = .next t ∧ Committed s t w fun x =>
       let r := (fmtP p).toInt x.rm (x.fop p a) (-(2 ^ 63)) (2 ^ 63 - 1)
       x.done g 2 (({ x with fcsr := x.fcsr ||| (BitVec.ofNat 64 r.2 <<< 3) } : Copy).setReg d (BitVec.ofInt 64 r.1))) ∧
     (∃ t, exec (.fcvt w g .fromInt p d a 0) s = .next t ∧ Committed s t w (post 2 fun x => (fmtP p).ofInt x.rm (x.reg a).toInt)) ∧
     (∃ t, exec (.fcvt w g .other p d a 0) s = .next t ∧
       Committed s t w (post 2 fun x => (fmtP p).convert (fmtP (!p)) x.rm (x.fop (!p) a))) ∧
     (∃ t, exec (.fmvGfFg w g true d a 0) s = .next t ∧ Committed s t w fun x => x.done g 1 (x.setFreg d (x.reg a))) ∧
     (∃ t, exec (.fmvGfFg w g false d a 0) s = .next t ∧ Committed s t w fun x => x.done g 1 (x.setReg d (x.freg a))))

/-- R91, R94, R95, R123: B and BL go to PC + off × 2, JALR to a + imm × 2; BL writes g31 and JALR d with the address after the instruction (a write to g0
is discarded), a taken branch writes its entry of the branch-target buffer and takes 1 cycle where it hits and 2 where it does not; a false condition
is a branch not taken, which removes a hit entry and takes 1 cycle, or 2 where it hits. -/
def Obligations.BranchTargetAndLink : Prop :=
  ∀ (s : State) (w : Who) (g : Guard) (off : BitVec 21) (d a : RegNo) (imm : BitVec 11),
    let hit (c : Copy) : Bool :=
      let e := SMap.get BtbEntry.empty c.btb (bits c.pc 1 8)
      e.valid && decide (e.tag = bits c.pc 9 39)
    let taken (tgt : Copy → Word) (link : Copy → Copy) (c : Copy) : Copy :=
      let e : BtbEntry := { valid := true, tag := bits c.pc 9 39, target := tgt c }
      let x := c.done g (if hit c then 1 else 2) (link { c with btb := SMap.put BtbEntry.empty c.btb (bits c.pc 1 8) e })
      { x with pc := tgt c }
    let next (c : Copy) : Word := c.pc + BitVec.ofNat 64 g.len
    (Ready s w g →
      (∃ t, exec (.b w g off) s = .next t ∧ Committed s t w (taken (fun c => c.pc + (off.signExtend 64 <<< 1)) id)) ∧
      (∃ t, exec (.bl w g off) s = .next t ∧
        Committed s t w (taken (fun c => c.pc + (off.signExtend 64 <<< 1)) fun c => c.setReg 31 (next c))) ∧
      (∃ t, exec (.jalr w g d a imm) s = .next t ∧
        Committed s t w (taken (fun c => c.reg a + (imm.signExtend 64 <<< 1)) fun c => c.setReg d (next c)))) ∧
    (Skips s w g → ∀ i ∈ [Instr.b w g off, .bl w g off, .jalr w g d a imm], ∃ t, exec i s = .next t ∧ Committed s t w fun c =>
      c.done g (if hit c then 2 else 1)
        (if hit c then { c with btb := SMap.put BtbEntry.empty c.btb (bits c.pc 1 8) BtbEntry.empty } else c))

/-! ### Undefined encodings, false conditions, traps and returns (04) -/

/-- R90, R118: an instruction whose condition code or reserved field R90 makes undefined traps UNDEF in every copy, whatever its condition. The copies
have a free entry frame (R139). COP is stated with no copy that waits for its value. R91, R92: an instruction other than a branch whose condition is
false is a NOP of 1 cycle: it latches its condition, a pending load is written and the program counter moves past it; no register, flag or memory
changes otherwise. -/
def Obligations.UndefinedAndFalseConditions : Prop :=
  (∀ (i : Instr) (s : State) (w : Who) (g : Guard), i.guard = some (w, g) → Lockstep s w → (s.lead w).depth < 32 →
     (∀ word, i = .cop w word → s.copWaiters w = []) → (g.undef || i.reserved) = true →
     ∃ t, exec i s = .next t ∧ Trapped s t w (trapOf cUNDEF)) ∧
  (∀ (i : Instr) (s : State) (w : Who) (g : Guard), i.guard = some (w, g) → i.isBranch = false → i.reserved = false → Skips s w g →
     (∀ word, i = .cop w word → s.copWaiters w = []) → ∃ t, exec i s = .next t ∧ Committed s t w fun c => c.done g 1 c)

/-- R108, R118, R137 to R140: TRAP (d = 0) takes the trap TRAP with its code in CAUSE.TRAPNO and the address of the instruction after it in the frame.
R142, R106: ERET at SUP or MON, with a frame to return to and no candidate that would preempt, restores PSR[10:0], g1 to g14 and PC from the frame,
decrements DEPTH, pops the active level where KIND = 1, takes 10 cycles and clears the triad's reservation. -/
def Obligations.TrapEntryAndReturn : Prop :=
  (∀ (s : State) (w : Who) (g : Guard) (code : BitVec 10), Ready s w g → (s.lead w).depth < 32 →
     ∃ t, exec (.trap w g 0 code) s = .next t ∧
       Trapped s t w { code := 3, va := 0, isWrite := false, half := 0, partialSt := false, trapno := code.toNat }) ∧
  (∀ (s : State) (w : Who) (g : Guard) (fr : List Word), Ready s w g → (s.lead w).priv ≠ 0 → (s.lead w).depth ≠ 0 →
     (∀ c ∈ s.runners w, (List.range 16).map (fun i => s.tcmRead (copyIx w.t.val c) ((s.lead w).frameOff ((s.lead w).depth - 1) + 8 * i)) = fr) →
     (∀ c ∈ s.runners w, s.chainCandidate (copyIx w.t.val c) = none) →
     ∃ t u, exec (.eret w g 0 0 0) s = .next t ∧ t = { u with resv := SMap.put none s.resv w.t.val none } ∧ Committed s u w fun c =>
       let x : Copy := { c with
         g := (List.range 14).foldl (fun m i => SMap.put 0 m (i + 1) (fr.getD (i + 2) 0)) c.g
         psr := setBits c.psr 0 11 (bits (fr.getD 1 0) 0 11)
         icStk := setBits c.icStk 16 6 (c.depth - 1) }
       let y := (if bit (fr.getD 1 0) 63 then x.popLevel else x).flushPend
       { y with pc := fr.getD 0 0, slot := false, instret := y.instret + 1, cycle := c.cycle + 10 })

/-- R108, R86: WFI at SUP or MON stops its copies; IBAR discards the lines of the F stage in 3 cycles (R94, R133); DBAR with nothing outstanding completes
(R109). WFI at USR traps PRIV. R76 to R80: MSYNC at SUP or MON with no resynchronisation in progress and no armed request writes 1 to d in 4 cycles;
while a resynchronisation runs it waits; an armed request in DEBUG_SPLIT is refused: status 2, ARM cleared, MODE_SWITCH_ILLEGAL raised. -/
def Obligations.WaitBarriersAndMsync : Prop :=
  (∀ (s : State) (w : Who) (g : Guard), Ready s w g →
     ((s.lead w).priv ≠ 0 → ∃ t, exec (.wfi w g) s = .next t ∧ Committed s t w fun c => c.done g 1 { c with status := .wfi }) ∧
     ((s.lead w).priv = 0 → (s.lead w).depth < 32 → ∃ t, exec (.wfi w g) s = .next t ∧ Trapped s t w (trapOf cPRIV)) ∧
     (∃ t, exec (.ibar w g) s = .next t ∧
       Committed s t w fun c => c.done g 3 { c with fCur := FLine.empty, fNext := FLine.empty, fPre := FLine.empty }) ∧
     (s.outstanding w = false → ∃ t, exec (.dbar w g) s = .next t ∧ Committed s t w fun c => c.done g 1 c) ∧
     (s.outstanding w = true → exec (.dbar w g) s = .next s)) ∧
  (∀ (s : State) (w : Who) (g : Guard) (d : RegNo), Ready s w g → (s.lead w).priv ≠ 0 →
     (s.resyncBusy w.t.val = true → exec (.msync w g d 0 0) s = .next s) ∧
     (s.resyncBusy w.t.val = false → s.fget (Reg.triModeReq w.t.val) Reg.triModeReq_ARM = 0 →
       ∃ t, exec (.msync w g d 0 0) s = .next t ∧ Committed s t w fun c => c.done g 4 (c.setReg d 1)) ∧
     (s.resyncBusy w.t.val = false → s.fget (Reg.triModeReq w.t.val) Reg.triModeReq_ARM = 1 → s.mode w.t.val = 3 →
       ∃ t u, exec (.msync w g d 0 0) s = .next t ∧ Committed s u w (fun c => c.done g 4 (c.setReg d 2)) ∧
         t = (u.fset (Reg.triModeReq w.t.val) Reg.triModeReq_ARM 0).raise (srcMODE_SWITCH_ILLEGAL w.t.val)))

/-! ### Loads, stores and atomics (03) -/

/-- R49, R54, R94, R96, R148: a load or store in one piece to the self alias reads or writes each copy's own data TCM, in 1 cycle. A load's value, sign-
or zero-extended, becomes pending for its register (nothing is pending for g0), and the next instruction is in its delay slot; a store changes its
bytes in each copy's TCM alone, and marks their word written (R273). The commands are LD, LDU, ST, FLD, FST and MEMX (`accessOf`). R53, R96, R99,
R103, R105: a load, store or atomic in one piece that goes to a memory outside the triad is issued once; where the target answers OK every copy
completes it, memory holds what the target made of it, and the value returned becomes pending (nothing for g0, nothing for a store). AMOCAS sets Z
where the value returned equals ACMP in the access's size. The commands are LD, LDU, ST, FLD, FST, MEMX, LL, SC, AMOSWAP, AMOADD and AMOCAS
(`accessOf`). -/
def Obligations.LoadsStoresAndAtomics : Prop :=
  (∀ (i : Instr) (s : State) (w : Who) (g : Guard) (acc : Access) (va : Word) (h : Half), i.guard = some (w, g) → i.reserved = false →
     Ready s w g → accessOf i (s.lead w) = some (acc, va) → (s.lead w).plan acc.kind va (2 ^ acc.size) = .ok [h] → h.how = .tcm →
     let n := 2 ^ acc.size
     let lo (k : Nat) : Nat := tcmAddr k (h.pa % 0x10000)
     (acc.kind = .load → ∃ t, exec i s = .next t ∧ CommittedAt s t w (fun k c =>
       let raw := s.bytes (lo k) n
       let v : Word := if acc.sext then BitVec.ofInt 64 (signed (8 * n) raw) else BitVec.ofNat 64 raw
       { c.done g 1 c with pend := if acc.isF = false ∧ acc.dest = 0 then none else some (acc.isF, acc.dest, v), slot := true }) s.byte
       fun j => SMap.get 0 s.prot.valid j) ∧
     (acc.kind = .store → ∃ t, exec i s = .next t ∧ CommittedAt s t w (fun _ c => c.done g 1 c) (fun a =>
       match (s.runners w).find? fun c => decide (lo (copyIx w.t.val c) ≤ a ∧ a < lo (copyIx w.t.val c) + n) with
       | some c => BitVec.ofNat 8 (acc.data.toNat / 256 ^ (a - lo (copyIx w.t.val c)))
       | none => s.byte a) fun j =>
         if (s.runners w).any fun c => decide (lo (copyIx w.t.val c) / 8 = j) then 3 else SMap.get 0 s.prot.valid j)) ∧
  (∀ (i : Instr) (s : State) (w : Who) (g : Guard) (acc : Access) (va : Word) (h : Half), i.guard = some (w, g) → i.reserved = false →
     Ready s w g → accessOf i (s.lead w) = some (acc, va) → (s.lead w).plan acc.kind va (2 ^ acc.size) = .ok [h] → h.how = .plain →
     s.unblocked w acc h → (s.serve (s.accessReq w acc h)).1.status = .ok →
     let n := 2 ^ acc.size
     let raw := (s.serve (s.accessReq w acc h)).1.data % 2 ^ (8 * n)
     let v : Word := if acc.sext then BitVec.ofInt 64 (signed (8 * n) raw) else BitVec.ofNat 64 raw
     ∃ t, exec i s = .next t ∧ t.mem = (s.serve (s.accessReq w acc h)).2.mem ∧
       ∀ c ∈ s.runners w, let x := s.copy (copyIx w.t.val c)
         let y := t.copy (copyIx w.t.val c)
         y.pc = x.pc + BitVec.ofNat 64 g.len ∧ y.instret = x.instret + 1 ∧ y.g = x.flushPend.g ∧ y.f = x.flushPend.f ∧
         y.pend = (if acc.kind = .store ∨ (acc.isF = false ∧ acc.dest = 0) then none else some (acc.isF, acc.dest, v)) ∧
         y.slot = decide (acc.kind ≠ .store) ∧
         (acc.kind = .atom .cas → y.flags.z = decide (v.toNat % 2 ^ (8 * n) = acc.cmp.toNat % 2 ^ (8 * n))))

/-- R103, R104, R118, R119: an access that its plan stops takes the plan's trap in every copy and accesses nothing. The plan tests in this order: a
misaligned atomic raises ALIGN; an address without a TLB entry raises TLB_MISS_D with that address; a page that does not permit the access at the
copy's level raises PERM_R or PERM_W; a page without D raises DIRTY on a store or atomic. -/
def Obligations.AccessTraps : Prop :=
  (∀ (i : Instr) (s : State) (w : Who) (g : Guard) (acc : Access) (va : Word) (ti : TrapInfo), i.guard = some (w, g) → i.reserved = false →
    Ready s w g → (s.lead w).depth < 32 → accessOf i (s.lead w) = some (acc, va) →
    (s.lead w).plan acc.kind va (2 ^ acc.size) = .error ti → ∃ t, exec i s = .next t ∧ Trapped s t w ti) ∧
  (∀ (c : Copy) (op : AtomOp) (va : Word) (n : Nat), va.toNat % n ≠ 0 →
    c.plan (.atom op) va n = .error (trapAt cALIGN va (decide (op ≠ .ll)))) ∧
  (∀ (c : Copy) (kind : AccessKind) (va : Word) (k : Nat), k < 4 → va.toNat % 2 ^ k = 0 →
    (c.tlbFind (va48 va) = none → c.plan kind va (2 ^ k) = .error (trapAt cTLB_MISS_D (BitVec.ofNat 64 (va48 va)) kind.writes)) ∧
    (∀ i, c.tlbFind (va48 va) = some i →
      let p := (c.tlbAt i).pte
      let user : Bool := decide (c.priv ≠ 0) || pteU p
      (kind = .load → (pteR p && user) = false → c.plan kind va (2 ^ k) = .error (trapAt cPERM_R va false)) ∧
      (kind = .store → (pteW p && user) = false → c.plan kind va (2 ^ k) = .error (trapAt cPERM_W va true)) ∧
      (kind = .store → (pteW p && user) = true → pteD p = false → c.plan kind va (2 ^ k) = .error (trapAt cDIRTY va true))))

/-! ### Control and status registers, cache operations, the TLB (03, 04, 05) -/

/-- R57, R110: CSRR at MON writes d with the CSR's value in 1 cycle. COREID names the copy (3 for a group), the triad and its quadrant. At USR a CSR that
needs SUP raises PRIV, and a number that names no CSR raises UNDEF. R87, R110: CSRW at MON writes the bits that a CSR has, in 1 cycle. A write of PSR
at SUP or MON writes PSR[10:0], does not latch a condition, and may not raise the level; at USR it writes PSR[7:0] alone. -/
def Obligations.CsrReadAndWriteValues : Prop :=
  (∀ (s : State) (w : Who) (g : Guard) (d : RegNo), Ready s w g →
     ((s.lead w).priv = 2 →
       (∀ x ∈ ([(0x000, Copy.psr), (0x001, Copy.fcsr), (0x003, Copy.instret), (0x004, Copy.cycle), (0x010, Copy.cause), (0x011, Copy.faultVa),
           (0x012, Copy.tlbMissVa), (0x013, Copy.acmp), (0x014, Copy.asid), (0x018, Copy.vectb), (0x019, Copy.troute), (0x020, Copy.fctx),
           (0x129, Copy.icMask), (0x12A, Copy.icState), (0x12B, Copy.icStk), (0x12C, Copy.icTcmp)] : List (BitVec 12 × (Copy → Word))),
         ∃ t, exec (.csrr w g d x.1) s = .next t ∧ Committed s t w fun c => c.done g 1 (c.setReg d (x.2 c))) ∧
       (∀ n : Fin 32, ∃ t, exec (.csrr w g d (0x100 + BitVec.ofNat 12 n)) s = .next t ∧
         Committed s t w fun c => c.done g 1 (c.setReg d (SMap.get 0 c.icLvl n))) ∧
       (∃ t, exec (.csrr w g d 0x002) s = .next t ∧ Committed s t w fun c => c.done g 1 (c.setReg d
         (BitVec.ofNat 64 ((if s.groupMode w.t.val then 3 else w.c.num) + 4 * w.t.val + 64 * (w.t.val / 4)))))) ∧
     ((s.lead w).depth < 32 → (s.lead w).priv = 0 →
       (∀ x ∈ ([0x010, 0x011, 0x012, 0x014, 0x018, 0x019, 0x020, 0x100, 0x120, 0x124, 0x129, 0x12A, 0x12B, 0x12C] : List (BitVec 12)),
         ∃ t, exec (.csrr w g d x) s = .next t ∧ Trapped s t w (trapOf cPRIV)) ∧
       (∀ x ∈ ([0x005, 0x00A, 0x015, 0x028, 0x12D, 0x7FF] : List (BitVec 12)),
         ∃ t, exec (.csrr w g d x) s = .next t ∧ Trapped s t w (trapOf cUNDEF)))) ∧
  (∀ (s : State) (w : Who) (g : Guard) (d : RegNo), Ready s w g →
     ((s.lead w).priv = 2 →
       (∀ x ∈ ([(0x001, fun c v => { c with fcsr := v &&& 0xFF }), (0x013, fun c v => { c with acmp := v }),
           (0x014, fun c v => { c with asid := v &&& 0xFFFF }), (0x018, fun c v => { c with vectb := v &&& 0xF000 }),
           (0x019, fun c v => { c with troute := v }), (0x020, fun c v => { c with fctx := v &&& 7 }),
           (0x129, fun c v => { c with icMask := v &&& 0xF }), (0x12C, fun c v => { c with icTcmp := v })] :
           List (BitVec 12 × (Copy → Word → Copy))),
         ∃ t, exec (.csrw w g d x.1) s = .next t ∧ Committed s t w fun c => c.done g 1 (x.2 c (c.reg d))) ∧
       (∀ n : Fin 32, ∃ t, exec (.csrw w g d (0x100 + BitVec.ofNat 12 n)) s = .next t ∧
         Committed s t w fun c => c.done g 1 { c with icLvl := SMap.put 0 c.icLvl n (c.reg d &&& 0x1F1F1F1F1F1F1F1F) }) ∧
       (∀ n : Fin 4, ∃ t, exec (.csrw w g d (0x120 + BitVec.ofNat 12 n)) s = .next t ∧
         Committed s t w fun c => c.done g 1 { c with icEn := SMap.put 0 c.icEn n (c.reg d) })) ∧
     (∀ i ∈ [Instr.psrWrite w g d, .csrw w g d 0],
       (((s.lead w).priv = 0 ∨ (bits ((s.lead w).reg d) 8 2 ≤ (s.lead w).priv ∧ bits ((s.lead w).reg d) 8 2 ≠ 3)) →
         ∃ t, exec i s = .next t ∧ Committed s t w fun c =>
           let x := ({ c with psr := if c.priv = 0 then (c.psr &&& ~~~0xFF) ||| (c.reg d &&& 0xFF) else c.reg d &&& 0x7FF } : Copy).flushPend
           { x with pc := c.pc + BitVec.ofNat 64 g.len, slot := false, instret := x.instret + 1, cycle := c.cycle + 1 }) ∧
       ((s.lead w).priv = 1 → bits ((s.lead w).reg d) 8 2 = 2 → (s.lead w).depth < 32 →
         ∃ t, exec i s = .next t ∧ Trapped s t w (trapOf cPRIV))))

/-- R110, R127, R134: at MON, ICINV_ALL invalidates every unlocked instruction-cache line in 256 cycles and DCINV_ALL every data-cache line in 128;
ICINV_VA and DCINV_VA invalidate the line of the address that d translates to, a locked instruction-cache line excepted; DCCLEAN_VA and DCCLEAN_ALL
post the clean writes of dirty lines and mark them clean; IC_SWSET sets the latch of source 192 + N in its copies. An address without a TLB entry
raises TLB_MISS_D. -/
def Obligations.CacheOperations : Prop :=
  ∀ (s : State) (w : Who) (g : Guard) (d : RegNo), Ready s w g → (s.lead w).priv = 2 →
    (∃ t, exec (.icinvAll w g d) s = .next t ∧
      Committed s t w fun c => c.done g 256 { c with icache := c.icache.filter fun e => e.2.valid && e.2.flag }) ∧
    (∃ t, exec (.dcinvAll w g d) s = .next t ∧ Committed s t w fun c => c.done g 128 { c with dcache := [] }) ∧
    (∃ t, exec (.icSwset w g d) s = .next t ∧ Committed s t w fun c => c.done g 1 (c.setLatch (192 + bits (c.reg d) 0 5))) ∧
    (∃ u, exec (.dccleanAll w g d) s = .next (u.cleanPost w.t.val (s.copyTag w) (s.runners w) (s.lead w).dirtyKeys) ∧
      Committed s u w fun c => c.done g 128 c) ∧
    (∀ i pte pa, (s.lead w).xlate ((s.lead w).reg d) = some (i, pte, pa) →
      (∃ t, exec (.icinvVa w g d) s = .next t ∧ Committed s t w fun c => c.done g 2 (match c.iHit pa with
        | some key => if (c.iLine key).flag then c else { c with icache := SMap.put CacheLine.empty c.icache key CacheLine.empty }
        | none => c)) ∧
      (∃ t, exec (.dcinvVa w g d) s = .next t ∧ Committed s t w fun c => c.done g 2 (match c.dHit pa with
        | some key => { c with dcache := SMap.put CacheLine.empty c.dcache key CacheLine.empty }
        | none => c)) ∧
      (∃ u, Committed s u w (fun c => c.done g 2 c) ∧
        ((s.lead w).dHit pa = none → exec (.dccleanVa w g d) s = .next u) ∧
        (∀ key, (s.lead w).dHit pa = some key →
          exec (.dccleanVa w g d) s = .next (if ((s.lead w).dLine key).flag then u.cleanPost w.t.val (s.copyTag w) (s.runners w) [key] else u)))) ∧
    ((s.lead w).xlate ((s.lead w).reg d) = none → (s.lead w).depth < 32 → ∀ i ∈ [Instr.icinvVa w g d, .dcinvVa w g d, .dccleanVa w g d],
      ∃ t, exec i s = .next t ∧ Trapped s t w (trapAt cTLB_MISS_D (BitVec.ofNat 64 (va48 ((s.lead w).reg d))) false))

/-- R155 to R162: at SUP or MON, TLBWR writes its entry; TLBRD.T and TLBRD.P return the tag form and the PTE of entry a[5:0]; TLBINV.VA, .ASID and .ALL
invalidate the unlocked entries that they name, TLBINV.IDX the entry a[5:0] where it is neither pinned nor locked (at MON also a locked one). At USR
each of them raises PRIV. R156 to R158: a TLBWR with USE_IDX leaves the entry it was given at the index it names, and after any TLBWR no other
unlocked entry overlaps it. At most 8 entries are locked (R159), so an unlocked one exists. -/
def Obligations.TlbInstructions : Prop :=
  (∀ (s : State) (w : Who) (g : Guard) (d a b : RegNo), Ready s w g →
     let drop (p : Copy → TlbEntry → Bool) (c : Copy) : Copy :=
       c.tlbDrop ((List.range 64).filter fun i => !(c.tlbAt i).lock && p c (c.tlbAt i))
     let e (c : Copy) : TlbEntry := c.tlbAt (bits (c.reg a) 0 6)
     ((s.lead w).priv ≠ 0 →
       ((s.lead w).tlbwrTrap ((s.lead w).reg a) ((s.lead w).reg b) ((s.lead w).reg d) = none →
         ∃ t, exec (.tlbwr w g d a b) s = .next t ∧ Committed s t w fun c => c.done g 2 (c.tlbwr (c.reg a) (c.reg b) (c.reg d))) ∧
       (∃ t, exec (.tlbrdT w g d a 0) s = .next t ∧ Committed s t w fun c => c.done g 1 (c.setReg d (BitVec.ofNat 64
         ((e c).vpn * 2 ^ 12 + (e c).asid * 2 ^ 48 + (e c).size + 4 * b2n (e c).v + 8 * b2n (e c).lock + 16 * b2n (e c).pin)))) ∧
       (∃ t, exec (.tlbrdP w g d a 0) s = .next t ∧ Committed s t w fun c => c.done g 1 (c.setReg d (e c).pte)) ∧
       (∃ t, exec (.tlbinvVa w g a b) s = .next t ∧
         Committed s t w fun c => c.done g 1 (drop (fun c e => e.hits (va48 (c.reg a)) (bits (c.reg b) 0 16)) c)) ∧
       (∃ t, exec (.tlbinvAsid w g a) s = .next t ∧
         Committed s t w fun c => c.done g 1 (drop (fun c e => !pteG e.pte && decide (e.asid = bits (c.reg a) 0 16)) c)) ∧
       (∃ t, exec (.tlbinvAll w g) s = .next t ∧ Committed s t w fun c => c.done g 64 (drop (fun _ _ => true) c)) ∧
       ((e (s.lead w)).pin = false → ((e (s.lead w)).lock = false ∨ (s.lead w).priv = 2) →
         ∃ t, exec (.tlbinvIdx w g a) s = .next t ∧
           Committed s t w fun c => c.done g 1 (c.setTlb (bits (c.reg a) 0 6) { e c with v := false, lock := false }))) ∧
     ((s.lead w).priv = 0 → (s.lead w).depth < 32 →
       ∀ i ∈ [Instr.tlbwr w g d a b, .tlbrdT w g d a 0, .tlbrdP w g d a 0, .tlbinvVa w g a b, .tlbinvAsid w g a, .tlbinvAll w g, .tlbinvIdx w g a],
         ∃ t, exec i s = .next t ∧ Trapped s t w (trapOf cPRIV))) ∧
  (∀ (c : Copy) (tag pte ctl : Word), c.tlbwrTrap tag pte ctl = none → (∃ i < 64, (c.tlbAt i).lock = false) →
     let y := c.tlbwr tag pte ctl
     (bit ctl 6 = true → y.tlbAt (bits ctl 0 6) = tlbwrEntry tag pte (bits ctl 7 2) (bit ctl 9)) ∧
     (∃ n < 64, y.tlbAt n = tlbwrEntry tag pte (bits ctl 7 2) (bit ctl 9) ∧
       ∀ i < 64, i ≠ n → (y.tlbAt i).lock = false → (y.tlbAt i).overlaps (tlbwrEntry tag pte (bits ctl 7 2) (bit ctl 9)) = false))

/-! ### Agreement, interrupts, coprocessor, patch and fetch (02, 04, 06) -/

/-- R63: three samples agree on the value that two of them have, and the third copy is the minority; the agreed time of three samples within the window of
each other is their median, and of two the lower; samples that all differ give no value. R56, R110, R428: in SPLIT a read of AGTIME or AGEVENT writes
d with what the copy itself samples; in a group mode it writes the value its agreement delivers, in every copy; where the agreement delivers none it
writes nothing, and the copies wait at it for the next attempt. -/
def Obligations.InputAgreement : Prop :=
  ((∀ (p : Bool) (x y : Option Nat), x ≠ y →
     agreeEqual p [(0, x), (1, x), (2, x)] = { value := x, minority := [], disagree := false, fn := 0 } ∧
     agreeEqual p [(0, y), (1, x), (2, x)] = { value := x, minority := [0], disagree := false, fn := 0 } ∧
     agreeEqual p [(0, x), (1, y), (2, x)] = { value := x, minority := [1], disagree := false, fn := 0 } ∧
     agreeEqual p [(0, x), (1, x), (2, y)] = { value := x, minority := [2], disagree := false, fn := 0 }) ∧
   (∀ (p : Bool) (x y z : Option Nat), x ≠ y → y ≠ z → x ≠ z → (agreeEqual p [(0, x), (1, y), (2, z)]).value = none ∧
     (agreeEqual p [(0, x), (1, y), (2, z)]).disagree = true) ∧
   (∀ win x y z : Nat, x ≤ y → y ≤ z → z ≤ x + win → ∀ l ∈ [[x, y, z], [x, z, y], [y, x, z], [y, z, x], [z, x, y], [z, y, x]],
     agreeTime win [(0, l.getD 0 0), (1, l.getD 1 0), (2, l.getD 2 0)] = { value := some y, minority := [], disagree := false, fn := 1 }) ∧
   (∀ win x y : Nat, x ≤ y → (agreeTime win [(0, x), (1, y)]).value = if y ≤ x + win then some x else none)) ∧
  (∀ (s : State) (w : Who) (g : Guard) (d : RegNo) (x y z : Word), Ready s w g →
     (s.groupMode w.t.val = false →
       (∃ t, exec (.agtimeRead w g d x y z) s = .next t ∧ Committed s t w fun c => c.done g 1 (c.setReg d (s.now + pick3 x y z w.c.num))) ∧
       (∃ t, exec (.ageventRead w g d x y z) s = .next t ∧ Committed s t w fun c => c.done g 1 (c.setReg d (pick3 x y z w.c.num)))) ∧
     (s.groupMode w.t.val = true →
       ∀ q ∈ [(Instr.agtimeRead w g d x y z, 1, s.timeAgreement w.t.val (pick3 x y z)),
           (.ageventRead w g d x y z, 3, s.valueAgreement w.t.val 3 (pick3 x y z))],
         (∀ u, q.2.2 = (none, u) →
           exec q.1 s = .next (u.forCopies w.t.val (u.executing w.t.val) fun c => { c with status := .agree q.2.1 })) ∧
         (∀ v u, q.2.2 = (some v, u) → Ready u w g → ∃ t, exec q.1 s = .next t ∧ Committed u t w fun c => c.done g 1 (c.setReg d v))))

/-- R134: an event sets the latch of its source in the named copies of the named triads and nothing else; a reserved source is never pending. A copy's
comparator that the device count has reached sets source 0 in that copy. R56, R135 to R140: in SPLIT a running copy with a candidate that it takes,
between two instructions and not in the delay slot of a load, enters the handler: the program counter comes from the vector of the source, PRIV is MON
or at least SUP, CAUSE is 0, the level is pushed, the latch cleared, DEPTH counted, and the frame, whose words are marked written (R273), holds the
program counter, PSR[10:0] with SOURCE and KIND = 1, and g1 to g14. A copy with no candidate, or in a delay slot, is left as it is. -/
def Obligations.InterruptLatchesAndEntry : Prop :=
  (∀ (s : State) (k : Nat), k < 48 →
     (∀ (src : BitVec 8) (triads : BitVec 16) (copies : BitVec 3), ∃ t, exec (.interruptLatchSet src triads copies) s = .next t ∧
       t = { s with copies := t.copies } ∧ ∀ n < 256,
         (t.copy k).latch n = ((s.copy k).latch n ||
           (decide (n = src.toNat) && triads.getLsbD (k / 3) && copies.getLsbD (k % 3) && !decide ((3 ≤ n ∧ n ≤ 15) ∨ 240 ≤ n)))) ∧
     (∀ tr : Fin 16, ∃ t, exec (.timeCompare tr) s = .next t ∧ t = { s with copies := t.copies } ∧ ∀ n < 256,
       (t.copy k).latch n = ((s.copy k).latch n ||
         (decide (n = 0) && decide (k / 3 = tr.val) && decide ((s.copy k).icTcmp.toNat ≤ s.now.toNat))))) ∧
  (∀ (s : State) (w : Who), let k := copyIx w.t.val w.c.num
     s.triadRuns w.t.val = true → s.groupMode w.t.val = false → s.live w.t.val w.c.num = true → (s.copy k).status = .run →
     s.inAccess w.t.val (fun y => decide (y = w.c.num)) = false →
     ((s.copy k).candidate = none ∨ (s.copy k).slot = true ∨ (s.copy k).pend ≠ none → exec (.iauAgreement w) s = .next s) ∧
     ((s.copy k).slot = false → (s.copy k).pend = none → s.sound k → (s.triad w.t.val).inject = none →
       s.tri w.t.val Reg.triStatus_RESYNC_PHASE ≠ 2 → (s.copy k).depth < 32 →
     ∀ src lvl, (s.copy k).candidate = some (src, lvl) → (s.copy k).takes lvl = true → ∃ t, exec (.iauAgreement w) s = .next t ∧
       t = { s with copies := t.copies, mem := t.mem, resv := t.resv, prot := { s.prot with valid := t.prot.valid } } ∧
       (∀ i < 16, SMap.get 0 t.prot.valid (tcmAddr k ((s.copy k).frameOff (s.copy k).depth + 8 * i) / 8) = 3) ∧ SMap.get none t.resv w.t.val = none ∧
       (∀ j, j ≠ k → t.copy j = s.copy j) ∧
       let c := s.copy k
       let y := t.copy k
       y.pc = s.tcmRead k (bits c.vectb 12 4 * 0x1000 + 0x400 + 8 * src) ∧ y.priv = (if c.srcMon src then 2 else max 1 c.priv) ∧ y.cause = 0 ∧
       bits y.icState 0 4 = lvl ∧ bit y.icState 4 = true ∧ y.latch src = false ∧ y.depth = c.depth + 1 ∧ y.g = c.g ∧
       t.tcmRead k (c.frameOff c.depth) = c.pc ∧
       t.tcmRead k (c.frameOff c.depth + 8) = BitVec.ofNat 64 (bits c.psr 0 11 + 2 ^ 55 * src + 2 ^ 63) ∧
       (∀ i < 14, t.tcmRead k (c.frameOff c.depth + 16 + 8 * i) = SMap.get 0 c.g (i + 1))))

/-- R48, R112 to R114, R191: COP with a context that the image binds to the triad, with room for the packet, sends the word with the two scalar operands
(0 where bit 26 of the word is 0) once; a form that returns a value leaves its copies waiting at the instruction. With an unbound context it raises
COP_UNBOUND. R114, R194: in SPLIT, a value-returning COP sent again while its copy waits takes the first value returned for the copy, writes d and
goes on; the context holds the value no longer. With no value there yet the copy goes on waiting. -/
def Obligations.CoprocessorInstructionAndValue : Prop :=
  (∀ (s : State) (w : Who) (word : BitVec 32), Ready s w (.c32 (wCond word)) → s.copWaiters w = [] →
     let cx := bits (s.lead w).fctx 0 3
     let sends : Bool := word.getLsbD 26
     let p : FulPkt :=
       { word := word, a := if sends then (s.lead w).reg (wA word) else 0, b := if sends then (s.lead w).reg (wB word) else 0,
         tag := if s.groupMode w.t.val then 3 else w.c.num }
     (s.boundTo cx w.t.val = true → (s.ctx cx).queue.length + (s.ctx cx).crossing.length < 16 → ∃ t, exec (.cop w word) s = .next t ∧
       t = { s with copies := t.copies, regs := t.regs, ctxs := t.ctxs } ∧
       t.ctx cx = { s.ctx cx with crossing := (s.ctx cx).crossing ++ [p] } ∧ (∀ j, j ≠ cx → t.ctx j = s.ctx j) ∧
       ∀ c ∈ s.runners w, let x := s.copy (copyIx w.t.val c)
         t.copy (copyIx w.t.val c) = if fwReturns word then { x with status := .cop, cycle := x.cycle + 1 } else x.done (.c32 (wCond word)) 1 x) ∧
     (s.boundTo cx w.t.val = false → (s.lead w).depth < 32 →
       ∃ t, exec (.cop w word) s = .next t ∧ Trapped s t w (trapOf cCOP_UNBOUND))) ∧
  (∀ (s : State) (w : Who) (word : BitVec 32), let k := copyIx w.t.val w.c.num
     let c : Copy := { s.copy k with status := .run }
     let cx := bits c.fctx 0 3
     s.copWaiters w = [w.c.num] → s.groupMode w.t.val = false → (s.triad w.t.val).inject = none →
     bit c.pc 0 = false → c.fetchBad = none → (Guard.c32 (wCond word)).undef = false → (Guard.c32 (wCond word)).holds c = true →
     ((∀ x ∈ (s.ctx cx).ret, x.1 ≠ w.c.num) → exec (.cop w word) s = .next s) ∧
     (∀ v r, (s.ctx cx).ret = (w.c.num, v) :: r → ∃ t, exec (.cop w word) s = .next t ∧
       t = { s with copies := t.copies, regs := t.regs, ctxs := t.ctxs } ∧
       t.copy k = c.done (.c32 (wCond word)) 1 (c.setReg (wD word) v) ∧ (∀ j, j ≠ k → t.copy j = s.copy j) ∧
       t.ctx cx = { s.ctx cx with ret := r }))

/-- R115 to R117: PATCH with an active table, a valid entry and micro-ops that access no memory runs them in order as one instruction of 1 cycle plus
their counts; with an inactive table or an invalid entry it raises UNDEF. A write of PATCH_DATA stores the word or header that PATCH_IDX selects while
the table is active, and nothing while it is not. -/
def Obligations.PatchTable : Prop :=
  ∀ (s : State) (w : Who),
    (∀ (word : BitVec 32) (ops : List (BitVec 32)), Ready s w (.c32 (wCond word)) → word.toNat / 2 ^ 26 % 4 = 0 →
      ops = (s.triad w.t.val).patchOps (word.toNat / 2 ^ 22 % 16) ((s.triad w.t.val).patchHeader (word.toNat / 2 ^ 22 % 16)) →
      (s.patchActive = true → bit ((s.triad w.t.val).patchHeader (word.toNat / 2 ^ 22 % 16)) 3 = true →
        (∀ x ∈ ops, (uopAct x (fun _ => 0) (s.lead w)).isSome = true) →
        (runUops (wD word) (wA word) (wB word) none ops (UState.init (s.lead w))).mem = none →
        ∃ t, exec (.patch w word) s = .next t ∧ Committed s t w fun c =>
          let u := runUops (wD word) (wA word) (wB word) none ops (UState.init c)
          c.done (.c32 (wCond word)) (1 + u.cyc) u.copy) ∧
      ((s.patchActive = false ∨ bit ((s.triad w.t.val).patchHeader (word.toNat / 2 ^ 22 % 16)) 3 = false) → (s.lead w).depth < 32 →
        ∃ t, exec (.patch w word) s = .next t ∧ Trapped s t w (trapOf cUNDEF))) ∧
    (∀ (g : Guard) (d : RegNo), Ready s w g → (s.lead w).priv = 2 →
      let x := s.triad w.t.val
      let v := (s.lead w).reg d
      ∃ t u, exec (.patchDataWrite w g d) s = .next t ∧ Committed s u w (fun c => c.done g 9 c) ∧
        (s.patchActive = false → t = u) ∧
        (s.patchActive = true → bit x.patchIdx 7 = false → t = u.modTriad w.t.val fun x =>
          { x with patch := SMap.put 0 x.patch (16 * bits x.patchIdx 0 4 + bits x.patchIdx 4 3) (v &&& 0xFFFFFFFF) }) ∧
        (s.patchActive = true → bit x.patchIdx 7 = true → bit v 3 = false → t = u.modTriad w.t.val fun x =>
          { x with patch := SMap.put 0 x.patch (16 * bits x.patchIdx 0 4 + 8) (v &&& 0xF) }))

/-- R88, R122, R125, R155: with empty line buffers, a fetch from the copy's own TCM or from a line its instruction cache holds places the 32-byte line of
the program counter in the current buffer and changes nothing else, but that the cache's line is now the one used last; a line without a TLB entry
raises TLB_MISS_I with the program counter. -/
def Obligations.InstructionFetchLines : Prop :=
  ∀ (s : State) (w : Who), Lockstep s w → (s.lead w).fCur = FLine.empty → (s.lead w).fNext = FLine.empty → (s.lead w).fPre = FLine.empty →
    let line := va48 (s.lead w).pc / 32
    ((s.lead w).xlate (BitVec.ofNat 64 (line * 32)) = none → (s.lead w).depth < 32 → ∃ t, exec (.instructionFetch w) s = .next t ∧
      Trapped s t w (trapAt cTLB_MISS_I (BitVec.ofNat 64 (va48 (s.lead w).pc)) false)) ∧
    (∀ i pte pa, (s.lead w).xlate (BitVec.ofNat 64 (line * 32)) = some (i, pte, pa) → permTrap .fetch (s.lead w).priv pte = none →
      let filled (data : Nat → Nat) (used : Copy → Copy) : Prop := ∃ t, exec (.instructionFetch w) s = .next t ∧ t = { s with copies := t.copies } ∧
        (∀ c ∈ s.runners w, t.copy (copyIx w.t.val c) =
          used { s.copy (copyIx w.t.val c) with fCur :=
            { valid := true, va := line, data := data (copyIx w.t.val c), bad := [], lack := 0 } }) ∧
        ∀ j, (∀ c ∈ s.runners w, j ≠ copyIx w.t.val c) → t.copy j = s.copy j
      (isSelf pa = true → filled (fun k => s.bytes (tcmAddr k (pa % 0x10000)) 32) id) ∧
      (isSelf pa = false → ∀ key, (s.lead w).iHit pa = some key →
        filled (fun _ => ((s.lead w).iLine key).data) fun c => c.setILine key (c.iLine key)))

/-! ### Register rows of the FCRU, TRI, GATE and XLT blocks (01, 02, 05) -/

/-- R172, R177, R178: a register write that the gate of the register's block denies changes nothing but what the denial records: the source GATE_DENIED of
the gate is raised on the requester's behalf, DENIED counts it, and the violation log takes the requester, the operation, the address and the time, or
sets LOG_OVF where it holds eight entries. A gate that finds its rule storage uncorrectable first sets CFG_FAILED and raises GATE_CFG_UE. -/
def Obligations.DeniedRegisterWrites : Prop :=
  ∀ (i : Instr) (s : State) (rq : Rq) (off c : Nat), regRow i = some (rq, off) → s.gateCause (regReq rq .write off) = some c →
    let g := gateOf (paMmio + off)
    let n := s.fget (Reg.gateStat g) Reg.gateStat_LOG_COUNT
    let u := if g ∈ s.latent.gate ∧ s.fget (Reg.gateCtl g) Reg.gateCtl_CFG_FAILED = 0 then
      (s.fset (Reg.gateCtl g) Reg.gateCtl_CFG_FAILED 1).raise 0x17F else s
    ∃ t, exec i s = .next t ∧ t = { u with regs := t.regs, detected := t.detected } ∧
      bit (t.rd (Reg.fcruPend ((0x160 + g) / 64))) ((0x160 + g) % 64) = true ∧
      t.detected.map (fun d => (d.src, d.grp)) = u.detected.map (fun d => (d.src, d.grp)) ++ [(0x160 + g, some rq.init.val)] ∧
      t.rd (Reg.gateCtl g) = u.rd (Reg.gateCtl g) ∧
      t.fget (Reg.gateStat g) Reg.gateStat_DENIED = min (2 ^ 32 - 1) (s.fget (Reg.gateStat g) Reg.gateStat_DENIED + 1) ∧
      (n < 8 → t.fget (Reg.gateStat g) Reg.gateStat_LOG_COUNT = n + 1 ∧ (t.rd (Reg.gateVlogAddr g n)).toNat = (paMmio + off) % 2 ^ 44 ∧
        t.rd (Reg.gateVlogInfo g n) = BitVec.ofNat 64 (rq.init.val + 2 ^ 5 * 1 + 2 ^ 8 * c + 2 ^ 10 + 2 ^ 24 * s.now40)) ∧
      (8 ≤ n → t.fget (Reg.gateStat g) Reg.gateStat_LOG_COUNT = n ∧ t.fget (Reg.gateStat g) Reg.gateStat_LOG_OVF = 1)

/-- R32, R35, R36 and the FCRU registers: FCRU_SW_RAISE raises a listed source but FCRU_SELF and FCRU_WDOG, under INJECT; a matrix entry takes its value
unless the source is reserved or fixed or the entry locked, a forbidden value raises the FCRU gate's source instead, and a write that takes effect
closes the entry's window; the pending bits and LOG_WRAP clear where 1 is written; GLOBAL_LOCK locks every entry. -/
def Obligations.FcruRegisterRows : Prop :=
  ∀ (s : State) (rq : Rq) (v : Word) (n : BitVec 3) (src : BitVec 9),
    let old := s.rd (Reg.fcruMatrix src.toNat)
    let new := v &&& 0x800001FFFFFFFFFF
    let fixed (k : Nat) : Prop := k = 0x1FD ∨ k = 0x1FE
    let close (u : State) : State :=
      (u.fset (Reg.fcruCnt src.toNat) Reg.fcruCnt_IN_WINDOW 0).fset (Reg.fcruCnt src.toNat) Reg.fcruCnt_WINDOW_OPEN 0
    s.rows [
      (.fcruSwRaise rq v, if s.fget Reg.sysPerm Reg.sysPerm_INJECT = 1 ∧ sourceListed (bits v 0 9) = true ∧ ¬ fixed (bits v 0 9) then
        s.raise (bits v 0 9) else s),
      (.logWrapClear rq, s.fset Reg.fcruStatus Reg.fcruStatus_LOG_WRAP 0),
      (.pendClear rq n v, s.wr (Reg.fcruPend n.toNat) (s.rd (Reg.fcruPend n.toNat) &&& ~~~v)),
      (.matrixWrite rq src v, if sourceListed src.toNat = false ∨ fixed src.toNat ∨ bit old 63 = true then s
        else if matrixForbidden src.toNat new = true then s.raiseFor 0x166 (some rq.init.val)
        else close (s.wr (Reg.fcruMatrix src.toNat) new)),
      (.matrixLock rq src, if sourceListed src.toNat = false ∨ fixed src.toNat ∨ bit old 63 = true then s
        else if matrixForbidden src.toNat old = true then s.raiseFor 0x166 (some rq.init.val)
        else close (s.wr (Reg.fcruMatrix src.toNat) (old &&& 0x800001FFFFFFFFFF ||| BitVec.twoPow 64 63)))] ∧
    (s.grants rq Reg.fcruStatus → ∃ t, exec (.globalLock rq) s = .next t ∧ t = { s with regs := t.regs } ∧
      t.fget Reg.fcruStatus Reg.fcruStatus_GLOBAL_LOCK = 1 ∧
      (∀ k < 512, ¬ fixed k → t.rd (Reg.fcruMatrix k) = s.rd (Reg.fcruMatrix k) ||| BitVec.twoPow 64 63) ∧
      ∀ r, r ≠ Reg.fcruStatus → (∀ k < 512, r ≠ Reg.fcruMatrix k) → t.rd r = s.rd r)

/-- R60, R70, R73, R76, R78, R83: GO starts a resynchronisation of a VOTE triad's one isolated copy that has not failed, and else changes nothing; a write
of TRI_MODE_REQ (ARM) takes effect, but of a SPLIT triad only copy A's does, and those of its copies B and C raise MODE_SWITCH_ILLEGAL; TRI_INJECT
arms one flip under INJECT; the watchdog's kick advances the key where it is the expected one, raises WATCHDOG where it is not, and restarts the
count; TRI_MISMATCH.VALID clears where 1 is written. Each completes where the gate of the TRI block lets it pass. -/
def Obligations.TriadRegisterRows : Prop :=
  ∀ (s : State) (rq : Rq) (t : Fin 16) (v : Word),
    let old := s.rd (Reg.triModeReq t.val)
    let widths : List Nat := [14, 16, 47, 7, 64, 13, 3, 48, 64, 64, 69]
    let next := s.fget (Reg.triWdogCtl t.val) Reg.triWdogCtl_NEXT_KEY
    let restart (u : State) : State := u.modTriad t.val fun x => { x with wdogFrom := s.ticks }
    (s.grants rq (Reg.triModeReq t.val) → exec (.arm rq t v) s = .next (
      if s.mode t.val = 2 ∧ ¬ (rq.init.val = t.val ∧ rq.tag = 0) then
        (if rq.init.val = t.val ∧ (rq.tag = 1 ∨ rq.tag = 2) then s.raise (0x10 * t.val + 9) else s)
      else s.wr (Reg.triModeReq t.val) ((old &&& ~~~7) ||| (v &&& 7) ||| (v &&& 8)))) ∧
    (s.grants rq (Reg.triInject t.val) → exec (.triInject rq t v) s = .next (
      if s.fget Reg.sysPerm Reg.sysPerm_INJECT = 1 ∧ bit v 13 = true ∧ bits v 4 2 < 3 ∧ bits v 6 7 < widths.getD (bits v 0 4) 0 then
        s.modTriad t.val fun x => { x with inject := some (bits v 0 4, bits v 4 2, bits v 6 7) }
      else s)) ∧
    (s.grants rq (Reg.triWdogKick t.val) → exec (.triWdogKick rq t v) s = .next (
      if s.fget (Reg.triWdogCtl t.val) Reg.triWdogCtl_ENABLE = 0 then s
      else if bits v 0 32 = (if next = 0 then 0xA5C3 else 0x3C5A) then
        restart (s.fset (Reg.triWdogCtl t.val) Reg.triWdogCtl_NEXT_KEY (1 - next))
      else restart (s.raise (0x10 * t.val + 8)))) ∧
    (s.grants rq (Reg.triMismatch t.val) →
      exec (.triMismatchClear rq t) s = .next (s.wr (Reg.triMismatch t.val) (s.rd (Reg.triMismatch t.val) &&& ~~~0x4000))) ∧
    (s.grants rq (Reg.triResyncCtl t.val) →
      (∀ c, s.isolated t.val = [c] → s.mode t.val = 0 → s.resyncBusy t.val = false → (s.triad t.val).resyncBad = false →
        bit (s.rd Reg.pncFailedCopies) (3 * t.val + c) = false → exec (.go rq t) s = .next (
          ((s.fset (Reg.triStatus t.val) Reg.triStatus_RESYNC_BUSY 1).fset (Reg.triStatus t.val) Reg.triStatus_RESYNC_PHASE 1).modTriad t.val
            fun x => { x with rebuild := [c], rebuilt10 := 0 })) ∧
      ((∀ c, s.isolated t.val = [c] → bit (s.rd Reg.pncFailedCopies) (3 * t.val + c) = true) ∨ s.mode t.val ≠ 0 ∨ s.resyncBusy t.val = true ∨
        (s.triad t.val).resyncBad = true → exec (.go rq t) s = .next s))

/-- R176, R179: a write of BASE, LIMIT or MASK goes to the rule's shadow copy alone, and a write of CTL puts the shadow copy and CTL in force together; a
locked rule ignores both. LOCK_ALL sets LOCK in all 32 rules of the gate; CLEAR empties its violation log. A read of GATE_DRAIN notes the requests
that have passed the gate and answers, with their number, once all of them have completed. -/
def Obligations.GateRegisterRows : Prop :=
  ∀ (s : State) (rq : Rq) (gt : Fin 27) (k : BitVec 5) (which : RuleReg) (v : Word),
    let g := gt.val
    let locked : Prop := bit (s.rd (Reg.gateRuleCtl g k.toNat)) 4 = true
    let off := match which with | .base => Reg.gateRuleBase g k.toNat | .limit => Reg.gateRuleLimit g k.toNat | .mask => Reg.gateRuleMask g k.toNat
    let bitsOf : Word := match which with | .mask => 0xFFFFFFFF | _ => 0xFFFFFFFFFC0
    s.rows [
      (.gateRuleShadowWrite rq gt k which v, if bit (s.rd (Reg.gateRuleCtl g k.toNat)) 4 = true then s
        else { s with shadow := SMap.put 0 s.shadow off (v &&& bitsOf) })] ∧
    (s.grants rq (Reg.gateRuleCtl g k.toNat) → locked → exec (.gateRuleCtlWrite rq gt k v) s = .next s) ∧
    (s.grants rq (Reg.gateRuleCtl g k.toNat) → ¬ locked → ∃ t, exec (.gateRuleCtlWrite rq gt k v) s = .next t ∧ t = { s with regs := t.regs } ∧
      (∀ o ∈ [Reg.gateRuleBase g k.toNat, Reg.gateRuleLimit g k.toNat, Reg.gateRuleMask g k.toNat], t.rd o = SMap.get 0 s.shadow o) ∧
      t.rd (Reg.gateRuleCtl g k.toNat) = (s.rd (Reg.gateRuleCtl g k.toNat) &&& ~~~0x1F) ||| (v &&& 0x1F) ∧
      ∀ j < 32, j ≠ k.toNat → t.rule g j = s.rule g j) ∧
    (s.grants rq (Reg.gateCtl g) → ∃ t, exec (.lockAll rq gt) s = .next t ∧ t = { s with regs := t.regs } ∧
      (∀ j < 32, t.rd (Reg.gateRuleCtl g j) = s.rd (Reg.gateRuleCtl g j) ||| 0x10) ∧
      t.fget (Reg.gateCtl g) Reg.gateCtl_LOCK_ALL = 1 ∧ t.fget (Reg.gateCtl g) Reg.gateCtl_LOCKED = 32) ∧
    (s.grants rq (Reg.gateLogClr g) → ∃ t, exec (.gateLogClr rq gt) s = .next t ∧ t = { s with regs := t.regs } ∧
      t.fget (Reg.gateStat g) Reg.gateStat_LOG_COUNT = 0 ∧ t.fget (Reg.gateStat g) Reg.gateStat_LOG_OVF = 0 ∧
      t.fget (Reg.gateStat g) Reg.gateStat_DENIED = s.fget (Reg.gateStat g) Reg.gateStat_DENIED ∧
      ∀ j < 8, t.fget (Reg.gateVlogInfo g j) Reg.gateVlogInfo_VALID = 0) ∧
    (s.grantsRead rq (Reg.gateDrain g) → exec (.gateDrain rq gt) s = .next { s with mesh := { s.mesh with drains := s.mesh.drains ++
      [{ rq := rq, gate := g, wait := (s.mesh.flights.filter fun f => decide (f.gate = g)).map (·.num) }] } }) ∧
    (∀ d r, s.mesh.drains = d :: r → d.rq = rq → d.gate = g →
      ((∃ f ∈ s.mesh.flights, f.num ∈ d.wait) → exec (.gateDrainComplete rq gt) s = .next s) ∧
      ((∀ f ∈ s.mesh.flights, f.num ∉ d.wait) → d.wait.length < 2 ^ 32 → ∃ t, exec (.gateDrainComplete rq gt) s = .next t ∧
        t.mesh.drains = r ∧ t.fget (Reg.gateDrain g) Reg.gateDrain_WAITED = d.wait.length ∧
        SMap.get { status := .ok, data := 0 } t.mesh.last rq.init.val = { status := .ok, data := d.wait.length }))

/-- R165 to R167, R170: the root and the address-space identifier of a context's translation are written as registers, LOCK freezes the root; a walk from
an empty walk cache that reads an invalid root entry faults without filling, and one that finds a malformed entry faults alike. A walk that finds
pointers down to a leaf of level `k` that permits the access, not of a device's memory type, completes: with A set, and D for a write, it fills the
TLB; with one of them clear it first sets them by a compare-and-swap that finds the entry unchanged. Without a tag it stalls (R43). -/
def Obligations.TranslationRowsAndWalks : Prop :=
  (∀ (s : State) (rq : Rq) (c : Fin 8) (v : Word),
    let old := s.rd (Reg.xltRoot c.val)
    let m : Word := if bit old 63 then 0 else 0xFFFFFFFF000
    s.rows [
      (.xltRootWrite rq c v, s.wr (Reg.xltRoot c.val) ((old &&& ~~~m) ||| (v &&& m) ||| (v &&& BitVec.twoPow 64 63))),
      (.xltRootLock rq c, s.wr (Reg.xltRoot c.val) (old ||| BitVec.twoPow 64 63)),
      (.xltAsidWrite rq c v, s.wr (Reg.xltAsid c.val) ((s.rd (Reg.xltAsid c.val) &&& ~~~0xFFFF) ||| (v &&& 0xFFFF)))]) ∧
  (∀ (s : State) (c : Fin 8) (va : Word) (write : Bool),
    let pa := s.fget (Reg.xltRoot c.val) Reg.xltRoot_PPN * 2 ^ 12 + 8 * (va.toNat % 2 ^ 48 / 2 ^ 39 % 512)
    let r := (s.fsat (Reg.xltStat c.val) Reg.xltStat_WALKS 1).serve (walkReq c.val .walkRead pa 0 0)
    (s.tagFree (16 + c.val) = false → exec (.fulWalk c va write) s = .next (s.ctxStall c.val)) ∧
    (s.tagFree (16 + c.val) = true → (∀ x ∈ s.mesh.late, x.1 ≠ 16 + c.val) →
      (s.xltOf c.val).wc = [] → walkMemory pa = true → r.1.status = .ok →
      (pteV (BitVec.ofNat 64 r.1.data) = false ∨ pteMalformed (BitVec.ofNat 64 r.1.data) 0 = true) →
      exec (.fulWalk c va write) s = .next (r.2.fsat (Reg.xltStat c.val) Reg.xltStat_WALK_FAULTS 1))) ∧
  (∀ (s : State) (c : Fin 8) (va : Word) (write : Bool) (k : Nat) (σ : Nat → State) (tab : Nat → Nat),
    let v := va.toNat % 2 ^ 48
    let pa (j : Nat) : Nat := tab j + 8 * (v / 2 ^ (39 - 9 * j) % 512)
    let r (j : Nat) : Resp × State := (σ j).serve (walkReq c.val .walkRead (pa j) 0 0)
    let e (j : Nat) : Word := BitVec.ofNat 64 (r j).1.data
    let u := (r k).2
    let new : Word := e k ||| (if write then 0xC0 else 0x40)
    let q := u.serve (walkReq c.val .walkCas (pa k) new.toNat (e k).toNat)
    k ≤ 3 → s.tagFree (16 + c.val) = true → (s.xltOf c.val).wc = [] → σ 0 = s.fsat (Reg.xltStat c.val) Reg.xltStat_WALKS 1 →
    tab 0 = s.fget (Reg.xltRoot c.val) Reg.xltRoot_PPN * 2 ^ 12 →
    (∀ j ≤ k, walkMemory (pa j) = true ∧ (∀ x ∈ (σ j).mesh.late, x.1 ≠ 16 + c.val) ∧ (r j).1.status = .ok ∧ pteV (e j) = true ∧
      pteMalformed (e j) j = false ∧ pteLeaf (e j) = decide (j = k)) →
    (∀ j < k, tab (j + 1) = ptePPN (e j) * 2 ^ 12 ∧ σ (j + 1) = (r j).2.setXlt c.val
      (((r j).2.xltOf c.val).wcEnter ((r j).2.fget (Reg.xltAsid c.val) Reg.xltAsid_ASID) j v (ptePPN (e j)))) →
    u.leafFault c.val (e k) write = none → pteMT (e k) < 4 →
    (new = e k → exec (.fulWalk c va write) s = .next (u.fulFill c.val v (3 - k) (e k))) ∧
    (new ≠ e k → (∀ x ∈ u.mesh.late, x.1 ≠ 16 + c.val) → q.1.status = .ok → q.1.data = (e k).toNat →
      exec (.fulWalk c va write) s = .next (q.2.fulFill c.val v (3 - k) new)))

/-! ### The mesh, the FCRU and the triads outside their instructions (01, 02) -/

/-- R37, R38, R41, R43, R175: a request to memory with a free tag and none of its initiator's waiting is served at its gate and target and holds a tag
until its response arrives; with no free tag it waits at its initiator's issue point, and TAG_ISSUE issues the oldest one that waits once a tag is
free. A response is delivered, unless it is older than 64 µs, or carries an older epoch, which raises TAG_LATE_DISCARD. A virtual channel that stalls
raises MESH_VC_STALL. An overdue response raises TAG_TIMEOUT for its initiator, releases the tag and advances the epoch; a load, store or atomic that
a triad makes then finds no response, has no effect in memory and traps BUS_TIMEOUT. -/
def Obligations.MeshTagsAndResponses : Prop :=
  (∀ (s : State) (m : MeshReq), windowOf m.pa.toNat ≠ .mmio →
    let init := m.rq.init.val
    let served (u t : State) : Prop := t.mem = (u.serve m).2.mem ∧ ∃ f, t.mesh.flights = u.mesh.flights ++ [f] ∧ f.req = m ∧ f.held = true ∧
      f.done = true ∧ f.resp = (u.serve m).1 ∧ f.epoch = u.epoch init
    (s.tagFree init = true → (∀ x ∈ s.mesh.stalled, x.rq.init ≠ m.rq.init) → s.reqBlocked m = false →
      ∃ t, exec (.meshRequest m) s = .next t ∧ served s t ∧ t.mesh.stalled = s.mesh.stalled) ∧
    (s.tagFree init = false → exec (.meshRequest m) s = .next { s with mesh := { s.mesh with stalled := s.mesh.stalled ++ [m] } }) ∧
    (∀ r, s.mesh.stalled = m :: r → s.tagFree init = true →
      let u := { s with mesh := { s.mesh with stalled := r } }
      u.reqBlocked m = false → ∃ t, exec (.tagIssue m.rq.init) s = .next t ∧ served u t ∧ t.mesh.stalled = r)) ∧
  (∀ (s : State) (f : Flight) (r : List Flight), s.mesh.flights = f :: r → f.done = true → f.own = false → (∀ x ∈ r, x.num ≠ f.num) →
    let init := f.req.rq.init
    ∃ t, exec (.meshResponse init) s = .next t ∧ t.mesh.flights = r ∧
      (64000 < s.ticks - f.time → t.mesh.last = s.mesh.last ∧ t.detected = s.detected) ∧
      (s.ticks - f.time ≤ 64000 → f.epoch ≠ s.epoch init.val → t.mesh.last = s.mesh.last ∧
        t.detected.map (fun d => (d.src, d.grp)) = s.detected.map (fun d => (d.src, d.grp)) ++ [(0x147, some init.val)]) ∧
      (s.ticks - f.time ≤ 64000 → f.epoch = s.epoch init.val → t.detected = s.detected ∧
        SMap.get { status := .ok, data := 0 } t.mesh.last init.val = f.resp)) ∧
  (∀ (s : State) (f : Flight) (r : List Flight) (va : Word) (wr : Bool), s.mesh.flights = f :: r → f.held = true → (∀ x ∈ r, x.num ≠ f.num) →
    let init := f.req.rq.init.val
    ∃ t, exec (.tagRespTimeout f.req.rq va wr) s = .next t ∧ t.mesh.flights = { f with held := false } :: r ∧
      t.epoch init = (s.epoch init + 1) % 256 ∧
      t.detected.map (fun d => (d.src, d.grp)) = s.detected.map (fun d => (d.src, d.grp)) ++ [(0x146, some init)]) ∧
  (∀ (s : State) (rq : Rq) (va : Word) (wr : Bool), (∀ f ∈ s.mesh.flights, f.held = true → f.req.rq ≠ rq) →
    let u := (s.raiseFor 0x146 (some rq.init.val)).nextEpoch rq.init.val
    exec (.tagRespTimeout rq va wr) s = .next { u with mesh := { u.mesh with late := u.mesh.late ++ [(rq.init.val, va, wr)] } }) ∧
  (∀ (i : Instr) (s : State) (w : Who) (g : Guard) (acc : Access) (va : Word) (h : Half), i.guard = some (w, g) → i.reserved = false →
    Ready s w g → (s.lead w).depth < 32 → accessOf i (s.lead w) = some (acc, va) → (s.lead w).plan acc.kind va (2 ^ acc.size) = .ok [h] →
    h.how = .plain → windowOf h.pa ≠ .mmio → s.tagFree w.t.val = true →
    (w.t.val, h.va, reqWrites (s.accessReq w acc h)) ∈ s.mesh.late →
    ∃ t u, exec i s = .next t ∧ Trapped u t w (trapAt cBUS_TIMEOUT h.va acc.kind.writes) ∧ u.mem = s.mem ∧ u.regs = s.regs ∧
      ∀ k, ∃ n, u.copy k = { s.copy k with cycle := (s.copy k).cycle + n }) ∧
  (∀ s : State, exec .meshVcStall s = .next (s.raise 0x144))

/-- R16, R19, R25, R28, R36, R425: an evaluation of one source whose entry at its detection does not escalate counts it, applies its reaction and logs it
with its source, reaction and time: LOG alone, or for a triad's STOP_GROUP the group stopped and a RUN device degraded. An expired escalation window
closes with its count discarded. -/
def Obligations.FcruEvaluation : Prop :=
  (∀ (s : State) (d : Detection), s.detected = [d] → s.fget Reg.fcruStatus Reg.fcruStatus_WDOG_EXPIRED = 0 →
    s.fget (Reg.clkPll 8) Reg.clkPll_STOPPED = 0 → s.latent.f1 = none → d.src < 0x200 → d.src ≠ 0x1FD → d.src ≠ 0x1FE →
    let e := d.entry
    let n := s.fget Reg.fcruLogHead Reg.fcruLogHead_NEXT
    bits e 6 4 = 0 → bit e 40 = false →
    let logged (t : State) (code : Nat) : Prop := t.detected = [] ∧
      t.rd (Reg.fcruLog n) = BitVec.ofNat 64 (d.src + 2 ^ 9 * code + 2 ^ 13 + 2 ^ 14 + 2 ^ 24 * d.time) ∧
      t.rd Reg.fcruLogHead = BitVec.ofNat 64 ((n + 1) % 32) ∧
      t.fget (Reg.fcruCnt d.src) Reg.fcruCnt_TOTAL = min 0xFFFF (s.fget (Reg.fcruCnt d.src) Reg.fcruCnt_TOTAL + 1)
    (bits e 0 3 = 0 → ∃ t, exec .fcruEvaluation s = .next t ∧ logged t 0 ∧ t = { s with regs := t.regs, detected := [] }) ∧
    (bits e 0 3 = 3 → d.src < 0x100 → bits e 24 16 = 0 → s.fget Reg.recStatus Reg.recStatus_STATE = 0 →
      ∃ t, exec .fcruEvaluation s = .next t ∧ logged t 3 ∧ t.fget (Reg.triStatus (d.src / 16)) Reg.triStatus_STOPPED = 1 ∧
        t.opstate = if s.opstate = 3 then 4 else s.opstate)) ∧
  (∀ (s : State) (src : BitVec 9), exec (.escWindowExpire src) s = .next (if s.fget (Reg.fcruCnt src.toNat) Reg.fcruCnt_WINDOW_OPEN = 1 then
    (s.fset (Reg.fcruCnt src.toNat) Reg.fcruCnt_IN_WINDOW 0).fset (Reg.fcruCnt src.toNat) Reg.fcruCnt_WINDOW_OPEN 0 else s)) ∧
  (∀ s : State, ∃ t, exec .fcruWdogExpire s = .next t ∧ t = { s with regs := t.regs, twin := t.twin } ∧
    t.fget Reg.fcruStatus Reg.fcruStatus_SAFE_ASSERTED = 0xF ∧ t.fget Reg.fcruStatus Reg.fcruStatus_WDOG_EXPIRED = 1 ∧
    bit (t.rd Reg.hbxRet) 5 = true ∧ t.twin = { s.twin with alive := false, silent := true })

/-- R70 to R76, R78 to R83: a resynchronisation goes through its phases (the copy takes the source's arrays, then at the pause all of its state, then
joins the compared set), or is abandoned where the signatures differ. A SPLIT barrier that has waited TRI_MSYNC_TMO µs ends with status 3; a mode
transition that is done enters the mode. A debugger that may attach puts the triad into DEBUG_SPLIT, released or not. The watchdog raises WATCHDOG
once its count has reached PERIOD, and starts again. -/
def Obligations.TriadPhasesAndModes : Prop :=
  ∀ (s : State) (t : Fin 16),
    let st := s.rd (Reg.triStatus t.val)
    let phase := bits st 13 3
    let src := copyIx t.val (s.leader t.val)
    (∀ c, c < 3 → c ≠ s.leader t.val → (s.triad t.val).rebuild = [c] → (s.triad t.val).trans = none → (s.copy src).ue = [] →
      (s.copy src).ce = [] → t.val ∉ s.latent.sig →
      let k := copyIx t.val c
      (phase = 1 → Memory.wf s.mem → ∃ u, exec (.resyncCopyDone t) s = .next u ∧ u.fget (Reg.triStatus t.val) Reg.triStatus_RESYNC_PHASE = 2 ∧
        u.copy k = { s.copy k with
          tlb := (s.copy src).tlb, tlbPtr := (s.copy src).tlbPtr, icache := (s.copy src).icache, dcache := (s.copy src).dcache,
          lru := (s.copy src).lru, btb := (s.copy src).btb, ue := [], ce := [] } ∧
        (∀ o < 0x10000, u.byte (tcmAddr k o) = s.byte (tcmAddr src o)) ∧ (∀ j, j ≠ k → u.copy j = s.copy j)) ∧
      (phase = 2 → s.inAccess t.val (fun _ => true) = false →
        (∀ c < 3, let x := (s.copy (copyIx t.val c)).status; x ≠ .cop ∧ ∀ cls, x ≠ .agree cls) →
        (∃ u, exec (.resyncPause t true) s = .next u ∧ u.fget (Reg.triStatus t.val) Reg.triStatus_RESYNC_PHASE = 3 ∧ u.copy k = s.copy src ∧
          (∀ j, j ≠ k → u.copy j = s.copy j)) ∧
        (s.resyncBusy t.val = true → ∃ u, exec (.resyncPause t false) s = .next u ∧ u.resyncBusy t.val = false ∧
          (u.triad t.val).resyncBad = true ∧ u.detected.map (·.src) = s.detected.map (·.src) ++ [0x10 * t.val + 3])) ∧
      (phase = 3 → ∃ u, exec (.resyncRejoin t) s = .next u ∧ u.live t.val c = true ∧ u.resyncBusy t.val = false ∧
        u.fget (Reg.triStatus t.val) Reg.triStatus_RESYNC_PHASE = 0 ∧
        u.fget (Reg.triResyncStat t.val) Reg.triResyncStat_DONE = min 0xFFFF (s.fget (Reg.triResyncStat t.val) Reg.triResyncStat_DONE + 1))) ∧
    (s.mode t.val = 2 → bit st 11 = true → (s.triad t.val).trans = none →
      1000 * s.fget (Reg.triMsyncTmo t.val) Reg.triMsyncTmo_TMO ≤ s.ticks - (s.triad t.val).msyncFrom → ∃ u, exec (.msyncTimeout t) s = .next u ∧
      bit (u.rd (Reg.triStatus t.val)) 11 = false ∧ u.mode t.val = 2 ∧ u.fget (Reg.triModeReq t.val) Reg.triModeReq_ARM = 0 ∧
      u.detected.map (·.src) = s.detected.map (·.src) ++ [0x10 * t.val + 9] ∧ ∀ c < 3,
        let x := s.copy (copyIx t.val c)
        (∀ d half, x.status = .msync d half → u.copy (copyIx t.val c) =
          { (x.setReg d 3).flushPend with
            pc := x.pc + (if half then 2 else 4), slot := false, instret := x.instret + 1, cycle := x.cycle + 4, status := .run }) ∧
        ((∀ d half, x.status ≠ .msync d half) → u.copy (copyIx t.val c) = x)) ∧
    (∀ tgt sp, (s.triad t.val).trans = some (tgt, sp) → tgt < 3 → (s.copy src).ue = [] → (s.copy src).ce = [] → t.val ∉ s.latent.sig →
      ∃ u, exec (.modeTransitionDone t) s = .next u ∧
      u.mode t.val = tgt ∧ u.fget (Reg.triStatus t.val) Reg.triStatus_LIVE = (if tgt = 1 then 3 else 7) ∧
      u.fget (Reg.triStatus t.val) Reg.triStatus_ISOLATED = 0 ∧ u.resyncBusy t.val = false ∧ (u.triad t.val).trans = none) ∧
    (∀ w : Who, w.t = t →
      (s.attachOk = false → exec (.debugAttach w) s = .next s) ∧
      (s.attachOk = true → s.gateCause dbgReq = none → s.live t.val w.c.num = true ∨ (s.triad t.val).released = false →
        ∃ u, exec (.debugAttach w) s = .next u ∧ u.mode t.val = 3 ∧ u.fget (Reg.triStatus t.val) Reg.triStatus_DBG_BROKEN = 1 ∧
          u.resyncBusy t.val = false ∧ (u.copy (copyIx t.val w.c.num)).status = .dbg ∧
          u.detected.map (·.src) = s.detected.map (·.src) ++ [0x10 * t.val + 4])) ∧
    (let counts : Prop := s.fget (Reg.triWdogCtl t.val) Reg.triWdogCtl_ENABLE = 1 ∧ (s.triad t.val).released = true ∧
        (∀ c < 3, (s.copy (copyIx t.val c)).status ≠ .dbg) ∧
        1000 * s.fget (Reg.triWdogCtl t.val) Reg.triWdogCtl_PERIOD ≤ s.ticks - (s.triad t.val).wdogFrom
     (counts → exec (.watchdog t) s = .next ((s.raise (0x10 * t.val + 8)).modTriad t.val fun x => { x with wdogFrom := s.ticks })) ∧
     (¬ counts → exec (.watchdog t) s = .next s))

/-! ### The device time (12) -/

/-- R342, R343, R350, R351: TIME_STEP adds its signed value, except under the servo, counts a step and sets the comparator latches of the copies that a
forward step passes; TIME_RATE takes its value except under the servo; a line whose WIDTH_NS is not below PERIOD_NS, or whose PERIOD_NS is below 20,
goes OFF; a read of TIME_NOW returns the device nanosecond count and takes a snapshot of the other two registers; a read of TIME_INn_CAP returns its
register and pops the oldest capture. -/
def Obligations.TimeRegisterRows : Prop :=
  ∀ (s : State) (rq : Rq) (v : Word),
    let servo := s.fget Reg.timeCtl Reg.timeCtl_SERVO_EN
    (s.rows [(.timeRateWrite rq v, if servo = 1 then s else s.wr Reg.timeRate (v &&& 0xFFFFFFFF))]) ∧
    (s.grants rq Reg.timeStep →
      (servo = 1 → exec (.timeStep rq v) s = .next s) ∧
      (servo = 0 → s.time.total + 2 ^ 63 < 2 ^ 76 → ∃ t, exec (.timeStep rq v) s = .next t ∧
        t = { s with time := t.time, regs := t.regs, timeB := t.timeB, pnc := t.pnc, copies := t.copies } ∧
        (t.time.total : Int) = max 0 ((s.time.total : Int) + v.toInt) ∧ t.time.frac = s.time.frac ∧
        t.fget Reg.timeStatus Reg.timeStatus_STEPS =
          min (2 ^ Reg.timeStatus_STEPS.len - 1) (s.fget Reg.timeStatus Reg.timeStatus_STEPS + 1) ∧
        (∀ r, r ≠ Reg.timeStatus → t.rd r = s.rd r) ∧
        ∀ k < 48, ∀ n < 256, (t.copy k).latch n = ((s.copy k).latch n ||
          (decide (n = 0) && decide (s.time.total < (s.copy k).icTcmp.toNat) && decide ((s.copy k).icTcmp.toNat ≤ t.time.total))))) ∧
    (∀ n : Fin 4, s.grants rq (Reg.timeOutCfg n) → ∃ t, exec (.timeOutCfgWrite rq n v) s = .next t ∧
      t = { s with regs := t.regs, timeB := t.timeB } ∧ (∀ r, r ≠ Reg.timeOutCfg n → t.rd r = s.rd r) ∧
      (let m := (s.rd (Reg.timeOutCfg n) &&& 0xFFFFFFE0) ||| (v &&& 0xFFFFFFFF0000001F)
       let per := s.fget (Reg.timeOutPeriod n) Reg.timeOutPeriod_PERIOD_NS
       let off : Prop := per ≤ bits v 32 32 ∨ per < 20
       (off → t.rd (Reg.timeOutCfg n) = m &&& ~~~3 ∧ (t.line n).level = false) ∧
       (¬ off → t.rd (Reg.timeOutCfg n) = m ∧ (t.line n).level = ((s.line n).level && decide (bits v 0 2 ≠ 0)))) ∧
      (t.line n).seen = s.time.quarters) ∧
    (s.grantsRead rq Reg.timeNow → ∃ t, exec (.timeNowRead rq) s = .next t ∧ t = { s with regs := t.regs, mesh := t.mesh } ∧
      SMap.get { status := .ok, data := 0 } t.mesh.last rq.init.val = { status := .ok, data := s.time.total % 2 ^ 64 } ∧
      t.rd Reg.timeNowSec = BitVec.ofNat 64 s.time.sec ∧
      (s.time.ns < 2 ^ 32 → t.fget Reg.timeNowPtp Reg.timeNowPtp_NS = s.time.ns ∧
        t.fget Reg.timeNowPtp Reg.timeNowPtp_FRAC = s.time.quarters % 4) ∧
      ∀ r, r ≠ Reg.timeNowSec → r ≠ Reg.timeNowPtp → t.rd r = s.rd r) ∧
    (∀ n : Fin 2, s.grantsRead rq (Reg.timeInCap n) → ∃ t, exec (.timeInCapRead rq n) s = .next t ∧
      t = { s with regs := t.regs, timeB := t.timeB, mesh := t.mesh } ∧
      SMap.get { status := .ok, data := 0 } t.mesh.last rq.init.val = { status := .ok, data := (s.rd (Reg.timeInCap n)).toNat } ∧
      t.caps n = (s.caps n).tail ∧ t.fget (Reg.timeInCapf n) Reg.timeInCapf_LEVEL = (s.caps n).tail.length % 8)

/-- R345, R346: with the servo on a reference, an event whose offset exceeds STEP_US steps the device time by it, another leaves the time and sets the
rate (its value is free, log entry 24); eight events in a row within 100 ns lock it; a loss freezes a locked servo in HOLDOVER and returns an
acquiring one to FREE_RUN, raising TIME_IN_LOSS for a TIME_IN line; the limit raises HOLDOVER_LIMIT once. R344, R406: REFCLK within 100 ppm of the
crystal is good, and raises TCXO_FAULT where it is not. R350: a periodic or one-shot line whose latest edge it has not met takes that edge's level:
high from START plus a number of periods for WIDTH_NS, low on a device that PRIMARY_ONLY holds, and a pad that does not follow raises TIME_OUT_FAULT;
a line in OFF meets none. R351: the selected edge of an enabled input is captured with its time, or counted in LOST where four captures wait. R348,
R349: a domain for which the device is grandmaster, being PRIMARY or without a twin, sends Sync, Announce, and in two-step operation Follow_Up on a
MAC that is up and whose gate is open for the whole frame, unless a HANDOVER has stopped egress (R19, R312); another sends nothing. Peer delay is
measured on a MAC that is up. A received gPTP frame leaves the queue, and one on the port of a slave domain gives that domain's offset. -/
def Obligations.TimeServoLinesAndFrames : Prop :=
  (∀ s : State,
     let src := s.fget Reg.timeCtl Reg.timeCtl_SOURCE
     let st := s.fget Reg.timeStatus Reg.timeStatus_STATE
     (∀ ofs : Word,
       let on : Prop := s.fget Reg.timeCtl Reg.timeCtl_SERVO_EN = 1 ∧ src ≠ 0 ∧ src ≠ 7
       (¬ on → exec (.servoReferenceEvent ofs) s = .next s) ∧
       (on → ∃ t, exec (.servoReferenceEvent ofs) s = .next t ∧ t.free = s.free + 1 ∧ t.mem = s.mem ∧ t.detected = s.detected ∧
         (s.fget Reg.timeServo Reg.timeServo_STEP_US * 1000 < ofs.toInt.natAbs → s.time.total + 2 ^ 63 < 2 ^ 76 →
           (t.time.total : Int) = max 0 ((s.time.total : Int) + ofs.toInt)) ∧
         (ofs.toInt.natAbs ≤ s.fget Reg.timeServo Reg.timeServo_STEP_US * 1000 → t.time = s.time ∧ t.copies = s.copies) ∧
         t.timeB.good = (if ofs.toInt.natAbs ≤ 100 then s.timeB.good + 1 else 0) ∧
         t.fget Reg.timeStatus Reg.timeStatus_STATE = (if 8 ≤ t.timeB.good then 2 else if st = 2 ∨ st = 4 then st else 1) ∧
         t.fget Reg.timeStatus Reg.timeStatus_SOURCE = src ∧ t.timeB.hold = none)) ∧
     ((src = 0 ∨ (st ≠ 1 ∧ st ≠ 2) → exec .timeSourceLoss s = .next s) ∧
       (src ≠ 0 → st = 1 ∨ st = 2 → ∃ t, exec .timeSourceLoss s = .next t ∧ t.time = s.time ∧
         t.fget Reg.timeStatus Reg.timeStatus_STATE = (if st = 1 then 0 else 3) ∧ t.timeB.good = 0 ∧
         (st = 2 → t.timeB.hold = some (s.now.toNat, s.fget Reg.timeStatus Reg.timeStatus_ERR_EST_NS)) ∧
         t.detected.map (·.src) = s.detected.map (·.src) ++ (if src = 1 ∨ src = 2 then [0x1D2] else []))) ∧
     (let past : Prop := st = 3 ∧ s.fget Reg.timeHold Reg.timeHold_LIMIT_NS < s.errEst ∧ s.timeB.limit = false
      (¬ past → exec .holdoverLimit s = .next s) ∧
      (past → exec .holdoverLimit s = .next ((s.raise 0x1D3).modTimeB fun b => { b with limit := true }))) ∧
     ∀ dev : BitVec 16, ∃ t, exec (.tcxoCheck dev) s = .next t ∧ t = { s with regs := t.regs, detected := t.detected } ∧
       t.fget Reg.clkRef Reg.clkRef_DEV = dev.toNat ∧ t.fget Reg.clkStatus Reg.clkStatus_REF_OK = (if dev.toInt.natAbs ≤ 1000 then 1 else 0) ∧
       t.detected.map (·.src) = s.detected.map (·.src) ++ (if dev.toInt.natAbs ≤ 1000 then [] else [0x1D4])) ∧
  ((∀ (s : State) (n : Fin 4) (stuck : Bool),
     let cfg := Reg.timeOutCfg n
     let start := s.fget (Reg.timeOutStart n) Reg.timeOutStart_START
     let per := s.fget (Reg.timeOutPeriod n) Reg.timeOutPeriod_PERIOD_NS
     let width := s.fget cfg Reg.timeOutCfg_WIDTH_NS
     let frac := s.fget cfg Reg.timeOutCfg_FRAC
     let mode := s.fget cfg Reg.timeOutCfg_MODE
     let q := s.time.quarters
     (mode = 0 → exec (.timeOutEdge n stuck) s = .next s) ∧
     (mode = 2 ∨ mode = 3 → (mode = 2 → width < per) → start * 4 + frac ≤ q →
       let since := (q - frac) / 4 - start
       let phase := if mode = 2 then since % per else since
       let rise := start + since - phase
       let up : Bool := decide (phase < width)
       let edge := if phase < width then rise * 4 + frac else (rise + width) * 4 + frac
       (edge ≤ (s.line n).seen → exec (.timeOutEdge n stuck) s = .next s) ∧
       ((s.line n).seen < edge →
         let t := s.setLine n { level := up && !(decide (s.fget cfg Reg.timeOutCfg_PRIMARY_ONLY = 1) && decide (s.role ≠ 1)), seen := q }
         exec (.timeOutEdge n stuck) s = .next (if stuck then t.raise 0x1D5 else t)))) ∧
   ∀ (s : State) (n : Fin 2) (falling : Bool) (age : Nat),
     let takes : Prop := s.fget (Reg.timeInCfg n) Reg.timeInCfg_EN = 1 ∧ s.fget (Reg.timeInCfg n) Reg.timeInCfg_EDGE = if falling then 1 else 0
     (¬ takes → exec (.timeInEdge n falling age) s = .next s) ∧
     (takes → 4 ≤ (s.caps n).length → exec (.timeInEdge n falling age) s = .next (s.fsat (Reg.timeInCapf n) Reg.timeInCapf_LOST 1)) ∧
     (takes → (s.caps n).length < 4 → ∃ t, exec (.timeInEdge n falling age) s = .next t ∧ t = { s with regs := t.regs, timeB := t.timeB } ∧
       t.caps n = s.caps n ++ [s.stampAt age] ∧ t.fget (Reg.timeInCapf n) Reg.timeInCapf_LEVEL = (s.caps n).length + 1 ∧
       (s.caps n = [] → t.rd (Reg.timeInCap n) = BitVec.ofNat 64 ((s.stampAt age).sec * 1000000000 + (s.stampAt age).ns)))) ∧
  (∀ (s : State) (k : Fin 4) (p : Fin 2) (m : Fin 4),
     let c := Reg.timeDomCfg k
     let q := 8 * m.val + s.fget Reg.timeCtl Reg.timeCtl_GPTP_TC
     let frame (kind dom : Nat) : List Byte := Config.gptpFrame kind dom s.now.toNat
     let sends (kind dom : Nat) : Prop := s.macUp p m = true ∧ s.gateOpen p q = true ∧ s.fitsGate p q (frame kind dom).length = true ∧
       s.receives = true ∧ s.eth.stopped = false
     let sent (kind dom : Nat) : State := s.sendFrame p q (frame kind dom) false
     (∀ kind : Fin 3,
       let master : Prop := (k.val = 0 ∨ s.fget c Reg.timeDomCfg_ROLE = 1) ∧ (s.role = 1 ∨ s.fget Reg.twinCfg Reg.twinCfg_PRESENT = 0) ∧
         (kind.val = 1 → s.fget c Reg.timeDomCfg_ONE_STEP = 0)
       let dom := s.fget c Reg.timeDomCfg_DOMAIN
       (¬ (master ∧ sends kind.val dom) → exec (.gptpSyncTransmit k p m kind) s = .next s) ∧
       (master ∧ sends kind.val dom → exec (.gptpSyncTransmit k p m kind) s = .next (sent kind.val dom))) ∧
     (∀ delay : BitVec 32,
       (s.macUp p m = false → exec (.pdelayExchange p m delay) s = .next s) ∧
       (s.macUp p m = true → ∃ t, exec (.pdelayExchange p m delay) s = .next t ∧ t = { s with regs := t.regs, eth := t.eth } ∧
         t.rd (Reg.timePdly (4 * p + m)) = BitVec.ofNat 64 (delay.toNat + 2 ^ 32) ∧
         (sends 3 0 → t.eth = (sent 3 0).eth) ∧ (¬ sends 3 0 → t.eth = s.eth))) ∧
     ∀ ofs : Word, (s.eth.gptp = [] → exec (.gptpFrameReceive k ofs) s = .next s) ∧
       ∀ g r, s.eth.gptp = g :: r → exec (.gptpFrameReceive k ofs) s = .next
         (let t := { s with eth := { s.eth with gptp := r } }
          if k.val ≠ 0 ∧ s.fget c Reg.timeDomCfg_ROLE = 2 ∧ s.fget c Reg.timeDomCfg_SLAVE_MAC = g.mac then t.wr (Reg.timeDomOfs k) ofs else t))

/-! ### Fuller instructions (06) -/

/-- R187 to R190, R197: VI, VF, VFMA, VFNMA, VDOT, VMERGE, VSPLAT and VSLIDEDN write elements 0 to VL − 1 of their group: each element is the function of
the operands' elements that the tables give, the masked forms leave an element whose bit of m0 is 0, the floating-point flags accrue, and data free of
poison stays so; with VL = 0 the instruction completes at once. Integer arithmetic wraps; MULH, MIN, MAX, SRA, ABSD and the saturating forms follow
the signedness of TYPE. R189, R190, R197 to R199: VCMP, VCMPU and VMASK write mask bits 0 to VL − 1; VMOV moves, slides, counts or converts elements;
VRED leaves in element 0 the reduction of the elements, masked-off ones counted as the identity, and nothing where VL is 0, with which each completes
at once. An element that a slide by one brings in from outside, and an integer reduction or count under a floating-point TYPE, is free (log entry 16). -/
def Obligations.VectorElementResults : Prop :=
  ((∀ ty x y : Nat, ty < 8 → let w := elemBits ty
     let M := 2 ^ w
     x < M → y < M →
     viFn ty 0x0 x y = (x + y) % M ∧ viFn ty 0x1 x y = (x + (M - y)) % M ∧ viFn ty 0x2 x y = (y + (M - x)) % M ∧ viFn ty 0x3 x y = x * y % M ∧
     viFn ty 0x7 x y = x &&& y ∧ viFn ty 0x8 x y = x ||| y ∧ viFn ty 0x9 x y = x ^^^ y ∧
     viFn ty 0xA x y = x * 2 ^ (y % w) % M ∧ viFn ty 0xB x y = x / 2 ^ (y % w) ∧
     (viFn ty 0xC x y : Int) = (signed w x / (2 ^ (y % w) : Nat)) % M ∧
     (4 ≤ ty → viFn ty 0x4 x y = x * y / M ∧ viFn ty 0x5 x y = min x y ∧ viFn ty 0x6 x y = max x y ∧ viFn ty 0xD x y = min (M - 1) (x + y) ∧
       viFn ty 0xE x y = x - y ∧ viFn ty 0xF x y = max x y - min x y) ∧
     (ty < 4 → let a := signed w x
       let b := signed w y
       let h : Int := 2 ^ (w - 1)
       (viFn ty 0x4 x y : Int) = a * b / M % M ∧ viFn ty 0x5 x y = (if a ≤ b then x else y) ∧ viFn ty 0x6 x y = (if a ≤ b then y else x) ∧
       signed w (viFn ty 0xD x y) = max (-h) (min (h - 1) (a + b)) ∧ signed w (viFn ty 0xE x y) = max (-h) (min (h - 1) (a - b)) ∧
       (viFn ty 0xF x y : Int) = (a - b).natAbs % M)) ∧
   ∀ (s : State) (c : Fin 8) (o : FulOp) (r : List FulOp), s.starts c o r → s.faultless c →
     let x := s.ctx c
     let ty := o.vtype % 16
     let w := elemBits ty
     let d := fwD o.word
     let fn := fwB o.word
     let rm := vtRM o.vtype
     let vd (i : Nat) := x.elem d w i
     let va (i : Nat) := x.elem (fwA o.word) w i
     let vb (i : Nat) := x.elem fn w i
     let all (f : Nat → Nat × Nat) (i : Nat) : Option (Nat × Nat) := some (f i)
     let under (f : Nat → Nat × Nat) (i : Nat) : Option (Nat × Nat) := if x.maskBit 0 i then some (f i) else none
     let rows : List (Instr × Nat × Nat × (Nat → Option (Nat × Nat))) := [
       (.vi c, 0, 0x0, all fun i => (viFn ty fn (vd i) (va i), 0)), (.viM c, 0, 0x1, under fun i => (viFn ty fn (vd i) (va i), 0)),
       (.vf c, 0, 0x2, all fun i => vfFn ty rm fn (vd i) (va i)), (.vfM c, 0, 0x3, under fun i => vfFn ty rm fn (vd i) (va i)),
       (.vfma c, 0, 0x4, all fun i => mulAdd ty rm false (vd i) (va i) (vb i)),
       (.vfmaM c, 0, 0x5, under fun i => mulAdd ty rm false (vd i) (va i) (vb i)),
       (.vfnma c, 0, 0x6, all fun i => mulAdd ty rm true (vd i) (va i) (vb i)),
       (.vmerge c, 0, 0xC, all fun i => (if x.maskBit 0 i then va i else vb i, 0)),
       (.vsplat c, 1, 0x4, all fun _ => (o.a.toNat, 0)),
       (.vslidedn c, 1, 0x5, all fun i => (if i + o.a.toNat < o.vl then vd (i + o.a.toNat) else 0, 0))]
     let done (i : Instr) (res : Nat → Option (Nat × Nat)) : Prop := ∃ t, exec i s = .next t ∧ Acted s t c o r ∧
       t.free = s.free ∧ (t.ctx c).holds x d w o.vl (fun i => (res i).map (·.1)) ∧
       t.cxFlags c = (s.cxFlags c ||| (List.range o.vl).foldl (fun fl i => fl ||| ((res i).map (·.2)).getD 0) 0) % 32 ∧
       (x.vPoison = [] → x.mPoison = [] → (t.ctx c).vPoison = [])
     (∀ q ∈ rows, fwSC o.word = q.2.1 → fwMAJ o.word = q.2.2.1 → done q.1 q.2.2.2) ∧
     (fwSC o.word = 0 → fwMAJ o.word = 0x7 → ty = 2 ∨ ty = 6 → done (.vdot c) fun i =>
       let byte (v k : Nat) : Int := if ty = 2 then signed 8 (v / 2 ^ (8 * k)) else (v / 2 ^ (8 * k) % 256 : Nat)
       let sum : Int := vd i + byte (va i) 0 * byte (vb i) 0 + byte (va i) 1 * byte (vb i) 1 + byte (va i) 2 * byte (vb i) 2 + byte (va i) 3 * byte (vb i) 3
       some ((sum % (2 ^ 32 : Nat)).toNat, 0))) ∧
  (∀ (s : State) (c : Fin 8) (o : FulOp) (r : List FulOp), s.starts c o r → s.faultless c →
     let x := s.ctx c
     let ty := o.vtype % 16
     let w := elemBits ty
     let d := fwD o.word
     let fn := fwB o.word
     let va (i : Nat) := x.elem (fwA o.word) w i
     let vb (i : Nat) := x.elem fn w i
     let begins (i : Instr) (f : State → Prop) : Prop := ∃ t, exec i s = .next t ∧ Acted s t c o r ∧ f t
     let cmp (i : Nat) := (elemCmp ty (va i) (vb i)).1
     (fwSC o.word = 0 → fwMAJ o.word = 0x8 → begins (.vcmp c) fun t => (t.ctx c).maskHolds x (d % 8) o.vl fun i => match d / 8 with
       | 0 => decide (cmp i = .eq)
       | 1 => decide (cmp i = .lt) || decide (cmp i = .gt)
       | 2 => decide (cmp i = .lt)
       | _ => decide (cmp i = .lt) || decide (cmp i = .eq)) ∧
     (fwSC o.word = 0 → fwMAJ o.word = 0x9 → begins (.vcmpu c) fun t => (t.ctx c).maskHolds x (d % 8) o.vl fun i =>
       decide (8 ≤ ty) && decide (cmp i = .un)) ∧
     (fwSC o.word = 0 → fwMAJ o.word = 0xB → 4 * (d / 8) + fwA o.word / 8 < 8 → begins (.vmask c) fun t => (t.ctx c).maskHolds x (d % 8) o.vl fun i =>
       let a := x.maskBit (fwA o.word % 8) i
       let b := x.maskBit (fn % 8) i
       [a && b, a || b, xor a b, a && !b, !a, a, true, false].getD (4 * (d / 8) + fwA o.word / 8) false) ∧
     (fwSC o.word = 0 → fwMAJ o.word = 0xD → begins (.vmov c) fun t =>
       let y := t.ctx c
       (∀ i ≥ o.vl, y.elem d w i = x.elem d w i) ∧ (∀ k < 512 * d, SMap.get 0 y.v k = SMap.get 0 x.v k) ∧ y.m = x.m ∧ t.free = s.free + o.vl ∧
       ∀ i < o.vl,
         (fn = 0 → y.elem d w i = va i) ∧ (fn = 1 → i + 1 < o.vl → y.elem d w i = va (i + 1)) ∧ (fn = 2 → 0 < i → y.elem d w i = va (i - 1)) ∧
         (fn = 3 → ty < 8 → y.elem d w i = i % 2 ^ w) ∧
         (16 ≤ fn → y.elem d w i = (convertElem (fn % 16) ty (vtRM o.vtype) (x.elem (fwA o.word) (elemBits fn) i)).1 % 2 ^ w)) ∧
     (fwSC o.word = 0 → fwMAJ o.word = 0xA → begins (.vred c) fun t =>
       let y := t.ctx c
       let f := fn % 16
       let rm := vtRM o.vtype
       let use (k : Nat) : Nat := if fn < 16 ∨ x.maskBit 0 k = true then va k else redIdentity ty rm f
       (∀ i ≥ 1, y.elem d w i = x.elem d w i) ∧ (∀ k < 512 * d, SMap.get 0 y.v k = SMap.get 0 x.v k) ∧ y.m = x.m ∧ t.free = s.free + 1 ∧
       (o.vl = 0 → y.elem d w 0 = x.elem d w 0) ∧
       (0 < o.vl → f < 6 → ty < 8 ∨ 3 ≤ f →
         y.elem d w 0 = (List.range o.vl).foldl (fun acc k => (redOp ty rm f acc (use k)).1) (redIdentity ty rm f) % 2 ^ w) ∧
       (0 < o.vl → 6 ≤ f → y.elem d w 0 =
         ((treeReduce (redOp ty rm f) (clog2 o.vl) ((List.range o.vl).map fun k => some (use k))).1.getD 0) % 2 ^ w)))

/-! ### Fuller memory and value instructions (05, 06) -/

/-- R188, R189, R200, R205, R210: VLD and VST, and their forms under m0, with a tag free, access their elements in order, each at base + i × stride, by
the context's own reads and writes, up to the last that their window lets them issue, and leave an element whose bit of m0 is 0; an element of VLD
lands in its place of the group; with VL = 0 they complete at once. `σ i` is the machine before element i. At a failing access the elements before it
are done, nothing after it is, and the context faults with the cause, the element and its address. A base or stride that is no multiple of the element
size faults ALIGN at element 0, and an element that carries poison is not stored (R242). -/
def Obligations.VectorMemoryResults : Prop :=
  ∀ (s : State) (c : Fin 8) (o : FulOp) (r : List FulOp) (masked : Bool) (σ : Nat → State), s.starts c o r → s.faultless c → fwSC o.word = 1 → o.next = 0 →
    (o.vl = 0 ∨ s.tagFree (16 + c.val) = true) →
    σ 0 = s.modCtx c (fun x => { x with queue := r }) →
    let w := elemBits o.vtype
    let d := fwD o.word
    let n := w / 8
    let m := s.issueTo c o
    let va (i : Nat) := (o.a + BitVec.ofNat 64 i * o.b).toNat % 2 ^ 48
    let off (i : Nat) : Bool := masked && !((σ i).ctx c).maskBit 0 i
    let aligned : Prop := o.a.toNat % n = 0 ∧ o.b.toNat % n = 0
    let load : Instr := if masked then .vldM c else .vld c
    let store : Instr := if masked then .vstM c else .vst c
    let faults (i : Instr) (u : State) (f e : Nat) (wr : Bool) : Prop := s.cxState c ≠ cxFAULTED → ∃ t, exec i s = .next t ∧ (f ≠ 0x0A → t.mem = u.mem) ∧
      (t.ctx c).v = (u.ctx c).v ∧ (t.ctx c).m = (u.ctx c).m ∧ (t.ctx c).run = (u.ctx c).run ∧ t.cxState c = cxFAULTED ∧
      t.rd (Reg.fulCCtxFault c) = BitVec.ofNat 64 (o.seq % 2 ^ 32 + 2 ^ 32 * (f % 64) + 2 ^ 38 + 2 ^ 39 * b2n wr) ∧
      t.rd (Reg.fulCCtxFaultElem c) = BitVec.ofNat 64 (e % 2 ^ 32) ∧ t.rd (Reg.fulCCtxFaultVa c) = BitVec.ofNat 64 (va e)
    let loads (i : Nat) : Prop := if off i then σ (i + 1) = σ i else ∃ v l u, (σ i).elemRead c (va i) n (fun _ => true) = (.ok (v, l), u) ∧
      (σ i).latent.checks = [] ∧ u.latent.checks = [] ∧
      σ (i + 1) = (u.modCtx c fun x => x.putElem d w i v (masked && x.maskBad 0 i)).poisonSince c (u.ctx c)
    let stores (i : Nat) : Prop := if off i then σ (i + 1) = σ i else
      (σ i).latent.checks = [] ∧ (((σ i).ctx c).elemBad d w i || (masked && ((σ i).ctx c).maskBad 0 i)) = false ∧
        ∃ l, (σ i).elemWrite c (va i) n (((σ i).ctx c).elem d w i) (fun _ => true) = (.ok l, σ (i + 1))
    (fwMAJ o.word = (if masked then 1 else 0) →
      (o.vl ≠ 0 → ¬ aligned → faults load (σ 0) 0x05 0 false) ∧
      (o.vl = 0 → ∃ t, exec load s = .next t ∧ Acted s t c o r ∧ (t.ctx c).v = (s.ctx c).v) ∧
      (o.vl ≠ 0 → aligned → (∀ i < m, loads i) → ∃ t, exec load s = .next t ∧ t.mem = (σ m).mem ∧ (t.ctx c).v = ((σ m).ctx c).v ∧
        (t.ctx c).queue = ((σ m).ctx c).queue ∧ (t.ctx c).run = ((σ m).ctx c).run ++ [{ o with next := m }]) ∧
      (aligned → ∀ e < m, (∀ i < e, loads i) → off e = false → (σ e).latent.checks = [] → ∀ f u, (σ e).elemRead c (va e) n (fun _ => true) = (.error f, u) →
        u.cxState c ≠ cxFAULTED → faults load u f e false)) ∧
    (fwMAJ o.word = (if masked then 3 else 2) →
      (o.vl ≠ 0 → ¬ aligned → faults store (σ 0) 0x05 0 true) ∧
      (o.vl = 0 → ∃ t, exec store s = .next t ∧ Acted s t c o r ∧ (t.ctx c).v = (s.ctx c).v) ∧
      (o.vl ≠ 0 → aligned → (∀ i < m, stores i) → ∃ t o', exec store s = .next t ∧ t.mem = (σ m).mem ∧ (t.ctx c).v = ((σ m).ctx c).v ∧
        (t.ctx c).queue = ((σ m).ctx c).queue ∧ (t.ctx c).run = ((σ m).ctx c).run ++ [o'] ∧ { o' with written := o.written } = { o with next := m }) ∧
      (aligned → ∀ e < m, (∀ i < e, stores i) → off e = false → (σ e).latent.checks = [] → ((σ e).ctx c).elemBad d w e = false →
        (masked && ((σ e).ctx c).maskBad 0 e) = false → ∀ f u,
        (σ e).elemWrite c (va e) n (((σ e).ctx c).elem d w e) (fun _ => true) = (.error f, u) →
        u.cxState c ≠ cxFAULTED → faults store u f e true) ∧
      (aligned → ∀ e < m, (∀ i < e, stores i) → off e = false → (σ e).latent.checks = [] →
        (((σ e).ctx c).elemBad d w e || (masked && ((σ e).ctx c).maskBad 0 e)) = true → (σ e).cxState c ≠ cxFAULTED →
        faults store (σ e) 0x0B e true))

/-- R202, R203, R242: VSYNC, VMVS, VMPOP and VMFIRST complete at their start, are counted and retired, and return their value to the copy that issued
them: the status word, with the fault's cause where the context was FAULTED, which it then leaves; element 0, sign-extended for a signed integer TYPE;
the number of set mask bits below VL; the lowest set bit, all ones where there is none. R169: VINV.VA removes the entries that match an address under
an ASID or are global, VINV.ASID those of the ASID that are not global, VINV.ALL all, and WALKINV the walk cache. -/
def Obligations.VectorValuesAndInvalidations : Prop :=
  ∀ (s : State) (c : Fin 8) (o : FulOp) (r : List FulOp), s.starts c o r → s.faultless c →
    let x := s.ctx c
    let ty := o.vtype % 16
    let e0 := x.elem (fwA o.word) (elemBits ty) 0
    let ma := fwA o.word % 8
    let clean : Prop := x.vPoison = [] ∧ x.mPoison = []
    let returns (i : Instr) (v : Word) : Prop := ∃ t, exec i s = .next t ∧ t = { s with ctxs := t.ctxs, regs := t.regs, copies := t.copies, ful := t.ful } ∧
      (t.ctx c).queue = r ∧ (t.ctx c).run = x.run ∧ (t.ctx c).ret = x.ret ++ [(o.tag, v)] ∧ (t.ctx c).v = x.v ∧ (t.ctx c).m = x.m ∧
      (∀ j, j ≠ c → t.ctx j = s.ctx j) ∧ t.fget (Reg.fulCSeq c) Reg.fulCSeq_RETIRED = o.seq % 2 ^ 32 ∧
      t.fget (Reg.fulCCnt c) Reg.fulCCnt_COMPLETED = (s.fget (Reg.fulCCnt c) Reg.fulCCnt_COMPLETED + 1) % 2 ^ Reg.fulCCnt_COMPLETED.len ∧
      (s.cxState c = cxFAULTED → i = .vsync c → t.cxState c ≠ cxFAULTED)
    let begins (i : Instr) (f : Xlt) : Prop := ∃ t, exec i s = .next t ∧ Began s t c o r ∧
      t = { s with ctxs := t.ctxs, regs := t.regs, xlt := t.xlt } ∧ t.xltOf c = f ∧ ∀ j, j ≠ c → t.xltOf j = s.xltOf j
    (fwSC o.word = 2 →
      (fwMAJ o.word = 0x0 → returns (.vsync c) (let f := decide (s.cxState c = cxFAULTED)
        BitVec.ofNat 64 (o.seq % 2 ^ 32 + 2 ^ 32 * b2n f + 2 ^ 34 * (if f then s.fget (Reg.fulCCtxFault c) Reg.fulCCtxFault_CAUSE else 0) +
          2 ^ 40 * s.cxFlags c))) ∧
      (fwMAJ o.word = 0x1 → clean → returns (.vmvs c) (if ty < 4 then BitVec.ofInt 64 (signed (elemBits ty) e0) else BitVec.ofNat 64 e0)) ∧
      (fwMAJ o.word = 0x2 → clean → returns (.vmpop c) (BitVec.ofNat 64 ((List.range o.vl).filter fun i => x.maskBit ma i).length)) ∧
      (fwMAJ o.word = 0x3 → clean →
        ((∀ i < o.vl, x.maskBit ma i = false) → returns (.vmfirst c) (BitVec.allOnes 64)) ∧
        (∀ i < o.vl, x.maskBit ma i = true → (∀ j < i, x.maskBit ma j = false) → returns (.vmfirst c) (BitVec.ofNat 64 i)))) ∧
    (fwSC o.word = 0 → fwMAJ o.word = 0xE → let f := s.xltOf c
      (fwB o.word = 0 → begins (.vinvAll c) { f with tlb := [] }) ∧ (fwB o.word = 1 → begins (.walkinv c) { f with wc := [] })) ∧
    (fwSC o.word = 1 → let f := s.xltOf c
      let hit (q : FulTlbEntry) : Bool :=
        q.valid && decide (q.vpn = o.a.toNat % 2 ^ 48 / 2 ^ sizeBits q.size) && (pteG q.pte || decide (q.asid = o.b.toNat % 0x10000))
      (fwMAJ o.word = 0x7 → begins (.vinvVa c) { f with tlb := f.tlb.filter fun e => !hit e.2 }) ∧
      (fwMAJ o.word = 0x8 → begins (.vinvAsid c) { f with tlb := f.tlb.filter fun e => pteG e.2.pte || decide (e.2.asid ≠ o.a.toNat % 0x10000) }))

/-! ### Fuller contexts, schedule and slices (06) -/

/-- R191 to R193, R196 to R198, R201, R205: the oldest packet of a context's crossing is accepted while an entry of its queue is free, and takes the next
sequence number. VSHAPE, VGETVL and VRDSEQ act and complete at acceptance and return their value; a packet with bad parity, or that the encoding or
the VTYPE forbids, faults; one accepted in STOPPED or FAULTED is cancelled, VSYNC in FAULTED apart; any other joins the queue with the VL and VTYPE of
the moment. R200, R208, R210, R233: a started instruction that completes, a stream only once it has ended and a VLD or VST once its last element has
been issued, is counted and retired, and a first-fault stream leaves its VL. A watchdog that counts and has reached its limit raises FUL_WATCHDOG,
advances the context's epoch, stops the started instructions and records WATCHDOG for the oldest; one that does not count does nothing. -/
def Obligations.ContextAcceptanceAndCompletion : Prop :=
  (∀ (s : State) (c : Fin 8) (p : FulPkt) (rest : List FulPkt), (s.ctx c).crossing = p :: rest → (s.ctx c).queue.length < 16 →
     let x := s.ctx c
     let st := s.cxState c
     let seq := (s.fget (Reg.fulCSeq c) Reg.fulCSeq_ACCEPTED + 1) % 2 ^ 32
     let vl := s.fget (Reg.fulCVtype c) Reg.fulCVtype_VL
     let vt := s.fget (Reg.fulCVtype c) Reg.fulCVtype_VTYPE
     let cause := acceptCause p.word vt p.a p.b
     let live : Prop := st ≠ cxSTOPPED ∧ st ≠ cxFAULTED
     let taken (t : State) : Prop := (t.ctx c).crossing = rest ∧ t.fget (Reg.fulCSeq c) Reg.fulCSeq_ACCEPTED = seq ∧
       (t.ctx c).v = x.v ∧ (t.ctx c).m = x.m ∧ (t.ctx c).run = x.run ∧ (∀ j, j ≠ c → t.ctx j = s.ctx j) ∧ t.mem = s.mem
     let returns (i : Instr) (v vt' : Word) : Prop := ∃ t, exec i s = .next t ∧ taken t ∧ (t.ctx c).queue = x.queue ∧
       (t.ctx c).ret = x.ret ++ [(p.tag, v)] ∧ t.rd (Reg.fulCVtype c) = vt' ∧ t.fget (Reg.fulCSeq c) Reg.fulCSeq_RETIRED = seq ∧
       t.fget (Reg.fulCCnt c) Reg.fulCCnt_COMPLETED = (s.fget (Reg.fulCCnt c) Reg.fulCCnt_COMPLETED + 1) % 2 ^ Reg.fulCCnt_COMPLETED.len
     let faults (ok : Bool) (f : Nat) : Prop := ∃ t, exec (.fulPacketAccept c ok) s = .next t ∧ taken t ∧ t.cxState c = cxFAULTED ∧
       t.rd (Reg.fulCCtxFault c) = BitVec.ofNat 64 (seq + 2 ^ 32 * f + 2 ^ 38) ∧ t.rd (Reg.fulCCtxFaultElem c) = 0 ∧ t.rd (Reg.fulCCtxFaultVa c) = 0 ∧
       bit (t.rd (Reg.fulCEvent c)) (Reg.fulCEvent_PEND.lo + 1) = true ∧ t.rd (Reg.fulCVtype c) = s.rd (Reg.fulCVtype c)
     let cancels (ok : Bool) (v : Word) : Prop := ∃ t, exec (.fulPacketAccept c ok) s = .next t ∧ taken t ∧ (t.ctx c).queue = x.queue ∧
       (t.ctx c).ret = x.ret ++ (if fwReturns p.word then [(p.tag, v)] else []) ∧ t.fget (Reg.fulCSeq c) Reg.fulCSeq_RETIRED = seq
     (live → cause = 0 →
       (fwIsVshape p.word = true → ∀ i ∈ [Instr.fulPacketAccept c true, .vshape c],
         returns i (BitVec.ofNat 64 (32768 * 2 ^ (bits p.b 4 2) / elemBits (bits p.b 0 4))) (BitVec.ofNat 64 (p.a.toNat + 2 ^ 16 * p.b.toNat))) ∧
       (fwIsVgetvl p.word = true → ∀ i ∈ [Instr.fulPacketAccept c true, .vgetvl c], returns i (BitVec.ofNat 64 (vl + 2 ^ 16 * vt)) (s.rd (Reg.fulCVtype c))) ∧
       (fwIsVrdseq p.word = true → ∀ i ∈ [Instr.fulPacketAccept c true, .vrdseq c], returns i (BitVec.ofNat 64 seq) (s.rd (Reg.fulCVtype c))) ∧
       (fwIsVshape p.word = false → fwIsVgetvl p.word = false → fwIsVrdseq p.word = false →
         ∃ t, exec (.fulPacketAccept c true) s = .next t ∧ taken t ∧ (t.ctx c).ret = x.ret ∧ (t.ctx c).queue = x.queue ++
           [{ seq := seq, word := p.word, a := p.a, b := p.b, tag := p.tag, vl := vl, vtype := vt
              deferred := false, written := [], next := 0, newVl := none, old := [], oldBad := [] }])) ∧
     (live → cause ≠ 0 → faults true cause) ∧ (live → faults false 0x06) ∧
     (st = cxSTOPPED → ∀ ok, cancels ok (if fwIsVsync p.word then BitVec.ofNat 64 (seq + 2 ^ 32 * 2 + 2 ^ 40 * s.cxFlags c) else 0)) ∧
     (st = cxFAULTED → ∀ ok, fwIsVsync p.word = false → cancels ok 0)) ∧
  (∀ (s : State) (c : Fin 8),
     let x := s.ctx c
     (∀ k : BitVec 5, (x.run[k.toNat]? = none → exec (.fulInstrComplete c k) s = .next s) ∧
       ∀ o, x.run[k.toNat]? = some o →
         let strm : Bool := decide (fwSC o.word = 1) && decide (fwMAJ o.word = 6)
         let going : Prop := (strm = true ∧ x.strm ≠ none) ∨ (fwSC o.word = 1 ∧ fwMAJ o.word < 4 ∧ o.next < o.vl)
         (going → exec (.fulInstrComplete c k) s = .next s) ∧
         (¬ going → ∃ t, exec (.fulInstrComplete c k) s = .next t ∧
           t = { s with ctxs := t.ctxs, regs := t.regs, copies := t.copies, ful := t.ful } ∧ (∀ j, j ≠ c → t.ctx j = s.ctx j) ∧
           (t.ctx c).run = x.run.eraseIdx k.toNat ∧ (t.ctx c).queue = x.queue ∧ (t.ctx c).v = x.v ∧ (t.ctx c).m = x.m ∧
           t.fget (Reg.fulCSeq c) Reg.fulCSeq_RETIRED = o.seq % 2 ^ 32 ∧
           t.fget (Reg.fulCCnt c) Reg.fulCCnt_COMPLETED = (s.fget (Reg.fulCCnt c) Reg.fulCCnt_COMPLETED + 1) % 2 ^ Reg.fulCCnt_COMPLETED.len ∧
           (o.newVl = none → t.rd (Reg.fulCVtype c) = s.rd (Reg.fulCVtype c)) ∧
           (∀ v, o.newVl = some v → t.fget (Reg.fulCVtype c) Reg.fulCVtype_VL = v % 2 ^ 16) ∧
           (s.cxState c = cxRUNNING → x.run.length = 1 → x.queue = [] → t.cxState c = cxIDLE ∧
             bit (t.rd (Reg.fulCEvent c)) Reg.fulCEvent_PEND.lo = true))) ∧
     (let on : Prop := s.cxSlices c ≠ 0 ∧ x.run ≠ [] ∧ 1000 * s.fget (Reg.fulCBind c) Reg.fulCBind_WDOG_US ≤ s.ticks - x.wdogFrom
      (¬ on → exec (.fulWatchdog c) s = .next s) ∧
      (on → ∃ t, exec (.fulWatchdog c) s = .next t ∧ (t.ctx c).run = [] ∧ (t.ctx c).strm = none ∧ (∀ j, j ≠ c → t.ctx j = s.ctx j) ∧
        t.epoch (16 + c) = (s.epoch (16 + c) + 1) % 256 ∧ (∃ l, t.detected.map (·.src) = s.detected.map (·.src) ++ (0x104 + 8 * c.val) :: l) ∧
        t.fget (Reg.fulCWdog c) Reg.fulCWdog_EXPIRIES =
          min (2 ^ Reg.fulCWdog_EXPIRIES.len - 1) (s.fget (Reg.fulCWdog c) Reg.fulCWdog_EXPIRIES + 1) ∧
        ∀ o r, x.run = o :: r → s.cxState c ≠ cxFAULTED → x.strm = none → t.cxState c = cxFAULTED ∧
          t.rd (Reg.fulCCtxFault c) = BitVec.ofNat 64 (o.seq % 2 ^ 32 + 2 ^ 32 * 0x0D + 2 ^ 38))))

/-- R209, R210, R212: at a boundary the window that the device time is in takes effect, the frames are counted, a context keeps of its slices only those
it is granted again, and the gap begins where a grant changes; a device time before frame 0 leaves the schedule, in which no slice is granted; at the
gap's end every context takes the powered slices of its grant, and work that a slice it has lost still holds is an overrun, which raises
FUL_WINDOW_OVERRUN and records OVERRUN. R185, R207, R213: a slice idle for THRESH µs gates while gating is enabled, a gated slice that a later window
grants wakes, and a slice that has woken is powered and its context takes it outside the gap. The register rows: FUL_PG_CTL takes its fields, a THRESH
of 0 as 1; the event enables are written and the pending bits cleared with one word; CLEAR leaves FAULTED for the state that the queue and the window
select; flags and CHECK_LAST.VALID clear where 1 is written. -/
def Obligations.ScheduleSlicesAndContextRows : Prop :=
  ((∀ s : State, (s.locate = none → s.schedOn = false → exec .fulWindowBoundary s = .next s) ∧
     (s.locate = none → s.schedOn = true → ∃ t, exec .fulWindowBoundary s = .next t ∧
       t = { s with ctxs := t.ctxs, regs := t.regs, copies := t.copies, ful := t.ful } ∧ t.schedOn = false ∧ ∀ c < 8, t.cxSlices c = 0) ∧
     ∀ k w, s.locate = some (k, w) →
       (s.schedOn = true → s.curWin = w → s.ful.frame = k → exec .fulWindowBoundary s = .next s) ∧
       (s.schedOn = false ∨ s.curWin ≠ w ∨ s.ful.frame ≠ k → w < 64 → ∃ t, exec .fulWindowBoundary s = .next t ∧
         t = { s with ctxs := t.ctxs, regs := t.regs, copies := t.copies, ful := t.ful } ∧
         t.schedOn = true ∧ t.curWin = w ∧ t.ful.frame = k ∧ t.ful.pg = s.rd Reg.fulPgCtl ∧
         t.fget Reg.fulSchedStat Reg.fulSchedStat_FRAMES =
           (s.fget Reg.fulSchedStat Reg.fulSchedStat_FRAMES + if s.schedOn then k - s.ful.frame else 0) % 2 ^ Reg.fulSchedStat_FRAMES.len ∧
         (t.fget Reg.fulStatus Reg.fulStatus_GAP = 1 ↔ ∃ c < 8, s.curGrant c ≠ s.winGrant w c) ∧
         ∀ c < 8, t.cxSlices c = s.cxSlices c &&& s.winGrant w c)) ∧
   ∀ (s : State) (late : BitVec 8), (s.fget Reg.fulStatus Reg.fulStatus_GAP = 0 → exec (.fulGapEnd late) s = .next s) ∧
     (s.fget Reg.fulStatus Reg.fulStatus_GAP = 1 → ∃ t, exec (.fulGapEnd late) s = .next t ∧
       t.fget Reg.fulStatus Reg.fulStatus_GAP = 0 ∧
       (∀ c < 8, t.cxSlices c = s.curGrant c &&& s.fget Reg.fulStatus Reg.fulStatus_SLICE_ON) ∧
       (late = 0 → t = { s with ctxs := t.ctxs, regs := t.regs, copies := t.copies, ful := t.ful }) ∧
       ∀ c < 8, late.getLsbD c = true → c ∈ s.ful.lost → (s.ctx c).strm = none → ∀ o r, (s.ctx c).run = o :: r → s.cxState c ≠ cxFAULTED →
         (t.ctx c).run = [] ∧ t.cxState c = cxFAULTED ∧ t.rd (Reg.fulCCtxFault c) = BitVec.ofNat 64 (o.seq % 2 ^ 32 + 2 ^ 32 * 0x0C + 2 ^ 38) ∧
         ∃ d ∈ t.detected, d.src = 0x106 + 8 * c)) ∧
  ((∀ (s : State) (i : Fin 4),
     let st := s.rd Reg.fulStatus
     let granted : Option Nat := (List.range 8).find? fun c => (s.curGrant c).testBit i
     let idle : Prop := ∀ c, granted = some c → bit s.ful.pg 1 = true ∧ s.cxState c = cxIDLE
     let gates : Prop := bit s.ful.pg 0 = true ∧ idle ∧ 1000 * bits s.ful.pg 16 16 ≤ s.ticks - SMap.get 0 s.ful.busy i ∧ bit st i = true
     (¬ gates → exec (.fulSliceGate i) s = .next s) ∧
     (gates → ∃ t, exec (.fulSliceGate i) s = .next t ∧ t = { s with ctxs := t.ctxs, regs := t.regs, copies := t.copies, ful := t.ful } ∧
       t.rd Reg.fulStatus = setBits st i 1 0 ∧
       ∀ c < 8, t.cxSlices c = if granted = some c then s.cxSlices c &&& (15 - 2 ^ i.val) else s.cxSlices c) ∧
     (bit st (4 + i) = false → exec (.fulSliceWakeDone i) s = .next s) ∧
     (bit st (4 + i) = true → ∃ t, exec (.fulSliceWakeDone i) s = .next t ∧ t = { s with ctxs := t.ctxs, regs := t.regs, copies := t.copies, ful := t.ful } ∧
       t.rd Reg.fulStatus = setBits (setBits st (4 + i) 1 0) i 1 1 ∧
       ∀ c < 8, t.cxSlices c = if granted = some c ∧ s.fget Reg.fulStatus Reg.fulStatus_GAP = 0 then s.cxSlices c ||| 2 ^ i.val else s.cxSlices c) ∧
     (let later : Prop := ∃ w < s.nwin, bit (s.rd (Reg.fulWin w)) (19 + 4 * i) = true
      let wakes : Prop := bit st i = false ∧ bit st (4 + i) = false ∧ later
      (¬ wakes → exec (.fulScheduledWake i) s = .next s) ∧
      (wakes → exec (.fulScheduledWake i) s = .next
        ((s.wr Reg.fulStatus (setBits st (4 + i) 1 1)).fsat Reg.fulPgStat Reg.fulPgStat_WAKES 1)))) ∧
   ∀ (s : State) (rq : Rq) (c : Fin 8) (v : Word),
     let ev := s.rd (Reg.fulCEvent c)
     s.rows [
       (.fulPgCtlWrite rq v, s.wr Reg.fulPgCtl (if bits v 16 16 = 0 then (v &&& 3) ||| 0x10000 else v &&& 0xFFFF0003)),
       (.fulEventPendClear rq c v, s.wr (Reg.fulCEvent c) (((ev &&& ~~~(v &&& 0x3F00)) &&& ~~~0x3F) ||| (v &&& 0x3F))),
       (.fflagsClear rq c v, s.wr (Reg.fulCFflags c) (s.rd (Reg.fulCFflags c) &&& ~~~(v &&& 0x1F))),
       (.checkLastClear rq c, s.wr (Reg.fulCCheckLast c) (s.rd (Reg.fulCCheckLast c) &&& ~~~(BitVec.twoPow 64 38)))] ∧
     (s.grants rq (Reg.fulCCtl c) →
       (s.cxState c ≠ cxFAULTED → exec (.clear rq c) s = .next s) ∧
       (s.cxState c = cxFAULTED → ∃ t, exec (.clear rq c) s = .next t ∧ t = { s with regs := t.regs, copies := t.copies, ful := t.ful } ∧
         t.cxState c = if (s.ctx c).queue = [] ∧ (s.ctx c).run = [] then cxIDLE else if s.cxSlices c ≠ 0 then cxRUNNING else cxWAITING)))

/-! ### Memory-to-memory streams (07) -/

/-- R214 to R217, R220, R222, R228, R232, R238: STRM, with a tag free, reads its 128-byte descriptor and, if the descriptor is legal, becomes the running
stream, else the context faults at element 0 with the cause. A chunk of an element-wise function with nothing loaded ahead first loads the operands of
each element, in order (`σ i` is the machine before the load of the chunk's element i, which gives `vs i`), then takes the words of each element out
of the stream buffer, in order, and writes the function of them to DST (`τ i` is the machine before that). The stream stands at the chunk's end, and
has ended at the last element. A source that faults stops it at that element, behind the elements before it: a first-fault stream that is past element
0 ends there without fault, any other faults. With no slices bound, or past its window's end, it waits; where OP and ST would not end in time, it
loads alone. R152, R224, R225: with no running stream, a source that is not prefetched, or SIZE bytes of it staged, the prefetcher does nothing; with
no tag free it stalls. Otherwise it moves past the next granule of the source and, where the granule is not staged, translates it; a translation that
faults is dropped without a record, as is a granule that is not cacheable or lies outside the block's memory; any other is read and written to a slot
of the staging area, and is then staged. -/
def Obligations.StreamsAndPrefetching : Prop :=
  ((∀ (s : State) (c : Fin 8) (o : FulOp) (r : List FulOp), s.starts c o r → fwIsStrm o.word = true → s.faultless c → s.tagFree (16 + c.val) = true →
     let va := o.a.toNat % 2 ^ 48
     let u := (((s.modCtx c (fun x => { x with queue := r })).wr (Reg.fulCStrmStat c)
       (BitVec.ofNat 64 (1 + 2 ^ 16 * (o.b.toNat % 2 ^ 16) + 2 ^ 32 * (o.seq % 2 ^ 32)))).wr (Reg.fulCStrmPos c) 0).wr (Reg.fulCStrmCnt c) 0
     let faults (f : Nat) : Prop := s.cxState c ≠ cxFAULTED → ∃ t, exec (.strm c) s = .next t ∧ (t.ctx c).strm = (s.ctx c).strm ∧
       (t.ctx c).run = (s.ctx c).run ∧ t.cxState c = cxFAULTED ∧
       t.rd (Reg.fulCCtxFault c) = BitVec.ofNat 64 (o.seq % 2 ^ 32 + 2 ^ 32 * (f % 64) + 2 ^ 38) ∧ t.rd (Reg.fulCCtxFaultVa c) = BitVec.ofNat 64 va
     (va % 128 ≠ 0 → faults 0x20) ∧
     (∀ d z, u.readDesc c va = (.ok d, z) → z.cxState c = s.cxState c →
       (dCause d = 0 → ∃ t, exec (.strm c) s = .next t ∧ t.mem = z.mem ∧ (t.ctx c).queue = (z.ctx c).queue ∧ (t.ctx c).run = (z.ctx c).run ++ [o] ∧
         (t.ctx c).strm = some { desc := d, pos := 0, lpos := 0, blk := [], acc := none, bad := false, pf := [], staged := [], grans := [], buf := [], err := none, reads := [], writes := [], foreign := [] } ∧
         t.fget (Reg.fulCStrmStat c) Reg.fulCStrmStat_PHASE = 2) ∧
       (d % 256 ≠ 1 → faults 0x22) ∧ (d % 256 = 1 → dReserved d = true → faults 0x23) ∧ (dCause d = 0x24 → faults 0x24))) ∧
   ∀ (s : State) (c : Fin 8) (st : Strm) (o : FulOp), (s.ctx c).strm = some st → (s.ctx c).run.find? (fun x => fwIsStrm x.word) = some o →
     let d := st.desc
     let p := st.pos
     let n := min (chunkElems d) (dCount d - p)
     let runs : Prop := s.cxSlices c ≠ 0 ∧ s.beforeEnd c = true
     (¬ runs → exec (.streamChunk c) s = .next s) ∧
     (runs → s.tagFree (16 + c.val) = false → exec (.streamChunk c) s = .next (s.ctxStall c)) ∧
     (runs → s.tagFree (16 + c.val) = true → dFunc d < 0x0F → st.lpos = p → st.buf = [] → st.err = none →
       ∀ (σ τ : Nat → State) (vs : Nat → List SrcVal), σ 0 = s.modStrm c (fun x => { x with grans := [] }) →
       let b := dBlk d 3
       let reads (i : Nat) := ((dOperands d).map fun k => (k, p + i, p + i)) ++ (if b.kind = 3 then [(b.idx, p + i, p + i)] else [])
       let loads (i : Nat) : Prop := ((σ i).strmOf c).desc = d ∧ ((σ i).strmOf c).lpos = p + i ∧ ((σ i).strmOf c).err = none ∧
         ∃ u, (σ i).srcElems c (reads i) = (.ok (vs i), u) ∧ σ (i + 1) = u.modStrm c fun x => { x with lpos := p + i + 1, buf := x.buf ++ [vs i] }
       let loaded (u : State) : State := (u.modStrm c fun x => { x with grans := [] }).setStrmPos c p (u.strmOf c).lpos
       let fits (u : State) : Bool := u.fitsBy c (chunkCycles d n (u.lanes c))
       let steps (i : Nat) : Prop := ((τ i).strmOf c).desc = d ∧ ((τ i).strmOf c).pos = p + i ∧ (τ i).latent.checks = [] ∧
         (∃ r, ((τ i).strmOf c).buf = vs i :: r) ∧
         ∃ xs u z, (τ i).takeStep c (vs i) = (xs, false, u) ∧ u.latent.checks = [] ∧
           (u.accrue c (streamFn d xs).2).dstElem c (p + i) (p + i) (if b.kind = 3 then elemInt (dBlk d b.idx).typ (xs.getLastD 0) else 0) (streamFn d xs).1
             false = (.ok (), z) ∧ τ (i + 1) = z.strmAdvance c (p + i) (p + i + 1)
       ((∀ i < n, loads i) → let u := loaded (σ n)
         (u.strmOf c).desc = d → (u.strmOf c).pos = p → (u.strmOf c).lpos = p + n →
         (fits u = false → exec (.streamChunk c) s = .next u) ∧
         (fits u = true → τ 0 = u.setStrmPhase c 2 → (∀ i < n, steps i) → ((τ n).ctx c).strm ≠ none → ((τ n).strmOf c).desc = d →
           ((τ n).strmOf c).pos = p + n → ((τ n).strmOf c).lpos = p + n → ∃ t, exec (.streamChunk c) s = .next t ∧ t.mem = (τ n).mem ∧
           (p + n < dCount d → ∃ st', (t.ctx c).strm = some st' ∧ st'.desc = d ∧ st'.pos = p + n) ∧
           (p + n = dCount d → (t.ctx c).strm = none ∧ (t.ctx c).run = ((τ n).ctx c).run ∧ t.fget (Reg.fulCStrmStat c) Reg.fulCStrmStat_PHASE = 4 ∧
             t.rd (Reg.fulCStrmPos c) = BitVec.ofNat 64 ((p + n) % 2 ^ 32 + 2 ^ 32 * ((p + n) % 2 ^ 32))))) ∧
       (∀ e < n, (∀ i < e, loads i) → ((σ e).strmOf c).desc = d → ((σ e).strmOf c).lpos = p + e → ((σ e).strmOf c).err = none →
         ∀ x f va z, (σ e).srcElems c (reads e) = (.error (x, f, va), z) →
         let u := loaded (z.modStrm c fun st => { st with lpos := x, err := some (x, f, va) })
         (u.strmOf c).desc = d → (u.strmOf c).pos = p → fits u = true → τ 0 = u.setStrmPhase c 2 → (∀ i < e, steps i) →
         ((τ e).strmOf c).desc = d → ((τ e).strmOf c).pos = p + e → ((τ e).strmOf c).buf = [] → ((τ e).strmOf c).err = some (x, f, va) →
         (τ e).cxState c ≠ cxFAULTED →
         ∃ t, exec (.streamChunk c) s = .next t ∧ t.mem = (τ e).mem ∧ (t.ctx c).strm = none ∧
           ((dFF d = true ∧ 0 < x ∧ ffCause f = true) → t.cxState c = (τ e).cxState c ∧ t.fget (Reg.fulCStrmStat c) Reg.fulCStrmStat_PHASE = 6 ∧
             t.fget (Reg.fulCStrmStat c) Reg.fulCStrmStat_FF_CAUSE = f % 64 ∧ t.detected = (τ e).detected) ∧
           (¬ (dFF d = true ∧ 0 < x ∧ ffCause f = true) → t.cxState c = cxFAULTED ∧ t.fget (Reg.fulCStrmStat c) Reg.fulCStrmStat_PHASE = 5 ∧
             t.rd (Reg.fulCCtxFault c) = BitVec.ofNat 64 (o.seq % 2 ^ 32 + 2 ^ 32 * (f % 64) + 2 ^ 38) ∧
             t.rd (Reg.fulCCtxFaultElem c) = BitVec.ofNat 64 (x % 2 ^ 32))))) ∧
  (∀ (s : State) (c : Fin 8) (src : Fin 3),
     ((s.ctx c).strm = none → exec (.streamPrefetch c src) s = .next s) ∧
     ∀ st, (s.ctx c).strm = some st →
       let d := st.desc
       let b := dBlk d src
       let e := max (SMap.get 0 st.pf src) st.lpos
       let va := (b.va e 0).toNat
       let may : Prop := b.valid = true ∧ b.mem % 8 = 4 ∧ b.kind ≠ 3 ∧ s.fget (Reg.fulCStage c) Reg.fulCStage_SIZE ≠ 0 ∧ s.cxSlices c ≠ 0 ∧
         s.beforeEnd c = true ∧ e < dCount d ∧ b.vaBad (b.va e 0) = none ∧
         (st.staged.filter fun g => decide (g.src = src.val)).length < 64 * s.fget (Reg.fulCStage c) Reg.fulCStage_SIZE
       (¬ may → exec (.streamPrefetch c src) s = .next s) ∧
       (may → s.tagFree (16 + c.val) = false → exec (.streamPrefetch c src) s = .next (s.ctxStall c)) ∧
       (may → s.tagFree (16 + c.val) = true → ∃ pf u, (∀ j, j ≠ src.val → SMap.get 0 pf j = SMap.get 0 st.pf j) ∧ e < SMap.get 0 pf src ∧ SMap.get 0 pf src ≤ dCount d ∧
         u = s.modCtx c (fun x => { x with strm := some { st with pf := pf } }) ∧
         ((st.stagedAt src va).isSome = true → exec (.streamPrefetch c src) s = .next u) ∧
         (st.stagedAt src va = none →
           (∀ f z, u.ctxXlate c (va / 64 * 64) false = (.error f, z) → exec (.streamPrefetch c src) s = .next z) ∧
           (∀ pa mt z, u.ctxXlate c (va / 64 * 64) false = (.ok (pa, mt), z) →
             (mt = 2 ∨ b.inMem pa = false → exec (.streamPrefetch c src) s = .next z) ∧
             (mt ≠ 2 → b.inMem pa = true → (z.ctx c).strm = some { st with pf := pf } → (∀ x ∈ z.mesh.late, x.1 ≠ 16 + c.val) →
               ∀ v z', z.serve (ctxReq c .read pa 64 0) = ({ status := .ok, data := v }, z') →
               z'.strmOf c = z.strmOf c → (∀ x ∈ z'.mesh.late, x.1 ≠ 16 + c.val) → ∀ n z'', (∀ g ∈ st.staged, g.slot ≠ n) → (∀ m < n, ∃ g ∈ st.staged, g.slot = m) →
               n < 64 * s.fget (Reg.fulCStage c) Reg.fulCStage_SIZE →
               z'.fget (Reg.fulCStage c) Reg.fulCStage_SIZE = s.fget (Reg.fulCStage c) Reg.fulCStage_SIZE →
               z'.serve (ctxReq c .write (z'.stageAddr c n) 64 v) = ({ status := .ok, data := 0 }, z'') → (z''.ctx c).strm = some { st with pf := pf } →
               ∃ t na, exec (.streamPrefetch c src) s = .next t ∧ t.mem = z''.mem ∧ (1 < mt → na = false) ∧
                 (t.ctx c).strm = some { st with pf := pf, staged := st.staged ++ [{ src := src, gran := va / 64, slot := n, na := na, pa := pa }] })))))

/-! ### Stored data (08, 09) -/

/-- R251, R264, R278, R280, R282, R287, R288: the register writes of the MEM, DDR and EDC blocks. MEM_SS_PWR takes its bits and every sleeping bank asked
for wakes or waits for its group's wake; EDC_CTL is frozen by LOCK and clears the logs of the classes given; ARM needs INJECT; UE_FIRST.VALID and
FIRED clear where 1 is written; GO starts a scrub from its base, refuses a range that is not in one memory, and is ignored while one runs; ABORT stops
a running one. -/
def Obligations.MemoryRegisterRows : Prop :=
  ∀ (s : State) (rq : Rq) (v : Word),
    let put (r : Nat) (m : Word) : State := s.wr r ((s.rd r &&& ~~~m) ||| (v &&& m))
    let edc := s.rd Reg.edcCtl
    let inj := s.rd Reg.edcInjCtl
    let scrub := s.fget Reg.edcScrubPos Reg.edcScrubPos_STATE
    s.rows ([(.ddrZodCtlWrite rq v, put Reg.ddrZodCtl 0x7FF), (.ddrZodProbeWrite rq v, put Reg.ddrZodProbe 0xFFFFF),
      (.edcLock rq, s.wr Reg.edcCtl (edc ||| 4)),
      (.firedClear rq, s.wr Reg.edcInjCtl (setBits inj 5 1 0)),
      (.scrubAbort rq, if scrub = 1 then s.fset Reg.edcScrubPos Reg.edcScrubPos_STATE 3 else s)]) ∧
    (∀ k : Fin 5, s.rows [(.ueFirstClear rq k, s.wr (Reg.edcClassUeFirst k) (setBits (s.rd (Reg.edcClassUeFirst k)) 63 1 0))]) ∧
    (∀ x : BitVec 4, s.rows [(.edcInjArm rq x, s.wr Reg.edcInjCtl (let y := (inj &&& ~~~0xF) ||| x.setWidth 64
      if s.fget Reg.sysPerm Reg.sysPerm_INJECT = 1 then setBits y 4 1 1 else y))]) ∧
    (∀ (i : Fin 312) (e : Fin 8), s.rows [(.remapLock rq i e, s.wr (Reg.edcRemap i e) (s.rd (Reg.edcRemap i e) ||| BitVec.twoPow 64 48))]) ∧
    (let writes (i : Instr) (ctl : Word) (clr : Nat → Bool) : Prop := s.grants rq Reg.edcCtl → ∃ t, exec i s = .next t ∧ t = { s with regs := t.regs } ∧
        t.rd Reg.edcCtl = ctl ∧
        (∀ k < 5, ∀ n < 32, t.rd (Reg.edcLogAddr k n) = (if clr k then 0 else s.rd (Reg.edcLogAddr k n)) ∧
          t.rd (Reg.edcLogInfo k n) = (if clr k then 0 else s.rd (Reg.edcLogInfo k n))) ∧
        ∀ r, r ≠ Reg.edcCtl → (∀ k < 5, ∀ n < 32, r ≠ Reg.edcLogAddr k n ∧ r ≠ Reg.edcLogInfo k n) → t.rd r = s.rd r
     writes (.edcCtlWrite rq v) ((if bit edc 2 then edc else (edc &&& ~~~3) ||| (v &&& 3)) ||| (v &&& 4)) (fun k => bit v (8 + k)) ∧
     ∀ m : BitVec 5, writes (.logClr rq m) edc fun k => m.getLsbD k) ∧
    (s.grants rq Reg.edcScrubGo → (scrub = 1 → exec (.scrubGo rq) s = .next s) ∧ (scrub ≠ 1 → ∃ t, exec (.scrubGo rq) s = .next t ∧
      let base := s.fget Reg.edcScrubBase Reg.edcScrubBase_BASE * 64
      t = { s with regs := t.regs, prot := { s.prot with skipped := 0 } } ∧ t.rd Reg.edcScrubSum = 0 ∧ t.rd Reg.edcScrubFirstUe = 0 ∧
      t.rd Reg.edcScrubPos = BitVec.ofNat 64 (base + 2 ^ 51 * (if s.scrubRangeOk base (s.fget Reg.edcScrubLen Reg.edcScrubLen_LEN * 64) then 1 else 4)) ∧
      ∀ r, r ≠ Reg.edcScrubSum → r ≠ Reg.edcScrubFirstUe → r ≠ Reg.edcScrubPos → t.rd r = s.rd r)) ∧
    ∀ n : BitVec 2, s.grants rq (Reg.memSsPwr n.toNat) → ∃ t, exec (.memSsPwrWrite rq n v) s = .next t ∧
      t = { s with regs := t.regs, prot := { s.prot with wakeQ := t.prot.wakeQ } } ∧ t.rd (Reg.memSsPwr n.toNat) = v ∧
      ∀ b < 256,
        let rotates : Prop := s.fget Reg.memRotStat Reg.memRotStat_SS_ACTIVE = 1 ∧ s.fget Reg.memRotStat Reg.memRotStat_SS_BANK / 16 = b / 16
        let asked : Prop := b / 64 = n.toNat ∧ bit v (b % 64) = true ∧ (s.bankState b = 1 ∨ s.bankState b = 2) ∧ ¬ rotates
        (asked → t.bankState b = 3 ∨ b ∈ t.prot.wakeQ) ∧ (¬ asked → t.bankState b = s.bankState b)

/-- R247 to R253, R256, R264 to R268: a rotation goes from the spare's wake to the copy, maps the bank to the spare, tests the bank it left, clears it and
makes it the spare; a failed test marks the bank and leaves no spare. A bank asked to sleep enters its low state, OFF losing its contents; a bank that
has woken is ON, and the accesses that waited for it are served. A region's clear ends, by demand or in the background order. A channel that enters
derating raises its source. -/
def Obligations.BanksRotationAndClearing : Prop :=
  (∀ (s : State) (cr : Bool),
    let w := s.rd Reg.memRotStat
    let phase : Option Nat := if cr then (if bit w 12 then some (bits w 17 3) else none) else if bit w 0 then some (bits w 9 3) else none
    let b := if cr then bits w 13 4 else bits w 1 8
    let g := b / 16
    let spareF := if cr then s.fget Reg.memCrSpare Reg.memCrSpare_SPARE else s.fget (Reg.memSsMapHi g) Reg.memSsMapHi_SPARE
    let spare (t : State) := if cr then t.fget Reg.memCrSpare Reg.memCrSpare_SPARE else t.fget (Reg.memSsMapHi g) Reg.memSsMapHi_SPARE
    let phys (t : State) (k : Nat) := if cr then t.fget Reg.memCrMap (Reg.memCrMap_PHYSk k) else t.ssPhys k
    let test (t : State) := if cr then t.prot.testCr else t.prot.testSs
    let active (t : State) := bit (t.rd Reg.memRotStat) (if cr then 12 else 0)
    (cr = false → exec .spareWakeDone s = .next (if phase = some 0 then s.fset Reg.memRotStat Reg.memRotStat_SS_PHASE 1 else s)) ∧
    (phase ≠ some 1 → exec (.rotationCopyDone cr) s = .next s) ∧
    (phase = some 1 → ∃ t, exec (.rotationCopyDone cr) s = .next t ∧ phys t b = spareF ∧ (∀ k < (if cr then 16 else 256), k ≠ b → phys t k = phys s k) ∧
      test t = phys s b ∧ bits (t.rd Reg.memRotStat) (if cr then 17 else 9) 3 = 3 ∧ bit (t.rd Reg.hbxRet) (Reg.hbxRet_VALID.lo + 2) = true ∧
      t.hbx.maps = (if cr then t.fset Reg.memCrSpare Reg.memCrSpare_SPARE (phys s b) else t.fset (Reg.memSsMapHi g) Reg.memSsMapHi_SPARE (phys s b)).mapRegs) ∧
    (∀ pass, phase ≠ some 3 → exec (.rotationMarchDone cr pass) s = .next s) ∧
    (phase = some 3 → exec (.rotationMarchDone cr true) s = .next
      ((s.fset Reg.memRotStat (if cr then Reg.memRotStat_CR_PHASE else Reg.memRotStat_SS_PHASE) 4).fset Reg.pncStatus Reg.pncStatus_PERMILLE 1000)) ∧
    (phase = some 3 → ∃ t, exec (.rotationMarchDone cr false) s = .next t ∧ active t = false ∧ spare t = spareF ∧
      (if cr then t.fget Reg.memCrSpare Reg.memCrSpare_DEGRADED = 1 ∧ t.fget Reg.memCrSpare Reg.memCrSpare_FAILED = s.prot.testCr % 16
        else t.fget (Reg.memSsMapHi g) Reg.memSsMapHi_DEGRADED = 1 ∧ t.fget (Reg.memSsMapHi g) Reg.memSsMapHi_FAILED = s.prot.testSs % 32) ∧
      ∃ d ∈ t.detected, d.src = if cr then 0x185 else 0x182) ∧
    (phase ≠ some 4 → exec (.rotationClearDone cr) s = .next s) ∧
    (phase = some 4 → ∃ t, exec (.rotationClearDone cr) s = .next t ∧ active t = false ∧
      spare t = (if cr then s.prot.testCr % 16 else s.prot.testSs % 32) ∧
      bits (t.rd Reg.memRotStat) (if cr then 48 else 32) 16 = min 0xFFFF (bits w (if cr then 48 else 32) 16 + 1))) ∧
  (∀ (s : State) (n : BitVec 8), let b := n.toNat
    let rotates : Prop := s.fget Reg.memRotStat Reg.memRotStat_SS_ACTIVE = 1 ∧ s.fget Reg.memRotStat Reg.memRotStat_SS_BANK / 16 = b / 16
    let busy : Prop := ∃ f ∈ s.mesh.flights, f.done = false ∧ windowOf f.req.pa.toNat = .stream ∧ ssBank (f.req.pa.toNat - paStream) = b
    let sleeps : Prop := s.bankState b = 0 ∧ bit (s.rd (Reg.memSsPwr (b / 64))) (b % 64) = false ∧ ¬ rotates ∧ ¬ busy
    (¬ sleeps → exec (.bankEnterLow n) s = .next s) ∧
    (sleeps → (∀ e ∈ s.prot.merge, mergeCtrl e.unit ≠ b) → ∃ t, exec (.bankEnterLow n) s = .next t ∧
      t = { s with regs := t.regs, mem := t.mem, prot := t.prot } ∧
      (∀ r, r ≠ Reg.memSsState (b / 32) → t.rd r = s.rd r) ∧ (∀ k < 256, k ≠ b → t.bankState k = s.bankState k) ∧
      (bit (s.rd (Reg.memSsLowmode (b / 64))) (b % 64) = false → t.bankState b = 1 ∧ t.mem = s.mem ∧ t.prot = s.prot) ∧
      (bit (s.rd (Reg.memSsLowmode (b / 64))) (b % 64) = true → t.bankState b = 2 ∧
        ∀ a, t.byte a = if windowOf (a / 8 * 8) = .stream ∧ ssBank (a / 8 * 8 - paStream) = b then 0 else s.byte a)) ∧
    (s.bankState b ≠ 3 → exec (.bankWakeDone n) s = .next s) ∧
    (s.bankState b = 3 → ∃ t u, exec (.bankWakeDone n) s = .next t ∧ u = { s with regs := u.regs, prot := { s.prot with wakeQ := u.prot.wakeQ } } ∧
      u.bankState b = 0 ∧ b ∉ u.prot.wakeQ ∧
      (∀ x q, s.prot.wakeQ = x :: q → x < 256 → x ≠ b → x / 16 = b / 16 → (∀ k < 256, k / 16 = b / 16 → k ≠ b → s.bankState k ≠ 3) →
        u.bankState x = 3 ∧ x ∉ u.prot.wakeQ) ∧
      ((∀ f ∈ s.mesh.flights, f.done = true) → t = u) ∧
      ∀ f, s.mesh.flights = [f] → f.done = false → u.reqBlocked f.req = false → t.mem = (u.target f.req).2.mem ∧
        t.mesh.flights = [{ f with done := true, resp := (u.target f.req).1 }])) ∧
  (∀ s : State,
    let cleared (r : Nat) : State :=
      { (if s.cleared r then s else s.fset Reg.ddrZodStat Reg.ddrZodStat_UNCLEARED (s.fget Reg.ddrZodStat Reg.ddrZodStat_UNCLEARED - 1)) with
        prot := { s.prot with zod := SMap.put false s.prot.zod r true, clearing := s.prot.clearing.filter fun x => decide (x ≠ r) } }
    (∀ r : BitVec 20, (r.toNat ∉ s.prot.clearing → exec (.zodClearDone r) s = .next s) ∧
      (r.toNat ∈ s.prot.clearing → (∀ f ∈ s.mesh.flights, f.done = true) → exec (.zodClearDone r) s = .next (cleared r.toNat))) ∧
    (let off : Prop := s.fget Reg.ddrZodCtl Reg.ddrZodCtl_BG_EN = 0 ∨ s.fget Reg.ddrTrainStat Reg.ddrTrainStat_DONE = 0 ∨ s.prot.clearing ≠ []
     let todo (r : Nat) : Prop := s.cleared r = false ∧ r ∉ s.latent.zod ∧ r < s.dramSize / 2 ^ 21
     (off ∨ (∀ r, ¬ todo r) → exec .zodBackgroundClear s = .next s) ∧
     (¬ off → (∀ n < 4, bits (s.rd (Reg.ddrZodRange n)) 40 2 ≠ 2) → ∀ r, todo r → (∀ q < r, ¬ todo q) → exec .zodBackgroundClear s = .next (cleared r)) ∧
     (¬ off → bits (s.rd (Reg.ddrZodRange 0)) 40 2 = 2 → ∀ r, todo r → bits (s.rd (Reg.ddrZodRange 0)) 0 20 ≤ r →
       r < bits (s.rd (Reg.ddrZodRange 0)) 0 20 + bits (s.rd (Reg.ddrZodRange 0)) 20 20 →
       (∀ q < r, bits (s.rd (Reg.ddrZodRange 0)) 0 20 ≤ q → ¬ todo q) → exec .zodBackgroundClear s = .next (cleared r)))) ∧
  ∀ (s : State) (ch : Fin 16) (refresh : BitVec 3) (derated : Bool), ∃ t, exec (.ddrTempDerate ch refresh derated) s = .next t ∧
    t = { s with regs := t.regs, detected := t.detected } ∧ t.fget (Reg.ddrChStat ch) Reg.ddrChStat_REFRESH = refresh.toNat ∧
    t.fget (Reg.ddrChStat ch) Reg.ddrChStat_DERATED = (if derated then 1 else 0) ∧
    (t.fget Reg.ddrStatus Reg.ddrStatus_DERATED = 1 ↔ derated = true ∨ ∃ k < 16, k ≠ ch.val ∧ s.fget (Reg.ddrChStat k) Reg.ddrChStat_DERATED = 1) ∧
    t.detected.map (·.src) = s.detected.map (·.src) ++
      (if derated = true ∧ s.fget (Reg.ddrChStat ch) Reg.ddrChStat_DERATED = 0 then [0x1B4] else [])

/-- R267, R275, R276, R281 to R285, R289: a queued write-back cleans its unit, and one that newer data has superseded does nothing. A merge-buffer entry
that drains leaves the buffer for its array, a complete one, or an incomplete one on a unit without error, with a fresh code, an incomplete one on an
uncorrectable unit so that every later read reports it. A nominated log entry is redirected to the lowest free entry of its instance, the corrected
words of its row stored clean, or raises REMAP_FULL. The running scrub reads its granule and moves on; a corrected line is counted and its write-back
queued; an uncorrectable unit, or one whose map word is (R267), is counted, and the first one recorded. -/
def Obligations.RepairAndScrubbing : Prop :=
  (∀ (s : State) (pa : BitVec 44), let u := pa.toNat
    let k := (classOf u).getD 0
    (u ∉ s.prot.wb → exec (.ceWriteback pa) s = .next s) ∧
    (u ∈ s.prot.wb → ∃ t, exec (.ceWriteback pa) s = .next t ∧ t = { s with mem := t.mem, free := t.free, prot := t.prot } ∧
      (k < 2 → SMap.get 0 s.prot.valid (u / 8) < 4 → t.codeSays k u = .clean) ∧ (2 ≤ k → t.codeSays k u = .clean) ∧
      (u ∉ s.prot.miss → t.mem = s.mem ∧ t.free = s.free) ∧ (∀ a, a < u ∨ u + unitSize k ≤ a → t.byte a = s.byte a) ∧
      t.prot.wb = s.prot.wb.filter (fun x => decide (x ≠ u)) ∧ t.prot.miss = s.prot.miss.filter (fun x => decide (x ≠ u)) ∧
      t.prot.merge = s.prot.merge ∧ t.prot.valid = s.prot.valid) ∧
    (s.mergeOf u = none → exec (.mergeDrain pa) s = .next s) ∧
    (∀ e, s.mergeOf u = some e → s.mirroring = false → bit (s.rd Reg.edcInjCtl) 4 = false → (∀ x ∈ s.latent.rows, x.1 ≠ u) →
      let keeps (t : State) : Prop := exec (.mergeDrain pa) s = .next t ∧ t.mem = s.mem ∧ t.mergeOf u = none ∧ u ∉ t.prot.wb ∧
        (k < 2 → SMap.get 0 t.prot.valid (u / 8) = 3)
      (e.mask = 2 ^ unitSize k - 1 ∨ s.written k u = false ∨ (s.codeSays k u = .clean ∧ (k < 2 → SMap.get 0 s.prot.valid (u / 8) = 3) ∧ (k = 3 → u ∉ s.latent.lines)) →
        ∃ t, keeps t ∧ t = { s with prot := t.prot } ∧ t.codeSays k u = .clean) ∧
      (e.mask ≠ 2 ^ unitSize k - 1 → s.written k u = true → (k = 3 → s.cleared (ddrRegion u) = true) → s.codeSays k u = .ue →
        ∃ t, keeps t ∧ t.codeSays k u = .ue ∧ ∃ d ∈ t.detected, d.src = ueSource k u))) ∧
  (∀ (s : State) (k : Fin 4) (n : Fin 32),
    let info := s.rd (Reg.edcLogInfo k n)
    let due : Prop := bit info 18 = true ∧ bit info 16 = true ∧ bit info 17 = false ∧ s.fget Reg.edcCtl Reg.edcCtl_AUTO_REMAP = 1
    let u := s.fget (Reg.edcLogAddr k n) Reg.edcLogAddr_ADDR
    let i := s.remapInst u
    let span := remapSpan u
    let valid (e : Nat) : Prop := s.fget (Reg.edcRemap i e) Reg.edcRemap_VALID = 1
    let covers (e : Nat) : Prop := valid e ∧ s.fget (Reg.edcRemap i e) Reg.edcRemap_ADDR * 8 / span = u / span
    (¬ due → exec (.remap k n) s = .next s) ∧
    (due → (∃ e < 8, covers e) → exec (.remap k n) s = .next (s.fset (Reg.edcLogInfo k n) Reg.edcLogInfo_REMAPPED 1)) ∧
    (due → (∀ e < 8, valid e ∧ ¬ covers e) → exec (.remap k n) s = .next (s.raise 0x189)) ∧
    (due → i < 312 → (∀ e < 8, ¬ covers e) → ∀ e < 8, ¬ valid e → (∀ j < e, valid j) → ∃ t, exec (.remap k n) s = .next t ∧
      t = { s with regs := t.regs, prot := t.prot, mem := t.mem, free := t.free } ∧
      (let row := unitsOf k (u / span * span) span
       ((∀ x ∈ row, s.codeSays k x ≠ .beyond) → t.mem = s.mem ∧ t.free = s.free) ∧ (∀ x ∈ row, s.codeSays k x = .ce → t.codeSays k x = .clean) ∧
       ∀ x ∈ row, s.codeSays k x = .ue → t.codeSays k x = .ue) ∧ t.rd (Reg.edcRemap i e) = BitVec.ofNat 64 (u / 8 * 8 + 2 ^ 44 * e + 2 ^ 47) ∧
      t.fget (Reg.edcLogInfo k n) Reg.edcLogInfo_REMAPPED = 1 ∧ (∀ r, r ≠ Reg.edcRemap i e → r ≠ Reg.edcLogInfo k n → t.rd r = s.rd r))) ∧
  ∀ s : State,
    let runs : Prop := s.fget Reg.edcScrubPos Reg.edcScrubPos_STATE = 1
    let pos := s.fget Reg.edcScrubPos Reg.edcScrubPos_POS * 64
    let base := s.fget Reg.edcScrubBase Reg.edcScrubBase_BASE * 64
    let len := s.fget Reg.edcScrubLen Reg.edcScrubLen_LEN * 64
    let k := (classOf pos).getD 3
    let next := BitVec.ofNat 64 (pos + 64 + (if base + len ≤ pos + 64 then 2 ^ 44 * 100 + 2 ^ 51 * 2 else 2 ^ 44 * ((pos + 64 - base) * 100 / len) + 2 ^ 51))
    (¬ runs → exec .scrubUnit s = .next s) ∧
    (runs → ∃ t, exec .scrubUnit s = .next t ∧ t.rd Reg.edcScrubPos = next ∧
      (s.fget Reg.edcCtl Reg.edcCtl_AUTO_REMAP = 0 → t.mem = s.mem)) ∧
    (runs → (k = 3 → s.zodBad pos = false) → (∀ u ∈ unitsOf k pos 64, s.scrubSkips k u = false ∧ s.codeSays k u = .clean ∧
        (k < 2 → SMap.get 0 s.prot.valid (u / 8) = 3) ∧ u ∉ s.latent.lines ∧ ∀ x ∈ s.latent.rows, x.1 ≠ u) →
      exec .scrubUnit s = .next (s.wr Reg.edcScrubPos next)) ∧
    (runs → k = 3 → s.zodBad pos = false → s.scrubSkips 3 pos = false → s.codeSays 3 pos = .ce → pos ∉ s.latent.lines → (∀ x ∈ s.latent.rows, x.1 ≠ pos) →
      ∃ t, exec .scrubUnit s = .next t ∧
      t.fget Reg.edcScrubSum Reg.edcScrubSum_CE = min 0xFFFF (s.fget Reg.edcScrubSum Reg.edcScrubSum_CE + 1) ∧
      (s.fget Reg.edcCtl Reg.edcCtl_AUTO_REMAP = 0 → pos ∈ t.prot.wb)) ∧
    (runs → k = 3 → s.zodBad pos = true ∨ (s.scrubSkips 3 pos = false ∧ s.codeSays 3 pos = .ue ∧ ∀ x ∈ s.latent.rows, x.1 ≠ pos) →
      ∃ t, exec .scrubUnit s = .next t ∧
      (∃ d ∈ t.detected, d.src = if s.zodBad pos then 0x1B3 else ueSource 3 pos) ∧
      (s.zodBad pos = true → t.fget Reg.ddrStatus Reg.ddrStatus_ZOD_FAILED = 1) ∧
      t.fget Reg.edcScrubSum Reg.edcScrubSum_UE = min 0xFFFF (s.fget Reg.edcScrubSum Reg.edcScrubSum_UE + 1) ∧
      t.rd Reg.edcScrubFirstUe = (if s.fget Reg.edcScrubFirstUe Reg.edcScrubFirstUe_VALID = 1 then s.rd Reg.edcScrubFirstUe
        else BitVec.ofNat 64 (pos + 2 ^ 63)))

/-! ### Ports and admission (10) -/

/-- R309: a WITHDRAW of an entry with FROM_IMG returns 2 LOCKED and one of an entry that is not valid 7 NOT_ADMITTED, and neither changes anything else;
any other clears VALID, returns the charge to the budget of each port of the entry, with CODE 0, and changes no other entry and no other register. The
command of the host protocol and the register's write request it alike (R307). -/
def Obligations.AdmissionWithdrawal : Prop :=
  ∀ (s : State) (n : BitVec 10),
    let k := n.toNat
    let d := s.rd (Reg.admEntryDest k)
    let used (t : State) (p : Nat) := t.fget Reg.admBudgetUsed (budgetFld p)
    let coded (t : State) (x : Nat) : Prop := t = s.fset Reg.admReqStatus Reg.admReqStatus_CODE x
    let withdrawn (t : State) : Prop :=
      (bit d 22 = true → coded t 2) ∧ (bit d 22 = false → bit d 21 = false → coded t 7) ∧
      (bit d 22 = false → bit d 21 = true → t = { s with regs := t.regs } ∧ t.fget Reg.admReqStatus Reg.admReqStatus_CODE = 0 ∧
        t.rd (Reg.admEntryDest k) = setBits d 21 1 0 ∧
        (∀ p < 2, used t p = if p ∈ portsOf (s.rd (Reg.admEntryId k)) then used s p - chargeOf (s.rd (Reg.admEntryContract k)) d else used s p) ∧
        ∀ r, r ≠ Reg.admEntryDest k → r ≠ Reg.admBudgetUsed → r ≠ Reg.admReqStatus → t.rd r = s.rd r)
    withdrawn (s.admRequest 2 k) ∧
    ∀ rq : Rq, s.grants rq Reg.admReqCtl → s.fget Reg.admReqStatus Reg.admReqStatus_BUSY = 0 →
      ∃ t, exec (.admReqWithdraw rq n) s = .next t ∧ withdrawn t

/-- R303, R307, R308, R311, R312 and the ETH registers: a CONS that is a multiple of 64 between the present CONS and PROD moves it, another is ignored;
ADMIT runs the checks of R308 in their order, leaves the first code that fails, and else installs the staged entry and charges its ports; a tail below
the ring's entries is taken; CHANGE starts one configuration change; INSTALL loads the selected association and zeroes the key registers, RETIRE
invalidates it. -/
def Obligations.PortAndAdmissionRows : Prop :=
  ∀ (s : State) (rq : Rq),
    (∀ (n : Fin 64) (c : BitVec 18) (c' : BitVec 28),
      let moves (ix x : Nat) : Prop := x % 64 = 0 ∧ x < s.ringSize ix ∧
        ringDist (s.ringSize ix) (s.cons ix) x ≤ ringDist (s.ringSize ix) (s.cons ix) (s.prod ix)
      (s.grants rq (Reg.admRingPtr n) →
        (moves n c.toNat → exec (.admRingConsWrite rq n c) s = .next (s.fset (Reg.admRingPtr n) Reg.admRingPtr_CONS c.toNat)) ∧
        (¬ moves n c.toNat → exec (.admRingConsWrite rq n c) s = .next s)) ∧
      (s.grants rq (Reg.admSringPtr n) →
        (moves (64 + n) c'.toNat → exec (.admSringConsWrite rq n c') s = .next (s.fset (Reg.admSringPtr n) Reg.admSringPtr_CONS c'.toNat)) ∧
        (¬ moves (64 + n) c'.toNat → exec (.admSringConsWrite rq n c') s = .next s))) ∧
    (∀ n : BitVec 10, s.grants rq Reg.admReqCtl →
      let idle : Prop := s.fget Reg.admReqStatus Reg.admReqStatus_BUSY = 0
      let k := n.toNat
      let id := s.rd (Reg.admReqW 0)
      let con := s.rd (Reg.admReqW 1)
      let dst := s.rd (Reg.admReqW 2)
      let used (t : State) (p : Nat) := t.fget Reg.admBudgetUsed (budgetFld p)
      let twin : Prop := ∃ j < k, s.entryValid j = true ∧ s.rd (Reg.admEntryId j) = id
      (¬ idle → exec (.admReqAdmit rq n) s = .next s ∧ exec (.admReqWithdraw rq n) s = .next s) ∧
      (idle →
        (let code (x : Nat) : Prop := exec (.admReqAdmit rq n) s = .next (s.fset Reg.admReqStatus Reg.admReqStatus_CODE x)
         if s.fget Reg.admCfg Reg.admCfg_RT_ADMIT = 0 then code 8 else if s.entryValid k then code 1 else if ¬ s.contractOk id con dst then code 3
         else if ¬ s.ringNamedOk dst then code 4 else if twin then code 9 else if ¬ s.ringFits con dst then code 5
         else if ¬ s.budgetOk id con dst then code 6
         else ∃ t, exec (.admReqAdmit rq n) s = .next t ∧ t = { s with regs := t.regs, eth := { s.eth with police := t.eth.police } } ∧
           t.fget Reg.admReqStatus Reg.admReqStatus_CODE = 0 ∧ t.rd (Reg.admEntryId k) = id ∧ t.rd (Reg.admEntryContract k) = con ∧
           t.rd (Reg.admEntryDest k) = setBits (setBits dst 21 1 1) 22 1 0 ∧ t.rd (Reg.admEntryCnt k) = 0 ∧
           (∀ p < 2, used t p = if p ∈ portsOf id then (used s p + chargeOf con dst) % 2 ^ 32 else used s p) ∧
           (∀ j < 1024, j ≠ k → ∀ f ∈ [Reg.admEntryId, Reg.admEntryContract, Reg.admEntryDest, Reg.admEntryCnt], t.rd (f j) = s.rd (f j))))) ∧
    ∀ p : Fin 2,
      (∀ (q : Fin 32) (tail : BitVec 16), let x := (s.rd (Reg.ethTxqTail p q) &&& ~~~0xFFFF) ||| tail.setWidth 64
        s.rows [(.ethTxqTailWrite rq p q tail, if x.toNat < s.fget (Reg.ethTxqCfg p q) Reg.ethTxqCfg_ENTRIES then s.wr (Reg.ethTxqTail p q) x else s)]) ∧
      (s.grants rq (Reg.ethGclCtl p) →
        let pending := s.fget (Reg.ethStatus p) Reg.ethStatus_GCL_PENDING
        let cyc := max 1 (s.fget (Reg.ethGclCtl p) Reg.ethGclCtl_CYCLE_NS)
        let base := (s.rd (Reg.ethGclBase p)).toNat
        (pending = 1 → exec (.change rq p) s = .next (s.wr (Reg.ethGclCtl p) (s.rd (Reg.ethGclCtl p)))) ∧
        (pending = 0 → ∃ t at', exec (.change rq p) s = .next t ∧ t = { s with regs := t.regs, eth := { s.eth with gcl := t.eth.gcl } } ∧
          t.gclOf p = { s.gclOf p with chg := some (at', cyc, s.fget (Reg.ethGclCtl p) Reg.ethGclCtl_LEN_M1 + 1) } ∧
          base ≤ at' ∧ (at' - base) % cyc = 0 ∧ s.now.toNat ≤ at' ∧ (base < at' → at' < s.now.toNat + cyc) ∧
          t.fget (Reg.ethStatus p) Reg.ethStatus_GCL_PENDING = 1 ∧ t.fget (Reg.ethGclCtl p) Reg.ethGclCtl_CHANGE = 1)) ∧
      (s.grants rq (Reg.ethMsecInstall p) →
        let key (o : Nat) := (SMap.get 0 s.eth.keys o).toNat
        let salt1 := SMap.get 0 s.eth.keys (Reg.ethMsecSalt1 p)
        let pn := (s.rd (Reg.ethMsecPn p)).toNat
        (∃ t, exec (.install rq p) s = .next t ∧ t = { s with eth := { s.eth with sas := t.eth.sas, keys := t.eth.keys } } ∧
          t.sa (s.saSel p) =
            { valid := true, sci := (s.rd (Reg.ethMsecSci p)).toNat, pn := pn, next := pn, ssci := bits salt1 32 32
              key := key (Reg.ethMsecKey p 0) + 2 ^ 64 * key (Reg.ethMsecKey p 1) + 2 ^ 128 * key (Reg.ethMsecKey p 2) + 2 ^ 192 * key (Reg.ethMsecKey p 3)
              salt := key (Reg.ethMsecSalt0 p) + 2 ^ 64 * bits salt1 0 32 } ∧
          (∀ j < 4, SMap.get 0 t.eth.keys (Reg.ethMsecKey p j) = 0) ∧ (∀ j, j ≠ s.saSel p → t.sa j = s.sa j)) ∧
        exec (.retire rq p) s = .next (s.setSa (s.saSel p) MsecSa.empty))

/-- R294 to R302: no frame is received on a MAC that is down; one with an FEC or FCS error, or whose length is out of range, is discarded. On a MAC whose
MACsec is disabled a gPTP frame goes to the time block; a frame that no entry identifies is counted; one over its contract is policed; an admitted one
is counted and, for a ring with room, waits there in timestamp order. A ring's first waiting record becomes visible: PROD advances past it and its
doorbell latches. A recovery function that has passed nothing for RESET_US resets. -/
def Obligations.FrameReception : Prop :=
  (∀ (s : State) (f : FrameIn),
    let cnt := Reg.ethMacRxcnt f.p f.m
    let n := f.data.length + 4
    let discard := s.fsat cnt Reg.ethMacRxcnt_RX_DISCARD 1
    let up : Prop := s.receives = true ∧ s.macUp f.p f.m = true
    (¬ up → exec (.frameReceive f) s = .next s) ∧
    (up → f.fecBad = true → exec (.frameReceive f) s = .next (discard.raise (0x1C2 + f.p.val))) ∧
    (up → f.fecBad = false → f.fcsBad = true ∨ n < 64 ∨ s.maxFrame f.p < n → exec (.frameReceive f) s = .next discard) ∧
    (up → f.fecBad = false → f.fcsBad = false → 64 ≤ n → n ≤ s.maxFrame f.p → be f.data 12 2 ≠ 0x8808 →
      (s.fget (Reg.ethMsecCtl f.p) Reg.ethMsecCtl_RX_STRICT).testBit f.m = false →
      let u := s.fadd cnt Reg.ethMacRxcnt_RX_FRAMES 1
      let h := parseFrame f.data
      let ts := s.stampAt f.age
      (h.etype = 0x88F7 → exec (.frameReceive f) s = .next
        (u.modEth fun e => { e with gptp := e.gptp ++ [{ mac := 4 * f.p.val + f.m.val, ts := ts, data := f.data }] })) ∧
      (h.etype ≠ 0x88F7 → u.identify f.p h = none → exec (.frameReceive f) s = .next (u.fsat Reg.admStat Reg.admStat_UNIDENTIFIED 1)) ∧
      (h.etype ≠ 0x88F7 → ∀ k, u.identify f.p h = some k →
        let con := s.rd (Reg.admEntryContract k)
        let dst := s.rd (Reg.admEntryDest k)
        (bits con 0 14 < h.body.length → ∃ t, exec (.frameReceive f) s = .next t ∧ t.eth.rings = s.eth.rings ∧ t.dhp = s.dhp ∧ t.recd = s.recd ∧
          t.fget (Reg.admEntryCnt k) Reg.admEntryCnt_POLICED = min (2 ^ 32 - 1) (s.fget (Reg.admEntryCnt k) Reg.admEntryCnt_POLICED + 1) ∧
          t.fget (Reg.admEntryCnt k) Reg.admEntryCnt_ADMITTED = s.fget (Reg.admEntryCnt k) Reg.admEntryCnt_ADMITTED) ∧
        ((s.police k h.body.length ts.count).1 = true → bits dst 2 2 = 0 → bit dst 10 = false → bit dst 11 = false →
          let ix := bits dst 4 6
          let g := s.ring ix
          let used := (g.wait.map fun x => recordBytes x.data.length).sum
          ∃ t, exec (.frameReceive f) s = .next t ∧ t.detected = s.detected ∧ t.mem = s.mem ∧
            t.fget (Reg.admEntryCnt k) Reg.admEntryCnt_ADMITTED = (s.fget (Reg.admEntryCnt k) Reg.admEntryCnt_ADMITTED + 1) % 2 ^ 32 ∧
            (s.ringValid ix = true →
              used + recordBytes h.body.length < s.ringSize ix - ringDist (s.ringSize ix) (s.cons ix) (s.prod ix) →
              t.ring ix = { g with wait := insertRec { ts := ts, last := s.now.toNat, entry := k, seq := h.rseq.getD 0, data := h.body,
                                                       src := 4 * f.p.val + f.m.val + 8 * b2n f.preempted + 32 * b2n h.rseq.isSome + 64 * bits dst 0 2 } g.wait })))))
  ∧
  (∀ (s : State) (ring : Fin 128), let ix := ring.val
    ((s.ring ix).wait = [] → exec (.ringDescriptorVisible ring) s = .next s) ∧
    (s.tagFree iETH.val = false → exec (.ringDescriptorVisible ring) s = .next s) ∧
    ∀ x rest, (s.ring ix).wait = x :: rest → s.tagFree iETH.val = true →
      let n := s.ringSize ix
      let prod := s.prod ix
      let d := padTo 64 x.data
      let u := (List.range (d.length / 64)).foldl (fun u i => u.devWrite iETH (s.ringBase ix + (prod + 64 + 64 * i) % n) ((d.drop (64 * i)).take 64)) s
      let z := u.devWrite iETH (s.ringBase ix + prod) (ringDesc x (s.ring ix).rseq ((prod + 64) % n) (!(s.ring ix).flip))
      let next := (prod + recordBytes x.data.length) % n
      ∃ t, exec (.ringDescriptorVisible ring) s = .next t ∧ t.mem = z.mem ∧ t.prod ix = next % 2 ^ (prodFld ix).len ∧
        t.ring ix = { rseq := ((s.ring ix).rseq + 1) % 2 ^ 32, flip := (s.ring ix).flip ^^ decide (next < prod), wait := rest } ∧
        (∀ own bell, z.ringBell ix = some (own, bell) → ∀ k, own < 16 → k / 3 = own → bell < 64 → (t.copy k).latch (64 + bell) = true) ∧
        (x.src / 64 = 0 → x.last + 1500 < z.now.toNat → ∃ e ∈ t.detected, e.src = 0x1C7)) ∧
  ∀ (s : State) (f : Fin 512), let c := s.cbFn f
    let due : Prop := c.taken = true ∧ c.last + 1000 * s.fget (Reg.admCbfCfg f) Reg.admCbfCfg_RESET_US ≤ s.now.toNat
    (¬ due → exec (.cbSeqRecovery f) s = .next s) ∧
    (due → ∃ t, exec (.cbSeqRecovery f) s = .next t ∧ t.cbFn f = { c with taken := false, seq := 0, hist := 0 } ∧
      (∀ j, j ≠ f.val → t.cbFn j = s.cbFn j) ∧
      t.fget (Reg.admCbfStat f) Reg.admCbfStat_RESETS = min 0xFFFF (s.fget (Reg.admCbfStat f) Reg.admCbfStat_RESETS + 1) ∧
      t.detected.map (·.src) = s.detected.map (·.src) ++ [0x1C9])

/-- R294, R311 to R313, R316, R360: a link that falls raises its port's source and ends verified preemption; one that the port's mode provides and the
image enables comes up with its lanes; a verification sets or clears preemption. The gate list in force moves to the entry of the present time, and a
due configuration change makes the administrative bank operational. A queue transmits only while its MAC is up, it has a frame, its gate is open long
enough, and no higher class of the MAC is open with one: a host-protocol response first, else the frame of the descriptor at HEAD, which a standby
withholds; HEAD advances. -/
def Obligations.LinksGatesAndTransmission : Prop :=
  (∀ (s : State) (p : Fin 2) (m : Fin 4) (lanes : BitVec 4) (ok : Bool),
    let r := Reg.ethStatus p
    let st := s.rd r
    let mine := lanesOf (s.portMode p) m
    let en : Prop := m.val < macsOf (s.portMode p) ∧ (s.fget (Reg.ethCfg p) Reg.ethCfg_MAC_EN).testBit m = true
    (bit st (4 + m) = false → exec (.linkDown p m lanes) s = .next s) ∧
    (bit st (4 + m) = true → exec (.linkDown p m lanes) s = .next ((s.wr r (setBits (setBits (setBits st (4 + m) 1 0) (8 + m) 1 0) 0 4
      ((bits st 0 4 &&& (15 - mine)) ||| (lanes.toNat &&& mine)))).raise (0x1C0 + p.val))) ∧
    (let comes : Prop := en ∧ s.fget (Reg.clkPll (6 + p)) Reg.clkPll_STOPPED = 0 ∧ 6 ≤ s.fget Reg.sysBootStat Reg.sysBootStat_STEP
     (¬ comes → exec (.linkUp p m) s = .next s) ∧
     (comes → exec (.linkUp p m) s = .next (s.wr r (setBits (setBits st (4 + m) 1 1) 0 4 (bits st 0 4 ||| mine))))) ∧
    (let asks : Prop := (s.fget (Reg.ethCfg p) Reg.ethCfg_PREEMPT_EN).testBit m = true ∧ (s.fget (Reg.ethCfg p) Reg.ethCfg_VERIFY_EN).testBit m = true ∧
       s.macUp p m = true
     (¬ asks → exec (.preemptVerify p m ok) s = .next s) ∧
     (asks → exec (.preemptVerify p m ok) s = .next (s.wr r (setBits st (8 + m) 1 (if ok then 1 else 0)))))) ∧
  (∀ (s : State) (p : Fin 2), let g := s.gclOf p
    (s.gclOn p = false → exec (.gclEntryAdvance p) s = .next s) ∧
    (s.gclOn p = true → exec (.gclEntryAdvance p) s = .next (s.setGcl p { g with entry := (s.gclSegs p).length - (s.gclRest p).length })) ∧
    (g.chg = none → exec (.gclConfigChange p) s = .next s) ∧
    ∀ at' cyc len, g.chg = some (at', cyc, len) →
      (s.now.toNat < at' → exec (.gclConfigChange p) s = .next s) ∧
      (at' ≤ s.now.toNat → ∃ t, exec (.gclConfigChange p) s = .next t ∧ t = { s with regs := t.regs, eth := { s.eth with gcl := t.eth.gcl } } ∧
        t.gclOf p = { base := at', cycle := cyc, len := len, entry := 0, chg := none } ∧
        t.fget (Reg.ethStatus p) Reg.ethStatus_OPER_BANK = 1 - s.fget (Reg.ethStatus p) Reg.ethStatus_OPER_BANK ∧
        t.fget (Reg.ethStatus p) Reg.ethStatus_GCL_PENDING = 0 ∧ t.fget (Reg.ethGclCtl p) Reg.ethGclCtl_CHANGE = 0)) ∧
  ∀ (s : State) (p : Fin 2) (q : Fin 32) (fragments : Bool),
    let m := q.val / 8
    let head := s.fget (Reg.ethTxqHead p q) Reg.ethTxqHead_HEAD
    let size := s.fget (Reg.ethTxqCfg p q) Reg.ethTxqCfg_ENTRIES
    let may : Prop := s.receives = true ∧ s.macUp p m = true ∧ s.txReady p q = true ∧ s.gateOpen p q = true ∧ s.fitsGate p q (s.txLen p q) = true ∧
      ∀ k < 8, q.val % 8 < k → ¬ (s.txReady p (8 * m + k) = true ∧ s.gateOpen p (8 * m + k) = true)
    let cut : Bool := fragments && s.preemptable p q
    let out (u t : State) (d : List Byte) : Prop := t.eth.sent = u.eth.sent ++ [{ mac := 4 * p + m, data := d, ts := s.stampAt 0 }] ∧
      t.fget (Reg.ethMacTxcnt p m) Reg.ethMacTxcnt_TX_FRAMES = (u.fget (Reg.ethMacTxcnt p m) Reg.ethMacTxcnt_TX_FRAMES + 1) % 2 ^ 32 ∧
      t.fget (Reg.ethTxqHead p q) Reg.ethTxqHead_HEAD = (head + 1) % size
    let i : Instr := .frameTransmit p q fragments
    (¬ may → exec i s = .next s) ∧
    (may → ∀ d, s.respHead p q = some d → ∃ t, exec i s = .next t ∧ t = { s with regs := t.regs, eth := { s.eth with sent := t.eth.sent }, dhp := t.dhp } ∧
      out s t d ∧ t.dhp.txq.length + 1 = s.dhp.txq.length ∧
      t.dhp.resetResp = s.dhp.resetResp.bind (fun x => if x.1 = p ∧ x.2.1 = q then (if x.2.2 ≤ 1 then none else some (x.1, x.2.1, x.2.2 - 1)) else some x) ∧
      t.fget (Reg.ethMacTxcnt p m) Reg.ethMacTxcnt_PREEMPTED = min 0xFFFF (s.fget (Reg.ethMacTxcnt p m) Reg.ethMacTxcnt_PREEMPTED + b2n cut)) ∧
    (may → s.respHead p q = none → s.tagFree iETH.val = false → exec i s = .next s) ∧
    (may → s.respHead p q = none → s.tagFree iETH.val = true →
      let pa := s.fget (Reg.ethTxqBase p q) Reg.ethTxqBase_BASE * 32 + 32 * head
      ∀ w u, s.devRead iETH pa 32 = (some w, u) →
        let addr := leNat w % 2 ^ 64
        let len := leNat w / 2 ^ 64 % 2 ^ 16
        let fl := leNat w / 2 ^ 80 % 2 ^ 8
        (bit (s.rd Reg.twinQmode) (32 * p + q) = false → u.role = 2 ∨ u.role = 3 → ∃ t, exec i s = .next t ∧ t.eth.sent = u.eth.sent ∧
          t.mem = (u.devWrite iETH (pa + 10) (toLe 1 (fl ||| 8) ++ toLe 1 3)).mem) ∧
        (u.role ≠ 2 → u.role ≠ 3 → addr < 2 ^ 44 → fl < 2 → 60 ≤ len → len + 4 ≤ u.maxFrame p → ∀ d z, u.devRead iETH addr len = (some d, z) →
          let d' := if fl = 1 then rtagInsert d (leNat w / 2 ^ 96 % 2 ^ 16) else d
          ∃ t, exec i s = .next t ∧ t.eth.sent = z.eth.sent ++ [{ mac := 4 * p + m, data := d', ts := z.stampAt 0 }] ∧
            t.mem = ((z.sendFrame p q d' (fragments && z.preemptable p q)).devWrite iETH (pa + 10) (toLe 1 (fl ||| 8) ++ toLe 1 0)).mem))

/-! ### The host protocol (11) -/

/-- R43, R316 to R318, R320 to R326: the engine stands while it does not run, it has no tag or its head names another command. A request outside a session
answers UNKNOWN_SESSION or fails its tag; in a session, another epoch is discarded, a failed tag is counted and raised, a repeated number gets the
response that is held, an old one STALE, a seventeenth BUSY; a command without its right answers DENIED and one out of its states STATE_CONFLICT. An
opening PING under its host key opens the session under the next epoch and its keys; another is a failed tag. A response carries the header and its
tag, is held, and joins the response queue of its MAC. -/
def Obligations.HostRequestChecks : Prop :=
  (∀ s : State, ∀ x ∈ dhpRows, let i := x.2
    (s.engineRuns = false ∨ s.tagFree iDHP.val = false → exec i s = .next s) ∧
    (∀ m, Asked s m → m.cmd ≠ x.1 → exec i s = .next s) ∧
    ∀ m, Asked s m → m.cmd = x.1 →
      let u := s.dropReq m.q
      let none' (st : Nat) : State := u.respond m m.epoch st [] none none
      (¬ (m.cmd = 1 ∧ m.opens = true) →
        (m.sess = 0 → m.tag ≠ 0 → exec i s = .next u.authFail) ∧
        (8 < m.sess ∨ m.sess ≠ 0 ∧ s.sess (m.sess - 1) = none → exec i s = .next (none' 7)) ∧
        (m.sess ≠ 0 → m.sess ≤ 8 → ∀ x, s.sess (m.sess - 1) = some x →
          let k := m.sess - 1
          let v := u.setSess k (some { x with last := s.now.toNat })
          let high := s.fget (Reg.dhpKey k) Reg.dhpKey_HIGH_SEQ
          (m.epoch ≠ s.fget (Reg.dhpKey k) Reg.dhpKey_EPOCH → exec i s = .next (u.fsat Reg.dhpStat Reg.dhpStat_EPOCH_DISCARD 1)) ∧
          (m.epoch = s.fget (Reg.dhpKey k) Reg.dhpKey_EPOCH → m.verifies x.key = false → exec i s = .next u.authFail) ∧
          (InSession s m k x → ∀ e, x.held.find? (fun e => decide (e.1 = m.seq)) = some e → exec i s = .next (v.dhpSend m.q e.2)) ∧
          (InSession s m k x → (∀ e ∈ x.held, e.1 ≠ m.seq) → seqNewer m.seq high = false →
            exec i s = .next (v.respond m m.epoch 0xB [] (some x.key) none)) ∧
          (InSession s m k x → (∀ e ∈ x.held, e.1 ≠ m.seq) → seqNewer m.seq high = true → 16 ≤ s.fget (Reg.dhpKey k) Reg.dhpKey_OUTSTANDING →
            exec i s = .next ((s.taken m k x).respond m m.epoch 9 [] (some x.key) (some k)))) ∧
        ∀ k u, Heard s m k u → (¬ u.mayAsk m k → exec i s = .next (u.reply m k 8 [])) ∧
          (u.mayAsk m k → cmdLegal m.cmd u.opstate = false → exec i s = .next (u.reply m k 4 (toBe 1 u.opstate)))) ∧
      (m.cmd = 1 → m.opens = true →
        let k := m.sess - 1
        let host := SMap.get 0 s.dhp.keys k
        let good : Prop := 1 ≤ m.sess ∧ m.sess ≤ 8 ∧ s.fget (Reg.dhpKey k) Reg.dhpKey_VALID = 1 ∧ m.verifies host = true ∧ m.epoch = 0 ∧ m.pay.length = 16
        (¬ good → exec i s = .next u.authFail) ∧
        (good → s.sess k = none → ∃ a b : Word, let nd := toBe 8 a.toNat ++ toBe 8 b.toNat
          let key := deriveKey host m.pay nd 1 * 2 ^ 128 + deriveKey host m.pay nd 2
          let z := (u.fresh.2.fresh.2.fadd (Reg.dhpKey k) Reg.dhpKey_EPOCH 1).setSess k (some { key := key, held := [], count := 0, last := s.now.toNat })
          let z := (z.fset (Reg.dhpKey k) Reg.dhpKey_OPEN 1).fset (Reg.dhpKey k) Reg.dhpKey_HIGH_SEQ m.seq
          exec i s = .next (z.respond m (z.fget (Reg.dhpKey k) Reg.dhpKey_EPOCH) 0 nd (some host) (some k))))) ∧
  (∀ s : State, let u := (s.fsat Reg.dhpStat Reg.dhpStat_AUTH_FAIL 1).raise 0x1CA
    s.authFail = u) ∧
  ∀ (s : State) (m : DhpMsg) (e st : Nat) (pay : List Byte) (key keep : Option Nat),
    let hdr := toBe 1 1 ++ toBe 1 (1 + 2 * b2n m.opens) ++ toBe 1 m.cmd ++ toBe 1 st ++ toBe 2 m.sess ++ toBe 2 e ++ toBe 4 m.seq ++ toBe 2 pay.length ++ toBe 2 0
    let d := hdr ++ toBe 16 (match key with | some k => cmac k (hdr ++ pay) | none => 0) ++ pay
    let u := match keep with | some k => s.hold k m.seq d | none => s
    let p := m.q.mac / 4
    let q := 8 * (m.q.mac % 4) + u.fget Reg.dhpCfg Reg.dhpCfg_TC
    let n := u.fget (Reg.ethTxqCfg p q) Reg.ethTxqCfg_ENTRIES
    let tail := u.fget (Reg.ethTxqTail p q) Reg.ethTxqTail_TAIL
    let room : Prop := n ≠ 0 ∧ (tail + 1) % n ≠ u.fget (Reg.ethTxqHead p q) Reg.ethTxqHead_HEAD
    let t := s.respond m e st pay key keep
    (¬ room → t = u.fsat Reg.dhpStat Reg.dhpStat_TX_DROPS 1) ∧
    (room → m.q.udp = none → ∃ f pad, t.dhp.txq = u.dhp.txq ++ [(p, q, f)] ∧ 60 ≤ f.length ∧
      f = toBe 6 m.q.src ++ toBe 6 (u.fget Reg.dhpAddr Reg.dhpAddr_MAC / 8 * 8 + m.q.mac) ++
        (match m.q.ctag with | some c => toBe 2 0x8100 ++ toBe 2 c | none => []) ++ toBe 2 0x88B5 ++ d ++ List.replicate pad 0) ∧
    (∀ k x, keep = some k → s.sess k = some x → ∃ y, t.sess k = some y ∧ y.key = x.key ∧ y.held = (x.held ++ [(m.seq, d)]).drop (x.held.length - 15))

/-- R19, R22, R320, R326, R327, R339, R340, R400 to R402: what each command does and answers once its request passes the checks, the machine being `u`
then: PING echoes, GET_STATE and TIME_QUERY report, ADMIT and WITHDRAW request an entry, the recorder's commands trigger, read and release it,
ENTER_MAINT stops everything, IMAGE_WRITE and CODE_WRITE buffer their data, RESET_REQ asks for the reset that RESET_REQ_RESET brings once its own
response has left, HANDOVER hands over after its response. A payload of the wrong form answers BAD_PAYLOAD. The age before a triad release that
GET_STATE reports is the model's free value (log entry 106). -/
def Obligations.HostCommands : Prop :=
  (∀ (s : State) (m : DhpMsg) (k : Option Nat) (u : State), Passed s m k u →
    let does (c : Nat) (i : Instr) (t : State) : Prop := m.cmd = c → exec i s = .next t
    let bad (c : Nat) (i : Instr) : Prop := does c i (u.reply m k 6 [])
    let p := m.pay
    does 0x01 .ping (u.reply m k 0 p) ∧
    (p ≠ [] → bad 0x02 .getState ∧ bad 0x03 .timeQuery ∧ bad 0x30 .recFreeze ∧ bad 0x32 .recRelease ∧ bad 0x40 .enterMaint ∧ bad 0x43 .resetReq ∧
      bad 0x44 .handoverCommand) ∧
    (p = [] →
      (let head := toBe 1 u.opstate ++ toBe 1 u.lcNow ++ toBe 1 u.role ++ toBe 1 (u.fget Reg.fcruStatus Reg.fcruStatus_SAFE_ASSERTED) ++
         toBe 8 (u.rd Reg.fcruFirst).toNat
       (∀ r, u.boot.release = some r → does 0x02 .getState (u.reply m k 0 (head ++ toBe 8 (u.now - BitVec.ofNat 64 r).toNat))) ∧
       (u.boot.release = none → m.cmd = 0x02 → ∃ x : Word, exec .getState s = .next (u.fresh.2.reply m k 0 (head ++ toBe 8 x.toNat)))) ∧
      does 0x03 .timeQuery (u.reply m k 0 (toBe 12 (Config.stampWire m.q.ts.sec m.q.ts.ns m.q.ts.q) ++
        toBe 12 (Config.stampWire (u.stampAt 0).sec (u.stampAt 0).ns (u.stampAt 0).q) ++ toBe 4 (bits u.timeStatusNow 0 32))) ∧
      does 0x30 .recFreeze ((u.recTrigger 2 0).reply m k 0 []) ∧
      does 0x32 .recRelease (if u.recState = 3 then u.recRelease.reply m k 0 [] else u.reply m k 0xD []) ∧
      (m.cmd = 0x40 → ∃ v : State, exec .enterMaint s = .next (v.reply m k 0 []) ∧ v.opstate = 7 ∧ v.fget Reg.fcruStatus Reg.fcruStatus_SAFE_ASSERTED = 15 ∧
        (∀ t < 16, v.tri t Reg.triStatus_STOPPED = 1) ∧ v.eth.stopped = true ∧ v.nvm.erased = [] ∧ v.nvm.units = [] ∧
        v.rd Reg.nvmProg = 0 ∧ v.rd Reg.nvmCodeProg = 0 ∧ (u.recState = 1 → v.recState = 2 ∨ v.recState = 3)) ∧
      does 0x43 .resetReq (if u.programming then u.reply m k 9 [] else (u.reply m k 0 []).modDhp fun d =>
        if d.resetDue then d else { d with resetDue := true, resetResp := if u.dhp.txq.length < d.txq.length then d.txq.getLast?.map fun x =>
          (x.1, x.2.1, (d.txq.filter fun y => decide (y.1 = x.1 ∧ y.2.1 = x.2.1)).length) else none }) ∧
      does 0x44 .handoverCommand (if u.twinReady then (u.reply m k 0 []).handover else u.reply m k 0xE [])) ∧
    (let n := be p 0 2
     (p.length ≠ 26 ∨ 1024 ≤ n → bad 0x10 .admitFlow) ∧ (p.length ≠ 2 ∨ 1024 ≤ n → bad 0x11 .withdraw) ∧
     let code (v : State) : State := v.reply m k 0 (toBe 1 (v.fget Reg.admReqStatus Reg.admReqStatus_CODE))
     (p.length = 26 → n < 1024 → does 0x10 .admitFlow (code ((((u.wr (Reg.admReqW 0) (BitVec.ofNat 64 (be p 2 8))).wr (Reg.admReqW 1)
       (BitVec.ofNat 64 (be p 10 8))).wr (Reg.admReqW 2) (BitVec.ofNat 64 (be p 18 8))).admRequest 1 n))) ∧
     (p.length = 2 → n < 1024 → does 0x11 .withdraw (code (u.admRequest 2 n)))) ∧
    (let off := be p 0 8
     let len := be p 8 2
     let ok : Prop := p.length = 10 ∧ off % 32 = 0 ∧ len % 32 = 0 ∧ 32 ≤ len ∧ len ≤ 8192
     let total := u.fget Reg.recFrzLen Reg.recFrzLen_PRE_LEN + u.fget Reg.recFrzPost Reg.recFrzPost_POST_LEN
     (¬ ok → bad 0x31 .recRead) ∧ (ok → u.recState ≠ 3 → does 0x31 .recRead (u.reply m k 0xD [])) ∧
     (ok → u.recState = 3 → total ≤ off → bad 0x31 .recRead) ∧
     (ok → u.recState = 3 → off < total → m.cmd = 0x31 → ∃ (v : State) (d : List Byte), exec .recRead s = .next (v.reply m k 0 (toBe 8 off ++ toBe 2 (min len (total - off)) ++ d)) ∧
       d.length = min len (total - off) / 32 * 32 ∧ v.recState = 3)) ∧
    let off := be p 0 4
    let d := p.drop 4
    let form (g size : Nat) : Prop := 4 ≤ p.length ∧ off % g = 0 ∧ d.length % g = 0 ∧ g ≤ d.length ∧ d.length ≤ 8192 ∧ off + d.length ≤ size
    (¬ form 256 (2 ^ 26) → bad 0x41 .imageWrite) ∧ (¬ form 32 (2 ^ 25) → bad 0x42 .codeWrite) ∧
    (form 256 (2 ^ 26) → does 0x41 .imageWrite (if u.programming then u.reply m k 9 [] else
      ((({ u with nvm := { u.nvm with prog := some (off, d) } }.fset Reg.nvmProg Reg.nvmProg_BUSY 1).fset Reg.nvmStatus Reg.nvmStatus_PINS 2)).reply m k 0 [])) ∧
    (form 32 (2 ^ 25) → does 0x42 .codeWrite (if u.programming then u.reply m k 9 [] else
      ((({ u with nvm := { u.nvm with code := some (off, d) } }.fset Reg.nvmCodeProg Reg.nvmCodeProg_BUSY 1).fset Reg.nvmCodeProg
        Reg.nvmCodeProg_PERMILLE 0)).reply m k 0 []))) ∧
  ∀ s : State, let due : Prop := s.dhp.resetDue = true ∧ s.dhp.resetResp = none
    (¬ due → exec .resetReqReset s = .next s) ∧ (due → exec .resetReqReset s = .next (s.internalReset 4))

/-- R321, R328 to R332, R238: SUBMIT_JOB fails as R328 lists, or gives the lowest free slot to the job, writes its record to the job type's queue,
advances PROD and rings the owner; GET_RESULT, RELEASE_RESULT and GET_PROGRESS answer by the state of the slot that a handle names, and NO_SLOT's
status where it is stale. The owner's DONE makes a PENDING slot READY and frees a CANCELLED one; CONS moves within the entries held; a deadline that
has passed expires a PENDING slot; a session idle for IDLE_MS closes. The STATE of a write's progress is the model's free value (log entry 102). -/
def Obligations.JobsAndSlots : Prop :=
  (∀ (s : State) (m : DhpMsg) (k : Nat) (u : State), Passed s m (some k) u →
    let p := m.pay
    let does (c : Nat) (i : Instr) (t : State) : Prop := m.cmd = c → exec i s = .next t
    let says' (v : State) (st : Nat) (d : List Byte) : State := v.reply m (some k) st d
    (let j := byteAt p 0
     let len := be p 4 4
     let cfg := Reg.dhpJobtCfg j
     let own := u.fget cfg Reg.dhpJobtCfg_OWNER
     let size := max 1 (u.fget cfg Reg.dhpJobtCfg_IN_MAX)
     let depth := max 1 (u.fget cfg Reg.dhpJobtCfg_QDEPTH)
     let ok : Prop := p.length = 8 + len ∧ j < 32 ∧ u.fget cfg Reg.dhpJobtCfg_VALID = 1 ∧ len ≤ 64 * size
     let stopped : Prop := u.tri own Reg.triStatus_STOPPED = 1 ∨ u.tri own Reg.triStatus_DBG_BROKEN = 1
     let held := SMap.get 0 u.dhp.held j
     let fails (st : Nat) : Prop := does 0x20 .submitJob (says' u st [])
     (¬ ok → fails 6) ∧ (ok → stopped → fails 0xF) ∧ (ok → ¬ stopped → u.freeSlot = none → fails 0xA) ∧
     (∀ n, ok → ¬ stopped → u.freeSlot = some n → depth ≤ held → fails 9) ∧
     (∀ n, ok → ¬ stopped → u.freeSlot = some n → held < depth →
       let prod := u.fget (Reg.dhpJobqPtr j) Reg.dhpJobqPtr_PROD
       let deadline := (m.q.ts.count + max 1 (u.fget cfg Reg.dhpJobtCfg_DEADLINE_US) * 1000) % 2 ^ 64
       let flip := SMap.get false u.dhp.flip j
       let x := ((u.wr (Reg.dhpSlotStat n) (setBits (setBits (setBits (setBits (setBits (u.rd (Reg.dhpSlotStat n)) 0 3 1) 13 5 j) 18 3 k) 21 16 0) 37 8 0)).wr
         (Reg.dhpSlotProg n) 0).wr (Reg.dhpSlotDeadline n) (BitVec.ofNat 64 deadline)
       let z := x.devWrite iDHP (u.fget (Reg.dhpJobtQbase j) Reg.dhpJobtQbase_BASE * 64 + prod * (64 + 64 * size))
         (jobRecord (u.slotHandle n) j k len m.q.ts.count deadline (be p 2 2) (!flip) ++ p.drop 8)
       let z := ((z.fset (Reg.dhpJobqPtr j) Reg.dhpJobqPtr_PROD ((prod + 1) % depth)).fadd (Reg.dhpJobqPtr j) Reg.dhpJobqPtr_JOBS 1).modDhp fun d =>
         { d with flip := if (prod + 1) % depth = 0 then SMap.put false d.flip j (!flip) else d.flip, held := SMap.put 0 d.held j (SMap.get 0 d.held j + 1) }
       does 0x20 .submitJob (says' (z.irqTriad own (64 + u.fget cfg Reg.dhpJobtCfg_DOORBELL)) 0 (toBe 2 (u.slotHandle n) ++ toBe 8 deadline)))) ∧
    (let h := be p 0 2
     let n := h / 1024
     let fresh : Prop := u.slotHandle n = h ∧ u.fget (Reg.dhpSlotStat n) Reg.dhpSlotStat_KEY = k
     let st := u.slotState n
     let len := u.fget (Reg.dhpSlotStat n) Reg.dhpSlotStat_LEN
     let off := be p 4 4
     let pr := u.slotProgress n
     (p.length ≠ 10 → does 0x21 .getResult (says' u 6 [])) ∧ (p.length ≠ 2 → does 0x22 .releaseResult (says' u 6 [])) ∧
     (p.length = 10 → ¬ fresh ∨ st = 0 ∨ st = 5 → does 0x21 .getResult (says' u 3 [])) ∧
     (p.length = 10 → fresh → st = 1 → does 0x21 .getResult (says' u 2 (toBe 8 pr.1 ++ toBe 2 pr.2))) ∧
     (p.length = 10 → fresh → st = 4 → does 0x21 .getResult (says' u 0xC [])) ∧
     (p.length = 10 → fresh → st = 2 ∨ st = 3 → len < off → does 0x21 .getResult (says' u 6 [])) ∧
     (p.length = 10 → fresh → st = 2 ∨ st = 3 → off ≤ len → ∀ d z, u.readFree iDHP (u.resultBuf n + off) (min (min (be p 8 2) 8192) (len - off)) = (d, z) →
       let v := if z.slotState n = 2 then z.setSlot n 3 else z
       does 0x21 .getResult (says' v (if st = 2 then 0 else 1)
         (toBe 2 h ++ toBe 1 (v.fget (Reg.dhpSlotStat n) Reg.dhpSlotStat_RSTATUS) ++ toBe 1 0 ++ toBe 4 len ++ toBe 4 off ++ d))) ∧
     (p.length = 2 → ¬ fresh ∨ st = 0 ∨ st = 5 → does 0x22 .releaseResult (says' u 3 [])) ∧
     (p.length = 2 → fresh → st = 1 → does 0x22 .releaseResult (says' (u.setSlot n 5) 0 [])) ∧
     (p.length = 2 → fresh → st = 2 ∨ st = 3 ∨ st = 4 → does 0x22 .releaseResult (says' (u.slotFree n) 0 []))) ∧
    let h := be p 1 2
    let n := h / 1024
    let what := byteAt p 0
    let prog (v : State) (st pos pm : Nat) : State := says' v 0 (toBe 1 st ++ toBe 8 pos ++ toBe 2 pm)
    (p.length ≠ 3 ∨ 3 < what → does 0x23 .getProgress (says' u 6 [])) ∧
    (p.length = 3 → what = 0 → does 0x23 .getProgress
      (if u.slotHandle n = h ∧ u.fget (Reg.dhpSlotStat n) Reg.dhpSlotStat_KEY = k then prog u (u.slotState n) (u.slotProgress n).1 (u.slotProgress n).2
       else says' u 3 [])) ∧
    (p.length = 3 → what = 1 → does 0x23 .getProgress
      (prog u u.recState (u.fget Reg.recUnload Reg.recUnload_UNLOADED) (u.fget Reg.recUnload Reg.recUnload_PERMILLE))) ∧
    (p.length = 3 → what = 2 → m.cmd = 0x23 → ∃ f : Nat, exec .getProgress s = .next
      (prog u.fresh.2 f (u.fget Reg.nvmProg Reg.nvmProg_WRITTEN) (u.fget Reg.nvmProg Reg.nvmProg_PERMILLE))) ∧
    (p.length = 3 → what = 3 → m.cmd = 0x23 → ∃ f : Nat, exec .getProgress s = .next
      (prog u.fresh.2 f (u.fget Reg.nvmCodeProg Reg.nvmCodeProg_WRITTEN) (u.fget Reg.nvmCodeProg Reg.nvmCodeProg_PERMILLE)))) ∧
  (∀ (s : State) (k : Fin 8), let x := s.sess k
    let idle : Prop := ∃ y, x = some y ∧ y.last + max 1 (s.fget Reg.dhpCfg Reg.dhpCfg_IDLE_MS) * 1000000 ≤ s.now.toNat
    (¬ idle → exec (.dhpSessionClose k) s = .next s) ∧
    (idle → ∃ t, exec (.dhpSessionClose k) s = .next t ∧ t.sess k = none ∧ (∀ j, j ≠ k.val → t.sess j = s.sess j) ∧
      t.fget (Reg.dhpKey k) Reg.dhpKey_OPEN = 0 ∧ t.fget (Reg.dhpKey k) Reg.dhpKey_EPOCH = (s.fget (Reg.dhpKey k) Reg.dhpKey_EPOCH + 1) % 2 ^ Reg.dhpKey_EPOCH.len)) ∧
  ∀ (s : State) (n : Fin 64), let st := s.slotState n
    let past : Prop := (s.rd (Reg.dhpSlotDeadline n)).toNat < s.now.toNat
    (¬ past ∨ st ≠ 1 ∧ st ≠ 5 → exec (.jobDeadlineExpire n) s = .next s) ∧
    (past → st = 1 → exec (.jobDeadlineExpire n) s = .next ((s.setSlot n 4).fsat Reg.dhpSlotCnt Reg.dhpSlotCnt_EXPIRED 1)) ∧
    (past → st = 5 → exec (.jobDeadlineExpire n) s = .next (s.slotFree n)) ∧
    ∀ (rq : Rq) (v : Word), s.rows [(.dhpSlotProgWrite rq n v, s.wr (Reg.dhpSlotProg n) ((s.rd (Reg.dhpSlotProg n) &&& ~~~0x7FFFFFFFFFF) ||| (v &&& 0x7FFFFFFFFFF)))] ∧
      (s.grants rq (Reg.dhpSlotDone n) →
        let len := bits v 16 16
        let mine : Prop := rq.init.val = s.slotOwner n ∧ len ≤ 1024 * s.fget Reg.dhpArea Reg.dhpArea_SLOT_KIB
        let late := s.fsat Reg.dhpSlotCnt Reg.dhpSlotCnt_LATE_DONE 1
        let i : Instr := .dhpSlotDone rq n v
        (¬ mine → exec i s = .next late) ∧ (mine → bits v 0 16 ≠ s.slotHandle n → exec i s = .next s) ∧
        (mine → bits v 0 16 = s.slotHandle n →
          (st = 1 → ∃ t, exec i s = .next t ∧ t = { s with regs := t.regs } ∧ t.slotState n = 2 ∧ t.fget (Reg.dhpSlotStat n) Reg.dhpSlotStat_LEN = len ∧
            t.fget (Reg.dhpSlotStat n) Reg.dhpSlotStat_RSTATUS = bits v 32 8 ∧ t.slotHandle n = s.slotHandle n ∧
            ∀ r, r ≠ Reg.dhpSlotStat n → t.rd r = s.rd r) ∧
          (st = 5 → exec i s = .next (s.slotFree n)) ∧ (st ≠ 1 → st ≠ 5 → exec i s = .next late))) ∧
      ∀ (j : Fin 32) (x : BitVec 8), s.grants rq (Reg.dhpJobqPtr j) →
        let depth := s.fget (Reg.dhpJobtCfg j) Reg.dhpJobtCfg_QDEPTH
        let held := SMap.get 0 s.dhp.held j
        let dist := ringDist depth (s.fget (Reg.dhpJobqPtr j) Reg.dhpJobqPtr_CONS) x.toNat
        let taken := if dist = 0 ∧ held = depth then depth else dist
        (x.toNat < depth ∧ taken ≤ held → exec (.dhpJobqConsWrite rq j x) s = .next
          ((s.fset (Reg.dhpJobqPtr j) Reg.dhpJobqPtr_CONS x.toNat).modDhp fun d => { d with held := SMap.put 0 d.held j (held - taken) })) ∧
        (¬ (x.toNat < depth ∧ taken ≤ held) → exec (.dhpJobqConsWrite rq j x) s = .next s)

/-! ### The recorder (11) -/

/-- R43, R334 to R339: once it has a tag, the recorder writes the record at the head of its buffer, header and padded data, at the write position of the
ring or, after a trigger, of the reserve, and the position moves and wraps; a PAD record first fills a block that the record does not fit, a GAP
record tells of dropped frames, and a record that would end beyond the reserve's blocks freezes instead. A trigger while RECORDING fixes the span and
enters POST, or FROZEN where POST is 0; one in POST or FROZEN is counted; a release of a FROZEN span resumes at the start of the next block. The
header bytes of a PAD that no rule gives are free values (log entry 28). -/
def Obligations.RecorderRecords : Prop :=
  (∀ s : State, let st := s.recState
    let off := s.fget Reg.recWptr Reg.recWptr_OFFSET
    let area := if st = 2 then 1 else 0
    let left := 65536 - off % 65536
    let pa := s.fget (Reg.recBase area) Reg.recBase_BASE * 2 ^ 21 + off
    let full (need : Nat) : Prop := st = 2 ∧ 65536 * s.fget Reg.recSpan Reg.recSpan_POST < off + need
    let frozen (x : State) : State := ((x.fset Reg.recStatus Reg.recStatus_STATE 3).fsat Reg.recCnt Reg.recCnt_SKIPPED x.recd.buf.length).modRecd fun r => { r with buf := [] }
    let moved (x : State) (n : Nat) : State := if st = 2 then (x.wr Reg.recWptr (BitVec.ofNat 64 (off + n))).wr Reg.recFrzPost (BitVec.ofNat 64 (off + n))
      else (if off + n = s.recBytes 0 then x.fset Reg.recStatus Reg.recStatus_WRAPPED 1 else x).wr Reg.recWptr (BitVec.ofNat 64 ((off + n) % max 1 (s.recBytes 0)))
    let i : Instr := .recRecordWrite
    (s.recd.buf = [] ∨ st ≠ 1 ∧ st ≠ 2 ∨ s.tagFree iREC.val = false → exec i s = .next s) ∧
    ∀ r rest, s.recd.buf = r :: rest → st = 1 ∨ st = 2 → s.tagFree iREC.val = true →
      let size := recSize r.data.length
      (s.recd.lost = 0 → full (if size ≤ left then size else left + size) → exec i s = .next (frozen s)) ∧
      (s.recd.lost = 0 → size ≤ left → ¬ full size → ∃ dropped : Nat,
        let d := recHeader r.ts.bytes r.src r.data.length r.entry s.recd.rseq r.seq 0 (if st = 2 then 1 else 0) size dropped ++ padTo 32 r.data
        let x := moved (s.fresh.2.devWrite iREC pa d) d.length
        exec i s = .next ((x.fadd Reg.recCnt Reg.recCnt_RECORDS 1).modRecd fun x => { x with rseq := (x.rseq + 1) % 2 ^ 32, buf := x.buf.drop 1 })) ∧
      (s.recd.lost = 0 → left < size → ¬ full (left + size) → ∃ (a : List Byte) (src entry cb rseq dropped : Nat),
        let d := recHeader a src 0 entry rseq cb 1 (if st = 2 then 1 else 0) left dropped ++ List.replicate (left - 32) 0
        a.length = 11 ∧ exec i s = .next ((moved (s.fresh.2.fresh.2.fresh.2.devWrite iREC pa d) d.length).putFrame r)) ∧
      (0 < s.recd.lost → full (if 32 ≤ left then 32 else left + 32) → exec i s = .next (frozen s)) ∧
      (0 < s.recd.lost → ¬ full (if 32 ≤ left then 32 else left + 32) → ∃ z : State,
        exec i s = .next (if z.postFull (z.recNeed size) then frozen z else z.putFrame r) ∧
        z.recd.lost = 0 ∧ (∃ l, z.detected.map (·.src) = l ++ [0x1CB]) ∧ z.recd.rseq = (s.recd.rseq + 1) % 2 ^ 32)) ∧
  ∀ (s : State) (rq : Rq), s.grants rq Reg.recCtl →
    let st := s.recState
    let off := s.fget Reg.recWptr Reg.recWptr_OFFSET
    let n := s.recBytes 0
    let pre := 65536 * s.fget Reg.recSpan Reg.recSpan_PRE
    let start := if s.fget Reg.recStatus Reg.recStatus_WRAPPED = 0 ∧ off < pre then 0 else ringDist n pre off / 65536 * 65536
    (st = 0 → exec (.freeze rq) s = .next s) ∧
    (st = 2 ∨ st = 3 → exec (.freeze rq) s = .next (s.fsat Reg.recCnt2 Reg.recCnt2_IGNORED 1)) ∧
    (st = 1 → ∃ t, exec (.freeze rq) s = .next t ∧ t = { s with regs := t.regs, recd := t.recd } ∧
      t.recState = (if s.fget Reg.recSpan Reg.recSpan_POST = 0 then 3 else 2) ∧ t.fget Reg.recFrz Reg.recFrz_VALID = 1 ∧
      t.fget Reg.recFrz Reg.recFrz_TRIGGER = 4 ∧ t.fget Reg.recFrz Reg.recFrz_TIME_NS = s.now.toNat % 2 ^ 40 ∧
      t.fget Reg.recFrzPos Reg.recFrzPos_FREEZE_OFF = off ∧ t.fget Reg.recFrzSpan Reg.recFrzSpan_SPAN_START = start % 2 ^ 41 ∧
      t.fget Reg.recFrzLen Reg.recFrzLen_PRE_LEN = ringDist n start off % 2 ^ 41 ∧ t.rd Reg.recFrzPost = 0 ∧ t.rd Reg.recUnload = 0 ∧ t.rd Reg.recWptr = 0 ∧
      t.recd.buf = (if s.fget Reg.recSpan Reg.recSpan_POST = 0 then [] else s.recd.buf)) ∧
    (st ≠ 3 → exec (.release rq) s = .next s) ∧
    (st = 3 → ∃ t, exec (.release rq) s = .next t ∧ t = { s with regs := t.regs } ∧ t.recState = 1 ∧ t.fget Reg.recFrz Reg.recFrz_VALID = 0 ∧
      t.rd Reg.recUnload = 0 ∧ t.fget Reg.recStatus Reg.recStatus_WRAPPED = 0 ∧
      t.fget Reg.recWptr Reg.recWptr_OFFSET = (s.fget Reg.recFrzPos Reg.recFrzPos_FREEZE_OFF / 65536 + 1) * 65536 % n % 2 ^ 41)

/-- R340: UNLOADED is 0 at each freeze, whatever triggers it; a REC_READ of a FROZEN span that starts at or below UNLOADED and ends beyond it raises
UNLOADED to its end, any other leaves it; and PERMILLE stays UNLOADED × 1,000 / (PRE_LEN + POST_LEN). -/
def Obligations.RecorderUnloadPosition : Prop :=
  (∀ (s : State) (rq : Rq), s.grants rq Reg.recCtl → s.recState = 1 → ∃ t, exec (.freeze rq) s = .next t ∧
    t.fget Reg.recUnload Reg.recUnload_UNLOADED = 0 ∧ t.fget Reg.recUnload Reg.recUnload_PERMILLE = 0) ∧
  (∀ (s : State) (kind src : Nat), s.recState = 1 → let t := s.recTrigger kind src
    t.recState ≠ 1 ∧ t.fget Reg.recUnload Reg.recUnload_UNLOADED = 0 ∧ t.fget Reg.recUnload Reg.recUnload_PERMILLE = 0) ∧
  ∀ (s : State) (m : DhpMsg) (k : Option Nat) (u : State), Passed s m k u → m.cmd = 0x31 →
    let off := be m.pay 0 8
    let len := be m.pay 8 2
    let total := u.fget Reg.recFrzLen Reg.recFrzLen_PRE_LEN + u.fget Reg.recFrzPost Reg.recFrzPost_POST_LEN
    let n := min len (total - off)
    let old := u.fget Reg.recUnload Reg.recUnload_UNLOADED
    m.pay.length = 10 → off % 32 = 0 → len % 32 = 0 → 32 ≤ len → len ≤ 8192 → u.recState = 3 → off < total →
    ∃ (v : State) (d : List Byte), exec .recRead s = .next (v.reply m k 0 (toBe 8 off ++ toBe 2 n ++ d)) ∧
      let now := v.fget Reg.recUnload Reg.recUnload_UNLOADED
      now = (if off ≤ old ∧ old < off + n then off + n else old) ∧
      (u.fget Reg.recUnload Reg.recUnload_PERMILLE = old * 1000 / total → v.fget Reg.recUnload Reg.recUnload_PERMILLE = now * 1000 / total)

/-! ### The twin (12) -/

/-- R43, R353 to R358, R361, R363: a frame is dropped while the link is not UP, under an older epoch, which is counted, and out of sequence; the frames
that it acknowledges leave the retry window, and a NAK has the rest sent again, unless the device is silent. JOURNAL and BULK are not taken while TWIN
has no tag. One that is taken has its effect: a primary drops the journal entries that a heartbeat acknowledges, a standby applies journal entries and
bulk blocks as initiator TWIN, HANDOVER is a takeover trigger, its acknowledgement retires the device, and CONFIG resolves the roles or shows their
conflict. A failed CRC is counted and answered by a NAK. -/
def Obligations.TwinFramesReceived : Prop :=
  (∀ (s : State) (h : ZHdr) (x : BitVec 32) (es : List JEnt) (pa : BitVec 44) (d : List Byte) (sb same : Bool) (ep : BitVec 16),
    let mine := s.tw Reg.twinStatus_EPOCH
    let up : Prop := s.tw Reg.twinStatus_LINK = 2
    let e := h.epoch.toNat
    let tag : Prop := s.tagFree iTWIN.val = true
    let frames : List Instr := [.heartbeat h x, .handoverFrame h, .handoverAck h, .config h sb ep same]
    let writes : List Instr := [.journal h es, .bulk h pa d]
    let kept := s.twin.unacked.filter fun e => decide (64 ≤ (h.ack.toNat + 4096 - e.1.hdr.fseq.toNat) % 4096)
    let heard (new : Nat) : State :=
      let y := (s.fset Reg.twinStatus Reg.twinStatus_EPOCH new).modTwin fun x => { x with unacked := kept }
      if h.nak && !s.twin.silent then (y.modTwin fun x => { x with unacked := kept.map (fun e => (e.1, e.2 + 1)), sent := x.sent ++ kept.map (·.1) }).fsat
        Reg.twinLinkStat Reg.twinLinkStat_RETX kept.length
      else y
    let took (new : Nat) : State :=
      let y := (heard new).modTwin fun x => { x with rseq := (x.rseq + 1) % 4096 }
      if (h.role.toNat = 2 ∨ h.role.toNat = 3) ∧ s.role = 1 then y else y.fset Reg.twinStatus Reg.twinStatus_PEER_ROLE h.role.toNat
    let inSeq : Prop := h.fseq.toNat = s.twin.rseq
    (¬ tag → ∀ i ∈ writes, exec i s = .next s) ∧
    (∀ i ∈ frames ++ (if s.tagFree iTWIN.val then writes else []), (¬ up → exec i s = .next s) ∧
      (up → e < mine → exec i s = .next (s.fsat Reg.twinLinkStat Reg.twinLinkStat_EPOCH_DISCARD 1)) ∧
      (up → mine ≤ e → ¬ inSeq → exec i s = .next (heard e))) ∧
    (up → mine ≤ e → inSeq →
      let u := took e
      (s.role ≠ 1 → exec (.heartbeat h x) s = .next (u.modTwin fun x => { x with hbLost := false })) ∧
      (s.role ≠ 1 → tag → exec (.journal h es) s = .next ((es.take 7).foldl State.applyEntry u) ∧
        exec (.bulk h pa d) s = .next (u.devWrite iTWIN pa.toNat (d.take 448))) ∧
      (s.role = 1 → (tag → exec (.journal h es) s = .next u ∧ exec (.bulk h pa d) s = .next u) ∧
        ∃ t, exec (.heartbeat h x) s = .next t ∧ t = { u with regs := t.regs, twin := t.twin } ∧ t.twin.hbLost = false ∧
          t.twin.journal = (s.twin.journal.filter fun e => decide ((e.jseq.toNat + 2 ^ 32 - x.toNat - 1) % 2 ^ 32 < 2 ^ 31)) ∧
          t.fget Reg.twinJrnPos Reg.twinJrnPos_APPLIED = x.toNat ∧
          (∀ j, s.twin.bulkEnd = some j → (x.toNat + 2 ^ 32 - j) % 2 ^ 32 < 2 ^ 31 → t.twin.bulkEnd = none ∧
            t.fget Reg.twinBulk Reg.twinBulk_ACTIVE = 0 ∧ t.tw Reg.twinStatus_PEER_ROLE = 2)) ∧
      (let armed : Prop := s.role = 2 ∧ s.tw Reg.twinStatus_ARMED = 1 ∧ s.opstate = opSTANDBY ∧ s.twin.taking = none
       (armed → exec (.handoverFrame h) s = .next (u.modTwin fun x => { x with taking := some true })) ∧ (¬ armed → exec (.handoverFrame h) s = .next u)) ∧
      (s.twin.waitAck = true → exec (.handoverAck h) s = .next ((u.modTwin fun x => { x with waitAck := false }).fset Reg.twinStatus Reg.twinStatus_ROLE 4)) ∧
      (s.twin.waitAck = false → exec (.handoverAck h) s = .next u)) ∧
    (up → mine ≤ e → inSeq →
      let u := (took e).fset Reg.twinStatus Reg.twinStatus_EPOCH (max e ep.toNat)
      let i : Instr := .config h sb ep same
      let conflict (n : Nat) : State := ((u.fset Reg.twinStatus Reg.twinStatus_CONFLICT n).fset Reg.twinStatus Reg.twinStatus_ARMED 0).raise 0x1E4
      let arms (y : State) : State := ((y.fset Reg.twinStatus Reg.twinStatus_PEER_ROLE 1).fset Reg.twinStatus Reg.twinStatus_ARMED 1).fset Reg.twinStatus
        Reg.twinStatus_CONFLICT 0
      let yields : Prop := sb = false ∧ mine < ep.toNat
      (same = false → exec i s = .next (conflict 2)) ∧
      (same = true → yields → exec i s = .next (arms (u.fset Reg.twinStatus Reg.twinStatus_ROLE 2))) ∧
      (same = true → ¬ yields → s.role = 1 → sb = true ∨ mine ≠ 0 → exec i s = .next (u.fset Reg.twinStatus Reg.twinStatus_CONFLICT 0).syncStart) ∧
      (same = true → ¬ yields → s.role = 1 → sb = false → mine = 0 → exec i s = .next (conflict 1)) ∧
      (same = true → ¬ yields → s.role = 2 → exec i s = .next (if sb then conflict 1 else arms u)) ∧
      (same = true → ¬ yields → s.role ≠ 1 → s.role ≠ 2 → exec i s = .next u))) ∧
  ∀ s : State, (s.tw Reg.twinStatus_LINK ≠ 2 → exec .zhegusCrcError s = .next s) ∧
    (s.tw Reg.twinStatus_LINK = 2 → let u := s.fsat Reg.twinLinkStat Reg.twinLinkStat_CRC_ERR 1
      exec .zhegusCrcError s = .next (if s.zRoom then u.zPut true u.heartbeat else u))

/-- R352 to R354, R356 to R358: heartbeats, up to seven journal entries and bulk blocks of at most 448 bytes are sent while the window of 64 has room; a
frame sent takes the next number, acknowledges the last one taken and joins the window. The window is sent again three times, and a fourth failure
takes the link down. Training ends with four or two lanes, or none; a lane that fails leaves two or takes the link down; the sideband toggles while
alive. The CRC of the settings is a free value (log entry 120). R354, R355, R361 to R363: heartbeats lost at a standby raise their source and retrain
the link, the sideband lost raises its own, and both lost, like TWIN_SAFE_IN where enabled, are a takeover trigger, which only an armed standby in
STANDBY heeds. A takeover counts the epoch, acknowledges a hand-over and empties the window, and its completion makes the device PRIMARY in RUN with
its own time source. A hand-over that is not acknowledged retires the device; a standby alone for SOLO_MS takes over at epoch 1. -/
def Obligations.TwinSendingAndTakeover : Prop :=
  ((∀ (s : State) (nak : Bool) (b : ZBody), let t := s.zPut nak b
     let f : ZFrame := { body := b, hdr := { fseq := BitVec.ofNat 12 s.twin.fseq, ack := BitVec.ofNat 12 (s.twin.rseq + 4095), nak := nak,
                                             epoch := BitVec.ofNat 16 (s.tw Reg.twinStatus_EPOCH), role := BitVec.ofNat 3 s.role, op := BitVec.ofNat 3 s.opstate,
                                             safe := BitVec.ofNat 4 (s.fget Reg.fcruStatus Reg.fcruStatus_SAFE_ASSERTED) } }
     t = { s with twin := { s.twin with fseq := (s.twin.fseq + 1) % 4096, unacked := s.twin.unacked ++ [(f, 0)], sent := s.twin.sent ++ [f] } }) ∧
   ∀ s : State,
     let link := s.tw Reg.twinStatus_LINK
     let carries : Prop := link = 2 ∧ s.twin.silent = false
     let room : Prop := carries ∧ s.twin.unacked.length < 64
     let sends (i : Instr) (b : ZBody) (f : State → State) : Prop := exec i s = .next (f (s.zPut false b))
     (room → sends .heartbeatSend (.heartbeat s.time (s.fget Reg.twinJrnPos Reg.twinJrnPos_APPLIED)) id) ∧ (¬ room → exec .heartbeatSend s = .next s) ∧
     (let es := s.unsent.take 7
      (s.role ≠ 1 ∨ ¬ room ∨ es = [] → exec .journalSend s = .next s) ∧
      (s.role = 1 → room → ∀ e, es.getLast? = some e → sends .journalSend (.journal es) fun t => t.fset Reg.twinJrnPos Reg.twinJrnPos_SENT e.jseq.toNat)) ∧
     (s.twin.bulk = none ∨ s.role ≠ 1 ∨ ¬ room ∨ s.tagFree iTWIN.val = false → exec .bulkSend s = .next s) ∧
     (s.role = 1 → room → s.tagFree iTWIN.val = true → ∀ o, s.twin.bulk = some o →
       let ended (x : State) : State := ((x.modTwin fun y => { y with bulk := none, bulkEnd := some y.jseq }).fset Reg.twinBulk Reg.twinBulk_PERMILLE 1000).bulkCheck
       (s.mirrorAt 16 o = none → exec .bulkSend s = .next (ended s)) ∧
       (∀ pa left, s.mirrorAt 16 o = some (pa, left) →
         let n := min 448 left
         let z := (s.bulkRead pa n).2
         let x := ((z.zPut false (.bulk pa (s.bulkRead pa n).1)).modTwin fun y => { y with bulk := some (o + n) }).fset Reg.twinBulk Reg.twinBulk_PERMILLE
           ((o + n) * 1000 / s.mirrorTotal)
         exec .bulkSend s = .next (if s.mirrorTotal ≤ o + n then ended x else x))) ∧
     exec .aliveToggle s = .next (if s.twin.alive then s.modTwin fun x => { x with level := !x.level } else s) ∧
     (let down (y : State) (l : Nat) : State :=
        let x := ((y.fset Reg.twinStatus Reg.twinStatus_LINK l).fset Reg.twinStatus Reg.twinStatus_LANES 0).modTwin fun x =>
          { x with unacked := [], fseq := 0, rseq := 0, lanes := 0 }
        if y.tw Reg.twinStatus_PEER_ROLE = 2 then x.fset Reg.twinStatus Reg.twinStatus_PEER_ROLE 3 else x
      let set (y : State) (l : Nat) : State := (y.modTwin fun x => { x with lanes := l }).fset Reg.twinStatus Reg.twinStatus_LANES (if l = 15 then 4 else if l = 0 then 0 else 2)
      let usable (good : Nat) : Nat := let g := good &&& (15 - s.fget Reg.pncFailedMisc Reg.pncFailedMisc_LANE)
        if g = 15 then 15 else if g &&& 3 = 3 then 3 else if g &&& 12 = 12 then 12 else 0
      (s.twin.unacked = [] ∨ ¬ carries → exec .zhegusRetransmit s = .next s) ∧
      (∀ f n r, s.twin.unacked = (f, n) :: r → carries →
        (n < 3 → exec .zhegusRetransmit s = .next ((s.modTwin fun x => { x with unacked := x.unacked.map (fun e => (e.1, e.2 + 1)),
                                                                                 sent := x.sent ++ x.unacked.map (·.1) }).fsat Reg.twinLinkStat Reg.twinLinkStat_RETX
          s.twin.unacked.length)) ∧
        (3 ≤ n → exec .zhegusRetransmit s = .next (down (s.raise 0x1E1) 1))) ∧
      (∀ lanes : BitVec 4, let l := usable lanes.toNat
        let u := s.fsat Reg.twinLinkStat Reg.twinLinkStat_RETRAINS 1
        let v := set (u.fset Reg.twinStatus Reg.twinStatus_LINK 2) l
        let y := if l = 15 then v else v.raise 0x1E2
        (link ≠ 1 → exec (.linkRetrainDone lanes) s = .next s) ∧
        (link = 1 → l = 0 → exec (.linkRetrainDone lanes) s = .next (set (u.fset Reg.twinStatus Reg.twinStatus_LINK 0) 0)) ∧
        (link = 1 → l ≠ 0 → ∃ crc : Nat, exec (.linkRetrainDone lanes) s = .next
          (y.fresh.2.zSend (.config (s.fget Reg.twinCfg Reg.twinCfg_ROLE) (s.tw Reg.twinStatus_EPOCH) crc)))) ∧
      ∀ lane : Fin 4, let l := usable (if s.twin.lanes = 15 then 15 - 2 ^ lane.val else 0)
        (link ≠ 2 ∨ s.twin.lanes.testBit lane = false → exec (.twinLaneFail lane) s = .next s) ∧
        (link = 2 → s.twin.lanes.testBit lane = true → exec (.twinLaneFail lane) s = .next (if l = 0 then down (s.raise 0x1E2) 0 else set (s.raise 0x1E2) l)))) ∧
  (∀ s : State,
     let armed : Prop := s.role = 2 ∧ s.tw Reg.twinStatus_ARMED = 1 ∧ s.opstate = opSTANDBY ∧ s.twin.taking = none
     let trig (x : State) : State := x.modTwin fun x => { x with taking := some false }
     (let u := s.modTwin fun x => { x with hbLost := true }
      (s.role ≠ 2 → exec .twinHbLoss s = .next u) ∧
      (s.role = 2 → s.twin.sbLost = true → (armed → exec .twinHbLoss s = .next (trig u)) ∧ (¬ armed → exec .twinHbLoss s = .next u)) ∧
      (s.role = 2 → s.twin.sbLost = false → ∃ t, exec .twinHbLoss s = .next t ∧ t = { s with regs := t.regs, twin := t.twin, detected := t.detected } ∧
        t.tw Reg.twinStatus_LINK = 1 ∧ t.twin.unacked = [] ∧ t.twin.lanes = 0 ∧ t.detected.map (·.src) = s.detected.map (·.src) ++ [0x1E0])) ∧
     (let u := (s.fset Reg.twinStatus Reg.twinStatus_ALIVE_IN 0).modTwin fun x => { x with sbLost := true }
      (s.role ≠ 2 → exec .sidebandLoss s = .next u) ∧
      (s.role = 2 → s.twin.hbLost = true → (armed → exec .sidebandLoss s = .next (trig u)) ∧ (¬ armed → exec .sidebandLoss s = .next u)) ∧
      (s.role = 2 → s.twin.hbLost = false → exec .sidebandLoss s = .next (u.raise 0x1E6))) ∧
     exec .twinAliveInToggle s = .next ((s.fset Reg.twinStatus Reg.twinStatus_ALIVE_IN 1).modTwin fun x => { x with sbLost := false }) ∧
     (let en : Prop := s.fget Reg.twinCfg Reg.twinCfg_SAFE_IN_EN = 1
      (en → armed → exec .twinSafeIn s = .next (trig s)) ∧ (¬ en ∨ ¬ armed → exec .twinSafeIn s = .next s)) ∧
     (s.twin.taking = none ∨ s.twin.begun = true → exec .takeover s = .next s) ∧
     (∀ b, s.twin.taking = some b → s.twin.begun = false → let u := s.fset Reg.twinStatus Reg.twinStatus_EPOCH ((s.tw Reg.twinStatus_EPOCH + 1) % 65536)
       exec .takeover s = .next ((if b = true ∧ s.tw Reg.twinStatus_LINK = 2 ∧ s.twin.silent = false then u.zPut false .handoverAck else u).modTwin fun x =>
         { x with begun := true, unacked := [] })) ∧
     (s.twin.taking = none ∨ s.twin.begun = false → exec .takeoverComplete s = .next s) ∧
     (s.twin.taking ≠ none → s.twin.begun = true → ∃ t, exec .takeoverComplete s = .next t ∧
       t = { s with regs := t.regs, copies := t.copies, twin := { s.twin with taking := none, begun := false, bulk := none, bulkEnd := none }, boot := { s.boot with ran := true } } ∧
       t.role = 1 ∧ t.opstate = 3 ∧ (s.boot.ran = false → s.fget Reg.fcruStatus Reg.fcruStatus_WDOG_EXPIRED = 0 → t.fget Reg.fcruStatus Reg.fcruStatus_SAFE_ASSERTED = 0) ∧
       t.fget Reg.timeStatus Reg.timeStatus_GM = 1 ∧
       t.fget Reg.timeCtl Reg.timeCtl_SOURCE = (if s.fget Reg.timeCtl Reg.timeCtl_SOURCE = 6 then s.timeB.image % 2 ^ Reg.timeCtl_SOURCE.len else s.fget Reg.timeCtl Reg.timeCtl_SOURCE) ∧
       ∀ k < 48, ∀ n < 256, (t.copy k).latch n = ((s.copy k).latch n ||
         (decide (n = 64 + s.fget Reg.twinCfg Reg.twinCfg_TAKE_DB) && (s.fget Reg.twinCfg Reg.twinCfg_TAKE_TRIADS).testBit (k / 3)))) ∧
     (s.twin.waitAck = false → exec .handoverAckTimeout s = .next s) ∧
     (s.twin.waitAck = true → exec .handoverAckTimeout s = .next
       ((s.modTwin fun x => { x with waitAck := false, silent := true, alive := false }).fset Reg.twinStatus Reg.twinStatus_ROLE 4)) ∧
     (let alone : Prop := s.role = 2 ∧ s.opstate = opSTANDBY ∧ s.tw Reg.twinStatus_ARMED = 0 ∧ s.fget Reg.twinCfg Reg.twinCfg_SOLO_MS ≠ 0 ∧
        s.tw Reg.twinStatus_LINK ≠ 2 ∧ s.tw Reg.twinStatus_ALIVE_IN = 0 ∧ s.twin.taking = none
      (¬ alone → exec .soloTimeout s = .next s) ∧
      (alone → exec .soloTimeout s = .next ((s.fset Reg.twinStatus Reg.twinStatus_EPOCH 1).modTwin fun x => { x with taking := some false, begun := true }))))

/-! ### Pounce (13) -/

/-- R369 to R371, R375: while the schedule is active an entry that falls due, or is run by hand, or a deferred one tried again, has its slice tried: with
no eligible item it is idle, under a supply or clock out of its window or a resynchronisation of its triad it is deferred, counted once for each due
time, with PNC_DEFER_LIMIT at the limit, and with a slice of its kind in progress it waits; else it is let to run on its item. An entry that falls due
while it still runs counts an overlap. PNC_CTL and the march are writable in MANUFACTURE and RMA alone. R248, R249, R251, R256, R368, R371, R372,
R374: a slice that may run starts its test: the triad check holds its injection, records a hold that answered wrongly and begins the array scan; a
rotation takes its bank; a timed test runs. A completed test goes on to its next item or completes the slice, which is counted, and a failed one is
recorded, marked and raised. A scan overtaken by a resynchronisation, a mode change or a debugger is deferred; one that finds a copy unequal or
uncorrectable acts as the fence would and is recorded. DETAIL's packing is a free value (log entry 129). -/
def Obligations.PounceSlicesAndTests : Prop :=
  (∀ (s : State) (n : Nat), n < 32 →
     let deferred (x : State) (first : Bool) : State :=
       let y := x.setEnt n { x.pncEnt n with phase := .deferred }
       let c := x.fget (Reg.pncEntStat n) Reg.pncEntStat_CONSEC + 1
       let z := y.fsat (Reg.pncEntStat n) Reg.pncEntStat_DEFERS 1
       if first = false then y
       else if max 1 (x.fget Reg.pncSched Reg.pncSched_DEFER_LIMIT) ≤ c then (z.fset (Reg.pncEntStat n) Reg.pncEntStat_CONSEC 0).raise 0x1F1
       else z.fset (Reg.pncEntStat n) Reg.pncEntStat_CONSEC c
     let tried (x : State) (first : Bool) : State :=
       match x.sliceItems n with
       | [] => x.setEnt n { x.pncEnt n with phase := .idle }
       | item :: rest =>
         if x.pncConditions = false ∨ x.entKind n = 0 ∧ x.resyncBusy item = true then deferred x first
         else if x.kindBusy n (x.entKind n) then x.setEnt n { x.pncEnt n with phase := .waiting }
         else
           let y := if x.fget (Reg.pncEnt n) Reg.pncEnt_TARGET = 0xFF then x.setNext (x.entKind n) item else x
           let z := y.fset (Reg.pncEntStat n) Reg.pncEntStat_CONSEC 0
           (z.setEnt n { z.pncEnt n with phase := .granted, item := item, rest := rest }).fset Reg.pncStatus Reg.pncStatus_CUR_ENTRY n
     let e := s.pncEnt n
     let k : Fin 32 := Fin.ofNat 32 n
     let active : Prop := (s.rd Reg.pncT0).toNat ≤ s.now.toNat ∧ s.fget Reg.pncCtl Reg.pncCtl_HALT = 0 ∧ s.fget Reg.sysBootStat Reg.sysBootStat_STEP = 9
     let nent := s.fget Reg.pncSched Reg.pncSched_NENT
     (¬ active ∨ nent ≤ n ∨ s.lastDue n = none → exec (.pounceSliceDue k) s = .next s) ∧
     (active → n < nent → ∀ d, s.lastDue n = some d →
       let u := s.setEnt n { e with seen := d + 1 }
       (d < e.seen → exec (.pounceSliceDue k) s = .next s) ∧
       (e.seen ≤ d → e.phase = .idle ∨ e.phase = .deferred → exec (.pounceSliceDue k) s = .next (tried u true)) ∧
       (e.seen ≤ d → e.phase ≠ .idle → e.phase ≠ .deferred →
         exec (.pounceSliceDue k) s = .next (u.fsat (Reg.pncEntStat n) Reg.pncEntStat_OVERLAPS 1))) ∧
     (e.phase = .deferred → exec (.pounceRetry k) s = .next (tried s false)) ∧ (e.phase ≠ .deferred → exec (.pounceRetry k) s = .next s) ∧
     ∀ rq : Rq,
       let ctl := s.rd Reg.pncCtl
       let lc := s.fget Reg.sysState Reg.sysState_LC
       let may : Prop := lc = 1 ∨ lc = 4
       s.rows [(.pncFailLastClear rq, s.wr Reg.pncFailLast (s.rd Reg.pncFailLast &&& ~~~(BitVec.twoPow 64 21)))] ∧
       (s.grants rq Reg.pncCtl →
         (¬ may → exec (.pncRun rq (BitVec.ofNat 5 n)) s = .next s ∧ (∀ on, exec (.halt rq on) s = .next s) ∧
           (s.fget Reg.pncMtStat Reg.pncMtStat_STATE ≠ 1 → exec (.mtGo rq) s = .next s)) ∧
         (may → let u := s.wr Reg.pncCtl ((ctl &&& ~~~0x1F) ||| BitVec.ofNat 64 n)
           (n < nent → e.phase = .idle ∨ e.phase = .deferred → exec (.pncRun rq (BitVec.ofNat 5 n)) s = .next (tried u true)) ∧
           (nent ≤ n ∨ e.phase ≠ .idle ∧ e.phase ≠ .deferred → exec (.pncRun rq (BitVec.ofNat 5 n)) s = .next u)) ∧
         (may → exec (.halt rq true) s = .next (s.wr Reg.pncCtl (ctl ||| 0x40))) ∧
         (may → ∃ t, exec (.halt rq false) s = .next t ∧ t = { s with regs := t.regs, pnc := { s.pnc with ents := t.pnc.ents } } ∧
           t.rd Reg.pncCtl = ctl &&& ~~~0x40 ∧ (∀ r, r ≠ Reg.pncCtl → t.rd r = s.rd r) ∧
           t.pncEnt n = { e with seen := if bit ctl 6 then max e.seen s.now.toNat else e.seen }) ∧
         (may → s.fget Reg.pncMtStat Reg.pncMtStat_STATE ≠ 1 →
           let base := s.fget Reg.pncMtBase Reg.pncMtBase_BASE * 64
           let len := s.fget Reg.pncMtLen Reg.pncMtLen_LEN
           let legal : Prop := len ≠ 0 ∧ windowOf base = windowOf (base + len * 64 - 1) ∧ (windowOf base = .dram ∨ windowOf base = .stream)
           let u := s.wr Reg.pncCtl ctl
           (¬ legal → exec (.mtGo rq) s = .next (u.wr Reg.pncMtStat 3)) ∧
           (legal → ∀ errs z, (u.wr Reg.pncMtStat 1).mtGranules base 0 len = (errs, z) →
             exec (.mtGo rq) s = .next (z.wr Reg.pncMtStat (BitVec.ofNat 64 (2 + 4 * min (2 ^ 32 - 1) errs))))))) ∧
  (∀ s : State,
     let started (x : State) (n : Nat) : State := (x.setEnt n { x.pncEnt n with phase := .running }).fset Reg.pncStatus Reg.pncStatus_CUR_ENTRY n
     let ends (i : Instr) (n : Nat) (runs : Nat) : Prop := ∃ t, exec i s = .next t ∧ (t.pncEnt n).phase = .idle ∧ (t.pncEnt n).rest = [] ∧
       t.fget (Reg.pncEntStat n) Reg.pncEntStat_RUNS = min (2 ^ Reg.pncEntStat_RUNS.len - 1) (s.fget (Reg.pncEntStat n) Reg.pncEntStat_RUNS + runs)
     let defers (i : Instr) (n : Nat) : Prop := ∃ t, exec i s = .next t ∧ (t.pncEnt n).phase = .deferred ∧
       t.fget (Reg.pncEntStat n) Reg.pncEntStat_DEFERS = min (2 ^ Reg.pncEntStat_DEFERS.len - 1) (s.fget (Reg.pncEntStat n) Reg.pncEntStat_DEFERS + 1) ∧
       t.fget (Reg.pncEntStat n) Reg.pncEntStat_RUNS = s.fget (Reg.pncEntStat n) Reg.pncEntStat_RUNS
     (∀ x ∈ [(Instr.tempTest, 3), (.vmonTest, 4), (.adcTest, 5), (.pll, 6), (.zhegusPrbs, 7)],
       (s.grantedOf x.2 = none → exec x.1 s = .next s) ∧ ∀ n, s.grantedOf x.2 = some n → exec x.1 s = .next (started s n)) ∧
     (∀ (kind : Fin 5) (pass : Bool), let i : Instr := .pounceSliceComplete kind pass
       (s.runningOf (kind.val + 3) = none → exec i s = .next s) ∧
       ∀ n, s.runningOf (kind.val + 3) = some n → (s.pncEnt n).item < kindItems (kind.val + 3) →
         let e := s.pncEnt n
         (∀ m r, e.rest = m :: r → ∃ t, exec i s = .next t ∧ t.pncEnt n = { e with item := m, rest := r } ∧
           (pass = true → t = { s with pnc := t.pnc }) ∧
           (pass = false → t.fget (Reg.pncEntStat n) Reg.pncEntStat_FAILS = min (2 ^ Reg.pncEntStat_FAILS.len - 1) (s.fget (Reg.pncEntStat n) Reg.pncEntStat_FAILS + 1) ∧
             t.fget Reg.pncFailLast Reg.pncFailLast_VALID = 1 ∧ t.fget Reg.pncFailLast Reg.pncFailLast_KIND = s.entKind n % 16 ∧
             t.fget Reg.pncFailLast Reg.pncFailLast_ITEM = e.item % 256 ∧ t.detected.map (·.src) = s.detected.map (·.src) ++
               [if kind.val = 0 then 0x1FC else if kind.val = 4 then 0x1E2 else 0x1F0])) ∧
         (e.rest = [] → ends i n 1)) ∧
     (s.grantedOf 0 = none → ∀ bad, exec (.triadCheck bad) s = .next s) ∧
     (∀ n, s.grantedOf 0 = some n → ∀ bad : Option (BitVec 5), let t := (s.pncEnt n).item
       (s.eligible 0 t = false → ends (.triadCheck bad) n 0) ∧
       (s.eligible 0 t = true → s.resyncBusy t = true ∨ (s.triad t).trans ≠ none → defers (.triadCheck bad) n) ∧
       (s.eligible 0 t = true → s.resyncBusy t = false → (s.triad t).trans = none → ∃ z, exec (.triadCheck bad) s = .next z ∧
         (z.pncEnt n).phase = .running ∧ (z.triad t).holdCopy = ((s.triad t).holdCopy + 1) % 3 ∧
         SMap.get none z.pnc.scans t = some { entry := n, status := z.rd (Reg.triStatus t), resync := z.rd (Reg.triResyncStat t) } ∧
         (bad = none → z.detected = s.detected) ∧
         (bad ≠ none → z.detected.map (·.src) = s.detected.map (·.src) ++ [srcCONFORMER_FAULT t] ∧ z.fget Reg.pncFailLast Reg.pncFailLast_VALID = 1 ∧
           z.fget Reg.pncFailLast Reg.pncFailLast_ITEM = t % 256))) ∧
     (∀ t : Fin 16, let i : Instr := .arrayScanDone t
       (SMap.get none s.pnc.scans t.val = none → exec i s = .next s) ∧
       ∀ sc, SMap.get none s.pnc.scans t.val = some sc → sc.entry < 32 →
         let st := s.rd (Reg.triStatus t.val)
         let u := s.modPnc fun p => { p with scans := SMap.put none p.scans t.val none }
         let lost : Prop := s.resyncBusy t.val = true ∨ (s.triad t.val).trans ≠ none ∨ s.rd (Reg.triResyncStat t.val) ≠ sc.resync ∨
           bits st Reg.triStatus_MODE.lo 2 ≠ bits sc.status Reg.triStatus_MODE.lo 2 ∨
           bits st Reg.triStatus_DBG_BROKEN.lo 1 ≠ bits sc.status Reg.triStatus_DBG_BROKEN.lo 1
         (lost → defers i sc.entry) ∧ (¬ lost → u.scanOutcome t.val = none → ends i sc.entry 1) ∧
         (¬ lost → ∀ v, u.scanOutcome t.val = some v → ∃ d : Nat, exec i s = .next ((v.fresh.2.sliceFail sc.entry t.val d).sliceDone sc.entry))) ∧
     (s.grantedOf 1 = none → exec .ssramBank s = .next s) ∧ (s.grantedOf 2 = none → exec .crownBank s = .next s) ∧
     (∀ n, s.grantedOf 1 = some n → let b := (s.pncEnt n).item
       let may : Prop := s.eligible 1 b = true ∧ (∀ i < 16, s.bankState (b / 16 * 16 + i) = 0) ∧ s.rotPhase false = none
       (¬ may → ends .ssramBank n 0) ∧
       (may → exec .ssramBank s = .next (((((started s n).fset Reg.memRotStat Reg.memRotStat_SS_BANK b).fset Reg.memRotStat Reg.memRotStat_SS_ACTIVE 1).setRotPhase false 0).fset
         Reg.pncStatus Reg.pncStatus_BUSY_SS 1))) ∧
     (∀ n, s.grantedOf 2 = some n → let b := (s.pncEnt n).item
       let may : Prop := s.eligible 2 b = true ∧ s.rotPhase true = none
       (¬ may → ends .crownBank n 0) ∧
       (may → exec .crownBank s = .next (((((started s n).fset Reg.memRotStat Reg.memRotStat_CR_BANK b).fset Reg.memRotStat Reg.memRotStat_CR_ACTIVE 1).setRotPhase true 1).fset
         Reg.pncStatus Reg.pncStatus_BUSY_CR 1))))

/-! ### The Hatbox and resets (14) -/

/-- R19, R266, R282, R325, R341, R347, R376, R381, R383, R385 to R388, R410, R412, R420: a reset of the device leaves the Hatbox, OTP, flash and code
store, after DEVICE_RESET also what only RESET_N clears, and everything else as at reset, in BOOT at start-up step 3. VDD_AON brings up the Hatbox
with PMIC_EN high and no rules; power-good releases the reset with the time restored; a failure of the supplies drops PMIC_EN, logs it and is retried
twice; OFF_MIN_MS passed lets a held wake take effect; RESET_N stores the time and the locked remap entries and resets, and start-up begins again at
its release. -/
def Obligations.HatboxPowerAndResets : Prop :=
  (∀ (s : State) (warm : Bool) (cause : Nat), s.canonical → let t := s.resetMain warm cause
    t.hbx = s.hbx ∧ t.otp = s.otp ∧ t.nvm.flash = s.nvm.flash ∧ t.pending = s.pending ∧ t.copies = State.reset.copies ∧ t.time = State.reset.time ∧
    (∀ a, t.byte a = if s.keepsByte warm a then s.byte a else 0) ∧ (∀ a, windowOf a = .code → s.keepsByte warm a = true) ∧
    ((∀ e ∈ s.hbx.maps, e.1 ≠ Reg.sysState) → t.opstate = 2 ∧ t.lcNow = s.otp.lc % 8 ∧ t.fget Reg.sysState Reg.sysState_RST_CAUSE = cause % 8) ∧
    ∀ r, (∀ e ∈ s.hbx.maps, e.1 ≠ r) → r ≠ Reg.sysState → r ≠ Reg.sysId → r ≠ Reg.ddrZodStat →
      t.rd r = if isHbx r || (warm && keptWarm r) then s.rd r else SMap.get 0 resetRegs r ||| (if warm then s.rd r &&& keptBits r else 0)) ∧
  (∀ s : State,
    let sleep : Prop := s.opstate = 1
    let begins (i : Instr) : Prop := s.canonical → ∃ t, exec i s = .next t ∧ t = { s with regs := t.regs, hbx := { Hatbox.powerUp with pmicEn := true } } ∧ t.opstate = 1 ∧
      (∀ r, isHbx r = true → t.rd r = SMap.get 0 resetRegs r) ∧ ∀ r, isHbx r = false → r ≠ Reg.sysState → t.rd r = s.rd r
    let raised : State := s.modHbx fun h => { h with pmicEn := true, held := false, retry := false, offDone := false }
    let fails (i : Instr) : Prop := ∃ t, exec i s = .next t ∧ t.opstate = 1 ∧ t.hbx.pmicEn = false ∧ t.hbx.pgood = false ∧ t.boot.low = false ∧
      (t.hbx.held = false → t.hs Reg.hbxStatus_PMIC_TRIES = (s.hs Reg.hbxStatus_PMIC_TRIES + 1) % 4 ∧ (s.hs Reg.hbxStatus_PMIC_TRIES < 2 → t.hbx.retry = true)) ∧
      let n := (t.hs Reg.hbxStatus_EV_HEAD + 15) % 16
      t.fget (Reg.hbxEvlog n) Reg.hbxEvlog_VALID = 1 ∧ t.fget (Reg.hbxEvlog n) Reg.hbxEvlog_DECISION = 3 ∧
        t.fget (Reg.hbxEvlog n) Reg.hbxEvlog_RULE = s.hs Reg.hbxStatus_WAKE_RULE
    (s.opstate = 0 → begins .vddAonPowerUp) ∧ (s.opstate ≠ 0 → exec .vddAonPowerUp s = .next s) ∧
    (sleep → begins .vddAonBrownout) ∧ (¬ sleep → exec .vddAonBrownout s = .next s) ∧
    (∃ t, exec .suppliesRemoved s = .next t ∧ t.opstate = 0 ∧ t.hbx = Hatbox.powerUp ∧ t.otp = s.otp ∧ t.nvm.flash = s.nvm.flash ∧ t.pending = s.pending ∧
      t.copies = State.reset.copies ∧ ∀ a, t.byte a = if windowOf a = .code then s.byte a else 0) ∧
    (let waits : Prop := sleep ∧ s.hbx.pmicEn = false ∧ s.hbx.offDone = false
     (¬ waits → exec .offMinExpire s = .next s) ∧ (waits → s.hbx.held = true → exec .offMinExpire s = .next raised) ∧
     (waits → s.hbx.held = false → exec .offMinExpire s = .next (s.modHbx fun h => { h with offDone := true }))) ∧
    (let due : Prop := sleep ∧ s.hbx.retry = true ∧ s.hbx.pmicEn = false
     (due → exec .pmicRetry s = .next raised) ∧ (¬ due → exec .pmicRetry s = .next s)) ∧
    ∀ ticks : Nat,
      (let waits : Prop := sleep ∧ s.hbx.pmicEn = true ∧ s.hbx.pgood = false
       (waits → fails (.pmicTimeout ticks)) ∧ (¬ waits → exec (.pmicTimeout ticks) s = .next s) ∧
       (∀ units, ¬ waits → exec (.pgoodRise ticks units) s = .next s) ∧
       (∀ units, waits → exec (.pgoodRise ticks units) s = .next
         (((((s.resetMain false (s.hs Reg.hbxStatus_WAKE_VALID)).restoreTime ticks).modHbx fun h => { h with pgood := true }).modBoot fun b =>
           { b with low := s.boot.low }).fset Reg.sysBootTime Reg.sysBootTime_PGOOD units.toNat))) ∧
      (let good : Prop := s.hbx.pmicEn = true ∧ s.hbx.pgood = true
       (¬ good → exec (.pgoodFall ticks) s = .next s) ∧
       (good → s.boot.low = true → exec (.pgoodFall ticks) s = .next (s.modHbx fun h => { h with pgood := false })) ∧
       (good → s.boot.low = false → fails (.pgoodFall ticks)) ∧
       (s.hbx.pmicEn = false ∨ s.boot.low = true → exec .resetNAssert s = .next s) ∧
       (s.hbx.pmicEn = true → s.boot.low = false → s.hbx.pgood = false → exec .resetNAssert s = .next (s.modBoot fun b => { b with low := true })) ∧
       (good → s.boot.low = false → exec .resetNAssert s = .next (((s.storeTime.retainRemaps).resetMain false 2).modBoot fun b => { b with low := true }))) ∧
      (let u := s.modBoot fun b => { b with low := false }
       (s.boot.low = false → exec (.resetNRelease ticks) s = .next s) ∧ (s.boot.low = true → sleep → exec (.resetNRelease ticks) s = .next u) ∧
       (s.boot.low = true → ¬ sleep → s.hbx.pgood = false → fails (.resetNRelease ticks)) ∧
       (s.boot.low = true → ¬ sleep → s.hbx.pgood = true → exec (.resetNRelease ticks) s = .next (u.restoreTime ticks)))) ∧
  ∀ (s : State) (ticks : Nat), let t := s.restoreTime ticks
    let ns := ticks * 30517578125 / 1000000
    (s.hbx.stored = none → t = s) ∧
    (∀ x, s.hbx.stored = some x → t = { s with time := DevTime.ofTotal (x.total + ns) x.frac, regs := t.regs } ∧ t.fget Reg.timeStatus Reg.timeStatus_STATE = 4 ∧
      t.fget Reg.timeStatus Reg.timeStatus_ERR_EST_NS = min (2 ^ 24 - 1) (ns * 50 / 1000000 + 31000))

/-- R376 to R379: an input's comparator and its filtered ADC samples are events of the fast and of the slow path. The first rule of the event's input and
path, valid for the present condition, whose condition holds decides: LOG and WAKE write the log, WAKE in SLEEP records the rule and raises PMIC_EN
once OFF_MIN_MS have passed, FREEZE triggers the recorder out of SLEEP. EV_WRAP and RET_UE clear where 1 is written. The median of fewer than five
samples is a free value (log entry 125). -/
def Obligations.HatboxEvents : Prop :=
  (∀ (s : State) (n : Fin 8),
    let r := Reg.hbxInVal n
    let decides (x : State) (path value : Nat) (holds : Word → Bool) (t : State) : Prop :=
      let rules := (List.range 16).filter fun i => let w := x.rd (Reg.hbxRule i)
        bit w 11 && decide (bits w 0 3 = n.val) && decide (bits w 3 1 = path) && (if x.opstate = 1 then bit w 6 else bit w 7) && holds w
      (rules = [] → t = x) ∧
      ∀ i others, rules = i :: others →
        let w := x.rd (Reg.hbxRule i)
        let d := bits w 8 2
        let froze : Prop := bit w 10 = true ∧ x.opstate ≠ 1
        let head := x.hs Reg.hbxStatus_EV_HEAD
        (d ≠ 1 → d ≠ 2 → t = x) ∧
        (d = 1 ∨ d = 2 →
          t.fget (Reg.hbxEvlog head) Reg.hbxEvlog_VALID = 1 ∧ t.fget (Reg.hbxEvlog head) Reg.hbxEvlog_RULE = i ∧ t.fget (Reg.hbxEvlog head) Reg.hbxEvlog_INPUT = n ∧
          t.fget (Reg.hbxEvlog head) Reg.hbxEvlog_PATH = path ∧ t.fget (Reg.hbxEvlog head) Reg.hbxEvlog_DECISION = d ∧
          t.fget (Reg.hbxEvlog head) Reg.hbxEvlog_VALUE = value % 2 ^ 12 ∧ t.hs Reg.hbxStatus_EV_HEAD = (head + 1) % 16 ∧
          (x.fget (Reg.hbxEvlog head) Reg.hbxEvlog_VALID = 1 → t.hs Reg.hbxStatus_EV_WRAP = 1) ∧
          t.hbx.pmicEn = (x.hbx.pmicEn || (decide (d = 2) && decide (x.opstate = 1) && x.hbx.offDone)) ∧
          (d = 2 → x.opstate = 1 → t.hs Reg.hbxStatus_WAKE_RULE = i ∧ t.hs Reg.hbxStatus_WAKE_VALID = 1 ∧ t.hbx.held = !x.hbx.offDone) ∧
          (froze → x.recState = 1 → t.recState = 2 ∨ t.recState = 3) ∧ (¬ froze → t.recState = x.recState) ∧ t.mem = x.mem)
    (∀ (level : Bool) (ticks : Nat), let i : Instr := .hbxLevelChange n level ticks
      let old := s.hbxLevel n
      let sees : Prop := s.opstate ≠ 0 ∧ s.fget (Reg.hbxInCfg n) Reg.hbxInCfg_FAST_EN = 1 ∧ old ≠ level
      let u := (s.wr Reg.hbxStatus (setBits (s.rd Reg.hbxStatus) (Reg.hbxStatus_LEVEL.lo + n) 1 (b2n level))).fset r Reg.hbxInVal_LEVEL (b2n level)
      (¬ sees → exec i s = .next s) ∧
      (sees → ∃ t, exec i s = .next t ∧ decides u 0 (b2n level) (fun w => match bits w 4 2 with
        | 0 => level | 1 => !level | 2 => !old && level | _ => old && !level) t)) ∧
    ∀ (raw : BitVec 12) (ticks : Nat), let i : Instr := .hbxSlowSample n raw ticks
      let cfg := s.rd (Reg.hbxInCfg n)
      let sees : Prop := s.opstate ≠ 0 ∧ bits cfg 19 1 = 1 ∧ s.fget r Reg.hbxInVal_FAILED = 0
      let ch := SMap.get HbxIn.reset s.hbx.ins n
      let raws := (raw.toNat :: ch.raws).take 5
      let prev := if ch.sampled then some (s.fget r Reg.hbxInVal_FILT) else none
      let k := bits cfg 31 4
      let after (x : Nat) : Nat := if k = 0 then 16 * x else ((ch.y : Int) + ((16 * (x : Int) - (ch.y : Int)) / (2 ^ k : Nat))).toNat
      let put (z : State) (x : Nat) : State := ((z.modHbx fun h => { h with ins := SMap.put HbxIn.reset h.ins n { raws := raws, y := after x, sampled := true } }).fset
        r Reg.hbxInVal_RAW raw.toNat).fset r Reg.hbxInVal_FILT (min 4095 ((after x + 8) / 16))
      let slow (x : Nat) (w : Word) : Bool := let f := min 4095 ((after x + 8) / 16)
        let thr := bits w 12 12
        match bits w 4 2 with
        | 0 => decide (thr < f)
        | 1 => decide (f < thr)
        | 2 => decide (thr < f) && !(prev.any fun p => decide (thr < p))
        | _ => decide (f < thr) && !(prev.any fun p => decide (p < thr))
      let sampled (z : State) (x : Nat) : Prop := ∃ t, exec i s = .next t ∧ decides (put z x) 1 (min 4095 ((after x + 8) / 16)) (slow x) t
      (¬ sees → exec i s = .next s) ∧ (sees → bit cfg 30 = false → sampled s raw.toNat) ∧
      (sees → bit cfg 30 = true → raws.length = 5 → sampled s ((raws.foldl (fun l x => insertNat x l) []).getD 2 0)) ∧
      (sees → bit cfg 30 = true → raws.length < 5 → ∃ x < 4096, sampled s.fresh.2 x)) ∧
  ∀ (s : State) (rq : Rq), s.rows [(.evWrapClear rq, s.wr Reg.hbxStatus (s.rd Reg.hbxStatus &&& ~~~(BitVec.twoPow 64 10))),
    (.retUeClear rq, s.wr Reg.hbxRet (s.rd Reg.hbxRet &&& ~~~(BitVec.twoPow 64 6)))]

/-! ### Start-up, release and programming (13, 14) -/

/-- R23, R365 to R367, R388 to R396: each command of start-up acts only at its step in a powered, unhalted BOOT, or SAFE where a reaction has put the
device there (R23). PLL lock leads to step 4; the first self-test isolates failed copies and takes a failed Crown RAM bank out of use; the image is
checked in the order of R393 and the first failing check halts the device with its cause; blocking applies its sections, puts modes, slices and shadow
rules in force and halts with cause 9 where one fails, the registers of the tables holding free values then (log entry 140); DRAM training and the
code-store check end step 6, the second self-test step 7. Frequencies, margins and the digests' functions are free values (log entries 23, 141 and
148). -/
def Obligations.StartUpSteps : Prop :=
  ∀ s : State,
    let fits (n : Nat) : Prop := s.powered = true ∧ (s.opstate = 2 ∨ s.opstate = 5) ∧ s.fget Reg.sysBootStat Reg.sysBootStat_HALT = 0 ∧ s.fget Reg.sysBootStat Reg.sysBootStat_STEP = n
    let stepOf (t : State) : Nat := t.fget Reg.sysBootStat Reg.sysBootStat_STEP
    let halted (x : State) (c : Nat) : State := (x.fset Reg.sysBootStat Reg.sysBootStat_HALT c).fset Reg.nvmStatus Reg.nvmStatus_PINS 0
    let idle (i : Instr) : Prop := exec i s = .next s
    (¬ fits 3 → idle .pllLockDone) ∧
    (fits 3 → ∃ t, exec .pllLockDone s = .next t ∧ t = { s with regs := t.regs, free := t.free } ∧ stepOf t = 4 ∧ t.rd Reg.clkStatus = 0x1FFFFFF ∧
      ∀ n < 10, t.fget (Reg.clkVmon n) Reg.clkVmon_WIN3 = 3 ∧ t.fget (Reg.clkVmon n) Reg.clkVmon_WIN4 = 3) ∧
    (∀ (cs : BitVec 48) (bs : BitVec 16), let i : Instr := .startupPhase1Done cs bs
      let due : Prop := (fits 4 ∨ fits 5) ∧ s.fget Reg.pncStatus Reg.pncStatus_SU1_DONE = 0
      (¬ due → idle i) ∧
      (due → ∃ t, exec i s = .next t ∧ t.fget Reg.pncStatus Reg.pncStatus_SU1_DONE = 1 ∧ t.fget Reg.pncFailedCopies Reg.pncFailedCopies_COPY = cs.toNat ∧
        t.detected = s.detected ∧ t.mem = s.mem ∧ stepOf t = stepOf s ∧
        (cs = 0 → bs = 0 → t.boot = s.boot ∧ t.rd Reg.pncFailLast = s.rd Reg.pncFailLast ∧ t.rd Reg.memCrSpare = s.rd Reg.memCrSpare) ∧
        (cs ≠ 0 → 0x1F0 ∈ t.boot.late) ∧ (bs ≠ 0 → 0x185 ∈ t.boot.late) ∧
        (cs ≠ 0 ∨ bs ≠ 0 → t.fget Reg.pncFailLast Reg.pncFailLast_VALID = 1 ∧ t.fget Reg.pncFailLast Reg.pncFailLast_STARTUP = 1 ∧
          t.fget Reg.pncFailLast Reg.pncFailLast_KIND = 15) ∧
        (∀ b : Fin 16, bs = BitVec.twoPow 16 b → s.fget Reg.memCrSpare Reg.memCrSpare_DEGRADED = 0 →
          t.fget Reg.memCrSpare Reg.memCrSpare_DEGRADED = 1 ∧ t.fget Reg.memCrSpare Reg.memCrSpare_FAILED = b ∧ t.boot.toSafe = s.boot.toSafe ∧
          ∀ k < 15, t.fget Reg.memCrMap (Reg.memCrMap_PHYSk k) = (if s.fget Reg.memCrMap (Reg.memCrMap_PHYSk k) = b ∧ b.val ≠ s.fget Reg.memCrSpare Reg.memCrSpare_SPARE
            then s.fget Reg.memCrSpare Reg.memCrSpare_SPARE else s.fget Reg.memCrMap (Reg.memCrMap_PHYSk k))) ∧
        (∀ a b : Fin 16, a ≠ b → bs = BitVec.twoPow 16 a ||| BitVec.twoPow 16 b → t.boot.toSafe = true ∧ 0x1F0 ∈ t.boot.late))) ∧
    (∀ (sfdp : Bool) (ext : Option (List Byte)) (a b c : BitVec 16), let i : Instr := .imageCheck sfdp ext a b c
      let x := match ext with
        | none => s
        | some d => { s with nvm := { s.nvm with flash := ((List.range d.length).zip d).foldl (fun (m : SMap Byte) (x : Nat × Byte) => SMap.put flashErased m x.1 x.2) s.nvm.flash } }
      let u := ((x.fset Reg.nvmStatus Reg.nvmStatus_PROFILE_OK (b2n sfdp)).fset Reg.nvmTime Reg.nvmTime_READ_US b.toNat).fset Reg.nvmTime Reg.nvmTime_VERIFY_US c.toNat
      let h := u.flashBytes 0 0x600
      let checks := [(2, imgHeaderOk h), (3, u.imgKeyOk h), (4, imgSigOk h), (5, decide (u.otp.minSvn ≤ imgSvn h)), (6, u.imgForUs h), (7, imgTableOk h),
        (8, u.imgDigestsOk h)]
      (¬ fits 4 → idle i) ∧ (fits 4 → sfdp = false → exec i s = .next (halted u 1)) ∧
      (fits 4 → sfdp = true → ∀ e, checks.find? (fun e => !e.2) = some e → exec i s = .next (halted u e.1)) ∧
      (fits 4 → sfdp = true → (∀ e ∈ checks, e.2 = true) → exec i s = .next (((u.modBoot fun b =>
        { b with image := u.flashBytes 0 (imgLen h), pub := imgPub h, commit := imgCommit h }).fset Reg.sysBootTime Reg.sysBootTime_IMAGE a.toNat).fset
          Reg.sysBootStat Reg.sysBootStat_STEP 5))) ∧
    (∀ a b : BitVec 16, let i : Instr := .blocking a b
      let due : Prop := fits 5 ∧ s.fget Reg.pncStatus Reg.pncStatus_SU1_DONE = 1
      (¬ due → idle i) ∧ (due → s.imgSections s.boot.image = none → exec i s = .next (halted s.unspecTables 9)) ∧
      (due → ∀ z, s.imgSections s.boot.image = some z → z.hbx.remaps = [] → ∃ t, exec i s = .next t ∧ stepOf t = 6 ∧ t.boot.late = [] ∧
        (∀ src ∈ z.boot.late, ∃ d ∈ t.detected, d.src = src) ∧ t.fget Reg.nvmStatus Reg.nvmStatus_PINS = 0 ∧ t.hs Reg.hbxStatus_RULES_VALID = 1 ∧
        t.fget Reg.fulStatus Reg.fulStatus_SLICE_ON = 15 ∧
        (∀ g < 27, ∀ k < 32, ∀ r ∈ [Reg.gateRuleBase g k, Reg.gateRuleLimit g k, Reg.gateRuleMask g k], SMap.get 0 t.shadow r = z.rd r ∧ t.rd r = z.rd r) ∧
        (∀ g < 16, t.fget (Reg.triStatus g) Reg.triStatus_MODE =
            (if z.tri g Reg.triStatus_DBG_BROKEN = 1 then 3 else z.fget (Reg.triModeAllow g) Reg.triModeAllow_BOOT_MODE) ∧
          t.fget (Reg.triStatus g) Reg.triStatus_LIVE = if z.fget (Reg.triModeAllow g) Reg.triModeAllow_BOOT_MODE = 1 then 3 else 7) ∧
        (∀ c < 8, t.cxState c = if z.cxBound c then cxIDLE else cxUNBOUND))) ∧
    (∀ (rej bad : BitVec 16) (us : BitVec 18) (tj : BitVec 8), let i : Instr := .dramTraining rej bad us tj
      let due : Prop := fits 6 ∧ s.fget Reg.ddrTrainStat Reg.ddrTrainStat_DONE = 0
      let usable : Bool := match s.hbx.train with | some t => decide (t.cfg = s.rd Reg.ddrCfg) | none => false
      let full : BitVec 16 := if usable then rej else BitVec.allOnes 16
      let lost := bad &&& full
      let saves := match s.hbx.train with | some t => t.saves | none => 0
      (¬ due → idle i) ∧
      (due → ∃ t, exec i s = .next t ∧ t.rd Reg.ddrTrainStat = BitVec.ofNat 64 (1 + 2 * full.toNat + 2 ^ 17 * lost.toNat + 2 ^ 33 * us.toNat) ∧
        t.fget Reg.ddrStatus Reg.ddrStatus_CH_OK = (~~~lost).toNat ∧ t.fget Reg.ddrStatus Reg.ddrStatus_TRAINED = (if lost = 0 then 1 else 0) ∧
        t.fget Reg.sysBootStat Reg.sysBootStat_TRAIN_FULL = (if full ≠ 0 then 1 else 0) ∧ t.boot.late = s.boot.late ++ (if lost = 0 then [] else [0x1B1]) ∧
        stepOf t = (if s.boot.codeOk then 7 else 6) ∧
        t.hbx.train = (if full = 0 then s.hbx.train else some { cfg := s.rd Reg.ddrCfg, tj := tj.toNat, saves := min 65535 (saves + 1) }) ∧
        ∀ ch < 16, t.fget (Reg.ddrTrainCh ch) Reg.ddrTrainCh_FAST_REJECTED = (if usable ∧ rej.getLsbD ch = true then 1 else 0))) ∧
    (let due : Prop := fits 6 ∧ s.boot.codeOk = false
     let ok : Prop := ∀ e ∈ imgCode (imgSection s.boot.image 16), Config.sha384 (s.codeBytes e.1 e.2.1) = e.2.2
     let u := s.modBoot fun b => { b with codeOk := true }
     (¬ due → idle .codeStoreCheck) ∧ (due → ¬ ok → exec .codeStoreCheck s = .next (halted s.unspecTables 10)) ∧
     (due → ok → exec .codeStoreCheck s = .next (if s.fget Reg.ddrTrainStat Reg.ddrTrainStat_DONE = 1 then u.fset Reg.sysBootStat Reg.sysBootStat_STEP 7 else u))) ∧
    ∀ (conf : BitVec 16) (pll freq : BitVec 11) (vmon : BitVec 20) (temp : BitVec 6) (adc : BitVec 8), let i : Instr := .startupPhase2Done conf pll freq vmon temp adc
      (¬ fits 7 → idle i) ∧
      (fits 7 → ∃ t, exec i s = .next t ∧ stepOf t = 8 ∧ t.fget Reg.pncStatus Reg.pncStatus_SU2_DONE = 1 ∧
        t.fget Reg.pncStatus Reg.pncStatus_SU_PASS = 1 - t.fget Reg.pncFailLast Reg.pncFailLast_VALID ∧
        (conf = 0 → pll = 0 → freq = 0 → vmon = 0 → temp = 0 → adc = 0 → t.detected = s.detected ∧ t.rd Reg.pncFailLast = s.rd Reg.pncFailLast ∧
          t.rd Reg.pncFailedMisc = s.rd Reg.pncFailedMisc) ∧
        (conf ≠ 0 ∨ pll ≠ 0 ∨ freq ≠ 0 ∨ vmon ≠ 0 ∨ temp ≠ 0 ∨ adc ≠ 0 → t.fget Reg.pncFailLast Reg.pncFailLast_VALID = 1 ∧
          t.fget Reg.pncFailLast Reg.pncFailLast_STARTUP = 1) ∧
        (∀ k < 16, (t.triad k).holdCopy = ((s.triad k).holdCopy + 3) % 3) ∧
        (∀ k < 16, conf.getLsbD k = true → ∃ d ∈ t.detected, d.src = srcCONFORMER_FAULT k) ∧
        (∀ k < 11, t.miscFailed Reg.pncFailedMisc_PLL k = (s.miscFailed Reg.pncFailedMisc_PLL k || pll.getLsbD k)) ∧
        (∀ k < 20, t.miscFailed Reg.pncFailedMisc_VMON k = (s.miscFailed Reg.pncFailedMisc_VMON k || vmon.getLsbD k)) ∧
        (∀ k < 6, t.miscFailed Reg.pncFailedMisc_TEMP k = (s.miscFailed Reg.pncFailedMisc_TEMP k || temp.getLsbD k)) ∧
        (∀ k < 8, t.miscFailed Reg.pncFailedMisc_ADC k = (s.miscFailed Reg.pncFailedMisc_ADC k || adc.getLsbD k)))

/-- R23, R30, R55, R81, R83, R126, R162, R325, R366, R388, R397, R399 to R401: at triad release each live copy runs from TRI_START_VA, one that a debugger
holds staying held (R81), failed copies are isolated, and a group with fewer than two live copies is stopped; the device is in STANDBY as a standby,
in SAFE where a reaction has put it there (R23) or after the loss of two Crown RAM banks, else in RUN, and the minimum SVN rises if the image asks for
it. Programming in MAINT erases a sector on its first write and puts the buffered data in the flash or the code store. A BLANK device is provisioned. -/
def Obligations.ReleaseAndProgramming : Prop :=
  (∀ (s : State) (units : BitVec 16), let i : Instr := .triadRelease units
    let due : Prop := s.powered = true ∧ (s.opstate = 2 ∨ s.opstate = 5) ∧ s.fget Reg.sysBootStat Reg.sysBootStat_HALT = 0 ∧ s.fget Reg.sysBootStat Reg.sysBootStat_STEP = 8
    (¬ due → exec i s = .next s) ∧
    (due → ∃ t, exec i s = .next t ∧ t.fget Reg.sysBootStat Reg.sysBootStat_STEP = 9 ∧ t.boot.release = some s.now.toNat ∧ t.twin.alive = decide (s.fget Reg.fcruStatus Reg.fcruStatus_WDOG_EXPIRED = 0) ∧ t.boot.late = [] ∧
      t.fget Reg.sysBootTime Reg.sysBootTime_RELEASED = units.toNat ∧ t.fget Reg.timeStatus Reg.timeStatus_GM = (if s.role < 2 then 1 else 0) ∧
      t.opstate = (if s.opstate = 5 then 5 else if s.role = 2 then 6 else if s.boot.toSafe then 5 else 3) ∧
      t.otp.minSvn = (let svn := s.fget Reg.nvmImg Reg.nvmImg_SVN
        if s.boot.commit = true ∧ s.otp.minSvn < svn then min 64 svn else s.otp.minSvn) ∧
      t.detected.map (·.src) = s.detected.map (·.src) ++ s.boot.late ∧ t.mem = s.mem ∧
      ∀ g < 16, (t.triad g).released = true ∧ (t.triad g).wdogFrom = s.ticks ∧
        (∀ k < 3, t.live g k = (s.live g k && !s.copyFailed g k) ∧ (t.copy (copyIx g k)).pc = BitVec.ofNat 64 (s.fget (Reg.sysTriStart g) Reg.sysTriStart_VA) ∧
          (t.copy (copyIx g k)).status = (if t.live g k then (if (s.copy (copyIx g k)).status = .dbg then .dbg else .run) else .held) ∧
          ∀ e n, (s.pinned g)[n]? = some e → n < 8 → (t.copy (copyIx g k)).tlbAt n = e) ∧
        (s.groupMode g = true → (t.liveCopies g).length < 2 → t.tri g Reg.triStatus_STOPPED = 1))) ∧
  (∀ s : State,
    (s.nvm.prog = none → exec .nvmProgramDone s = .next s) ∧
    (∀ off d, s.nvm.prog = some (off, d) → d ≠ [] → ∃ t, exec .nvmProgramDone s = .next t ∧ t = { s with regs := t.regs, nvm := t.nvm } ∧ t.nvm.prog = none ∧
      t.fget Reg.nvmProg Reg.nvmProg_BUSY = 0 ∧ t.fget Reg.nvmStatus Reg.nvmStatus_PINS = 0 ∧
      t.fget Reg.nvmProg Reg.nvmProg_WRITTEN = min (2 ^ 32 - 1) (s.fget Reg.nvmProg Reg.nvmProg_WRITTEN + d.length) ∧
      (let reached (a : Nat) : Bool := decide (off / 0x10000 ≤ a / 0x10000) && decide (a / 0x10000 ≤ (off + d.length - 1) / 0x10000)
       ∀ a, t.flashByte a = if off ≤ a ∧ a < off + d.length then d.getD (a - off) 0
         else if reached a ∧ a / 0x10000 ∉ s.nvm.erased then 0xFF else s.flashByte a)) ∧
    (s.nvm.code = none → exec .codeProgramDone s = .next s) ∧
    (∀ off d, s.nvm.code = some (off, d) → ∃ t, exec .codeProgramDone s = .next t ∧ t.nvm = { s.nvm with code := none } ∧
      t.fget Reg.nvmCodeProg Reg.nvmCodeProg_BUSY = 0 ∧ t.fget Reg.nvmCodeProg Reg.nvmCodeProg_PERMILLE = 1000 ∧
      t.fget Reg.nvmCodeProg Reg.nvmCodeProg_WRITTEN = min (2 ^ 32 - 1) (s.fget Reg.nvmCodeProg Reg.nvmCodeProg_WRITTEN + d.length) ∧ t.copies = s.copies ∧
      ∀ a, t.byte a = if paCode + off ≤ a ∧ a < paCode + off + d.length then d.getD (a - (paCode + off)) 0 else s.byte a)) ∧
  ∀ (s : State) (id : Word) (keys : List (BitVec 384)) (wrap : BitVec 256) (minSvn : Nat), let i : Instr := .otpProvisioning id keys wrap minSvn
    (s.otp.lc ≠ 0 → exec i s = .next s) ∧
    (s.otp.lc = 0 → ∃ t, exec i s = .next t ∧ t = { s with otp := { s.otp with lc := 1, id := id, wrap := wrap.toNat, minSvn := min 64 minSvn, keys := t.otp.keys } } ∧
      ∀ k < 4, SMap.get none t.otp.keys k = match keys[k]? with | some x => some x.toNat | none => SMap.get none s.otp.keys k)

/-! ### Clocks, supplies, pins, the SYS block and register writes (14, 15) -/

/-- R374, R406, R410, R411, R422, R423: the loss of a clock is counted, stops its PLL, clears its status and acts on its domain; a working monitor that
leaves ±4 % is counted and raises its supply's source; the six temperature pairs are read, a threshold raises its source on the first pair at or above
it and re-arms 5 °C below; GO starts one PMIC transfer, whose end gives its data or NACK; pins show what the device drives or the board. -/
def Obligations.ClocksSuppliesAndPins : Prop :=
  (∀ (s : State) (p : Fin 11), let i : Instr := .clkLoss p
    let due : Prop := s.powered = true ∧ s.fget (Reg.clkPll p) Reg.clkPll_STOPPED = 0 ∧ 4 ≤ s.fget Reg.sysBootStat Reg.sysBootStat_STEP
    (¬ due → exec i s = .next s) ∧
    (due → ∃ t, exec i s = .next t ∧ t.fget (Reg.clkPll p) Reg.clkPll_STOPPED = 1 ∧
      t.fget (Reg.clkPll p) Reg.clkPll_LOSSES = min (2 ^ 16 - 1) (s.fget (Reg.clkPll p) Reg.clkPll_LOSSES + 1) ∧
      bit (t.rd Reg.clkStatus) p = false ∧ bit (t.rd Reg.clkStatus) (11 + p) = false ∧
      (∀ q < 11, q ≠ p.val → bit (t.rd Reg.clkStatus) q = bit (s.rd Reg.clkStatus) q ∧ bit (t.rd Reg.clkStatus) (11 + q) = bit (s.rd Reg.clkStatus) (11 + q)) ∧
      (∀ k : Nat, p.val < 4 → k < 4 → t.tri (4 * p.val + k) Reg.triStatus_STOPPED = 1) ∧ (p.val = 4 → ∀ k < 16, t.tri k Reg.triStatus_STOPPED = 1) ∧
      (∀ q : Fin 2, p.val = 6 + q.val → t.fget (Reg.ethStatus q) Reg.ethStatus_LINK_UP = 0 ∧ t.fget (Reg.ethStatus q) Reg.ethStatus_LANE_LOCK = 0) ∧
      (p.val = 9 → t.tw Reg.twinStatus_LINK = 0 ∧ t.twin.unacked = []) ∧
      (p.val = 10 → s.fget Reg.sysBootStat Reg.sysBootStat_STEP < 6 → t.fget Reg.sysBootStat Reg.sysBootStat_HALT = 1) ∧
      t.detected.map (·.src) = s.detected.map (·.src) ++
        (if p.val < 4 then [0x1F2 + p.val] else if p.val = 4 then [0x1F6] else if p.val = 5 then [0x1B2] else if p.val < 8 then [0x1C0 + (p.val - 6)]
         else if p.val = 8 then [0x1D0] else if p.val = 9 then [0x1E2] else []))) ∧
  (∀ (s : State) (n : Fin 10) (win : BitVec 4) (mv : BitVec 12), let i : Instr := .vmonTrip n win mv
    let w := s.rd (Reg.clkVmon n)
    let works (m : Nat) : Prop := s.miscFailed Reg.pncFailedMisc_VMON (2 * n + m) = false
    let outs (m : Nat) : Prop := works m ∧ win.getLsbD (2 + m) = false
    let was (m : Nat) : Prop := works m → bit w (2 + m) = true
    let u := s.wr (Reg.clkVmon n) (setBits (setBits w 0 4 win.toNat) 20 12 mv.toNat)
    (s.powered = false → exec i s = .next s) ∧
    (s.powered = true → (outs 0 ∨ outs 1) ∧ was 0 ∧ was 1 → exec i s = .next ((u.fsat (Reg.clkVmon n) Reg.clkVmon_TRIPS 1).raise
      (if n.val = 0 then 0x1F7 else if n.val = 1 then 0x1F8 else 0x1F9))) ∧
    (s.powered = true → ¬ ((outs 0 ∨ outs 1) ∧ was 0 ∧ was 1) → exec i s = .next u)) ∧
  (∀ (s : State) (c : Fin 6 → BitVec 8 × BitVec 8), let i : Instr := .tempSample (c 0) (c 1) (c 2) (c 3) (c 4) (c 5)
    let a (k : Fin 6) := (c k).1.toNat
    let b (k : Fin 6) := (c k).2.toNat
    let v (k : Fin 6) : Nat := if s.fget (Reg.clkTemp k) Reg.clkTemp_FAILED = 1 then max (a k) (b k) else (a k + b k) / 2
    let high := s.fget Reg.clkTempThr Reg.clkTempThr_HIGH
    let crit := s.fget Reg.clkTempThr Reg.clkTempThr_CRIT
    let flagged (f : Fld) (thr src : Nat) (t : State) : Prop :=
      ((∀ k, (v k : Int) - 64 ≤ thr - 5) → (∀ k : Fin 6, t.fget (Reg.clkTemp k) f = 0) ∧ (src ∉ s.detected.map (·.src) → src ∉ t.detected.map (·.src))) ∧
      (¬ (∀ k, (v k : Int) - 64 ≤ thr - 5) → (∀ k : Fin 6, t.fget (Reg.clkTemp k) f = if (thr : Int) ≤ v k - 64 then 1 else s.fget (Reg.clkTemp k) f) ∧
        ((∀ k : Fin 6, s.fget (Reg.clkTemp k) f = 0) → (∃ k, (thr : Int) ≤ v k - 64) → ∃ d ∈ t.detected, d.src = src))
    (s.powered = false → exec i s = .next s) ∧
    (s.powered = true → ∃ t, exec i s = .next t ∧ t = { s with regs := t.regs, detected := t.detected } ∧
      (∀ k : Fin 6, t.fget (Reg.clkTemp k) Reg.clkTemp_A = a k ∧ t.fget (Reg.clkTemp k) Reg.clkTemp_B = b k ∧ t.fget (Reg.clkTemp k) Reg.clkTemp_VALUE = v k) ∧
      flagged Reg.clkTemp_HIGH high 0x1FA t ∧ flagged Reg.clkTemp_CRIT crit 0x1FB t ∧
      (∀ k : Fin 6, 4 < a k - b k ∨ 4 < b k - a k → s.fget (Reg.clkTemp k) Reg.clkTemp_A = s.fget (Reg.clkTemp k) Reg.clkTemp_B →
        ∃ d ∈ t.detected, d.src = 0x1FC))) ∧
  ∀ s : State,
    (∀ (rq : Rq) (x : BitVec 24), s.grants rq Reg.clkI2cCmd →
      (s.fget Reg.clkI2cStat Reg.clkI2cStat_BUSY = 1 → exec (.i2cGo rq x) s = .next s) ∧
      (s.fget Reg.clkI2cStat Reg.clkI2cStat_BUSY = 0 → exec (.i2cGo rq x) s = .next
        ({ s with clk := { s.clk with i2c := some (x.setWidth 64 ||| 0x1000000) } }.fset Reg.clkI2cStat Reg.clkI2cStat_BUSY 1))) ∧
    (∀ (data : Byte) (nack : Bool), (s.clk.i2c = none → exec (.i2cDone data nack) s = .next s) ∧
      ∀ cmd, s.clk.i2c = some cmd → ∃ t, exec (.i2cDone data nack) s = .next t ∧ t = { s with regs := t.regs, clk := { s.clk with i2c := none } } ∧
        t.fget Reg.clkI2cStat Reg.clkI2cStat_BUSY = 0 ∧ t.fget Reg.clkI2cStat Reg.clkI2cStat_NACK = (if nack then 1 else 0) ∧
        t.fget Reg.clkI2cStat Reg.clkI2cStat_DATA = (if bit cmd 7 = true ∧ nack = false then data.toNat else s.fget Reg.clkI2cStat Reg.clkI2cStat_DATA)) ∧
    (let pin (t : State) (k : Nat) : Bool := if bit (t.rd Reg.clkGpioDir) k then bit (t.rd Reg.clkGpioOut) k else t.clk.ext.testBit k
     (∀ (rq : Rq) (x : BitVec 32), s.grants rq Reg.clkGpioOut → ∃ t, exec (.gpioOutWrite rq x) s = .next t ∧ t = { s with regs := t.regs } ∧
       t.rd Reg.clkGpioOut = (s.rd Reg.clkGpioOut &&& ~~~0xFFFFFFFF) ||| x.setWidth 64 ∧ (∀ r, r ≠ Reg.clkGpioOut → r ≠ Reg.clkGpioIn → t.rd r = s.rd r) ∧
       ∀ k < 32, bit (t.rd Reg.clkGpioIn) k = pin t k) ∧
     ∀ (n : Fin 32) (level : Bool), ∃ t, exec (.gpioInputChange n level) s = .next t ∧ t = { s with regs := t.regs, clk := { s.clk with ext := t.clk.ext } } ∧
       (∀ k, t.clk.ext.testBit k = if k = n.val then level else s.clk.ext.testBit k) ∧ (s.powered = false → t.regs = s.regs) ∧
       (s.powered = true → ∀ k < 32, bit (t.rd Reg.clkGpioIn) k = pin t k))

/-- R7 to R9, R134, R384, R397, R398: a permitted triad's SYS_SLEEP with its key puts a device in RUN, DEGRADED, SAFE or STANDBY to sleep, with the device
time stored, and any other is ignored; SYS_IPI sets source 224 + u in every copy of the triads it names; each life-cycle transition needs its state
and its key or its signature, a challenge serves one request, and a refused request changes nothing but its result. A register write by MMIO is that
register's command; half a register changes its own bits alone. The signature's function and the nonce are free values (log entries 3 and 23; the byte
order of what is signed, entry 124). -/
def Obligations.SystemRegisterRows : Prop :=
  ∀ (s : State) (rq : Rq),
    (∀ v : Word,
      let w := rq.init.val
      let may : Prop := w < 16 ∧ (s.fget Reg.sysPerm Reg.sysPerm_SLEEP_TRIADS).testBit w = true ∧ bits v 0 16 = 0x51EE ∧ 3 ≤ s.opstate ∧ s.opstate ≤ 6
      (s.grants rq Reg.sysSleep → (¬ may → exec (.sysSleep rq v) s = .next s) ∧
        (may → ∃ t, exec (.sysSleep rq v) s = .next t ∧ t.opstate = 1 ∧ t.hbx.pmicEn = false ∧ t.hbx.pgood = false ∧ t.hbx.stored = some s.time ∧
          t.copies = State.reset.copies ∧ t.otp = s.otp ∧ t.pending = s.pending ∧ ∀ a, t.byte a = if windowOf a = .code then s.byte a else 0)) ∧
      (s.grants rq Reg.sysIpi → ∃ t, exec (.sysIpi rq v) s = .next t ∧ t = { s with copies := t.copies } ∧
        ∀ k < 48, ∀ n < 256, (t.copy k).latch n = ((s.copy k).latch n || (decide (w < 16) && decide (n = 224 + w) && bit v (k / 3)))) ∧
      (s.grants rq Reg.sysIpi → exec (.mmioWrite rq (BitVec.ofNat 24 Reg.sysIpi) false v) s = exec (.sysIpi rq v) s) ∧
      (s.grants rq Reg.sysSleep → exec (.mmioWrite rq (BitVec.ofNat 24 Reg.sysSleep) false v) s = exec (.sysSleep rq v) s) ∧
      (s.grants rq Reg.timeRate → exec (.mmioWrite rq (BitVec.ofNat 24 Reg.timeRate) false v) s = exec (.timeRateWrite rq v) s) ∧
      (s.grants rq Reg.ddrZodProbe → exec (.mmioWrite rq (BitVec.ofNat 24 Reg.ddrZodProbe) false v) s = exec (.ddrZodProbeWrite rq v) s) ∧
      (s.grants rq Reg.edcFlipData →
        (let m : MeshReq := { regReq rq .write Reg.edcFlipData with len := 4, data := v.toNat }
         s.gateCause m = none → exec (.mmioWrite rq (BitVec.ofNat 24 Reg.edcFlipData) true v) s = .next
           (s.wr Reg.edcFlipData ((s.rd Reg.edcFlipData &&& ~~~0xFFFFFFFF) ||| (v &&& 0xFFFFFFFF)))))) ∧
    (s.grants rq Reg.sysLcCtl → ∀ key : BitVec 16,
      let lc := s.fget Reg.sysState Reg.sysState_LC
      let result (x : State) (r : Nat) : State := x.fset Reg.sysLcStat Reg.sysLcStat_RESULT r
      let good : Prop := key = 0x4C43
      let signed (tag : List Nat) (tail : List Byte) : Bool := Config.ecdsaP384 s.boot.pub (tag.map (BitVec.ofNat 8) ++ toLe 8 (s.rd Reg.sysId).toNat ++ tail) s.lcSig
      let nonce := (List.range 4).flatMap fun n => toLe 8 (s.rd (Reg.sysLcChal n)).toNat
      let chal : Prop := s.fget Reg.sysLcStat Reg.sysLcStat_CHAL_VALID = 1
      let used := s.fset Reg.sysLcStat Reg.sysLcStat_CHAL_VALID 0
      (lc = 1 → good → exec (.manufactureToSecured rq key) s = .next (result { s with otp := { s.otp with lc := 2 } } 1)) ∧
      (lc ≠ 1 ∨ ¬ good → exec (.manufactureToSecured rq key) s = .next (result s 2)) ∧
      (good → exec (.scrap rq key) s = .next (result { s with otp := { s.otp with lc := 5 } } 1)) ∧ (¬ good → exec (.scrap rq key) s = .next (result s 2)) ∧
      (lc ≠ 2 → exec (.securedToRma rq) s = .next (result s 2)) ∧
      (lc = 2 → signed [0x52, 0x4D, 0x41, 0x31] [] = true → exec (.securedToRma rq) s = .next (result { s with otp := { s.otp with lc := 4, wrap := 0 } } 1)) ∧
      (lc = 2 → signed [0x52, 0x4D, 0x41, 0x31] [] = false → exec (.securedToRma rq) s = .next (result s 3)) ∧
      (lc ≠ 2 ∨ ¬ chal → exec (.securedToFieldDebug rq) s = .next (result s 2)) ∧
      (lc = 2 → chal → signed [0x44, 0x42, 0x47, 0x31] nonce = true → exec (.securedToFieldDebug rq) s = .next (result (used.fset Reg.sysState Reg.sysState_LC 3) 1)) ∧
      (lc = 2 → chal → signed [0x44, 0x42, 0x47, 0x31] nonce = false → exec (.securedToFieldDebug rq) s = .next (result used 3))) ∧
    (s.grantsRead rq (Reg.sysLcChal 0) → ∃ t, exec (.sysLcChalRead rq) s = .next t ∧ t.fget Reg.sysLcStat Reg.sysLcStat_CHAL_VALID = 1 ∧ t.free = s.free + 4 ∧
      (SMap.get { status := .ok, data := 0 } t.mesh.last rq.init.val) = { status := .ok, data := (t.rd (Reg.sysLcChal 0)).toNat } ∧
      (∀ r, r ≠ Reg.sysLcStat → (∀ k < 4, r ≠ Reg.sysLcChal k) → t.rd r = s.rd r) ∧ t.otp = s.otp)
end

