-- ==== Sys2Proof/Laws/Arrays.lean ====
section
/-!
SUPPORT. The laws of the sparse arrays: a read after a write, and that every operation keeps the canonical form; and what they give for
memory and for the registers.
-/

namespace Sys2Proof.Machine

section
variable {α : Type} [DecidableEq α] {d : α}

/-- Every key of an array in canonical form is at least its first key. -/
theorem SMap.wf_tail {k : Nat} {v : α} {r : SMap α} (h : SMap.wf d ((k, v) :: r) = true) : SMap.wf d r = true := by
  cases r with
  | nil => rfl
  | cons e r => simp only [SMap.wf, Bool.and_eq_true] at h; exact h.2

/-- The canonical form, key by key: the first value is not the default, and the first key is below every other. -/
theorem SMap.wf_cons {k : Nat} {v : α} {r : SMap α} :
    SMap.wf d ((k, v) :: r) = true ↔ v ≠ d ∧ (∀ e ∈ r, k < e.1) ∧ SMap.wf d r = true := by
  induction r generalizing k v with
  | nil => simp [SMap.wf]
  | cons e r ih =>
    obtain ⟨k', v'⟩ := e
    simp only [SMap.wf, Bool.and_eq_true, decide_eq_true_eq, List.mem_cons, forall_eq_or_imp]
    constructor
    · rintro ⟨⟨hv, hk⟩, hr⟩
      refine ⟨hv, ⟨hk, ?_⟩, hr⟩
      intro e he
      exact Nat.lt_trans hk ((ih.1 hr).2.1 e he)
    · rintro ⟨hv, ⟨hk, -⟩, hr⟩
      exact ⟨⟨hv, hk⟩, hr⟩

/-- A read of the array that a write gives. -/
theorem SMap.get_put {m : SMap α} {i j : Nat} {x : α} : SMap.get d (SMap.put d m i x) j = if j = i then x else SMap.get d m j := by
  induction m with
  | nil => by_cases hx : x = d <;> by_cases hj : j = i <;> simp [SMap.put, SMap.get, hx, hj]
  | cons e r ih =>
    obtain ⟨k, v⟩ := e
    simp only [SMap.put]
    by_cases h1 : i < k
    · have hik : i ≠ k := Nat.ne_of_lt h1
      by_cases hx : x = d
      · simp only [h1, hx, if_true, SMap.get]
        rw [hx] at ih
        rw [ih]
        by_cases hj : j = i
        · simp [hj, hik]
        · simp [hj]
      · simp only [h1, hx, if_true, if_false, SMap.get]
    · by_cases h2 : i = k
      · subst h2
        by_cases hx : x = d
        · rw [hx] at ih
          simp only [Nat.lt_irrefl, hx, if_true, if_false, SMap.get]
          rw [ih]
          by_cases hj : j = i <;> simp [hj]
        · simp only [Nat.lt_irrefl, hx, if_true, if_false, SMap.get]
          by_cases hj : j = i <;> simp [hj]
      · simp only [h1, h2, if_false, SMap.get]
        rw [ih]
        by_cases hj : j = k
        · have : j ≠ i := fun h => h2 (h.symm.trans hj)
          simp [hj]
          intro h
          exact absurd h.symm h2
        · simp [hj]

/-- The keys of a written array are the old ones and the key written. -/
theorem SMap.put_mem {m : SMap α} {i : Nat} {x : α} {e : Nat × α} (h : e ∈ SMap.put d m i x) : e = (i, x) ∨ e ∈ m := by
  induction m with
  | nil => by_cases hx : x = d <;> simp_all [SMap.put]
  | cons a r ih =>
    obtain ⟨k, v⟩ := a
    simp only [SMap.put] at h
    split at h
    · split at h
      · rcases List.mem_cons.1 h with rfl | h
        · simp
        · rcases ih h with h | h <;> simp [h]
      · simpa using h
    · split at h
      · split at h
        · rcases ih h with h | h <;> simp [h]
        · rcases List.mem_cons.1 h with rfl | h <;> simp_all
      · rcases List.mem_cons.1 h with rfl | h
        · simp
        · rcases ih h with h | h <;> simp [h]

/-- A write keeps the canonical form. -/
theorem SMap.put_wf {m : SMap α} {i : Nat} {x : α} (h : SMap.wf d m = true) : SMap.wf d (SMap.put d m i x) = true := by
  induction m with
  | nil => by_cases hx : x = d <;> simp [SMap.put, SMap.wf, hx]
  | cons a r ih =>
    obtain ⟨k, v⟩ := a
    obtain ⟨hv, hlt, hr⟩ := SMap.wf_cons.1 h
    simp only [SMap.put]
    split
    · rename_i hik
      split
      · rename_i hx
        refine SMap.wf_cons.2 ⟨hv, ?_, ih hr⟩
        intro e he
        rcases SMap.put_mem he with he | he
        · exfalso
          subst he
          have := SMap.put_mem (d := d) (m := r) (i := i) (x := x) (e := (i, x)) ‹_›
          exact absurd (show (i, x).2 ≠ d from by
            have hw := ih hr
            clear this ih h hr hlt hv
            revert hw ‹(i, x) ∈ SMap.put d r i x›
            generalize SMap.put d r i x = q
            intro hm hw
            induction q with
            | nil => simp at hm
            | cons b q ihq =>
              obtain ⟨kb, vb⟩ := b
              have hb := SMap.wf_cons.1 hw
              rcases List.mem_cons.1 hm with hm | hm
              · cases hm; exact hb.1
              · exact ihq hm hb.2.2) (by simpa using hx)
        · exact hlt e he
      · rename_i hx
        refine SMap.wf_cons.2 ⟨hx, ?_, h⟩
        intro e he
        rcases List.mem_cons.1 he with rfl | he
        · exact hik
        · exact Nat.lt_trans hik (hlt e he)
    · rename_i hki
      split
      · rename_i hik
        subst hik
        split
        · exact ih hr
        · rename_i hx
          exact SMap.wf_cons.2 ⟨hx, hlt, hr⟩
      · rename_i hik
        refine SMap.wf_cons.2 ⟨hv, ?_, ih hr⟩
        intro e he
        rcases SMap.put_mem he with rfl | he
        · exact Nat.lt_of_le_of_ne (Nat.le_of_not_lt hki) (Ne.symm hik)
        · exact hlt e he

/-- A filter keeps the canonical form. -/
theorem SMap.filter_wf {m : SMap α} {p : Nat × α → Bool} (h : SMap.wf d m = true) : SMap.wf d (m.filter p) = true := by
  induction m with
  | nil => rfl
  | cons a r ih =>
    obtain ⟨k, v⟩ := a
    obtain ⟨hv, hlt, hr⟩ := SMap.wf_cons.1 h
    by_cases hp : p (k, v) = true
    · rw [List.filter_cons_of_pos hp]
      exact SMap.wf_cons.2 ⟨hv, fun e he => hlt e (List.mem_of_mem_filter he), ih hr⟩
    · rw [List.filter_cons_of_neg hp]
      exact ih hr

/-- Writing a list of entries keeps the canonical form. -/
theorem SMap.foldl_put_wf {β : Type} {l : List β} {f : β → Nat} {g : β → α} {m : SMap α} (h : SMap.wf d m = true) :
    SMap.wf d (l.foldl (fun (m : SMap α) x => SMap.put d m (f x) (g x)) m) = true := by
  induction l generalizing m with
  | nil => exact h
  | cons x l ih => exact ih (SMap.put_wf h)

/-- A repeated operation that keeps the canonical form keeps it. -/
theorem SMap.foldl_wf {β : Type} {l : List β} {f : SMap α → β → SMap α} (hf : ∀ m x, SMap.wf d m = true → SMap.wf d (f m x) = true)
    {m : SMap α} (h : SMap.wf d m = true) : SMap.wf d (l.foldl f m) = true := by
  induction l generalizing m with
  | nil => exact h
  | cons x l ih => exact ih (hf m x h)

/-- Clearing a range keeps the canonical form. -/
theorem SMap.clear_wf {m : SMap α} {lo n : Nat} (h : SMap.wf d m = true) : SMap.wf d (SMap.clear m lo n) = true := SMap.filter_wf h

/-- Copying a range keeps the canonical form. -/
theorem SMap.copyRange_wf {m : SMap α} {src dst n : Nat} (h : SMap.wf d m = true) : SMap.wf d (SMap.copyRange d m src dst n) = true :=
  SMap.foldl_put_wf (SMap.clear_wf h)

end

/-- A byte read after a byte write. -/
theorem State.byte_setByte (s : State) (a b : Nat) (v : Byte) :
    (s.setByte a v).byte b = if b = a then v else s.byte b := SMap.get_put

/-- A byte write keeps the canonical form of memory. -/
theorem State.setByte_wf {s : State} (h : Memory.wf s.mem) (a : Nat) (v : Byte) : Memory.wf (s.setByte a v).mem := SMap.put_wf h

/-- A wide write keeps the canonical form of memory. -/
theorem State.setBytes_wf {s : State} (h : Memory.wf s.mem) (a n v : Nat) : Memory.wf (s.setBytes a n v).mem := by
  induction n generalizing s a v with
  | zero => exact h
  | succ n ih => exact ih (State.setByte_wf h a _) _ _

/-- A register read after a register write. -/
theorem State.rd_wr (s : State) (r q : Nat) (v : Word) : (s.wr r v).rd q = if q = r then v else s.rd q := SMap.get_put

/-- A copy read after a copy is written. -/
theorem State.copy_setCopy (s : State) (k j : Nat) (c : Copy) : (s.setCopy k c).copy j = if j = k then c else s.copy j := SMap.get_put

/-- A register write keeps the canonical form. -/
theorem State.wr_wf {s : State} (h : SMap.wf 0 s.regs = true) (r : Nat) (v : Word) : SMap.wf 0 (s.wr r v).regs = true := SMap.put_wf h

end Sys2Proof.Machine
end

