-- ==== Sys2Proof/Laws/Gated.lean ====
section
/-!
SUPPORT. A register write or read of a command row: what it does where the gate of the register's block lets it pass, and where it does not.
-/

namespace Sys2Proof.Machine

/-- A gate looks at the requester, the operation and the address of a request, not at its data (R174). -/
theorem State.gateCause_data (s : State) (rq : Rq) (op : MeshOp) (pa : BitVec 44) (v : Nat) :
    s.gateCause { rq := rq, op := op, atom := .swap, pa := pa, len := 8, data := v, cmp := 0 } =
      s.gateCause { rq := rq, op := op, atom := .swap, pa := pa, len := 8, data := 0, cmp := 0 } := rfl

/-- A write that the gate lets pass reaches the register. -/
theorem State.gatedWrite_granted {s : State} {rq : Rq} {off : Nat} (h : s.grants rq off) (v : Word) :
    s.gatedWrite rq off v = s.regWrite rq off (BitVec.allOnes 64) v := by
  unfold State.grants regReq at h
  unfold State.gatedWrite State.gateDenies
  simp only [State.gateCause_data, h, Option.map_none]

/-- A write that the gate denies has the effects of the denial alone, and those of an error that the gate finds in its rule storage (R177, R178). -/
theorem State.gatedWrite_denied {s : State} {rq : Rq} {off c : Nat} (h : s.gateCause (regReq rq .write off) = some c) (v : Word) :
    s.gatedWrite rq off v = (s.gateFail (gateOf (regReq rq .write off).pa.toNat)).deny (regReq rq .write off) c := by
  unfold regReq at *
  unfold State.gatedWrite State.gateDenies
  simp only [State.gateCause_data, h, Option.map_some]
  rfl

/-- A read that the gate lets pass reads the register. -/
theorem State.gatedRead_granted {s : State} {rq : Rq} {off : Nat} (h : s.grantsRead rq off) : s.gatedRead rq off = s.regRead rq off := by
  unfold State.grantsRead regReq at h
  unfold State.gatedRead State.gateDenies
  simp only [h, Option.map_none]

end Sys2Proof.Machine
end

