-- ==== Sys2Proof/Laws/Keeps.lean ====
section
/-!
SUPPORT. What every operation of the model keeps, as one relation between the state before and the state after: the queue of waiting commands,
the canonical form of memory and of the register file, and the counter of free values, which never falls. Each operation has one lemma about it.
-/

namespace Sys2Proof.Machine

/-- `t` follows from `s` by operations of the device: the queue is as it was, the canonical forms are kept, and no free value is drawn twice. -/
structure Keeps (s t : State) : Prop where
  pending : t.pending = s.pending
  mem : Memory.wf s.mem → Memory.wf t.mem
  regs : SMap.wf 0 s.regs = true → SMap.wf 0 t.regs = true
  free : s.free ≤ t.free

/-- Nothing is kept better than by doing nothing. -/
@[simp] theorem Keeps.rfl {s : State} : Keeps s s := ⟨Eq.refl _, id, id, Nat.le_refl _⟩

/-- What two operations keep, their sequence keeps. -/
theorem Keeps.trans {s t u : State} (h : Keeps s t) (k : Keeps t u) : Keeps s u :=
  ⟨k.pending.trans h.pending, fun x => k.mem (h.mem x), fun x => k.regs (h.regs x), Nat.le_trans h.free k.free⟩

/-- A state that differs in other fields alone. -/
theorem Keeps.of_eq {s t u : State} (h : Keeps s t) (hp : u.pending = t.pending) (hm : u.mem = t.mem) (hr : u.regs = t.regs)
    (hf : t.free ≤ u.free) : Keeps s u :=
  h.trans ⟨hp, fun x => hm ▸ x, fun x => hr ▸ x, hf⟩

/-- A state written out, with queue, memory and registers of a state that keeps. -/
@[simp] theorem Keeps.mk_iff {s : State} {t : State} {x3 x4 x5 x6 x7 x8 x9 x10 x11 x12 x13 x14 x15 x16 x17 x18 x19 x20 x21 x22 x23 x24 x25 x26}
    {n : Nat} (h : Keeps s t) (hn : t.free ≤ n) :
    Keeps s (State.mk t.regs t.mem x3 x4 x5 x6 x7 x8 x9 x10 x11 x12 x13 x14 x15 x16 x17 x18 x19 x20 x21 x22 x23 x24 x25 x26 n t.pending) :=
  h.of_eq (Eq.refl _) (Eq.refl _) (Eq.refl _) hn

/-- Either branch. -/
@[simp] theorem Keeps.ite {s t u : State} {p : Prop} [Decidable p] (h : Keeps s t) (k : Keeps s u) : Keeps s (if p then t else u) := by
  split <;> assumption

/-- A repeated operation. -/
@[simp] theorem Keeps.foldl {α : Type} {s : State} {f : State → α → State} (hf : ∀ t x, Keeps s t → Keeps s (f t x)) {l : List α} {t : State}
    (h : Keeps s t) : Keeps s (l.foldl f t) := by
  induction l generalizing t with
  | nil => exact h
  | cons x l ih => exact ih (hf t x h)

/-- A repeated operation that carries a value beside the state. -/
theorem Keeps.foldl_snd {α β : Type} {s : State} {f : β × State → α → β × State} (hf : ∀ x y, Keeps s x.2 → Keeps s (f x y).2)
    {l : List α} {p : β × State} (h : Keeps s p.2) : Keeps s (l.foldl f p).2 := by
  induction l generalizing p with
  | nil => exact h
  | cons x l ih => exact ih (hf p x h)

/-- What may refuse, followed by what may refuse. -/
theorem Keeps.bind {β : Type} {z : State} {o : Option β} {f : β → Option State} (hf : ∀ t u, o = some t → f t = some u → Keeps z u) {u : State}
    (e : o.bind f = some u) : Keeps z u := by
  cases o with
  | none => cases e
  | some t => exact hf t u (Eq.refl _) e

/-- A repeated operation that may refuse. -/
theorem Keeps.foldl_bind {α : Type} {z : State} {f : State → α → Option State} (hf : ∀ t x u, Keeps z t → f t x = some u → Keeps z u)
    {l : List α} {o : Option State} (ho : ∀ t, o = some t → Keeps z t) {u : State}
    (e : l.foldl (fun (o : Option State) x => o.bind fun s => f s x) o = some u) : Keeps z u := by
  induction l generalizing o with
  | nil => exact ho u e
  | cons x l ih =>
    refine ih (o := o.bind fun s => f s x) (fun t ht => ?_) e
    cases o with
    | none => cases ht
    | some s => exact hf s x t (ho s (Eq.refl _)) ht

/-- The state beside a value, where the pair is known. -/
theorem Keeps.snd {β : Type} {s t : State} {p : β × State} {v : β} (h : Keeps s p.2) (e : p = (v, t)) : Keeps s t := by
  subst e; exact h

/-- The state before a value, where the pair is known. -/
theorem Keeps.fst {β : Type} {s t : State} {p : State × β} {v : β} (h : Keeps s p.1) (e : p = (t, v)) : Keeps s t := by
  subst e; exact h

@[simp] theorem State.wr_keeps {z s : State} (h : Keeps z s) (r : Nat) (v : Word) : Keeps z (s.wr r v) :=
  h.trans ⟨Eq.refl _, id, fun x => State.wr_wf x r v, Nat.le_refl _⟩

@[simp] theorem State.setByte_keeps {z s : State} (h : Keeps z s) (a : Nat) (b : Byte) : Keeps z (s.setByte a b) :=
  h.trans ⟨Eq.refl _, fun x => State.setByte_wf x a b, id, Nat.le_refl _⟩

@[simp] theorem State.setBytes_keeps {z s : State} (h : Keeps z s) (a n v : Nat) : Keeps z (s.setBytes a n v) := by
  induction n generalizing s a v with
  | zero => exact h
  | succ n ih => exact ih (State.setByte_keeps h a _) _ _

end Sys2Proof.Machine
end

