-- ==== Sys2Proof/Laws/KeepsOps.lean ====
section
/-!
SUPPORT. What the operations of Machine/Ops.lean keep (Laws/Keeps.lean).
-/

namespace Sys2Proof.Machine

@[simp] theorem State.fset_keeps {z : State} {s : State} (r : Nat) (f : Fld) (v : Nat) (hz : Keeps z s) : Keeps z (State.fset s r f v) := by
  unfold State.fset
  simp (maxDischargeDepth := 60) [hz]

@[simp] theorem State.fsat_keeps {z : State} {s : State} (r : Nat) (f : Fld) (n : Nat) (hz : Keeps z s) : Keeps z (State.fsat s r f n) := by
  unfold State.fsat
  simp (maxDischargeDepth := 60) [hz]

@[simp] theorem State.fadd_keeps {z : State} {s : State} (r : Nat) (f : Fld) (n : Nat) (hz : Keeps z s) : Keeps z (State.fadd s r f n) := by
  unfold State.fadd
  simp (maxDischargeDepth := 60) [hz]

@[simp] theorem State.fresh_keeps {z : State} {s : State} (hz : Keeps z s) : Keeps z (State.fresh s).2 := by
  unfold State.fresh
  simp (maxDischargeDepth := 60) [hz]

@[simp] theorem State.setCopy_keeps {z : State} {s : State} (k : Nat) (c : Copy) (hz : Keeps z s) : Keeps z (State.setCopy s k c) :=
  hz.of_eq rfl rfl rfl (Nat.le_refl _)

@[simp] theorem State.modCopy_keeps {z : State} {s : State} (k : Nat) (f : Copy → Copy) (hz : Keeps z s) : Keeps z (State.modCopy s k f) :=
  hz.of_eq rfl rfl rfl (Nat.le_refl _)

@[simp] theorem State.modTriad_keeps {z : State} {s : State} (t : Nat) (f : Triad → Triad) (hz : Keeps z s) : Keeps z (State.modTriad s t f) :=
  hz.of_eq rfl rfl rfl (Nat.le_refl _)

@[simp] theorem State.forCopies_keeps {z : State} {s : State} (t : Nat) (cs : List Nat) (f : Copy → Copy) (hz : Keeps z s) : Keeps z (State.forCopies s t cs f) := by
  unfold State.forCopies
  simp +contextual (maxDischargeDepth := 60) [hz]

@[simp] theorem State.raiseFor_keeps {z : State} {s : State} (src : Nat) (grp : Option Nat) (h : Keeps z s) : Keeps z (s.raiseFor src grp) :=
  (State.wr_keeps h _ _).of_eq rfl rfl rfl (Nat.le_refl _)

@[simp] theorem State.raise_keeps {z : State} {s : State} (src : Nat) (hz : Keeps z s) : Keeps z (State.raise s src) := by
  unfold State.raise
  simp (maxDischargeDepth := 60) [hz]

@[simp] theorem State.irqTriad_keeps {z : State} {s : State} (t src : Nat) (hz : Keeps z s) : Keeps z (State.irqTriad s t src) :=
  hz.of_eq rfl rfl rfl (Nat.le_refl _)

@[simp] theorem State.irq_keeps {z : State} {s : State} (triads : Nat) (src : Nat) (h : Keeps z s) : Keeps z (s.irq triads src) :=
  Keeps.foldl (fun t x ht => Keeps.ite (by simp [ht]) ht) h

end Sys2Proof.Machine
end

