-- ==== Sys2Proof/Laws/KeepsGate.lean ====
section
/-!
SUPPORT. What the operations of Machine/Gate.lean keep (Laws/Keeps.lean).
-/

namespace Sys2Proof.Machine

@[simp] theorem State.deny_keeps {z : State} {s : State} (m : MeshReq) (cause : Nat) (hz : Keeps z s) : Keeps z (State.deny s m cause) := by
  unfold State.deny
  simp (maxDischargeDepth := 60) [hz]

@[simp] theorem State.gateFail_keeps {z : State} {s : State} (g : Nat) (hz : Keeps z s) : Keeps z (State.gateFail s g) := by
  unfold State.gateFail
  simp (maxDischargeDepth := 60) [hz]

theorem State.gateDenies_keeps {z : State} {s : State} (m : MeshReq) (h : Keeps z s) {u : State} (e : State.gateDenies s m = some u) : Keeps z u := by
  simp only [State.gateDenies, Option.map_eq_some_iff] at e
  obtain ⟨c, -, rfl⟩ := e
  exact State.deny_keeps m c (State.gateFail_keeps _ h)

@[simp] theorem State.recountLocked_keeps {z : State} {s : State} (g : Nat) (hz : Keeps z s) : Keeps z (State.recountLocked s g) := by
  unfold State.recountLocked
  simp (maxDischargeDepth := 60) [hz]

@[simp] theorem State.shadowWrite_keeps {z : State} {s : State} (g k : Nat) (which : RuleReg) (wm v : Word) (hz : Keeps z s) : Keeps z (State.shadowWrite s g k which wm v) := by
  unfold State.shadowWrite
  simp (maxDischargeDepth := 60) [hz]

@[simp] theorem State.ruleCtlWrite_keeps {z : State} {s : State} (g k : Nat) (wm v : Word) (hz : Keeps z s) : Keeps z (State.ruleCtlWrite s g k wm v) := by
  unfold State.ruleCtlWrite
  simp (maxDischargeDepth := 60) [hz]

@[simp] theorem State.lockAll_keeps {z : State} {s : State} (g : Nat) (hz : Keeps z s) : Keeps z (State.lockAll s g) := by
  unfold State.lockAll
  simp +contextual (maxDischargeDepth := 60) [hz]

@[simp] theorem State.gateLogClear_keeps {z : State} {s : State} (g : Nat) (hz : Keeps z s) : Keeps z (State.gateLogClear s g) := by
  unfold State.gateLogClear
  simp +contextual (maxDischargeDepth := 60) [hz]

theorem State.gateWrite_keeps {z : State} {s : State} (off : Nat) (wm v : Word) (hz : Keeps z s) {u : State} (e : State.gateWrite s off wm v = some u) : Keeps z u := by
  unfold State.gateWrite at e
  (dsimp only at e; repeat' split at e) <;> simp only [Option.some.injEq, reduceCtorEq] at e <;> (subst e; simp (maxDischargeDepth := 60) [hz])

end Sys2Proof.Machine
end

