-- ==== Sys2Proof/Laws/KeepsTriadOps.lean ====
section
/-!
SUPPORT. What the operations of Machine/TriadOps.lean keep (Laws/Keeps.lean).
-/

namespace Sys2Proof.Machine

@[simp] theorem State.closeWindow_keeps {z : State} {s : State} (src : Nat) (hz : Keeps z s) : Keeps z (State.closeWindow s src) := by
  unfold State.closeWindow
  simp (maxDischargeDepth := 60) [hz]

@[simp] theorem State.matrixWrite_keeps {z : State} {s : State} (src : Nat) (rq : Rq) (wm v : Word) (hz : Keeps z s) : Keeps z (State.matrixWrite s src rq wm v) := by
  unfold State.matrixWrite
  simp (maxDischargeDepth := 60) [hz]

@[simp] theorem State.globalLock_keeps {z : State} {s : State} (hz : Keeps z s) : Keeps z (State.globalLock s) := by
  unfold State.globalLock
  simp +contextual (maxDischargeDepth := 60) [hz]

@[simp] theorem State.swRaise_keeps {z : State} {s : State} (src : Nat) (hz : Keeps z s) : Keeps z (State.swRaise s src) := by
  unfold State.swRaise
  simp (maxDischargeDepth := 60) [hz]

theorem State.fcruWrite_keeps {z : State} {s : State} (rq : Rq) (off : Nat) (wm v : Word) (hz : Keeps z s) {u : State} (e : State.fcruWrite s rq off wm v = some u) : Keeps z u := by
  unfold State.fcruWrite at e
  (repeat' split at e) <;> simp only [Option.some.injEq, reduceCtorEq] at e <;> (subst e; simp (maxDischargeDepth := 60) [hz])

@[simp] theorem State.setOp_keeps {z : State} {s : State} (x : Nat) (hz : Keeps z s) : Keeps z (State.setOp s x) := by
  unfold State.setOp
  simp (maxDischargeDepth := 60) [hz]

@[simp] theorem State.degrade_keeps {z : State} {s : State} (hz : Keeps z s) : Keeps z (State.degrade s) := by
  unfold State.degrade
  simp (maxDischargeDepth := 60) [hz]

@[simp] theorem State.rebuildStart_keeps {z : State} {s : State} (t : Nat) (cs : List Nat) (hz : Keeps z s) : Keeps z (State.rebuildStart s t cs) := by
  unfold State.rebuildStart
  simp (maxDischargeDepth := 60) [hz]

@[simp] theorem State.resyncStart_keeps {z : State} {s : State} (t : Nat) (hz : Keeps z s) : Keeps z (State.resyncStart s t) := by
  unfold State.resyncStart
  split <;> simp (maxDischargeDepth := 60) [hz]

@[simp] theorem State.resyncAbandon_keeps {z : State} {s : State} (t : Nat) (fail : Bool) (hz : Keeps z s) : Keeps z (State.resyncAbandon s t fail) := by
  unfold State.resyncAbandon
  simp (maxDischargeDepth := 60) [hz]

@[simp] theorem State.stopTriad_keeps {z : State} {s : State} (t : Nat) (hz : Keeps z s) : Keeps z (State.stopTriad s t) := by
  unfold State.stopTriad
  simp (maxDischargeDepth := 60) [hz]

@[simp] theorem State.isolate_keeps {z : State} {s : State} (t c : Nat) (hz : Keeps z s) : Keeps z (State.isolate s t c) := by
  unfold State.isolate
  simp (maxDischargeDepth := 60) [hz]

@[simp] theorem State.oddCopy_keeps {z : State} {s : State} (t c src : Nat) (hz : Keeps z s) : Keeps z (State.oddCopy s t c src) := by
  unfold State.oddCopy
  simp (maxDischargeDepth := 60) [hz]

@[simp] theorem State.recordMismatch_keeps {z : State} {s : State} (t groups copies : Nat) (fetch : Bool) (hz : Keeps z s) : Keeps z (State.recordMismatch s t groups copies fetch) := by
  unfold State.recordMismatch
  simp (maxDischargeDepth := 60) [hz]

@[simp] theorem State.pairMismatch_keeps {z : State} {s : State} (t : Nat) (hz : Keeps z s) : Keeps z (State.pairMismatch s t) := by
  unfold State.pairMismatch
  simp (maxDischargeDepth := 60) [hz]

@[simp] theorem State.triInject_keeps {z : State} {s : State} (t : Nat) (v : Word) (hz : Keeps z s) : Keeps z (State.triInject s t v) := by
  unfold State.triInject
  simp (maxDischargeDepth := 60) [hz]

@[simp] theorem State.modeReqWrite_keeps {z : State} {s : State} (t : Nat) (rq : Rq) (wm v : Word) (hz : Keeps z s) : Keeps z (State.modeReqWrite s t rq wm v) := by
  unfold State.modeReqWrite
  simp (maxDischargeDepth := 60) [hz]

@[simp] theorem State.wdogZero_keeps {z : State} {s : State} (t : Nat) (hz : Keeps z s) : Keeps z (State.wdogZero s t) :=
  hz.of_eq rfl rfl rfl (Nat.le_refl _)

@[simp] theorem State.wdogKick_keeps {z : State} {s : State} (t key : Nat) (hz : Keeps z s) : Keeps z (State.wdogKick s t key) := by
  unfold State.wdogKick
  simp (maxDischargeDepth := 60) [hz]

theorem State.triWrite_keeps {z : State} {s : State} (rq : Rq) (off : Nat) (wm v : Word) (hz : Keeps z s) {u : State} (e : State.triWrite s rq off wm v = some u) : Keeps z u := by
  unfold State.triWrite at e
  (dsimp only at e; repeat' split at e) <;> simp only [Option.some.injEq, reduceCtorEq] at e <;> (subst e; simp (maxDischargeDepth := 60) [hz])

end Sys2Proof.Machine
end

