-- ==== Sys2Proof/Laws/KeepsFulCtx.lean ====
section
/-!
SUPPORT. What the operations of Machine/FulCtx.lean keep (Laws/Keeps.lean).
-/

namespace Sys2Proof.Machine

@[simp] theorem State.setCtx_keeps {z : State} {s : State} (c : Nat) (x : Ctx) (hz : Keeps z s) : Keeps z (State.setCtx s c x) :=
  hz.of_eq rfl rfl rfl (Nat.le_refl _)

@[simp] theorem State.modCtx_keeps {z : State} {s : State} (c : Nat) (f : Ctx → Ctx) (hz : Keeps z s) : Keeps z (State.modCtx s c f) :=
  hz.of_eq rfl rfl rfl (Nat.le_refl _)

@[simp] theorem State.ctxEvent_keeps {z : State} {s : State} (c e : Nat) (hz : Keeps z s) : Keeps z (State.ctxEvent s c e) := by
  unfold State.ctxEvent
  simp (maxDischargeDepth := 60) [hz]

@[simp] theorem State.wdogKeep_keeps {z : State} {s : State} (c : Nat) (was : Bool) (hz : Keeps z s) : Keeps z (State.wdogKeep s c was) := by
  unfold State.wdogKeep
  simp (maxDischargeDepth := 60) [hz]

@[simp] theorem State.wdogRestart_keeps {z : State} {s : State} (c : Nat) (hz : Keeps z s) : Keeps z (State.wdogRestart s c) :=
  hz.of_eq rfl rfl rfl (Nat.le_refl _)

@[simp] theorem State.slicesBusy_keeps {z : State} {s : State} (c : Nat) (hz : Keeps z s) : Keeps z (State.slicesBusy s c) :=
  hz.of_eq rfl rfl rfl (Nat.le_refl _)

@[simp] theorem State.cxEnter_keeps {z : State} {s : State} (c n : Nat) (hz : Keeps z s) : Keeps z (State.cxEnter s c n) := by
  unfold State.cxEnter
  simp (maxDischargeDepth := 60) [hz]

@[simp] theorem State.fulUpd_keeps {z : State} {s : State} (c : Nat) (hz : Keeps z s) : Keeps z (State.fulUpd s c) := by
  unfold State.fulUpd
  simp (maxDischargeDepth := 60) [hz]

@[simp] theorem State.leaveFaulted_keeps {z : State} {s : State} (c : Nat) (hz : Keeps z s) : Keeps z (State.leaveFaulted s c) := by
  unfold State.leaveFaulted
  simp (maxDischargeDepth := 60) [hz]

@[simp] theorem State.ctxReturn_keeps {z : State} {s : State} (c tag : Nat) (v : Word) (hz : Keeps z s) : Keeps z (State.ctxReturn s c tag v) :=
  hz.of_eq rfl rfl rfl (Nat.le_refl _)

@[simp] theorem State.accrue_keeps {z : State} {s : State} (c fl : Nat) (hz : Keeps z s) : Keeps z (State.accrue s c fl) := by
  unfold State.accrue
  simp (maxDischargeDepth := 60) [hz]

@[simp] theorem State.ctxRetire_keeps {z : State} {s : State} (c seq : Nat) (hz : Keeps z s) : Keeps z (State.ctxRetire s c seq) := by
  unfold State.ctxRetire
  simp (maxDischargeDepth := 60) [hz]

@[simp] theorem State.ctxCancel_keeps {z : State} {s : State} (c : Nat) (o : FulOp) (stopped : Bool) (hz : Keeps z s) : Keeps z (State.ctxCancel s c o stopped) := by
  unfold State.ctxCancel
  simp (maxDischargeDepth := 60) [hz]

@[simp] theorem State.ctxComplete_keeps {z : State} {s : State} (c : Nat) (o : FulOp) (hz : Keeps z s) : Keeps z (State.ctxComplete s c o) := by
  unfold State.ctxComplete
  simp (maxDischargeDepth := 60) [hz]

@[simp] theorem State.ctxFault_keeps {z : State} {s : State} (c : Nat) (o : FulOp) (cause elem va : Nat) (write : Bool) (hz : Keeps z s) : Keeps z (State.ctxFault s c o cause elem va write) := by
  unfold State.ctxFault
  simp +contextual (maxDischargeDepth := 60) [hz]

@[simp] theorem State.freeBytes_keeps {z s : State} (pa n : Nat) (h : Keeps z s) : Keeps z (s.freeBytes pa n) := by
  induction n generalizing s pa with
  | zero => exact h
  | succ n ih => exact ih _ (State.setByte_keeps (State.fresh_keeps h) _ _)

@[simp] theorem State.freeElem_keeps {z s : State} (c va n : Nat) (ok : Nat → Bool) (h : Keeps z s) : Keeps z (s.freeElem c va n ok) := by
  have hp : ∀ (u : State) (va n : Nat), Keeps z u →
      Keeps z (match u.peek c va with
        | some pa => if (ok pa && (u.gateCause (ctxReq c .write pa n 0)).isNone) = true then u.freeBytes pa n else u
        | none => u) := by
    intro u va n hu
    split
    · split
      · exact State.freeBytes_keeps _ _ hu
      · exact hu
    · exact hu
  unfold State.freeElem
  dsimp only
  split
  · exact hp _ _ _ h
  · exact hp _ _ _ (hp _ _ _ h)

@[simp] theorem State.unspecify_keeps {z s : State} (c : Nat) (o : FulOp) (h : Keeps z s) : Keeps z (s.unspecify c o) := by
  have h1 : Keeps z (o.written.foldl (fun s p => s.freeBytes p.1 p.2) (match fwDest o.word with
    | 1 => { s.modCtx c (fun x => { x with v := freeWords x.v (512 * fwD o.word) s.free (512 * vtGroup o.vtype) }) with
      free := s.free + 512 * vtGroup o.vtype }
    | 2 => { s.modCtx c (fun x => { x with m := freeWords x.m (64 * (fwD o.word % 8)) s.free (64 * vtMG o.vtype) }) with
      free := s.free + 64 * vtMG o.vtype }
    | _ => s)) := by
    refine Keeps.foldl (fun t x ht => State.freeBytes_keeps _ _ ht) ?_
    split
    · exact h.of_eq rfl rfl rfl (Nat.le_add_right _ _)
    · exact h.of_eq rfl rfl rfl (Nat.le_add_right _ _)
    · exact h
  unfold State.unspecify
  dsimp only
  split
  · refine Keeps.foldl (fun t x ht => ?_) h1
    split
    · exact ht
    · exact State.freeElem_keeps _ _ _ _ ht
  · split
    · exact Keeps.foldl (fun t x ht => State.freeElem_keeps _ _ _ _ ht) h1
    · exact h1

@[simp] theorem State.setStrmPhase_keeps {z : State} {s : State} (c n : Nat) (hz : Keeps z s) : Keeps z (State.setStrmPhase s c n) := by
  unfold State.setStrmPhase
  simp (maxDischargeDepth := 60) [hz]

@[simp] theorem State.dropRun_keeps {z : State} {s : State} (c phase : Nat) (hz : Keeps z s) : Keeps z (State.dropRun s c phase) := by
  unfold State.dropRun
  simp (maxDischargeDepth := 60) [hz]

@[simp] theorem State.stopRun_keeps {z s : State} (c phase : Nat) (hz : Keeps z s) : Keeps z (s.stopRun c phase) :=
  State.dropRun_keeps _ _ (Keeps.foldl (fun _ _ h => State.unspecify_keeps _ _ h) hz)

@[simp] theorem State.cancelAll_keeps {z : State} {s : State} (c : Nat) (os : List FulOp) (stopped : Bool) (hz : Keeps z s) : Keeps z (State.cancelAll s c os stopped) := by
  unfold State.cancelAll
  simp +contextual (maxDischargeDepth := 60) [hz]

@[simp] theorem State.stopContext_keeps {z s : State} (c : Nat) (hz : Keeps z s) : Keeps z (s.stopContext c) := by
  unfold State.stopContext
  split
  · exact hz
  · exact State.fulUpd_keeps _ (State.fset_keeps _ _ _ (State.modCtx_keeps _ _ (State.cancelAll_keeps _ _ _ (State.stopRun_keeps _ _ hz))))

@[simp] theorem State.stopElem_keeps {z : State} {s : State} (c : Nat) (o : FulOp) (hz : Keeps z s) : Keeps z (State.stopElem s c o).2 := by
  unfold State.stopElem
  (repeat' (first | (rename _ = (_, _) => heq; have hs1 := Keeps.snd (s := z) (by clear heq; simp [*]; done) heq; clear heq) | (rename _ = (_, _) => heq; have hs1 := Keeps.fst (s := z) (by clear heq; simp [*]; done) heq; clear heq) | (dsimp only) | split)) <;> simp (maxDischargeDepth := 60) [*]

@[simp] theorem State.cutRun_keeps {z s : State} (c : Nat) (os : List FulOp) (hz : Keeps z s) : Keeps z (s.cutRun c os) := by
  unfold State.cutRun
  induction os with
  | nil => exact hz
  | cons o r ih =>
    rw [List.foldr_cons]
    split
    · exact ih
    · exact State.modCtx_keeps _ _ (State.stopElem_keeps _ _ ih)

@[simp] theorem State.killRun_keeps {z s : State} (c cause : Nat) (overrun : Bool) (hz : Keeps z s) : Keeps z (s.killRun c cause overrun) := by
  unfold State.killRun
  split
  · exact hz
  · have he := State.stopElem_keeps c ‹FulOp› hz
    refine State.fulUpd_keeps _ (State.modCtx_keeps _ _ (State.cancelAll_keeps _ _ _ (State.ctxFault_keeps _ _ _ _ _ _ (State.dropRun_keeps _ _ ?_))))
    split
    · exact State.modCtx_keeps _ _ (State.cutRun_keeps _ _ he)
    · exact Keeps.foldl (fun _ _ h => State.unspecify_keeps _ _ h) he

theorem State.fulWrite_keeps {z : State} {s : State} (off : Nat) (wm v : Word) (hz : Keeps z s) {u : State} (e : State.fulWrite s off wm v = some u) : Keeps z u := by
  unfold State.fulWrite at e
  (repeat' split at e) <;> simp only [Option.some.injEq, reduceCtorEq] at e <;> (subst e; simp (maxDischargeDepth := 60) [hz])

end Sys2Proof.Machine
end

