-- ==== Sys2Proof/Laws/KeepsProt.lean ====
section
/-!
SUPPORT. What the operations of Machine/Prot.lean keep (Laws/Keeps.lean).
-/

namespace Sys2Proof.Machine

@[simp] theorem State.modProt_keeps {z : State} {s : State} (f : Prot → Prot) (hz : Keeps z s) : Keeps z (State.modProt s f) :=
  hz.of_eq rfl rfl rfl (Nat.le_refl _)

@[simp] theorem State.ssMapTo_keeps {z : State} {s : State} (b p : Nat) (hz : Keeps z s) : Keeps z (State.ssMapTo s b p) := by
  unfold State.ssMapTo
  simp (maxDischargeDepth := 60) [hz]

@[simp] theorem State.cleanUnit_keeps {z : State} {s : State} (k u : Nat) (hz : Keeps z s) : Keeps z (State.cleanUnit s k u) :=
  hz.of_eq rfl rfl rfl (Nat.le_refl _)

@[simp] theorem State.nominate_keeps {z : State} {s : State} (k n : Nat) (hz : Keeps z s) : Keeps z (State.nominate s k n) := by
  unfold State.nominate
  simp (maxDischargeDepth := 60) [hz]

@[simp] theorem State.logPut_keeps {z : State} {s : State} (k n u count nom : Nat) (hz : Keeps z s) : Keeps z (State.logPut s k n u count nom) := by
  unfold State.logPut
  simp (maxDischargeDepth := 60) [hz]

@[simp] theorem State.ceLog_keeps {z : State} {s : State} (k u : Nat) (hz : Keeps z s) : Keeps z (State.ceLog s k u) := by
  unfold State.ceLog
  (dsimp only; repeat' split) <;> simp (maxDischargeDepth := 60) [hz]

@[simp] theorem State.queueWb_keeps {z : State} {s : State} (k u : Nat) (hz : Keeps z s) : Keeps z (State.queueWb s k u) := by
  unfold State.queueWb
  simp (maxDischargeDepth := 60) [hz]

@[simp] theorem State.queueMiss_keeps {z : State} {s : State} (k u : Nat) (hz : Keeps z s) : Keeps z (State.queueMiss s k u) := by
  unfold State.queueMiss
  simp (maxDischargeDepth := 60) [hz]

@[simp] theorem State.ceFound_keeps {z : State} {s : State} (k u : Nat) (hz : Keeps z s) : Keeps z (State.ceFound s k u) := by
  unfold State.ceFound
  simp (maxDischargeDepth := 60) [hz]

@[simp] theorem State.ueFound_keeps {z : State} {s : State} (k u : Nat) (hz : Keeps z s) : Keeps z (State.ueFound s k u) := by
  unfold State.ueFound
  simp (maxDischargeDepth := 60) [hz]

@[simp] theorem State.validCheck_keeps {z : State} {s : State} (w : Nat) (hz : Keeps z s) : Keeps z (State.validCheck s w) := by
  unfold State.validCheck
  simp (maxDischargeDepth := 60) [hz]

@[simp] theorem State.unitSays_keeps {z : State} {s : State} (k u : Nat) (hz : Keeps z s) : Keeps z (State.unitSays s k u).2 := by
  unfold State.unitSays
  (repeat' (first | (rename _ = (_, _) => heq; have hs1 := Keeps.snd (s := z) (by clear heq; simp [*]; done) heq; clear heq) | (rename _ = (_, _) => heq; have hs1 := Keeps.fst (s := z) (by clear heq; simp [*]; done) heq; clear heq) | (dsimp only) | split)) <;> simp (maxDischargeDepth := 60) [*]

@[simp] theorem State.unitOut_keeps {z : State} {s : State} (k u : Nat) (c : CodeSays) (hz : Keeps z s) : Keeps z (State.unitOut s k u c).2.2 := by
  unfold State.unitOut
  (repeat' (first | (rename _ = (_, _) => heq; have hs1 := Keeps.snd (s := z) (by clear heq; simp [*]; done) heq; clear heq) | (rename _ = (_, _) => heq; have hs1 := Keeps.fst (s := z) (by clear heq; simp [*]; done) heq; clear heq) | (dsimp only) | split)) <;> simp (maxDischargeDepth := 60) [*]

@[simp] theorem State.unitOnce_keeps {z : State} {s : State} (k u : Nat) (hz : Keeps z s) : Keeps z (State.unitOnce s k u).2.2 := by
  unfold State.unitOnce
  simp (maxDischargeDepth := 60) [hz]

@[simp] theorem State.unitFind_keeps {z s : State} (k u : Nat) (h : Keeps z s) : Keeps z (s.unitFind k u).2.2 := by
  unfold State.unitFind
  split
  · exact h
  · have hv : Keeps z (if k < 2 then s.validCheck (u / 8) else s) := Keeps.ite (State.validCheck_keeps _ h) h
    have h1 := State.unitOnce_keeps k u hv
    dsimp only
    generalize State.unitOnce (if k < 2 then s.validCheck (u / 8) else s) k u = r at h1 ⊢
    split
    · have h2 : ∀ t : State, Keeps z t → Keeps z (if k = 3 then t.unitOnce k u else (.ue, false, t)).2.2 := by
        intro t ht
        split
        · exact State.unitOnce_keeps _ _ ht
        · exact ht
      have h3 := h2 _ h1
      generalize (if k = 3 then State.unitOnce _ k u else _) = r2 at h3 ⊢
      split
      · exact State.ueFound_keeps _ _ h3
      · exact h3
    · exact h1

@[simp] theorem State.unitRead_keeps {z : State} {s : State} (k u : Nat) (hz : Keeps z s) : Keeps z (State.unitRead s k u).2 := by
  unfold State.unitRead
  simp (maxDischargeDepth := 60) [hz]

@[simp] theorem State.injectAt_keeps {z : State} {s : State} (k u : Nat) (hz : Keeps z s) : Keeps z (State.injectAt s k u) := by
  unfold State.injectAt
  simp (maxDischargeDepth := 60) [hz]

@[simp] theorem State.arrayWrite_keeps {z : State} {s : State} (k u : Nat) (hz : Keeps z s) : Keeps z (State.arrayWrite s k u) := by
  unfold State.arrayWrite
  simp (maxDischargeDepth := 60) [hz]

@[simp] theorem State.modTwin_keeps {z : State} {s : State} (f : Twin → Twin) (hz : Keeps z s) : Keeps z (State.modTwin s f) :=
  hz.of_eq rfl rfl rfl (Nat.le_refl _)

@[simp] theorem State.bulkStart_keeps {z : State} {s : State} (hz : Keeps z s) : Keeps z (State.bulkStart s) := by
  unfold State.bulkStart
  simp (maxDischargeDepth := 60) [hz]

@[simp] theorem State.jrnWrite_keeps {z : State} {s : State} (e : JEnt) (hz : Keeps z s) : Keeps z (State.jrnWrite s e) := by
  unfold State.jrnWrite
  simp +contextual (maxDischargeDepth := 60) [hz]

@[simp] theorem State.jrnPut_keeps {z : State} {s : State} (kind : BitVec 2) (blk be data : Nat) (hz : Keeps z s) : Keeps z (State.jrnPut s kind blk be data) := by
  unfold State.jrnPut
  simp (maxDischargeDepth := 60) [hz]

@[simp] theorem State.capture_keeps {z : State} {s : State} (pa len : Nat) (hz : Keeps z s) : Keeps z (State.capture s pa len) := by
  unfold State.capture
  simp +contextual (maxDischargeDepth := 60) [hz]

@[simp] theorem State.freeOutside_keeps {z s : State} (u mask n : Nat) (h : Keeps z s) : Keeps z (s.freeOutside u mask n) := by
  induction n with
  | zero => exact h
  | succ n ih => exact Keeps.ite ih (State.setByte_keeps (State.fresh_keeps ih) _ _)

@[simp] theorem State.fixUnit_keeps {z : State} {s : State} (k u : Nat) (hz : Keeps z s) : Keeps z (State.fixUnit s k u) := by
  unfold State.fixUnit
  (repeat' (first | (rename _ = (_, _) => heq; have hs1 := Keeps.snd (s := z) (by clear heq; simp [*]; done) heq; clear heq) | (rename _ = (_, _) => heq; have hs1 := Keeps.fst (s := z) (by clear heq; simp [*]; done) heq; clear heq) | (dsimp only) | split)) <;> simp (maxDischargeDepth := 60) [*]

@[simp] theorem State.rmw_keeps {z s : State} (k u mask : Nat) (h : Keeps z s) : Keeps z (s.rmw k u mask) := by
  have hk := State.unitRead_keeps k u h
  unfold State.rmw
  split <;> simp_all (maxDischargeDepth := 60)

@[simp] theorem State.drain_keeps {z : State} {s : State} (k : Nat) (e : MergeEnt) (hz : Keeps z s) : Keeps z (State.drain s k e) := by
  unfold State.drain
  simp (maxDischargeDepth := 60) [hz]

@[simp] theorem State.drainAll_keeps {z : State} {s : State} (sel : Nat → Bool) (hz : Keeps z s) : Keeps z (State.drainAll s sel) := by
  unfold State.drainAll
  simp +contextual (maxDischargeDepth := 60) [hz]

@[simp] theorem State.unitWritten_keeps {z : State} {s : State} (k init u mask : Nat) (hz : Keeps z s) : Keeps z (State.unitWritten s k init u mask) := by
  unfold State.unitWritten
  (repeat' (first | (rename _ = (_, _) => heq; have hs1 := Keeps.snd (s := z) (by clear heq; simp [*]; done) heq; clear heq) | (rename _ = (_, _) => heq; have hs1 := Keeps.fst (s := z) (by clear heq; simp [*]; done) heq; clear heq) | (dsimp only) | split)) <;> simp (maxDischargeDepth := 60) [*]

@[simp] theorem State.setBank_keeps {z : State} {s : State} (b n : Nat) (hz : Keeps z s) : Keeps z (State.setBank s b n) := by
  unfold State.setBank
  simp (maxDischargeDepth := 60) [hz]

@[simp] theorem State.wakeBank_keeps {z : State} {s : State} (b : Nat) (hz : Keeps z s) : Keeps z (State.wakeBank s b) := by
  unfold State.wakeBank
  simp (maxDischargeDepth := 60) [hz]

@[simp] theorem State.bankOn_keeps {z : State} {s : State} (b : Nat) (hz : Keeps z s) : Keeps z (State.bankOn s b) := by
  unfold State.bankOn
  (dsimp only; repeat' split) <;> simp (maxDischargeDepth := 60) [hz]

@[simp] theorem State.loseBank_keeps {z s : State} (b : Nat) (h : Keeps z s) : Keeps z (s.loseBank b) :=
  h.trans ⟨rfl, fun x => SMap.filter_wf x, id, Nat.le_refl _⟩

@[simp] theorem State.zodStart_keeps {z : State} {s : State} (r : Nat) (hz : Keeps z s) : Keeps z (State.zodStart s r) := by
  unfold State.zodStart
  simp (maxDischargeDepth := 60) [hz]

@[simp] theorem State.zodDone_keeps {z : State} {s : State} (r : Nat) (hz : Keeps z s) : Keeps z (State.zodDone s r) := by
  unfold State.zodDone
  simp (maxDischargeDepth := 60) [hz]

@[simp] theorem State.zodFail_keeps {z : State} {s : State} (hz : Keeps z s) : Keeps z (State.zodFail s) := by
  unfold State.zodFail
  simp (maxDischargeDepth := 60) [hz]

@[simp] theorem State.memDemand_keeps {z : State} {s : State} (pa : Nat) (hz : Keeps z s) : Keeps z (State.memDemand s pa) := by
  unfold State.memDemand
  split <;> simp (maxDischargeDepth := 60) [hz]

@[simp] theorem State.bankTurn_keeps {z s : State} (b n : Nat) (h : Keeps z s) : Keeps z (s.bankTurn b n) := by
  induction n generalizing s with
  | zero => exact h
  | succ n ih =>
    unfold State.bankTurn
    split
    · exact h
    · split
      · exact ih (State.bankOn_keeps _ h)
      · exact ih (State.wakeBank_keeps _ h)

@[simp] theorem State.memReady_keeps {z : State} {s : State} (writes : Bool) (pa : Nat) (hz : Keeps z s) : Keeps z (State.memReady s writes pa) := by
  unfold State.memReady
  (repeat' (first | (rename _ = (_, _) => heq; have hs1 := Keeps.snd (s := z) (by clear heq; simp [*]; done) heq; clear heq) | (rename _ = (_, _) => heq; have hs1 := Keeps.fst (s := z) (by clear heq; simp [*]; done) heq; clear heq) | (dsimp only) | split)) <;> simp (maxDischargeDepth := 60) [*]

@[simp] theorem State.arrayCe_keeps {z : State} {s : State} (code : Nat) (hz : Keeps z s) : Keeps z (State.arrayCe s code) := by
  unfold State.arrayCe
  simp (maxDischargeDepth := 60) [hz]

@[simp] theorem State.arrayUe_keeps {z : State} {s : State} (code : Nat) (hz : Keeps z s) : Keeps z (State.arrayUe s code) := by
  unfold State.arrayUe
  simp (maxDischargeDepth := 60) [hz]

@[simp] theorem State.tcmMark_keeps {z : State} {s : State} (pa len : Nat) (hz : Keeps z s) : Keeps z (State.tcmMark s pa len) :=
  hz.of_eq rfl rfl rfl (Nat.le_refl _)

@[simp] theorem State.arrayRead_keeps {z : State} {s : State} (k : Nat) (r : ArrayId × Nat) (hz : Keeps z s) : Keeps z (State.arrayRead s k r) := by
  unfold State.arrayRead
  simp (maxDischargeDepth := 60) [hz]

@[simp] theorem State.scrubGoWrite_keeps {z : State} {s : State} (v : Word) (hz : Keeps z s) : Keeps z (State.scrubGoWrite s v) := by
  unfold State.scrubGoWrite
  simp (maxDischargeDepth := 60) [hz]

@[simp] theorem State.edcLogClear_keeps {z : State} {s : State} (m : Nat) (hz : Keeps z s) : Keeps z (State.edcLogClear s m) := by
  unfold State.edcLogClear
  simp +contextual (maxDischargeDepth := 60) [hz]

theorem State.edcWrite_keeps {z : State} {s : State} (off : Nat) (wm v : Word) (hz : Keeps z s) {u : State} (e : State.edcWrite s off wm v = some u) : Keeps z u := by
  unfold State.edcWrite at e
  (repeat' split at e) <;> simp only [Option.some.injEq, reduceCtorEq] at e <;> (subst e; simp (maxDischargeDepth := 60) [hz])

@[simp] theorem State.pwrApply_keeps {z : State} {s : State} (bs : List Nat) (hz : Keeps z s) : Keeps z (State.pwrApply s bs) := by
  unfold State.pwrApply
  simp +contextual (maxDischargeDepth := 60) [hz]

theorem State.memRegWrite_keeps {z s : State} (off : Nat) (wm v : Word) (h : Keeps z s) {u : State} (e : State.memRegWrite s off wm v = some u) : Keeps z u := by
  simp only [State.memRegWrite, Option.map_eq_some_iff] at e
  obtain ⟨n, -, rfl⟩ := e
  simp [h]

end Sys2Proof.Machine
end

