-- ==== Sys2Proof/Laws/KeepsPorts.lean ====
section
/-!
SUPPORT. What the operations of Machine/Ports.lean keep (Laws/Keeps.lean).
-/

namespace Sys2Proof.Machine

@[simp] theorem State.modEth_keeps {z : State} {s : State} (f : Eth → Eth) (hz : Keeps z s) : Keeps z (State.modEth s f) :=
  hz.of_eq rfl rfl rfl (Nat.le_refl _)

@[simp] theorem State.setSa_keeps {z : State} {s : State} (ix : Nat) (a : MsecSa) (hz : Keeps z s) : Keeps z (State.setSa s ix a) :=
  hz.of_eq rfl rfl rfl (Nat.le_refl _)

@[simp] theorem State.msecInstall_keeps {z : State} {s : State} (p : Nat) (hz : Keeps z s) : Keeps z (State.msecInstall s p) :=
  hz.of_eq rfl rfl rfl (Nat.le_refl _)

@[simp] theorem State.msecRetire_keeps {z : State} {s : State} (p : Nat) (hz : Keeps z s) : Keeps z (State.msecRetire s p) :=
  hz.of_eq rfl rfl rfl (Nat.le_refl _)

@[simp] theorem State.setGcl_keeps {z : State} {s : State} (p : Nat) (g : Gcl) (hz : Keeps z s) : Keeps z (State.setGcl s p g) :=
  hz.of_eq rfl rfl rfl (Nat.le_refl _)

@[simp] theorem State.gclChange_keeps {z : State} {s : State} (p : Nat) (hz : Keeps z s) : Keeps z (State.gclChange s p) := by
  unfold State.gclChange
  simp (maxDischargeDepth := 60) [hz]

theorem State.ethWrite_keeps {z : State} {s : State} (off : Nat) (wm v : Word) (hz : Keeps z s) {u : State} (e : State.ethWrite s off wm v = some u) : Keeps z u := by
  unfold State.ethWrite at e
  (dsimp only at e; repeat' split at e) <;> simp only [Option.some.injEq, reduceCtorEq] at e <;> (subst e; simp (maxDischargeDepth := 60) [hz])

@[simp] theorem State.setRing_keeps {z : State} {s : State} (ix : Nat) (r : Ring) (hz : Keeps z s) : Keeps z (State.setRing s ix r) :=
  hz.of_eq rfl rfl rfl (Nat.le_refl _)

@[simp] theorem State.consWrite_keeps {z : State} {s : State} (ix : Nat) (wm v : Word) (hz : Keeps z s) : Keeps z (State.consWrite s ix wm v) := by
  unfold State.consWrite
  simp (maxDischargeDepth := 60) [hz]

@[simp] theorem State.chargePorts_keeps {z : State} {s : State} (id : Word) (f : Nat → Nat) (hz : Keeps z s) : Keeps z (State.chargePorts s id f) := by
  unfold State.chargePorts
  simp +contextual (maxDischargeDepth := 60) [hz]

@[simp] theorem State.admitTo_keeps {z : State} {s : State} (n : Nat) (id c d : Word) (hz : Keeps z s) : Keeps z (State.admitTo s n id c d).2 := by
  unfold State.admitTo
  (repeat' (first | (rename _ = (_, _) => heq; have hs1 := Keeps.snd (s := z) (by clear heq; simp [*]; done) heq; clear heq) | (rename _ = (_, _) => heq; have hs1 := Keeps.fst (s := z) (by clear heq; simp [*]; done) heq; clear heq) | (dsimp only) | split)) <;> simp (maxDischargeDepth := 60) [*]

@[simp] theorem State.withdraw_keeps {z : State} {s : State} (n : Nat) (hz : Keeps z s) : Keeps z (State.withdraw s n).2 := by
  unfold State.withdraw
  (dsimp only; repeat' split) <;> simp (maxDischargeDepth := 60) [hz]

@[simp] theorem State.admRequest_keeps {z : State} {s : State} (op n : Nat) (hz : Keeps z s) : Keeps z (State.admRequest s op n) := by
  unfold State.admRequest
  split <;> simp (maxDischargeDepth := 60) [hz]

theorem State.admWrite_keeps {z : State} {s : State} (off : Nat) (wm v : Word) (hz : Keeps z s) {u : State} (e : State.admWrite s off wm v = some u) : Keeps z u := by
  unfold State.admWrite at e
  (dsimp only at e; repeat' split at e) <;> simp only [Option.some.injEq, reduceCtorEq] at e <;> (subst e; simp (maxDischargeDepth := 60) [hz])

end Sys2Proof.Machine
end

