-- ==== Sys2Proof/Laws/KeepsHostRegs.lean ====
section
/-!
SUPPORT. What the operations of Machine/HostRegs.lean keep (Laws/Keeps.lean).
-/

namespace Sys2Proof.Machine

@[simp] theorem State.modDhp_keeps {z : State} {s : State} (f : Dhp → Dhp) (hz : Keeps z s) : Keeps z (State.modDhp s f) :=
  hz.of_eq rfl rfl rfl (Nat.le_refl _)

@[simp] theorem State.modRecd_keeps {z : State} {s : State} (f : Recdr → Recdr) (hz : Keeps z s) : Keeps z (State.modRecd s f) :=
  hz.of_eq rfl rfl rfl (Nat.le_refl _)

@[simp] theorem State.setSlot_keeps {z : State} {s : State} (n st : Nat) (hz : Keeps z s) : Keeps z (State.setSlot s n st) := by
  unfold State.setSlot
  simp (maxDischargeDepth := 60) [hz]

@[simp] theorem State.slotFree_keeps {z : State} {s : State} (n : Nat) (hz : Keeps z s) : Keeps z (State.slotFree s n) := by
  unfold State.slotFree
  simp (maxDischargeDepth := 60) [hz]

@[simp] theorem State.lateDone_keeps {z : State} {s : State} (hz : Keeps z s) : Keeps z (State.lateDone s) := by
  unfold State.lateDone
  simp (maxDischargeDepth := 60) [hz]

@[simp] theorem State.slotDone_keeps {z : State} {s : State} (init n : Nat) (v : Word) (hz : Keeps z s) : Keeps z (State.slotDone s init n v) := by
  unfold State.slotDone
  (dsimp only; repeat' split) <;> simp (maxDischargeDepth := 60) [hz]

@[simp] theorem State.jobqCons_keeps {z : State} {s : State} (j : Nat) (wm v : Word) (hz : Keeps z s) : Keeps z (State.jobqCons s j wm v) := by
  unfold State.jobqCons
  simp (maxDischargeDepth := 60) [hz]

theorem State.dhpWrite_keeps {z : State} {s : State} (rq : Rq) (off : Nat) (wm v : Word) (hz : Keeps z s) {u : State} (e : State.dhpWrite s rq off wm v = some u) : Keeps z u := by
  unfold State.dhpWrite at e
  (dsimp only at e; repeat' split at e) <;> simp only [Option.some.injEq, reduceCtorEq] at e <;> (subst e; simp (maxDischargeDepth := 60) [hz])

@[simp] theorem State.recFreeze_keeps {z : State} {s : State} (hz : Keeps z s) : Keeps z (State.recFreeze s) := by
  unfold State.recFreeze
  simp (maxDischargeDepth := 60) [hz]

@[simp] theorem State.recTrigger_keeps {z : State} {s : State} (kind src : Nat) (hz : Keeps z s) : Keeps z (State.recTrigger s kind src) := by
  unfold State.recTrigger
  split <;> simp (maxDischargeDepth := 60) [hz]

@[simp] theorem State.recRelease_keeps {z : State} {s : State} (hz : Keeps z s) : Keeps z (State.recRelease s) := by
  unfold State.recRelease
  simp (maxDischargeDepth := 60) [hz]

theorem State.recWrite_keeps {z : State} {s : State} (off : Nat) (wm v : Word) (hz : Keeps z s) {u : State} (e : State.recWrite s off wm v = some u) : Keeps z u := by
  unfold State.recWrite at e
  (repeat' split at e) <;> simp only [Option.some.injEq, reduceCtorEq] at e <;> (subst e; simp (maxDischargeDepth := 60) [hz])

end Sys2Proof.Machine
end

