-- ==== Sys2Proof/Laws/KeepsTimeOps.lean ====
section
/-!
SUPPORT. What the operations of Machine/TimeOps.lean keep (Laws/Keeps.lean).
-/

namespace Sys2Proof.Machine

@[simp] theorem State.modTimeB_keeps {z : State} {s : State} (f : TimeB → TimeB) (hz : Keeps z s) : Keeps z (State.modTimeB s f) :=
  hz.of_eq rfl rfl rfl (Nat.le_refl _)

@[simp] theorem State.timeCycle_keeps {z : State} {s : State} (hz : Keeps z s) : Keeps z (State.timeCycle s) := by
  unfold State.timeCycle
  simp (maxDischargeDepth := 60) [hz]

@[simp] theorem State.setLine_keeps {z : State} {s : State} (n : Nat) (x : TimeLine) (hz : Keeps z s) : Keeps z (State.setLine s n x) :=
  hz.of_eq rfl rfl rfl (Nat.le_refl _)

@[simp] theorem State.lineWritten_keeps {z : State} {s : State} (n : Nat) (hz : Keeps z s) : Keeps z (State.lineWritten s n) := by
  unfold State.lineWritten
  simp (maxDischargeDepth := 60) [hz]

@[simp] theorem State.stepTo_keeps {z : State} {s : State} (new : Nat) (hz : Keeps z s) : Keeps z (State.stepTo s new) := by
  unfold State.stepTo
  simp +contextual (maxDischargeDepth := 60) [hz]

@[simp] theorem State.stepTime_keeps {z : State} {s : State} (d : Int) (hz : Keeps z s) : Keeps z (State.stepTime s d) := by
  unfold State.stepTime
  simp (maxDischargeDepth := 60) [hz]

@[simp] theorem State.setCaps_keeps {z : State} {s : State} (n : Nat) (cs : List Stamp) (hz : Keeps z s) : Keeps z (State.setCaps s n cs) := by
  unfold State.setCaps
  simp (maxDischargeDepth := 60) [hz]

theorem State.timeWrite_keeps {z : State} {s : State} (off : Nat) (wm v : Word) (hz : Keeps z s) {u : State} (e : State.timeWrite s off wm v = some u) : Keeps z u := by
  unfold State.timeWrite at e
  (repeat' split at e) <;> simp only [Option.some.injEq, reduceCtorEq] at e <;> (subst e; simp (maxDischargeDepth := 60) [hz])

@[simp] theorem State.timeRead_keeps {z : State} {s : State} (off : Nat) (hz : Keeps z s) : Keeps z (State.timeRead s off).2 := by
  unfold State.timeRead
  (dsimp only; repeat' split) <;> simp (maxDischargeDepth := 60) [hz]

end Sys2Proof.Machine
end

