-- ==== Sys2Proof/Laws/KeepsReset.lean ====
section
/-!
SUPPORT. What the operations of Machine/Reset.lean keep (Laws/Keeps.lean).
-/

namespace Sys2Proof.Machine

/-- The registers after reset are in canonical form. -/
theorem resetRegs_wf : SMap.wf 0 resetRegs = true := by decide

theorem State.resetRegsOf_wf (s : State) (warm : Bool) : SMap.wf 0 (s.resetRegsOf warm) = true := by
  have hb : SMap.wf 0 ((s.regs.filter fun e => isHbx e.1 || (warm && keptWarm e.1)).foldl (fun m e => SMap.put 0 m e.1 e.2)
      (resetRegs.filter fun e => !(isHbx e.1 || (warm && keptWarm e.1)))) = true :=
    SMap.foldl_put_wf (SMap.filter_wf resetRegs_wf)
  unfold State.resetRegsOf
  dsimp only
  split
  · exact SMap.foldl_wf (fun m x hm => SMap.put_wf hm) hb
  · exact hb

@[simp] theorem State.modHbx_keeps {z : State} {s : State} (f : Hatbox → Hatbox) (hz : Keeps z s) : Keeps z (State.modHbx s f) :=
  hz.of_eq rfl rfl rfl (Nat.le_refl _)

@[simp] theorem State.modBoot_keeps {z : State} {s : State} (f : Boot → Boot) (hz : Keeps z s) : Keeps z (State.modBoot s f) :=
  hz.of_eq rfl rfl rfl (Nat.le_refl _)

@[simp] theorem State.retItem_keeps {z : State} {s : State} (i : Nat) (b : Bool) (hz : Keeps z s) : Keeps z (State.retItem s i b) := by
  unfold State.retItem
  simp (maxDischargeDepth := 60) [hz]

@[simp] theorem State.retainMapsOf_keeps {z s : State} (u : State) (h : Keeps z s) : Keeps z (s.retainMapsOf u) := by
  unfold State.retainMapsOf
  simp (maxDischargeDepth := 60) [h]

@[simp] theorem State.retainMaps_keeps {z : State} {s : State} (hz : Keeps z s) : Keeps z (State.retainMaps s) := by
  unfold State.retainMaps
  simp (maxDischargeDepth := 60) [hz]

@[simp] theorem State.retainRemaps_keeps {z : State} {s : State} (hz : Keeps z s) : Keeps z (State.retainRemaps s) := by
  unfold State.retainRemaps
  simp (maxDischargeDepth := 60) [hz]

@[simp] theorem State.resetMain_keeps {z s : State} (warm : Bool) (cause : Nat) (h : Keeps z s) : Keeps z (s.resetMain warm cause) := by
  refine h.trans ?_
  unfold State.resetMain
  dsimp only
  generalize hz : ({ State.reset with
    regs := s.resetRegsOf warm, mem := s.mem.filter fun e => s.keepsByte warm e.1, prot := s.resetProt warm, free := s.free
    pending := s.pending, recd := { Recdr.reset with rseq := if warm then s.recd.rseq else 0 }
    hbx := s.hbx, otp := s.otp, nvm := { Nvm.reset with flash := s.nvm.flash } } : State) = y
  have hy : Keeps s y := by
    subst hz
    exact ⟨rfl, fun x => SMap.filter_wf x, fun _ => s.resetRegsOf_wf warm, Nat.le_refl _⟩
  have hw : Keeps s (s.hbx.maps.foldl (fun z e => z.wr e.1 e.2) y) := Keeps.foldl (fun t x ht => State.wr_keeps ht _ _) hy
  generalize s.hbx.maps.foldl (fun z e => z.wr e.1 e.2) y = x at hw
  refine Keeps.of_eq (t := ((((x.fset _ _ _).fset _ _ _).fset _ _ _).wr _ _)) ?_ rfl rfl rfl (Nat.le_refl _)
  simp (maxDischargeDepth := 60) [hw]

@[simp] theorem State.remapLines_keeps {z : State} {s : State} (hz : Keeps z s) : Keeps z (State.remapLines s) := by
  unfold State.remapLines
  simp +contextual (maxDischargeDepth := 60) [hz]

@[simp] theorem State.internalReset_keeps {z : State} {s : State} (cause : Nat) (hz : Keeps z s) : Keeps z (State.internalReset s cause) := by
  unfold State.internalReset
  simp (maxDischargeDepth := 60) [hz]

@[simp] theorem State.storeTime_keeps {z : State} {s : State} (hz : Keeps z s) : Keeps z (State.storeTime s) := by
  unfold State.storeTime
  simp (maxDischargeDepth := 60) [hz]

@[simp] theorem State.restoreTime_keeps {z : State} {s : State} (ticks : Nat) (hz : Keeps z s) : Keeps z (State.restoreTime s ticks) := by
  unfold State.restoreTime
  split <;> simp (maxDischargeDepth := 60) [hz]

end Sys2Proof.Machine
end

