-- ==== Sys2Proof/Laws/KeepsHbxOps.lean ====
section
/-!
SUPPORT. What the operations of Machine/HbxOps.lean keep (Laws/Keeps.lean).
-/

namespace Sys2Proof.Machine

@[simp] theorem State.hbxLog_keeps {z : State} {s : State} (ticks low value : Nat) (hz : Keeps z s) : Keeps z (State.hbxLog s ticks low value) := by
  unfold State.hbxLog
  simp (maxDischargeDepth := 60) [hz]

@[simp] theorem State.raisePmic_keeps {z : State} {s : State} (hz : Keeps z s) : Keeps z (State.raisePmic s) :=
  hz.of_eq rfl rfl rfl (Nat.le_refl _)

@[simp] theorem State.wake_keeps {z : State} {s : State} (rule : Nat) (hz : Keeps z s) : Keeps z (State.wake s rule) := by
  unfold State.wake
  simp (maxDischargeDepth := 60) [hz]

@[simp] theorem State.hbxEvent_keeps {z : State} {s : State} (ticks inp path value : Nat) (holds : Word → Bool) (hz : Keeps z s) : Keeps z (State.hbxEvent s ticks inp path value holds) := by
  unfold State.hbxEvent
  split <;> simp (maxDischargeDepth := 60) [hz]

@[simp] theorem State.fastEvent_keeps {z : State} {s : State} (ticks n : Nat) (old : Bool) (hz : Keeps z s) : Keeps z (State.fastEvent s ticks n old) := by
  unfold State.fastEvent
  simp (maxDischargeDepth := 60) [hz]

@[simp] theorem State.pmicOff_keeps {z : State} {s : State} (hz : Keeps z s) : Keeps z (State.pmicOff s) := by
  unfold State.pmicOff
  simp +contextual (maxDischargeDepth := 60) [hz]

@[simp] theorem State.stopAll_keeps {z : State} {s : State} (hz : Keeps z s) : Keeps z (State.stopAll s) := by
  unfold State.stopAll
  simp +contextual (maxDischargeDepth := 60) [hz]

@[simp] theorem State.assertPins_keeps {z : State} {s : State} (m : Nat) (hz : Keeps z s) : Keeps z (State.assertPins s m) := by
  unfold State.assertPins
  simp (maxDischargeDepth := 60) [hz]

@[simp] theorem State.sleep_keeps {z : State} {s : State} (hz : Keeps z s) : Keeps z (State.sleep s) := by
  unfold State.sleep
  simp (maxDischargeDepth := 60) [hz]

@[simp] theorem State.sleepRequest_keeps {z : State} {s : State} (init : Nat) (v : Word) (hz : Keeps z s) : Keeps z (State.sleepRequest s init v) := by
  unfold State.sleepRequest
  simp (maxDischargeDepth := 60) [hz]

@[simp] theorem State.pmicFail_keeps {z : State} {s : State} (ticks : Nat) (hz : Keeps z s) : Keeps z (State.pmicFail s ticks) := by
  unfold State.pmicFail
  simp (maxDischargeDepth := 60) [hz]

end Sys2Proof.Machine
end

