-- ==== Sys2Proof/Laws/KeepsPncOps.lean ====
section
/-!
SUPPORT. What the operations of Machine/PncOps.lean keep (Laws/Keeps.lean).
-/

namespace Sys2Proof.Machine

@[simp] theorem State.modPnc_keeps {z : State} {s : State} (f : Pnc → Pnc) (hz : Keeps z s) : Keeps z (State.modPnc s f) :=
  hz.of_eq rfl rfl rfl (Nat.le_refl _)

@[simp] theorem State.setEnt_keeps {z : State} {s : State} (n : Nat) (e : PncEnt) (hz : Keeps z s) : Keeps z (State.setEnt s n e) :=
  hz.of_eq rfl rfl rfl (Nat.le_refl _)

@[simp] theorem State.setNext_keeps {z : State} {s : State} (k i : Nat) (hz : Keeps z s) : Keeps z (State.setNext s k i) := by
  unfold State.setNext
  split <;> simp (maxDischargeDepth := 60) [hz]

@[simp] theorem State.deferSlice_keeps {z : State} {s : State} (n : Nat) (first : Bool) (hz : Keeps z s) : Keeps z (State.deferSlice s n first) := by
  unfold State.deferSlice
  simp (maxDischargeDepth := 60) [hz]

@[simp] theorem State.trySlice_keeps {z : State} {s : State} (n : Nat) (first : Bool) (hz : Keeps z s) : Keeps z (State.trySlice s n first) := by
  unfold State.trySlice
  split <;> simp (maxDischargeDepth := 60) [hz]

@[simp] theorem State.failLast_keeps {z : State} {s : State} (kind item detail : Nat) (startup : Bool) (hz : Keeps z s) : Keeps z (State.failLast s kind item detail startup) := by
  unfold State.failLast
  simp (maxDischargeDepth := 60) [hz]

@[simp] theorem State.sliceFail_keeps {z : State} {s : State} (n item detail : Nat) (hz : Keeps z s) : Keeps z (State.sliceFail s n item detail) := by
  unfold State.sliceFail
  simp (maxDischargeDepth := 60) [hz]

@[simp] theorem State.wakeWaiting_keeps {z : State} {s : State} (k : Nat) (hz : Keeps z s) : Keeps z (State.wakeWaiting s k) := by
  unfold State.wakeWaiting
  split <;> simp (maxDischargeDepth := 60) [hz]

@[simp] theorem State.sliceEnd_keeps {z : State} {s : State} (n : Nat) (hz : Keeps z s) : Keeps z (State.sliceEnd s n) := by
  unfold State.sliceEnd
  simp (maxDischargeDepth := 60) [hz]

@[simp] theorem State.sliceDone_keeps {z : State} {s : State} (n : Nat) (hz : Keeps z s) : Keeps z (State.sliceDone s n) := by
  unfold State.sliceDone
  simp (maxDischargeDepth := 60) [hz]

@[simp] theorem State.mtGo_keeps {z : State} {s : State} (hz : Keeps z s) : Keeps z (State.mtGo s) := by
  unfold State.mtGo
  simp (maxDischargeDepth := 60) [hz]

@[simp] theorem State.skipDue_keeps {z : State} {s : State} (hz : Keeps z s) : Keeps z (State.skipDue s) := by
  unfold State.skipDue
  simp +contextual (maxDischargeDepth := 60) [hz]

theorem State.pncWrite_keeps {z : State} {s : State} (off : Nat) (wm v : Word) (hz : Keeps z s) {u : State} (e : State.pncWrite s off wm v = some u) : Keeps z u := by
  unfold State.pncWrite at e
  (repeat' split at e) <;> simp only [Option.some.injEq, reduceCtorEq] at e <;> (subst e; simp (maxDischargeDepth := 60) [hz])

end Sys2Proof.Machine
end

