-- ==== Sys2Proof/Laws/KeepsSysRegs.lean ====
section
/-!
SUPPORT. What the operations of Machine/SysRegs.lean keep (Laws/Keeps.lean).
-/

namespace Sys2Proof.Machine

@[simp] theorem State.modOtp_keeps {z : State} {s : State} (f : Otp → Otp) (hz : Keeps z s) : Keeps z (State.modOtp s f) :=
  hz.of_eq rfl rfl rfl (Nat.le_refl _)

@[simp] theorem State.lcResult_keeps {z : State} {s : State} (r : Nat) (hz : Keeps z s) : Keeps z (State.lcResult s r) := by
  unfold State.lcResult
  simp (maxDischargeDepth := 60) [hz]

@[simp] theorem State.lcKeyed_keeps {z : State} {s : State} (key : Nat) (ok : Bool) (tgt : Nat) (hz : Keeps z s) : Keeps z (State.lcKeyed s key ok tgt) := by
  unfold State.lcKeyed
  simp (maxDischargeDepth := 60) [hz]

@[simp] theorem State.lcRma_keeps {z : State} {s : State} (hz : Keeps z s) : Keeps z (State.lcRma s) := by
  unfold State.lcRma
  simp (maxDischargeDepth := 60) [hz]

@[simp] theorem State.lcDebug_keeps {z : State} {s : State} (hz : Keeps z s) : Keeps z (State.lcDebug s) := by
  unfold State.lcDebug
  simp (maxDischargeDepth := 60) [hz]

@[simp] theorem State.lcRequest_keeps {z : State} {s : State} (v : Word) (hz : Keeps z s) : Keeps z (State.lcRequest s v) := by
  unfold State.lcRequest
  split <;> simp (maxDischargeDepth := 60) [hz]

@[simp] theorem State.drawNonce_keeps {z : State} {s : State} (hz : Keeps z s) : Keeps z (State.drawNonce s) := by
  unfold State.drawNonce
  simp +contextual (maxDischargeDepth := 60) [hz]

@[simp] theorem State.ipi_keeps {z : State} {s : State} (init : Nat) (v : Word) (hz : Keeps z s) : Keeps z (State.ipi s init v) := by
  unfold State.ipi
  simp (maxDischargeDepth := 60) [hz]

theorem State.sysWrite_keeps {z s : State} (rq : Rq) (off : Nat) (wm v : Word) (h : Keeps z s) {u : State} (e : State.sysWrite s rq off wm v = some u) : Keeps z u := by
  unfold State.sysWrite at e
  (dsimp only at e; repeat' split at e) <;> simp only [Option.some.injEq, Option.map_eq_some_iff] at e
  · subst e; simp [h]
  · subst e; simp [h]
  · subst e; simp [h]
  · subst e; simp [h]
  · obtain ⟨n, -, rfl⟩ := e
    simp [h]

@[simp] theorem State.sysRead_keeps {z : State} {s : State} (off : Nat) (hz : Keeps z s) : Keeps z (State.sysRead s off).2 := by
  unfold State.sysRead
  simp (maxDischargeDepth := 60) [hz]

@[simp] theorem State.gpioSync_keeps {z : State} {s : State} (hz : Keeps z s) : Keeps z (State.gpioSync s) := by
  unfold State.gpioSync
  simp (maxDischargeDepth := 60) [hz]

theorem State.clkWrite_keeps {z : State} {s : State} (off : Nat) (wm v : Word) (hz : Keeps z s) {u : State} (e : State.clkWrite s off wm v = some u) : Keeps z u := by
  unfold State.clkWrite at e
  (repeat' split at e) <;> simp only [Option.some.injEq, reduceCtorEq] at e <;> (subst e; simp (maxDischargeDepth := 60) [hz])

end Sys2Proof.Machine
end

