-- ==== Sys2Proof/Laws/KeepsMmio.lean ====
section
/-!
SUPPORT. What the operations of Machine/Mmio.lean keep (Laws/Keeps.lean).
-/

namespace Sys2Proof.Machine

@[simp] theorem State.plainWrite_keeps {z : State} {s : State} (off : Nat) (wm v : Word) (hz : Keeps z s) : Keeps z (State.plainWrite s off wm v) := by
  unfold State.plainWrite
  split <;> simp (maxDischargeDepth := 60) [hz]

@[simp] theorem State.regWrite_keeps {z s : State} (rq : Rq) (off : Nat) (wm v : Word) (h : Keeps z s) : Keeps z (s.regWrite rq off wm v) := by
  have orPlain : ∀ o : Option State, (∀ u, o = some u → Keeps z u) → Keeps z (o.getD (s.plainWrite off wm v)) := by
    intro o ho
    cases o with
    | none => simp [h]
    | some u => exact ho u rfl
  unfold State.regWrite
  apply orPlain
  intro u e
  split at e
  · exact State.sysWrite_keeps rq off wm v h e
  · exact State.fcruWrite_keeps rq off wm v h e
  · exact State.triWrite_keeps rq off wm v h e
  · exact State.fulWrite_keeps off wm v h e
  · exact State.gateWrite_keeps off wm v h e
  · exact State.memRegWrite_keeps off wm v h e
  · exact State.edcWrite_keeps off wm v h e
  · exact State.ethWrite_keeps off wm v h e
  · exact State.ethWrite_keeps off wm v h e
  · exact State.admWrite_keeps off wm v h e
  · exact State.dhpWrite_keeps rq off wm v h e
  · exact State.recWrite_keeps off wm v h e
  · exact State.timeWrite_keeps off wm v h e
  · exact State.pncWrite_keeps off wm v h e
  · exact State.clkWrite_keeps off wm v h e
  · cases e

@[simp] theorem State.regRead_keeps {z : State} {s : State} (_rq : Rq) (off : Nat) (hz : Keeps z s) : Keeps z (State.regRead s _rq off).2 := by
  unfold State.regRead
  split <;> simp (maxDischargeDepth := 60) [hz]

@[simp] theorem State.mmioAt_keeps {z s : State} (m : MeshReq) (off : Nat) (h : Keeps z s) : Keeps z (s.mmioAt m off).2 := by
  unfold State.mmioAt
  dsimp only
  split
  · exact h
  · split
    · exact State.regWrite_keeps _ _ _ _ h
    · exact State.regRead_keeps _ _ h
    · exact State.regRead_keeps _ _ h
    · exact h

@[simp] theorem State.mmioAccess_keeps {z s : State} (m : MeshReq) (h : Keeps z s) : Keeps z (s.mmioAccess m).2 :=
  State.mmioAt_keeps m _ h

@[simp] theorem State.gatedWrite_keeps {z s : State} (rq : Rq) (off : Nat) (v : Word) (h : Keeps z s) : Keeps z (s.gatedWrite rq off v) := by
  unfold State.gatedWrite
  dsimp only
  split
  · rename_i e
    exact State.gateDenies_keeps _ h e
  · exact State.regWrite_keeps _ _ _ _ h

@[simp] theorem State.gatedRead_keeps {z s : State} (rq : Rq) (off : Nat) (h : Keeps z s) : Keeps z (s.gatedRead rq off).2 := by
  unfold State.gatedRead
  dsimp only
  split
  · rename_i e
    exact State.gateDenies_keeps _ h e
  · exact State.regRead_keeps _ _ h

end Sys2Proof.Machine
end

