-- ==== Sys2Proof/Laws/KeepsTarget.lean ====
section
/-!
SUPPORT. What the operations of Machine/Target.lean keep (Laws/Keeps.lean).
-/

namespace Sys2Proof.Machine

@[simp] theorem State.breakResv_keeps {z : State} {s : State} (init granule : Nat) (hz : Keeps z s) : Keeps z (State.breakResv s init granule) :=
  hz.of_eq rfl rfl rfl (Nat.le_refl _)

@[simp] theorem State.freeData_keeps {z s : State} (pa len u n d : Nat) (h : Keeps z s) : Keeps z (s.freeData pa len u n d).2 := by
  induction n with
  | zero => exact h
  | succ n ih =>
    unfold State.freeData
    dsimp only
    split
    · exact ih
    · exact State.fresh_keeps ih

@[simp] theorem State.tcmWindow_keeps {z : State} {s : State} (pa len : Nat) (hz : Keeps z s) : Keeps z (State.tcmWindow s pa len).2 := by
  unfold State.tcmWindow
  (dsimp only; repeat' split) <;> simp +contextual (maxDischargeDepth := 60) [hz]

@[simp] theorem State.memRead_keeps {z s : State} (pa len : Nat) (h : Keeps z s) : Keeps z (s.memRead pa len).2 := by
  unfold State.memRead
  split
  · exact State.tcmWindow_keeps _ _ h
  · rename_i k _
    split
    · exact h
    · split
      · exact State.zodFail_keeps h
      · refine Keeps.foldl_snd (fun x u hx => ?_) h
        have hu := State.unitRead_keeps k u hx
        dsimp only
        split
        · exact hu.snd (by assumption)
        · exact hu.snd (by assumption)
        · have hv := hu.snd (by assumption)
          split
          · exact hv
          · exact State.freeData_keeps _ _ _ _ _ hv

@[simp] theorem State.tcmStoreOne_keeps {z : State} {s : State} (k off len v : Nat) (hz : Keeps z s) : Keeps z (State.tcmStoreOne s k off len v) := by
  unfold State.tcmStoreOne
  simp (maxDischargeDepth := 60) [hz]

@[simp] theorem State.tcmStoreAt_keeps {z : State} {s : State} (pa len v : Nat) (hz : Keeps z s) : Keeps z (State.tcmStoreAt s pa len v) := by
  unfold State.tcmStoreAt
  simp +contextual (maxDischargeDepth := 60) [hz]

@[simp] theorem State.noteForeign_keeps {z : State} {s : State} (init pa len : Nat) (hz : Keeps z s) : Keeps z (State.noteForeign s init pa len) :=
  hz.of_eq rfl rfl rfl (Nat.le_refl _)

@[simp] theorem State.memWrite_keeps {z : State} {s : State} (init pa len v : Nat) (hz : Keeps z s) : Keeps z (State.memWrite s init pa len v).2 := by
  unfold State.memWrite
  (dsimp only; repeat' split) <;> simp +contextual (maxDischargeDepth := 60) [hz]

@[simp] theorem State.memAtomic_keeps {z s : State} (m : MeshReq) (h : Keeps z s) : Keeps z (s.memAtomic m).2 := by
  have hr := State.memRead_keeps m.pa.toNat m.len h
  have hw : ∀ t, Keeps z t → ∀ v, Keeps z (t.memWrite m.rq.init.val m.pa.toNat m.len v).2 := fun t ht v => State.memWrite_keeps _ _ _ _ ht
  unfold State.memAtomic
  dsimp only
  split
  · split
    · exact hr.of_eq rfl rfl rfl (Nat.le_refl _)
    · exact hr
  · split
    · dsimp only
      refine hw _ ?_ _
      exact hr.of_eq rfl rfl rfl (Nat.le_refl _)
    · exact hr.of_eq rfl rfl rfl (Nat.le_refl _)
  all_goals
    split
    · split
      · exact hr
      · dsimp only
        exact hw _ hr _
    · exact hr

@[simp] theorem State.perform_keeps {z s : State} (m : MeshReq) (h : Keeps z s) : Keeps z (s.perform m).2 := by
  unfold State.perform
  split
  · exact State.mmioAccess_keeps m h
  · split <;> simp [h]

@[simp] theorem State.serveWaiting_keeps {z s : State} (h : Keeps z s) : Keeps z s.serveWaiting :=
  Keeps.foldl (fun t f ht => Keeps.ite ht ((State.perform_keeps f.req ht).of_eq rfl rfl rfl (Nat.le_refl _))) h

@[simp] theorem State.target_keeps {z s : State} (m : MeshReq) (h : Keeps z s) : Keeps z (s.target m).2 :=
  State.perform_keeps m (Keeps.ite (State.serveWaiting_keeps (State.memReady_keeps _ _ h)) h)

@[simp] theorem State.serve_keeps {z s : State} (m : MeshReq) (h : Keeps z s) : Keeps z (s.serve m).2 := by
  unfold State.serve
  split
  · exact State.gateDenies_keeps m h (by assumption)
  · exact State.target_keeps m h

@[simp] theorem State.serveAt_keeps {z : State} {s : State} (m : MeshReq) (a : Word) (hz : Keeps z s) : Keeps z (State.serveAt s m a).2 := by
  unfold State.serveAt
  (repeat' (first | (rename _ = (_, _) => heq; have hs1 := Keeps.snd (s := z) (by clear heq; simp [*]; done) heq; clear heq) | (rename _ = (_, _) => heq; have hs1 := Keeps.fst (s := z) (by clear heq; simp [*]; done) heq; clear heq) | (dsimp only) | split)) <;> simp (maxDischargeDepth := 60) [*]

@[simp] theorem State.recountTags_keeps {z : State} {s : State} (q : Nat) (hz : Keeps z s) : Keeps z (State.recountTags s q) := by
  unfold State.recountTags
  simp +contextual (maxDischargeDepth := 60) [hz]

@[simp] theorem State.issueAs_keeps {z s : State} (own : Bool) (m : MeshReq) (h : Keeps z s) : Keeps z (s.issueAs own m) := by
  unfold State.issueAs
  dsimp only
  split
  · exact State.recountTags_keeps _ ((State.memDemand_keeps _ h).of_eq rfl rfl rfl (Nat.le_refl _))
  · exact State.recountTags_keeps _ ((State.serve_keeps m h).of_eq rfl rfl rfl (Nat.le_refl _))

@[simp] theorem State.meshIssue_keeps {z : State} {s : State} (m : MeshReq) (hz : Keeps z s) : Keeps z (State.meshIssue s m) := by
  unfold State.meshIssue
  simp (maxDischargeDepth := 60) [hz]

@[simp] theorem State.dropFlight_keeps {z : State} {s : State} (f : Flight) (hz : Keeps z s) : Keeps z (State.dropFlight s f) := by
  unfold State.dropFlight
  simp (maxDischargeDepth := 60) [hz]

@[simp] theorem State.meshPost_keeps {z : State} {s : State} (m : MeshReq) (hz : Keeps z s) : Keeps z (State.meshPost s m) := by
  unfold State.meshPost
  simp (maxDischargeDepth := 60) [hz]

end Sys2Proof.Machine
end

