-- ==== Sys2Proof/Laws/KeepsFence.lean ====
section
/-!
SUPPORT. What the operations of Machine/Fence.lean keep (Laws/Keeps.lean).
-/

namespace Sys2Proof.Machine

/-- A change of copies draws no free value. -/
theorem State.forCopies_free (s : State) (t : Nat) (cs : List Nat) (f : Copy → Copy) : (s.forCopies t cs f).free = s.free := by
  unfold State.forCopies
  induction cs generalizing s with
  | nil => rfl
  | cons c cs ih => exact ih _

@[simp] theorem State.tcmPut_keeps {z s : State} (k off : Nat) (l : List Word) (h : Keeps z s) : Keeps z (s.tcmPut k off l) := by
  induction l generalizing s off with
  | nil => exact h
  | cons v r ih => exact ih _ (State.setBytes_keeps h _ _ _)

@[simp] theorem State.tcmWrite_keeps {z s : State} (k off : Nat) (l : List Word) (h : Keeps z s) : Keeps z (s.tcmWrite k off l) := by
  have one : ∀ (u : State) (j : Nat), Keeps z u →
      Keeps z (((u.tcmPut j off l).tcmMark (tcmAddr j off) (8 * l.length)).modCopy j fun c => c.mend .tcm (off % 0x10000 / 8) l.length) :=
    fun u j hu => State.modCopy_keeps _ _ (State.tcmMark_keeps _ _ (State.tcmPut_keeps _ _ _ hu))
  unfold State.tcmWrite
  exact Keeps.foldl (fun u j hu => one u j hu) (one _ _ h)

@[simp] theorem State.takeEntry_keeps {z s : State} (k : Nat) (e : EntryFor) (pc : Word) (h : Keeps z s) : Keeps z (s.takeEntry k e pc) := by
  unfold State.takeEntry
  dsimp only
  split
  · exact State.setCopy_keeps _ _ h
  · split
    · split
      · exact State.raise_keeps _ (State.arrayUe_keeps _ (State.setCopy_keeps _ _ h))
      · exact State.setCopy_keeps _ _ h
    · exact (State.tcmWrite_keeps _ _ _ (State.setCopy_keeps _ _ h)).of_eq rfl rfl rfl (Nat.le_refl _)

@[simp] theorem State.ueStop_keeps {z : State} {s : State} (t : Nat) (a : ArrayId) (hz : Keeps z s) : Keeps z (State.ueStop s t a) := by
  unfold State.ueStop
  simp (maxDischargeDepth := 60) [hz]

@[simp] theorem State.groupUe_keeps {z : State} {s : State} (t : Nat) (y0 : List (Nat × ArrayId × Nat)) (hz : Keeps z s) : Keeps z (State.groupUe s t y0).2 := by
  unfold State.groupUe
  (repeat' (first | (rename _ = (_, _) => heq; have hs1 := Keeps.snd (s := z) (by clear heq; simp [*]; done) heq; clear heq) | (rename _ = (_, _) => heq; have hs1 := Keeps.fst (s := z) (by clear heq; simp [*]; done) heq; clear heq) | (dsimp only) | split)) <;> simp (maxDischargeDepth := 60) [*]

@[simp] theorem State.enterAll_keeps {z s : State} (t : Nat) (es : List (Nat × EntryFor × Word)) (h : Keeps z s) : Keeps z (s.enterAll t es) := by
  unfold State.enterAll
  dsimp only
  have hr : Keeps z (((es.filter fun x => decide ((s.copy (copyIx t x.1)).depth < 32)).map fun x =>
      (x.1, (s.copy (copyIx t x.1)).vectorWord x.2.1)).foldl (fun s x => s.arrayRead (copyIx t x.1) x.2) s) :=
    Keeps.foldl (fun _ _ hu => State.arrayRead_keeps _ _ hu) h
  split
  · rename_i hq
    exact Keeps.snd (State.groupUe_keeps t _ hr) hq
  · rename_i hq
    exact Keeps.foldl (fun _ _ hu => State.takeEntry_keeps _ _ _ hu) (Keeps.snd (State.groupUe_keeps t _ hr) hq)

@[simp] theorem State.trapCopies_keeps {z s : State} (t : Nat) (ts : List (Nat × TrapInfo)) (h : Keeps z s) : Keeps z (s.trapCopies t ts) :=
  State.enterAll_keeps _ _ h

@[simp] theorem State.updateLines_keeps {z s : State} (t : Nat) (ks : List Nat) (x : Half) (v : Nat) (d : Bool) (h : Keeps z s) :
    Keeps z (s.updateLines t ks x v d) := State.forCopies_keeps _ _ _ h

@[simp] theorem State.stall_keeps {z s : State} (t : Nat) (ks : List Nat) (b : Nat × Nat) (h : Keeps z s) : Keeps z (s.stall t ks b) := by
  unfold State.stall
  refine (State.forCopies_keeps t ks _ h).trans ⟨rfl, id, id, ?_⟩
  rw [State.forCopies_free]
  exact Nat.le_succ _

@[simp] theorem State.coreServe_keeps {z s : State} (t : Nat) (ks : List Nat) (got : Got) (m : MeshReq) (a : Word) (h : Keeps z s) :
    Keeps z (s.coreServe t ks got m a).2.2 := by
  unfold State.coreServe
  split
  · exact h
  · split
    · split
      · exact h.of_eq rfl rfl rfl (Nat.le_refl _)
      · split
        · exact State.stall_keeps _ _ _ (State.dropFlight_keeps _ h)
        · exact h
    · split
      · exact State.issueAs_keeps _ _ h
      · exact State.stall_keeps _ _ _ (State.serveAt_keeps _ _ h)

@[simp] theorem State.victimClean_keeps {z s : State} (t tag : Nat) (ks : List Nat) (got : Got) (c : Copy) (key : Nat) (h : Keeps z s) :
    Keeps z (s.victimClean t tag ks got c key).2.2 := by
  unfold State.victimClean
  dsimp only
  split
  · exact State.coreServe_keeps _ _ _ _ _ h
  · exact h

theorem onOk_keeps {z : State} {x : Option Resp × Got × State} {f : Resp → State → State} (h : Keeps z x.2.2)
    (hf : ∀ r u, Keeps z u → Keeps z (f r u)) : Keeps z (onOk x f).2.2 := by
  unfold onOk
  split
  · split
    · exact hf _ _ h
    · exact h
  · exact h

@[simp] theorem State.accessHalf_keeps {z s : State} (t tag : Nat) (ks : List Nat) (acc : Access) (i : Nat) (x : Half) (got : Got) (h : Keeps z s) :
    Keeps z (s.accessHalf t tag ks acc i x got).2.2 := by
  have hc : ∀ m a, Keeps z (s.coreServe t ks got m a).2.2 := fun m a => State.coreServe_keeps t ks got m a h
  unfold State.accessHalf
  dsimp only
  split
  · exact hc _ _
  · have hv := State.victimClean_keeps t tag ks got (s.copy (copyIx t (ks.headD 0))) ‹Nat› h
    generalize State.victimClean _ _ _ _ _ _ _ = r at hv ⊢
    split
    · split
      · exact hv
      · exact onOk_keeps (State.coreServe_keeps _ _ _ _ _ hv) fun _ _ hu => State.forCopies_keeps _ _ _ hu
    · exact hv
  · exact State.forCopies_keeps _ _ _ h
  · exact h
  · exact h
  · split
    · exact State.updateLines_keeps _ _ _ _ _ h
    · exact onOk_keeps (hc _ _) fun _ _ hu => State.updateLines_keeps _ _ _ _ _ hu
  · exact hc _ _
  · exact onOk_keeps (hc _ _) fun _ _ hu => State.forCopies_keeps _ _ _ hu

@[simp] theorem State.tcmStore_keeps {z : State} {s : State} (k : Nat) (acc : Access) (i : Nat) (h : Half) (hz : Keeps z s) : Keeps z (State.tcmStore s k acc i h) := by
  unfold State.tcmStore
  split <;> simp (maxDischargeDepth := 60) [hz]

@[simp] theorem State.setGot_keeps {z : State} {s : State} (t tag : Nat) (got : Got) (hz : Keeps z s) : Keeps z (State.setGot s t tag got) := by
  unfold State.setGot
  simp (maxDischargeDepth := 60) [hz]

@[simp] theorem State.accessAll_keeps {z s : State} (t tag : Nat) (ks : List Nat) (accs : List (Nat × Access)) (acc : Access) (got : Got)
    (l : List Half) (i : Nat) (data : List Nat) (h : Keeps z s) : Keeps z (s.accessAll t tag ks accs acc got l i data).2 := by
  induction l generalizing s i data got with
  | nil => exact State.setGot_keeps _ _ _ h
  | cons x r ih =>
    unfold State.accessAll
    have ha := State.accessHalf_keeps t tag ks acc i x got h
    generalize State.accessHalf _ _ _ _ _ _ _ _ = q at ha ⊢
    split
    · exact State.setGot_keeps _ _ _ ha
    · split
      · exact State.setGot_keeps _ _ _ ha
      · exact ih _ _ _ (Keeps.foldl (fun _ _ hu => State.tcmStore_keeps _ _ _ _ hu) ha)

@[simp] theorem State.countCommit_keeps {z : State} {s : State} (t c : Nat) (grp : Bool) (hz : Keeps z s) : Keeps z (State.countCommit s t c grp) := by
  unfold State.countCommit
  simp (maxDischargeDepth := 60) [hz]

@[simp] theorem State.noteReads_keeps {z : State} {s : State} (t : Nat) (ls : List (Nat × Local)) (hz : Keeps z s) : Keeps z (State.noteReads s t ls) := by
  unfold State.noteReads
  simp +contextual (maxDischargeDepth := 60) [hz]

@[simp] theorem State.applyInject_keeps {z s : State} (t : Nat) (bs : List (Nat × List Bundle)) (h : Keeps z s) : Keeps z (s.applyInject t bs).2 := by
  unfold State.applyInject
  split
  · exact h
  · split
    · dsimp only
      exact State.modTriad_keeps _ _ h
    · exact h

@[simp] theorem State.commitOne_keeps {z : State} {s : State} (t : Nat) (g : Guard) (got : List Nat) (x : Nat × Local) (hz : Keeps z s) : Keeps z (State.commitOne s t g got x) :=
  hz.of_eq rfl rfl rfl (Nat.le_refl _)

@[simp] theorem State.commitAll_keeps {z s : State} (t tag : Nat) (g : Guard) (ls : List (Nat × Local)) (h : Keeps z s) :
    Keeps z (s.commitAll t tag g ls).2 := by
  unfold State.commitAll
  split
  · exact h
  · rename_i c l0 r
    split
    · exact State.trapCopies_keeps _ _ h
    · cases l0.acc with
      | none => exact Keeps.foldl (fun _ _ hu => State.commitOne_keeps _ _ _ _ hu) h
      | some acc =>
        dsimp only
        have ha := State.accessAll_keeps t tag (((c, l0) :: r).map (·.1)) (((c, l0) :: r).filterMap fun (x : Nat × Local) =>
          x.2.acc.map fun a => (x.1, a)) acc (s.gotOf t tag) acc.halves 0 [] h
        split
        · exact ha
        · exact State.trapCopies_keeps _ _ ha
        · exact Keeps.foldl (fun _ _ hu => State.commitOne_keeps _ _ _ _ hu) ha

@[simp] theorem State.release_keeps {z s : State} (w : Who) (g : Guard) (ls : List (Nat × Local)) (h : Keeps z s) :
    Keeps z (s.release w g ls).1 := by
  have hc := State.commitAll_keeps w.t.val (s.copyTag w) g ls h
  unfold State.release
  dsimp only
  generalize State.commitAll s _ _ _ _ = q at hc ⊢
  split
  · split
    · exact hc
    · exact State.countCommit_keeps _ _ _ hc
  · exact hc
  · exact hc

@[simp] theorem State.drainStep_keeps {z : State} {s : State} (t tag : Nat) (l : Local) (hz : Keeps z s) : Keeps z (State.drainStep s t tag l).2 := by
  unfold State.drainStep
  (repeat' (first | (rename _ = (_, _) => heq; have hs1 := Keeps.snd (s := z) (by clear heq; simp [*]; done) heq; clear heq) | (rename _ = (_, _) => heq; have hs1 := Keeps.fst (s := z) (by clear heq; simp [*]; done) heq; clear heq) | (dsimp only) | split)) <;> simp (maxDischargeDepth := 60) [*]

@[simp] theorem State.letGo_keeps {z s : State} (w : Who) (g : Guard) (ls : List (Nat × Local)) (h : Keeps z s) : Keeps z (s.letGo w g ls).1 := by
  unfold State.letGo
  dsimp only
  split
  · exact h
  · split
    · exact State.release_keeps _ _ _ h
    · split
      · exact h
      · have hd := fun l => State.drainStep_keeps w.t.val (s.copyTag w) l h
        split
        · exact Keeps.snd (hd _) ‹_›
        · exact State.release_keeps _ _ _ (Keeps.snd (hd _) ‹_›)

@[simp] theorem State.finishOne_keeps {z s : State} (t : Nat) (g : Guard) (ls : List (Nat × Local)) (c : Nat) (h : Keeps z s) :
    Keeps z (s.finishOne t g ls c) := by
  unfold State.finishOne
  split
  · exact h
  · split
    · exact State.takeEntry_keeps _ _ _ h
    · split
      · exact State.commitAll_keeps _ _ _ _ h
      · exact h

theorem State.compare_keeps {z s : State} (t : Nat) (fetch : Bool) (finish : State → Nat → State) (bs : List (Nat × List Bundle)) (h : Keeps z s)
    (hf : ∀ u c, Keeps z u → Keeps z (finish u c)) : Keeps z (s.compare t fetch finish bs).2 := by
  unfold State.compare
  split
  · exact h
  · exact State.oddCopy_keeps _ _ _ (State.recordMismatch_keeps _ _ _ _ (hf _ _ h))
  · exact State.pairMismatch_keeps _ (State.recordMismatch_keeps _ _ _ _ (Keeps.foldl (fun _ _ hu => hf _ _ hu) h))

theorem State.fence_keeps {z s : State} (t : Nat) (fetch : Bool) (hits : List (Nat × ArrayId × Nat)) (finish : State → Nat → State)
    (bs : List (Nat × List Bundle)) (h : Keeps z s) (hf : ∀ u c, Keeps z u → Keeps z (finish u c)) :
    Keeps z (s.fence t fetch hits finish bs).2 := by
  unfold State.fence
  dsimp only
  split
  · exact State.stopTriad_keeps _ (Keeps.foldl (fun _ _ hu => hf _ _ hu) (State.raise_keeps _ h))
  · have hg := fun l => State.groupUe_keeps t l h
    split
    · exact Keeps.foldl (fun _ _ hu => hf _ _ hu) (Keeps.snd (hg _) ‹_›)
    · exact State.compare_keeps _ _ _ _ (Keeps.snd (hg _) ‹_›) hf

@[simp] theorem State.splitUe_keeps {z s : State} (t tag c : Nat) (l : Local) (r : ArrayId × Nat) (h : Keeps z s) :
    Keeps z (s.splitUe t tag c l r) := by
  have hf : ∀ u : State, Keeps z u → Keeps z ((u.arrayUe (arrayCode (copyIx t c) r.1 r.2)).raise (ueSrc t r.1)) :=
    fun u hu => State.raise_keeps _ (State.arrayUe_keeps _ hu)
  unfold State.splitUe
  dsimp only
  split
  · exact State.trapCopies_keeps _ _ (hf _ h)
  · split
    · exact State.modCopy_keeps _ _ (hf _ h)
    · split
      · exact State.trapCopies_keeps _ _ (hf _ h)
      · rename_i acc _
        have ha := fun before => State.accessAll_keeps t tag [c] [(c, acc)] acc (s.gotOf t tag) before 0 [] h
        split
        · exact Keeps.snd (ha _) ‹_›
        · exact State.trapCopies_keeps _ _ (Keeps.snd (ha _) ‹_›)
        · exact State.trapCopies_keeps _ _ (hf _ (Keeps.snd (ha _) ‹_›))

@[simp] theorem State.runOn_keeps {z s : State} (w : Who) (ks : List Nat) (g : Guard) (undef : Bool) (skip body : State → Nat → Copy → Local)
    (h : Keeps z s) : Keeps z (s.runOn w ks g undef skip body).1 := by
  unfold State.runOn
  dsimp only
  have hi := fun ls bs => State.applyInject_keeps w.t.val bs (State.noteReads_keeps w.t.val ls h)
  split
  · split
    · exact State.splitUe_keeps _ _ _ _ _ (hi _ _)
    · exact State.letGo_keeps _ _ _ (hi _ _)
  · have hf := fun ls bs ht fin hfin bs2 => State.fence_keeps w.t.val false ht fin bs2 (hi ls bs) hfin
    split
    · exact State.letGo_keeps _ _ _ (Keeps.snd (hf _ _ _ _ (fun _ _ hu => State.finishOne_keeps _ _ _ _ hu) _) ‹_›)
    · exact Keeps.snd (hf _ _ _ _ (fun _ _ hu => State.finishOne_keeps _ _ _ _ hu) _) ‹_›

@[simp] theorem State.runInstr_keeps {z s : State} (w : Who) (g : Guard) (undef : Bool) (skip body : State → Nat → Copy → Local) (h : Keeps z s) :
    Keeps z (s.runInstr w g undef skip body).1 := State.runOn_keeps _ _ _ _ _ _ h

theorem State.runThen_keeps {z s : State} (w : Who) (g : Guard) (undef : Bool) (body : State → Nat → Copy → Local)
    (post : List Nat → Copy → State → State) (h : Keeps z s) (hp : ∀ ks c u, Keeps z u → Keeps z (post ks c u)) :
    Keeps z (s.runThen w g undef body post) := by
  have hr := State.runInstr_keeps w g undef (fun _ _ c => Local.nop c) body h
  unfold State.runThen
  dsimp only
  split
  · exact hr
  · split
    · exact hp _ _ _ hr
    · exact hr

@[simp] theorem State.run_keeps {z s : State} (w : Who) (g : Guard) (undef : Bool) (body : Copy → Local) (h : Keeps z s) :
    Keeps z (s.run w g undef body) := State.runInstr_keeps _ _ _ _ _ h

end Sys2Proof.Machine
end

