-- ==== Sys2Proof/Laws/KeepsAlu.lean ====
section
/-!
SUPPORT. What the operations of Machine/Alu.lean keep (Laws/Keeps.lean).
-/

namespace Sys2Proof.Machine

theorem execAddAdcSubSbc_keeps {z : State} (w : Who) (g : Guard) (fn : AddOp) (sf : Bool) (d a b : RegNo) {s : State} (hz : Keeps z s) {u : State} (e : execAddAdcSubSbc w g fn sf d a b s = .next u) : Keeps z u := by
  simp only [execAddAdcSubSbc, Host.Outcome.next.injEq] at e
  subst e
  simp (maxDischargeDepth := 60) [hz]

theorem execAndOrXorAndnOrn_keeps {z : State} (w : Who) (g : Guard) (fn : LogicOp) (sf : Bool) (d a b : RegNo) {s : State} (hz : Keeps z s) {u : State} (e : execAndOrXorAndnOrn w g fn sf d a b s = .next u) : Keeps z u := by
  simp only [execAndOrXorAndnOrn, Host.Outcome.next.injEq] at e
  subst e
  simp (maxDischargeDepth := 60) [hz]

theorem execSllSrlSraRor_keeps {z : State} (w : Who) (g : Guard) (fn : ShiftOp) (sf : Bool) (d a b : RegNo) {s : State} (hz : Keeps z s) {u : State} (e : execSllSrlSraRor w g fn sf d a b s = .next u) : Keeps z u := by
  simp only [execSllSrlSraRor, Host.Outcome.next.injEq] at e
  subst e
  simp (maxDischargeDepth := 60) [hz]

theorem execMinMaxMinuMaxu_keeps {z : State} (w : Who) (g : Guard) (fn : MinMaxOp) (sf : Bool) (d a b : RegNo) {s : State} (hz : Keeps z s) {u : State} (e : execMinMaxMinuMaxu w g fn sf d a b s = .next u) : Keeps z u := by
  simp only [execMinMaxMinuMaxu, Host.Outcome.next.injEq] at e
  subst e
  simp (maxDischargeDepth := 60) [hz]

theorem execSextZext_keeps {z : State} (w : Who) (g : Guard) (fn : ExtOp) (sf : Bool) (d a b : RegNo) {s : State} (hz : Keeps z s) {u : State} (e : execSextZext w g fn sf d a b s = .next u) : Keeps z u := by
  simp only [execSextZext, Host.Outcome.next.injEq] at e
  subst e
  simp (maxDischargeDepth := 60) [hz]

theorem execClzCtzPopcRev_keeps {z : State} (w : Who) (g : Guard) (fn : CountOp) (sf : Bool) (d a b : RegNo) {s : State} (hz : Keeps z s) {u : State} (e : execClzCtzPopcRev w g fn sf d a b s = .next u) : Keeps z u := by
  simp only [execClzCtzPopcRev, Host.Outcome.next.injEq] at e
  subst e
  simp (maxDischargeDepth := 60) [hz]

theorem execSltSltu_keeps {z : State} (w : Who) (g : Guard) (uns sf : Bool) (d a b : RegNo) {s : State} (hz : Keeps z s) {u : State} (e : execSltSltu w g uns sf d a b s = .next u) : Keeps z u := by
  simp only [execSltSltu, Host.Outcome.next.injEq] at e
  subst e
  simp (maxDischargeDepth := 60) [hz]

theorem execAddiAndiOriXori_keeps {z : State} (w : Who) (g : Guard) (fn : ImmOp) (d a : RegNo) (imm : BitVec 13) {s : State} (hz : Keeps z s) {u : State} (e : execAddiAndiOriXori w g fn d a imm s = .next u) : Keeps z u := by
  simp only [execAddiAndiOriXori, Host.Outcome.next.injEq] at e
  subst e
  simp (maxDischargeDepth := 60) [hz]

theorem execShi_keeps {z0 : State} (w : Who) (g : Guard) (fn : ShiftOp) (sf : Bool) (d a : RegNo) (amt : BitVec 6) (z : BitVec 2) {s : State} (hz : Keeps z0 s) {u : State} (e : execShi w g fn sf d a amt z s = .next u) : Keeps z0 u := by
  simp only [execShi, Host.Outcome.next.injEq] at e
  subst e
  simp (maxDischargeDepth := 60) [hz]

theorem execCmpi_keeps {z : State} (w : Who) (g : Guard) (d a : RegNo) (imm : BitVec 11) {s : State} (hz : Keeps z s) {u : State} (e : execCmpi w g d a imm s = .next u) : Keeps z u := by
  simp only [execCmpi, Host.Outcome.next.injEq] at e
  subst e
  simp (maxDischargeDepth := 60) [hz]

theorem execMovi_keeps {z : State} (w : Who) (g : Guard) (d : RegNo) (imm : BitVec 16) {s : State} (hz : Keeps z s) {u : State} (e : execMovi w g d imm s = .next u) : Keeps z u := by
  simp only [execMovi, Host.Outcome.next.injEq] at e
  subst e
  simp (maxDischargeDepth := 60) [hz]

theorem execMovh_keeps {z : State} (w : Who) (g : Guard) (d : RegNo) (imm : BitVec 16) {s : State} (hz : Keeps z s) {u : State} (e : execMovh w g d imm s = .next u) : Keeps z u := by
  simp only [execMovh, Host.Outcome.next.injEq] at e
  subst e
  simp (maxDischargeDepth := 60) [hz]

theorem execMulMulhMulhu_keeps {z : State} (w : Who) (g : Guard) (fn : MulOp) (d a b : RegNo) {s : State} (hz : Keeps z s) {u : State} (e : execMulMulhMulhu w g fn d a b s = .next u) : Keeps z u := by
  simp only [execMulMulhMulhu, Host.Outcome.next.injEq] at e
  subst e
  simp (maxDischargeDepth := 60) [hz]

theorem execDivDivuRemRemu_keeps {z : State} (w : Who) (g : Guard) (fn : DivOp) (d a b : RegNo) {s : State} (hz : Keeps z s) {u : State} (e : execDivDivuRemRemu w g fn d a b s = .next u) : Keeps z u := by
  simp only [execDivDivuRemRemu, Host.Outcome.next.injEq] at e
  subst e
  simp (maxDischargeDepth := 60) [hz]

end Sys2Proof.Machine
end

