-- ==== Sys2Proof/Laws/KeepsMeshCmds.lean ====
section
/-!
SUPPORT. What the operations of Machine/MeshCmds.lean keep (Laws/Keeps.lean).
-/

namespace Sys2Proof.Machine

theorem execTagIssue_keeps {z : State} (init : Fin 30) {s : State} (hz : Keeps z s) {u : State} (e : execTagIssue init s = .next u) : Keeps z u := by
  unfold execTagIssue at e
  (repeat' split at e) <;> simp only [Host.Outcome.next.injEq] at e <;> (subst e; simp (maxDischargeDepth := 60) [hz])

@[simp] theorem State.drainStart_keeps {z : State} {s : State} (rq : Rq) (g : Nat) (hz : Keeps z s) : Keeps z (State.drainStart s rq g) :=
  hz.of_eq rfl rfl rfl (Nat.le_refl _)

@[simp] theorem State.answer_keeps {z : State} {s : State} (init : Nat) (r : Resp) (hz : Keeps z s) : Keeps z (State.answer s init r) :=
  hz.of_eq rfl rfl rfl (Nat.le_refl _)

theorem execMeshRequest_keeps {z s : State} (m : MeshReq) (h : Keeps z s) {u : State} (e : execMeshRequest m s = .next u) : Keeps z u := by
  unfold execMeshRequest at e
  split at e
  · split at e <;> (simp only [Host.Outcome.next.injEq] at e; subst e)
    · exact State.answer_keeps _ _ (State.gateDenies_keeps m h (by assumption))
    · exact State.drainStart_keeps _ _ h
  · simp only [Host.Outcome.next.injEq] at e
    subst e
    exact State.meshPost_keeps m h

theorem execMeshResponse_keeps {z : State} (init : Fin 30) {s : State} (hz : Keeps z s) {u : State} (e : execMeshResponse init s = .next u) : Keeps z u := by
  unfold execMeshResponse at e
  (dsimp only at e; repeat' split at e) <;> simp only [Host.Outcome.next.injEq] at e <;> (subst e; simp (maxDischargeDepth := 60) [hz])

@[simp] theorem State.nextEpoch_keeps {z : State} {s : State} (init : Nat) (hz : Keeps z s) : Keeps z (State.nextEpoch s init) :=
  hz.of_eq rfl rfl rfl (Nat.le_refl _)

@[simp] theorem State.releaseTag_keeps {z : State} {s : State} (num : Nat) (hz : Keeps z s) : Keeps z (State.releaseTag s num) :=
  hz.of_eq rfl rfl rfl (Nat.le_refl _)

theorem execMeshVcStall_keeps {z : State} {s : State} (hz : Keeps z s) {u : State} (e : execMeshVcStall s = .next u) : Keeps z u := by
  simp only [execMeshVcStall, Host.Outcome.next.injEq] at e
  subst e
  simp (maxDischargeDepth := 60) [hz]

end Sys2Proof.Machine
end

