-- ==== Sys2Proof/Laws/KeepsDevIo.lean ====
section
/-!
SUPPORT. What the operations of Machine/DevIo.lean keep (Laws/Keeps.lean).
-/

namespace Sys2Proof.Machine

@[simp] theorem State.devWrite_keeps {z : State} {s : State} (init : Fin 30) (pa : Nat) (d : List Byte) (hz : Keeps z s) : Keeps z (State.devWrite s init pa d) := by
  unfold State.devWrite
  simp +contextual (maxDischargeDepth := 60) [hz]

@[simp] theorem State.devRead_keeps {z s : State} (init : Fin 30) (pa len : Nat) (h : Keeps z s) : Keeps z (s.devRead init pa len).2 :=
  Keeps.foldl_snd (fun x y hx => State.serve_keeps (unitReq init .read y.1 y.2 0) hx) h

end Sys2Proof.Machine
end

