-- ==== Sys2Proof/Laws/KeepsTwinOps.lean ====
section
/-!
SUPPORT. What the operations of Machine/TwinOps.lean keep (Laws/Keeps.lean).
-/

namespace Sys2Proof.Machine

@[simp] theorem State.zPut_keeps {z : State} {s : State} (nak : Bool) (b : ZBody) (hz : Keeps z s) : Keeps z (State.zPut s nak b) :=
  hz.of_eq rfl rfl rfl (Nat.le_refl _)

@[simp] theorem State.zSend_keeps {z : State} {s : State} (b : ZBody) (hz : Keeps z s) : Keeps z (State.zSend s b) := by
  unfold State.zSend
  simp (maxDischargeDepth := 60) [hz]

@[simp] theorem State.zDown_keeps {z : State} {s : State} (state : Nat) (hz : Keeps z s) : Keeps z (State.zDown s state) := by
  unfold State.zDown
  simp (maxDischargeDepth := 60) [hz]

@[simp] theorem State.zResend_keeps {z : State} {s : State} (hz : Keeps z s) : Keeps z (State.zResend s) := by
  unfold State.zResend
  simp (maxDischargeDepth := 60) [hz]

@[simp] theorem State.peerSeen_keeps {z : State} {s : State} (role : Nat) (hz : Keeps z s) : Keeps z (State.peerSeen s role) := by
  unfold State.peerSeen
  simp (maxDischargeDepth := 60) [hz]

@[simp] theorem State.zTake_keeps {z : State} {s : State} (h : ZHdr) (hz : Keeps z s) : Keeps z (State.zTake s h).2 := by
  unfold State.zTake
  (dsimp only; repeat' split) <;> simp (maxDischargeDepth := 60) [hz]

@[simp] theorem State.bulkCheck_keeps {z : State} {s : State} (hz : Keeps z s) : Keeps z (State.bulkCheck s) := by
  unfold State.bulkCheck
  split <;> simp (maxDischargeDepth := 60) [hz]

@[simp] theorem State.bulkEnded_keeps {z : State} {s : State} (hz : Keeps z s) : Keeps z (State.bulkEnded s) := by
  unfold State.bulkEnded
  simp (maxDischargeDepth := 60) [hz]

@[simp] theorem State.syncStart_keeps {z : State} {s : State} (hz : Keeps z s) : Keeps z (State.syncStart s) := by
  unfold State.syncStart
  simp (maxDischargeDepth := 60) [hz]

@[simp] theorem State.journalOut_keeps {z : State} {s : State} (hz : Keeps z s) : Keeps z (State.journalOut s) := by
  unfold State.journalOut
  (dsimp only; repeat' split) <;> simp (maxDischargeDepth := 60) [hz]

@[simp] theorem State.journalFlush_keeps {z s : State} (n : Nat) (h : Keeps z s) : Keeps z (s.journalFlush n) := by
  induction n generalizing s with
  | zero => exact h
  | succ n ih => exact Keeps.ite h (ih (State.journalOut_keeps h))

@[simp] theorem State.applyEntry_keeps {z : State} {s : State} (e : JEnt) (hz : Keeps z s) : Keeps z (State.applyEntry s e) := by
  unfold State.applyEntry
  (dsimp only; repeat' split) <;> simp +contextual (maxDischargeDepth := 60) [hz]

@[simp] theorem State.handover_keeps {z : State} {s : State} (hz : Keeps z s) : Keeps z (State.handover s) := by
  unfold State.handover
  simp (maxDischargeDepth := 60) [hz]

@[simp] theorem State.trigger_keeps {z : State} {s : State} (byHandover : Bool) (hz : Keeps z s) : Keeps z (State.trigger s byHandover) := by
  unfold State.trigger
  simp (maxDischargeDepth := 60) [hz]

@[simp] theorem State.enterRun_keeps {z : State} {s : State} (hz : Keeps z s) : Keeps z (State.enterRun s) := by
  unfold State.enterRun
  simp (maxDischargeDepth := 60) [hz]

@[simp] theorem State.conflict_keeps {z : State} {s : State} (n : Nat) (hz : Keeps z s) : Keeps z (State.conflict s n) := by
  unfold State.conflict
  simp (maxDischargeDepth := 60) [hz]

end Sys2Proof.Machine
end

