-- ==== Sys2Proof/Laws/KeepsClkCmds.lean ====
section
/-!
SUPPORT. What the operations of Machine/ClkCmds.lean keep (Laws/Keeps.lean).
-/

namespace Sys2Proof.Machine

@[simp] theorem State.halt_keeps {z : State} {s : State} (cause : Nat) (hz : Keeps z s) : Keeps z (State.halt s cause) := by
  unfold State.halt
  simp (maxDischargeDepth := 60) [hz]

@[simp] theorem State.clkEffect_keeps {z : State} {s : State} (p : Nat) (hz : Keeps z s) : Keeps z (State.clkEffect s p) := by
  unfold State.clkEffect
  (dsimp only; repeat' split) <;> simp +contextual (maxDischargeDepth := 60) [hz]

theorem execClkLoss_keeps {z : State} (p : Fin 11) {s : State} (hz : Keeps z s) {u : State} (e : execClkLoss p s = .next u) : Keeps z u := by
  unfold execClkLoss at e
  (repeat' split at e) <;> simp only [Host.Outcome.next.injEq] at e <;> (subst e; simp (maxDischargeDepth := 60) [hz])

theorem execVmonTrip_keeps {z : State} (n : Fin 10) (win : BitVec 4) (mv : BitVec 12) {s : State} (hz : Keeps z s) {u : State} (e : execVmonTrip n win mv s = .next u) : Keeps z u := by
  unfold execVmonTrip at e
  (repeat' split at e) <;> simp only [Host.Outcome.next.injEq] at e <;> (subst e; simp (maxDischargeDepth := 60) [hz])

@[simp] theorem State.tempPair_keeps {z : State} {s : State} (i a b : Nat) (hz : Keeps z s) : Keeps z (State.tempPair s i a b) := by
  unfold State.tempPair
  simp (maxDischargeDepth := 60) [hz]

@[simp] theorem State.tempThreshold_keeps {z : State} {s : State} (f : Fld) (thr src : Nat) (hz : Keeps z s) : Keeps z (State.tempThreshold s f thr src) := by
  unfold State.tempThreshold
  simp +contextual (maxDischargeDepth := 60) [hz]

theorem execTempSample_keeps {z : State} (c0 c1 c2 c3 mesh serdes : BitVec 8 × BitVec 8) {s : State} (hz : Keeps z s) {u : State} (e : execTempSample c0 c1 c2 c3 mesh serdes s = .next u) : Keeps z u := by
  unfold execTempSample at e
  (dsimp only at e; repeat' split at e) <;> simp only [Host.Outcome.next.injEq] at e <;> (subst e; (repeat' split) <;> simp_all +contextual (maxDischargeDepth := 60))

theorem execI2cGo_keeps {z : State} (rq : Rq) (v : BitVec 24) {s : State} (hz : Keeps z s) {u : State} (e : execI2cGo rq v s = .next u) : Keeps z u := by
  simp only [execI2cGo, Host.Outcome.next.injEq] at e
  subst e
  simp (maxDischargeDepth := 60) [hz]

theorem execI2cDone_keeps {z : State} (data : Byte) (nack : Bool) {s : State} (hz : Keeps z s) {u : State} (e : execI2cDone data nack s = .next u) : Keeps z u := by
  unfold execI2cDone at e
  (repeat' split at e) <;> simp only [Host.Outcome.next.injEq] at e <;> (subst e; simp (maxDischargeDepth := 60) [hz])

theorem execGpioOutWrite_keeps {z : State} (rq : Rq) (v : BitVec 32) {s : State} (hz : Keeps z s) {u : State} (e : execGpioOutWrite rq v s = .next u) : Keeps z u := by
  simp only [execGpioOutWrite, Host.Outcome.next.injEq] at e
  subst e
  simp (maxDischargeDepth := 60) [hz]

theorem execGpioInputChange_keeps {z : State} (n : Fin 32) (level : Bool) {s : State} (hz : Keeps z s) {u : State} (e : execGpioInputChange n level s = .next u) : Keeps z u := by
  simp only [execGpioInputChange, Host.Outcome.next.injEq] at e
  subst e
  simp (maxDischargeDepth := 60) [hz]

theorem execSysSleep_keeps {z : State} (rq : Rq) (v : Word) {s : State} (hz : Keeps z s) {u : State} (e : execSysSleep rq v s = .next u) : Keeps z u := by
  simp only [execSysSleep, Host.Outcome.next.injEq] at e
  subst e
  simp (maxDischargeDepth := 60) [hz]

theorem execSysIpi_keeps {z : State} (rq : Rq) (v : Word) {s : State} (hz : Keeps z s) {u : State} (e : execSysIpi rq v s = .next u) : Keeps z u := by
  simp only [execSysIpi, Host.Outcome.next.injEq] at e
  subst e
  simp (maxDischargeDepth := 60) [hz]

theorem execManufactureToSecured_keeps {z : State} (rq : Rq) (key : BitVec 16) {s : State} (hz : Keeps z s) {u : State} (e : execManufactureToSecured rq key s = .next u) : Keeps z u := by
  simp only [execManufactureToSecured, Host.Outcome.next.injEq] at e
  subst e
  simp (maxDischargeDepth := 60) [hz]

theorem execSecuredToRma_keeps {z : State} (rq : Rq) {s : State} (hz : Keeps z s) {u : State} (e : execSecuredToRma rq s = .next u) : Keeps z u := by
  simp only [execSecuredToRma, Host.Outcome.next.injEq] at e
  subst e
  simp (maxDischargeDepth := 60) [hz]

theorem execScrap_keeps {z : State} (rq : Rq) (key : BitVec 16) {s : State} (hz : Keeps z s) {u : State} (e : execScrap rq key s = .next u) : Keeps z u := by
  simp only [execScrap, Host.Outcome.next.injEq] at e
  subst e
  simp (maxDischargeDepth := 60) [hz]

theorem execSecuredToFieldDebug_keeps {z : State} (rq : Rq) {s : State} (hz : Keeps z s) {u : State} (e : execSecuredToFieldDebug rq s = .next u) : Keeps z u := by
  simp only [execSecuredToFieldDebug, Host.Outcome.next.injEq] at e
  subst e
  simp (maxDischargeDepth := 60) [hz]

theorem execSysLcChalRead_keeps {z : State} (rq : Rq) {s : State} (hz : Keeps z s) {u : State} (e : execSysLcChalRead rq s = .next u) : Keeps z u := by
  simp only [execSysLcChalRead, Host.Outcome.next.injEq] at e
  subst e
  simp (maxDischargeDepth := 60) [hz]

theorem execOtpProvisioning_keeps {z : State} (id : Word) (keys : List (BitVec 384)) (wrap : BitVec 256) (minSvn : Nat) {s : State} (hz : Keeps z s) {u : State} (e : execOtpProvisioning id keys wrap minSvn s = .next u) : Keeps z u := by
  unfold execOtpProvisioning at e
  (repeat' split at e) <;> simp only [Host.Outcome.next.injEq] at e <;> (subst e; simp (maxDischargeDepth := 60) [hz])

theorem execMmioWrite_keeps {z : State} (rq : Rq) (off : BitVec 24) (half : Bool) (v : Word) {s : State} (hz : Keeps z s) {u : State} (e : execMmioWrite rq off half v s = .next u) : Keeps z u := by
  simp only [execMmioWrite, Host.Outcome.next.injEq] at e
  subst e
  simp (maxDischargeDepth := 60) [hz]

end Sys2Proof.Machine
end

