-- ==== Sys2Proof/Laws/KeepsImage.lean ====
section
/-!
SUPPORT. What the operations of Machine/Image.lean keep (Laws/Keeps.lean).
-/

namespace Sys2Proof.Machine

@[simp] theorem State.imgStore_keeps {z s : State} (off : Nat) (v : Word) (h : Keeps z s) : Keeps z (s.imgStore off v) := by
  unfold State.imgStore
  split
  · split
    · exact State.wr_keeps h _ _
    · exact h
  · split
    · split
      · exact State.fset_keeps _ _ _ (State.wr_keeps h _ _)
      · exact State.wr_keeps h _ _
    · exact State.wr_keeps h _ _

theorem State.imgRecordAt_keeps {z s : State} (sec off : Nat) (v : Word) (h : Keeps z s) {u : State} (e : s.imgRecordAt sec off v = some u) :
    Keeps z u := by
  unfold State.imgRecordAt at e
  split at e
  · cases e
  · dsimp only at e
    split at e
    · cases e
    · split at e
      · cases e
      · split at e <;> (simp only [Option.some.injEq] at e; subst e)
        · exact h
        · exact State.imgStore_keeps _ _ h

theorem State.imgRecord_keeps {z s : State} (sec : Nat) (r : Nat × Word) (h : Keeps z s) {u : State} (e : s.imgRecord sec r = some u) : Keeps z u := by
  unfold State.imgRecord at e
  split at e
  · cases e
  · exact State.imgRecordAt_keeps _ _ _ h e

theorem State.imgApply_keeps {z s : State} (sec : Nat) (rs : List (Nat × Word)) (h : Keeps z s) {u : State} (e : s.imgApply sec rs = some u) : Keeps z u := by
  induction rs generalizing s u with
  | nil => cases e; exact h
  | cons r rs ih => exact Keeps.bind (fun t v ht hv => ih (State.imgRecord_keeps sec r h ht) hv) e

theorem State.imgSec_keeps {z s : State} (img : List Byte) (t : Nat) (h : Keeps z s) {u : State} (e : s.imgSec img t = some u) : Keeps z u :=
  Keeps.bind (fun l _ _ hv => State.imgApply_keeps t l h hv) e

theorem State.imgBind_keeps {z : State} {s : State} (c : Nat) (d : List Byte) (hz : Keeps z s) {u : State} (e : State.imgBind s c d = some u) : Keeps z u := by
  unfold State.imgBind at e
  (dsimp only at e; repeat' split at e) <;> simp only [Option.some.injEq, reduceCtorEq] at e <;> (subst e; simp (maxDischargeDepth := 60) [hz])

theorem State.imgBinds_keeps {z s : State} (d : List Byte) (h : Keeps z s) {u : State} (e : s.imgBinds d = some u) : Keeps z u := by
  unfold State.imgBinds at e
  split at e
  · cases e
  · exact Keeps.foldl_bind (fun t c v ht hv => State.imgBind_keeps c _ ht hv) (fun t ht => by cases ht; exact h) e

theorem State.imgWindow_keeps {z : State} {s : State} (w : Nat) (d : List Byte) (hz : Keeps z s) {u : State} (e : State.imgWindow s w d = some u) : Keeps z u := by
  unfold State.imgWindow at e
  (repeat' split at e) <;> simp only [Option.some.injEq, reduceCtorEq] at e <;> (subst e; simp (maxDischargeDepth := 60) [hz])

theorem State.imgSched_keeps {z s : State} (d : List Byte) (h : Keeps z s) {u : State} (e : s.imgSched d = some u) : Keeps z u := by
  unfold State.imgSched at e
  dsimp only at e
  split at e
  · cases e
  · exact Keeps.foldl_bind (fun t c v ht hv => State.imgWindow_keeps c _ ht hv)
      (fun t ht => by cases ht; exact State.wr_keeps (State.wr_keeps (State.wr_keeps h _ _) _ _) _ _) e

theorem State.imgPncEnt_keeps {z : State} {s : State} (n : Nat) (d : List Byte) (hz : Keeps z s) {u : State} (e : State.imgPncEnt s n d = some u) : Keeps z u := by
  unfold State.imgPncEnt at e
  (repeat' split at e) <;> simp only [Option.some.injEq, reduceCtorEq] at e <;> (subst e; simp (maxDischargeDepth := 60) [hz])

theorem State.imgPnc_keeps {z s : State} (d : List Byte) (h : Keeps z s) {u : State} (e : s.imgPnc d = some u) : Keeps z u := by
  unfold State.imgPnc at e
  dsimp only at e
  split at e
  · cases e
  · exact Keeps.foldl_bind (fun t c v ht hv => State.imgPncEnt_keeps c _ ht hv)
      (fun t ht => by cases ht; exact State.wr_keeps (State.wr_keeps h _ _) _ _) e

theorem State.imgHostKey_keeps {z : State} {s : State} (d : List Byte) (hz : Keeps z s) {u : State} (e : State.imgHostKey s d = some u) : Keeps z u := by
  unfold State.imgHostKey at e
  (repeat' split at e) <;> simp only [Option.some.injEq, reduceCtorEq] at e <;> (subst e; simp (maxDischargeDepth := 60) [hz])

theorem State.imgDhp_keeps {z s : State} (d : List Byte) (h : Keeps z s) {u : State} (e : s.imgDhp d = some u) : Keeps z u := by
  unfold State.imgDhp at e
  split at e
  · cases e
  · refine Keeps.bind (fun t v ht hv => Keeps.foldl_bind (fun x k y hx hy => State.imgHostKey_keeps _ hx hy) (fun x hx => ?_) hv) e
    cases hx
    exact Keeps.bind (fun l w _ hw => State.imgApply_keeps 13 l h hw) ht

theorem State.imgSections_keeps {z s : State} (img : List Byte) (h : Keeps z s) {u : State} (e : s.imgSections img = some u) : Keeps z u := by
  have secs : ∀ (l : List Nat) (s t : State), Keeps z s → l.foldl (fun (o : Option State) t => o.bind fun s => s.imgSec img t) (some s) = some t → Keeps z t :=
    fun l s t hs ht => Keeps.foldl_bind (fun a x b ha hb => State.imgSec_keeps img x ha hb) (fun a ha => by cases ha; exact hs) ht
  refine Keeps.bind (fun a _ ha e => ?_) e
  refine Keeps.bind (fun b _ hb e => ?_) e
  refine Keeps.bind (fun c _ hc e => ?_) e
  refine Keeps.bind (fun d _ hd e => ?_) e
  refine Keeps.bind (fun f _ hf e => ?_) e
  refine Keeps.bind (fun g _ hg e => ?_) e
  refine Keeps.bind (fun i _ hi e => ?_) e
  have ka := secs _ _ _ h ha
  have kb := State.imgBinds_keeps _ ka hb
  have kc := State.imgSched_keeps _ kb hc
  have kd := State.imgPnc_keeps _ kc hd
  have kf := secs _ _ _ kd hf
  have kg := State.imgDhp_keeps _ kf hg
  have ki := secs _ _ _ kg hi
  split at e
  · cases e; exact ki
  · cases e

@[simp] theorem State.unspecTables_keeps {z : State} {s : State} (hz : Keeps z s) : Keeps z (State.unspecTables s) := by
  unfold State.unspecTables
  simp +contextual (maxDischargeDepth := 60) [hz]

end Sys2Proof.Machine
end

