-- ==== Sys2Proof/Laws/KeepsMemCmds.lean ====
section
/-!
SUPPORT. What the operations of Machine/MemCmds.lean keep (Laws/Keeps.lean).
-/

namespace Sys2Proof.Machine

@[simp] theorem State.setRotPhase_keeps {z : State} {s : State} (cr : Bool) (n : Nat) (hz : Keeps z s) : Keeps z (State.setRotPhase s cr n) := by
  unfold State.setRotPhase
  simp (maxDischargeDepth := 60) [hz]

@[simp] theorem State.rotEnd_keeps {z : State} {s : State} (cr : Bool) (hz : Keeps z s) : Keeps z (State.rotEnd s cr) := by
  unfold State.rotEnd
  simp (maxDischargeDepth := 60) [hz]

@[simp] theorem State.rotSliceEnd_keeps {z : State} {s : State} (cr pass : Bool) (hz : Keeps z s) : Keeps z (State.rotSliceEnd s cr pass) := by
  unfold State.rotSliceEnd
  (dsimp only; repeat' split) <;> simp (maxDischargeDepth := 60) [hz]

theorem execSpareWakeDone_keeps {z : State} {s : State} (hz : Keeps z s) {u : State} (e : execSpareWakeDone s = .next u) : Keeps z u := by
  simp only [execSpareWakeDone, Host.Outcome.next.injEq] at e
  subst e
  simp (maxDischargeDepth := 60) [hz]

theorem execRotationCopyDone_keeps {z : State} (cr : Bool) {s : State} (hz : Keeps z s) {u : State} (e : execRotationCopyDone cr s = .next u) : Keeps z u := by
  unfold execRotationCopyDone at e
  (repeat' split at e) <;> simp only [Host.Outcome.next.injEq] at e <;> (subst e; simp (maxDischargeDepth := 60) [hz])

theorem execRotationMarchDone_keeps {z : State} (cr pass : Bool) {s : State} (hz : Keeps z s) {u : State} (e : execRotationMarchDone cr pass s = .next u) : Keeps z u := by
  unfold execRotationMarchDone at e
  (repeat' split at e) <;> simp only [Host.Outcome.next.injEq] at e <;> (subst e; simp (maxDischargeDepth := 60) [hz])

theorem execRotationClearDone_keeps {z : State} (cr : Bool) {s : State} (hz : Keeps z s) {u : State} (e : execRotationClearDone cr s = .next u) : Keeps z u := by
  unfold execRotationClearDone at e
  (repeat' split at e) <;> simp only [Host.Outcome.next.injEq] at e <;> (subst e; simp (maxDischargeDepth := 60) [hz])

theorem execMemSsPwrWrite_keeps {z : State} (rq : Rq) (n : BitVec 2) (v : Word) {s : State} (hz : Keeps z s) {u : State} (e : execMemSsPwrWrite rq n v s = .next u) : Keeps z u := by
  simp only [execMemSsPwrWrite, Host.Outcome.next.injEq] at e
  subst e
  simp (maxDischargeDepth := 60) [hz]

theorem execBankEnterLow_keeps {z : State} (b : BitVec 8) {s : State} (hz : Keeps z s) {u : State} (e : execBankEnterLow b s = .next u) : Keeps z u := by
  unfold execBankEnterLow at e
  (dsimp only at e; repeat' split at e) <;> simp only [Host.Outcome.next.injEq] at e <;> (subst e; simp (maxDischargeDepth := 60) [hz])

theorem execBankWakeDone_keeps {z : State} (b : BitVec 8) {s : State} (hz : Keeps z s) {u : State} (e : execBankWakeDone b s = .next u) : Keeps z u := by
  unfold execBankWakeDone at e
  (repeat' split at e) <;> simp only [Host.Outcome.next.injEq] at e <;> (subst e; simp (maxDischargeDepth := 60) [hz])

theorem execZodClearDone_keeps {z : State} (r : BitVec 20) {s : State} (hz : Keeps z s) {u : State} (e : execZodClearDone r s = .next u) : Keeps z u := by
  unfold execZodClearDone at e
  (repeat' split at e) <;> simp only [Host.Outcome.next.injEq] at e <;> (subst e; simp (maxDischargeDepth := 60) [hz])

theorem execZodBackgroundClear_keeps {z : State} {s : State} (hz : Keeps z s) {u : State} (e : execZodBackgroundClear s = .next u) : Keeps z u := by
  unfold execZodBackgroundClear at e
  (repeat' split at e) <;> simp only [Host.Outcome.next.injEq] at e <;> (subst e; simp (maxDischargeDepth := 60) [hz])

theorem execDdrZodCtlWrite_keeps {z : State} (rq : Rq) (v : Word) {s : State} (hz : Keeps z s) {u : State} (e : execDdrZodCtlWrite rq v s = .next u) : Keeps z u := by
  simp only [execDdrZodCtlWrite, Host.Outcome.next.injEq] at e
  subst e
  simp (maxDischargeDepth := 60) [hz]

theorem execDdrZodProbeWrite_keeps {z : State} (rq : Rq) (v : Word) {s : State} (hz : Keeps z s) {u : State} (e : execDdrZodProbeWrite rq v s = .next u) : Keeps z u := by
  simp only [execDdrZodProbeWrite, Host.Outcome.next.injEq] at e
  subst e
  simp (maxDischargeDepth := 60) [hz]

theorem execDdrTempDerate_keeps {z : State} (ch : Fin 16) (refresh : BitVec 3) (derated : Bool) {s : State} (hz : Keeps z s) {u : State} (e : execDdrTempDerate ch refresh derated s = .next u) : Keeps z u := by
  simp only [execDdrTempDerate, Host.Outcome.next.injEq] at e
  subst e
  simp (maxDischargeDepth := 60) [hz]

theorem execCeWriteback_keeps {z : State} (pa : BitVec 44) {s : State} (hz : Keeps z s) {u : State} (e : execCeWriteback pa s = .next u) : Keeps z u := by
  unfold execCeWriteback at e
  (dsimp only at e; repeat' split at e) <;> simp only [Host.Outcome.next.injEq] at e <;> (subst e; simp (maxDischargeDepth := 60) [hz])

theorem execMergeDrain_keeps {z : State} (pa : BitVec 44) {s : State} (hz : Keeps z s) {u : State} (e : execMergeDrain pa s = .next u) : Keeps z u := by
  unfold execMergeDrain at e
  (repeat' split at e) <;> simp only [Host.Outcome.next.injEq] at e <;> (subst e; simp (maxDischargeDepth := 60) [hz])

@[simp] theorem State.remapUnit_keeps {z s : State} (k n : Nat) (hz : Keeps z s) : Keeps z (s.remapUnit k n).1 := by
  unfold State.remapUnit
  dsimp only
  split
  · simp [hz]
  · split
    · simp [hz]
    · simp only
      exact State.fset_keeps _ _ _ (State.wr_keeps (Keeps.foldl (fun t x h => State.fixUnit_keeps _ _ h) hz) _ _)

theorem execRemap_keeps {z : State} (k : Fin 4) (n : Fin 32) {s : State} (hz : Keeps z s) {u : State} (e : execRemap k n s = .next u) :
    Keeps z u := by
  unfold execRemap at e
  split at e <;> cases e
  · exact State.remapUnit_keeps _ _ hz
  · exact hz

theorem execEdcCtlWrite_keeps {z : State} (rq : Rq) (v : Word) {s : State} (hz : Keeps z s) {u : State} (e : execEdcCtlWrite rq v s = .next u) : Keeps z u := by
  simp only [execEdcCtlWrite, Host.Outcome.next.injEq] at e
  subst e
  simp (maxDischargeDepth := 60) [hz]

theorem execEdcLock_keeps {z : State} (rq : Rq) {s : State} (hz : Keeps z s) {u : State} (e : execEdcLock rq s = .next u) : Keeps z u := by
  simp only [execEdcLock, Host.Outcome.next.injEq] at e
  subst e
  simp (maxDischargeDepth := 60) [hz]

theorem execLogClr_keeps {z : State} (rq : Rq) (m : BitVec 5) {s : State} (hz : Keeps z s) {u : State} (e : execLogClr rq m s = .next u) : Keeps z u := by
  simp only [execLogClr, Host.Outcome.next.injEq] at e
  subst e
  simp (maxDischargeDepth := 60) [hz]

theorem execUeFirstClear_keeps {z : State} (rq : Rq) (k : Fin 5) {s : State} (hz : Keeps z s) {u : State} (e : execUeFirstClear rq k s = .next u) : Keeps z u := by
  simp only [execUeFirstClear, Host.Outcome.next.injEq] at e
  subst e
  simp (maxDischargeDepth := 60) [hz]

theorem execEdcInjArm_keeps {z : State} (rq : Rq) (v : BitVec 4) {s : State} (hz : Keeps z s) {u : State} (e : execEdcInjArm rq v s = .next u) : Keeps z u := by
  simp only [execEdcInjArm, Host.Outcome.next.injEq] at e
  subst e
  simp (maxDischargeDepth := 60) [hz]

theorem execFiredClear_keeps {z : State} (rq : Rq) {s : State} (hz : Keeps z s) {u : State} (e : execFiredClear rq s = .next u) : Keeps z u := by
  simp only [execFiredClear, Host.Outcome.next.injEq] at e
  subst e
  simp (maxDischargeDepth := 60) [hz]

theorem execScrubGo_keeps {z : State} (rq : Rq) {s : State} (hz : Keeps z s) {u : State} (e : execScrubGo rq s = .next u) : Keeps z u := by
  simp only [execScrubGo, Host.Outcome.next.injEq] at e
  subst e
  simp (maxDischargeDepth := 60) [hz]

theorem execScrubAbort_keeps {z : State} (rq : Rq) {s : State} (hz : Keeps z s) {u : State} (e : execScrubAbort rq s = .next u) : Keeps z u := by
  simp only [execScrubAbort, Host.Outcome.next.injEq] at e
  subst e
  simp (maxDischargeDepth := 60) [hz]

theorem execRemapLock_keeps {z : State} (rq : Rq) (i : Fin 312) (e : Fin 8) {s : State} (hz : Keeps z s) {u : State} (e : execRemapLock rq i e s = .next u) : Keeps z u := by
  simp only [execRemapLock, Host.Outcome.next.injEq] at e
  subst e
  simp (maxDischargeDepth := 60) [hz]

@[simp] theorem State.countSkip_keeps {z : State} {s : State} (hz : Keeps z s) : Keeps z (State.countSkip s) := by
  unfold State.countSkip
  simp (maxDischargeDepth := 60) [hz]

@[simp] theorem State.scrubRemap_keeps {z : State} {s : State} (k u : Nat) (hz : Keeps z s) : Keeps z (State.scrubRemap s k u) := by
  unfold State.scrubRemap
  (repeat' (first | (rename _ = (_, _) => heq; have hs1 := Keeps.snd (s := z) (by clear heq; simp [*]; done) heq; clear heq) | (rename _ = (_, _) => heq; have hs1 := Keeps.fst (s := z) (by clear heq; simp [*]; done) heq; clear heq) | (dsimp only) | split)) <;> simp (maxDischargeDepth := 60) [*]

@[simp] theorem State.scrubUe_keeps {z : State} {s : State} (u : Nat) (hz : Keeps z s) : Keeps z (State.scrubUe s u) := by
  unfold State.scrubUe
  simp (maxDischargeDepth := 60) [hz]

@[simp] theorem State.scrubOne_keeps {z s : State} (k u : Nat) (hz : Keeps z s) : Keeps z (s.scrubOne k u) := by
  unfold State.scrubOne
  have hk := State.unitFind_keeps k u hz
  split
  · simp [hz]
  · split
    · simp [hz]
    · generalize s.unitFind k u = q at hk ⊢
      split
      · exact State.scrubUe_keeps _ hk
      · exact hk
      · refine State.scrubRemap_keeps _ _ (Keeps.ite ?_ ?_) <;> simp [hk]

theorem execScrubUnit_keeps {z : State} {s : State} (hz : Keeps z s) {u : State} (e : execScrubUnit s = .next u) : Keeps z u := by
  unfold execScrubUnit at e
  (dsimp only at e; repeat' split at e) <;> simp only [Host.Outcome.next.injEq] at e <;> (subst e; (repeat' split) <;> simp_all +contextual (maxDischargeDepth := 60))

end Sys2Proof.Machine
end

