-- ==== Sys2Proof/Laws/KeepsPncCmds.lean ====
section
/-!
SUPPORT. What the operations of Machine/PncCmds.lean keep (Laws/Keeps.lean).
-/

namespace Sys2Proof.Machine

theorem State.sliceDueAt_keeps {z s : State} (n : Nat) (hz : Keeps z s) (o : Option Nat) : Keeps z (s.sliceDueAt n o) := by
  cases o with
  | none => exact hz
  | some d =>
    unfold State.sliceDueAt
    dsimp only
    split
    · exact hz
    · split <;> simp [hz]

theorem execPounceSliceDue_keeps {z : State} (n : Fin 32) {s : State} (hz : Keeps z s) {u : State} (e : execPounceSliceDue n s = .next u) :
    Keeps z u := by
  unfold execPounceSliceDue at e
  split at e <;> cases e
  · exact hz
  · exact State.sliceDueAt_keeps _ hz _

theorem execPounceRetry_keeps {z : State} (n : Fin 32) {s : State} (hz : Keeps z s) {u : State} (e : execPounceRetry n s = .next u) : Keeps z u := by
  simp only [execPounceRetry, Host.Outcome.next.injEq] at e
  subst e
  simp (maxDischargeDepth := 60) [hz]

@[simp] theorem State.sliceStart_keeps {z : State} {s : State} (n : Nat) (hz : Keeps z s) : Keeps z (State.sliceStart s n) := by
  unfold State.sliceStart
  simp (maxDischargeDepth := 60) [hz]

@[simp] theorem State.holdAdvance_keeps {z : State} {s : State} (t : Nat) (hz : Keeps z s) : Keeps z (State.holdAdvance s t) :=
  hz.of_eq rfl rfl rfl (Nat.le_refl _)

theorem execTriadCheck_keeps {z : State} (bad : Option (BitVec 5)) {s : State} (hz : Keeps z s) {u : State} (e : execTriadCheck bad s = .next u) : Keeps z u := by
  unfold execTriadCheck at e
  (dsimp only at e; repeat' split at e) <;> simp only [Host.Outcome.next.injEq] at e <;> (subst e; simp (maxDischargeDepth := 60) [hz])

@[simp] theorem State.scanUe_keeps {z : State} {s : State} (t c : Nat) (a : ArrayId) (hz : Keeps z s) : Keeps z (State.scanUe s t c a) := by
  unfold State.scanUe
  simp (maxDischargeDepth := 60) [hz]

theorem State.scanOutcome_keeps {z s : State} (t : Nat) (hz : Keeps z s) {u : State} (e : s.scanOutcome t = some u) : Keeps z u := by
  unfold State.scanOutcome at e
  dsimp only at e
  split at e
  · rw [Option.map_eq_some_iff] at e
    obtain ⟨_, _, rfl⟩ := e
    simp [hz]
  · repeat' split at e
    all_goals (cases e <;> simp [hz])

theorem execArrayScanDone_keeps {z : State} (t : Fin 16) {s : State} (hz : Keeps z s) {u : State} (e : execArrayScanDone t s = .next u) :
    Keeps z u := by
  unfold execArrayScanDone at e
  dsimp only at e
  split at e
  · cases e; exact hz
  · split at e
    · cases e
      exact State.wakeWaiting_keeps _ (State.deferSlice_keeps _ _ (State.modPnc_keeps _ hz))
    · split at e <;> cases e
      · exact State.sliceDone_keeps _ (State.modPnc_keeps _ hz)
      · have h := State.scanOutcome_keeps (z := z) _ (State.modPnc_keeps _ hz) (by assumption)
        exact State.sliceDone_keeps _ (State.sliceFail_keeps _ _ _ (State.fresh_keeps h))

theorem execSsramBank_keeps {z : State} {s : State} (hz : Keeps z s) {u : State} (e : execSsramBank s = .next u) : Keeps z u := by
  unfold execSsramBank at e
  (dsimp only at e; repeat' split at e) <;> simp only [Host.Outcome.next.injEq] at e <;> (subst e; simp (maxDischargeDepth := 60) [hz])

theorem execCrownBank_keeps {z : State} {s : State} (hz : Keeps z s) {u : State} (e : execCrownBank s = .next u) : Keeps z u := by
  unfold execCrownBank at e
  (dsimp only at e; repeat' split at e) <;> simp only [Host.Outcome.next.injEq] at e <;> (subst e; simp (maxDischargeDepth := 60) [hz])

@[simp] theorem State.timedStart_keeps {z : State} {s : State} (k : Nat) (hz : Keeps z s) : Keeps z (State.timedStart s k) := by
  unfold State.timedStart
  split <;> simp (maxDischargeDepth := 60) [hz]

theorem execTempTest_keeps {z : State} {s : State} (hz : Keeps z s) {u : State} (e : execTempTest s = .next u) : Keeps z u := by
  simp only [execTempTest, Host.Outcome.next.injEq] at e
  subst e
  simp (maxDischargeDepth := 60) [hz]

theorem execVmonTest_keeps {z : State} {s : State} (hz : Keeps z s) {u : State} (e : execVmonTest s = .next u) : Keeps z u := by
  simp only [execVmonTest, Host.Outcome.next.injEq] at e
  subst e
  simp (maxDischargeDepth := 60) [hz]

theorem execAdcTest_keeps {z : State} {s : State} (hz : Keeps z s) {u : State} (e : execAdcTest s = .next u) : Keeps z u := by
  simp only [execAdcTest, Host.Outcome.next.injEq] at e
  subst e
  simp (maxDischargeDepth := 60) [hz]

theorem execPll_keeps {z : State} {s : State} (hz : Keeps z s) {u : State} (e : execPll s = .next u) : Keeps z u := by
  simp only [execPll, Host.Outcome.next.injEq] at e
  subst e
  simp (maxDischargeDepth := 60) [hz]

theorem execZhegusPrbs_keeps {z : State} {s : State} (hz : Keeps z s) {u : State} (e : execZhegusPrbs s = .next u) : Keeps z u := by
  simp only [execZhegusPrbs, Host.Outcome.next.injEq] at e
  subst e
  simp (maxDischargeDepth := 60) [hz]

@[simp] theorem State.miscMark_keeps {z : State} {s : State} (f : Fld) (i : Nat) (hz : Keeps z s) : Keeps z (State.miscMark s f i) := by
  unfold State.miscMark
  simp (maxDischargeDepth := 60) [hz]

@[simp] theorem State.markFailed_keeps {z : State} {s : State} (k i : Nat) (hz : Keeps z s) : Keeps z (State.markFailed s k i) := by
  unfold State.markFailed
  split <;> simp (maxDischargeDepth := 60) [hz]

@[simp] theorem State.alternate_keeps {z : State} {s : State} (k i : Nat) (hz : Keeps z s) : Keeps z (State.alternate s k i) := by
  unfold State.alternate
  simp (maxDischargeDepth := 60) [hz]

theorem execPounceSliceComplete_keeps {z : State} (kind : Fin 5) (pass : Bool) {s : State} (hz : Keeps z s) {u : State} (e : execPounceSliceComplete kind pass s = .next u) : Keeps z u := by
  unfold execPounceSliceComplete at e
  (dsimp only at e; repeat' split at e) <;> simp only [Host.Outcome.next.injEq] at e <;> (subst e; simp (maxDischargeDepth := 60) [hz])

theorem State.mtGranules_keeps {z s : State} (hz : Keeps z s) (base errs n : Nat) : Keeps z (s.mtGranules base errs n).2 := by
  induction n generalizing s base errs with
  | zero => exact hz
  | succ n ih =>
    unfold State.mtGranules
    dsimp only
    exact ih (by simp (maxDischargeDepth := 60) [hz]) _ _

@[simp] theorem State.mtRun_keeps {z s : State} (hz : Keeps z s) : Keeps z s.mtRun := by
  unfold State.mtRun
  split
  · exact hz
  · exact State.wr_keeps (State.mtGranules_keeps hz _ _ _) _ _

theorem execPncRun_keeps {z : State} (rq : Rq) (n : BitVec 5) {s : State} (hz : Keeps z s) {u : State} (e : execPncRun rq n s = .next u) : Keeps z u := by
  simp only [execPncRun, Host.Outcome.next.injEq] at e
  subst e
  simp (maxDischargeDepth := 60) [hz]

theorem execHalt_keeps {z : State} (rq : Rq) (on : Bool) {s : State} (hz : Keeps z s) {u : State} (e : execHalt rq on s = .next u) : Keeps z u := by
  simp only [execHalt, Host.Outcome.next.injEq] at e
  subst e
  simp (maxDischargeDepth := 60) [hz]

theorem execMtGo_keeps {z : State} (rq : Rq) {s : State} (hz : Keeps z s) {u : State} (e : execMtGo rq s = .next u) : Keeps z u := by
  simp only [execMtGo, Host.Outcome.next.injEq] at e
  subst e
  simp (maxDischargeDepth := 60) [hz]

theorem execPncFailLastClear_keeps {z : State} (rq : Rq) {s : State} (hz : Keeps z s) {u : State} (e : execPncFailLastClear rq s = .next u) : Keeps z u := by
  simp only [execPncFailLastClear, Host.Outcome.next.injEq] at e
  subst e
  simp (maxDischargeDepth := 60) [hz]

end Sys2Proof.Machine
end

