-- ==== Sys2Proof/Laws/KeepsReact.lean ====
section
/-!
SUPPORT. What the operations of Machine/React.lean keep (Laws/Keeps.lean).
-/

namespace Sys2Proof.Machine

@[simp] theorem State.escalate_keeps {z : State} {s : State} (src : Nat) (e : Word) (hz : Keeps z s) : Keeps z (State.escalate s src e).2 := by
  unfold State.escalate
  (dsimp only; repeat' split) <;> simp (maxDischargeDepth := 60) [hz]

@[simp] theorem State.decision_keeps {z : State} {s : State} (d : Detection) (hz : Keeps z s) : Keeps z (State.decision s d).2.2 := by
  unfold State.decision
  (dsimp only; repeat' split) <;> simp (maxDischargeDepth := 60) [hz]

theorem State.decideAll_keeps {z s : State} (hz : Keeps z s) (n : Nat) (l : List Detection) : Keeps z (s.decideAll n l).2 := by
  induction n generalizing s l with
  | zero => exact hz
  | succ n ih =>
    cases l with
    | nil => exact hz
    | cons d r =>
      unfold State.decideAll
      dsimp only
      exact ih (State.decision_keeps d hz) _

@[simp] theorem State.safeState_keeps {z : State} {s : State} (mask : Nat) (hz : Keeps z s) : Keeps z (State.safeState s mask) := by
  unfold State.safeState
  simp (maxDischargeDepth := 60) [hz]

@[simp] theorem State.stopGroup_keeps {z : State} {s : State} (g : Nat) (hz : Keeps z s) : Keeps z (State.stopGroup s g) := by
  unfold State.stopGroup
  simp (maxDischargeDepth := 60) [hz]

@[simp] theorem State.applyDec_keeps {z : State} {s : State} (d : Dec) (hz : Keeps z s) : Keeps z (State.applyDec s d) := by
  unfold State.applyDec
  (dsimp only; repeat' split) <;> simp (maxDischargeDepth := 60) [hz]

theorem State.applyCode_keeps {z s : State} (hz : Keeps z s) (code : Nat) (done l : List Dec) : Keeps z (s.applyCode code done l).2 := by
  induction l generalizing s done with
  | nil => exact hz
  | cons d r ih =>
    unfold State.applyCode
    split
    · exact ih (State.applyDec_keeps d hz) _
    · exact ih hz _

theorem State.applyAll_keeps {z s : State} (hz : Keeps z s) (ds : List Dec) : Keeps z (s.applyAll ds).2 :=
  Keeps.foldl_snd (fun _ _ h => State.applyCode_keeps h _ _ _) hz

@[simp] theorem State.fcruLogPut_keeps {z : State} {s : State} (src code : Nat) (esc applied : Bool) (time : Nat) (hz : Keeps z s) : Keeps z (State.fcruLogPut s src code esc applied time) := by
  unfold State.fcruLogPut
  simp (maxDischargeDepth := 60) [hz]

@[simp] theorem State.compareFcru_keeps {z : State} {s : State} (hz : Keeps z s) : Keeps z (State.compareFcru s) := by
  unfold State.compareFcru
  (repeat' (first | (rename _ = (_, _) => heq; have hs1 := Keeps.snd (s := z) (by clear heq; simp [*]; done) heq; clear heq) | (rename _ = (_, _) => heq; have hs1 := Keeps.fst (s := z) (by clear heq; simp [*]; done) heq; clear heq) | (dsimp only) | split)) <;> simp (maxDischargeDepth := 60) [*]

@[simp] theorem State.evaluate_keeps {z s : State} (ds : List Detection) (hz : Keeps z s) : Keeps z (s.evaluate ds) := by
  unfold State.evaluate
  dsimp only
  split
  · refine State.internalReset_keeps _ (Keeps.foldl (fun t x h => by simp [h]) (State.applyAll_keeps (State.decideAll_keeps hz _ _) _))
  · exact Keeps.foldl (fun t x h => by simp [h]) (State.applyAll_keeps (State.decideAll_keeps hz _ _) _)

theorem execFcruEvaluation_keeps {z : State} {s : State} (hz : Keeps z s) {u : State} (e : execFcruEvaluation s = .next u) : Keeps z u := by
  unfold execFcruEvaluation at e
  (repeat' split at e) <;> simp only [Host.Outcome.next.injEq] at e <;> (subst e; simp (maxDischargeDepth := 60) [hz])

theorem execEscWindowExpire_keeps {z : State} (src : BitVec 9) {s : State} (hz : Keeps z s) {u : State} (e : execEscWindowExpire src s = .next u) : Keeps z u := by
  simp only [execEscWindowExpire, Host.Outcome.next.injEq] at e
  subst e
  simp (maxDischargeDepth := 60) [hz]

theorem execFcruWdogExpire_keeps {z : State} {s : State} (hz : Keeps z s) {u : State} (e : execFcruWdogExpire s = .next u) : Keeps z u := by
  simp only [execFcruWdogExpire, Host.Outcome.next.injEq] at e
  subst e
  simp (maxDischargeDepth := 60) [hz]

@[simp] theorem State.recordWdog_keeps {z : State} {s : State} (hz : Keeps z s) : Keeps z (State.recordWdog s) := by
  unfold State.recordWdog
  simp (maxDischargeDepth := 60) [hz]

end Sys2Proof.Machine
end

