-- ==== Sys2Proof/Laws/KeepsEthCmds.lean ====
section
/-!
SUPPORT. What the operations of Machine/EthCmds.lean keep (Laws/Keeps.lean).
-/

namespace Sys2Proof.Machine

@[simp] theorem State.icvFail_keeps {z : State} {s : State} (p m : Nat) (hz : Keeps z s) : Keeps z (State.icvFail s p m) := by
  unfold State.icvFail
  simp (maxDischargeDepth := 60) [hz]

@[simp] theorem State.macsecIn_keeps {z : State} {s : State} (p m : Nat) (d : List Byte) (hz : Keeps z s) : Keeps z (State.macsecIn s p m d).2 := by
  unfold State.macsecIn
  (dsimp only; repeat' split) <;> simp (maxDischargeDepth := 60) [hz]

@[simp] theorem State.police_keeps {z : State} {s : State} (n len count : Nat) (hz : Keeps z s) : Keeps z (State.police s n len count).2 :=
  hz.of_eq rfl rfl rfl (Nat.le_refl _)

@[simp] theorem State.policedFrame_keeps {z : State} {s : State} (n : Nat) (hz : Keeps z s) : Keeps z (State.policedFrame s n) := by
  unfold State.policedFrame
  simp (maxDischargeDepth := 60) [hz]

@[simp] theorem State.eliminate_keeps {z : State} {s : State} (f : Nat) (seq : Option Nat) (hz : Keeps z s) : Keeps z (State.eliminate s f seq).2 := by
  unfold State.eliminate
  simp (maxDischargeDepth := 60) [hz]

@[simp] theorem State.toRing_keeps {z : State} {s : State} (ix : Nat) (r : RxRec) (hz : Keeps z s) : Keeps z (State.toRing s ix r) := by
  unfold State.toRing
  simp (maxDischargeDepth := 60) [hz]

@[simp] theorem State.toRecorder_keeps {z : State} {s : State} (r : RxRec) (hz : Keeps z s) : Keeps z (State.toRecorder s r) := by
  unfold State.toRecorder
  split <;> simp (maxDischargeDepth := 60) [hz]

@[simp] theorem State.toEngine_keeps {z : State} {s : State} (ctrl : Bool) (mac : Nat) (ts : Stamp) (h : FrameHdr) (hz : Keeps z s) : Keeps z (State.toEngine s ctrl mac ts h) := by
  unfold State.toEngine
  split <;> simp (maxDischargeDepth := 60) [hz]

@[simp] theorem State.steer_keeps {z : State} {s : State} (n mac : Nat) (r : RxRec) (h : FrameHdr) (hz : Keeps z s) : Keeps z (State.steer s n mac r h) := by
  unfold State.steer
  (dsimp only; repeat' split) <;> simp (maxDischargeDepth := 60) [hz]

theorem State.steerFrame_keeps {z : State} (f : FrameIn) (verified : Bool) (h : FrameHdr) (ts : Stamp) (n last : Nat) (x : Bool × State)
    (hz : Keeps z x.2) : Keeps z (State.steerFrame f verified h ts n last x) := by
  obtain ⟨b, s⟩ := x
  cases b
  · exact hz
  · exact State.steer_keeps _ _ _ _ hz

theorem State.unsteer_keeps {z : State} {s : State} (w : CbWon) (hz : Keeps z s) {u : State} (e : State.unsteer s w = some u) : Keeps z u := by
  unfold State.unsteer at e
  (repeat' (first | (rename _ = (_, _) => heq; have hs1 := Keeps.snd (s := z) (by clear heq; simp [*]; done) heq; clear heq) | (rename _ = (_, _) => heq; have hs1 := Keeps.fst (s := z) (by clear heq; simp [*]; done) heq; clear heq) | (dsimp only at e) | split at e)) <;> simp only [Option.some.injEq, reduceCtorEq] at e <;> (subst e; (repeat' (first | (rename _ = (_, _) => heq; have hs1 := Keeps.snd (s := z) (by clear heq; simp [*]; done) heq; clear heq) | (rename _ = (_, _) => heq; have hs1 := Keeps.fst (s := z) (by clear heq; simp [*]; done) heq; clear heq) | (dsimp only) | split)) <;> simp (maxDischargeDepth := 60) [*])

@[simp] theorem State.tieBreak_keeps {z s : State} (fn n : Nat) (r : RxRec) (x : Bool × State) (hz : Keeps z x.2) :
    Keeps z (s.tieBreak fn n r x).2 := by
  have hn : ∀ t : State, Keeps z t → Keeps z (t.modEth fun e =>
      { e with cbf := SMap.put CbFn.reset e.cbf fn { t.cbFn fn with won := some { tick := t.ticks, entry := n, frame := r } } }) :=
    fun t ht => State.modEth_keeps _ ht
  unfold State.tieBreak
  dsimp only
  split
  · exact hn _ hz
  · split
    · exact hz
    · split
      · split
        · exact hz
        · exact hn _ (State.unsteer_keeps _ hz ‹_›)
      · exact hz

@[simp] theorem State.stage7_keeps {z s : State} (fn n : Nat) (r : RxRec) (q : Option Nat) (hz : Keeps z s) : Keeps z (s.stage7 fn n r q).2 := by
  unfold State.stage7
  split
  · exact State.eliminate_keeps _ _ hz
  · exact State.tieBreak_keeps _ _ _ _ (State.eliminate_keeps _ _ hz)

theorem State.policedInto_keeps {z : State} (f : FrameIn) (verified : Bool) (h : FrameHdr) (ts : Stamp) (n last : Nat) (x : Bool × State)
    (hz : Keeps z x.2) : Keeps z (State.policedInto f verified h ts n last x) := by
  obtain ⟨b, s⟩ := x
  cases b
  · exact State.policedFrame_keeps _ hz
  · refine State.steerFrame_keeps _ _ _ _ _ _ _ ?_
    split
    · exact State.stage7_keeps _ _ _ _ (State.fadd_keeps _ _ _ hz)
    · exact State.fadd_keeps _ _ _ hz

@[simp] theorem State.admitFrame_keeps {z s : State} (f : FrameIn) (verified : Bool) (h : FrameHdr) (ts : Stamp) (hz : Keeps z s) :
    Keeps z (s.admitFrame f verified h ts) := by
  unfold State.admitFrame
  generalize s.identify f.p h = o
  cases o with
  | none => exact State.fsat_keeps _ _ _ hz
  | some n => exact State.policedInto_keeps _ _ _ _ _ _ _ (State.police_keeps _ _ _ hz)

theorem State.frameInto_keeps {z : State} (f : FrameIn) (ts : Stamp) (x : Option (List Byte × Bool) × State) (hz : Keeps z x.2) :
    Keeps z (State.frameInto f ts x) := by
  unfold State.frameInto
  split
  · exact hz
  · dsimp only
    split
    · exact State.modEth_keeps _ hz
    · exact State.admitFrame_keeps _ _ _ _ hz

theorem State.frameAt_keeps {z s : State} (f : FrameIn) (ts : Stamp) (hz : Keeps z s) : Keeps z (s.frameAt f ts) := by
  unfold State.frameAt
  dsimp only
  split
  · simp [hz]
  · exact State.frameInto_keeps _ _ _ (State.macsecIn_keeps _ _ _ (State.fadd_keeps _ _ _ hz))

theorem execFrameReceive_keeps {z : State} (f : FrameIn) {s : State} (hz : Keeps z s) {u : State} (e : execFrameReceive f s = .next u) :
    Keeps z u := by
  unfold execFrameReceive at e
  split at e
  · cases e; exact hz
  · split at e <;> cases e
    · simp [hz]
    · exact State.frameAt_keeps _ _ hz

theorem execRingDescriptorVisible_keeps {z : State} (ring : Fin 128) {s : State} (hz : Keeps z s) {u : State} (e : execRingDescriptorVisible ring s = .next u) : Keeps z u := by
  unfold execRingDescriptorVisible at e
  (dsimp only at e; repeat' split at e) <;> simp only [Host.Outcome.next.injEq] at e <;> (subst e; (repeat' split) <;> simp_all +contextual (maxDischargeDepth := 60))

theorem execCbSeqRecovery_keeps {z : State} (f : Fin 512) {s : State} (hz : Keeps z s) {u : State} (e : execCbSeqRecovery f s = .next u) : Keeps z u := by
  unfold execCbSeqRecovery at e
  (dsimp only at e; repeat' split at e) <;> simp only [Host.Outcome.next.injEq] at e <;> (subst e; simp (maxDischargeDepth := 60) [hz])

@[simp] theorem State.setFieldBit_keeps {z : State} {s : State} (r : Nat) (f : Fld) (i : Nat) (b : Bool) (hz : Keeps z s) : Keeps z (State.setFieldBit s r f i b) := by
  unfold State.setFieldBit
  simp (maxDischargeDepth := 60) [hz]

theorem execLinkDown_keeps {z : State} (p : Fin 2) (m : Fin 4) (lanes : BitVec 4) {s : State} (hz : Keeps z s) {u : State} (e : execLinkDown p m lanes s = .next u) : Keeps z u := by
  unfold execLinkDown at e
  (repeat' split at e) <;> simp only [Host.Outcome.next.injEq] at e <;> (subst e; simp (maxDischargeDepth := 60) [hz])

theorem execLinkUp_keeps {z : State} (p : Fin 2) (m : Fin 4) {s : State} (hz : Keeps z s) {u : State} (e : execLinkUp p m s = .next u) : Keeps z u := by
  unfold execLinkUp at e
  (dsimp only at e; repeat' split at e) <;> simp only [Host.Outcome.next.injEq] at e <;> (subst e; simp (maxDischargeDepth := 60) [hz])

theorem execPreemptVerify_keeps {z : State} (p : Fin 2) (m : Fin 4) (ok : Bool) {s : State} (hz : Keeps z s) {u : State} (e : execPreemptVerify p m ok s = .next u) : Keeps z u := by
  unfold execPreemptVerify at e
  (dsimp only at e; repeat' split at e) <;> simp only [Host.Outcome.next.injEq] at e <;> (subst e; simp (maxDischargeDepth := 60) [hz])

theorem execAdmRingConsWrite_keeps {z : State} (rq : Rq) (n : Fin 64) (cons : BitVec 18) {s : State} (hz : Keeps z s) {u : State} (e : execAdmRingConsWrite rq n cons s = .next u) : Keeps z u := by
  simp only [execAdmRingConsWrite, Host.Outcome.next.injEq] at e
  subst e
  simp (maxDischargeDepth := 60) [hz]

theorem execAdmSringConsWrite_keeps {z : State} (rq : Rq) (n : Fin 64) (cons : BitVec 28) {s : State} (hz : Keeps z s) {u : State} (e : execAdmSringConsWrite rq n cons s = .next u) : Keeps z u := by
  simp only [execAdmSringConsWrite, Host.Outcome.next.injEq] at e
  subst e
  simp (maxDischargeDepth := 60) [hz]

theorem execAdmReqAdmit_keeps {z : State} (rq : Rq) (n : BitVec 10) {s : State} (hz : Keeps z s) {u : State} (e : execAdmReqAdmit rq n s = .next u) : Keeps z u := by
  simp only [execAdmReqAdmit, Host.Outcome.next.injEq] at e
  subst e
  simp (maxDischargeDepth := 60) [hz]

theorem execAdmReqWithdraw_keeps {z : State} (rq : Rq) (n : BitVec 10) {s : State} (hz : Keeps z s) {u : State} (e : execAdmReqWithdraw rq n s = .next u) : Keeps z u := by
  simp only [execAdmReqWithdraw, Host.Outcome.next.injEq] at e
  subst e
  simp (maxDischargeDepth := 60) [hz]

theorem execEthTxqTailWrite_keeps {z : State} (rq : Rq) (p : Fin 2) (q : Fin 32) (tail : BitVec 16) {s : State} (hz : Keeps z s) {u : State} (e : execEthTxqTailWrite rq p q tail s = .next u) : Keeps z u := by
  simp only [execEthTxqTailWrite, Host.Outcome.next.injEq] at e
  subst e
  simp (maxDischargeDepth := 60) [hz]

theorem execChange_keeps {z : State} (rq : Rq) (p : Fin 2) {s : State} (hz : Keeps z s) {u : State} (e : execChange rq p s = .next u) : Keeps z u := by
  simp only [execChange, Host.Outcome.next.injEq] at e
  subst e
  simp (maxDischargeDepth := 60) [hz]

theorem execInstall_keeps {z : State} (rq : Rq) (p : Fin 2) {s : State} (hz : Keeps z s) {u : State} (e : execInstall rq p s = .next u) : Keeps z u := by
  simp only [execInstall, Host.Outcome.next.injEq] at e
  subst e
  simp (maxDischargeDepth := 60) [hz]

theorem execRetire_keeps {z : State} (rq : Rq) (p : Fin 2) {s : State} (hz : Keeps z s) {u : State} (e : execRetire rq p s = .next u) : Keeps z u := by
  simp only [execRetire, Host.Outcome.next.injEq] at e
  subst e
  simp (maxDischargeDepth := 60) [hz]

theorem execGclEntryAdvance_keeps {z : State} (p : Fin 2) {s : State} (hz : Keeps z s) {u : State} (e : execGclEntryAdvance p s = .next u) : Keeps z u := by
  unfold execGclEntryAdvance at e
  (repeat' split at e) <;> simp only [Host.Outcome.next.injEq] at e <;> (subst e; simp (maxDischargeDepth := 60) [hz])

theorem execGclConfigChange_keeps {z : State} (p : Fin 2) {s : State} (hz : Keeps z s) {u : State} (e : execGclConfigChange p s = .next u) : Keeps z u := by
  unfold execGclConfigChange at e
  (repeat' split at e) <;> simp only [Host.Outcome.next.injEq] at e <;> (subst e; simp (maxDischargeDepth := 60) [hz])

@[simp] theorem State.respSent_keeps {z : State} {s : State} (p q : Nat) (hz : Keeps z s) : Keeps z (State.respSent s p q) :=
  hz.of_eq rfl rfl rfl (Nat.le_refl _)

@[simp] theorem State.protect_keeps {z : State} {s : State} (p m : Nat) (d : List Byte) (hz : Keeps z s) : Keeps z (State.protect s p m d).2 :=
  hz.of_eq rfl rfl rfl (Nat.le_refl _)

@[simp] theorem State.sendFrame_keeps {z : State} {s : State} (p q : Nat) (d : List Byte) (fragments : Bool) (hz : Keeps z s) : Keeps z (State.sendFrame s p q d fragments) := by
  unfold State.sendFrame
  simp (maxDischargeDepth := 60) [hz]

@[simp] theorem State.headNext_keeps {z : State} {s : State} (p q : Nat) (hz : Keeps z s) : Keeps z (State.headNext s p q) := by
  unfold State.headNext
  simp (maxDischargeDepth := 60) [hz]

@[simp] theorem State.txDone_keeps {z : State} {s : State} (p q pa flags status : Nat) (ts : Bool) (hz : Keeps z s) : Keeps z (State.txDone s p q pa flags status ts) := by
  unfold State.txDone
  simp (maxDischargeDepth := 60) [hz]

@[simp] theorem State.txDescriptor_keeps {z : State} {s : State} (p q : Nat) (fragments : Bool) (hz : Keeps z s) : Keeps z (State.txDescriptor s p q fragments) := by
  unfold State.txDescriptor
  (repeat' (first | (rename _ = (_, _) => heq; have hs1 := Keeps.snd (s := z) (by clear heq; simp [*]; done) heq; clear heq) | (rename _ = (_, _) => heq; have hs1 := Keeps.fst (s := z) (by clear heq; simp [*]; done) heq; clear heq) | (dsimp only) | split)) <;> simp (maxDischargeDepth := 60) [*]

theorem execFrameTransmit_keeps {z : State} (p : Fin 2) (q : Fin 32) (fragments : Bool) {s : State} (hz : Keeps z s) {u : State} (e : execFrameTransmit p q fragments s = .next u) : Keeps z u := by
  unfold execFrameTransmit at e
  (repeat' (first | (rename _ = (_, _) => heq; have hs1 := Keeps.snd (s := z) (by clear heq; simp [*]; done) heq; clear heq) | (rename _ = (_, _) => heq; have hs1 := Keeps.fst (s := z) (by clear heq; simp [*]; done) heq; clear heq) | (dsimp only at e) | split at e)) <;> simp only [Host.Outcome.next.injEq] at e <;> (subst e; (repeat' (first | (rename _ = (_, _) => heq; have hs1 := Keeps.snd (s := z) (by clear heq; simp [*]; done) heq; clear heq) | (rename _ = (_, _) => heq; have hs1 := Keeps.fst (s := z) (by clear heq; simp [*]; done) heq; clear heq) | (dsimp only) | split)) <;> simp (maxDischargeDepth := 60) [*])

end Sys2Proof.Machine
end

