-- ==== Sys2Proof/Laws/KeepsTimeCmds.lean ====
section
/-!
SUPPORT. What the operations of Machine/TimeCmds.lean keep (Laws/Keeps.lean).
-/

namespace Sys2Proof.Machine

theorem execTimeStep_keeps {z : State} (rq : Rq) (v : Word) {s : State} (hz : Keeps z s) {u : State} (e : execTimeStep rq v s = .next u) : Keeps z u := by
  simp only [execTimeStep, Host.Outcome.next.injEq] at e
  subst e
  simp (maxDischargeDepth := 60) [hz]

theorem execTimeRateWrite_keeps {z : State} (rq : Rq) (v : Word) {s : State} (hz : Keeps z s) {u : State} (e : execTimeRateWrite rq v s = .next u) : Keeps z u := by
  simp only [execTimeRateWrite, Host.Outcome.next.injEq] at e
  subst e
  simp (maxDischargeDepth := 60) [hz]

theorem execTimeNowRead_keeps {z : State} (rq : Rq) {s : State} (hz : Keeps z s) {u : State} (e : execTimeNowRead rq s = .next u) : Keeps z u := by
  simp only [execTimeNowRead, Host.Outcome.next.injEq] at e
  subst e
  simp (maxDischargeDepth := 60) [hz]

@[simp] theorem State.servoAct_keeps {z : State} {s : State} (ofs : Int) (hz : Keeps z s) : Keeps z (State.servoAct s ofs) := by
  unfold State.servoAct
  simp (maxDischargeDepth := 60) [hz]

theorem execServoReferenceEvent_keeps {z : State} (ofs : Word) {s : State} (hz : Keeps z s) {u : State} (e : execServoReferenceEvent ofs s = .next u) : Keeps z u := by
  unfold execServoReferenceEvent at e
  (dsimp only at e; repeat' split at e) <;> simp only [Host.Outcome.next.injEq] at e <;> (subst e; simp (maxDischargeDepth := 60) [hz])

theorem execTimeSourceLoss_keeps {z : State} {s : State} (hz : Keeps z s) {u : State} (e : execTimeSourceLoss s = .next u) : Keeps z u := by
  unfold execTimeSourceLoss at e
  (dsimp only at e; repeat' split at e) <;> simp only [Host.Outcome.next.injEq] at e <;> (subst e; simp (maxDischargeDepth := 60) [hz])

theorem execHoldoverLimit_keeps {z : State} {s : State} (hz : Keeps z s) {u : State} (e : execHoldoverLimit s = .next u) : Keeps z u := by
  unfold execHoldoverLimit at e
  (repeat' split at e) <;> simp only [Host.Outcome.next.injEq] at e <;> (subst e; simp (maxDischargeDepth := 60) [hz])

theorem execTcxoCheck_keeps {z : State} (dev : BitVec 16) {s : State} (hz : Keeps z s) {u : State} (e : execTcxoCheck dev s = .next u) : Keeps z u := by
  simp only [execTcxoCheck, Host.Outcome.next.injEq] at e
  subst e
  simp (maxDischargeDepth := 60) [hz]

theorem State.lineEdge_keeps {z s : State} (n : Nat) (stuck : Bool) (q : Nat) (o : Option (Nat × Bool)) (hz : Keeps z s) :
    Keeps z (s.lineEdge n stuck q o) := by
  cases o with
  | none => exact hz
  | some x =>
    unfold State.lineEdge
    dsimp only
    split
    · exact hz
    · split <;> simp [hz]

theorem execTimeOutEdge_keeps {z : State} (n : Fin 4) (stuck : Bool) {s : State} (hz : Keeps z s) {u : State}
    (e : execTimeOutEdge n stuck s = .next u) : Keeps z u := by
  cases e
  exact State.lineEdge_keeps _ _ _ _ hz

theorem execTimeOutCfgWrite_keeps {z : State} (rq : Rq) (n : Fin 4) (v : Word) {s : State} (hz : Keeps z s) {u : State} (e : execTimeOutCfgWrite rq n v s = .next u) : Keeps z u := by
  simp only [execTimeOutCfgWrite, Host.Outcome.next.injEq] at e
  subst e
  simp (maxDischargeDepth := 60) [hz]

theorem execTimeInEdge_keeps {z : State} (n : Fin 2) (falling : Bool) (age : Nat) {s : State} (hz : Keeps z s) {u : State} (e : execTimeInEdge n falling age s = .next u) : Keeps z u := by
  unfold execTimeInEdge at e
  (dsimp only at e; repeat' split at e) <;> simp only [Host.Outcome.next.injEq] at e <;> (subst e; simp (maxDischargeDepth := 60) [hz])

theorem execTimeInCapRead_keeps {z : State} (rq : Rq) (n : Fin 2) {s : State} (hz : Keeps z s) {u : State} (e : execTimeInCapRead rq n s = .next u) : Keeps z u := by
  simp only [execTimeInCapRead, Host.Outcome.next.injEq] at e
  subst e
  simp (maxDischargeDepth := 60) [hz]

@[simp] theorem State.gptpSend_keeps {z : State} {s : State} (p m kind dom : Nat) (hz : Keeps z s) : Keeps z (State.gptpSend s p m kind dom) := by
  unfold State.gptpSend
  simp (maxDischargeDepth := 60) [hz]

theorem execGptpSyncTransmit_keeps {z : State} (k : Fin 4) (p : Fin 2) (m : Fin 4) (kind : Fin 3) {s : State} (hz : Keeps z s) {u : State} (e : execGptpSyncTransmit k p m kind s = .next u) : Keeps z u := by
  unfold execGptpSyncTransmit at e
  (dsimp only at e; repeat' split at e) <;> simp only [Host.Outcome.next.injEq] at e <;> (subst e; simp (maxDischargeDepth := 60) [hz])

theorem execPdelayExchange_keeps {z : State} (p : Fin 2) (m : Fin 4) (delay : BitVec 32) {s : State} (hz : Keeps z s) {u : State} (e : execPdelayExchange p m delay s = .next u) : Keeps z u := by
  unfold execPdelayExchange at e
  (repeat' split at e) <;> simp only [Host.Outcome.next.injEq] at e <;> (subst e; simp (maxDischargeDepth := 60) [hz])

theorem execGptpFrameReceive_keeps {z : State} (k : Fin 4) (ofs : Word) {s : State} (hz : Keeps z s) {u : State} (e : execGptpFrameReceive k ofs s = .next u) : Keeps z u := by
  unfold execGptpFrameReceive at e
  (dsimp only at e; repeat' split at e) <;> simp only [Host.Outcome.next.injEq] at e <;> (subst e; simp (maxDischargeDepth := 60) [hz])

end Sys2Proof.Machine
end

