-- ==== Sys2Proof/Laws/KeepsTlbIns.lean ====
section
/-!
SUPPORT. What the operations of Machine/TlbIns.lean keep (Laws/Keeps.lean).
-/

namespace Sys2Proof.Machine

theorem execTlbwr_keeps {z : State} (w : Who) (g : Guard) (d a b : RegNo) {s : State} (hz : Keeps z s) {u : State} (e : execTlbwr w g d a b s = .next u) : Keeps z u := by
  simp only [execTlbwr, Host.Outcome.next.injEq] at e
  subst e
  simp (maxDischargeDepth := 60) [hz]

theorem execTlbrdT_keeps {z : State} (w : Who) (g : Guard) (d a b : RegNo) {s : State} (hz : Keeps z s) {u : State} (e : execTlbrdT w g d a b s = .next u) : Keeps z u := by
  simp only [execTlbrdT, Host.Outcome.next.injEq] at e
  subst e
  simp (maxDischargeDepth := 60) [hz]

theorem execTlbrdP_keeps {z : State} (w : Who) (g : Guard) (d a b : RegNo) {s : State} (hz : Keeps z s) {u : State} (e : execTlbrdP w g d a b s = .next u) : Keeps z u := by
  simp only [execTlbrdP, Host.Outcome.next.injEq] at e
  subst e
  simp (maxDischargeDepth := 60) [hz]

theorem execTlbinvVa_keeps {z : State} (w : Who) (g : Guard) (a b : RegNo) {s : State} (hz : Keeps z s) {u : State} (e : execTlbinvVa w g a b s = .next u) : Keeps z u := by
  simp only [execTlbinvVa, Host.Outcome.next.injEq] at e
  subst e
  simp (maxDischargeDepth := 60) [hz]

theorem execTlbinvAsid_keeps {z : State} (w : Who) (g : Guard) (a : RegNo) {s : State} (hz : Keeps z s) {u : State} (e : execTlbinvAsid w g a s = .next u) : Keeps z u := by
  simp only [execTlbinvAsid, Host.Outcome.next.injEq] at e
  subst e
  simp (maxDischargeDepth := 60) [hz]

theorem execTlbinvAll_keeps {z : State} (w : Who) (g : Guard) {s : State} (hz : Keeps z s) {u : State} (e : execTlbinvAll w g s = .next u) : Keeps z u := by
  simp only [execTlbinvAll, Host.Outcome.next.injEq] at e
  subst e
  simp (maxDischargeDepth := 60) [hz]

theorem execTlbinvIdx_keeps {z : State} (w : Who) (g : Guard) (a : RegNo) {s : State} (hz : Keeps z s) {u : State} (e : execTlbinvIdx w g a s = .next u) : Keeps z u := by
  simp only [execTlbinvIdx, Host.Outcome.next.injEq] at e
  subst e
  simp (maxDischargeDepth := 60) [hz]

end Sys2Proof.Machine
end

