-- ==== Sys2Proof/Laws/KeepsBoot.lean ====
section
/-!
SUPPORT. What the operations of Machine/Boot.lean keep (Laws/Keeps.lean).
-/

namespace Sys2Proof.Machine

@[simp] theorem State.toStep_keeps {z : State} {s : State} (n : Nat) (hz : Keeps z s) : Keeps z (State.toStep s n) := by
  unfold State.toStep
  simp (maxDischargeDepth := 60) [hz]

@[simp] theorem State.raiseLate_keeps {z : State} {s : State} (src : Nat) (hz : Keeps z s) : Keeps z (State.raiseLate s src) :=
  hz.of_eq rfl rfl rfl (Nat.le_refl _)

theorem execPllLockDone_keeps {z : State} {s : State} (hz : Keeps z s) {u : State} (e : execPllLockDone s = .next u) : Keeps z u := by
  unfold execPllLockDone at e
  (dsimp only at e; repeat' split at e) <;> simp only [Host.Outcome.next.injEq] at e <;> (subst e; (repeat' split) <;> simp_all +contextual (maxDischargeDepth := 60))

@[simp] theorem State.crownFail_keeps {z : State} {s : State} (b : Nat) (hz : Keeps z s) : Keeps z (State.crownFail s b) := by
  unfold State.crownFail
  simp +contextual (maxDischargeDepth := 60) [hz]

theorem execStartupPhase1Done_keeps {z : State} (copies : BitVec 48) (banks : BitVec 16) {s : State} (hz : Keeps z s) {u : State}
    (e : execStartupPhase1Done copies banks s = .next u) : Keeps z u := by
  unfold execStartupPhase1Done at e
  split at e
  · cases e; exact hz
  · dsimp only at e
    cases e
    refine State.fset_keeps _ _ _ ?_
    have h1 : ∀ (l m : List Nat), Keeps z (m.foldl (fun (s : State) b => (s.crownFail b).failLast 0xF b 0 true)
        (l.foldl (fun (s : State) k => s.fresh.2.failLast 0xF (k / 3) s.fresh.1.toNat true)
          (s.fset Reg.pncFailedCopies Reg.pncFailedCopies_COPY copies.toNat))) := fun l m =>
      Keeps.foldl (fun t x h => by simp (maxDischargeDepth := 60) [h])
        (Keeps.foldl (fun t x h => by simp (maxDischargeDepth := 60) [h]) (by simp [hz]))
    have h2 := h1 ((List.range 48).filter copies.getLsbD) ((List.range 16).filter banks.getLsbD)
    repeat' split
    all_goals simp (maxDischargeDepth := 60) [h2]

theorem execImageCheck_keeps {z : State} (sfdp : Bool) (ext : Option (List Byte)) (units readUs verifyUs : BitVec 16) {s : State} (hz : Keeps z s) {u : State} (e : execImageCheck sfdp ext units readUs verifyUs s = .next u) : Keeps z u := by
  unfold execImageCheck at e
  (dsimp only at e; repeat' split at e) <;> simp only [Host.Outcome.next.injEq] at e <;> (subst e; simp (maxDischargeDepth := 60) [hz])

@[simp] theorem State.blockGates_keeps {z : State} {s : State} (hz : Keeps z s) : Keeps z (State.blockGates s) := by
  unfold State.blockGates
  simp +contextual (maxDischargeDepth := 60) [hz]

@[simp] theorem State.blockTriads_keeps {z : State} {s : State} (hz : Keeps z s) : Keeps z (State.blockTriads s) := by
  unfold State.blockTriads
  simp +contextual (maxDischargeDepth := 60) [hz]

@[simp] theorem State.blockFuller_keeps {z : State} {s : State} (hz : Keeps z s) : Keeps z (State.blockFuller s) := by
  unfold State.blockFuller
  simp +contextual (maxDischargeDepth := 60) [hz]

@[simp] theorem State.blockMemories_keeps {z : State} {s : State} (hz : Keeps z s) : Keeps z (State.blockMemories s) := by
  unfold State.blockMemories
  simp +contextual (maxDischargeDepth := 60) [hz]

@[simp] theorem State.blockPorts_keeps {z : State} {s : State} (hz : Keeps z s) : Keeps z (State.blockPorts s) := by
  unfold State.blockPorts
  simp +contextual (maxDischargeDepth := 60) [hz]

@[simp] theorem State.blockRecorder_keeps {z : State} {s : State} (hz : Keeps z s) : Keeps z (State.blockRecorder s) := by
  unfold State.blockRecorder
  simp (maxDischargeDepth := 60) [hz]

@[simp] theorem State.blockTwin_keeps {z : State} {s : State} (hz : Keeps z s) : Keeps z (State.blockTwin s) := by
  unfold State.blockTwin
  simp +contextual (maxDischargeDepth := 60) [hz]

@[simp] theorem State.blockHatbox_keeps {z : State} {s : State} (hz : Keeps z s) : Keeps z (State.blockHatbox s) := by
  unfold State.blockHatbox
  simp +contextual (maxDischargeDepth := 60) [hz]

@[simp] theorem State.raiseLates_keeps {z : State} {s : State} (hz : Keeps z s) : Keeps z (State.raiseLates s) := by
  unfold State.raiseLates
  simp +contextual (maxDischargeDepth := 60) [hz]

@[simp] theorem State.blocked_keeps {z : State} {s : State} (img : List Byte) (hz : Keeps z s) : Keeps z (State.blocked s img) := by
  unfold State.blocked
  simp (maxDischargeDepth := 60) [hz]

theorem execBlocking_keeps {z : State} (units blockUs : BitVec 16) {s : State} (hz : Keeps z s) {u : State}
    (e : execBlocking units blockUs s = .next u) : Keeps z u := by
  unfold execBlocking at e
  split at e
  · cases e; exact hz
  · split at e
    · have k : Keeps z s.unspecTables := State.unspecTables_keeps hz
      generalize s.unspecTables = x at e k
      cases e
      exact State.halt_keeps 9 k
    · cases e
      have h := State.imgSections_keeps (z := z) _ hz (by assumption)
      simp (maxDischargeDepth := 60) [h]

@[simp] theorem State.step6End_keeps {z : State} {s : State} (hz : Keeps z s) : Keeps z (State.step6End s) := by
  unfold State.step6End
  simp (maxDischargeDepth := 60) [hz]

@[simp] theorem State.trainMargins_keeps {z : State} {s : State} (rejected : BitVec 16) (hz : Keeps z s) : Keeps z (State.trainMargins s rejected) := by
  unfold State.trainMargins
  simp +contextual (maxDischargeDepth := 60) [hz]

theorem execDramTraining_keeps {z : State} (rejected failed : BitVec 16) (timeUs : BitVec 18) (tj : BitVec 8) {s : State} (hz : Keeps z s) {u : State} (e : execDramTraining rejected failed timeUs tj s = .next u) : Keeps z u := by
  unfold execDramTraining at e
  (repeat' split at e) <;> simp only [Host.Outcome.next.injEq] at e <;> (subst e; simp (maxDischargeDepth := 60) [hz])

theorem execCodeStoreCheck_keeps {z : State} {s : State} (hz : Keeps z s) {u : State} (e : execCodeStoreCheck s = .next u) : Keeps z u := by
  unfold execCodeStoreCheck at e
  (repeat' split at e) <;> simp only [Host.Outcome.next.injEq] at e <;> (subst e; simp (maxDischargeDepth := 60) [hz])

theorem execStartupPhase2Done_keeps {z : State} (conf : BitVec 16) (pll freq : BitVec 11) (vmon : BitVec 20) (temp : BitVec 6) (adc : BitVec 8) {s : State} (hz : Keeps z s) {u : State} (e : execStartupPhase2Done conf pll freq vmon temp adc s = .next u) : Keeps z u := by
  unfold execStartupPhase2Done at e
  (dsimp only at e; repeat' split at e) <;> simp only [Host.Outcome.next.injEq] at e <;> (subst e; (repeat' split) <;> simp_all +contextual (maxDischargeDepth := 60))

@[simp] theorem State.releaseCopy_keeps {z : State} {s : State} (t k : Nat) (hz : Keeps z s) : Keeps z (State.releaseCopy s t k) :=
  hz.of_eq rfl rfl rfl (Nat.le_refl _)

@[simp] theorem State.releaseTriad_keeps {z : State} {s : State} (t : Nat) (hz : Keeps z s) : Keeps z (State.releaseTriad s t) := by
  unfold State.releaseTriad
  simp (maxDischargeDepth := 60) [hz]

@[simp] theorem State.commitSvn_keeps {z : State} {s : State} (hz : Keeps z s) : Keeps z (State.commitSvn s) := by
  unfold State.commitSvn
  simp (maxDischargeDepth := 60) [hz]

@[simp] theorem State.releaseState_keeps {z : State} {s : State} (hz : Keeps z s) : Keeps z (State.releaseState s) := by
  unfold State.releaseState
  simp (maxDischargeDepth := 60) [hz]

theorem execTriadRelease_keeps {z : State} (units : BitVec 16) {s : State} (hz : Keeps z s) {u : State} (e : execTriadRelease units s = .next u) : Keeps z u := by
  unfold execTriadRelease at e
  (dsimp only at e; repeat' split at e) <;> simp only [Host.Outcome.next.injEq] at e <;> (subst e; (repeat' split) <;> simp_all +contextual (maxDischargeDepth := 60))

@[simp] theorem State.eraseFor_keeps {z : State} {s : State} (off len : Nat) (hz : Keeps z s) : Keeps z (State.eraseFor s off len) := by
  unfold State.eraseFor
  simp +contextual (maxDischargeDepth := 60) [hz]

@[simp] theorem State.nvmReadBack_keeps {z : State} {s : State} (hz : Keeps z s) : Keeps z (State.nvmReadBack s) := by
  unfold State.nvmReadBack
  split <;> simp (maxDischargeDepth := 60) [hz]

theorem execNvmProgramDone_keeps {z : State} {s : State} (hz : Keeps z s) {u : State} (e : execNvmProgramDone s = .next u) : Keeps z u := by
  unfold execNvmProgramDone at e
  (repeat' split at e) <;> simp only [Host.Outcome.next.injEq] at e <;> (subst e; simp (maxDischargeDepth := 60) [hz])

theorem execCodeProgramDone_keeps {z : State} {s : State} (hz : Keeps z s) {u : State} (e : execCodeProgramDone s = .next u) : Keeps z u := by
  unfold execCodeProgramDone at e
  (dsimp only at e; repeat' split at e) <;> simp only [Host.Outcome.next.injEq] at e <;> (subst e; (repeat' split) <;> simp_all +contextual (maxDischargeDepth := 60))

end Sys2Proof.Machine
end

