-- ==== Sys2Proof/Laws/KeepsBranchIns.lean ====
section
/-!
SUPPORT. What the operations of Machine/BranchIns.lean keep (Laws/Keeps.lean).
-/

namespace Sys2Proof.Machine

@[simp] theorem State.runBranch_keeps {z : State} {s : State} (w : Who) (g : Guard) (body : Copy → Local) (hz : Keeps z s) : Keeps z (State.runBranch s w g body) := by
  unfold State.runBranch
  simp (maxDischargeDepth := 60) [hz]

theorem execB_keeps {z : State} (w : Who) (g : Guard) (off : BitVec 21) {s : State} (hz : Keeps z s) {u : State} (e : execB w g off s = .next u) : Keeps z u := by
  simp only [execB, Host.Outcome.next.injEq] at e
  subst e
  simp (maxDischargeDepth := 60) [hz]

theorem execBl_keeps {z : State} (w : Who) (g : Guard) (off : BitVec 21) {s : State} (hz : Keeps z s) {u : State} (e : execBl w g off s = .next u) : Keeps z u := by
  simp only [execBl, Host.Outcome.next.injEq] at e
  subst e
  simp (maxDischargeDepth := 60) [hz]

theorem execJalr_keeps {z : State} (w : Who) (g : Guard) (d a : RegNo) (imm : BitVec 11) {s : State} (hz : Keeps z s) {u : State} (e : execJalr w g d a imm s = .next u) : Keeps z u := by
  simp only [execJalr, Host.Outcome.next.injEq] at e
  subst e
  simp (maxDischargeDepth := 60) [hz]

end Sys2Proof.Machine
end

