-- ==== Sys2Proof/Laws/KeepsWalk.lean ====
section
/-!
SUPPORT. What the operations of Machine/Walk.lean keep (Laws/Keeps.lean).
-/

namespace Sys2Proof.Machine

@[simp] theorem State.setXlt_keeps {z : State} {s : State} (c : Nat) (x : Xlt) (hz : Keeps z s) : Keeps z (State.setXlt s c x) := by
  unfold State.setXlt
  simp (maxDischargeDepth := 60) [hz]

@[simp] theorem State.fulFill_keeps {z : State} {s : State} (c va size : Nat) (pte : Word) (hz : Keeps z s) : Keeps z (State.fulFill s c va size pte) := by
  unfold State.fulFill
  simp (maxDischargeDepth := 60) [hz]

theorem State.descend_keeps {z s : State} (c va : Nat) (n level table : Nat) (hz : Keeps z s) : Keeps z (s.descend c va n level table).2 := by
  induction n generalizing s level table with
  | zero => exact hz
  | succ n ih =>
    unfold State.descend
    dsimp only
    have h := State.serveAt_keeps (walkReq c .walkRead (table + 8 * (va / 2 ^ (39 - 9 * level) % 512)) 0 0)
      (BitVec.ofNat 64 (table + 8 * (va / 2 ^ (39 - 9 * level) % 512))) hz
    generalize State.serveAt s (walkReq c .walkRead (table + 8 * (va / 2 ^ (39 - 9 * level) % 512)) 0 0) _ = p at h ⊢
    repeat' split
    all_goals first
    | exact hz
    | exact h
    | exact ih _ _ (State.setXlt_keeps _ _ h)

theorem State.walkTry_keeps {z s : State} (c va : Nat) (write : Bool) (n : Nat) (useCache : Bool) (hz : Keeps z s) :
    Keeps z (s.walkTry c va write n useCache).2 := by
  induction n generalizing s useCache with
  | zero => exact hz
  | succ n ih =>
    unfold State.walkTry
    dsimp only
    generalize (if useCache then (s.xltOf c).wcHit (s.fget (Reg.xltAsid c) Reg.xltAsid_ASID) va else none) = o
    have h1 : Keeps z (match o with
      | some (l, _) => s.setXlt c ((s.xltOf c).wcTouch (s.fget (Reg.xltAsid c) Reg.xltAsid_ASID) va (l - 1))
      | none => s) := by
      split
      · exact State.setXlt_keeps _ _ hz
      · exact hz
    split
    · exact (State.descend_keeps (z := z) _ _ _ _ _ h1).snd (by assumption)
    · have h2 := (State.descend_keeps (z := z) _ _ _ _ _ h1).snd (by assumption)
      have h3 := fun m a => State.serveAt_keeps (z := z) m a h2
      repeat' split
      all_goals first
      | exact h2
      | exact h3 _ _
      | exact ih _ (h3 _ _)
      | exact ih _ (State.fsat_keeps _ _ _ (h3 _ _))

@[simp] theorem State.walk_keeps {z s : State} (c va : Nat) (write : Bool) (hz : Keeps z s) : Keeps z (s.walk c va write).2 := by
  unfold State.walk
  have h := State.walkTry_keeps (z := z) c va write 3 true (State.fsat_keeps (Reg.xltStat c) Reg.xltStat_WALKS 1 hz)
  dsimp only
  split
  · exact State.fsat_keeps _ _ _ (h.snd (by assumption))
  · exact State.fulFill_keeps _ _ _ _ (h.snd (by assumption))

@[simp] theorem State.ctxXlate_keeps {z s : State} (c va : Nat) (write : Bool) (hz : Keeps z s) : Keeps z (s.ctxXlate c va write).2 := by
  unfold State.ctxXlate
  generalize va % 2 ^ 48 = va
  have h := State.walk_keeps c va write hz
  dsimp only
  repeat' split
  all_goals first
  | exact hz
  | exact h.snd (by assumption)
  | exact State.setXlt_keeps _ _ hz

end Sys2Proof.Machine
end

