-- ==== Sys2Proof/Laws/KeepsFuller.lean ====
section
/-!
SUPPORT. What the operations of Machine/Fuller.lean keep (Laws/Keeps.lean).
-/

namespace Sys2Proof.Machine

@[simp] theorem State.takeCheck_keeps {z : State} {s : State} (c elem : Nat) (p : CheckKind → Bool) (hz : Keeps z s) : Keeps z (State.takeCheck s c elem p).2 := by
  unfold State.takeCheck
  (repeat' (first | (rename _ = (_, _) => heq; have hs1 := Keeps.snd (s := z) (by clear heq; simp [*]; done) heq; clear heq) | (rename _ = (_, _) => heq; have hs1 := Keeps.fst (s := z) (by clear heq; simp [*]; done) heq; clear heq) | (dsimp only) | split)) <;> simp (maxDischargeDepth := 60) [*]

@[simp] theorem State.checkNote_keeps {z : State} {s : State} (c seq unit elem : Nat) (mm : Bool) (hz : Keeps z s) : Keeps z (State.checkNote s c seq unit elem mm) := by
  unfold State.checkNote
  simp (maxDischargeDepth := 60) [hz]

@[simp] theorem State.checkFail_keeps {z : State} {s : State} (c seq unit elem : Nat) (residue mm : Bool) (hz : Keeps z s) : Keeps z (State.checkFail s c seq unit elem residue mm) := by
  unfold State.checkFail
  simp (maxDischargeDepth := 60) [hz]

@[simp] theorem State.check_keeps {z : State} {s : State} (c seq unit elem : Nat) (res pair : CheckKind → Bool) (hz : Keeps z s) : Keeps z (State.check s c seq unit elem res pair).2 := by
  unfold State.check
  (repeat' (first | (rename _ = (_, _) => heq; have hs1 := Keeps.snd (s := z) (by clear heq; simp [*]; done) heq; clear heq) | (rename _ = (_, _) => heq; have hs1 := Keeps.fst (s := z) (by clear heq; simp [*]; done) heq; clear heq) | (dsimp only) | split)) <;> simp (maxDischargeDepth := 60) [*]

@[simp] theorem State.laneCheck_keeps {z : State} {s : State} (c seq unit elem : Nat) (hz : Keeps z s) : Keeps z (State.laneCheck s c seq unit elem).2 := by
  unfold State.laneCheck
  simp (maxDischargeDepth := 60) [hz]

@[simp] theorem State.addrCheck_keeps {z : State} {s : State} (c seq elem : Nat) (adder : Bool) (hz : Keeps z s) : Keeps z (State.addrCheck s c seq elem adder).2 := by
  unfold State.addrCheck
  simp (maxDischargeDepth := 60) [hz]

@[simp] theorem State.storeCheck_keeps {z : State} {s : State} (c seq elem : Nat) (hz : Keeps z s) : Keeps z (State.storeCheck s c seq elem).2 := by
  unfold State.storeCheck
  simp (maxDischargeDepth := 60) [hz]

@[simp] theorem State.laneChecks_keeps {z s : State} (c : Nat) (o : FulOp) (hz : Keeps z s) : Keeps z (s.laneChecks c o).2 := by
  unfold State.laneChecks
  split
  · exact hz
  · refine Keeps.foldl_snd (fun x i hx => ?_) hz
    have h := State.laneCheck_keeps c o.seq (fwUnit o.word) i hx
    split
    · exact h.snd (by assumption)
    · exact h.snd (by assumption)

@[simp] theorem State.poisonSince_keeps {z : State} {s : State} (c : Nat) (x : Ctx) (hz : Keeps z s) : Keeps z (State.poisonSince s c x) := by
  unfold State.poisonSince
  simp (maxDischargeDepth := 60) [hz]

@[simp] theorem State.vrfWord_keeps {z : State} {s : State} (c seq elem k : Nat) (hz : Keeps z s) : Keeps z (State.vrfWord s c seq elem k) := by
  unfold State.vrfWord
  simp (maxDischargeDepth := 60) [hz]

@[simp] theorem State.vrfRead_keeps {z : State} {s : State} (c : Nat) (o : FulOp) (hz : Keeps z s) : Keeps z (State.vrfRead s c o) := by
  unfold State.vrfRead
  simp +contextual (maxDischargeDepth := 60) [hz]

@[simp] theorem State.deferHead_keeps {z : State} {s : State} (c : Nat) (hz : Keeps z s) : Keeps z (State.deferHead s c) := by
  unfold State.deferHead
  (repeat' (first | (rename _ = (_, _) => heq; have hs1 := Keeps.snd (s := z) (by clear heq; simp [*]; done) heq; clear heq) | (rename _ = (_, _) => heq; have hs1 := Keeps.fst (s := z) (by clear heq; simp [*]; done) heq; clear heq) | (dsimp only) | split)) <;> simp (maxDischargeDepth := 60) [*]

@[simp] theorem State.ctxStall_keeps {z : State} {s : State} (c : Nat) (hz : Keeps z s) : Keeps z (State.ctxStall s c) := by
  unfold State.ctxStall
  simp (maxDischargeDepth := 60) [hz]

theorem State.startHead_keeps {z s : State} (c : Nat) (sel : BitVec 32 → Bool) (f : State → FulOp → State × Option FulOp)
    (hf : ∀ t o, Keeps z t → Keeps z (f t o).1) (hz : Keeps z s) : Keeps z (s.startHead c sel f) := by
  unfold State.startHead
  split
  · exact hz
  · rename_i o r _
    split
    · exact hz
    · split
      · exact State.deferHead_keeps _ hz
      · split
        · exact State.ctxStall_keeps _ hz
        · dsimp only
          have h := fun q => hf _ q (State.vrfRead_keeps c o (State.modCtx_keeps c (fun x => { x with queue := r }) hz))
          split
          · split
            · exact State.ctxComplete_keeps _ _ ((h _).fst (by assumption))
            · exact State.fulUpd_keeps _ (State.wdogKeep_keeps _ _ (State.modCtx_keeps _ _ ((h _).fst (by assumption))))
          · exact State.fulUpd_keeps _ ((h _).fst (by assumption))

theorem State.resumeOrStart_keeps {z s : State} (c : Nat) (sel : BitVec 32 → Bool) (f : State → FulOp → State × Option FulOp)
    (hf : ∀ t o, Keeps z t → Keeps z (f t o).1) (hz : Keeps z s) : Keeps z (s.resumeOrStart c sel f) := by
  unfold State.resumeOrStart
  split
  · exact State.startHead_keeps _ _ _ hf hz
  · rename_i o _
    split
    · exact hz
    · split
      · exact State.ctxStall_keeps _ hz
      · have h := hf _ o (State.modCtx_keeps c (fun x => { x with run := List.filter (fun r => decide (r.seq ≠ o.seq)) x.run }) hz)
        repeat' split
        all_goals first
        | exact State.fulUpd_keeps _ (State.modCtx_keeps _ _ (h.fst (by assumption)))
        | exact State.modCtx_keeps _ _ (h.fst (by assumption))
        | exact State.fulUpd_keeps _ (h.fst (by assumption))
        | exact h.fst (by assumption)

@[simp] theorem State.vecEffect_keeps {z s : State} (c : Nat) (o : FulOp) (res : Ctx → Nat → Option ElemRes) (hz : Keeps z s) :
    Keeps z (s.vecEffect c o res).1 := by
  unfold State.vecEffect
  exact State.accrue_keeps _ _ (State.poisonSince_keeps _ _ (State.setCtx_keeps _ _ (State.laneChecks_keeps c o hz)))

@[simp] theorem State.maskEffect_keeps {z s : State} (c : Nat) (o : FulOp) (res : Ctx → Nat → ElemRes) (hz : Keeps z s) :
    Keeps z (s.maskEffect c o res).1 := by
  unfold State.maskEffect
  exact State.accrue_keeps _ _ (State.poisonSince_keeps _ _ (State.setCtx_keeps _ _ (State.laneChecks_keeps c o hz)))

@[simp] theorem State.valueEffect_keeps {z : State} {s : State} (c : Nat) (o : FulOp) (v : Word) (hz : Keeps z s) : Keeps z (State.valueEffect s c o v).1 := by
  unfold State.valueEffect
  simp (maxDischargeDepth := 60) [hz]

@[simp] theorem State.poisonFault_keeps {z : State} {s : State} (c : Nat) (o : FulOp) (elem va : Nat) (write : Bool) (hz : Keeps z s) : Keeps z (State.poisonFault s c o elem va write) := by
  unfold State.poisonFault
  simp (maxDischargeDepth := 60) [hz]

@[simp] theorem State.draw_keeps {z : State} {s : State} (n : Nat) (hz : Keeps z s) : Keeps z (State.draw s n) := by
  unfold State.draw
  simp (maxDischargeDepth := 60) [hz]

@[simp] theorem State.partXlate_keeps {z : State} {s : State} (c va : Nat) (write : Bool) (ok : Nat → Bool) (hz : Keeps z s) : Keeps z (State.partXlate s c va write ok).2 := by
  unfold State.partXlate
  (repeat' (first | (rename _ = (_, _) => heq; have hs1 := Keeps.snd (s := z) (by clear heq; simp [*]; done) heq; clear heq) | (rename _ = (_, _) => heq; have hs1 := Keeps.fst (s := z) (by clear heq; simp [*]; done) heq; clear heq) | (dsimp only) | split)) <;> simp (maxDischargeDepth := 60) [*]

@[simp] theorem State.partRead_keeps {z s : State} (c va pa n : Nat) (hz : Keeps z s) : Keeps z (s.partRead c va pa n).2 := by
  have h := State.serveAt_keeps (ctxReq c .read pa n 0) (BitVec.ofNat 64 va) hz
  unfold State.partRead
  dsimp only
  split <;> exact h

@[simp] theorem State.partWrite_keeps {z : State} {s : State} (c va pa n v : Nat) (hz : Keeps z s) : Keeps z (State.partWrite s c va pa n v).2 := by
  unfold State.partWrite
  (repeat' (first | (rename _ = (_, _) => heq; have hs1 := Keeps.snd (s := z) (by clear heq; simp [*]; done) heq; clear heq) | (rename _ = (_, _) => heq; have hs1 := Keeps.fst (s := z) (by clear heq; simp [*]; done) heq; clear heq) | (dsimp only) | split)) <;> simp (maxDischargeDepth := 60) [*]

@[simp] theorem State.elemRead_keeps {z s : State} (c va n : Nat) (ok : Nat → Bool) (hz : Keeps z s) : Keeps z (s.elemRead c va n ok).2 := by
  unfold State.elemRead
  dsimp only
  generalize firstPart va n = k
  have h := State.partXlate_keeps c va false ok hz
  split
  · exact h.snd (by assumption)
  · have h1 := h.snd (by assumption)
    split
    · have h2 := fun pa => State.partRead_keeps c va pa n h1
      split
      · exact (h2 _).snd (by assumption)
      · exact (h2 _).snd (by assumption)
    · have h2 := State.partXlate_keeps c (va + k) false ok h1
      split
      · exact h2.snd (by assumption)
      · have h3 := fun pa => State.partRead_keeps c va pa k (h2.snd (by assumption))
        split
        · exact (h3 _).snd (by assumption)
        · have h4 := fun pa => State.partRead_keeps c (va + k) pa (n - k) ((h3 _).snd (by assumption))
          split
          · exact (h4 _).snd (by assumption)
          · exact (h4 _).snd (by assumption)

@[simp] theorem State.pairWrite_keeps {z s : State} (c va n v k pa pa' : Nat) (hz : Keeps z s) : Keeps z (s.pairWrite c va n v k pa pa').2 := by
  have h1 : ∀ b : Bool, Keeps z (if b then s.partWrite c va pa k v else (Except.ok (), s)).2 := fun b => by
    cases b
    · exact hz
    · exact State.partWrite_keeps _ _ _ _ _ hz
  unfold State.pairWrite
  dsimp only
  split
  · exact (h1 _).snd (by assumption)
  · have h2 := State.partWrite_keeps c (va + k) pa' (n - k) (v / 2 ^ (8 * k)) ((h1 _).snd (by assumption))
    split
    · exact h2.snd (by assumption)
    · exact h2.snd (by assumption)

@[simp] theorem State.elemWrite_keeps {z s : State} (c va n v : Nat) (ok : Nat → Bool) (hz : Keeps z s) :
    Keeps z (s.elemWrite c va n v ok).2 := by
  unfold State.elemWrite
  dsimp only
  generalize firstPart va n = k
  have h := State.partXlate_keeps c va true ok hz
  split
  · exact h.snd (by assumption)
  · have h1 := h.snd (by assumption)
    split
    · have h2 := fun pa => State.partWrite_keeps c va pa n v h1
      split
      · exact (h2 _).snd (by assumption)
      · exact (h2 _).snd (by assumption)
    · have h2 := State.partXlate_keeps c (va + k) true ok h1
      split
      · exact h2.snd (by assumption)
      · exact State.pairWrite_keeps _ _ _ _ _ _ _ (h2.snd (by assumption))

theorem State.loadElems_keeps {z s : State} (c : Nat) (o : FulOp) (masked : Bool) (n i : Nat) (hz : Keeps z s) :
    Keeps z (s.loadElems c o masked n i).1 := by
  induction n generalizing s i with
  | zero => exact hz
  | succ n ih =>
    unfold State.loadElems
    dsimp only
    split
    · exact ih _ hz
    · have h := State.addrCheck_keeps c o.seq i (regStrided o) hz
      split
      · exact State.ctxFault_keeps _ _ _ _ _ _ (h.snd (by assumption))
      · have h1 := State.elemRead_keeps c (regElemVa o i) (elemBits o.vtype / 8) (fun _ => true) (h.snd (by assumption))
        split
        · exact State.ctxFault_keeps _ _ _ _ _ _ (h1.snd (by assumption))
        · exact ih _ (State.poisonSince_keeps _ _ (State.modCtx_keeps _ _ (State.laneCheck_keeps _ _ _ _ (h1.snd (by assumption)))))

@[simp] theorem State.loadEffect_keeps {z s : State} (c : Nat) (masked : Bool) (o : FulOp) (hz : Keeps z s) :
    Keeps z (s.loadEffect c masked o).1 := by
  unfold State.loadEffect
  split
  · exact hz
  · split
    · exact State.ctxFault_keeps _ _ _ _ _ _ hz
    · exact State.loadElems_keeps _ _ _ _ _ hz

@[simp] theorem State.freeIssued_keeps {z : State} {s : State} (c : Nat) (o : FulOp) (masked : Bool) (i n : Nat) (hz : Keeps z s) : Keeps z (State.freeIssued s c o masked i n) := by
  unfold State.freeIssued
  simp +contextual (maxDischargeDepth := 60) [hz]

theorem State.storeElems_keeps {z s : State} (c : Nat) (masked : Bool) (o : FulOp) (n i : Nat) (hz : Keeps z s) :
    Keeps z (s.storeElems c masked o n i).1 := by
  induction n generalizing s o i with
  | zero => exact hz
  | succ n ih =>
    unfold State.storeElems
    dsimp only
    split
    · exact ih _ _ hz
    · have h := State.addrCheck_keeps c o.seq i (regStrided o) hz
      split
      · exact State.ctxFault_keeps _ _ _ _ _ _ (h.snd (by assumption))
      · have h1 := State.storeCheck_keeps c o.seq i (h.snd (by assumption))
        generalize State.storeCheck _ c o.seq i = q at h1 ⊢
        split
        · exact State.poisonFault_keeps _ _ _ _ _ h1
        · have h2 := fun va v => State.elemWrite_keeps c va (elemBits o.vtype / 8) v (fun _ => true) h1
          split
          · refine State.ctxFault_keeps _ _ _ _ _ _ (Keeps.ite (State.freeIssued_keeps _ _ _ _ _ ?_) ?_)
            · exact (h2 _ _).snd (by assumption)
            · exact (h2 _ _).snd (by assumption)
          · exact ih _ _ ((h2 _ _).snd (by assumption))

@[simp] theorem State.storeEffect_keeps {z s : State} (c : Nat) (masked : Bool) (o : FulOp) (hz : Keeps z s) :
    Keeps z (s.storeEffect c masked o).1 := by
  unfold State.storeEffect
  split
  · exact hz
  · split
    · exact State.ctxFault_keeps _ _ _ _ _ _ hz
    · exact State.storeElems_keeps _ _ _ _ _ hz

end Sys2Proof.Machine
end

