-- ==== Sys2Proof/Laws/KeepsFulIns.lean ====
section
/-!
SUPPORT. What the operations of Machine/FulIns.lean keep (Laws/Keeps.lean).
-/

namespace Sys2Proof.Machine

theorem execVi_keeps {z : State} (c : Fin 8) {s : State} (hz : Keeps z s) {u : State} (e : execVi c s = .next u) : Keeps z u := by
  cases e
  refine State.startHead_keeps _ _ _ (fun t o h => ?_) hz
  first
  | (simp (maxDischargeDepth := 60) [h]; done)
  | (split <;> simp (maxDischargeDepth := 60) [h])

theorem execViM_keeps {z : State} (c : Fin 8) {s : State} (hz : Keeps z s) {u : State} (e : execViM c s = .next u) : Keeps z u := by
  cases e
  refine State.startHead_keeps _ _ _ (fun t o h => ?_) hz
  first
  | (simp (maxDischargeDepth := 60) [h]; done)
  | (split <;> simp (maxDischargeDepth := 60) [h])

theorem execVf_keeps {z : State} (c : Fin 8) {s : State} (hz : Keeps z s) {u : State} (e : execVf c s = .next u) : Keeps z u := by
  cases e
  refine State.startHead_keeps _ _ _ (fun t o h => ?_) hz
  first
  | (simp (maxDischargeDepth := 60) [h]; done)
  | (split <;> simp (maxDischargeDepth := 60) [h])

theorem execVfM_keeps {z : State} (c : Fin 8) {s : State} (hz : Keeps z s) {u : State} (e : execVfM c s = .next u) : Keeps z u := by
  cases e
  refine State.startHead_keeps _ _ _ (fun t o h => ?_) hz
  first
  | (simp (maxDischargeDepth := 60) [h]; done)
  | (split <;> simp (maxDischargeDepth := 60) [h])

theorem execVfma_keeps {z : State} (c : Fin 8) {s : State} (hz : Keeps z s) {u : State} (e : execVfma c s = .next u) : Keeps z u := by
  cases e
  refine State.startHead_keeps _ _ _ (fun t o h => ?_) hz
  first
  | (simp (maxDischargeDepth := 60) [h]; done)
  | (split <;> simp (maxDischargeDepth := 60) [h])

theorem execVfmaM_keeps {z : State} (c : Fin 8) {s : State} (hz : Keeps z s) {u : State} (e : execVfmaM c s = .next u) : Keeps z u := by
  cases e
  refine State.startHead_keeps _ _ _ (fun t o h => ?_) hz
  first
  | (simp (maxDischargeDepth := 60) [h]; done)
  | (split <;> simp (maxDischargeDepth := 60) [h])

theorem execVfnma_keeps {z : State} (c : Fin 8) {s : State} (hz : Keeps z s) {u : State} (e : execVfnma c s = .next u) : Keeps z u := by
  cases e
  refine State.startHead_keeps _ _ _ (fun t o h => ?_) hz
  first
  | (simp (maxDischargeDepth := 60) [h]; done)
  | (split <;> simp (maxDischargeDepth := 60) [h])

theorem execVdot_keeps {z : State} (c : Fin 8) {s : State} (hz : Keeps z s) {u : State} (e : execVdot c s = .next u) : Keeps z u := by
  cases e
  refine State.startHead_keeps _ _ _ (fun t o h => ?_) hz
  first
  | (simp (maxDischargeDepth := 60) [h]; done)
  | (split <;> simp (maxDischargeDepth := 60) [h])

theorem execVcmp_keeps {z : State} (c : Fin 8) {s : State} (hz : Keeps z s) {u : State} (e : execVcmp c s = .next u) : Keeps z u := by
  cases e
  refine State.startHead_keeps _ _ _ (fun t o h => ?_) hz
  first
  | (simp (maxDischargeDepth := 60) [h]; done)
  | (split <;> simp (maxDischargeDepth := 60) [h])

theorem execVcmpu_keeps {z : State} (c : Fin 8) {s : State} (hz : Keeps z s) {u : State} (e : execVcmpu c s = .next u) : Keeps z u := by
  cases e
  refine State.startHead_keeps _ _ _ (fun t o h => ?_) hz
  first
  | (simp (maxDischargeDepth := 60) [h]; done)
  | (split <;> simp (maxDischargeDepth := 60) [h])

theorem execVred_keeps {z : State} (c : Fin 8) {s : State} (hz : Keeps z s) {u : State} (e : execVred c s = .next u) : Keeps z u := by
  cases e
  refine State.startHead_keeps _ _ _ (fun t o h => ?_) hz
  first
  | (simp (maxDischargeDepth := 60) [h]; done)
  | (split <;> simp (maxDischargeDepth := 60) [h])

theorem execVmask_keeps {z : State} (c : Fin 8) {s : State} (hz : Keeps z s) {u : State} (e : execVmask c s = .next u) : Keeps z u := by
  cases e
  refine State.startHead_keeps _ _ _ (fun t o h => ?_) hz
  first
  | (simp (maxDischargeDepth := 60) [h]; done)
  | (split <;> simp (maxDischargeDepth := 60) [h])

theorem execVmerge_keeps {z : State} (c : Fin 8) {s : State} (hz : Keeps z s) {u : State} (e : execVmerge c s = .next u) : Keeps z u := by
  cases e
  refine State.startHead_keeps _ _ _ (fun t o h => ?_) hz
  first
  | (simp (maxDischargeDepth := 60) [h]; done)
  | (split <;> simp (maxDischargeDepth := 60) [h])

theorem execVmov_keeps {z : State} (c : Fin 8) {s : State} (hz : Keeps z s) {u : State} (e : execVmov c s = .next u) : Keeps z u := by
  cases e
  refine State.startHead_keeps _ _ _ (fun t o h => ?_) hz
  first
  | (simp (maxDischargeDepth := 60) [h]; done)
  | (split <;> simp (maxDischargeDepth := 60) [h])

theorem execVinvAll_keeps {z : State} (c : Fin 8) {s : State} (hz : Keeps z s) {u : State} (e : execVinvAll c s = .next u) : Keeps z u := by
  cases e
  refine State.startHead_keeps _ _ _ (fun t o h => ?_) hz
  first
  | (simp (maxDischargeDepth := 60) [h]; done)
  | (split <;> simp (maxDischargeDepth := 60) [h])

theorem execWalkinv_keeps {z : State} (c : Fin 8) {s : State} (hz : Keeps z s) {u : State} (e : execWalkinv c s = .next u) : Keeps z u := by
  cases e
  refine State.startHead_keeps _ _ _ (fun t o h => ?_) hz
  first
  | (simp (maxDischargeDepth := 60) [h]; done)
  | (split <;> simp (maxDischargeDepth := 60) [h])

theorem execVld_keeps {z : State} (c : Fin 8) {s : State} (hz : Keeps z s) {u : State} (e : execVld c s = .next u) : Keeps z u := by
  cases e
  refine State.resumeOrStart_keeps _ _ _ (fun t o h => ?_) hz
  first
  | (simp (maxDischargeDepth := 60) [h]; done)
  | (split <;> simp (maxDischargeDepth := 60) [h])

theorem execVldM_keeps {z : State} (c : Fin 8) {s : State} (hz : Keeps z s) {u : State} (e : execVldM c s = .next u) : Keeps z u := by
  cases e
  refine State.resumeOrStart_keeps _ _ _ (fun t o h => ?_) hz
  first
  | (simp (maxDischargeDepth := 60) [h]; done)
  | (split <;> simp (maxDischargeDepth := 60) [h])

theorem execVst_keeps {z : State} (c : Fin 8) {s : State} (hz : Keeps z s) {u : State} (e : execVst c s = .next u) : Keeps z u := by
  cases e
  refine State.resumeOrStart_keeps _ _ _ (fun t o h => ?_) hz
  first
  | (simp (maxDischargeDepth := 60) [h]; done)
  | (split <;> simp (maxDischargeDepth := 60) [h])

theorem execVstM_keeps {z : State} (c : Fin 8) {s : State} (hz : Keeps z s) {u : State} (e : execVstM c s = .next u) : Keeps z u := by
  cases e
  refine State.resumeOrStart_keeps _ _ _ (fun t o h => ?_) hz
  first
  | (simp (maxDischargeDepth := 60) [h]; done)
  | (split <;> simp (maxDischargeDepth := 60) [h])

theorem execVsplat_keeps {z : State} (c : Fin 8) {s : State} (hz : Keeps z s) {u : State} (e : execVsplat c s = .next u) : Keeps z u := by
  cases e
  refine State.startHead_keeps _ _ _ (fun t o h => ?_) hz
  first
  | (simp (maxDischargeDepth := 60) [h]; done)
  | (split <;> simp (maxDischargeDepth := 60) [h])

theorem execVslidedn_keeps {z : State} (c : Fin 8) {s : State} (hz : Keeps z s) {u : State} (e : execVslidedn c s = .next u) : Keeps z u := by
  cases e
  refine State.startHead_keeps _ _ _ (fun t o h => ?_) hz
  first
  | (simp (maxDischargeDepth := 60) [h]; done)
  | (split <;> simp (maxDischargeDepth := 60) [h])

theorem execVinvVa_keeps {z : State} (c : Fin 8) {s : State} (hz : Keeps z s) {u : State} (e : execVinvVa c s = .next u) : Keeps z u := by
  cases e
  refine State.startHead_keeps _ _ _ (fun t o h => ?_) hz
  first
  | (simp (maxDischargeDepth := 60) [h]; done)
  | (split <;> simp (maxDischargeDepth := 60) [h])

theorem execVinvAsid_keeps {z : State} (c : Fin 8) {s : State} (hz : Keeps z s) {u : State} (e : execVinvAsid c s = .next u) : Keeps z u := by
  cases e
  refine State.startHead_keeps _ _ _ (fun t o h => ?_) hz
  first
  | (simp (maxDischargeDepth := 60) [h]; done)
  | (split <;> simp (maxDischargeDepth := 60) [h])

theorem execVsync_keeps {z : State} (c : Fin 8) {s : State} (hz : Keeps z s) {u : State} (e : execVsync c s = .next u) : Keeps z u := by
  cases e
  refine State.startHead_keeps _ _ _ (fun t o h => ?_) hz
  first
  | (simp (maxDischargeDepth := 60) [h]; done)
  | (split <;> simp (maxDischargeDepth := 60) [h])

theorem execVmvs_keeps {z : State} (c : Fin 8) {s : State} (hz : Keeps z s) {u : State} (e : execVmvs c s = .next u) : Keeps z u := by
  cases e
  refine State.startHead_keeps _ _ _ (fun t o h => ?_) hz
  first
  | (simp (maxDischargeDepth := 60) [h]; done)
  | (split <;> simp (maxDischargeDepth := 60) [h])

theorem execVmpop_keeps {z : State} (c : Fin 8) {s : State} (hz : Keeps z s) {u : State} (e : execVmpop c s = .next u) : Keeps z u := by
  cases e
  refine State.startHead_keeps _ _ _ (fun t o h => ?_) hz
  first
  | (simp (maxDischargeDepth := 60) [h]; done)
  | (split <;> simp (maxDischargeDepth := 60) [h])

theorem execVmfirst_keeps {z : State} (c : Fin 8) {s : State} (hz : Keeps z s) {u : State} (e : execVmfirst c s = .next u) : Keeps z u := by
  cases e
  refine State.startHead_keeps _ _ _ (fun t o h => ?_) hz
  first
  | (simp (maxDischargeDepth := 60) [h]; done)
  | (split <;> simp (maxDischargeDepth := 60) [h])

end Sys2Proof.Machine
end

