-- ==== Sys2Proof/Laws/KeepsStream.lean ====
section
/-!
SUPPORT. What the operations of Machine/Stream.lean keep (Laws/Keeps.lean).
-/

namespace Sys2Proof.Machine

@[simp] theorem State.modStrm_keeps {z : State} {s : State} (c : Nat) (f : Strm → Strm) (hz : Keeps z s) : Keeps z (State.modStrm s c f) :=
  hz.of_eq rfl rfl rfl (Nat.le_refl _)

@[simp] theorem State.srcBytes_keeps {z : State} {s : State} (c k : Nat) (b : Blk) (va n : Nat) (hz : Keeps z s) : Keeps z (State.srcBytes s c k b va n).2 := by
  unfold State.srcBytes
  (repeat' (first | (rename _ = (_, _) => heq; have hs1 := Keeps.snd (s := z) (by clear heq; simp [*]; done) heq; clear heq) | (rename _ = (_, _) => heq; have hs1 := Keeps.fst (s := z) (by clear heq; simp [*]; done) heq; clear heq) | (dsimp only) | split)) <;> simp (maxDischargeDepth := 60) [*]

@[simp] theorem State.granule_keeps {z : State} {s : State} (c k : Nat) (b : Blk) (g : Nat) (hz : Keeps z s) : Keeps z (State.granule s c k b g).2 := by
  unfold State.granule
  (repeat' (first | (rename _ = (_, _) => heq; have hs1 := Keeps.snd (s := z) (by clear heq; simp [*]; done) heq; clear heq) | (rename _ = (_, _) => heq; have hs1 := Keeps.fst (s := z) (by clear heq; simp [*]; done) heq; clear heq) | (dsimp only) | split)) <;> simp (maxDischargeDepth := 60) [*]

@[simp] theorem State.blkRead_keeps {z s : State} (c k : Nat) (b : Blk) (va : Nat) (hz : Keeps z s) : Keeps z (s.blkRead c k b va).2 := by
  unfold State.blkRead
  dsimp only
  split
  · have h1 := State.granule_keeps c k b (va / 64) hz
    split
    · exact h1.snd (by assumption)
    · have h2 := h1.snd (by assumption)
      split
      · exact h2
      · have h3 := State.granule_keeps c k b (va / 64 + 1) h2
        split
        · exact h3.snd (by assumption)
        · exact h3.snd (by assumption)
  · exact State.srcBytes_keeps _ _ _ _ _ hz

@[simp] theorem State.bufCheck_keeps {z : State} {s : State} (c k e : Nat) (b : Blk) (hz : Keeps z s) : Keeps z (State.bufCheck s c k e b).2 := by
  unfold State.bufCheck
  (repeat' (first | (rename _ = (_, _) => heq; have hs1 := Keeps.snd (s := z) (by clear heq; simp [*]; done) heq; clear heq) | (rename _ = (_, _) => heq; have hs1 := Keeps.fst (s := z) (by clear heq; simp [*]; done) heq; clear heq) | (dsimp only) | split)) <;> simp (maxDischargeDepth := 60) [*]

@[simp] theorem State.settle_keeps {z : State} {s : State} (c : Nat) (v : SrcVal) (hz : Keeps z s) : Keeps z (State.settle s c v).2 := by
  unfold State.settle
  (dsimp only; repeat' split) <;> simp +contextual (maxDischargeDepth := 60) [hz]

@[simp] theorem State.loadAt_keeps {z s : State} (c k e : Nat) (va : Int) (hz : Keeps z s) : Keeps z (s.loadAt c k e va).2 := by
  unfold State.loadAt
  dsimp only
  split
  · exact hz
  · have h := fun q a => State.addrCheck_keeps c q e a hz
    split
    · exact (h _ _).snd (by assumption)
    · have h1 := fun b => State.blkRead_keeps c k b va.toNat ((h _ _).snd (by assumption))
      split
      · exact (h1 _).snd (by assumption)
      · refine State.settle_keeps _ _ (State.bufCheck_keeps _ _ _ _ (Keeps.ite ?_ (State.modStrm_keeps _ _ ?_)))
        · exact (h1 _).snd (by assumption)
        · exact (h1 _).snd (by assumption)

@[simp] theorem State.indexOf_keeps {z s : State} (c k e : Nat) (hz : Keeps z s) : Keeps z (s.indexOf c k e).2 := by
  unfold State.indexOf
  dsimp only
  have h := fun j a => State.loadAt_keeps c j e a hz
  split
  · exact (h _ _).snd (by assumption)
  · split
    · exact State.fsat_keeps _ _ _ ((h _ _).snd (by assumption))
    · exact (h _ _).snd (by assumption)

@[simp] theorem State.srcElem_keeps {z s : State} (c k e : Nat) (hz : Keeps z s) : Keeps z (s.srcElem c k e).2 := by
  unfold State.srcElem
  dsimp only
  split
  · exact State.loadAt_keeps _ _ _ _ hz
  · have h := State.indexOf_keeps c k e hz
    split
    · exact h.snd (by assumption)
    · exact State.loadAt_keeps _ _ _ _ (h.snd (by assumption))

theorem State.srcElems_keeps {z s : State} (c : Nat) (l : List (Nat × Nat × Nat)) (hz : Keeps z s) : Keeps z (s.srcElems c l).2 := by
  induction l generalizing s with
  | nil => exact hz
  | cons x r ih =>
    obtain ⟨k, e, i⟩ := x
    unfold State.srcElems
    have h := State.srcElem_keeps c k e hz
    split
    · exact h.snd (by assumption)
    · have h1 := ih (h.snd (by assumption))
      split <;> exact h1.snd (by assumption)

@[simp] theorem State.dstElem_keeps {z s : State} (c i j : Nat) (x : Int) (v : Nat) (bad : Bool) (hz : Keeps z s) :
    Keeps z (s.dstElem c i j x v bad).2 := by
  unfold State.dstElem
  dsimp only
  split
  · exact hz
  · have h := fun q a => State.addrCheck_keeps c q i a hz
    split
    · exact (h _ _).snd (by assumption)
    · have h1 := fun q => State.storeCheck_keeps c q i ((h _ _).snd (by assumption))
      split
      · exact State.fsat_keeps _ _ _ (State.raise_keeps _ (h1 _))
      · have h2 := fun q va n w ok => State.elemWrite_keeps c va n w ok (h1 q)
        split
        · exact (h2 _ _ _ _ _).snd (by assumption)
        · dsimp only
          split
          · refine Keeps.foldl (fun t x h => State.freeBytes_keeps _ _ h) (State.modCtx_keeps _ _ (State.modStrm_keeps _ _ ?_))
            exact (h2 _ _ _ _ _).snd (by assumption)
          · refine State.modCtx_keeps _ _ (State.modStrm_keeps _ _ ?_)
            exact (h2 _ _ _ _ _).snd (by assumption)

@[simp] theorem State.setStrmPos_keeps {z : State} {s : State} (c done loaded : Nat) (hz : Keeps z s) : Keeps z (State.setStrmPos s c done loaded) := by
  unfold State.setStrmPos
  simp (maxDischargeDepth := 60) [hz]

@[simp] theorem State.strmFault_keeps {z : State} {s : State} (c : Nat) (o : FulOp) (cause e va : Nat) (write : Bool) (hz : Keeps z s) : Keeps z (State.strmFault s c o cause e va write) := by
  unfold State.strmFault
  simp (maxDischargeDepth := 60) [hz]

@[simp] theorem State.strmEnd_keeps {z s : State} (c : Nat) (o : FulOp) (e phase cause : Nat) (hz : Keeps z s) :
    Keeps z (s.strmEnd c o e phase cause) := by
  unfold State.strmEnd
  dsimp only
  generalize redBlock (s.strmOf c).desc (s.strmOf c).acc (s.strmOf c).blk = p
  have h1 : ∀ b : Bool, Keeps z (if b = true then s.accrue c p.2 else s) := fun b => by
    cases b
    · exact hz
    · exact State.accrue_keeps _ _ hz
  have h2 : ∀ (b : Bool) (u : State), Keeps z u →
      Keeps z (if b = true then u.dstElem c 0 0 0 (p.1.getD 0) (s.strmOf c).bad else (Except.ok (), u)).2 := fun b u hu => by
    cases b
    · exact hu
    · exact State.dstElem_keeps _ _ _ _ _ _ hu
  have h3 := h2 (dReduction (s.strmOf c).desc) _ (h1 (dReduction (s.strmOf c).desc))
  split
  · exact State.strmFault_keeps _ _ _ _ _ _ h3
  · exact State.modCtx_keeps _ _ (State.fset_keeps _ _ _ (State.setStrmPhase_keeps _ _ (State.setStrmPos_keeps _ _ _ h3)))

@[simp] theorem State.strmSrcFault_keeps {z s : State} (c : Nat) (o : FulOp) (cause e va : Nat) (hz : Keeps z s) :
    Keeps z (s.strmSrcFault c o cause e va) := by
  unfold State.strmSrcFault
  split
  · exact State.strmEnd_keeps _ _ _ _ _ hz
  · exact State.strmFault_keeps _ _ _ _ _ _ hz

@[simp] theorem State.strmMarks_keeps {z : State} {s : State} (c p q : Nat) (hz : Keeps z s) : Keeps z (State.strmMarks s c p q) := by
  unfold State.strmMarks
  simp (maxDischargeDepth := 60) [hz]

@[simp] theorem State.strmAdvance_keeps {z : State} {s : State} (c p q : Nat) (hz : Keeps z s) : Keeps z (State.strmAdvance s c p q) := by
  unfold State.strmAdvance
  simp (maxDischargeDepth := 60) [hz]

@[simp] theorem State.loadStep_keeps {z s : State} (c : Nat) (hz : Keeps z s) : Keeps z (s.loadStep c) := by
  unfold State.loadStep
  dsimp only
  have h := fun l => State.srcElems_keeps c l hz
  split
  · exact State.modStrm_keeps _ _ ((h _).snd (by assumption))
  · exact State.modStrm_keeps _ _ ((h _).snd (by assumption))

@[simp] theorem State.loadSteps_keeps {z s : State} (c stop n : Nat) (hz : Keeps z s) : Keeps z (s.loadSteps c stop n) := by
  induction n generalizing s with
  | zero => exact hz
  | succ n ih =>
    unfold State.loadSteps
    split
    · exact hz
    · exact ih (State.loadStep_keeps _ hz)

@[simp] theorem State.takeStep_keeps {z s : State} (c : Nat) (l : List SrcVal) (hz : Keeps z s) : Keeps z (s.takeStep c l).2.2 := by
  induction l generalizing s with
  | nil => exact hz
  | cons v r ih => exact ih (State.settle_keeps _ _ hz)

@[simp] theorem State.opCheck_keeps {z : State} {s : State} (c d i : Nat) (bad : Bool) (hz : Keeps z s) : Keeps z (State.opCheck s c d i bad).2 := by
  unfold State.opCheck
  (repeat' (first | (rename _ = (_, _) => heq; have hs1 := Keeps.snd (s := z) (by clear heq; simp [*]; done) heq; clear heq) | (rename _ = (_, _) => heq; have hs1 := Keeps.fst (s := z) (by clear heq; simp [*]; done) heq; clear heq) | (dsimp only) | split)) <;> simp (maxDischargeDepth := 60) [*]

@[simp] theorem State.freeAhead_keeps {z : State} {s : State} (c d j : Nat) (n : Nat) (hz : Keeps z s) : Keeps z (State.freeAhead s c d j n) := by
  unfold State.freeAhead
  simp +contextual (maxDischargeDepth := 60) [hz]

theorem State.strmStep_keeps {z s : State} (c : Nat) (o : FulOp) (vs : List SrcVal) (hz : Keeps z s) : Keeps z (s.strmStep c o vs).1 := by
  have h1 := fun d i bad => State.opCheck_keeps c d i bad (State.takeStep_keeps c vs hz)
  unfold State.strmStep
  dsimp only
  split
  · refine State.strmAdvance_keeps _ _ _ ?_
    split
    · exact State.accrue_keeps _ _ (State.modStrm_keeps _ _ (State.modStrm_keeps _ _ (State.accrue_keeps _ _ (h1 _ _ _))))
    · exact State.modStrm_keeps _ _ (State.modStrm_keeps _ _ (State.accrue_keeps _ _ (h1 _ _ _)))
  · have h2 := fun d i bad f a b x v w => State.dstElem_keeps c a b x v w (State.accrue_keeps c f (h1 d i bad))
    split
    · refine State.strmFault_keeps _ _ _ _ _ _ (Keeps.ite (State.freeAhead_keeps _ _ _ _ ?_) ?_)
      · exact (h2 _ _ _ _ _ _ _ _ _).snd (by assumption)
      · exact (h2 _ _ _ _ _ _ _ _ _).snd (by assumption)
    · exact State.strmAdvance_keeps _ _ _ ((h2 _ _ _ _ _ _ _ _ _).snd (by assumption))

theorem State.strmSteps_keeps {z s : State} (c : Nat) (o : FulOp) (stop n : Nat) (hz : Keeps z s) : Keeps z (s.strmSteps c o stop n) := by
  induction n generalizing s with
  | zero => exact hz
  | succ n ih =>
    unfold State.strmSteps
    dsimp only
    split
    · exact hz
    · split
      · have h := fun vs => State.strmStep_keeps c o vs hz
        split
        · exact ih ((h _).fst (by assumption))
        · exact (h _).fst (by assumption)
      · split
        · exact State.strmSrcFault_keeps _ _ _ _ _ hz
        · exact hz

@[simp] theorem State.loadChunk_keeps {z s : State} (c : Nat) (hz : Keeps z s) : Keeps z (s.loadChunk c) := by
  unfold State.loadChunk
  dsimp only
  split
  · exact hz
  · exact State.modStrm_keeps _ _ (State.loadSteps_keeps _ _ _ (State.modStrm_keeps _ _ hz))

@[simp] theorem State.storeChunk_keeps {z s : State} (c : Nat) (o : FulOp) (hz : Keeps z s) : Keeps z (s.storeChunk c o) := by
  have h := fun k l => State.strmSteps_keeps c o k l (State.setStrmPhase_keeps c 2 hz)
  have h1 := fun k l => State.wdogRestart_keeps c (State.modStrm_keeps c Strm.release (h k l))
  unfold State.storeChunk
  dsimp only
  split
  · exact h _ _
  · split
    · exact State.strmEnd_keeps _ _ _ _ _ (h1 _ _)
    · exact h1 _ _

theorem execStreamChunk_keeps {z : State} (c : Fin 8) {s : State} (hz : Keeps z s) {u : State} (e : execStreamChunk c s = .next u) :
    Keeps z u := by
  unfold execStreamChunk at e
  split at e
  · split at e
    · cases e; exact hz
    · split at e
      · cases e; exact State.ctxStall_keeps _ hz
      · dsimp only at e
        split at e
        · cases e; exact State.storeChunk_keeps _ _ (State.setStrmPos_keeps _ _ _ (State.loadChunk_keeps _ hz))
        · cases e; exact State.setStrmPos_keeps _ _ _ (State.loadChunk_keeps _ hz)
  · cases e; exact hz

@[simp] theorem State.readDesc_keeps {z s : State} (c va : Nat) (hz : Keeps z s) : Keeps z (s.readDesc c va).2 := by
  unfold State.readDesc
  split
  · exact hz
  · have h := State.ctxXlate_keeps c va false hz
    split
    · exact h.snd (by assumption)
    · have h1 := h.snd (by assumption)
      split
      · exact h1
      · have h2 := fun pa => State.partRead_keeps c va pa 64 h1
        split
        · exact (h2 _).snd (by assumption)
        · have h3 := fun pa => State.partRead_keeps c (va + 64) pa 64 ((h2 _).snd (by assumption))
          split
          · exact (h3 _).snd (by assumption)
          · exact (h3 _).snd (by assumption)

@[simp] theorem State.strmStart_keeps {z s : State} (c : Nat) (o : FulOp) (hz : Keeps z s) : Keeps z (s.strmStart c o).1 := by
  unfold State.strmStart
  dsimp only
  generalize o.a.toNat % 2 ^ 48 = va
  generalize BitVec.ofNat 64 (1 + 2 ^ 16 * (o.b.toNat % 2 ^ 16) + 2 ^ 32 * (o.seq % 2 ^ 32)) = w
  have h := State.readDesc_keeps c va (State.wr_keeps (State.wr_keeps (State.wr_keeps hz (Reg.fulCStrmStat c) w) (Reg.fulCStrmPos c) 0)
    (Reg.fulCStrmCnt c) 0)
  split
  · exact State.ctxFault_keeps _ _ _ _ _ _ (h.snd (by assumption))
  · have h1 := h.snd (by assumption)
    split
    · exact State.ctxFault_keeps _ _ _ _ _ _ h1
    · dsimp only
      refine State.modCtx_keeps _ _ ?_
      exact State.setStrmPhase_keeps _ _ (State.fset_keeps _ _ _ h1)

theorem execStrm_keeps {z : State} (c : Fin 8) {s : State} (hz : Keeps z s) {u : State} (e : execStrm c s = .next u) : Keeps z u := by
  cases e
  exact State.startHead_keeps _ _ _ (fun t o h => State.strmStart_keeps _ _ h) hz

theorem State.granuleStage_keeps {z s : State} (c src : Nat) (va pa mt : Nat) (hz : Keeps z s) :
    Keeps z (s.granuleStage c src va pa mt) := by
  unfold State.granuleStage
  have h1 := State.partRead_keeps c va pa 64 hz
  split
  · exact h1.snd (by assumption)
  · have h2 := fun q v => State.partWrite_keeps c va q 64 v (h1.snd (by assumption))
    dsimp only
    split
    · exact (h2 _ _).snd (by assumption)
    · exact State.modStrm_keeps _ _ ((h2 _ _).snd (by assumption))

theorem State.granuleFetch_keeps {z s : State} (c src : Nat) (b : Blk) (va : Nat) (hz : Keeps z s) :
    Keeps z (s.granuleFetch c src b va) := by
  unfold State.granuleFetch
  have h := State.ctxXlate_keeps c (va / 64 * 64) false hz
  split
  · exact h.snd (by assumption)
  · have h1 := h.snd (by assumption)
    split
    · exact h1
    · exact State.granuleStage_keeps _ _ _ _ _ h1

theorem execStreamPrefetch_keeps {z : State} (c : Fin 8) (src : Fin 3) {s : State} (hz : Keeps z s) {u : State}
    (e : execStreamPrefetch c src s = .next u) : Keeps z u := by
  unfold execStreamPrefetch at e
  split at e
  · cases e; exact hz
  · dsimp only at e
    split at e
    · cases e; exact hz
    · split at e
      · cases e; exact State.ctxStall_keeps _ hz
      · split at e
        · cases e; exact State.modStrm_keeps _ _ hz
        · cases e
          exact State.granuleFetch_keeps _ _ _ _ (State.modStrm_keeps _ _ hz)

end Sys2Proof.Machine
end

