-- ==== Sys2Proof/Laws/KeepsFulCmds.lean ====
section
/-!
SUPPORT. What the operations of Machine/FulCmds.lean keep (Laws/Keeps.lean).
-/

namespace Sys2Proof.Machine

@[simp] theorem State.noteBusy_keeps {z : State} {s : State} (hz : Keeps z s) : Keeps z (State.noteBusy s) := by
  unfold State.noteBusy
  simp (maxDischargeDepth := 60) [hz]

@[simp] theorem State.wakeWaits_keeps {z : State} {s : State} (c : Nat) (hz : Keeps z s) : Keeps z (State.wakeWaits s c) := by
  unfold State.wakeWaits
  simp (maxDischargeDepth := 60) [hz]

@[simp] theorem State.wakeOnAccept_keeps {z : State} {s : State} (c : Nat) (stalls : Bool) (hz : Keeps z s) : Keeps z (State.wakeOnAccept s c stalls) := by
  unfold State.wakeOnAccept
  simp +contextual (maxDischargeDepth := 60) [hz]

@[simp] theorem State.actsNow_keeps {z : State} {s : State} (c : Nat) (o : FulOp) (v : Word) (hz : Keeps z s) : Keeps z (State.actsNow s c o v) := by
  unfold State.actsNow
  simp (maxDischargeDepth := 60) [hz]

@[simp] theorem State.acceptPkt_keeps {z : State} {s : State} (c : Nat) (parityOk : Bool) (p : FulPkt) (rest : List FulPkt) (hz : Keeps z s) : Keeps z (State.acceptPkt s c parityOk p rest) := by
  unfold State.acceptPkt
  simp (maxDischargeDepth := 60) [hz]

@[simp] theorem State.acceptHead_keeps {z : State} {s : State} (c : Nat) (parityOk : Bool) (is : BitVec 32 → Bool) (hz : Keeps z s) : Keeps z (State.acceptHead s c parityOk is) := by
  unfold State.acceptHead
  (repeat' (first | (rename _ = (_, _) => heq; have hs1 := Keeps.snd (s := z) (by clear heq; simp [*]; done) heq; clear heq) | (rename _ = (_, _) => heq; have hs1 := Keeps.fst (s := z) (by clear heq; simp [*]; done) heq; clear heq) | (dsimp only) | split)) <;> simp (maxDischargeDepth := 60) [*]

theorem execFulPacketAccept_keeps {z : State} (c : Fin 8) (parityOk : Bool) {s : State} (hz : Keeps z s) {u : State} (e : execFulPacketAccept c parityOk s = .next u) : Keeps z u := by
  simp only [execFulPacketAccept, Host.Outcome.next.injEq] at e
  subst e
  simp (maxDischargeDepth := 60) [hz]

theorem execVshape_keeps {z : State} (c : Fin 8) {s : State} (hz : Keeps z s) {u : State} (e : execVshape c s = .next u) : Keeps z u := by
  simp only [execVshape, Host.Outcome.next.injEq] at e
  subst e
  simp (maxDischargeDepth := 60) [hz]

theorem execVgetvl_keeps {z : State} (c : Fin 8) {s : State} (hz : Keeps z s) {u : State} (e : execVgetvl c s = .next u) : Keeps z u := by
  simp only [execVgetvl, Host.Outcome.next.injEq] at e
  subst e
  simp (maxDischargeDepth := 60) [hz]

theorem execVrdseq_keeps {z : State} (c : Fin 8) {s : State} (hz : Keeps z s) {u : State} (e : execVrdseq c s = .next u) : Keeps z u := by
  simp only [execVrdseq, Host.Outcome.next.injEq] at e
  subst e
  simp (maxDischargeDepth := 60) [hz]

theorem execFulInstrComplete_keeps {z : State} (c : Fin 8) (k : BitVec 5) {s : State} (hz : Keeps z s) {u : State} (e : execFulInstrComplete c k s = .next u) : Keeps z u := by
  unfold execFulInstrComplete at e
  (repeat' split at e) <;> simp only [Host.Outcome.next.injEq] at e <;> (subst e; simp (maxDischargeDepth := 60) [hz])

theorem execFulWalk_keeps {z : State} (c : Fin 8) (va : Word) (write : Bool) {s : State} (hz : Keeps z s) {u : State}
    (e : execFulWalk c va write s = .next u) : Keeps z u := by
  unfold execFulWalk at e
  split at e <;> cases e
  · exact State.walk_keeps _ _ _ hz
  · exact State.ctxStall_keeps _ hz

@[simp] theorem State.windowEnds_keeps {z : State} {s : State} (c : Nat) (hz : Keeps z s) : Keeps z (State.windowEnds s c) := by
  unfold State.windowEnds
  simp (maxDischargeDepth := 60) [hz]

@[simp] theorem State.setSlices_keeps {z : State} {s : State} (c n : Nat) (hz : Keeps z s) : Keeps z (State.setSlices s c n) := by
  unfold State.setSlices
  simp (maxDischargeDepth := 60) [hz]

@[simp] theorem State.boundaryCtx_keeps {z : State} (old new : Option Nat) {s : State} (c : Nat) (hz : Keeps z s) : Keeps z (State.boundaryCtx old new s c) := by
  unfold State.boundaryCtx
  simp (maxDischargeDepth := 60) [hz]

@[simp] theorem State.crossBoundary_keeps {z : State} {s : State} (old new : Option Nat) (frame : Nat) (hz : Keeps z s) : Keeps z (State.crossBoundary s old new frame) := by
  unfold State.crossBoundary
  simp +contextual (maxDischargeDepth := 60) [hz]

theorem execFulWindowBoundary_keeps {z : State} {s : State} (hz : Keeps z s) {u : State} (e : execFulWindowBoundary s = .next u) : Keeps z u := by
  unfold execFulWindowBoundary at e
  (dsimp only at e; repeat' split at e) <;> simp only [Host.Outcome.next.injEq] at e <;> (subst e; (repeat' split) <;> simp_all +contextual (maxDischargeDepth := 60))

@[simp] theorem State.takeSlices_keeps {z : State} {s : State} (c : Nat) (hz : Keeps z s) : Keeps z (State.takeSlices s c) := by
  unfold State.takeSlices
  simp (maxDischargeDepth := 60) [hz]

theorem execFulGapEnd_keeps {z : State} (late : BitVec 8) {s : State} (hz : Keeps z s) {u : State} (e : execFulGapEnd late s = .next u) : Keeps z u := by
  unfold execFulGapEnd at e
  (dsimp only at e; repeat' split at e) <;> simp only [Host.Outcome.next.injEq] at e <;> (subst e; (repeat' split) <;> simp_all +contextual (maxDischargeDepth := 60))

theorem execFulWatchdog_keeps {z : State} (c : Fin 8) {s : State} (hz : Keeps z s) {u : State} (e : execFulWatchdog c s = .next u) : Keeps z u := by
  unfold execFulWatchdog at e
  (repeat' split at e) <;> simp only [Host.Outcome.next.injEq] at e <;> (subst e; simp (maxDischargeDepth := 60) [hz])

theorem execFulSliceGate_keeps {z : State} (i : Fin 4) {s : State} (hz : Keeps z s) {u : State} (e : execFulSliceGate i s = .next u) : Keeps z u := by
  unfold execFulSliceGate at e
  (repeat' (first | (rename _ = (_, _) => heq; have hs1 := Keeps.snd (s := z) (by clear heq; simp [*]; done) heq; clear heq) | (rename _ = (_, _) => heq; have hs1 := Keeps.fst (s := z) (by clear heq; simp [*]; done) heq; clear heq) | (dsimp only at e) | split at e)) <;> simp only [Host.Outcome.next.injEq] at e <;> (subst e; (repeat' (first | (rename _ = (_, _) => heq; have hs1 := Keeps.snd (s := z) (by clear heq; simp [*]; done) heq; clear heq) | (rename _ = (_, _) => heq; have hs1 := Keeps.fst (s := z) (by clear heq; simp [*]; done) heq; clear heq) | (dsimp only) | split)) <;> simp (maxDischargeDepth := 60) [*])

theorem execFulSliceWakeDone_keeps {z : State} (i : Fin 4) {s : State} (hz : Keeps z s) {u : State} (e : execFulSliceWakeDone i s = .next u) : Keeps z u := by
  unfold execFulSliceWakeDone at e
  (dsimp only at e; repeat' split at e) <;> simp only [Host.Outcome.next.injEq] at e <;> (subst e; (repeat' split) <;> simp_all +contextual (maxDischargeDepth := 60))

theorem execFulScheduledWake_keeps {z : State} (i : Fin 4) {s : State} (hz : Keeps z s) {u : State} (e : execFulScheduledWake i s = .next u) : Keeps z u := by
  unfold execFulScheduledWake at e
  (repeat' (first | (rename _ = (_, _) => heq; have hs1 := Keeps.snd (s := z) (by clear heq; simp [*]; done) heq; clear heq) | (rename _ = (_, _) => heq; have hs1 := Keeps.fst (s := z) (by clear heq; simp [*]; done) heq; clear heq) | (dsimp only at e) | split at e)) <;> simp only [Host.Outcome.next.injEq] at e <;> (subst e; (repeat' (first | (rename _ = (_, _) => heq; have hs1 := Keeps.snd (s := z) (by clear heq; simp [*]; done) heq; clear heq) | (rename _ = (_, _) => heq; have hs1 := Keeps.fst (s := z) (by clear heq; simp [*]; done) heq; clear heq) | (dsimp only) | split)) <;> simp (maxDischargeDepth := 60) [*])

theorem execFulPgCtlWrite_keeps {z : State} (rq : Rq) (v : Word) {s : State} (hz : Keeps z s) {u : State} (e : execFulPgCtlWrite rq v s = .next u) : Keeps z u := by
  simp only [execFulPgCtlWrite, Host.Outcome.next.injEq] at e
  subst e
  simp (maxDischargeDepth := 60) [hz]

theorem execFulEventPendClear_keeps {z : State} (rq : Rq) (c : Fin 8) (v : Word) {s : State} (hz : Keeps z s) {u : State} (e : execFulEventPendClear rq c v s = .next u) : Keeps z u := by
  simp only [execFulEventPendClear, Host.Outcome.next.injEq] at e
  subst e
  simp (maxDischargeDepth := 60) [hz]

theorem execClear_keeps {z : State} (rq : Rq) (c : Fin 8) {s : State} (hz : Keeps z s) {u : State} (e : execClear rq c s = .next u) : Keeps z u := by
  simp only [execClear, Host.Outcome.next.injEq] at e
  subst e
  simp (maxDischargeDepth := 60) [hz]

theorem execFflagsClear_keeps {z : State} (rq : Rq) (c : Fin 8) (v : Word) {s : State} (hz : Keeps z s) {u : State} (e : execFflagsClear rq c v s = .next u) : Keeps z u := by
  simp only [execFflagsClear, Host.Outcome.next.injEq] at e
  subst e
  simp (maxDischargeDepth := 60) [hz]

theorem execCheckLastClear_keeps {z : State} (rq : Rq) (c : Fin 8) {s : State} (hz : Keeps z s) {u : State} (e : execCheckLastClear rq c s = .next u) : Keeps z u := by
  simp only [execCheckLastClear, Host.Outcome.next.injEq] at e
  subst e
  simp (maxDischargeDepth := 60) [hz]

theorem execTagRespTimeout_keeps {z : State} (rq : Rq) (va : Word) (isWrite : Bool) {s : State} (hz : Keeps z s) {u : State}
    (e : execTagRespTimeout rq va isWrite s = .next u) : Keeps z u := by
  have hr := State.nextEpoch_keeps rq.init.val (State.raiseFor_keeps 0x146 (some rq.init.val) hz)
  unfold execTagRespTimeout at e
  dsimp only at e
  split at e <;> cases e
  · exact State.recountTags_keeps _ (State.releaseTag_keeps _ hr)
  · exact hr.of_eq rfl rfl rfl (Nat.le_refl _)

end Sys2Proof.Machine
end

