-- ==== Sys2Proof/Laws/KeepsIau.lean ====
section
/-!
SUPPORT. What the operations of Machine/Iau.lean keep (Laws/Keeps.lean).
-/

namespace Sys2Proof.Machine

@[simp] theorem State.stallCopies_keeps {z : State} {s : State} (t : Nat) (n : Nat) (hz : Keeps z s) : Keeps z (State.stallCopies s t n) := by
  unfold State.stallCopies
  simp (maxDischargeDepth := 60) [hz]

@[simp] theorem State.takeSlot_keeps {z : State} {s : State} (t cls : Nat) (hz : Keeps z s) : Keeps z (State.takeSlot s t cls).2 := by
  unfold State.takeSlot
  (repeat' (first | (rename _ = (_, _) => heq; have hs1 := Keeps.snd (s := z) (by clear heq; simp [*]; done) heq; clear heq) | (rename _ = (_, _) => heq; have hs1 := Keeps.fst (s := z) (by clear heq; simp [*]; done) heq; clear heq) | (dsimp only) | split)) <;> simp (maxDischargeDepth := 60) [*]

@[simp] theorem State.slotWrite_keeps {z : State} {s : State} (pa len v : Nat) (hz : Keeps z s) : Keeps z (State.slotWrite s pa len v) := by
  unfold State.slotWrite
  simp (maxDischargeDepth := 60) [hz]

@[simp] theorem State.slotPut_keeps {z : State} {s : State} (pa v k hi : Nat) (hz : Keeps z s) : Keeps z (State.slotPut s pa v k hi) := by
  unfold State.slotPut
  simp (maxDischargeDepth := 60) [hz]

@[simp] theorem State.writeLanes_keeps {z : State} {s : State} (base k cls : Nat) (lanes : List (Nat × Option Nat × Nat)) (hz : Keeps z s) : Keeps z (State.writeLanes s base k cls lanes) := by
  unfold State.writeLanes
  simp +contextual (maxDischargeDepth := 60) [hz]

@[simp] theorem State.slotBad_keeps {z s : State} (base : Nat) (lanes : List Nat) (hz : Keeps z s) : Keeps z (s.slotBad base lanes).2 :=
  Keeps.foldl_snd (fun x y h => by dsimp only; exact State.memRead_keeps _ _ h) hz

@[simp] theorem State.persistence_keeps {z : State} {s : State} (t cls : Nat) (a : Agreed) (three : Bool) (hz : Keeps z s) : Keeps z (State.persistence s t cls a three) := by
  unfold State.persistence
  simp +contextual (maxDischargeDepth := 60) [hz]

@[simp] theorem State.agreement_keeps {z : State} {s : State} (t cls : Nat) (lanes : List (Nat × Option Nat × Nat)) (a : Agreed) (hz : Keeps z s) : Keeps z (State.agreement s t cls lanes a).2 := by
  unfold State.agreement
  simp (maxDischargeDepth := 60) [hz]

@[simp] theorem State.irqAgreement_keeps {z : State} {s : State} (t : Nat) (waking : Bool) (hz : Keeps z s) : Keeps z (State.irqAgreement s t waking).2 := by
  unfold State.irqAgreement
  simp (maxDischargeDepth := 60) [hz]

@[simp] theorem State.timeAgreement_keeps {z s : State} (t : Nat) (off : Nat → Word) (hz : Keeps z s) : Keeps z (s.timeAgreement t off).2 := by
  unfold State.timeAgreement
  dsimp only
  generalize hl : (s.liveCopies t).map (fun c => (c, (s.now + off c).toNat)) = l
  have h := State.agreement_keeps t 1 (l.map fun x => (x.1, some x.2, 0)) (agreeTime s.timeWin l) hz
  split
  · exact h
  · dsimp only
    exact State.modTriad_keeps _ _ h

@[simp] theorem State.valueAgreement_keeps {z : State} {s : State} (t cls : Nat) (val : Nat → Word) (hz : Keeps z s) : Keeps z (State.valueAgreement s t cls val).2 := by
  unfold State.valueAgreement
  simp (maxDischargeDepth := 60) [hz]

@[simp] theorem State.irqBundles_keeps {z : State} {s : State} (t src : Nat) (ks : List Nat) (hz : Keeps z s) : Keeps z (State.irqBundles s t src ks).2 := by
  unfold State.irqBundles
  simp (maxDischargeDepth := 60) [hz]

@[simp] theorem State.irqSplit_keeps {z : State} {s : State} (t x : Nat) (hz : Keeps z s) : Keeps z (State.irqSplit s t x) := by
  unfold State.irqSplit
  (repeat' (first | (rename _ = (_, _) => heq; have hs1 := Keeps.snd (s := z) (by clear heq; simp [*]; done) heq; clear heq) | (rename _ = (_, _) => heq; have hs1 := Keeps.fst (s := z) (by clear heq; simp [*]; done) heq; clear heq) | (dsimp only) | split)) <;> simp (maxDischargeDepth := 60) [*]

@[simp] theorem State.irqEnter_keeps {z s : State} (t src : Nat) (hz : Keeps z s) : Keeps z (s.irqEnter t src) := by
  have hb := State.irqBundles_keeps t src (s.executing t) hz
  have hf := State.fence_keeps t false [] (fun s _ => s) (s.irqBundles t src (s.executing t)).1 hb fun _ _ h => h
  unfold State.irqEnter
  dsimp only
  split
  · exact hf.snd (by assumption)
  · exact State.enterAll_keeps _ _ (hf.snd (by assumption))

@[simp] theorem State.irqGroup_keeps {z s : State} (t : Nat) (hz : Keeps z s) : Keeps z (s.irqGroup t) := by
  unfold State.irqGroup
  dsimp only
  split
  · exact hz
  · split
    · exact hz
    · have h := State.irqAgreement_keeps t (s.copy (copyIx t (s.leader t))).waking hz
      split
      · exact h.snd (by assumption)
      · have h1 := h.snd (by assumption)
        split
        · exact State.forCopies_keeps _ _ _ h1
        · exact State.irqEnter_keeps _ _ h1

theorem execIauAgreement_keeps {z : State} (w : Who) {s : State} (hz : Keeps z s) {u : State} (e : execIauAgreement w s = .next u) :
    Keeps z u := by
  unfold execIauAgreement at e
  dsimp only at e
  split at e
  · cases e; exact hz
  · split at e
    · split at e <;> cases e
      · exact State.irqGroup_keeps _ hz
      · exact hz
    · split at e <;> cases e
      · exact State.irqSplit_keeps _ _ hz
      · exact hz

theorem execInterruptLatchSet_keeps {z : State} (src : BitVec 8) (triads : BitVec 16) (copies : BitVec 3) {s : State} (hz : Keeps z s)
    {u : State} (e : execInterruptLatchSet src triads copies s = .next u) : Keeps z u := by
  cases e
  exact Keeps.foldl (fun t x h => Keeps.ite (State.forCopies_keeps _ _ _ h) h) hz

theorem execTimeCompare_keeps {z : State} (t : Fin 16) {s : State} (hz : Keeps z s) {u : State} (e : execTimeCompare t s = .next u) : Keeps z u := by
  simp only [execTimeCompare, Host.Outcome.next.injEq] at e
  subst e
  simp (maxDischargeDepth := 60) [hz]

theorem State.agreedRead_keeps {z s : State} (w : Who) (g : Guard) (d : RegNo) (cls : Nat) (own : Nat → Word)
    (agree : State → Option Word × State) (ha : Keeps z (agree s).2) (hz : Keeps z s) : Keeps z (s.agreedRead w g d cls own agree) := by
  unfold State.agreedRead
  dsimp only
  split
  · exact State.runOn_keeps _ _ _ _ _ _ hz
  · split
    · exact hz
    · split
      · exact State.run_keeps _ _ _ _ hz
      · split
        · exact State.forCopies_keeps _ _ _ (ha.snd (by assumption))
        · exact State.runOn_keeps _ _ _ _ _ _ (ha.snd (by assumption))

theorem execAgtimeRead_keeps {z : State} (w : Who) (g : Guard) (d : RegNo) (oa ob oc : Word) {s : State} (hz : Keeps z s) {u : State}
    (e : execAgtimeRead w g d oa ob oc s = .next u) : Keeps z u := by
  have h := Host.Outcome.next.inj e
  rw [← h]
  exact State.agreedRead_keeps _ _ _ _ _ _ (State.timeAgreement_keeps _ _ hz) hz

theorem execAgeventRead_keeps {z : State} (w : Who) (g : Guard) (d : RegNo) (ea eb ec : Word) {s : State} (hz : Keeps z s) {u : State}
    (e : execAgeventRead w g d ea eb ec s = .next u) : Keeps z u := by
  have h := Host.Outcome.next.inj e
  rw [← h]
  exact State.agreedRead_keeps _ _ _ _ _ _ (State.valueAgreement_keeps _ _ _ hz) hz

end Sys2Proof.Machine
end

