-- ==== Sys2Proof/Laws/KeepsMemIns.lean ====
section
/-!
SUPPORT. What the operations of Machine/MemIns.lean keep (Laws/Keeps.lean).
-/

namespace Sys2Proof.Machine

theorem execLdLdu_keeps {z : State} (w : Who) (g : Guard) (uns : Bool) (size : BitVec 2) (d a : RegNo) (imm : BitVec 9) {s : State} (hz : Keeps z s) {u : State} (e : execLdLdu w g uns size d a imm s = .next u) : Keeps z u := by
  simp only [execLdLdu, Host.Outcome.next.injEq] at e
  subst e
  simp (maxDischargeDepth := 60) [hz]

theorem execSt_keeps {z : State} (w : Who) (g : Guard) (size : BitVec 2) (d a : RegNo) (imm : BitVec 9) {s : State} (hz : Keeps z s) {u : State} (e : execSt w g size d a imm s = .next u) : Keeps z u := by
  simp only [execSt, Host.Outcome.next.injEq] at e
  subst e
  simp (maxDischargeDepth := 60) [hz]

theorem execFldFst_keeps {z : State} (w : Who) (g : Guard) (store : Bool) (size : BitVec 2) (d a : RegNo) (imm : BitVec 9) {s : State} (hz : Keeps z s) {u : State} (e : execFldFst w g store size d a imm s = .next u) : Keeps z u := by
  simp only [execFldFst, Host.Outcome.next.injEq] at e
  subst e
  simp (maxDischargeDepth := 60) [hz]

theorem execMemxLoadStore_keeps {z : State} (w : Who) (g : Guard) (kind size : BitVec 2) (scale freg : Bool) (d a b : RegNo) {s : State} (hz : Keeps z s) {u : State} (e : execMemxLoadStore w g kind size scale freg d a b s = .next u) : Keeps z u := by
  simp only [execMemxLoadStore, Host.Outcome.next.injEq] at e
  subst e
  simp (maxDischargeDepth := 60) [hz]

theorem execLl_keeps {z0 : State} (w : Who) (g : Guard) (size : BitVec 2) (z : Bool) (d a : RegNo) {s : State} (hz : Keeps z0 s) {u : State} (e : execLl w g size z d a s = .next u) : Keeps z0 u := by
  simp only [execLl, Host.Outcome.next.injEq] at e
  subst e
  simp (maxDischargeDepth := 60) [hz]

theorem execSc_keeps {z0 : State} (w : Who) (g : Guard) (size : BitVec 2) (z : Bool) (d a b : RegNo) {s : State} (hz : Keeps z0 s) {u : State} (e : execSc w g size z d a b s = .next u) : Keeps z0 u := by
  simp only [execSc, Host.Outcome.next.injEq] at e
  subst e
  simp (maxDischargeDepth := 60) [hz]

theorem execAmoswap_keeps {z0 : State} (w : Who) (g : Guard) (size : BitVec 2) (z : Bool) (d a b : RegNo) {s : State} (hz : Keeps z0 s) {u : State} (e : execAmoswap w g size z d a b s = .next u) : Keeps z0 u := by
  simp only [execAmoswap, Host.Outcome.next.injEq] at e
  subst e
  simp (maxDischargeDepth := 60) [hz]

theorem execAmoadd_keeps {z0 : State} (w : Who) (g : Guard) (size : BitVec 2) (z : Bool) (d a b : RegNo) {s : State} (hz : Keeps z0 s) {u : State} (e : execAmoadd w g size z d a b s = .next u) : Keeps z0 u := by
  simp only [execAmoadd, Host.Outcome.next.injEq] at e
  subst e
  simp (maxDischargeDepth := 60) [hz]

theorem execAmocas_keeps {z0 : State} (w : Who) (g : Guard) (size : BitVec 2) (z : Bool) (d a b : RegNo) {s : State} (hz : Keeps z0 s) {u : State} (e : execAmocas w g size z d a b s = .next u) : Keeps z0 u := by
  simp only [execAmocas, Host.Outcome.next.injEq] at e
  subst e
  simp (maxDischargeDepth := 60) [hz]

end Sys2Proof.Machine
end

