-- ==== Sys2Proof/Laws/KeepsPatch.lean ====
section
/-!
SUPPORT. What the operations of Machine/Patch.lean keep (Laws/Keeps.lean).
-/

namespace Sys2Proof.Machine

@[simp] theorem State.patchIdxWrite_keeps {z : State} {s : State} (t : Nat) (v : Word) (hz : Keeps z s) : Keeps z (State.patchIdxWrite s t v) := by
  unfold State.patchIdxWrite
  simp (maxDischargeDepth := 60) [hz]

@[simp] theorem State.patchDataWrite_keeps {z : State} {s : State} (t : Nat) (v : Word) (hz : Keeps z s) : Keeps z (State.patchDataWrite s t v) := by
  unfold State.patchDataWrite
  simp (maxDischargeDepth := 60) [hz]

end Sys2Proof.Machine
end

