-- ==== Sys2Proof/Laws/KeepsCopIns.lean ====
section
/-!
SUPPORT. What the operations of Machine/CopIns.lean keep (Laws/Keeps.lean).
-/

namespace Sys2Proof.Machine

@[simp] theorem State.copIssue_keeps {z : State} {s : State} (w : Who) (word : BitVec 32) (c : Copy) (hz : Keeps z s) : Keeps z (State.copIssue s w word c) :=
  hz.of_eq rfl rfl rfl (Nat.le_refl _)

@[simp] theorem State.copValue_keeps {z : State} {s : State} (w : Who) (word : BitVec 32) (ws : List Nat) (hz : Keeps z s) : Keeps z (State.copValue s w word ws) := by
  unfold State.copValue
  (repeat' (first | (rename _ = (_, _) => heq; have hs1 := Keeps.snd (s := z) (by clear heq; simp [*]; done) heq; clear heq) | (rename _ = (_, _) => heq; have hs1 := Keeps.fst (s := z) (by clear heq; simp [*]; done) heq; clear heq) | (dsimp only) | split)) <;> simp (maxDischargeDepth := 60) [*]

theorem execCop_keeps {z : State} (w : Who) (word : BitVec 32) {s : State} (hz : Keeps z s) {u : State} (e : execCop w word s = .next u) :
    Keeps z u := by
  unfold execCop at e
  split at e
  · cases e; exact State.copValue_keeps _ _ _ hz
  · cases e; exact State.runThen_keeps _ _ _ _ _ hz (fun _ _ _ h => State.copIssue_keeps _ _ _ h)

end Sys2Proof.Machine
end

