-- ==== Sys2Proof/Laws/KeepsCsrIns.lean ====
section
/-!
SUPPORT. What the operations of Machine/CsrIns.lean keep (Laws/Keeps.lean).
-/

namespace Sys2Proof.Machine

@[simp] theorem State.cleanPost_keeps {z : State} {s : State} (t tag : Nat) (ks : List Nat) (keys : List Nat) (hz : Keeps z s) : Keeps z (State.cleanPost s t tag ks keys) := by
  unfold State.cleanPost
  simp +contextual (maxDischargeDepth := 60) [hz]

@[simp] theorem State.csrw_keeps {z s : State} (w : Who) (g : Guard) (d : RegNo) (n : Nat) (hz : Keeps z s) : Keeps z (s.csrw w g d n) := by
  unfold State.csrw
  refine State.runThen_keeps _ _ _ _ _ hz (fun ks c u h => ?_)
  dsimp only
  repeat' split
  all_goals first
  | exact h
  | exact State.cleanPost_keeps _ _ _ _ h
  | exact State.patchIdxWrite_keeps _ _ h
  | exact State.patchDataWrite_keeps _ _ h

theorem execCsrr_keeps {z : State} (w : Who) (g : Guard) (d : RegNo) (csr : BitVec 12) {s : State} (hz : Keeps z s) {u : State}
    (e : execCsrr w g d csr s = .next u) : Keeps z u := by
  unfold execCsrr at e
  dsimp only at e
  split at e
  · cases e
    exact State.agreedRead_keeps _ _ _ _ _ _ (State.timeAgreement_keeps _ _ hz) hz
  · split at e <;> cases e
    · exact State.agreedRead_keeps _ _ _ _ _ _ (State.valueAgreement_keeps _ _ _ (State.fresh_keeps hz)) (State.fresh_keeps hz)
    · exact State.runThen_keeps _ _ _ _ _ hz (fun _ _ _ h => h)

theorem execCsrw_keeps {z : State} (w : Who) (g : Guard) (d : RegNo) (csr : BitVec 12) {s : State} (hz : Keeps z s) {u : State}
    (e : execCsrw w g d csr s = .next u) : Keeps z u := by
  cases e
  exact State.csrw_keeps _ _ _ _ hz

theorem execPsrWrite_keeps {z : State} (w : Who) (g : Guard) (d : RegNo) {s : State} (hz : Keeps z s) {u : State}
    (e : execPsrWrite w g d s = .next u) : Keeps z u := by
  cases e
  exact State.csrw_keeps _ _ _ _ hz

theorem execIcinvVa_keeps {z : State} (w : Who) (g : Guard) (d : RegNo) {s : State} (hz : Keeps z s) {u : State}
    (e : execIcinvVa w g d s = .next u) : Keeps z u := by
  cases e
  exact State.csrw_keeps _ _ _ _ hz

theorem execIcinvAll_keeps {z : State} (w : Who) (g : Guard) (d : RegNo) {s : State} (hz : Keeps z s) {u : State}
    (e : execIcinvAll w g d s = .next u) : Keeps z u := by
  cases e
  exact State.csrw_keeps _ _ _ _ hz

theorem execDcinvVa_keeps {z : State} (w : Who) (g : Guard) (d : RegNo) {s : State} (hz : Keeps z s) {u : State}
    (e : execDcinvVa w g d s = .next u) : Keeps z u := by
  cases e
  exact State.csrw_keeps _ _ _ _ hz

theorem execDccleanVa_keeps {z : State} (w : Who) (g : Guard) (d : RegNo) {s : State} (hz : Keeps z s) {u : State}
    (e : execDccleanVa w g d s = .next u) : Keeps z u := by
  cases e
  exact State.csrw_keeps _ _ _ _ hz

theorem execDccleanAll_keeps {z : State} (w : Who) (g : Guard) (d : RegNo) {s : State} (hz : Keeps z s) {u : State}
    (e : execDccleanAll w g d s = .next u) : Keeps z u := by
  cases e
  exact State.csrw_keeps _ _ _ _ hz

theorem execDcinvAll_keeps {z : State} (w : Who) (g : Guard) (d : RegNo) {s : State} (hz : Keeps z s) {u : State}
    (e : execDcinvAll w g d s = .next u) : Keeps z u := by
  cases e
  exact State.csrw_keeps _ _ _ _ hz

theorem execIcSwset_keeps {z : State} (w : Who) (g : Guard) (d : RegNo) {s : State} (hz : Keeps z s) {u : State}
    (e : execIcSwset w g d s = .next u) : Keeps z u := by
  cases e
  exact State.csrw_keeps _ _ _ _ hz

theorem execPatchDataWrite_keeps {z : State} (w : Who) (g : Guard) (d : RegNo) {s : State} (hz : Keeps z s) {u : State}
    (e : execPatchDataWrite w g d s = .next u) : Keeps z u := by
  cases e
  exact State.csrw_keeps _ _ _ _ hz

end Sys2Proof.Machine
end

