-- ==== Sys2Proof/Laws/KeepsDhpCmds.lean ====
section
/-!
SUPPORT. What the operations of Machine/DhpCmds.lean keep (Laws/Keeps.lean).
-/

namespace Sys2Proof.Machine

/-- What a command answers keeps, and so does what follows the response. -/
def AnsKeeps (z : State) (a : DhpAns) : Prop := Keeps z a.st ∧ ∀ t, Keeps z t → Keeps z (a.post t)

theorem ans_keeps {z s : State} (status : Nat) (pay : List Byte) (hz : Keeps z s) : AnsKeeps z (ans status pay s) := ⟨hz, fun _ h => h⟩

theorem AnsKeeps.ite {z : State} {p : Prop} [Decidable p] {a b : DhpAns} (ha : AnsKeeps z a) (hb : AnsKeeps z b) :
    AnsKeeps z (if p then a else b) := by
  split
  · exact ha
  · exact hb

@[simp] theorem State.udpWrap_keeps {z : State} {s : State} (m : DhpReq) (ip port : Nat) (d : List Byte) (hz : Keeps z s) : Keeps z (State.udpWrap s m ip port d).2 := by
  unfold State.udpWrap
  simp (maxDischargeDepth := 60) [hz]

@[simp] theorem State.dhpSend_keeps {z : State} {s : State} (q : DhpReq) (d : List Byte) (hz : Keeps z s) : Keeps z (State.dhpSend s q d) := by
  unfold State.dhpSend
  (repeat' (first | (rename _ = (_, _) => heq; have hs1 := Keeps.snd (s := z) (by clear heq; simp [*]; done) heq; clear heq) | (rename _ = (_, _) => heq; have hs1 := Keeps.fst (s := z) (by clear heq; simp [*]; done) heq; clear heq) | (dsimp only) | split)) <;> simp (maxDischargeDepth := 60) [*]

@[simp] theorem State.setSess_keeps {z : State} {s : State} (k : Nat) (x : Option Sess) (hz : Keeps z s) : Keeps z (State.setSess s k x) :=
  hz.of_eq rfl rfl rfl (Nat.le_refl _)

@[simp] theorem State.hold_keeps {z : State} {s : State} (k seq : Nat) (d : List Byte) (hz : Keeps z s) : Keeps z (State.hold s k seq d) := by
  unfold State.hold
  (repeat' (first | (rename _ = (_, _) => heq; have hs1 := Keeps.snd (s := z) (by clear heq; simp [*]; done) heq; clear heq) | (rename _ = (_, _) => heq; have hs1 := Keeps.fst (s := z) (by clear heq; simp [*]; done) heq; clear heq) | (dsimp only) | split)) <;> simp (maxDischargeDepth := 60) [*]

@[simp] theorem State.respond_keeps {z : State} {s : State} (m : DhpMsg) (epoch status : Nat) (pay : List Byte) (key keep : Option Nat) (hz : Keeps z s) : Keeps z (State.respond s m epoch status pay key keep) := by
  unfold State.respond
  (repeat' (first | (rename _ = (_, _) => heq; have hs1 := Keeps.snd (s := z) (by clear heq; simp [*]; done) heq; clear heq) | (rename _ = (_, _) => heq; have hs1 := Keeps.fst (s := z) (by clear heq; simp [*]; done) heq; clear heq) | (dsimp only) | split)) <;> simp (maxDischargeDepth := 60) [*]

@[simp] theorem State.sessClose_keeps {z : State} {s : State} (k : Nat) (hz : Keeps z s) : Keeps z (State.sessClose s k) := by
  unfold State.sessClose
  (repeat' (first | (rename _ = (_, _) => heq; have hs1 := Keeps.snd (s := z) (by clear heq; simp [*]; done) heq; clear heq) | (rename _ = (_, _) => heq; have hs1 := Keeps.fst (s := z) (by clear heq; simp [*]; done) heq; clear heq) | (dsimp only) | split)) <;> simp (maxDischargeDepth := 60) [*]

@[simp] theorem State.authFail_keeps {z : State} {s : State} (hz : Keeps z s) : Keeps z (State.authFail s) := by
  unfold State.authFail
  simp (maxDischargeDepth := 60) [hz]

@[simp] theorem State.sessOpen_keeps {z : State} {s : State} (m : DhpMsg) (hz : Keeps z s) : Keeps z (State.sessOpen s m) := by
  unfold State.sessOpen
  simp (maxDischargeDepth := 60) [hz]

theorem State.runCmd_keeps {z s : State} (m : DhpMsg) (k : Option Nat) (h : State → DhpMsg → Nat → DhpAns)
    (hh : ∀ t m n, Keeps z t → AnsKeeps z (h t m n)) (hz : Keeps z s) : Keeps z (s.runCmd m k h) := by
  have key : ∀ a : DhpAns, AnsKeeps z a → Keeps z (a.post (a.st.respond m m.epoch a.status a.pay (k.map a.st.sessKey) k)) :=
    fun a ha => ha.2 _ (State.respond_keeps _ _ _ _ _ _ ha.1)
  unfold State.runCmd
  refine key _ ?_
  refine AnsKeeps.ite (ans_keeps _ _ hz) ?_
  refine AnsKeeps.ite (ans_keeps _ _ hz) ?_
  exact AnsKeeps.ite (ans_keeps _ _ hz) (hh _ _ _ hz)

theorem State.runSession_keeps {z s : State} (m : DhpMsg) (k : Nat) (x : Sess) (h : State → DhpMsg → Nat → DhpAns)
    (hh : ∀ t m n, Keeps z t → AnsKeeps z (h t m n)) (hz : Keeps z s) : Keeps z (s.runSession m k x h) := by
  unfold State.runSession
  dsimp only
  split
  · refine State.dhpSend_keeps _ _ ?_
    exact State.setSess_keeps _ _ hz
  · split
    · split
      · refine State.respond_keeps _ _ _ _ _ _ ?_
        refine State.fset_keeps _ _ _ ?_
        exact State.setSess_keeps _ _ hz
      · refine State.runCmd_keeps _ _ _ hh ?_
        refine State.fset_keeps _ _ _ ?_
        exact State.setSess_keeps _ _ hz
    · refine State.respond_keeps _ _ _ _ _ _ ?_
      exact State.setSess_keeps _ _ hz

theorem State.runReq_keeps {z s : State} (m : DhpMsg) (h : State → DhpMsg → Nat → DhpAns)
    (hh : ∀ t m n, Keeps z t → AnsKeeps z (h t m n)) (hz : Keeps z s) : Keeps z (s.runReq m h) := by
  unfold State.runReq
  split
  · exact State.fsat_keeps _ _ _ hz
  · split
    · exact State.sessOpen_keeps _ hz
    · split
      · split
        · exact State.runCmd_keeps _ _ _ hh hz
        · exact State.authFail_keeps hz
      · split
        · exact State.respond_keeps _ _ _ _ _ _ hz
        · split
          · exact State.respond_keeps _ _ _ _ _ _ hz
          · split
            · exact State.fsat_keeps _ _ _ hz
            · split
              · exact State.authFail_keeps hz
              · exact State.runSession_keeps _ _ _ _ hh hz

@[simp] theorem State.dropReq_keeps {z : State} {s : State} (q : DhpReq) (hz : Keeps z s) : Keeps z (State.dropReq s q) :=
  hz.of_eq rfl rfl rfl (Nat.le_refl _)

theorem State.flushBad_keeps {z s : State} (n : Nat) (hz : Keeps z s) : Keeps z (s.flushBad n) := by
  induction n generalizing s with
  | zero => exact hz
  | succ n ih =>
    unfold State.flushBad
    split
    · exact hz
    · dsimp only
      split
      · refine ih (State.runReq_keeps _ _ (fun t _ _ h => ans_keeps _ _ h) ?_)
        exact State.dropReq_keeps _ hz
      · exact hz

theorem State.dhpServe_keeps {z s : State} (code : Nat) (h : State → DhpMsg → Nat → DhpAns)
    (hh : ∀ t m n, Keeps z t → AnsKeeps z (h t m n)) (hz : Keeps z s) : Keeps z (s.dhpServe code h) := by
  unfold State.dhpServe
  split
  · exact hz
  · dsimp only
    have hf := State.flushBad_keeps 64 hz
    split
    · exact hf
    · split
      · refine State.runReq_keeps _ _ hh ?_
        exact State.dropReq_keeps _ hf
      · exact hf

theorem execPing_keeps {z s : State} (hz : Keeps z s) {u : State} (e : execPing s = .next u) : Keeps z u := by
  cases e
  refine State.dhpServe_keeps _ _ (fun t m k h => ?_) hz
  exact ans_keeps _ _ h

theorem execGetState_keeps {z s : State} (hz : Keeps z s) {u : State} (e : execGetState s = .next u) : Keeps z u := by
  cases e
  refine State.dhpServe_keeps _ _ (fun t m k h => ?_) hz
  dsimp only
  refine AnsKeeps.ite (ans_keeps _ _ h) (ans_keeps _ _ ?_)
  split
  · exact h
  · exact State.fresh_keeps h

theorem execTimeQuery_keeps {z s : State} (hz : Keeps z s) {u : State} (e : execTimeQuery s = .next u) : Keeps z u := by
  cases e
  refine State.dhpServe_keeps _ _ (fun t m k h => ?_) hz
  exact AnsKeeps.ite (ans_keeps _ _ h) (ans_keeps _ _ h)

theorem execAdmit_keeps {z s : State} (hz : Keeps z s) {u : State} (e : execAdmit s = .next u) : Keeps z u := by
  cases e
  refine State.dhpServe_keeps _ _ (fun t m k h => ?_) hz
  refine AnsKeeps.ite (ans_keeps _ _ h) (ans_keeps _ _ ?_)
  refine State.admRequest_keeps _ _ ?_
  exact Keeps.foldl (fun u x hu => State.wr_keeps hu _ _) h

theorem execWithdraw_keeps {z s : State} (hz : Keeps z s) {u : State} (e : execWithdraw s = .next u) : Keeps z u := by
  cases e
  refine State.dhpServe_keeps _ _ (fun t m k h => ?_) hz
  exact AnsKeeps.ite (ans_keeps _ _ h) (ans_keeps _ _ (State.admRequest_keeps _ _ h))

theorem State.submit_keeps {z s : State} (m : DhpMsg) (k j slot : Nat) (hz : Keeps z s) : AnsKeeps z (s.submit m k j slot) := by
  unfold State.submit
  refine ans_keeps _ _ ?_
  refine State.irqTriad_keeps _ _ ?_
  refine State.modDhp_keeps _ ?_
  refine State.fadd_keeps _ _ _ ?_
  refine State.fset_keeps _ _ _ ?_
  refine State.devWrite_keeps _ _ _ ?_
  exact State.wr_keeps (State.wr_keeps (State.wr_keeps hz _ _) _ _) _ _

theorem execSubmitJob_keeps {z s : State} (hz : Keeps z s) {u : State} (e : execSubmitJob s = .next u) : Keeps z u := by
  cases e
  refine State.dhpServe_keeps _ _ (fun t m k h => ?_) hz
  refine AnsKeeps.ite (ans_keeps _ _ h) (AnsKeeps.ite (ans_keeps _ _ h) ?_)
  split
  · exact ans_keeps _ _ h
  · exact AnsKeeps.ite (ans_keeps _ _ h) (State.submit_keeps _ _ _ _ h)

theorem State.readFree_keeps {z s : State} (init : Fin 30) (pa len : Nat) (hz : Keeps z s) : Keeps z (s.readFree init pa len).2 := by
  unfold State.readFree
  refine Keeps.foldl_snd (fun x y hx => ?_) hz
  dsimp only
  have h := State.devRead_keeps init y.1 y.2 hx
  split
  · exact h.snd (by assumption)
  · have h1 := h.snd (by assumption)
    refine Keeps.foldl_snd (f := fun (x : List Byte × State) (_ : Nat) => (x.1 ++ [BitVec.setWidth 8 x.2.fresh.1], x.2.fresh.2))
      (fun x y hx => State.fresh_keeps hx) ?_
    exact h1

theorem resultOut_keeps {z : State} (m : DhpMsg) (n status len off : Nat) (x : List Byte × State) (hz : Keeps z x.2) :
    AnsKeeps z (resultOut m n status len off x) :=
  ans_keeps _ _ (Keeps.ite (State.setSlot_keeps _ _ hz) hz)

theorem State.resultAns_keeps {z s : State} (m : DhpMsg) (n status : Nat) (hz : Keeps z s) : AnsKeeps z (s.resultAns m n status) :=
  AnsKeeps.ite (ans_keeps _ _ hz) (resultOut_keeps _ _ _ _ _ _ (State.readFree_keeps _ _ _ hz))

theorem execGetResult_keeps {z s : State} (hz : Keeps z s) {u : State} (e : execGetResult s = .next u) : Keeps z u := by
  cases e
  refine State.dhpServe_keeps _ _ (fun t m k h => ?_) hz
  refine AnsKeeps.ite (ans_keeps _ _ h) ?_
  split
  · exact ans_keeps _ _ h
  · split
    · exact ans_keeps _ _ h
    · exact State.resultAns_keeps _ _ _ h
    · exact State.resultAns_keeps _ _ _ h
    · exact ans_keeps _ _ h
    · exact ans_keeps _ _ h

theorem execReleaseResult_keeps {z s : State} (hz : Keeps z s) {u : State} (e : execReleaseResult s = .next u) : Keeps z u := by
  cases e
  refine State.dhpServe_keeps _ _ (fun t m k h => ?_) hz
  refine AnsKeeps.ite (ans_keeps _ _ h) ?_
  split
  · exact ans_keeps _ _ h
  · split
    · exact ans_keeps _ _ (State.setSlot_keeps _ _ h)
    · exact ans_keeps _ _ (State.slotFree_keeps _ h)
    · exact ans_keeps _ _ (State.slotFree_keeps _ h)
    · exact ans_keeps _ _ (State.slotFree_keeps _ h)
    · exact ans_keeps _ _ h

theorem execGetProgress_keeps {z s : State} (hz : Keeps z s) {u : State} (e : execGetProgress s = .next u) : Keeps z u := by
  cases e
  refine State.dhpServe_keeps _ _ (fun t m k h => ?_) hz
  refine AnsKeeps.ite (ans_keeps _ _ h) ?_
  split
  · split
    · exact ans_keeps _ _ h
    · exact ans_keeps _ _ h
  · exact ans_keeps _ _ h
  · exact ans_keeps _ _ (State.fresh_keeps h)
  · exact ans_keeps _ _ (State.fresh_keeps h)
  · exact ans_keeps _ _ h

theorem execRecFreeze_keeps {z s : State} (hz : Keeps z s) {u : State} (e : execRecFreeze s = .next u) : Keeps z u := by
  cases e
  refine State.dhpServe_keeps _ _ (fun t m k h => ?_) hz
  exact AnsKeeps.ite (ans_keeps _ _ h) (ans_keeps _ _ (State.recTrigger_keeps _ _ h))

theorem State.spanRead_keeps {z s : State} (off len : Nat) (hz : Keeps z s) : AnsKeeps z (s.spanRead off len) := by
  unfold State.spanRead
  dsimp only
  split
  · exact ans_keeps _ _ hz
  · refine ans_keeps _ _ ?_
    have h := fun l f0 => Keeps.foldl_snd (s := z) (f := fun (x : List Byte × State) i =>
      ((x.1 ++ (x.2.readFree iDHP (s.spanAddr (off + 32 * i)) 32).1), (x.2.readFree iDHP (s.spanAddr (off + 32 * i)) 32).2))
      (fun x y hx => State.readFree_keeps _ _ _ hx) (l := l) (p := (f0, s)) hz
    refine Keeps.ite ?_ ?_
    · exact State.wr_keeps (h _ _) _ _
    · exact h _ _

theorem execRecRead_keeps {z s : State} (hz : Keeps z s) {u : State} (e : execRecRead s = .next u) : Keeps z u := by
  cases e
  refine State.dhpServe_keeps _ _ (fun t m k h => ?_) hz
  refine AnsKeeps.ite (ans_keeps _ _ h) (AnsKeeps.ite (ans_keeps _ _ h) ?_)
  exact State.spanRead_keeps _ _ h

theorem execRecRelease_keeps {z s : State} (hz : Keeps z s) {u : State} (e : execRecRelease s = .next u) : Keeps z u := by
  cases e
  refine State.dhpServe_keeps _ _ (fun t m k h => ?_) hz
  exact AnsKeeps.ite (ans_keeps _ _ h) (AnsKeeps.ite (ans_keeps _ _ h) (ans_keeps _ _ (State.recRelease_keeps h)))

theorem execEnterMaint_keeps {z s : State} (hz : Keeps z s) {u : State} (e : execEnterMaint s = .next u) : Keeps z u := by
  cases e
  refine State.dhpServe_keeps _ _ (fun t m k h => ?_) hz
  refine AnsKeeps.ite (ans_keeps _ _ h) (ans_keeps _ _ ?_)
  refine Keeps.mk_iff ?_ (Nat.le_refl _)
  refine State.wr_keeps (State.wr_keeps ?_ _ _) _ _
  refine State.recTrigger_keeps _ _ ?_
  refine State.modEth_keeps _ ?_
  exact State.stopAll_keeps (State.setOp_keeps _ (State.assertPins_keeps _ h))

theorem execImageWrite_keeps {z s : State} (hz : Keeps z s) {u : State} (e : execImageWrite s = .next u) : Keeps z u := by
  cases e
  refine State.dhpServe_keeps _ _ (fun t m k h => ?_) hz
  refine AnsKeeps.ite (ans_keeps _ _ h) (AnsKeeps.ite (ans_keeps _ _ h) (ans_keeps _ _ ?_))
  refine State.fset_keeps _ _ _ (State.fset_keeps _ _ _ ?_)
  exact Keeps.mk_iff h (Nat.le_refl _)

theorem execCodeWrite_keeps {z s : State} (hz : Keeps z s) {u : State} (e : execCodeWrite s = .next u) : Keeps z u := by
  cases e
  refine State.dhpServe_keeps _ _ (fun t m k h => ?_) hz
  refine AnsKeeps.ite (ans_keeps _ _ h) (AnsKeeps.ite (ans_keeps _ _ h) (ans_keeps _ _ ?_))
  refine State.fset_keeps _ _ _ (State.fset_keeps _ _ _ ?_)
  exact Keeps.mk_iff h (Nat.le_refl _)

@[simp] theorem State.resetAfter_keeps {z : State} (before : Nat) {s : State} (hz : Keeps z s) : Keeps z (State.resetAfter before s) :=
  hz.of_eq rfl rfl rfl (Nat.le_refl _)

theorem execResetReq_keeps {z s : State} (hz : Keeps z s) {u : State} (e : execResetReq s = .next u) : Keeps z u := by
  cases e
  refine State.dhpServe_keeps _ _ (fun t m k h => ?_) hz
  exact AnsKeeps.ite (ans_keeps _ _ h) (AnsKeeps.ite (ans_keeps _ _ h) ⟨h, fun u hu => by change Keeps z (State.resetAfter t.dhp.txq.length u); exact State.modDhp_keeps _ hu⟩)

theorem execHandoverCommand_keeps {z s : State} (hz : Keeps z s) {u : State} (e : execHandoverCommand s = .next u) : Keeps z u := by
  cases e
  refine State.dhpServe_keeps _ _ (fun t m k h => ?_) hz
  exact AnsKeeps.ite (ans_keeps _ _ h) (AnsKeeps.ite (ans_keeps _ _ h) ⟨h, fun _ hu => State.handover_keeps hu⟩)

theorem execResetReqReset_keeps {z : State} {s : State} (hz : Keeps z s) {u : State} (e : execResetReqReset s = .next u) : Keeps z u := by
  simp only [execResetReqReset, Host.Outcome.next.injEq] at e
  subst e
  simp (maxDischargeDepth := 60) [hz]

theorem execDhpSessionClose_keeps {z : State} (k : Fin 8) {s : State} (hz : Keeps z s) {u : State} (e : execDhpSessionClose k s = .next u) : Keeps z u := by
  unfold execDhpSessionClose at e
  (repeat' split at e) <;> simp only [Host.Outcome.next.injEq] at e <;> (subst e; simp (maxDischargeDepth := 60) [hz])

theorem execJobDeadlineExpire_keeps {z : State} (n : Fin 64) {s : State} (hz : Keeps z s) {u : State} (e : execJobDeadlineExpire n s = .next u) : Keeps z u := by
  unfold execJobDeadlineExpire at e
  (repeat' split at e) <;> simp only [Host.Outcome.next.injEq] at e <;> (subst e; simp (maxDischargeDepth := 60) [hz])

theorem execDhpSlotDone_keeps {z : State} (rq : Rq) (n : Fin 64) (v : Word) {s : State} (hz : Keeps z s) {u : State} (e : execDhpSlotDone rq n v s = .next u) : Keeps z u := by
  simp only [execDhpSlotDone, Host.Outcome.next.injEq] at e
  subst e
  simp (maxDischargeDepth := 60) [hz]

theorem execDhpSlotProgWrite_keeps {z : State} (rq : Rq) (n : Fin 64) (v : Word) {s : State} (hz : Keeps z s) {u : State} (e : execDhpSlotProgWrite rq n v s = .next u) : Keeps z u := by
  simp only [execDhpSlotProgWrite, Host.Outcome.next.injEq] at e
  subst e
  simp (maxDischargeDepth := 60) [hz]

theorem execDhpJobqConsWrite_keeps {z : State} (rq : Rq) (j : Fin 32) (cons : BitVec 8) {s : State} (hz : Keeps z s) {u : State} (e : execDhpJobqConsWrite rq j cons s = .next u) : Keeps z u := by
  simp only [execDhpJobqConsWrite, Host.Outcome.next.injEq] at e
  subst e
  simp (maxDischargeDepth := 60) [hz]

end Sys2Proof.Machine
end

