-- ==== Sys2Proof/Laws/KeepsFetchIns.lean ====
section
/-!
SUPPORT. What the operations of Machine/FetchIns.lean keep (Laws/Keeps.lean).
-/

namespace Sys2Proof.Machine

@[simp] theorem State.fetchWords_keeps {z s : State} (t tag : Nat) (ks : List Nat) (pa : Nat) (va : Word) (l : List Nat) (f : Fetched)
    (hz : Keeps z s) : Keeps z (s.fetchWords t tag ks pa va l f).2 := by
  induction l generalizing s f with
  | nil => exact hz
  | cons j r ih =>
    have h := State.coreServe_keeps t ks f.got (coreReq t tag .fetch .swap (pa + 8 * j) 8 0 0) (va + BitVec.ofNat 64 (8 * j)) hz
    unfold State.fetchWords
    split
    · rename_i heq; rw [heq] at h; exact h
    · rename_i heq; rw [heq] at h; exact ih _ h

@[simp] theorem State.fetchIssue_keeps {z s : State} (w : Who) (ks : List Nat) (slot pa : Nat) (alloc : Bool) (bad : Nat → Marks)
    (hz : Keeps z s) : Keeps z (s.fetchIssue w ks slot pa alloc bad) := by
  unfold State.fetchIssue
  dsimp only
  have fin : ∀ (f : Fetched) (u : State), Keeps z u → Keeps z (if f.waits then u.setGot w.t.val (s.copyTag w) f.got else
      match (s.copy (copyIx w.t.val (ks.headD 0))).neededFail slot f.data f.fails with
      | some (st, va) => (u.setGot w.t.val (s.copyTag w) []).trapCopies w.t.val (ks.map fun c => (c, trapAt (respTrap st) va false))
      | none =>
        if alloc && !f.fails.isEmpty then u.setGot w.t.val (s.copyTag w) []
        else ks.foldl (fun s c => s.modCopy (copyIx w.t.val c) fun x =>
          let x := x.putLine slot f.data (bad c) (f.fails.foldl (fun m y => m + 2 ^ y.1) 0)
          if alloc then x.iFill pa f.data else x) (u.setGot w.t.val (s.copyTag w) [])) := by
    intro f u hu
    split
    · exact State.setGot_keeps _ _ _ hu
    · have h0 := State.setGot_keeps w.t.val (s.copyTag w) [] hu
      split
      · exact State.trapCopies_keeps _ _ h0
      · split
        · exact h0
        · exact Keeps.foldl (fun v c hv => State.modCopy_keeps _ _ hv) h0
  generalize hx : (if alloc = true then _ else _ : Fetched × State) = x
  have h : Keeps z x.2 := by
    rw [← hx]
    split
    · have h := State.coreServe_keeps w.t.val (if (s.copy (copyIx w.t.val (ks.headD 0))).needs slot = true then ks else [])
        (s.gotOf w.t.val (s.copyTag w)) (coreReq w.t.val (s.copyTag w) .fetch .swap pa 32 0 0)
        ((s.copy (copyIx w.t.val (ks.headD 0))).lineVa slot) hz
      split
      · rename_i heq; rw [heq] at h; exact h
      · rename_i heq; rw [heq] at h; exact h
    · exact State.fetchWords_keeps _ _ _ _ _ _ _ hz
  exact fin x.1 x.2 h

@[simp] theorem State.fetchAsk_keeps {z : State} {s : State} (w : Who) (ks : List Nat) (slot pa : Nat) (alloc : Bool) (bad : Nat → Marks) (hz : Keeps z s) : Keeps z (State.fetchAsk s w ks slot pa alloc bad) := by
  unfold State.fetchAsk
  simp (maxDischargeDepth := 60) [hz]

theorem execInstructionFetch_keeps {z : State} (w : Who) {s : State} (hz : Keeps z s) {u : State} (e : execInstructionFetch w s = .next u) :
    Keeps z u := by
  unfold execInstructionFetch at e
  dsimp only at e
  split at e
  · cases e; exact hz
  · have h0 := State.forCopies_keeps w.t.val (s.runners w) (·.lineUp) hz
    have h : Keeps z ((s.runners w).foldl (fun s c => (s.copy (copyIx w.t.val c)).fetchReads.foldl
        (fun s r => s.arrayRead (copyIx w.t.val c) r) s) (s.forCopies w.t.val (s.runners w) (·.lineUp))) :=
      Keeps.foldl (fun v c hv => Keeps.foldl (fun x r hx => State.arrayRead_keeps _ _ hx) hv) h0
    generalize List.foldl _ (s.forCopies w.t.val (s.runners w) (·.lineUp)) (s.runners w) = y at e h
    have ht := fun body => State.runInstr_keeps w (.c32 7) false (fun _ _ c => Local.nop c) body h
    split at e
    · cases e; exact ht _
    · have hc : ∀ (p : Bool) (bs : List (Nat × List Bundle)) (r : Bool × State),
          (if p = true then y.compare w.t.val true (fun s _ => s) bs else (true, y)) = r → Keeps z r.2 := by
        intro p bs r hr
        rw [← hr]
        split
        · exact State.compare_keeps _ _ _ _ h fun _ _ k => k
        · exact h
      split at e
      · rename_i heq; cases e; exact hc _ _ _ heq
      · rename_i heq
        have k := hc _ _ _ heq
        split at e <;> cases e
        · exact ht _
        · exact State.fetchAsk_keeps _ _ _ _ _ _ k
        · refine Keeps.foldl (fun v c hv => ?_) k
          split
          · exact State.modCopy_keeps _ _ hv
          · exact hv

end Sys2Proof.Machine
end

