-- ==== Sys2Proof/Laws/KeepsFpIns.lean ====
section
/-!
SUPPORT. What the operations of Machine/FpIns.lean keep (Laws/Keeps.lean).
-/

namespace Sys2Proof.Machine

theorem execFaddFsubFmul_keeps {z : State} (w : Who) (g : Guard) (fn : FAddOp) (p : Bool) (d a b : RegNo) {s : State} (hz : Keeps z s) {u : State} (e : execFaddFsubFmul w g fn p d a b s = .next u) : Keeps z u := by
  simp only [execFaddFsubFmul, Host.Outcome.next.injEq] at e
  subst e
  simp (maxDischargeDepth := 60) [hz]

theorem execFdiv_keeps {z : State} (w : Who) (g : Guard) (p : Bool) (d a b : RegNo) {s : State} (hz : Keeps z s) {u : State} (e : execFdiv w g p d a b s = .next u) : Keeps z u := by
  simp only [execFdiv, Host.Outcome.next.injEq] at e
  subst e
  simp (maxDischargeDepth := 60) [hz]

theorem execFsqrt_keeps {z : State} (w : Who) (g : Guard) (p : Bool) (d a b : RegNo) {s : State} (hz : Keeps z s) {u : State} (e : execFsqrt w g p d a b s = .next u) : Keeps z u := by
  simp only [execFsqrt, Host.Outcome.next.injEq] at e
  subst e
  simp (maxDischargeDepth := 60) [hz]

theorem execFminFmaxFnegFabs_keeps {z : State} (w : Who) (g : Guard) (fn : FMinOp) (p : Bool) (d a b : RegNo) {s : State} (hz : Keeps z s) {u : State} (e : execFminFmaxFnegFabs w g fn p d a b s = .next u) : Keeps z u := by
  simp only [execFminFmaxFnegFabs, Host.Outcome.next.injEq] at e
  subst e
  simp (maxDischargeDepth := 60) [hz]

theorem execFcmp_keeps {z : State} (w : Who) (g : Guard) (p : Bool) (d a b : RegNo) {s : State} (hz : Keeps z s) {u : State} (e : execFcmp w g p d a b s = .next u) : Keeps z u := by
  simp only [execFcmp, Host.Outcome.next.injEq] at e
  subst e
  simp (maxDischargeDepth := 60) [hz]

theorem execFcvt_keeps {z : State} (w : Who) (g : Guard) (fn : FCvtOp) (p : Bool) (d a b : RegNo) {s : State} (hz : Keeps z s) {u : State} (e : execFcvt w g fn p d a b s = .next u) : Keeps z u := by
  simp only [execFcvt, Host.Outcome.next.injEq] at e
  subst e
  simp (maxDischargeDepth := 60) [hz]

theorem execFmvGfFg_keeps {z : State} (w : Who) (g : Guard) (toF : Bool) (d a b : RegNo) {s : State} (hz : Keeps z s) {u : State} (e : execFmvGfFg w g toF d a b s = .next u) : Keeps z u := by
  simp only [execFmvGfFg, Host.Outcome.next.injEq] at e
  subst e
  simp (maxDischargeDepth := 60) [hz]

theorem execFmaddFmsub_keeps {z : State} (w : Who) (g : Guard) (sub p : Bool) (d a b c : RegNo) {s : State} (hz : Keeps z s) {u : State} (e : execFmaddFmsub w g sub p d a b c s = .next u) : Keeps z u := by
  simp only [execFmaddFmsub, Host.Outcome.next.injEq] at e
  subst e
  simp (maxDischargeDepth := 60) [hz]

end Sys2Proof.Machine
end

