-- ==== Sys2Proof/Laws/KeepsHbxCmds.lean ====
section
/-!
SUPPORT. What the operations of Machine/HbxCmds.lean keep (Laws/Keeps.lean).
-/

namespace Sys2Proof.Machine

@[simp] theorem State.hatboxStart_keeps {z s : State} (hz : Keeps z s) : Keeps z s.hatboxStart := by
  unfold State.hatboxStart
  refine State.setOp_keeps _ ?_
  exact hz.trans ⟨rfl, id, fun x => SMap.foldl_put_wf (SMap.filter_wf x), Nat.le_refl _⟩

theorem execVddAonPowerUp_keeps {z s : State} (hz : Keeps z s) {u : State} (e : execVddAonPowerUp s = .next u) : Keeps z u := by
  cases e
  exact Keeps.ite (State.hatboxStart_keeps hz) hz

theorem execVddAonBrownout_keeps {z s : State} (hz : Keeps z s) {u : State} (e : execVddAonBrownout s = .next u) : Keeps z u := by
  cases e
  exact Keeps.ite (State.hatboxStart_keeps hz) hz

theorem execSuppliesRemoved_keeps {z s : State} (hz : Keeps z s) {u : State} (e : execSuppliesRemoved s = .next u) : Keeps z u := by
  unfold execSuppliesRemoved at e
  rw [Host.Outcome.next.injEq] at e
  subst e
  refine State.setOp_keeps _ ?_
  refine Keeps.foldl (fun _ _ h => ?_) ?_
  · exact State.wr_keeps (State.wr_keeps h _ _) _ _
  refine State.wr_keeps (State.wr_keeps ?_ _ _) _ _
  exact (State.resetMain_keeps false 0 hz).trans ⟨rfl, id, fun x => SMap.filter_wf x, Nat.le_refl _⟩

theorem execHbxLevelChange_keeps {z : State} (n : Fin 8) (level : Bool) (ticks : Nat) {s : State} (hz : Keeps z s) {u : State} (e : execHbxLevelChange n level ticks s = .next u) : Keeps z u := by
  unfold execHbxLevelChange at e
  (repeat' (first | (rename _ = (_, _) => heq; have hs1 := Keeps.snd (s := z) (by clear heq; simp [*]; done) heq; clear heq) | (rename _ = (_, _) => heq; have hs1 := Keeps.fst (s := z) (by clear heq; simp [*]; done) heq; clear heq) | (dsimp only at e) | split at e)) <;> simp only [Host.Outcome.next.injEq] at e <;> (subst e; (repeat' (first | (rename _ = (_, _) => heq; have hs1 := Keeps.snd (s := z) (by clear heq; simp [*]; done) heq; clear heq) | (rename _ = (_, _) => heq; have hs1 := Keeps.fst (s := z) (by clear heq; simp [*]; done) heq; clear heq) | (dsimp only) | split)) <;> simp (maxDischargeDepth := 60) [*])

@[simp] theorem State.median5_keeps {z : State} {s : State} (raws : List Nat) (hz : Keeps z s) : Keeps z (State.median5 s raws).2 := by
  unfold State.median5
  (repeat' (first | (rename _ = (_, _) => heq; have hs1 := Keeps.snd (s := z) (by clear heq; simp [*]; done) heq; clear heq) | (rename _ = (_, _) => heq; have hs1 := Keeps.fst (s := z) (by clear heq; simp [*]; done) heq; clear heq) | (dsimp only) | split)) <;> simp (maxDischargeDepth := 60) [*]

theorem execHbxSlowSample_keeps {z : State} (n : Fin 8) (raw : BitVec 12) (ticks : Nat) {s : State} (hz : Keeps z s) {u : State} (e : execHbxSlowSample n raw ticks s = .next u) : Keeps z u := by
  unfold execHbxSlowSample at e
  (repeat' (first | (rename _ = (_, _) => heq; have hs1 := Keeps.snd (s := z) (by clear heq; simp [*]; done) heq; clear heq) | (rename _ = (_, _) => heq; have hs1 := Keeps.fst (s := z) (by clear heq; simp [*]; done) heq; clear heq) | (dsimp only at e) | split at e)) <;> simp only [Host.Outcome.next.injEq] at e <;> (subst e; (repeat' (first | (rename _ = (_, _) => heq; have hs1 := Keeps.snd (s := z) (by clear heq; simp [*]; done) heq; clear heq) | (rename _ = (_, _) => heq; have hs1 := Keeps.fst (s := z) (by clear heq; simp [*]; done) heq; clear heq) | (dsimp only) | split)) <;> simp (maxDischargeDepth := 60) [*])

theorem execOffMinExpire_keeps {z : State} {s : State} (hz : Keeps z s) {u : State} (e : execOffMinExpire s = .next u) : Keeps z u := by
  unfold execOffMinExpire at e
  (repeat' split at e) <;> simp only [Host.Outcome.next.injEq] at e <;> (subst e; simp (maxDischargeDepth := 60) [hz])

theorem execPmicTimeout_keeps {z : State} (ticks : Nat) {s : State} (hz : Keeps z s) {u : State} (e : execPmicTimeout ticks s = .next u) : Keeps z u := by
  simp only [execPmicTimeout, Host.Outcome.next.injEq] at e
  subst e
  simp (maxDischargeDepth := 60) [hz]

theorem execPmicRetry_keeps {z : State} {s : State} (hz : Keeps z s) {u : State} (e : execPmicRetry s = .next u) : Keeps z u := by
  simp only [execPmicRetry, Host.Outcome.next.injEq] at e
  subst e
  simp (maxDischargeDepth := 60) [hz]

theorem execPgoodRise_keeps {z : State} (ticks : Nat) (units : BitVec 16) {s : State} (hz : Keeps z s) {u : State} (e : execPgoodRise ticks units s = .next u) : Keeps z u := by
  unfold execPgoodRise at e
  (repeat' split at e) <;> simp only [Host.Outcome.next.injEq] at e <;> (subst e; simp (maxDischargeDepth := 60) [hz])

theorem execPgoodFall_keeps {z : State} (ticks : Nat) {s : State} (hz : Keeps z s) {u : State} (e : execPgoodFall ticks s = .next u) : Keeps z u := by
  unfold execPgoodFall at e
  (repeat' split at e) <;> simp only [Host.Outcome.next.injEq] at e <;> (subst e; simp (maxDischargeDepth := 60) [hz])

theorem execResetNAssert_keeps {z : State} {s : State} (hz : Keeps z s) {u : State} (e : execResetNAssert s = .next u) : Keeps z u := by
  unfold execResetNAssert at e
  (repeat' split at e) <;> simp only [Host.Outcome.next.injEq] at e <;> (subst e; simp (maxDischargeDepth := 60) [hz])

theorem execResetNRelease_keeps {z : State} (ticks : Nat) {s : State} (hz : Keeps z s) {u : State} (e : execResetNRelease ticks s = .next u) : Keeps z u := by
  unfold execResetNRelease at e
  (repeat' (first | (rename _ = (_, _) => heq; have hs1 := Keeps.snd (s := z) (by clear heq; simp [*]; done) heq; clear heq) | (rename _ = (_, _) => heq; have hs1 := Keeps.fst (s := z) (by clear heq; simp [*]; done) heq; clear heq) | (dsimp only at e) | split at e)) <;> simp only [Host.Outcome.next.injEq] at e <;> (subst e; (repeat' (first | (rename _ = (_, _) => heq; have hs1 := Keeps.snd (s := z) (by clear heq; simp [*]; done) heq; clear heq) | (rename _ = (_, _) => heq; have hs1 := Keeps.fst (s := z) (by clear heq; simp [*]; done) heq; clear heq) | (dsimp only) | split)) <;> simp (maxDischargeDepth := 60) [*])

theorem execEvWrapClear_keeps {z : State} (rq : Rq) {s : State} (hz : Keeps z s) {u : State} (e : execEvWrapClear rq s = .next u) : Keeps z u := by
  simp only [execEvWrapClear, Host.Outcome.next.injEq] at e
  subst e
  simp (maxDischargeDepth := 60) [hz]

theorem execRetUeClear_keeps {z : State} (rq : Rq) {s : State} (hz : Keeps z s) {u : State} (e : execRetUeClear rq s = .next u) : Keeps z u := by
  simp only [execRetUeClear, Host.Outcome.next.injEq] at e
  subst e
  simp (maxDischargeDepth := 60) [hz]

end Sys2Proof.Machine
end

