-- ==== Sys2Proof/Laws/KeepsIdle.lean ====
section
/-!
SUPPORT. What the operations of Machine/Idle.lean keep (Laws/Keeps.lean).
-/

namespace Sys2Proof.Machine

@[simp] theorem State.idle_keeps {z : State} {s : State} (hz : Keeps z s) : Keeps z (State.idle s) := by
  unfold State.idle
  simp (maxDischargeDepth := 60) [hz]

end Sys2Proof.Machine
end

