-- ==== Sys2Proof/Laws/KeepsPatchIns.lean ====
section
/-!
SUPPORT. What the operations of Machine/PatchIns.lean keep (Laws/Keeps.lean).
-/

namespace Sys2Proof.Machine

theorem State.patchFinish_keeps {z s : State} (s0 : State) (word : BitVec 32) (t : Nat) (ks : List Nat) (hz : Keeps z s) :
    Keeps z (State.patchFinish s0 s word t ks) := by
  refine Keeps.foldl (fun u x hu => ?_) hz
  dsimp only
  split
  · exact hu
  · exact State.setCopy_keeps _ _ hu

theorem execPatch_keeps {z : State} (w : Who) (word : BitVec 32) {s : State} (hz : Keeps z s) {u : State} (e : execPatch w word s = .next u) :
    Keeps z u := by
  cases e
  refine State.runThen_keeps _ _ _ _ _ hz (fun ks c t h => ?_)
  split
  · exact Keeps.ite (State.patchFinish_keeps _ _ _ _ h) h
  · exact h

end Sys2Proof.Machine
end

