-- ==== Sys2Proof/Laws/KeepsRecCmds.lean ====
section
/-!
SUPPORT. What the operations of Machine/RecCmds.lean keep (Laws/Keeps.lean).
-/

namespace Sys2Proof.Machine

@[simp] theorem State.recPut_keeps {z : State} {s : State} (d : List Byte) (hz : Keeps z s) : Keeps z (State.recPut s d) := by
  unfold State.recPut
  simp (maxDischargeDepth := 60) [hz]

@[simp] theorem State.freeHead_keeps {z : State} {s : State} (hz : Keeps z s) : Keeps z (State.freeHead s).2.2.2.2 := by
  unfold State.freeHead
  simp (maxDischargeDepth := 60) [hz]

@[simp] theorem State.padFor_keeps {z : State} {s : State} (size : Nat) (hz : Keeps z s) : Keeps z (State.padFor s size) := by
  unfold State.padFor
  simp (maxDischargeDepth := 60) [hz]

@[simp] theorem State.putGap_keeps {z : State} {s : State} (hz : Keeps z s) : Keeps z (State.putGap s) := by
  unfold State.putGap
  simp (maxDischargeDepth := 60) [hz]

@[simp] theorem State.putFrame_keeps {z : State} {s : State} (r : RxRec) (hz : Keeps z s) : Keeps z (State.putFrame s r) := by
  unfold State.putFrame
  simp (maxDischargeDepth := 60) [hz]

theorem execRecRecordWrite_keeps {z : State} {s : State} (hz : Keeps z s) {u : State} (e : execRecRecordWrite s = .next u) : Keeps z u := by
  unfold execRecRecordWrite at e
  (repeat' (first | (rename _ = (_, _) => heq; have hs1 := Keeps.snd (s := z) (by clear heq; simp [*]; done) heq; clear heq) | (rename _ = (_, _) => heq; have hs1 := Keeps.fst (s := z) (by clear heq; simp [*]; done) heq; clear heq) | (dsimp only at e) | split at e)) <;> simp only [Host.Outcome.next.injEq] at e <;> (subst e; (repeat' (first | (rename _ = (_, _) => heq; have hs1 := Keeps.snd (s := z) (by clear heq; simp [*]; done) heq; clear heq) | (rename _ = (_, _) => heq; have hs1 := Keeps.fst (s := z) (by clear heq; simp [*]; done) heq; clear heq) | (dsimp only) | split)) <;> simp (maxDischargeDepth := 60) [*])

theorem execFreeze_keeps {z : State} (rq : Rq) {s : State} (hz : Keeps z s) {u : State} (e : execFreeze rq s = .next u) : Keeps z u := by
  simp only [execFreeze, Host.Outcome.next.injEq] at e
  subst e
  simp (maxDischargeDepth := 60) [hz]

theorem execRelease_keeps {z : State} (rq : Rq) {s : State} (hz : Keeps z s) {u : State} (e : execRelease rq s = .next u) : Keeps z u := by
  simp only [execRelease, Host.Outcome.next.injEq] at e
  subst e
  simp (maxDischargeDepth := 60) [hz]

end Sys2Proof.Machine
end

