-- ==== Sys2Proof/Laws/KeepsRegCmds.lean ====
section
/-!
SUPPORT. What the operations of Machine/RegCmds.lean keep (Laws/Keeps.lean).
-/

namespace Sys2Proof.Machine

theorem execFcruSwRaise_keeps {z : State} (rq : Rq) (v : Word) {s : State} (hz : Keeps z s) {u : State} (e : execFcruSwRaise rq v s = .next u) : Keeps z u := by
  simp only [execFcruSwRaise, Host.Outcome.next.injEq] at e
  subst e
  simp (maxDischargeDepth := 60) [hz]

theorem execGlobalLock_keeps {z : State} (rq : Rq) {s : State} (hz : Keeps z s) {u : State} (e : execGlobalLock rq s = .next u) : Keeps z u := by
  simp only [execGlobalLock, Host.Outcome.next.injEq] at e
  subst e
  simp (maxDischargeDepth := 60) [hz]

theorem execLogWrapClear_keeps {z : State} (rq : Rq) {s : State} (hz : Keeps z s) {u : State} (e : execLogWrapClear rq s = .next u) : Keeps z u := by
  simp only [execLogWrapClear, Host.Outcome.next.injEq] at e
  subst e
  simp (maxDischargeDepth := 60) [hz]

theorem execPendClear_keeps {z : State} (rq : Rq) (n : BitVec 3) (v : Word) {s : State} (hz : Keeps z s) {u : State} (e : execPendClear rq n v s = .next u) : Keeps z u := by
  simp only [execPendClear, Host.Outcome.next.injEq] at e
  subst e
  simp (maxDischargeDepth := 60) [hz]

theorem execMatrixWrite_keeps {z : State} (rq : Rq) (src : BitVec 9) (v : Word) {s : State} (hz : Keeps z s) {u : State} (e : execMatrixWrite rq src v s = .next u) : Keeps z u := by
  simp only [execMatrixWrite, Host.Outcome.next.injEq] at e
  subst e
  simp (maxDischargeDepth := 60) [hz]

theorem execMatrixLock_keeps {z : State} (rq : Rq) (src : BitVec 9) {s : State} (hz : Keeps z s) {u : State} (e : execMatrixLock rq src s = .next u) : Keeps z u := by
  simp only [execMatrixLock, Host.Outcome.next.injEq] at e
  subst e
  simp (maxDischargeDepth := 60) [hz]

theorem execGo_keeps {z : State} (rq : Rq) (t : Fin 16) {s : State} (hz : Keeps z s) {u : State} (e : execGo rq t s = .next u) : Keeps z u := by
  simp only [execGo, Host.Outcome.next.injEq] at e
  subst e
  simp (maxDischargeDepth := 60) [hz]

theorem execArm_keeps {z : State} (rq : Rq) (t : Fin 16) (v : Word) {s : State} (hz : Keeps z s) {u : State} (e : execArm rq t v s = .next u) : Keeps z u := by
  simp only [execArm, Host.Outcome.next.injEq] at e
  subst e
  simp (maxDischargeDepth := 60) [hz]

theorem execTriInject_keeps {z : State} (rq : Rq) (t : Fin 16) (v : Word) {s : State} (hz : Keeps z s) {u : State} (e : execTriInject rq t v s = .next u) : Keeps z u := by
  simp only [execTriInject, Host.Outcome.next.injEq] at e
  subst e
  simp (maxDischargeDepth := 60) [hz]

theorem execTriWdogKick_keeps {z : State} (rq : Rq) (t : Fin 16) (v : Word) {s : State} (hz : Keeps z s) {u : State} (e : execTriWdogKick rq t v s = .next u) : Keeps z u := by
  simp only [execTriWdogKick, Host.Outcome.next.injEq] at e
  subst e
  simp (maxDischargeDepth := 60) [hz]

theorem execTriMismatchClear_keeps {z : State} (rq : Rq) (t : Fin 16) {s : State} (hz : Keeps z s) {u : State} (e : execTriMismatchClear rq t s = .next u) : Keeps z u := by
  simp only [execTriMismatchClear, Host.Outcome.next.injEq] at e
  subst e
  simp (maxDischargeDepth := 60) [hz]

theorem execGateRuleShadowWrite_keeps {z : State} (rq : Rq) (gt : Fin 27) (k : BitVec 5) (which : RuleReg) (v : Word) {s : State} (hz : Keeps z s) {u : State} (e : execGateRuleShadowWrite rq gt k which v s = .next u) : Keeps z u := by
  simp only [execGateRuleShadowWrite, Host.Outcome.next.injEq] at e
  subst e
  simp (maxDischargeDepth := 60) [hz]

theorem execGateRuleCtlWrite_keeps {z : State} (rq : Rq) (gt : Fin 27) (k : BitVec 5) (v : Word) {s : State} (hz : Keeps z s) {u : State} (e : execGateRuleCtlWrite rq gt k v s = .next u) : Keeps z u := by
  simp only [execGateRuleCtlWrite, Host.Outcome.next.injEq] at e
  subst e
  simp (maxDischargeDepth := 60) [hz]

theorem execLockAll_keeps {z : State} (rq : Rq) (gt : Fin 27) {s : State} (hz : Keeps z s) {u : State} (e : execLockAll rq gt s = .next u) : Keeps z u := by
  simp only [execLockAll, Host.Outcome.next.injEq] at e
  subst e
  simp (maxDischargeDepth := 60) [hz]

theorem execGateLogClr_keeps {z : State} (rq : Rq) (gt : Fin 27) {s : State} (hz : Keeps z s) {u : State} (e : execGateLogClr rq gt s = .next u) : Keeps z u := by
  simp only [execGateLogClr, Host.Outcome.next.injEq] at e
  subst e
  simp (maxDischargeDepth := 60) [hz]

theorem execGateDrain_keeps {z : State} (rq : Rq) (gt : Fin 27) {s : State} (hz : Keeps z s) {u : State} (e : execGateDrain rq gt s = .next u) :
    Keeps z u := by
  unfold execGateDrain at e
  split at e <;> cases e
  · exact State.answer_keeps _ _ (State.gateDenies_keeps _ hz (by assumption))
  · exact State.drainStart_keeps _ _ hz

theorem execGateDrainComplete_keeps {z : State} (rq : Rq) (gt : Fin 27) {s : State} (hz : Keeps z s) {u : State} (e : execGateDrainComplete rq gt s = .next u) : Keeps z u := by
  unfold execGateDrainComplete at e
  (repeat' split at e) <;> simp only [Host.Outcome.next.injEq] at e <;> (subst e; simp (maxDischargeDepth := 60) [hz])

theorem execXltRootWrite_keeps {z : State} (rq : Rq) (c : Fin 8) (v : Word) {s : State} (hz : Keeps z s) {u : State} (e : execXltRootWrite rq c v s = .next u) : Keeps z u := by
  simp only [execXltRootWrite, Host.Outcome.next.injEq] at e
  subst e
  simp (maxDischargeDepth := 60) [hz]

theorem execXltAsidWrite_keeps {z : State} (rq : Rq) (c : Fin 8) (v : Word) {s : State} (hz : Keeps z s) {u : State} (e : execXltAsidWrite rq c v s = .next u) : Keeps z u := by
  simp only [execXltAsidWrite, Host.Outcome.next.injEq] at e
  subst e
  simp (maxDischargeDepth := 60) [hz]

theorem execXltRootLock_keeps {z : State} (rq : Rq) (c : Fin 8) {s : State} (hz : Keeps z s) {u : State} (e : execXltRootLock rq c s = .next u) : Keeps z u := by
  simp only [execXltRootLock, Host.Outcome.next.injEq] at e
  subst e
  simp (maxDischargeDepth := 60) [hz]

end Sys2Proof.Machine
end

