-- ==== Sys2Proof/Laws/KeepsSysIns.lean ====
section
/-!
SUPPORT. What the operations of Machine/SysIns.lean keep (Laws/Keeps.lean).
-/

namespace Sys2Proof.Machine

theorem execTrap_keeps {z : State} (w : Who) (g : Guard) (d : RegNo) (code : BitVec 10) {s : State} (hz : Keeps z s) {u : State} (e : execTrap w g d code s = .next u) : Keeps z u := by
  simp only [execTrap, Host.Outcome.next.injEq] at e
  subst e
  simp (maxDischargeDepth := 60) [hz]

theorem execWfi_keeps {z : State} (w : Who) (g : Guard) {s : State} (hz : Keeps z s) {u : State} (e : execWfi w g s = .next u) : Keeps z u := by
  simp only [execWfi, Host.Outcome.next.injEq] at e
  subst e
  simp (maxDischargeDepth := 60) [hz]

theorem execIbar_keeps {z : State} (w : Who) (g : Guard) {s : State} (hz : Keeps z s) {u : State} (e : execIbar w g s = .next u) : Keeps z u := by
  simp only [execIbar, Host.Outcome.next.injEq] at e
  subst e
  simp (maxDischargeDepth := 60) [hz]

theorem execDbar_keeps {z : State} (w : Who) (g : Guard) {s : State} (hz : Keeps z s) {u : State} (e : execDbar w g s = .next u) : Keeps z u := by
  simp only [execDbar, Host.Outcome.next.injEq] at e
  subst e
  simp (maxDischargeDepth := 60) [hz]

@[simp] theorem State.eretPost_keeps {z : State} {s : State} (t : Nat) (ks : List Nat) (c : Copy) (chain : Option Nat) (hz : Keeps z s) : Keeps z (State.eretPost s t ks c chain) := by
  unfold State.eretPost
  (dsimp only; repeat' split) <;> simp +contextual (maxDischargeDepth := 60) [hz]

theorem execEret_keeps {z : State} (w : Who) (g : Guard) (d a b : RegNo) {s : State} (hz : Keeps z s) {u : State}
    (e : execEret w g d a b s = .next u) : Keeps z u := by
  unfold execEret at e
  dsimp only at e
  generalize (decide (d ≠ 0) || decide (a ≠ 0) || decide (b ≠ 0)) = un at e
  have go : ∀ (y : State) (chain : Option Nat), Keeps z y → Keeps z (y.runThen w g un (fun s k c => s.eretLocal k c chain)
      fun ks c s => s.eretPost w.t.val ks c chain) := fun y chain h =>
    State.runThen_keeps _ _ _ _ _ h (fun _ _ _ hu => State.eretPost_keeps _ _ _ _ hu)
  split at e
  · cases e; exact hz
  · split at e
    · cases e; exact go _ _ hz
    · split at e
      · cases e; exact go _ _ hz
      · split at e <;> cases e
        · exact go _ _ (State.irqAgreement_keeps _ _ hz)
        · exact go _ _ hz

@[simp] theorem State.disarm_keeps {z : State} {s : State} (t : Nat) (hz : Keeps z s) : Keeps z (State.disarm s t) := by
  unfold State.disarm
  simp (maxDischargeDepth := 60) [hz]

@[simp] theorem State.refuseMode_keeps {z : State} {s : State} (t : Nat) (hz : Keeps z s) : Keeps z (State.refuseMode s t) := by
  unfold State.refuseMode
  simp (maxDischargeDepth := 60) [hz]

@[simp] theorem State.enterMode_keeps {z : State} {s : State} (t tgt : Nat) (spareRuns : Bool) (hz : Keeps z s) : Keeps z (State.enterMode s t tgt spareRuns) := by
  unfold State.enterMode
  simp (maxDischargeDepth := 60) [hz]

@[simp] theorem State.cleanCopy_keeps {z s : State} (t tag c : Nat) (hz : Keeps z s) : Keeps z (s.cleanCopy t tag c) := by
  unfold State.cleanCopy
  dsimp only
  refine State.modCopy_keeps _ _ (Keeps.foldl (fun u key hu => ?_) (Keeps.foldl (fun u r hu => State.arrayRead_keeps _ _ hu) hz))
  split
  · exact State.raise_keeps _ (State.arrayUe_keeps _ hu)
  · exact State.serve_keeps _ hu

@[simp] theorem State.cleanPair_keeps {z s : State} (t : Nat) (hz : Keeps z s) : Keeps z (s.cleanPair t).2 := by
  have key : ∀ (ls : List (Nat × Local)) (hits : List (Nat × ArrayId × Nat)) (bs : List (Nat × List Bundle)),
      Keeps z ((s.noteReads t ls).fence t false hits (fun s _ => s) bs).2 := fun ls hits bs =>
    State.fence_keeps t false hits _ bs (State.noteReads_keeps t ls hz) fun _ _ h => h
  unfold State.cleanPair
  dsimp only
  split
  · rename_i heq
    exact (key _ _ _).snd heq
  · rename_i heq
    have h := (key _ _ _).snd heq
    dsimp only
    exact State.modCopy_keeps _ _ (State.cleanCopy_keeps _ _ _ h)

@[simp] theorem State.cleanForMode_keeps {z s : State} (t : Nat) (hz : Keeps z s) : Keeps z (s.cleanForMode t).2 := by
  unfold State.cleanForMode
  split
  · exact State.cleanPair_keeps _ hz
  · dsimp only
    exact State.cleanCopy_keeps _ _ _ (State.cleanCopy_keeps _ _ _ (State.cleanCopy_keeps _ _ _ hz))
  · exact hz

@[simp] theorem State.finishMsyncs_keeps {z : State} {s : State} (t st : Nat) (hz : Keeps z s) : Keeps z (State.finishMsyncs s t st) := by
  unfold State.finishMsyncs
  simp (maxDischargeDepth := 60) [hz]

@[simp] theorem State.beginTransition_keeps {z s : State} (t tgt : Nat) (sp : Bool) (rb : List Nat) (hz : Keeps z s) :
    Keeps z (s.beginTransition t tgt sp rb) := by
  unfold State.beginTransition
  have h : Keeps z (if s.mode t = 1 ∧ tgt = 2 then (true, s) else s.cleanForMode t).2 := by
    split
    · exact hz
    · exact State.cleanForMode_keeps _ hz
  split
  · exact h.snd (by assumption)
  · exact State.modTriad_keeps _ _ (State.rebuildStart_keeps _ _ (h.snd (by assumption)))

@[simp] theorem State.applyMode_keeps {z s : State} (t : Nat) (hz : Keeps z s) : Keeps z (s.applyMode t) := by
  unfold State.applyMode
  dsimp only
  split
  · exact State.finishMsyncs_keeps _ _ (State.refuseMode_keeps _ hz)
  · split
    · exact State.finishMsyncs_keeps _ _ (State.disarm_keeps _ hz)
    · split
      · exact State.enterMode_keeps _ _ _ (State.finishMsyncs_keeps _ _ (State.disarm_keeps _ hz))
      · exact State.beginTransition_keeps _ _ _ _ (State.disarm_keeps _ hz)

@[simp] theorem State.msyncPass_keeps {z s : State} (w : Who) (g : Guard) (d : RegNo) (ks : List Nat) (hz : Keeps z s) :
    Keeps z (s.msyncPass w g d ks).2 := by
  unfold State.msyncPass
  dsimp only
  generalize List.map (fun x => (x, Local.msyncAt _ d _)) ks = ls
  have hb := fun bs => State.applyInject_keeps w.t.val bs hz
  split
  · split
    · exact State.splitUe_keeps _ _ _ _ _ (hb _)
    · exact hb _
  · split
    · rename_i heq
      exact (State.fence_keeps w.t.val false _ _ _ (hb _) fun _ _ h => h).snd heq
    · rename_i heq
      exact (State.fence_keeps w.t.val false _ _ _ (hb _) fun _ _ h => h).snd heq

theorem execMsync_keeps {z : State} (w : Who) (g : Guard) (d a b : RegNo) {s : State} (hz : Keeps z s) {u : State}
    (e : execMsync w g d a b s = .next u) : Keeps z u := by
  unfold execMsync at e
  dsimp only at e
  generalize (decide (a ≠ 0) || decide (b ≠ 0)) = un at e
  have hd := fun st => State.runInstr_keeps w g un (fun _ _ c => Local.nop c) (fun _ _ c => Local.msyncAt c d st) hz
  split at e
  · cases e; exact hz
  · split at e
    · cases e; exact hd _
    · split at e
      · cases e; exact hz
      · split at e
        · cases e; exact hd _
        · split at e
          · cases e; exact State.runThen_keeps _ _ _ _ _ hz (fun _ _ _ hu => State.refuseMode_keeps _ hu)
          · split at e
            · cases e; exact hz
            · have hp := fun ks => State.msyncPass_keeps w g d ks hz
              split at e
              · rename_i heq; cases e; exact (hp _).snd heq
              · rename_i heq
                have h := (hp _).snd heq
                split at e
                · cases e; exact State.applyMode_keeps _ (State.forCopies_keeps _ _ _ h)
                · split at e <;> cases e
                  · exact State.forCopies_keeps _ _ _ h
                  · exact State.fset_keeps _ _ _ (State.modTriad_keeps _ _ (State.forCopies_keeps _ _ _ h))

end Sys2Proof.Machine
end

