-- ==== Sys2Proof/Laws/KeepsTriadCmds.lean ====
section
/-!
SUPPORT. What the operations of Machine/TriadCmds.lean keep (Laws/Keeps.lean).
-/

namespace Sys2Proof.Machine

@[simp] theorem State.copyArrays_keeps {z s : State} (src dst : Nat) (hz : Keeps z s) : Keeps z (s.copyArrays src dst) := by
  unfold State.copyArrays
  refine State.modCopy_keeps _ _ ?_
  have h : Keeps z ((s.copy src).ce.foldl (fun s r => s.arrayRead src r) s) := Keeps.foldl (fun _ _ h => State.arrayRead_keeps _ _ h) hz
  exact h.trans ⟨rfl, fun x => SMap.copyRange_wf x, id, Nat.le_refl _⟩

@[simp] theorem State.copyWhole_keeps {z s : State} (src dst : Nat) (hz : Keeps z s) : Keeps z (s.copyWhole src dst) := by
  unfold State.copyWhole
  refine State.modCopy_keeps _ _ ?_
  exact State.copyArrays_keeps _ _ hz

@[simp] theorem State.setPhase_keeps {z : State} {s : State} (t n : Nat) (hz : Keeps z s) : Keeps z (State.setPhase s t n) := by
  unfold State.setPhase
  simp (maxDischargeDepth := 60) [hz]

@[simp] theorem State.countResync_keeps {z : State} {s : State} (t : Nat) (hz : Keeps z s) : Keeps z (State.countResync s t) := by
  unfold State.countResync
  simp (maxDischargeDepth := 60) [hz]

theorem execResyncCopyDone_keeps {z : State} (t : Fin 16) {s : State} (hz : Keeps z s) {u : State} (e : execResyncCopyDone t s = .next u) :
    Keeps z u := by
  unfold execResyncCopyDone at e
  dsimp only at e
  split at e
  · cases e; exact hz
  · split at e <;> cases e
    · exact State.resyncAbandon_keeps _ _ hz
    · exact State.setPhase_keeps _ _ (Keeps.foldl (fun _ _ h => State.copyArrays_keeps _ _ h) hz)

@[simp] theorem State.sigTake_keeps {z : State} {s : State} (t : Nat) (hz : Keeps z s) : Keeps z (State.sigTake s t).2 :=
  hz.of_eq rfl rfl rfl (Nat.le_refl _)

theorem execResyncPause_keeps {z : State} (t : Fin 16) (sigOk : Bool) {s : State} (hz : Keeps z s) {u : State}
    (e : execResyncPause t sigOk s = .next u) : Keeps z u := by
  unfold execResyncPause at e
  dsimp only at e
  split at e
  · cases e; exact hz
  · split at e <;> cases e
    · exact State.resyncAbandon_keeps _ _ (State.sigTake_keeps _ hz)
    · exact State.setPhase_keeps _ _ (Keeps.foldl (fun _ _ h => State.copyWhole_keeps _ _ h) (State.sigTake_keeps _ hz))

@[simp] theorem State.rejoin_keeps {z : State} {s : State} (t : Nat) (cs : List Nat) (hz : Keeps z s) : Keeps z (State.rejoin s t cs) := by
  unfold State.rejoin
  simp +contextual (maxDischargeDepth := 60) [hz]

theorem execResyncRejoin_keeps {z : State} (t : Fin 16) {s : State} (hz : Keeps z s) {u : State} (e : execResyncRejoin t s = .next u) : Keeps z u := by
  unfold execResyncRejoin at e
  (repeat' (first | (rename _ = (_, _) => heq; have hs1 := Keeps.snd (s := z) (by clear heq; simp [*]; done) heq; clear heq) | (rename _ = (_, _) => heq; have hs1 := Keeps.fst (s := z) (by clear heq; simp [*]; done) heq; clear heq) | (dsimp only at e) | split at e)) <;> simp only [Host.Outcome.next.injEq] at e <;> (subst e; (repeat' (first | (rename _ = (_, _) => heq; have hs1 := Keeps.snd (s := z) (by clear heq; simp [*]; done) heq; clear heq) | (rename _ = (_, _) => heq; have hs1 := Keeps.fst (s := z) (by clear heq; simp [*]; done) heq; clear heq) | (dsimp only) | split)) <;> simp (maxDischargeDepth := 60) [*])

theorem execMsyncTimeout_keeps {z : State} (t : Fin 16) {s : State} (hz : Keeps z s) {u : State} (e : execMsyncTimeout t s = .next u) : Keeps z u := by
  unfold execMsyncTimeout at e
  (repeat' (first | (rename _ = (_, _) => heq; have hs1 := Keeps.snd (s := z) (by clear heq; simp [*]; done) heq; clear heq) | (rename _ = (_, _) => heq; have hs1 := Keeps.fst (s := z) (by clear heq; simp [*]; done) heq; clear heq) | (dsimp only at e) | split at e)) <;> simp only [Host.Outcome.next.injEq] at e <;> (subst e; (repeat' (first | (rename _ = (_, _) => heq; have hs1 := Keeps.snd (s := z) (by clear heq; simp [*]; done) heq; clear heq) | (rename _ = (_, _) => heq; have hs1 := Keeps.fst (s := z) (by clear heq; simp [*]; done) heq; clear heq) | (dsimp only) | split)) <;> simp (maxDischargeDepth := 60) [*])

theorem execModeTransitionDone_keeps {z : State} (t : Fin 16) {s : State} (hz : Keeps z s) {u : State}
    (e : execModeTransitionDone t s = .next u) : Keeps z u := by
  unfold execModeTransitionDone at e
  dsimp only at e
  split at e
  · cases e; exact hz
  · split at e <;> cases e
    · exact State.finishMsyncs_keeps _ _ (State.resyncAbandon_keeps _ _ (State.sigTake_keeps _ hz))
    · refine State.enterMode_keeps _ _ _ (State.finishMsyncs_keeps _ _ (State.countResync_keeps _ (State.modTriad_keeps _ _ ?_)))
      exact State.fset_keeps _ _ _ (State.setPhase_keeps _ _ (Keeps.foldl (fun _ _ h => State.copyWhole_keeps _ _ h) (State.sigTake_keeps _ hz)))

theorem execDebugAttach_keeps {z : State} (w : Who) {s : State} (hz : Keeps z s) {u : State} (e : execDebugAttach w s = .next u) :
    Keeps z u := by
  unfold execDebugAttach at e
  dsimp only at e
  split at e
  · cases e; exact hz
  · split at e
    · cases e; exact State.gateDenies_keeps _ hz (by assumption)
    · cases e
      refine State.raise_keeps _ (State.wr_keeps ?_ _ _)
      have h := fun c1 c2 f1 f2 f3 => State.forCopies_keeps w.t.val c2 f3 (State.forCopies_keeps w.t.val c1 f2
        (State.modTriad_keeps w.t.val f1 (State.resyncAbandon_keeps w.t.val false hz)))
      split
      · exact State.modCopy_keeps _ _ (h _ _ _ _ _)
      · exact h _ _ _ _ _

theorem execWatchdog_keeps {z : State} (t : Fin 16) {s : State} (hz : Keeps z s) {u : State} (e : execWatchdog t s = .next u) : Keeps z u := by
  unfold execWatchdog at e
  (repeat' (first | (rename _ = (_, _) => heq; have hs1 := Keeps.snd (s := z) (by clear heq; simp [*]; done) heq; clear heq) | (rename _ = (_, _) => heq; have hs1 := Keeps.fst (s := z) (by clear heq; simp [*]; done) heq; clear heq) | (dsimp only at e) | split at e)) <;> simp only [Host.Outcome.next.injEq] at e <;> (subst e; (repeat' (first | (rename _ = (_, _) => heq; have hs1 := Keeps.snd (s := z) (by clear heq; simp [*]; done) heq; clear heq) | (rename _ = (_, _) => heq; have hs1 := Keeps.fst (s := z) (by clear heq; simp [*]; done) heq; clear heq) | (dsimp only) | split)) <;> simp (maxDischargeDepth := 60) [*])

end Sys2Proof.Machine
end

