-- ==== Sys2Proof/Laws/KeepsTwinCmds.lean ====
section
/-!
SUPPORT. What the operations of Machine/TwinCmds.lean keep (Laws/Keeps.lean).
-/

namespace Sys2Proof.Machine

theorem State.zRecv_keeps {z s : State} (h : ZHdr) (f : State → State) (hf : ∀ t, Keeps z t → Keeps z (f t)) (hz : Keeps z s) :
    Keeps z (s.zRecv h f) := by
  unfold State.zRecv
  have hk := State.zTake_keeps h hz
  split
  · exact hf _ (hk.snd (by assumption))
  · exact hk.snd (by assumption)

theorem execHeartbeat_keeps {z : State} (h : ZHdr) (applied : BitVec 32) {s : State} (hz : Keeps z s) {u : State}
    (e : execHeartbeat h applied s = .next u) : Keeps z u := by
  cases e
  refine State.zRecv_keeps _ _ (fun t ht => ?_) hz
  dsimp only
  split
  · exact State.modTwin_keeps _ ht
  · refine State.bulkCheck_keeps (State.fset_keeps _ _ _ (State.modTwin_keeps _ (State.fset_keeps _ _ _ ?_)))
    exact State.modTwin_keeps _ ht

theorem execJournal_keeps {z : State} (h : ZHdr) (es : List JEnt) {s : State} (hz : Keeps z s) {u : State}
    (e : execJournal h es s = .next u) : Keeps z u := by
  unfold execJournal at e
  split at e <;> cases e
  · exact hz
  · refine State.zRecv_keeps _ _ (fun t ht => ?_) hz
    exact Keeps.ite ht (Keeps.foldl (fun _ _ hx => State.applyEntry_keeps _ hx) ht)

theorem execBulk_keeps {z : State} (h : ZHdr) (pa : BitVec 44) (d : List Byte) {s : State} (hz : Keeps z s) {u : State}
    (e : execBulk h pa d s = .next u) : Keeps z u := by
  unfold execBulk at e
  split at e <;> cases e
  · exact hz
  · exact State.zRecv_keeps _ _ (fun t ht => Keeps.ite ht (State.devWrite_keeps _ _ _ ht)) hz

theorem execHandoverFrame_keeps {z : State} (h : ZHdr) {s : State} (hz : Keeps z s) {u : State} (e : execHandoverFrame h s = .next u) :
    Keeps z u := by
  cases e
  exact State.zRecv_keeps _ _ (fun t ht => State.trigger_keeps _ ht) hz

theorem execHandoverAck_keeps {z : State} (h : ZHdr) {s : State} (hz : Keeps z s) {u : State} (e : execHandoverAck h s = .next u) :
    Keeps z u := by
  cases e
  exact State.zRecv_keeps _ _ (fun t ht => Keeps.ite (State.fset_keeps _ _ _ (State.modTwin_keeps _ ht)) ht) hz

theorem execConfig_keeps {z : State} (h : ZHdr) (standby : Bool) (epoch : BitVec 16) (crcSame : Bool) {s : State} (hz : Keeps z s) {u : State}
    (e : execConfig h standby epoch crcSame s = .next u) : Keeps z u := by
  cases e
  refine State.zRecv_keeps _ _ (fun t ht => ?_) hz
  dsimp only
  have h1 := State.fset_keeps Reg.twinStatus Reg.twinStatus_EPOCH (max (t.tw Reg.twinStatus_EPOCH) epoch.toNat) ht
  repeat' split
  all_goals (simp (maxDischargeDepth := 60) [h1])

theorem execZhegusCrcError_keeps {z : State} {s : State} (hz : Keeps z s) {u : State} (e : execZhegusCrcError s = .next u) : Keeps z u := by
  unfold execZhegusCrcError at e
  (repeat' split at e) <;> simp only [Host.Outcome.next.injEq] at e <;> (subst e; simp (maxDischargeDepth := 60) [hz])

theorem execHeartbeatSend_keeps {z : State} {s : State} (hz : Keeps z s) {u : State} (e : execHeartbeatSend s = .next u) : Keeps z u := by
  simp only [execHeartbeatSend, Host.Outcome.next.injEq] at e
  subst e
  simp (maxDischargeDepth := 60) [hz]

theorem execJournalSend_keeps {z : State} {s : State} (hz : Keeps z s) {u : State} (e : execJournalSend s = .next u) : Keeps z u := by
  simp only [execJournalSend, Host.Outcome.next.injEq] at e
  subst e
  simp (maxDischargeDepth := 60) [hz]

@[simp] theorem State.bulkRead_keeps {z s : State} (pa len : Nat) (hz : Keeps z s) : Keeps z (s.bulkRead pa len).2 := by
  unfold State.bulkRead
  refine Keeps.foldl_snd (fun x i hx => ?_) hz
  dsimp only
  have h := State.devRead_keeps iTWIN (pa + 32 * i) (min 32 (len - 32 * i)) hx
  split
  · exact h.snd (by assumption)
  · exact State.jrnPut_keeps _ _ _ _ (State.raise_keeps _ (h.snd (by assumption)))

theorem State.bulkPart_keeps {z s : State} (pa n next tot : Nat) (hz : Keeps z s) : Keeps z (s.bulkPart pa n next tot) := by
  unfold State.bulkPart
  have h := fun b v => State.fset_keeps Reg.twinBulk Reg.twinBulk_PERMILLE v (State.modTwin_keeps (fun x => { x with bulk := some next })
    (State.zPut_keeps false b (State.bulkRead_keeps pa n hz)))
  exact Keeps.ite (State.bulkEnded_keeps (h _ _)) (h _ _)

theorem State.bulkStep_keeps {z s : State} (o : Nat) (q : Option (Nat × Nat)) (hz : Keeps z s) : Keeps z (s.bulkStep o q) := by
  cases q with
  | none => exact State.bulkEnded_keeps hz
  | some x =>
    obtain ⟨pa, left⟩ := x
    unfold State.bulkStep
    generalize s.mirrorTotal = tot
    dsimp only
    exact State.bulkPart_keeps pa (min 448 left) (o + min 448 left) tot hz

theorem execBulkSend_keeps {z s : State} (hz : Keeps z s) {u : State} (e : execBulkSend s = .next u) : Keeps z u := by
  unfold execBulkSend at e
  split at e
  · cases e; exact hz
  · split at e <;> cases e
    · exact hz
    · exact State.bulkStep_keeps _ _ hz

theorem execAliveToggle_keeps {z : State} {s : State} (hz : Keeps z s) {u : State} (e : execAliveToggle s = .next u) : Keeps z u := by
  simp only [execAliveToggle, Host.Outcome.next.injEq] at e
  subst e
  simp (maxDischargeDepth := 60) [hz]

theorem execZhegusRetransmit_keeps {z : State} {s : State} (hz : Keeps z s) {u : State} (e : execZhegusRetransmit s = .next u) : Keeps z u := by
  unfold execZhegusRetransmit at e
  (repeat' split at e) <;> simp only [Host.Outcome.next.injEq] at e <;> (subst e; simp (maxDischargeDepth := 60) [hz])

@[simp] theorem State.setLanes_keeps {z : State} {s : State} (l : Nat) (hz : Keeps z s) : Keeps z (State.setLanes s l) := by
  unfold State.setLanes
  simp (maxDischargeDepth := 60) [hz]

theorem execLinkRetrainDone_keeps {z : State} (lanes : BitVec 4) {s : State} (hz : Keeps z s) {u : State} (e : execLinkRetrainDone lanes s = .next u) : Keeps z u := by
  unfold execLinkRetrainDone at e
  (repeat' (first | (rename _ = (_, _) => heq; have hs1 := Keeps.snd (s := z) (by clear heq; simp [*]; done) heq; clear heq) | (rename _ = (_, _) => heq; have hs1 := Keeps.fst (s := z) (by clear heq; simp [*]; done) heq; clear heq) | (dsimp only at e) | split at e)) <;> simp only [Host.Outcome.next.injEq] at e <;> (subst e; (repeat' (first | (rename _ = (_, _) => heq; have hs1 := Keeps.snd (s := z) (by clear heq; simp [*]; done) heq; clear heq) | (rename _ = (_, _) => heq; have hs1 := Keeps.fst (s := z) (by clear heq; simp [*]; done) heq; clear heq) | (dsimp only) | split)) <;> simp (maxDischargeDepth := 60) [*])

theorem execTwinLaneFail_keeps {z : State} (lane : Fin 4) {s : State} (hz : Keeps z s) {u : State} (e : execTwinLaneFail lane s = .next u) : Keeps z u := by
  unfold execTwinLaneFail at e
  (repeat' split at e) <;> simp only [Host.Outcome.next.injEq] at e <;> (subst e; simp (maxDischargeDepth := 60) [hz])

theorem execTwinHbLoss_keeps {z : State} {s : State} (hz : Keeps z s) {u : State} (e : execTwinHbLoss s = .next u) : Keeps z u := by
  unfold execTwinHbLoss at e
  (repeat' (first | (rename _ = (_, _) => heq; have hs1 := Keeps.snd (s := z) (by clear heq; simp [*]; done) heq; clear heq) | (rename _ = (_, _) => heq; have hs1 := Keeps.fst (s := z) (by clear heq; simp [*]; done) heq; clear heq) | (dsimp only at e) | split at e)) <;> simp only [Host.Outcome.next.injEq] at e <;> (subst e; (repeat' (first | (rename _ = (_, _) => heq; have hs1 := Keeps.snd (s := z) (by clear heq; simp [*]; done) heq; clear heq) | (rename _ = (_, _) => heq; have hs1 := Keeps.fst (s := z) (by clear heq; simp [*]; done) heq; clear heq) | (dsimp only) | split)) <;> simp (maxDischargeDepth := 60) [*])

theorem execSidebandLoss_keeps {z : State} {s : State} (hz : Keeps z s) {u : State} (e : execSidebandLoss s = .next u) : Keeps z u := by
  unfold execSidebandLoss at e
  (repeat' (first | (rename _ = (_, _) => heq; have hs1 := Keeps.snd (s := z) (by clear heq; simp [*]; done) heq; clear heq) | (rename _ = (_, _) => heq; have hs1 := Keeps.fst (s := z) (by clear heq; simp [*]; done) heq; clear heq) | (dsimp only at e) | split at e)) <;> simp only [Host.Outcome.next.injEq] at e <;> (subst e; (repeat' (first | (rename _ = (_, _) => heq; have hs1 := Keeps.snd (s := z) (by clear heq; simp [*]; done) heq; clear heq) | (rename _ = (_, _) => heq; have hs1 := Keeps.fst (s := z) (by clear heq; simp [*]; done) heq; clear heq) | (dsimp only) | split)) <;> simp (maxDischargeDepth := 60) [*])

theorem execTwinAliveInToggle_keeps {z : State} {s : State} (hz : Keeps z s) {u : State} (e : execTwinAliveInToggle s = .next u) : Keeps z u := by
  simp only [execTwinAliveInToggle, Host.Outcome.next.injEq] at e
  subst e
  simp (maxDischargeDepth := 60) [hz]

theorem execTwinSafeIn_keeps {z : State} {s : State} (hz : Keeps z s) {u : State} (e : execTwinSafeIn s = .next u) : Keeps z u := by
  simp only [execTwinSafeIn, Host.Outcome.next.injEq] at e
  subst e
  simp (maxDischargeDepth := 60) [hz]

theorem execTakeover_keeps {z : State} {s : State} (hz : Keeps z s) {u : State} (e : execTakeover s = .next u) : Keeps z u := by
  unfold execTakeover at e
  (repeat' split at e) <;> simp only [Host.Outcome.next.injEq] at e <;> (subst e; simp (maxDischargeDepth := 60) [hz])

theorem execTakeoverComplete_keeps {z : State} {s : State} (hz : Keeps z s) {u : State} (e : execTakeoverComplete s = .next u) : Keeps z u := by
  unfold execTakeoverComplete at e
  (repeat' split at e) <;> simp only [Host.Outcome.next.injEq] at e <;> (subst e; simp (maxDischargeDepth := 60) [hz])

theorem execHandoverAckTimeout_keeps {z : State} {s : State} (hz : Keeps z s) {u : State} (e : execHandoverAckTimeout s = .next u) : Keeps z u := by
  unfold execHandoverAckTimeout at e
  (repeat' split at e) <;> simp only [Host.Outcome.next.injEq] at e <;> (subst e; simp (maxDischargeDepth := 60) [hz])

theorem execSoloTimeout_keeps {z : State} {s : State} (hz : Keeps z s) {u : State} (e : execSoloTimeout s = .next u) : Keeps z u := by
  unfold execSoloTimeout at e
  (repeat' split at e) <;> simp only [Host.Outcome.next.injEq] at e <;> (subst e; simp (maxDischargeDepth := 60) [hz])

end Sys2Proof.Machine
end

