-- ==== Sys2Proof/Laws/Run.lean ====
section
/-!
SUPPORT. What running one instruction does where every copy that runs it is ready for it: the fence releases, every copy commits alike, the
commit count advances, and nothing else changes.
-/

namespace Sys2Proof.Machine

/-- A copy's index names its triad's copy alone. -/
theorem copyIx_inj {t a b : Nat} : copyIx t a = copyIx t b ↔ a = b := by unfold copyIx; omega

/-- No copy runs a command twice. -/
theorem State.runners_nodup (s : State) (w : Who) : (s.runners w).Nodup := by
  unfold State.runners
  split
  · exact List.nodup_nil
  · split
    · exact ((by decide : [0, 1, 2].Nodup).filter _).filter _
    · split
      · exact List.nodup_singleton _
      · exact List.nodup_nil

/-- Every copy that runs a command is one of the three. -/
theorem State.runners_length (s : State) (w : Who) : (s.runners w).length ≤ 3 := by
  unfold State.runners
  split
  · simp
  · split
    · refine Nat.le_trans (List.length_filter_le _ _) ?_
      exact Nat.le_trans (List.length_filter_le _ _) (Nat.le_refl 3)
    · split <;> simp

/-- A change applied in turn to the copies listed, seen copy by copy. -/
theorem State.foldCopies {t : Nat} {F : Nat → Copy → Copy} {ks : List Nat} (hn : ks.Nodup) (s : State) :
    let u := ks.foldl (fun s c => s.setCopy (copyIx t c) (F c (s.copy (copyIx t c)))) s
    (∀ c ∈ ks, u.copy (copyIx t c) = F c (s.copy (copyIx t c))) ∧
    (∀ k, (∀ c ∈ ks, k ≠ copyIx t c) → u.copy k = s.copy k) ∧ u = { s with copies := u.copies } := by
  induction ks generalizing s with
  | nil => exact ⟨by simp, by simp, rfl⟩
  | cons a r ih =>
    obtain ⟨har, hr⟩ := List.nodup_cons.1 hn
    obtain ⟨h1, h2, h3⟩ := ih hr (s.setCopy (copyIx t a) (F a (s.copy (copyIx t a))))
    refine ⟨?_, ?_, ?_⟩
    · intro c hc
      rcases List.mem_cons.1 hc with rfl | hc
      · have := h2 (copyIx t c) (fun x hx he => har (copyIx_inj.1 he ▸ hx))
        simp only [List.foldl_cons]
        rw [this, State.copy_setCopy, if_pos rfl]
      · simp only [List.foldl_cons]
        rw [h1 c hc, State.copy_setCopy, if_neg]
        intro he
        exact har (copyIx_inj.1 he ▸ hc)
    · intro k hk
      simp only [List.foldl_cons]
      rw [h2 k (fun c hc => hk c (List.mem_cons_of_mem _ hc)), State.copy_setCopy, if_neg (hk a (by simp))]
    · simp only [List.foldl_cons]
      exact h3

/-- Equal bundles are released. -/
theorem verdict_same {l : List (Nat × List Bundle)} {b : List Bundle} (h : ∀ x ∈ l, x.2 = b) : verdict l = .release := by
  match l with
  | [] => rfl
  | [_] => rfl
  | [(a, x), (c, y)] =>
    have h1 := h (a, x) (by simp)
    have h2 := h (c, y) (by simp)
    simp only at h1 h2
    simp [verdict, h1, h2]
  | [(a, x), (c, y), (d, z)] =>
    have h1 := h (a, x) (by simp)
    have h2 := h (c, y) (by simp)
    have h3 := h (d, z) (by simp)
    simp only at h1 h2 h3
    simp [verdict, h1, h2, h3]
  | _ :: _ :: _ :: _ :: _ => rfl

/-- What every copy ready for an instruction does before the fence. -/
theorem localOf_ready {s : State} {w : Who} {g : Guard} (h : Ready s w g) (skip body : Copy → Local) :
    localOf g false skip body (s.lead w) = body (s.lead w) := by
  simp [localOf, h.even, h.defd, h.holds]

/-- What every copy that skips an instruction does before the fence. -/
theorem localOf_skips {s : State} {w : Who} {g : Guard} (h : Skips s w g) (skip body : Copy → Local) :
    localOf g false skip body (s.lead w) = skip (s.lead w) := by
  simp [localOf, h.even, h.defd, h.fails]

/-- A read of a sound copy's arrays finds nothing to correct. -/
theorem State.sound.arrayRead {s : State} {k : Nat} (h : s.sound k) (r : ArrayId × Nat) : s.arrayRead k r = s := by
  have hv := h.valid r.2
  have hc : s.validCheck (tcmAddr k (8 * r.2) / 8) = s := by
    unfold State.validCheck
    rcases hv with h0 | h0 <;> simp [h0]
  unfold State.arrayRead
  simp only [h.ce, h.ue, List.contains_nil, Bool.false_eq_true, if_false, Bool.not_false, Bool.and_true, hc]
  split
  · rw [if_neg]
    rcases hv with h0 | h0 <;> simp [h0]
  · rfl

/-- The reads of a list of arrays of sound copies find nothing to correct. -/
theorem State.arrayReads_sound {α : Type} {s : State} {l : List α} {f : State → α → State} (h : ∀ x ∈ l, f s x = s) : l.foldl f s = s := by
  induction l with
  | nil => rfl
  | cons x r ih => rw [List.foldl_cons, h x (by simp)]; exact ih fun y hy => h y (List.mem_cons_of_mem _ hy)

/-- An instruction of sound copies reads nothing that is to be corrected. -/
theorem State.noteReads_sound {s : State} {t : Nat} {ls : List (Nat × Local)} (h : ∀ x ∈ ls, s.sound (copyIx t x.1)) : s.noteReads t ls = s :=
  State.arrayReads_sound fun x hx => State.arrayReads_sound fun r _ => (h x hx).arrayRead r

/-- Copies in lockstep, an instruction that needs to wait for nothing: the fence releases. -/
theorem State.runInstr_same {s : State} {w : Who} {g : Guard} {undef : Bool} {skip body : State → Nat → Copy → Local} {l : Local}
    (h : Lockstep s w)
    (hl : ∀ c ∈ s.runners w, localOf g undef (skip s (copyIx w.t.val c)) (body s (copyIx w.t.val c)) (s.lead w) = l)
    (hg : l.trap = none → s.stalls w.t.val (s.copyTag w) l = false ∧ (l.acc.bind (·.drain w.t.val (s.copyTag w))) = none) :
    s.runInstr w g undef skip body = s.release w g ((s.runners w).map fun c => (c, l)) := by
  have hls : (s.runners w).map (fun c => (c, localOf g undef (skip s (copyIx w.t.val c)) (body s (copyIx w.t.val c))
      (s.copy (copyIx w.t.val c)))) = (s.runners w).map fun c => (c, l) := by
    refine List.map_congr_left fun c hc => ?_
    rw [h.same c hc, hl c hc]
  have hn : s.noteReads w.t.val ((s.runners w).map fun c => (c, l)) = s := by
    refine State.noteReads_sound fun x hx => ?_
    obtain ⟨c, hc, rfl⟩ := List.mem_map.1 hx
    exact h.sound c hc
  have hue : ueHits s w.t.val ((s.runners w).map fun c => (c, l)) = [] := by
    unfold ueHits
    rw [List.filterMap_eq_nil_iff]
    intro x hx
    obtain ⟨c, hc, rfl⟩ := List.mem_map.1 hx
    have hf := h.fetch
    rw [← h.same c hc] at hf
    simp only [hf, (h.sound c hc).ue]
    simp [List.find?_eq_none]
  have hb : ∀ l0, (s.applyInject w.t.val l0) = (l0, s) := fun l0 => by simp [State.applyInject, h.inject]
  have hconf : s.latent.conf.contains w.t.val = false := by simpa using h.conf
  obtain ⟨c0, r, hks⟩ := List.exists_cons_of_ne_nil h.runs
  have hmap : (s.runners w).map (fun c => (c, l)) = (c0, l) :: r.map fun c => (c, l) := by rw [hks]; rfl
  have hlet : s.letGo w g ((s.runners w).map fun c => (c, l)) = s.release w g ((s.runners w).map fun c => (c, l)) := by
    rw [hmap]
    unfold State.letGo
    simp only
    cases ht : l.trap with
    | some _ => simp
    | none =>
      obtain ⟨h1, h2⟩ := hg ht
      simp only [Option.isSome_none, Bool.false_eq_true, if_false, h1]
      have hd : s.drainStep w.t.val (s.copyTag w) l = (false, s) := by unfold State.drainStep; rw [h2]
      rw [hd]
  unfold State.runInstr State.runOn
  simp only [hls, hn, hue, hb]
  split
  · rw [hlet]
  · unfold State.fence
    simp only [hconf, Bool.false_eq_true, if_false, List.filter_nil, State.groupUe, List.any_nil, Bool.not_false]
    unfold State.compare
    rw [verdict_same (b := bundlesOf (s.lead w) (bits (s.rd (Reg.triCommitCount w.t.val)) 0 16) g l)]
    · simp only
      rw [List.filter_eq_self.2]
      · exact hlet
      · intro x _
        cases s.live w.t.val x.1 <;> rfl
    · intro x hx
      have hx' := (List.mem_filter.1 (List.mem_filter.1 hx).1).1
      obtain ⟨y, hy, rfl⟩ := List.mem_map.1 hx'
      obtain ⟨c, hc, rfl⟩ := List.mem_map.1 hy
      simp only
      rw [h.same c hc]

/-- Copies in lockstep whose instruction neither accesses memory nor issues a packet: the fence releases. -/
theorem State.runInstr_lockstep {s : State} {w : Who} {g : Guard} {undef : Bool} {skip body : State → Nat → Copy → Local} {l : Local}
    (h : Lockstep s w)
    (hl : ∀ c ∈ s.runners w, localOf g undef (skip s (copyIx w.t.val c)) (body s (copyIx w.t.val c)) (s.lead w) = l)
    (ha : l.acc = none) (hp : l.sides.all (fun x => decide (x.kind ≠ 6)) = true) :
    s.runInstr w g undef skip body = s.release w g ((s.runners w).map fun c => (c, l)) :=
  State.runInstr_same h hl fun _ => by
    refine ⟨?_, by rw [ha]; rfl⟩
    unfold State.stalls
    simp only [ha, Bool.false_and, Bool.false_or]
    rw [List.any_eq_false]
    intro x hx
    have := List.all_eq_true.1 hp x hx
    simp_all

/-- Counting a commit changes the count alone. -/
theorem State.countCommit_spec (s : State) (t c : Nat) (grp : Bool) :
    s.countCommit t c grp = { s with regs := (s.countCommit t c grp).regs } ∧
    (∀ r, r ≠ Reg.triCommitCount t → (s.countCommit t c grp).rd r = s.rd r) ∧
    (s.countCommit t c grp).fget (Reg.triCommitCount t) Reg.triCommitCount_COUNT =
      (s.fget (Reg.triCommitCount t) Reg.triCommitCount_COUNT + b2n (grp || decide (c = s.leader t))) % 2 ^ 64 := by
  unfold State.countCommit
  have hb : ∀ w : Word, bits w 0 64 = w.toNat := fun w => by
    simp only [bits, mask64]
    have : BitVec.ofNat 64 (2 ^ 64 - 1) = BitVec.allOnes 64 := by decide
    rw [this]
    rw [BitVec.and_allOnes]
    simp
  have hsb : ∀ (w : Word) (v : Nat), setBits w 0 64 v = BitVec.ofNat 64 v := fun w v => by
    simp only [setBits, mask64]
    have : BitVec.ofNat 64 (2 ^ 64 - 1) = BitVec.allOnes 64 := by decide
    rw [this]
    simp only [BitVec.and_allOnes, BitVec.shiftLeft_zero, BitVec.not_allOnes, BitVec.and_zero, BitVec.zero_or]
  split
  · rename_i hc
    refine ⟨rfl, fun r hr => ?_, ?_⟩
    · exact (State.rd_wr _ _ _ _).trans (if_neg hr)
    · simp only [State.fadd, State.fset, State.fget, Reg.triCommitCount_COUNT, hb, hsb]
      rw [State.rd_wr, if_pos rfl, hc]
      simp [b2n]
  · rename_i hc
    refine ⟨rfl, fun r _ => rfl, ?_⟩
    simp only [Bool.not_eq_true] at hc
    rw [hc]
    simp only [State.fget, Reg.triCommitCount_COUNT, hb, b2n]
    have := (s.rd (Reg.triCommitCount t)).isLt
    simp only [Bool.false_eq_true, if_false, Nat.add_zero]
    exact (Nat.mod_eq_of_lt this).symm

/-- Every released copy commits its instruction, and nothing else changes. -/
theorem State.release_committed {s : State} {w : Who} {g : Guard} {l : Local} (h : Lockstep s w) (ht : l.trap = none) (ha : l.acc = none)
    (hs : l.stay = false) : ∃ u, s.release w g ((s.runners w).map fun c => (c, l)) = (u, true) ∧ Committed s u w (fun c => c.retire g l) := by
  obtain ⟨c0, r, hks⟩ := List.exists_cons_of_ne_nil h.runs
  have hmap : (s.runners w).map (fun c => (c, l)) = (c0, l) :: r.map fun c => (c, l) := by rw [hks]; rfl
  have hrel : s.release w g ((s.runners w).map fun c => (c, l)) =
      (((s.runners w).foldl (fun s c => s.setCopy (copyIx w.t.val c) ((s.copy (copyIx w.t.val c)).retire g l)) s).countCommit w.t.val c0
        (((s.runners w).foldl (fun s c => s.setCopy (copyIx w.t.val c) ((s.copy (copyIx w.t.val c)).retire g l)) s).groupMode w.t.val), true) := by
    have hone : ∀ (y : State) (c : Nat), y.commitOne w.t.val g [] (c, l) =
        y.setCopy (copyIx w.t.val c) ((y.copy (copyIx w.t.val c)).retire g l) := fun y c => by simp [State.commitOne, ha]
    have hf : ∀ (ks : List Nat) (y : State), (ks.map fun c => (c, l)).foldl (fun s x => s.commitOne w.t.val g [] x) y =
        ks.foldl (fun s c => s.setCopy (copyIx w.t.val c) ((s.copy (copyIx w.t.val c)).retire g l)) y := fun ks y => by
      rw [List.foldl_map]
      simp only [hone]
    have hall : s.commitAll w.t.val (s.copyTag w) g ((s.runners w).map fun c => (c, l)) =
        (.committed, ((s.runners w).map fun c => (c, l)).foldl (fun s x => s.commitOne w.t.val g [] x) s) := by
      rw [hmap]
      unfold State.commitAll
      simp only [ht, ha]
    unfold State.release
    simp only
    rw [hall]
    rw [hf]
    rw [hks]
    simp only [List.map_cons, hs, Bool.false_eq_true, if_false]
  refine ⟨_, hrel, ?_⟩
  obtain ⟨h1, h2, h3⟩ := State.foldCopies (t := w.t.val) (F := fun _ c => c.retire g l) (s.runners_nodup w) s
  generalize (s.runners w).foldl (fun s c => s.setCopy (copyIx w.t.val c) ((s.copy (copyIx w.t.val c)).retire g l)) s = u at *
  have hregs : u.regs = s.regs := by rw [h3]
  have hrd : ∀ q, u.rd q = s.rd q := fun q => by unfold State.rd; rw [hregs]
  have hgm : u.groupMode w.t.val = s.groupMode w.t.val := by
    unfold State.groupMode State.mode State.fget
    rw [hrd]
  have hld : u.leader w.t.val = s.leader w.t.val := by
    simp only [State.leader, State.liveCopies]
    have : u.live w.t.val = s.live w.t.val := by funext c; simp only [State.live, hrd]
    rw [this]
  obtain ⟨e1, e2, e3⟩ := State.countCommit_spec u w.t.val c0 (u.groupMode w.t.val)
  generalize u.countCommit w.t.val c0 (u.groupMode w.t.val) = v at *
  have hcp : ∀ k, v.copy k = u.copy k := fun k => by rw [e1]; rfl
  refine ⟨fun c hc => (hcp _).trans (h1 c hc), fun k hk => (hcp _).trans (h2 k hk), ?_, fun q hq => (e2 q hq).trans (hrd q), ?_, ?_⟩
  · rw [e3]
    simp only [State.fget, hrd, State.counted, hks, List.headD_cons, hgm, hld]
  · intro a
    rw [e1]
    show SMap.get _ u.mem a = SMap.get _ s.mem a
    rw [h3]
  · rw [e1, h3]

/-- An instruction that has no trap, no access and no place of its own to go on commits as R92 and R94 say. -/
theorem Copy.retire_done {c : Copy} {g : Guard} {l : Local} (ha : l.acc = none) (hs : l.stay = false) (hn : l.nextPc = none)
    (hc : l.noLatch = false) : c.retire g l = c.done g l.cycles l.copy := by
  simp [Copy.retire, Copy.done, Local.latched, ha, hs, hn, hc]

/-- An instruction that acts in its copies alone, ready to run: it commits. -/
theorem State.run_ready {s : State} {w : Who} {g : Guard} (h : Ready s w g) {body : Copy → Local} {n : Nat} {f : Copy → Copy}
    (ht : (body (s.lead w)).trap = none) (ha : (body (s.lead w)).acc = none)
    (hp : (body (s.lead w)).sides.all (fun x => decide (x.kind ≠ 6)) = true) (hs : (body (s.lead w)).stay = false)
    (hn : (body (s.lead w)).nextPc = none) (hc : (body (s.lead w)).noLatch = false) (hcy : (body (s.lead w)).cycles = n)
    (hf : (body (s.lead w)).copy = f (s.lead w)) :
    Committed s (s.run w g false body) w fun c => c.done g n (f c) := by
  have h1 := State.runInstr_lockstep (g := g) (undef := false) (skip := fun _ _ c => Local.nop c) (body := fun _ _ c => body c)
    h.toLockstep (fun c _ => localOf_ready h _ _) ha hp
  obtain ⟨u, hu, h2⟩ := State.release_committed (g := g) h.toLockstep ht ha hs
  unfold State.run
  rw [h1, hu]
  refine ⟨fun c hc' => ?_, h2.others, h2.count, h2.regs, h2.bytes, h2.rest⟩
  rw [h2.each c hc', Copy.retire_done ha hs hn hc, hcy, h.same c hc', hf]

/-- An instruction ready to run that neither traps, accesses memory nor issues a packet commits, each copy with its own results. -/
theorem State.runInstr_ready {s : State} {w : Who} {g : Guard} (h : Ready s w g) {skip body : State → Nat → Copy → Local} {l : Local}
    (hl : ∀ c ∈ s.runners w, body s (copyIx w.t.val c) (s.lead w) = l) (ht : l.trap = none) (ha : l.acc = none)
    (hp : l.sides.all (fun x => decide (x.kind ≠ 6)) = true) (hs : l.stay = false) :
    ∃ u, s.runInstr w g false skip body = (u, true) ∧ Committed s u w fun c => c.retire g l := by
  rw [State.runInstr_lockstep h.toLockstep (fun c hc => (localOf_ready h _ _).trans (hl c hc)) ha hp]
  exact State.release_committed h.toLockstep ht ha hs

/-- An instruction whose condition is false commits as its false condition makes it. -/
theorem State.runInstr_skips {s : State} {w : Who} {g : Guard} (h : Skips s w g) {skip body : State → Nat → Copy → Local} {l : Local}
    (hl : ∀ c ∈ s.runners w, skip s (copyIx w.t.val c) (s.lead w) = l) (ht : l.trap = none) (ha : l.acc = none)
    (hp : l.sides.all (fun x => decide (x.kind ≠ 6)) = true) (hs : l.stay = false) :
    ∃ u, s.runInstr w g false skip body = (u, true) ∧ Committed s u w fun c => c.retire g l := by
  rw [State.runInstr_lockstep h.toLockstep (fun c hc => (localOf_skips h _ _).trans (hl c hc)) ha hp]
  exact State.release_committed h.toLockstep ht ha hs

/-- An instruction that every copy traps on: the traps are taken. -/
theorem State.runInstr_traps {s : State} {w : Who} {g : Guard} {undef : Bool} {skip body : State → Nat → Copy → Local} {l : Local}
    {ti : TrapInfo} (h : Lockstep s w)
    (hl : ∀ c ∈ s.runners w, localOf g undef (skip s (copyIx w.t.val c)) (body s (copyIx w.t.val c)) (s.lead w) = l) (ht : l.trap = some ti) :
    s.runInstr w g undef skip body = (s.trapCopies w.t.val ((s.runners w).map fun c => (c, ti)), true) := by
  rw [State.runInstr_same h hl fun he => by rw [ht] at he; cases he]
  obtain ⟨c0, r, hks⟩ := List.exists_cons_of_ne_nil h.runs
  have hf : ∀ ks : List Nat, (ks.map fun c => (c, l)).filterMap (fun x => x.2.trap.map fun ti => (x.1, ti)) = ks.map fun c => (c, ti) := by
    intro ks
    induction ks with
    | nil => rfl
    | cons c r ih => simp only [List.map_cons, List.filterMap_cons, ht, Option.map_some]; rw [ih]
  rw [← hf]
  have hmap : (s.runners w).map (fun c => (c, l)) = (c0, l) :: r.map fun c => (c, l) := by rw [hks]; rfl
  rw [hmap]
  unfold State.release State.commitAll
  simp only [ht]

/-- What follows a released instruction sees every copy that ran it, and the first as it was before. -/
theorem State.runThen_ready {s u : State} {w : Who} {g : Guard} (h : Ready s w g) {body : State → Nat → Copy → Local}
    {post : List Nat → Copy → State → State} (ht : (body s (copyIx w.t.val ((s.runners w).headD 0)) (s.lead w)).trap = none)
    (hr : s.runInstr w g false (fun _ _ c => Local.nop c) body = (u, true)) (hv : ∀ c, u.live w.t.val c = s.live w.t.val c) :
    s.runThen w g false body post = post (s.runners w) (s.lead w) u := by
  obtain ⟨c0, r, hks⟩ := List.exists_cons_of_ne_nil h.runs
  have hfil : (s.runners w).filter (fun c => u.live w.t.val c || !s.live w.t.val c) = s.runners w := by
    rw [List.filter_eq_self]
    intro c _
    rw [hv]
    cases s.live w.t.val c <;> rfl
  have hc0 : s.copy (copyIx w.t.val c0) = s.lead w := h.same c0 (by rw [hks]; simp)
  rw [hks] at ht
  simp only [List.headD_cons] at ht
  unfold State.runThen
  rw [hr]
  simp only [hfil]
  rw [hks]
  simp only [hc0, h.even, h.defd, h.holds, ht, Option.isNone_none, Bool.not_false, Bool.and_self, if_true]

/-- A commit leaves every copy live that was. -/
theorem Committed.live {s t : State} {w : Who} {f : Copy → Copy} (h : Committed s t w f) (c : Nat) : t.live w.t.val c = s.live w.t.val c := by
  unfold State.live
  rw [h.regs (Reg.triStatus w.t.val) (by unfold Reg.triStatus Reg.triCommitCount; omega)]

/-- The same change of the copies, written otherwise. -/
theorem Committed.congr {s t : State} {w : Who} {f f' : Copy → Copy} (h : Committed s t w f) (he : ∀ c, f c = f' c) : Committed s t w f' := by
  have : f = f' := funext he
  exact this ▸ h

/-- An ALU instruction, ready to run: its result, and with S = 1 its flags. -/
theorem State.runAlu_ready {s : State} {w : Who} {g : Guard} (h : Ready s w g) {body : Copy → Local} (r : Copy → Word) (fl : Copy → Nzcv)
    (sf : Bool) (d : RegNo) (hb : ∀ c, body c = Local.alu c sf d (r c) (fl c)) :
    Committed s (s.run w g false body) w fun c => c.done g 1 (if sf then (c.setReg d (r c)).setFlags (fl c) else c.setReg d (r c)) := by
  refine State.run_ready h (n := 1) (f := fun c => if sf then (c.setReg d (r c)).setFlags (fl c) else c.setReg d (r c)) ?_ ?_ ?_ ?_ ?_ ?_ ?_ ?_ <;>
    (rw [hb]; cases sf <;> rfl)

end Sys2Proof.Machine
end

