-- ==== Sys2Proof/Laws/Step.lean ====
section
/-!
SUPPORT. What a command keeps, and what a step keeps: one arm per command, each the lemma of its meaning.
-/

namespace Sys2Proof.Machine

/-- What every command keeps: the queue, the canonical forms of memory and registers, and the free values already drawn. -/
theorem exec_keeps (i : Instr) {s u : State} (hx : exec i s = .next u) : Keeps s u := by
  cases i with
  | addAdcSubSbc w g fn sf d a b => exact execAddAdcSubSbc_keeps w g fn sf d a b Keeps.rfl hx
  | andOrXorAndnOrn w g fn sf d a b => exact execAndOrXorAndnOrn_keeps w g fn sf d a b Keeps.rfl hx
  | sllSrlSraRor w g fn sf d a b => exact execSllSrlSraRor_keeps w g fn sf d a b Keeps.rfl hx
  | minMaxMinuMaxu w g fn sf d a b => exact execMinMaxMinuMaxu_keeps w g fn sf d a b Keeps.rfl hx
  | sextZext w g fn sf d a b => exact execSextZext_keeps w g fn sf d a b Keeps.rfl hx
  | clzCtzPopcRev w g fn sf d a b => exact execClzCtzPopcRev_keeps w g fn sf d a b Keeps.rfl hx
  | sltSltu w g uns sf d a b => exact execSltSltu_keeps w g uns sf d a b Keeps.rfl hx
  | addiAndiOriXori w g fn d a imm => exact execAddiAndiOriXori_keeps w g fn d a imm Keeps.rfl hx
  | shi w g fn sf d a amt z => exact execShi_keeps w g fn sf d a amt z Keeps.rfl hx
  | cmpi w g d a imm => exact execCmpi_keeps w g d a imm Keeps.rfl hx
  | movi w g d imm => exact execMovi_keeps w g d imm Keeps.rfl hx
  | movh w g d imm => exact execMovh_keeps w g d imm Keeps.rfl hx
  | mulMulhMulhu w g fn d a b => exact execMulMulhMulhu_keeps w g fn d a b Keeps.rfl hx
  | divDivuRemRemu w g fn d a b => exact execDivDivuRemRemu_keeps w g fn d a b Keeps.rfl hx
  | faddFsubFmul w g fn p d a b => exact execFaddFsubFmul_keeps w g fn p d a b Keeps.rfl hx
  | fdiv w g p d a b => exact execFdiv_keeps w g p d a b Keeps.rfl hx
  | fsqrt w g p d a b => exact execFsqrt_keeps w g p d a b Keeps.rfl hx
  | fminFmaxFnegFabs w g fn p d a b => exact execFminFmaxFnegFabs_keeps w g fn p d a b Keeps.rfl hx
  | fcmp w g p d a b => exact execFcmp_keeps w g p d a b Keeps.rfl hx
  | fcvt w g fn p d a b => exact execFcvt_keeps w g fn p d a b Keeps.rfl hx
  | fmvGfFg w g toF d a b => exact execFmvGfFg_keeps w g toF d a b Keeps.rfl hx
  | fmaddFmsub w g sub p d a b c => exact execFmaddFmsub_keeps w g sub p d a b c Keeps.rfl hx
  | ldLdu w g uns size d a imm => exact execLdLdu_keeps w g uns size d a imm Keeps.rfl hx
  | st w g size d a imm => exact execSt_keeps w g size d a imm Keeps.rfl hx
  | fldFst w g store size d a imm => exact execFldFst_keeps w g store size d a imm Keeps.rfl hx
  | memxLoadStore w g kind size scale freg d a b => exact execMemxLoadStore_keeps w g kind size scale freg d a b Keeps.rfl hx
  | ll w g size z d a => exact execLl_keeps w g size z d a Keeps.rfl hx
  | sc w g size z d a b => exact execSc_keeps w g size z d a b Keeps.rfl hx
  | amoswap w g size z d a b => exact execAmoswap_keeps w g size z d a b Keeps.rfl hx
  | amoadd w g size z d a b => exact execAmoadd_keeps w g size z d a b Keeps.rfl hx
  | amocas w g size z d a b => exact execAmocas_keeps w g size z d a b Keeps.rfl hx
  | b w g off => exact execB_keeps w g off Keeps.rfl hx
  | bl w g off => exact execBl_keeps w g off Keeps.rfl hx
  | jalr w g d a imm => exact execJalr_keeps w g d a imm Keeps.rfl hx
  | csrr w g d csr => exact execCsrr_keeps w g d csr Keeps.rfl hx
  | csrw w g d csr => exact execCsrw_keeps w g d csr Keeps.rfl hx
  | psrWrite w g d => exact execPsrWrite_keeps w g d Keeps.rfl hx
  | agtimeRead w g d oa ob oc => exact execAgtimeRead_keeps w g d oa ob oc Keeps.rfl hx
  | ageventRead w g d ea eb ec => exact execAgeventRead_keeps w g d ea eb ec Keeps.rfl hx
  | icinvVa w g d => exact execIcinvVa_keeps w g d Keeps.rfl hx
  | icinvAll w g d => exact execIcinvAll_keeps w g d Keeps.rfl hx
  | dcinvVa w g d => exact execDcinvVa_keeps w g d Keeps.rfl hx
  | dccleanVa w g d => exact execDccleanVa_keeps w g d Keeps.rfl hx
  | dccleanAll w g d => exact execDccleanAll_keeps w g d Keeps.rfl hx
  | dcinvAll w g d => exact execDcinvAll_keeps w g d Keeps.rfl hx
  | icSwset w g d => exact execIcSwset_keeps w g d Keeps.rfl hx
  | patchDataWrite w g d => exact execPatchDataWrite_keeps w g d Keeps.rfl hx
  | trap w g d code => exact execTrap_keeps w g d code Keeps.rfl hx
  | eret w g d a b => exact execEret_keeps w g d a b Keeps.rfl hx
  | wfi w g => exact execWfi_keeps w g Keeps.rfl hx
  | msync w g d a b => exact execMsync_keeps w g d a b Keeps.rfl hx
  | ibar w g => exact execIbar_keeps w g Keeps.rfl hx
  | dbar w g => exact execDbar_keeps w g Keeps.rfl hx
  | tlbwr w g d a b => exact execTlbwr_keeps w g d a b Keeps.rfl hx
  | tlbrdT w g d a b => exact execTlbrdT_keeps w g d a b Keeps.rfl hx
  | tlbrdP w g d a b => exact execTlbrdP_keeps w g d a b Keeps.rfl hx
  | tlbinvVa w g a b => exact execTlbinvVa_keeps w g a b Keeps.rfl hx
  | tlbinvAsid w g a => exact execTlbinvAsid_keeps w g a Keeps.rfl hx
  | tlbinvAll w g => exact execTlbinvAll_keeps w g Keeps.rfl hx
  | tlbinvIdx w g a => exact execTlbinvIdx_keeps w g a Keeps.rfl hx
  | cop w word => exact execCop_keeps w word Keeps.rfl hx
  | patch w word => exact execPatch_keeps w word Keeps.rfl hx
  | instructionFetch w => exact execInstructionFetch_keeps w Keeps.rfl hx
  | iauAgreement w => exact execIauAgreement_keeps w Keeps.rfl hx
  | interruptLatchSet src triads copies => exact execInterruptLatchSet_keeps src triads copies Keeps.rfl hx
  | timeCompare t => exact execTimeCompare_keeps t Keeps.rfl hx
  | tagIssue init => exact execTagIssue_keeps init Keeps.rfl hx
  | meshRequest m => exact execMeshRequest_keeps m Keeps.rfl hx
  | meshResponse init => exact execMeshResponse_keeps init Keeps.rfl hx
  | tagRespTimeout rq va isWrite => exact execTagRespTimeout_keeps rq va isWrite Keeps.rfl hx
  | meshVcStall => exact execMeshVcStall_keeps Keeps.rfl hx
  | fcruEvaluation => exact execFcruEvaluation_keeps Keeps.rfl hx
  | escWindowExpire src => exact execEscWindowExpire_keeps src Keeps.rfl hx
  | fcruWdogExpire => exact execFcruWdogExpire_keeps Keeps.rfl hx
  | fcruSwRaise rq v => exact execFcruSwRaise_keeps rq v Keeps.rfl hx
  | globalLock rq => exact execGlobalLock_keeps rq Keeps.rfl hx
  | logWrapClear rq => exact execLogWrapClear_keeps rq Keeps.rfl hx
  | pendClear rq n v => exact execPendClear_keeps rq n v Keeps.rfl hx
  | matrixWrite rq src v => exact execMatrixWrite_keeps rq src v Keeps.rfl hx
  | matrixLock rq src => exact execMatrixLock_keeps rq src Keeps.rfl hx
  | go rq t => exact execGo_keeps rq t Keeps.rfl hx
  | resyncCopyDone t => exact execResyncCopyDone_keeps t Keeps.rfl hx
  | resyncPause t sigOk => exact execResyncPause_keeps t sigOk Keeps.rfl hx
  | resyncRejoin t => exact execResyncRejoin_keeps t Keeps.rfl hx
  | arm rq t v => exact execArm_keeps rq t v Keeps.rfl hx
  | msyncTimeout t => exact execMsyncTimeout_keeps t Keeps.rfl hx
  | modeTransitionDone t => exact execModeTransitionDone_keeps t Keeps.rfl hx
  | triInject rq t v => exact execTriInject_keeps rq t v Keeps.rfl hx
  | triWdogKick rq t v => exact execTriWdogKick_keeps rq t v Keeps.rfl hx
  | watchdog t => exact execWatchdog_keeps t Keeps.rfl hx
  | triMismatchClear rq t => exact execTriMismatchClear_keeps rq t Keeps.rfl hx
  | debugAttach w => exact execDebugAttach_keeps w Keeps.rfl hx
  | gateRuleShadowWrite rq gt k which v => exact execGateRuleShadowWrite_keeps rq gt k which v Keeps.rfl hx
  | gateRuleCtlWrite rq gt k v => exact execGateRuleCtlWrite_keeps rq gt k v Keeps.rfl hx
  | lockAll rq gt => exact execLockAll_keeps rq gt Keeps.rfl hx
  | gateDrain rq gt => exact execGateDrain_keeps rq gt Keeps.rfl hx
  | gateDrainComplete rq gt => exact execGateDrainComplete_keeps rq gt Keeps.rfl hx
  | gateLogClr rq gt => exact execGateLogClr_keeps rq gt Keeps.rfl hx
  | xltRootWrite rq c v => exact execXltRootWrite_keeps rq c v Keeps.rfl hx
  | xltAsidWrite rq c v => exact execXltAsidWrite_keeps rq c v Keeps.rfl hx
  | xltRootLock rq c => exact execXltRootLock_keeps rq c Keeps.rfl hx
  | fulWalk c va write => exact execFulWalk_keeps c va write Keeps.rfl hx
  | fulPacketAccept c parityOk => exact execFulPacketAccept_keeps c parityOk Keeps.rfl hx
  | fulInstrComplete c k => exact execFulInstrComplete_keeps c k Keeps.rfl hx
  | vi c => exact execVi_keeps c Keeps.rfl hx
  | viM c => exact execViM_keeps c Keeps.rfl hx
  | vf c => exact execVf_keeps c Keeps.rfl hx
  | vfM c => exact execVfM_keeps c Keeps.rfl hx
  | vfma c => exact execVfma_keeps c Keeps.rfl hx
  | vfmaM c => exact execVfmaM_keeps c Keeps.rfl hx
  | vfnma c => exact execVfnma_keeps c Keeps.rfl hx
  | vdot c => exact execVdot_keeps c Keeps.rfl hx
  | vcmp c => exact execVcmp_keeps c Keeps.rfl hx
  | vcmpu c => exact execVcmpu_keeps c Keeps.rfl hx
  | vred c => exact execVred_keeps c Keeps.rfl hx
  | vmask c => exact execVmask_keeps c Keeps.rfl hx
  | vmerge c => exact execVmerge_keeps c Keeps.rfl hx
  | vmov c => exact execVmov_keeps c Keeps.rfl hx
  | vinvAll c => exact execVinvAll_keeps c Keeps.rfl hx
  | walkinv c => exact execWalkinv_keeps c Keeps.rfl hx
  | vld c => exact execVld_keeps c Keeps.rfl hx
  | vldM c => exact execVldM_keeps c Keeps.rfl hx
  | vst c => exact execVst_keeps c Keeps.rfl hx
  | vstM c => exact execVstM_keeps c Keeps.rfl hx
  | vsplat c => exact execVsplat_keeps c Keeps.rfl hx
  | vslidedn c => exact execVslidedn_keeps c Keeps.rfl hx
  | strm c => exact execStrm_keeps c Keeps.rfl hx
  | vinvVa c => exact execVinvVa_keeps c Keeps.rfl hx
  | vinvAsid c => exact execVinvAsid_keeps c Keeps.rfl hx
  | vsync c => exact execVsync_keeps c Keeps.rfl hx
  | vmvs c => exact execVmvs_keeps c Keeps.rfl hx
  | vmpop c => exact execVmpop_keeps c Keeps.rfl hx
  | vmfirst c => exact execVmfirst_keeps c Keeps.rfl hx
  | vgetvl c => exact execVgetvl_keeps c Keeps.rfl hx
  | vrdseq c => exact execVrdseq_keeps c Keeps.rfl hx
  | vshape c => exact execVshape_keeps c Keeps.rfl hx
  | streamChunk c => exact execStreamChunk_keeps c Keeps.rfl hx
  | streamPrefetch c src => exact execStreamPrefetch_keeps c src Keeps.rfl hx
  | fulWindowBoundary => exact execFulWindowBoundary_keeps Keeps.rfl hx
  | fulGapEnd late => exact execFulGapEnd_keeps late Keeps.rfl hx
  | fulWatchdog c => exact execFulWatchdog_keeps c Keeps.rfl hx
  | fulSliceGate i => exact execFulSliceGate_keeps i Keeps.rfl hx
  | fulSliceWakeDone i => exact execFulSliceWakeDone_keeps i Keeps.rfl hx
  | fulPgCtlWrite rq v => exact execFulPgCtlWrite_keeps rq v Keeps.rfl hx
  | fulEventPendClear rq c v => exact execFulEventPendClear_keeps rq c v Keeps.rfl hx
  | clear rq c => exact execClear_keeps rq c Keeps.rfl hx
  | fflagsClear rq c v => exact execFflagsClear_keeps rq c v Keeps.rfl hx
  | checkLastClear rq c => exact execCheckLastClear_keeps rq c Keeps.rfl hx
  | spareWakeDone => exact execSpareWakeDone_keeps Keeps.rfl hx
  | rotationCopyDone cr => exact execRotationCopyDone_keeps cr Keeps.rfl hx
  | rotationMarchDone cr pass => exact execRotationMarchDone_keeps cr pass Keeps.rfl hx
  | rotationClearDone cr => exact execRotationClearDone_keeps cr Keeps.rfl hx
  | memSsPwrWrite rq n v => exact execMemSsPwrWrite_keeps rq n v Keeps.rfl hx
  | bankEnterLow b => exact execBankEnterLow_keeps b Keeps.rfl hx
  | bankWakeDone b => exact execBankWakeDone_keeps b Keeps.rfl hx
  | zodClearDone r => exact execZodClearDone_keeps r Keeps.rfl hx
  | zodBackgroundClear => exact execZodBackgroundClear_keeps Keeps.rfl hx
  | ddrZodCtlWrite rq v => exact execDdrZodCtlWrite_keeps rq v Keeps.rfl hx
  | ddrZodProbeWrite rq v => exact execDdrZodProbeWrite_keeps rq v Keeps.rfl hx
  | ceWriteback pa => exact execCeWriteback_keeps pa Keeps.rfl hx
  | mergeDrain pa => exact execMergeDrain_keeps pa Keeps.rfl hx
  | remap k n => exact execRemap_keeps k n Keeps.rfl hx
  | edcCtlWrite rq v => exact execEdcCtlWrite_keeps rq v Keeps.rfl hx
  | edcLock rq => exact execEdcLock_keeps rq Keeps.rfl hx
  | logClr rq m => exact execLogClr_keeps rq m Keeps.rfl hx
  | ueFirstClear rq k => exact execUeFirstClear_keeps rq k Keeps.rfl hx
  | edcInjArm rq v => exact execEdcInjArm_keeps rq v Keeps.rfl hx
  | firedClear rq => exact execFiredClear_keeps rq Keeps.rfl hx
  | scrubGo rq => exact execScrubGo_keeps rq Keeps.rfl hx
  | scrubAbort rq => exact execScrubAbort_keeps rq Keeps.rfl hx
  | scrubUnit => exact execScrubUnit_keeps Keeps.rfl hx
  | remapLock rq i e => exact execRemapLock_keeps rq i e Keeps.rfl hx
  | frameReceive f => exact execFrameReceive_keeps f Keeps.rfl hx
  | ringDescriptorVisible ring => exact execRingDescriptorVisible_keeps ring Keeps.rfl hx
  | cbSeqRecovery f => exact execCbSeqRecovery_keeps f Keeps.rfl hx
  | linkDown p m lanes => exact execLinkDown_keeps p m lanes Keeps.rfl hx
  | preemptVerify p m ok => exact execPreemptVerify_keeps p m ok Keeps.rfl hx
  | admRingConsWrite rq n cons => exact execAdmRingConsWrite_keeps rq n cons Keeps.rfl hx
  | admSringConsWrite rq n cons => exact execAdmSringConsWrite_keeps rq n cons Keeps.rfl hx
  | admReqAdmit rq n => exact execAdmReqAdmit_keeps rq n Keeps.rfl hx
  | admReqWithdraw rq n => exact execAdmReqWithdraw_keeps rq n Keeps.rfl hx
  | ethTxqTailWrite rq p q tail => exact execEthTxqTailWrite_keeps rq p q tail Keeps.rfl hx
  | frameTransmit p q fragments => exact execFrameTransmit_keeps p q fragments Keeps.rfl hx
  | gclEntryAdvance p => exact execGclEntryAdvance_keeps p Keeps.rfl hx
  | change rq p => exact execChange_keeps rq p Keeps.rfl hx
  | gclConfigChange p => exact execGclConfigChange_keeps p Keeps.rfl hx
  | install rq p => exact execInstall_keeps rq p Keeps.rfl hx
  | retire rq p => exact execRetire_keeps rq p Keeps.rfl hx
  | ping => exact execPing_keeps Keeps.rfl hx
  | getState => exact execGetState_keeps Keeps.rfl hx
  | timeQuery => exact execTimeQuery_keeps Keeps.rfl hx
  | admitFlow => exact execAdmit_keeps Keeps.rfl hx
  | withdraw => exact execWithdraw_keeps Keeps.rfl hx
  | submitJob => exact execSubmitJob_keeps Keeps.rfl hx
  | getResult => exact execGetResult_keeps Keeps.rfl hx
  | releaseResult => exact execReleaseResult_keeps Keeps.rfl hx
  | getProgress => exact execGetProgress_keeps Keeps.rfl hx
  | recFreeze => exact execRecFreeze_keeps Keeps.rfl hx
  | recRead => exact execRecRead_keeps Keeps.rfl hx
  | recRelease => exact execRecRelease_keeps Keeps.rfl hx
  | enterMaint => exact execEnterMaint_keeps Keeps.rfl hx
  | imageWrite => exact execImageWrite_keeps Keeps.rfl hx
  | codeWrite => exact execCodeWrite_keeps Keeps.rfl hx
  | resetReq => exact execResetReq_keeps Keeps.rfl hx
  | handoverCommand => exact execHandoverCommand_keeps Keeps.rfl hx
  | resetReqReset => exact execResetReqReset_keeps Keeps.rfl hx
  | dhpSessionClose k => exact execDhpSessionClose_keeps k Keeps.rfl hx
  | jobDeadlineExpire n => exact execJobDeadlineExpire_keeps n Keeps.rfl hx
  | dhpSlotDone rq n v => exact execDhpSlotDone_keeps rq n v Keeps.rfl hx
  | dhpSlotProgWrite rq n v => exact execDhpSlotProgWrite_keeps rq n v Keeps.rfl hx
  | dhpJobqConsWrite rq j cons => exact execDhpJobqConsWrite_keeps rq j cons Keeps.rfl hx
  | recRecordWrite => exact execRecRecordWrite_keeps Keeps.rfl hx
  | freeze rq => exact execFreeze_keeps rq Keeps.rfl hx
  | release rq => exact execRelease_keeps rq Keeps.rfl hx
  | timeStep rq v => exact execTimeStep_keeps rq v Keeps.rfl hx
  | timeRateWrite rq v => exact execTimeRateWrite_keeps rq v Keeps.rfl hx
  | timeNowRead rq => exact execTimeNowRead_keeps rq Keeps.rfl hx
  | servoReferenceEvent ofs => exact execServoReferenceEvent_keeps ofs Keeps.rfl hx
  | timeSourceLoss => exact execTimeSourceLoss_keeps Keeps.rfl hx
  | holdoverLimit => exact execHoldoverLimit_keeps Keeps.rfl hx
  | tcxoCheck dev => exact execTcxoCheck_keeps dev Keeps.rfl hx
  | timeOutEdge n stuck => exact execTimeOutEdge_keeps n stuck Keeps.rfl hx
  | timeOutCfgWrite rq n v => exact execTimeOutCfgWrite_keeps rq n v Keeps.rfl hx
  | timeInEdge n falling age => exact execTimeInEdge_keeps n falling age Keeps.rfl hx
  | timeInCapRead rq n => exact execTimeInCapRead_keeps rq n Keeps.rfl hx
  | gptpSyncTransmit k p m kind => exact execGptpSyncTransmit_keeps k p m kind Keeps.rfl hx
  | pdelayExchange p m delay => exact execPdelayExchange_keeps p m delay Keeps.rfl hx
  | gptpFrameReceive k ofs => exact execGptpFrameReceive_keeps k ofs Keeps.rfl hx
  | heartbeat h applied => exact execHeartbeat_keeps h applied Keeps.rfl hx
  | heartbeatSend => exact execHeartbeatSend_keeps Keeps.rfl hx
  | aliveToggle => exact execAliveToggle_keeps Keeps.rfl hx
  | journal h es => exact execJournal_keeps h es Keeps.rfl hx
  | bulk h pa d => exact execBulk_keeps h pa d Keeps.rfl hx
  | handoverFrame h => exact execHandoverFrame_keeps h Keeps.rfl hx
  | handoverAck h => exact execHandoverAck_keeps h Keeps.rfl hx
  | config h standby epoch crcSame => exact execConfig_keeps h standby epoch crcSame Keeps.rfl hx
  | journalSend => exact execJournalSend_keeps Keeps.rfl hx
  | bulkSend => exact execBulkSend_keeps Keeps.rfl hx
  | zhegusRetransmit => exact execZhegusRetransmit_keeps Keeps.rfl hx
  | linkRetrainDone lanes => exact execLinkRetrainDone_keeps lanes Keeps.rfl hx
  | twinHbLoss => exact execTwinHbLoss_keeps Keeps.rfl hx
  | sidebandLoss => exact execSidebandLoss_keeps Keeps.rfl hx
  | twinSafeIn => exact execTwinSafeIn_keeps Keeps.rfl hx
  | takeover => exact execTakeover_keeps Keeps.rfl hx
  | takeoverComplete => exact execTakeoverComplete_keeps Keeps.rfl hx
  | handoverAckTimeout => exact execHandoverAckTimeout_keeps Keeps.rfl hx
  | soloTimeout => exact execSoloTimeout_keeps Keeps.rfl hx
  | pounceSliceDue n => exact execPounceSliceDue_keeps n Keeps.rfl hx
  | pounceRetry n => exact execPounceRetry_keeps n Keeps.rfl hx
  | triadCheck bad => exact execTriadCheck_keeps bad Keeps.rfl hx
  | arrayScanDone t => exact execArrayScanDone_keeps t Keeps.rfl hx
  | ssramBank => exact execSsramBank_keeps Keeps.rfl hx
  | crownBank => exact execCrownBank_keeps Keeps.rfl hx
  | tempTest => exact execTempTest_keeps Keeps.rfl hx
  | vmonTest => exact execVmonTest_keeps Keeps.rfl hx
  | adcTest => exact execAdcTest_keeps Keeps.rfl hx
  | pll => exact execPll_keeps Keeps.rfl hx
  | zhegusPrbs => exact execZhegusPrbs_keeps Keeps.rfl hx
  | pounceSliceComplete kind pass => exact execPounceSliceComplete_keeps kind pass Keeps.rfl hx
  | pncRun rq n => exact execPncRun_keeps rq n Keeps.rfl hx
  | halt rq on => exact execHalt_keeps rq on Keeps.rfl hx
  | mtGo rq => exact execMtGo_keeps rq Keeps.rfl hx
  | pncFailLastClear rq => exact execPncFailLastClear_keeps rq Keeps.rfl hx
  | vddAonPowerUp => exact execVddAonPowerUp_keeps Keeps.rfl hx
  | hbxLevelChange n level ticks => exact execHbxLevelChange_keeps n level ticks Keeps.rfl hx
  | hbxSlowSample n raw ticks => exact execHbxSlowSample_keeps n raw ticks Keeps.rfl hx
  | offMinExpire => exact execOffMinExpire_keeps Keeps.rfl hx
  | pmicTimeout ticks => exact execPmicTimeout_keeps ticks Keeps.rfl hx
  | pmicRetry => exact execPmicRetry_keeps Keeps.rfl hx
  | pgoodRise ticks units => exact execPgoodRise_keeps ticks units Keeps.rfl hx
  | pgoodFall ticks => exact execPgoodFall_keeps ticks Keeps.rfl hx
  | resetNAssert => exact execResetNAssert_keeps Keeps.rfl hx
  | resetNRelease ticks => exact execResetNRelease_keeps ticks Keeps.rfl hx
  | pllLockDone => exact execPllLockDone_keeps Keeps.rfl hx
  | startupPhase1Done copies banks => exact execStartupPhase1Done_keeps copies banks Keeps.rfl hx
  | imageCheck sfdp ext units readUs verifyUs => exact execImageCheck_keeps sfdp ext units readUs verifyUs Keeps.rfl hx
  | blocking units blockUs => exact execBlocking_keeps units blockUs Keeps.rfl hx
  | dramTraining rejected failed timeUs tj => exact execDramTraining_keeps rejected failed timeUs tj Keeps.rfl hx
  | codeStoreCheck => exact execCodeStoreCheck_keeps Keeps.rfl hx
  | startupPhase2Done conf pll freq vmon temp adc => exact execStartupPhase2Done_keeps conf pll freq vmon temp adc Keeps.rfl hx
  | triadRelease units => exact execTriadRelease_keeps units Keeps.rfl hx
  | sysSleep rq v => exact execSysSleep_keeps rq v Keeps.rfl hx
  | sysIpi rq v => exact execSysIpi_keeps rq v Keeps.rfl hx
  | manufactureToSecured rq key => exact execManufactureToSecured_keeps rq key Keeps.rfl hx
  | securedToRma rq => exact execSecuredToRma_keeps rq Keeps.rfl hx
  | scrap rq key => exact execScrap_keeps rq key Keeps.rfl hx
  | securedToFieldDebug rq => exact execSecuredToFieldDebug_keeps rq Keeps.rfl hx
  | sysLcChalRead rq => exact execSysLcChalRead_keeps rq Keeps.rfl hx
  | nvmProgramDone => exact execNvmProgramDone_keeps Keeps.rfl hx
  | codeProgramDone => exact execCodeProgramDone_keeps Keeps.rfl hx
  | evWrapClear rq => exact execEvWrapClear_keeps rq Keeps.rfl hx
  | retUeClear rq => exact execRetUeClear_keeps rq Keeps.rfl hx
  | clkLoss p => exact execClkLoss_keeps p Keeps.rfl hx
  | vmonTrip n win mv => exact execVmonTrip_keeps n win mv Keeps.rfl hx
  | vddAonBrownout => exact execVddAonBrownout_keeps Keeps.rfl hx
  | tempSample c0 c1 c2 c3 mesh serdes => exact execTempSample_keeps c0 c1 c2 c3 mesh serdes Keeps.rfl hx
  | i2cGo rq v => exact execI2cGo_keeps rq v Keeps.rfl hx
  | i2cDone data nack => exact execI2cDone_keeps data nack Keeps.rfl hx
  | gpioOutWrite rq v => exact execGpioOutWrite_keeps rq v Keeps.rfl hx
  | gpioInputChange n level => exact execGpioInputChange_keeps n level Keeps.rfl hx
  | mmioWrite rq off half v => exact execMmioWrite_keeps rq off half v Keeps.rfl hx
  | linkUp p m => exact execLinkUp_keeps p m Keeps.rfl hx
  | twinLaneFail lane => exact execTwinLaneFail_keeps lane Keeps.rfl hx
  | zhegusCrcError => exact execZhegusCrcError_keeps Keeps.rfl hx
  | twinAliveInToggle => exact execTwinAliveInToggle_keeps Keeps.rfl hx
  | ddrTempDerate ch refresh derated => exact execDdrTempDerate_keeps ch refresh derated Keeps.rfl hx
  | fulScheduledWake i => exact execFulScheduledWake_keeps i Keeps.rfl hx
  | suppliesRemoved => exact execSuppliesRemoved_keeps Keeps.rfl hx
  | otpProvisioning id keys wrap minSvn => exact execOtpProvisioning_keeps id keys wrap minSvn Keeps.rfl hx

/-- What a step keeps, but for the queue: the canonical forms of memory and registers, and the free values already drawn. -/
theorem step_keeps {s u : State} (hx : step s = .next u) : Keeps { s with pending := u.pending } u := by
  unfold step at hx
  split at hx
  · cases hx
    have h := State.idle_keeps (z := s) Keeps.rfl
    exact ⟨rfl, h.mem, h.regs, h.free⟩
  · have h := exec_keeps _ hx
    exact ⟨rfl, h.mem, h.regs, h.free⟩

/-- The queue after a step: what is left of it, or as it was where the device idled. -/
theorem step_pending {s u : State} (hx : step s = .next u) : u.pending = s.pending.tail := by
  unfold step at hx
  split at hx <;> rename_i hp
  · cases hx
    rw [(State.idle_keeps (z := s) Keeps.rfl).pending, hp]; rfl
  · rw [(exec_keeps _ hx).pending, hp]; rfl

end Sys2Proof.Machine
end

