-- ==== Sys2Proof/Laws/State.lean ====
section
/-!
SUPPORT. One lemma per field and update of the state: what a write of a register, of a byte, of a copy or of a triad leaves as it was, and what
it makes of the field it writes.
-/

namespace Sys2Proof.Machine

@[simp] theorem State.wr_regs (s : State) (r : Nat) (v : Word) : (s.wr r v).regs = SMap.put 0 s.regs r v := rfl
@[simp] theorem State.wr_mem (s : State) (r : Nat) (v : Word) : (s.wr r v).mem = s.mem := rfl
@[simp] theorem State.wr_copies (s : State) (r : Nat) (v : Word) : (s.wr r v).copies = s.copies := rfl
@[simp] theorem State.wr_triads (s : State) (r : Nat) (v : Word) : (s.wr r v).triads = s.triads := rfl
@[simp] theorem State.wr_detected (s : State) (r : Nat) (v : Word) : (s.wr r v).detected = s.detected := rfl
@[simp] theorem State.wr_mesh (s : State) (r : Nat) (v : Word) : (s.wr r v).mesh = s.mesh := rfl
@[simp] theorem State.wr_shadow (s : State) (r : Nat) (v : Word) : (s.wr r v).shadow = s.shadow := rfl
@[simp] theorem State.wr_xlt (s : State) (r : Nat) (v : Word) : (s.wr r v).xlt = s.xlt := rfl
@[simp] theorem State.wr_ctxs (s : State) (r : Nat) (v : Word) : (s.wr r v).ctxs = s.ctxs := rfl
@[simp] theorem State.wr_ful (s : State) (r : Nat) (v : Word) : (s.wr r v).ful = s.ful := rfl
@[simp] theorem State.wr_prot (s : State) (r : Nat) (v : Word) : (s.wr r v).prot = s.prot := rfl
@[simp] theorem State.wr_resv (s : State) (r : Nat) (v : Word) : (s.wr r v).resv = s.resv := rfl
@[simp] theorem State.wr_time (s : State) (r : Nat) (v : Word) : (s.wr r v).time = s.time := rfl
@[simp] theorem State.wr_eth (s : State) (r : Nat) (v : Word) : (s.wr r v).eth = s.eth := rfl
@[simp] theorem State.wr_dhp (s : State) (r : Nat) (v : Word) : (s.wr r v).dhp = s.dhp := rfl
@[simp] theorem State.wr_recd (s : State) (r : Nat) (v : Word) : (s.wr r v).recd = s.recd := rfl
@[simp] theorem State.wr_timeB (s : State) (r : Nat) (v : Word) : (s.wr r v).timeB = s.timeB := rfl
@[simp] theorem State.wr_twin (s : State) (r : Nat) (v : Word) : (s.wr r v).twin = s.twin := rfl
@[simp] theorem State.wr_pnc (s : State) (r : Nat) (v : Word) : (s.wr r v).pnc = s.pnc := rfl
@[simp] theorem State.wr_otp (s : State) (r : Nat) (v : Word) : (s.wr r v).otp = s.otp := rfl
@[simp] theorem State.wr_boot (s : State) (r : Nat) (v : Word) : (s.wr r v).boot = s.boot := rfl
@[simp] theorem State.wr_nvm (s : State) (r : Nat) (v : Word) : (s.wr r v).nvm = s.nvm := rfl
@[simp] theorem State.wr_hbx (s : State) (r : Nat) (v : Word) : (s.wr r v).hbx = s.hbx := rfl
@[simp] theorem State.wr_clk (s : State) (r : Nat) (v : Word) : (s.wr r v).clk = s.clk := rfl
@[simp] theorem State.wr_latent (s : State) (r : Nat) (v : Word) : (s.wr r v).latent = s.latent := rfl
@[simp] theorem State.wr_ticks (s : State) (r : Nat) (v : Word) : (s.wr r v).ticks = s.ticks := rfl
@[simp] theorem State.wr_free (s : State) (r : Nat) (v : Word) : (s.wr r v).free = s.free := rfl
@[simp] theorem State.wr_pending (s : State) (r : Nat) (v : Word) : (s.wr r v).pending = s.pending := rfl

@[simp] theorem State.setByte_regs (s : State) (a : Nat) (b : Byte) : (s.setByte a b).regs = s.regs := rfl
@[simp] theorem State.setByte_mem (s : State) (a : Nat) (b : Byte) : (s.setByte a b).mem = SMap.put memDefault s.mem a b := rfl
@[simp] theorem State.setByte_copies (s : State) (a : Nat) (b : Byte) : (s.setByte a b).copies = s.copies := rfl
@[simp] theorem State.setByte_triads (s : State) (a : Nat) (b : Byte) : (s.setByte a b).triads = s.triads := rfl
@[simp] theorem State.setByte_detected (s : State) (a : Nat) (b : Byte) : (s.setByte a b).detected = s.detected := rfl
@[simp] theorem State.setByte_mesh (s : State) (a : Nat) (b : Byte) : (s.setByte a b).mesh = s.mesh := rfl
@[simp] theorem State.setByte_shadow (s : State) (a : Nat) (b : Byte) : (s.setByte a b).shadow = s.shadow := rfl
@[simp] theorem State.setByte_xlt (s : State) (a : Nat) (b : Byte) : (s.setByte a b).xlt = s.xlt := rfl
@[simp] theorem State.setByte_ctxs (s : State) (a : Nat) (b : Byte) : (s.setByte a b).ctxs = s.ctxs := rfl
@[simp] theorem State.setByte_ful (s : State) (a : Nat) (b : Byte) : (s.setByte a b).ful = s.ful := rfl
@[simp] theorem State.setByte_prot (s : State) (a : Nat) (b : Byte) : (s.setByte a b).prot = s.prot := rfl
@[simp] theorem State.setByte_resv (s : State) (a : Nat) (b : Byte) : (s.setByte a b).resv = s.resv := rfl
@[simp] theorem State.setByte_time (s : State) (a : Nat) (b : Byte) : (s.setByte a b).time = s.time := rfl
@[simp] theorem State.setByte_eth (s : State) (a : Nat) (b : Byte) : (s.setByte a b).eth = s.eth := rfl
@[simp] theorem State.setByte_dhp (s : State) (a : Nat) (b : Byte) : (s.setByte a b).dhp = s.dhp := rfl
@[simp] theorem State.setByte_recd (s : State) (a : Nat) (b : Byte) : (s.setByte a b).recd = s.recd := rfl
@[simp] theorem State.setByte_timeB (s : State) (a : Nat) (b : Byte) : (s.setByte a b).timeB = s.timeB := rfl
@[simp] theorem State.setByte_twin (s : State) (a : Nat) (b : Byte) : (s.setByte a b).twin = s.twin := rfl
@[simp] theorem State.setByte_pnc (s : State) (a : Nat) (b : Byte) : (s.setByte a b).pnc = s.pnc := rfl
@[simp] theorem State.setByte_otp (s : State) (a : Nat) (b : Byte) : (s.setByte a b).otp = s.otp := rfl
@[simp] theorem State.setByte_boot (s : State) (a : Nat) (b : Byte) : (s.setByte a b).boot = s.boot := rfl
@[simp] theorem State.setByte_nvm (s : State) (a : Nat) (b : Byte) : (s.setByte a b).nvm = s.nvm := rfl
@[simp] theorem State.setByte_hbx (s : State) (a : Nat) (b : Byte) : (s.setByte a b).hbx = s.hbx := rfl
@[simp] theorem State.setByte_clk (s : State) (a : Nat) (b : Byte) : (s.setByte a b).clk = s.clk := rfl
@[simp] theorem State.setByte_latent (s : State) (a : Nat) (b : Byte) : (s.setByte a b).latent = s.latent := rfl
@[simp] theorem State.setByte_ticks (s : State) (a : Nat) (b : Byte) : (s.setByte a b).ticks = s.ticks := rfl
@[simp] theorem State.setByte_free (s : State) (a : Nat) (b : Byte) : (s.setByte a b).free = s.free := rfl
@[simp] theorem State.setByte_pending (s : State) (a : Nat) (b : Byte) : (s.setByte a b).pending = s.pending := rfl

@[simp] theorem State.setCopy_regs (s : State) (k : Nat) (c : Copy) : (s.setCopy k c).regs = s.regs := rfl
@[simp] theorem State.setCopy_mem (s : State) (k : Nat) (c : Copy) : (s.setCopy k c).mem = s.mem := rfl
@[simp] theorem State.setCopy_copies (s : State) (k : Nat) (c : Copy) : (s.setCopy k c).copies = SMap.put Copy.reset s.copies k c := rfl
@[simp] theorem State.setCopy_triads (s : State) (k : Nat) (c : Copy) : (s.setCopy k c).triads = s.triads := rfl
@[simp] theorem State.setCopy_detected (s : State) (k : Nat) (c : Copy) : (s.setCopy k c).detected = s.detected := rfl
@[simp] theorem State.setCopy_mesh (s : State) (k : Nat) (c : Copy) : (s.setCopy k c).mesh = s.mesh := rfl
@[simp] theorem State.setCopy_shadow (s : State) (k : Nat) (c : Copy) : (s.setCopy k c).shadow = s.shadow := rfl
@[simp] theorem State.setCopy_xlt (s : State) (k : Nat) (c : Copy) : (s.setCopy k c).xlt = s.xlt := rfl
@[simp] theorem State.setCopy_ctxs (s : State) (k : Nat) (c : Copy) : (s.setCopy k c).ctxs = s.ctxs := rfl
@[simp] theorem State.setCopy_ful (s : State) (k : Nat) (c : Copy) : (s.setCopy k c).ful = s.ful := rfl
@[simp] theorem State.setCopy_prot (s : State) (k : Nat) (c : Copy) : (s.setCopy k c).prot = s.prot := rfl
@[simp] theorem State.setCopy_resv (s : State) (k : Nat) (c : Copy) : (s.setCopy k c).resv = s.resv := rfl
@[simp] theorem State.setCopy_time (s : State) (k : Nat) (c : Copy) : (s.setCopy k c).time = s.time := rfl
@[simp] theorem State.setCopy_eth (s : State) (k : Nat) (c : Copy) : (s.setCopy k c).eth = s.eth := rfl
@[simp] theorem State.setCopy_dhp (s : State) (k : Nat) (c : Copy) : (s.setCopy k c).dhp = s.dhp := rfl
@[simp] theorem State.setCopy_recd (s : State) (k : Nat) (c : Copy) : (s.setCopy k c).recd = s.recd := rfl
@[simp] theorem State.setCopy_timeB (s : State) (k : Nat) (c : Copy) : (s.setCopy k c).timeB = s.timeB := rfl
@[simp] theorem State.setCopy_twin (s : State) (k : Nat) (c : Copy) : (s.setCopy k c).twin = s.twin := rfl
@[simp] theorem State.setCopy_pnc (s : State) (k : Nat) (c : Copy) : (s.setCopy k c).pnc = s.pnc := rfl
@[simp] theorem State.setCopy_otp (s : State) (k : Nat) (c : Copy) : (s.setCopy k c).otp = s.otp := rfl
@[simp] theorem State.setCopy_boot (s : State) (k : Nat) (c : Copy) : (s.setCopy k c).boot = s.boot := rfl
@[simp] theorem State.setCopy_nvm (s : State) (k : Nat) (c : Copy) : (s.setCopy k c).nvm = s.nvm := rfl
@[simp] theorem State.setCopy_hbx (s : State) (k : Nat) (c : Copy) : (s.setCopy k c).hbx = s.hbx := rfl
@[simp] theorem State.setCopy_clk (s : State) (k : Nat) (c : Copy) : (s.setCopy k c).clk = s.clk := rfl
@[simp] theorem State.setCopy_latent (s : State) (k : Nat) (c : Copy) : (s.setCopy k c).latent = s.latent := rfl
@[simp] theorem State.setCopy_ticks (s : State) (k : Nat) (c : Copy) : (s.setCopy k c).ticks = s.ticks := rfl
@[simp] theorem State.setCopy_free (s : State) (k : Nat) (c : Copy) : (s.setCopy k c).free = s.free := rfl
@[simp] theorem State.setCopy_pending (s : State) (k : Nat) (c : Copy) : (s.setCopy k c).pending = s.pending := rfl

@[simp] theorem State.modTriad_regs (s : State) (t : Nat) (f : Triad → Triad) : (s.modTriad t f).regs = s.regs := rfl
@[simp] theorem State.modTriad_mem (s : State) (t : Nat) (f : Triad → Triad) : (s.modTriad t f).mem = s.mem := rfl
@[simp] theorem State.modTriad_copies (s : State) (t : Nat) (f : Triad → Triad) : (s.modTriad t f).copies = s.copies := rfl
@[simp] theorem State.modTriad_triads (s : State) (t : Nat) (f : Triad → Triad) : (s.modTriad t f).triads = SMap.put Triad.reset s.triads t (f (s.triad t)) := rfl
@[simp] theorem State.modTriad_detected (s : State) (t : Nat) (f : Triad → Triad) : (s.modTriad t f).detected = s.detected := rfl
@[simp] theorem State.modTriad_mesh (s : State) (t : Nat) (f : Triad → Triad) : (s.modTriad t f).mesh = s.mesh := rfl
@[simp] theorem State.modTriad_shadow (s : State) (t : Nat) (f : Triad → Triad) : (s.modTriad t f).shadow = s.shadow := rfl
@[simp] theorem State.modTriad_xlt (s : State) (t : Nat) (f : Triad → Triad) : (s.modTriad t f).xlt = s.xlt := rfl
@[simp] theorem State.modTriad_ctxs (s : State) (t : Nat) (f : Triad → Triad) : (s.modTriad t f).ctxs = s.ctxs := rfl
@[simp] theorem State.modTriad_ful (s : State) (t : Nat) (f : Triad → Triad) : (s.modTriad t f).ful = s.ful := rfl
@[simp] theorem State.modTriad_prot (s : State) (t : Nat) (f : Triad → Triad) : (s.modTriad t f).prot = s.prot := rfl
@[simp] theorem State.modTriad_resv (s : State) (t : Nat) (f : Triad → Triad) : (s.modTriad t f).resv = s.resv := rfl
@[simp] theorem State.modTriad_time (s : State) (t : Nat) (f : Triad → Triad) : (s.modTriad t f).time = s.time := rfl
@[simp] theorem State.modTriad_eth (s : State) (t : Nat) (f : Triad → Triad) : (s.modTriad t f).eth = s.eth := rfl
@[simp] theorem State.modTriad_dhp (s : State) (t : Nat) (f : Triad → Triad) : (s.modTriad t f).dhp = s.dhp := rfl
@[simp] theorem State.modTriad_recd (s : State) (t : Nat) (f : Triad → Triad) : (s.modTriad t f).recd = s.recd := rfl
@[simp] theorem State.modTriad_timeB (s : State) (t : Nat) (f : Triad → Triad) : (s.modTriad t f).timeB = s.timeB := rfl
@[simp] theorem State.modTriad_twin (s : State) (t : Nat) (f : Triad → Triad) : (s.modTriad t f).twin = s.twin := rfl
@[simp] theorem State.modTriad_pnc (s : State) (t : Nat) (f : Triad → Triad) : (s.modTriad t f).pnc = s.pnc := rfl
@[simp] theorem State.modTriad_otp (s : State) (t : Nat) (f : Triad → Triad) : (s.modTriad t f).otp = s.otp := rfl
@[simp] theorem State.modTriad_boot (s : State) (t : Nat) (f : Triad → Triad) : (s.modTriad t f).boot = s.boot := rfl
@[simp] theorem State.modTriad_nvm (s : State) (t : Nat) (f : Triad → Triad) : (s.modTriad t f).nvm = s.nvm := rfl
@[simp] theorem State.modTriad_hbx (s : State) (t : Nat) (f : Triad → Triad) : (s.modTriad t f).hbx = s.hbx := rfl
@[simp] theorem State.modTriad_clk (s : State) (t : Nat) (f : Triad → Triad) : (s.modTriad t f).clk = s.clk := rfl
@[simp] theorem State.modTriad_latent (s : State) (t : Nat) (f : Triad → Triad) : (s.modTriad t f).latent = s.latent := rfl
@[simp] theorem State.modTriad_ticks (s : State) (t : Nat) (f : Triad → Triad) : (s.modTriad t f).ticks = s.ticks := rfl
@[simp] theorem State.modTriad_free (s : State) (t : Nat) (f : Triad → Triad) : (s.modTriad t f).free = s.free := rfl
@[simp] theorem State.modTriad_pending (s : State) (t : Nat) (f : Triad → Triad) : (s.modTriad t f).pending = s.pending := rfl

end Sys2Proof.Machine
end

