-- ==== Sys2Proof/WellFormed.lean ====
section
/-!
DEFINITION. Which commands are well formed: the conditions on a command's operands that their types do not say. A field that R90 makes
undefined is well formed: it raises UNDEF when it executes.
-/

namespace Sys2Proof

/-- A 32-bit instruction (R88). -/
def Guard.is32 : Guard → Bool
  | .c32 _ => true
  | .c16 _ => false

/-- The value fits a signed field of `n` bits. -/
def fits (n : Nat) {w : Nat} (v : BitVec w) : Bool := decide (-(2 ^ (n - 1) : Int) ≤ v.toInt ∧ v.toInt < 2 ^ (n - 1))

/-- The 16-bit forms MOV, CMP, ADD and SUB (R95). -/
def form16Add (fn : AddOp) (sf : Bool) (d a b : RegNo) : Bool :=
  match fn with
  | .add => !sf && (decide (b = 0) || decide (a = d))
  | .sub => if sf then decide (d = 0) else decide (a = d)
  | _ => false

/-- The 16-bit loads and stores use g30 and an unsigned 5-bit offset (R95). -/
def form16Access (a : RegNo) (imm : BitVec 9) : Bool := decide (a = 30) && decide (imm.toNat < 32)

/-- A command as the spec lets it be sent: an instruction of 16 bits has a form of the table "16-bit forms" (R95), COP and PATCH carry their
class, and the lengths and alignments of the other operands are those of their rules. -/
def Instr.wellFormed : Instr → Bool
  | .addAdcSubSbc _ g fn sf d a rb => g.is32 || form16Add fn sf d a rb
  | .andOrXorAndnOrn _ g fn sf d a _ => g.is32 || (decide (fn = .and) && !sf && decide (a = d))
  | .sllSrlSraRor _ g _ _ _ _ _ => g.is32
  | .minMaxMinuMaxu _ g _ _ _ _ _ => g.is32
  | .sextZext _ g _ _ _ _ _ => g.is32
  | .clzCtzPopcRev _ g _ _ _ _ _ => g.is32
  | .sltSltu _ g _ _ _ _ _ => g.is32
  | .addiAndiOriXori _ g fn d a imm => if g.is32 then fits 11 imm else decide (fn = .addi) && decide (a = d) && (fits 5 imm || (decide (d = 30) && decide (imm.toNat % 8 = 0)))
  | .shi _ g _ _ _ _ _ _ => g.is32
  | .cmpi _ g _ _ imm => g.is32 || fits 5 imm
  | .movi _ g _ imm => g.is32 || fits 5 imm
  | .movh _ g _ _ => g.is32
  | .mulMulhMulhu _ g _ _ _ _ => g.is32
  | .divDivuRemRemu _ g _ _ _ _ => g.is32
  | .faddFsubFmul _ g _ _ _ _ _ => g.is32
  | .fdiv _ g _ _ _ _ => g.is32
  | .fsqrt _ g _ _ _ _ => g.is32
  | .fminFmaxFnegFabs _ g _ _ _ _ _ => g.is32
  | .fcmp _ g _ _ _ _ => g.is32
  | .fcvt _ g _ _ _ _ _ => g.is32
  | .fmvGfFg _ g _ _ _ _ => g.is32
  | .fmaddFmsub _ g _ _ _ _ _ _ => g.is32
  | .ldLdu _ g uns size _ a imm => g.is32 || (form16Access a imm && (decide (size = 2) || (decide (size = 3) && !uns)))
  | .st _ g size _ a imm => g.is32 || (form16Access a imm && decide (2 ≤ size))
  | .fldFst _ g _ size _ a imm => g.is32 || (form16Access a imm && decide (size = 3))
  | .memxLoadStore _ g _ _ _ _ _ _ _ => g.is32
  | .ll _ g _ _ _ _ => g.is32
  | .sc _ g _ _ _ _ _ => g.is32
  | .amoswap _ g _ _ _ _ _ => g.is32
  | .amoadd _ g _ _ _ _ _ => g.is32
  | .amocas _ g _ _ _ _ _ => g.is32
  | .b _ g off => g.is32 || fits 12 off
  | .bl _ g _ => g.is32
  | .jalr _ g d _ imm => g.is32 || (decide (imm = 0) && (decide (d = 0) || decide (d = 31)))
  | .csrr _ g _ _ => g.is32
  | .csrw _ g _ _ => g.is32
  | .psrWrite _ g _ => g.is32
  | .agtimeRead _ g _ _ _ _ => g.is32
  | .ageventRead _ g _ _ _ _ => g.is32
  | .icinvVa _ g _ => g.is32
  | .icinvAll _ g _ => g.is32
  | .dcinvVa _ g _ => g.is32
  | .dccleanVa _ g _ => g.is32
  | .dccleanAll _ g _ => g.is32
  | .dcinvAll _ g _ => g.is32
  | .icSwset _ g _ => g.is32
  | .patchDataWrite _ g _ => g.is32
  | .trap _ g _ _ => g.is32
  | .eret _ g _ _ _ => g.is32
  | .wfi _ g => g.is32
  | .msync _ g _ _ _ => g.is32
  | .ibar _ g => g.is32
  | .dbar _ g => g.is32
  | .tlbwr _ g _ _ _ => g.is32
  | .tlbrdT _ g _ _ _ => g.is32
  | .tlbrdP _ g _ _ _ => g.is32
  | .tlbinvVa _ g _ _ => g.is32
  | .tlbinvAsid _ g _ => g.is32
  | .tlbinvAll _ g => g.is32
  | .tlbinvIdx _ g _ => g.is32
  | .cop _ word => decide (word.extractLsb' 0 2 = 3) && decide (word.extractLsb' 2 5 = 0x1E)
  | .patch _ word => decide (word.extractLsb' 0 2 = 3) && decide (word.extractLsb' 2 5 = 0x1F)
  | .instructionFetch _ => true
  | .iauAgreement _ => true
  | .interruptLatchSet _ _ _ => true
  | .timeCompare _ => true
  | .tagIssue _ => true
  | .meshRequest m => decide (1 ≤ m.len ∧ m.len ≤ 64 ∧ m.data < 2 ^ (8 * m.len))
  | .meshResponse _ => true
  | .tagRespTimeout _ _ _ => true
  | .meshVcStall => true
  | .fcruEvaluation => true
  | .escWindowExpire _ => true
  | .fcruWdogExpire => true
  | .fcruSwRaise _ _ => true
  | .globalLock _ => true
  | .logWrapClear _ => true
  | .pendClear _ _ _ => true
  | .matrixWrite _ _ _ => true
  | .matrixLock _ _ => true
  | .go _ _ => true
  | .resyncCopyDone _ => true
  | .resyncPause _ _ => true
  | .resyncRejoin _ => true
  | .arm _ _ _ => true
  | .msyncTimeout _ => true
  | .modeTransitionDone _ => true
  | .triInject _ _ _ => true
  | .triWdogKick _ _ _ => true
  | .watchdog _ => true
  | .triMismatchClear _ _ => true
  | .debugAttach _ => true
  | .gateRuleShadowWrite _ _ _ _ _ => true
  | .gateRuleCtlWrite _ _ _ _ => true
  | .lockAll _ _ => true
  | .gateDrain _ _ => true
  | .gateDrainComplete _ _ => true
  | .gateLogClr _ _ => true
  | .xltRootWrite _ _ _ => true
  | .xltAsidWrite _ _ _ => true
  | .xltRootLock _ _ => true
  | .fulWalk _ _ _ => true
  | .fulPacketAccept _ _ => true
  | .fulInstrComplete _ _ => true
  | .vi _ => true
  | .viM _ => true
  | .vf _ => true
  | .vfM _ => true
  | .vfma _ => true
  | .vfmaM _ => true
  | .vfnma _ => true
  | .vdot _ => true
  | .vcmp _ => true
  | .vcmpu _ => true
  | .vred _ => true
  | .vmask _ => true
  | .vmerge _ => true
  | .vmov _ => true
  | .vinvAll _ => true
  | .walkinv _ => true
  | .vld _ => true
  | .vldM _ => true
  | .vst _ => true
  | .vstM _ => true
  | .vsplat _ => true
  | .vslidedn _ => true
  | .strm _ => true
  | .vinvVa _ => true
  | .vinvAsid _ => true
  | .vsync _ => true
  | .vmvs _ => true
  | .vmpop _ => true
  | .vmfirst _ => true
  | .vgetvl _ => true
  | .vrdseq _ => true
  | .vshape _ => true
  | .streamChunk _ => true
  | .streamPrefetch _ _ => true
  | .fulWindowBoundary => true
  | .fulGapEnd _ => true
  | .fulWatchdog _ => true
  | .fulSliceGate _ => true
  | .fulSliceWakeDone _ => true
  | .fulPgCtlWrite _ _ => true
  | .fulEventPendClear _ _ _ => true
  | .clear _ _ => true
  | .fflagsClear _ _ _ => true
  | .checkLastClear _ _ => true
  | .spareWakeDone => true
  | .rotationCopyDone _ => true
  | .rotationMarchDone _ _ => true
  | .rotationClearDone _ => true
  | .memSsPwrWrite _ _ _ => true
  | .bankEnterLow _ => true
  | .bankWakeDone _ => true
  | .zodClearDone _ => true
  | .zodBackgroundClear => true
  | .ddrZodCtlWrite _ _ => true
  | .ddrZodProbeWrite _ _ => true
  | .ceWriteback _ => true
  | .mergeDrain _ => true
  | .remap _ _ => true
  | .edcCtlWrite _ _ => true
  | .edcLock _ => true
  | .logClr _ _ => true
  | .ueFirstClear _ _ => true
  | .edcInjArm _ _ => true
  | .firedClear _ => true
  | .scrubGo _ => true
  | .scrubAbort _ => true
  | .scrubUnit => true
  | .remapLock _ _ _ => true
  | .frameReceive f => decide (14 ≤ f.data.length)
  | .ringDescriptorVisible _ => true
  | .cbSeqRecovery _ => true
  | .linkDown _ _ _ => true
  | .preemptVerify _ _ _ => true
  | .admRingConsWrite _ _ _ => true
  | .admSringConsWrite _ _ _ => true
  | .admReqAdmit _ _ => true
  | .admReqWithdraw _ _ => true
  | .ethTxqTailWrite _ _ _ _ => true
  | .frameTransmit _ _ _ => true
  | .gclEntryAdvance _ => true
  | .change _ _ => true
  | .gclConfigChange _ => true
  | .install _ _ => true
  | .retire _ _ => true
  | .ping => true
  | .getState => true
  | .timeQuery => true
  | .admitFlow => true
  | .withdraw => true
  | .submitJob => true
  | .getResult => true
  | .releaseResult => true
  | .getProgress => true
  | .recFreeze => true
  | .recRead => true
  | .recRelease => true
  | .enterMaint => true
  | .imageWrite => true
  | .codeWrite => true
  | .resetReq => true
  | .handoverCommand => true
  | .resetReqReset => true
  | .dhpSessionClose _ => true
  | .jobDeadlineExpire _ => true
  | .dhpSlotDone _ _ _ => true
  | .dhpSlotProgWrite _ _ _ => true
  | .dhpJobqConsWrite _ _ _ => true
  | .recRecordWrite => true
  | .freeze _ => true
  | .release _ => true
  | .timeStep _ _ => true
  | .timeRateWrite _ _ => true
  | .timeNowRead _ => true
  | .servoReferenceEvent _ => true
  | .timeSourceLoss => true
  | .holdoverLimit => true
  | .tcxoCheck _ => true
  | .timeOutEdge _ _ => true
  | .timeOutCfgWrite _ _ _ => true
  | .timeInEdge _ _ _ => true
  | .timeInCapRead _ _ => true
  | .gptpSyncTransmit _ _ _ _ => true
  | .pdelayExchange _ _ _ => true
  | .gptpFrameReceive _ _ => true
  | .heartbeat _ _ => true
  | .heartbeatSend => true
  | .aliveToggle => true
  | .journal _ es => decide (es.length ≤ 7) && es.all fun e => decide (e.kind ≤ 2) && decide (e.pa.toNat % 32 = 0)
  | .bulk _ _ d => decide (1 ≤ d.length ∧ d.length ≤ 448)
  | .handoverFrame _ => true
  | .handoverAck _ => true
  | .config _ _ _ _ => true
  | .journalSend => true
  | .bulkSend => true
  | .zhegusRetransmit => true
  | .linkRetrainDone _ => true
  | .twinHbLoss => true
  | .sidebandLoss => true
  | .twinSafeIn => true
  | .takeover => true
  | .takeoverComplete => true
  | .handoverAckTimeout => true
  | .soloTimeout => true
  | .pounceSliceDue _ => true
  | .pounceRetry _ => true
  | .triadCheck _ => true
  | .arrayScanDone _ => true
  | .ssramBank => true
  | .crownBank => true
  | .tempTest => true
  | .vmonTest => true
  | .adcTest => true
  | .pll => true
  | .zhegusPrbs => true
  | .pounceSliceComplete _ _ => true
  | .pncRun _ _ => true
  | .halt _ _ => true
  | .mtGo _ => true
  | .pncFailLastClear _ => true
  | .vddAonPowerUp => true
  | .hbxLevelChange _ _ _ => true
  | .hbxSlowSample _ _ _ => true
  | .offMinExpire => true
  | .pmicTimeout _ => true
  | .pmicRetry => true
  | .pgoodRise _ _ => true
  | .pgoodFall _ => true
  | .resetNAssert => true
  | .resetNRelease _ => true
  | .pllLockDone => true
  | .startupPhase1Done _ _ => true
  | .imageCheck _ ext _ _ _ => match ext with | none => true | some d => decide (d.length ≤ 64 * 2 ^ 20)
  | .blocking _ _ => true
  | .dramTraining _ _ _ _ => true
  | .codeStoreCheck => true
  | .startupPhase2Done _ _ _ _ _ _ => true
  | .triadRelease _ => true
  | .sysSleep _ _ => true
  | .sysIpi _ _ => true
  | .manufactureToSecured _ _ => true
  | .securedToRma _ => true
  | .scrap _ _ => true
  | .securedToFieldDebug _ => true
  | .sysLcChalRead _ => true
  | .nvmProgramDone => true
  | .codeProgramDone => true
  | .evWrapClear _ => true
  | .retUeClear _ => true
  | .clkLoss _ => true
  | .vmonTrip _ _ _ => true
  | .vddAonBrownout => true
  | .tempSample _ _ _ _ _ _ => true
  | .i2cGo _ _ => true
  | .i2cDone _ _ => true
  | .gpioOutWrite _ _ => true
  | .gpioInputChange _ _ => true
  | .mmioWrite _ off half _ => decide (off.toNat % (if half then 4 else 8) = 0)
  | .linkUp _ _ => true
  | .twinLaneFail _ => true
  | .zhegusCrcError => true
  | .twinAliveInToggle => true
  | .ddrTempDerate _ _ _ => true
  | .fulScheduledWake _ => true
  | .suppliesRemoved => true
  | .otpProvisioning _ keys _ _ => decide (keys.length ≤ 4)

end Sys2Proof
end

