-- ==== Sys2Proof/Tests/Slice0.lean ====
section
/-! SUPPORT. The tests: single commands on small states whose expected results are worked out from the spec, the ill-formed terms that `Instr.wf` refuses, and for each statement of the obligations states and operands that meet its hypotheses. The theorems are checked one after the other, so that the memory that checking them takes stays small. -/

open Sys2Proof Sys2Proof.Machine

section
set_option Elab.async false

/-! ### States to test on -/

/-- The state after reset with these registers, by offset, and no other. -/
def tRegs (l : List (Nat × Word)) : State := { State.reset with regs := l.foldl (fun m e => SMap.put 0 m e.1 e.2) [] }

/-- The registers of rule 0 of the gate that guards the register at `off`: it lets everybody read and write everywhere. -/
def tGate (off : Nat) : List (Nat × Word) :=
  let g := gateOf (paMmio + off)
  [(Reg.gateRuleCtl g 0, 0xF), (Reg.gateRuleLimit g 0, 0xFFFFFFFFFC0), (Reg.gateRuleMask g 0, 0xFFFFFFFF)]

/-- A copy that runs at 0x1000, at MON. -/
def tCopy : Copy := { Copy.reset with status := .run, pc := 0x1000 }

/-- Triad 0 released in a mode, its three copies live and holding `c`, and these registers. -/
def tRun (mode : Nat) (c : Copy) (l : List (Nat × Word) := []) : State :=
  { tRegs ((Reg.triStatus 0, setBits (setBits 0 Reg.triStatus_MODE.lo 2 mode) Reg.triStatus_LIVE.lo 3 7) :: l) with
    triads := [(0, { Triad.reset with released := true })], copies := [(0, c), (1, c), (2, c)] }

/-- The triad 0, or its copy A. -/
def tWho : Who := ⟨0, .a⟩

/-- Copy C of triad 15. -/
def tWhoC : Who := ⟨15, .c⟩

/-- The condition AL. -/
def tAl : Guard := .c32 7

/-- The requester triad 3, and the recorder's highest neighbour. -/
def tRq : Rq := ⟨3, 3⟩

/-- What `f` reads of the state that a command leads to. -/
def tAfter {α : Type} (i : Instr) (s : State) (f : State → α) : Option α :=
  match exec i s with
  | .next t => some (f t)
  | _ => none

/-- No copy of the triad waits at a read of an agreed value, as a Bool. -/
def tNoAgree (s : State) (t : Nat) : Bool :=
  (s.executing t).all fun x => match (s.copy (copyIx t x)).status with
    | .agree _ => false
    | _ => true

theorem tNoAgree_spec {s : State} {t : Nat} (h : tNoAgree s t = true) (cls : Nat) : s.agreeing t cls = [] := by
  simp only [tNoAgree, List.all_eq_true] at h
  unfold State.agreeing
  split
  · refine List.filter_eq_nil_iff.mpr fun x hx hc => ?_
    have := h x hx
    rw [of_decide_eq_true hc] at this
    cases this
  · rfl

/-- What holds of the default and of every listed value holds of every value read. -/
theorem tGet_spec {α : Type} {d : α} {P : α → Prop} (hd : P d) {m : SMap α} (h : ∀ e ∈ m, P e.2) (i : Nat) : P (SMap.get d m i) := by
  induction m with
  | nil => exact hd
  | cons e r ih =>
    simp only [SMap.get]
    split
    · exact h e (by simp)
    · exact ih fun x hx => h x (by simp [hx])

/-- The copies are in lockstep, as a Bool. -/
def tLockstep (s : State) (w : Who) : Bool :=
  decide (s.runners w ≠ []) && decide (∀ c ∈ s.runners w, s.copy (copyIx w.t.val c) = s.lead w) && !bit (s.lead w).pc 0 &&
    decide (∀ c ∈ s.runners w, (s.copy (copyIx w.t.val c)).ue = [] ∧ (s.copy (copyIx w.t.val c)).ce = []) && decide (∀ e ∈ s.prot.valid, e.2 = 0 ∨ e.2 = 3) && decide ((s.lead w).fetchBad = none) &&
    decide (w.t.val ∉ s.latent.conf) && decide ((s.triad w.t.val).inject = none) && decide (s.tri w.t.val Reg.triStatus_RESYNC_PHASE ≠ 2) &&
    !s.inAccess w.t.val (fun x => decide (x = s.copyTag w)) && tNoAgree s w.t.val

theorem tLockstep_spec {s : State} {w : Who} (h : tLockstep s w = true) : Lockstep s w := by
  simp only [tLockstep, Bool.and_eq_true, decide_eq_true_eq, Bool.not_eq_true'] at h
  obtain ⟨⟨⟨⟨⟨⟨⟨⟨⟨⟨h1, h2⟩, h3⟩, h4⟩, h4'⟩, h5⟩, h6⟩, h7⟩, h8⟩, h9⟩, h10⟩ := h
  exact ⟨h1, h2, h3, fun c hc => ⟨(h4 c hc).1, (h4 c hc).2, fun _ => tGet_spec (P := fun x : Nat => x = 0 ∨ x = 3) (.inl rfl) h4' _⟩, h5, h6, h7, h8, h9, tNoAgree_spec h10⟩

theorem tReady_spec {s : State} {w : Who} {g : Guard} (h : (tLockstep s w && !g.undef && g.holds (s.lead w)) = true) : Ready s w g := by
  simp only [Bool.and_eq_true, Bool.not_eq_true'] at h
  exact { tLockstep_spec h.1.1 with defd := h.1.2, holds := h.2 }

theorem tSkips_spec {s : State} {w : Who} {g : Guard} (h : (tLockstep s w && !g.undef && !g.holds (s.lead w)) = true) : Skips s w g := by
  simp only [Bool.and_eq_true, Bool.not_eq_true'] at h
  exact { tLockstep_spec h.1.1 with defd := h.1.2, fails := h.2 }

/-! ### The machine as a whole -/

/-- Witness of `StepRunsFront`. -/
theorem wit_pending : ({ State.reset with pending := [.ping, .aliveToggle] } : State).pending = .ping :: [.aliveToggle] := rfl

/-- A command at the front of the queue runs, and the queue's rest stays. -/
theorem test_step_takes_front : step { State.reset with pending := [.meshVcStall, .ping] } = exec .meshVcStall { State.reset with pending := [.ping] } := rfl

/-- `EmptyQueueIdles`: a device with no power, and one with power whose TIME clock runs at no correction or does not run. -/
def tIdle : State := { tRegs [(Reg.sysState, setBits 0 Reg.sysState_OPSTATE.lo Reg.sysState_OPSTATE.len 3), (Reg.clkStatus, 0x100)] with boot := Boot.reset }
theorem wit_idle_stopped : (tRegs []).pending = [] ∧ (tRegs []).fget Reg.pncMtStat Reg.pncMtStat_STATE ≠ 1 ∧
    (tRegs []).powered = false := by decide
theorem wit_idle_runs : tIdle.pending = [] ∧ tIdle.fget Reg.pncMtStat Reg.pncMtStat_STATE ≠ 1 ∧ tIdle.powered = true ∧ bit (tIdle.rd Reg.clkStatus) 8 = true ∧
    tIdle.fget Reg.timeRate Reg.timeRate_PPB = 0 ∧ tIdle.time.frac < 65536000000000 ∧ tIdle.time.total < 2 ^ 48 ∧ (tIdle.fset Reg.clkStatus Reg.clkStatus_LOCK 0).powered = true ∧
    bit ((tIdle.fset Reg.clkStatus Reg.clkStatus_LOCK 0).rd Reg.clkStatus) 8 = false := by decide

/-- `StepKeepsCanonical` from a state with bytes written. -/
theorem wit_canonical : State.canonical { tIdle with mem := [(0x40010000000, 7)] } ∧ State.canonical (tRegs [(8, 5), (0, 3), (16, 0)]) := by
  unfold State.canonical; decide

/-! ### Which commands are well formed -/

theorem test_wf_16bit_add : (Instr.addAdcSubSbc tWho (.c16 false) .add false 3 3 4).wellFormed = true ∧
    (Instr.addAdcSubSbc tWho (.c16 false) .add false 3 4 5).wellFormed = false ∧ (Instr.addAdcSubSbc tWho (.c16 false) .adc false 3 3 4).wellFormed = false ∧
    (Instr.addAdcSubSbc tWho (.c16 false) .sub true 3 3 4).wellFormed = false := by decide
theorem test_wf_16bit_logic : (Instr.andOrXorAndnOrn tWho (.c16 true) .and false 3 3 4).wellFormed = true ∧
    (Instr.andOrXorAndnOrn tWho (.c16 true) .or false 3 3 4).wellFormed = false ∧ (Instr.sllSrlSraRor tWho (.c16 true) .sll false 3 3 4).wellFormed = false := by decide
theorem test_wf_addi_range : (Instr.addiAndiOriXori tWho tAl .addi 1 2 1023).wellFormed = true ∧ (Instr.addiAndiOriXori tWho tAl .addi 1 2 1024).wellFormed = false ∧
    (Instr.addiAndiOriXori tWho (.c16 false) .addi 2 2 16).wellFormed = false ∧ (Instr.addiAndiOriXori tWho (.c16 false) .addi 30 30 16).wellFormed = true ∧
    (Instr.addiAndiOriXori tWho (.c16 false) .ori 2 2 1).wellFormed = false := by decide
theorem test_wf_16bit_immediates : (Instr.cmpi tWho (.c16 false) 0 1 16).wellFormed = false ∧ (Instr.movi tWho (.c16 false) 1 16).wellFormed = false ∧
    (Instr.movi tWho (.c16 false) 1 0xFFF0).wellFormed = true ∧ (Instr.movh tWho (.c16 false) 1 0).wellFormed = false ∧
    (Instr.b tWho (.c16 false) 2048).wellFormed = false ∧ (Instr.bl tWho (.c16 false) 0).wellFormed = false := by decide
theorem test_wf_16bit_accesses : (Instr.ldLdu tWho (.c16 false) false 3 1 30 31).wellFormed = true ∧ (Instr.ldLdu tWho (.c16 false) false 3 1 29 31).wellFormed = false ∧
    (Instr.ldLdu tWho (.c16 false) false 3 1 30 32).wellFormed = false ∧ (Instr.st tWho (.c16 false) 1 1 30 0).wellFormed = false ∧
    (Instr.fldFst tWho (.c16 false) false 2 1 30 0).wellFormed = false ∧ (Instr.jalr tWho (.c16 false) 1 2 0).wellFormed = false := by decide
theorem test_wf_classes : (Instr.cop tWho 0xF000007B).wellFormed = true ∧ (Instr.cop tWho 0x7F).wellFormed = false ∧ (Instr.patch tWho 0x7F).wellFormed = true ∧
    (Instr.patch tWho 0x7B).wellFormed = false := by decide
theorem test_wf_operands : (Instr.meshRequest ⟨tRq, .read, .swap, 0, 0, 0, 0⟩).wellFormed = false ∧ (Instr.meshRequest ⟨tRq, .write, .swap, 0, 1, 256, 0⟩).wellFormed = false ∧
    (Instr.frameReceive ⟨0, 0, false, false, false, 0, List.replicate 13 0⟩).wellFormed = false ∧
    (Instr.journal ⟨0, 0, false, 0, 0, 0, 0⟩ [⟨3, 0, 0, 0, 0, 0⟩]).wellFormed = false ∧ (Instr.journal ⟨0, 0, false, 0, 0, 0, 0⟩ [⟨0, 16, 0, 0, 0, 0⟩]).wellFormed = false ∧
    (Instr.journal ⟨0, 0, false, 0, 0, 0, 0⟩ (List.replicate 8 ⟨0, 0, 0, 0, 0, 0⟩)).wellFormed = false ∧ (Instr.bulk ⟨0, 0, false, 0, 0, 0, 0⟩ 0 []).wellFormed = false ∧
    (Instr.mmioWrite tRq 4 false 0).wellFormed = false ∧ (Instr.mmioWrite tRq 4 true 0).wellFormed = true ∧ (Instr.mmioWrite tRq 2 true 0).wellFormed = false ∧
    (Instr.otpProvisioning 0 (List.replicate 5 0) 0 0).wellFormed = false := by decide
theorem test_wf_image_length : (Instr.imageCheck true none 0 0 0).wellFormed = true ∧ (Instr.imageCheck true (some []) 0 0 0).wellFormed = true := by decide

/-! ### Instructions -/

/-- The copies of a VOTE triad, the two of a PAIR triad and one copy of a SPLIT triad are ready, under AL, another condition and a carried one. -/
theorem wit_ready : Ready (tRun 0 tCopy) tWho tAl ∧ Ready (tRun 1 tCopy) tWho (.c32 8) ∧ Ready (tRun 2 tCopy) ⟨0, .c⟩ (.c16 false) :=
  ⟨tReady_spec (by decide), tReady_spec (by decide), tReady_spec (by decide)⟩
/-- A condition that does not hold, and a carried one. -/
theorem wit_skips : Skips (tRun 0 tCopy) tWho (.c32 0) ∧ Skips (tRun 2 { tCopy with psr := 0x200 }) tWho (.c16 true) := ⟨tSkips_spec (by decide), tSkips_spec (by decide)⟩

/-- `UndefinedAndFalseConditions`: the code 0xF; a reserved field under a false condition at the last free frame; COP with none that waits. -/
theorem wit_undefined : Lockstep (tRun 0 { tCopy with icStk := 31 * 2 ^ 16 }) tWho ∧ ((tRun 0 { tCopy with icStk := 31 * 2 ^ 16 }).lead tWho).depth < 32 ∧
    (Instr.sextZext tWho (.c32 0) .sextb false 1 2 1).guard = some (tWho, .c32 0) ∧ ((Guard.c32 0).undef || (Instr.sextZext tWho (.c32 0) .sextb false 1 2 1).reserved) = true ∧
    (Instr.cop tWho 0xF000007B).guard = some (tWho, .c32 0xF) ∧ (Guard.c32 0xF).undef = true ∧ (tRun 0 tCopy).copWaiters tWho = [] :=
  ⟨tLockstep_spec (by decide), by decide⟩
theorem wit_false_condition : (Instr.wfi tWho (.c32 0)).guard = some (tWho, .c32 0) ∧ (Instr.wfi tWho (.c32 0)).isBranch = false ∧
    (Instr.wfi tWho (.c32 0)).reserved = false ∧ Skips (tRun 0 tCopy) tWho (.c32 0) := ⟨rfl, rfl, rfl, tSkips_spec (by decide)⟩

/-- `TrapEntryAndReturn`: a frame to return to in each copy, the same in all, and nothing that would preempt. -/
def tEret : State := tRun 0 { tCopy with icStk := 1 * 2 ^ 16 }
theorem wit_eret : Ready tEret tWho tAl ∧ (tEret.lead tWho).priv ≠ 0 ∧ (tEret.lead tWho).depth ≠ 0 ∧
    (∀ c ∈ tEret.runners tWho, (List.range 16).map (fun i => tEret.tcmRead (copyIx tWho.t.val c) ((tEret.lead tWho).frameOff ((tEret.lead tWho).depth - 1) + 8 * i)) =
      List.replicate 16 0) ∧ ∀ c ∈ tEret.runners tWho, tEret.chainCandidate (copyIx tWho.t.val c) = none := ⟨tReady_spec (by decide), by decide +kernel⟩

/-- `WaitBarriersAndMsync`: at USR; with a write outstanding; while a resynchronisation runs; with an armed request in DEBUG_SPLIT. -/
def tFlight : Flight := ⟨0, 0, 0, 0, true, false, ⟨⟨0, 3⟩, .write, .swap, 0, 32, 0, 0⟩, ⟨.ok, 0⟩, false⟩
def tOut : State := { tRun 0 tCopy with mesh := { Mesh.reset with flights := [tFlight] } }
theorem wit_wait : Ready (tRun 0 { tCopy with psr := 0x70 }) tWho tAl ∧ ((tRun 0 { tCopy with psr := 0x70 }).lead tWho).priv = 0 ∧
    Ready tOut tWho tAl ∧ tOut.outstanding tWho = true ∧ (tRun 0 tCopy).outstanding tWho = false ∧ ((tRun 0 tCopy).lead tWho).priv ≠ 0 :=
  ⟨tReady_spec (by decide), by decide, tReady_spec (by decide), by decide, by decide, by decide⟩
def tResync : State := (tRun 0 tCopy).fset (Reg.triStatus 0) Reg.triStatus_RESYNC_BUSY 1
def tArmed : State := tRun 3 tCopy [(Reg.triModeReq 0, setBits 0 Reg.triModeReq_ARM.lo Reg.triModeReq_ARM.len 1)]
theorem wit_msync : Ready tResync tWho tAl ∧ tResync.resyncBusy 0 = true ∧ Ready tArmed tWho tAl ∧ tArmed.resyncBusy 0 = false ∧
    tArmed.fget (Reg.triModeReq 0) Reg.triModeReq_ARM = 1 ∧ tArmed.mode 0 = 3 ∧ (tRun 0 tCopy).fget (Reg.triModeReq 0) Reg.triModeReq_ARM = 0 :=
  ⟨tReady_spec (by decide), by decide, tReady_spec (by decide), by decide⟩

/-- ADD sets Z and C on a wrap to zero (R93). -/
theorem test_add_wraps : tAfter (.addAdcSubSbc tWho tAl .add true 3 1 2) (tRun 0 { tCopy with g := [(1, 0xFFFFFFFFFFFFFFFF), (2, 1)] })
    (fun t => ((t.copy 2).reg 3, (t.copy 2).flags)) = some (0, ⟨false, true, true, false⟩) := by decide
/-- SUB of the smallest number from 1 overflows, with a borrow (R93). -/
theorem test_sub_overflows : tAfter (.addAdcSubSbc tWho tAl .sub true 3 1 2) (tRun 0 { tCopy with g := [(1, 1), (2, 0x8000000000000000)] })
    (fun t => ((t.copy 0).reg 3, (t.copy 0).flags)) = some (0x8000000000000001, ⟨true, false, false, true⟩) := by decide
/-- ANDN with the destination among the operands (R94). -/
theorem test_andn : tAfter (.andOrXorAndnOrn tWho tAl .andn false 1 1 2) (tRun 0 { tCopy with g := [(1, 0xFF), (2, 0x0F)] }) (fun t => (t.copy 1).reg 1) = some 0xF0 := by decide
/-- A rotate by one brings bit 0 to bit 63 (R94). -/
theorem test_ror : tAfter (.shi tWho tAl .ror false 1 2 1 0) (tRun 0 { tCopy with g := [(2, 1)] }) (fun t => (t.copy 0).reg 1) = some 0x8000000000000000 := by decide
/-- DIV by zero gives all ones, REM the dividend (R94). -/
theorem test_div_by_zero : tAfter (.divDivuRemRemu tWho tAl .div 1 2 0) (tRun 0 { tCopy with g := [(2, 5)] }) (fun t => (t.copy 0).reg 1) = some 0xFFFFFFFFFFFFFFFF ∧
    tAfter (.divDivuRemRemu tWho tAl .rem 1 2 0) (tRun 0 { tCopy with g := [(2, 5)] }) (fun t => (t.copy 0).reg 1) = some 5 := by decide
/-- A write to g0 is discarded (R84). -/
theorem test_g0 : tAfter (.movi tWho tAl 0 5) (tRun 0 tCopy) (fun t => (t.copy 0).reg 0) = some 0 := by decide
/-- 1 + 1 = 2 in binary32; the upper half is cleared (R85, R111). -/
theorem test_fadd : tAfter (.faddFsubFmul tWho tAl .fadd false 1 2 2) (tRun 0 { tCopy with f := [(2, 0xFFFFFFFF3F800000)] }) (fun t => (t.copy 0).freg 1) = some 0x40000000 := by decide
/-- BL goes to PC + 2 × off and links the address after it; a taken branch that the buffer misses costs 2 cycles (R94, R123). -/
theorem test_bl : tAfter (.bl tWho tAl 4) (tRun 0 tCopy) (fun t => ((t.copy 0).pc, (t.copy 0).reg 31, (t.copy 0).cycle)) = some (0x1008, 0x1004, 2) := by decide
/-- TRAP stacks the address after it and counts the frame (R108, R139). -/
theorem test_trap : tAfter (.trap tWho tAl 0 9) (tRun 0 tCopy) (fun t => (t.tcmRead 1 0, (t.copy 1).depth, (t.copy 1).cause)) = some (0x1004, 1, 9 * 512 + 3) := by decide +kernel

/-! ### Words that spell instructions (R89, R94, R95), each written out field by field from the layouts -/

theorem test_word_add : decode32 tWho 0b0111_1_00000_00010_00001_00011_00000_11 = some (.addAdcSubSbc tWho tAl .add true 3 1 2) := by decide
theorem test_word_addi : decode32 tWho 0b0111_11111111111_00001_00011_00001_11 = some (.addiAndiOriXori tWho tAl .addi 3 1 0x1FFF) := by decide
theorem test_word_shi : decode32 tWho 0b0111_00_1_10_000101_00001_00011_00101_11 = some (.shi tWho tAl .sra true 3 1 5 0) := by decide
theorem test_word_movh : decode32 tWho 0b1000_1000000000000001_11111_01000_11 = some (.movh tWho (.c32 8) 31 0x8001) := by decide
theorem test_word_rem : decode32 tWho 0b0111_000110_00010_00001_00011_01001_11 = some (.divDivuRemRemu tWho tAl .rem 3 1 2) := by decide
theorem test_word_fsub : decode32 tWho 0b0111_1_00001_00010_00001_00011_01010_11 = some (.faddFsubFmul tWho tAl .fsub true 3 1 2) := by decide
theorem test_word_fmsub : decode32 tWho 0b0111_0_00100_00010_00001_00011_01100_11 = some (.fmaddFmsub tWho tAl true false 3 1 2 4) := by decide
theorem test_word_ldu : decode32 tWho 0b0111_111111_111_10_00001_00011_01110_11 = some (.ldLdu tWho tAl true 2 3 1 0x1FF) := by decide
theorem test_word_b : decode32 tWho 0b0000_111111111111111111110_10100_11 = some (.b tWho (.c32 0) 0x1FFFFE) := by decide
theorem test_word_eret : decode32 tWho 0b0111_000001_00000_00000_00000_11000_11 = some (.eret tWho tAl 0 0 0) ∧ decode32 tWho 0b0111_000001_00000_00001_00000_11000_11 = none := by decide
/-- A reserved class, the condition 0xF, and an LDU of eight bytes spell nothing (R90). -/
theorem test_word_undefined : decode32 tWho 0b0111_000000_00000_00000_00000_11001_11 = none ∧ decode32 tWho 0b1111_0_00000_00010_00001_00011_00000_11 = none ∧
    decode32 tWho 0b0111_000000_000_11_00001_00011_01110_11 = none := by decide
/-- The canonical no-operation is MOV g0, g1 (R95). -/
theorem test_word_nop : decode16 tWho 0x0400 = some (.addAdcSubSbc tWho (.c16 false) .add false 0 1 0) := by decide
theorem test_word_std : decode16 tWho 0b1_11111_00011_100_01 = some (.st tWho (.c16 true) 3 3 30 31) ∧ decode16 tWho 0b0_00000_00000_111_01 = none := by decide
theorem test_word_b16 : decode16 tWho 0b0_111111111110_0_10 = some (.b tWho (.c16 false) 0x1FFFFE) := by decide
theorem test_word_addsp : decode16 tWho 0b0_1111111111_101_10 = some (.addiAndiOriXori tWho (.c16 false) .addi 30 30 0x1FF8) := by decide

/-! ### Loads, stores, traps, CSRs, caches and the TLB -/

/-- An entry for page 1 that maps it to `pa`, with these low bits of the PTE (V R W X U, A, D, memory type). -/
def tPage (pa : Nat) (low : Nat) : TlbEntry := { v := true, lock := false, pin := false, size := 0, vpn := 1, asid := 0, pte := BitVec.ofNat 64 (pa / 4096 * 4096 + low) }
/-- A copy that runs with page 1 mapped so, and g1 = 0x1008. -/
def tMapped (pa low : Nat) : Copy := { tCopy with tlb := [(0, tPage pa low)], g := [(1, 0x1008), (2, 0x55)] }

theorem wit_own_tcm : Ready (tRun 0 (tMapped paSelf 0xDF)) tWho tAl ∧ (Instr.st tWho tAl 3 2 1 0).guard = some (tWho, tAl) ∧ (Instr.st tWho tAl 3 2 1 0).reserved = false ∧
    accessOf (.st tWho tAl 3 2 1 0) ((tRun 0 (tMapped paSelf 0xDF)).lead tWho) = some (storeAcc 3 0x55, 0x1008) ∧
    ((tRun 0 (tMapped paSelf 0xDF)).lead tWho).plan .store 0x1008 8 = .ok [⟨0x1008, paSelf + 8, 8, 0, 0, .tcm⟩] ∧
    accessOf (.ldLdu tWho tAl true 0 0 1 0x1F9) ((tRun 0 (tMapped paSelf 0xDF)).lead tWho) = some (loadAcc 0 false false 0, 0x1001) ∧
    ((tRun 0 (tMapped paSelf 0xDF)).lead tWho).plan .load 0x1001 1 = .ok [⟨0x1001, paSelf + 1, 1, 0, 0, .tcm⟩] :=
  ⟨tReady_spec (by decide +kernel), rfl, rfl, by decide +kernel⟩

/-- An atomic on Stream SRAM through an open gate, with a free tag. -/
def tExt : State := tRun 0 (tMapped paStream 0xDF) [(Reg.gateRuleCtl 1 0, 0xF), (Reg.gateRuleLimit 1 0, 0xFFFFFFFFFC0), (Reg.gateRuleMask 1 0, 0xFFFFFFFF),
  (Reg.sysTagq 0, setBits (setBits 0 Reg.sysTagq_MAX.lo Reg.sysTagq_MAX.len 4) Reg.sysTagq_MIN.lo Reg.sysTagq_MIN.len 4)]
theorem wit_external : Ready tExt tWho tAl ∧ accessOf (.amoswap tWho tAl 3 false 4 1 2) (tExt.lead tWho) = some (atomAcc .swap 3 0x55 0 4, 0x1008) ∧
    (tExt.lead tWho).plan (.atom .swap) 0x1008 8 = .ok [⟨0x1008, paStream + 8, 8, 0, 0, .plain⟩] ∧
    tExt.unblocked tWho (atomAcc .swap 3 0x55 0 4) ⟨0x1008, paStream + 8, 8, 0, 0, .plain⟩ ∧
    (tExt.serve (tExt.accessReq tWho (atomAcc .swap 3 0x55 0 4) ⟨0x1008, paStream + 8, 8, 0, 0, .plain⟩)).1.status = .ok :=
  ⟨tReady_spec (by decide +kernel), by unfold State.unblocked; decide +kernel⟩

/-- A misaligned atomic, a missing entry, a page without W, and one without D. -/
theorem wit_access_traps : (0x1009 : Word).toNat % 8 ≠ 0 ∧ tCopy.tlbFind (va48 0x1008) = none ∧ (0x1008 : Word).toNat % 2 ^ 3 = 0 ∧
    (tMapped paSelf 0xD3).tlbFind (va48 0x1008) = some 0 ∧ (pteW ((tMapped paSelf 0xD3).tlbAt 0).pte && true) = false ∧
    (pteR ((tMapped paSelf 0x51).tlbAt 0).pte && true) = false ∧
    (pteW ((tMapped paSelf 0x57).tlbAt 0).pte && true) = true ∧ pteD ((tMapped paSelf 0x57).tlbAt 0).pte = false ∧
    accessOf (.st tWho tAl 3 2 1 0) ((tRun 0 (tMapped paSelf 0x57)).lead tWho) = some (storeAcc 3 0x55, 0x1008) ∧
    ((tRun 0 (tMapped paSelf 0x57)).lead tWho).plan .store 0x1008 8 = .error (trapAt cDIRTY 0x1008 true) ∧ Ready (tRun 0 (tMapped paSelf 0x57)) tWho tAl :=
  ⟨by decide, by decide +kernel, by decide, by decide +kernel, by decide, by decide, by decide, by decide, by decide +kernel, by decide +kernel, tReady_spec (by decide +kernel)⟩

/-- A store writes each copy's own TCM, little-endian (R49, log entry 5). -/
theorem test_store_tcm : tAfter (.st tWho tAl 1 2 1 0) (tRun 0 { tMapped paSelf 0xDF with g := [(1, 0x1008), (2, 0x1234)] })
    (fun t => (t.byte (tcmAddr 1 8), t.byte (tcmAddr 2 9), t.byte (tcmAddr 0 10))) = some (0x34, 0x12, 0) := by decide +kernel
/-- A loaded byte, sign-extended, stays pending (R96). -/
theorem test_load_pends : tAfter (.ldLdu tWho tAl false 0 5 1 0) { tRun 0 (tMapped paSelf 0xDF) with mem := [(tcmAddr 0 8, 0x80), (tcmAddr 1 8, 0x80), (tcmAddr 2 8, 0x80)] }
    (fun t => ((t.copy 0).pend, (t.copy 0).reg 5)) = some (some (false, 5, 0xFFFFFFFFFFFFFF80), 0) := by decide +kernel
/-- AMOSWAP returns the old value and stores the new one (R105). -/
theorem test_amoswap : tAfter (.amoswap tWho tAl 2 false 4 1 2) { tExt with mem := [(paStream + 8, 9)] } (fun t => ((t.copy 0).pend, t.byte (paStream + 8))) =
    some (some (false, 4, 9), 0x55) := by decide +kernel

/-- CSR accesses at USR, SUP and MON; PSR writes that keep the level, and one at SUP that would raise it. -/
theorem wit_csr : ((tRun 0 tCopy).lead tWho).priv = 2 ∧ ((tRun 0 { tCopy with psr := 0x70 }).lead tWho).priv = 0 ∧
    (let c : Copy := { tCopy with psr := 0x170, g := [(1, 0x200)] }
     Ready (tRun 0 c) tWho tAl ∧ ((tRun 0 c).lead tWho).priv = 1 ∧ bits (((tRun 0 c).lead tWho).reg 1) 8 2 = 2 ∧ bits (((tRun 0 c).lead tWho).reg 0) 8 2 ≤ 1) :=
  ⟨by decide, by decide, tReady_spec (by decide +kernel), by decide +kernel⟩
/-- COREID of triad 0 in VOTE mode has 3 as copy (R57). -/
theorem test_coreid : tAfter (.csrr tWho tAl 1 0x002) (tRun 0 tCopy) (fun t => (t.copy 1).reg 1) = some 3 := by decide

/-- An instruction line that is locked, a dirty data line, a line that no cache holds and an address without an entry. -/
def tCached : Copy := { tMapped paStream 0xDF with icache := [(cacheKey (iSet ((paStream + 8) / 32)) 0, ⟨true, true, (paStream + 8) / 32, 0, 0⟩)],
                                                   dcache := [(cacheKey (dSet ((paStream + 8) / 64)) 0, ⟨true, true, (paStream + 8) / 64, 0, 0⟩)] }
theorem wit_caches : Ready (tRun 0 tCached) tWho tAl ∧ ((tRun 0 tCached).lead tWho).priv = 2 ∧
    tCached.xlate (tCached.reg 1) = some (0, (tPage paStream 0xDF).pte, paStream + 8) ∧ (tCached.iHit (paStream + 8)).isSome = true ∧ (tCached.dHit (paStream + 8)).isSome = true ∧
    (tMapped paStream 0xDF).dHit (paStream + 8) = none ∧ tCached.xlate (tCached.reg 0) = none :=
  ⟨tReady_spec (by decide +kernel), by decide +kernel⟩

/-- TLBWR of a well-formed leaf over an entry that it overlaps; TLBINV.IDX of a locked entry at MON; at USR. -/
theorem wit_tlb : (tMapped paStream 0xDF).tlbwrTrap 0x1000 0xDF 0x41 = none ∧ (tMapped paStream 0xDF).tlbwrTrap 0x1000 0xDF 0 = none ∧
    (∃ i < 64, ((tMapped paStream 0xDF).tlbAt i).lock = false) ∧ ((tMapped paStream 0xDF).tlbAt 0).overlaps (tlbwrEntry 0x1000 0xDF 0 false) = true ∧
    (({ tCopy with tlb := [(63, { tPage paSelf 0xDF with lock := true })] } : Copy).tlbAt 63).pin = false ∧
    (({ tCopy with tlb := [(63, { tPage paSelf 0xDF with lock := true })] } : Copy).tlbAt 63).lock = true :=
  ⟨by decide +kernel, by decide +kernel, ⟨0, by decide⟩, by decide +kernel, by decide, by decide⟩
/-- TLBWR displaces the entry that it overlaps (R158). -/
theorem test_tlbwr : tAfter (.tlbwr tWho tAl 3 1 2) (tRun 0 { tMapped paStream 0xDF with g := [(1, 0x1000), (2, 0xDF), (3, 0x41)] })
    (fun t => (((t.copy 0).tlbAt 0).v, ((t.copy 0).tlbAt 1).v)) = some (false, true) := by decide +kernel

/-! ### Agreement, interrupts, coprocessor, patch and fetch -/

theorem wit_samples : (some 1 : Option Nat) ≠ some 2 ∧ (some 2 : Option Nat) ≠ none ∧ (some 1 : Option Nat) ≠ none ∧ (3 : Nat) ≤ 3 ∧ (3 : Nat) ≤ 7 ∧ (7 : Nat) ≤ 3 + 4 := by decide
/-- One time sample is beyond the window of the other two (R63). -/
theorem test_agree_time : (agreeTime 4 [(0, 100), (1, 102), (2, 200)]).value = some 100 ∧ (agreeTime 4 [(0, 0), (1, 5)]).value = none := by decide
theorem wit_agreed : Ready (tRun 2 tCopy) ⟨0, .c⟩ tAl ∧ (tRun 2 tCopy).groupMode 0 = false ∧ Ready (tRun 0 tCopy) tWho tAl ∧ (tRun 0 tCopy).groupMode 0 = true ∧
    ((tRun 0 tCopy).valueAgreement 0 3 (pick3 1 2 3)).1 = none ∧ ((tRun 0 tCopy).valueAgreement 0 3 (pick3 1 2 2)).1 = some 2 ∧
    Ready ((tRun 0 tCopy).valueAgreement 0 3 (pick3 1 2 2)).2 tWho tAl ∧ ((tRun 0 tCopy).timeAgreement 0 (pick3 1 1 1)).1 = some 1 ∧
    Ready ((tRun 0 tCopy).timeAgreement 0 (pick3 1 1 1)).2 tWho tAl ∧ ((tRun 0 tCopy).timeAgreement 0 (pick3 1 100 300)).1 = none :=
  ⟨tReady_spec (by decide +kernel), by decide, tReady_spec (by decide +kernel), by decide, by decide +kernel, by decide +kernel, tReady_spec (by decide +kernel), by decide +kernel,
    tReady_spec (by decide +kernel), by decide +kernel⟩

/-- A SPLIT copy with source 64 pending, enabled and at level 5, and with interrupts enabled. -/
def tIrq : Copy := { tCopy with psr := 0x670, icEn := [(1, 1)], icLvl := [(8, 5)] }.setLatch 64
theorem wit_interrupt : (tRun 2 tIrq).triadRuns 0 = true ∧ (tRun 2 tIrq).groupMode 0 = false ∧ (tRun 2 tIrq).live 0 2 = true ∧ ((tRun 2 tIrq).copy 2).status = .run ∧
    ((tRun 2 tIrq).copy 2).pend = none ∧ ((tRun 2 tIrq).copy 2).slot = false ∧ (tRun 2 tIrq).sound 2 ∧ ((tRun 2 tIrq).copy 2).depth < 32 ∧ (tRun 2 tIrq).inAccess 0 (fun y => decide (y = 2)) = false ∧
    ((tRun 2 tIrq).triad 0).inject = none ∧ (tRun 2 tIrq).tri 0 Reg.triStatus_RESYNC_PHASE ≠ 2 ∧
    ((tRun 2 tIrq).copy 2).candidate = some (64, 5) ∧ ((tRun 2 tIrq).copy 2).takes 5 = true ∧ ((tRun 2 tCopy).copy 2).candidate = none :=
  ⟨by decide +kernel, by decide +kernel, by decide +kernel, by decide +kernel, by decide +kernel, by decide +kernel,
    ⟨by decide +kernel, by decide +kernel, fun _ => .inl rfl⟩, by decide +kernel⟩
/-- A reserved source is never pending; a listed one reaches the copies named (R134). -/
theorem test_latches : tAfter (.interruptLatchSet 240 1 7) (tRun 0 tCopy) (fun t => (t.copy 0).latch 240) = some false ∧
    tAfter (.interruptLatchSet 239 1 4) (tRun 0 tCopy) (fun t => ((t.copy 0).latch 239, (t.copy 2).latch 239)) = some (false, true) := by decide +kernel

/-- Context 3 bound to triad 0, and a copy that waits for its value. -/
def tBind : List (Nat × Word) := [(Reg.fulCBind 3, setBits (setBits 0 Reg.fulCBind_TRIAD.lo Reg.fulCBind_TRIAD.len 0) Reg.fulCBind_VALID.lo Reg.fulCBind_VALID.len 1)]
def tCop : Copy := { tCopy with fctx := 3 }
def tCopWait : State := { tRun 2 { tCop with status := .cop } tBind with copies := [(0, { tCop with status := .cop })], ctxs := [(3, { Ctx.reset with ret := [(0, 7)] })] }
theorem wit_cop : Ready (tRun 0 tCop tBind) tWho (.c32 (wCond 0x7000007B)) ∧ (tRun 0 tCop tBind).copWaiters tWho = [] ∧ (tRun 0 tCop tBind).boundTo 3 0 = true ∧
    ((tRun 0 tCop tBind).ctx 3).queue.length + ((tRun 0 tCop tBind).ctx 3).crossing.length < 16 ∧ (tRun 0 tCopy).boundTo 0 0 = false ∧
    tCopWait.copWaiters tWho = [0] ∧ tCopWait.groupMode 0 = false ∧ (tCopWait.triad 0).inject = none ∧ bit (tCopWait.copy 0).pc 0 = false ∧ (tCopWait.copy 0).ue = [] ∧
    (tCopWait.copy 0).fetchBad = none ∧ (Guard.c32 (wCond 0x7000007B)).undef = false ∧ (tCopWait.ctx 3).ret = (0, 7) :: [] :=
  ⟨tReady_spec (by decide +kernel), by decide +kernel⟩

/-- An entry of the patch table with one ADDI, and an inactive table. -/
def tPatch : State := { tRun 0 tCopy [(Reg.sysState, setBits 0 Reg.sysState_OPSTATE.lo Reg.sysState_OPSTATE.len 2)] with
  triads := [(0, { Triad.reset with released := true, patch := [(0, 0x7000F187), (8, 8)] })] }
theorem wit_patch : Ready tPatch tWho (.c32 (wCond 0x7000007F)) ∧ tPatch.patchActive = true ∧ bit ((tPatch.triad 0).patchHeader 0) 3 = true ∧
    (tPatch.triad 0).patchOps 0 ((tPatch.triad 0).patchHeader 0) = [0x7000F187] ∧ (tRun 0 tCopy).patchActive = false ∧ bit (tPatch.triad 0).patchIdx 7 = false :=
  ⟨tReady_spec (by decide +kernel), by decide +kernel⟩
theorem wit_patch_ops : (uopAct 0x7000F187 (fun _ => 0) (tPatch.lead tWho)).isSome = true ∧
    (runUops 0 0 0 none [0x7000F187] (UState.init (tPatch.lead tWho))).mem = none := ⟨rfl, rfl⟩

/-- A line of the copy's own TCM, one that the instruction cache holds, and one without an entry. -/
theorem wit_fetch : Lockstep (tRun 0 (tMapped paSelf 0xCF)) tWho ∧ ((tRun 0 (tMapped paSelf 0xCF)).lead tWho).fCur = FLine.empty ∧
    ((tRun 0 (tMapped paSelf 0xCF)).lead tWho).fNext = FLine.empty ∧ ((tRun 0 (tMapped paSelf 0xCF)).lead tWho).fPre = FLine.empty ∧
    (tMapped paSelf 0xCF).xlate (BitVec.ofNat 64 (va48 0x1000 / 32 * 32)) = some (0, (tPage paSelf 0xCF).pte, paSelf) ∧ permTrap .fetch 2 (tPage paSelf 0xCF).pte = none ∧
    isSelf paSelf = true ∧ isSelf paStream = false ∧ tCached.xlate (BitVec.ofNat 64 (va48 0x1000 / 32 * 32)) = some (0, (tPage paStream 0xDF).pte, paStream) ∧
    (tCached.iHit paStream).isSome = true ∧ tCopy.xlate (BitVec.ofNat 64 (va48 0x1000 / 32 * 32)) = none :=
  ⟨tLockstep_spec (by decide +kernel), by decide +kernel⟩

/-! ### Register rows -/

/-- The registers whose rows the statements speak of: their gate lets the access pass where rule 0 covers everything, and nothing where no rule does. -/
def tRowRegs : List Nat := [Reg.fcruSwRaise, Reg.fcruStatus, Reg.fcruPend 7, Reg.fcruMatrix 511, Reg.triResyncCtl 15, Reg.triModeReq 0, Reg.triInject 15, Reg.triWdogKick 0,
  Reg.triMismatch 15, Reg.gateRuleBase 26 31, Reg.gateRuleCtl 0 0, Reg.gateCtl 26, Reg.gateLogClr 0, Reg.gateDrain 26]
def tRowRegs' : List Nat := [Reg.xltRoot 7, Reg.xltAsid 0, Reg.fulPgCtl, Reg.fulCEvent 7, Reg.fulCCtl 0,
  Reg.fulCFflags 7, Reg.fulCCheckLast 0, Reg.memSsPwr 3, Reg.ddrZodCtl, Reg.ddrZodProbe, Reg.edcCtl, Reg.edcClassUeFirst 4, Reg.edcInjCtl, Reg.edcScrubGo, Reg.edcRemap 5 31,
  Reg.admRingPtr 63, Reg.admSringPtr 63, Reg.admReqCtl, Reg.ethTxqTail 1 31, Reg.ethGclCtl 0, Reg.ethMsecInstall 1]
def tRowRegs'' : List Nat := [Reg.dhpSlotDone 63, Reg.dhpSlotProg 0, Reg.dhpJobqPtr 31, Reg.recCtl,
  Reg.timeStep, Reg.timeRate, Reg.timeOutCfg 3, Reg.timeNow, Reg.timeInCap 1, Reg.pncCtl, Reg.pncFailLast, Reg.sysSleep, Reg.sysIpi, Reg.sysLcCtl, Reg.sysLcChal 0, Reg.hbxStatus,
  Reg.hbxRet, Reg.clkI2cCmd, Reg.clkGpioOut, Reg.edcFlipData]
theorem wit_grants : ∀ off ∈ tRowRegs ++ tRowRegs' ++ tRowRegs'', (tRegs (tGate off)).gateCause (regReq tRq .write off) = none ∧
    (tRegs (tGate off)).gateCause (regReq tRq .read off) = none := by decide +kernel
theorem wit_grants_row : (tRegs (tGate (Reg.triWdogKick 15))).grantsRow (.triWdogKick tRq 15 0xA5C3) := ⟨_, _, rfl, by unfold State.grants; decide +kernel⟩
/-- A denied write, with room in the violation log and without. -/
theorem wit_denied : regRow (.timeStep tRq 5) = some (tRq, Reg.timeStep) ∧ (tRegs []).gateCause (regReq tRq .write Reg.timeStep) = some dNO_RULE ∧
    (tRegs []).fget (Reg.gateStat (gateOf (paMmio + Reg.timeStep))) Reg.gateStat_LOG_COUNT < 8 ∧
    8 ≤ (tRegs [(Reg.gateStat (gateOf (paMmio + Reg.timeStep)), setBits 0 Reg.gateStat_LOG_COUNT.lo Reg.gateStat_LOG_COUNT.len 8)]).fget
      (Reg.gateStat (gateOf (paMmio + Reg.timeStep))) Reg.gateStat_LOG_COUNT := by decide +kernel
/-- A VOTE triad with copy C isolated, and one with none. -/
def tIsolated : State := tRun 0 tCopy ((Reg.triStatus 0, setBits (setBits 0 Reg.triStatus_LIVE.lo 3 3) Reg.triStatus_ISOLATED.lo 3 4) :: tGate (Reg.triResyncCtl 0))
theorem wit_go : State.grants tIsolated tRq (Reg.triResyncCtl 0) ∧ tIsolated.isolated 0 = [2] ∧ tIsolated.mode 0 = 0 ∧ tIsolated.resyncBusy 0 = false ∧
    (tIsolated.triad 0).resyncBad = false ∧ bit (tIsolated.rd Reg.pncFailedCopies) 2 = false ∧ ∀ c, (tRun 0 tCopy).isolated 0 ≠ [c] :=
  ⟨by unfold State.grants; decide +kernel, by decide +kernel, by decide +kernel, by decide +kernel, by decide +kernel, by decide +kernel, fun c h => by
    have : (tRun 0 tCopy).isolated 0 = [] := by decide +kernel
    rw [this] at h; exact absurd h (by simp)⟩
/-- The gates' own rows: a locked rule and an open one, and a drain whose requests have completed or not. -/
def tDrain (n : Nat) : State := { tOut with mesh := { tOut.mesh with drains := [⟨tRq, 26, [n]⟩] } }
theorem wit_gates : bit ((tRegs [(Reg.gateRuleCtl 26 31, 0x10)]).rd (Reg.gateRuleCtl 26 31)) 4 = true ∧ (tDrain 0).mesh.drains = ⟨tRq, 26, [0]⟩ :: [] ∧
    (∃ f ∈ (tDrain 0).mesh.flights, f.num ∈ [0]) ∧ (∀ f ∈ (tDrain 1).mesh.flights, f.num ∉ [1]) ∧ [1].length < 2 ^ 32 := by decide

/-! ### Walks, the mesh, the FCRU and the triads -/

/-- `TranslationRowsAndWalks`: a root of context 0 in Stream SRAM whose entry reads 0, invalid, or the malformed leaf 0x0F at level 0. -/
def tTags (init : Nat) : Nat × Word := (Reg.sysTagq init, setBits (setBits 0 Reg.sysTagq_MAX.lo Reg.sysTagq_MAX.len 4) Reg.sysTagq_MIN.lo Reg.sysTagq_MIN.len 4)
def tWalk : State := (tRegs [(Reg.gateRuleCtl 1 0, 0xF), (Reg.gateRuleLimit 1 0, 0xFFFFFFFFFC0), (Reg.gateRuleMask 1 0, 0xFFFFFFFF), (Reg.fulCTags 0, 0x20002)]).fset (Reg.xltRoot 0) Reg.xltRoot_PPN (paStream / 4096)
theorem wit_walk : (tWalk.xltOf 0).wc = [] ∧ walkMemory paStream = true ∧
    ((tWalk.fsat (Reg.xltStat 0) Reg.xltStat_WALKS 1).serve (walkReq 0 .walkRead paStream 0 0)).1 = { status := .ok, data := 0 } ∧
    tWalk.fget (Reg.xltRoot 0) Reg.xltRoot_PPN * 2 ^ 12 = paStream ∧ pteV (BitVec.ofNat 64 0) = false ∧
    (({ tWalk with mem := [(paStream, 0x0F)] }.fsat (Reg.xltStat 0) Reg.xltStat_WALKS 1).serve (walkReq 0 .walkRead paStream 0 0)).1 = { status := .ok, data := 0x0F } ∧
    pteMalformed (BitVec.ofNat 64 0x0F) 0 = true ∧ tWalk.tagFree 16 = true ∧ (∀ x ∈ tWalk.mesh.late, x.1 ≠ 16) ∧
    ({ tWalk with mesh := { Mesh.reset with flights := [{ tFlight with req := walkReq 0 .walkRead 0 0 0 }, { tFlight with req := walkReq 0 .walkRead 0 0 0 }] } } : State).tagFree 16 = false := by
  decide +kernel
/-- A root table whose entry 0 points to a table whose entry 0 is a leaf of 1 GiB, with these low bits: A and D set, or clear. -/
def tTable (low : Nat) : State := { tWalk with mem := [(paStream, 0x01), (paStream + 1, BitVec.ofNat 8 ((paStream + 0x1000) / 0x100)), (paStream + 2, BitVec.ofNat 8 ((paStream + 0x1000) / 0x10000)),
  (paStream + 3, BitVec.ofNat 8 ((paStream + 0x1000) / 0x1000000)), (paStream + 4, BitVec.ofNat 8 ((paStream + 0x1000) / 0x100000000)),
  (paStream + 5, BitVec.ofNat 8 ((paStream + 0x1000) / 0x10000000000)), (paStream + 0x1000, BitVec.ofNat 8 low)].filter fun e => e.2 ≠ 0 }
def tW (low : Nat) : Nat → State
  | 0 => (tTable low).fsat (Reg.xltStat 0) Reg.xltStat_WALKS 1
  | _ =>
    let r := ((tTable low).fsat (Reg.xltStat 0) Reg.xltStat_WALKS 1).serve (walkReq 0 .walkRead paStream 0 0)
    r.2.setXlt 0 ((r.2.xltOf 0).wcEnter (r.2.fget (Reg.xltAsid 0) Reg.xltAsid_ASID) 0 0 (ptePPN (BitVec.ofNat 64 r.1.data)))
def tTab (j : Nat) : Nat := paStream + 0x1000 * j
theorem wit_walk_completes : ∀ low ∈ [0xDF, 0x1F],
    let r (j : Nat) := (tW low j).serve (walkReq 0 .walkRead (tTab j) 0 0)
    let e (j : Nat) : Word := BitVec.ofNat 64 (r j).1.data
    let q := (r 1).2.serve (walkReq 0 .walkCas (tTab 1) (e 1 ||| 0xC0).toNat (e 1).toNat)
    (tTable low).tagFree 16 = true ∧ ((tTable low).xltOf 0).wc = [] ∧ tTab 0 = (tTable low).fget (Reg.xltRoot 0) Reg.xltRoot_PPN * 2 ^ 12 ∧
    (∀ j < 2, walkMemory (tTab j) = true ∧ (∀ x ∈ (tW low j).mesh.late, x.1 ≠ 16) ∧ (r j).1.status = .ok ∧ pteV (e j) = true ∧ pteMalformed (e j) j = false ∧
      pteLeaf (e j) = decide (j = 1)) ∧ tTab 1 = ptePPN (e 0) * 2 ^ 12 ∧ (r 1).2.leafFault 0 (e 1) true = none ∧ pteMT (e 1) < 4 ∧
    (low = 0xDF → e 1 ||| 0xC0 = e 1) ∧ (low = 0x1F → e 1 ||| 0xC0 ≠ e 1 ∧ q.1.status = .ok ∧ q.1.data = (e 1).toNat) := by decide +kernel

/-- `MeshTagsAndResponses`: a request with a free tag, one without, a response that is fresh, too old, or of an older epoch. -/
def tReq : MeshReq := ⟨⟨0, 3⟩, .write, .swap, BitVec.ofNat 44 paStream, 8, 5, 0⟩
def tResp (time epoch : Nat) : State := { tExt with mesh := { Mesh.reset with flights := [{ tFlight with done := true, time := time, epoch := epoch }] }, ticks := 70000,
                                                    time := DevTime.ofTotal 70000 0 }
theorem wit_mesh_request : windowOf tReq.pa.toNat ≠ .mmio ∧ tExt.tagFree 0 = true ∧ (∀ x ∈ tExt.mesh.stalled, x.rq.init ≠ tReq.rq.init) ∧ tExt.reqBlocked tReq = false ∧
    tOut.tagFree 0 = false ∧ ({ tExt with mesh := { Mesh.reset with stalled := [tReq] } } : State).mesh.stalled = tReq :: [] := by decide +kernel
theorem wit_mesh_response : (tResp 0 0).mesh.flights = { tFlight with done := true, time := 0, epoch := 0 } :: [] ∧ tFlight.own = false ∧ 64000 < (tResp 0 0).ticks - 0 ∧
    (tResp 6000 0).ticks - 6000 ≤ 64000 ∧ 0 = (tResp 6000 0).epoch 0 ∧ 1 ≠ (tResp 6000 1).epoch 0 := by decide +kernel
theorem wit_resp_timeout : tFlight.held = true ∧ tOut.mesh.flights = tFlight :: [] ∧ (∀ f ∈ (tRun 0 tCopy).mesh.flights, f.held = true → f.req.rq ≠ ⟨0, 0⟩) ∧
    (let s : State := { tExt with mesh := { Mesh.reset with late := [(0, 0x1008, true)] } }
     Ready s tWho tAl ∧ (s.lead tWho).depth < 32 ∧ s.tagFree 0 = true ∧ accessOf (.amoswap tWho tAl 3 false 4 1 2) (s.lead tWho) = some (atomAcc .swap 3 0x55 0 4, 0x1008) ∧
       (s.lead tWho).plan (.atom .swap) 0x1008 8 = .ok [⟨0x1008, paStream + 8, 8, 0, 0, .plain⟩] ∧ windowOf (paStream + 8) ≠ .mmio ∧
       (0, (0x1008 : Word), reqWrites (s.accessReq tWho (atomAcc .swap 3 0x55 0 4) ⟨0x1008, paStream + 8, 8, 0, 0, .plain⟩)) ∈ s.mesh.late) :=
  ⟨rfl, rfl, by decide, tReady_spec (by decide +kernel), by decide +kernel⟩
/-- A request without a free tag waits (R43); a response of an older epoch is not delivered (R37). -/
theorem test_stalls : tAfter (.meshRequest tReq) tOut (fun t => t.mesh.stalled) = some [tReq] ∧
    tAfter (.meshResponse 0) (tResp 6000 1) (fun t => (t.mesh.flights, t.mesh.last, t.detected.map (·.src))) = some ([], [], [0x147]) := by decide +kernel

/-- `FcruEvaluation`: one detected source whose entry has reaction LOG, and one of triad 2 with STOP_GROUP. -/
def tDet (src : Nat) (e : Word) : State := { tRegs [(Reg.fcruMatrix src, e)] with detected := [⟨src, 7, none, false, e, 0⟩] }
theorem wit_evaluation : (∀ x ∈ [(0x1F0, 0), (0x2F, 3)], (tDet x.1 x.2).detected = [⟨x.1, 7, none, false, x.2, 0⟩] ∧ (tDet x.1 x.2).fget Reg.fcruStatus Reg.fcruStatus_WDOG_EXPIRED = 0 ∧
    (tDet x.1 x.2).fget (Reg.clkPll 8) Reg.clkPll_STOPPED = 0 ∧ (tDet x.1 x.2).latent.f1 = none ∧ x.1 < 0x200 ∧ x.1 ≠ 0x1FD ∧ x.1 ≠ 0x1FE ∧ bits x.2 6 4 = 0 ∧ bit x.2 40 = false) ∧
    bits (0 : Word) 0 3 = 0 ∧ bits (3 : Word) 0 3 = 3 ∧ 0x2F < 0x100 ∧ bits (3 : Word) 24 16 = 0 ∧ (tDet 0x2F 3).fget Reg.recStatus Reg.recStatus_STATE = 0 := by decide
/-- STOP_GROUP stops the triad and counts the source (R19, R25). -/
theorem test_stop_group : tAfter .fcruEvaluation (tDet 0x2F 3) (fun t => (t.tri 2 Reg.triStatus_STOPPED, t.fget (Reg.fcruCnt 0x2F) Reg.fcruCnt_TOTAL, t.detected)) = some (1, 1, []) := by
  decide +kernel
/-- The watchdog of the FCRU drives all pins low (R18). -/
theorem test_fcru_wdog : tAfter .fcruWdogExpire (tRegs []) (fun t => t.fget Reg.fcruStatus Reg.fcruStatus_SAFE_ASSERTED) = some 15 := by decide

/-- `TriadPhasesAndModes`: the phases of a resynchronisation of copy C, a barrier that waits, a transition, a debugger that may attach, a watchdog. -/
def tPhase (n : Nat) : State :=
  let s := tRun 0 tCopy
  { ((s.fset (Reg.triStatus 0) Reg.triStatus_LIVE 3).fset (Reg.triStatus 0) Reg.triStatus_RESYNC_PHASE n).fset (Reg.triStatus 0) Reg.triStatus_RESYNC_BUSY 1 with
    triads := [(0, { Triad.reset with released := true, rebuild := [2] })] }
theorem wit_phases : (∀ n < 4, (2 ≠ (tPhase n).leader 0 ∧ ((tPhase n).triad 0).rebuild = [2] ∧ ((tPhase n).triad 0).trans = none ∧ ((tPhase n).copy 0).ue = [] ∧ ((tPhase n).copy 0).ce = [] ∧
    0 ∉ (tPhase n).latent.sig ∧ bits ((tPhase n).rd (Reg.triStatus 0)) 13 3 = n ∧ (tPhase n).resyncBusy 0 = true)) ∧ Memory.wf (tPhase 1).mem ∧ (tPhase 2).leader 0 = 0 ∧
    (tPhase 2).inAccess 0 (fun _ => true) = false ∧ ∀ c < 3, ((tPhase 2).copy (copyIx 0 c)).status = .run := by decide +kernel
def tBarrier : State := { (tRun 2 { tCopy with status := .msync 4 false } [(Reg.triMsyncTmo 0, 1)]).wr (Reg.triStatus 0) ((tRun 2 tCopy).rd (Reg.triStatus 0) ||| 0x800) with ticks := 1000 }
theorem wit_barrier : tBarrier.mode 0 = 2 ∧ bit (tBarrier.rd (Reg.triStatus 0)) 11 = true ∧ (tBarrier.triad 0).trans = none ∧ (tBarrier.copy 2).status = .msync 4 false ∧
    1000 * tBarrier.fget (Reg.triMsyncTmo 0) Reg.triMsyncTmo_TMO = tBarrier.ticks - (tBarrier.triad 0).msyncFrom := by
  decide +kernel
/-- A barrier that times out leaves 3 in its register (R78). -/
theorem test_msync_timeout : tAfter (.msyncTimeout 0) tBarrier (fun t => ((t.copy 2).reg 4, (t.copy 2).pc, (t.copy 2).status)) = some (3, 0x1004, .run) := by decide +kernel
def tTrans (n : Nat) : State := { tRun 2 tCopy with triads := [(0, { Triad.reset with released := true, trans := some (n, false) })] }
theorem wit_transition : ((tTrans 1).triad 0).trans = some (1, false) ∧ ((tTrans 0).copy (copyIx 0 ((tTrans 0).leader 0))).ue = [] ∧
    ((tTrans 0).copy (copyIx 0 ((tTrans 0).leader 0))).ce = [] ∧ 0 ∉ (tTrans 0).latent.sig := by decide +kernel
def tAttach (lc : Nat) : State := (tRun 0 tCopy (tGate 0x150000)).fset Reg.sysState Reg.sysState_LC lc
theorem wit_attach : (tAttach 1).attachOk = true ∧ ((tAttach 1).triad 0).released = true ∧ (tAttach 1).gateCause dbgReq = none ∧ (tAttach 1).live 0 0 = true ∧
    (tAttach 2).attachOk = false ∧ ((tAttach 1).triad 1).released = false := by decide +kernel
def tWdog (n : Nat) : State := { ((tRun 0 tCopy).fset (Reg.triWdogCtl 0) Reg.triWdogCtl_ENABLE 1).fset (Reg.triWdogCtl 0) Reg.triWdogCtl_PERIOD 1 with ticks := n }
theorem wit_watchdog : (tWdog 1000).fget (Reg.triWdogCtl 0) Reg.triWdogCtl_ENABLE = 1 ∧ ((tWdog 1000).triad 0).released = true ∧ (∀ c < 3, ((tWdog 1000).copy (copyIx 0 c)).status ≠ .dbg) ∧
    1000 * (tWdog 1000).fget (Reg.triWdogCtl 0) Reg.triWdogCtl_PERIOD ≤ (tWdog 1000).ticks - ((tWdog 1000).triad 0).wdogFrom ∧
    ¬ 1000 * (tWdog 999).fget (Reg.triWdogCtl 0) Reg.triWdogCtl_PERIOD ≤ (tWdog 999).ticks - ((tWdog 999).triad 0).wdogFrom := by decide +kernel

/-! ### The device time -/

/-- A step at the highest time that the statement speaks of, with and without the servo. -/
theorem wit_time_step : ({ tRegs [] with time := DevTime.ofTotal 70000 0 } : State).time.total + 2 ^ 63 < 2 ^ 76 ∧ (tRegs []).fget Reg.timeCtl Reg.timeCtl_SERVO_EN = 0 ∧
    ((tRegs []).fset Reg.timeCtl Reg.timeCtl_SERVO_EN 1).fget Reg.timeCtl Reg.timeCtl_SERVO_EN = 1 ∧ (tRegs []).time.ns < 2 ^ 32 := by decide
/-- A step below zero leads to zero; it counts (R343, log entry 114). -/
theorem test_time_step : tAfter (.timeStep tRq 0xFFFFFFFFFFFFFFFF) { tRegs (tGate Reg.timeStep) with time := DevTime.zero } (fun t => (t.time.total, t.fget Reg.timeStatus Reg.timeStatus_STEPS)) =
    some (0, 1) := by decide +kernel
/-- The servo on a reference; a source lost while acquiring and while locked; a hold-over beyond its limit. -/
def tServo (st : Nat) : State := (((tRegs []).fset Reg.timeCtl Reg.timeCtl_SERVO_EN 1).fset Reg.timeCtl Reg.timeCtl_SOURCE 1).fset Reg.timeStatus Reg.timeStatus_STATE st
theorem wit_servo : (tServo 2).fget Reg.timeCtl Reg.timeCtl_SERVO_EN = 1 ∧ (tServo 2).fget Reg.timeCtl Reg.timeCtl_SOURCE = 1 ∧ (tServo 2).fget Reg.timeStatus Reg.timeStatus_STATE = 2 ∧
    (tServo 1).fget Reg.timeStatus Reg.timeStatus_STATE = 1 ∧ (tServo 2).fget Reg.timeServo Reg.timeServo_STEP_US * 1000 < (0xFFFFFFFFFFFFFFFF : Word).toInt.natAbs ∧
    (0 : Word).toInt.natAbs ≤ (tServo 2).fget Reg.timeServo Reg.timeServo_STEP_US * 1000 ∧ (tServo 2).time.total + 2 ^ 63 < 2 ^ 76 ∧
    ((tServo 3).fset Reg.timeStatus Reg.timeStatus_ERR_EST_NS 5).fget Reg.timeHold Reg.timeHold_LIMIT_NS < ((tServo 3).fset Reg.timeStatus Reg.timeStatus_ERR_EST_NS 5).errEst ∧
    (tServo 3).timeB.limit = false := by decide
/-- A periodic and a one-shot line that have started, with the edge met and not met. -/
def tLine (mode : Nat) (seen : Nat) : State :=
  { (((tRegs []).fset (Reg.timeOutCfg 0) Reg.timeOutCfg_MODE mode).fset (Reg.timeOutCfg 0) Reg.timeOutCfg_WIDTH_NS 10).fset (Reg.timeOutPeriod 0) Reg.timeOutPeriod_PERIOD_NS 100 with
    time := DevTime.ofTotal 250 0, timeB := { TimeB.reset with lines := [(0, ⟨true, seen⟩)] } }
theorem wit_lines : (tLine 2 800).fget (Reg.timeOutCfg 0) Reg.timeOutCfg_MODE = 2 ∧ (tLine 2 800).fget (Reg.timeOutCfg 0) Reg.timeOutCfg_WIDTH_NS < (tLine 2 800).fget (Reg.timeOutPeriod 0) Reg.timeOutPeriod_PERIOD_NS ∧
    (tLine 2 800).fget (Reg.timeOutStart 0) Reg.timeOutStart_START * 4 ≤ (tLine 2 800).time.quarters ∧ ((tLine 2 800).line 0).seen < 210 * 4 ∧ 210 * 4 ≤ ((tLine 2 840).line 0).seen ∧
    (tLine 3 0).fget (Reg.timeOutCfg 0) Reg.timeOutCfg_MODE = 3 ∧ (tLine 0 0).fget (Reg.timeOutCfg 0) Reg.timeOutCfg_MODE = 0 := by decide +kernel
/-- 250 ns after START a period of 100 ns and a width of 10 ns has its line low, since 210 ns (R350). -/
theorem test_line : tAfter (.timeOutEdge 0 false) (tLine 2 800) (fun t => ((t.line 0).level, (t.line 0).seen)) = some (false, 1000) := by decide +kernel
/-- An enabled input with room for a capture, with four captures waiting, and one that is not enabled. -/
def tCap (n : Nat) : State := { (tRegs []).fset (Reg.timeInCfg 1) Reg.timeInCfg_EN 1 with timeB := { TimeB.reset with fifo := [(1, List.replicate n ⟨0, 0, 0⟩)] } }
theorem wit_captures : (tCap 3).fget (Reg.timeInCfg 1) Reg.timeInCfg_EN = 1 ∧ (tCap 3).fget (Reg.timeInCfg 1) Reg.timeInCfg_EDGE = 0 ∧ ((tCap 3).caps 1).length < 4 ∧ 4 ≤ ((tCap 4).caps 1).length ∧
    (tRegs []).caps 0 = [] ∧ (tRegs []).fget (Reg.timeInCfg 1) Reg.timeInCfg_EN ≠ 1 := by decide +kernel
/-- A grandmaster on a MAC that is up with its gate open, and a gPTP frame that waits. -/
def tGptp : State := { ((((tRegs []).fset (Reg.ethCfg 0) Reg.ethCfg_MAC_EN 15).fset (Reg.ethStatus 0) Reg.ethStatus_LINK_UP 15).fset Reg.sysState Reg.sysState_OPSTATE 3).fset Reg.twinStatus Reg.twinStatus_ROLE 1 with
  eth := { Eth.reset with gptp := [⟨0, ⟨0, 0, 0⟩, []⟩] } }
theorem wit_gptp : tGptp.macUp 0 0 = true ∧ tGptp.gateOpen 0 0 = true ∧ tGptp.fitsGate 0 0 1500 = true ∧ tGptp.receives = true ∧ tGptp.eth.stopped = false ∧ tGptp.role = 1 ∧ tGptp.eth.gptp = ⟨0, ⟨0, 0, 0⟩, []⟩ :: [] ∧
    (tRegs []).macUp 0 0 = false ∧ (tRegs []).eth.gptp = [] ∧ (tRegs []).role ≠ 1 ∧ tGptp.fget (Reg.timeDomCfg 0) Reg.timeDomCfg_ONE_STEP = 0 := by decide +kernel

/-! ### Fuller -/

/-- An instruction word of Fuller with these fields. -/
def tWord (sc maj d a b : Nat) : BitVec 32 := BitVec.ofNat 32 (0xE0000000 + sc * 2 ^ 26 + maj * 2 ^ 22 + b * 2 ^ 17 + a * 2 ^ 12 + d * 2 ^ 7)
/-- An accepted instruction. -/
def tOp (w : BitVec 32) (a b : Word) (vl ty : Nat) : FulOp :=
  { seq := 7, word := w, a := a, b := b, tag := 3, vl := vl, vtype := ty, deferred := false, written := [], next := 0, newVl := none, old := [], oldBad := [] }
/-- Context 2 in a state with slices, this queue, and page 0 of its translation mapped to Stream SRAM behind an open gate. -/
def tCtxRegs (st : Nat) : List (Nat × Word) := [(Reg.gateRuleCtl 1 0, 0xF), (Reg.gateRuleLimit 1 0, 0xFFFFFFFFFC0), (Reg.gateRuleMask 1 0, 0xFFFFFFFF), tTags 16, (Reg.fulCTags 2, 0x40004),
  (Reg.fulCState 2, setBits (setBits 0 Reg.fulCState_SLICES.lo Reg.fulCState_SLICES.len 5) Reg.fulCState_STATE.lo Reg.fulCState_STATE.len st)]
def tFul (st : Nat) (q : List FulOp) : State := { tRegs (tCtxRegs st) with
  ctxs := [(2, { Ctx.reset with queue := q, v := [(0, 0x0102030405060708), (512, 5), (1024, 7)], m := [(0, 2)] })],
  xlt := [(2, { Xlt.reset with tlb := [(0, { FulTlbEntry.empty with valid := true, pte := BitVec.ofNat 64 (paStream + 0xDF) })] })] }

def tStarts (s : State) (c : Nat) (o : FulOp) (r : List FulOp) : Bool := decide ((s.ctx c).queue = o :: r) && s.mayStart c o && s.windowOk c o
theorem tStarts_spec {s : State} {c : Nat} {o : FulOp} {r : List FulOp} (h : tStarts s c o r = true) : s.starts c o r := by
  simp only [tStarts, Bool.and_eq_true, decide_eq_true_eq] at h
  exact ⟨h.1.1, h.1.2, h.2⟩

/-- `VectorElementResults` and `VectorValuesAndInvalidations`: each command's instruction may start in its context, with VL = 3 and VL = 0. -/
theorem wit_vector : ∀ vl ∈ [0, 3], ∀ x ∈ [(0, 0x0), (0, 0x1), (0, 0x2), (0, 0x3), (0, 0x4), (0, 0x5), (0, 0x6), (0, 0x7), (0, 0x8), (0, 0x9), (0, 0xA), (0, 0xB), (0, 0xC), (0, 0xD), (0, 0xE), (1, 0x4), (1, 0x5),
      (1, 0x7), (1, 0x8), (2, 0x0), (2, 0x1), (2, 0x2), (2, 0x3)],
    let o := tOp (tWord x.1 x.2 1 0 0) 0 8 vl 2
    tStarts (tFul 2 [o]) 2 o [] = true ∧ (tFul 2 [o]).latent.checks = [] ∧ ((tFul 2 [o]).ctx 2).vUe = [] ∧ ((tFul 2 [o]).ctx 2).vCe = [] ∧ fwSC o.word = x.1 ∧ fwMAJ o.word = x.2 ∧
      ((tFul 2 [o]).ctx 2).vPoison = [] ∧ ((tFul 2 [o]).ctx 2).mPoison = [] := by decide +kernel
/-- ABSD of bytes in a VI under m0 = 2: element 1 alone changes (R188, R189). -/
theorem test_vi_masked : tAfter (.viM 2) (tFul 2 [tOp (tWord 0 1 1 0 0xF) 0 0 3 4]) (fun t => SMap.get 0 (t.ctx 2).v 512) = some 0x0000000000000705 := by decide +kernel
/-- VMPOP counts the mask bits below VL (R203). -/
theorem test_vmpop : tAfter (.vmpop 2) (tFul 2 [tOp (tWord 2 2 0 0 0) 0 0 5 0]) (fun t => (t.ctx 2).ret) = some [(3, 1)] := by decide +kernel

/-- What an access of an element gives, read as a Bool. -/
theorem tElem_spec {ε α β γ : Type} {x : Except ε (α × β) × γ} {P : α → β → γ → Prop} [∀ v l u, Decidable (P v l u)]
    (h : (match x with | (.ok (v, l), u) => decide (P v l u) | _ => false) = true) : ∃ v l u, x = (.ok (v, l), u) ∧ P v l u := by
  obtain ⟨r, u⟩ := x
  cases r with
  | error e => simp at h
  | ok p => exact ⟨p.1, p.2, u, rfl, of_decide_eq_true h⟩

/-- `VectorMemoryResults`: the machine before element i of a load of words from 0x100 with stride 8. -/
def tLdOp : FulOp := tOp (tWord 1 0 3 0 0) 0x100 8 2 2
def tLd : Nat → State
  | 0 => (tFul 2 [tLdOp]).modCtx 2 fun x => { x with queue := [] }
  | i + 1 => match (tLd i).elemRead 2 (0x100 + 8 * i) 4 (fun _ => true) with
    | (.ok (v, _), u) => (u.modCtx 2 fun x => x.putElem 3 32 i v false).poisonSince 2 (u.ctx 2)
    | (_, u) => u
theorem wit_vld : (tFul 2 [tLdOp]).starts 2 tLdOp [] ∧ (tFul 2 [tLdOp]).tagFree 18 = true ∧ (tFul 2 [tLdOp]).issueTo 2 tLdOp = 2 ∧ tLdOp.a.toNat % 4 = 0 ∧ tLdOp.b.toNat % 4 = 0 ∧
    ∀ i < 2, ∃ v l u, (tLd i).elemRead 2 (0x100 + 8 * i) 4 (fun _ => true) = (.ok (v, l), u) ∧ (tLd i).latent.checks = [] ∧ u.latent.checks = [] ∧
      tLd (i + 1) = (u.modCtx 2 fun x => x.putElem 3 32 i v false).poisonSince 2 (u.ctx 2) :=
  ⟨tStarts_spec (by decide +kernel), by decide +kernel, by decide +kernel, by decide, by decide, fun i hi => by
    obtain rfl | rfl : i = 0 ∨ i = 1 := by omega
    all_goals exact tElem_spec (by decide +kernel)⟩
/-- A load whose first element has no translation, a store of a poisoned element, a store whose element 1 leaves the page, and a misaligned base. -/
def tStOp : FulOp := tOp (tWord 1 2 0 0 0) 0xFFC 4 2 2
theorem wit_vst : (let o := tOp (tWord 1 0 3 0 0) 0x1000 8 2 2
      tStarts (tFul 2 [o]) 2 o [] = true ∧ (match ((tFul 2 [o]).modCtx 2 fun x => { x with queue := [] }).elemRead 2 0x1000 4 (fun _ => true) with
        | (.error _, u) => decide (u.cxState 2 ≠ cxFAULTED) | _ => false) = true) ∧
    tStarts (tFul 2 [tStOp]) 2 tStOp [] = true ∧ (tFul 2 [tStOp]).issueTo 2 tStOp = 2 ∧
    (match ((tFul 2 [tStOp]).modCtx 2 fun x => { x with queue := [] }).elemWrite 2 0xFFC 4 0x05060708 (fun _ => true) with
      | (.ok _, u) => decide ((u.ctx 2).elemBad 0 32 1 = false) && decide (u.latent.checks = []) && (match u.elemWrite 2 0x1000 4 ((u.ctx 2).elem 0 32 1) (fun _ => true) with
        | (.error _, z) => decide (z.cxState 2 ≠ cxFAULTED) | _ => false)
      | _ => false) = true ∧
    ({ Ctx.reset with vPoison := [(0, true)] } : Ctx).elemBad 0 32 0 = true ∧ (0x101 : Nat) % 4 ≠ 0 := by decide +kernel
/-- A store writes the elements at their stride and no other byte (R200). -/
theorem test_vst : tAfter (.vst 2) (tFul 2 [tOp (tWord 1 2 0 0 0) 0x100 8 2 2]) (fun t => (t.byte (paStream + 0x100), t.byte (paStream + 0x104), t.byte (paStream + 0x108))) = some (8, 0, 4) := by decide +kernel

/-- `ContextAcceptanceAndCompletion`: VSHAPE, VGETVL, VRDSEQ, VSYNC and a VI that wait for acceptance, and one that VTYPE forbids, live, STOPPED and FAULTED. -/
def tPkt (w : BitVec 32) (a b : Word) (st : Nat) : State := (tFul st []).modCtx 2 fun x => { x with crossing := [⟨w, a, b, 3⟩, ⟨w, a, b, 3⟩] }
theorem wit_accept (w : BitVec 32) (a b : Word) : (∀ st ∈ [1, 4, 5], (tPkt w a b st).cxState 2 = st ∧ ((tPkt w a b st).ctx 2).crossing = ⟨w, a, b, 3⟩ :: [⟨w, a, b, 3⟩] ∧
      ((tPkt w a b st).ctx 2).queue.length < 16 ∧ (tPkt w a b st).fget (Reg.fulCVtype 2) Reg.fulCVtype_VTYPE = 0) := by
  intro st h
  simp only [List.mem_cons, List.not_mem_nil, or_false] at h
  have v (n : Nat) (h : (tFul n []).cxState 2 = n ∧ (tFul n []).fget (Reg.fulCVtype 2) Reg.fulCVtype_VTYPE = 0) :
      (tPkt w a b n).cxState 2 = n ∧ ((tPkt w a b n).ctx 2).crossing = ⟨w, a, b, 3⟩ :: [⟨w, a, b, 3⟩] ∧ ((tPkt w a b n).ctx 2).queue.length < 16 ∧
        (tPkt w a b n).fget (Reg.fulCVtype 2) Reg.fulCVtype_VTYPE = 0 := ⟨h.1, rfl, Nat.zero_lt_succ _, h.2⟩
  obtain rfl | rfl | rfl := h <;> exact v _ (by decide +kernel)
theorem wit_accept_causes : acceptCause (tWord 3 0 0 0 0) 0 4 2 = 0 ∧ acceptCause (tWord 2 4 0 0 0) 0 0 0 = 0 ∧ acceptCause (tWord 2 5 0 0 0) 0 0 0 = 0 ∧
    acceptCause (tWord 2 0 0 0 0) 0 0 0 = 0 ∧ acceptCause (tWord 0 0 1 0 0) 0 0 0 = 0 ∧
    fwIsVshape (tWord 3 0 0 0 0) = true ∧ fwIsVgetvl (tWord 2 4 0 0 0) = true ∧ fwIsVrdseq (tWord 2 5 0 0 0) = true ∧ fwIsVsync (tWord 2 0 0 0 0) = true ∧
    (fwIsVshape (tWord 0 0 1 0 0) || fwIsVgetvl (tWord 0 0 1 0 0) || fwIsVrdseq (tWord 0 0 1 0 0) || fwIsVsync (tWord 0 0 1 0 0)) = false ∧
    acceptCause (tWord 3 0 0 0 0) 0 1 0xF ≠ 0 := by decide +kernel
/-- Instructions that run: one that may complete, a stream and a load that still go on, and one that a watchdog has counted long enough. -/
def tRuns (o : FulOp) (st : Option Strm) (n : Nat) : State :=
  { ((tFul 2 []).fset (Reg.fulCBind 2) Reg.fulCBind_WDOG_US 1).modCtx 2 (fun x => { x with run := [o], strm := st }) with ticks := n }
theorem wit_complete : (let o := tOp (tWord 0 0 1 0 0) 0 0 3 2;
      ((tRuns o none 0).ctx 2).run[0]? = some o ∧ ((tRuns o none 0).ctx 2).run[1]? = none ∧ ¬ (fwSC o.word = 1) ∧ o.newVl = none ∧ (tRuns o none 0).cxState 2 = cxRUNNING) ∧
    (let o := tOp (tWord 1 6 0 0 0) 0 0 0 0;
      ((tRuns o (some (Strm.start 0)) 0).ctx 2).run[0]? = some o ∧ fwSC o.word = 1 ∧ fwMAJ o.word = 6 ∧ ((tRuns o (some (Strm.start 0)) 0).ctx 2).strm ≠ none) ∧
    (fwSC tLdOp.word = 1 ∧ fwMAJ tLdOp.word < 4 ∧ tLdOp.next < tLdOp.vl) ∧
    ((tRuns tLdOp none 1000).cxSlices 2 ≠ 0 ∧ ((tRuns tLdOp none 1000).ctx 2).run = tLdOp :: [] ∧
      1000 * (tRuns tLdOp none 1000).fget (Reg.fulCBind 2) Reg.fulCBind_WDOG_US = (tRuns tLdOp none 1000).ticks - ((tRuns tLdOp none 1000).ctx 2).wdogFrom ∧
      (tRuns tLdOp none 1000).cxState 2 ≠ cxFAULTED) := by decide +kernel
/-- The watchdog's expiry leaves the context in FAULTED with nothing started (R208). -/
theorem test_ful_watchdog : tAfter (.fulWatchdog 2) (tRuns tLdOp none 1000) (fun t => ((t.ctx 2).run, t.cxState 2, t.detected.map (·.src))) = some ([], cxFAULTED, [0x114, 0x113]) := by decide +kernel

/-- `ScheduleSlicesAndContextRows`: a device time in window 1 of frame 0, with the schedule at rest, in that window, and before frame 0; a gap; slices. -/
def tSched (act win t : Nat) : State := { tRegs [(Reg.fulSchedCfg, setBits 0 Reg.fulSchedCfg_NWIN_M1.lo Reg.fulSchedCfg_NWIN_M1.len 1), (Reg.fulWin 0, 0xA000A), (Reg.fulWin 1, 0xA00014), (Reg.fulSchedT0, 100), (Reg.fulPgCtl, 3)] with
  time := DevTime.ofTotal t 0 }.fset Reg.fulStatus Reg.fulStatus_SCHED_ACTIVE act |>.fset Reg.fulStatus Reg.fulStatus_WIN win
theorem wit_windows : (tSched 0 0 50).locate = none ∧ (tSched 0 0 50).schedOn = false ∧ (tSched 1 0 50).locate = none ∧ (tSched 1 0 50).schedOn = true ∧
    (tSched 0 0 15000).locate = some (0, 1) ∧ (tSched 1 1 15000).locate = some (0, 1) ∧ (tSched 1 1 15000).schedOn = true ∧ (tSched 1 1 15000).curWin = 1 ∧ (tSched 1 1 15000).ful.frame = 0 ∧
    (tSched 1 0 15000).locate = some (0, 1) ∧ (tSched 1 0 15000).curWin ≠ 1 := by decide +kernel
/-- A new window whose grants differ begins a gap, and the context keeps no slice that it is not granted again (R210). -/
theorem test_window : tAfter .fulWindowBoundary ((tSched 1 0 15000).fset (Reg.fulCState 2) Reg.fulCState_SLICES 1) (fun t => (t.curWin, t.fget Reg.fulStatus Reg.fulStatus_GAP, t.cxSlices 2)) =
    some (1, 1, 0) := by decide +kernel
/-- A gap in which context 2, which has lost a slice, still has a load going on; slices that may gate, wake, have woken and a later window grants. -/
def tGap : State := { (tRuns tLdOp none 0).fset Reg.fulStatus Reg.fulStatus_GAP 1 with ful := { Fuller.reset with lost := [2] } }
def tSlice (on waking busy : Nat) : State := { (tSched 1 0 5000).fset Reg.fulStatus Reg.fulStatus_SLICE_ON on |>.fset Reg.fulStatus Reg.fulStatus_SLICE_WAKE waking with
  ful := { Fuller.reset with pg := 0x10001, busy := [(1, busy)] }, ticks := 2000 }
theorem wit_slices : tGap.fget Reg.fulStatus Reg.fulStatus_GAP = 1 ∧ 2 ∈ tGap.ful.lost ∧ (tGap.ctx 2).strm = none ∧ (tGap.ctx 2).run = tLdOp :: [] ∧ tGap.cxState 2 ≠ cxFAULTED ∧
    (tSched 0 0 0).fget Reg.fulStatus Reg.fulStatus_GAP = 0 ∧
    (let s := tSlice 2 0 1000; bit s.ful.pg 0 = true ∧ ((List.range 8).find? fun c => (s.curGrant c).testBit 1) = none ∧ 1000 * bits s.ful.pg 16 16 = s.ticks - SMap.get 0 s.ful.busy 1 ∧
      bit (s.rd Reg.fulStatus) 1 = true ∧ bit (s.rd Reg.fulStatus) 5 = false) ∧ bit ((tSlice 0 2 0).rd Reg.fulStatus) 5 = true ∧
    (let s := tSlice 0 0 0; bit (s.rd Reg.fulStatus) 1 = false ∧ bit (s.rd Reg.fulStatus) 5 = false ∧ 1 < s.nwin ∧ bit (s.rd (Reg.fulWin 1)) 23 = true) ∧
    (tFul 4 []).cxState 2 = cxFAULTED ∧ (tFul 1 []).cxState 2 ≠ cxFAULTED := by decide +kernel

/-! ### Streams -/

/-- A block of a descriptor: base, type of the elements and MEM = Stream SRAM. -/
def tBlk (base typ mem : Nat) : Nat := base + 2 ^ 96 * typ + 2 ^ 120 * mem
/-- An element-wise sum of two sources of words, of this many elements, from 0x100 and `b1` to 0x300. -/
def tDesc (ff cnt b1 mem : Nat) : Nat :=
  1 + 2 ^ 8 * 11 + 2 ^ 16 * ff + 2 ^ 32 * (cnt - 1) + 2 ^ 128 * tBlk 0x100 2 mem + 2 ^ 320 * tBlk b1 2 1 + 2 ^ 704 * tBlk 0x300 2 1 + 2 ^ 896
def tStrmOp : FulOp := tOp (tWord 1 6 0 0 0) 0 0x55 0 0
/-- Context 2 with a stream's descriptor at address 0, its STRM at the head of the queue, or running. -/
def tStrm (d : Nat) (run : Bool) : State :=
  let s := tFul 3 (if run then [] else [tStrmOp])
  { (if run then s.modCtx 2 fun x => { x with run := [tStrmOp], strm := some (Strm.start d) } else s) with
    mem := ((List.range 128).map fun i => (paStream + i, BitVec.ofNat 8 (d / 256 ^ i))).filter fun e => e.2 ≠ 0 }
def tStrmRead (d : Nat) : Except Nat Nat × State :=
  ((((tStrm d false).modCtx 2 fun x => { x with queue := [] }).wr (Reg.fulCStrmStat 2) (BitVec.ofNat 64 (1 + 2 ^ 16 * 0x55 + 2 ^ 32 * 7))).wr (Reg.fulCStrmPos 2) 0 |>.wr (Reg.fulCStrmCnt 2) 0).readDesc 2 0
theorem wit_strm : (tStrm (tDesc 0 5 0x200 1) false).starts 2 tStrmOp [] ∧ fwIsStrm tStrmOp.word = true ∧ (tStrm (tDesc 0 5 0x200 1) false).tagFree 18 = true ∧
    (match (tStrmRead (tDesc 0 5 0x200 1)).1 with | .ok d => decide (d = tDesc 0 5 0x200 1 ∧ dCause d = 0) | _ => false) = true ∧
    (tStrmRead (tDesc 0 5 0x200 1)).2.cxState 2 = (tStrm (tDesc 0 5 0x200 1) false).cxState 2 ∧
    (match (tStrmRead (tDesc 0 5 0x200 1 + 1)).1 with | .ok d => decide (d % 256 = 2) | _ => false) = true ∧ (0x40 : Nat) % 128 ≠ 0 :=
  ⟨tStarts_spec (by decide +kernel), by decide +kernel⟩
/-- `StreamsAndPrefetching`: the machine before the load of each element of a running stream of two elements, what each load gives, and the machine before each
element's words are taken. -/
def tD : Nat := tDesc 0 2 0x200 1
def tReads (i : Nat) : List (Nat × Nat × Nat) := (dOperands tD).map fun k => (k, i, i)
def tSg : Nat → State
  | 0 => (tStrm tD true).modStrm 2 fun x => { x with grans := [] }
  | i + 1 => match (tSg i).srcElems 2 (tReads i) with
    | (.ok v, u) => u.modStrm 2 fun x => { x with lpos := i + 1, buf := x.buf ++ [v] }
    | (_, u) => u
def tVs (i : Nat) : List SrcVal := match (tSg i).srcElems 2 (tReads i) with | (.ok v, _) => v | _ => []
def tLoaded : State := ((tSg 2).modStrm 2 fun x => { x with grans := [] }).setStrmPos 2 0 ((tSg 2).strmOf 2).lpos
def tTau : Nat → State
  | 0 => tLoaded.setStrmPhase 2 2
  | i + 1 =>
    let k := (tTau i).takeStep 2 (tVs i)
    ((k.2.2.accrue 2 (streamFn tD k.1).2).dstElem 2 i i 0 (streamFn tD k.1).1 false).2.strmAdvance 2 i (i + 1)
/-- What an element's operands give, read as a Bool. -/
theorem tLoad_spec {ε α β : Type} {x : Except ε α × β} {v : α} {P : β → Prop} [DecidableEq α] [∀ u, Decidable (P u)]
    (h : (match x with | (.ok w, u) => decide (w = v) && decide (P u) | _ => false) = true) : ∃ u, x = (.ok v, u) ∧ P u := by
  obtain ⟨r, u⟩ := x
  cases r with
  | error e => simp at h
  | ok w =>
    simp only [Bool.and_eq_true, decide_eq_true_eq] at h
    exact ⟨u, by rw [h.1], h.2⟩
theorem wit_chunk_loads : ((tStrm tD true).ctx 2).strm = some (Strm.start tD) ∧ ((tStrm tD true).ctx 2).run.find? (fun x => fwIsStrm x.word) = some tStrmOp ∧
    min (chunkElems tD) (dCount tD - 0) = 2 ∧ dFunc tD < 0x0F ∧ (tStrm tD true).cxSlices 2 ≠ 0 ∧ (tStrm tD true).beforeEnd 2 = true ∧ (tStrm tD true).tagFree 18 = true ∧
    (dBlk tD 3).kind ≠ 3 ∧ ∀ i < 2, ((tSg i).strmOf 2).desc = tD ∧ ((tSg i).strmOf 2).lpos = i ∧ ((tSg i).strmOf 2).err = none ∧
      ∃ u, (tSg i).srcElems 2 (tReads i) = (.ok (tVs i), u) ∧ tSg (i + 1) = u.modStrm 2 fun x => { x with lpos := i + 1, buf := x.buf ++ [tVs i] } :=
  ⟨by decide +kernel, by decide +kernel, by decide +kernel, by decide +kernel, by decide +kernel, by decide +kernel, by decide +kernel, by decide +kernel, fun i hi => by
    obtain rfl | rfl : i = 0 ∨ i = 1 := by omega
    all_goals exact ⟨by decide +kernel, by decide +kernel, by decide +kernel, tLoad_spec (by decide +kernel)⟩⟩
theorem wit_chunk_steps : (tLoaded.strmOf 2).desc = tD ∧ (tLoaded.strmOf 2).pos = 0 ∧ (tLoaded.strmOf 2).lpos = 2 ∧ tLoaded.fitsBy 2 (chunkCycles tD 2 (tLoaded.lanes 2)) = true ∧
    (∀ i < 2, ((tTau i).strmOf 2).desc = tD ∧ ((tTau i).strmOf 2).pos = i ∧ (tTau i).latent.checks = [] ∧ ((tTau i).strmOf 2).buf.head? = some (tVs i) ∧
      ((tTau i).takeStep 2 (tVs i)).2.1 = false ∧ ((tTau i).takeStep 2 (tVs i)).2.2.latent.checks = [] ∧
      (match ((((tTau i).takeStep 2 (tVs i)).2.2.accrue 2 (streamFn tD ((tTau i).takeStep 2 (tVs i)).1).2).dstElem 2 i i 0 (streamFn tD ((tTau i).takeStep 2 (tVs i)).1).1 false).1 with
        | .ok () => true | _ => false) = true) ∧
    ((tTau 2).ctx 2).strm ≠ none ∧ ((tTau 2).strmOf 2).desc = tD ∧ ((tTau 2).strmOf 2).pos = 2 ∧ ((tTau 2).strmOf 2).lpos = 2 := by decide +kernel
/-- The prefetcher of a source in DRAM through a translation, one whose tags are taken, and one that is not prefetched. -/
def tPf : State := (tStrm (tDesc 0 5 0x200 4) true).fset (Reg.fulCStage 2) Reg.fulCStage_SIZE 1
theorem wit_prefetch : (let b := dBlk (tPf.strmOf 2).desc 0; let st := tPf.strmOf 2
      b.valid = true ∧ b.mem % 8 = 4 ∧ b.kind ≠ 3 ∧ tPf.fget (Reg.fulCStage 2) Reg.fulCStage_SIZE ≠ 0 ∧ tPf.cxSlices 2 ≠ 0 ∧ tPf.beforeEnd 2 = true ∧ 0 < dCount st.desc ∧
      b.vaBad (b.va 0 0) = none ∧ (st.staged.filter fun g => decide (g.src = 0)).length < 64 * tPf.fget (Reg.fulCStage 2) Reg.fulCStage_SIZE ∧ tPf.tagFree 18 = true ∧
      st.stagedAt 0 (b.va 0 0).toNat = none) ∧ (dBlk tD 0).mem % 8 ≠ 4 := by decide +kernel

/-! ### Memory -/

/-- A state with no registers but these, and this protection state. -/
def tProt (l : List (Nat × Word)) (p : Prot) : State := { tRegs l with prot := p }

/-- `MemoryRegisterRows`: a scrub at rest and a running one, and banks asked on: an ON one, a waking one, a RETENTION one in a rotating group, an OFF one. -/
def tScrub (st : Nat) : State := tRegs ((Reg.edcScrubPos, BitVec.ofNat 64 (0x40 + 2 ^ 51 * st)) :: (Reg.edcScrubBase, 0x40) :: (Reg.edcScrubLen, 0x80) :: tGate Reg.edcScrubGo)
theorem wit_memory_rows : (tScrub 1).grants tRq Reg.edcScrubGo ∧ (tScrub 1).fget Reg.edcScrubPos Reg.edcScrubPos_STATE = 1 ∧ (tScrub 0).grants tRq Reg.edcScrubGo ∧
    (tScrub 0).fget Reg.edcScrubPos Reg.edcScrubPos_STATE ≠ 1 ∧
    (let s := tRegs ((Reg.memSsState 0, 0b10011100) :: (Reg.memRotStat, 0x3) :: tGate (Reg.memSsPwr 0))
     s.grants tRq (Reg.memSsPwr 0) ∧ s.bankState 0 = 0 ∧ s.bankState 1 = 3 ∧ s.bankState 2 = 1 ∧ s.bankState 3 = 2 ∧
     s.fget Reg.memRotStat Reg.memRotStat_SS_ACTIVE = 1 ∧ s.fget Reg.memRotStat Reg.memRotStat_SS_BANK / 16 = 0) ∧
    (tRegs ((Reg.memSsState 0, 2) :: tGate (Reg.memSsPwr 0))).fget Reg.memRotStat Reg.memRotStat_SS_ACTIVE = 0 := by unfold State.grants; decide +kernel
/-- A write of EDC_CTL with bit 8 + k clears the log of class k and with bit 2 locks (R277, R279). -/
theorem test_edc_ctl : tAfter (.edcCtlWrite tRq 0x103) (tRegs ((Reg.edcLogAddr 0 31, 5) :: (Reg.edcLogAddr 1 31, 6) :: tGate Reg.edcCtl))
    (fun t => (t.rd Reg.edcCtl, t.rd (Reg.edcLogAddr 0 31), t.rd (Reg.edcLogAddr 1 31))) = some (3, 0, 6) := by decide +kernel

/-- `BanksRotationAndClearing`: a rotation of each memory in each phase and none. -/
def tRotate (cr : Bool) (phase : Nat) : State := tRegs [(Reg.memRotStat, BitVec.ofNat 64 (if cr then 2 ^ 12 + 2 ^ 13 * 15 + 2 ^ 17 * phase else 1 + 2 * 255 + 2 ^ 9 * phase))]
theorem wit_rotation : (∀ cr : Bool, ∀ ph ∈ [0, 1, 3, 4], let w := (tRotate cr ph).rd Reg.memRotStat
      (if cr then (if bit w 12 then some (bits w 17 3) else none) else if bit w 0 then some (bits w 9 3) else none) = some ph) ∧
    bit ((tRegs []).rd Reg.memRotStat) 12 = false ∧ bit ((tRegs []).rd Reg.memRotStat) 0 = false := by decide +kernel
/-- Banks that go to RETENTION and to OFF, one that an access keeps, and one with a merge entry elsewhere. -/
def tBankFlight (pa : Nat) : Flight := ⟨0, 0, 0, 0, true, false, ⟨⟨0, 3⟩, .write, .swap, BitVec.ofNat 44 pa, 8, 55, 0⟩, ⟨.ok, 0⟩, false⟩
def tBank (st : Word) (low : Word) (fs : List Flight) (q : List Nat) : State :=
  { tProt [(Reg.memSsState 0, st), (Reg.memSsLowmode 0, low)] { Prot.reset with wakeQ := q } with mesh := { Mesh.reset with flights := fs } }
theorem wit_bank_sleeps : (tBank 0 0 [] []).bankState 1 = 0 ∧ bit ((tBank 0 0 [] []).rd (Reg.memSsPwr 0)) 1 = false ∧
    (tBank 0 0 [] []).fget Reg.memRotStat Reg.memRotStat_SS_ACTIVE = 0 ∧ (tBank 0 0 [] []).mesh.flights = [] ∧ (tBank 0 0 [] []).prot.merge = [] ∧
    bit ((tBank 0 0 [] []).rd (Reg.memSsLowmode 0)) 1 = false := by decide +kernel
theorem wit_bank_off : (tBank 0 2 [] []).bankState 1 = 0 ∧ bit ((tBank 0 2 [] []).rd (Reg.memSsPwr 0)) 1 = false ∧
    (tBank 0 2 [] []).fget Reg.memRotStat Reg.memRotStat_SS_ACTIVE = 0 ∧ (tBank 0 2 [] []).mesh.flights = [] ∧ (tBank 0 2 [] []).prot.merge = [] ∧
    bit ((tBank 0 2 [] []).rd (Reg.memSsLowmode 0)) 1 = true := by decide +kernel
def tWaits : Flight := tBankFlight (paStream + 64)
theorem wit_bank_busy : tWaits ∈ (tBank 0 0 [tWaits] []).mesh.flights ∧ tWaits.done = false ∧ windowOf tWaits.req.pa.toNat = .stream ∧ ssBank (tWaits.req.pa.toNat - paStream) = 1 := by
  decide +kernel
theorem wit_bank_wakes : (tBank 0xC 0 [tWaits] [2, 40]).bankState 1 = 3 ∧ (tBank 0xC 0 [tWaits] [2, 40]).prot.wakeQ = 2 :: [40] ∧ 2 / 16 = 1 / 16 ∧
    (∀ k < 256, k / 16 = 1 / 16 → k ≠ 1 → (tBank 0xC 0 [tWaits] [2, 40]).bankState k ≠ 3) ∧ (tBank 0xC 0 [tWaits] [2, 40]).mesh.flights = [tWaits] ∧ tWaits.done = false := by decide +kernel
theorem wit_bank_serves : ((tBank 0xC 0 [tWaits] [2, 40]).bankOn 1).reqBlocked tWaits.req = false ∧ (tBank 0xC 0 [tWaits] [2, 40]).reqBlocked tWaits.req = true := by decide +kernel
/-- A bank that has woken is ON and serves the write that waited for it (R252). -/
theorem test_bank_wake : tAfter (.bankWakeDone 1) (tBank 0xC 0 [tBankFlight (paStream + 64)] []) (fun t => (t.bankState 1, t.byte (paStream + 64), t.mesh.flights.map (·.done))) =
    some (0, 55, [true]) := by decide +kernel
/-- A DRAM of no channel trained, one with a range to be cleared first, and one that has none. -/
def tZod (first : Word) (clearing : List Nat) (zod : SMap Bool) : State :=
  tProt [(Reg.ddrZodCtl, setBits 0 Reg.ddrZodCtl_BG_EN.lo Reg.ddrZodCtl_BG_EN.len 1), (Reg.ddrTrainStat, setBits 0 Reg.ddrTrainStat_DONE.lo Reg.ddrTrainStat_DONE.len 1),
    (Reg.ddrZodRange 0, first)] { Prot.reset with clearing := clearing, zod := zod }
def tFirst : Word := BitVec.ofNat 64 (1 + 2 ^ 20 * 3 + 2 ^ 40 * 2)
theorem wit_clearing : 5 ∈ (tZod 0 [5] []).prot.clearing ∧ (tZod 0 [5] []).mesh.flights = [] ∧ 5 ∉ (tZod 0 [] []).prot.clearing ∧
    ∀ n < 4, bits ((tZod 0 [] []).rd (Reg.ddrZodRange n)) 40 2 ≠ 2 := by decide +kernel
theorem wit_background : (tZod tFirst [] [(0, true), (1, true)]).fget Reg.ddrZodCtl Reg.ddrZodCtl_BG_EN ≠ 0 ∧
    (tZod tFirst [] [(0, true), (1, true)]).fget Reg.ddrTrainStat Reg.ddrTrainStat_DONE ≠ 0 ∧ (tZod tFirst [] [(0, true), (1, true)]).prot.clearing = [] ∧
    (tZod tFirst [] [(0, true), (1, true)]).latent.zod = [] ∧ (tZod tFirst [] [(0, true), (1, true)]).cleared 0 = true ∧ (tZod tFirst [] [(0, true), (1, true)]).cleared 1 = true ∧
    (tZod tFirst [] [(0, true), (1, true)]).cleared 2 = false ∧ 2 < (tZod tFirst [] [(0, true), (1, true)]).dramSize / 2 ^ 21 := by decide +kernel
theorem wit_background_first : bits ((tZod tFirst [] []).rd (Reg.ddrZodRange 0)) 40 2 = 2 ∧ bits ((tZod tFirst [] []).rd (Reg.ddrZodRange 0)) 0 20 = 1 ∧
    bits ((tZod tFirst [] []).rd (Reg.ddrZodRange 0)) 20 20 = 3 := by decide +kernel

/-- `RepairAndScrubbing`: write-backs of a Stream SRAM word and of a DRAM line, with what was read and with a miscorrected word. -/
def tUnits : List Nat := [paStream + 64, paCrown + 8, paCode + 16, 0x40]
theorem wit_writebacks : ∀ u ∈ tUnits, ∀ miss ∈ [[], [u]], let s := tProt [] { Prot.reset with wb := [u], miss := miss, valid := [(u / 8, 3)] }
    u < 2 ^ 44 ∧ u ∈ s.prot.wb ∧ (u ∈ s.prot.miss ↔ miss ≠ []) ∧ SMap.get 0 s.prot.valid (u / 8) < 4 ∧ s.mergeOf u = none := by decide +kernel
/-- Merge-buffer entries: a complete one, an incomplete one on a clean unit, and one on an uncorrectable unit. -/
def tMerge (k u : Nat) (mask flips : Nat) : State :=
  tProt [] { Prot.reset with merge := [⟨u, mask⟩], valid := [(u / 8, 3)], flip := if flips = 0 then [] else [(u / 8, flips)], zod := if k = 3 then [(ddrRegion u, true)] else [] }
theorem wit_merges : ∀ x ∈ [(0, paStream + 64), (1, paCrown + 8), (3, 0x40)], classOf x.2 = some x.1 ∧
    (∀ m ∈ [2 ^ unitSize x.1 - 1, 1], let s := tMerge x.1 x.2 m 0
      s.mergeOf x.2 = some ⟨x.2, m⟩ ∧ s.mirroring = false ∧ bit (s.rd Reg.edcInjCtl) 4 = false ∧ s.latent.rows = [] ∧ s.latent.lines = [] ∧ s.codeSays x.1 x.2 = .clean ∧
        SMap.get 0 s.prot.valid (x.2 / 8) = 3) ∧
    (let s := tMerge x.1 x.2 1 (if x.1 = 3 then 0x01010101 else 3)
     s.mergeOf x.2 = some ⟨x.2, 1⟩ ∧ (1 : Nat) ≠ 2 ^ unitSize x.1 - 1 ∧ s.written x.1 x.2 = true ∧ s.codeSays x.1 x.2 = .ue ∧ (x.1 = 3 → s.cleared (ddrRegion x.2) = true)) := by
  decide +kernel
/-- An entry that covers its unit drains as a clean unit (R284, R285). -/
theorem test_merge_drain : tAfter (.mergeDrain (BitVec.ofNat 44 (paStream + 64))) (tMerge 0 (paStream + 64) 0xFF 3) (fun t => (t.prot.merge.length, decide (t.codeSays 0 (paStream + 64) = .clean))) =
    some (0, true) := by decide +kernel
/-- A nominated log entry of each class: not nominated, with a free entry after a taken one, covered, and with all eight taken. -/
def tNominated (k u : Nat) (info : Word) (taken : List (Nat × Nat)) : State :=
  tRegs ([(Reg.edcCtl, setBits 0 Reg.edcCtl_AUTO_REMAP.lo 1 1), (Reg.edcLogInfo k 31, info), (Reg.edcLogAddr k 31, setBits 0 Reg.edcLogAddr_ADDR.lo Reg.edcLogAddr_ADDR.len u)] ++
    taken.map fun e => (Reg.edcRemap ((tRegs []).remapInst u) e.1, setBits (setBits 0 Reg.edcRemap_VALID.lo 1 1) Reg.edcRemap_ADDR.lo Reg.edcRemap_ADDR.len (e.2 / 8)))
def tFar (u n : Nat) : List (Nat × Nat) := (List.range n).map fun e => (e, u + 0x1000 * (e + 1))
def tDue (s : State) (k u : Nat) : Bool :=
  bit (s.rd (Reg.edcLogInfo k 31)) 18 && bit (s.rd (Reg.edcLogInfo k 31)) 16 && !bit (s.rd (Reg.edcLogInfo k 31)) 17 && decide (s.fget Reg.edcCtl Reg.edcCtl_AUTO_REMAP = 1) &&
    decide (s.fget (Reg.edcLogAddr k 31) Reg.edcLogAddr_ADDR = u)
def tCovers (s : State) (u e : Nat) : Bool :=
  decide (s.fget (Reg.edcRemap (s.remapInst u) e) Reg.edcRemap_VALID = 1) && decide (s.fget (Reg.edcRemap (s.remapInst u) e) Reg.edcRemap_ADDR * 8 / remapSpan u = u / remapSpan u)
def tValid (s : State) (u e : Nat) : Bool := decide (s.fget (Reg.edcRemap (s.remapInst u) e) Reg.edcRemap_VALID = 1)
theorem wit_remap : ∀ x ∈ [(0, paStream + 64), (1, paCrown + 8), (2, paCode + 16), (3, 0x40)],
    tDue (tNominated x.1 x.2 0x10000 []) x.1 x.2 = false ∧
    (let s := tNominated x.1 x.2 0x50000 [(7, x.2)]; tDue s x.1 x.2 = true ∧ tCovers s x.2 7 = true) ∧
    (let s := tNominated x.1 x.2 0x50000 (tFar x.2 8); tDue s x.1 x.2 = true ∧ ∀ e < 8, tValid s x.2 e = true ∧ tCovers s x.2 e = false) ∧
    (∀ n ∈ [0, 7], let s := tNominated x.1 x.2 0x50000 (tFar x.2 n); tDue s x.1 x.2 = true ∧ s.remapInst x.2 < 312 ∧ (∀ e < 8, tCovers s x.2 e = false) ∧ tValid s x.2 n = false ∧
      ∀ j < n, tValid s x.2 j = true) := by decide +kernel
/-- A scrub that runs over clean units of each class, that skips them, and that meets errors in DRAM. -/
def tScrubs (pos : Nat) (p : Prot) (l : Latent) : State :=
  { tProt [(Reg.edcScrubPos, BitVec.ofNat 64 (pos + 2 ^ 51)), (Reg.edcScrubBase, BitVec.ofNat 64 pos), (Reg.edcScrubLen, 0x80)] p with latent := l }
theorem wit_scrub_clean : ∀ pos ∈ [paStream + 64, paCrown + 64, paCode, 0x40],
    let s := tScrubs pos { Prot.reset with valid := (List.range 8).map fun i => (pos / 8 + i, 3), zod := [(0, true)] } State.reset.latent
    let k := (classOf pos).getD 3
    s.fget Reg.edcScrubPos Reg.edcScrubPos_STATE = 1 ∧ s.fget Reg.edcScrubPos Reg.edcScrubPos_POS * 64 = pos ∧ s.zodBad pos = false ∧ s.latent.lines = [] ∧ s.latent.rows = [] ∧
      ∀ u ∈ unitsOf k pos 64, s.scrubSkips k u = false ∧ s.codeSays k u = .clean ∧ (k < 2 → SMap.get 0 s.prot.valid (u / 8) = 3) := by decide +kernel
def tErrLine (flips : Nat) : State := tScrubs 0x40 { Prot.reset with flip := [(8, flips)], zod := [(0, true)] } State.reset.latent
theorem wit_scrub_dram : (classOf 0x40).getD 3 = 3 ∧ (∀ f ∈ [1, 0x010101], (tErrLine f).scrubSkips 3 0x40 = false ∧ (tErrLine f).zodBad 0x40 = false ∧ (tErrLine f).codeSays 3 0x40 = .ce) ∧
    (tErrLine 0x01010101).scrubSkips 3 0x40 = false ∧ (tErrLine 0x01010101).codeSays 3 0x40 = .ue ∧ (tErrLine 1).latent.rows = [] ∧ (tErrLine 1).latent.lines = [] ∧
    (tScrubs 0x40 Prot.reset { State.reset.latent with zod := [0] }).zodBad 0x40 = true := by decide +kernel
/-- Four bad symbols of a line are counted as uncorrectable (R272, R289, R290). -/
theorem test_scrub_ue : tAfter .scrubUnit (tErrLine 0x01010101) (fun t => (t.fget Reg.edcScrubSum Reg.edcScrubSum_CE, t.fget Reg.edcScrubSum Reg.edcScrubSum_UE,
    t.fget Reg.edcScrubFirstUe Reg.edcScrubFirstUe_VALID)) = some (0, 1, 1) := by decide +kernel

/-! ### Ports and admission -/

/-- A value with these fields. -/
def tFld (l : List (Fld × Nat)) : Word := l.foldl (fun w e => setBits w e.1.lo e.1.len e.2) 0

/-- The initiator's tags are set to one, and a request of its holds it, or none does. -/
def tTag (init : Fin 30) (free : Bool) (s : State) : State := { s.wr (Reg.sysTagq (quotaOf init)) (tFld [(Reg.sysTagq_MAX, 1), (Reg.sysTagq_MIN, 1)]) with
  mesh := { Mesh.reset with flights := if free then [] else [⟨0, 0, 0, 0, true, false, ⟨⟨init, 0⟩, .read, .swap, 0, 32, 0, 0⟩, ⟨.ok, 0⟩, false⟩] } }

/-- Ring 5 of Crown RAM, 4 KiB, owned by triad 2, its record written at 128 and read to 0. -/
def tRing : List (Nat × Word) := [(Reg.memCrRing 5, tFld [(Reg.memCrRing_VALID, 1), (Reg.memCrRing_SIZE, 1), (Reg.memCrRing_OWNER, 2), (Reg.memCrRing_SERVICE_US, 1)]),
  (Reg.admRingPtr 5, tFld [(Reg.admRingPtr_PROD, 128)])]
/-- A staged entry of 70-byte frames for ring 5, on port 0. -/
def tCon (sdu : Nat) : Word := BitVec.ofNat 64 (sdu + 2 ^ 14 + 2 ^ 24 * 10)
def tDst (own : Nat) : Word := BitVec.ofNat 64 (2 ^ 4 * 5 + 2 ^ 23 * own)
def tAdm (rt con dst budget : Nat) (l : List (Nat × Word)) : State :=
  tRegs (l ++ [(Reg.admCfg, tFld [(Reg.admCfg_RT_ADMIT, rt)]), (Reg.admReqW 0, BitVec.ofNat 64 (77 + 2 ^ 62)), (Reg.admReqW 1, tCon con), (Reg.admReqW 2, tDst dst),
    (Reg.admBudget, BitVec.ofNat 64 budget), (Reg.ethCfg 0, tFld [(Reg.ethCfg_MAX_FRAME, 9000)])] ++ tRing ++ tGate Reg.admReqCtl)
/-- Entry `n`, valid, with the identification of the staged entry. -/
def tEntry (n : Nat) (con : Nat) : List (Nat × Word) := [(Reg.admEntryId n, BitVec.ofNat 64 (77 + 2 ^ 62)), (Reg.admEntryContract n, tCon con), (Reg.admEntryDest n, BitVec.ofNat 64 (2 ^ 4 * 5 + 2 ^ 21))]
def tCode (s : State) (n : Nat) : Nat × Nat := (s.fget Reg.admReqStatus Reg.admReqStatus_BUSY, s.admitCode n (s.rd (Reg.admReqW 0)) (s.rd (Reg.admReqW 1)) (s.rd (Reg.admReqW 2)))
/-- `PortAndAdmissionRows`: a request meets each check of R308 and passes them, at the first entry and at the last. -/
theorem wit_admission : tCode (tAdm 0 70 2 1000 []) 0 = (0, 8) ∧ tCode (tAdm 1 70 2 1000 (tEntry 0 70)) 0 = (0, 1) ∧ tCode (tAdm 1 59 2 1000 []) 1023 = (0, 3) ∧
    tCode (tAdm 1 70 3 1000 []) 0 = (0, 4) ∧ tCode (tAdm 1 70 2 1000 (tEntry 1022 70)) 1023 = (0, 9) := by decide +kernel
theorem wit_admission_fits : tCode (tAdm 1 3000 2 100000 []) 0 = (0, 5) ∧ tCode (tAdm 1 70 2 111 []) 0 = (0, 6) ∧ tCode (tAdm 1 70 2 112 []) 0 = (0, 0) := by decide +kernel
theorem wit_admission_busy : (tAdm 1 70 2 0 [(Reg.admReqStatus, tFld [(Reg.admReqStatus_BUSY, 1)])]).fget Reg.admReqStatus Reg.admReqStatus_BUSY ≠ 0 ∧
    State.grants (tAdm 1 70 2 0 []) tRq Reg.admReqCtl ∧ (tAdm 1 70 2 0 []).fget Reg.admReqStatus Reg.admReqStatus_BUSY = 0 := by unfold State.grants; decide +kernel
/-- A charge is (SDU + 70) × 8 × FRAMES / INTERVAL rounded up (R308): 140 × 8 / 10 = 112 Mb/s. -/
theorem test_admit : tAfter (.admReqAdmit tRq 3) (tAdm 1 70 2 112 []) (fun t => (t.fget Reg.admBudgetUsed (budgetFld 0), t.fget Reg.admBudgetUsed (budgetFld 1), t.entryValid 3)) =
    some (112, 0, true) := by decide +kernel
/-- `AdmissionWithdrawal`: an entry of the image, one that is not valid, and one that is. -/
theorem wit_withdrawal : bit ((tAdm 1 70 2 0 [(Reg.admEntryDest 1023, 0x600000)]).rd (Reg.admEntryDest 1023)) 22 = true ∧
    bit ((tAdm 1 70 2 0 []).rd (Reg.admEntryDest 0)) 22 = false ∧ bit ((tAdm 1 70 2 0 []).rd (Reg.admEntryDest 0)) 21 = false ∧
    bit ((tAdm 1 70 2 0 (tEntry 0 70)).rd (Reg.admEntryDest 0)) 22 = false ∧ bit ((tAdm 1 70 2 0 (tEntry 0 70)).rd (Reg.admEntryDest 0)) 21 = true := by decide +kernel
/-- A withdrawal returns the charge (R309). -/
theorem test_withdraw : tAfter (.admReqWithdraw tRq 0) (tAdm 1 70 2 112 ((Reg.admBudgetUsed, 200) :: tEntry 0 70)) (fun t => (t.fget Reg.admBudgetUsed (budgetFld 0), t.entryValid 0)) =
    some (88, false) := by decide +kernel
/-- A CONS that reaches PROD moves, and those beyond PROD, at the ring's end and off a granule do not; the same for a ring of Stream SRAM. -/
def tCons : State := tRegs (tRing ++ tGate (Reg.admRingPtr 5))
def tMoves (s : State) (ix x : Nat) : Bool :=
  decide (x % 64 = 0) && decide (x < s.ringSize ix) && decide (ringDist (s.ringSize ix) (s.cons ix) x ≤ ringDist (s.ringSize ix) (s.cons ix) (s.prod ix))
def tSring : State := tRegs ([(Reg.admSringCfg 63, tFld [(Reg.admSringCfg_VALID, 1), (Reg.admSringCfg_SIZE, 1)]), (Reg.admSringPtr 63, tFld [(Reg.admSringPtr_PROD, 128)])] ++ tGate (Reg.admSringPtr 63))
theorem wit_cons : State.grants tCons tRq (Reg.admRingPtr 5) ∧ [0, 64, 128, 192, 4096, 65].map (tMoves tCons 5) = [true, true, true, false, false, false] ∧
    State.grants tSring tRq (Reg.admSringPtr 63) ∧ [0, 64, 128, 192, 4096, 65].map (tMoves tSring 127) = [true, true, true, false, false, false] := by unfold State.grants; decide +kernel
/-- A gate configuration change with none pending, and with one; an installation. -/
theorem wit_change : State.grants (tRegs (tGate (Reg.ethGclCtl 1))) tRq (Reg.ethGclCtl 1) ∧ (tRegs (tGate (Reg.ethGclCtl 1))).fget (Reg.ethStatus 1) Reg.ethStatus_GCL_PENDING = 0 ∧
    (tRegs ((Reg.ethStatus 1, tFld [(Reg.ethStatus_GCL_PENDING, 1)]) :: tGate (Reg.ethGclCtl 1))).fget (Reg.ethStatus 1) Reg.ethStatus_GCL_PENDING = 1 ∧
    State.grants (tRegs (tGate (Reg.ethMsecInstall 1))) tRq (Reg.ethMsecInstall 1) := by unfold State.grants; decide +kernel

/-- A frame of this type and length from a station, on port 0's MAC 0. -/
def tFrame (ety n : Nat) (fec fcs : Bool) : FrameIn := ⟨0, 0, fec, fcs, false, 20, toBe 6 77 ++ toBe 6 5 ++ toBe 2 ety ++ List.replicate (n - 14) 0⟩
/-- Port 0 in RUN with MAC 0 up and frames up to 100 bytes; entry 7 takes frames for station 77. -/
def tPort (l : List (Nat × Word)) : State := tRegs ([(Reg.sysState, tFld [(Reg.sysState_OPSTATE, 3)]), (Reg.ethCfg 0, tFld [(Reg.ethCfg_MAC_EN, 1), (Reg.ethCfg_MAX_FRAME, 100)]),
  (Reg.ethStatus 0, tFld [(Reg.ethStatus_LINK_UP, 1)])] ++ tRing ++ l)
def tLong (f : FrameIn) (s : State) : Bool := s.receives && s.macUp f.p f.m && !f.fecBad && !f.fcsBad && decide (64 ≤ f.data.length + 4) && decide (f.data.length + 4 ≤ s.maxFrame f.p) &&
  decide (be f.data 12 2 ≠ 0x8808) && !(s.fget (Reg.ethMsecCtl f.p) Reg.ethMsecCtl_RX_STRICT).testBit f.m
/-- `FrameReception`: a MAC that is down, an FEC error, an FCS error, frames a byte too short and too long, and frames of 64 and 100 bytes. -/
theorem wit_frame_bounds : (tRegs []).receives = false ∧ (tPort []).receives = true ∧ (tPort []).macUp 0 0 = true ∧ (tFrame 0x800 60 true false).fecBad = true ∧
    (tFrame 0x800 60 false true).fcsBad = true ∧ (tFrame 0x800 59 false false).data.length + 4 < 64 ∧ (tPort []).maxFrame 0 < (tFrame 0x800 97 false false).data.length + 4 ∧
    tLong (tFrame 0x800 60 false false) (tPort []) = true ∧ tLong (tFrame 0x88F7 96 false false) (tPort []) = true := by decide +kernel
def tEntered (l : List (Nat × Word)) : State := (tPort (tEntry 7 70 ++ l)).fadd (Reg.ethMacRxcnt 0 0) Reg.ethMacRxcnt_RX_FRAMES 1
theorem wit_frame_kinds : (parseFrame (tFrame 0x88F7 96 false false).data).etype = 0x88F7 ∧ (parseFrame (tFrame 0x800 70 false false).data).etype ≠ 0x88F7 ∧
    (tPort []).identify 0 (parseFrame (tFrame 0x800 70 false false).data) = none ∧ (tEntered []).identify 0 (parseFrame (tFrame 0x800 70 false false).data) = some 7 := by decide +kernel
/-- A frame of the SDU's 70 bytes that the ring has room for, and one of 71. -/
theorem wit_frame_admitted : let s := tPort (tEntry 7 70); let dst := s.rd (Reg.admEntryDest 7);
    bits (s.rd (Reg.admEntryContract 7)) 0 14 < (parseFrame (tFrame 0x800 71 false false).data).body.length ∧
    (s.police 7 (parseFrame (tFrame 0x800 70 false false).data).body.length (s.stampAt 20).count).1 = true ∧ bits dst 2 2 = 0 ∧ bit dst 10 = false ∧ bit dst 11 = false ∧
    s.ringValid (bits dst 4 6) = true ∧ recordBytes 70 < s.ringSize 5 - ringDist (s.ringSize 5) (s.cons 5) (s.prod 5) ∧ (s.ring 5).wait = [] := by decide +kernel
/-- An admitted frame waits in its ring and one over its contract is counted (R297, R298, R301). -/
theorem test_frame : tAfter (.frameReceive (tFrame 0x800 70 false false)) (tPort (tEntry 7 70)) (fun t => (t.ring 5).wait.map fun x => (x.entry, x.src, x.data.length)) = some [(7, 0, 70)] := by
  decide +kernel
theorem test_policed : tAfter (.frameReceive (tFrame 0x800 71 false false)) (tPort (tEntry 7 70)) (fun t => ((t.ring 5).wait.length, t.fget (Reg.admEntryCnt 7) Reg.admEntryCnt_POLICED)) = some (0, 1) := by
  decide +kernel
/-- A ring with a record that waits, GUARANTEED and late, where ETH has a tag, and where it has none. -/
def tVisible (free : Bool) : State := { tTag iETH free (tRegs tRing) with time := DevTime.ofTotal 5000 0 }.setRing 5 { rseq := 3, flip := false, wait := [⟨State.reset.stampAt 0, 100, 0, 7, 0, List.replicate 70 7⟩] }
theorem wit_visible : ((tVisible true).ring 5).wait ≠ [] ∧ (tVisible true).tagFree iETH.val = true ∧ (tVisible false).tagFree iETH.val = false ∧ 100 + 1500 < (tVisible true).now.toNat ∧
    (tVisible true).ringBell 5 = some (2, 0) ∧ ((tVisible true).ring 4).wait = [] := by decide +kernel
/-- A recovery function that has passed nothing for RESET_US, and for less. -/
def tRec (last : Nat) : State := { (tRegs [(Reg.admCbfCfg 511, tFld [(Reg.admCbfCfg_RESET_US, 2)])]) with
  time := DevTime.ofTotal 5000 0 }.modEth fun e => { e with cbf := [(511, { CbFn.reset with taken := true, last := last })] }
theorem wit_recovery : ∀ x ∈ [(3000, true), (3001, false)], ((tRec x.1).cbFn 511).taken = true ∧
    decide (((tRec x.1).cbFn 511).last + 1000 * (tRec x.1).fget (Reg.admCbfCfg 511) Reg.admCbfCfg_RESET_US ≤ (tRec x.1).now.toNat) = x.2 := by decide +kernel

/-- `LinksGatesAndTransmission`: links that are up and down, a MAC that may come up, and one that asks for preemption. -/
def tLink : State := tPort [(Reg.sysBootStat, tFld [(Reg.sysBootStat_STEP, 6)]), (Reg.ethCfg 0, tFld [(Reg.ethCfg_MAC_EN, 15), (Reg.ethCfg_MODE, 2), (Reg.ethCfg_PREEMPT_EN, 15), (Reg.ethCfg_VERIFY_EN, 15)])]
theorem wit_links : bit (tLink.rd (Reg.ethStatus 0)) 4 = true ∧ bit (tLink.rd (Reg.ethStatus 0)) 7 = false ∧ 3 < macsOf (tLink.portMode 0) ∧
    (tLink.fget (Reg.ethCfg 0) Reg.ethCfg_MAC_EN).testBit 3 = true ∧ tLink.fget (Reg.clkPll 6) Reg.clkPll_STOPPED = 0 ∧ 6 ≤ tLink.fget Reg.sysBootStat Reg.sysBootStat_STEP ∧
    (tLink.fget (Reg.ethCfg 0) Reg.ethCfg_PREEMPT_EN).testBit 0 = true ∧ (tLink.fget (Reg.ethCfg 0) Reg.ethCfg_VERIFY_EN).testBit 0 = true ∧ tLink.macUp 0 0 = true ∧ tLink.macUp 0 3 = false := by decide +kernel
/-- Lists that run and do not, with no change and with one that is due at the present time and a nanosecond later. -/
def tGcl (on at' : Nat) : State := ({ tRegs [(Reg.ethGclCtl 1, tFld [(Reg.ethGclCtl_ENABLE, on)]), (Reg.ethGcl 1 0 0, BitVec.ofNat 64 (0x1FF + 2 ^ 32 * 300))] with time := DevTime.ofTotal 5000 0 }).setGcl 1
  ⟨100, 1000, 1, 0, if at' = 0 then none else some (at', 500, 2)⟩
theorem wit_gate_lists : (tGcl 0 0).gclOn 1 = false ∧ (tGcl 1 0).gclOn 1 = true ∧ ((tGcl 1 0).gclOf 1).chg = none ∧ ((tGcl 1 5000).gclOf 1).chg = some (5000, 500, 2) ∧ (tGcl 1 5000).now.toNat = 5000 ∧
    ((tGcl 1 5001).gclOf 1).chg = some (5001, 500, 2) := by decide +kernel
/-- Queue 5 of port 0 with a response, and with a descriptor at HEAD, for a device that is no standby, for one, and without a tag. -/
def tTx (role : Nat) (free resp : Bool) : State :=
  let l := [(Reg.ethTxqCfg 0 5, tFld [(Reg.ethTxqCfg_ENTRIES, 8)]), (Reg.ethTxqTail 0 5, tFld [(Reg.ethTxqTail_TAIL, 1)]), (Reg.ethTxqBase 0 5, tFld [(Reg.ethTxqBase_BASE, paStream / 32 + 64)]),
    (Reg.twinStatus, tFld [(Reg.twinStatus_ROLE, role)])] ++ tGate 0
  let s := (tTag iETH free (tPort (l ++ [(Reg.gateRuleCtl 1 0, 0xF), (Reg.gateRuleLimit 1 0, 0xFFFFFFFFFC0), (Reg.gateRuleMask 1 0, 0xFFFFFFFF)]))).modDhp fun x => { x with txq := if resp then [(0, 5, [1, 2, 3])] else [] }
  { s with mem := ((List.range 32).map fun i => (paStream + 2048 + i, BitVec.ofNat 8 ((paStream + 4096 + 2 ^ 64 * 60) / 256 ^ i))).filter fun e => e.2 ≠ 0,
           prot := { s.prot with valid := (List.range 4).map fun i => ((paStream + 2048) / 8 + i, 3) } }
def tMaySend (s : State) : Bool := s.receives && s.macUp 0 0 && s.txReady 0 5 && s.gateOpen 0 5 && s.fitsGate 0 5 (s.txLen 0 5) &&
  (List.range 8).all fun k => decide (k ≤ 5) || !(s.txReady 0 k && s.gateOpen 0 k)
theorem wit_sends : tMaySend (tTx 0 true true) = true ∧ (tTx 0 true true).respHead 0 5 = some [1, 2, 3] ∧ tMaySend (tTx 0 true false) = true ∧ (tTx 0 true false).respHead 0 5 = none ∧
    (tTx 0 true false).tagFree iETH.val = true ∧ (tTx 0 false false).tagFree iETH.val = false ∧ (tTx 0 false false).respHead 0 5 = none ∧ tMaySend (tTx 0 false false) = true ∧ tMaySend (tTx 2 true false) = true ∧
    (tPort []).txReady 0 5 = false := by decide +kernel
theorem wit_descriptor : (match (tTx 0 true false).devRead iETH (paStream + 2048) 32 with
    | (some w, u) => decide (leNat w % 2 ^ 64 = paStream + 4096) && decide (leNat w / 2 ^ 64 % 2 ^ 16 = 60) && decide (leNat w / 2 ^ 80 % 2 ^ 8 = 0) && decide (u.role = 0) &&
        decide (64 ≤ u.maxFrame 0) && (u.devRead iETH (paStream + 4096) 60).1.isSome
    | _ => false) = true ∧ bit ((tTx 2 true false).rd Reg.twinQmode) 5 = false ∧ (tTx 2 true false).role = 2 := by decide +kernel
/-- A response leaves first, and HEAD advances (R311, R316). -/
theorem test_response_sent : tAfter (.frameTransmit 0 5 false) (tTx 0 true true) (fun t => (t.eth.sent.map (·.data), t.dhp.txq.length, t.fget (Reg.ethTxqHead 0 5) Reg.ethTxqHead_HEAD)) =
    some ([[1, 2, 3]], 0, 1) := by decide +kernel

/-! ### The host protocol -/

theorem tByteAt_spec {h r : List Byte} {n x k : Nat} (hk : k < n) : byteAt (h ++ toBe n x ++ r) (h.length + k) = x / 256 ^ (n - 1 - k) % 256 := by
  have e : (toBe n x).length = n := by simp [toBe]
  have g : (toBe n x)[k]? = some (BitVec.ofNat 8 (x / 2 ^ (8 * (n - 1 - k)))) := by simp [toBe, hk]
  rw [byteAt, List.getD_eq_getElem?_getD, List.append_assoc, List.getElem?_append_right (by omega), Nat.add_sub_cancel_left, List.getElem?_append_left (by omega), g]
  simp [Nat.pow_mul]

/-- A number written big-endian into a string is read back from its place. -/
theorem tBe_spec (h r : List Byte) (n x : Nat) : be (h ++ toBe n x ++ r) h.length n = x % 256 ^ n := by
  suffices g : ∀ m ≤ n, (List.range m).foldl (fun v k => v * 256 + byteAt (h ++ toBe n x ++ r) (h.length + k)) 0 = x / 256 ^ (n - m) % 256 ^ m by
    have := g n (Nat.le_refl n)
    rwa [Nat.sub_self, Nat.pow_zero, Nat.div_one] at this
  intro m
  induction m with
  | zero => intro _; simp [Nat.mod_one]
  | succ m ih =>
    intro hm
    rw [List.range_succ, List.foldl_append, ih (by omega), List.foldl_cons, List.foldl_nil, tByteAt_spec (by omega)]
    have e : n - m = n - (m + 1) + 1 := by omega
    have e' : n - 1 - m = n - (m + 1) := by omega
    rw [e', e, Nat.pow_succ, ← Nat.div_div_eq_div_mul, Nat.pow_succ 256 m, Nat.mul_comm (256 ^ m) 256, Nat.mod_mul]
    omega

/-- A message's code is a number of 128 bits. -/
theorem tCmac_spec (key : Nat) (d : List Byte) : cmac key d < 256 ^ 16 := by
  unfold cmac aesBlock
  exact BitVec.isLt _

/-- A request on MAC 3 with this header, payload and tag. -/
def tHdr (cmd sess epoch seq : Nat) (opens : Bool) (len : Nat) : List Byte :=
  [1, if opens then 2 else 0, BitVec.ofNat 8 cmd, 0] ++ toBe 2 sess ++ toBe 2 epoch ++ toBe 4 seq ++ toBe 2 len ++ toBe 2 0
def tDhpReq (cmd sess epoch seq : Nat) (opens : Bool) (pay : List Byte) (tag : Nat) : DhpReq :=
  ⟨false, 3, State.reset.stampAt 5, 5, none, none, tHdr cmd sess epoch seq opens pay.length ++ toBe 16 tag ++ pay⟩
/-- The same with the tag of the key. -/
def tTagged (key cmd sess epoch seq : Nat) (opens : Bool) (pay : List Byte) : DhpReq :=
  tDhpReq cmd sess epoch seq opens pay (cmac key (tHdr cmd sess epoch seq opens pay.length ++ pay))

theorem tVerifies_spec {key cmd sess epoch seq : Nat} {opens : Bool} {pay : List Byte} (h : (tTagged key cmd sess epoch seq opens pay).msg.pay = pay) :
    (tTagged key cmd sess epoch seq opens pay).msg.verifies key = true := by
  have e : (tHdr cmd sess epoch seq opens pay.length).length = 16 := by simp [tHdr, toBe]
  have t : (tTagged key cmd sess epoch seq opens pay).msg.hdr = tHdr cmd sess epoch seq opens pay.length := by
    simp only [DhpReq.msg, tTagged, tDhpReq]
    rw [List.append_assoc, List.take_append_of_le_length (by omega), List.take_of_length_le (by omega)]
  have g : (tTagged key cmd sess epoch seq opens pay).msg.tag = cmac key (tHdr cmd sess epoch seq opens pay.length ++ pay) := by
    have := tBe_spec (tHdr cmd sess epoch seq opens pay.length) pay 16 (cmac key (tHdr cmd sess epoch seq opens pay.length ++ pay))
    rw [e, Nat.mod_eq_of_lt (tCmac_spec _ _)] at this
    simpa only [DhpReq.msg, tTagged, tDhpReq] using this
  rw [DhpMsg.verifies, g, t, h]
  exact decide_eq_true rfl

/-- The engine in an operating state with session 2, of key 55, open under epoch 9 with all rights, the responses held, and this request at its head. -/
def tHost (op : Nat) (held : List (Nat × List Byte)) (out : Nat) (l : List (Nat × Word)) (q : DhpReq) : State :=
  (tTag iDHP true (tRegs ([(Reg.sysState, tFld [(Reg.sysState_OPSTATE, op)]), (Reg.sysBootStat, tFld [(Reg.sysBootStat_STEP, 9)]),
    (Reg.dhpKey 2, tFld [(Reg.dhpKey_VALID, 1), (Reg.dhpKey_RIGHTS, 7), (Reg.dhpKey_OPEN, 1), (Reg.dhpKey_EPOCH, 9), (Reg.dhpKey_HIGH_SEQ, 100), (Reg.dhpKey_OUTSTANDING, out)]),
    (Reg.dhpKey 7, tFld [(Reg.dhpKey_VALID, 1)])] ++ l))).modDhp fun d =>
      { d with sess := [(2, some ⟨55, held, held.length, 0⟩)], keys := [(7, 77)], queue := [q] }

theorem tHead_spec {op out : Nat} {held : List (Nat × List Byte)} {l : List (Nat × Word)} {q : DhpReq} (h : q.ctrl = false) : (tHost op held out l q).engineHead = some q := by
  have e : (tHost op held out l q).dhp.queue = [q] := rfl
  simp [State.engineHead, e, h]

def tAskedB (s : State) (q : DhpReq) : Bool := s.engineRuns && s.tagFree iDHP.val && !q.msg.malformed && cmdDefined q.msg.cmd
theorem tAsked_spec {s : State} {q : DhpReq} (h : tAskedB s q = true) (e : s.engineHead = some q) : Asked s q.msg := by
  simp only [tAskedB, Bool.and_eq_true, Bool.not_eq_true'] at h
  exact ⟨h.1.1.1, h.1.1.2, e, rfl, h.1.2, h.2⟩

/-- What session 2 asks of a request beside its tag. -/
def tInSessionB (s : State) (q : DhpReq) (held : List (Nat × List Byte)) : Bool :=
  decide (q.msg.sess = 3) && decide (s.sess 2 = some ⟨55, held, held.length, 0⟩) && decide (q.msg.epoch = s.fget (Reg.dhpKey 2) Reg.dhpKey_EPOCH)
theorem tInSession_spec {s : State} {q : DhpReq} {held : List (Nat × List Byte)} (h : tInSessionB s q held = true) (v : q.msg.verifies 55 = true) :
    InSession s q.msg 2 ⟨55, held, held.length, 0⟩ := by
  simp only [tInSessionB, Bool.and_eq_true, decide_eq_true_eq] at h
  exact ⟨⟨h.1.1, by omega⟩, h.1.2, h.2, v⟩

/-- A new request of session 2 with its tag. -/
def tCmd (cmd : Nat) (pay : List Byte) : DhpReq := tTagged 55 cmd 3 9 101 false pay
def tPassedB (s : State) (q : DhpReq) : Bool :=
  tAskedB s q && tInSessionB s q [] && !(decide (q.msg.cmd = 1) && q.msg.opens) && seqNewer q.msg.seq (s.fget (Reg.dhpKey 2) Reg.dhpKey_HIGH_SEQ) &&
    decide (s.fget (Reg.dhpKey 2) Reg.dhpKey_OUTSTANDING < 16) && cmdLegal q.msg.cmd (s.taken q.msg 2 ⟨55, [], 0, 0⟩).opstate &&
    (match cmdRight q.msg.cmd with | none => true | some b => ((s.taken q.msg 2 ⟨55, [], 0, 0⟩).fget (Reg.dhpKey 2) Reg.dhpKey_RIGHTS).testBit b)
theorem tPassed_spec {s : State} {q : DhpReq} (h : tPassedB s q = true) (e : s.engineHead = some q) (v : q.msg.verifies 55 = true) : Passed s q.msg (some 2) (s.taken q.msg 2 ⟨55, [], 0, 0⟩) := by
  simp only [tPassedB, Bool.and_eq_true, decide_eq_true_eq, Bool.not_eq_true'] at h
  obtain ⟨⟨⟨⟨⟨⟨h1, h2⟩, h3⟩, h4⟩, h5⟩, h6⟩, h7⟩ := h
  refine { tAsked_spec h1 e with
    closed := fun hc => by simp [hc.1, hc.2] at h3
    route := .inr ⟨2, _, rfl, tInSession_spec h2 v, by simp, h4, h5, rfl⟩
    right := ?_
    legal := h6 }
  unfold State.mayAsk
  cases hr : cmdRight q.msg.cmd with
  | none => exact .inl rfl
  | some b => rw [hr] at h7; exact .inr ⟨b, 2, rfl, rfl, h7⟩

/-- `HostRequestChecks`: an engine that does not run and one without a tag; the routes of a request that a session does not take. -/
def tPing (sess epoch tag : Nat) : DhpReq := tDhpReq 1 sess epoch 101 false [1] tag
theorem wit_engine : (tHost 1 [] 0 [] (tPing 0 0 0)).engineRuns = false ∧ (tTag iDHP false (tHost 3 [] 0 [] (tPing 0 0 0))).tagFree iDHP.val = false := by decide +kernel
theorem wit_asked : Asked (tHost 3 [] 0 [] (tPing 0 0 0)) (tPing 0 0 0).msg ∧ (tPing 0 0 0).msg.cmd = 1 ∧ (tPing 0 0 0).msg.opens = false ∧ (tPing 0 0 0).msg.cmd ≠ 2 :=
  ⟨tAsked_spec (by decide +kernel) (tHead_spec rfl), by decide +kernel⟩
theorem wit_routes : (tPing 0 0 5).msg.sess = 0 ∧ (tPing 0 0 5).msg.tag ≠ 0 ∧ 8 < (tPing 9 0 5).msg.sess ∧ (tPing 8 0 5).msg.sess ≠ 0 ∧
    (tHost 3 [] 0 [] (tPing 8 0 5)).sess ((tPing 8 0 5).msg.sess - 1) = none ∧ (tHost 3 [] 0 [] (tPing 3 8 5)).sess ((tPing 3 8 5).msg.sess - 1) = some ⟨55, [], 0, 0⟩ ∧
    (tPing 3 8 5).msg.epoch ≠ (tHost 3 [] 0 [] (tPing 3 8 5)).fget (Reg.dhpKey 2) Reg.dhpKey_EPOCH ∧ (tPing 3 9 5).msg.epoch = (tHost 3 [] 0 [] (tPing 3 9 5)).fget (Reg.dhpKey 2) Reg.dhpKey_EPOCH := by
  decide +kernel
/-- A request whose tag is one more than the key's is not of the session. -/
theorem wit_bad_tag : ∃ q : DhpReq, q.msg.sess = 3 ∧ q.msg.epoch = 9 ∧ q.msg.verifies 55 = false := by
  by_cases h : (tPing 3 9 0).msg.verifies 55 = true
  · refine ⟨tPing 3 9 1, by decide +kernel, by decide +kernel, ?_⟩
    have t : (tPing 3 9 0).msg.tag = 0 ∧ (tPing 3 9 1).msg.tag = 1 := by decide +kernel
    have e : (tPing 3 9 0).msg.hdr ++ (tPing 3 9 0).msg.pay = (tPing 3 9 1).msg.hdr ++ (tPing 3 9 1).msg.pay := by decide +kernel
    have c := of_decide_eq_true h
    exact decide_eq_false (by rw [t.2, ← e, ← c, t.1]; decide)
  · exact ⟨tPing 3 9 0, by decide +kernel, by decide +kernel, by simpa using h⟩
/-- A repeated number, an old one that is not held, and a seventeenth. -/
theorem wit_session : InSession (tHost 3 [(101, [7])] 0 [] (tCmd 1 [1])) (tCmd 1 [1]).msg 2 ⟨55, [(101, [7])], 1, 0⟩ ∧ (tCmd 1 [1]).msg.seq = 101 ∧
    InSession (tHost 3 [] 16 [] (tCmd 1 [1])) (tCmd 1 [1]).msg 2 ⟨55, [], 0, 0⟩ ∧ (tHost 3 [] 16 [] (tCmd 1 [1])).fget (Reg.dhpKey 2) Reg.dhpKey_OUTSTANDING = 16 ∧
    seqNewer 101 ((tHost 3 [] 16 [] (tCmd 1 [1])).fget (Reg.dhpKey 2) Reg.dhpKey_HIGH_SEQ) = true ∧
    InSession (tHost 3 [] 0 [] (tTagged 55 1 3 9 100 false [1])) (tTagged 55 1 3 9 100 false [1]).msg 2 ⟨55, [], 0, 0⟩ ∧
    seqNewer 100 ((tHost 3 [] 0 [] (tTagged 55 1 3 9 100 false [1])).fget (Reg.dhpKey 2) Reg.dhpKey_HIGH_SEQ) = false :=
  ⟨tInSession_spec (by decide +kernel) (tVerifies_spec (by decide +kernel)), by decide +kernel, tInSession_spec (by decide +kernel) (tVerifies_spec (by decide +kernel)),
    by decide +kernel, by decide +kernel, tInSession_spec (by decide +kernel) (tVerifies_spec (by decide +kernel)), by decide +kernel⟩
/-- A sessionless request that the engine hears, which may not ask for a job and may not be served a PING before the end of blocking. -/
theorem wit_heard : Heard (tHost 3 [] 0 [] (tDhpReq 0x20 0 0 0 false [] 0)) (tDhpReq 0x20 0 0 0 false [] 0).msg none
      ((tHost 3 [] 0 [] (tDhpReq 0x20 0 0 0 false [] 0)).dropReq (tDhpReq 0x20 0 0 0 false [] 0)) ∧ cmdRight 0x20 ≠ none ∧
    cmdRight 0x30 = some 1 ∧ cmdLegal 0x40 3 = false ∧ cmdRight 0x40 = some 2 :=
  ⟨{ tAsked_spec (by decide +kernel) (tHead_spec rfl) with
      closed := by decide +kernel
      route := .inl ⟨rfl, by decide +kernel, by decide +kernel, rfl⟩ }, by decide, by decide, by decide, by decide⟩
/-- An opening PING under the host key of session 7, and one that names no valid key. -/
def tOpen : DhpReq := tTagged 77 1 8 0 7 true (List.replicate 16 9)
theorem wit_opens : tOpen.msg.cmd = 1 ∧ tOpen.msg.opens = true ∧ tOpen.msg.sess = 8 ∧ (tHost 3 [] 0 [] tOpen).fget (Reg.dhpKey 7) Reg.dhpKey_VALID = 1 ∧
    tOpen.msg.verifies (SMap.get 0 (tHost 3 [] 0 [] tOpen).dhp.keys 7) = true ∧ tOpen.msg.epoch = 0 ∧ tOpen.msg.pay.length = 16 ∧ (tHost 3 [] 0 [] tOpen).sess 7 = none ∧
    (tHost 3 [] 0 [] tOpen).fget (Reg.dhpKey 1) Reg.dhpKey_VALID = 0 :=
  ⟨by decide +kernel, by decide +kernel, by decide +kernel, by decide +kernel, tVerifies_spec (by decide +kernel), by decide +kernel, by decide +kernel, by decide +kernel, by decide +kernel⟩
/-- A response's queue that has room, and one that has none. -/
def tRespQ (head : Nat) : State := tHost 3 [] 0 [(Reg.ethTxqCfg 0 24, tFld [(Reg.ethTxqCfg_ENTRIES, 2)]), (Reg.ethTxqHead 0 24, tFld [(Reg.ethTxqHead_HEAD, head)])] (tPing 0 0 0)
theorem wit_room : 8 * (3 % 4) + (tRespQ 0).fget Reg.dhpCfg Reg.dhpCfg_TC = 24 ∧ (tRespQ 0).fget (Reg.ethTxqCfg 0 24) Reg.ethTxqCfg_ENTRIES = 2 ∧
    (tRespQ 0).fget (Reg.ethTxqHead 0 24) Reg.ethTxqHead_HEAD = 0 ∧ (tRespQ 1).fget (Reg.ethTxqHead 0 24) Reg.ethTxqHead_HEAD = 1 ∧
    (tRespQ 0).fget (Reg.ethTxqTail 0 24) Reg.ethTxqTail_TAIL = 0 ∧ (tPing 0 0 0).udp = none := by decide +kernel

/-- `HostCommands`: every command passes the checks in an operating state in which it is legal. -/
theorem wit_passed : (∀ x ∈ [(0x01, 3), (0x02, 3), (0x03, 3), (0x10, 3), (0x11, 4), (0x20, 3), (0x21, 5), (0x22, 3), (0x23, 3), (0x30, 3), (0x31, 3), (0x32, 3), (0x40, 6), (0x41, 7), (0x42, 7),
      (0x43, 5), (0x44, 4)], Passed (tHost x.2 [] 0 [] (tCmd x.1 [])) (tCmd x.1 []).msg (some 2) ((tHost x.2 [] 0 [] (tCmd x.1 [])).taken (tCmd x.1 []).msg 2 ⟨55, [], 0, 0⟩)) ∧
    ∀ x ∈ dhpRows, (tCmd x.1 []).msg.cmd = x.1 ∧ (tCmd x.1 []).msg.pay = [] := by
  have h : ∀ x ∈ [(0x01, 3), (0x02, 3), (0x03, 3), (0x10, 3), (0x11, 4), (0x20, 3), (0x21, 5), (0x22, 3), (0x23, 3), (0x30, 3), (0x31, 3), (0x32, 3), (0x40, 6), (0x41, 7), (0x42, 7),
      (0x43, 5), (0x44, 4)], tPassedB (tHost x.2 [] 0 [] (tCmd x.1 [])) (tCmd x.1 []) = true ∧ (tCmd x.1 []).msg.pay = [] := by decide +kernel
  exact ⟨fun x hx => tPassed_spec (h x hx).1 (tHead_spec rfl) (tVerifies_spec (h x hx).2), by decide +kernel⟩

/-- The machine in which a command of session 2 runs, in RUN with these registers. -/
def tRuns2 (cmd : Nat) (pay : List Byte) (l : List (Nat × Word)) : State := (tHost 3 [] 0 l (tCmd cmd pay)).taken (tCmd cmd pay).msg 2 ⟨55, [], 0, 0⟩

/-- Commands with payloads pass the checks: an admission, a withdrawal, a read of the recorder, writes of the image and of the code, jobs, slots and progress. -/
def tAdmPay (n : Nat) : List Byte := toBe 2 n ++ List.replicate 24 1
def tRecPay (off len : Nat) : List Byte := toBe 8 off ++ toBe 2 len
def tJobPay (j len : Nat) : List Byte := toBe 1 j ++ toBe 1 0 ++ toBe 2 77 ++ toBe 4 len ++ List.replicate len 3
def tSlotPay (n off len : Nat) : List Byte := toBe 2 (1024 * n + 7) ++ toBe 2 0 ++ toBe 4 off ++ toBe 2 len
def tProgPay (what h : Nat) : List Byte := toBe 1 what ++ toBe 2 h
theorem wit_passed_payloads : ∀ x ∈ [(0x10, tAdmPay 1023), (0x11, toBe 2 1023), (0x31, tRecPay 32 64), (0x20, tJobPay 31 64), (0x21, tSlotPay 63 0 20), (0x22, toBe 2 (1024 * 63 + 7)), (0x23, tProgPay 3 0)],
    Passed (tHost 3 [] 0 [] (tCmd x.1 x.2)) (tCmd x.1 x.2).msg (some 2) (tRuns2 x.1 x.2 []) ∧ (tCmd x.1 x.2).msg.cmd = x.1 ∧ (tCmd x.1 x.2).msg.pay = x.2 := by
  have h : ∀ x ∈ [(0x10, tAdmPay 1023), (0x11, toBe 2 1023), (0x31, tRecPay 32 64), (0x20, tJobPay 31 64), (0x21, tSlotPay 63 0 20), (0x22, toBe 2 (1024 * 63 + 7)), (0x23, tProgPay 3 0)],
      tPassedB (tHost 3 [] 0 [] (tCmd x.1 x.2)) (tCmd x.1 x.2) = true ∧ (tCmd x.1 x.2).msg.cmd = x.1 ∧ (tCmd x.1 x.2).msg.pay = x.2 := by decide +kernel
  exact fun x hx => ⟨tPassed_spec (h x hx).1 (tHead_spec rfl) (tVerifies_spec (h x hx).2.2), (h x hx).2⟩

/-- `HostCommands`: the bounds of entry numbers, of reads of a frozen span of 96 bytes, and of image and code writes. -/
def tFrozen (st : Nat) : List (Nat × Word) := [(Reg.recStatus, tFld [(Reg.recStatus_STATE, st)]), (Reg.recFrzLen, tFld [(Reg.recFrzLen_PRE_LEN, 64)]), (Reg.recFrzPost, tFld [(Reg.recFrzPost_POST_LEN, 32)])]
theorem wit_payloads : (tAdmPay 1023).length = 26 ∧ be (tAdmPay 1023) 0 2 = 1023 ∧ be (tAdmPay 1024) 0 2 = 1024 ∧ (toBe 2 1023).length = 2 ∧
    (tRecPay 32 64).length = 10 ∧ be (tRecPay 32 64) 0 8 = 32 ∧ be (tRecPay 32 64) 8 2 = 64 ∧ be (tRecPay 64 8192) 8 2 = 8192 ∧ (tRuns2 0x31 (tRecPay 32 64) (tFrozen 3)).recState = 3 ∧
    (tRuns2 0x31 (tRecPay 32 64) (tFrozen 2)).recState = 2 ∧
    (let u := tRuns2 0x31 (tRecPay 32 64) (tFrozen 3)
     u.fget Reg.recFrzLen Reg.recFrzLen_PRE_LEN + u.fget Reg.recFrzPost Reg.recFrzPost_POST_LEN = 96) := by decide +kernel
theorem wit_write_forms : (toBe 4 (2 ^ 26 - 256) ++ List.replicate 256 0).length = 260 ∧ be (toBe 4 (2 ^ 26 - 256) ++ List.replicate 256 0) 0 4 + 256 = 2 ^ 26 ∧ (2 ^ 26 - 256) % 256 = 0 ∧
    be (toBe 4 (2 ^ 25 - 32) ++ List.replicate 32 0) 0 4 + 32 = 2 ^ 25 ∧ (2 ^ 25 - 32) % 32 = 0 ∧ be (toBe 4 (2 ^ 25) ++ List.replicate 32 0) 0 4 + 32 > 2 ^ 25 := by decide +kernel
/-- A machine that programs, one whose twin is ready, one that was released, and a RESET_REQ whose response has left and has not. -/
def tDue2 (x : Option (Nat × Nat × Nat)) : State := (tRegs []).modDhp fun d => { d with resetDue := true, resetResp := x }
theorem wit_host_states : ({ tRegs [] with nvm := { State.reset.nvm with prog := some (0, []) } } : State).programming = true ∧ (tRegs []).programming = false ∧
    (tRegs [(Reg.twinStatus, tFld [(Reg.twinStatus_PEER_ROLE, 2), (Reg.twinStatus_LINK, 2)])]).twinReady = true ∧ (tRegs []).twinReady = false ∧
    (tDue2 none).dhp.resetDue = true ∧ (tDue2 none).dhp.resetResp = none ∧ (tDue2 (some (0, 24, 1))).dhp.resetResp ≠ none ∧ ({ Boot.reset with release := some 5 } : Boot).release = some 5 ∧
    (tRegs [(Reg.recStatus, tFld [(Reg.recStatus_STATE, 1)])]).recState = 1 := by decide +kernel

/-- `JobsAndSlots`: a job type of 64-byte jobs and a queue of two, with slots that are free and that are not, a queue that is full, and an owner that is stopped. -/
def tJobs (slot63 stopped : Nat) : List (Nat × Word) := [(Reg.dhpJobtCfg 31, tFld [(Reg.dhpJobtCfg_OWNER, 5), (Reg.dhpJobtCfg_VALID, 1), (Reg.dhpJobtCfg_QDEPTH, 2), (Reg.dhpJobtCfg_IN_MAX, 1)]),
  (Reg.triStatus 5, tFld [(Reg.triStatus_STOPPED, stopped)])] ++ (List.range 64).map fun n => (Reg.dhpSlotStat n, tFld [(Reg.dhpSlotStat_STATE, if n = 63 then slot63 else 2), (Reg.dhpSlotStat_GEN, 7),
    (Reg.dhpSlotStat_KEY, 2), (Reg.dhpSlotStat_LEN, 100)])
theorem wit_jobs : (tJobPay 31 64).length = 8 + 64 ∧ be (tJobPay 31 64) 4 4 = 64 ∧ byteAt (tJobPay 31 64) 0 = 31 ∧ be (tJobPay 31 65) 4 4 = 65 ∧
    (let u := tRuns2 0x20 (tJobPay 31 64) (tJobs 0 0)
     u.fget (Reg.dhpJobtCfg 31) Reg.dhpJobtCfg_VALID = 1 ∧ max 1 (u.fget (Reg.dhpJobtCfg 31) Reg.dhpJobtCfg_IN_MAX) = 1 ∧ u.fget (Reg.dhpJobtCfg 31) Reg.dhpJobtCfg_OWNER = 5 ∧
     u.tri 5 Reg.triStatus_STOPPED = 0 ∧ u.tri 5 Reg.triStatus_DBG_BROKEN = 0 ∧ u.freeSlot = some 63 ∧ SMap.get 0 u.dhp.held 31 = 0 ∧ max 1 (u.fget (Reg.dhpJobtCfg 31) Reg.dhpJobtCfg_QDEPTH) = 2) ∧
    (tRuns2 0x20 (tJobPay 31 64) (tJobs 1 0)).freeSlot = none ∧ (tRuns2 0x20 (tJobPay 31 64) (tJobs 0 1)).tri 5 Reg.triStatus_STOPPED = 1 := by decide +kernel
def tHeld (n : Nat) : State := (tHost 3 [] 0 (tJobs 0 0) (tCmd 0x20 (tJobPay 31 64))).modDhp fun d => { d with held := [(31, n)] }
theorem wit_queue_full : SMap.get 0 (tHeld 2).dhp.held 31 = 2 ∧ SMap.get 0 (tHeld 1).dhp.held 31 = 1 ∧ (tHeld 2).freeSlot = some 63 := by decide +kernel
/-- Handles that are fresh and stale, of slots in each state, and offsets up to the result's length and beyond it. -/
theorem wit_slots : (tSlotPay 63 100 20).length = 10 ∧ be (tSlotPay 63 100 20) 0 2 = 1024 * 63 + 7 ∧ be (tSlotPay 63 101 20) 4 4 = 101 ∧
    (∀ st ∈ [0, 1, 2, 3, 4, 5], (tRuns2 0x21 (tSlotPay 63 100 20) (tJobs st 0)).slotState 63 = st) ∧
    (let u := tRuns2 0x21 (tSlotPay 63 100 20) (tJobs 2 0)
     u.slotHandle 63 = 1024 * 63 + 7 ∧ u.slotHandle 62 ≠ 1024 * 62 + 8 ∧ u.fget (Reg.dhpSlotStat 63) Reg.dhpSlotStat_KEY = 2 ∧ u.fget (Reg.dhpSlotStat 63) Reg.dhpSlotStat_LEN = 100) := by
  decide +kernel
theorem wit_progress : ∀ w ∈ [0, 1, 2, 3, 4], (tProgPay w 5).length = 3 ∧ byteAt (tProgPay w 5) 0 = w ∧ be (tProgPay w 5) 1 2 = 5 := by decide +kernel
/-- A session that has been idle for a millisecond, and for a nanosecond less. -/
def tIdleSess (last : Nat) : State := { (tRegs []).modDhp (fun d => { d with sess := [(7, some ⟨55, [], 0, last⟩)] }) with time := DevTime.ofTotal 2000000 0 }
theorem wit_idle : (tIdleSess 1000000).sess 7 = some ⟨55, [], 0, 1000000⟩ ∧ 1000000 + max 1 ((tIdleSess 0).fget Reg.dhpCfg Reg.dhpCfg_IDLE_MS) * 1000000 ≤ (tIdleSess 0).now.toNat ∧
    ¬ 1000001 + max 1 ((tIdleSess 0).fget Reg.dhpCfg Reg.dhpCfg_IDLE_MS) * 1000000 ≤ (tIdleSess 0).now.toNat ∧ (tIdleSess 0).sess 0 = none := by decide +kernel
/-- A deadline that has passed by a nanosecond, and one that has not, of slots in each state; a DONE by the owner and by another triad. -/
def tDone (st : Nat) : State := { tRegs (tGate (Reg.dhpSlotDone 63) ++ tJobs st 0 ++ [(Reg.dhpSlotDeadline 63, 1999999), (Reg.dhpSlotDeadline 62, 2000000), (Reg.dhpArea, tFld [(Reg.dhpArea_SLOT_KIB, 1)]),
  (Reg.dhpJobtCfg 0, tFld [(Reg.dhpJobtCfg_OWNER, 3)])]) with time := DevTime.ofTotal 2000000 0 }
theorem wit_deadlines : (∀ st ∈ [1, 2, 5], ((tDone st).rd (Reg.dhpSlotDeadline 63)).toNat < (tDone st).now.toNat ∧ ¬ ((tDone st).rd (Reg.dhpSlotDeadline 62)).toNat < (tDone st).now.toNat ∧
      (tDone st).slotState 63 = st) := by decide +kernel
theorem wit_done : (tDone 1).grants tRq (Reg.dhpSlotDone 63) ∧ tRq.init.val = (tDone 1).slotOwner 63 ∧ (tDone 1).slotHandle 63 = 1024 * 63 + 7 ∧
    bits (BitVec.ofNat 64 (1024 * 63 + 7 + 2 ^ 16 * 1024)) 16 16 ≤ 1024 * (tDone 1).fget Reg.dhpArea Reg.dhpArea_SLOT_KIB ∧
    ¬ bits (BitVec.ofNat 64 (1024 * 63 + 7 + 2 ^ 16 * 1025)) 16 16 ≤ 1024 * (tDone 1).fget Reg.dhpArea Reg.dhpArea_SLOT_KIB ∧
    bits (BitVec.ofNat 64 (1024 * 63 + 7 + 2 ^ 16 * 1024)) 0 16 = 1024 * 63 + 7 := by unfold State.grants; decide +kernel
/-- A DONE by the owner makes a PENDING slot READY, and leaves another as it is (R329). -/
theorem test_done : tAfter (.dhpSlotDone tRq 63 (BitVec.ofNat 64 (1024 * 63 + 7 + 2 ^ 16 * 9))) (tDone 1) (fun t => (t.slotState 63, t.fget (Reg.dhpSlotStat 63) Reg.dhpSlotStat_LEN)) = some (2, 9) ∧
    tAfter (.dhpSlotDone tRq 63 (BitVec.ofNat 64 (1024 * 63 + 7 + 2 ^ 16 * 9))) (tDone 3) (fun t => (t.slotState 63, t.fget Reg.dhpSlotCnt Reg.dhpSlotCnt_LATE_DONE)) = some (3, 1) := by decide +kernel
/-- CONS moves to PROD over the entries held, and no further. -/
def tJobq : State := (tRegs ((Reg.dhpJobqPtr 31, tFld [(Reg.dhpJobqPtr_PROD, 1)]) :: tJobs 0 0 ++ tGate (Reg.dhpJobqPtr 31))).modDhp fun d => { d with held := [(31, 1)] }
theorem wit_jobq : tJobq.grants tRq (Reg.dhpJobqPtr 31) ∧ tJobq.fget (Reg.dhpJobtCfg 31) Reg.dhpJobtCfg_QDEPTH = 2 ∧ SMap.get 0 tJobq.dhp.held 31 = 1 ∧
    ringDist 2 (tJobq.fget (Reg.dhpJobqPtr 31) Reg.dhpJobqPtr_CONS) 1 = 1 := by unfold State.grants; decide +kernel

/-! ### The recorder -/

/-- A recorder with a record of this length at the head of its buffer, in this state and at this position. -/
def tRecd (st off len lost post : Nat) : State :=
  { tTag iREC true (tRegs [(Reg.recStatus, tFld [(Reg.recStatus_STATE, st)]), (Reg.recWptr, tFld [(Reg.recWptr_OFFSET, off)]), (Reg.recSpan, tFld [(Reg.recSpan_PRE, 1), (Reg.recSpan_POST, post)]),
      (Reg.recSize 0, tFld [(Reg.recSize_REGIONS, 1)])]) with
    recd := { rseq := 0, buf := [⟨State.reset.stampAt 0, 0, 0, 7, 0, List.replicate len 7⟩], lost := lost } }
/-- `RecorderRecords`: nothing to write, no tag; a record of 64 bytes that ends with its block and one that does not; the reserve's last block, exactly filled and
overrun, with and without frames that were dropped. -/
theorem wit_rec_idle : (tRegs []).recd.buf = [] ∧ (tRecd 0 0 32 0 0).recState = 0 ∧ (tRecd 3 0 32 0 0).recState = 3 ∧ (tTag iREC false (tRecd 1 0 32 0 0)).tagFree iREC.val = false ∧
    (tRecd 1 0 32 0 0).tagFree iREC.val = true := by decide +kernel
theorem wit_rec_writes : recSize 32 = 64 ∧ recSize 33 = 96 ∧
    (∀ x ∈ [(1, 65472, true, false), (1, 65504, false, false), (2, 65472, true, false), (2, 65504, false, true)],
      let s := tRecd x.1 x.2.1 32 0 1
      let left := 65536 - s.fget Reg.recWptr Reg.recWptr_OFFSET % 65536
      s.recd.lost = 0 ∧ s.recState = x.1 ∧ decide (64 ≤ left) = x.2.2.1 ∧
        (decide (x.1 = 2) && decide (65536 * s.fget Reg.recSpan Reg.recSpan_POST < s.fget Reg.recWptr Reg.recWptr_OFFSET + (if 64 ≤ left then 64 else left + 64))) = x.2.2.2) ∧
    (tRecd 2 65504 32 5 1).recd.lost = 5 ∧ (tRecd 2 65536 32 5 1).fget Reg.recWptr Reg.recWptr_OFFSET = 65536 := by decide +kernel
/-- A record that its block does not hold is preceded by a PAD and starts at the next block (R335). -/
theorem test_rec_pad : tAfter .recRecordWrite (tRecd 1 65504 32 0 1) (fun t => (t.fget Reg.recWptr Reg.recWptr_OFFSET, t.recd.buf.length)) = some (65536 + 64, 0) := by decide +kernel
/-- `RecorderUnloadPosition`: triggers and releases in each state; a freeze with and without frames to follow. -/
def tTrig (st post : Nat) : State := tRegs (tGate Reg.recCtl ++ [(Reg.recStatus, tFld [(Reg.recStatus_STATE, st)]), (Reg.recSpan, tFld [(Reg.recSpan_PRE, 1), (Reg.recSpan_POST, post)]),
  (Reg.recSize 0, tFld [(Reg.recSize_REGIONS, 1)]), (Reg.recWptr, tFld [(Reg.recWptr_OFFSET, 65536 + 64)]), (Reg.recUnload, 5)])
theorem wit_triggers : ∀ st ∈ [0, 1, 2, 3], ∀ post ∈ [0, 1], State.grants (tTrig st post) tRq Reg.recCtl ∧ (tTrig st post).recState = st ∧ (tTrig st post).fget Reg.recSpan Reg.recSpan_POST = post := by
  unfold State.grants; decide +kernel
/-- A freeze starts its span at the block boundary at or below WRITE − PRE and enters POST (R336). -/
theorem test_freeze : tAfter (.freeze tRq) (tTrig 1 1) (fun t => (t.recState, t.fget Reg.recFrzSpan Reg.recFrzSpan_SPAN_START, t.fget Reg.recFrzLen Reg.recFrzLen_PRE_LEN)) = some (2, 0, 65600) := by
  decide +kernel
theorem wit_unload : Passed (tHost 3 [] 0 (tFrozen 3) (tCmd 0x31 (tRecPay 32 64))) (tCmd 0x31 (tRecPay 32 64)).msg (some 2) (tRuns2 0x31 (tRecPay 32 64) (tFrozen 3)) ∧
    (tCmd 0x31 (tRecPay 32 64)).msg.pay = tRecPay 32 64 := by
  have h : tPassedB (tHost 3 [] 0 (tFrozen 3) (tCmd 0x31 (tRecPay 32 64))) (tCmd 0x31 (tRecPay 32 64)) = true ∧ (tCmd 0x31 (tRecPay 32 64)).msg.pay = tRecPay 32 64 := by decide +kernel
  exact ⟨tPassed_spec h.1 (tHead_spec rfl) (tVerifies_spec h.2), h.2⟩

/-! ### The twin -/

/-- A device with the link UP under epoch 5, in this role and operating state, with a frame in the retry window, a journal entry and these further fields. -/
def tJEnt (n : Nat) : JEnt := ⟨0, BitVec.ofNat 44 paStream, 0xF, BitVec.ofNat 32 n, 7, 5⟩
def tZHdr (fseq epoch role : Nat) : ZHdr := ⟨BitVec.ofNat 12 fseq, 2, true, BitVec.ofNat 16 epoch, BitVec.ofNat 3 role, 3, 0⟩
def tTwinRegs (role op : Nat) (l : List (Fld × Nat)) : List (Nat × Word) :=
  [(Reg.twinStatus, tFld ([(Reg.twinStatus_ROLE, role), (Reg.twinStatus_LINK, 2), (Reg.twinStatus_EPOCH, 5)] ++ l)), (Reg.sysState, tFld [(Reg.sysState_OPSTATE, op)])]
def tTwin (role op : Nat) (l : List (Fld × Nat)) (f : Twin → Twin) : State :=
  (tTag iTWIN true (tRegs (tTwinRegs role op l))).modTwin fun x => f { x with rseq := 9, journal := [tJEnt 3, tJEnt 4], unacked := [(⟨tZHdr 3 5 1, .handoverAck⟩, 0)] }
/-- `TwinFramesReceived`: no tag; a link that is not UP; epochs below, at and above the device's; a number in sequence and one that is not. -/
theorem wit_frames : (tTag iTWIN false (tTwin 2 6 [] id)).tagFree iTWIN.val = false ∧ (tTwin 2 6 [] id).tagFree iTWIN.val = true ∧ (tRegs []).tw Reg.twinStatus_LINK ≠ 2 ∧
    (tTwin 2 6 [] id).tw Reg.twinStatus_LINK = 2 ∧ (tTwin 2 6 [] id).tw Reg.twinStatus_EPOCH = 5 ∧ (tZHdr 9 4 1).epoch.toNat = 4 ∧ (tZHdr 9 5 1).epoch.toNat = 5 ∧
    (tZHdr 9 5 1).fseq.toNat = (tTwin 2 6 [] id).twin.rseq ∧ (tZHdr 10 6 1).fseq.toNat ≠ (tTwin 2 6 [] id).twin.rseq := by decide +kernel
/-- An armed standby, a primary whose bulk copy has ended, one that waits for an acknowledgement, a primary before any resolution, and a solo device. -/
theorem wit_roles : (let s := tTwin 2 6 [(Reg.twinStatus_ARMED, 1)] id; s.role = 2 ∧ s.tw Reg.twinStatus_ARMED = 1 ∧ s.opstate = opSTANDBY ∧ s.twin.taking = none) ∧
    (let s := tTwin 1 3 [] fun x => { x with bulkEnd := some 3, waitAck := true };
     s.role = 1 ∧ s.twin.bulkEnd = some 3 ∧ ((3 : BitVec 32).toNat + 2 ^ 32 - 3) % 2 ^ 32 < 2 ^ 31 ∧ s.twin.waitAck = true) ∧ (tTwin 0 3 [] id).role = 0 ∧ (tTwin 0 3 [] id).twin.waitAck = false ∧
    (5 : Nat) < (6 : BitVec 16).toNat ∧ ¬ (5 : Nat) < (5 : BitVec 16).toNat ∧ (tTwin 1 3 [(Reg.twinStatus_EPOCH, 0)] id).tw Reg.twinStatus_EPOCH = 0 := by decide +kernel
/-- A heartbeat acknowledges the journal up to its number (R357). -/
theorem test_heartbeat : tAfter (.heartbeat (tZHdr 9 5 2) 3) (tTwin 1 3 [] id) (fun t => (t.twin.journal.map (·.jseq), t.twin.rseq)) = some ([4], 10) := by decide +kernel
/-- `TwinSendingAndTakeover`: a window with room for one more frame and a full one; nothing to send and something; a silent device. -/
def tWindow (n : Nat) : State := tTwin 1 3 [] fun x => { x with unacked := List.replicate n (⟨tZHdr 3 5 1, .handoverAck⟩, 0) }
theorem wit_window_room : (tWindow 63).twin.unacked.length < 64 ∧ ¬ (tWindow 64).twin.unacked.length < 64 ∧ (tWindow 63).tw Reg.twinStatus_LINK = 2 ∧ (tWindow 63).twin.silent = false ∧ (tWindow 63).role = 1 ∧
    (tWindow 63).unsent = [tJEnt 3, tJEnt 4] ∧ (tTwin 1 3 [] fun x => { x with journal := [] }).unsent = [] ∧ (tWindow 63).twin.bulk = none := by decide +kernel
/-- A bulk copy within region 15 of two pages, at its last block and at its end. -/
def tBulk (o : Nat) : State := (tTag iTWIN true (tRegs (tTwinRegs 1 3 [] ++ [(Reg.twinMregBase 15, tFld [(Reg.twinMregBase_VALID, 1), (Reg.twinMregBase_BASE, paStream / 4096)]),
  (Reg.twinMregSize 15, tFld [(Reg.twinMregSize_PAGES, 2)])]))).modTwin fun x => { x with bulk := some o }
theorem wit_bulk : (tBulk 8191).twin.bulk = some 8191 ∧ (tBulk 8191).mirrorAt 16 8191 = some (paStream + 8191, 1) ∧ (tBulk 8192).mirrorAt 16 8192 = none ∧ (tBulk 0).mirrorTotal = 8192 ∧
    (tBulk 0).mirrorAt 16 0 = some (paStream, 8192) ∧ (tBulk 0).role = 1 ∧ (tBulk 0).tagFree iTWIN.val = true := by decide +kernel
/-- A frame that has been sent three times again, and one that has been twice; links in training and UP, with lanes that are usable and none. -/
theorem wit_retries : (∀ n ∈ [2, 3], (tTwin 1 3 [] fun x => { x with unacked := [(⟨tZHdr 3 5 1, .handoverAck⟩, n)] }).twin.unacked = (⟨tZHdr 3 5 1, .handoverAck⟩, n) :: []) ∧
    (tTwin 1 3 [(Reg.twinStatus_LINK, 1)] id).tw Reg.twinStatus_LINK = 1 ∧ (15 - (tTwin 1 3 [] id).fget Reg.pncFailedMisc Reg.pncFailedMisc_LANE) = 15 ∧
    (tTwin 1 3 [] fun x => { x with lanes := 15 }).twin.lanes.testBit 3 = true ∧ (tTwin 1 3 [] fun x => { x with lanes := 3 }).twin.lanes.testBit 2 = false ∧
    (tTwin 1 3 [] fun x => { x with silent := true }).twin.silent = true := by decide +kernel
/-- A lane that fails leaves the pair that is whole (R354). -/
theorem test_lane : tAfter (.twinLaneFail 1) (tTwin 1 3 [] fun x => { x with lanes := 15 }) (fun t => (t.twin.lanes, t.tw Reg.twinStatus_LANES, t.detected.map (·.src))) = some (12, 2, [0x1E2]) := by
  decide +kernel
/-- Losses at a standby whose other signal is present and lost, triggers that are enabled, takeovers not begun and begun, and a standby alone. -/
theorem wit_takeover : (∀ b : Bool, (tTwin 2 6 [(Reg.twinStatus_ARMED, 1)] fun x => { x with sbLost := b, hbLost := b }).twin.sbLost = b ∧
      (tTwin 2 6 [(Reg.twinStatus_ARMED, 1)] fun x => { x with sbLost := b, hbLost := b }).twin.hbLost = b) ∧
    (tRegs [(Reg.twinCfg, tFld [(Reg.twinCfg_SAFE_IN_EN, 1), (Reg.twinCfg_SOLO_MS, 1)])]).fget Reg.twinCfg Reg.twinCfg_SAFE_IN_EN = 1 ∧ (tRegs []).fget Reg.twinCfg Reg.twinCfg_SAFE_IN_EN ≠ 1 ∧
    (∀ x ∈ [some true, some false], ∀ b : Bool, (tTwin 2 6 [] fun y => { y with taking := x, begun := b }).twin.taking = x ∧ (tTwin 2 6 [] fun y => { y with taking := x, begun := b }).twin.begun = b) ∧
    (tTwin 2 6 [] id).twin.taking = none ∧ (tTwin 2 6 [] id).boot.ran = false ∧ (tTwin 2 6 [] id).fget Reg.fcruStatus Reg.fcruStatus_WDOG_EXPIRED = 0 := by decide +kernel
theorem wit_solo : let s := tRegs [(Reg.twinStatus, tFld [(Reg.twinStatus_ROLE, 2)]), (Reg.sysState, tFld [(Reg.sysState_OPSTATE, 6)]), (Reg.twinCfg, tFld [(Reg.twinCfg_SOLO_MS, 1)])];
    s.role = 2 ∧ s.opstate = opSTANDBY ∧ s.tw Reg.twinStatus_ARMED = 0 ∧ s.fget Reg.twinCfg Reg.twinCfg_SOLO_MS ≠ 0 ∧ s.tw Reg.twinStatus_LINK ≠ 2 ∧ s.tw Reg.twinStatus_ALIVE_IN = 0 ∧
      s.twin.taking = none ∧ (tRegs []).role ≠ 2 := by decide +kernel
/-- A takeover that completes makes the device PRIMARY in RUN (R362). -/
theorem test_takeover : tAfter .takeoverComplete (tTwin 2 6 [] fun x => { x with taking := some false, begun := true }) (fun t => (t.role, t.opstate, t.twin.taking)) = some (1, 3, none) := by decide +kernel

/-! ### Pounce -/

/-- Pounce running a schedule of 32 entries from time 0, entry 31 of a kind on its items, in a phase, seen up to a time. -/
def tPnc (kind item : Nat) (ph : SlicePhase) (seen : Nat) (rest : List Nat) (l : List (Nat × Word)) : State :=
  { tRegs (tGate Reg.pncCtl ++ [(Reg.sysState, tFld [(Reg.sysState_LC, 1), (Reg.sysState_OPSTATE, 3)]), (Reg.sysBootStat, tFld [(Reg.sysBootStat_STEP, 9)]), (Reg.pncSched, tFld [(Reg.pncSched_NENT, 32)]),
      (Reg.pncEnt 31, tFld [(Reg.pncEnt_KIND, kind), (Reg.pncEnt_TARGET, 0xFF), (Reg.pncEnt_PERIOD_MS, 1)])] ++ l) with
    time := DevTime.ofTotal 5000000 0, pnc := { State.reset.pnc with ents := [(31, ⟨seen, ph, item, rest⟩)] } }
/-- `PounceSlicesAndTests`: an entry that is due, again and not again, in each phase, in a schedule that is active; with no item, with conditions that do not hold. -/
theorem wit_due : (let s := tPnc 3 0 .idle 0 [] []
     (s.rd Reg.pncT0).toNat ≤ s.now.toNat ∧ s.fget Reg.pncCtl Reg.pncCtl_HALT = 0 ∧ s.fget Reg.sysBootStat Reg.sysBootStat_STEP = 9 ∧ 31 < s.fget Reg.pncSched Reg.pncSched_NENT ∧
       (s.lastDue 31).isSome = true) ∧ (∀ ph ∈ [SlicePhase.idle, .deferred, .waiting, .granted, .running], ((tPnc 3 0 ph 0 [] []).pncEnt 31).phase = ph) ∧
    (match (tPnc 3 0 .idle 6000000 [] []).lastDue 31 with | some d => decide (d < ((tPnc 3 0 .idle 6000000 [] []).pncEnt 31).seen) | none => false) = true ∧
    (match (tPnc 3 0 .idle 0 [] []).lastDue 31 with | some d => decide (((tPnc 3 0 .idle 0 [] []).pncEnt 31).seen ≤ d) | none => false) = true := by decide +kernel
theorem wit_pounce_rows : (tPnc 3 0 .idle 0 [] []).grants tRq Reg.pncCtl ∧ (tPnc 3 0 .idle 0 [] []).fget Reg.sysState Reg.sysState_LC = 1 ∧
    (tPnc 3 0 .idle 0 [] [(Reg.sysState, tFld [(Reg.sysState_LC, 2)])]).fget Reg.sysState Reg.sysState_LC = 2 ∧ (tPnc 3 0 .idle 0 [] []).fget Reg.pncMtStat Reg.pncMtStat_STATE ≠ 1 ∧
    (tPnc 3 0 .idle 0 [] []).fget Reg.pncMtLen Reg.pncMtLen_LEN = 0 ∧
    (let s := tPnc 3 0 .idle 0 [] [(Reg.pncMtBase, tFld [(Reg.pncMtBase_BASE, paStream / 64)]), (Reg.pncMtLen, tFld [(Reg.pncMtLen_LEN, 1)])]
     s.fget Reg.pncMtLen Reg.pncMtLen_LEN ≠ 0 ∧ windowOf (s.fget Reg.pncMtBase Reg.pncMtBase_BASE * 64) = .stream ∧
       windowOf (s.fget Reg.pncMtBase Reg.pncMtBase_BASE * 64 + s.fget Reg.pncMtLen Reg.pncMtLen_LEN * 64 - 1) = .stream) := by unfold State.grants; decide +kernel
/-- A timed test that was let to run, one that runs with and without further items, and none. -/
theorem wit_tests : (∀ k ∈ [3, 4, 5, 6, 7], (tPnc k 0 .granted 0 [] []).grantedOf k = some 31 ∧ (tPnc k 0 .idle 0 [] []).grantedOf k = none ∧ (tPnc k 0 .running 0 [2] []).runningOf k = some 31 ∧
      (tPnc k 0 .idle 0 [] []).runningOf k = none ∧ 0 < kindItems k) ∧ ((tPnc 3 0 .running 0 [2] []).pncEnt 31).rest = 2 :: [] ∧ ((tPnc 3 0 .running 0 [] []).pncEnt 31).rest = [] := by decide +kernel
/-- A triad that may be checked, that is not eligible, that is being resynchronised; a scan that runs, and one that a change of mode overtook. -/
def tTriCheck (l : List (Nat × Word)) : State := { tPnc 0 15 .granted 0 [] l with triads := [(15, { Triad.reset with released := true })] }
theorem wit_triad_check : (tTriCheck [(Reg.triStatus 15, tFld [(Reg.triStatus_LIVE, 7)])]).grantedOf 0 = some 31 ∧ ((tTriCheck []).pncEnt 31).item = 15 ∧
    (tTriCheck [(Reg.triStatus 15, tFld [(Reg.triStatus_LIVE, 7)])]).eligible 0 15 = true ∧ (tTriCheck [(Reg.triStatus 15, tFld [(Reg.triStatus_LIVE, 7)])]).resyncBusy 15 = false ∧
    ((tTriCheck []).triad 15).trans = none ∧ (tTriCheck [(Reg.triStatus 15, tFld [(Reg.triStatus_LIVE, 3), (Reg.triStatus_STOPPED, 1)])]).eligible 0 15 = false ∧
    (tTriCheck [(Reg.triStatus 15, tFld [(Reg.triStatus_LIVE, 7), (Reg.triStatus_RESYNC_BUSY, 1)])]).resyncBusy 15 = true := by decide +kernel
def tScan (mode : Nat) : State := let s := tPnc 0 15 .running 0 [] [(Reg.triStatus 15, tFld [(Reg.triStatus_LIVE, 7), (Reg.triStatus_MODE, mode)])]
  { s with pnc := { s.pnc with scans := [(15, some ⟨31, tFld [(Reg.triStatus_LIVE, 7)], 0⟩)] } }
theorem wit_scans : (∀ m ∈ [0, 2], SMap.get none (tScan m).pnc.scans 15 = some ⟨31, tFld [(Reg.triStatus_LIVE, 7)], 0⟩ ∧ (tScan m).resyncBusy 15 = false ∧ ((tScan m).triad 15).trans = none ∧
      (tScan m).rd (Reg.triResyncStat 15) = 0 ∧ bits ((tScan m).rd (Reg.triStatus 15)) Reg.triStatus_MODE.lo 2 = m) ∧
    bits (tFld [(Reg.triStatus_LIVE, 7)]) Reg.triStatus_MODE.lo 2 = 0 ∧ SMap.get none (tPnc 0 0 .idle 0 [] []).pnc.scans 15 = none := by decide +kernel
theorem wit_scan_outcome : (((tScan 0).modPnc fun p => { p with scans := SMap.put none p.scans 15 none }).scanOutcome 15).isNone = true ∧
    ((((tScan 0).setCopy 45 { (tScan 0).copy 45 with ue := [(.tcm, 0)] }).modPnc fun p => { p with scans := SMap.put none p.scans 15 none }).scanOutcome 15).isSome = true := by
  decide +kernel
/-- Banks whose rotation may start, and one of a group with a bank that sleeps. -/
theorem wit_rotates : (let s := tPnc 1 255 .granted 0 [] []; s.grantedOf 1 = some 31 ∧ s.eligible 1 255 = true ∧ (∀ i < 16, s.bankState (255 / 16 * 16 + i) = 0) ∧ s.rotPhase false = none) ∧
    (tPnc 1 255 .granted 0 [] [(Reg.memSsState 7, 1)]).bankState 224 ≠ 0 ∧ (let s := tPnc 2 14 .granted 0 [] []; s.grantedOf 2 = some 31 ∧ s.eligible 2 14 = true ∧ s.rotPhase true = none) := by decide +kernel
/-- A failed voltage test is recorded, counted and raised (R374). -/
theorem test_slice_fails : tAfter (.pounceSliceComplete 1 false) (tPnc 4 3 .running 0 [] []) (fun t => (t.detected.map (·.src), t.fget Reg.pncFailLast Reg.pncFailLast_ITEM,
    t.fget (Reg.pncEntStat 31) Reg.pncEntStat_FAILS)) = some ([0x1F0], 3, 1) := by decide +kernel

/-! ### The Hatbox and resets -/

/-- A Hatbox whose supplies are in this state, the device in an operating state. -/
def tHbx (op : Nat) (en good low : Bool) (l : List (Nat × Word)) : State :=
  { tRegs ([(Reg.sysState, tFld [(Reg.sysState_OPSTATE, op)])] ++ l) with hbx := { Hatbox.powerUp with pmicEn := en, pgood := good, offDone := false }, boot := { Boot.reset with low := low } }
/-- `HatboxPowerAndResets`: a canonical state, with and without saved map registers; each condition of the supplies and of RESET_N. -/
theorem wit_resets : State.canonical (tHbx 3 true true false []) ∧ (tHbx 3 true true false []).hbx.maps = [] ∧ (tHbx 0 false false false []).opstate = 0 ∧ (tHbx 1 false false false []).opstate = 1 := by
  unfold State.canonical; decide
theorem wit_supplies : (let s := tHbx 1 false false false []; s.hbx.pmicEn = false ∧ s.hbx.offDone = false ∧ s.hbx.held = false) ∧
    (({ tHbx 1 false false false [] with hbx := { Hatbox.powerUp with offDone := false, held := true } } : State).hbx.held = true) ∧
    (({ tHbx 1 false false false [] with hbx := { Hatbox.powerUp with retry := true } } : State).hbx.retry = true) ∧
    (let s := tHbx 1 true false false []; s.hbx.pmicEn = true ∧ s.hbx.pgood = false) ∧
    (∀ low : Bool, let s := tHbx 3 true true low []; s.hbx.pmicEn = true ∧ s.hbx.pgood = true ∧ s.boot.low = low ∧ s.opstate ≠ 1) ∧
    (let s := tHbx 3 true false true []; s.boot.low = true ∧ s.hbx.pgood = false ∧ s.opstate ≠ 1) ∧ (tHbx 1 true false true []).boot.low = true ∧
    (Hatbox.powerUp.stored = none) ∧ ({ Hatbox.powerUp with stored := some ⟨5, 0, 0⟩ } : Hatbox).stored = some ⟨5, 0, 0⟩ := by decide +kernel
/-- The third failure of the supplies is not retried (R381). -/
theorem test_pmic : tAfter (.pmicTimeout 0) (tHbx 1 true false false [(Reg.hbxStatus, tFld [(Reg.hbxStatus_PMIC_TRIES, 1)])]) (fun t => (t.hs Reg.hbxStatus_PMIC_TRIES, t.hbx.retry)) = some (2, true) ∧
    tAfter (.pmicTimeout 0) (tHbx 1 true false false [(Reg.hbxStatus, tFld [(Reg.hbxStatus_PMIC_TRIES, 2)])]) (fun t => (t.hs Reg.hbxStatus_PMIC_TRIES, t.hbx.retry)) = some (3, false) := by
  decide +kernel
/-- RESET_N stores the time and the device restarts in BOOT at step 3 (R341, R383). -/
theorem test_reset_n : tAfter .resetNAssert (tHbx 3 true true false []) (fun t => (t.opstate, t.fget Reg.sysBootStat Reg.sysBootStat_STEP, t.boot.low, t.hbx.stored.isSome)) =
    some (2, 3, true, true) := by decide +kernel

/-- `HatboxEvents`: input 7 with both paths enabled, rule 15 on each, valid in SLEEP and outside, that wakes and freezes; a log that is full. -/
def tInput (op path cond dec : Nat) (l : List (Nat × Word)) : State :=
  tHbx op false false false ([(Reg.hbxInCfg 7, tFld [(Reg.hbxInCfg_FAST_EN, 1), (⟨19, 1⟩, 1)]), (Reg.hbxRule 15, BitVec.ofNat 64 (7 + 8 * path + 16 * cond + 64 + 128 + 256 * dec + 2 ^ 10 + 2 ^ 11 + 2 ^ 12 * 100))] ++ l)
def tRules (s : State) (path : Nat) (holds : Word → Bool) : List Nat := (List.range 16).filter fun i => let w := s.rd (Reg.hbxRule i)
  bit w 11 && decide (bits w 0 3 = 7) && decide (bits w 3 1 = path) && (if s.opstate = 1 then bit w 6 else bit w 7) && holds w
theorem wit_events : (∀ op ∈ [1, 3], ∀ path ∈ [0, 1], (tInput op path 0 2 []).opstate = op ∧ tRules (tInput op path 0 2 []) path (fun _ => true) = [15] ∧ tRules (tInput op path 0 2 []) (1 - path) (fun _ => true) = []) ∧
    (∀ d ∈ [0, 1, 2, 3], bits ((tInput 1 0 0 d []).rd (Reg.hbxRule 15)) 8 2 = d) ∧ bit ((tInput 1 0 0 2 []).rd (Reg.hbxRule 15)) 10 = true ∧
    (tInput 1 0 0 2 []).fget (Reg.hbxInCfg 7) Reg.hbxInCfg_FAST_EN = 1 ∧ (tInput 1 0 0 2 []).hbxLevel 7 = false ∧ (tInput 1 0 0 2 []).fget (Reg.hbxInVal 7) Reg.hbxInVal_FAILED = 0 ∧
    bits ((tInput 1 0 0 2 []).rd (Reg.hbxInCfg 7)) 19 1 = 1 ∧ bit ((tInput 1 0 0 2 []).rd (Reg.hbxInCfg 7)) 30 = false ∧
    bit ((tInput 1 0 0 2 [(Reg.hbxInCfg 7, tFld [(⟨19, 1⟩, 1), (⟨30, 1⟩, 1)])]).rd (Reg.hbxInCfg 7)) 30 = true ∧
    (tInput 1 0 0 2 [(Reg.hbxEvlog 0, tFld [(Reg.hbxEvlog_VALID, 1)])]).fget (Reg.hbxEvlog 0) Reg.hbxEvlog_VALID = 1 := by decide +kernel
theorem wit_medians : ((5 : BitVec 12).toNat :: [1, 2, 3, 4]).take 5 = [5, 1, 2, 3, 4] ∧ (((5 : BitVec 12).toNat :: HbxIn.reset.raws).take 5).length < 5 := by decide
/-- A sample above its rule's threshold wakes the device once OFF_MIN_MS have passed, and one at the threshold does not (R376 to R379). -/
theorem test_wake : tAfter (.hbxSlowSample 7 101 0) (tInput 1 1 0 2 []) (fun t => (t.hs Reg.hbxStatus_WAKE_VALID, t.hs Reg.hbxStatus_WAKE_RULE, t.hbx.held)) = some (1, 15, true) ∧
    tAfter (.hbxSlowSample 7 100 0) (tInput 1 1 0 2 []) (fun t => (t.hs Reg.hbxStatus_WAKE_VALID, t.hbx.held)) = some (0, false) := by decide +kernel

/-! ### Start-up, release and programming -/

/-- A powered device in BOOT at a step of start-up, with these registers. -/
def tBoot (step : Nat) (l : List (Nat × Word)) : State := tHbx 2 true true false ((Reg.sysBootStat, tFld [(Reg.sysBootStat_STEP, step)]) :: l)
def tFits (s : State) (n : Nat) : Bool := s.powered && (decide (s.opstate = 2) || decide (s.opstate = 5)) && decide (s.fget Reg.sysBootStat Reg.sysBootStat_HALT = 0) &&
  decide (s.fget Reg.sysBootStat Reg.sysBootStat_STEP = n)
/-- `StartUpSteps` and `ReleaseAndProgramming`: each step, in BOOT and in SAFE, and a device that is halted. -/
theorem wit_steps : (∀ n ∈ [3, 4, 5, 6, 7, 8], tFits (tBoot n []) n = true ∧ tFits (tHbx 5 true true false [(Reg.sysBootStat, tFld [(Reg.sysBootStat_STEP, n)])]) n = true ∧
      tFits (tBoot n [(Reg.sysBootStat, tFld [(Reg.sysBootStat_STEP, n), (Reg.sysBootStat_HALT, 2)])]) n = false) ∧
    (tBoot 5 []).fget Reg.pncStatus Reg.pncStatus_SU1_DONE = 0 ∧ (tBoot 5 [(Reg.pncStatus, tFld [(Reg.pncStatus_SU1_DONE, 1)])]).fget Reg.pncStatus Reg.pncStatus_SU1_DONE = 1 ∧
    (tBoot 5 []).fget Reg.memCrSpare Reg.memCrSpare_DEGRADED = 0 ∧ (tBoot 6 []).fget Reg.ddrTrainStat Reg.ddrTrainStat_DONE = 0 ∧ (tBoot 6 []).boot.codeOk = false := by decide +kernel
/-- A flash that is erased fails the first check of the image, and one whose header is right but whose key is not programmed the second. -/
theorem wit_image_checks : imgHeaderOk ((tBoot 4 []).flashBytes 0 0x600) = false := by decide +kernel
/-- A code store that is checked against no section, and against a digest that is not its own. -/
theorem wit_code_check : (∀ e ∈ imgCode (imgSection [] 16), Config.sha384 ((tBoot 6 []).codeBytes e.1 e.2.1) = e.2.2) ∧ (tBoot 6 []).boot.image = [] := by
  have h : imgCode (imgSection [] 16) = [] := by decide +kernel
  rw [h]; exact ⟨fun e he => by simp at he, rfl⟩
/-- PLL lock leads from step 3 to step 4 and to no other (R389). -/
theorem test_pll_lock : tAfter .pllLockDone (tBoot 3 []) (fun t => t.fget Reg.sysBootStat Reg.sysBootStat_STEP) = some 4 ∧
    tAfter .pllLockDone (tBoot 5 []) (fun t => t.fget Reg.sysBootStat Reg.sysBootStat_STEP) = some 5 := by decide +kernel
/-- Buffered data for the flash, in a sector that is erased and in one that is not; for the code store; and a device that is BLANK. -/
def tProg : State := { tRegs [] with nvm := { Nvm.reset with prog := some (0xFFFF, [1, 2]), erased := [0], code := some (2 ^ 25 - 32, List.replicate 32 7) } }
theorem wit_programs : tProg.nvm.prog = some (0xFFFF, [1, 2]) ∧ ([1, 2] : List Byte) ≠ [] ∧ tProg.nvm.code = some (2 ^ 25 - 32, List.replicate 32 7) ∧ (tRegs []).nvm.prog = none ∧ (tRegs []).nvm.code = none ∧
    (tRegs []).otp.lc = 0 ∧ ({ tRegs [] with otp := { State.reset.otp with lc := 1 } } : State).otp.lc ≠ 0 := by decide +kernel
/-- The image's second sector is erased before its first byte is written (R402). -/
theorem test_program : tAfter .nvmProgramDone tProg (fun t => (t.flashByte 0xFFFF, t.flashByte 0x10000, t.nvm.erased.contains 1)) = some (1, 2, true) := by decide +kernel

/-! ### Clocks, supplies, pins and the SYS block -/

/-- `ClocksSuppliesAndPins`: PLLs that run and are stopped, monitors in and out of their windows, temperatures about their thresholds, a transfer that runs and none. -/
def tPowered (l : List (Nat × Word)) : State := tHbx 3 true true false ((Reg.sysBootStat, tFld [(Reg.sysBootStat_STEP, 9)]) :: l)
theorem wit_clocks : (∀ p < 11, (tPowered []).fget (Reg.clkPll p) Reg.clkPll_STOPPED = 0) ∧ (tPowered []).powered = true ∧ 4 ≤ (tPowered []).fget Reg.sysBootStat Reg.sysBootStat_STEP ∧
    (tPowered [(Reg.clkPll 10, tFld [(Reg.clkPll_STOPPED, 1)])]).fget (Reg.clkPll 10) Reg.clkPll_STOPPED = 1 ∧ (tBoot 5 []).fget Reg.sysBootStat Reg.sysBootStat_STEP < 6 := by decide +kernel
theorem wit_monitors : (∀ m < 2, (tPowered []).miscFailed Reg.pncFailedMisc_VMON (2 * 9 + m) = false ∧ bit ((tPowered [(Reg.clkVmon 9, 0xF)]).rd (Reg.clkVmon 9)) (2 + m) = true) ∧
    (0x7 : BitVec 4).getLsbD 3 = false ∧ (0xF : BitVec 4).getLsbD 3 = true ∧ (tRegs []).powered = false := by decide +kernel
/-- Both monitors of a supply read it; the trip of one raises the supply's source (R410). -/
theorem test_trip : tAfter (.vmonTrip 9 0x7 900) (tPowered [(Reg.clkVmon 9, 0xF)]) (fun t => (t.detected.map (·.src), t.fget (Reg.clkVmon 9) Reg.clkVmon_TRIPS)) = some ([0x1F9], 1) := by decide +kernel
theorem wit_temperatures : let s := tPowered [(Reg.clkTempThr, tFld [(Reg.clkTempThr_HIGH, 100), (Reg.clkTempThr_CRIT, 120)])];
    s.fget Reg.clkTempThr Reg.clkTempThr_HIGH = 100 ∧ (∀ k < 6, s.fget (Reg.clkTemp k) Reg.clkTemp_FAILED = 0 ∧ s.fget (Reg.clkTemp k) Reg.clkTemp_HIGH = 0 ∧
      s.fget (Reg.clkTemp k) Reg.clkTemp_A = s.fget (Reg.clkTemp k) Reg.clkTemp_B) ∧ (100 : Int) ≤ (164 : Nat) - 64 ∧ ¬ (100 : Int) ≤ (163 : Nat) - 64 ∧ ((159 : Nat) : Int) - 64 ≤ 100 - 5 := by decide +kernel
theorem wit_transfers : (tRegs (tGate Reg.clkI2cCmd)).grants tRq Reg.clkI2cCmd ∧ (tRegs (tGate Reg.clkI2cCmd)).fget Reg.clkI2cStat Reg.clkI2cStat_BUSY = 0 ∧
    (tRegs [(Reg.clkI2cStat, tFld [(Reg.clkI2cStat_BUSY, 1)])]).fget Reg.clkI2cStat Reg.clkI2cStat_BUSY = 1 ∧ (tRegs []).clk.i2c = none ∧
    ({ tRegs [] with clk := { Clk.reset with i2c := some 0x1000080 } } : State).clk.i2c = some 0x1000080 ∧ (tRegs (tGate Reg.clkGpioOut)).grants tRq Reg.clkGpioOut := by unfold State.grants; decide +kernel
/-- A pin that the device drives shows what it drives, one that the board drives the board's level (R423). -/
theorem test_pins : tAfter (.gpioOutWrite tRq 3) { tPowered ((Reg.clkGpioDir, 1) :: tGate Reg.clkGpioOut) with clk := { Clk.reset with ext := 4 } } (fun t => t.rd Reg.clkGpioIn) = some 5 := by decide +kernel

/-- `SystemRegisterRows`: a sleep that may be taken in RUN and in STANDBY, and those that may not; each life-cycle state; a challenge that waits. -/
def tSys (op lc : Nat) (l : List (Nat × Word)) (off : Nat) : State := tRegs ([(Reg.sysState, tFld [(Reg.sysState_OPSTATE, op), (Reg.sysState_LC, lc)]), (Reg.sysPerm, tFld [(Reg.sysPerm_SLEEP_TRIADS, 8)])] ++ l ++ tGate off)
theorem wit_sleep : tRq.init.val = 3 ∧ (∀ op ∈ [3, 6], (tSys op 2 [] Reg.sysSleep).grants tRq Reg.sysSleep ∧ (tSys op 2 [] Reg.sysSleep).opstate = op ∧
      ((tSys op 2 [] Reg.sysSleep).fget Reg.sysPerm Reg.sysPerm_SLEEP_TRIADS).testBit 3 = true) ∧ bits (0x51EE : Word) 0 16 = 0x51EE ∧ bits (0x51EF : Word) 0 16 ≠ 0x51EE ∧ (tSys 7 2 [] Reg.sysSleep).opstate = 7 := by
  unfold State.grants; decide +kernel
theorem wit_sys_gates : (∀ off ∈ [Reg.sysIpi, Reg.timeRate, Reg.ddrZodProbe, Reg.edcFlipData, Reg.sysLcCtl], (tSys 3 2 [] off).grants tRq off) ∧
    (tSys 3 2 [] Reg.edcFlipData).gateCause { regReq tRq .write Reg.edcFlipData with len := 4, data := 7 } = none ∧
    (tRegs (tGate (Reg.sysLcChal 0))).gateCause (regReq tRq .read (Reg.sysLcChal 0)) = none := by unfold State.grants; decide +kernel
theorem wit_life_cycle : (∀ lc ∈ [1, 2, 4], (tSys 3 lc [] Reg.sysLcCtl).fget Reg.sysState Reg.sysState_LC = lc) ∧
    (tSys 3 2 [(Reg.sysLcStat, tFld [(Reg.sysLcStat_CHAL_VALID, 1)])] Reg.sysLcCtl).fget Reg.sysLcStat Reg.sysLcStat_CHAL_VALID = 1 ∧ (tSys 3 2 [] Reg.sysLcCtl).fget Reg.sysLcStat Reg.sysLcStat_CHAL_VALID ≠ 1 := by
  decide +kernel
/-- MANUFACTURE to SECURED needs the key (R397). -/
theorem test_life_cycle : tAfter (.manufactureToSecured tRq 0x4C43) (tSys 3 1 [] Reg.sysLcCtl) (fun t => (t.otp.lc, t.fget Reg.sysLcStat Reg.sysLcStat_RESULT)) = some (2, 1) ∧
    tAfter (.manufactureToSecured tRq 0x4C44) (tSys 3 1 [] Reg.sysLcCtl) (fun t => (t.otp.lc, t.fget Reg.sysLcStat Reg.sysLcStat_RESULT)) = some (0, 2) := by decide +kernel

/-! ### Images -/

/-- An image whose sections are FUL_BIND, FUL_SCHED, PNC_SCHED and DHP with no binding valid, one window, no slice and eight host keys, and empty ones. -/
def tSecAt (t : Nat) : Nat × Nat := match t with | 7 => (0x600, 128) | 8 => (0x680, 24) | 9 => (0x6C0, 16) | 13 => (0x700, 328) | _ => (0x600, 0)
def tImage : List Byte := (List.range 0x200).map (fun _ => 0) ++ ((List.range 16).flatMap fun k => toLe 4 (k + 1) ++ toLe 4 (tSecAt (k + 1)).1 ++ toLe 4 (tSecAt (k + 1)).2 ++ List.replicate 52 0) ++
  List.replicate 128 0 ++ ([1, 0, 1, 0] ++ List.replicate 12 0 ++ [1, 0] ++ List.replicate 6 0) ++ List.replicate 40 0 ++ ([0, 1] ++ List.replicate 62 0) ++ List.replicate 328 0
theorem tSection_spec : (∀ t ∈ [1, 2, 3, 4, 5, 6, 10, 11, 12, 14, 15, 16], imgSection tImage t = []) ∧ imgSection tImage 7 = List.replicate 128 0 ∧
    imgSection tImage 8 = [1, 0, 1, 0] ++ List.replicate 12 0 ++ [1, 0] ++ List.replicate 6 0 ∧ imgSection tImage 9 = [0, 1] ++ List.replicate 14 0 ∧
    imgSection tImage 13 = List.replicate 328 0 := by decide +kernel
theorem tSec_spec (s : State) {t : Nat} (h : imgSection tImage t = []) : s.imgSec tImage t = some s := by simp [State.imgSec, h, imgRecords, State.imgApply]
/-- A chain of steps that each succeed and keep the Hatbox. -/
theorem tChain_spec {f : State → Nat → Option State} {n : Nat} (h : ∀ s, ∀ k < n, ∃ z, f s k = some z ∧ z.hbx = s.hbx) (s : State) :
    ∃ z, (List.range n).foldl (fun (o : Option State) k => o.bind fun s => f s k) (some s) = some z ∧ z.hbx = s.hbx := by
  suffices g : ∀ m ≤ n, ∃ z, (List.range m).foldl (fun (o : Option State) k => o.bind fun s => f s k) (some s) = some z ∧ z.hbx = s.hbx from g n (Nat.le_refl n)
  intro m
  induction m with
  | zero => exact fun _ => ⟨s, rfl, rfl⟩
  | succ m ih =>
    intro hm
    obtain ⟨z, hz, hz'⟩ := ih (by omega)
    obtain ⟨y, hy, hy'⟩ := h z m (by omega)
    exact ⟨y, by rw [List.range_succ, List.foldl_append, hz]; exact hy, hy'.trans hz'⟩
theorem tBinds_spec (s : State) : ∃ z, s.imgBinds (List.replicate 128 0) = some z ∧ z.hbx = s.hbx := by
  have c : ∀ k < 8, let d := (List.replicate 128 (0 : Byte)).drop (16 * k)
      ¬ (16 ≤ byteAt d 0 ∨ leAt d 6 2 ≠ 0 ∨ leAt d 8 8 % 2 ^ 12 ≠ 0 ∨ 2 ^ 44 ≤ leAt d 8 8 ∨ ((byteAt d 0).testBit 0 = true ∧ (15 < byteAt d 1 ∨ leAt d 2 2 < 10))) := by decide +kernel
  have l : (List.replicate 128 (0 : Byte)).length = 128 := by decide +kernel
  generalize List.replicate 128 (0 : Byte) = d at c l ⊢
  obtain ⟨z, hz⟩ := tChain_spec (f := fun s c => s.imgBind c (d.drop (16 * c))) (n := 8) (fun s k hk => by rw [State.imgBind, if_neg (c k hk)]; exact ⟨_, rfl, rfl⟩) s
  exact ⟨z, by rw [State.imgBinds, if_neg (by simp [l])]; exact hz.1, hz.2⟩
theorem tSched_spec (s : State) : ∃ z, s.imgSched ([1, 0, 1, 0] ++ List.replicate 12 0 ++ [1, 0] ++ List.replicate 6 0) = some z ∧ z.hbx = s.hbx := by
  have c : let d : List Byte := [1, 0, 1, 0] ++ List.replicate 12 0 ++ [1, 0] ++ List.replicate 6 0
    ¬ (d.length ≠ 16 + 8 * byteAt d 0 ∨ byteAt d 0 < 1 ∨ 64 < byteAt d 0 ∨ 4 ≤ byteAt d 1 ∨ leAt d 2 2 = 0 ∨ leAt d 4 4 ≠ 0) ∧ byteAt d 0 = 1 ∧
      ¬ (leAt (d.drop 16) 0 2 = 0 ∨ leAt (d.drop 16) 6 2 ≠ 0 ∨ ((List.range 4).any fun i => decide (16 ≤ byteAt (d.drop 16) (2 + i))) = true) := by decide +kernel
  generalize ([1, 0, 1, 0] ++ List.replicate 12 0 ++ [1, 0] ++ List.replicate 6 0 : List Byte) = d at c ⊢
  obtain ⟨c1, c2, c3⟩ := c
  simp only [State.imgSched, if_neg c1]
  have chain := tChain_spec (f := fun s w => s.imgWindow w (d.drop (16 + 8 * w))) (n := 1) fun s k hk => by
    obtain rfl : k = 0 := by omega
    rw [State.imgWindow, if_neg c3]; exact ⟨_, rfl, rfl⟩
  rw [c2]
  exact chain (((s.wr Reg.fulSchedCfg _).wr Reg.fulSchedT0 _).wr Reg.fulPgCtl _)
theorem tPncSec_spec (s : State) : ∃ z, s.imgPnc ([0, 1] ++ List.replicate 14 0) = some z ∧ z.hbx = s.hbx := by
  have c : let d : List Byte := [0, 1] ++ List.replicate 14 0
    ¬ (d.length ≠ 16 + 8 * byteAt d 0 ∨ 32 < byteAt d 0 ∨ byteAt d 1 = 0 ∨ leAt d 2 6 ≠ 0) ∧ byteAt d 0 = 0 := by decide +kernel
  generalize ([0, 1] ++ List.replicate 14 0 : List Byte) = d at c ⊢
  rw [State.imgPnc]
  simp only [if_neg c.1]
  rw [c.2]
  exact ⟨_, rfl, rfl⟩
theorem tDhpSec_spec (unwrap : ∀ w d, Config.keyUnwrap w d = some 0) (s : State) : ∃ z, s.imgDhp (List.replicate 328 0) = some z ∧ z.hbx = s.hbx := by
  have c : ∀ k < 8, ¬ 8 ≤ byteAt ((List.replicate 328 (0 : Byte)).drop (41 * k)) 0 := by decide +kernel
  obtain ⟨z, hz⟩ := tChain_spec (f := fun s k => s.imgHostKey ((List.replicate 328 0).drop (41 * k))) (n := 8) (fun s k hk => by
    simp only [State.imgHostKey, if_neg (c k hk), unwrap]
    exact ⟨_, rfl, rfl⟩) s
  have l : (List.replicate 328 (0 : Byte)).length = 328 := by decide +kernel
  refine ⟨z, ?_, hz.2⟩
  simp only [State.imgDhp, l, Nat.lt_irrefl, if_false, Nat.sub_self, List.drop_zero, List.take_zero]
  exact hz.1
/-- `StartUpSteps`: an image that passes check 9, if its eight keys unwrap. -/
theorem wit_sections (unwrap : ∀ w d, Config.keyUnwrap w d = some 0) (s : State) (h : s.hbx.remaps = []) : ∃ z, s.imgSections tImage = some z ∧ z.hbx.remaps = [] := by
  obtain ⟨e, e7, e8, e9, e13⟩ := tSection_spec
  obtain ⟨a, ha, ha'⟩ := tBinds_spec s
  obtain ⟨b, hb, hb'⟩ := tSched_spec a
  obtain ⟨c, hc, hc'⟩ := tPncSec_spec b
  obtain ⟨d, hD, hd'⟩ := tDhpSec_spec unwrap c
  have code : imgCodeOk (imgSection tImage 16) = true := by rw [e 16 (by decide)]; decide
  have con : d.imgContracts tImage = true := by
    unfold State.imgContracts
    rw [e 12 (by decide)]
    rfl
  refine ⟨d, ?_, by rw [hd', hc', hb', ha', h]⟩
  have t (k : Nat) (hk : k ∈ [1, 2, 3, 4, 5, 6, 10, 11, 12, 14, 15, 16]) (s : State) := tSec_spec s (e k hk)
  simp only [State.imgSections, List.foldl_cons, List.foldl_nil, Option.bind_some, t 1 (by decide), t 2 (by decide), t 3 (by decide), t 4 (by decide), t 5 (by decide), t 6 (by decide),
    t 10 (by decide), t 11 (by decide), t 12 (by decide), t 14 (by decide), t 15 (by decide), e7, e8, e9, e13, ha, hb, hc, hD, code, con, Bool.and_self, if_true]

/-- A header for a device in SECURED with sixteen empty sections, and the flash that holds it. -/
def tHeadTop : List Byte := toLe 4 0x3158504B ++ toLe 2 1 ++ toLe 2 16 ++ toLe 4 0x600 ++ toLe 4 0 ++ toLe 8 0 ++ [4, 0] ++ List.replicate (0x200 - 26) 0
def tHeadEntry (k : Nat) : List Byte := toLe 4 (k + 1) ++ toLe 4 0x600 ++ List.replicate 8 0 ++ Config.sha384 []
def tHead : List Byte := tHeadTop ++ (List.range 16).flatMap tHeadEntry
theorem tDrop_spec {f : Nat → List Byte} (h : ∀ k, (f k).length = 64) (k : Nat) : ∀ n o, k < n → (((List.range' o n).flatMap f).drop (64 * k)).take 64 = f (o + k) := by
  induction k with
  | zero =>
    intro n o hn
    obtain ⟨n, rfl⟩ := Nat.exists_eq_succ_of_ne_zero (by omega : n ≠ 0)
    rw [List.range'_succ, List.flatMap_cons, Nat.mul_zero, List.drop_zero, List.take_append_of_le_length (by rw [h]), List.take_of_length_le (by rw [h]), Nat.add_zero]
  | succ k ih =>
    intro n o hn
    obtain ⟨n, rfl⟩ := Nat.exists_eq_succ_of_ne_zero (by omega : n ≠ 0)
    rw [List.range'_succ, List.flatMap_cons, show 64 * (k + 1) = (f o).length + 64 * k by rw [h]; omega, ← List.drop_drop, List.drop_left, ih n (o + 1) (by omega)]
    congr 1; omega
theorem tEntry_spec {k : Nat} (hk : k < 16) : (tHead.drop (0x200 + 64 * k)).take 64 = tHeadEntry k := by
  have l : tHeadTop.length = 0x200 := by decide +kernel
  have e : ∀ k, (tHeadEntry k).length = 64 := fun k => by simp [tHeadEntry, toLe, Config.sha384]
  rw [tHead, ← l, ← List.drop_drop, List.drop_left, List.range_eq_range', tDrop_spec e k 16 0 hk, Nat.zero_add]
def tFlash : SMap Byte := (List.range 0x600).zip tHead
def tFlashed : State := { tBoot 4 [(Reg.sysState, tFld [(Reg.sysState_OPSTATE, 2), (Reg.sysState_LC, 2)])] with
  nvm := { Nvm.reset with flash := tFlash }
  otp := { State.reset.otp with lc := 2, keys := [(0, some (beNat (Config.sha384 (imgPub tHead))))] } }
theorem tZip_spec {d : List Byte} {n a : Nat} (h : d.length = n) (ha : a < n) : SMap.get flashErased ((List.range n).zip d) a = d.getD a 0 := by
  suffices g : ∀ (d : List Byte) (o : Nat), o ≤ a → a < o + d.length → SMap.get flashErased ((List.range' o d.length).zip d) a = d.getD (a - o) 0 by
    have := g d 0 (Nat.zero_le a) (by omega)
    rwa [h, ← List.range_eq_range'] at this
  intro d
  induction d with
  | nil => intro o h1 h2; simp at h2; omega
  | cons b r ih =>
    intro o h1 h2
    simp only [List.length_cons, List.range'_succ, List.zip_cons_cons, SMap.get]
    by_cases he : o = a
    · simp [he]
    · have := ih (o + 1) (by omega) (by simp at h2; omega)
      have e : a - o = a - (o + 1) + 1 := by omega
      simp only [Ne.symm he, if_false, this, e, List.getD_cons_succ]
theorem tGetOne_spec {α : Type} {x : Option α} (v : α) : SMap.get x [(0, some v)] 0 = some v := rfl
theorem tHeadLen_spec : tHead.length = 0x600 := by decide +kernel
theorem tFlash_spec : tFlashed.flashBytes 0 0x600 = tHead := by
  refine List.ext_getElem (by simp [State.flashBytes, tHeadLen_spec]) fun i h1 h2 => ?_
  have hi : i < 0x600 := by rw [tHeadLen_spec] at h2; exact h2
  have e : tFlashed.flashByte i = tHead.getD i 0 := by
    have f : tFlashed.nvm.flash = tFlash := by unfold tFlashed; dsimp only
    rw [State.flashByte, f, tFlash]
    exact tZip_spec tHeadLen_spec hi
  simp only [State.flashBytes, List.getElem_map, List.getElem_range, Nat.zero_add, e]
  simp [List.getD_eq_getElem?_getD, List.getElem?_eq_getElem h2]
/-- An image that passes every check of R393, if its signature verifies. -/
theorem wit_image_good (sig : ∀ k m s, Config.ecdsaP384 k m s = true) : tFits tFlashed 4 = true ∧ imgHeaderOk (tFlashed.flashBytes 0 0x600) = true ∧
    tFlashed.imgKeyOk (tFlashed.flashBytes 0 0x600) = true ∧ imgSigOk (tFlashed.flashBytes 0 0x600) = true ∧ tFlashed.otp.minSvn ≤ imgSvn (tFlashed.flashBytes 0 0x600) ∧
    tFlashed.imgForUs (tFlashed.flashBytes 0 0x600) = true ∧ imgTableOk (tFlashed.flashBytes 0 0x600) = true ∧ tFlashed.imgDigestsOk (tFlashed.flashBytes 0 0x600) = true := by
  rw [tFlash_spec]
  have k : imgKey tHead = 0 := by decide +kernel
  refine ⟨by decide +kernel, by decide +kernel, ?_, sig _ _ _, by decide +kernel, by decide +kernel, by decide +kernel, ?_⟩
  · have h : SMap.get none tFlashed.otp.keys 0 = some (beNat (Config.sha384 (imgPub tHead))) := tGetOne_spec _
    have r : tFlashed.otp.revoked.testBit 0 = false := by decide +kernel
    simp [State.imgKeyOk, k, h, r]
  · have h : ∀ k < 16, (imgEntry tHead k).2.1 = 0x600 ∧ (imgEntry tHead k).2.2.1 = 0 := by decide +kernel
    have g : ∀ k < 16, (imgEntry tHead k).2.2.2 = Config.sha384 [] := by
      intro k hk
      have d : (tHeadEntry k).drop 16 = Config.sha384 [] := by
        rw [tHeadEntry, List.drop_left' (by simp [toLe])]
      simp only [imgEntry, tEntry_spec hk, d]
      exact List.take_of_length_le (by simp [Config.sha384])
    simp only [State.imgDigestsOk, imgEntries, List.all_map, List.all_eq_true, List.mem_range, Function.comp, decide_eq_true_eq]
    intro k hk
    rw [g k hk, (h k hk).2]
    rfl

end
end

section
/-!
PROOFS. The SYS block (Obligations.SystemRegisterRows): what the way into SLEEP does to the memories, and a device whose code store does not come
through it unchanged.
-/

namespace Sys2Proof.Machine

/-! ### Memory through the steps of a sleep request (R384) -/

@[simp] theorem State.fset_mem (s : State) (r : Nat) (f : Fld) (v : Nat) : (s.fset r f v).mem = s.mem := rfl
@[simp] theorem State.modCtx_mem (s : State) (c : Nat) (f : Ctx → Ctx) : (s.modCtx c f).mem = s.mem := rfl

theorem State.ctxEvent_mem (s : State) (c e : Nat) : (s.ctxEvent c e).mem = s.mem := by
  unfold State.ctxEvent
  dsimp only
  split <;> rfl

theorem State.cxEnter_mem (s : State) (c n : Nat) : (s.cxEnter c n).mem = s.mem := by
  unfold State.cxEnter
  dsimp only
  split
  · exact State.ctxEvent_mem _ c 0
  · rfl

@[simp] theorem State.fulUpd_mem (s : State) (c : Nat) : (s.fulUpd c).mem = s.mem := by
  unfold State.fulUpd
  dsimp only
  split
  · rfl
  · exact State.cxEnter_mem _ c _

@[simp] theorem State.dropRun_mem (s : State) (c phase : Nat) : (s.dropRun c phase).mem = s.mem := by
  unfold State.dropRun
  dsimp only
  split <;> rfl

/-- An unbound context has nothing to stop (R186). -/
theorem State.stopContext_unbound {s : State} {c : Nat} (h : s.cxState c = cxUNBOUND) : s.stopContext c = s := if_pos (Or.inr h)

/-- Of a context with one started instruction and nothing queued, STOP_GROUP changes the memory that the instruction writes alone (R186). -/
theorem State.stopContext_mem {s : State} {c : Nat} {o : FulOp} (hs : ¬ (s.cxState c = cxSTOPPED ∨ s.cxState c = cxUNBOUND))
    (hq : (s.ctx c).queue = []) (hr : (s.ctx c).run = [o]) : (s.stopContext c).mem = (s.unspecify c o).mem := by
  rw [State.stopContext, if_neg hs]
  simp [State.stopRun, State.cancelAll, hq, hr]

/-- One byte made a free value. -/
theorem State.freeBytes_one (s : State) (a : Nat) : (s.freeBytes a 1).byte a = (Config.freeWord s.free).setWidth 8 := by
  simp [State.freeBytes, State.fresh, State.byte_setByte]

/-- An element of one byte that the context may write where its translation leads becomes a free value (R186, R205). -/
theorem State.freeElem_byte {s : State} {c va pa : Nat} (hp : s.peek c va = some pa) (hg : s.gateCause (ctxReq c .write pa 1 0) = none) :
    s.freeElem c va 1 (fun _ => true) = s.freeBytes pa 1 := by
  have hk : firstPart va 1 = 1 := by unfold firstPart; omega
  simp [State.freeElem, hk, hp, hg]

/-! ### The fall of PMIC_EN (R384, R385) -/

/-- The Hatbox's log lies in its own block: no entry touches SYS_STATE. -/
theorem State.hbxLog_asleep (s : State) (ticks low value : Nat) : (s.hbxLog ticks low value).asleep = s.asleep := by
  have hd (n : Nat) : Reg.sysState ≠ Reg.hbxEvlog n := by unfold Reg.sysState Reg.hbxEvlog; omega
  have hs : Reg.sysState ≠ Reg.hbxStatus := by decide
  unfold State.hbxLog State.asleep State.opstate State.fget State.fset
  dsimp only
  split <;> simp only [State.rd_wr, if_neg hs, if_neg (hd _)]

theorem State.hbxLog_mem (s : State) (ticks low value : Nat) : (s.hbxLog ticks low value).mem = s.mem := by
  unfold State.hbxLog
  dsimp only
  split <;> rfl

theorem State.wake_asleep (s : State) (rule : Nat) : (s.wake rule).asleep = s.asleep := by
  have hs : Reg.sysState ≠ Reg.hbxStatus := by decide
  have key (u : State) : u.regs = (((s.fset Reg.hbxStatus Reg.hbxStatus_WAKE_RULE rule).fset Reg.hbxStatus Reg.hbxStatus_WAKE_VALID 1).fset
      Reg.hbxStatus Reg.hbxStatus_PMIC_TRIES 0).regs → u.asleep = s.asleep := by
    intro hu
    unfold State.asleep State.opstate State.fget State.rd
    rw [hu]
    simp only [State.fset, State.wr_regs, SMap.get_put, if_neg hs]
  unfold State.wake
  dsimp only
  split <;> exact key _ rfl

theorem State.wake_mem (s : State) (rule : Nat) : (s.wake rule).mem = s.mem := by
  unfold State.wake
  dsimp only
  split <;> rfl

/-- An event that the Hatbox evaluates in SLEEP leaves the device asleep and its memories as they were: nothing is frozen there (R377 to R379). -/
theorem State.hbxEvent_asleep {s : State} (h : s.asleep = true) (ticks inp path value : Nat) (holds : Word → Bool) :
    (s.hbxEvent ticks inp path value holds).asleep = true ∧ (s.hbxEvent ticks inp path value holds).mem = s.mem := by
  unfold State.hbxEvent
  split
  · exact ⟨h, rfl⟩
  · simp only [h, Bool.not_true, Bool.and_false, Bool.false_eq_true, if_false]
    split
    · split
      · exact ⟨(State.wake_asleep _ _).trans ((State.hbxLog_asleep _ _ _ _).trans h), (State.wake_mem _ _).trans (State.hbxLog_mem _ _ _ _)⟩
      · exact ⟨(State.hbxLog_asleep _ _ _ _).trans h, State.hbxLog_mem _ _ _ _⟩
    · exact ⟨h, rfl⟩

theorem State.fastEvents_mem {s : State} (h : s.asleep = true) (l : List Nat) : (l.foldl (fun s n =>
    if s.fget (Reg.hbxInCfg n) Reg.hbxInCfg_FAST_EN = 1 then s.fastEvent 0 n (s.hbxLevel n) else s) s).mem = s.mem := by
  induction l generalizing s with
  | nil => rfl
  | cons n l ih =>
    rw [List.foldl_cons]
    split
    · obtain ⟨ha, hm⟩ := State.hbxEvent_asleep h 0 n 0 (b2n (s.hbxLevel n)) (fastHolds (s.hbxLevel n) (s.hbxLevel n))
      exact (ih ha).trans hm
    · exact ih h

/-- A field reads as it was written. -/
theorem bits_setBits {lo len v : Nat} (w : Word) (hl : lo + len ≤ 64) (hv : v < 2 ^ len) : bits (setBits w lo len v) lo len = v := by
  have hm (i : Nat) (hi : i < 64) : (mask64 len).getLsbD i = decide (i < len) := by
    rw [mask64, BitVec.getLsbD_ofNat, Nat.testBit_two_pow_sub_one]
    simp [hi]
  have key : (setBits w lo len v >>> lo) &&& mask64 len = BitVec.ofNat 64 v := by
    refine BitVec.eq_of_getLsbD_eq fun i hi => ?_
    rw [BitVec.getLsbD_and, hm i hi, BitVec.getLsbD_ofNat]
    by_cases h : i < len
    · have hlt : lo + i < 64 := by omega
      have hmi : (mask64 len)[i] = true := by rw [← BitVec.getLsbD_eq_getElem hi, hm i hi, decide_eq_true h]
      have hvi : (BitVec.ofNat 64 v)[i] = v.testBit i := by rw [← BitVec.getLsbD_eq_getElem hi, BitVec.getLsbD_ofNat, decide_eq_true hi, Bool.true_and]
      simp [setBits, h, hi, hlt, hmi, hvi]
    · have hz : v.testBit i = false := Nat.testBit_lt_two_pow (Nat.lt_of_lt_of_le hv (Nat.pow_le_pow_right (by omega) (by omega)))
      simp [h, hz]
  have hv64 : v < 2 ^ 64 := Nat.lt_of_lt_of_le hv (Nat.pow_le_pow_right (by omega) (by omega))
  rw [bits, key, BitVec.toNat_ofNat, Nat.mod_eq_of_lt hv64]

theorem State.setOp_asleep (s : State) : (s.setOp opSLEEP).asleep = true := by
  unfold State.asleep State.opstate State.setOp State.fset State.fget
  rw [State.rd_wr, if_pos rfl, bits_setBits _ (by decide) (by decide)]
  rfl

/-- What a filter by key lets through is read as before, and everything else as the default. -/
theorem SMap.get_filter {α : Type} {d : α} (p : Nat → Bool) (m : SMap α) (i : Nat) :
    SMap.get d (m.filter fun e => p e.1) i = if p i then SMap.get d m i else d := by
  induction m with
  | nil => simp [SMap.get]
  | cons e m ih =>
    obtain ⟨k, v⟩ := e
    by_cases hp : p k = true
    · rw [List.filter_cons_of_pos (by exact hp)]
      simp only [SMap.get, ih]
      by_cases hi : i = k
      · simp [hi, hp]
      · simp [hi]
    · rw [List.filter_cons_of_neg (by exact hp), ih]
      by_cases hi : i = k
      · simp [hi, hp]
      · simp [SMap.get, hi]

theorem State.foldl_wr_mem (l : List (Nat × Word)) (s : State) : (l.foldl (fun z e => z.wr e.1 e.2) s).mem = s.mem := by
  induction l generalizing s with
  | nil => rfl
  | cons e l ih => exact ih _

theorem State.resetMain_mem (s : State) (warm : Bool) (cause : Nat) :
    (s.resetMain warm cause).mem = s.mem.filter fun e => s.keepsByte warm e.1 := by
  unfold State.resetMain
  dsimp only
  exact State.foldl_wr_mem _ _

theorem State.pmicOff_mem (s : State) : s.pmicOff.mem = s.mem.filter fun e => s.keepsByte false e.1 := by
  unfold State.pmicOff
  dsimp only
  refine (State.fastEvents_mem ?_ _).trans ?_
  · exact State.setOp_asleep (s.resetMain false (s.fget Reg.sysState Reg.sysState_RST_CAUSE))
  · exact State.resetMain_mem s false (s.fget Reg.sysState Reg.sysState_RST_CAUSE)

/-- Where the main supplies go, the code store alone keeps its bytes (R266, R384). -/
theorem State.pmicOff_byte (s : State) (a : Nat) : s.pmicOff.byte a = if windowOf a = .code then s.byte a else 0 := by
  have hk : s.keepsByte false a = decide (windowOf a = .code) := by
    unfold State.keepsByte
    split <;> simp_all
  rw [State.byte, State.pmicOff_mem, SMap.get_filter, hk]
  simp [State.byte, memDefault]

/-! ### A sleep request that is honoured (R384) -/

/-- The device as `stopAll` finds it: pins low, heartbeat and egress stopped. -/
def State.quieted (s : State) : State :=
  ((s.assertPins 0xF).modTwin fun x => { x with alive := false }).modEth fun e => { e with stopped := true }

/-- A device asleep has of its memories the code store, as stopping everything left it. -/
theorem State.sleep_byte (s : State) (a : Nat) : s.sleep.byte a = if windowOf a = .code then s.quieted.stopAll.byte a else 0 :=
  State.pmicOff_byte s.quieted.stopAll.storeTime a

theorem exec_sysSleep {s : State} {rq : Rq} {v : Word} (hg : s.grants rq Reg.sysSleep) (hi : rq.init.val < 16)
    (hp : (s.fget Reg.sysPerm Reg.sysPerm_SLEEP_TRIADS).testBit rq.init.val = true) (hk : bits v 0 16 = 0x51EE) (h3 : 3 ≤ s.opstate)
    (h6 : s.opstate ≤ 6) : exec (.sysSleep rq v) s = .next s.sleep := by
  have hw : s.gatedWrite rq Reg.sysSleep v = s.sleepRequest rq.init.val (v &&& BitVec.allOnes 64) := State.gatedWrite_granted hg v
  rw [BitVec.and_allOnes, State.sleepRequest, if_pos ⟨hi, hp, hk, h3, h6⟩] at hw
  exact congrArg Host.Outcome.next hw

/-! ### A device whose code store does not come through SLEEP unchanged -/

/-- The free value that the first draw on the device gives (log entry 3). -/
def firstFree : Byte := (Config.freeWord 0).setWidth 8

/-- A VST of one byte, which has started and has issued no element (R200, R210). -/
def oneByteStore : FulOp :=
  { seq := 1, word := 0x04800000, a := 0, b := 1, tag := 0, vl := 1, vtype := 0, deferred := true, written := [], next := 0, newVl := none
    old := [], oldBad := [] }

/-- The first page of the address space of context 7 is the first page of the code store, for reading and writing (R151, R163). -/
def codePage : Xlt :=
  { Xlt.reset with tlb := [(0, { valid := true, size := 0, vpn := 0, asid := 0, pte := BitVec.ofNat 64 (paCode + 0xD7), age := 0 })] }

/-- A device in RUN. Triad 0 may request sleep, the gates of the SYS block and of the code store let everybody read and write, and context 7 of
Fuller stores to the first byte of the code store, which is not the free value to come. -/
def storesToCode : State :=
  { State.reset with
    regs := [(Reg.sysState, 0x13), (Reg.sysPerm, 0x2), (Reg.fulCState 7, 0xF02),
      (Reg.gateRuleLimit 3 0, 0xFFFFFFFFFC0), (Reg.gateRuleMask 3 0, 0xFFFFFFFF), (Reg.gateRuleCtl 3 0, 0x7),
      (Reg.gateRuleLimit 5 0, 0xFFFFFFFFFC0), (Reg.gateRuleMask 5 0, 0xFFFFFFFF), (Reg.gateRuleCtl 5 0, 0x7)]
    mem := SMap.put memDefault [] paCode (firstFree + 1)
    xlt := [(7, codePage)]
    ctxs := [(7, { Ctx.reset with run := [oneByteStore] })] }

/-- The same device with its triads stopped, before its contexts are. -/
def triadsStopped : State := (List.range 16).foldl State.stopTriad storesToCode.quieted

theorem storesToCode_grants : storesToCode.grants ⟨0, 0⟩ Reg.sysSleep := by unfold State.grants; decide +kernel

theorem triadsStopped_unbound : ∀ c < 7, triadsStopped.cxState c = cxUNBOUND := by decide +kernel

theorem triadsStopped_stores : triadsStopped.cxState 7 = cxRUNNING ∧ (triadsStopped.ctx 7).queue = [] ∧
    (triadsStopped.ctx 7).run = [oneByteStore] := by decide +kernel

/-- The element's place, as the translation and the gate of the code store stand. -/
theorem triadsStopped_reaches : triadsStopped.peek 7 0 = some paCode ∧ triadsStopped.gateCause (ctxReq 7 .write paCode 1 0) = none := by decide +kernel

/-- Nothing is written yet, so what becomes unspecified is the one element to come. -/
theorem State.unspecify_oneByteStore (s : State) (c : Nat) : s.unspecify c oneByteStore = s.freeElem c 0 1 fun _ => true := rfl

/-- The contexts below 7 are unbound, so stopping them all is stopping context 7. -/
theorem storesToCode_stopAll : storesToCode.quieted.stopAll = triadsStopped.stopContext 7 := by
  have h (c : Nat) (hc : c < 7) : triadsStopped.stopContext c = triadsStopped := State.stopContext_unbound (triadsStopped_unbound c hc)
  change [0, 1, 2, 3, 4, 5, 6, 7].foldl State.stopContext triadsStopped = _
  simp only [List.foldl_cons, List.foldl_nil, h 0, h 1, h 2, h 3, h 4, h 5, h 6, Nat.reduceLT]

/-- The stop makes the store's destination unspecified (R186): the byte of the code store is a free value, which SLEEP then keeps. -/
theorem storesToCode_sleep : storesToCode.sleep.byte paCode = firstFree := by
  obtain ⟨hs, hq, hr⟩ := triadsStopped_stores
  obtain ⟨hp, hg⟩ := triadsStopped_reaches
  have hm := State.stopContext_mem (by rw [hs]; decide) hq hr
  have hf : triadsStopped.free = 0 := by decide +kernel
  calc storesToCode.sleep.byte paCode
    _ = storesToCode.quieted.stopAll.byte paCode := by rw [State.sleep_byte, if_pos (by decide)]
    _ = (triadsStopped.unspecify 7 oneByteStore).byte paCode := by rw [storesToCode_stopAll, State.byte, hm, State.byte]
    _ = firstFree := by rw [State.unspecify_oneByteStore, State.freeElem_byte hp hg, State.freeBytes_one, hf, firstFree]

theorem storesToCode_byte : storesToCode.byte paCode = firstFree + 1 := by
  change SMap.get memDefault (SMap.put memDefault [] paCode (firstFree + 1)) paCode = _
  rw [SMap.get_put, if_pos rfl]

/-- Refutes O60: the statement has SLEEP keep every byte of the code store, but the request stops Fuller as STOP_GROUP does (R384), and the memory
that a store in progress writes is then unspecified (R186). On `storesToCode` that memory is a byte of the code store. -/
theorem not_systemRegisterRows : ¬ Obligations.SystemRegisterRows := by
  unfold Obligations.SystemRegisterRows
  intro h
  obtain ⟨t, ht, -, -, -, -, -, -, -, hbyte⟩ := (((h storesToCode ⟨0, 0⟩).1 0x51EE).1 storesToCode_grants).2
    ⟨by decide, by decide +kernel, by decide, by decide +kernel, by decide +kernel⟩
  rw [exec_sysSleep storesToCode_grants (by decide) (by decide +kernel) (by decide) (by decide +kernel) (by decide +kernel)] at ht
  obtain rfl := Host.Outcome.next.inj ht
  have hsame := hbyte paCode
  rw [storesToCode_sleep, storesToCode_byte, if_pos (by decide)] at hsame
  generalize firstFree = f at hsame
  bv_omega

end Sys2Proof.Machine
end

section
/-!
PROOFS. Links (Obligations.LinksGatesAndTransmission): a register file, as data, on which the three field writes of LINK_DOWN are not one write.
-/

namespace Sys2Proof.Machine

/-- A register file that is not in the order of its addresses, as no run leaves one: an entry of a later address stands before ETH_STATUS of port 0,
where MAC 0 is up. -/
def unsortedRegs : State := { State.reset with regs := [(0xB0000, 1), (Reg.ethStatus 0, 0x10)] }

theorem unsortedRegs_up : bit (unsortedRegs.rd (Reg.ethStatus (0 : Fin 2))) (4 + (0 : Fin 4)) = true := by decide +kernel

/-- LINK_DOWN clears LINK_UP first, which leaves ETH_STATUS at 0 and takes its entry out; its new value is then put in order. -/
theorem unsortedRegs_linkDown : (match exec (.linkDown 0 0 15) unsortedRegs with | .next t => t.regs | _ => []) =
    [(Reg.fcruPend 7, 1), (Reg.ethStatus 0, 0xF), (0xB0000, 1)] := by
  decide +kernel

/-- Refutes O46: the statement has a falling link write ETH_STATUS once, where the model writes its three fields one after another. Each register
reads the same, but the statement equates the two states as data, for every state: on `unsortedRegs` the one write leaves the old entry behind the
new one, and the model's writes have taken it out. -/
theorem not_linksGatesAndTransmission : ¬ Obligations.LinksGatesAndTransmission := by
  unfold Obligations.LinksGatesAndTransmission
  intro h
  have hdown := (h.1 unsortedRegs 0 0 15 true).2.1 unsortedRegs_up
  have hregs := unsortedRegs_linkDown
  rw [hdown] at hregs
  exact absurd hregs (by decide +kernel)

end Sys2Proof.Machine
end

section
/-!
PROOFS. Host requests (Obligations.HostRequestChecks): a response whose way into the working area ends its session.
-/

namespace Sys2Proof.Machine

/-- Triad 0's write of its key to SYS_SLEEP, which has passed its gate and which its target has not performed. -/
def sleepInFlight : Flight :=
  { num := 0, gate := 5, epoch := 0, time := 0, held := true, done := false, resp := { status := .ok, data := 0 }, own := false
    req := { rq := ⟨0, 0⟩, op := .write, atom := .swap, pa := BitVec.ofNat 44 (paMmio + Reg.sysSleep), len := 8, data := 0x51EE, cmp := 0 } }

/-- A device in RUN with one session, whose working area lies in a bank of the Stream SRAM that is off; the gate of the Stream SRAM lets everybody
write, triad 0 may request sleep, and its request is in flight. -/
def sleepWaits : State :=
  { State.reset with
    regs := [(Reg.sysState, 0x13), (Reg.sysPerm, 0x2),
      (Reg.gateRuleLimit 1 0, 0xFFFFFFFFFC0), (Reg.gateRuleMask 1 0, 0xFFFFFFFF), (Reg.gateRuleCtl 1 0, 0x7), (Reg.memSsState 0, 2)]
    dhp := { Dhp.reset with sess := [(0, some { key := 0, held := [], count := 0, last := 0 })] }
    mesh := { Mesh.reset with nextNum := 1, flights := [sleepInFlight] } }

/-- A PING of session 1. -/
def pingOfSession : DhpMsg :=
  { q := { ctrl := false, mac := 0, ts := ⟨0, 0, 0⟩, src := 0, ctag := none, udp := none, data := [] }, hdr := [], opens := false, cmd := 1, sess := 1
    epoch := 0, seq := 0, len := 0, tag := 0, pay := [] }

theorem sleepWaits_sess : sleepWaits.sess 0 = some { key := 0, held := [], count := 0, last := 0 } := by decide +kernel

/-- Waking the bank for the response performs what waits, and SLEEP ends every session (R384). -/
theorem sleepWaits_respond : (sleepWaits.respond pingOfSession 0 0 [] none (some 0)).sess 0 = none := by decide +kernel

/-- Refutes O47: the statement has a response held by its session leave the session open in every state, but the response is written to the working
area by the mesh, and a bank that is not awake first lets every request that waits be performed (R252; log entry 18). On `sleepWaits` one of them is a
triad's write to SYS_SLEEP, so the device sleeps and its session is gone. -/
theorem not_hostRequestChecks : ¬ Obligations.HostRequestChecks := by
  unfold Obligations.HostRequestChecks
  intro h
  obtain ⟨y, hy, -, -⟩ := (h.2.2 sleepWaits pingOfSession 0 0 [] none (some 0)).2.2 0 _ rfl sleepWaits_sess
  exact absurd (hy.symm.trans sleepWaits_respond) (Option.some_ne_none y)

end Sys2Proof.Machine
end

section
/-!
PROOFS. Triad release (Obligations.ReleaseAndProgramming): a late source beyond the sources there are.
-/

namespace Sys2Proof.Machine

/-- A device about to release its triads whose start-up has kept a source number beyond the 512 of R11: `raise` sets bit 2 of the word 8184 words after
FCRU_PEND0, which is LIVE of copy 0 in TRI_STATUS0. -/
def lateBeyondSources : State :=
  { ((State.reset.wr (Reg.triStatus 0) 0).fset Reg.sysBootStat Reg.sysBootStat_STEP 8) with
    boot := { State.reset.boot with late := [8184 * 64 + 2] } }

theorem lateBeyondSources_due : lateBeyondSources.powered = true ∧ (lateBeyondSources.opstate = 2 ∨ lateBeyondSources.opstate = 5) ∧
    lateBeyondSources.fget Reg.sysBootStat Reg.sysBootStat_HALT = 0 ∧ lateBeyondSources.fget Reg.sysBootStat Reg.sysBootStat_STEP = 8 := by
  decide +kernel

/-- No copy of triad 0 was LIVE, and after the release copy 0 is. -/
theorem lateBeyondSources_live : lateBeyondSources.live 0 0 = false ∧
    (match exec (.triadRelease 0) lateBeyondSources with | .next t => t.live 0 0 | _ => false) = true := by
  decide +kernel

/-- Refutes O58: the statement takes any list of late sources (R366), while a source from 512 on, which no step of start-up keeps, names no FCRU_PEND
register: raised at the release, that of `lateBeyondSources` makes a copy LIVE that was not. -/
theorem not_releaseAndProgramming : ¬ Obligations.ReleaseAndProgramming := by
  unfold Obligations.ReleaseAndProgramming
  intro h
  obtain ⟨t, ht, -, -, -, -, -, -, -, -, -, -, htriads⟩ := (h.1 lateBeyondSources 0).2 lateBeyondSources_due
  obtain ⟨-, -, hcopies, -⟩ := htriads 0 (by decide)
  have hlive := (hcopies 0 (by decide)).1
  obtain ⟨hwas, hnow⟩ := lateBeyondSources_live
  rw [ht] at hnow
  rw [hwas, Bool.false_and] at hlive
  exact absurd (hlive.symm.trans hnow) (by decide)

end Sys2Proof.Machine
end

section
/-!
PROOFS. The fields of a register: what a field write leaves in its own field, in the other fields of its register and in the other registers.
-/

namespace Sys2Proof.Machine

/-! ### Fields of a word -/

theorem getLsbD_mask64 (len i : Nat) : (mask64 len).getLsbD i = (decide (i < 64) && decide (i < len)) := by
  rw [mask64, BitVec.getLsbD_ofNat, Nat.testBit_two_pow_sub_one]

theorem testBit_bits (w : Word) (lo len j : Nat) : (bits w lo len).testBit j = (decide (j < len) && w.getLsbD (lo + j)) := by
  rw [bits, ← BitVec.getLsbD, BitVec.getLsbD_and, BitVec.getLsbD_ushiftRight, getLsbD_mask64]
  by_cases h : j < 64
  · simp [h, Bool.and_comm]
  · simp [h, BitVec.getLsbD_of_ge w (lo + j) (by omega)]

/-- Bit by bit, a field write gives the value inside the field and the old word outside. -/
theorem getLsbD_setBits (w : Word) (lo len v : Nat) {i : Nat} (hi : i < 64) :
    (setBits w lo len v).getLsbD i = if lo ≤ i ∧ i < lo + len then v.testBit (i - lo) else w.getLsbD i := by
  have hw : w.getLsbD i = w[i] := BitVec.getLsbD_eq_getElem hi
  simp only [setBits, BitVec.getLsbD_or, BitVec.getLsbD_and, BitVec.getLsbD_not, BitVec.getLsbD_shiftLeft, getLsbD_mask64, BitVec.getLsbD_ofNat, hi]
  by_cases hl : lo ≤ i
  · by_cases hr : i < lo + len
    · have hs : i - lo < len := by omega
      have ht : i - lo < 64 := by omega
      have hn : ¬ i < lo := by omega
      simp [hl, hr, hs, ht, hn]
    · have hs : ¬ i - lo < len := by omega
      simp [hr, hs]
  · have hn : i < lo := by omega
    simp [hl, hn]

theorem bits_lt (w : Word) (lo len : Nat) : bits w lo len < 2 ^ len := by
  refine Nat.lt_pow_two_of_testBit _ fun i hi => ?_
  rw [testBit_bits]
  simp [Nat.not_lt.mpr hi]

/-- A field keeps the low bits of what is written to it. -/
theorem bits_setBits_mod (w : Word) {lo len : Nat} (v : Nat) (hl : lo + len ≤ 64) : bits (setBits w lo len v) lo len = v % 2 ^ len := by
  refine Nat.eq_of_testBit_eq fun j => ?_
  rw [testBit_bits, Nat.testBit_mod_two_pow]
  by_cases hj : j < len
  · rw [getLsbD_setBits w lo len v (by omega), if_pos (by omega)]
    simp [hj]
  · simp [hj]

theorem bits_setBits_of_disjoint (w : Word) {lo len lo' len' : Nat} (v : Nat) (h : lo' + len' ≤ lo ∨ lo + len ≤ lo') :
    bits (setBits w lo len v) lo' len' = bits w lo' len' := by
  refine Nat.eq_of_testBit_eq fun j => ?_
  rw [testBit_bits, testBit_bits]
  by_cases hj : j < len'
  · by_cases h64 : lo' + j < 64
    · rw [getLsbD_setBits w lo len v h64, if_neg (by omega)]
    · rw [BitVec.getLsbD_of_ge _ _ (by omega), BitVec.getLsbD_of_ge _ _ (by omega)]
  · simp [hj]

/-! ### Fields of a register -/

theorem State.rd_fset (s : State) (r : Nat) (f : Fld) (v r' : Nat) :
    (s.fset r f v).rd r' = if r' = r then setBits (s.rd r) f.lo f.len v else s.rd r' := by
  unfold State.fset
  rw [State.rd_wr]

theorem State.rd_fset_of_ne (s : State) (f : Fld) (v : Nat) {r r' : Nat} (h : r' ≠ r) : (s.fset r f v).rd r' = s.rd r' := by
  rw [State.rd_fset, if_neg h]

theorem State.rd_wr_of_ne (s : State) (v : Word) {r r' : Nat} (h : r' ≠ r) : (s.wr r v).rd r' = s.rd r' := by rw [State.rd_wr, if_neg h]

theorem State.fget_lt (s : State) (r : Nat) (f : Fld) : s.fget r f < 2 ^ f.len := bits_lt _ _ _

theorem State.fget_fset (s : State) (r : Nat) {f : Fld} (v : Nat) (hf : f.lo + f.len ≤ 64) : (s.fset r f v).fget r f = v % 2 ^ f.len := by
  rw [State.fget, State.rd_fset, if_pos rfl, bits_setBits_mod _ _ hf]

theorem State.fget_fset_of_disjoint (s : State) (r : Nat) {f g : Fld} (v : Nat) (h : g.lo + g.len ≤ f.lo ∨ f.lo + f.len ≤ g.lo) :
    (s.fset r f v).fget r g = s.fget r g := by
  rw [State.fget, State.rd_fset, if_pos rfl, bits_setBits_of_disjoint _ _ h, State.fget]

theorem State.fget_fset_of_ne (s : State) (f g : Fld) (v : Nat) {r r' : Nat} (h : r' ≠ r) : (s.fset r f v).fget r' g = s.fget r' g := by
  rw [State.fget, State.rd_fset_of_ne s f v h, State.fget]

theorem State.fget_wr_of_ne (s : State) (g : Fld) (v : Word) {r r' : Nat} (h : r' ≠ r) : (s.wr r v).fget r' g = s.fget r' g := by
  rw [State.fget, State.rd_wr_of_ne s v h, State.fget]

/-- A saturating counter stops at its highest value. -/
theorem State.fget_fsat (s : State) (r : Nat) {f : Fld} (hf : f.lo + f.len ≤ 64) :
    (s.fsat r f 1).fget r f = min (2 ^ f.len - 1) (s.fget r f + 1) := by
  have hpos : 0 < 2 ^ f.len := Nat.two_pow_pos _
  rw [State.fsat, State.fget_fset _ _ _ hf, satAdd, Nat.mod_eq_of_lt (by omega)]

/-! ### Detections -/

theorem State.rd_raiseFor_of_ne (s : State) (src : Nat) (grp : Option Nat) {r : Nat} (h : r ≠ Reg.fcruPend (src / 64)) :
    (s.raiseFor src grp).rd r = s.rd r :=
  State.rd_wr_of_ne s _ h

theorem State.rd_raise_of_ne (s : State) {src r : Nat} (h : r ≠ Reg.fcruPend (src / 64)) : (s.raise src).rd r = s.rd r :=
  State.rd_raiseFor_of_ne s src none h

theorem State.fget_raise_of_ne (s : State) (f : Fld) {src r : Nat} (h : r ≠ Reg.fcruPend (src / 64)) : (s.raise src).fget r f = s.fget r f := by
  rw [State.fget, State.rd_raise_of_ne s h, State.fget]

theorem State.raise_detected_src (s : State) (src : Nat) : (s.raise src).detected.map (·.src) = s.detected.map (·.src) ++ [src] := by
  simp [State.raise, State.raiseFor]

end Sys2Proof.Machine
end

section
/-!
PROOFS. Interrupt latches: what an event of the platform sets in the copies of the triads it names.
-/

namespace Sys2Proof.Machine

/-- A source that may be pending is latched beside the latches that stand (R134). -/
theorem Copy.latch_setLatch (c : Copy) {src : Nat} (hs : 16 ≤ src ∧ src < 240) (n : Nat) : (c.setLatch src).latch n = (c.latch n || decide (n = src)) := by
  unfold Copy.setLatch Copy.latch
  rw [if_neg (by omega)]
  dsimp only
  rw [SMap.get_put]
  by_cases hw : n / 64 = src / 64
  · rw [if_pos hw, bit, getLsbD_setBits _ _ _ _ (Nat.mod_lt n (by omega)), bit, hw]
    by_cases hn : n = src
    · subst hn
      simp
    · rw [if_neg (by omega)]
      simp [hn]
  · have hn : n ≠ src := fun h => hw (by rw [h])
    rw [if_neg hw]
    simp [hn]

/-- An event sets its source in the three copies of its triad. -/
theorem State.copy_irqTriad (s : State) (t src k : Nat) : (s.irqTriad t src).copy k = if k / 3 = t then (s.copy k).setLatch src else s.copy k := by
  have hfold : s.irqTriad t src = [0, 1, 2].foldl (fun s c => s.setCopy (copyIx t c) ((s.copy (copyIx t c)).setLatch src)) s := rfl
  obtain ⟨hin, hout, -⟩ := State.foldCopies (t := t) (F := fun _ c => c.setLatch src) (ks := [0, 1, 2]) (by decide) s
  rw [← hfold] at hin hout
  by_cases hk : k / 3 = t
  · have hix : k = copyIx t (k % 3) := by unfold copyIx; omega
    have hm : k % 3 ∈ [0, 1, 2] := by
      have : k % 3 < 3 := Nat.mod_lt k (by omega)
      simp only [List.mem_cons, List.not_mem_nil, or_false]
      omega
    rw [if_pos hk, hix]
    exact hin _ hm
  · rw [if_neg hk]
    refine hout k fun c hc => ?_
    simp only [List.mem_cons, List.not_mem_nil, or_false] at hc
    unfold copyIx
    omega

theorem State.irqTriad_frame (s : State) (t src : Nat) : s.irqTriad t src = { s with copies := (s.irqTriad t src).copies } := rfl

/-- An event for the triads of a mask. -/
theorem State.copy_irq (s : State) (m src : Nat) {k : Nat} (hk : k < 48) :
    (s.irq m src).copy k = if m.testBit (k / 3) then (s.copy k).setLatch src else s.copy k := by
  have key (l : List Nat) (hl : l.Nodup) (s : State) :
      (l.foldl (fun s t => if m.testBit t then s.irqTriad t src else s) s).copy k =
        if k / 3 ∈ l ∧ m.testBit (k / 3) then (s.copy k).setLatch src else s.copy k := by
    induction l generalizing s with
    | nil => simp
    | cons t l ih =>
      obtain ⟨ht, hl⟩ := List.nodup_cons.mp hl
      rw [List.foldl_cons, ih hl]
      by_cases hkt : k / 3 = t
      · subst hkt
        by_cases hm : m.testBit (k / 3) <;> simp [hm, ht, State.copy_irqTriad]
      · have : (if m.testBit t then s.irqTriad t src else s).copy k = s.copy k := by
          split
          · rw [State.copy_irqTriad, if_neg hkt]
          · rfl
        simp [this, hkt]
  rw [State.irq, key _ List.nodup_range]
  have : k / 3 ∈ List.range 16 := List.mem_range.mpr (by omega)
  simp [this]

theorem State.irq_frame (s : State) (m src : Nat) : s.irq m src = { s with copies := (s.irq m src).copies } := by
  unfold State.irq
  generalize List.range 16 = l
  induction l generalizing s with
  | nil => rfl
  | cons t l ih =>
    rw [List.foldl_cons, ih]
    split
    · rw [State.irqTriad_frame]
    · rfl

/-- A source of the platform is latched in the copies of the triads named, beside the latches that stand. -/
theorem State.latch_irq (s : State) (m : Nat) {src : Nat} (hs : 16 ≤ src ∧ src < 240) {k : Nat} (hk : k < 48) (n : Nat) :
    ((s.irq m src).copy k).latch n = ((s.copy k).latch n || (decide (n = src) && m.testBit (k / 3))) := by
  rw [State.copy_irq s m src hk]
  cases m.testBit (k / 3)
  · simp
  · simp [Copy.latch_setLatch _ hs]

end Sys2Proof.Machine
end

section
/-!
PROOFS. The FCRU block's registers (Obligations.FcruRegisterRows).
-/

namespace Sys2Proof.Machine

theorem State.rows_cons {s t : State} {i : Instr} {l : List (Instr × State)} {rq : Rq} {off : Nat} (hi : regRow i = some (rq, off))
    (h : s.grants rq off → exec i s = .next t) (hl : s.rows l) : s.rows ((i, t) :: l) := by
  refine List.forall_mem_cons.mpr ⟨?_, hl⟩
  rintro ⟨rq', off', hrow, hg⟩
  obtain ⟨rfl, rfl⟩ := Prod.mk.inj (Option.some.inj (hi.symm.trans hrow))
  exact h hg

/-! ### The writes of the FCRU block -/

/-- A double write that its gate lets reach the FCRU block. -/
theorem State.gatedWrite_fcru {s : State} {rq : Rq} {off : Nat} (h : s.grants rq off) (ho : off / 0x10000 = 1) (v : Word) :
    s.gatedWrite rq off v = (s.fcruWrite rq off (BitVec.allOnes 64) v).getD (s.plainWrite off (BitVec.allOnes 64) v) := by
  rw [State.gatedWrite_granted h, State.regWrite]
  simp [ho]

theorem famIx_fcruMatrix {src : Nat} (h : src < 512) : famIx (Reg.fcruMatrix src) (Reg.fcruMatrix 0) 8 512 = some src := by
  unfold famIx Reg.fcruMatrix
  rw [if_pos (by omega)]
  congr 1
  omega

theorem State.gatedWrite_fcruMatrix {s : State} {rq : Rq} {src : Nat} (h : s.grants rq (Reg.fcruMatrix src)) (hs : src < 512) (v : Word) :
    s.gatedWrite rq (Reg.fcruMatrix src) v = s.matrixWrite src rq (BitVec.allOnes 64) v := by
  rw [State.gatedWrite_fcru h (by unfold Reg.fcruMatrix; omega), State.fcruWrite, famIx_fcruMatrix hs]
  rfl

theorem State.gatedWrite_fcruStatus {s : State} {rq : Rq} (h : s.grants rq Reg.fcruStatus) (v : Word) : s.gatedWrite rq Reg.fcruStatus v =
    (if bit v 7 then (if bit v 6 then s.fset Reg.fcruStatus Reg.fcruStatus_LOG_WRAP 0 else s).globalLock
      else if bit v 6 then s.fset Reg.fcruStatus Reg.fcruStatus_LOG_WRAP 0 else s) := by
  have hf : famIx Reg.fcruStatus (Reg.fcruMatrix 0) 8 512 = none := by decide
  rw [State.gatedWrite_fcru h (by decide), State.fcruWrite, hf, BitVec.and_allOnes]
  rfl

theorem State.gatedWrite_fcruSwRaise {s : State} {rq : Rq} (h : s.grants rq Reg.fcruSwRaise) (v : Word) :
    s.gatedWrite rq Reg.fcruSwRaise v = s.swRaise (bits v 0 9) := by
  have hf : famIx Reg.fcruSwRaise (Reg.fcruMatrix 0) 8 512 = none := by decide
  have hb : bit (BitVec.allOnes 64) 0 = true := by decide
  have hn : Reg.fcruSwRaise ≠ Reg.fcruStatus := by decide
  rw [State.gatedWrite_fcru h (by decide), State.fcruWrite, hf]
  simp only [hb, hn, if_false, if_true, Option.getD_some]

/-- The pending bits are all write-1-to-clear. -/
theorem State.plainWrite_fcruPend (s : State) (n : BitVec 3) (v : Word) : s.plainWrite (Reg.fcruPend n.toNat) (BitVec.allOnes 64) v =
    s.wr (Reg.fcruPend n.toNat) (s.rd (Reg.fcruPend n.toNat) &&& ~~~v) := by
  have hd : regAt (Reg.fcruPend n.toNat) = some ⟨0x10040, (1, 0x10000000), (1, 0x10000000), (8, 8), 0, 2 ^ 64 - 1, 0, 0, 0⟩ := by
    revert n
    decide +kernel
  have hones : BitVec.ofNat 64 (2 ^ 64 - 1) = BitVec.allOnes 64 := rfl
  have hzero : (0 : Word) = 0#64 := rfl
  rw [State.plainWrite, hd]
  simp only [regNext, hones, hzero, ite_self, BitVec.and_allOnes, BitVec.or_zero, BitVec.and_zero, BitVec.not_zero]

theorem State.gatedWrite_fcruPend {s : State} {rq : Rq} {n : BitVec 3} (h : s.grants rq (Reg.fcruPend n.toNat)) (v : Word) :
    s.gatedWrite rq (Reg.fcruPend n.toNat) v = s.wr (Reg.fcruPend n.toNat) (s.rd (Reg.fcruPend n.toNat) &&& ~~~v) := by
  have hlt := n.isLt
  have hf : famIx (Reg.fcruPend n.toNat) (Reg.fcruMatrix 0) 8 512 = none := by
    unfold famIx Reg.fcruPend Reg.fcruMatrix
    rw [if_neg (by omega)]
  have hs : Reg.fcruPend n.toNat ≠ Reg.fcruStatus := by unfold Reg.fcruPend Reg.fcruStatus; omega
  have hr : Reg.fcruPend n.toNat ≠ Reg.fcruSwRaise := by unfold Reg.fcruPend Reg.fcruSwRaise; omega
  rw [State.gatedWrite_fcru h (by unfold Reg.fcruPend; omega), State.fcruWrite, hf]
  simp only [hs, hr, if_false, Option.getD_none]
  exact s.plainWrite_fcruPend n v

/-! ### Matrix entries -/

theorem sourceFixed_iff (src : Nat) : sourceFixed src = true ↔ src = 0x1FD ∨ src = 0x1FE := by simp [sourceFixed]

/-- A matrix entry written whole (R35, R36). -/
theorem State.matrixWrite_whole (s : State) (src : Nat) (rq : Rq) (v : Word) : s.matrixWrite src rq (BitVec.allOnes 64) v =
    if sourceListed src = false ∨ (src = 0x1FD ∨ src = 0x1FE) ∨ bit (s.rd (Reg.fcruMatrix src)) 63 = true then s
    else if matrixForbidden src (v &&& 0x800001FFFFFFFFFF) = true then s.raiseFor 0x166 (some rq.init.val)
    else (s.wr (Reg.fcruMatrix src) (v &&& 0x800001FFFFFFFFFF)).closeWindow src := by
  simp only [State.matrixWrite, BitVec.not_allOnes, BitVec.and_zero, BitVec.zero_or, BitVec.and_allOnes, Bool.or_eq_true, Bool.not_eq_true',
    sourceFixed_iff, or_assoc]

/-- Whether a value is forbidden hangs on its two reactions, which LOCK and the reserved bits are no part of. -/
theorem matrixForbidden_locked (src : Nat) (old : Word) :
    matrixForbidden src (old &&& 0x800001FFFFFFFFFF ||| BitVec.twoPow 64 63) = matrixForbidden src old := by
  have low : ∀ i : Fin 6, (0x800001FFFFFFFFFF : Word).getLsbD i = true ∧ (BitVec.twoPow 64 63).getLsbD i = false := by decide
  have hb (lo : Nat) (h : lo + 3 ≤ 6) : bits (old &&& 0x800001FFFFFFFFFF ||| BitVec.twoPow 64 63) lo 3 = bits old lo 3 := by
    refine Nat.eq_of_testBit_eq fun j => ?_
    rw [testBit_bits, testBit_bits]
    by_cases hj : j < 3
    · obtain ⟨hm, hp⟩ := low ⟨lo + j, by omega⟩
      rw [BitVec.getLsbD_or, BitVec.getLsbD_and, hm, hp, Bool.and_true, Bool.or_false]
    · simp [hj]
  simp only [matrixForbidden, hb 0 (by omega), hb 3 (by omega)]

theorem lock_masked (old : Word) : (old ||| BitVec.twoPow 64 63) &&& 0x800001FFFFFFFFFF = old &&& 0x800001FFFFFFFFFF ||| BitVec.twoPow 64 63 := by
  have h : BitVec.twoPow 64 63 &&& (0x800001FFFFFFFFFF : Word) = BitVec.twoPow 64 63 := by decide
  rw [BitVec.and_comm, BitVec.and_or_distrib_left, BitVec.and_comm, BitVec.and_comm _ (BitVec.twoPow 64 63), h]

/-! ### GLOBAL_LOCK -/

theorem setBits_lock (w : Word) : setBits w 63 1 1 = w ||| BitVec.twoPow 64 63 := by
  refine BitVec.eq_of_getLsbD_eq fun i hi => ?_
  rw [getLsbD_setBits w 63 1 1 hi, BitVec.getLsbD_or, BitVec.getLsbD_twoPow]
  by_cases h : i = 63
  · subst h; simp
  · rw [if_neg (by omega)]
    simp [Ne.symm h]

/-- One step of GLOBAL_LOCK. -/
def State.lockEntry (s : State) (i : Nat) : State := if sourceFixed i then s else s.fset (Reg.fcruMatrix i) Reg.fcruMatrix_LOCK 1

theorem State.lockEntries_frame (l : List Nat) (s : State) : l.foldl State.lockEntry s = { s with regs := (l.foldl State.lockEntry s).regs } := by
  induction l generalizing s with
  | nil => rfl
  | cons i l ih =>
    have h : s.lockEntry i = { s with regs := (s.lockEntry i).regs } := by unfold State.lockEntry; split <;> rfl
    rw [List.foldl_cons, ih]
    rw [h]

theorem State.lockEntries_rd (l : List Nat) (s : State) (r : Nat) : (l.foldl State.lockEntry s).rd r =
    if ∃ i ∈ l, sourceFixed i = false ∧ r = Reg.fcruMatrix i then s.rd r ||| BitVec.twoPow 64 63 else s.rd r := by
  induction l generalizing s with
  | nil => simp
  | cons i l ih =>
    have h : (s.lockEntry i).rd r = if sourceFixed i = false ∧ r = Reg.fcruMatrix i then s.rd r ||| BitVec.twoPow 64 63 else s.rd r := by
      unfold State.lockEntry
      cases sourceFixed i
      · simp only [Bool.false_eq_true, if_false, State.rd_fset, true_and]
        split
        next hr => rw [hr]; exact setBits_lock _
        next => rfl
      · simp
    rw [List.foldl_cons, ih, h]
    by_cases hi : sourceFixed i = false ∧ r = Reg.fcruMatrix i <;> simp [hi, BitVec.or_assoc]

theorem State.globalLock_eq (s : State) :
    s.globalLock = ((List.range 512).foldl State.lockEntry s).fset Reg.fcruStatus Reg.fcruStatus_GLOBAL_LOCK 1 := rfl

theorem State.globalLock_frame (s : State) : s.globalLock = { s with regs := s.globalLock.regs } := by
  have h := State.lockEntries_frame (List.range 512) s
  rw [State.globalLock_eq]
  generalize (List.range 512).foldl State.lockEntry s = u at h ⊢
  rw [h]
  rfl

theorem State.globalLock_rd_matrix (s : State) {k : Nat} (hk : k < 512) (hf : sourceFixed k = false) :
    s.globalLock.rd (Reg.fcruMatrix k) = s.rd (Reg.fcruMatrix k) ||| BitVec.twoPow 64 63 := by
  rw [State.globalLock_eq, State.rd_fset_of_ne _ _ _ (by unfold Reg.fcruMatrix Reg.fcruStatus; omega), State.lockEntries_rd,
    if_pos ⟨k, List.mem_range.mpr hk, hf, rfl⟩]

theorem State.globalLock_rd_other (s : State) {r : Nat} (hr : r ≠ Reg.fcruStatus) (hm : ∀ k < 512, r ≠ Reg.fcruMatrix k) :
    s.globalLock.rd r = s.rd r := by
  rw [State.globalLock_eq, State.rd_fset_of_ne _ _ _ hr, State.lockEntries_rd, if_neg]
  rintro ⟨i, hi, -, rfl⟩
  exact hm i (List.mem_range.mp hi) rfl

/-- Settles O25: each write reaches its register's own behaviour in the FCRU block. -/
theorem fcruRegisterRows : Obligations.FcruRegisterRows := by
  unfold Obligations.FcruRegisterRows
  intro s rq v n src
  dsimp only
  have hsrc : src.toNat < 512 := src.isLt
  refine ⟨?_, ?_⟩
  · refine State.rows_cons rfl (fun hg => congrArg Host.Outcome.next ?_) <| State.rows_cons rfl (fun hg => congrArg Host.Outcome.next ?_) <|
      State.rows_cons rfl (fun hg => congrArg Host.Outcome.next ?_) <| State.rows_cons rfl (fun hg => congrArg Host.Outcome.next ?_) <|
      State.rows_cons rfl (fun hg => congrArg Host.Outcome.next ?_) (by simp [State.rows])
    · rw [State.gatedWrite_fcruSwRaise hg]
      simp [State.swRaise, State.injectOk, ← sourceFixed_iff, and_assoc]
    · rw [State.gatedWrite_fcruStatus hg]
      rfl
    · exact State.gatedWrite_fcruPend hg v
    · rw [State.gatedWrite_fcruMatrix hg hsrc, State.matrixWrite_whole]
      rfl
    · rw [State.gatedWrite_fcruMatrix hg hsrc, State.matrixWrite_whole, lock_masked, matrixForbidden_locked]
      rfl
  · intro hg
    refine ⟨s.globalLock, ?_, s.globalLock_frame, ?_, ?_, fun r hr hm => s.globalLock_rd_other hr hm⟩
    · exact congrArg Host.Outcome.next (State.gatedWrite_fcruStatus hg 0x80)
    · rw [State.globalLock_eq, State.fget_fset _ _ _ (by decide)]
      rfl
    · intro k hk hfix
      exact s.globalLock_rd_matrix hk (Bool.eq_false_iff.mpr fun h => hfix ((sourceFixed_iff k).mp h))

end Sys2Proof.Machine
end

section
/-!
PROOFS. The FCRU (Obligations.FcruEvaluation): one occurrence that does not escalate, from its decision to its log entry.
-/

namespace Sys2Proof.Machine

/-! ### The log (R425) -/

theorem State.fcruLogPut_frame (s : State) (src code : Nat) (esc applied : Bool) (time : Nat) :
    s.fcruLogPut src code esc applied time = { s with regs := (s.fcruLogPut src code esc applied time).regs } := by
  unfold State.fcruLogPut
  dsimp only
  split <;> split <;> rfl

/-- A log entry is put at NEXT, which moves on; LOG_WRAP and the first fault aside, the other registers stay. -/
theorem State.fcruLogPut_rd (s : State) (src code : Nat) (esc applied : Bool) (time : Nat) {r : Nat} (hs : r ≠ Reg.fcruStatus) (hf : r ≠ Reg.fcruFirst) :
    (s.fcruLogPut src code esc applied time).rd r =
      if r = Reg.fcruLogHead then BitVec.ofNat 64 ((s.fget Reg.fcruLogHead Reg.fcruLogHead_NEXT + 1) % 32)
      else if r = Reg.fcruLog (s.fget Reg.fcruLogHead Reg.fcruLogHead_NEXT) then
        BitVec.ofNat 64 (src + 2 ^ 9 * code + 2 ^ 12 * b2n esc + 2 ^ 13 * b2n applied + 2 ^ 14 + 2 ^ 24 * time)
      else s.rd r := by
  unfold State.fcruLogPut
  dsimp only
  split <;> split <;> simp only [State.rd_wr, State.rd_fset, hs, hf, if_false]

theorem State.fcruLogPut_rd_outside (s : State) (src code : Nat) (esc applied : Bool) (time : Nat) {r : Nat} (h : r < 0x10000 ∨ 0x10200 ≤ r) :
    (s.fcruLogPut src code esc applied time).rd r = s.rd r := by
  have hlt : s.fget Reg.fcruLogHead Reg.fcruLogHead_NEXT < 32 := s.fget_lt Reg.fcruLogHead Reg.fcruLogHead_NEXT
  rw [State.fcruLogPut_rd _ _ _ _ _ _ (by unfold Reg.fcruStatus; omega) (by unfold Reg.fcruFirst; omega),
    if_neg (by unfold Reg.fcruLogHead; omega), if_neg (by unfold Reg.fcruLog; omega)]

/-! ### The decision on an occurrence that does not escalate (R20 to R22, R28) -/

/-- The decision to apply the reaction `code` on an occurrence. -/
def Detection.plainDec (d : Detection) (code : Nat) : Dec :=
  { src := d.src, entry := d.entry, time := d.time, grp := d.grp, code := code, mask := if bits d.entry 14 4 = 0 then 0xF else bits d.entry 14 4,
    esc := false, run := true }

/-- LOG stays LOG, and STOP_GROUP of a triad's source stays STOP_GROUP. -/
theorem State.substitute_plain (s : State) {d : Detection} {code : Nat} (hc : code = 0 ∨ code = 3 ∧ d.src < 0x100) :
    s.substitute d d.entry code = (code, false) := by
  rcases hc with rfl | ⟨rfl, hsrc⟩
  · rfl
  · simp [State.substitute, groupOf, hsrc]

theorem State.decision_plain (s : State) {d : Detection} (hfix : sourceFixed d.src = false) (hcount : bits d.entry 6 4 = 0)
    (hc : bits d.entry 0 3 = 0 ∨ bits d.entry 0 3 = 3 ∧ d.src < 0x100) :
    s.decision d = (d.plainDec (bits d.entry 0 3), [], s.fsat (Reg.fcruCnt d.src) Reg.fcruCnt_TOTAL 1) := by
  have h6 : bits d.entry 0 3 ≠ 6 := by omega
  have he (u : State) : u.escalate d.src d.entry = (false, u) := if_pos (Or.inl hcount)
  simp [State.decision, he, hfix, State.substitute_plain _ hc, h6, Detection.plainDec]

/-! ### One decision applied -/

theorem State.applyAll_single (s : State) {x : Dec} (hrun : x.run = true) (hc : x.code < 7) : s.applyAll [x] = ([x], s.applyDec x) := by
  have step (c : Nat) (u : State) (done : List Dec) (hs : subsumed done x = false) :
      u.applyCode c done [x] = if x.code = c then (done ++ [x], u.applyDec x) else (done, u) := by
    unfold State.applyCode
    by_cases h : x.code = c <;> simp [h, hrun, hs, State.applyCode]
  have hself : subsumed [x] x = false := by simp [subsumed]
  have hnil : subsumed [] x = false := rfl
  have hcases : x.code = 6 ∨ x.code = 5 ∨ x.code = 4 ∨ x.code = 3 ∨ x.code = 2 ∨ x.code = 1 ∨ x.code = 0 := by omega
  rcases hcases with h | h | h | h | h | h | h <;> simp [State.applyAll, step, h, hself, hnil]

/-- An evaluation of one occurrence that does not escalate: counted, applied and logged. -/
theorem State.evaluate_single (s : State) {d : Detection} (hfix : sourceFixed d.src = false) (hcount : bits d.entry 6 4 = 0)
    (hc : bits d.entry 0 3 = 0 ∨ bits d.entry 0 3 = 3 ∧ d.src < 0x100) :
    s.evaluate [d] = ((s.fsat (Reg.fcruCnt d.src) Reg.fcruCnt_TOTAL 1).applyDec (d.plainDec (bits d.entry 0 3))).fcruLogPut d.src (bits d.entry 0 3)
      false true d.time := by
  have hlt : (d.plainDec (bits d.entry 0 3)).code < 7 := by simp only [Detection.plainDec]; omega
  have hdec : s.decideAll 2 [d] = ([d.plainDec (bits d.entry 0 3)], s.fsat (Reg.fcruCnt d.src) Reg.fcruCnt_TOTAL 1) := by
    simp [State.decideAll, State.decision_plain s hfix hcount hc]
  have h6 : (d.plainDec (bits d.entry 0 3)).code ≠ 6 := by simp only [Detection.plainDec]; omega
  simp [State.evaluate, insertDet, hdec, State.applyAll_single _ (x := d.plainDec (bits d.entry 0 3)) rfl hlt, h6]
  rfl

/-- The command, where one occurrence waits and the two instances agree. -/
theorem execFcruEvaluation_single {s : State} {d : Detection} (hd : s.detected = [d]) (hrun : s.fcruRuns = true) (hf : s.latent.f1 = none) :
    exec .fcruEvaluation s = .next (({ s with detected := [] } : State).evaluate [d]) := by
  have hc : ({ s with detected := [] } : State).compareFcru = { s with detected := [] } := by
    simp only [State.compareFcru, hf]
  change execFcruEvaluation s = _
  simp [execFcruEvaluation, hd, hrun, hc]

/-! ### The reactions LOG and STOP_GROUP (R19) -/

theorem State.irq_zero (s : State) (src : Nat) : s.irq 0 src = s := by simp [State.irq]

theorem State.applyDec_log (s : State) {d : Detection} (hrec : bit d.entry 40 = false) : s.applyDec (d.plainDec 0) = s := by
  simp [State.applyDec, Detection.plainDec, hrec]

theorem State.applyDec_stopGroup (s : State) {d : Detection} (hsrc : d.src < 0x100) (hmask : bits d.entry 24 16 = 0) (hoff : s.recState = 0) :
    s.applyDec (d.plainDec 3) = (s.stopTriad (d.src / 16)).degrade := by
  have hg : d.src / 16 < 16 := by omega
  have hrt : s.recTrigger 1 d.src = s := by simp [State.recTrigger, hoff]
  simp [State.applyDec, Detection.plainDec, hmask, State.irq_zero, hrt, groupOf, hsrc, State.stopGroup, hg]

theorem State.stopTriad_rd (s : State) (t : Nat) {r : Nat} (h1 : r ≠ Reg.triStatus t) (h2 : r ≠ Reg.triResyncStat t) : (s.stopTriad t).rd r = s.rd r := by
  unfold State.stopTriad State.resyncAbandon State.fsat State.modTriad
  dsimp only
  split
  · simp only [Bool.false_eq_true, if_false]
    change (State.fset _ _ _ _).rd r = s.rd r
    simp only [State.rd_fset, h1, h2, if_false]
  · simp only [State.rd_fset, h1, if_false]

theorem State.stopTriad_detected (s : State) (t : Nat) : (s.stopTriad t).detected = s.detected := by
  unfold State.stopTriad State.resyncAbandon
  dsimp only
  split <;> rfl

theorem State.stopTriad_stopped (s : State) (t : Nat) : (s.stopTriad t).fget (Reg.triStatus t) Reg.triStatus_STOPPED = 1 := by
  have hne : Reg.triStatus t ≠ Reg.triResyncStat t := by unfold Reg.triStatus Reg.triResyncStat; omega
  have h1 : (s.fset (Reg.triStatus t) Reg.triStatus_STOPPED 1).fget (Reg.triStatus t) Reg.triStatus_STOPPED = 1 := State.fget_fset _ _ _ (by decide)
  unfold State.stopTriad State.resyncAbandon State.fsat
  dsimp only
  split
  · simp only [Bool.false_eq_true, if_false]
    change (State.fset _ _ _ _).fget _ _ = 1
    rw [State.fget_fset_of_ne _ _ _ _ hne, State.fget_fset_of_disjoint _ _ _ (by decide), State.fget_fset_of_disjoint _ _ _ (by decide), h1]
  · exact h1

theorem State.degrade_rd (s : State) {r : Nat} (h : r ≠ Reg.sysState) : s.degrade.rd r = s.rd r := by
  unfold State.degrade State.setOp
  split
  · exact State.rd_fset_of_ne _ _ _ h
  · rfl

theorem State.degrade_opstate (s : State) : s.degrade.opstate = if s.opstate = 3 then 4 else s.opstate := by
  unfold State.degrade opRUN
  split
  · exact State.fget_fset _ _ _ (by decide)
  · rfl

theorem State.degrade_detected (s : State) : s.degrade.detected = s.detected := by
  unfold State.degrade
  split <;> rfl

/-! ### FCRU_WDOG_EXPIRE (R18) -/

theorem lor_fifteen {n : Nat} (h : n < 16) : n ||| 15 = 15 := by
  revert n
  decide

theorem State.assertPins_all (s : State) : (s.assertPins 15).fget Reg.fcruStatus Reg.fcruStatus_SAFE_ASSERTED = 15 := by
  rw [State.assertPins, State.fget_fset _ _ _ (by decide), lor_fifteen (s.fget_lt Reg.fcruStatus Reg.fcruStatus_SAFE_ASSERTED)]
  decide

theorem State.retItem_bit (s : State) {i : Nat} (hi : i < 64) (b : Bool) : bit ((s.retItem i b).rd Reg.hbxRet) i = b := by
  rw [State.retItem, State.rd_wr, if_pos rfl, bit, getLsbD_setBits _ _ _ _ hi, if_pos (by simp [Reg.hbxRet_VALID])]
  cases b <;> simp [b2n, Reg.hbxRet_VALID]

/-- After FCRU_WDOG_EXPIRE. -/
theorem execFcruWdogExpire_post (s : State) : ∃ t, exec .fcruWdogExpire s = .next t ∧ t = { s with regs := t.regs, twin := t.twin } ∧
    t.fget Reg.fcruStatus Reg.fcruStatus_SAFE_ASSERTED = 0xF ∧ t.fget Reg.fcruStatus Reg.fcruStatus_WDOG_EXPIRED = 1 ∧
    bit (t.rd Reg.hbxRet) 5 = true ∧ t.twin = { s.twin with alive := false, silent := true } := by
  have hne : Reg.fcruStatus ≠ Reg.hbxRet := by decide
  have hpins := s.assertPins_all
  generalize hz : s.assertPins 15 = z at hpins
  let u := (z.fset Reg.fcruStatus Reg.fcruStatus_WDOG_EXPIRED 1).modTwin fun x => { x with alive := false, silent := true }
  have hkeep (f : Fld) : (u.retItem 5 true).fget Reg.fcruStatus f = (z.fset Reg.fcruStatus Reg.fcruStatus_WDOG_EXPIRED 1).fget Reg.fcruStatus f :=
    State.fget_wr_of_ne _ _ _ hne
  refine ⟨u.retItem 5 true, by subst hz; rfl, by subst hz; rfl, ?_, ?_, u.retItem_bit (by decide) true, by subst hz; rfl⟩
  · rw [hkeep, State.fget_fset_of_disjoint _ _ _ (by decide), hpins]
  · rw [hkeep, State.fget_fset _ _ _ (by decide)]
    rfl

/-! ### The evaluation as the statement has it -/

/-- What the evaluation leaves, once the occurrence is counted and its reaction, which leaves the log and the count alone, is applied to `u`. -/
theorem State.fcruLogPut_logged {s u : State} {src : Nat} (code time : Nat) (hdet : u.detected = [])
    (hhead : u.rd Reg.fcruLogHead = s.rd Reg.fcruLogHead)
    (hcnt : u.rd (Reg.fcruCnt src) = (s.fsat (Reg.fcruCnt src) Reg.fcruCnt_TOTAL 1).rd (Reg.fcruCnt src)) :
    let n := s.fget Reg.fcruLogHead Reg.fcruLogHead_NEXT
    let t := u.fcruLogPut src code false true time
    t.detected = [] ∧ t.rd (Reg.fcruLog n) = BitVec.ofNat 64 (src + 2 ^ 9 * code + 2 ^ 13 + 2 ^ 14 + 2 ^ 24 * time) ∧
      t.rd Reg.fcruLogHead = BitVec.ofNat 64 ((n + 1) % 32) ∧
      t.fget (Reg.fcruCnt src) Reg.fcruCnt_TOTAL = min 0xFFFF (s.fget (Reg.fcruCnt src) Reg.fcruCnt_TOTAL + 1) := by
  intro n t
  have hn : u.fget Reg.fcruLogHead Reg.fcruLogHead_NEXT = n := by rw [State.fget, hhead]; rfl
  have hlt : n < 32 := s.fget_lt Reg.fcruLogHead Reg.fcruLogHead_NEXT
  have hrd {r : Nat} (hs : r ≠ Reg.fcruStatus) (hf : r ≠ Reg.fcruFirst) := u.fcruLogPut_rd src code false true time hs hf
  rw [hn] at hrd
  refine ⟨?_, ?_, ?_, ?_⟩
  · exact (congrArg State.detected (u.fcruLogPut_frame src code false true time)).trans hdet
  · rw [hrd (by unfold Reg.fcruLog Reg.fcruStatus; omega) (by unfold Reg.fcruLog Reg.fcruFirst; omega),
      if_neg (by unfold Reg.fcruLog Reg.fcruLogHead; omega), if_pos rfl]
    rfl
  · rw [hrd (by decide) (by decide), if_pos rfl]
  · rw [State.fget, hrd (by unfold Reg.fcruCnt Reg.fcruStatus; omega) (by unfold Reg.fcruCnt Reg.fcruFirst; omega),
      if_neg (by unfold Reg.fcruCnt Reg.fcruLogHead; omega), if_neg (by unfold Reg.fcruCnt Reg.fcruLog; omega), hcnt]
    exact State.fget_fsat s _ (by decide)

/-- Settles O30: the evaluation of one occurrence through its decision, its reaction and the log. -/
theorem fcruEvaluation : Obligations.FcruEvaluation := by
  unfold Obligations.FcruEvaluation
  refine ⟨?_, fun s src => rfl, execFcruWdogExpire_post⟩
  intro s d hd hwdog hclk hf1 hsrc hself hwd e n hcount hrec logged
  have hruns : s.fcruRuns = true := by simp [State.fcruRuns, hwdog, hclk]
  have hfix : sourceFixed d.src = false := by simp [sourceFixed, hself, hwd]
  let z : State := { s with detected := [] }
  let v := z.fsat (Reg.fcruCnt d.src) Reg.fcruCnt_TOTAL 1
  have hvrd {r : Nat} (h : r ≠ Reg.fcruCnt d.src) : v.rd r = s.rd r := State.rd_fset_of_ne z _ _ h
  have hvcnt : v.rd (Reg.fcruCnt d.src) = (s.fsat (Reg.fcruCnt d.src) Reg.fcruCnt_TOTAL 1).rd (Reg.fcruCnt d.src) := rfl
  refine ⟨?_, ?_⟩
  · intro hcode
    have hexec := execFcruEvaluation_single hd hruns hf1
    rw [State.evaluate_single z hfix hcount (Or.inl hcode), hcode, State.applyDec_log v hrec] at hexec
    refine ⟨_, hexec, State.fcruLogPut_logged 0 d.time rfl (hvrd (by unfold Reg.fcruCnt Reg.fcruLogHead; omega)) hvcnt, ?_⟩
    exact v.fcruLogPut_frame d.src 0 false true d.time
  · intro hcode hlow hmask hoff
    have hexec := execFcruEvaluation_single hd hruns hf1
    have hrecd : v.recState = 0 := by
      rw [← hoff, State.recState, State.fget, hvrd (by unfold Reg.fcruCnt Reg.recStatus; omega), State.fget]
    rw [State.evaluate_single z hfix hcount (Or.inr ⟨hcode, hlow⟩), hcode, State.applyDec_stopGroup v hlow hmask hrecd] at hexec
    have hrd {r : Nat} (h1 : r ≠ Reg.triStatus (d.src / 16)) (h2 : r ≠ Reg.triResyncStat (d.src / 16)) (h3 : r ≠ Reg.sysState) :
        (v.stopTriad (d.src / 16)).degrade.rd r = v.rd r := by rw [State.degrade_rd _ h3, State.stopTriad_rd _ _ h1 h2]
    have hdet : (v.stopTriad (d.src / 16)).degrade.detected = [] := by rw [State.degrade_detected, State.stopTriad_detected]; rfl
    refine ⟨_, hexec, State.fcruLogPut_logged 3 d.time hdet ?_ ?_, ?_, ?_⟩
    · rw [hrd (by unfold Reg.triStatus Reg.fcruLogHead; omega) (by unfold Reg.triResyncStat Reg.fcruLogHead; omega) (by decide),
        hvrd (by unfold Reg.fcruCnt Reg.fcruLogHead; omega)]
    · rw [hrd (by unfold Reg.triStatus Reg.fcruCnt; omega) (by unfold Reg.triResyncStat Reg.fcruCnt; omega)
        (by unfold Reg.sysState Reg.fcruCnt; omega), hvcnt]
    · rw [State.fget, State.fcruLogPut_rd_outside _ _ _ _ _ _ (by unfold Reg.triStatus; omega),
        State.degrade_rd _ (by unfold Reg.triStatus Reg.sysState; omega)]
      exact v.stopTriad_stopped (d.src / 16)
    · have hop : (v.stopTriad (d.src / 16)).opstate = s.opstate := by
        rw [State.opstate, State.fget, State.stopTriad_rd _ _ (by unfold Reg.triStatus Reg.sysState; omega)
          (by unfold Reg.triResyncStat Reg.sysState; omega), hvrd (by unfold Reg.fcruCnt Reg.sysState; omega)]
        rfl
      rw [← hop, ← State.degrade_opstate, State.opstate, State.fget, State.fcruLogPut_rd_outside _ _ _ _ _ _ (by decide)]
      rfl

end Sys2Proof.Machine
end

section
/-!
PROOFS. The twin (Obligations.TwinSendingAndTakeover): what is sent over the Zhegus Link, and the way to a takeover.
-/

namespace Sys2Proof.Machine

/-! ### The window and the link (R353) -/

theorem State.zCarries_iff (s : State) : s.zCarries = true ↔ s.tw Reg.twinStatus_LINK = 2 ∧ s.twin.silent = false := by simp [State.zCarries]

theorem State.zRoom_iff (s : State) : s.zRoom = true ↔ (s.tw Reg.twinStatus_LINK = 2 ∧ s.twin.silent = false) ∧ s.twin.unacked.length < 64 := by
  simp [State.zRoom, State.zCarries_iff]

/-- Taking the link down touches LINK and LANES before the partner's role is looked at. -/
theorem State.zDown_eq (s : State) (l : Nat) : s.zDown l =
    let x := ((s.fset Reg.twinStatus Reg.twinStatus_LINK l).fset Reg.twinStatus Reg.twinStatus_LANES 0).modTwin fun x =>
      { x with unacked := [], fseq := 0, rseq := 0, lanes := 0 }
    if s.tw Reg.twinStatus_PEER_ROLE = 2 then x.fset Reg.twinStatus Reg.twinStatus_PEER_ROLE 3 else x := by
  have h : ((s.fset Reg.twinStatus Reg.twinStatus_LINK l).fset Reg.twinStatus Reg.twinStatus_LANES 0).tw Reg.twinStatus_PEER_ROLE =
      s.tw Reg.twinStatus_PEER_ROLE := by
    rw [State.tw, State.fget_fset_of_disjoint _ _ _ (by decide), State.fget_fset_of_disjoint _ _ _ (by decide), State.tw]
  rw [← h]
  rfl

theorem State.zDown_post (s : State) {l : Nat} (hl : l < 4) :
    s.zDown l = { s with regs := (s.zDown l).regs, twin := (s.zDown l).twin } ∧ (s.zDown l).tw Reg.twinStatus_LINK = l ∧
      (s.zDown l).twin.unacked = [] ∧ (s.zDown l).twin.lanes = 0 := by
  have hlink : ((s.fset Reg.twinStatus Reg.twinStatus_LINK l).fset Reg.twinStatus Reg.twinStatus_LANES 0).tw Reg.twinStatus_LINK = l := by
    rw [State.tw, State.fget_fset_of_disjoint _ _ _ (by decide), State.fget_fset _ _ _ (by decide)]
    exact Nat.mod_eq_of_lt hl
  rw [State.zDown_eq]
  dsimp only
  split
  · refine ⟨rfl, ?_, rfl, rfl⟩
    rw [State.tw, State.fget_fset_of_disjoint _ _ _ (by decide)]
    exact hlink
  · exact ⟨rfl, hlink, rfl, rfl⟩

theorem exec_zhegusRetransmit {s : State} {f : ZFrame} {n : Nat} {r : List (ZFrame × Nat)} (hu : s.twin.unacked = (f, n) :: r)
    (hc : s.zCarries = true) : exec .zhegusRetransmit s = .next (if n < 3 then s.zResend else (s.raise 0x1E1).zDown 1) := by
  change execZhegusRetransmit s = _
  simp only [execZhegusRetransmit, hu, hc, Bool.not_true, Bool.false_eq_true, if_false]
  exact (apply_ite Host.Outcome.next _ _ _).symm

theorem exec_zhegusRetransmit_idle {s : State} (h : s.twin.unacked = [] ∨ ¬ s.zCarries = true) : exec .zhegusRetransmit s = .next s := by
  change execZhegusRetransmit s = _
  unfold execZhegusRetransmit
  split
  · rfl
  next hu =>
    have hc : s.zCarries = false := by simpa [hu] using h
    simp [hc]

/-! ### Training (R352) -/

/-- A link that comes up announces the settings with the epoch and role as they were before its training. -/
theorem exec_linkRetrainDone_up {s : State} {lanes : BitVec 4} (h1 : s.tw Reg.twinStatus_LINK = 1) (hl : s.usableLanes lanes.toNat ≠ 0) :
    let l := s.usableLanes lanes.toNat
    let v := ((s.fsat Reg.twinLinkStat Reg.twinLinkStat_RETRAINS 1).fset Reg.twinStatus Reg.twinStatus_LINK 2).setLanes l
    let y := if l = 15 then v else v.raise 0x1E2
    exec (.linkRetrainDone lanes) s = .next (y.fresh.2.zSend
      (.config (s.fget Reg.twinCfg Reg.twinCfg_ROLE) (s.tw Reg.twinStatus_EPOCH) (y.fresh.1.toNat % 2 ^ 32))) := by
  intro l v y
  have hy (r : Nat) (f : Fld) (hr : r ≠ Reg.fcruPend 7) : y.fget r f = v.fget r f := by
    unfold y
    split
    · rfl
    · exact State.fget_raise_of_ne v f hr
  have hcfg : y.fresh.2.fget Reg.twinCfg Reg.twinCfg_ROLE = s.fget Reg.twinCfg Reg.twinCfg_ROLE := by
    calc y.fget Reg.twinCfg Reg.twinCfg_ROLE
      _ = v.fget Reg.twinCfg Reg.twinCfg_ROLE := hy _ _ (by decide)
      _ = ((s.fsat Reg.twinLinkStat Reg.twinLinkStat_RETRAINS 1).fset Reg.twinStatus Reg.twinStatus_LINK 2).fget Reg.twinCfg Reg.twinCfg_ROLE :=
        State.fget_fset_of_ne _ _ _ _ (by decide)
      _ = s.fget Reg.twinCfg Reg.twinCfg_ROLE := by
        rw [State.fget_fset_of_ne _ _ _ _ (by decide), State.fsat, State.fget_fset_of_ne _ _ _ _ (by decide)]
  have hepoch : y.fresh.2.tw Reg.twinStatus_EPOCH = s.tw Reg.twinStatus_EPOCH := by
    calc y.fget Reg.twinStatus Reg.twinStatus_EPOCH
      _ = v.fget Reg.twinStatus Reg.twinStatus_EPOCH := hy _ _ (by decide)
      _ = ((s.fsat Reg.twinLinkStat Reg.twinLinkStat_RETRAINS 1).fset Reg.twinStatus Reg.twinStatus_LINK 2).fget Reg.twinStatus Reg.twinStatus_EPOCH :=
        State.fget_fset_of_disjoint _ _ _ (by decide)
      _ = s.fget Reg.twinStatus Reg.twinStatus_EPOCH := by
        rw [State.fget_fset_of_disjoint _ _ _ (by decide), State.fsat, State.fget_fset_of_ne _ _ _ _ (by decide)]
  rw [← hcfg, ← hepoch]
  change execLinkRetrainDone lanes s = _
  rw [execLinkRetrainDone, if_neg (not_not_intro h1)]
  exact if_neg hl

/-! ### Takeover (R361, R362) -/

/-- An armed standby in STANDBY that no takeover has reached yet (R361). -/
def State.armedStandby (s : State) : Prop :=
  s.role = 2 ∧ s.tw Reg.twinStatus_ARMED = 1 ∧ s.opstate = opSTANDBY ∧ s.twin.taking = none

theorem State.trigger_armed {s : State} (h : s.armedStandby) (b : Bool) : s.trigger b = s.modTwin fun x => { x with taking := some b } := if_pos h

theorem State.trigger_unarmed {s : State} (h : ¬ s.armedStandby) (b : Bool) : s.trigger b = s := if_neg h

/-- The sideband's flag is no part of what a trigger asks for. -/
theorem State.armedStandby_aliveIn (s : State) (v : Nat) : (s.fset Reg.twinStatus Reg.twinStatus_ALIVE_IN v).armedStandby ↔ s.armedStandby := by
  have h (f : Fld) (hf : f.lo + f.len ≤ 12) :
      (s.fset Reg.twinStatus Reg.twinStatus_ALIVE_IN v).fget Reg.twinStatus f = s.fget Reg.twinStatus f :=
    State.fget_fset_of_disjoint _ _ _ (Or.inl hf)
  have ho : (s.fset Reg.twinStatus Reg.twinStatus_ALIVE_IN v).opstate = s.opstate := State.fget_fset_of_ne _ _ _ _ (by decide)
  unfold State.armedStandby State.role State.tw
  rw [h _ (by decide), h _ (by decide), ho]
  rfl

theorem State.fget_enterRun_of_ne (s : State) {r : Nat} (f : Fld) (hf : r ≠ Reg.fcruStatus) (hs : r ≠ Reg.sysState) :
    s.enterRun.fget r f = s.fget r f := by
  unfold State.enterRun State.setOp
  dsimp only
  rw [State.fget_fset_of_ne _ _ _ _ hs]
  split
  · rfl
  · exact State.fget_fset_of_ne s _ _ _ hf

/-- A time source lost at the takeover is taken from the image (R362). -/
def State.takeoverSource (s : State) : State :=
  if s.fget Reg.timeCtl Reg.timeCtl_SOURCE = 6 then s.fset Reg.timeCtl Reg.timeCtl_SOURCE s.timeB.image else s

theorem State.fget_takeoverSource_of_ne (s : State) {r : Nat} (f : Fld) (h : r ≠ Reg.timeCtl) : s.takeoverSource.fget r f = s.fget r f := by
  unfold State.takeoverSource
  split
  · exact State.fget_fset_of_ne _ _ _ _ h
  · rfl

/-- The registers with which a takeover completes: ROLE PRIMARY, the pins at the first RUN, RUN, the source of time, and GM. -/
def State.takeoverRegs (s : State) : State :=
  let s := (s.modTwin fun x => { x with taking := none, begun := false, bulk := none, bulkEnd := none }).fset Reg.twinStatus Reg.twinStatus_ROLE 1
  s.enterRun.takeoverSource.fset Reg.timeStatus Reg.timeStatus_GM 1

theorem State.takeoverRegs_frame (s : State) : s.takeoverRegs = { s with
    regs := s.takeoverRegs.regs, twin := { s.twin with taking := none, begun := false, bulk := none, bulkEnd := none }
    boot := { s.boot with ran := true } } := by
  unfold State.takeoverRegs State.takeoverSource State.enterRun
  dsimp only
  split <;> split <;> rfl

/-- The fields of the takeover, register by register. -/
theorem State.takeoverRegs_fields (s : State) : s.takeoverRegs.role = 1 ∧ s.takeoverRegs.opstate = 3 ∧
    (s.boot.ran = false → s.fget Reg.fcruStatus Reg.fcruStatus_WDOG_EXPIRED = 0 → s.takeoverRegs.fget Reg.fcruStatus Reg.fcruStatus_SAFE_ASSERTED = 0) ∧
    s.takeoverRegs.fget Reg.timeStatus Reg.timeStatus_GM = 1 ∧
    s.takeoverRegs.fget Reg.timeCtl Reg.timeCtl_SOURCE = if s.fget Reg.timeCtl Reg.timeCtl_SOURCE = 6 then s.timeB.image % 2 ^ Reg.timeCtl_SOURCE.len
      else s.fget Reg.timeCtl Reg.timeCtl_SOURCE := by
  let z := (s.modTwin fun x => { x with taking := none, begun := false, bulk := none, bulkEnd := none }).fset Reg.twinStatus Reg.twinStatus_ROLE 1
  let u := z.enterRun
  have hfinal : s.takeoverRegs = u.takeoverSource.fset Reg.timeStatus Reg.timeStatus_GM 1 := rfl
  have hz {r : Nat} (f : Fld) (hr : r ≠ Reg.twinStatus) : z.fget r f = s.fget r f := State.fget_fset_of_ne _ _ _ _ hr
  have hu {r : Nat} (f : Fld) (hf : r ≠ Reg.fcruStatus) (hs : r ≠ Reg.sysState) : u.fget r f = z.fget r f := z.fget_enterRun_of_ne f hf hs
  have hv {r : Nat} (f : Fld) (ht : r ≠ Reg.timeCtl) : u.takeoverSource.fget r f = u.fget r f := u.fget_takeoverSource_of_ne f ht
  have ht {r : Nat} (f : Fld) (ht : r ≠ Reg.timeStatus) : s.takeoverRegs.fget r f = u.takeoverSource.fget r f := by
    rw [hfinal, State.fget_fset_of_ne _ _ _ _ ht]
  refine ⟨?_, ?_, ?_, ?_, ?_⟩
  · rw [State.role, ht _ (by decide), hv _ (by decide), hu _ (by decide) (by decide)]
    exact State.fget_fset _ _ _ (by decide)
  · rw [State.opstate, ht _ (by decide), hv _ (by decide)]
    exact State.fget_fset _ _ _ (by decide)
  · intro hran hwdog
    have hdead : z.wdogDead = false := by
      rw [State.wdogDead, hz _ (by decide), hwdog]
      rfl
    have hfirst : (z.boot.ran || z.wdogDead) = false := by
      rw [hdead, Bool.or_false]
      exact hran
    rw [ht _ (by decide), hv _ (by decide)]
    unfold u State.enterRun State.setOp
    simp only [hfirst, Bool.false_eq_true, if_false]
    rw [State.fget_fset_of_ne _ _ _ _ (by decide)]
    exact State.fget_fset z _ _ (by decide)
  · rw [hfinal, State.fget_fset _ _ _ (by decide)]
    rfl
  · have hsrc : u.fget Reg.timeCtl Reg.timeCtl_SOURCE = s.fget Reg.timeCtl Reg.timeCtl_SOURCE := by
      rw [hu _ (by decide) (by decide), hz _ (by decide)]
    have himg : u.timeB.image = s.timeB.image := by
      unfold u State.enterRun
      dsimp only
      split <;> rfl
    rw [ht _ (by decide), State.takeoverSource, hsrc]
    split
    · rw [State.fget_fset _ _ _ (by decide), himg]
    · exact hsrc

/-- The takeover's doorbell is set by the registers TWIN_CFG as they stood. -/
theorem exec_takeoverComplete {s : State} (ht : s.twin.taking ≠ none) (hb : s.twin.begun = true) : exec .takeoverComplete s =
    .next (s.takeoverRegs.irq (s.fget Reg.twinCfg Reg.twinCfg_TAKE_TRIADS) (64 + s.fget Reg.twinCfg Reg.twinCfg_TAKE_DB)) := by
  have hget (f : Fld) : s.takeoverRegs.fget Reg.twinCfg f = s.fget Reg.twinCfg f := by
    rw [State.takeoverRegs, State.fget_fset_of_ne _ _ _ _ (by decide), State.fget_takeoverSource_of_ne _ _ (by decide),
      State.fget_enterRun_of_ne _ _ (by decide) (by decide), State.fget_fset_of_ne _ _ _ _ (by decide)]
    rfl
  change execTakeoverComplete s = _
  rw [execTakeoverComplete, if_neg (by simp [ht, hb]), ← hget, ← hget]
  rfl

/-! ### The commands that send -/

theorem exec_heartbeatSend (s : State) : exec .heartbeatSend s = .next (if s.zRoom = true then s.zPut false s.heartbeat else s) := rfl

theorem exec_journalSend_idle {s : State} (h : s.role ≠ 1 ∨ ¬ s.zRoom = true ∨ s.unsent.take 7 = []) : exec .journalSend s = .next s := by
  change Host.Outcome.next (if decide (s.role = 1) && s.zRoom then s.journalOut else s) = _
  congr 1
  split
  next hs =>
    obtain ⟨hr, hz⟩ : s.role = 1 ∧ s.zRoom = true := by simpa using hs
    have hes : s.unsent.take 7 = [] := by simpa [hr, hz] using h
    simp [State.journalOut, hes]
  next => rfl

theorem exec_journalSend {s : State} (hr : s.role = 1) (hz : s.zRoom = true) {e : JEnt} (he : (s.unsent.take 7).getLast? = some e) :
    exec .journalSend s = .next ((s.zPut false (.journal (s.unsent.take 7))).fset Reg.twinJrnPos Reg.twinJrnPos_SENT e.jseq.toNat) := by
  change Host.Outcome.next (if decide (s.role = 1) && s.zRoom then s.journalOut else s) = _
  simp [hr, hz, State.journalOut, he]

theorem exec_bulkSend_idle {s : State} (h : s.twin.bulk = none ∨ s.role ≠ 1 ∨ ¬ s.zRoom = true ∨ s.tagFree iTWIN.val = false) :
    exec .bulkSend s = .next s := by
  change execBulkSend s = _
  unfold execBulkSend
  split
  · rfl
  next o ho =>
    have hs : (decide (s.role ≠ 1) || !s.zRoom || !s.tagFree iTWIN.val) = true := by simpa [ho, or_assoc] using h
    rw [hs]
    rfl

theorem exec_bulkSend {s : State} (hr : s.role = 1) (hz : s.zRoom = true) (ht : s.tagFree iTWIN.val = true) {o : Nat} (ho : s.twin.bulk = some o) :
    exec .bulkSend s = .next (s.bulkStep o (s.mirrorAt 16 o)) := by
  change execBulkSend s = _
  simp [execBulkSend, ho, hr, hz, ht]

theorem exec_twinLaneFail {s : State} {lane : Fin 4} (hl : s.tw Reg.twinStatus_LINK = 2) (hu : s.twin.lanes.testBit lane = true) :
    let l := s.usableLanes (if s.twin.lanes = 15 then 15 - 2 ^ lane.val else 0)
    exec (.twinLaneFail lane) s = .next (if l = 0 then (s.raise 0x1E2).zDown 0 else (s.raise 0x1E2).setLanes l) :=
  if_neg (by simp [hl, hu])

/-! ### The commands of loss, takeover and hand-over -/

/-- A loss seen while the other sign of life is gone too is a trigger (R361). -/
theorem exec_twinHbLoss {s : State} (hr : s.role = 2) : exec .twinHbLoss s = .next (if s.twin.sbLost then
    (s.modTwin fun x => { x with hbLost := true }).trigger false else ((s.modTwin fun x => { x with hbLost := true }).raise 0x1E0).zDown 1) :=
  (if_neg (not_not_intro hr)).trans (apply_ite Host.Outcome.next _ _ _).symm

theorem State.role_aliveIn (s : State) (v : Nat) : (s.fset Reg.twinStatus Reg.twinStatus_ALIVE_IN v).role = s.role :=
  State.fget_fset_of_disjoint _ _ _ (by decide)

theorem exec_sidebandLoss (s : State) : exec .sidebandLoss s =
    .next (let u := (s.fset Reg.twinStatus Reg.twinStatus_ALIVE_IN 0).modTwin fun x => { x with sbLost := true }
      if s.role ≠ 2 then u else if s.twin.hbLost then u.trigger false else u.raise 0x1E6) := by
  have hr := s.role_aliveIn 0
  change execSidebandLoss s = _
  rw [← hr]
  unfold execSidebandLoss
  dsimp only
  rw [apply_ite Host.Outcome.next, apply_ite Host.Outcome.next]
  rfl

theorem exec_twinSafeIn (s : State) :
    exec .twinSafeIn s = .next (if s.fget Reg.twinCfg Reg.twinCfg_SAFE_IN_EN = 1 then s.trigger false else s) := rfl

theorem exec_takeover_idle {s : State} (h : s.twin.taking = none ∨ s.twin.begun = true) : exec .takeover s = .next s := by
  change execTakeover s = _
  unfold execTakeover
  split
  · rfl
  next ht => rw [if_pos (by simpa [ht] using h)]

theorem exec_takeover {s : State} {b : Bool} (ht : s.twin.taking = some b) (hb : s.twin.begun = false) :
    let u := s.fset Reg.twinStatus Reg.twinStatus_EPOCH ((s.tw Reg.twinStatus_EPOCH + 1) % 65536)
    exec .takeover s = .next ((if b = true ∧ s.tw Reg.twinStatus_LINK = 2 ∧ s.twin.silent = false then u.zPut false .handoverAck else u).modTwin
      fun x => { x with begun := true, unacked := [] }) := by
  intro u
  have hlink : u.tw Reg.twinStatus_LINK = s.tw Reg.twinStatus_LINK := State.fget_fset_of_disjoint _ _ _ (by decide)
  have hc : ((b && u.zCarries) = true) ↔ (b = true ∧ s.tw Reg.twinStatus_LINK = 2 ∧ s.twin.silent = false) := by
    rw [Bool.and_eq_true, State.zCarries_iff, hlink]
    rfl
  change execTakeover s = _
  simp only [execTakeover, ht, hb, Bool.false_eq_true, if_false, ← hc]
  rfl

/-- Settles O53: command by command; the fields that the statement reads before a write are not those the write changes. -/
theorem twinSendingAndTakeover : Obligations.TwinSendingAndTakeover := by
  unfold Obligations.TwinSendingAndTakeover
  refine ⟨⟨fun s nak b => rfl, fun s => ?_⟩, fun s => ?_⟩
  · intro link carries room sends
    have hroom : s.zRoom = true ↔ room := s.zRoom_iff
    have hcarries : s.zCarries = true ↔ carries := s.zCarries_iff
    refine ⟨fun h => ?_, fun h => ?_, ⟨fun h => ?_, fun hr h e he => ?_⟩, fun h => ?_, fun hr h ht o ho => ⟨fun hm => ?_, fun pa left hm => ?_⟩, rfl,
      fun h => ?_, fun f n r hu h => ⟨fun hn => ?_, fun hn => ?_⟩, fun lanes => ⟨fun h => ?_, fun h hl => ?_, fun h hl => ?_⟩, fun lane =>
      ⟨fun h => ?_, fun h hu => ?_⟩⟩
    · exact (exec_heartbeatSend s).trans (by rw [if_pos (hroom.mpr h)]; rfl)
    · exact (exec_heartbeatSend s).trans (by rw [if_neg (mt hroom.mp h)])
    · exact exec_journalSend_idle (by rwa [hroom])
    · exact exec_journalSend hr (hroom.mpr h) he
    · exact exec_bulkSend_idle (by rwa [hroom])
    · rw [exec_bulkSend hr (hroom.mpr h) ht ho, hm]
      rfl
    · rw [exec_bulkSend hr (hroom.mpr h) ht ho, hm]
      rfl
    · exact exec_zhegusRetransmit_idle (by rwa [hcarries])
    · rw [exec_zhegusRetransmit hu (hcarries.mpr h), if_pos hn, State.zResend, if_neg (by simp [h.2])]
    · rw [exec_zhegusRetransmit hu (hcarries.mpr h), if_neg (by omega), State.zDown_eq]
    · exact if_pos h
    · exact (if_neg (not_not_intro h)).trans (if_pos hl)
    · exact ⟨_, exec_linkRetrainDone_up h hl⟩
    · exact if_pos (by simpa using h)
    · rw [exec_twinLaneFail h hu, State.zDown_eq]
      rfl
  · intro armed trig
    refine ⟨⟨fun hr => ?_, fun hr hsb => ⟨fun ha => ?_, fun ha => ?_⟩, fun hr hsb => ?_⟩,
      ⟨fun hr => ?_, fun hr hhb => ⟨fun ha => ?_, fun ha => ?_⟩, fun hr hhb => ?_⟩, rfl, ⟨fun he ha => ?_, fun h => ?_⟩, exec_takeover_idle,
      fun b ht hb => exec_takeover ht hb, fun h => ?_, fun ht hb => ?_, fun h => ?_, fun h => ?_, fun h => ?_, fun h => ?_⟩
    · exact if_pos hr
    · rw [exec_twinHbLoss hr, if_pos hsb, State.trigger_armed (by exact ha)]
    · rw [exec_twinHbLoss hr, if_pos hsb, State.trigger_unarmed (by exact ha)]
    · let v := (s.modTwin fun x => { x with hbLost := true }).raise 0x1E0
      obtain ⟨hframe, hlink, hwin, hlanes⟩ := v.zDown_post (l := 1) (by decide)
      refine ⟨v.zDown 1, by rw [exec_twinHbLoss hr, if_neg (by simp [hsb])], ?_, hlink, hwin, hlanes, ?_⟩
      · rw [hframe]
        rfl
      · rw [hframe]
        exact State.raise_detected_src _ _
    · rw [exec_sidebandLoss]
      exact congrArg Host.Outcome.next (if_pos hr)
    · rw [exec_sidebandLoss]
      dsimp only
      rw [if_neg (not_not_intro hr), if_pos hhb, State.trigger_armed (by exact (s.armedStandby_aliveIn 0).mpr ha)]
    · rw [exec_sidebandLoss]
      dsimp only
      rw [if_neg (not_not_intro hr), if_pos hhb, State.trigger_unarmed (by exact mt (s.armedStandby_aliveIn 0).mp ha)]
    · rw [exec_sidebandLoss]
      dsimp only
      rw [if_neg (not_not_intro hr), if_neg (by simp [hhb])]
    · rw [exec_twinSafeIn, if_pos he, State.trigger_armed ha]
    · rw [exec_twinSafeIn]
      congr 1
      split
      next he => exact State.trigger_unarmed (h.resolve_left (not_not_intro he)) false
      next => rfl
    · exact if_pos (by simpa using h)
    · obtain ⟨hrole, hop, hsafe, hgm, hsrc⟩ := s.takeoverRegs_fields
      let m := s.fget Reg.twinCfg Reg.twinCfg_TAKE_TRIADS
      let src := 64 + s.fget Reg.twinCfg Reg.twinCfg_TAKE_DB
      have hdb : s.fget Reg.twinCfg Reg.twinCfg_TAKE_DB < 64 := s.fget_lt _ _
      have hget (r : Nat) (f : Fld) : (s.takeoverRegs.irq m src).fget r f = s.takeoverRegs.fget r f := by rw [State.irq_frame]; rfl
      refine ⟨_, exec_takeoverComplete ht hb, ?_, (hget _ _).trans hrole, (hget _ _).trans hop, fun h1 h2 => (hget _ _).trans (hsafe h1 h2),
        (hget _ _).trans hgm, (hget _ _).trans hsrc, fun k hk n _ => ?_⟩
      · rw [State.irq_frame, s.takeoverRegs_frame]
      · have hcopies : s.takeoverRegs.copies = s.copies := by rw [s.takeoverRegs_frame]
        rw [State.latch_irq _ _ (by omega) hk, State.copy, hcopies, State.copy]
    · exact if_pos (by simpa using h)
    · exact if_neg (by simp [h])
    · exact if_neg h
    · exact if_pos h

end Sys2Proof.Machine
end

section
/-!
PROOFS. Frames received (Obligations.FrameReception): the ingress stages of a MAC whose MACsec is disabled, and the delivery of a ring's record.
-/

namespace Sys2Proof.Machine

/-! ### Stages 1 to 4 (R294 to R296) -/

theorem exec_frameReceive_down {s : State} {f : FrameIn} (h : ¬ (s.receives = true ∧ s.macUp f.p f.m = true)) : exec (.frameReceive f) s = .next s := by
  have h' : (!s.receives || !s.macUp f.p f.m) = true := by simpa [or_iff_not_imp_left] using h
  exact if_pos h'

theorem exec_frameReceive {s : State} {f : FrameIn} (h : s.receives = true ∧ s.macUp f.p f.m = true) : exec (.frameReceive f) s =
    .next (if f.fecBad = true then (s.fsat (Reg.ethMacRxcnt f.p f.m) Reg.ethMacRxcnt_RX_DISCARD 1).raise (0x1C2 + f.p.val)
      else s.frameAt f (s.stampAt f.age)) := by
  change execFrameReceive f s = _
  simp only [execFrameReceive, h.1, h.2, Bool.not_true, Bool.or_self, Bool.false_eq_true, if_false]
  exact (apply_ite Host.Outcome.next _ _ _).symm

theorem State.frameAt_bad {s : State} {f : FrameIn} (ts : Stamp)
    (h : f.fcsBad = true ∨ f.data.length + 4 < 64 ∨ s.maxFrame f.p < f.data.length + 4) :
    s.frameAt f ts = s.fsat (Reg.ethMacRxcnt f.p f.m) Reg.ethMacRxcnt_RX_DISCARD 1 := by
  unfold State.frameAt
  dsimp only
  rw [if_pos]
  simp only [Bool.or_eq_true, decide_eq_true_eq]
  tauto

/-- The frame is counted. -/
def State.frameCounted (s : State) (f : FrameIn) : State := s.fadd (Reg.ethMacRxcnt f.p f.m) Reg.ethMacRxcnt_RX_FRAMES 1

theorem State.frameCounted_rd (s : State) (f : FrameIn) {r : Nat} (h : r < 0xa0000 ∨ 0xc0000 ≤ r) : (s.frameCounted f).rd r = s.rd r :=
  State.rd_fset_of_ne _ _ _ (by unfold Reg.ethMacRxcnt; omega)

theorem State.frameCounted_fget (s : State) (f : FrameIn) {r : Nat} (g : Fld) (h : r < 0xa0000 ∨ 0xc0000 ≤ r) :
    (s.frameCounted f).fget r g = s.fget r g := by rw [State.fget, s.frameCounted_rd f h, State.fget]

/-- A good frame on a MAC whose MACsec is disabled reaches stage 3 as it came (R295). -/
theorem State.frameAt_plain {s : State} {f : FrameIn} (ts : Stamp) (hfcs : f.fcsBad = false) (hmin : 64 ≤ f.data.length + 4)
    (hmax : f.data.length + 4 ≤ s.maxFrame f.p) (hpause : be f.data 12 2 ≠ 0x8808)
    (hmac : (s.fget (Reg.ethMsecCtl f.p) Reg.ethMsecCtl_RX_STRICT).testBit f.m = false) :
    s.frameAt f ts = State.frameInto f ts (some (f.data, false), s.frameCounted f) := by
  have hctl : (s.frameCounted f).fget (Reg.ethMsecCtl f.p) Reg.ethMsecCtl_RX_STRICT = s.fget (Reg.ethMsecCtl f.p) Reg.ethMsecCtl_RX_STRICT :=
    State.fget_fset_of_ne _ _ _ _ (by unfold Reg.ethMsecCtl Reg.ethMacRxcnt; omega)
  have hpass : (s.frameCounted f).macsecIn f.p f.m f.data = (some (f.data, false), s.frameCounted f) := by
    rw [State.macsecIn, hctl, hmac]
    rfl
  rw [← hpass]
  unfold State.frameAt
  dsimp only
  rw [if_neg (by simp [hfcs, hpause]; omega)]
  rfl

theorem State.admitFrame_none {s : State} {f : FrameIn} {h : FrameHdr} (ts : Stamp) (hid : s.identify f.p h = none) :
    s.admitFrame f false h ts = s.fsat Reg.admStat Reg.admStat_UNIDENTIFIED 1 := by
  unfold State.admitFrame
  split
  next => rfl
  next n hn => exact absurd (hn.symm.trans hid) (Option.some_ne_none n)

theorem State.admitFrame_some {s : State} {f : FrameIn} {h : FrameHdr} (ts : Stamp) {k : Nat} (hid : s.identify f.p h = some k) :
    s.admitFrame f false h ts = State.policedInto f false h ts k s.now.toNat (s.police k h.body.length ts.count) := by
  unfold State.admitFrame
  split
  next hn => exact absurd (hid.symm.trans hn) (Option.some_ne_none k)
  next n hn =>
    obtain rfl := Option.some.inj (hn.symm.trans hid)
    rfl

/-! ### Contract and steering (R297, R300) -/

/-- The check reads the contract and the policer's counts alone. -/
theorem State.police_counted (s : State) (f : FrameIn) (k len count : Nat) : ((s.frameCounted f).police k len count).1 = (s.police k len count).1 := by
  have hcon : (s.frameCounted f).rd (Reg.admEntryContract k) = s.rd (Reg.admEntryContract k) :=
    s.frameCounted_rd f (by unfold Reg.admEntryContract; omega)
  unfold State.police
  rw [hcon]
  rfl

theorem State.police_long (s : State) {k len : Nat} (count : Nat) (h : bits (s.rd (Reg.admEntryContract k)) 0 14 < len) :
    (s.police k len count).1 = false := by
  unfold State.police
  simp [Nat.not_le.mpr h]

/-- A policed frame is counted at its entry and over all; it is delivered to nobody (R298). -/
theorem State.policedFrame_post (s : State) (k : Nat) : (s.policedFrame k).eth.rings = s.eth.rings ∧ (s.policedFrame k).dhp = s.dhp ∧
    (s.policedFrame k).recd = s.recd ∧ ∀ f, (s.policedFrame k).fget (Reg.admEntryCnt k) f =
      (s.fsat (Reg.admEntryCnt k) Reg.admEntryCnt_POLICED 1).fget (Reg.admEntryCnt k) f := by
  have hstat : Reg.admEntryCnt k ≠ Reg.admStat := by unfold Reg.admEntryCnt Reg.admStat; omega
  have hpend : Reg.admEntryCnt k ≠ Reg.fcruPend (0x1C5 / 64) := by unfold Reg.admEntryCnt Reg.fcruPend; omega
  have hcnt (f : Fld) : ((s.fsat (Reg.admEntryCnt k) Reg.admEntryCnt_POLICED 1).fsat Reg.admStat Reg.admStat_POLICED 1).fget (Reg.admEntryCnt k) f =
      (s.fsat (Reg.admEntryCnt k) Reg.admEntryCnt_POLICED 1).fget (Reg.admEntryCnt k) f := State.fget_fset_of_ne _ _ _ _ hstat
  unfold State.policedFrame
  dsimp only
  split
  · exact ⟨rfl, rfl, rfl, fun f => (State.fget_raise_of_ne _ f hpend).trans (hcnt f)⟩
  · exact ⟨rfl, rfl, rfl, hcnt⟩

/-- A record for a Crown RAM ring: it takes its place where it fits, and nothing but a count changes where it does not (R304). -/
theorem State.toRing_post (s : State) {ix : Nat} (hix : ix < 64) (r : RxRec) : (s.toRing ix r).detected = s.detected ∧ (s.toRing ix r).mem = s.mem ∧
    (∀ q f, q ≠ Reg.admRingPtr ix → (s.toRing ix r).fget q f = s.fget q f) ∧
    (s.ringValid ix = true → ((s.ring ix).wait.map fun x => recordBytes x.data.length).sum + recordBytes r.data.length <
      s.ringSize ix - ringDist (s.ringSize ix) (s.cons ix) (s.prod ix) →
      (s.toRing ix r).ring ix = { s.ring ix with wait := insertRec r (s.ring ix).wait }) := by
  have hsum (l : List RxRec) (n : Nat) : l.foldl (fun n x => n + recordBytes x.data.length) n = n + (l.map fun x => recordBytes x.data.length).sum := by
    induction l generalizing n with
    | nil => rfl
    | cons x l ih => simp [ih, Nat.add_assoc]
  unfold State.toRing
  dsimp only
  rw [hsum, Nat.zero_add, if_pos hix]
  split
  next => exact ⟨rfl, rfl, fun q f _ => rfl, fun _ _ => by rw [State.ring, State.setRing]; exact SMap.get_put.trans (if_pos rfl)⟩
  next hno =>
    exact ⟨rfl, rfl, fun q f hq => State.fget_fset_of_ne _ _ _ _ hq, fun hv hroom => absurd (by simp [hv, hroom]) hno⟩

/-- The record of a frame that was not verified, for entry `k` with the destination `dst` (R301). -/
def frameRec (f : FrameIn) (h : FrameHdr) (ts : Stamp) (k last : Nat) (dst : Word) : RxRec :=
  { ts := ts, last := last, entry := k, seq := h.rseq.getD 0, data := h.body
    src := 4 * f.p.val + f.m.val + 8 * b2n f.preempted + 32 * b2n h.rseq.isSome + 64 * bits dst 0 2 }

/-- A frame let through is counted, and one of an entry for a Crown RAM ring, with no elimination and no copy to the recorder, goes to its ring. -/
theorem State.policedInto_ring {z : State} {f : FrameIn} {h : FrameHdr} {ts : Stamp} {k last : Nat}
    (hdst : bits (z.rd (Reg.admEntryDest k)) 2 2 = 0) (hrec : bit (z.rd (Reg.admEntryDest k)) 10 = false) (hcb : bit (z.rd (Reg.admEntryDest k)) 11 = false) :
    State.policedInto f false h ts k last (true, z) =
      (z.fadd (Reg.admEntryCnt k) Reg.admEntryCnt_ADMITTED 1).toRing (bits (z.rd (Reg.admEntryDest k)) 4 6)
        (frameRec f h ts k last (z.rd (Reg.admEntryDest k))) := by
  have hrd : (z.fadd (Reg.admEntryCnt k) Reg.admEntryCnt_ADMITTED 1).rd (Reg.admEntryDest k) = z.rd (Reg.admEntryDest k) :=
    State.rd_fset_of_ne _ _ _ (by unfold Reg.admEntryDest Reg.admEntryCnt; omega)
  simp only [State.policedInto, State.steerFrame, State.steer, State.rxRec, frameRec, hrd, hdst, hrec, hcb, Bool.false_eq_true, if_false, b2n, Nat.mul_zero, Nat.add_zero]

/-- What becomes of a frame over its contract. -/
theorem State.frameOver (s : State) (f : FrameIn) {h : FrameHdr} (ts : Stamp) {k : Nat} (last count : Nat)
    (hlong : bits (s.rd (Reg.admEntryContract k)) 0 14 < h.body.length) :
    let t := State.policedInto f false h ts k last ((s.frameCounted f).police k h.body.length count)
    t.eth.rings = s.eth.rings ∧ t.dhp = s.dhp ∧ t.recd = s.recd ∧
      t.fget (Reg.admEntryCnt k) Reg.admEntryCnt_POLICED = min (2 ^ 32 - 1) (s.fget (Reg.admEntryCnt k) Reg.admEntryCnt_POLICED + 1) ∧
      t.fget (Reg.admEntryCnt k) Reg.admEntryCnt_ADMITTED = s.fget (Reg.admEntryCnt k) Reg.admEntryCnt_ADMITTED := by
  intro t
  let z := ((s.frameCounted f).police k h.body.length count).2
  have hno : ((s.frameCounted f).police k h.body.length count).1 = false := (s.police_counted f k _ count).trans (s.police_long count hlong)
  have ht : t = z.policedFrame k := by
    change State.policedInto f false h ts k last ((State.police _ _ _ _).1, z) = _
    rw [hno]
    rfl
  have hcnt (g : Fld) : z.fget (Reg.admEntryCnt k) g = s.fget (Reg.admEntryCnt k) g := s.frameCounted_fget f g (by unfold Reg.admEntryCnt; omega)
  obtain ⟨hrings, hdhp, hrecd, hfields⟩ := z.policedFrame_post k
  rw [ht]
  refine ⟨hrings, hdhp, hrecd, ?_, ?_⟩
  · rw [hfields, State.fget_fsat _ _ (by decide), hcnt]
    rfl
  · rw [hfields, State.fsat, State.fget_fset_of_disjoint _ _ _ (by decide), hcnt]

/-- What becomes of a frame within its contract whose entry names a Crown RAM ring. -/
theorem State.frameAdmitted (s : State) (f : FrameIn) {h : FrameHdr} (ts : Stamp) {k : Nat} (last count : Nat)
    (hok : (s.police k h.body.length count).1 = true) (hdst : bits (s.rd (Reg.admEntryDest k)) 2 2 = 0)
    (hrec : bit (s.rd (Reg.admEntryDest k)) 10 = false) (hcb : bit (s.rd (Reg.admEntryDest k)) 11 = false) :
    let ix := bits (s.rd (Reg.admEntryDest k)) 4 6
    let t := State.policedInto f false h ts k last ((s.frameCounted f).police k h.body.length count)
    t.detected = s.detected ∧ t.mem = s.mem ∧
      t.fget (Reg.admEntryCnt k) Reg.admEntryCnt_ADMITTED = (s.fget (Reg.admEntryCnt k) Reg.admEntryCnt_ADMITTED + 1) % 2 ^ 32 ∧
      (s.ringValid ix = true → ((s.ring ix).wait.map fun x => recordBytes x.data.length).sum + recordBytes h.body.length <
        s.ringSize ix - ringDist (s.ringSize ix) (s.cons ix) (s.prod ix) →
        t.ring ix = { s.ring ix with wait := insertRec (frameRec f h ts k last (s.rd (Reg.admEntryDest k))) (s.ring ix).wait }) := by
  intro ix t
  let z := ((s.frameCounted f).police k h.body.length count).2
  let v := z.fadd (Reg.admEntryCnt k) Reg.admEntryCnt_ADMITTED 1
  have hyes : ((s.frameCounted f).police k h.body.length count).1 = true := (s.police_counted f k _ count).trans hok
  have hdest : z.rd (Reg.admEntryDest k) = s.rd (Reg.admEntryDest k) := s.frameCounted_rd f (by unfold Reg.admEntryDest; omega)
  have hix : ix < 64 := bits_lt _ _ _
  have ht : t = v.toRing ix (frameRec f h ts k last (s.rd (Reg.admEntryDest k))) := by
    change State.policedInto f false h ts k last ((State.police _ _ _ _).1, z) = _
    rw [hyes, State.policedInto_ring (by rw [hdest, hdst]) (by rw [hdest, hrec]) (by rw [hdest, hcb]), hdest]
  have hget {r : Nat} (g : Fld) (hr : r < 0xa0000 ∨ 0xc0000 ≤ r) (hk : r ≠ Reg.admEntryCnt k) : v.fget r g = s.fget r g :=
    (State.fget_fset_of_ne z _ g _ hk).trans (s.frameCounted_fget f g hr)
  have hcr (g : Fld) : v.fget (Reg.memCrRing ix) g = s.fget (Reg.memCrRing ix) g :=
    hget g (by unfold Reg.memCrRing; omega) (by unfold Reg.memCrRing Reg.admEntryCnt; omega)
  have hptr (g : Fld) : v.fget (ptrReg ix) g = s.fget (ptrReg ix) g := by
    rw [ptrReg, if_pos hix]
    exact hget g (by unfold Reg.admRingPtr; omega) (by unfold Reg.admRingPtr Reg.admEntryCnt; omega)
  have hvalid : v.ringValid ix = s.ringValid ix := by simp only [State.ringValid, hix, if_true, hcr]
  have hsize : v.ringSize ix = s.ringSize ix := by simp only [State.ringSize, hix, if_true, hcr]
  have hcons : v.cons ix = s.cons ix := hptr _
  have hprod : v.prod ix = s.prod ix := hptr _
  obtain ⟨hdet, hmem, hother, hplace⟩ := v.toRing_post hix (frameRec f h ts k last (s.rd (Reg.admEntryDest k)))
  rw [hvalid, hsize, hcons, hprod] at hplace
  rw [ht]
  refine ⟨hdet, hmem, ?_, hplace⟩
  rw [hother _ _ (by unfold Reg.admEntryCnt Reg.admRingPtr; omega)]
  have hcnt : z.fget (Reg.admEntryCnt k) Reg.admEntryCnt_ADMITTED = s.fget (Reg.admEntryCnt k) Reg.admEntryCnt_ADMITTED :=
    s.frameCounted_fget f _ (by unfold Reg.admEntryCnt; omega)
  exact (State.fget_fset z _ _ (by decide)).trans (by rw [hcnt]; rfl)

/-! ### A record made visible (R301, R302, R306) -/

/-- A ring's doorbell is raised, if it has one. -/
def State.ringDoorbell (z : State) (ix : Nat) : State :=
  match z.ringBell ix with
  | some (t, d) => z.irqTriad t (64 + d)
  | none => z

theorem State.ringDoorbell_frame (z : State) (ix : Nat) : z.ringDoorbell ix = { z with copies := (z.ringDoorbell ix).copies } := by
  unfold State.ringDoorbell
  split <;> rfl

theorem State.ringDoorbell_latch {z : State} {ix own bell : Nat} (h : z.ringBell ix = some (own, bell)) (hb : bell < 64) {k : Nat} (hk : k / 3 = own) :
    ((z.ringDoorbell ix).copy k).latch (64 + bell) = true := by
  rw [State.ringDoorbell, h]
  dsimp only
  rw [State.copy_irqTriad, if_pos hk, Copy.latch_setLatch _ (by omega)]
  simp

/-- A ring's first waiting record `x` has been written, and `next` is where its ring goes on: PROD, what is held of the ring, the doorbell and the
check of the record's age. -/
def State.recordOut (z : State) (ix next : Nat) (x : RxRec) (g : Ring) : State :=
  let z := ((z.fset (ptrReg ix) (prodFld ix) next).setRing ix g).ringDoorbell ix
  if x.src / 64 = 0 ∧ x.last + 1500 < z.now.toNat then z.raise 0x1C7 else z

theorem exec_ringDescriptorVisible {s : State} {ring : Fin 128} {x : RxRec} {rest : List RxRec} (hw : (s.ring ring).wait = x :: rest)
    (ht : s.tagFree iETH.val = true) :
    let ix := ring.val
    let n := s.ringSize ix
    let prod := s.prod ix
    let d := padTo 64 x.data
    let u := (List.range (d.length / 64)).foldl (fun u i => u.devWrite iETH (s.ringBase ix + (prod + 64 + 64 * i) % n) ((d.drop (64 * i)).take 64)) s
    let z := u.devWrite iETH (s.ringBase ix + prod) (ringDesc x (s.ring ix).rseq ((prod + 64) % n) (!(s.ring ix).flip))
    let next := (prod + recordBytes x.data.length) % n
    exec (.ringDescriptorVisible ring) s = .next (z.recordOut ix next x
      { rseq := ((s.ring ix).rseq + 1) % 2 ^ 32, flip := (s.ring ix).flip ^^ decide (next < prod), wait := rest }) := by
  intro ix n prod d u z next
  change execRingDescriptorVisible ring s = _
  unfold execRingDescriptorVisible
  dsimp only
  rw [hw]
  dsimp only
  rw [ht]
  rfl

/-- The owner and the doorbell stand in registers of their own. -/
theorem State.ringBell_pointers (z : State) (ix next : Nat) (g : Ring) :
    ((z.fset (ptrReg ix) (prodFld ix) next).setRing ix g).ringBell ix = z.ringBell ix := by
  have hcr (f : Fld) (h : ix < 64) : (z.fset (ptrReg ix) (prodFld ix) next).fget (Reg.memCrRing ix) f = z.fget (Reg.memCrRing ix) f := by
    refine State.fget_fset_of_ne _ _ _ _ ?_
    rw [ptrReg, if_pos h]
    unfold Reg.memCrRing Reg.admRingPtr
    omega
  have hss (f : Fld) (h : ¬ ix < 64) : (z.fset (ptrReg ix) (prodFld ix) next).fget (Reg.admSringCfg (ix - 64)) f = z.fget (Reg.admSringCfg (ix - 64)) f := by
    refine State.fget_fset_of_ne _ _ _ _ ?_
    rw [ptrReg, if_neg h]
    unfold Reg.admSringCfg Reg.admSringPtr
    omega
  have hset (r : Nat) (f : Fld) : ((z.fset (ptrReg ix) (prodFld ix) next).setRing ix g).fget r f = (z.fset (ptrReg ix) (prodFld ix) next).fget r f := rfl
  unfold State.ringBell
  by_cases h : ix < 64
  · simp only [h, if_true, hset, hcr _ h]
  · simp only [h, if_false, hset, hss _ h]

/-- The doorbell changes latches, and the age of the record raises a source; the rest is as PROD's advance left it. -/
theorem State.recordOut_post (z : State) (ix next : Nat) (x : RxRec) (g : Ring) : (z.recordOut ix next x g).mem = z.mem ∧
    (z.recordOut ix next x g).prod ix = next % 2 ^ (prodFld ix).len ∧ (z.recordOut ix next x g).ring ix = g ∧
    (∀ own bell, z.ringBell ix = some (own, bell) → ∀ k, own < 16 → k / 3 = own → bell < 64 → ((z.recordOut ix next x g).copy k).latch (64 + bell) = true) ∧
    (x.src / 64 = 0 → x.last + 1500 < z.now.toNat → ∃ e ∈ (z.recordOut ix next x g).detected, e.src = 0x1C7) := by
  let y := (z.fset (ptrReg ix) (prodFld ix) next).setRing ix g
  let v := y.ringDoorbell ix
  have hv : v = { y with copies := v.copies } := y.ringDoorbell_frame ix
  have hout : z.recordOut ix next x g = if x.src / 64 = 0 ∧ x.last + 1500 < z.now.toNat then v.raise 0x1C7 else v := by
    have hnow : v.now = z.now := by rw [hv]; rfl
    rw [← hnow]
    rfl
  have hptr : ptrReg ix ≠ Reg.fcruPend (0x1C7 / 64) := by
    unfold ptrReg Reg.admRingPtr Reg.admSringPtr Reg.fcruPend
    split <;> omega
  have hprod : v.prod ix = next % 2 ^ (prodFld ix).len := by
    rw [hv]
    refine State.fget_fset z (ptrReg ix) next ?_
    unfold prodFld
    split <;> decide
  have hring : v.ring ix = g := by
    rw [hv]
    exact SMap.get_put.trans (if_pos rfl)
  have hlatch : ∀ own bell, z.ringBell ix = some (own, bell) → ∀ k, own < 16 → k / 3 = own → bell < 64 → (v.copy k).latch (64 + bell) = true := by
    intro own bell hb k _ hk hbell
    exact State.ringDoorbell_latch ((State.ringBell_pointers z ix next g).trans hb) hbell hk
  have hmem : v.mem = z.mem := by rw [hv]; rfl
  rw [hout]
  split
  next => exact ⟨hmem, (State.fget_raise_of_ne v _ hptr).trans hprod, hring, hlatch, fun _ _ => ⟨_, List.mem_append_right _ (List.mem_singleton.mpr rfl), rfl⟩⟩
  next hold => exact ⟨hmem, hprod, hring, hlatch, fun h1 h2 => absurd ⟨h1, h2⟩ hold⟩

/-! ### Sequence recovery (R299) -/

/-- A recovery function resets: the next frame is passed. -/
def State.cbReset (s : State) (f : Nat) : State :=
  ((s.modEth fun e => { e with cbf := SMap.put CbFn.reset e.cbf f { s.cbFn f with taken := false, seq := 0, hist := 0 } }).fsat
    (Reg.admCbfStat f) Reg.admCbfStat_RESETS 1).raise 0x1C9

theorem exec_cbSeqRecovery (s : State) (f : Fin 512) : exec (.cbSeqRecovery f) s =
    .next (if (s.cbFn f).taken = true ∧ (s.cbFn f).last + 1000 * s.fget (Reg.admCbfCfg f) Reg.admCbfCfg_RESET_US ≤ s.now.toNat then s.cbReset f
      else s) := by
  change execCbSeqRecovery f s = _
  rw [apply_ite Host.Outcome.next]
  simp only [execCbSeqRecovery, Bool.and_eq_true, decide_eq_true_eq]
  rfl

theorem State.cbReset_post (s : State) (f : Nat) : (s.cbReset f).cbFn f = { s.cbFn f with taken := false, seq := 0, hist := 0 } ∧
    (∀ j, j ≠ f → (s.cbReset f).cbFn j = s.cbFn j) ∧
    (s.cbReset f).fget (Reg.admCbfStat f) Reg.admCbfStat_RESETS = min 0xFFFF (s.fget (Reg.admCbfStat f) Reg.admCbfStat_RESETS + 1) ∧
    (s.cbReset f).detected.map (·.src) = s.detected.map (·.src) ++ [0x1C9] := by
  have hcb (j : Nat) : (s.cbReset f).cbFn j = if j = f then { s.cbFn f with taken := false, seq := 0, hist := 0 } else s.cbFn j := SMap.get_put
  refine ⟨by rw [hcb, if_pos rfl], fun j hj => by rw [hcb, if_neg hj], ?_, State.raise_detected_src _ _⟩
  rw [State.cbReset, State.fget_raise_of_ne _ _ (by unfold Reg.admCbfStat Reg.fcruPend; omega)]
  exact State.fget_fsat _ _ (by decide)

/-- Settles O45: a frame by the stages it reaches, a ring's record by what is written and then shown, and a recovery function's reset. -/
theorem frameReception : Obligations.FrameReception := by
  unfold Obligations.FrameReception
  refine ⟨fun s f => ?_, fun s ring => ?_, fun s f => ?_⟩
  · intro cnt n discard up
    refine ⟨exec_frameReceive_down, fun h hfec => ?_, fun h hfec hbad => ?_, fun h hfec hfcs hmin hmax hpause hmac => ?_⟩
    · rw [exec_frameReceive h, if_pos hfec]
    · rw [exec_frameReceive h, if_neg (by simp [hfec]), State.frameAt_bad _ hbad]
    · intro u h' ts
      have hexec : exec (.frameReceive f) s = .next (State.frameInto f ts (some (f.data, false), u)) := by
        rw [exec_frameReceive h, if_neg (by simp [hfec]), State.frameAt_plain _ hfcs hmin hmax hpause hmac]
        rfl
      have hadmit (hg : h'.etype ≠ 0x88F7) : exec (.frameReceive f) s = .next (u.admitFrame f false h' ts) :=
        hexec.trans (congrArg Host.Outcome.next (if_neg hg))
      refine ⟨fun hg => ?_, fun hg hid => ?_, fun hg k hid => ?_⟩
      · exact hexec.trans (congrArg Host.Outcome.next (if_pos hg))
      · exact (hadmit hg).trans (congrArg Host.Outcome.next (State.admitFrame_none ts hid))
      · have hstep : exec (.frameReceive f) s = .next (State.policedInto f false h' ts k s.now.toNat (u.police k h'.body.length ts.count)) :=
          (hadmit hg).trans (congrArg Host.Outcome.next (State.admitFrame_some ts hid))
        exact ⟨fun hlong => ⟨_, hstep, s.frameOver f ts s.now.toNat ts.count hlong⟩,
          fun hok hdst hrec hcb => ⟨_, hstep, s.frameAdmitted f ts s.now.toNat ts.count hok hdst hrec hcb⟩⟩
  · refine ⟨fun hw => ?_, fun ht => ?_, fun x rest hw ht => ?_⟩
    · change execRingDescriptorVisible ring s = _
      simp only [execRingDescriptorVisible, hw]
    · change execRingDescriptorVisible ring s = _
      simp only [execRingDescriptorVisible, ht]
      split <;> rfl
    · exact ⟨_, exec_ringDescriptorVisible hw ht, State.recordOut_post _ ring.val _ x _⟩
  · intro c due
    refine ⟨fun h => (exec_cbSeqRecovery s f).trans (congrArg Host.Outcome.next (if_neg h)), fun h => ?_⟩
    obtain ⟨hset, hother, hresets, hdet⟩ := s.cbReset_post f
    exact ⟨s.cbReset f, (exec_cbSeqRecovery s f).trans (congrArg Host.Outcome.next (if_pos h)), hset, hother, hresets, hdet⟩

end Sys2Proof.Machine
end

section
/-!
PROOFS. The entry of a trap (R138 to R140): what `trapCopies` makes of sound copies that nothing mirrors.
-/

namespace Sys2Proof.Machine

/-! ### Double words in a data TCM -/

theorem State.setBytes_frame (s : State) (a n v : Nat) : s.setBytes a n v = { s with mem := (s.setBytes a n v).mem } := by
  induction n generalizing s a v with
  | zero => rfl
  | succ n ih => exact (ih _ _ _).trans rfl

theorem State.byte_setBytes (s : State) (a n v b : Nat) :
    (s.setBytes a n v).byte b = if a ≤ b ∧ b < a + n then BitVec.ofNat 8 (v / 256 ^ (b - a)) else s.byte b := by
  induction n generalizing s a v with
  | zero => rw [if_neg (by omega)]; rfl
  | succ n ih =>
    rw [State.setBytes, ih, State.byte_setByte]
    by_cases hb : b = a
    · subst hb
      rw [if_neg (by omega), if_pos rfl, if_pos (by omega), Nat.sub_self, Nat.pow_zero, Nat.div_one]
    · by_cases hin : a + 1 ≤ b ∧ b < a + 1 + n
      · have he : b - a = (b - (a + 1)) + 1 := by omega
        rw [if_pos hin, if_pos (by omega), he, Nat.pow_succ', Nat.div_div_eq_div_mul]
      · rw [if_neg hin, if_neg hb, if_neg (by omega)]

/-- Bytes that agree read alike. -/
theorem State.bytes_congr {s t : State} {a n : Nat} (h : ∀ b, a ≤ b → b < a + n → t.byte b = s.byte b) : t.bytes a n = s.bytes a n := by
  induction n generalizing a with
  | zero => rfl
  | succ n ih =>
    rw [State.bytes, State.bytes, h a (by omega) (by omega), ih fun b h1 h2 => h b (by omega) (by omega)]

theorem State.bytes_setBytes (s : State) (a n v : Nat) : (s.setBytes a n v).bytes a n = v % 256 ^ n := by
  induction n generalizing s a v with
  | zero => rw [Nat.pow_zero, Nat.mod_one]; rfl
  | succ n ih =>
    have hlow : (s.setBytes a (n + 1) v).byte a = BitVec.ofNat 8 v := by
      rw [State.byte_setBytes, if_pos (by omega), Nat.sub_self, Nat.pow_zero, Nat.div_one]
    have hhigh : (s.setBytes a (n + 1) v).bytes (a + 1) n = v / 256 % 256 ^ n := ih _ _ _
    have h8 : (BitVec.ofNat 8 v).toNat = v % 256 := BitVec.toNat_ofNat v 8
    rw [State.bytes, hlow, hhigh, h8, Nat.pow_succ', Nat.mod_mul]

/-- A double word written reads as written, and one beside it as before. -/
theorem State.tcmRead_setBytes (s : State) (k off : Nat) (v : Word) : (s.setBytes (tcmAddr k off) 8 v.toNat).tcmRead k off = v := by
  have hv : v.toNat % 256 ^ 8 = v.toNat := Nat.mod_eq_of_lt v.isLt
  rw [State.tcmRead, State.bytes_setBytes, hv, BitVec.ofNat_toNat, BitVec.setWidth_eq]

theorem State.tcmPut_frame (s : State) (k off : Nat) (ws : List Word) : s.tcmPut k off ws = { s with mem := (s.tcmPut k off ws).mem } := by
  induction ws generalizing s off with
  | nil => rfl
  | cons v r ih =>
    have h := s.setBytes_frame (tcmAddr k off) 8 v.toNat
    rw [State.tcmPut, ih, h]

/-- Words placed where they do not wrap stay within their room. -/
theorem State.tcmPut_byte (s : State) (k off : Nat) (ws : List Word) (hoff : off + 8 * ws.length ≤ 0x10000) {a : Nat}
    (ha : ¬ (tcmAddr k off ≤ a ∧ a < tcmAddr k off + 8 * ws.length)) : (s.tcmPut k off ws).byte a = s.byte a := by
  induction ws generalizing s off with
  | nil => rfl
  | cons v r ih =>
    simp only [List.length_cons] at hoff ha
    rw [State.tcmPut, ih _ _ (by omega) (by unfold tcmAddr at *; omega), State.byte_setBytes, if_neg (by unfold tcmAddr at *; omega)]

theorem State.tcmPut_read (s : State) (k off : Nat) (ws : List Word) (hoff : off + 8 * ws.length ≤ 0x10000) {i : Nat} (hi : i < ws.length) :
    (s.tcmPut k off ws).tcmRead k (off + 8 * i) = ws.getD i 0 := by
  induction ws generalizing s off i with
  | nil => simp at hi
  | cons v r ih =>
    simp only [List.length_cons] at hoff hi
    cases i with
    | zero =>
      have hkeep : ((s.setBytes (tcmAddr k off) 8 v.toNat).tcmPut k (off + 8) r).tcmRead k off =
          (s.setBytes (tcmAddr k off) 8 v.toNat).tcmRead k off := by
        rw [State.tcmRead, State.tcmRead, State.bytes_congr]
        intro b h1 h2
        exact State.tcmPut_byte _ k (off + 8) r (by omega) (by unfold tcmAddr at *; omega)
      exact hkeep.trans (s.tcmRead_setBytes k off v)
    | succ i =>
      have hnext := ih (s.setBytes (tcmAddr k off) 8 v.toNat) (off + 8) (by omega) (i := i) (by omega)
      rw [show off + 8 + 8 * i = off + 8 * (i + 1) by omega] at hnext
      exact hnext

/-! ### Words marked written (R273) -/

theorem State.tcmMark_frame (s : State) (pa len : Nat) :
    s.tcmMark pa len = { s with prot := { s.prot with valid := (s.tcmMark pa len).prot.valid } } := rfl

/-- The words that aligned bytes touch are marked, and no other. -/
theorem State.tcmMark_valid (s : State) {pa len : Nat} (hlen : 0 < len) (j : Nat) : SMap.get 0 (s.tcmMark pa len).prot.valid j =
    if pa / 8 ≤ j ∧ j ≤ (pa + len - 1) / 8 then 3 else SMap.get 0 s.prot.valid j := by
  have hfold (l : List Nat) (m : SMap Nat) : SMap.get 0 (l.foldl (fun m u => SMap.put 0 m (u / 8) 3) m) j =
      if ∃ u ∈ l, j = u / 8 then 3 else SMap.get 0 m j := by
    induction l generalizing m with
    | nil => simp
    | cons u l ih =>
      rw [List.foldl_cons, ih, SMap.get_put]
      by_cases h : j = u / 8 <;> simp [h]
  have hmem : (∃ u ∈ unitsOf 0 pa len, j = u / 8) ↔ pa / 8 ≤ j ∧ j ≤ (pa + len - 1) / 8 := by
    have hne : len ≠ 0 := by omega
    have hsize : unitSize 0 = 8 := rfl
    simp only [unitsOf, hne, if_false, hsize, List.mem_map, List.mem_range]
    constructor
    · rintro ⟨u, ⟨i, hi, rfl⟩, rfl⟩
      omega
    · rintro ⟨h1, h2⟩
      exact ⟨j * 8, ⟨j - pa / 8, by omega, by omega⟩, by omega⟩
  change SMap.get 0 ((unitsOf 0 pa len).foldl _ s.prot.valid) j = _
  rw [hfold]
  simp only [hmem]

/-! ### The entry of a trap in one copy (R138 to R140) -/

/-- The state that an entry leaves in its copy. -/
theorem Copy.entered_trap (c : Copy) (ti : TrapInfo) (vec : Word) : c.entered (.trap ti) vec = c.trapped ti vec := by
  have hone : ¬ ((ti.code = cTLB_MISS_I ∨ ti.code = cTLB_MISS_D) ∧ (ti.code = cALIGN ∨ (cPERM_X ≤ ti.code ∧ ti.code ≤ cATOMIC_TARGET))) := by
    unfold cTLB_MISS_I cTLB_MISS_D cALIGN cPERM_X cATOMIC_TARGET
    omega
  unfold Copy.entered Copy.trapped
  dsimp only
  by_cases h1 : ti.code = cTLB_MISS_I ∨ ti.code = cTLB_MISS_D
  · have h2 : ¬ (ti.code = cALIGN ∨ (cPERM_X ≤ ti.code ∧ ti.code ≤ cATOMIC_TARGET)) := fun h => hone ⟨h1, h⟩
    simp only [h1, h2, if_true, if_false]
    rfl
  · simp only [h1, if_false]
    split <;> rfl

theorem Copy.trapped_ue (c : Copy) (ti : TrapInfo) (vec : Word) : (c.trapped ti vec).ue = c.ue := rfl
theorem Copy.trapped_ce (c : Copy) (ti : TrapInfo) (vec : Word) : (c.trapped ti vec).ce = c.ce := rfl

/-- The pending load goes to a register, and nothing else of the copy changes. -/
theorem Copy.flushPend_frame (c : Copy) : c.flushPend = { c with g := c.flushPend.g, f := c.flushPend.f, pend := c.flushPend.pend } := by
  unfold Copy.flushPend Copy.setFile Copy.setReg Copy.setFreg
  split
  · split
    · rfl
    · split <;> rfl
  · rfl

theorem Copy.mend_sound {c : Copy} (hue : c.ue = []) (hce : c.ce = []) (a : ArrayId) (lo n : Nat) : c.mend a lo n = c := by
  have same (l m : List (ArrayId × Nat)) (hl : l = c.ue) (hm : m = c.ce) : { c with ue := l, ce := m } = c := by
    subst hl hm
    rfl
  exact same _ _ (by rw [hue]; rfl) (by rw [hce]; rfl)

/-- A frame lies in its copy's data TCM, on a boundary of its size. -/
theorem Copy.frameOff_room (c : Copy) {d : Nat} (hd : d < 32) : c.frameOff d + 128 ≤ 0x10000 ∧ c.frameOff d % 128 = 0 := by
  have h := bits_lt c.icStk 12 4
  unfold Copy.frameOff
  omega

/-- What the copies `ks` of triad `tr` become of a trap that each takes, and what stays: `Trapped`, for the copies listed. -/
structure TrapsIn (s t : State) (tr : Nat) (ks : List Nat) (ti : TrapInfo) : Prop where
  each   : ∀ c ∈ ks, let x := (s.copy (copyIx tr c)).flushPend
    t.copy (copyIx tr c) = x.trapped ti (s.tcmRead (copyIx tr c) (x.vectorOff (.trap ti)))
  frame  : ∀ c ∈ ks, let x := (s.copy (copyIx tr c)).flushPend
    ∀ i < 16, t.tcmRead (copyIx tr c) (x.frameOff x.depth + 8 * i) = (x.trapFrame (x.trapPc ti)).getD i 0
  others : ∀ k, (∀ c ∈ ks, k ≠ copyIx tr c) → t.copy k = s.copy k
  bytes  : ∀ a, (∀ c ∈ ks, let x := (s.copy (copyIx tr c)).flushPend
    ¬ (tcmAddr (copyIx tr c) (x.frameOff x.depth) ≤ a ∧ a < tcmAddr (copyIx tr c) (x.frameOff x.depth) + 128)) → t.byte a = s.byte a
  valid  : ∀ k off, SMap.get 0 t.prot.valid (tcmAddr k off / 8) =
    if ∃ c ∈ ks, let x := (s.copy (copyIx tr c)).flushPend
      k = copyIx tr c ∧ x.frameOff x.depth ≤ off % 0x10000 ∧ off % 0x10000 < x.frameOff x.depth + 128 then 3
    else SMap.get 0 s.prot.valid (tcmAddr k off / 8)
  resv   : t.resv = if ks = [] then s.resv else SMap.put none s.resv tr none
  rest   : t = { s with copies := t.copies, mem := t.mem, resv := t.resv, prot := { s.prot with valid := t.prot.valid } }

/-- A copy of a triad that no resynchronisation mirrors (R71). -/
theorem State.mirrors_nil {s : State} {tr c : Nat} (hc : c < 3) (hphase : s.tri tr Reg.triStatus_RESYNC_PHASE ≠ 2) : s.mirrors (copyIx tr c) = [] := by
  have ht : copyIx tr c / 3 = tr := by unfold copyIx; omega
  unfold State.mirrors
  rw [ht]
  exact if_neg fun h => hphase h.1

theorem State.mirrors_setCopy (s : State) (k : Nat) (y : Copy) (j : Nat) : (s.setCopy k y).mirrors j = s.mirrors j := rfl

/-- Words written to the data TCM of a copy without an array error, which nothing mirrors. -/
theorem State.tcmWrite_plain {s : State} {k off : Nat} {y : Copy} {ws : List Word} (hm : s.mirrors k = []) (hue : y.ue = [])
    (hce : y.ce = []) : (s.setCopy k y).tcmWrite k off ws =
      (((s.setCopy k y).tcmPut k off ws).tcmMark (tcmAddr k off) (8 * ws.length)).setCopy k y := by
  have hk : (((s.setCopy k y).tcmPut k off ws).tcmMark (tcmAddr k off) (8 * ws.length)).copy k = y := by
    rw [State.tcmMark_frame, State.tcmPut_frame]
    exact (State.copy_setCopy s k k y).trans (if_pos rfl)
  rw [State.tcmWrite, State.mirrors_setCopy, hm]
  change State.setCopy _ k (Copy.mend (State.copy _ k) _ _ _) = _
  rw [hk, Copy.mend_sound hue hce]

/-- A copy enters with the state `y`, and its frame's words go to its data TCM, where they are marked written. -/
def State.entryPut (s : State) (k fo : Nat) (y : Copy) (ws : List Word) : State :=
  (((s.setCopy k y).tcmPut k fo ws).tcmMark (tcmAddr k fo) 128).setCopy k y

/-- Its triad's reservation ends too (R106). -/
def State.framed (s : State) (tr k fo : Nat) (y : Copy) (ws : List Word) : State :=
  { s.entryPut k fo y ws with resv := SMap.put none (s.entryPut k fo y ws).resv tr none }

theorem State.framed_mem (s : State) (tr k fo : Nat) (y : Copy) (ws : List Word) :
    (s.framed tr k fo y ws).mem = ((s.setCopy k y).tcmPut k fo ws).mem := rfl

theorem State.framed_copy (s : State) (tr k fo : Nat) (y : Copy) (ws : List Word) (j : Nat) :
    (s.framed tr k fo y ws).copy j = if j = k then y else s.copy j := by
  change (s.entryPut k fo y ws).copy j = _
  rw [State.entryPut, State.copy_setCopy]
  split
  next => rfl
  next h =>
    rw [State.tcmMark_frame, State.tcmPut_frame]
    exact (State.copy_setCopy s k j y).trans (if_neg h)

theorem State.framed_byte (s : State) (tr : Nat) {k fo : Nat} (y : Copy) {ws : List Word} (hroom : fo + 128 ≤ 0x10000) (hlen : ws.length = 16) {a : Nat}
    (ha : ¬ (tcmAddr k fo ≤ a ∧ a < tcmAddr k fo + 128)) : (s.framed tr k fo y ws).byte a = s.byte a := by
  rw [State.byte, State.framed_mem]
  exact State.tcmPut_byte (s.setCopy k y) k fo ws (by rw [hlen]; exact hroom) (by rwa [hlen])

theorem State.framed_read (s : State) (tr : Nat) {k fo : Nat} (y : Copy) {ws : List Word} (hroom : fo + 128 ≤ 0x10000) (hlen : ws.length = 16) {i : Nat}
    (hi : i < 16) : (s.framed tr k fo y ws).tcmRead k (fo + 8 * i) = ws.getD i 0 := by
  have hsame : (s.framed tr k fo y ws).tcmRead k (fo + 8 * i) = ((s.setCopy k y).tcmPut k fo ws).tcmRead k (fo + 8 * i) := by
    rw [State.tcmRead, State.tcmRead, State.bytes_congr]
    intro b _ _
    rw [State.byte, State.framed_mem, State.byte]
  rw [hsame, State.tcmPut_read _ _ _ _ (by rw [hlen]; exact hroom) (by rw [hlen]; exact hi)]

/-- The words of the frame, in its own data TCM, are those marked. -/
theorem State.framed_valid (s : State) (tr : Nat) {k fo : Nat} (y : Copy) (ws : List Word) (hroom : fo + 128 ≤ 0x10000) (hmod : fo % 128 = 0)
    (j off : Nat) : SMap.get 0 (s.framed tr k fo y ws).prot.valid (tcmAddr j off / 8) =
      if j = k ∧ fo ≤ off % 0x10000 ∧ off % 0x10000 < fo + 128 then 3 else SMap.get 0 s.prot.valid (tcmAddr j off / 8) := by
  have hprot : ((s.setCopy k y).tcmPut k fo ws).prot = s.prot := by rw [State.tcmPut_frame]; rfl
  have hin : (tcmAddr k fo / 8 ≤ tcmAddr j off / 8 ∧ tcmAddr j off / 8 ≤ (tcmAddr k fo + 128 - 1) / 8) ↔
      j = k ∧ fo ≤ off % 0x10000 ∧ off % 0x10000 < fo + 128 := by
    unfold tcmAddr paTcm
    omega
  change SMap.get 0 (((s.setCopy k y).tcmPut k fo ws).tcmMark (tcmAddr k fo) 128).prot.valid _ = _
  rw [State.tcmMark_valid _ (by decide), hprot]
  simp only [hin]

theorem State.framed_resv (s : State) (tr k fo : Nat) (y : Copy) (ws : List Word) : (s.framed tr k fo y ws).resv = SMap.put none s.resv tr none := by
  have h : (s.entryPut k fo y ws).resv = s.resv := by
    rw [State.entryPut, State.tcmMark_frame, State.tcmPut_frame]
    rfl
  rw [← h]
  rfl

theorem State.framed_rest (s : State) (tr k fo : Nat) (y : Copy) (ws : List Word) : s.framed tr k fo y ws =
    { s with copies := (s.framed tr k fo y ws).copies, mem := (s.framed tr k fo y ws).mem, resv := (s.framed tr k fo y ws).resv
             prot := { s.prot with valid := (s.framed tr k fo y ws).prot.valid } } := by
  have h : s.entryPut k fo y ws = { s with copies := (s.entryPut k fo y ws).copies, mem := (s.entryPut k fo y ws).mem
                                           prot := { s.prot with valid := (s.entryPut k fo y ws).prot.valid } } := by
    rw [State.entryPut, State.tcmMark_frame, State.tcmPut_frame]
    rfl
  unfold State.framed
  generalize s.entryPut k fo y ws = u at h
  rw [h]

/-- The state after one copy, with no array error and room for a frame, takes a trap. -/
theorem State.takeEntry_trap {s : State} {tr c : Nat} (ti : TrapInfo) (hc : c < 3) (hdepth : (s.copy (copyIx tr c)).depth < 32)
    (hue : (s.copy (copyIx tr c)).ue = []) (hce : (s.copy (copyIx tr c)).ce = []) (hphase : s.tri tr Reg.triStatus_RESYNC_PHASE ≠ 2) :
    let k := copyIx tr c
    let x := (s.copy k).flushPend
    let y := x.trapped ti (s.tcmRead k (x.vectorOff (.trap ti)))
    s.takeEntry k (.trap ti) ((s.copy k).trapPc ti) = s.framed tr k (x.frameOff x.depth) y (x.trapFrame (x.trapPc ti)) := by
  intro k x y
  have hx := (s.copy k).flushPend_frame
  have hxd : ¬ 32 ≤ x.depth := by
    have : x.depth = (s.copy k).depth := by unfold x; rw [hx]; rfl
    rw [this]
    exact Nat.not_le.mpr hdepth
  have hxu : x.ue = [] := by unfold x; rw [hx]; exact hue
  have hxc : x.ce = [] := by unfold x; rw [hx]; exact hce
  have hpc : (s.copy k).trapPc ti = x.trapPc ti := by unfold x; rw [hx]; rfl
  have hlen : (x.trapFrame (x.trapPc ti)).length = 16 := by simp [Copy.trapFrame]
  have ht : k / 3 = tr := by unfold k copyIx; omega
  have hwrite : (s.setCopy k y).tcmWrite k (x.frameOff x.depth) (x.trapFrame (x.trapPc ti)) =
      s.entryPut k (x.frameOff x.depth) y (x.trapFrame (x.trapPc ti)) := by
    have hyu : y.ue = [] := (Copy.trapped_ue x ti _).trans hxu
    have hyc : y.ce = [] := (Copy.trapped_ce x ti _).trans hxc
    have hm : s.mirrors k = [] := State.mirrors_nil hc hphase
    have h := State.tcmWrite_plain (off := x.frameOff x.depth) (ws := x.trapFrame (x.trapPc ti)) hm hyu hyc
    rw [hlen] at h
    exact h
  unfold State.takeEntry
  dsimp only
  rw [if_neg hxd, hxu]
  simp only [List.contains_nil, Bool.false_eq_true, if_false]
  rw [Copy.entered_trap, hpc, ht, State.framed, ← hwrite]
  simp only [Nat.add_zero]
  rfl

/-- What a trap makes of its one copy. -/
theorem State.takeEntry_trapsIn {s : State} {tr c : Nat} (ti : TrapInfo) (hc : c < 3) (hdepth : (s.copy (copyIx tr c)).depth < 32)
    (hue : (s.copy (copyIx tr c)).ue = []) (hce : (s.copy (copyIx tr c)).ce = []) (hphase : s.tri tr Reg.triStatus_RESYNC_PHASE ≠ 2) :
    TrapsIn s (s.takeEntry (copyIx tr c) (.trap ti) ((s.copy (copyIx tr c)).trapPc ti)) tr [c] ti := by
  rw [State.takeEntry_trap ti hc hdepth hue hce hphase]
  have hd : (s.copy (copyIx tr c)).flushPend.depth < 32 := by rw [Copy.flushPend_frame]; exact hdepth
  obtain ⟨hroom, hmod⟩ := (s.copy (copyIx tr c)).flushPend.frameOff_room hd
  have hlen : ((s.copy (copyIx tr c)).flushPend.trapFrame ((s.copy (copyIx tr c)).flushPend.trapPc ti)).length = 16 := by simp [Copy.trapFrame]
  constructor
  case each =>
    intro d hd
    obtain rfl := List.mem_singleton.mp hd
    exact (State.framed_copy s tr _ _ _ _ _).trans (if_pos rfl)
  case frame =>
    intro d hd x i hi
    obtain rfl := List.mem_singleton.mp hd
    exact State.framed_read s tr _ hroom hlen hi
  case others =>
    intro k hk
    rw [State.framed_copy, if_neg (hk c (by simp))]
  case bytes =>
    intro a ha
    exact State.framed_byte s tr _ hroom hlen (ha c (by simp))
  case valid =>
    intro k off
    rw [State.framed_valid s tr _ _ hroom hmod]
    simp
  case resv => simp [State.framed_resv]
  case rest => exact State.framed_rest s tr _ _ _ _

/-! ### The entry of a trap in several copies -/

/-- A double word of a data TCM on its boundary, where no frame has been put. -/
theorem TrapsIn.tcmRead {s t : State} {tr : Nat} {ks : List Nat} {ti : TrapInfo} (h : TrapsIn s t tr ks ti) {k off : Nat}
    (hk : ∀ c ∈ ks, k ≠ copyIx tr c) (hoff : off % 8 = 0) (hd : ∀ c ∈ ks, (s.copy (copyIx tr c)).flushPend.depth < 32) :
    t.tcmRead k off = s.tcmRead k off := by
  rw [State.tcmRead, State.tcmRead, State.bytes_congr]
  intro a h1 h2
  refine h.bytes a fun c hc => ?_
  obtain ⟨hroom, -⟩ := (s.copy (copyIx tr c)).flushPend.frameOff_room (hd c hc)
  have hne := hk c hc
  dsimp only
  unfold tcmAddr at *
  omega

theorem Copy.vectorOff_mod (c : Copy) (ti : TrapInfo) : c.vectorOff (.trap ti) % 8 = 0 := by
  unfold Copy.vectorOff
  dsimp only
  split <;> omega

end Sys2Proof.Machine
end

section
/-!
PROOFS. The entry of a trap in several copies, and what `trapCopies` does to copies that run in lockstep (R138 to R141).
-/

namespace Sys2Proof.Machine

/-- A default written takes the entry away. -/
theorem SMap.put_default {α : Type} [DecidableEq α] {d : α} (m : SMap α) (i : Nat) : SMap.put d m i d = m.filter fun e => decide (e.1 ≠ i) := by
  induction m with
  | nil => simp [SMap.put]
  | cons e r ih =>
    obtain ⟨k, v⟩ := e
    rw [SMap.put, ih]
    simp only [if_true]
    by_cases h1 : i < k
    · rw [if_pos h1, List.filter_cons_of_pos (by simp; omega)]
    · rw [if_neg h1]
      by_cases h2 : i = k
      · rw [if_pos h2, List.filter_cons_of_neg (by simp [h2])]
      · rw [if_neg h2, List.filter_cons_of_pos (by simp; omega)]

theorem SMap.put_default_twice {α : Type} [DecidableEq α] {d : α} (m : SMap α) (i : Nat) :
    SMap.put d (SMap.put d m i d) i d = SMap.put d m i d := by
  rw [SMap.put_default, SMap.put_default, List.filter_filter]
  simp

/-- A frame begins and ends on a boundary of its size. -/
theorem Copy.frameOff_word (c : Copy) {d : Nat} (hd : d < 32) (i : Nat) : (c.frameOff d + 8 * i) % 8 = 0 := by
  have h := (c.frameOff_room hd).2
  omega

/-- One copy takes the trap, then others: they all do. -/
theorem TrapsIn.cons {s u t : State} {tr c : Nat} {ks : List Nat} {ti : TrapInfo} (h1 : TrapsIn s u tr [c] ti) (h2 : TrapsIn u t tr ks ti)
    (hc : c ∉ ks) (hd : ∀ d ∈ c :: ks, (s.copy (copyIx tr d)).flushPend.depth < 32) : TrapsIn s t tr (c :: ks) ti := by
  have hne : ∀ d ∈ ks, copyIx tr d ≠ copyIx tr c := fun d hd he => hc (copyIx_inj.mp he ▸ hd)
  have hsame : ∀ d ∈ ks, u.copy (copyIx tr d) = s.copy (copyIx tr d) := fun d hd =>
    h1.others _ fun e he => List.mem_singleton.mp he ▸ hne d hd
  have hdu : ∀ d ∈ ks, (u.copy (copyIx tr d)).flushPend.depth < 32 := fun d hk => hsame d hk ▸ hd d (List.mem_cons_of_mem _ hk)
  have hds : ∀ d ∈ [c], (s.copy (copyIx tr d)).flushPend.depth < 32 := fun d hk => List.mem_singleton.mp hk ▸ hd c (by simp)
  constructor
  case each =>
    intro d hk
    rcases List.mem_cons.mp hk with rfl | hk
    · exact (h2.others _ fun e he => (hne e he).symm).trans (h1.each d (by simp))
    · have hread := h1.tcmRead (k := copyIx tr d) (fun e he => List.mem_singleton.mp he ▸ hne d hk)
        ((s.copy (copyIx tr d)).flushPend.vectorOff_mod ti) hds
      have h := h2.each d hk
      rw [hsame d hk] at h
      exact h.trans (congrArg _ hread)
  case frame =>
    intro d hk x i hi
    rcases List.mem_cons.mp hk with rfl | hk
    · have hread := h2.tcmRead (k := copyIx tr d) (fun e he => (hne e he).symm) (x.frameOff_word (hd d (by simp)) i) hdu
      exact hread.trans (h1.frame d (by simp) i hi)
    · have h := h2.frame d hk
      rw [hsame d hk] at h
      exact h i hi
  case others =>
    intro k hk
    exact (h2.others k fun d hd => hk d (List.mem_cons_of_mem _ hd)).trans (h1.others k fun d hd => hk d (List.mem_singleton.mp hd ▸ by simp))
  case bytes =>
    intro a ha
    have h := h2.bytes a fun d hd => by
      rw [hsame d hd]
      exact ha d (List.mem_cons_of_mem _ hd)
    exact h.trans (h1.bytes a fun d hd => ha d (List.mem_singleton.mp hd ▸ by simp))
  case valid =>
    intro k off
    rw [h2.valid, h1.valid]
    have hex : (∃ d ∈ ks, let x := (u.copy (copyIx tr d)).flushPend
        k = copyIx tr d ∧ x.frameOff x.depth ≤ off % 0x10000 ∧ off % 0x10000 < x.frameOff x.depth + 128) ↔
        (∃ d ∈ ks, let x := (s.copy (copyIx tr d)).flushPend
        k = copyIx tr d ∧ x.frameOff x.depth ≤ off % 0x10000 ∧ off % 0x10000 < x.frameOff x.depth + 128) := by
      refine exists_congr fun d => and_congr_right fun hd => ?_
      rw [hsame d hd]
    simp only [hex, List.mem_cons, List.not_mem_nil, or_false, exists_eq_or_imp, exists_eq_left]
    split
    next h => simp only [h, or_true, if_true]
    next h => simp only [h, or_false]
  case resv =>
    rw [h2.resv, h1.resv]
    simp only [List.cons_ne_nil, if_false, SMap.put_default_twice, ite_self]
  case rest =>
    rw [h2.rest, h1.rest]

/-- No copy takes the trap. -/
theorem TrapsIn.nil (s : State) (tr : Nat) (ti : TrapInfo) : TrapsIn s s tr [] ti where
  each := by simp
  frame := by simp
  others := fun _ _ => rfl
  bytes := fun _ _ => rfl
  valid := by simp
  resv := rfl
  rest := rfl

/-- A copy that can take a trap: it holds no array error, and its frames leave room for one more. -/
structure Copy.EntryReady (c : Copy) : Prop where
  ue    : c.ue = []
  ce    : c.ce = []
  depth : c.depth < 32

theorem Copy.EntryReady.flushPend {c : Copy} (h : c.EntryReady) : c.flushPend.depth < 32 := by
  rw [Copy.flushPend_frame]
  exact h.depth

/-- Copies take a trap one after another, each with a program counter of its own. -/
theorem State.takeEntries_trapsIn {tr : Nat} (ti : TrapInfo) {ks : List Nat} (hn : ks.Nodup) {s : State} (h3 : ∀ c ∈ ks, c < 3)
    (hr : ∀ c ∈ ks, (s.copy (copyIx tr c)).EntryReady) (hphase : s.tri tr Reg.triStatus_RESYNC_PHASE ≠ 2) :
    TrapsIn s ((ks.map fun c => (c, EntryFor.trap ti, (s.copy (copyIx tr c)).trapPc ti)).foldl
      (fun s x => s.takeEntry (copyIx tr x.1) x.2.1 x.2.2) s) tr ks ti := by
  induction ks generalizing s with
  | nil => exact TrapsIn.nil s tr ti
  | cons c ks ih =>
    obtain ⟨hc, hn⟩ := List.nodup_cons.mp hn
    have hready := hr c (by simp)
    have h1 := State.takeEntry_trapsIn ti (h3 c (by simp)) hready.depth hready.ue hready.ce hphase
    rw [List.map_cons, List.foldl_cons]
    dsimp only
    generalize s.takeEntry (copyIx tr c) (.trap ti) ((s.copy (copyIx tr c)).trapPc ti) = u at h1
    have hsame : ∀ d ∈ ks, u.copy (copyIx tr d) = s.copy (copyIx tr d) := fun d hd =>
      h1.others _ fun e he => List.mem_singleton.mp he ▸ fun heq => hc (copyIx_inj.mp heq ▸ hd)
    have hregs : u.regs = s.regs := by rw [h1.rest]
    have hu : u.tri tr Reg.triStatus_RESYNC_PHASE ≠ 2 := by rw [State.tri, State.fget, State.rd, hregs]; exact hphase
    have hmap : ks.map (fun c => (c, EntryFor.trap ti, (s.copy (copyIx tr c)).trapPc ti)) =
        ks.map fun c => (c, EntryFor.trap ti, (u.copy (copyIx tr c)).trapPc ti) :=
      List.map_congr_left fun d hd => by rw [hsame d hd]
    rw [hmap]
    refine h1.cons (ih hn (fun d hd => h3 d (List.mem_cons_of_mem _ hd)) (fun d hd => ?_) hu) hc fun d hd => (hr d hd).flushPend
    rw [hsame d hd]
    exact hr d (List.mem_cons_of_mem _ hd)

/-- A triad has three copies. -/
theorem State.runners_lt (s : State) (w : Who) : ∀ c ∈ s.runners w, c < 3 := by
  have hexec : ∀ c ∈ s.executing w.t.val, c < 3 := fun c hc => by
    have h := (List.mem_filter.mp hc).1
    simp only [List.mem_cons, List.not_mem_nil, or_false] at h
    omega
  have hnum : w.c.num < 3 := by cases w.c <;> decide
  intro c hc
  unfold State.runners at hc
  split at hc
  · cases hc
  · split at hc
    · exact hexec c (List.mem_filter.mp hc).1
    · split at hc
      · exact List.mem_singleton.mp hc ▸ hnum
      · cases hc

/-- The vectors of sound copies are read, and every copy that has room takes the trap. -/
theorem State.trapCopies_sound {s : State} {tr : Nat} {ks : List Nat} (ti : TrapInfo) (hs : ∀ c ∈ ks, s.sound (copyIx tr c))
    (hd : ∀ c ∈ ks, (s.copy (copyIx tr c)).depth < 32) :
    s.trapCopies tr (ks.map fun c => (c, ti)) = (ks.map fun c => (c, EntryFor.trap ti, (s.copy (copyIx tr c)).trapPc ti)).foldl
      (fun s x => s.takeEntry (copyIx tr x.1) x.2.1 x.2.2) s := by
  have hes : (ks.map fun c => (c, ti)).map (fun x => (x.1, EntryFor.trap x.2, (s.copy (copyIx tr x.1)).trapPc x.2)) =
      ks.map fun c => (c, EntryFor.trap ti, (s.copy (copyIx tr c)).trapPc ti) := by rw [List.map_map]; rfl
  have hall : (ks.map fun c => (c, EntryFor.trap ti, (s.copy (copyIx tr c)).trapPc ti)).filter
      (fun x => decide ((s.copy (copyIx tr x.1)).depth < 32)) = ks.map fun c => (c, EntryFor.trap ti, (s.copy (copyIx tr c)).trapPc ti) := by
    rw [List.filter_eq_self]
    intro x hx
    obtain ⟨c, hc, rfl⟩ := List.mem_map.mp hx
    simpa using hd c hc
  unfold State.trapCopies State.enterAll
  rw [hes, hall]
  extract_lets rs u bad
  have hmem : ∀ x ∈ rs, x.1 ∈ ks := by
    intro x hx
    obtain ⟨y, hy, rfl⟩ := List.mem_map.mp hx
    obtain ⟨c, hc, rfl⟩ := List.mem_map.mp hy
    exact hc
  have hu : u = s := State.arrayReads_sound fun x hx => (hs x.1 (hmem x hx)).arrayRead x.2
  have hbad : bad = [] := by
    rw [List.filter_eq_nil_iff]
    intro x hx
    rw [hu]
    simp [(hs x.1 (hmem x hx)).ue]
  clear_value u bad
  subst hu hbad
  rw [State.groupUe]
  simp only [List.any_nil, Bool.not_false, List.filter_true]

/-- Copies that run a command, sound and with room for a frame, take its trap. -/
theorem State.trapCopies_trapped {s : State} {w : Who} (ti : TrapInfo) (hruns : s.runners w ≠ []) (hs : ∀ c ∈ s.runners w, s.sound (copyIx w.t.val c))
    (hd : ∀ c ∈ s.runners w, (s.copy (copyIx w.t.val c)).depth < 32) (hphase : s.tri w.t.val Reg.triStatus_RESYNC_PHASE ≠ 2) :
    Trapped s (s.trapCopies w.t.val ((s.runners w).map fun c => (c, ti))) w ti := by
  rw [State.trapCopies_sound ti hs hd]
  have h := State.takeEntries_trapsIn ti (s.runners_nodup w) (s.runners_lt w) (fun c hc => ⟨(hs c hc).ue, (hs c hc).ce, hd c hc⟩) hphase
  exact ⟨h.each, h.frame, h.others, h.bytes, h.valid, h.resv.trans (if_neg hruns), h.rest⟩

end Sys2Proof.Machine
end

section
/-!
PROOFS. The target of a request to memory leaves the mesh as it is (R175): one lemma for each operation on the way to the bytes.
-/

namespace Sys2Proof.Machine

/-- A repeated operation that keeps the mesh. -/
theorem State.foldl_mesh {α : Type} {f : State → α → State} (hf : ∀ s x, (f s x).mesh = s.mesh) (l : List α) (s : State) :
    (l.foldl f s).mesh = s.mesh := by
  induction l generalizing s with
  | nil => rfl
  | cons x l ih => rw [List.foldl_cons, ih, hf]

/-- A repeated operation that carries a value beside the state. -/
theorem State.foldl_snd_mesh {α β : Type} {f : β × State → α → β × State} (hf : ∀ p x, (f p x).2.mesh = p.2.mesh) (l : List α) (p : β × State) :
    (l.foldl f p).2.mesh = p.2.mesh := by
  induction l generalizing p with
  | nil => rfl
  | cons x l ih => rw [List.foldl_cons, ih, hf]

/-! ### Registers, sources, bytes, copies -/

@[simp] theorem State.fset_mesh (s : State) (r : Nat) (f : Fld) (v : Nat) : (s.fset r f v).mesh = s.mesh := rfl
@[simp] theorem State.fsat_mesh (s : State) (r : Nat) (f : Fld) (n : Nat) : (s.fsat r f n).mesh = s.mesh := rfl
@[simp] theorem State.raiseFor_mesh (s : State) (src : Nat) (g : Option Nat) : (s.raiseFor src g).mesh = s.mesh := rfl
@[simp] theorem State.raise_mesh (s : State) (src : Nat) : (s.raise src).mesh = s.mesh := rfl
@[simp] theorem State.modProt_mesh (s : State) (f : Prot → Prot) : (s.modProt f).mesh = s.mesh := rfl
@[simp] theorem State.modTwin_mesh (s : State) (f : Twin → Twin) : (s.modTwin f).mesh = s.mesh := rfl
@[simp] theorem State.fresh_mesh (s : State) : s.fresh.2.mesh = s.mesh := rfl
@[simp] theorem State.modCopy_mesh (s : State) (k : Nat) (f : Copy → Copy) : (s.modCopy k f).mesh = s.mesh := rfl

@[simp] theorem State.setBytes_mesh (s : State) (a n v : Nat) : (s.setBytes a n v).mesh = s.mesh := by
  induction n generalizing s a v with
  | zero => rfl
  | succ n ih => rw [State.setBytes, ih, State.setByte_mesh]

@[simp] theorem State.freeOutside_mesh (s : State) (u mask n : Nat) : (s.freeOutside u mask n).mesh = s.mesh := by
  induction n with
  | zero => rfl
  | succ n ih =>
    rw [State.freeOutside]
    split
    · exact ih
    · exact ih

@[simp] theorem State.freeData_mesh (s : State) (pa len u n d : Nat) : (s.freeData pa len u n d).2.mesh = s.mesh := by
  induction n with
  | zero => rfl
  | succ n ih =>
    rw [State.freeData]
    generalize s.freeData pa len u n d = p at ih
    obtain ⟨d, t⟩ := p
    dsimp only
    split
    · exact ih
    · exact ih

/-! ### What a read finds of a unit (R274 to R280) -/

@[simp] theorem State.cleanUnit_mesh (s : State) (k u : Nat) : (s.cleanUnit k u).mesh = s.mesh := rfl
@[simp] theorem State.logPut_mesh (s : State) (k n u count nom : Nat) : (s.logPut k n u count nom).mesh = s.mesh := rfl

@[simp] theorem State.nominate_mesh (s : State) (k n : Nat) : (s.nominate k n).mesh = s.mesh := by
  unfold State.nominate
  dsimp only
  split
  · simp
  · rfl

@[simp] theorem State.ceLog_mesh (s : State) (k u : Nat) : (s.ceLog k u).mesh = s.mesh := by
  unfold State.ceLog
  split
  · simp
  · split
    · simp
    · split
      · rfl
      · simp

@[simp] theorem State.queueWb_mesh (s : State) (k u : Nat) : (s.queueWb k u).mesh = s.mesh := by
  unfold State.queueWb
  split <;> rfl

@[simp] theorem State.queueMiss_mesh (s : State) (k u : Nat) : (s.queueMiss k u).mesh = s.mesh := by
  unfold State.queueMiss
  dsimp only
  split <;> simp

@[simp] theorem State.ceFound_mesh (s : State) (k u : Nat) : (s.ceFound k u).mesh = s.mesh := by
  unfold State.ceFound
  dsimp only
  split <;> simp

@[simp] theorem State.ueFound_mesh (s : State) (k u : Nat) : (s.ueFound k u).mesh = s.mesh := by
  unfold State.ueFound
  dsimp only
  split <;> simp

@[simp] theorem State.validCheck_mesh (s : State) (w : Nat) : (s.validCheck w).mesh = s.mesh := by
  unfold State.validCheck
  dsimp only
  split <;> simp

@[simp] theorem State.unitSays_mesh (s : State) (k u : Nat) : (s.unitSays k u).2.mesh = s.mesh := by
  unfold State.unitSays
  split
  · rfl
  · split <;> rfl

@[simp] theorem State.unitOut_mesh (s : State) (k u : Nat) (c : CodeSays) : (s.unitOut k u c).2.2.mesh = s.mesh := by
  unfold State.unitOut
  cases c with
  | clean => rfl
  | ce => exact s.ceFound_mesh k u
  | ue => rfl
  | beyond =>
    dsimp only
    split
    · rfl
    · dsimp only
      split <;> simp
    · rfl

@[simp] theorem State.unitOnce_mesh (s : State) (k u : Nat) : (s.unitOnce k u).2.2.mesh = s.mesh :=
  (State.unitOut_mesh _ k u _).trans (s.unitSays_mesh k u)

@[simp] theorem State.unitFind_mesh (s : State) (k u : Nat) : (s.unitFind k u).2.2.mesh = s.mesh := by
  unfold State.unitFind
  split
  · rfl
  · have hv : (if k < 2 then s.validCheck (u / 8) else s).mesh = s.mesh := by split <;> simp
    have h1 := (State.unitOnce_mesh (if k < 2 then s.validCheck (u / 8) else s) k u).trans hv
    dsimp only
    generalize State.unitOnce (if k < 2 then s.validCheck (u / 8) else s) k u = r at h1 ⊢
    split
    next b t =>
      have h2 : (if k = 3 then t.unitOnce k u else (.ue, false, t)).2.2.mesh = t.mesh := by split <;> simp
      generalize (if k = 3 then t.unitOnce k u else (.ue, false, t)) = r2 at h2 ⊢
      split
      · exact (State.ueFound_mesh _ k u).trans (h2.trans h1)
      · exact h2.trans h1
    next => exact h1

@[simp] theorem State.unitRead_mesh (s : State) (k u : Nat) : (s.unitRead k u).2.mesh = s.mesh := s.unitFind_mesh k u

/-! ### A unit written, and what the twin captures of it (R284 to R287, R356) -/

@[simp] theorem State.injectAt_mesh (s : State) (k u : Nat) : (s.injectAt k u).mesh = s.mesh := by
  unfold State.injectAt
  extract_lets c a hit w chk t
  split
  · rw [State.raise_mesh, State.wr_mesh]
    exact s.modProt_mesh _
  · rfl

@[simp] theorem State.arrayWrite_mesh (s : State) (k u : Nat) : (s.arrayWrite k u).mesh = s.mesh := by
  unfold State.arrayWrite
  dsimp only
  split <;> simp

@[simp] theorem State.bulkStart_mesh (s : State) : s.bulkStart.mesh = s.mesh := by simp [State.bulkStart]

@[simp] theorem State.jrnWrite_mesh (s : State) (e : JEnt) : (s.jrnWrite e).mesh = s.mesh := by
  unfold State.jrnWrite
  extract_lets pa t
  have ht : t.mesh = s.mesh := (State.modTwin_mesh _ _).trans (s.setBytes_mesh _ _ _)
  exact (State.foldl_mesh (fun s u => s.arrayWrite_mesh 1 u) _ t).trans ht

@[simp] theorem State.jrnPut_mesh (s : State) (kind : BitVec 2) (blk be data : Nat) : (s.jrnPut kind blk be data).mesh = s.mesh := by
  unfold State.jrnPut
  split <;> simp

@[simp] theorem State.capture_mesh (s : State) (pa len : Nat) : (s.capture pa len).mesh = s.mesh := by
  unfold State.capture
  split
  · rfl
  · refine State.foldl_mesh (fun s blk => ?_) _ s
    split <;> simp

@[simp] theorem State.rmw_mesh (s : State) (k u mask : Nat) : (s.rmw k u mask).mesh = s.mesh := by
  have h := s.unitRead_mesh k u
  unfold State.rmw
  generalize s.unitRead k u = r at h
  obtain ⟨x, t⟩ := r
  cases x <;> simpa using h

@[simp] theorem State.drain_mesh (s : State) (k : Nat) (e : MergeEnt) : (s.drain k e).mesh = s.mesh := by
  unfold State.drain
  dsimp only
  split <;> simp

@[simp] theorem State.unitWritten_mesh (s : State) (k init u mask : Nat) : (s.unitWritten k init u mask).mesh = s.mesh := by
  unfold State.unitWritten
  dsimp only
  split
  · split <;> simp
  · split
    · simp
    · split
      · rw [State.modProt_mesh]
        split
        · split <;> simp
        · rfl
      · simp

/-! ### The arrays of a copy, and its data TCM through its window (R50, R131, R273) -/

@[simp] theorem State.arrayCe_mesh (s : State) (code : Nat) : (s.arrayCe code).mesh = s.mesh := by
  unfold State.arrayCe
  dsimp only
  split <;> simp

@[simp] theorem State.arrayUe_mesh (s : State) (code : Nat) : (s.arrayUe code).mesh = s.mesh := by
  unfold State.arrayUe
  dsimp only
  split <;> simp

@[simp] theorem State.arrayRead_mesh (s : State) (k : Nat) (r : ArrayId × Nat) : (s.arrayRead k r).mesh = s.mesh := by
  unfold State.arrayRead
  extract_lets c t w fails u
  have ht : t.mesh = s.mesh := by
    have hc : c.mesh = s.mesh := s.arrayCe_mesh _
    unfold t
    split
    · split
      · exact hc
      · exact hc
    · rfl
  split
  · have hu : u.mesh = s.mesh := (t.validCheck_mesh w).trans ht
    split
    · exact hu
    · exact hu
  · exact ht

@[simp] theorem State.tcmMark_mesh (s : State) (pa len : Nat) : (s.tcmMark pa len).mesh = s.mesh := rfl

@[simp] theorem State.tcmStoreOne_mesh (s : State) (k off len v : Nat) : (s.tcmStoreOne k off len v).mesh = s.mesh := by
  simp [State.tcmStoreOne]

@[simp] theorem State.tcmStoreAt_mesh (s : State) (pa len v : Nat) : (s.tcmStoreAt pa len v).mesh = s.mesh := by
  unfold State.tcmStoreAt
  dsimp only
  rw [State.foldl_mesh fun s j => s.tcmStoreOne_mesh j _ len v, State.tcmStoreOne_mesh]

@[simp] theorem State.tcmWindow_mesh (s : State) (pa len : Nat) : (s.tcmWindow pa len).2.mesh = s.mesh := by
  unfold State.tcmWindow
  dsimp only
  split
  · simp [State.foldl_mesh fun (s : State) r => s.arrayRead_mesh _ r]
  · exact State.foldl_mesh (fun s r => s.arrayRead_mesh _ r) _ s

/-! ### The target and the gate (R172, R175, R177) -/

@[simp] theorem State.zodFail_mesh (s : State) : s.zodFail.mesh = s.mesh := rfl
@[simp] theorem State.breakResv_mesh (s : State) (init granule : Nat) : (s.breakResv init granule).mesh = s.mesh := rfl
@[simp] theorem State.noteForeign_mesh (s : State) (init pa len : Nat) : (s.noteForeign init pa len).mesh = s.mesh := rfl

@[simp] theorem State.memRead_mesh (s : State) (pa len : Nat) : (s.memRead pa len).2.mesh = s.mesh := by
  unfold State.memRead
  split
  · exact s.tcmWindow_mesh pa len
  next k _ =>
    split
    · rfl
    · split
      · exact s.zodFail_mesh
      · refine State.foldl_snd_mesh (fun p u => ?_) _ _
        have h := p.2.unitRead_mesh k u
        generalize p.2.unitRead k u = r at h
        obtain ⟨x, t⟩ := r
        cases x with
        | good => exact h
        | ue => exact h
        | wrong =>
          dsimp only
          split
          · exact h
          · exact (t.freeData_mesh pa len u _ _).trans h

@[simp] theorem State.memWrite_mesh (s : State) (init pa len v : Nat) : (s.memWrite init pa len v).2.mesh = s.mesh := by
  unfold State.memWrite
  split
  · simp
  next k _ =>
    split
    · rfl
    · split
      · exact s.zodFail_mesh
      · simp [State.foldl_mesh fun (s : State) u => s.unitWritten_mesh k init u _]

@[simp] theorem State.memAtomic_mesh (s : State) (m : MeshReq) : (s.memAtomic m).2.mesh = s.mesh := by
  have h := s.memRead_mesh m.pa.toNat m.len
  have hw (v : Nat) := ((s.memRead m.pa.toNat m.len).2.memWrite_mesh m.rq.init.val m.pa.toNat m.len v).trans h
  unfold State.memAtomic
  dsimp only
  split
  · split <;> exact h
  · split
    · exact (State.memWrite_mesh _ _ _ _ _).trans h
    · exact h
  all_goals
    split
    · split
      · exact h
      · exact hw _
    · exact h

@[simp] theorem State.gateFail_mesh (s : State) (g : Nat) : (s.gateFail g).mesh = s.mesh := by
  unfold State.gateFail
  split <;> rfl

@[simp] theorem State.deny_mesh (s : State) (m : MeshReq) (cause : Nat) : (s.deny m cause).mesh = s.mesh := by
  unfold State.deny
  dsimp only
  split <;> rfl

end Sys2Proof.Machine
end

section
/-!
PROOFS. Requests, tags and responses of the mesh (O29): MESH_REQUEST, TAG_ISSUE, MESH_RESPONSE and TAG_RESP_TIMEOUT.
-/

namespace Sys2Proof.Machine

/-! ### What a request to memory does to the mesh -/

/-- The counts of the tags in use are registers. -/
theorem State.recountTags_frame (s : State) (q : Nat) : s.recountTags q = { s with regs := (s.recountTags q).regs } := by
  have hfold (l : List Nat) (r : Nat → Nat) (f : Fld) (v : State → Nat → Nat) (u : State) :
      (l.foldl (fun s c => s.fset (r c) f (v s c)) u) = { u with regs := (l.foldl (fun s c => s.fset (r c) f (v s c)) u).regs } := by
    induction l generalizing u with
    | nil => rfl
    | cons c l ih => exact (ih _).trans rfl
  unfold State.recountTags
  dsimp only
  split
  · exact (hfold (List.range 8) (fun c => Reg.fulCTags c) _ (fun s c => s.tagsOf (16 + c)) _).trans rfl
  · rfl

@[simp] theorem State.recountTags_mesh (s : State) (q : Nat) : (s.recountTags q).mesh = s.mesh := by rw [State.recountTags_frame]
@[simp] theorem State.recountTags_mem (s : State) (q : Nat) : (s.recountTags q).mem = s.mem := by rw [State.recountTags_frame]
@[simp] theorem State.recountTags_detected (s : State) (q : Nat) : (s.recountTags q).detected = s.detected := by rw [State.recountTags_frame]
@[simp] theorem State.recountTags_ticks (s : State) (q : Nat) : (s.recountTags q).ticks = s.ticks := by rw [State.recountTags_frame]

/-- The gate's answer or the target's: the mesh stays. -/
theorem State.serve_mesh {s : State} {m : MeshReq} (hmem : windowOf m.pa.toNat ≠ .mmio) (hb : s.reqBlocked m = false) :
    (s.serve m).2.mesh = s.mesh := by
  unfold State.serve
  split
  next u hu =>
    obtain ⟨c, -, rfl⟩ := Option.map_eq_some_iff.mp hu
    exact (State.deny_mesh _ m c).trans (s.gateFail_mesh _)
  next =>
    have hnow : s.target m = s.perform m := by simp [State.target, hb]
    rw [hnow]
    unfold State.perform
    rw [if_neg hmem]
    split
    · exact s.memRead_mesh _ _
    · exact s.memRead_mesh _ _
    · exact s.memRead_mesh _ _
    · exact s.memWrite_mesh _ _ _ _
    · exact s.memAtomic_mesh m
    · exact s.memAtomic_mesh m

/-- A request that is served at once holds a tag with its response. -/
def Flight.served (m : MeshReq) (own : Bool) (s : State) : Flight :=
  { num := s.mesh.nextNum, gate := gateOf m.pa.toNat, epoch := s.epoch m.rq.init.val, time := (s.serve m).2.ticks, held := true, done := true
    req := m, resp := (s.serve m).1, own := own }

theorem State.issueAs_mesh {s : State} {m : MeshReq} (own : Bool) (hmem : windowOf m.pa.toNat ≠ .mmio) (hb : s.reqBlocked m = false) :
    (s.issueAs own m).mem = (s.serve m).2.mem ∧
    (s.issueAs own m).mesh = { s.mesh with nextNum := s.mesh.nextNum + 1, flights := s.mesh.flights ++ [Flight.served m own s] } := by
  have hmesh := s.serve_mesh hmem hb
  have hepoch : (s.serve m).2.epoch m.rq.init.val = s.epoch m.rq.init.val := by rw [State.epoch, hmesh, State.epoch]
  unfold State.issueAs
  simp only [hb, Bool.and_false, Bool.false_eq_true, if_false, Bool.not_false, State.recountTags_mem, State.recountTags_mesh, hmesh, hepoch, true_and]
  rfl

/-- A request is issued and served: its flight, the last, holds the tag and the response. -/
def ServedIn (m : MeshReq) (u t : State) : Prop :=
  t.mem = (u.serve m).2.mem ∧ ∃ f, t.mesh.flights = u.mesh.flights ++ [f] ∧ f.req = m ∧ f.held = true ∧
    f.done = true ∧ f.resp = (u.serve m).1 ∧ f.epoch = u.epoch m.rq.init.val

theorem State.meshIssue_served {u : State} {m : MeshReq} (hmem : windowOf m.pa.toNat ≠ .mmio) (hb : u.reqBlocked m = false) :
    ServedIn m u (u.meshIssue m) ∧ (u.meshIssue m).mesh.stalled = u.mesh.stalled := by
  obtain ⟨hbytes, hmesh⟩ := State.issueAs_mesh false hmem hb
  refine ⟨⟨hbytes, Flight.served m false u, ?_, rfl, rfl, rfl, rfl, rfl⟩, ?_⟩
  · rw [State.meshIssue, hmesh]
  · rw [State.meshIssue, hmesh]

/-! ### MESH_REQUEST and TAG_ISSUE (R43) -/

/-- A request to memory reads no gate's drain (R179). -/
theorem exec_meshRequest {s : State} {m : MeshReq} (hmem : windowOf m.pa.toNat ≠ .mmio) : exec (.meshRequest m) s = .next (s.meshPost m) := by
  change execMeshRequest m s = _
  simp [execMeshRequest, drainOf, hmem]

theorem exec_meshRequest_free {s : State} {m : MeshReq} (hmem : windowOf m.pa.toNat ≠ .mmio) (hfree : s.tagFree m.rq.init.val = true)
    (hnone : ∀ x ∈ s.mesh.stalled, x.rq.init ≠ m.rq.init) : exec (.meshRequest m) s = .next (s.meshIssue m) := by
  have hany : (s.mesh.stalled.any fun x => decide (x.rq.init = m.rq.init)) = false := by simpa using hnone
  rw [exec_meshRequest hmem, State.meshPost, hfree, hany]
  rfl

theorem exec_meshRequest_full {s : State} {m : MeshReq} (hmem : windowOf m.pa.toNat ≠ .mmio) (hfree : s.tagFree m.rq.init.val = false) :
    exec (.meshRequest m) s = .next { s with mesh := { s.mesh with stalled := s.mesh.stalled ++ [m] } } := by
  rw [exec_meshRequest hmem, State.meshPost, hfree]
  rfl

theorem exec_tagIssue_free {s : State} {m : MeshReq} {r : List MeshReq} (hs : s.mesh.stalled = m :: r) (hfree : s.tagFree m.rq.init.val = true) :
    exec (.tagIssue m.rq.init) s = .next ({ s with mesh := { s.mesh with stalled := r } }.meshIssue m) := by
  have hw : s.waiting m.rq.init.val = m :: r.filter fun x => decide (x.rq.init.val = m.rq.init.val) := by
    rw [State.waiting, hs, List.filter_cons_of_pos (by simp)]
  have hd : dropFirst m.rq.init.val s.mesh.stalled = r := by rw [hs, dropFirst, if_pos rfl]
  change execTagIssue m.rq.init s = _
  rw [execTagIssue, hw]
  simp only [hfree, hd, if_true]

/-! ### MESH_RESPONSE (R37, R38) -/

/-- The first flight leaves; no other has its number. -/
theorem State.dropFlight_first {s : State} {f : Flight} {r : List Flight} (hs : s.mesh.flights = f :: r) (hnum : ∀ x ∈ r, x.num ≠ f.num) :
    (s.dropFlight f).mesh = { s.mesh with flights := r } := by
  have hkeep : (f :: r).filter (fun x => decide (x.num ≠ f.num)) = r := by
    rw [List.filter_cons_of_neg (by simp), List.filter_eq_self]
    simpa using hnum
  unfold State.dropFlight
  rw [State.recountTags_mesh, hs, hkeep]

theorem exec_meshResponse_first {s : State} {f : Flight} {r : List Flight} (hs : s.mesh.flights = f :: r) (hdone : f.done = true)
    (hown : f.own = false) (hnum : ∀ x ∈ r, x.num ≠ f.num) :
    exec (.meshResponse f.req.rq.init) s = .next
      (if 64000 < s.ticks - f.time then s.dropFlight f
       else if f.epoch ≠ s.epoch f.req.rq.init.val then (s.dropFlight f).raiseFor 0x147 (some f.req.rq.init.val)
       else (s.dropFlight f).answer f.req.rq.init.val f.resp) := by
  have hticks : (s.dropFlight f).ticks = s.ticks := State.recountTags_ticks _ _
  have hepoch : (s.dropFlight f).epoch f.req.rq.init.val = s.epoch f.req.rq.init.val := by
    rw [State.epoch, State.dropFlight_first hs hnum, State.epoch]
  change execMeshResponse f.req.rq.init s = _
  rw [execMeshResponse, hs, List.find?_cons_of_pos (by simp [hdone, hown])]
  simp only [hticks, hepoch]
  split
  · rfl
  · split <;> rfl

theorem meshResponse_delivered {s : State} {f : Flight} {r : List Flight} (hs : s.mesh.flights = f :: r) (hdone : f.done = true)
    (hown : f.own = false) (hnum : ∀ x ∈ r, x.num ≠ f.num) :
    ∃ t, exec (.meshResponse f.req.rq.init) s = .next t ∧ t.mesh.flights = r ∧
      (64000 < s.ticks - f.time → t.mesh.last = s.mesh.last ∧ t.detected = s.detected) ∧
      (s.ticks - f.time ≤ 64000 → f.epoch ≠ s.epoch f.req.rq.init.val → t.mesh.last = s.mesh.last ∧
        t.detected.map (fun d => (d.src, d.grp)) = s.detected.map (fun d => (d.src, d.grp)) ++ [(0x147, some f.req.rq.init.val)]) ∧
      (s.ticks - f.time ≤ 64000 → f.epoch = s.epoch f.req.rq.init.val → t.detected = s.detected ∧
        SMap.get { status := .ok, data := 0 } t.mesh.last f.req.rq.init.val = f.resp) := by
  have hexec := exec_meshResponse_first hs hdone hown hnum
  have hmesh := State.dropFlight_first hs hnum
  have hdet : (s.dropFlight f).detected = s.detected := State.recountTags_detected _ _
  by_cases hold : 64000 < s.ticks - f.time
  · rw [if_pos hold] at hexec
    refine ⟨_, hexec, by rw [hmesh], fun _ => ⟨by rw [hmesh], hdet⟩, ?_, ?_⟩ <;> intro h <;> omega
  · rw [if_neg hold] at hexec
    by_cases hep : f.epoch = s.epoch f.req.rq.init.val
    · rw [if_neg (not_not.mpr hep)] at hexec
      refine ⟨_, hexec, by rw [State.answer, hmesh], fun h => absurd h hold, fun _ h => absurd hep h, fun _ _ => ⟨hdet, ?_⟩⟩
      rw [State.answer]
      dsimp only
      rw [SMap.get_put, if_pos rfl]
    · rw [if_pos hep] at hexec
      refine ⟨_, hexec, by rw [State.raiseFor_mesh, hmesh], fun h => absurd h hold, fun _ _ => ⟨by rw [State.raiseFor_mesh, hmesh], ?_⟩,
        fun _ h => absurd h hep⟩
      rw [← hdet]
      exact List.map_append

/-! ### TAG_RESP_TIMEOUT (R37, R38) -/

theorem tagRespTimeout_released {s : State} {f : Flight} {r : List Flight} (va : Word) (wr : Bool) (hs : s.mesh.flights = f :: r)
    (hheld : f.held = true) (hnum : ∀ x ∈ r, x.num ≠ f.num) :
    ∃ t, exec (.tagRespTimeout f.req.rq va wr) s = .next t ∧ t.mesh.flights = { f with held := false } :: r ∧
      t.epoch f.req.rq.init.val = (s.epoch f.req.rq.init.val + 1) % 256 ∧
      t.detected.map (fun d => (d.src, d.grp)) = s.detected.map (fun d => (d.src, d.grp)) ++ [(0x146, some f.req.rq.init.val)] := by
  let u := (s.raiseFor 0x146 (some f.req.rq.init.val)).nextEpoch f.req.rq.init.val
  have hexec : exec (.tagRespTimeout f.req.rq va wr) s = .next ((u.releaseTag f.num).recountTags (quotaOf f.req.rq.init.val)) := by
    change execTagRespTimeout f.req.rq va wr s = _
    rw [execTagRespTimeout, hs, List.find?_cons_of_pos (by simp [hheld])]
  have hmap : (f :: r).map (fun x : Flight => if x.num = f.num then { x with held := false } else x) = { f with held := false } :: r := by
    rw [List.map_cons, if_pos rfl, List.map_congr_left fun x hx => if_neg (hnum x hx), List.map_id']
  refine ⟨_, hexec, ?_, ?_, ?_⟩
  · rw [State.recountTags_mesh, ← hmap, ← hs]
    rfl
  · rw [State.epoch, State.recountTags_mesh]
    change SMap.get 0 (SMap.put 0 s.mesh.epochs _ _) _ = _
    rw [SMap.get_put, if_pos rfl]
    rfl
  · rw [State.recountTags_detected]
    exact List.map_append

theorem exec_tagRespTimeout_none {s : State} {rq : Rq} (va : Word) (wr : Bool) (hnone : ∀ f ∈ s.mesh.flights, f.held = true → f.req.rq ≠ rq) :
    let u := (s.raiseFor 0x146 (some rq.init.val)).nextEpoch rq.init.val
    exec (.tagRespTimeout rq va wr) s = .next { u with mesh := { u.mesh with late := u.mesh.late ++ [(rq.init.val, va, wr)] } } := by
  have hfind : (s.mesh.flights.find? fun f => f.held && decide (f.req.rq = rq)) = none := by
    rw [List.find?_eq_none]
    simpa using hnone
  change execTagRespTimeout rq va wr s = _
  rw [execTagRespTimeout, hfind]

end Sys2Proof.Machine
end

section
/-!
PROOFS. A load, store or atomic whose response timeout has fired (R37, R103; O29): it finds no response and traps BUS_TIMEOUT.
-/

namespace Sys2Proof.Machine

/-! ### The access of an instruction -/

/-- A load, store or atomic makes its access in the copies that run it. -/
theorem exec_access {i : Instr} {s : State} {w : Who} {g : Guard} {acc : Access} {va : Word} (hg : i.guard = some (w, g))
    (hr : i.reserved = false) (ha : accessOf i (s.lead w) = some (acc, va)) :
    ∃ body : Copy → Local, exec i s = .next (s.run w g false body) ∧ body (s.lead w) = Local.access (s.lead w) acc va := by
  have runs {w' : Who} {g' : Guard} {undef : Bool} {body : Copy → Local} {x : Access × Word} (he : exec i s = .next (s.run w' g' undef body))
      (hu : i.reserved = undef) (hw : i.guard = some (w', g')) (hx : accessOf i (s.lead w) = some x)
      (hb : body (s.lead w) = Local.access (s.lead w) x.1 x.2) :
      ∃ body : Copy → Local, exec i s = .next (s.run w g false body) ∧ body (s.lead w) = Local.access (s.lead w) acc va := by
    obtain ⟨rfl, rfl⟩ := Prod.mk.inj (Option.some.inj (hw.symm.trans hg))
    obtain rfl := Option.some.inj (hx.symm.trans ha)
    exact ⟨body, by rw [he, ← hu, hr], hb⟩
  unfold accessOf at ha
  split at ha
  · exact runs rfl rfl rfl rfl rfl
  · exact runs rfl rfl rfl rfl rfl
  · refine runs rfl rfl rfl rfl ?_
    split <;> rfl
  · refine runs rfl rfl rfl rfl ?_
    split <;> rfl
  · exact runs rfl rfl rfl rfl rfl
  · exact runs rfl rfl rfl rfl rfl
  · exact runs rfl rfl rfl rfl rfl
  · exact runs rfl rfl rfl rfl rfl
  · exact runs rfl rfl rfl rfl rfl
  · cases ha

/-- The access in one half outside the copy, as the plan gives it. -/
def Access.one (acc : Access) (h : Half) : Access := { acc with halves := [h] }

theorem Access.one_halves (acc : Access) (h : Half) : (acc.one h).halves = [h] := rfl

theorem Local.access_one {c : Copy} {acc : Access} {va : Word} {h : Half} (hp : c.plan acc.kind va (2 ^ acc.size) = .ok [h]) :
    (Local.access c acc va).acc = some (acc.one h) ∧ (Local.access c acc va).trap = none ∧
      (Local.access c acc va).sides = halfSides c (acc.one h) 0 h := by
  unfold Local.access
  rw [hp]
  exact ⟨rfl, rfl, by simp [Access.one]⟩

theorem halfSides_plain (c : Copy) (acc : Access) (i : Nat) {h : Half} (hh : h.how = .plain) : halfSides c acc i h = [halfSide acc i h] := by
  rw [halfSides, hh]
  rfl

/-- An access shows a load, a store or an atomic (R48), and no issue packet. -/
theorem halfSide_kind (acc : Access) (i : Nat) (h : Half) : (halfSide acc i h).kind ≠ 6 := by
  unfold halfSide
  dsimp only
  split <;> decide

/-- With a tag free, and not of an MMIO register, it waits for nothing at the fence (R44, R179). -/
theorem State.access_not_waiting {s : State} {w : Who} {acc : Access} {va : Word} {h : Half} {c : Copy}
    (hp : c.plan acc.kind va (2 ^ acc.size) = .ok [h]) (hh : h.how = .plain) (hm : windowOf h.pa ≠ .mmio) (hfree : s.tagFree w.t.val = true) :
    s.stalls w.t.val (s.copyTag w) (Local.access c acc va) = false ∧
      (Local.access c acc va).acc.bind (·.drain w.t.val (s.copyTag w)) = none := by
  obtain ⟨hacc, -, hsides⟩ := Local.access_one hp
  have hdrain : (acc.one h).drain w.t.val (s.copyTag w) = none := by
    unfold Access.drain Access.one
    split
    next heq =>
      obtain ⟨rfl⟩ := heq
      rw [if_neg hm]
    next => rfl
  constructor
  · unfold State.stalls
    rw [hacc, hsides, halfSides_plain c _ 0 hh, hfree]
    simp [halfSide_kind]
  · rw [hacc]
    exact hdrain

/-! ### An access that finds no response (R37, R103) -/

/-- The completion of a request whose response timeout has fired: it carries the epoch before, and holds no tag. -/
def State.lateFlight (s : State) (m : MeshReq) : Flight :=
  { num := s.mesh.nextNum, gate := gateOf m.pa.toNat, epoch := (s.epoch m.rq.init.val + 255) % 256, time := s.ticks, held := false, done := true
    req := m, resp := { status := .ok, data := 0 }, own := false }

/-- The state in which such a request leaves the mesh. -/
def State.unanswered (s : State) (m : MeshReq) (a : Word) : State :=
  { s with mesh := { s.mesh with
    late := s.mesh.late.erase (m.rq.init.val, a, reqWrites m)
    nextNum := s.mesh.nextNum + 1
    flights := s.mesh.flights ++ [s.lateFlight m] } }

/-- The response that a triad's access finds. -/
def Resp.late : Resp := { status := .timeout, data := 0 }

theorem State.coreServe_late {s : State} {t : Nat} {ks : List Nat} {m : MeshReq} {a : Word} (hown : ∀ f ∈ s.mesh.flights, f.own = true → f.req ≠ m)
    (hlate : (m.rq.init.val, a, reqWrites m) ∈ s.mesh.late) :
    s.coreServe t ks [] m a = (some Resp.late, [(m, Resp.late)],
      (s.unanswered m a).stall t ks (classBounds m.op m.pa.toNat (s.readsAgain m) false)) := by
  have hfind : (s.mesh.flights.find? fun f => f.own && decide (f.req = m)) = none := by
    rw [List.find?_eq_none]
    simpa using hown
  have hserve : s.serveAt m a = (Resp.late, s.unanswered m a) := by
    unfold State.serveAt
    simp only [List.contains_iff_mem.mpr hlate, if_true]
    rfl
  unfold State.coreServe
  rw [List.find?_nil]
  dsimp only
  rw [hfind]
  simp only [List.contains_iff_mem.mpr hlate, Bool.not_true, Bool.false_and, Bool.false_eq_true, if_false, hserve, List.nil_append]

/-- One half outside the copies is one request, and what follows a good response does not follow this one. -/
theorem State.accessHalf_late {s u : State} {w : Who} {ks : List Nat} {acc : Access} {h : Half} {got : Got} (hh : h.how = .plain)
    (hserve : s.coreServe w.t.val ks [] (s.accessReq w acc h) h.va = (some Resp.late, got, u)) :
    s.accessHalf w.t.val (s.copyTag w) ks (acc.one h) 0 h [] = (some Resp.late, got, u) := by
  have hbad : Resp.late.status ≠ .ok := by decide
  unfold State.accessReq at hserve
  unfold State.accessHalf
  have hkind : (acc.one h).kind = acc.kind := rfl
  rw [hkind, hh]
  cases hk : acc.kind with
  | load =>
    rw [hk] at hserve
    exact hserve
  | store =>
    rw [hk] at hserve
    exact hserve
  | atom op =>
    rw [hk] at hserve
    dsimp only at hserve ⊢
    change onOk (s.coreServe w.t.val ks [] (coreReq w.t.val (s.copyTag w) (.atomic) op h.pa h.n acc.data.toNat acc.cmp.toNat) h.va) _ = _
    rw [hserve, onOk]
    exact if_neg hbad

/-- The access ends in BUS_TIMEOUT at its address, and nothing is kept of it. -/
theorem State.accessAll_late {s u : State} {w : Who} {ks : List Nat} {accs : List (Nat × Access)} {acc : Access} {h : Half} {got : Got}
    (hh : h.how = .plain) (hserve : s.coreServe w.t.val ks [] (s.accessReq w acc h) h.va = (some Resp.late, got, u))
    (hgot : u.gotOf w.t.val (s.copyTag w) = []) :
    s.accessAll w.t.val (s.copyTag w) ks accs (acc.one h) [] [h] 0 [] = (.trap (trapAt cBUS_TIMEOUT h.va acc.kind.writes), u) := by
  have hbad : Resp.late.status ≠ .ok := by decide
  have hset : u.setGot w.t.val (s.copyTag w) [] = u := by rw [State.setGot, if_pos hgot]
  rw [State.accessAll, State.accessHalf_late hh hserve]
  dsimp only
  rw [if_pos hbad, hset]
  simp only [Nat.zero_ne_one, decide_false, Bool.and_false]
  rfl

/-- The copies have stalled for the access, its completion is on its way, and nothing else has changed. -/
structure Stalled (s u : State) (m : MeshReq) : Prop where
  rest    : u = { s with copies := u.copies, mesh := u.mesh, free := u.free }
  flights : ∃ f, f.own = false ∧ u.mesh.flights = s.mesh.flights ++ [f]
  copies  : ∀ k, ∃ n, u.copy k = { s.copy k with cycle := (s.copy k).cycle + n }

/-- A copy after a stall of `n` cycles. -/
def Copy.stalled (c : Copy) (n : Word) : Copy := { c with cycle := c.cycle + n }

theorem Copy.stalled_zero (c : Copy) : c.stalled 0 = c := by
  unfold Copy.stalled
  simp

theorem State.stall_copies (s : State) (t : Nat) {ks : List Nat} (hn : ks.Nodup) (b : Nat × Nat) :
    s.stall t ks b = { s with copies := (s.stall t ks b).copies, free := s.free + 1 } ∧
    ∀ k, ∃ n, (s.stall t ks b).copy k = { s.copy k with cycle := (s.copy k).cycle + n } := by
  let cycles := BitVec.ofNat 64 (b.1 + Config.freeStall s.free % (b.2 - b.1 + 1))
  obtain ⟨hin, hout, hrest⟩ := State.foldCopies (t := t) (F := fun _ c => c.stalled cycles) hn s
  refine ⟨?_, fun k => ?_⟩
  · exact congrArg (fun u : State => { u with free := s.free + 1 }) hrest
  · by_cases hk : ∃ c ∈ ks, k = copyIx t c
    · obtain ⟨c, hc, rfl⟩ := hk
      exact ⟨cycles, hin c hc⟩
    · exact ⟨0, (hout k fun c hc he => hk ⟨c, hc, he⟩).trans (s.copy k).stalled_zero.symm⟩

theorem State.unanswered_stalled (s : State) (m : MeshReq) (a : Word) (t : Nat) {ks : List Nat} (hn : ks.Nodup) (b : Nat × Nat) :
    Stalled s ((s.unanswered m a).stall t ks b) m := by
  obtain ⟨hrest, hcopies⟩ := (s.unanswered m a).stall_copies t hn b
  refine ⟨?_, ⟨s.lateFlight m, rfl, ?_⟩, hcopies⟩
  · rw [hrest]
    rfl
  · rw [hrest]
    rfl

/-- A stall changes no copy's status, and no access of a triad begins or ends in it. -/
theorem Stalled.runners {s u : State} {m : MeshReq} (h : Stalled s u m) (w : Who) : u.runners w = s.runners w := by
  obtain ⟨f, hown, hflights⟩ := h.flights
  have hregs : u.regs = s.regs := by rw [h.rest]
  have htriad : u.triad w.t.val = s.triad w.t.val := by rw [h.rest]; rfl
  have hrd (r : Nat) : u.rd r = s.rd r := by rw [State.rd, hregs, State.rd]
  have hfget (r : Nat) (x : Fld) : u.fget r x = s.fget r x := by rw [State.fget, hrd, State.fget]
  have hmode : u.mode w.t.val = s.mode w.t.val := by unfold State.mode; rw [hfget]
  have hgroup : u.groupMode w.t.val = s.groupMode w.t.val := by rw [State.groupMode, hmode, State.groupMode]
  have hlive (c : Nat) : u.live w.t.val c = s.live w.t.val c := by rw [State.live, hrd, State.live]
  have hruns : u.copyRuns w.t.val = s.copyRuns w.t.val := by
    funext c
    obtain ⟨n, hn⟩ := h.copies (copyIx w.t.val c)
    rw [State.copyRuns, hn, State.copyRuns]
  have hexec : u.executing w.t.val = s.executing w.t.val := by simp only [State.executing, hlive, hmode, hfget]
  have haccess : u.inAccess w.t.val (fun _ => true) = s.inAccess w.t.val fun _ => true := by
    simp [State.inAccess, htriad, hflights, hown]
  have htriadRuns : u.triadRuns w.t.val = s.triadRuns w.t.val := by
    unfold State.triadRuns State.triadWaits State.tri
    rw [htriad, hfget, hfget, haccess]
  simp only [State.runners, htriadRuns, hgroup, hexec, hruns, hlive]

/-- Sound copies that have stalled, with room for a frame, take the trap. -/
theorem Stalled.trapped {s u : State} {m : MeshReq} {w : Who} (h : Stalled s u m) (hl : Lockstep s w) (hd : (s.lead w).depth < 32) (ti : TrapInfo) :
    Trapped u (u.trapCopies w.t.val ((s.runners w).map fun c => (c, ti))) w ti := by
  have hrunners := h.runners w
  have hsound : ∀ c ∈ s.runners w, u.sound (copyIx w.t.val c) := fun c hc => by
    obtain ⟨n, hn⟩ := h.copies (copyIx w.t.val c)
    have hprot : u.prot = s.prot := by rw [h.rest]
    have hs := hl.sound c hc
    exact ⟨by rw [hn]; exact hs.ue, by rw [hn]; exact hs.ce, fun i => by rw [hprot]; exact hs.valid i⟩
  have hdepth : ∀ c ∈ s.runners w, (u.copy (copyIx w.t.val c)).depth < 32 := fun c hc => by
    obtain ⟨n, hn⟩ := h.copies (copyIx w.t.val c)
    have hcopy : (s.copy (copyIx w.t.val c)).depth < 32 := by rw [hl.same c hc]; exact hd
    rw [hn]
    exact hcopy
  have hphase : u.tri w.t.val Reg.triStatus_RESYNC_PHASE ≠ 2 := by
    have hregs : u.regs = s.regs := by rw [h.rest]
    rw [State.tri, State.fget, State.rd, hregs]
    exact hl.phase
  rw [← hrunners] at hsound hdepth ⊢
  exact State.trapCopies_trapped ti (hrunners ▸ hl.runs) hsound hdepth hphase

/-- The initiator and the copy tag of an access are those of its command. -/
theorem State.accessReq_rq (s : State) (w : Who) (acc : Access) (h : Half) :
    (s.accessReq w acc h).rq.init.val = w.t.val ∧ (s.accessReq w acc h).rq.tag.toNat = s.copyTag w := by
  have hrq : (s.accessReq w acc h).rq = { init := Fin.ofNat 30 w.t.val, tag := BitVec.ofNat 2 (s.copyTag w) } := by
    unfold State.accessReq
    split <;> rfl
  have htag : s.copyTag w < 4 := by
    have hnum : w.c.num < 4 := by cases w.c <;> decide
    unfold State.copyTag
    split
    · decide
    · exact hnum
  rw [hrq]
  refine ⟨Nat.mod_eq_of_lt (by have := w.t.isLt; omega), ?_⟩
  rw [BitVec.toNat_ofNat]
  exact Nat.mod_eq_of_lt htag

/-- Nothing of the copies' accesses is in progress (R53): nothing got, and no flight that they wait for. -/
theorem Lockstep.no_access {s : State} {w : Who} (h : Lockstep s w) : s.gotOf w.t.val (s.copyTag w) = [] ∧
    ∀ f ∈ s.mesh.flights, f.own = true → f.req.rq.init.val = w.t.val → f.req.rq.tag.toNat ≠ s.copyTag w := by
  have hidle := h.idle
  simp only [State.inAccess, Bool.or_eq_false_iff, List.any_eq_false, Bool.and_eq_true, decide_eq_true_eq, not_and] at hidle
  obtain ⟨⟨hgot, -⟩, hflights⟩ := hidle
  refine ⟨?_, fun f hf ho hi => hflights f hf ⟨ho, hi⟩⟩
  unfold State.gotOf
  rw [List.filter_eq_nil_iff]
  exact fun x hx => by simpa using hgot x hx

/-- An instruction that traps ends with it. -/
theorem State.release_trapped {s u : State} {w : Who} {g : Guard} {ls : List (Nat × Local)}
    (h : s.commitAll w.t.val (s.copyTag w) g ls = (.trapped, u)) : (s.release w g ls).1 = u := by
  unfold State.release
  dsimp only
  rw [h]

/-- The instruction traps in the copies that run it, after their stall. -/
theorem exec_access_late {i : Instr} {s : State} {w : Who} {g : Guard} {acc : Access} {va : Word} {h : Half} (hg : i.guard = some (w, g))
    (hr : i.reserved = false) (hready : Ready s w g) (ha : accessOf i (s.lead w) = some (acc, va))
    (hp : (s.lead w).plan acc.kind va (2 ^ acc.size) = .ok [h]) (hh : h.how = .plain) (hm : windowOf h.pa ≠ .mmio) (hfree : s.tagFree w.t.val = true)
    (hlate : (w.t.val, h.va, reqWrites (s.accessReq w acc h)) ∈ s.mesh.late) :
    ∃ u, Stalled s u (s.accessReq w acc h) ∧
      exec i s = .next (u.trapCopies w.t.val ((s.runners w).map fun c => (c, trapAt cBUS_TIMEOUT h.va acc.kind.writes))) := by
  obtain ⟨body, hexec, hbody⟩ := exec_access hg hr ha
  obtain ⟨hacc, htrap, -⟩ := Local.access_one hp
  obtain ⟨hinit, htag⟩ := s.accessReq_rq w acc h
  obtain ⟨hgot, hflights⟩ := hready.toLockstep.no_access
  have hown : ∀ f ∈ s.mesh.flights, f.own = true → f.req ≠ s.accessReq w acc h := fun f hf ho he =>
    hflights f hf ho (he ▸ hinit) (he ▸ htag)
  let b := classBounds (s.accessReq w acc h).op (s.accessReq w acc h).pa.toNat (s.readsAgain (s.accessReq w acc h)) false
  let u := (s.unanswered (s.accessReq w acc h) h.va).stall w.t.val (s.runners w) b
  have hstalled : Stalled s u (s.accessReq w acc h) := s.unanswered_stalled _ h.va w.t.val (s.runners_nodup w) b
  have hserve : s.coreServe w.t.val (s.runners w) [] (s.accessReq w acc h) h.va = (some Resp.late, [(s.accessReq w acc h, Resp.late)], u) :=
    State.coreServe_late hown (by rw [hinit]; exact hlate)
  have hgotU : u.gotOf w.t.val (s.copyTag w) = [] := by
    have htriad : u.triad w.t.val = s.triad w.t.val := by rw [hstalled.rest]; rfl
    rw [State.gotOf, htriad]
    exact hgot
  have hsame : s.runInstr w g false (fun _ _ c => Local.nop c) (fun _ _ c => body c) =
      s.release w g ((s.runners w).map fun c => (c, Local.access (s.lead w) acc va)) :=
    State.runInstr_same hready.toLockstep (fun c _ => (localOf_ready hready _ _).trans hbody)
      fun _ => State.access_not_waiting hp hh hm hfree
  have hcommit : s.commitAll w.t.val (s.copyTag w) g ((s.runners w).map fun c => (c, Local.access (s.lead w) acc va)) =
      (.trapped, u.trapCopies w.t.val ((s.runners w).map fun c => (c, trapAt cBUS_TIMEOUT h.va acc.kind.writes))) := by
    have hks : ((s.runners w).map fun c => (c, Local.access (s.lead w) acc va)).map (·.1) = s.runners w := by
      rw [List.map_map]
      exact List.map_id _
    obtain ⟨c0, r, hcons⟩ := List.exists_cons_of_ne_nil hready.runs
    have hmap : (s.runners w).map (fun c => (c, Local.access (s.lead w) acc va)) =
        (c0, Local.access (s.lead w) acc va) :: r.map fun c => (c, Local.access (s.lead w) acc va) := by rw [hcons]; rfl
    unfold State.commitAll
    rw [hmap]
    dsimp only
    rw [htrap]
    dsimp only
    rw [← hmap, hks, hacc]
    dsimp only
    rw [hgot, Access.one_halves, State.accessAll_late hh hserve hgotU]
  refine ⟨u, hstalled, ?_⟩
  rw [hexec, State.run, hsame, State.release_trapped hcommit]

end Sys2Proof.Machine
end

section
/-!
PROOFS. Requests, tags, timeouts and responses of the mesh (O29): the obligation.
-/

namespace Sys2Proof.Machine

/-- An access that finds no response has no effect in memory or in a register: its copies stall and trap. -/
theorem access_timeout {i : Instr} {s : State} {w : Who} {g : Guard} {acc : Access} {va : Word} {h : Half} (hg : i.guard = some (w, g))
    (hr : i.reserved = false) (hready : Ready s w g) (hd : (s.lead w).depth < 32) (ha : accessOf i (s.lead w) = some (acc, va))
    (hp : (s.lead w).plan acc.kind va (2 ^ acc.size) = .ok [h]) (hh : h.how = .plain) (hm : windowOf h.pa ≠ .mmio) (hfree : s.tagFree w.t.val = true)
    (hlate : (w.t.val, h.va, reqWrites (s.accessReq w acc h)) ∈ s.mesh.late) :
    ∃ t u, exec i s = .next t ∧ Trapped u t w (trapAt cBUS_TIMEOUT h.va acc.kind.writes) ∧ u.mem = s.mem ∧ u.regs = s.regs ∧
      ∀ k, ∃ n, u.copy k = { s.copy k with cycle := (s.copy k).cycle + n } := by
  obtain ⟨u, hstalled, hexec⟩ := exec_access_late hg hr hready ha hp hh hm hfree hlate
  exact ⟨_, u, hexec, hstalled.trapped hready.toLockstep hd _, by rw [hstalled.rest], by rw [hstalled.rest], hstalled.copies⟩

/-- Settles O29: a request by what its service leaves in the mesh, a response and a timeout by the first flight, a late access by its trap. -/
theorem meshTagsAndResponses : Obligations.MeshTagsAndResponses := by
  unfold Obligations.MeshTagsAndResponses
  refine ⟨?_, ?_, ?_, ?_, ?_, fun _ => rfl⟩
  · intro s m hmem init served
    refine ⟨?_, exec_meshRequest_full hmem, ?_⟩
    · intro hfree hnone hb
      exact ⟨_, exec_meshRequest_free hmem hfree hnone, State.meshIssue_served hmem hb⟩
    · intro r hs hfree u hb
      exact ⟨_, exec_tagIssue_free hs hfree, State.meshIssue_served hmem hb⟩
  · intro s f r hs hdone hown hnum
    exact meshResponse_delivered hs hdone hown hnum
  · intro s f r va wr hs hheld hnum
    exact tagRespTimeout_released va wr hs hheld hnum
  · intro s rq va wr hnone
    exact exec_tagRespTimeout_none va wr hnone
  · intro i s w g acc va h hg hr hready hd ha hp hh hm hfree hlate
    exact access_timeout hg hr hready hd ha hp hh hm hfree hlate

end Sys2Proof.Machine
end

section
/-!
PROOFS. The TRI block's registers (Obligations.TriadRegisterRows).
-/

namespace Sys2Proof.Machine

/-! ### The writes of the TRI block -/

/-- A double write that its gate lets reach the TRI block of triad `t`, at the offset `o` in it. -/
theorem State.gatedWrite_tri {s : State} {rq : Rq} {t o : Nat} (ht : t < 16) (ho : o < 0x1000) (h : s.grants rq (0x20000 + o + 0x1000 * t)) (v : Word) :
    s.gatedWrite rq (0x20000 + o + 0x1000 * t) v =
      (s.triWrite rq (0x20000 + o + 0x1000 * t) (BitVec.allOnes 64) v).getD (s.plainWrite (0x20000 + o + 0x1000 * t) (BitVec.allOnes 64) v) := by
  have hblock : (0x20000 + o + 0x1000 * t) / 0x10000 = 2 := by omega
  rw [State.gatedWrite_granted h, State.regWrite]
  simp [hblock]

/-- The triad and the register that an offset in the TRI block names. -/
theorem triOffset {t o : Nat} (ho : o < 0x1000) : (0x20000 + o + 0x1000 * t - 0x20000) / 0x1000 = t ∧
    (0x20000 + o + 0x1000 * t - 0x20000) % 0x1000 = o := by
  omega

theorem bit_allOnes_zero : bit (BitVec.allOnes 64) 0 = true := by decide

theorem State.gatedWrite_triModeReq {s : State} {rq : Rq} {t : Fin 16} (h : s.grants rq (Reg.triModeReq t.val)) (v : Word) :
    s.gatedWrite rq (Reg.triModeReq t.val) v = s.modeReqWrite t.val rq (BitVec.allOnes 64) v := by
  obtain ⟨ht, ho⟩ := triOffset (t := t.val) (o := 8) (by decide)
  refine (State.gatedWrite_tri t.isLt (o := 8) (by decide) h v).trans ?_
  simp [State.triWrite, ht, ho]

theorem State.gatedWrite_triResyncCtl {s : State} {rq : Rq} {t : Fin 16} (h : s.grants rq (Reg.triResyncCtl t.val)) (v : Word) :
    s.gatedWrite rq (Reg.triResyncCtl t.val) v = if bit v 0 then s.resyncStart t.val else s := by
  obtain ⟨ht, ho⟩ := triOffset (t := t.val) (o := 0x38) (by decide)
  refine (State.gatedWrite_tri t.isLt (o := 0x38) (by decide) h v).trans ?_
  simp [-BitVec.reduceAllOnes, State.triWrite, ht, ho]

theorem State.gatedWrite_triInject {s : State} {rq : Rq} {t : Fin 16} (h : s.grants rq (Reg.triInject t.val)) (v : Word) :
    s.gatedWrite rq (Reg.triInject t.val) v = s.triInject t.val v := by
  obtain ⟨ht, ho⟩ := triOffset (t := t.val) (o := 0x48) (by decide)
  refine (State.gatedWrite_tri t.isLt (o := 0x48) (by decide) h v).trans ?_
  simp [-BitVec.reduceAllOnes, State.triWrite, ht, ho, bit_allOnes_zero]

theorem State.gatedWrite_triWdogKick {s : State} {rq : Rq} {t : Fin 16} (h : s.grants rq (Reg.triWdogKick t.val)) (v : Word) :
    s.gatedWrite rq (Reg.triWdogKick t.val) v = s.wdogKick t.val (bits v 0 32) := by
  obtain ⟨ht, ho⟩ := triOffset (t := t.val) (o := 0x58) (by decide)
  refine (State.gatedWrite_tri t.isLt (o := 0x58) (by decide) h v).trans ?_
  simp [-BitVec.reduceAllOnes, State.triWrite, ht, ho, bit_allOnes_zero]

/-- TRI_MISMATCH.VALID is write-1-to-clear, and the rest of the register read-only. -/
theorem State.plainWrite_triMismatch (s : State) (t : Fin 16) (v : Word) : s.plainWrite (Reg.triMismatch t.val) (BitVec.allOnes 64) v =
    s.wr (Reg.triMismatch t.val) (s.rd (Reg.triMismatch t.val) &&& ~~~(v &&& 0x4000)) := by
  have hd : regAt (Reg.triMismatch t.val) = some ⟨0x20028, (1, 0x10000000), (1, 0x10000000), (16, 4096), 0, 0x4000, 0, 0, 0⟩ := by
    revert t
    decide +kernel
  have hmask : BitVec.ofNat 64 0x4000 = (0x4000 : Word) := rfl
  have hzero : (0 : Word) = 0#64 := rfl
  rw [State.plainWrite, hd]
  simp only [regNext, hmask, hzero, ite_self, BitVec.and_allOnes, BitVec.or_zero, BitVec.and_zero, BitVec.not_zero]

theorem State.gatedWrite_triMismatch {s : State} {rq : Rq} {t : Fin 16} (h : s.grants rq (Reg.triMismatch t.val)) (v : Word) :
    s.gatedWrite rq (Reg.triMismatch t.val) v = s.wr (Reg.triMismatch t.val) (s.rd (Reg.triMismatch t.val) &&& ~~~(v &&& 0x4000)) := by
  obtain ⟨-, ho⟩ := triOffset (t := t.val) (o := 0x28) (by decide)
  rw [← State.plainWrite_triMismatch]
  refine (State.gatedWrite_tri t.isLt (o := 0x28) (by decide) h v).trans ?_
  simp [State.triWrite, ho, Reg.triMismatch]

/-! ### What the writes do (R60, R70, R78, R83) -/

/-- A whole write of TRI_MODE_REQ (R78). -/
theorem State.modeReqWrite_whole (s : State) (t : Nat) (rq : Rq) (v : Word) : s.modeReqWrite t rq (BitVec.allOnes 64) v =
    if s.mode t = 2 ∧ ¬ (rq.init.val = t ∧ rq.tag = 0) then
      (if rq.init.val = t ∧ (rq.tag = 1 ∨ rq.tag = 2) then s.raise (0x10 * t + 9) else s)
    else s.wr (Reg.triModeReq t) ((s.rd (Reg.triModeReq t) &&& ~~~7) ||| (v &&& 7) ||| (v &&& 8)) := by
  simp only [State.modeReqWrite, srcMODE_SWITCH_ILLEGAL, BitVec.allOnes_and, BitVec.and_allOnes, Bool.and_eq_true, Bool.or_eq_true, decide_eq_true_eq,
    Bool.not_eq_true', Bool.and_eq_false_iff, decide_eq_false_iff_not, ← not_and_or]

theorem groupWidth_eq (n : Nat) : groupWidth n = [14, 16, 47, 7, 64, 13, 3, 48, 64, 64, 69].getD n 0 := by
  rcases Nat.lt_or_ge n 11 with h | h
  · interval_cases n <;> rfl
  · obtain ⟨m, rfl⟩ := Nat.exists_eq_add_of_le' h
    rfl

/-- A write of TRI_INJECT (R60): a bit of an existing group is one of the eleven groups'. -/
theorem State.triInject_eq (s : State) (t : Nat) (v : Word) : s.triInject t v =
    if s.fget Reg.sysPerm Reg.sysPerm_INJECT = 1 ∧ bit v 13 = true ∧ bits v 4 2 < 3 ∧
        bits v 6 7 < [14, 16, 47, 7, 64, 13, 3, 48, 64, 64, 69].getD (bits v 0 4) 0 then
      s.modTriad t fun x => { x with inject := some (bits v 0 4, bits v 4 2, bits v 6 7) }
    else s := by
  have hgroup (h : bits v 6 7 < groupWidth (bits v 0 4)) : bits v 0 4 ≤ 10 := by
    by_contra hn
    rw [groupWidth_eq, List.getD_eq_default _ _ (by simp; omega)] at h
    omega
  rw [← groupWidth_eq]
  unfold State.triInject State.injectOk
  refine ite_congr (propext ?_) (fun _ => rfl) fun _ => rfl
  simp only [Bool.and_eq_true, decide_eq_true_eq]
  constructor
  · rintro ⟨⟨⟨⟨hi, ha⟩, -⟩, hc⟩, hb⟩
    exact ⟨hi, ha, hc, hb⟩
  · rintro ⟨hi, ha, hc, hb⟩
    exact ⟨⟨⟨⟨hi, ha⟩, hgroup hb⟩, hc⟩, hb⟩

/-- GO with one copy isolated (R70, R73, R76). -/
theorem State.resyncStart_isolated {s : State} {t c : Nat} (hi : s.isolated t = [c]) : s.resyncStart t =
    if s.mode t = 0 ∧ s.resyncBusy t = false ∧ (s.triad t).resyncBad = false ∧ s.copyFailed t c = false then s.rebuildStart t [c] else s := by
  unfold State.resyncStart
  rw [hi]
  simp only [Bool.not_eq_true']

/-- GO changes nothing where a resynchronisation may not start (R70, R73, R76). -/
theorem State.resyncStart_refused {s : State} {t : Nat} (h : (∀ c, s.isolated t = [c] → s.copyFailed t c = true) ∨ s.mode t ≠ 0 ∨
    s.resyncBusy t = true ∨ (s.triad t).resyncBad = true) : s.resyncStart t = s := by
  by_cases hi : ∃ c, s.isolated t = [c]
  · obtain ⟨c, hi⟩ := hi
    rw [State.resyncStart_isolated hi, if_neg]
    rintro ⟨hmode, hbusy, hbad, hfailed⟩
    rcases h with h | h | h | h
    · simp [h c hi] at hfailed
    · exact h hmode
    · simp [h] at hbusy
    · simp [h] at hbad
  · unfold State.resyncStart
    split
    next c hc => exact absurd ⟨c, hc⟩ hi
    next => rfl

/-- Settles O26: each command is one write that its gate lets pass, and each write does what its register's description says. -/
theorem triadRegisterRows : Obligations.TriadRegisterRows := by
  unfold Obligations.TriadRegisterRows
  intro s rq t v old widths next restart
  refine ⟨fun h => ?_, fun h => ?_, fun h => ?_, fun h => ?_, fun h => ⟨fun c hi hmode hbusy hbad hfailed => ?_, fun hr => ?_⟩⟩
  · change execArm rq t v s = _
    rw [execArm, State.gatedWrite_triModeReq h, State.modeReqWrite_whole]
  · change execTriInject rq t v s = _
    rw [execTriInject, State.gatedWrite_triInject h, State.triInject_eq]
  · change execTriWdogKick rq t v s = _
    rw [execTriWdogKick, State.gatedWrite_triWdogKick h]
    rfl
  · change execTriMismatchClear rq t s = _
    rw [execTriMismatchClear, State.gatedWrite_triMismatch h]
    rfl
  · change execGo rq t s = _
    rw [execGo, State.gatedWrite_triResyncCtl h, if_pos (by decide), State.resyncStart_isolated hi, if_pos ⟨hmode, hbusy, hbad, hfailed⟩]
    rfl
  · change execGo rq t s = _
    rw [execGo, State.gatedWrite_triResyncCtl h, if_pos (by decide), State.resyncStart_refused hr]

end Sys2Proof.Machine
end

section
/-!
PROOFS. Agreed reads (Obligations.InputAgreement): a PAIR triad, as data, with three live copies and a free-running spare, whose agreement isolates
copy C. The copy is held then, yet it is still one of the copies that execute with the group, and it completes the read with the others.
-/

namespace Sys2Proof.Machine

/-- What holds of the default and of every listed value holds of every value read. -/
theorem SMap.get_of_forall {α : Type} {d : α} {P : α → Prop} (hd : P d) {m : SMap α} (h : ∀ e ∈ m, P e.2) (i : Nat) : P (SMap.get d m i) := by
  induction m with
  | nil => exact hd
  | cons e r ih =>
    rw [SMap.get]
    split
    · exact h e List.mem_cons_self
    · exact ih fun x hx => h x (List.mem_cons_of_mem _ hx)

/-- Copies in lockstep that are ready to run, in a state without an array error, whose copies run or are held. -/
theorem Ready.of_plain {s : State} {w : Who} {g : Guard}
    (h : s.runners w ≠ [] ∧ (∀ c ∈ s.runners w, s.copy (copyIx w.t.val c) = s.lead w) ∧ bit (s.lead w).pc 0 = false ∧
      ((s.lead w).ue = [] ∧ (s.lead w).ce = [] ∧ ∀ e ∈ s.prot.valid, e.2 = 0 ∨ e.2 = 3) ∧ (s.lead w).fetchBad = none ∧ w.t.val ∉ s.latent.conf ∧
      (s.triad w.t.val).inject = none ∧ s.tri w.t.val Reg.triStatus_RESYNC_PHASE ≠ 2 ∧
      s.inAccess w.t.val (fun x => decide (x = s.copyTag w)) = false ∧
      (∀ x ∈ s.executing w.t.val, (s.copy (copyIx w.t.val x)).status = .run ∨ (s.copy (copyIx w.t.val x)).status = .held) ∧
      g.undef = false ∧ g.holds (s.lead w) = true) : Ready s w g := by
  obtain ⟨hruns, hsame, heven, ⟨hue, hce, hvalid⟩, hfetch, hconf, hinject, hphase, hidle, hstatus, hdef, hholds⟩ := h
  refine ⟨⟨hruns, hsame, heven, fun c hc => ⟨?_, ?_, fun i => ?_⟩, hfetch, hconf, hinject, hphase, hidle, fun cls => ?_⟩, hdef, hholds⟩
  · rw [hsame c hc, hue]
  · rw [hsame c hc, hce]
  · exact SMap.get_of_forall (P := fun v : Nat => v = 0 ∨ v = 3) (.inl rfl) hvalid _
  · unfold State.agreeing
    split
    · rw [List.filter_eq_nil_iff]
      intro x hx
      rcases hstatus x hx with h | h <;> simp [h]
    · rfl

/-- Triad 0 in PAIR with all three copies live and its spare running; copy C has been in the minority of a time agreement once, and once more is the
persistence limit. -/
def pairOfThree : State :=
  { State.reset with
    regs := [(Reg.triStatus 0, BitVec.ofNat 64 (1 + 2 ^ 2 * 7 + 2 ^ 9))]
    triads := [(0, { Triad.reset with released := true, minority := [(6, 1)] })]
    copies := [0, 1, 2].map fun k => (k, { Copy.reset with status := .run, pc := 0x1000 }) }

/-- The program counter of a copy after a command. -/
def Out.pcOf (o : Out) (k : Nat) : Option Word :=
  match o with
  | .next t => some (t.copy k).pc
  | _ => none

theorem pairOfThree_ready : Ready pairOfThree ⟨0, .a⟩ (.c32 7) := Ready.of_plain (by decide +kernel)

/-- A time agreement of samples of which C's lies beyond the window delivers a value and isolates copy C: the command goes on in A and B. -/
theorem pairOfThree_agreement : ∃ u, pairOfThree.timeAgreement 0 (pick3 1 1 100) = (some 1, u) ∧ Ready u ⟨0, .a⟩ (.c32 7) ∧
    u.runners ⟨0, .a⟩ = [0, 1] ∧ (u.copy 2).pc = 0x1000 :=
  ⟨_, Prod.fst_eq_iff.mp (by decide +kernel), Ready.of_plain (by decide +kernel), by decide +kernel, by decide +kernel⟩

/-- Copy C goes past the read all the same. -/
theorem pairOfThree_moves : Out.pcOf (exec (.agtimeRead ⟨0, .a⟩ (.c32 7) 5 1 1 100) pairOfThree) 2 = some 0x1004 := by decide +kernel

/-- Refutes O19: a time agreement of a PAIR triad with three live copies isolates copy C, which as the free-running spare still completes the read,
though it is none of the copies that run the command any more. -/
theorem not_inputAgreement : ¬ Obligations.InputAgreement := by
  unfold Obligations.InputAgreement
  intro h
  obtain ⟨u, hvalue, hready, hrunners, hpc⟩ := pairOfThree_agreement
  have hgroup := (h.2 pairOfThree ⟨0, .a⟩ (.c32 7) 5 1 1 100 pairOfThree_ready).2 (by decide +kernel)
  have hread := (List.forall_mem_cons.mp hgroup).1.2
  dsimp only at hread
  obtain ⟨t, hexec, hcommit⟩ := hread 1 u hvalue hready
  have hstays : (t.copy 2).pc = 0x1000 := by rw [hcommit.others 2 (by rw [hrunners]; decide), hpc]
  have hmoves := pairOfThree_moves
  rw [hexec, Out.pcOf, hstays] at hmoves
  exact absurd hmoves (by decide)

end Sys2Proof.Machine
end

section
/-!
PROOFS. CSRR and CSRW (Obligations.CsrReadAndWriteValues).
-/

namespace Sys2Proof.Machine

/-! ### An instruction that acts in its copies alone -/

/-- An instruction with nothing to do outside its copies. -/
theorem State.runThen_inside (s : State) (w : Who) (g : Guard) (undef : Bool) (body : State → Nat → Copy → Local) :
    s.runThen w g undef body (fun _ _ s => s) = (s.runInstr w g undef (fun _ _ c => Local.nop c) body).1 := by
  unfold State.runThen
  dsimp only
  split
  · rfl
  · split <;> rfl

/-- An instruction ready to run that writes an integer register: every copy that runs it commits the value. -/
theorem State.runInstr_toG {s : State} {w : Who} {g : Guard} (h : Ready s w g) {skip body : State → Nat → Copy → Local} {d : RegNo} {n : Nat}
    (val : Copy → Word) (hb : ∀ c ∈ s.runners w, body s (copyIx w.t.val c) (s.lead w) = Local.toG (s.lead w) d (val (s.lead w)) n) :
    Committed s (s.runInstr w g false skip body).1 w fun c => c.done g n (c.setReg d (val c)) := by
  obtain ⟨u, hu, hc⟩ := State.runInstr_ready h (skip := skip) hb rfl rfl rfl rfl
  rw [hu]
  refine ⟨fun c hm => ?_, hc.others, hc.count, hc.regs, hc.bytes, hc.rest⟩
  rw [hc.each c hm, h.same c hm]
  exact Copy.retire_done rfl rfl rfl rfl

/-- An instruction that every copy traps on, sound and with room for a frame: it is taken. -/
theorem State.runInstr_trapped {s : State} {w : Who} {g : Guard} (h : Ready s w g) {skip body : State → Nat → Copy → Local} {l : Local} {ti : TrapInfo}
    (hd : (s.lead w).depth < 32) (hb : ∀ c ∈ s.runners w, body s (copyIx w.t.val c) (s.lead w) = l) (ht : l.trap = some ti) :
    Trapped s (s.runInstr w g false skip body).1 w ti := by
  rw [State.runInstr_traps h.toLockstep (fun c hc => (localOf_ready h _ _).trans (hb c hc)) ht]
  exact State.trapCopies_trapped ti h.runs h.sound (fun c hc => by rw [h.same c hc]; exact hd) h.phase

/-! ### CSRR (R57, R110) -/

/-- What a read of a CSR does in the copy with index `k`. -/
def State.csrRead (s : State) (d : RegNo) (n k : Nat) (c : Copy) : Local :=
  match csrTrap (csrLevels n).1 c.priv with
  | some t => Local.trapping c (trapOf t)
  | none => Local.toG c d (s.csrValue k c n) 1

/-- CSRR of any CSR but AGTIME and AGEVENT. -/
theorem exec_csrr {s : State} {w : Who} {g : Guard} {d : RegNo} {x : BitVec 12} (h8 : x.toNat ≠ 8) (h9 : x.toNat ≠ 9) :
    exec (.csrr w g d x) s = .next (s.runInstr w g false (fun _ _ c => Local.nop c) fun s k c => s.csrRead d x.toNat k c).1 := by
  rw [← State.runThen_inside]
  change execCsrr w g d x s = _
  unfold execCsrr
  dsimp only
  rw [if_neg h8, if_neg fun h => h9 h.1]
  rfl

/-- CSRR where the level allows it writes d with the CSR's value. -/
theorem csrr_committed {s : State} {w : Who} {g : Guard} {d : RegNo} {x : BitVec 12} (h : Ready s w g) (val : Copy → Word) (h8 : x.toNat ≠ 8)
    (h9 : x.toNat ≠ 9) (hl : csrTrap (csrLevels x.toNat).1 (s.lead w).priv = none)
    (hv : ∀ c ∈ s.runners w, s.csrValue (copyIx w.t.val c) (s.lead w) x.toNat = val (s.lead w)) :
    ∃ t, exec (.csrr w g d x) s = .next t ∧ Committed s t w fun c => c.done g 1 (c.setReg d (val c)) := by
  refine ⟨_, exec_csrr h8 h9, State.runInstr_toG h val fun c hc => ?_⟩
  rw [State.csrRead, hl, hv c hc]

/-- CSRR of a CSR above the level, or of none. -/
theorem csrr_trapped {s : State} {w : Who} {g : Guard} {d : RegNo} {x : BitVec 12} {code : Nat} (h : Ready s w g) (hd : (s.lead w).depth < 32)
    (h8 : x.toNat ≠ 8) (h9 : x.toNat ≠ 9) (hl : csrTrap (csrLevels x.toNat).1 (s.lead w).priv = some code) :
    ∃ t, exec (.csrr w g d x) s = .next t ∧ Trapped s t w (trapOf code) := by
  refine ⟨_, exec_csrr h8 h9, State.runInstr_trapped h hd (l := Local.trapping (s.lead w) (trapOf code)) (fun c _ => ?_) rfl⟩
  rw [State.csrRead, hl]

/-- The copies that run a command: of a group those of any number, else the one named. -/
theorem State.runners_single {s : State} {w : Who} (hg : s.groupMode w.t.val = false) : ∀ c ∈ s.runners w, c = w.c.num := by
  intro c hc
  unfold State.runners at hc
  rw [hg] at hc
  split at hc
  · cases hc
  · simp only [Bool.false_eq_true, if_false] at hc
    split at hc
    · exact List.mem_singleton.mp hc
    · cases hc

/-- COREID in a copy that runs the command (R57). -/
theorem State.coreId_runner {s : State} {w : Who} {c : Nat} (hc : c ∈ s.runners w) : s.coreId (copyIx w.t.val c) =
    BitVec.ofNat 64 ((if s.groupMode w.t.val then 3 else w.c.num) + 4 * w.t.val + 64 * (w.t.val / 4)) := by
  have hlt := s.runners_lt w c hc
  have ht : copyIx w.t.val c / 3 = w.t.val := by unfold copyIx; omega
  have hm : copyIx w.t.val c % 3 = c := by unfold copyIx; omega
  unfold State.coreId
  dsimp only
  rw [ht, hm]
  cases hg : s.groupMode w.t.val
  · rw [State.runners_single hg c hc]
  · rfl

/-- The numbers of the level registers IC_LVLn. -/
theorem csrIcLvl_number (n : Fin 32) : (0x100 + BitVec.ofNat 12 n : BitVec 12).toNat = 0x100 + n := by
  revert n
  decide

theorem csrIcEn_number (n : Fin 4) : (0x120 + BitVec.ofNat 12 n : BitVec 12).toNat = 0x120 + n := by
  revert n
  decide

theorem csrIcLvl_read (n : Fin 32) : (0x100 + BitVec.ofNat 12 n : BitVec 12).toNat ≠ 8 ∧ (0x100 + BitVec.ofNat 12 n : BitVec 12).toNat ≠ 9 ∧
    csrTrap (csrLevels (0x100 + BitVec.ofNat 12 n : BitVec 12).toNat).1 2 = none := by
  revert n
  decide

theorem State.csrValue_icLvl (s : State) (k : Nat) (c : Copy) (n : Fin 32) :
    s.csrValue k c (0x100 + BitVec.ofNat 12 n : BitVec 12).toNat = SMap.get 0 c.icLvl n := by
  have hn := n.isLt
  rw [csrIcLvl_number]
  unfold State.csrValue
  simp (disch := omega) only [if_neg, if_pos, Nat.add_sub_cancel_left]

theorem Copy.csrSet_icLvl (c : Copy) (n : Fin 32) (v : Word) : c.csrSet (0x100 + BitVec.ofNat 12 n : BitVec 12).toNat v =
    { c with icLvl := SMap.put 0 c.icLvl n (v &&& 0x1F1F1F1F1F1F1F1F) } := by
  have hn := n.isLt
  rw [csrIcLvl_number]
  unfold Copy.csrSet
  simp (disch := omega) only [if_neg, if_pos, Nat.add_sub_cancel_left]

theorem Copy.csrSet_icEn (c : Copy) (n : Fin 4) (v : Word) : c.csrSet (0x120 + BitVec.ofNat 12 n : BitVec 12).toNat v =
    { c with icEn := SMap.put 0 c.icEn n v } := by
  have hn := n.isLt
  rw [csrIcEn_number]
  unfold Copy.csrSet
  simp (disch := omega) only [if_neg, if_pos, Nat.add_sub_cancel_left]

/-! ### CSRW (R87, R110) -/

/-- A CSR number whose write has an effect outside the copies. -/
def csrOutside (n : Nat) : Bool := decide (n = 0x02B) || decide (n = 0x02C) || decide (n = 0x030) || decide (n = 0x031)

theorem State.csrw_inside {s : State} {w : Who} {g : Guard} {d : RegNo} {n : Nat} (hn : csrOutside n = false) :
    s.csrw w g d n = (s.runInstr w g false (fun _ _ c => Local.nop c) fun _ _ c => Local.csrw c d n).1 := by
  simp only [csrOutside, Bool.or_eq_false_iff, decide_eq_false_iff_not] at hn
  obtain ⟨⟨⟨h2b, h2c⟩, h30⟩, h31⟩ := hn
  rw [← State.runThen_inside]
  unfold State.csrw
  simp only [if_neg h2b, if_neg h2c, if_neg h30, if_neg h31]

/-- A CSR of the copy without behaviour of its own, of one cycle. -/
def csrPlain (n : Nat) : Bool :=
  !csrOutside n && decide (n ≠ 0) && decide (n ≠ 0x128) && !(decide (0x028 ≤ n) && decide (n ≤ 0x02D)) && (csrTrap (csrLevels n).2 2).isNone

/-- CSRW at MON of such a CSR: the copy takes the bits that the CSR has. -/
theorem csrw_committed {s : State} {w : Who} {g : Guard} {d : RegNo} {x : BitVec 12} (h : Ready s w g) (hp : (s.lead w).priv = 2)
    (hx : csrPlain x.toNat = true) :
    ∃ t, exec (.csrw w g d x) s = .next t ∧ Committed s t w fun c => c.done g 1 (c.csrSet x.toNat (c.reg d)) := by
  simp only [csrPlain, Bool.and_eq_true, Bool.not_eq_true', decide_eq_true_eq, Bool.and_eq_false_iff, decide_eq_false_iff_not,
    Option.isNone_iff_eq_none] at hx
  obtain ⟨⟨⟨⟨hout, h0⟩, h128⟩, hcache⟩, hlevel⟩ := hx
  have hout' := hout
  simp only [csrOutside, Bool.or_eq_false_iff, decide_eq_false_iff_not] at hout'
  obtain ⟨⟨⟨h2b, h2c⟩, h30⟩, h31⟩ := hout'
  have hva : ¬ (x.toNat = 0x028 ∨ x.toNat = 0x02A ∨ x.toNat = 0x02B) := by omega
  have h29 : x.toNat ≠ 0x029 := by omega
  have h2d : x.toNat ≠ 0x02D := by omega
  have hlocal : Local.csrw (s.lead w) d x.toNat =
      { Local.nop ((s.lead w).csrSet x.toNat ((s.lead w).reg d)) with
        kind := 3, idx := x.toNat % 32, val := (s.lead w).reg d, cycles := 1, sides := [Side.none] } := by
    unfold Local.csrw csrwCycles
    rw [hp, hlevel]
    simp only [h0, hva, h2c, h29, h2d, h128, h30, h31, or_self, if_false]
  obtain ⟨u, hu, hc⟩ := State.runInstr_ready h (skip := fun _ _ c => Local.nop c) (body := fun _ _ c => Local.csrw c d x.toNat)
    (fun _ _ => hlocal) rfl rfl rfl rfl
  refine ⟨u, ?_, fun c hm => ?_, hc.others, hc.count, hc.regs, hc.bytes, hc.rest⟩
  · change Host.Outcome.next (s.csrw w g d x.toNat) = _
    rw [State.csrw_inside hout, hu]
  · rw [hc.each c hm, h.same c hm]
    exact Copy.retire_done rfl rfl rfl rfl

/-! ### PSR (R87) -/

/-- The copy whose PSR takes a value by CSRW. -/
def Copy.psrTake (c : Copy) (v : Word) : Copy :=
  { c with psr := if c.priv = 0 then (c.psr &&& ~~~0xFF) ||| (v &&& 0xFF) else v &&& 0x7FF }

/-- What a write of PSR does in a copy that may take it. -/
def Local.psrTake (c : Copy) (v : Word) : Local :=
  { Local.nop (c.psrTake v) with kind := 3, idx := 0, val := v, cycles := 1, sides := [Side.none], noLatch := true }

/-- Every level may write PSR. -/
theorem csrTrap_psr (p : Nat) : csrTrap (csrLevels 0).2 p = none := by simp [csrTrap, csrLevels]

theorem Local.csrw_psr {c : Copy} {d : RegNo} (hp : c.priv = 0 ∨ (bits (c.reg d) 8 2 ≤ c.priv ∧ bits (c.reg d) 8 2 ≠ 3)) :
    Local.csrw c d 0 = Local.psrTake c (c.reg d) := by
  have hmon : ¬ (c.priv ≠ 0 ∧ bits (c.reg d) 8 2 = 3) := by omega
  have hraise : ¬ (c.priv ≠ 0 ∧ c.priv < bits (c.reg d) 8 2) := by omega
  have hlevel : csrTrap (csrLevels 0).2 c.priv = none := csrTrap_psr c.priv
  unfold Local.csrw
  rw [hlevel]
  simp only [hmon, hraise, if_true, if_false]
  rfl

theorem Local.csrw_psr_raise {c : Copy} {d : RegNo} (hp : c.priv = 1) (hv : bits (c.reg d) 8 2 = 2) :
    Local.csrw c d 0 = Local.trapping c (trapOf cPRIV) := by
  have hlevel : csrTrap (csrLevels 0).2 c.priv = none := csrTrap_psr c.priv
  have hmon : ¬ (c.priv ≠ 0 ∧ bits (c.reg d) 8 2 = 3) := by omega
  have hraise : c.priv ≠ 0 ∧ c.priv < bits (c.reg d) 8 2 := by omega
  unfold Local.csrw
  rw [hlevel]
  simp only [if_true]
  rw [if_neg hmon, if_pos hraise]

/-- The errors that were there before are those that are there. -/
theorem filter_contains_self {α : Type} [BEq α] [LawfulBEq α] (l : List α) : l.filter (fun r => l.contains r) = l :=
  List.filter_eq_self.mpr fun _ h => List.contains_iff_mem.mpr h

/-- The copy once a write of PSR has committed: no condition is latched. -/
theorem Copy.retire_psrTake (c : Copy) (g : Guard) (v : Word) : c.retire g (Local.psrTake c v) =
    { (c.psrTake v).flushPend with
      pc := c.pc + BitVec.ofNat 64 g.len, slot := false, instret := (c.psrTake v).flushPend.instret + 1, cycle := c.cycle + 1 } := by
  have hue : (c.psrTake v).flushPend.ue = c.ue := by rw [Copy.flushPend_frame]; rfl
  have hce : (c.psrTake v).flushPend.ce = c.ce := by rw [Copy.flushPend_frame]; rfl
  change ({ (c.psrTake v).flushPend with
    pc := c.pc + BitVec.ofNat 64 g.len, slot := false, instret := (c.psrTake v).flushPend.instret + 1, cycle := c.cycle + 1
    ue := (c.psrTake v).flushPend.ue.filter fun r => c.ue.contains r
    ce := (c.psrTake v).flushPend.ce.filter fun r => c.ce.contains r } : Copy) = _
  rw [hue, hce, filter_contains_self, filter_contains_self]
  generalize (c.psrTake v).flushPend = x at hue hce
  rw [← hue, ← hce]

/-- The two commands that write PSR do the same. -/
theorem exec_psr {s : State} {w : Who} {g : Guard} {d : RegNo} : ∀ i ∈ [Instr.psrWrite w g d, .csrw w g d 0],
    exec i s = .next (s.runInstr w g false (fun _ _ c => Local.nop c) fun _ _ c => Local.csrw c d 0).1 := by
  have h : s.csrw w g d 0 = (s.runInstr w g false (fun _ _ c => Local.nop c) fun _ _ c => Local.csrw c d 0).1 := State.csrw_inside (by decide)
  intro i hi
  simp only [List.mem_cons, List.not_mem_nil, or_false] at hi
  rcases hi with rfl | rfl
  · exact congrArg Host.Outcome.next h
  · exact congrArg Host.Outcome.next h

/-- Settles O16: each read commits the CSR's value and each write the copy's `csrSet`, the numbers listed checked one by one. -/
theorem csrReadAndWriteValues : Obligations.CsrReadAndWriteValues := by
  unfold Obligations.CsrReadAndWriteValues
  refine ⟨fun s w g d h => ⟨fun hp => ⟨?_, fun n => ?_, ?_⟩, fun hd hp => ⟨?_, ?_⟩⟩, fun s w g d h => ⟨fun hp => ⟨?_, fun n => ?_, fun n => ?_⟩, fun i hi => ⟨?_, ?_⟩⟩⟩
  · simp only [List.forall_mem_cons]
    refine ⟨?_, ?_, ?_, ?_, ?_, ?_, ?_, ?_, ?_, ?_, ?_, ?_, ?_, ?_, ?_, ?_, List.forall_mem_nil _⟩ <;>
      exact csrr_committed h _ (by decide) (by decide) (by rw [hp]; decide) fun _ _ => rfl
  · obtain ⟨h8, h9, hlevel⟩ := csrIcLvl_read n
    exact csrr_committed h (fun c => SMap.get 0 c.icLvl n) h8 h9 (by rw [hp]; exact hlevel) fun c _ => State.csrValue_icLvl s _ _ n
  · exact csrr_committed h _ (by decide) (by decide) (by rw [hp]; decide) fun c hc => State.coreId_runner hc
  · simp only [List.forall_mem_cons]
    refine ⟨?_, ?_, ?_, ?_, ?_, ?_, ?_, ?_, ?_, ?_, ?_, ?_, ?_, ?_, List.forall_mem_nil _⟩ <;>
      exact csrr_trapped h hd (by decide) (by decide) (by rw [hp]; decide)
  · simp only [List.forall_mem_cons]
    refine ⟨?_, ?_, ?_, ?_, ?_, ?_, List.forall_mem_nil _⟩ <;> exact csrr_trapped h hd (by decide) (by decide) (by rw [hp]; decide)
  · simp only [List.forall_mem_cons]
    refine ⟨?_, ?_, ?_, ?_, ?_, ?_, ?_, ?_, List.forall_mem_nil _⟩ <;> exact csrw_committed h hp (by decide)
  · obtain ⟨t, ht, hc⟩ := csrw_committed (d := d) h hp (x := 0x100 + BitVec.ofNat 12 n) (by revert n; decide)
    exact ⟨t, ht, hc.congr fun c => by rw [Copy.csrSet_icLvl]⟩
  · obtain ⟨t, ht, hc⟩ := csrw_committed (d := d) h hp (x := 0x120 + BitVec.ofNat 12 n) (by revert n; decide)
    exact ⟨t, ht, hc.congr fun c => by rw [Copy.csrSet_icEn]⟩
  · intro hpriv
    obtain ⟨u, hu, hc⟩ := State.runInstr_ready h (skip := fun _ _ c => Local.nop c) (body := fun _ _ c => Local.csrw c d 0)
      (fun _ _ => Local.csrw_psr hpriv) rfl rfl rfl rfl
    refine ⟨u, by rw [exec_psr i hi, hu], fun c hm => ?_, hc.others, hc.count, hc.regs, hc.bytes, hc.rest⟩
    rw [hc.each c hm, h.same c hm]
    exact Copy.retire_psrTake _ g _
  · intro hpriv hv hd
    exact ⟨_, exec_psr i hi, State.runInstr_trapped h hd (fun _ _ => Local.csrw_psr_raise hpriv hv) rfl⟩

end Sys2Proof.Machine
end

section
/-!
PROOFS. COP and its value (Obligations.CoprocessorInstructionAndValue).
-/

namespace Sys2Proof.Machine

/-! ### A context changed -/

theorem State.ctx_modCtx (s : State) (c j : Nat) (f : Ctx → Ctx) : (s.modCtx c f).ctx j = if j = c then f (s.ctx c) else s.ctx j := SMap.get_put

/-! ### An instruction that stays at its place, and one of a single copy -/

/-- The copies of an instruction without a trap and without an access commit one after another. -/
theorem State.commitAll_inside {s : State} {t tag : Nat} {g : Guard} {ks : List Nat} {l : Local} (hks : ks ≠ []) (ht : l.trap = none)
    (ha : l.acc = none) : s.commitAll t tag g (ks.map fun c => (c, l)) =
      (.committed, ks.foldl (fun s c => s.setCopy (copyIx t c) ((s.copy (copyIx t c)).retire g l)) s) := by
  have hone (y : State) (c : Nat) : y.commitOne t g [] (c, l) = y.setCopy (copyIx t c) ((y.copy (copyIx t c)).retire g l) := by
    simp [State.commitOne, ha]
  obtain ⟨c0, r, rfl⟩ := List.exists_cons_of_ne_nil hks
  unfold State.commitAll
  simp only [List.map_cons, ht, ha, List.foldl_cons, List.foldl_map, hone]

/-- Copies that stay at their instruction wait there, and no commit is counted (R114). -/
theorem State.release_stays {s : State} {w : Who} {g : Guard} {l : Local} (h : Lockstep s w) (ht : l.trap = none) (ha : l.acc = none)
    (hs : l.stay = true) : ∃ u, s.release w g ((s.runners w).map fun c => (c, l)) = (u, true) ∧
      (∀ c ∈ s.runners w, u.copy (copyIx w.t.val c) = (s.copy (copyIx w.t.val c)).retire g l) ∧ u = { s with copies := u.copies } := by
  obtain ⟨hin, -, hrest⟩ := State.foldCopies (t := w.t.val) (F := fun _ c => c.retire g l) (s.runners_nodup w) s
  refine ⟨_, ?_, hin, hrest⟩
  unfold State.release
  dsimp only
  rw [State.commitAll_inside h.runs ht ha]
  obtain ⟨c0, r, hks⟩ := List.exists_cons_of_ne_nil h.runs
  rw [hks]
  simp only [List.map_cons, hs, if_true]

/-- An instruction of one SPLIT copy that neither reads its arrays, traps, accesses memory nor issues a packet commits. -/
theorem State.runOn_single {s : State} {w : Who} {c : Nat} {g : Guard} {skip body : State → Nat → Copy → Local} {l : Local}
    (hg : s.groupMode w.t.val = false) (hi : (s.triad w.t.val).inject = none) (hf : (s.copy (copyIx w.t.val c)).fetchBad = none)
    (hl : localOf g false (skip s (copyIx w.t.val c)) (body s (copyIx w.t.val c)) (s.copy (copyIx w.t.val c)) = l) (hr : l.reads = [])
    (ht : l.trap = none) (ha : l.acc = none) (hp : l.sides.all (fun x => decide (x.kind ≠ 6)) = true) (hs : l.stay = false) :
    (s.runOn w [c] g false skip body).1 =
      (s.setCopy (copyIx w.t.val c) ((s.copy (copyIx w.t.val c)).retire g l)).countCommit w.t.val c false := by
  have hnote : s.noteReads w.t.val [(c, l)] = s := by simp [State.noteReads, hr]
  have hhits : ueHits s w.t.val [(c, l)] = [] := by simp [ueHits, hf, hr]
  have hinj (bs : List (Nat × List Bundle)) : s.applyInject w.t.val bs = (bs, s) := by simp [State.applyInject, hi]
  have hstall : s.stalls w.t.val (s.copyTag w) l = false := by
    unfold State.stalls
    rw [ha]
    simp only [Bool.false_and, Bool.false_or, List.any_eq_false]
    intro x hx
    have := List.all_eq_true.mp hp x hx
    simp_all
  have hdrain : s.drainStep w.t.val (s.copyTag w) l = (false, s) := by
    unfold State.drainStep
    rw [ha]
    rfl
  have hcommit := State.commitAll_inside (s := s) (t := w.t.val) (tag := s.copyTag w) (g := g) (ks := [c]) (l := l) (by simp) ht ha
  have hmode (y : Copy) : (s.setCopy (copyIx w.t.val c) y).groupMode w.t.val = false := hg
  unfold State.runOn
  simp only [List.map_cons, List.map_nil, hl, hnote, hhits, hinj, hg, Bool.not_false, if_true]
  unfold State.letGo
  simp only [ht, Option.isSome_none, Bool.false_eq_true, if_false, hstall, hdrain]
  unfold State.release
  simp only [List.map_cons, List.map_nil, List.foldl_cons, List.foldl_nil] at hcommit
  simp only [hcommit, hs, Bool.false_eq_true, if_false, hmode]

/-! ### COP sends its packet (R112, R113, R191) -/

/-- COP whose copies wait for no value. -/
theorem exec_cop_sends {s : State} {w : Who} {word : BitVec 32} (hw : s.copWaiters w = []) : exec (.cop w word) s =
    .next (s.runThen w (.c32 (wCond word)) false (fun s _ c => copLocal s w.t.val word c) fun _ c s => s.copIssue w word c) := by
  change execCop w word s = _
  unfold execCop
  rw [hw]

theorem copLocal_unbound {s : State} {t : Nat} {word : BitVec 32} {c : Copy} (hb : s.boundTo c.cop t = false) :
    copLocal s t word c = Local.trapping c (trapOf cCOP_UNBOUND) := by
  simp [copLocal, hb]

/-- A packet of COP, in a copy whose context is bound: it goes beyond the fence, and a form that returns a value waits. -/
theorem copLocal_bound {s : State} {t : Nat} {word : BitVec 32} {c : Copy} (hb : s.boundTo c.cop t = true) :
    (copLocal s t word c).trap = none ∧ (copLocal s t word c).acc = none ∧ (copLocal s t word c).stay = fwReturns word ∧
      ∃ a b, (copLocal s t word c).sides = [{ kind := 6, a := word.toNat + 2 ^ 32 * c.cop, b := a, c := b }] := by
  unfold copLocal
  rw [hb]
  exact ⟨rfl, rfl, rfl, _, _, rfl⟩

/-- A copy after the packet has left: at its instruction where a value is to come, else past it. -/
theorem Copy.retire_copLocal {s : State} {t : Nat} {word : BitVec 32} {c : Copy} (g : Guard) (hb : s.boundTo c.cop t = true) :
    c.retire g (copLocal s t word c) = if fwReturns word then { c with status := .cop, cycle := c.cycle + 1 } else c.done g 1 c := by
  unfold copLocal
  rw [hb]
  cases hr : fwReturns word
  · exact Copy.retire_done rfl rfl rfl rfl
  · rfl

/-- A packet for a context that has room does not stall (R113). -/
theorem State.stalls_packet {s : State} {t tag : Nat} {word : BitVec 32} {c : Copy} (hb : s.boundTo c.cop t = true)
    (hroom : (s.ctx c.cop).queue.length + (s.ctx c.cop).crossing.length < 16) : s.stalls t tag (copLocal s t word c) = false := by
  obtain ⟨-, hacc, -, a, b, hsides⟩ := copLocal_bound (word := word) hb
  have hcx : (word.toNat + 2 ^ 32 * c.cop) / 2 ^ 32 = c.cop := by
    have := word.isLt
    omega
  have hfull : s.crossingFull c.cop = false := decide_eq_false (by omega)
  unfold State.stalls
  rw [hacc, hsides]
  simp only [List.any_cons, List.any_nil, hcx, hfull, Bool.false_and, Bool.and_false, Bool.or_false]

/-- The packet is let go: every copy retires the instruction, or stays at it. -/
theorem State.runInstr_cop {s : State} {w : Who} {g : Guard} {word : BitVec 32} (h : Ready s w g) (hb : s.boundTo (s.lead w).cop w.t.val = true)
    (hroom : (s.ctx (s.lead w).cop).queue.length + (s.ctx (s.lead w).cop).crossing.length < 16) :
    ∃ u, s.runInstr w g false (fun _ _ c => Local.nop c) (fun s _ c => copLocal s w.t.val word c) = (u, true) ∧
      u = { s with copies := u.copies, regs := u.regs } ∧ (∀ c, u.live w.t.val c = s.live w.t.val c) ∧ u.groupMode w.t.val = s.groupMode w.t.val ∧
      ∀ c ∈ s.runners w, u.copy (copyIx w.t.val c) = (s.copy (copyIx w.t.val c)).retire g (copLocal s w.t.val word (s.lead w)) := by
  obtain ⟨htrap, hacc, hstay, -⟩ := copLocal_bound (word := word) hb
  have hsame : s.runInstr w g false (fun _ _ c => Local.nop c) (fun s _ c => copLocal s w.t.val word c) =
      s.release w g ((s.runners w).map fun c => (c, copLocal s w.t.val word (s.lead w))) :=
    State.runInstr_same h.toLockstep (fun c _ => localOf_ready h _ _) fun _ => ⟨State.stalls_packet hb hroom, by rw [hacc]; rfl⟩
  rw [hsame]
  cases hr : fwReturns word
  · obtain ⟨u, hu, hc⟩ := State.release_committed (g := g) h.toLockstep htrap hacc (hstay.trans hr)
    have hst : u.rd (Reg.triStatus w.t.val) = s.rd (Reg.triStatus w.t.val) :=
      hc.regs _ (by unfold Reg.triStatus Reg.triCommitCount; omega)
    refine ⟨u, hu, hc.rest, hc.live, ?_, hc.each⟩
    rw [State.groupMode, State.mode, State.fget, hst]
    rfl
  · obtain ⟨u, hu, heach, hrest⟩ := State.release_stays (g := g) h.toLockstep htrap hacc (hstay.trans hr)
    have hregs : u.regs = s.regs := by rw [hrest]
    refine ⟨u, hu, ?_, fun c => ?_, ?_, heach⟩
    · rw [hrest]
    · rw [State.live, State.rd, hregs]
      rfl
    · rw [State.groupMode, State.mode, State.fget, State.rd, hregs]
      rfl

theorem fwBits_one (word : BitVec 32) (i : Nat) : fwBits word i 1 = 1 ↔ word.getLsbD i = true := by
  rw [fwBits, BitVec.getLsbD, Nat.testBit_eq_decide_div_mod_eq, Nat.pow_one, decide_eq_true_eq]

/-- The packet of COP. -/
def State.copPacket (s : State) (w : Who) (word : BitVec 32) : FulPkt :=
  { word := word, a := if word.getLsbD 26 then (s.lead w).reg (wA word) else 0, b := if word.getLsbD 26 then (s.lead w).reg (wB word) else 0,
    tag := if s.groupMode w.t.val then 3 else w.c.num }

theorem State.copIssue_eq {s u : State} {w : Who} {word : BitVec 32} (hg : u.groupMode w.t.val = s.groupMode w.t.val) :
    u.copIssue w word (s.lead w) = u.modCtx (s.lead w).cop fun x => { x with crossing := x.crossing ++ [s.copPacket w word] } := by
  unfold State.copIssue State.copPacket State.copyTag
  simp only [fwBits_one, hg]

/-- COP with a bound context that has room: its packet is in the crossing, once. -/
theorem cop_sends {s : State} {w : Who} {word : BitVec 32} (h : Ready s w (.c32 (wCond word))) (hw : s.copWaiters w = [])
    (hb : s.boundTo (s.lead w).cop w.t.val = true)
    (hroom : (s.ctx (s.lead w).cop).queue.length + (s.ctx (s.lead w).cop).crossing.length < 16) :
    ∃ t, exec (.cop w word) s = .next t ∧ t = { s with copies := t.copies, regs := t.regs, ctxs := t.ctxs } ∧
      t.ctx (s.lead w).cop = { s.ctx (s.lead w).cop with crossing := (s.ctx (s.lead w).cop).crossing ++ [s.copPacket w word] } ∧
      (∀ j, j ≠ (s.lead w).cop → t.ctx j = s.ctx j) ∧
      ∀ c ∈ s.runners w, let x := s.copy (copyIx w.t.val c)
        t.copy (copyIx w.t.val c) = if fwReturns word then { x with status := .cop, cycle := x.cycle + 1 } else x.done (.c32 (wCond word)) 1 x := by
  obtain ⟨u, hu, hrest, hlive, hmode, heach⟩ := State.runInstr_cop (word := word) h hb hroom
  have hctx (j : Nat) : u.ctx j = s.ctx j := by rw [State.ctx, hrest]; rfl
  have hthen := State.runThen_ready (post := fun _ c s => s.copIssue w word c) h (copLocal_bound hb).1 hu hlive
  refine ⟨u.copIssue w word (s.lead w), by rw [exec_cop_sends hw, hthen], ?_, ?_, fun j hj => ?_, fun c hc => ?_⟩
  · rw [State.copIssue_eq hmode]
    unfold State.modCtx State.setCtx
    rw [hrest]
  · rw [State.copIssue_eq hmode, State.ctx_modCtx, if_pos rfl, hctx]
  · rw [State.copIssue_eq hmode, State.ctx_modCtx, if_neg hj, hctx]
  · have hcopy : (u.copIssue w word (s.lead w)).copy (copyIx w.t.val c) = u.copy (copyIx w.t.val c) := rfl
    rw [hcopy, heach c hc, h.same c hc]
    exact Copy.retire_copLocal _ hb

/-- COP with an unbound context traps (R113). -/
theorem cop_unbound {s : State} {w : Who} {word : BitVec 32} (h : Ready s w (.c32 (wCond word))) (hw : s.copWaiters w = [])
    (hb : s.boundTo (s.lead w).cop w.t.val = false) (hd : (s.lead w).depth < 32) :
    ∃ t, exec (.cop w word) s = .next t ∧ Trapped s t w (trapOf cCOP_UNBOUND) := by
  have htrapped := State.runInstr_trapped (skip := fun _ _ c => Local.nop c) (body := fun s _ c => copLocal s w.t.val word c) h hd
    (fun _ _ => copLocal_unbound hb) rfl
  have hthen : s.runThen w (.c32 (wCond word)) false (fun s _ c => copLocal s w.t.val word c) (fun _ c s => s.copIssue w word c) =
      (s.runInstr w (.c32 (wCond word)) false (fun _ _ c => Local.nop c) fun s _ c => copLocal s w.t.val word c).1 := by
    unfold State.runThen
    dsimp only
    split
    next => rfl
    next x r hx =>
      have hmem : x ∈ s.runners w := (List.mem_filter.mp (hx ▸ List.mem_cons_self)).1
      rw [if_neg]
      rw [h.same x hmem, copLocal_unbound hb]
      simp [Local.trapping]
  exact ⟨_, (exec_cop_sends hw).trans (congrArg _ hthen), htrapped⟩

/-! ### A value returned to a SPLIT copy (R114, R194) -/

/-- A COP of one copy that waits for its value. -/
theorem exec_cop_waits {s : State} {w : Who} {word : BitVec 32} (hw : s.copWaiters w = [w.c.num]) :
    exec (.cop w word) s = .next (s.copValue w word [w.c.num]) := by
  change execCop w word s = _
  unfold execCop
  rw [hw]

/-- No value has come for the copy. -/
theorem State.copValue_none {s : State} {w : Who} {word : BitVec 32} (hg : s.groupMode w.t.val = false)
    (hn : ∀ x ∈ (s.ctx (s.copy (copyIx w.t.val w.c.num)).cop).ret, x.1 ≠ w.c.num) : s.copValue w word [w.c.num] = s := by
  have htag : s.copyTag w = w.c.num := by simp [State.copyTag, hg]
  have hfind : ((s.ctx (s.copy (copyIx w.t.val w.c.num)).cop).ret.find? fun x => decide (x.1 = w.c.num)) = none := by
    rw [List.find?_eq_none]
    simpa using hn
  unfold State.copValue
  simp only [List.headD_cons, htag, hfind]

/-- A copy that waits for a value executes with its triad. -/
theorem State.copWaiters_executing {s : State} {w : Who} (hg : s.groupMode w.t.val = false) (hw : s.copWaiters w = [w.c.num]) :
    w.c.num ∈ s.executing w.t.val := by
  have hlive : s.live w.t.val w.c.num = true := by
    by_contra hl
    unfold State.copWaiters at hw
    simp [hg, hl] at hw
  have hnum : w.c.num ∈ [0, 1, 2] := by cases w.c <;> decide
  exact List.mem_filter.mpr ⟨hnum, by rw [hlive]; rfl⟩

/-- What the copy does once its value has come: it writes it and runs on. -/
def Local.copTaken (c : Copy) (word : BitVec 32) (v : Word) : Local := Local.toG { c with status := .run } (wD word) v 1

/-- The first value that has come for the copy goes to its register, and leaves the context. -/
theorem State.copValue_first {s : State} {w : Who} {word : BitVec 32} {v : Word} {r : List (Nat × Word)} (hg : s.groupMode w.t.val = false)
    (hw : s.copWaiters w = [w.c.num]) (hi : (s.triad w.t.val).inject = none) (he : bit (s.copy (copyIx w.t.val w.c.num)).pc 0 = false)
    (hf : (s.copy (copyIx w.t.val w.c.num)).fetchBad = none) (hu : (Guard.c32 (wCond word)).undef = false)
    (hh : (Guard.c32 (wCond word)).holds (s.copy (copyIx w.t.val w.c.num)) = true)
    (hret : (s.ctx (s.copy (copyIx w.t.val w.c.num)).cop).ret = (w.c.num, v) :: r) :
    s.copValue w word [w.c.num] =
      ((s.modCtx (s.copy (copyIx w.t.val w.c.num)).cop fun x => { x with ret := dropRet w.c.num x.ret }).setCopy (copyIx w.t.val w.c.num)
        ((s.copy (copyIx w.t.val w.c.num)).retire (.c32 (wCond word))
          (Local.copTaken (s.copy (copyIx w.t.val w.c.num)) word v))).countCommit w.t.val w.c.num false := by
  have htag : s.copyTag w = w.c.num := by simp [State.copyTag, hg]
  have hks : [w.c.num].filter (s.executing w.t.val).contains = [w.c.num] := by simp [State.copWaiters_executing hg hw]
  have hlocal : localOf (.c32 (wCond word)) false (fun c => Local.nop c) (fun c => Local.toG { c with status := .run } (wD word) v 1)
      (s.copy (copyIx w.t.val w.c.num)) = Local.copTaken (s.copy (copyIx w.t.val w.c.num)) word v := by
    simp [localOf, Local.copTaken, he, hu, hh]
  unfold State.copValue
  simp only [List.headD_cons, htag, hret, List.find?_cons_of_pos, decide_true, hg, Bool.false_eq_true, if_false]
  change (State.runOn _ w ([w.c.num].filter (s.executing w.t.val).contains) _ false _ _).1 = _
  rw [hks]
  exact State.runOn_single hg hi hf hlocal rfl rfl rfl rfl rfl

/-- A COP of a waiting copy that takes its value writes it and goes on; the context holds the rest. -/
theorem cop_takes {s : State} {w : Who} {word : BitVec 32} {v : Word} {r : List (Nat × Word)} (hg : s.groupMode w.t.val = false)
    (hw : s.copWaiters w = [w.c.num]) (hi : (s.triad w.t.val).inject = none) (he : bit (s.copy (copyIx w.t.val w.c.num)).pc 0 = false)
    (hf : (s.copy (copyIx w.t.val w.c.num)).fetchBad = none) (hu : (Guard.c32 (wCond word)).undef = false)
    (hh : (Guard.c32 (wCond word)).holds (s.copy (copyIx w.t.val w.c.num)) = true)
    (hret : (s.ctx (s.copy (copyIx w.t.val w.c.num)).cop).ret = (w.c.num, v) :: r) :
    let k := copyIx w.t.val w.c.num
    let c : Copy := { s.copy k with status := .run }
    ∃ t, exec (.cop w word) s = .next t ∧ t = { s with copies := t.copies, regs := t.regs, ctxs := t.ctxs } ∧
      t.copy k = c.done (.c32 (wCond word)) 1 (c.setReg (wD word) v) ∧ (∀ j, j ≠ k → t.copy j = s.copy j) ∧
      t.ctx c.cop = { s.ctx c.cop with ret := r } := by
  intro k c
  have hcount (u : State) := (u.countCommit_spec w.t.val w.c.num false).1
  let u := (s.modCtx c.cop fun x => { x with ret := dropRet w.c.num x.ret }).setCopy k ((s.copy k).retire (.c32 (wCond word)) (Local.copTaken (s.copy k) word v))
  have hcopy (j : Nat) : (u.countCommit w.t.val w.c.num false).copy j = u.copy j := by
    rw [hcount]
    rfl
  have hset (j : Nat) : u.copy j = if j = k then (s.copy k).retire (.c32 (wCond word)) (Local.copTaken (s.copy k) word v) else s.copy j :=
    State.copy_setCopy _ k j _
  refine ⟨u.countCommit w.t.val w.c.num false, ?_, ?_, ?_, fun j hj => ?_, ?_⟩
  · exact (exec_cop_waits hw).trans (congrArg _ (State.copValue_first hg hw hi he hf hu hh hret))
  · rw [hcount]
    rfl
  · rw [hcopy, hset, if_pos rfl]
    exact Copy.retire_done rfl rfl rfl rfl
  · rw [hcopy, hset, if_neg hj]
  · have hctx : (u.countCommit w.t.val w.c.num false).ctx c.cop = u.ctx c.cop := by
      rw [hcount]
      rfl
    have hdrop : dropRet w.c.num ((w.c.num, v) :: r) = r := if_pos rfl
    have hmod : u.ctx c.cop = { s.ctx c.cop with ret := dropRet w.c.num (s.ctx c.cop).ret } :=
      (State.ctx_modCtx s c.cop c.cop fun x => { x with ret := dropRet w.c.num x.ret }).trans (if_pos rfl)
    have hlist : (s.ctx c.cop).ret = (w.c.num, v) :: r := hret
    rw [hctx, hmod, hlist, hdrop]

/-- Settles O21: the packet by what the fence lets go, the value by the one copy that waits for it. -/
theorem coprocessorInstructionAndValue : Obligations.CoprocessorInstructionAndValue := by
  unfold Obligations.CoprocessorInstructionAndValue
  refine ⟨fun s w word h hw => ⟨fun hb hroom => cop_sends h hw hb hroom, fun hb hd => cop_unbound h hw hb hd⟩, ?_⟩
  intro s w word k c cx hw hg hi he hf hu hh
  refine ⟨fun hn => ?_, fun v r hret => cop_takes hg hw hi he hf hu hh hret⟩
  rw [exec_cop_waits hw, State.copValue_none hg hn]

end Sys2Proof.Machine
end

section
/-!
PROOFS. Interrupt latches and the entry of a SPLIT copy (Obligations.InterruptLatchesAndEntry).
-/

namespace Sys2Proof.Machine

/-! ### A change of some copies of some triads -/

/-- A change of the listed copies of a triad, seen copy by copy. -/
theorem State.copy_forCopies (s : State) (t : Nat) {cs : List Nat} (f : Copy → Copy) (hn : cs.Nodup) (h3 : ∀ c ∈ cs, c < 3) (k : Nat) :
    (s.forCopies t cs f).copy k = if k / 3 = t ∧ k % 3 ∈ cs then f (s.copy k) else s.copy k := by
  obtain ⟨hin, hout, -⟩ := State.foldCopies (t := t) (F := fun _ c => f c) hn s
  by_cases hk : k / 3 = t ∧ k % 3 ∈ cs
  · have hix : k = copyIx t (k % 3) := by unfold copyIx; omega
    rw [if_pos hk, hix]
    exact hin _ hk.2
  · rw [if_neg hk]
    refine hout k fun c hc he => hk ?_
    have hlt := h3 c hc
    have hm : k % 3 = c := by unfold copyIx at he; omega
    exact ⟨by unfold copyIx at he; omega, hm ▸ hc⟩

theorem State.forCopies_frame (s : State) (t : Nat) (cs : List Nat) (f : Copy → Copy) :
    s.forCopies t cs f = { s with copies := (s.forCopies t cs f).copies } := by
  unfold State.forCopies
  induction cs generalizing s with
  | nil => rfl
  | cons c cs ih =>
    rw [List.foldl_cons, ih]
    rfl

/-- A change of the listed copies of every triad listed that has a property. -/
theorem State.copy_forTriads (p : Nat → Bool) {cs : List Nat} (f : Copy → Copy) (hn : cs.Nodup) (h3 : ∀ c ∈ cs, c < 3) {l : List Nat} (hl : l.Nodup)
    (s : State) (k : Nat) : (l.foldl (fun s t => if p t then s.forCopies t cs f else s) s).copy k =
      if k / 3 ∈ l ∧ p (k / 3) = true ∧ k % 3 ∈ cs then f (s.copy k) else s.copy k := by
  induction l generalizing s with
  | nil => simp
  | cons t l ih =>
    obtain ⟨ht, hl⟩ := List.nodup_cons.mp hl
    rw [List.foldl_cons, ih hl]
    by_cases hk : k / 3 = t
    · subst hk
      cases hp : p (k / 3)
      · simp
      · simp [ht, State.copy_forCopies _ _ f hn h3]
    · have hskip : (if p t then s.forCopies t cs f else s).copy k = s.copy k := by
        split
        · rw [State.copy_forCopies _ _ f hn h3, if_neg fun h => hk h.1]
        · rfl
      simp [hskip, hk]

theorem State.forTriads_frame (p : Nat → Bool) (cs : List Nat) (f : Copy → Copy) (l : List Nat) (s : State) :
    l.foldl (fun s t => if p t then s.forCopies t cs f else s) s =
      { s with copies := (l.foldl (fun s t => if p t then s.forCopies t cs f else s) s).copies } := by
  induction l generalizing s with
  | nil => rfl
  | cons t l ih =>
    rw [List.foldl_cons, ih]
    split
    · rw [State.forCopies_frame]
    · rfl

/-! ### The latches (R134) -/

/-- A source is latched beside the latches that stand, unless it is reserved. -/
theorem Copy.latch_setLatch_any (c : Copy) (src n : Nat) : (c.setLatch src).latch n =
    (c.latch n || (decide (n = src) && !decide ((3 ≤ n ∧ n ≤ 15) ∨ 240 ≤ n))) := by
  unfold Copy.setLatch
  by_cases hr : (3 ≤ src ∧ src ≤ 15) ∨ 240 ≤ src
  · have hnone : (decide (n = src) && !decide ((3 ≤ n ∧ n ≤ 15) ∨ 240 ≤ n)) = false := by
      by_cases hn : n = src
      · subst hn
        simp [hr]
      · simp [hn]
    rw [if_pos hr, hnone, Bool.or_false]
  · rw [if_neg hr]
    unfold Copy.latch
    dsimp only
    rw [SMap.get_put]
    by_cases hn : n = src
    · subst hn
      rw [if_pos rfl, bit, getLsbD_setBits _ _ _ _ (Nat.mod_lt n (by decide)), if_pos (by omega)]
      simp [hr]
    · by_cases hw : n / 64 = src / 64
      · rw [if_pos hw, bit, getLsbD_setBits _ _ _ _ (Nat.mod_lt n (by decide)), if_neg (by omega), bit, hw]
        simp [hn]
      · rw [if_neg hw]
        simp [hn]

/-- INTERRUPT_LATCH_SET in one copy. -/
theorem State.latch_set (s : State) (src : BitVec 8) (triads : BitVec 16) (copies : BitVec 3) {k : Nat} (hk : k < 48) :
    ∃ t, exec (.interruptLatchSet src triads copies) s = .next t ∧ t = { s with copies := t.copies } ∧ ∀ n < 256,
      (t.copy k).latch n = ((s.copy k).latch n ||
        (decide (n = src.toNat) && triads.getLsbD (k / 3) && copies.getLsbD (k % 3) && !decide ((3 ≤ n ∧ n ≤ 15) ∨ 240 ≤ n))) := by
  have hn : ([0, 1, 2].filter copies.getLsbD).Nodup := (by decide : [0, 1, 2].Nodup).filter _
  have h3 : ∀ c ∈ [0, 1, 2].filter copies.getLsbD, c < 3 := fun c hc => by
    have := (List.mem_filter.mp hc).1
    simp only [List.mem_cons, List.not_mem_nil, or_false] at this
    omega
  have hin : k / 3 ∈ List.range 16 := List.mem_range.mpr (by omega)
  have hmod : k % 3 ∈ [0, 1, 2] := by
    have := Nat.mod_lt k (show 3 > 0 by decide)
    simp only [List.mem_cons, List.not_mem_nil, or_false]
    omega
  refine ⟨_, rfl, State.forTriads_frame _ _ _ _ s, fun n _ => ?_⟩
  rw [State.copy_forTriads _ _ hn h3 List.nodup_range]
  cases ht : triads.getLsbD (k / 3)
  · simp
  · cases hc : copies.getLsbD (k % 3)
    · simp [hc]
    · rw [if_pos ⟨hin, rfl, List.mem_filter.mpr ⟨hmod, hc⟩⟩, Copy.latch_setLatch_any]
      simp

/-- TIME_COMPARE in one copy. -/
theorem State.latch_compare (s : State) (tr : Fin 16) (k : Nat) :
    ∃ t, exec (.timeCompare tr) s = .next t ∧ t = { s with copies := t.copies } ∧ ∀ n < 256,
      (t.copy k).latch n = ((s.copy k).latch n ||
        (decide (n = 0) && decide (k / 3 = tr.val) && decide ((s.copy k).icTcmp.toNat ≤ s.now.toNat))) := by
  have hmod : k % 3 ∈ [0, 1, 2] := by
    have := Nat.mod_lt k (show 3 > 0 by decide)
    simp only [List.mem_cons, List.not_mem_nil, or_false]
    omega
  refine ⟨_, rfl, State.forCopies_frame s _ _ _, fun n _ => ?_⟩
  rw [State.copy_forCopies _ _ _ (by decide) (by decide)]
  by_cases hk : k / 3 = tr.val
  · rw [if_pos ⟨hk, hmod⟩]
    split
    next hdue =>
      rw [Copy.latch_setLatch_any]
      by_cases hn : n = 0 <;> simp [hn, hk, hdue]
    next hdue => simp [hdue]
  · rw [if_neg fun h => hk h.1]
    simp [hk]

/-! ### The candidate (R135) -/

/-- A source is chosen with its own level. -/
theorem Copy.highest_level {c : Copy} {p : Nat → Bool} {src lvl : Nat} (h : c.highest p = some (src, lvl)) : lvl = c.srcLevel src := by
  have hfold (l : List Nat) (best : Option (Nat × Nat)) (hb : ∀ x, best = some x → x.2 = c.srcLevel x.1) (x : Nat × Nat)
      (hx : l.foldl (fun best src => if p src then (match best with
        | none => some (src, c.srcLevel src)
        | some (_, l) => if l < c.srcLevel src then some (src, c.srcLevel src) else best) else best) best = some x) : x.2 = c.srcLevel x.1 := by
    induction l generalizing best with
    | nil => exact hb x hx
    | cons a l ih =>
      refine ih _ (fun y hy => ?_) hx
      simp only at hy
      split at hy
      · split at hy
        · cases hy
          rfl
        · split at hy
          · cases hy
            rfl
          · exact hb y hy
      · exact hb y hy
  exact hfold _ none (fun _ h => by cases h) (src, lvl) h

/-! ### The entry of an interrupt in a copy (R137 to R140) -/

/-- The words that the entry of an interrupt stacks (R139). -/
def Copy.irqFrame (c : Copy) (src : Nat) (pc : Word) : List Word :=
  pc :: BitVec.ofNat 64 (bits c.psr 0 11 + (2 ^ 55 * src + 2 ^ 63)) :: (List.range 14).map fun i => SMap.get 0 c.g (i + 1)

theorem Copy.irqFrame_words (c : Copy) (src : Nat) (pc : Word) : (c.irqFrame src pc).getD 0 0 = pc ∧
    (c.irqFrame src pc).getD 1 0 = BitVec.ofNat 64 (bits c.psr 0 11 + (2 ^ 55 * src + 2 ^ 63)) ∧
    ∀ i < 14, (c.irqFrame src pc).getD (i + 2) 0 = SMap.get 0 c.g (i + 1) :=
  ⟨rfl, rfl, fun i hi => by simp [Copy.irqFrame, hi]⟩

/-- The entry of an interrupt leaves the copy's array errors (R132). -/
theorem Copy.entered_irq_errors (c : Copy) (src : Nat) (vec : Word) :
    (c.entered (.irq src) vec).ue = c.ue ∧ (c.entered (.irq src) vec).ce = c.ce := ⟨rfl, rfl⟩

/-- The state after one copy, with no array error, no pending load and room for a frame, enters an interrupt's handler. -/
theorem State.takeEntry_irq {s : State} {tr c : Nat} (src : Nat) (hc : c < 3) (hpend : (s.copy (copyIx tr c)).pend = none)
    (hdepth : (s.copy (copyIx tr c)).depth < 32) (hue : (s.copy (copyIx tr c)).ue = []) (hce : (s.copy (copyIx tr c)).ce = [])
    (hphase : s.tri tr Reg.triStatus_RESYNC_PHASE ≠ 2) (pc : Word) :
    let k := copyIx tr c
    let x := s.copy k
    s.takeEntry k (.irq src) pc =
      s.framed tr k (x.frameOff x.depth) (x.entered (.irq src) (s.tcmRead k (x.vectorOff (.irq src)))) (x.irqFrame src pc) := by
  intro k x
  have hflush : x.flushPend = x := by rw [Copy.flushPend, hpend]
  have hlen : (x.irqFrame src pc).length = 16 := by simp [Copy.irqFrame]
  have ht : k / 3 = tr := by unfold k copyIx; omega
  obtain ⟨hue', hce'⟩ := x.entered_irq_errors src (s.tcmRead k (x.vectorOff (.irq src)))
  have hwrite := State.tcmWrite_plain (off := x.frameOff x.depth) (ws := x.irqFrame src pc)
    (State.mirrors_nil hc hphase) (hue'.trans hue) (hce'.trans hce)
  rw [hlen] at hwrite
  unfold State.takeEntry
  dsimp only
  rw [hflush, if_neg (Nat.not_le.mpr hdepth), hue]
  simp only [List.contains_nil, Bool.false_eq_true, if_false]
  rw [ht, State.framed, State.entryPut, ← hwrite]
  rfl

/-- A cleared latch is not pending. -/
theorem Copy.latch_clrLatch_same (c : Copy) (src : Nat) : (c.clrLatch src).latch src = false := by
  simp only [Copy.latch, Copy.clrLatch]
  rw [SMap.get_put, if_pos rfl, bit, getLsbD_setBits _ _ _ _ (Nat.mod_lt src (by decide)), if_pos (by omega)]
  exact Nat.zero_testBit _

/-- A pushed level is the active one (R138). -/
theorem Copy.active_pushLevel (c : Copy) {lvl : Nat} (src : Nat) (h : lvl < 2 ^ 4) :
    bits (c.pushLevel lvl src).icState 0 4 = lvl ∧ bit (c.pushLevel lvl src).icState 4 = true := by
  simp only [Copy.pushLevel]
  constructor
  · rw [bits_setBits_of_disjoint _ _ (by omega), bits_setBits_of_disjoint _ _ (by omega), bits_setBits_of_disjoint _ _ (by omega),
      bits_setBits_mod _ _ (by decide), Nat.mod_eq_of_lt h]
  · rw [bit, getLsbD_setBits _ _ _ _ (by decide), if_neg (by omega), getLsbD_setBits _ _ _ _ (by decide), if_neg (by omega),
      getLsbD_setBits _ _ _ _ (by decide), if_pos (by decide)]
    rfl

/-- The entry of an interrupt: the state of the copy at its handler, with the level pushed and the latch cleared. -/
theorem Copy.entered_irq_eq (c : Copy) (src : Nat) (vec : Word) : ∃ x : Copy, c.entered (.irq src) vec = (x.pushLevel (c.srcLevel src) src).clrLatch src ∧
    x.pc = vec ∧ x.psr = setBits c.psr 8 2 (if c.srcMon src then 2 else max 1 c.priv) ∧ x.cause = 0 ∧
    x.icStk = setBits c.icStk 16 6 (c.depth + 1) ∧ x.g = c.g :=
  ⟨_, rfl, rfl, rfl, rfl, rfl, rfl⟩

/-- What the entry of an interrupt leaves of its copy (R138, R140). -/
theorem Copy.entered_irq {c : Copy} {src lvl : Nat} (vec : Word) (hl : lvl = c.srcLevel src) (hd : c.depth < 32) :
    let y := c.entered (.irq src) vec
    y.pc = vec ∧ y.priv = (if c.srcMon src then 2 else max 1 c.priv) ∧ y.cause = 0 ∧
      bits y.icState 0 4 = lvl ∧ bit y.icState 4 = true ∧ y.latch src = false ∧ y.depth = c.depth + 1 ∧ y.g = c.g := by
  obtain ⟨x, hx, hpc, hpsr, hcause, hstk, hg⟩ := c.entered_irq_eq src vec
  have hpriv : (if c.srcMon src then 2 else max 1 c.priv) < 2 ^ 2 := by
    have : c.priv < 2 ^ 2 := bits_lt _ _ _
    split <;> omega
  obtain ⟨hlevel, hbusy⟩ := x.active_pushLevel (lvl := c.srcLevel src) src (bits_lt _ _ _)
  subst hl
  intro y
  rw [show y = _ from hx]
  refine ⟨hpc, ?_, hcause, hlevel, hbusy, Copy.latch_clrLatch_same _ _, ?_, hg⟩
  · change bits x.psr 8 2 = _
    rw [hpsr, bits_setBits_mod _ _ (by decide), Nat.mod_eq_of_lt hpriv]
  · change bits x.icStk 16 6 = _
    rw [hstk, bits_setBits_mod _ _ (by decide), Nat.mod_eq_of_lt (by omega)]

/-! ### IAU_AGREEMENT of a SPLIT copy (R56, R135, R136) -/

/-- A running SPLIT copy meets its own interrupts. -/
theorem exec_iauAgreement_split {s : State} {w : Who} (hruns : s.triadRuns w.t.val = true) (hg : s.groupMode w.t.val = false)
    (hlive : s.live w.t.val w.c.num = true) (hstatus : (s.copy (copyIx w.t.val w.c.num)).status = .run) :
    exec (.iauAgreement w) s = .next (s.irqSplit w.t.val w.c.num) := by
  change execIauAgreement w s = _
  simp [execIauAgreement, hruns, hg, hlive, State.copyRuns, hstatus]

theorem Copy.sample_run {c : Copy} (h : c.status = .run) : c.waking = false ∧ c.sample c.waking = c.candidate := by
  have hw : c.waking = false := by simp [Copy.waking, h]
  exact ⟨hw, by rw [hw]; rfl⟩

/-- Without a candidate, or between a load and its delay slot, nothing happens. -/
theorem State.irqSplit_none {s : State} {t c : Nat} (hstatus : (s.copy (copyIx t c)).status = .run)
    (h : (s.copy (copyIx t c)).candidate = none ∨ (s.copy (copyIx t c)).slot = true ∨ (s.copy (copyIx t c)).pend ≠ none) : s.irqSplit t c = s := by
  obtain ⟨-, hsample⟩ := Copy.sample_run hstatus
  unfold State.irqSplit
  dsimp only
  rw [hsample]
  split
  · rfl
  next hb =>
    simp only [Copy.atBoundary, Bool.or_eq_true, Bool.not_eq_true', Bool.and_eq_false_iff, Bool.not_eq_false', Bool.not_eq_true, not_or,
      Option.isNone_eq_false_iff] at hb
    rcases h with h | h | h
    · rw [h]
    · simp [h] at hb
    · simp [h] at hb

/-- A candidate that the copy takes: its entry. -/
theorem State.irqSplit_takes {s : State} {t c src lvl : Nat} (hg : s.groupMode t = false) (hstatus : (s.copy (copyIx t c)).status = .run)
    (hidle : s.inAccess t (fun y => decide (y = c)) = false) (hslot : (s.copy (copyIx t c)).slot = false) (hpend : (s.copy (copyIx t c)).pend = none)
    (hs : s.sound (copyIx t c)) (hi : (s.triad t).inject = none) (hd : (s.copy (copyIx t c)).depth < 32)
    (hcand : (s.copy (copyIx t c)).candidate = some (src, lvl)) (htakes : (s.copy (copyIx t c)).takes lvl = true) :
    s.irqSplit t c = s.takeEntry (copyIx t c) (.irq src) (s.copy (copyIx t c)).pc := by
  obtain ⟨hwaking, hsample⟩ := Copy.sample_run hstatus
  have hb : (s.copy (copyIx t c)).atBoundary = true := by simp [Copy.atBoundary, hpend, hslot]
  have hbundles : (s.irqBundles t src [c]).2 = s := by simp [State.irqBundles, State.applyInject, hi]
  have hentry : s.enterAll t [(c, .irq src, (s.copy (copyIx t c)).pc)] = s.takeEntry (copyIx t c) (.irq src) (s.copy (copyIx t c)).pc := by
    unfold State.enterAll
    simp only [List.filter_cons, List.filter_nil, decide_eq_true hd, if_true, List.map_cons, List.map_nil, List.foldl_cons, List.foldl_nil,
      hs.arrayRead, hg, Bool.false_and, Bool.false_eq_true, if_false, State.groupUe, List.any_nil, Bool.not_false]
  unfold State.irqSplit
  dsimp only
  rw [hsample, hcand, hb, hidle]
  dsimp only
  rw [hwaking, htakes, hbundles, hentry]
  rfl

/-- Settles O20: the latches copy by copy, and the entry by the state that it leaves of its copy and the frame that it puts. -/
theorem interruptLatchesAndEntry : Obligations.InterruptLatchesAndEntry := by
  unfold Obligations.InterruptLatchesAndEntry
  refine ⟨fun s k hk => ⟨fun src triads copies => s.latch_set src triads copies hk, fun tr => s.latch_compare tr k⟩, ?_⟩
  intro s w k hruns hg hlive hstatus hidle
  rw [exec_iauAgreement_split hruns hg hlive hstatus]
  refine ⟨fun h => by rw [State.irqSplit_none hstatus h], fun hslot hpend hs hi hphase hd src lvl hcand htakes => ?_⟩
  have hnum : w.c.num < 3 := by cases w.c <;> decide
  have hentry := State.takeEntry_irq src hnum hpend hd hs.ue hs.ce hphase (s.copy k).pc
  rw [State.irqSplit_takes hg hstatus hidle hslot hpend hs hi hd hcand htakes, hentry]
  obtain ⟨hroom, hmod⟩ := (s.copy k).frameOff_room hd
  have hlen : ((s.copy k).irqFrame src (s.copy k).pc).length = 16 := by simp [Copy.irqFrame]
  have hvec : (s.copy k).vectorOff (.irq src) = bits (s.copy k).vectb 12 4 * 0x1000 + 0x400 + 8 * src := (Nat.add_assoc _ _ _).symm
  obtain ⟨hpc, hpriv, hcause, hlvl, hbusy, hlatch, hdepth, hregs⟩ :=
    Copy.entered_irq (s.tcmRead k ((s.copy k).vectorOff (.irq src))) (Copy.highest_level hcand) hd
  have hread {i : Nat} (hi : i < 16) := State.framed_read s w.t.val (k := k)
    ((s.copy k).entered (.irq src) (s.tcmRead k ((s.copy k).vectorOff (.irq src)))) hroom hlen hi
  refine ⟨_, rfl, State.framed_rest s _ _ _ _ _, fun i hi => ?_, ?_, fun j hj => ?_, ?_⟩
  · rw [State.framed_valid s _ _ _ hroom hmod, if_pos (by omega)]
  · rw [State.framed_resv, SMap.get_put, if_pos rfl]
  · rw [State.framed_copy, if_neg hj]
  · rw [State.framed_copy, if_pos rfl]
    obtain ⟨hword0, hword1, hwords⟩ := (s.copy k).irqFrame_words src (s.copy k).pc
    refine ⟨hpc.trans (by rw [hvec]), hpriv, hcause, hlvl, hbusy, hlatch, hdepth, hregs, ?_, ?_, fun i hi => ?_⟩
    · have h := (hread (i := 0) (by decide)).trans hword0
      rwa [Nat.mul_zero, Nat.add_zero] at h
    · rw [Nat.add_assoc (bits _ _ _), ← hword1]
      exact hread (i := 1) (by decide)
    · rw [Nat.add_assoc, show 16 + 8 * i = 8 * (i + 2) by omega, ← hwords i hi]
      exact hread (by omega)

end Sys2Proof.Machine
end

section
/-!
PROOFS. What happens to a triad outside its instructions: resynchronisation, mode transitions, debugging and the watchdog
(Obligations.TriadPhasesAndModes).
-/

namespace Sys2Proof.Machine

/-! ### Fields, bits and the registers of a triad -/

theorem State.rd_congr {s u : State} (h : u.regs = s.regs) (r : Nat) : u.rd r = s.rd r := congrArg (fun m => SMap.get 0 m r) h

theorem State.fget_congr {s u : State} (h : u.regs = s.regs) (r : Nat) (f : Fld) : u.fget r f = s.fget r f := by
  rw [State.fget, State.rd_congr h, State.fget]

theorem State.fget_modTriad (s : State) (t : Nat) (f : Triad → Triad) (r : Nat) (g : Fld) : (s.modTriad t f).fget r g = s.fget r g := rfl

theorem bits_one_iff (w : Word) (i : Nat) : bits w i 1 = 1 ↔ bit w i = true := by
  have hlt : bits w i 1 < 2 ^ 1 := bits_lt _ _ _
  have h := testBit_bits w i 1 0
  rw [Nat.testBit_zero] at h
  have hbit : bit w i = decide (bits w i 1 % 2 = 1) := by simp [bit, h]
  rw [hbit, decide_eq_true_eq]
  omega

theorem bit_setBits_of_disjoint (w : Word) {lo len n : Nat} (v : Nat) (h : n < lo ∨ lo + len ≤ n) : bit (setBits w lo len v) n = bit w n := by
  by_cases hn : n < 64
  · rw [bit, getLsbD_setBits _ _ _ _ hn, if_neg (by omega), bit]
  · rw [bit, bit, BitVec.getLsbD_of_ge _ _ (by omega), BitVec.getLsbD_of_ge _ _ (by omega)]

/-- The status register is none of the triad's others that these commands write. -/
theorem triStatus_ne (t : Nat) : Reg.triStatus t ≠ Reg.triResyncStat t ∧ Reg.triStatus t ≠ Reg.triCommitCount t ∧
    Reg.triStatus t ≠ Reg.triModeReq t ∧ Reg.triModeReq t ≠ Reg.triStatus t ∧ Reg.triModeReq t ≠ Reg.triCommitCount t ∧
    Reg.triResyncStat t ≠ Reg.triStatus t := by
  unfold Reg.triStatus Reg.triResyncStat Reg.triCommitCount Reg.triModeReq
  omega

theorem triStatus_ne_pend {t src : Nat} (h : src < 0x200) : Reg.triStatus t ≠ Reg.fcruPend (src / 64) ∧ Reg.triModeReq t ≠ Reg.fcruPend (src / 64) := by
  unfold Reg.triStatus Reg.triModeReq Reg.fcruPend
  omega

theorem State.live_fset_of_disjoint (s : State) (t c : Nat) {f : Fld} (v : Nat) (h : 2 + c < f.lo ∨ f.lo + f.len ≤ 2 + c) :
    (s.fset (Reg.triStatus t) f v).live t c = s.live t c := by
  unfold State.live
  rw [State.rd_fset, if_pos rfl]
  exact bit_setBits_of_disjoint _ _ h

/-! ### A range of an array copied (R71) -/

/-- A key that no entry has reads as the default. -/
theorem SMap.get_of_not_mem {α : Type} {d : α} {m : SMap α} {i : Nat} (h : ∀ e ∈ m, e.1 ≠ i) : SMap.get d m i = d := by
  induction m with
  | nil => rfl
  | cons e m ih =>
    obtain ⟨k, v⟩ := e
    have hk : i ≠ k := fun hi => h (k, v) List.mem_cons_self hi.symm
    rw [SMap.get, if_neg hk, ih fun e he => h e (List.mem_cons_of_mem _ he)]

/-- Entries put one after the other at shifted keys, read at a shifted key. -/
theorem SMap.get_foldl_put {α : Type} [DecidableEq α] {d : α} {src dst i : Nat} {l : SMap α} (hl : SMap.wf d l = true) (hsrc : ∀ e ∈ l, src ≤ e.1)
    (acc : SMap α) : SMap.get d (l.foldl (fun acc e => SMap.put d acc (e.1 - src + dst) e.2) acc) (dst + i) =
      if SMap.get d l (src + i) = d then SMap.get d acc (dst + i) else SMap.get d l (src + i) := by
  induction l generalizing acc with
  | nil => simp [SMap.get]
  | cons e l ih =>
    obtain ⟨k, v⟩ := e
    obtain ⟨hv, hlt, hl⟩ := SMap.wf_cons.mp hl
    have hk := hsrc (k, v) List.mem_cons_self
    dsimp only at hk
    rw [List.foldl_cons, ih hl (fun e he => hsrc e (List.mem_cons_of_mem _ he)), SMap.get_put, SMap.get]
    by_cases hi : src + i = k
    · have hnone : SMap.get d l (src + i) = d := SMap.get_of_not_mem fun e he => by have := hlt e he; omega
      rw [if_pos hnone, if_pos (by omega), if_pos hi, if_neg hv]
    · rw [if_neg (show ¬ dst + i = k - src + dst by omega), if_neg hi]

/-- A key of the range that was copied to reads as its source did. -/
theorem SMap.get_copyRange {α : Type} [DecidableEq α] {d : α} {m : SMap α} (hm : SMap.wf d m = true) (src dst : Nat) {n i : Nat} (hi : i < n) :
    SMap.get d (SMap.copyRange d m src dst n) (dst + i) = SMap.get d m (src + i) := by
  have hcleared : SMap.get d (SMap.clear m dst n) (dst + i) = d := by
    rw [SMap.clear, SMap.get_filter (fun a => !(decide (dst ≤ a) && decide (a < dst + n)))]
    exact if_neg (by simp [hi])
  have hsource : SMap.get d (m.filter fun e => decide (src ≤ e.1) && decide (e.1 < src + n)) (src + i) = SMap.get d m (src + i) := by
    rw [SMap.get_filter (fun a => decide (src ≤ a) && decide (a < src + n))]
    exact if_pos (by simp [hi])
  have hfrom : ∀ e ∈ m.filter fun e => decide (src ≤ e.1) && decide (e.1 < src + n), src ≤ e.1 := fun e he => by
    have := (List.mem_filter.mp he).2
    simp only [Bool.and_eq_true, decide_eq_true_eq] at this
    exact this.1
  rw [SMap.copyRange, SMap.get_foldl_put (SMap.filter_wf hm) hfrom, hsource, hcleared]
  split
  next h => exact h.symm
  next => rfl

/-! ### The arrays, and the whole state, of a source copied (R71, R72) -/

/-- A copy with the arrays of a source. -/
def Copy.withArrays (x a : Copy) : Copy :=
  { x with tlb := a.tlb, tlbPtr := a.tlbPtr, icache := a.icache, dcache := a.dcache, lru := a.lru, btb := a.btb, ue := [], ce := [] }

/-- A copy with fresh codes in its arrays. -/
def Copy.freshCodes (c : Copy) : Copy := { c with ue := [], ce := [] }

theorem Copy.freshCodes_of_sound {c : Copy} (hue : c.ue = []) (hce : c.ce = []) : c.freshCodes = c := by
  cases c
  cases hue
  cases hce
  rfl

/-- From a source without correctable words, the arrays are copied as they stand. -/
theorem State.copyArrays_sound {s : State} {src : Nat} (hce : (s.copy src).ce = []) (dst : Nat) : ∃ m p,
    s.copyArrays src dst = State.modCopy { s with mem := m, prot := p } dst (fun x => x.withArrays (s.copy src)) ∧
      m = SMap.copyRange memDefault s.mem (tcmAddr src 0) (tcmAddr dst 0) 0x10000 := by
  unfold State.copyArrays
  rw [hce]
  exact ⟨_, _, rfl, rfl⟩

theorem State.copy_copyArrays {s : State} {src : Nat} (hce : (s.copy src).ce = []) (dst j : Nat) :
    (s.copyArrays src dst).copy j = if j = dst then (s.copy dst).withArrays (s.copy src) else s.copy j := by
  obtain ⟨m, p, h, -⟩ := State.copyArrays_sound hce dst
  rw [h]
  exact State.copy_setCopy _ _ _ _

theorem State.copyArrays_bytes {s : State} {src : Nat} (hce : (s.copy src).ce = []) (dst : Nat) (hm : Memory.wf s.mem) {o : Nat} (ho : o < 0x10000) :
    (s.copyArrays src dst).byte (tcmAddr dst o) = s.byte (tcmAddr src o) := by
  obtain ⟨m, p, h, hmem⟩ := State.copyArrays_sound hce dst
  have hat (k : Nat) : tcmAddr k o = tcmAddr k 0 + o := by unfold tcmAddr; omega
  rw [h, hat, hat]
  change SMap.get memDefault m _ = SMap.get memDefault s.mem _
  rw [hmem, SMap.get_copyRange hm _ _ ho]

/-- From a sound source, another copy becomes the source's equal. -/
theorem State.copy_copyWhole {s : State} {src dst : Nat} (hue : (s.copy src).ue = []) (hce : (s.copy src).ce = []) (hne : src ≠ dst) (j : Nat) :
    (s.copyWhole src dst).copy j = if j = dst then s.copy src else s.copy j := by
  have hcopy := State.copy_copyArrays hce dst
  have hwhole : (s.copyWhole src dst).copy j = if j = dst then ((s.copyArrays src dst).copy src).freshCodes else (s.copyArrays src dst).copy j :=
    State.copy_setCopy _ _ _ _
  rw [hwhole, hcopy, if_neg hne, Copy.freshCodes_of_sound hue hce]
  split
  next => rfl
  next hj => rw [hcopy, if_neg hj]

/-! ### The phases of a resynchronisation (R70 to R74) -/

theorem State.fget_setPhase (s : State) (t : Nat) {n : Nat} (h : n < 8) : (s.setPhase t n).fget (Reg.triStatus t) Reg.triStatus_RESYNC_PHASE = n := by
  rw [State.setPhase, State.fget_fset _ _ _ (by decide)]
  exact Nat.mod_eq_of_lt h

theorem State.sourceBad_of_sound {s : State} {t : Nat} (h : (s.copy (copyIx t (s.leader t))).ue = []) : s.sourceBad t = false := by
  rw [State.sourceBad, h]
  rfl

theorem copyIx_ne {t c d : Nat} (h : c ≠ d) : copyIx t c ≠ copyIx t d := by
  unfold copyIx
  omega

/-- The copy phase ends: the one copy that is rebuilt takes the source's arrays (R71). -/
theorem State.resyncCopy_ends {s : State} {t : Fin 16} {c : Nat} (hrb : (s.triad t.val).rebuild = [c])
    (htr : (s.triad t.val).trans = none) (hue : (s.copy (copyIx t.val (s.leader t.val))).ue = [])
    (hce : (s.copy (copyIx t.val (s.leader t.val))).ce = []) (hph : s.tri t.val Reg.triStatus_RESYNC_PHASE = 1) (hm : Memory.wf s.mem) :
    let k := copyIx t.val c
    let src := copyIx t.val (s.leader t.val)
    ∃ u, exec (.resyncCopyDone t) s = .next u ∧ u.fget (Reg.triStatus t.val) Reg.triStatus_RESYNC_PHASE = 2 ∧
      u.copy k = (s.copy k).withArrays (s.copy src) ∧ (∀ o < 0x10000, u.byte (tcmAddr k o) = s.byte (tcmAddr src o)) ∧
      (∀ j, j ≠ k → u.copy j = s.copy j) := by
  intro k src
  have hcopy := State.copy_copyArrays hce k
  refine ⟨(s.copyArrays src k).setPhase t.val 2, ?_, State.fget_setPhase _ _ (by decide), (hcopy k).trans (if_pos rfl),
    fun o ho => State.copyArrays_bytes hce k hm ho, fun j hj => (hcopy j).trans (if_neg hj)⟩
  change execResyncCopyDone t s = _
  simp [execResyncCopyDone, hph, htr, State.sourceBad_of_sound hue, hrb, k, src]

/-- Without a latent difference of the signatures, the verification finds none (R73). -/
theorem State.sigTake_none {s : State} {t : Nat} (h : t ∉ s.latent.sig) : s.sigTake t = (false, s) := by
  rw [State.sigTake, List.erase_of_not_mem h]
  simp [h]

/-- No copy waits within an instruction, and no access is in progress. -/
theorem State.midInstr_none {s : State} {t : Nat} (ha : s.inAccess t (fun _ => true) = false)
    (h : ∀ c < 3, (s.copy (copyIx t c)).status ≠ .cop ∧ ∀ cls, (s.copy (copyIx t c)).status ≠ .agree cls) : s.midInstr t = false := by
  rw [State.midInstr, ha, Bool.false_or, List.any_eq_false]
  intro c hc
  have hc3 : c < 3 := by
    have := (List.mem_filter.mp hc).1
    simp only [List.mem_cons, List.not_mem_nil, or_false] at this
    omega
  obtain ⟨hcop, hagree⟩ := h c hc3
  split
  next he => exact absurd he hcop
  next cls he => exact absurd he (hagree cls)
  next => simp

/-- RESYNC_PAUSE at its phase, between two instructions of a sound source. -/
theorem exec_resyncPause {s : State} {t : Fin 16} (sigOk : Bool) (htr : (s.triad t.val).trans = none)
    (hue : (s.copy (copyIx t.val (s.leader t.val))).ue = []) (hsig : t.val ∉ s.latent.sig) (hph : s.tri t.val Reg.triStatus_RESYNC_PHASE = 2)
    (hmid : s.midInstr t.val = false) : exec (.resyncPause t sigOk) s = .next (if sigOk then
      ((s.triad t.val).rebuild.foldl (fun u c => u.copyWhole (copyIx t.val (s.leader t.val)) (copyIx t.val c)) s).setPhase t.val 3
      else s.resyncAbandon t.val true) := by
  change execResyncPause t sigOk s = _
  unfold execResyncPause
  dsimp only
  rw [State.sigTake_none hsig]
  simp [hph, htr, hmid, State.sourceBad_of_sound hue]
  cases sigOk <;> rfl

/-- The pause transfers the source's state (R72). -/
theorem State.resyncPause_transfers {s : State} {t : Fin 16} {c : Nat} (hc : c ≠ s.leader t.val) (hrb : (s.triad t.val).rebuild = [c])
    (htr : (s.triad t.val).trans = none) (hue : (s.copy (copyIx t.val (s.leader t.val))).ue = [])
    (hce : (s.copy (copyIx t.val (s.leader t.val))).ce = []) (hsig : t.val ∉ s.latent.sig) (hph : s.tri t.val Reg.triStatus_RESYNC_PHASE = 2)
    (hmid : s.midInstr t.val = false) : ∃ u, exec (.resyncPause t true) s = .next u ∧
      u.fget (Reg.triStatus t.val) Reg.triStatus_RESYNC_PHASE = 3 ∧ u.copy (copyIx t.val c) = s.copy (copyIx t.val (s.leader t.val)) ∧
      (∀ j, j ≠ copyIx t.val c → u.copy j = s.copy j) := by
  have hcopy := State.copy_copyWhole hue hce (copyIx_ne hc.symm)
  rw [exec_resyncPause true htr hue hsig hph hmid, hrb]
  exact ⟨_, rfl, State.fget_setPhase _ _ (by decide), (hcopy _).trans (if_pos rfl), fun j hj => (hcopy j).trans (if_neg hj)⟩

/-- RESYNC_BUSY and RESYNC_PHASE at rest. -/
def State.resyncIdle (s : State) (t : Nat) : State := (s.fset (Reg.triStatus t) Reg.triStatus_RESYNC_BUSY 0).fset (Reg.triStatus t) Reg.triStatus_RESYNC_PHASE 0

theorem State.resyncIdle_busy (s : State) (t : Nat) : (s.resyncIdle t).fget (Reg.triStatus t) Reg.triStatus_RESYNC_BUSY = 0 := by
  rw [State.resyncIdle, State.fget_fset_of_disjoint _ _ _ (by decide), State.fget_fset _ _ _ (by decide)]
  rfl

theorem State.resyncIdle_live (s : State) (t : Nat) {c : Nat} (hc : c < 3) : (s.resyncIdle t).live t c = s.live t c := by
  rw [State.resyncIdle, State.live_fset_of_disjoint _ _ _ _ (Or.inl (show 2 + c < 13 by omega)),
    State.live_fset_of_disjoint _ _ _ _ (Or.inl (show 2 + c < 8 by omega))]

/-- A resynchronisation of a triad abandoned, but for RESYNC_FAIL. -/
def State.abandoned (s : State) (t : Nat) (fail : Bool) : State :=
  ((s.resyncIdle t).fsat (Reg.triResyncStat t) Reg.triResyncStat_FAILED 1).modTriad t
    fun x => { x with rebuild := [], trans := none, resyncBad := x.resyncBad || fail }

theorem State.resyncAbandon_eq (s : State) (t : Nat) (fail : Bool) : s.resyncAbandon t fail =
    if s.resyncBusy t then (if fail then (s.abandoned t fail).raise (srcRESYNC_FAIL t) else s.abandoned t fail) else s := rfl

theorem State.abandoned_rd (s : State) (t : Nat) (fail : Bool) : (s.abandoned t fail).rd (Reg.triStatus t) = (s.resyncIdle t).rd (Reg.triStatus t) :=
  State.rd_fset_of_ne _ _ _ (triStatus_ne t).1

theorem State.abandoned_busy (s : State) (t : Nat) (fail : Bool) : (s.abandoned t fail).fget (Reg.triStatus t) Reg.triStatus_RESYNC_BUSY = 0 := by
  rw [State.fget, State.abandoned_rd]
  exact s.resyncIdle_busy t

theorem State.triad_modTriad (s : State) (t : Nat) (f : Triad → Triad) : (s.modTriad t f).triad t = f (s.triad t) := SMap.get_put.trans (if_pos rfl)

/-- RESYNC_FAIL ends a resynchronisation whose signatures differ (R73). -/
theorem State.resyncAbandon_fails {s : State} {t : Nat} (ht : t < 16) (hb : s.resyncBusy t = true) :
    (s.resyncAbandon t true).resyncBusy t = false ∧ ((s.resyncAbandon t true).triad t).resyncBad = true ∧
      (s.resyncAbandon t true).detected.map (·.src) = s.detected.map (·.src) ++ [0x10 * t + 3] := by
  have hpend := (triStatus_ne_pend (t := t) (src := srcRESYNC_FAIL t) (by unfold srcRESYNC_FAIL; omega)).1
  rw [State.resyncAbandon_eq, if_pos hb, if_pos rfl]
  refine ⟨?_, ?_, State.raise_detected_src _ _⟩
  · rw [State.resyncBusy, State.tri, State.fget_raise_of_ne _ _ hpend, State.abandoned_busy]
    rfl
  · rw [show ((s.abandoned t true).raise (srcRESYNC_FAIL t)).triad t = (s.abandoned t true).triad t from rfl, State.abandoned, State.triad_modTriad]
    exact Bool.or_true _

/-- A debugger's attach abandons a resynchronisation without RESYNC_FAIL (R74). -/
theorem State.resyncAbandon_quiet (s : State) (t : Nat) : (s.resyncAbandon t false).resyncBusy t = false ∧
    (∀ c < 3, (s.resyncAbandon t false).live t c = s.live t c) ∧ ((s.resyncAbandon t false).triad t).released = (s.triad t).released ∧
      (s.resyncAbandon t false).detected = s.detected := by
  rw [State.resyncAbandon_eq]
  cases hb : s.resyncBusy t
  · exact ⟨hb, fun _ _ => rfl, rfl, rfl⟩
  · rw [if_pos rfl, if_neg Bool.false_ne_true]
    refine ⟨?_, fun c hc => ?_, by rw [State.abandoned, State.triad_modTriad]; rfl, rfl⟩
    · rw [State.resyncBusy, State.tri, State.abandoned_busy]
      rfl
    · rw [← State.resyncIdle_live s t hc, State.live, State.abandoned_rd, State.live]

/-- The counting of a completed resynchronisation (TRI_RESYNC_STAT). -/
theorem State.countResync_counts (s : State) (t : Nat) :
    (s.countResync t).fget (Reg.triResyncStat t) Reg.triResyncStat_DONE = min 0xFFFF (s.fget (Reg.triResyncStat t) Reg.triResyncStat_DONE + 1) ∧
      (s.countResync t).rd (Reg.triStatus t) = s.rd (Reg.triStatus t) ∧ (s.countResync t).triads = s.triads := by
  obtain ⟨hne, -⟩ := triStatus_ne t
  refine ⟨?_, ?_, rfl⟩
  · refine (State.fget_fsat _ _ (by decide)).trans ?_
    rw [State.fget_fset_of_disjoint _ _ _ (by decide), State.fget_fset_of_disjoint _ _ _ (by decide)]
    rfl
  · unfold State.countResync State.fsat
    dsimp only
    rw [State.rd_fset_of_ne _ _ _ hne, State.rd_fset_of_ne _ _ _ hne, State.rd_fset_of_ne _ _ _ hne]
    rfl

theorem State.rejoin_live (s : State) (t : Nat) {c : Nat} (hc : c < 3) : (s.rejoin t [c]).live t c = true := by
  have hbit : bit (setBits (s.rd (Reg.triStatus t)) (2 + c) 1 1) (2 + c) = true := by
    rw [bit, getLsbD_setBits _ _ _ _ (by omega), if_pos (by omega), Nat.sub_self]
    rfl
  change bit (State.rd (State.wr s _ (setBits (setBits _ (2 + c) 1 1) (5 + c) 1 0)) _) (2 + c) = true
  rw [State.rd_wr, if_pos rfl, bit_setBits_of_disjoint _ _ (by omega), hbit]

/-- The phase and the busy bit of a resynchronisation, or of a mode transition, that is done. -/
def State.resyncEnds (s : State) (t : Nat) : State := (s.setPhase t 0).fset (Reg.triStatus t) Reg.triStatus_RESYNC_BUSY 0

theorem State.resyncEnds_live (s : State) (t : Nat) {c : Nat} (hc : c < 3) : (s.resyncEnds t).live t c = s.live t c := by
  rw [State.resyncEnds, State.live_fset_of_disjoint _ _ _ _ (Or.inl (show 2 + c < 8 by omega)), State.setPhase,
    State.live_fset_of_disjoint _ _ _ _ (Or.inl (show 2 + c < 13 by omega))]

theorem State.resyncEnds_fields (s : State) (t : Nat) : (s.resyncEnds t).fget (Reg.triStatus t) Reg.triStatus_RESYNC_BUSY = 0 ∧
    (s.resyncEnds t).fget (Reg.triStatus t) Reg.triStatus_RESYNC_PHASE = 0 := by
  rw [State.resyncEnds, State.fget_fset _ _ _ (by decide), State.fget_fset_of_disjoint _ _ _ (by decide), State.fget_setPhase _ _ (by decide)]
  exact ⟨rfl, rfl⟩

/-- The rebuilt copy joins the compared set (R70). -/
theorem State.resyncRejoin_joins {s : State} {t : Fin 16} {c : Nat} (hc : c < 3) (hrb : (s.triad t.val).rebuild = [c])
    (htr : (s.triad t.val).trans = none) (hph : s.tri t.val Reg.triStatus_RESYNC_PHASE = 3) :
    ∃ u, exec (.resyncRejoin t) s = .next u ∧ u.live t.val c = true ∧ u.resyncBusy t.val = false ∧
      u.fget (Reg.triStatus t.val) Reg.triStatus_RESYNC_PHASE = 0 ∧
      u.fget (Reg.triResyncStat t.val) Reg.triResyncStat_DONE = min 0xFFFF (s.fget (Reg.triResyncStat t.val) Reg.triResyncStat_DONE + 1) := by
  obtain ⟨-, -, -, -, -, hne⟩ := triStatus_ne t.val
  have hrun : exec (.resyncRejoin t) s =
      .next ((((s.rejoin t.val [c]).resyncEnds t.val).modTriad t.val fun x => { x with rebuild := [] }).countResync t.val) := by
    change execResyncRejoin t s = _
    simp [execResyncRejoin, hph, htr, hrb, State.resyncEnds]
  obtain ⟨hdone, hrd, -⟩ := State.countResync_counts (((s.rejoin t.val [c]).resyncEnds t.val).modTriad t.val fun x => { x with rebuild := [] }) t.val
  replace hrd := hrd.trans (State.rd_congr (s := (s.rejoin t.val [c]).resyncEnds t.val) rfl _)
  obtain ⟨hbusy, hphase⟩ := (s.rejoin t.val [c]).resyncEnds_fields t.val
  refine ⟨_, hrun, ?_, ?_, ?_, hdone.trans ?_⟩
  · rw [State.live, hrd, ← State.live, State.resyncEnds_live _ _ hc, State.rejoin_live _ _ hc]
  · rw [State.resyncBusy, State.tri, State.fget, hrd, ← State.fget, hbusy]
    rfl
  · rw [State.fget, hrd, ← State.fget, hphase]
  · rw [State.fget_modTriad, State.resyncEnds, State.fget_fset_of_ne _ _ _ _ hne, State.setPhase,
      State.fget_fset_of_ne _ _ _ _ hne, State.rejoin, List.foldl_cons, List.foldl_nil, State.fget_wr_of_ne _ _ _ hne]

/-! ### The barrier's timeout (R78, R80) -/

/-- Waiting copies go on; the status register's other fields, the detections and the triads stay. -/
theorem State.finishMsyncs_rest (s : State) (t st : Nat) : (s.finishMsyncs t st).detected = s.detected ∧ (s.finishMsyncs t st).triads = s.triads ∧
    (∀ c < 3, (s.finishMsyncs t st).copy (copyIx t c) = (s.copy (copyIx t c)).finishMsync st) ∧
    (s.finishMsyncs t st).rd (Reg.triStatus t) = setBits (s.rd (Reg.triStatus t)) 11 1 0 := by
  obtain ⟨-, hne, -⟩ := triStatus_ne t
  have hframe := State.forCopies_frame (s.fadd (Reg.triCommitCount t) Reg.triCommitCount_COUNT 1) t [0, 1, 2] (·.finishMsync st)
  unfold State.finishMsyncs
  dsimp only
  refine ⟨?_, ?_, fun c hc => ?_, ?_⟩
  · rw [hframe]
    rfl
  · rw [hframe]
    rfl
  · refine (State.copy_forCopies _ t _ (by decide) (by decide) _).trans (if_pos ?_)
    simp only [List.mem_cons, List.not_mem_nil, or_false]
    unfold copyIx
    omega
  · rw [State.rd_fset, if_pos rfl, hframe]
    exact congrArg (setBits · 11 1 0) (State.rd_fset_of_ne s _ _ hne)

/-- A copy that waits at MSYNC completes it (R80). -/
theorem Copy.finishMsync_waiting {x : Copy} {d : RegNo} {half : Bool} (h : x.status = .msync d half) (st : Nat) : x.finishMsync st =
    { (x.setReg d (BitVec.ofNat 64 st)).flushPend with
      pc := x.pc + (if half then 2 else 4), slot := false, instret := x.instret + 1, cycle := x.cycle + 4, status := .run } := by
  have hset : (x.setReg d (BitVec.ofNat 64 st)).instret = x.instret ∧ (x.setReg d (BitVec.ofNat 64 st)).cycle = x.cycle := by
    unfold Copy.setReg
    split <;> exact ⟨rfl, rfl⟩
  unfold Copy.finishMsync
  rw [h]
  dsimp only
  rw [Copy.flushPend_frame, hset.1, hset.2]

theorem Copy.finishMsync_other {x : Copy} (h : ∀ d half, x.status ≠ .msync d half) (st : Nat) : x.finishMsync st = x := by
  unfold Copy.finishMsync
  split
  next d half he => exact absurd he (h d half)
  next => rfl

/-- The barrier's timeout. -/
theorem State.msyncTimeout_ends {s : State} {t : Fin 16} (hmode : s.mode t.val = 2) (hwait : s.tri t.val Reg.triStatus_MSYNC_WAIT = 1)
    (htr : (s.triad t.val).trans = none) (hdue : 1000 * s.fget (Reg.triMsyncTmo t.val) Reg.triMsyncTmo_TMO ≤ s.ticks - (s.triad t.val).msyncFrom) :
    ∃ u, exec (.msyncTimeout t) s = .next u ∧ bit (u.rd (Reg.triStatus t.val)) 11 = false ∧ u.mode t.val = 2 ∧
      u.fget (Reg.triModeReq t.val) Reg.triModeReq_ARM = 0 ∧ u.detected.map (·.src) = s.detected.map (·.src) ++ [0x10 * t.val + 9] ∧
      ∀ c < 3, u.copy (copyIx t.val c) = (s.copy (copyIx t.val c)).finishMsync 3 := by
  obtain ⟨hdet, -, hcopy, hrd⟩ := s.finishMsyncs_rest t.val 3
  obtain ⟨-, -, hne, -⟩ := triStatus_ne t.val
  obtain ⟨hpend, hpend'⟩ := triStatus_ne_pend (t := t.val) (src := srcMODE_SWITCH_ILLEGAL t.val) (by unfold srcMODE_SWITCH_ILLEGAL; omega)
  have hrun : exec (.msyncTimeout t) s = .next ((s.finishMsyncs t.val 3).refuseMode t.val) := by
    change execMsyncTimeout t s = _
    simp [execMsyncTimeout, hmode, hwait, htr, hdue]
  have hstatus : ((s.finishMsyncs t.val 3).refuseMode t.val).rd (Reg.triStatus t.val) = setBits (s.rd (Reg.triStatus t.val)) 11 1 0 := by
    rw [State.refuseMode, State.rd_raise_of_ne _ hpend, State.disarm, State.rd_fset_of_ne _ _ _ hne, hrd]
  refine ⟨_, hrun, ?_, ?_, ?_, ?_, hcopy⟩
  · rw [hstatus, bit, getLsbD_setBits _ _ _ _ (by decide), if_pos (by decide)]
    rfl
  · rw [State.mode, State.fget, hstatus, ← hmode]
    exact bits_setBits_of_disjoint _ _ (by decide)
  · rw [State.refuseMode, State.fget_raise_of_ne _ _ hpend', State.disarm, State.fget_fset _ _ _ (by decide)]
    rfl
  · refine (State.raise_detected_src _ _).trans ?_
    rw [State.disarm, show ((s.finishMsyncs t.val 3).fset _ _ _).detected = (s.finishMsyncs t.val 3).detected from rfl, hdet]
    rfl

/-! ### The end of a mode transition (R79) -/

/-- The fields of a triad that has entered a mode. -/
theorem State.enterMode_fields (s : State) (t : Nat) {tgt : Nat} (h : tgt < 3) (sp : Bool) :
    (s.enterMode t tgt sp).mode t = tgt ∧ (s.enterMode t tgt sp).fget (Reg.triStatus t) Reg.triStatus_LIVE = (if tgt = 1 then 3 else 7) ∧
      (s.enterMode t tgt sp).fget (Reg.triStatus t) Reg.triStatus_ISOLATED = 0 ∧
      (s.enterMode t tgt sp).fget (Reg.triStatus t) Reg.triStatus_RESYNC_BUSY = s.fget (Reg.triStatus t) Reg.triStatus_RESYNC_BUSY ∧
      (s.enterMode t tgt sp).triads = s.triads := by
  have hrd : (s.enterMode t tgt sp).rd (Reg.triStatus t) =
      setBits (setBits (setBits (setBits (s.rd (Reg.triStatus t)) 0 2 tgt) 2 3 (if tgt = 1 then 3 else 7)) 5 3 0) 9 1 (b2n (decide (tgt = 1) && sp)) := by
    unfold State.enterMode
    dsimp only
    split <;> exact (State.rd_wr _ _ _ _).trans (if_pos rfl)
  simp only [State.mode, State.fget, hrd]
  refine ⟨?_, ?_, ?_, ?_, ?_⟩
  · change bits (setBits (setBits _ _ _ _) _ _ _) 0 2 = _
    rw [bits_setBits_of_disjoint _ _ (by decide), bits_setBits_of_disjoint _ _ (by decide), bits_setBits_of_disjoint _ _ (by decide),
      bits_setBits_mod _ _ (by decide), Nat.mod_eq_of_lt (by omega)]
  · change bits (setBits (setBits _ _ _ _) _ _ _) 2 3 = _
    rw [bits_setBits_of_disjoint _ _ (by decide), bits_setBits_of_disjoint _ _ (by decide), bits_setBits_mod _ _ (by decide),
      Nat.mod_eq_of_lt (by split <;> decide)]
  · change bits (setBits (setBits _ _ _ _) _ _ _) 5 3 = _
    rw [bits_setBits_of_disjoint _ _ (by decide), bits_setBits_mod _ _ (by decide), Nat.zero_mod]
  · change bits (setBits (setBits _ _ _ _) _ _ _) 8 1 = bits _ 8 1
    rw [bits_setBits_of_disjoint _ _ (by decide), bits_setBits_of_disjoint _ _ (by decide), bits_setBits_of_disjoint _ _ (by decide),
      bits_setBits_of_disjoint _ _ (by decide)]
  · unfold State.enterMode
    dsimp only
    split <;> rfl

/-- A mode transition from a sound source. -/
theorem State.modeTransition_enters {s : State} {t : Fin 16} {tgt : Nat} {sp : Bool} (htr : (s.triad t.val).trans = some (tgt, sp)) (htgt : tgt < 3)
    (hue : (s.copy (copyIx t.val (s.leader t.val))).ue = [])
    (hsig : t.val ∉ s.latent.sig) : ∃ u, exec (.modeTransitionDone t) s = .next u ∧ u.mode t.val = tgt ∧
      u.fget (Reg.triStatus t.val) Reg.triStatus_LIVE = (if tgt = 1 then 3 else 7) ∧ u.fget (Reg.triStatus t.val) Reg.triStatus_ISOLATED = 0 ∧
      u.resyncBusy t.val = false ∧ (u.triad t.val).trans = none := by
  have hrun : exec (.modeTransitionDone t) s = .next ((((((((s.triad t.val).rebuild.foldl
      (fun u c => u.copyWhole (copyIx t.val (s.leader t.val)) (copyIx t.val c)) s).resyncEnds t.val).modTriad t.val
        fun x => { x with rebuild := [], trans := none }).countResync t.val).finishMsyncs t.val 0).enterMode t.val tgt
          (sp && ((s.triad t.val).rebuild.contains 2 || s.live t.val 2)))) := by
    change execModeTransitionDone t s = _
    unfold execModeTransitionDone
    dsimp only
    rw [htr]
    dsimp only
    rw [State.sigTake_none hsig]
    simp only [State.sourceBad_of_sound hue, Bool.or_self, Bool.false_eq_true, if_false]
    rfl
  generalize (s.triad t.val).rebuild.foldl (fun u c => u.copyWhole (copyIx t.val (s.leader t.val)) (copyIx t.val c)) s = x at hrun
  obtain ⟨hmode, hlive, hiso, hbusy, htriads⟩ := State.enterMode_fields ((((x.resyncEnds t.val).modTriad t.val
    fun x => { x with rebuild := [], trans := none }).countResync t.val).finishMsyncs t.val 0) t.val htgt
      (sp && ((s.triad t.val).rebuild.contains 2 || s.live t.val 2))
  obtain ⟨-, hkeep, -, hrd⟩ := State.finishMsyncs_rest (((x.resyncEnds t.val).modTriad t.val
    fun x => { x with rebuild := [], trans := none }).countResync t.val) t.val 0
  obtain ⟨-, hcount, hkeep'⟩ := State.countResync_counts ((x.resyncEnds t.val).modTriad t.val fun x => { x with rebuild := [], trans := none }) t.val
  refine ⟨_, hrun, hmode, hlive, hiso, ?_, ?_⟩
  · rw [State.resyncBusy, State.tri, hbusy, State.fget, hrd, hcount]
    change decide (bits (setBits _ 11 1 0) 8 1 = 1) = false
    rw [bits_setBits_of_disjoint _ _ (by decide)]
    exact congrArg (fun n => decide (n = 1)) (x.resyncEnds_fields t.val).1
  · rw [State.triad, htriads, hkeep, hkeep', ← State.triad, State.triad_modTriad]

/-! ### Debugging and the watchdog (R81 to R83) -/

/-- The copies of a triad while a debugger attaches: a spare is held, and a copy that waits at MSYNC goes on. -/
def State.debugCopies (s : State) (t : Nat) (held : List Nat) : State :=
  let s := s.forCopies t held fun c => { c with status := .held }
  s.forCopies t (s.liveCopies t) fun c => match c.status with
    | .msync _ _ => { c with status := .run }
    | _ => c

/-- TRI_STATUS of a triad that a debugger holds (R81). -/
def State.debugStatus (s : State) (t : Nat) : Word :=
  setBits (setBits (setBits (setBits (s.rd (Reg.triStatus t)) Reg.triStatus_MODE.lo 2 3) Reg.triStatus_DBG_BROKEN.lo 1 1)
    Reg.triStatus_SPARE_RUN.lo 1 0) Reg.triStatus_MSYNC_WAIT.lo 1 0

/-- The state after a debugger has attached to a copy. -/
def State.debugAttached (s : State) (t c : Nat) : State :=
  let held := (s.executing t).filter fun c => !s.live t c
  let x := ((s.resyncAbandon t false).modTriad t fun x => { x with trans := none, rebuild := [] }).debugCopies t held
  let y := if x.live t c || !(x.triad t).released then x.modCopy (copyIx t c) fun c => { c with status := .dbg } else x
  (y.wr (Reg.triStatus t) (y.debugStatus t)).raise (srcDEBUG_LOCKSTEP_BREAK t)

theorem exec_debugAttach {s : State} {w : Who} (ha : s.attachOk = true) (hg : s.gateCause dbgReq = none) :
    exec (.debugAttach w) s = .next (s.debugAttached w.t.val w.c.num) := by
  have hdenies : s.gateDenies dbgReq = none := by rw [State.gateDenies, hg]; rfl
  change execDebugAttach w s = _
  unfold execDebugAttach
  dsimp only
  rw [ha, if_neg (by decide), hdenies]
  rfl

theorem State.debugCopies_rest (s : State) (t : Nat) (held : List Nat) :
    (s.debugCopies t held).regs = s.regs ∧ (s.debugCopies t held).triads = s.triads ∧ (s.debugCopies t held).detected = s.detected := by
  unfold State.debugCopies
  dsimp only
  rw [State.forCopies_frame, State.forCopies_frame s]
  exact ⟨rfl, rfl, rfl⟩

/-- The fields of TRI_STATUS that an attach writes and leaves. -/
theorem State.debugStatus_fields (s : State) (t : Nat) :
    bits (s.debugStatus t) 0 2 = 3 ∧ bits (s.debugStatus t) 10 1 = 1 ∧ bits (s.debugStatus t) 8 1 = bits (s.rd (Reg.triStatus t)) 8 1 := by
  have h : s.debugStatus t = setBits (setBits (setBits (setBits (s.rd (Reg.triStatus t)) 0 2 3) 10 1 1) 9 1 0) 11 1 0 := rfl
  rw [h]
  refine ⟨?_, ?_, ?_⟩
  · rw [bits_setBits_of_disjoint _ _ (by decide), bits_setBits_of_disjoint _ _ (by decide), bits_setBits_of_disjoint _ _ (by decide),
      bits_setBits _ (by decide) (by decide)]
  · rw [bits_setBits_of_disjoint _ _ (by decide), bits_setBits_of_disjoint _ _ (by decide), bits_setBits _ (by decide) (by decide)]
  · rw [bits_setBits_of_disjoint _ _ (by decide), bits_setBits_of_disjoint _ _ (by decide), bits_setBits_of_disjoint _ _ (by decide),
      bits_setBits_of_disjoint _ _ (by decide)]

/-- Attached to a live copy, or before the release (R81, R82). -/
theorem State.debugAttached_holds {s : State} {t c : Nat} (ht : t < 16) (hc : c < 3) (h : s.live t c = true ∨ (s.triad t).released = false) :
    (s.debugAttached t c).mode t = 3 ∧ (s.debugAttached t c).fget (Reg.triStatus t) Reg.triStatus_DBG_BROKEN = 1 ∧
      (s.debugAttached t c).resyncBusy t = false ∧ ((s.debugAttached t c).copy (copyIx t c)).status = .dbg ∧
      (s.debugAttached t c).detected.map (·.src) = s.detected.map (·.src) ++ [0x10 * t + 4] := by
  obtain ⟨hbusy, hlive, hrel, hdet⟩ := s.resyncAbandon_quiet t
  have hpend := (triStatus_ne_pend (t := t) (src := srcDEBUG_LOCKSTEP_BREAK t) (by unfold srcDEBUG_LOCKSTEP_BREAK; omega)).1
  obtain ⟨hxregs, hxtriads, hxdet⟩ := State.debugCopies_rest ((s.resyncAbandon t false).modTriad t fun x => { x with trans := none, rebuild := [] }) t
    ((s.executing t).filter fun c => !s.live t c)
  unfold State.debugAttached
  dsimp only
  generalize State.debugCopies _ t _ = x at hxregs hxtriads hxdet ⊢
  have hxrd : x.rd (Reg.triStatus t) = (s.resyncAbandon t false).rd (Reg.triStatus t) := State.rd_congr hxregs _
  have hholds : (x.live t c || !(x.triad t).released) = true := by
    have hxlive : x.live t c = s.live t c := by rw [State.live, hxrd, ← hlive c hc, State.live]
    have hxrel : (x.triad t).released = (s.triad t).released := by
      rw [State.triad, hxtriads, ← State.triad, State.triad_modTriad]
      exact hrel
    rw [hxlive, hxrel]
    rcases h with h | h <;> simp [h]
  rw [if_pos hholds]
  obtain ⟨hmode, hbroken, hsame⟩ := (x.modCopy (copyIx t c) fun c => { c with status := .dbg }).debugStatus_fields t
  generalize State.debugStatus _ t = word at hmode hbroken hsame ⊢
  have hrd : ((State.wr (x.modCopy (copyIx t c) fun c => { c with status := .dbg }) (Reg.triStatus t) word).raise (srcDEBUG_LOCKSTEP_BREAK t)).rd
      (Reg.triStatus t) = word :=
    (State.rd_raise_of_ne _ hpend).trans ((State.rd_wr _ _ _ _).trans (if_pos rfl))
  refine ⟨?_, ?_, ?_, ?_, ?_⟩
  · rw [State.mode, State.fget, hrd]
    exact hmode
  · rw [State.fget, hrd]
    exact hbroken
  · rw [← hbusy, State.resyncBusy, State.tri, State.fget, hrd, State.resyncBusy, State.tri, State.fget, ← hxrd]
    exact congrArg (fun n => decide (n = 1)) hsame
  · exact congrArg Copy.status ((State.copy_setCopy x _ _ _).trans (if_pos rfl))
  · exact (State.raise_detected_src _ _).trans (congrArg (fun l => List.map (·.src) l ++ _) (hxdet.trans hdet))

/-- The watchdog's count. -/
theorem State.wdogDue_iff (s : State) (t : Nat) : s.wdogDue t = true ↔
    s.fget (Reg.triWdogCtl t) Reg.triWdogCtl_ENABLE = 1 ∧ (s.triad t).released = true ∧
      (∀ c < 3, (s.copy (copyIx t c)).status ≠ .dbg) ∧
      1000 * s.fget (Reg.triWdogCtl t) Reg.triWdogCtl_PERIOD ≤ s.ticks - (s.triad t).wdogFrom := by
  have hall : (∀ c < 3, (s.copy (copyIx t c)).status ≠ .dbg) ↔
      (s.copy (copyIx t 0)).status ≠ .dbg ∧ (s.copy (copyIx t 1)).status ≠ .dbg ∧ (s.copy (copyIx t 2)).status ≠ .dbg := by
    constructor
    · exact fun h => ⟨h 0 (by decide), h 1 (by decide), h 2 (by decide)⟩
    · rintro ⟨h0, h1, h2⟩ c hc
      interval_cases c
      · exact h0
      · exact h1
      · exact h2
  rw [hall]
  simp [State.wdogDue, and_assoc]

/-- Settles O31: each command's own lemma, from the sound source, the phase or the count that the statement gives it. -/
theorem triadPhasesAndModes : Obligations.TriadPhasesAndModes := by
  unfold Obligations.TriadPhasesAndModes
  intro s t st phase src
  refine ⟨fun c hc3 hc hrb htr hue hce hsig => ⟨fun hph hm => State.resyncCopy_ends hrb htr hue hce hph hm, fun hph ha hstatus => ?_,
    fun hph => State.resyncRejoin_joins hc3 hrb htr hph⟩, fun hmode hwait htr hdue => ?_, fun tgt sp htr htgt hue _ hsig =>
    State.modeTransition_enters htr htgt hue hsig, fun w hw => ⟨fun ha => ?_, fun ha hg hlive => ?_⟩, fun hcounts => ?_, fun hcounts => ?_⟩
  · have hmid := State.midInstr_none ha hstatus
    refine ⟨State.resyncPause_transfers hc hrb htr hue hce hsig hph hmid, fun hb => ?_⟩
    exact ⟨_, exec_resyncPause false htr hue hsig hph hmid, State.resyncAbandon_fails t.isLt hb⟩
  · obtain ⟨u, hu, hbit, hm, harm, hdet, hcopy⟩ := State.msyncTimeout_ends hmode ((bits_one_iff _ 11).mpr hwait) htr hdue
    refine ⟨u, hu, hbit, hm, harm, hdet, fun c hc => ⟨fun d half hx => ?_, fun hx => ?_⟩⟩
    · exact (hcopy c hc).trans (Copy.finishMsync_waiting hx 3)
    · exact (hcopy c hc).trans (Copy.finishMsync_other hx 3)
  · change execDebugAttach w s = _
    rw [execDebugAttach, ha]
    rfl
  · subst hw
    have hnum : w.c.num < 3 := by cases w.c <;> decide
    exact ⟨_, exec_debugAttach ha hg, State.debugAttached_holds w.t.isLt hnum hlive⟩
  · change execWatchdog t s = _
    rw [execWatchdog, if_pos ((s.wdogDue_iff t.val).mpr hcounts)]
    rfl
  · change execWatchdog t s = _
    rw [execWatchdog, if_neg (mt (s.wdogDue_iff t.val).mp hcounts)]

end Sys2Proof.Machine
end

section
/-!
PROOFS. The target of a request to memory leaves the copies of the triads as they are, but for the errors of their arrays (R175): one lemma for each
operation on the way to the bytes.
-/

namespace Sys2Proof.Machine

theorem State.foldl_copies {α : Type} {f : State → α → State} (hf : ∀ s x, (f s x).copies = s.copies) (l : List α) (s : State) :
    (l.foldl f s).copies = s.copies := by
  induction l generalizing s with
  | nil => rfl
  | cons x l ih => rw [List.foldl_cons, ih, hf]

/-! ### Registers, sources and bytes -/

@[simp] theorem State.fset_copies (s : State) (r : Nat) (f : Fld) (v : Nat) : (s.fset r f v).copies = s.copies := rfl
@[simp] theorem State.fsat_copies (s : State) (r : Nat) (f : Fld) (n : Nat) : (s.fsat r f n).copies = s.copies := rfl
@[simp] theorem State.raiseFor_copies (s : State) (src : Nat) (g : Option Nat) : (s.raiseFor src g).copies = s.copies := rfl
@[simp] theorem State.raise_copies (s : State) (src : Nat) : (s.raise src).copies = s.copies := rfl
@[simp] theorem State.modProt_copies (s : State) (f : Prot → Prot) : (s.modProt f).copies = s.copies := rfl
@[simp] theorem State.modTwin_copies (s : State) (f : Twin → Twin) : (s.modTwin f).copies = s.copies := rfl
@[simp] theorem State.fresh_copies (s : State) : s.fresh.2.copies = s.copies := rfl
@[simp] theorem State.setBytes_copies (s : State) (a n v : Nat) : (s.setBytes a n v).copies = s.copies := by rw [State.setBytes_frame]

@[simp] theorem State.freeOutside_copies (s : State) (u mask n : Nat) : (s.freeOutside u mask n).copies = s.copies := by
  induction n with
  | zero => rfl
  | succ n ih => rw [State.freeOutside]; split <;> exact ih

@[simp] theorem State.freeData_copies (s : State) (pa len u n d : Nat) : (s.freeData pa len u n d).2.copies = s.copies := by
  induction n with
  | zero => rfl
  | succ n ih => rw [State.freeData]; dsimp only; split <;> exact ih

/-! ### What a read finds of a unit (R274 to R280) -/

@[simp] theorem State.cleanUnit_copies (s : State) (k u : Nat) : (s.cleanUnit k u).copies = s.copies := rfl
@[simp] theorem State.logPut_copies (s : State) (k n u count nom : Nat) : (s.logPut k n u count nom).copies = s.copies := rfl

@[simp] theorem State.nominate_copies (s : State) (k n : Nat) : (s.nominate k n).copies = s.copies := by
  rw [State.nominate]; dsimp only; split <;> simp

@[simp] theorem State.ceLog_copies (s : State) (k u : Nat) : (s.ceLog k u).copies = s.copies := by
  rw [State.ceLog]; repeat' split
  all_goals simp

@[simp] theorem State.queueWb_copies (s : State) (k u : Nat) : (s.queueWb k u).copies = s.copies := by
  rw [State.queueWb]; split <;> rfl

@[simp] theorem State.queueMiss_copies (s : State) (k u : Nat) : (s.queueMiss k u).copies = s.copies := by
  rw [State.queueMiss]; split <;> simp

@[simp] theorem State.ceFound_copies (s : State) (k u : Nat) : (s.ceFound k u).copies = s.copies := by
  rw [State.ceFound]; split <;> simp

@[simp] theorem State.ueFound_copies (s : State) (k u : Nat) : (s.ueFound k u).copies = s.copies := by
  rw [State.ueFound]; split <;> simp

@[simp] theorem State.validCheck_copies (s : State) (w : Nat) : (s.validCheck w).copies = s.copies := by
  rw [State.validCheck]; split <;> simp

@[simp] theorem State.unitSays_copies (s : State) (k u : Nat) : (s.unitSays k u).2.copies = s.copies := by
  rw [State.unitSays]; repeat' split
  all_goals rfl

@[simp] theorem State.unitOut_copies (s : State) (k u : Nat) (c : CodeSays) : (s.unitOut k u c).2.2.copies = s.copies := by
  unfold State.unitOut
  cases c with
  | clean => rfl
  | ce => exact s.ceFound_copies k u
  | ue => rfl
  | beyond => dsimp only; repeat' split
              all_goals simp

@[simp] theorem State.unitOnce_copies (s : State) (k u : Nat) : (s.unitOnce k u).2.2.copies = s.copies :=
  (State.unitOut_copies _ k u _).trans (s.unitSays_copies k u)

@[simp] theorem State.unitFind_copies (s : State) (k u : Nat) : (s.unitFind k u).2.2.copies = s.copies := by
  unfold State.unitFind
  split
  · rfl
  · have hchecked : (if k < 2 then s.validCheck (u / 8) else s).copies = s.copies := by split <;> simp
    have honce := (State.unitOnce_copies (if k < 2 then s.validCheck (u / 8) else s) k u).trans hchecked
    dsimp only
    generalize State.unitOnce (if k < 2 then s.validCheck (u / 8) else s) k u = r at honce ⊢
    split
    next b t =>
      have htwice : (if k = 3 then t.unitOnce k u else (.ue, false, t)).2.2.copies = t.copies := by split <;> simp
      generalize (if k = 3 then t.unitOnce k u else (.ue, false, t)) = r2 at htwice ⊢
      split
      · exact (State.ueFound_copies _ k u).trans (htwice.trans honce)
      · exact htwice.trans honce
    next => exact honce

@[simp] theorem State.unitRead_copies (s : State) (k u : Nat) : (s.unitRead k u).2.copies = s.copies := s.unitFind_copies k u

/-! ### A unit written, and what the twin captures of it (R284 to R287, R356) -/

@[simp] theorem State.injectAt_copies (s : State) (k u : Nat) : (s.injectAt k u).copies = s.copies := by
  unfold State.injectAt
  extract_lets c a hit w chk t
  split <;> rfl

@[simp] theorem State.arrayWrite_copies (s : State) (k u : Nat) : (s.arrayWrite k u).copies = s.copies := by
  rw [State.arrayWrite]; split <;> simp

@[simp] theorem State.bulkStart_copies (s : State) : s.bulkStart.copies = s.copies := by simp [State.bulkStart]

@[simp] theorem State.jrnWrite_copies (s : State) (e : JEnt) : (s.jrnWrite e).copies = s.copies := by
  rw [State.jrnWrite]
  exact (State.foldl_copies (fun s u => s.arrayWrite_copies 1 u) _ _).trans ((State.modTwin_copies _ _).trans (s.setBytes_copies _ _ _))

@[simp] theorem State.jrnPut_copies (s : State) (kind : BitVec 2) (blk be data : Nat) : (s.jrnPut kind blk be data).copies = s.copies := by
  rw [State.jrnPut]; split <;> simp

@[simp] theorem State.capture_copies (s : State) (pa len : Nat) : (s.capture pa len).copies = s.copies := by
  rw [State.capture]
  split
  · rfl
  · refine State.foldl_copies (fun s blk => ?_) _ s
    split <;> simp

@[simp] theorem State.rmw_copies (s : State) (k u mask : Nat) : (s.rmw k u mask).copies = s.copies := by
  have h := s.unitRead_copies k u
  unfold State.rmw
  generalize s.unitRead k u = r at h
  obtain ⟨x, t⟩ := r
  cases x <;> simpa using h

@[simp] theorem State.drain_copies (s : State) (k : Nat) (e : MergeEnt) : (s.drain k e).copies = s.copies := by
  rw [State.drain]; split <;> simp

@[simp] theorem State.unitWritten_copies (s : State) (k init u mask : Nat) : (s.unitWritten k init u mask).copies = s.copies := by
  rw [State.unitWritten]; dsimp only; repeat' split
  all_goals simp

@[simp] theorem State.arrayCe_copies (s : State) (code : Nat) : (s.arrayCe code).copies = s.copies := by
  rw [State.arrayCe]; split <;> simp

@[simp] theorem State.arrayUe_copies (s : State) (code : Nat) : (s.arrayUe code).copies = s.copies := by
  rw [State.arrayUe]; split <;> simp

/-! ### The program counters of the copies, through the windows of their data TCMs (R50, R131, R273) -/

/-- The program counter of each copy. -/
def State.pcs (s : State) (k : Nat) : Word := (s.copy k).pc

theorem State.pcs_congr {s t : State} (h : t.copies = s.copies) : t.pcs = s.pcs := by
  unfold State.pcs State.copy
  rw [h]

theorem State.modCopy_pcs (s : State) (k : Nat) {f : Copy → Copy} (hf : ∀ c, (f c).pc = c.pc) : (s.modCopy k f).pcs = s.pcs := by
  funext j
  unfold State.pcs State.modCopy
  rw [State.copy_setCopy]
  split
  next h => rw [h, hf]
  next => rfl

theorem State.foldl_pcs {α : Type} {f : State → α → State} (hf : ∀ s x, (f s x).pcs = s.pcs) (l : List α) (s : State) : (l.foldl f s).pcs = s.pcs := by
  induction l generalizing s with
  | nil => rfl
  | cons x l ih => rw [List.foldl_cons, ih, hf]

theorem State.arrayRead_pcs (s : State) (k : Nat) (r : ArrayId × Nat) : (s.arrayRead k r).pcs = s.pcs := by
  unfold State.arrayRead
  extract_lets c t w fails u
  have hc : c.pcs = s.pcs := State.pcs_congr (s.arrayCe_copies _)
  have ht : t.pcs = s.pcs := by
    unfold t
    split
    · split
      · exact hc
      · exact (State.modCopy_pcs _ _ (by exact fun _ => rfl)).trans hc
    · rfl
  split
  · have hu : u.pcs = s.pcs := (State.pcs_congr (t.validCheck_copies w)).trans ht
    split
    · exact (State.modCopy_pcs _ _ (by exact fun _ => rfl)).trans hu
    · exact hu
  · exact ht

theorem State.tcmStoreOne_pcs (s : State) (k off len v : Nat) : (s.tcmStoreOne k off len v).pcs = s.pcs :=
  (State.modCopy_pcs _ _ (by exact fun _ => rfl)).trans (State.pcs_congr ((State.modProt_copies _ _).trans (s.setBytes_copies _ _ _)))

theorem State.tcmStoreAt_pcs (s : State) (pa len v : Nat) : (s.tcmStoreAt pa len v).pcs = s.pcs :=
  (State.foldl_pcs (fun s j => s.tcmStoreOne_pcs j _ len v) _ _).trans (s.tcmStoreOne_pcs _ _ _ _)

theorem State.tcmWindow_pcs (s : State) (pa len : Nat) : (s.tcmWindow pa len).2.pcs = s.pcs := by
  have hread := State.foldl_pcs (fun s r => s.arrayRead_pcs (tcmCopy pa) r) ((unitsOf 0 pa len).map fun u => (ArrayId.tcm, u % 0x10000 / 8)) s
  unfold State.tcmWindow
  dsimp only
  split
  · exact (State.pcs_congr ((State.raise_copies _ _).trans (State.arrayUe_copies _ _))).trans hread
  · exact hread

/-! ### The target of a request to memory -/

theorem State.memRead_pcs (s : State) (pa len : Nat) : (s.memRead pa len).2.pcs = s.pcs := by
  have hfold {β : Type} {f : β × State → Nat → β × State} (hf : ∀ p x, (f p x).2.copies = p.2.copies) (l : List Nat) (p : β × State) :
      (l.foldl f p).2.copies = p.2.copies := by
    induction l generalizing p with
    | nil => rfl
    | cons x l ih => rw [List.foldl_cons, ih, hf]
  unfold State.memRead
  split
  · exact s.tcmWindow_pcs pa len
  next k _ =>
    split
    · rfl
    · split
      · exact State.pcs_congr rfl
      · refine State.pcs_congr (hfold (fun p u => ?_) _ _)
        have h := p.2.unitRead_copies k u
        generalize p.2.unitRead k u = r at h
        obtain ⟨x, t⟩ := r
        cases x with
        | good => exact h
        | ue => exact h
        | wrong =>
          dsimp only
          split
          · exact h
          · exact (t.freeData_copies pa len u _ _).trans h

theorem State.memWrite_pcs (s : State) (init pa len v : Nat) : (s.memWrite init pa len v).2.pcs = s.pcs := by
  unfold State.memWrite
  split
  · exact (State.pcs_congr rfl).trans (s.tcmStoreAt_pcs pa len v)
  next k _ =>
    split
    · rfl
    · split
      · exact State.pcs_congr rfl
      · refine State.pcs_congr ((State.capture_copies _ pa len).trans ?_)
        exact (State.foldl_copies (fun s u => s.unitWritten_copies k init u _) _ _).trans (s.setBytes_copies pa len v)

theorem State.memAtomic_pcs (s : State) (m : MeshReq) : (s.memAtomic m).2.pcs = s.pcs := by
  have h := s.memRead_pcs m.pa.toNat m.len
  have hw (v : Nat) := ((s.memRead m.pa.toNat m.len).2.memWrite_pcs m.rq.init.val m.pa.toNat m.len v).trans h
  unfold State.memAtomic
  dsimp only
  split
  · split <;> exact h
  · split
    · exact (State.memWrite_pcs _ _ _ _ _).trans h
    · exact h
  all_goals
    split
    · split
      · exact h
      · exact hw _
    · exact h

/-- A request that its target serves at once. -/
theorem State.serve_pcs {s : State} {m : MeshReq} (hm : windowOf m.pa.toNat ≠ .mmio) (hb : s.reqBlocked m = false)
    (hok : (s.serve m).1.status = .ok) : (s.serve m).2.pcs = s.pcs := by
  unfold State.serve at hok ⊢
  split at hok
  · cases hok
  · unfold State.target State.perform
    rw [hb, if_neg Bool.false_ne_true, if_neg hm]
    cases m.op with
    | read | fetch | walkRead => exact s.memRead_pcs _ _
    | write => exact s.memWrite_pcs _ _ _ _
    | atomic | walkCas => exact s.memAtomic_pcs m

end Sys2Proof.Machine
end

section
/-!
PROOFS. Loads, stores and atomics: the plan of an access in one piece, and the commit of an access.
-/

namespace Sys2Proof.Machine

/-! ### The plan of an access in one piece (R101, R104, R148) -/

theorem firstIx_none {α : Type} {p : α → Bool} {l : List α} (h : firstIx p l = none) : ∀ x ∈ l, p x = false := by
  induction l with
  | nil => simp
  | cons a l ih =>
    rw [firstIx] at h
    split at h
    next => cases h
    next hp =>
      rw [Option.map_eq_none_iff] at h
      exact fun x hx => (List.mem_cons.mp hx).elim (fun he => he ▸ Bool.eq_false_iff.mpr hp) (ih h x)

theorem bits_zero_len (w : Word) (len : Nat) : bits w 0 len = w.toNat % 2 ^ len := by
  refine Nat.eq_of_testBit_eq fun j => ?_
  rw [testBit_bits, Nat.testBit_mod_two_pow, Nat.zero_add]
  rfl

/-- Translation leaves the low three bits of an address. -/
theorem leafPa_mod8 (p : Word) (size : Nat) (va : Word) : leafPa p size (va48 va) % 8 = va.toNat % 8 := by
  have h8 : 8 ∣ 2 ^ sizeBits size := by
    unfold sizeBits
    split <;> decide
  unfold leafPa va48
  rw [bits_zero_len, Nat.add_mod, Nat.mod_eq_zero_of_dvd (Dvd.dvd.mul_left h8 _), Nat.zero_add, Nat.mod_mod, Nat.mod_mod_of_dvd _ h8,
    Nat.mod_mod_of_dvd _ (by decide)]

/-- The pieces of an access with their translations, where each has one. -/
def Copy.translated (c : Copy) (l : List (Word × Nat)) : List ((Word × Nat) × Nat × Word × Nat) :=
  (l.map fun h => (h, c.xlate h.1)).filterMap fun x => x.2.map fun y => (x.1, y)

theorem Copy.translated_all {c : Copy} {l : List (Word × Nat)} (h : ∀ x ∈ l.map (fun h => (h, c.xlate h.1)), x.2.isNone = false) :
    (c.translated l).map (·.1) = l ∧ ∀ x ∈ c.translated l, c.xlate x.1.1 = some x.2 := by
  unfold Copy.translated
  induction l with
  | nil => simp
  | cons a l ih =>
    rw [List.map_cons, List.forall_mem_cons] at h
    obtain ⟨y, hy⟩ := Option.isSome_iff_exists.mp (Option.isNone_eq_false_iff.mp h.1)
    dsimp only at hy
    obtain ⟨hmap, hall⟩ := ih h.2
    simp only [List.map_cons, List.filterMap_cons, hy, Option.map_some, hmap, List.forall_mem_cons]
    exact ⟨trivial, trivial, hall⟩

/-- A plan that takes no trap: every piece has its translation. -/
theorem Copy.plan_halves {c : Copy} {kind : AccessKind} {va : Word} {n : Nat} {hs : List Half} (hp : c.plan kind va n = .ok hs) :
    (∀ x ∈ (splitVa va n).map (fun h => (h, c.xlate h.1)), x.2.isNone = false) ∧ hs = (c.translated (splitVa va n)).map fun x =>
      { va := x.1.1, pa := x.2.2.2, n := x.1.2, mt := pteMT x.2.2.1, tlbI := x.2.1, how := c.planHow kind x.2.2.2 (pteMT x.2.2.1) (pteNA x.2.2.1) } := by
  unfold Copy.plan at hp
  extract_lets writes aligned isAtom pieces at hp
  split at hp
  · cases hp
  · split at hp
    · cases hp
    next hnone =>
      refine ⟨firstIx_none hnone, ?_⟩
      repeat' split at hp
      all_goals cases hp
      rfl

/-- An access in one piece lies within an aligned double (R101), whose address is the translation's. -/
theorem Copy.plan_one {c : Copy} {kind : AccessKind} {va : Word} {n : Nat} {h : Half} (hp : c.plan kind va n = .ok [h]) :
    h.n = n ∧ h.pa % 8 + n ≤ 8 ∧ (h.how = .tcm → isSelf h.pa = true) := by
  obtain ⟨hsome, heq⟩ := Copy.plan_halves hp
  obtain ⟨hmap, hall⟩ := Copy.translated_all hsome
  obtain ⟨x, hx⟩ : ∃ x, c.translated (splitVa va n) = [x] := by
    rw [← List.length_eq_one_iff]
    simpa using (congrArg List.length heq).symm
  rw [hx] at heq hmap hall
  obtain ⟨⟨hva, hn⟩, i, pte, pa⟩ := x
  obtain rfl := List.singleton_inj.mp heq
  have hone : va.toNat % 8 + n ≤ 8 ∧ hva = va ∧ hn = n := by
    unfold splitVa at hmap
    dsimp only at hmap
    split at hmap
    next hfits =>
      obtain ⟨rfl, rfl⟩ := Prod.mk.inj (List.singleton_inj.mp hmap)
      exact ⟨hfits, rfl, rfl⟩
    next => cases hmap
  obtain ⟨hfits, rfl, rfl⟩ := hone
  have hpa : pa % 8 = hva.toNat % 8 := by
    have h := hall _ List.mem_cons_self
    dsimp only [Copy.xlate] at h
    obtain ⟨j, -, hj⟩ := Option.map_eq_some_iff.mp h
    obtain ⟨-, -, rfl⟩ := hj
    exact leafPa_mod8 _ _ _
  refine ⟨rfl, by rw [hpa]; exact hfits, fun htcm => ?_⟩
  dsimp only at htcm ⊢
  unfold Copy.planHow at htcm
  split at htcm
  next h => exact h
  next =>
    repeat' split at htcm
    all_goals cases htcm

/-! ### The release of an access (R53, R92, R96) -/

/-- What the commit of an access makes of a copy, with the data that its halves got. -/
def State.accessed (u : State) (g : Guard) (l : Local) (acc : Access) (data : List Nat) (k : Nat) (c : Copy) : Copy :=
  if acc.kind.returns then (c.retire g l).takeLoad acc (u.loaded k acc data) else c.retire g l

/-- A value from the copy's own data TCM, or from outside, depends on memory alone. -/
theorem State.loaded_congr {y u : State} {acc : Access} {h : Half} (hm : y.mem = u.mem) (hh : h.how = .tcm ∨ h.how = .plain) (k d : Nat) :
    y.loaded k (acc.one h) [d] = u.loaded k (acc.one h) [d] := by
  have hbytes (a n : Nat) : y.bytes a n = u.bytes a n := State.bytes_congr fun b _ _ => by rw [State.byte, hm, State.byte]
  have hhalf : y.halfValue k h d = u.halfValue k h d := by
    unfold State.halfValue
    rcases hh with hh | hh
    · rw [hh]
      exact hbytes _ _
    · rw [hh]
  unfold State.loaded
  rw [Access.one_halves]
  dsimp only
  rw [hhalf]

theorem State.leader_congr {s u : State} (h : u.regs = s.regs) (t : Nat) : u.leader t = s.leader t := by
  unfold State.leader State.liveCopies State.live State.rd
  rw [h]

theorem State.groupMode_congr {s u : State} (h : u.regs = s.regs) (t : Nat) : u.groupMode t = s.groupMode t := by
  rw [State.groupMode, State.mode, State.fget_congr h, State.groupMode, State.mode]

/-- From `u`, in which the access has been made, to `v` the copies that run the command commit, the commit is counted, and nothing else changes. -/
structure Finished (s u v : State) (w : Who) (f : Nat → Copy → Copy) : Prop where
  each   : ∀ c ∈ s.runners w, v.copy (copyIx w.t.val c) = f (copyIx w.t.val c) (u.copy (copyIx w.t.val c))
  others : ∀ k, (∀ c ∈ s.runners w, k ≠ copyIx w.t.val c) → v.copy k = u.copy k
  count  : v.fget (Reg.triCommitCount w.t.val) Reg.triCommitCount_COUNT = (u.fget (Reg.triCommitCount w.t.val) Reg.triCommitCount_COUNT +
    b2n (u.groupMode w.t.val || decide ((s.runners w).headD 0 = u.leader w.t.val))) % 2 ^ 64
  regs   : ∀ r, r ≠ Reg.triCommitCount w.t.val → v.rd r = u.rd r
  rest   : v = { u with copies := v.copies, regs := v.regs }

theorem State.fold_commitOne {u : State} {t : Nat} {g : Guard} {l : Local} {acc : Access} {h : Half} {d : Nat} (ha : l.acc = some (acc.one h))
    (hh : h.how = .tcm ∨ h.how = .plain) (ks : List Nat) {y : State} (hy : y.mem = u.mem) :
    (ks.map fun c => (c, l)).foldl (fun s x => s.commitOne t g [d] x) y =
      ks.foldl (fun s c => s.setCopy (copyIx t c) (u.accessed g l (acc.one h) [d] (copyIx t c) (s.copy (copyIx t c)))) y := by
  induction ks generalizing y with
  | nil => rfl
  | cons c ks ih =>
    have hone : y.commitOne t g [d] (c, l) = y.setCopy (copyIx t c) (u.accessed g l (acc.one h) [d] (copyIx t c) (y.copy (copyIx t c))) := by
      unfold State.commitOne State.accessed
      dsimp only
      rw [ha]
      dsimp only
      rw [State.loaded_congr hy hh]
    rw [List.map_cons, List.foldl_cons, List.foldl_cons, hone]
    exact ih hy

/-- The released copies commit once their access has been made. -/
theorem State.release_access {s u : State} {w : Who} {g : Guard} {l : Local} {acc : Access} {h : Half} {d : Nat} (hruns : s.runners w ≠ [])
    (ht : l.trap = none) (ha : l.acc = some (acc.one h)) (hs : l.stay = false) (hh : h.how = .tcm ∨ h.how = .plain)
    (hacc : s.accessAll w.t.val (s.copyTag w) (s.runners w) ((s.runners w).map fun c => (c, acc.one h)) (acc.one h) (s.gotOf w.t.val (s.copyTag w))
      [h] 0 [] = (.done [d], u)) :
    Finished s u (s.release w g ((s.runners w).map fun c => (c, l))).1 w (u.accessed g l (acc.one h) [d]) := by
  obtain ⟨c0, r, hks⟩ := List.exists_cons_of_ne_nil hruns
  have hcommit : s.commitAll w.t.val (s.copyTag w) g ((s.runners w).map fun c => (c, l)) = (.committed, (s.runners w).foldl (fun s c =>
      s.setCopy (copyIx w.t.val c) (u.accessed g l (acc.one h) [d] (copyIx w.t.val c) (s.copy (copyIx w.t.val c)))) u) := by
    have hfst : ((s.runners w).map fun c => (c, l)).map (·.1) = s.runners w := by
      rw [List.map_map]
      exact List.map_id _
    have haccs : ((s.runners w).map fun c => (c, l)).filterMap (fun (x : Nat × Local) => x.2.acc.map fun a => (x.1, a)) =
        (s.runners w).map fun c => (c, acc.one h) := by
      rw [List.filterMap_map, ← List.filterMap_eq_map]
      refine List.filterMap_congr fun c _ => ?_
      simp [ha]
    have hmap : (s.runners w).map (fun c => (c, l)) = (c0, l) :: r.map fun c => (c, l) := by rw [hks]; rfl
    unfold State.commitAll
    rw [hmap]
    dsimp only
    rw [ht]
    dsimp only
    rw [← hmap, hfst, ha, haccs]
    dsimp only
    rw [Access.one_halves, hacc]
    dsimp only
    rw [State.fold_commitOne ha hh _ rfl]
  obtain ⟨hin, hout, hrest⟩ := State.foldCopies (t := w.t.val) (F := fun c => u.accessed g l (acc.one h) [d] (copyIx w.t.val c)) (s.runners_nodup w) u
  unfold State.release
  dsimp only
  rw [hcommit]
  generalize (s.runners w).foldl (fun s c => s.setCopy (copyIx w.t.val c)
    (u.accessed g l (acc.one h) [d] (copyIx w.t.val c) (s.copy (copyIx w.t.val c)))) u = x at hin hout hrest ⊢
  have hregs : x.regs = u.regs := by rw [hrest]
  obtain ⟨hframe, hrd, hcount⟩ := State.countCommit_spec x w.t.val c0 (x.groupMode w.t.val)
  rw [hks] at hin hout ⊢
  simp only [List.map_cons, hs, Bool.false_eq_true, if_false]
  generalize x.countCommit w.t.val c0 (x.groupMode w.t.val) = v at hframe hrd hcount ⊢
  have hcopy (k : Nat) : v.copy k = x.copy k := by rw [hframe]; rfl
  refine ⟨fun c hc => (hcopy _).trans (hin c (hks ▸ hc)), fun k hk => (hcopy k).trans (hout k (hks ▸ hk)), hcount.trans ?_,
    fun q hq => (hrd q hq).trans (State.rd_congr hregs q), ?_⟩
  · rw [State.fget_congr hregs, State.groupMode_congr hregs, State.leader_congr hregs, hks, List.headD_cons]
  · rw [hframe, hrest]

/-- A load, store or atomic that waits for nothing is released to its copies. -/
theorem exec_access_released {i : Instr} {s : State} {w : Who} {g : Guard} {acc : Access} {va : Word} (hg : i.guard = some (w, g))
    (hr : i.reserved = false) (hready : Ready s w g) (ha : accessOf i (s.lead w) = some (acc, va))
    (hwait : s.stalls w.t.val (s.copyTag w) (Local.access (s.lead w) acc va) = false ∧
      (Local.access (s.lead w) acc va).acc.bind (·.drain w.t.val (s.copyTag w)) = none) :
    exec i s = .next (s.release w g ((s.runners w).map fun c => (c, Local.access (s.lead w) acc va))).1 := by
  obtain ⟨body, hexec, hbody⟩ := exec_access hg hr ha
  have hsame : s.runInstr w g false (fun _ _ c => Local.nop c) (fun _ _ c => body c) =
      s.release w g ((s.runners w).map fun c => (c, Local.access (s.lead w) acc va)) :=
    State.runInstr_same hready.toLockstep (fun c _ => (localOf_ready hready _ _).trans hbody) fun _ => hwait
  rw [hexec, State.run, hsame]

end Sys2Proof.Machine
end

section
/-!
PROOFS. Loads, stores and atomics: the accesses of a copy's own data TCM, the accesses outside the triad, and the obligation
(Obligations.LoadsStoresAndAtomics).
-/

namespace Sys2Proof.Machine

/-! ### What the commit of an access makes of a copy (R92, R96, R105) -/

theorem Local.access_commits {c : Copy} {acc : Access} {va : Word} {h : Half} (hp : c.plan acc.kind va (2 ^ acc.size) = .ok [h]) :
    (Local.access c acc va).copy = c ∧ (Local.access c acc va).stay = false ∧ (Local.access c acc va).nextPc = none ∧
      (Local.access c acc va).noLatch = false ∧ (Local.access c acc va).cycles = 1 := by
  unfold Local.access
  rw [hp]
  exact ⟨rfl, rfl, rfl, rfl, rfl⟩

theorem Copy.flushPend_pend (c : Copy) : c.flushPend.pend = none := by
  unfold Copy.flushPend
  split
  · rfl
  next h => exact h

theorem Copy.flushPend_psr (c : Copy) (p : Word) : ({ c with psr := p } : Copy).flushPend = { c.flushPend with psr := p } := by
  unfold Copy.flushPend Copy.setFile Copy.setReg Copy.setFreg
  dsimp only
  split
  · split
    · rfl
    · split <;> rfl
  · rfl

/-- The condition latch and the pending load are written to a copy's registers alone. -/
theorem Copy.flush_latch (g : Guard) (c : Copy) :
    (g.latch c).flushPend = { c with g := c.flushPend.g, f := c.flushPend.f, pend := none, psr := (g.latch c).psr } := by
  have hlatch : g.latch c = { c with psr := (g.latch c).psr } := by
    unfold Guard.latch
    split
    · split <;> rfl
    · rfl
  have hflush : (g.latch c).flushPend = { c.flushPend with psr := (g.latch c).psr } := by
    conv_lhs => rw [hlatch]
    exact c.flushPend_psr _
  rw [hflush]
  conv_lhs => rw [c.flushPend_frame, c.flushPend_pend]

/-- The commit of an access, but for the value that it loads, in a copy `x` whose instruction was planned in `c`. -/
theorem Copy.retire_access {c x : Copy} {g : Guard} {l : Local} (hc : l.copy = c) (hs : l.stay = false)
    (hn : l.nextPc = none) (hl : l.noLatch = false) :
    (x.retire g l).pc = x.pc + BitVec.ofNat 64 g.len ∧ (x.retire g l).instret = c.instret + 1 ∧ (x.retire g l).g = c.flushPend.g ∧
      (x.retire g l).f = c.flushPend.f ∧ (x.retire g l).pend = none ∧ (x.retire g l).slot = false := by
  unfold Copy.retire Local.latched
  simp [hs, hl, hn, hc, Copy.flush_latch]

/-- In the copy in which it was planned. -/
theorem Copy.retire_access_done {c : Copy} {g : Guard} {l : Local} (ha : l.acc.isSome = true) (hc : l.copy = c) (hs : l.stay = false)
    (hn : l.nextPc = none) (hl : l.noLatch = false) (hcy : l.cycles = 1) : c.retire g l = c.done g 1 c := by
  unfold Copy.retire Copy.done Local.latched
  simp [ha, hs, hl, hn, hc, hcy, Copy.flush_latch]

theorem psrFlags_psrWithFlags (p : Word) (f : Nzcv) : (psrFlags (psrWithFlags p f)).z = f.z := by
  obtain ⟨n, z, c, v⟩ := f
  change (setBits p 0 4 (8 * b2n n + 4 * b2n z + 2 * b2n c + b2n v)).getLsbD 2 = z
  rw [getLsbD_setBits _ _ _ _ (by decide), if_pos (by decide)]
  revert n z c v
  decide

/-- The value of a load or atomic is pending, and the next instruction is in its delay slot (R96, R97); AMOCAS sets Z (R105). -/
theorem Copy.takeLoad_pending {acc : Access} (hn : acc.now = false) (c : Copy) (v : Word) : ∃ p, c.takeLoad acc v =
    { c with psr := p, pend := if acc.isF = false ∧ acc.dest = 0 then none else some (acc.isF, acc.dest, v), slot := true } ∧
      (acc.kind = .load → p = c.psr) ∧
      (acc.kind = .atom .cas → (psrFlags p).z = decide (v.toNat % 2 ^ (8 * 2 ^ acc.size) = acc.cmp.toNat % 2 ^ (8 * 2 ^ acc.size))) := by
  have hpend (x : Copy) : (if acc.now then x.setFile acc.isF acc.dest v
      else if !acc.isF && decide (acc.dest = 0) then { x with pend := none, slot := true }
      else { x with pend := some (acc.isF, acc.dest, v), slot := true }) =
      { x with pend := if acc.isF = false ∧ acc.dest = 0 then none else some (acc.isF, acc.dest, v), slot := true } := by
    rw [hn, if_neg Bool.false_ne_true]
    by_cases h0 : acc.isF = false ∧ acc.dest = 0
    · simp [h0]
    · rw [if_neg h0, if_neg (by simpa using h0)]
  unfold Copy.takeLoad
  dsimp only
  rw [hpend]
  split
  next hcas =>
    refine ⟨_, rfl, fun h => ?_, fun _ => psrFlags_psrWithFlags _ _⟩
    rw [hcas] at h
    cases h
  next hother => exact ⟨c.psr, rfl, fun _ => rfl, fun h => absurd h hother⟩

theorem accessOf_now {i : Instr} {c : Copy} {acc : Access} {va : Word} (h : accessOf i c = some (acc, va)) : acc.now = false := by
  unfold accessOf at h
  split at h
  all_goals cases h
  · rfl
  · rfl
  · split <;> rfl
  · split <;> rfl
  all_goals rfl

/-! ### The copies' own data TCMs (R49, R148, R273) -/

theorem windowOf_mmio (pa : Nat) : windowOf pa = .mmio ↔ paMmio ≤ pa := by
  unfold windowOf paStream paCrown paCode paTcm paMmio
  split_ifs
  all_goals simp
  all_goals omega

/-- An access of the own data TCM passes the fence without waiting (R49). -/
theorem State.tcm_not_waiting {s : State} {w : Who} {acc : Access} {va : Word} {h : Half} {c : Copy}
    (hp : c.plan acc.kind va (2 ^ acc.size) = .ok [h]) (hh : h.how = .tcm) (hk : acc.kind = .load ∨ acc.kind = .store) :
    s.stalls w.t.val (s.copyTag w) (Local.access c acc va) = false ∧
      (Local.access c acc va).acc.bind (·.drain w.t.val (s.copyTag w)) = none := by
  obtain ⟨hacc, -, hsides⟩ := Local.access_one hp
  obtain ⟨-, -, hself⟩ := Copy.plan_one hp
  have houtside : s.outside w.t.val (acc.one h) = [] := by
    rcases hk with hk | hk <;> simp [State.outside, Access.one, hk, hh]
  have hwindow : windowOf h.pa ≠ .mmio := by
    have hrange := hself hh
    simp only [isSelf, Bool.and_eq_true, decide_eq_true_eq] at hrange
    rw [Ne, windowOf_mmio]
    unfold paSelf at hrange
    unfold paMmio
    omega
  have hdrain : (acc.one h).drain w.t.val (s.copyTag w) = none := by
    unfold Access.drain
    split
    next heq =>
      obtain rfl := List.singleton_inj.mp heq
      exact if_neg hwindow
    next => rfl
  constructor
  · unfold State.stalls
    rw [hacc, hsides, halfSides, hh]
    simp [houtside, halfSide_kind]
  · rw [hacc]
    exact hdrain

theorem State.tcmStoreAt_one {s : State} {t c : Nat} (hc : c < 3) (hph : s.tri t Reg.triStatus_RESYNC_PHASE ≠ 2) (off len v : Nat) :
    s.tcmStoreAt (tcmAddr (copyIx t c) off) len v = s.tcmStoreOne (copyIx t c) (off % 0x10000) len v := by
  have hcopy : tcmCopy (tcmAddr (copyIx t c) off) = copyIx t c := by unfold tcmCopy tcmAddr; omega
  have hoff : tcmAddr (copyIx t c) off - tcmAddr (copyIx t c) 0 = off % 0x10000 := by unfold tcmAddr; omega
  unfold State.tcmStoreAt
  dsimp only
  rw [hcopy, hoff, State.mirrors_nil hc hph, List.foldl_nil]

/-- A state that differs in the copies, the bytes and the marks of the data TCMs' words alone. -/
def TcmOnly (s x : State) : Prop := ∃ copies mem valid, x = { s with copies := copies, mem := mem, prot := { s.prot with valid := valid } }

theorem TcmOnly.trans {s y x : State} : TcmOnly s y → TcmOnly y x → TcmOnly s x := by
  rintro ⟨-, -, -, rfl⟩ ⟨copies, mem, valid, rfl⟩
  exact ⟨copies, mem, valid, rfl⟩

theorem TcmOnly.eq {s x : State} : TcmOnly s x → x = { s with copies := x.copies, mem := x.mem, prot := { s.prot with valid := x.prot.valid } } := by
  rintro ⟨copies, mem, valid, rfl⟩
  rfl

/-- What a store of a copy without an array error to its own data TCM changes: its bytes, and the mark of its word (R273). -/
theorem State.tcmStoreOne_sound {s : State} {k off len : Nat} (hue : (s.copy k).ue = []) (hce : (s.copy k).ce = []) (hlen : 0 < len)
    (hfits : tcmAddr k off % 8 + len ≤ 8) (v : Nat) : let x := s.tcmStoreOne k off len v
    TcmOnly s x ∧ (∀ j, x.copy j = s.copy j) ∧
      (∀ a, x.byte a = if tcmAddr k off ≤ a ∧ a < tcmAddr k off + len then BitVec.ofNat 8 (v / 256 ^ (a - tcmAddr k off)) else s.byte a) ∧
      ∀ j, SMap.get 0 x.prot.valid j = if tcmAddr k off / 8 = j then 3 else SMap.get 0 s.prot.valid j := by
  have hframe := s.setBytes_frame (tcmAddr k off) len v
  have hcopy (j : Nat) : ((s.setBytes (tcmAddr k off) len v).tcmMark (tcmAddr k off) len).copy j = s.copy j := by
    rw [State.tcmMark_frame, hframe]
    rfl
  intro x
  refine ⟨?_, fun j => ?_, fun a => s.byte_setBytes (tcmAddr k off) len v a, fun j => ?_⟩
  · unfold x State.tcmStoreOne State.modCopy State.setCopy
    rw [State.tcmMark_frame, hframe]
    exact ⟨_, _, _, rfl⟩
  · refine (State.copy_setCopy _ _ _ _).trans ?_
    dsimp only
    rw [hcopy, hcopy, Copy.mend_sound hue hce]
    split
    next h => rw [h]
    next => rfl
  · refine (State.tcmMark_valid (s.setBytes (tcmAddr k off) len v) hlen j).trans ?_
    rw [hframe]
    by_cases hj : tcmAddr k off / 8 = j
    · rw [if_pos hj, if_pos (by omega)]
    · rw [if_neg hj, if_neg (by omega)]

/-- Stores of the copies listed, each to its own data TCM at one offset. -/
def State.tcmStores (s : State) (t off len v : Nat) (ks : List Nat) : State :=
  ks.foldl (fun s c => s.tcmStoreAt (tcmAddr (copyIx t c) off) len v) s

/-- What they change: no copy reaches another's data TCM. -/
theorem State.tcmStores_sound {t off len : Nat} (hlen : 0 < len) (hfits : off % 8 + len ≤ 8) (v : Nat) {ks : List Nat} (hn : ks.Nodup)
    (h3 : ∀ c ∈ ks, c < 3) {s : State} (hph : s.tri t Reg.triStatus_RESYNC_PHASE ≠ 2)
    (hs : ∀ c ∈ ks, (s.copy (copyIx t c)).ue = [] ∧ (s.copy (copyIx t c)).ce = []) : let x := s.tcmStores t off len v ks
    let lo (c : Nat) := tcmAddr (copyIx t c) off
    TcmOnly s x ∧ (∀ j, x.copy j = s.copy j) ∧
      (∀ a, x.byte a = match ks.find? fun c => decide (lo c ≤ a ∧ a < lo c + len) with
        | some c => BitVec.ofNat 8 (v / 256 ^ (a - lo c))
        | none => s.byte a) ∧
      ∀ j, SMap.get 0 x.prot.valid j = if ks.any fun c => decide (lo c / 8 = j) then 3 else SMap.get 0 s.prot.valid j := by
  intro x lo
  induction ks generalizing s with
  | nil => exact ⟨⟨s.copies, s.mem, s.prot.valid, rfl⟩, fun _ => rfl, fun _ => rfl, fun _ => rfl⟩
  | cons c ks ih =>
    obtain ⟨hc, hn⟩ := List.nodup_cons.mp hn
    obtain ⟨hue, hce⟩ := hs c List.mem_cons_self
    have haddr (k : Nat) : tcmAddr k (off % 0x10000) = tcmAddr k off := by unfold tcmAddr; omega
    have hdouble (d : Nat) : lo d % 8 + len ≤ 8 := by unfold lo tcmAddr paTcm; omega
    obtain ⟨honly, hcopy, hbyte, hvalid⟩ := State.tcmStoreOne_sound (off := off % 0x10000) hue hce hlen (by rw [haddr]; exact hdouble c) v
    rw [← State.tcmStoreAt_one (h3 c List.mem_cons_self) hph] at honly hcopy hbyte hvalid
    rw [haddr] at hbyte hvalid
    have hx : x = (s.tcmStoreAt (lo c) len v).tcmStores t off len v ks := rfl
    generalize s.tcmStoreAt (tcmAddr (copyIx t c) off) len v = y at honly hcopy hbyte hvalid hx
    have hph' : y.tri t Reg.triStatus_RESYNC_PHASE ≠ 2 := by rw [honly.eq]; exact hph
    obtain ⟨honly', hcopy', hbyte', hvalid'⟩ := ih hn (fun d hd => h3 d (List.mem_cons_of_mem _ hd)) hph' fun d hd => by
      rw [hcopy]
      exact hs d (List.mem_cons_of_mem _ hd)
    rw [← hx] at honly' hcopy' hbyte' hvalid'
    refine ⟨honly.trans honly', fun j => (hcopy' j).trans (hcopy j), fun a => (hbyte' a).trans ?_, fun j => (hvalid' j).trans ?_⟩
    · have hother (d : Nat) (hd : d ∈ ks) (ha : lo d ≤ a ∧ a < lo d + len) : ¬ (lo c ≤ a ∧ a < lo c + len) := fun hin => by
        have hne : d ≠ c := fun he => hc (he ▸ hd)
        have h1 := hdouble c
        have h2 := hdouble d
        unfold lo tcmAddr copyIx at *
        omega
      rw [hbyte, List.find?_cons]
      by_cases hin : lo c ≤ a ∧ a < lo c + len
      · rw [decide_eq_true hin, if_pos hin]
        split
        next d hd =>
          have hrange := List.find?_some hd
          rw [decide_eq_true_eq] at hrange
          exact absurd hin (hother d (List.mem_of_find?_eq_some hd) hrange)
        next => rfl
      · rw [decide_eq_false hin, if_neg hin]
    · rw [hvalid, List.any_cons]
      by_cases hj : lo c / 8 = j
      · rw [if_pos hj, decide_eq_true hj, Bool.true_or, if_pos rfl, ite_self]
      · rw [if_neg hj, decide_eq_false hj, Bool.false_or]

/-- What an access of the own data TCM does when it is released: nothing for a load, the stores of the copies for a store. -/
def State.tcmAccessed (s : State) (t : Nat) (acc : Access) (h : Half) (ks : List Nat) : State :=
  if acc.kind = .store then s.tcmStores t (h.pa % 0x10000) h.n (acc.data.toNat % 2 ^ (8 * 2 ^ acc.size)) ks else s

theorem State.accessAll_tcm {s : State} {t tag : Nat} {ks : List Nat} {acc : Access} {h : Half} (hh : h.how = .tcm)
    (hk : acc.kind = .load ∨ acc.kind = .store) (hgot : s.gotOf t tag = []) (htriads : (s.tcmAccessed t acc h ks).triads = s.triads) :
    s.accessAll t tag ks (ks.map fun c => (c, acc.one h)) (acc.one h) (s.gotOf t tag) [h] 0 [] = (.done [0], s.tcmAccessed t acc h ks) := by
  have hkind : (acc.one h).kind = acc.kind := rfl
  have hhalf : s.accessHalf t tag ks (acc.one h) 0 h [] = (some Resp.fine, [], s) := by
    unfold State.accessHalf
    dsimp only
    rw [hkind, hh]
    rcases hk with hk | hk <;> rw [hk]
  have hfold : (ks.map fun c => (c, acc.one h)).foldl (fun s x => s.tcmStore (copyIx t x.1) x.2 0 h) s = s.tcmAccessed t acc h ks := by
    unfold State.tcmAccessed
    rw [List.foldl_map]
    rcases hk with hk | hk
    · have hone (y : State) (c : Nat) : y.tcmStore (copyIx t c) (acc.one h) 0 h = y := by
        unfold State.tcmStore
        rw [hkind, hk]
      simp [hone, hk]
    · have hone (y : State) (c : Nat) : y.tcmStore (copyIx t c) (acc.one h) 0 h =
          y.tcmStoreAt (tcmAddr (copyIx t c) (h.pa % 0x10000)) h.n (acc.data.toNat % 2 ^ (8 * 2 ^ acc.size)) := by
        unfold State.tcmStore
        rw [hkind, hh, hk]
        rfl
      rw [if_pos hk]
      simp only [hone]
      rfl
  rw [hgot, State.accessAll, hhalf]
  dsimp only
  rw [if_neg (by decide), hfold, State.accessAll]
  have hgot' : (s.tcmAccessed t acc h ks).gotOf t tag = [] := by rw [← hgot, State.gotOf, State.triad, htriads, State.gotOf, State.triad]
  rw [State.setGot, if_pos hgot']
  rfl

/-- The commit of an access that has changed the copies' data TCMs alone. -/
theorem Finished.committedAt {s u v : State} {w : Who} {f : Nat → Copy → Copy} {m : Nat → Byte} {valid : Nat → Nat} (hf : Finished s u v w f)
    (honly : TcmOnly s u) (hcopy : ∀ j, u.copy j = s.copy j) (hbyte : ∀ a, u.byte a = m a) (hvalid : ∀ j, SMap.get 0 u.prot.valid j = valid j) :
    CommittedAt s v w f m valid := by
  have hregs : u.regs = s.regs := by rw [honly.eq]
  have hmem : v.mem = u.mem := by rw [hf.rest]
  have hprot : v.prot = u.prot := by rw [hf.rest]
  refine ⟨fun c hc => ?_, fun k hk => (hf.others k hk).trans (hcopy k), ?_, fun r hr => (hf.regs r hr).trans (State.rd_congr hregs r),
    fun a => ?_, fun j => ?_, ?_⟩
  · rw [hf.each c hc, hcopy]
  · rw [hf.count, State.fget_congr hregs, State.groupMode_congr hregs, State.leader_congr hregs]
    rfl
  · rw [← hbyte, State.byte, hmem, State.byte]
  · rw [← hvalid, hprot]
  · obtain ⟨copies, mem, marks, rfl⟩ := honly
    rw [hf.rest]

/-- A load or store of the own data TCM, released to its copies. -/
theorem exec_tcm {i : Instr} {s : State} {w : Who} {g : Guard} {acc : Access} {va : Word} {h : Half} (hg : i.guard = some (w, g))
    (hr : i.reserved = false) (hready : Ready s w g) (ha : accessOf i (s.lead w) = some (acc, va))
    (hp : (s.lead w).plan acc.kind va (2 ^ acc.size) = .ok [h]) (hh : h.how = .tcm) (hk : acc.kind = .load ∨ acc.kind = .store)
    (htriads : (s.tcmAccessed w.t.val acc h (s.runners w)).triads = s.triads) : ∃ t, exec i s = .next t ∧
      Finished s (s.tcmAccessed w.t.val acc h (s.runners w)) t w
        ((s.tcmAccessed w.t.val acc h (s.runners w)).accessed g (Local.access (s.lead w) acc va) (acc.one h) [0]) := by
  obtain ⟨hacc, htrap, -⟩ := Local.access_one hp
  obtain ⟨-, hstay, -⟩ := Local.access_commits hp
  obtain ⟨hgot, -⟩ := hready.toLockstep.no_access
  exact ⟨_, exec_access_released hg hr hready ha (State.tcm_not_waiting hp hh hk),
    State.release_access hready.runs htrap hacc hstay (Or.inl hh) (State.accessAll_tcm hh hk hgot htriads)⟩

theorem State.loaded_one (s : State) (k : Nat) (acc : Access) (h : Half) (d : Nat) : s.loaded k (acc.one h) [d] = if acc.sext then
    BitVec.ofInt 64 (signed (8 * 2 ^ acc.size) (s.halfValue k h d)) else BitVec.ofNat 64 (s.halfValue k h d) := rfl

/-- A load of the own data TCM. -/
theorem exec_tcm_load {i : Instr} {s : State} {w : Who} {g : Guard} {acc : Access} {va : Word} {h : Half} (hg : i.guard = some (w, g))
    (hr : i.reserved = false) (hready : Ready s w g) (ha : accessOf i (s.lead w) = some (acc, va))
    (hp : (s.lead w).plan acc.kind va (2 ^ acc.size) = .ok [h]) (hh : h.how = .tcm) (hk : acc.kind = .load) :
    ∃ t, exec i s = .next t ∧ CommittedAt s t w (fun k c =>
      let raw := s.bytes (tcmAddr k (h.pa % 0x10000)) (2 ^ acc.size)
      let v : Word := if acc.sext then BitVec.ofInt 64 (signed (8 * 2 ^ acc.size) raw) else BitVec.ofNat 64 raw
      { c.done g 1 c with pend := if acc.isF = false ∧ acc.dest = 0 then none else some (acc.isF, acc.dest, v), slot := true }) s.byte
      fun j => SMap.get 0 s.prot.valid j := by
  have hsame : s.tcmAccessed w.t.val acc h (s.runners w) = s := by
    unfold State.tcmAccessed
    rw [hk]
    rfl
  obtain ⟨hacc, -, -⟩ := Local.access_one hp
  obtain ⟨hcopy, hstay, hnext, hlatch, hcycles⟩ := Local.access_commits hp
  obtain ⟨hn, -, -⟩ := Copy.plan_one hp
  obtain ⟨t, hexec, hfin⟩ := exec_tcm hg hr hready ha hp hh (Or.inl hk) (by rw [hsame])
  rw [hsame] at hfin
  have hcommit := hfin.committedAt ⟨s.copies, s.mem, s.prot.valid, rfl⟩ (fun _ => rfl) (fun _ => rfl) fun _ => rfl
  refine ⟨t, hexec, fun c hc => (hcommit.each c hc).trans ?_, hcommit.others, hcommit.count, hcommit.regs, hcommit.bytes, hcommit.valid, hcommit.rest⟩
  have hret : (acc.one h).kind.returns = true := by
    change acc.kind.returns = true
    rw [hk]
    rfl
  have hvalue (k : Nat) : s.halfValue k h 0 = s.bytes (tcmAddr k (h.pa % 0x10000)) (2 ^ acc.size) := by
    unfold State.halfValue
    rw [hh, hn]
  obtain ⟨p, htake, hpsr, -⟩ := Copy.takeLoad_pending (acc := acc.one h) (show acc.now = false from accessOf_now ha) ((s.lead w).done g 1 (s.lead w))
    (s.loaded (copyIx w.t.val c) (acc.one h) [0])
  rw [hready.same c hc, State.accessed, if_pos hret, Copy.retire_access_done (by rw [hacc]; rfl) hcopy hstay hnext hlatch hcycles,
    htake, hpsr hk, State.loaded_one, hvalue]
  rfl

/-- A byte of a number is a byte of its low bytes. -/
theorem ofNat_byte_mod (d : Nat) {n i : Nat} (hi : i < n) : BitVec.ofNat 8 (d % 2 ^ (8 * n) / 256 ^ i) = BitVec.ofNat 8 (d / 256 ^ i) := by
  refine BitVec.eq_of_getLsbD_eq fun j hj => ?_
  have hlow : j + 8 * i < 8 * n := by omega
  rw [BitVec.getLsbD_ofNat, BitVec.getLsbD_ofNat, show 256 ^ i = 2 ^ (8 * i) by rw [Nat.pow_mul], Nat.testBit_div_two_pow, Nat.testBit_div_two_pow,
    Nat.testBit_mod_two_pow, decide_eq_true hlow, Bool.true_and]

/-- A store of the own data TCM. -/
theorem exec_tcm_store {i : Instr} {s : State} {w : Who} {g : Guard} {acc : Access} {va : Word} {h : Half} (hg : i.guard = some (w, g))
    (hr : i.reserved = false) (hready : Ready s w g) (ha : accessOf i (s.lead w) = some (acc, va))
    (hp : (s.lead w).plan acc.kind va (2 ^ acc.size) = .ok [h]) (hh : h.how = .tcm) (hk : acc.kind = .store) :
    let lo (c : Nat) := tcmAddr (copyIx w.t.val c) (h.pa % 0x10000)
    ∃ t, exec i s = .next t ∧ CommittedAt s t w (fun _ c => c.done g 1 c) (fun a =>
      match (s.runners w).find? fun c => decide (lo c ≤ a ∧ a < lo c + 2 ^ acc.size) with
      | some c => BitVec.ofNat 8 (acc.data.toNat / 256 ^ (a - lo c))
      | none => s.byte a) fun j => if (s.runners w).any fun c => decide (lo c / 8 = j) then 3 else SMap.get 0 s.prot.valid j := by
  intro lo
  have hstored : s.tcmAccessed w.t.val acc h (s.runners w) =
      s.tcmStores w.t.val (h.pa % 0x10000) h.n (acc.data.toNat % 2 ^ (8 * 2 ^ acc.size)) (s.runners w) := if_pos hk
  obtain ⟨hacc, -, -⟩ := Local.access_one hp
  obtain ⟨hcopy, hstay, hnext, hlatch, hcycles⟩ := Local.access_commits hp
  obtain ⟨hn, hfits, -⟩ := Copy.plan_one hp
  rw [hn] at hstored
  obtain ⟨honly, hcopies, hbyte, hvalid⟩ := State.tcmStores_sound (off := h.pa % 0x10000) (Nat.two_pow_pos acc.size) (by omega)
    (acc.data.toNat % 2 ^ (8 * 2 ^ acc.size)) (s.runners_nodup w) (s.runners_lt w) hready.phase
    fun c hc => ⟨(hready.sound c hc).ue, (hready.sound c hc).ce⟩
  rw [← hstored] at honly hcopies hbyte hvalid
  obtain ⟨t, hexec, hfin⟩ := exec_tcm hg hr hready ha hp hh (Or.inr hk) (by rw [honly.eq])
  have hcommit := hfin.committedAt honly hcopies hbyte hvalid
  refine ⟨t, hexec, fun c hc => (hcommit.each c hc).trans ?_, hcommit.others, hcommit.count, hcommit.regs, fun a => (hcommit.bytes a).trans ?_,
    hcommit.valid, hcommit.rest⟩
  · have hret : (acc.one h).kind.returns = false := by
      change acc.kind.returns = false
      rw [hk]
      rfl
    rw [hready.same c hc, State.accessed, hret, if_neg Bool.false_ne_true,
      Copy.retire_access_done (by rw [hacc]; rfl) hcopy hstay hnext hlatch hcycles]
  · cases hfind : (s.runners w).find? fun c => decide (lo c ≤ a ∧ a < lo c + 2 ^ acc.size) with
    | none => rfl
    | some c =>
      have hrange := List.find?_some hfind
      rw [decide_eq_true_eq] at hrange
      have hoff : a - lo c < 2 ^ acc.size := by omega
      exact ofNat_byte_mod _ hoff

/-! ### Accesses outside the triad (R53, R99, R103) -/

/-- One request of an instruction that its target serves at once with a good response. -/
theorem State.coreServe_ok {s : State} {t : Nat} {ks : List Nat} {m : MeshReq} {a : Word} (hown : ∀ f ∈ s.mesh.flights, f.own = true → f.req ≠ m)
    (hlate : (m.rq.init.val, a, reqWrites m) ∉ s.mesh.late) (hb : s.reqBlocked m = false) :
    s.coreServe t ks [] m a = (some (s.serve m).1, [(m, (s.serve m).1)],
      (s.serve m).2.stall t ks (classBounds m.op m.pa.toNat (s.readsAgain m) false)) := by
  have hfind : (s.mesh.flights.find? fun f => f.own && decide (f.req = m)) = none := by
    rw [List.find?_eq_none]
    simpa using hown
  have hcontains : s.mesh.late.contains (m.rq.init.val, a, reqWrites m) = false := by simpa using hlate
  have hserve : s.serveAt m a = s.serve m := by
    unfold State.serveAt
    dsimp only
    rw [hcontains, if_neg Bool.false_ne_true]
  unfold State.coreServe
  rw [List.find?_nil]
  dsimp only
  rw [hfind, hb, Bool.and_false, if_neg Bool.false_ne_true, hserve]
  rfl

/-- What the access does to the copies once its target has answered: an atomic's line is discarded (R99). -/
def State.afterServe (s : State) (t : Nat) (ks : List Nat) (acc : Access) (h : Half) : State :=
  match acc.kind with
  | .atom _ => s.forCopies t ks fun c => match c.dHit h.pa with
    | some key => c.dropDLine key
    | none => c
  | _ => s

theorem State.afterServe_keeps (s : State) (t : Nat) (ks : List Nat) (acc : Access) (h : Half) :
    (s.afterServe t ks acc h).mem = s.mem ∧ (s.afterServe t ks acc h).pcs = s.pcs := by
  unfold State.afterServe
  split
  · refine ⟨by rw [State.forCopies_frame], State.foldl_pcs (fun s c => State.modCopy_pcs s _ fun c => ?_) ks s⟩
    split <;> rfl
  · exact ⟨rfl, rfl⟩

theorem State.accessHalf_ok {s u : State} {w : Who} {ks : List Nat} {acc : Access} {h : Half} {r : Resp} {got : Got} (hh : h.how = .plain)
    (hserve : s.coreServe w.t.val ks [] (s.accessReq w acc h) h.va = (some r, got, u)) (hok : r.status = .ok) :
    s.accessHalf w.t.val (s.copyTag w) ks (acc.one h) 0 h [] = (some r, got, u.afterServe w.t.val ks acc h) := by
  have hkind : (acc.one h).kind = acc.kind := rfl
  unfold State.accessReq at hserve
  unfold State.accessHalf State.afterServe
  rw [hkind, hh]
  cases hk : acc.kind with
  | load =>
    rw [hk] at hserve
    exact hserve
  | store =>
    rw [hk] at hserve
    exact hserve
  | atom op =>
    rw [hk] at hserve
    dsimp only at hserve ⊢
    change onOk (s.coreServe w.t.val ks [] (coreReq w.t.val (s.copyTag w) (.atomic) op h.pa h.n acc.data.toNat acc.cmp.toNat) h.va) _ = _
    rw [hserve, onOk]
    exact if_pos hok

theorem State.stall_pcs (s : State) (t : Nat) {ks : List Nat} (hn : ks.Nodup) (b : Nat × Nat) :
    (s.stall t ks b).mem = s.mem ∧ (s.stall t ks b).pcs = s.pcs := by
  obtain ⟨hrest, hcycles⟩ := s.stall_copies t hn b
  refine ⟨by rw [hrest], funext fun k => ?_⟩
  obtain ⟨n, hk⟩ := hcycles k
  exact (congrArg Copy.pc hk).trans rfl

theorem State.setGot_pcs (s : State) (t tag : Nat) (got : Got) : (s.setGot t tag got).mem = s.mem ∧ (s.setGot t tag got).pcs = s.pcs := by
  unfold State.setGot
  split <;> exact ⟨rfl, rfl⟩

/-- The released access to memory outside the triad: memory as the target leaves it, and the copies where they were. -/
theorem State.accessAll_plain {s : State} {w : Who} {acc : Access} {h : Half} (hl : Lockstep s w) (hh : h.how = .plain)
    (hfree : s.unblocked w acc h) (hmmio : windowOf (s.accessReq w acc h).pa.toNat ≠ .mmio) (hok : (s.serve (s.accessReq w acc h)).1.status = .ok) :
    ∃ u, s.accessAll w.t.val (s.copyTag w) (s.runners w) ((s.runners w).map fun c => (c, acc.one h)) (acc.one h) (s.gotOf w.t.val (s.copyTag w))
        [h] 0 [] = (.done [(s.serve (s.accessReq w acc h)).1.data], u) ∧
      u.mem = (s.serve (s.accessReq w acc h)).2.mem ∧ u.pcs = s.pcs := by
  obtain ⟨-, -, hb, hlate⟩ := hfree
  obtain ⟨hinit, htag⟩ := s.accessReq_rq w acc h
  obtain ⟨hgot, hflights⟩ := hl.no_access
  have hserve := State.coreServe_ok (t := w.t.val) (ks := s.runners w) (m := s.accessReq w acc h) (a := h.va)
    (fun f hf ho he => hflights f hf ho (he ▸ hinit) (he ▸ htag)) (by rw [hinit]; exact hlate) hb
  obtain ⟨hmem, hpcs⟩ := State.afterServe_keeps ((s.serve (s.accessReq w acc h)).2.stall w.t.val (s.runners w)
    (classBounds (s.accessReq w acc h).op (s.accessReq w acc h).pa.toNat (s.readsAgain (s.accessReq w acc h)) false)) w.t.val (s.runners w) acc h
  obtain ⟨hstall, hstallPcs⟩ := State.stall_pcs (s.serve (s.accessReq w acc h)).2 w.t.val (s.runners_nodup w)
    (classBounds (s.accessReq w acc h).op (s.accessReq w acc h).pa.toNat (s.readsAgain (s.accessReq w acc h)) false)
  have hhalf := State.accessHalf_ok hh hserve hok
  generalize State.afterServe _ _ _ _ _ = x at hmem hpcs hhalf
  have hfold (ks : List Nat) : (ks.map fun c => (c, acc.one h)).foldl (fun s x => s.tcmStore (copyIx w.t.val x.1) x.2 0 h) x = x := by
    have hone (y : State) (c : Nat) : y.tcmStore (copyIx w.t.val c) (acc.one h) 0 h = y := by
      unfold State.tcmStore
      rw [hh]
      split
      next heq => cases heq
      next => rfl
    rw [List.foldl_map]
    simp [hone]
  refine ⟨x.setGot w.t.val (s.copyTag w) [], ?_, ?_, ?_⟩
  · rw [hgot, State.accessAll, hhalf]
    dsimp only
    rw [if_neg (not_not_intro hok), hfold, State.accessAll]
    rfl
  · exact (x.setGot_pcs _ _ _).1.trans (hmem.trans hstall)
  · exact (x.setGot_pcs _ _ _).2.trans (hpcs.trans (hstallPcs.trans (State.serve_pcs hmmio hb hok)))

/-- The fields of a copy that a load, store or atomic outside the triad has left (R92, R94, R96, R105). -/
theorem State.accessed_fields {u : State} {c x : Copy} {g : Guard} {acc : Access} {va : Word} {h : Half} (hn : acc.now = false)
    (hp : c.plan acc.kind va (2 ^ acc.size) = .ok [h]) (hh : h.how = .plain) (k d : Nat) :
    let n := 2 ^ acc.size
    let raw := d % 2 ^ (8 * n)
    let v : Word := if acc.sext then BitVec.ofInt 64 (signed (8 * n) raw) else BitVec.ofNat 64 raw
    let y := u.accessed g (Local.access c acc va) (acc.one h) [d] k x
    y.pc = x.pc + BitVec.ofNat 64 g.len ∧ y.instret = c.instret + 1 ∧ y.g = c.flushPend.g ∧ y.f = c.flushPend.f ∧
      y.pend = (if acc.kind = .store ∨ (acc.isF = false ∧ acc.dest = 0) then none else some (acc.isF, acc.dest, v)) ∧
      y.slot = decide (acc.kind ≠ .store) ∧
      (acc.kind = .atom .cas → y.flags.z = decide (v.toNat % 2 ^ (8 * n) = acc.cmp.toNat % 2 ^ (8 * n))) := by
  intro n raw v y
  obtain ⟨hcopy, hstay, hnext, hlatch, -⟩ := Local.access_commits hp
  obtain ⟨hone, -, -⟩ := Copy.plan_one hp
  obtain ⟨hpc, hinst, hregs, hfregs, hpend, hslot⟩ := Copy.retire_access (x := x) (g := g) hcopy hstay hnext hlatch
  have hkind : (acc.one h).kind = acc.kind := rfl
  have hvalue : u.loaded k (acc.one h) [d] = v := by
    have hhalf : u.halfValue k h d = raw := by
      unfold State.halfValue
      rw [hh, hone]
    rw [State.loaded_one, hhalf]
  by_cases hstore : acc.kind = .store
  · have hy : y = x.retire g (Local.access c acc va) := by
      unfold y State.accessed
      rw [hkind, hstore]
      rfl
    rw [hy, if_pos (Or.inl hstore)]
    refine ⟨hpc, hinst, hregs, hfregs, hpend, by rw [hslot, hstore]; rfl, fun hcas => ?_⟩
    rw [hstore] at hcas
    cases hcas
  · have hret : acc.kind.returns = true := by
      cases hk : acc.kind
      · rfl
      · exact absurd hk hstore
      · rfl
    obtain ⟨p, htake, -, hz⟩ := Copy.takeLoad_pending (acc := acc.one h) hn (x.retire g (Local.access c acc va)) v
    have hy : y = (x.retire g (Local.access c acc va)).takeLoad (acc.one h) v := by
      unfold y State.accessed
      rw [hkind, hret, if_pos rfl, hvalue]
    rw [hy, htake]
    refine ⟨hpc, hinst, hregs, hfregs, ?_, by simp [hstore], hz⟩
    simp only [hstore, false_or]
    rfl

/-- An access to memory outside the triad that its target answers OK, in every copy that runs it. -/
theorem exec_plain {i : Instr} {s : State} {w : Who} {g : Guard} {acc : Access} {va : Word} {h : Half} (hg : i.guard = some (w, g))
    (hr : i.reserved = false) (hready : Ready s w g) (ha : accessOf i (s.lead w) = some (acc, va))
    (hp : (s.lead w).plan acc.kind va (2 ^ acc.size) = .ok [h]) (hh : h.how = .plain) (hfree : s.unblocked w acc h)
    (hok : (s.serve (s.accessReq w acc h)).1.status = .ok) :
    ∃ t u : State, exec i s = .next t ∧ t.mem = (s.serve (s.accessReq w acc h)).2.mem ∧ u.pcs = s.pcs ∧ ∀ c ∈ s.runners w,
      t.copy (copyIx w.t.val c) = u.accessed g (Local.access (s.lead w) acc va) (acc.one h) [(s.serve (s.accessReq w acc h)).1.data]
        (copyIx w.t.val c) (u.copy (copyIx w.t.val c)) := by
  have ⟨hmmio, htag, _, _⟩ := hfree
  obtain ⟨hacc, htrap, -⟩ := Local.access_one hp
  obtain ⟨-, hstay, -⟩ := Local.access_commits hp
  have hpa : (s.accessReq w acc h).pa.toNat = h.pa := by
    have hpa : (s.accessReq w acc h).pa = BitVec.ofNat 44 h.pa := by
      unfold State.accessReq
      split <;> rfl
    rw [Ne, windowOf_mmio] at hmmio
    unfold paMmio at hmmio
    rw [hpa, BitVec.toNat_ofNat, Nat.mod_eq_of_lt (by omega)]
  obtain ⟨u, hall, hmem, hpcs⟩ := State.accessAll_plain hready.toLockstep hh hfree (by rw [hpa]; exact hmmio) hok
  have hfin := State.release_access (g := g) hready.runs htrap hacc hstay (Or.inr hh) hall
  refine ⟨_, u, exec_access_released hg hr hready ha (State.access_not_waiting hp hh hmmio htag), ?_, hpcs, hfin.each⟩
  rw [hfin.rest]
  exact hmem

/-- Settles O14: an access of the own data TCM by what it leaves in each copy's own data TCM, and one outside the triad by its target's one answer. -/
theorem loadsStoresAndAtomics : Obligations.LoadsStoresAndAtomics := by
  unfold Obligations.LoadsStoresAndAtomics
  refine ⟨fun i s w g acc va h hg hr hready ha hp hh => ⟨exec_tcm_load hg hr hready ha hp hh, exec_tcm_store hg hr hready ha hp hh⟩,
    fun i s w g acc va h hg hr hready ha hp hh hfree hok => ?_⟩
  obtain ⟨t, u, hexec, hmem, hpcs, heach⟩ := exec_plain hg hr hready ha hp hh hfree hok
  refine ⟨t, hexec, hmem, fun c hc => ?_⟩
  have hfields := State.accessed_fields (u := u) (x := u.copy (copyIx w.t.val c)) (g := g) (accessOf_now ha) hp hh (copyIx w.t.val c)
    (s.serve (s.accessReq w acc h)).1.data
  have hpc : (u.copy (copyIx w.t.val c)).pc = (s.copy (copyIx w.t.val c)).pc := congrFun hpcs _
  rw [hready.same c hc] at hpc
  dsimp only at hfields ⊢
  rw [hpc, ← heach c hc] at hfields
  rw [hready.same c hc]
  exact hfields

end Sys2Proof.Machine
end

section
/-!
PROOFS. The integer instructions: what each operation of the ALU computes, said with the operations of numbers, and the obligation
(Obligations.IntegerAluResultAndFlags).
-/

namespace Sys2Proof.Machine

/-! ### Sums and differences (R93, R94) -/

theorem toInt_complement (x : Word) : (~~~x).toInt = -x.toInt - 1 := by
  have hnot : (~~~x).toNat = 2 ^ 64 - 1 - x.toNat := BitVec.toNat_not
  have hx := x.isLt
  rw [BitVec.toInt_eq_toNat_cond, BitVec.toInt_eq_toNat_cond, hnot]
  split <;> split <;> omega

/-- The flags of a sum or difference: its result, its carry out, and its exact value (R93). -/
def Nzcv.ofSum (r : Word) (carry : Bool) (exact : Int) : Nzcv := { n := r.msb, z := decide (r = 0), c := carry, v := decide (r.toInt ≠ exact) }

theorem addWithCarry_sum (a b : Word) (cin : Bool) :
    let r := a + b + BitVec.ofNat 64 (b2n cin)
    addWithCarry a b cin = (r, Nzcv.ofSum r (decide (2 ^ 64 ≤ a.toNat + b.toNat + b2n cin)) (a.toInt + b.toInt + (b2n cin : Nat))) := by
  have hsum : BitVec.ofNat 64 (a.toNat + b.toNat + b2n cin) = a + b + BitVec.ofNat 64 (b2n cin) := by
    rw [BitVec.ofNat_add, BitVec.ofNat_add, BitVec.ofNat_toNat, BitVec.ofNat_toNat, BitVec.setWidth_eq, BitVec.setWidth_eq]
  unfold addWithCarry Nzcv.ofSum
  dsimp only
  rw [hsum]

/-- A subtraction adds the complement: its carry out is "no borrow". -/
theorem addWithCarry_difference (a b : Word) (cin : Bool) :
    let r := a - b - BitVec.ofNat 64 (1 - b2n cin)
    addWithCarry a (~~~b) cin =
      (r, Nzcv.ofSum r (decide (b.toNat + (1 - b2n cin) ≤ a.toNat)) (a.toInt - b.toInt - (1 - b2n cin : Nat))) := by
  have hdiff : a + ~~~b + BitVec.ofNat 64 (b2n cin) = a - b - BitVec.ofNat 64 (1 - b2n cin) := by
    have hone : BitVec.ofNat 64 (b2n cin) = 1#64 - BitVec.ofNat 64 (1 - b2n cin) := by cases cin <;> rfl
    rw [hone, BitVec.not_eq_neg_add]
    ring
  have hnot : (~~~b).toNat = 2 ^ 64 - 1 - b.toNat := BitVec.toNat_not
  have hb := b.isLt
  have hk : b2n cin ≤ 1 := by cases cin <;> decide
  have hcarry : (2 ^ 64 ≤ a.toNat + (~~~b).toNat + b2n cin) ↔ b.toNat + (1 - b2n cin) ≤ a.toNat := by omega
  have hexact : a.toInt + (~~~b).toInt + ((b2n cin : Nat) : Int) = a.toInt - b.toInt - ((1 - b2n cin : Nat) : Int) := by
    rw [toInt_complement]
    omega
  intro r
  rw [addWithCarry_sum, hdiff, hexact]
  simp only [hcarry]
  rfl

/-! ### Minimum, maximum, extension -/

theorem minMaxResult_signed (x y : Word) :
    minMaxResult .min x y = (if x.toInt ≤ y.toInt then x else y) ∧ minMaxResult .max x y = (if x.toInt ≤ y.toInt then y else x) := by
  simp only [minMaxResult, BitVec.slt_eq_decide, decide_eq_true_eq]
  rcases lt_trichotomy x.toInt y.toInt with h | h | h
  · simp [h, le_of_lt h]
  · obtain rfl := BitVec.eq_of_toInt_eq h
    simp
  · simp [not_lt.mpr (le_of_lt h), not_le.mpr h]

theorem minMaxResult_unsigned (x y : Word) :
    minMaxResult .minu x y = (if x.toNat ≤ y.toNat then x else y) ∧ minMaxResult .maxu x y = (if x.toNat ≤ y.toNat then y else x) := by
  simp only [minMaxResult, BitVec.ult_eq_decide, decide_eq_true_eq]
  rcases lt_trichotomy x.toNat y.toNat with h | h | h
  · simp [h, le_of_lt h]
  · obtain rfl := BitVec.eq_of_toNat_eq h
    simp
  · simp [not_lt.mpr (le_of_lt h), not_le.mpr h]

/-- The low bits of a word are those that a mask of ones leaves. -/
theorem setWidth_eq_and_mask (x : Word) {n : Nat} (hn : n ≤ 64) : (x.setWidth n).setWidth 64 = x &&& BitVec.ofNat 64 (2 ^ n - 1) := by
  have hpow : 2 ^ n ≤ 2 ^ 64 := Nat.pow_le_pow_right (by decide) hn
  refine BitVec.eq_of_toNat_eq ?_
  rw [BitVec.toNat_setWidth_of_le hn, BitVec.toNat_setWidth, BitVec.toNat_and, BitVec.toNat_ofNat, Nat.mod_eq_of_lt (a := 2 ^ n - 1) (by omega),
    Nat.and_two_pow_sub_one_eq_mod]

/-! ### Counts -/

theorem leadZeros_length (a : Word) (n : Nat) : leadZeros a n = ((List.range n).takeWhile fun i => !a.getLsbD (n - 1 - i)).length := by
  induction n with
  | zero => rfl
  | succ n ih =>
    have hnext : (fun i => !a.getLsbD (n + 1 - 1 - i)) ∘ Nat.succ = fun i => !a.getLsbD (n - 1 - i) := by
      funext i
      simp only [Function.comp, Nat.succ_eq_add_one]
      congr 2
      omega
    rw [leadZeros, ih, List.range_succ_eq_map, List.takeWhile_cons, List.takeWhile_map, hnext, Nat.add_sub_cancel, Nat.sub_zero, bit]
    cases a.getLsbD n
    · simp [Nat.add_comm]
    · simp

theorem trailZeros_length (a : Word) {n : Nat} (hn : n ≤ 64) :
    trailZeros a n = ((List.range n).takeWhile fun i => !a.getLsbD (64 - n + i)).length := by
  induction n with
  | zero => rfl
  | succ n ih =>
    have hnext : (fun i => !a.getLsbD (64 - (n + 1) + i)) ∘ Nat.succ = fun i => !a.getLsbD (64 - n + i) := by
      funext i
      simp only [Function.comp, Nat.succ_eq_add_one]
      congr 2
      omega
    have hfirst : 64 - (n + 1) + 0 = 63 - n := by omega
    rw [trailZeros, ih (by omega), List.range_succ_eq_map, List.takeWhile_cons, List.takeWhile_map, hnext, hfirst, bit]
    cases a.getLsbD (63 - n)
    · simp [Nat.add_comm]
    · simp

theorem popCount_length (a : Word) (n : Nat) : popCount a n = ((List.range n).filter fun i => a.getLsbD i).length := by
  induction n with
  | zero => rfl
  | succ n ih =>
    rw [popCount, ih, List.range_succ, List.filter_append, List.length_append, bit, List.filter_singleton]
    cases a.getLsbD n
    · simp [b2n]
    · simp [b2n, Nat.add_comm]

/-- The bytes put in reverse order so far, from the top, are those read so far, the first as the highest. -/
theorem byteReverse_prefix (a : Word) {n : Nat} (hn : n ≤ 8) :
    (List.range n).foldl (fun r i => r ||| (((a >>> (8 * i)) &&& 0xff#64) <<< (56 - 8 * i))) 0 =
      (List.range n).foldl (fun r i => r * 256 + ((a >>> (8 * i)) &&& 0xFF)) 0 <<< (64 - 8 * n) := by
  induction n with
  | zero => simp
  | succ n ih =>
    rw [List.range_succ, List.foldl_append, List.foldl_append, ih (by omega)]
    simp only [List.foldl_cons, List.foldl_nil]
    generalize (List.range n).foldl (fun r i => r * 256 + ((a >>> (8 * i)) &&& 0xFF)) 0 = r
    have hmul : r * 256 = r <<< 8 := by
      rw [BitVec.shiftLeft_eq_mul_twoPow]
      rfl
    have hdisjoint : r <<< 8 &&& (a >>> (8 * n) &&& 0xff#64) = 0#64 := by
      refine BitVec.eq_of_getLsbD_eq fun i hi => ?_
      have hmask : (0xff#64).getLsbD i = decide (i < 8) := by
        revert i
        decide
      rw [BitVec.getLsbD_and, BitVec.getLsbD_and, hmask, BitVec.getLsbD_shiftLeft]
      by_cases h : i < 8 <;> simp [h]
    rw [hmul]
    change _ = (r <<< 8 + (a >>> (8 * n) &&& 0xff#64)) <<< _
    rw [BitVec.add_eq_or_of_and_eq_zero _ _ hdisjoint, BitVec.shiftLeft_or_distrib, ← BitVec.shiftLeft_add,
      show 8 + (64 - 8 * (n + 1)) = 64 - 8 * n by omega, show 64 - 8 * (n + 1) = 56 - 8 * n by omega]

/-- What the counts and REV compute. -/
theorem countResult_counts (x : Word) :
    countResult .clz x = BitVec.ofNat 64 ((List.range 64).takeWhile fun i => !x.getLsbD (63 - i)).length ∧
    countResult .ctz x = BitVec.ofNat 64 ((List.range 64).takeWhile fun i => !x.getLsbD i).length ∧
    countResult .popc x = BitVec.ofNat 64 ((List.range 64).filter fun i => x.getLsbD i).length ∧
    countResult .rev x = (List.range 8).foldl (fun r i => r * 256 + ((x >>> (8 * i)) &&& 0xFF)) 0 := by
  have hctz := trailZeros_length x (Nat.le_refl 64)
  simp only [Nat.sub_self, Nat.zero_add] at hctz
  refine ⟨?_, ?_, ?_, ?_⟩
  · rw [countResult, leadZeros_length]
  · rw [countResult, hctz]
  · rw [countResult, popCount_length]
  · rw [countResult, byteReverse, byteReverse_prefix x (Nat.le_refl 8)]
    exact BitVec.shiftLeft_zero _

/-! ### Shifts -/

theorem sshiftRight_div (x : Word) (n : Nat) : x.sshiftRight n = BitVec.ofInt 64 (x.toInt / 2 ^ n) := by
  rw [← BitVec.ofInt_toInt (x := x.sshiftRight n), BitVec.toInt_sshiftRight, Int.shiftRight_eq_div_pow]
  norm_cast

/-- A shift or rotate by less than the width. -/
theorem shiftResult_eq (fn : ShiftOp) (x : Word) {n : Nat} (hn : n < 64) : shiftResult fn x n = match fn with
    | .sll => x <<< n
    | .srl => x >>> n
    | .sra => BitVec.ofInt 64 (x.toInt / 2 ^ n)
    | .ror => (x >>> n) ||| (x <<< (64 - n)) := by
  cases fn with
  | sll => rfl
  | srl => rfl
  | sra => exact sshiftRight_div x n
  | ror => exact BitVec.rotateRight_def.trans (by rw [Nat.mod_eq_of_lt hn])

/-- The flags of a shift (R93; log entry 6). -/
theorem shiftFlags_eq (fn : ShiftOp) (x : Word) (n : Nat) : shiftFlags fn x n =
    { n := (shiftResult fn x n).msb, z := decide (shiftResult fn x n = 0)
      c := decide (0 < n) && (match fn with | .sll => x.getLsbD (64 - n) | _ => x.getLsbD (n - 1)), v := false } := by
  unfold shiftFlags
  rcases Nat.eq_zero_or_pos n with rfl | hn
  · rfl
  · simp only [Nat.pos_iff_ne_zero.mp hn, hn, if_false, decide_true, Bool.true_and]
    rfl

/-! ### The instructions -/

/-- An instruction of the ALU that is ready to run commits its result and, with S = 1, its flags. -/
theorem alu_committed {i : Instr} {s : State} {w : Who} {g : Guard} {body : Copy → Local} {sf : Bool} {d : RegNo} (h : Ready s w g)
    (he : exec i s = .next (s.run w g false body)) (r : Copy → Word) (fl : Copy → Nzcv) (hb : ∀ c, body c = Local.alu c sf d (r c) (fl c)) :
    ∃ t, exec i s = .next t ∧
      Committed s t w fun c => c.done g 1 (if sf then (c.setReg d (r c)).setFlags (fl c) else c.setReg d (r c)) :=
  ⟨_, he, State.runAlu_ready h r fl sf d hb⟩

/-- The same for an operation whose flags follow its result alone (R93). -/
theorem logic_committed {i : Instr} {s : State} {w : Who} {g : Guard} {body : Copy → Local} {sf : Bool} {d : RegNo} (h : Ready s w g)
    (he : exec i s = .next (s.run w g false body)) {r : Copy → Word} (res : Copy → Word) (hr : ∀ c, r c = res c)
    (hb : ∀ c, body c = Local.alu c sf d (r c) (logicFlags (r c))) :
    ∃ t, exec i s = .next t ∧ Committed s t w fun c =>
      c.done g 1 (if sf then (c.setReg d (res c)).setFlags (logicFlags (res c)) else c.setReg d (res c)) :=
  alu_committed h he res _ fun c => by rw [hb c, hr c]

theorem extResult_zero (x : Word) : extResult .zextb x = x &&& 0xFF ∧ extResult .zexth x = x &&& 0xFFFF ∧ extResult .zextw x = x &&& 0xFFFFFFFF :=
  ⟨setWidth_eq_and_mask x (by decide), setWidth_eq_and_mask x (by decide), setWidth_eq_and_mask x (by decide)⟩

/-- Settles O7: each operation's result and flags by its own lemma, committed as `runAlu_ready` says. -/
theorem integerAluResultAndFlags : Obligations.IntegerAluResultAndFlags := by
  unfold Obligations.IntegerAluResultAndFlags
  refine ⟨fun s w g fn sf d a b h => ?_, fun s w g sf d a b h => ⟨fun fn => ?_, fun fn => ?_, fun fn => ?_, fun fn => ?_, fun uns => ?_⟩,
    fun s w g fn sf d a b amt h => ⟨?_, ?_⟩⟩
  · obtain ⟨t, he, hc⟩ := alu_committed (i := .addAdcSubSbc w g fn sf d a b) (s := s) h rfl _ _ fun c => rfl
    refine ⟨t, he, hc.congr fun c => ?_⟩
    cases fn with
    | add => simp only [addResult, addWithCarry_sum, Nzcv.ofSum]; rfl
    | adc => simp only [addResult, addWithCarry_sum, Nzcv.ofSum]
    | sub => simp only [addResult, addWithCarry_difference, Nzcv.ofSum]; rfl
    | sbc => simp only [addResult, addWithCarry_difference, Nzcv.ofSum]
  · refine logic_committed h rfl _ (fun c => ?_) fun c => rfl
    cases fn <;> rfl
  · refine logic_committed h rfl _ (fun c => ?_) fun c => rfl
    cases fn with
    | min => exact (minMaxResult_signed _ _).1
    | max => exact (minMaxResult_signed _ _).2
    | minu => exact (minMaxResult_unsigned _ _).1
    | maxu => exact (minMaxResult_unsigned _ _).2
  · refine logic_committed h rfl _ (fun c => ?_) fun c => rfl
    obtain ⟨hb, hh, hw⟩ := extResult_zero (c.reg a)
    cases fn with
    | sextb => rfl
    | sexth => rfl
    | sextw => rfl
    | zextb => exact hb
    | zexth => exact hh
    | zextw => exact hw
  · refine logic_committed h rfl _ (fun c => ?_) fun c => rfl
    obtain ⟨hclz, hctz, hpopc, hrev⟩ := countResult_counts (c.reg a)
    cases fn with
    | clz => exact hclz
    | ctz => exact hctz
    | popc => exact hpopc
    | rev => exact hrev
  · refine logic_committed h rfl _ (fun c => ?_) fun c => rfl
    cases uns <;> rfl
  · have hn (c : Copy) : bits (c.reg b) 0 6 = (c.reg b).toNat % 64 := bits_zero_len _ 6
    obtain ⟨t, he, hc⟩ := alu_committed (i := .sllSrlSraRor w g fn sf d a b) (s := s) h rfl _ _ fun c => rfl
    refine ⟨t, he, hc.congr fun c => ?_⟩
    cases fn <;> simp only [hn, shiftFlags_eq, shiftResult_eq _ _ (Nat.mod_lt _ (by decide : 64 > 0))]
  · obtain ⟨t, he, hc⟩ := alu_committed (i := .shi w g fn sf d a amt 0) (s := s) h rfl _ _ fun c => rfl
    refine ⟨t, he, hc.congr fun c => ?_⟩
    cases fn <;> simp only [shiftFlags_eq, shiftResult_eq _ _ amt.isLt]

end Sys2Proof.Machine
end

section
/-!
PROOFS. The immediate forms, multiplication and division, and the obligation (Obligations.ImmediateAndMultiplyResults).
-/

namespace Sys2Proof.Machine

/-! ### Instructions that act in their copies alone -/

/-- What an instruction does in a copy has no trap, no access and nothing outside the copy; it takes `n` cycles and makes the copy `x`. -/
structure Local.Commits (l : Local) (n : Nat) (x : Copy) : Prop where
  trap    : l.trap = none
  acc     : l.acc = none
  sides   : l.sides.all (fun y => decide (y.kind ≠ 6)) = true
  stay    : l.stay = false
  nextPc  : l.nextPc = none
  noLatch : l.noLatch = false
  cycles  : l.cycles = n
  copy    : l.copy = x

theorem Local.nop_commits (c : Copy) : (Local.nop c).Commits 1 c := ⟨rfl, rfl, rfl, rfl, rfl, rfl, rfl, rfl⟩

theorem Local.toG_commits (c : Copy) (d : RegNo) (v : Word) (n : Nat) : (Local.toG c d v n).Commits n (c.setReg d v) :=
  ⟨rfl, rfl, rfl, rfl, rfl, rfl, rfl, rfl⟩

/-- Such an instruction, ready to run, commits in each copy. -/
theorem copies_committed {i : Instr} {s : State} {w : Who} {g : Guard} {body : Copy → Local} {n : Nat} {f : Copy → Copy} (h : Ready s w g)
    (he : exec i s = .next (s.run w g false body)) (hb : ∀ c, (body c).Commits n (f c)) :
    ∃ t, exec i s = .next t ∧ Committed s t w fun c => c.done g n (f c) := by
  obtain ⟨htrap, hacc, hsides, hstay, hnext, hlatch, hcycles, hcopy⟩ := hb (s.lead w)
  exact ⟨_, he, State.run_ready h htrap hacc hsides hstay hnext hlatch hcycles hcopy⟩

/-- One that writes an integer register. -/
theorem toG_committed {i : Instr} {s : State} {w : Who} {g : Guard} {body : Copy → Local} {d : RegNo} {n : Nat} {r : Copy → Word} (h : Ready s w g)
    (he : exec i s = .next (s.run w g false body)) (val : Copy → Word) (hr : ∀ c, r c = val c) (hb : ∀ c, body c = Local.toG c d (r c) n) :
    ∃ t, exec i s = .next t ∧ Committed s t w fun c => c.done g n (c.setReg d (val c)) :=
  copies_committed h he fun c => by rw [hb c, hr c]; exact Local.toG_commits c d _ n

/-! ### Multiplication and division (R94) -/

theorem movh_sum (x : Word) (imm : BitVec 16) : (x <<< 16) ||| imm.setWidth 64 = BitVec.ofNat 64 (x.toNat * 2 ^ 16 + imm.toNat) := by
  have hdisjoint : x <<< 16 &&& imm.setWidth 64 = 0#64 := by
    refine BitVec.eq_of_getLsbD_eq fun i hi => ?_
    rw [BitVec.getLsbD_and, BitVec.getLsbD_shiftLeft, BitVec.getLsbD_setWidth]
    by_cases h : i < 16
    · simp [h]
    · simp [BitVec.getLsbD_of_ge imm i (Nat.le_of_not_lt h)]
  rw [← BitVec.add_eq_or_of_and_eq_zero _ _ hdisjoint, BitVec.ofNat_add]
  refine congrArg₂ _ ?_ ?_
  · exact BitVec.eq_of_toNat_eq (by rw [BitVec.toNat_shiftLeft, Nat.shiftLeft_eq, BitVec.toNat_ofNat])
  · exact BitVec.eq_of_toNat_eq (by simp)

theorem mulResult_eq (fn : MulOp) (x y : Word) : mulResult fn x y = match fn with
    | .mul => BitVec.ofNat 64 (x.toNat * y.toNat)
    | .mulh => BitVec.ofInt 64 (x.toInt * y.toInt / 2 ^ 64)
    | .mulhu => BitVec.ofNat 64 (x.toNat * y.toNat / 2 ^ 64) := by
  cases fn with
  | mul => exact BitVec.eq_of_toNat_eq (by rw [mulResult, BitVec.toNat_mul, BitVec.toNat_ofNat])
  | mulh => rfl
  | mulhu => rfl

/-- Division truncates toward zero; the signed minimum divided by -1 wraps to itself. -/
theorem divResult_eq (fn : DivOp) (x y : Word) : divResult fn x y = match fn with
    | .div => if y = 0 then BitVec.allOnes 64 else BitVec.ofInt 64 (x.toInt.tdiv y.toInt)
    | .divu => if y = 0 then BitVec.allOnes 64 else BitVec.ofNat 64 (x.toNat / y.toNat)
    | .rem => if y = 0 then x else BitVec.ofInt 64 (x.toInt.tmod y.toInt)
    | .remu => if y = 0 then x else BitVec.ofNat 64 (x.toNat % y.toNat) := by
  have hsdiv : x.sdiv y = BitVec.ofInt 64 (x.toInt.tdiv y.toInt) :=
    BitVec.eq_of_toInt_eq (by rw [BitVec.toInt_sdiv, BitVec.toInt_ofInt])
  have hsrem : x.srem y = BitVec.ofInt 64 (x.toInt.tmod y.toInt) := by
    rw [← BitVec.toInt_srem, BitVec.ofInt_toInt]
  have hudiv : x / y = BitVec.ofNat 64 (x.toNat / y.toNat) := by
    rw [← BitVec.toNat_udiv, BitVec.ofNat_toNat, BitVec.setWidth_eq]
  have humod : x % y = BitVec.ofNat 64 (x.toNat % y.toNat) := by
    rw [← BitVec.toNat_umod, BitVec.ofNat_toNat, BitVec.setWidth_eq]
  cases fn with
  | div => rw [divResult, hsdiv]
  | divu => rw [divResult, hudiv]
  | rem => rw [divResult, hsrem]
  | remu => rw [divResult, humod]

/-- The flags of CMPI. -/
theorem cmpiFlags (x y : Word) : (addResult .sub x y false).2 =
    { n := (x - y).msb, z := decide (x = y), c := decide (y.toNat ≤ x.toNat), v := decide ((x - y).toInt ≠ x.toInt - y.toInt) } := by
  have hz : (x - y = 0) ↔ x = y := sub_eq_zero
  simp only [addResult, addWithCarry_difference, Nzcv.ofSum, b2n, if_true, Nat.sub_self, BitVec.sub_zero, hz, Nat.add_zero, Nat.cast_zero, sub_zero]

/-- Settles O8: each result by its own lemma, committed in every copy. -/
theorem immediateAndMultiplyResults : Obligations.ImmediateAndMultiplyResults := by
  unfold Obligations.ImmediateAndMultiplyResults
  refine ⟨fun s w g d a h => ⟨fun fn imm => ?_, fun imm => ?_, fun imm => ?_, fun imm => ?_⟩, fun s w g d a b h => ⟨fun fn => ?_, fun fn => ?_⟩⟩
  · refine toG_committed h rfl _ (fun c => ?_) fun c => rfl
    cases fn <;> rfl
  · refine copies_committed h rfl fun c => ?_
    rw [cmpiFlags]
    exact Local.nop_commits _
  · exact toG_committed h rfl _ (fun c => rfl) fun c => rfl
  · exact toG_committed h rfl _ (fun c => movh_sum _ _) fun c => rfl
  · refine toG_committed h rfl _ (fun c => ?_) fun c => rfl
    exact (mulResult_eq _ _ _).trans (by cases fn <;> rfl)
  · refine toG_committed h rfl _ (fun c => ?_) fun c => rfl
    exact (divResult_eq _ _ _).trans (by cases fn <;> rfl)

end Sys2Proof.Machine
end

section
/-!
PROOFS. The floating-point instructions (Obligations.FloatResults).
-/

namespace Sys2Proof.Machine

theorem Local.toF_commits (c : Copy) (d : RegNo) (v fl n : Nat) : (Local.toF c d v fl n).Commits n ((c.setFreg d (BitVec.ofNat 64 v)).addFflags fl) :=
  ⟨rfl, rfl, rfl, rfl, rfl, rfl, rfl, rfl⟩

/-- Without exceptions FCSR stays. -/
theorem Copy.addFflags_zero (c : Copy) : c.addFflags 0 = c := by
  have h : c.fcsr ||| (BitVec.ofNat 64 0 <<< 3) = c.fcsr := by simp
  unfold Copy.addFflags
  rw [h]

/-- The copy with the value and the exceptions of a floating-point result (R85, R111). -/
def Copy.floatDone (g : Guard) (d : RegNo) (n : Nat) (r : Copy → Nat × Nat) (x : Copy) : Copy :=
  x.done g n ({ x.setFreg d (BitVec.ofNat 64 (r x).1) with fcsr := x.fcsr ||| (BitVec.ofNat 64 (r x).2 <<< 3) })

/-- An instruction that writes a floating-point register, ready to run, commits its result and accrues its exceptions. -/
theorem toF_committed {i : Instr} {s : State} {w : Who} {g : Guard} {body : Copy → Local} {d : RegNo} {n : Nat} {q : Copy → Nat × Nat}
    (h : Ready s w g) (he : exec i s = .next (s.run w g false body)) (r : Copy → Nat × Nat) (hq : ∀ c, q c = r c)
    (hb : ∀ c, body c = Local.toF c d (q c).1 (q c).2 n) : ∃ t, exec i s = .next t ∧ Committed s t w (Copy.floatDone g d n r) :=
  copies_committed h he fun c => by rw [hb c, hq c]; exact Local.toF_commits c d _ _ n

/-- The flags of a comparison (R93). -/
theorem fcmpFlags_eq (o : FpOrd) :
    fcmpFlags o = { n := decide (o = .lt), z := decide (o = .eq), c := decide (o ≠ .lt), v := decide (o = .un) } := by
  cases o <;> rfl

theorem fMinResult_minMax (mx : Bool) (f : Fmt) (x y : Nat) : fMinResult (if mx then .fmax else .fmin) f x y = f.minMax mx x y := by
  cases mx <;> simp only [fMinResult, Bool.false_eq_true, if_true, if_false]

theorem fMinResult_signOp (ab : Bool) (f : Fmt) (x y : Nat) : fMinResult (if ab then .fabs else .fneg) f x y = (f.signOp ab x, 0) := by
  cases ab <;> simp only [fMinResult, Bool.false_eq_true, if_true, if_false]

/-- FMIN and FMAX leave b free (R90). -/
theorem exec_fMinMax (s : State) (w : Who) (g : Guard) (mx p : Bool) (d a b : RegNo) :
    exec (.fminFmaxFnegFabs w g (if mx then .fmax else .fmin) p d a b) s = .next (s.run w g false fun x =>
      Local.toF x d ((fmtP p).minMax mx (x.fop p a) (x.fop p b)).1 ((fmtP p).minMax mx (x.fop p a) (x.fop p b)).2 1) := by
  have hdefined : (decide (b ≠ 0) && (decide ((if mx then FMinOp.fmax else .fmin) = .fneg) || decide ((if mx then FMinOp.fmax else .fmin) = .fabs))) =
      false := by
    cases mx <;> simp
  change execFminFmaxFnegFabs w g _ p d a b s = _
  unfold execFminFmaxFnegFabs
  simp only [hdefined, fMinResult_minMax]

/-- Settles O9: each result is the format's operation, committed in every copy with its exceptions. -/
theorem floatResults : Obligations.FloatResults := by
  unfold Obligations.FloatResults
  refine ⟨fun s w g p d a b c h => ⟨fun fn => ?_, ?_, ?_, ?_, ?_⟩, fun s w g p d a b h => ⟨fun mx => ?_, fun ab => ?_, ?_, ?_, ?_, ?_, ?_, ?_⟩⟩
  · refine toF_committed h rfl _ (fun x => ?_) fun x => rfl
    cases fn <;> rfl
  · exact toF_committed h rfl _ (fun x => rfl) fun x => rfl
  · exact toF_committed h rfl _ (fun x => rfl) fun x => rfl
  · exact toF_committed h rfl _ (fun x => rfl) fun x => rfl
  · exact toF_committed h rfl _ (fun x => rfl) fun x => rfl
  · exact toF_committed h (exec_fMinMax s w g mx p d a b) _ (fun x => rfl) fun x => rfl
  · exact toF_committed h rfl _ (fun x => fMinResult_signOp ab _ _ _) fun x => rfl
  · obtain ⟨t, he, hc⟩ := copies_committed (i := .fcmp w g p 0 a b) (s := s) h rfl fun x => ⟨rfl, rfl, rfl, rfl, rfl, rfl, rfl, rfl⟩
    refine ⟨t, he, hc.congr fun x => ?_⟩
    simp only [fcmpFlags_eq]
    rfl
  · exact copies_committed h rfl fun x => ⟨rfl, rfl, rfl, rfl, rfl, rfl, rfl, rfl⟩
  · exact toF_committed h rfl _ (fun x => rfl) fun x => rfl
  · exact toF_committed h rfl _ (fun x => rfl) fun x => rfl
  · refine copies_committed h rfl fun x => ?_
    have hf := Local.toF_commits x d (x.reg a).toNat 0 1
    rw [Copy.addFflags_zero, BitVec.ofNat_toNat, BitVec.setWidth_eq] at hf
    exact hf
  · exact toG_committed h rfl _ (fun x => rfl) fun x => rfl

end Sys2Proof.Machine
end

section
/-!
PROOFS. The branches (Obligations.BranchTargetAndLink).
-/

namespace Sys2Proof.Machine

/-- The copies that run a command hold no array error. -/
theorem Lockstep.lead_sound {s : State} {w : Who} (h : Lockstep s w) : (s.lead w).ue = [] ∧ (s.lead w).ce = [] := by
  obtain ⟨c, r, hks⟩ := List.exists_cons_of_ne_nil h.runs
  have hc : c ∈ s.runners w := hks ▸ List.mem_cons_self
  rw [← h.same c hc]
  exact ⟨(h.sound c hc).ue, (h.sound c hc).ce⟩

/-- An instruction with a place of its own to go on commits as R92 and R94 say, and goes on there. -/
theorem Copy.retire_to {c : Copy} {g : Guard} {l : Local} {p : Word} (ha : l.acc = none) (hs : l.stay = false) (hn : l.nextPc = some p)
    (hc : l.noLatch = false) : c.retire g l = { c.done g l.cycles l.copy with pc := p } := by
  simp [Copy.retire, Copy.done, Local.latched, ha, hs, hn, hc]

/-! ### The branch-target buffer (R123) -/

theorem Copy.btbHit_isSome (c : Copy) (pc : Word) : (c.btbHit pc).isSome =
    ((SMap.get BtbEntry.empty c.btb (btbIx pc)).valid && decide ((SMap.get BtbEntry.empty c.btb (btbIx pc)).tag = btbTag pc)) := by
  unfold Copy.btbHit
  dsimp only
  split <;> simp_all

/-- A copy without array errors writes an entry of its buffer and nothing else. -/
theorem Copy.btb_mend {c : Copy} (hue : c.ue = []) (hce : c.ce = []) (m : SMap BtbEntry) (i : Nat) :
    ({ c with btb := m } : Copy).mend .btb i 1 = { c with btb := m } :=
  Copy.mend_sound (c := { c with btb := m }) hue hce .btb i 1

theorem Copy.btbUpdate_taken {c : Copy} (hue : c.ue = []) (hce : c.ce = []) (pc tgt : Word) : c.btbUpdate pc (some tgt) =
    { c with btb := SMap.put BtbEntry.empty c.btb (btbIx pc) { valid := true, tag := btbTag pc, target := tgt } } :=
  Copy.btb_mend hue hce _ _

theorem Copy.btbUpdate_notTaken {c : Copy} (hue : c.ue = []) (hce : c.ce = []) (pc : Word) : c.btbUpdate pc none =
    if (c.btbHit pc).isSome then { c with btb := SMap.put BtbEntry.empty c.btb (btbIx pc) BtbEntry.empty } else c := by
  unfold Copy.btbUpdate
  cases c.btbHit pc with
  | none => rfl
  | some e => exact Copy.btb_mend hue hce _ _

/-! ### Branches taken and not taken -/

/-- The link register takes its value, where the branch has one. -/
def Copy.linked (link : Option (RegNo × Word)) (c : Copy) : Copy :=
  match link with
  | some (d, v) => c.setReg d v
  | none => c

theorem Local.taken_commits (c : Copy) (tgt : Word) (link : Option (RegNo × Word)) :
    (Local.taken c tgt link).trap = none ∧ (Local.taken c tgt link).acc = none ∧ (Local.taken c tgt link).sides = [Side.none] ∧
      (Local.taken c tgt link).stay = false ∧ (Local.taken c tgt link).noLatch = false ∧
      (Local.taken c tgt link).copy = Copy.linked link (c.btbUpdate c.pc (some tgt)) := by
  unfold Local.taken Copy.linked
  cases link with
  | none => exact ⟨rfl, rfl, rfl, rfl, rfl, rfl⟩
  | some x => exact ⟨rfl, rfl, rfl, rfl, rfl, rfl⟩

/-- A branch that is ready to run is taken in every copy. -/
theorem branch_taken {i : Instr} {s : State} {w : Who} {g : Guard} (h : Ready s w g) (tgt : Copy → Word) (link : Copy → Option (RegNo × Word))
    (he : exec i s = .next (s.runBranch w g fun c => Local.taken c (tgt c) (link c))) : ∃ t, exec i s = .next t ∧ Committed s t w fun c =>
      { c.done g (if (c.btbHit c.pc).isSome then 1 else 2) (Copy.linked (link c)
          { c with btb := SMap.put BtbEntry.empty c.btb (btbIx c.pc) { valid := true, tag := btbTag c.pc, target := tgt c } }) with pc := tgt c } := by
  obtain ⟨htrap, hacc, hsides, hstay, hlatch, hcopy⟩ := Local.taken_commits (s.lead w) (tgt (s.lead w)) (link (s.lead w))
  obtain ⟨u, hu, hc⟩ := State.runInstr_ready h (skip := fun _ _ c => Local.notTaken c) (body := fun _ _ c => Local.taken c (tgt c) (link c))
    (fun _ _ => rfl) htrap hacc (by rw [hsides]; rfl) hstay
  obtain ⟨hue, hce⟩ := h.toLockstep.lead_sound
  refine ⟨u, by rw [he, State.runBranch, hu], fun c hm => ?_, hc.others, hc.count, hc.regs, hc.bytes, hc.rest⟩
  have hcycles : (Local.taken (s.lead w) (tgt (s.lead w)) (link (s.lead w))).cycles = if ((s.lead w).btbHit (s.lead w).pc).isSome then 1 else 2 := rfl
  rw [hc.each c hm, h.same c hm, Copy.retire_to hacc hstay rfl hlatch, hcopy, hcycles, Copy.btbUpdate_taken hue hce]

/-- A branch with a false condition is not taken in any copy. -/
theorem branch_notTaken {i : Instr} {s : State} {w : Who} {g : Guard} {body : Copy → Local} (h : Skips s w g)
    (he : exec i s = .next (s.runBranch w g body)) : ∃ t, exec i s = .next t ∧ Committed s t w fun c =>
      c.done g (if (c.btbHit c.pc).isSome then 2 else 1)
        (if (c.btbHit c.pc).isSome then { c with btb := SMap.put BtbEntry.empty c.btb (btbIx c.pc) BtbEntry.empty } else c) := by
  obtain ⟨u, hu, hc⟩ := State.runInstr_skips h (skip := fun _ _ c => Local.notTaken c) (body := fun _ _ c => body c)
    (fun _ _ => rfl) rfl rfl rfl rfl
  obtain ⟨hue, hce⟩ := h.toLockstep.lead_sound
  refine ⟨u, by rw [he, State.runBranch, hu], fun c hm => ?_, hc.others, hc.count, hc.regs, hc.bytes, hc.rest⟩
  have hcycles : (Local.notTaken (s.lead w)).cycles = if ((s.lead w).btbHit (s.lead w).pc).isSome then 2 else 1 := by
    unfold Local.notTaken branchCycles
    cases ((s.lead w).btbHit (s.lead w).pc).isSome <;> rfl
  rw [hc.each c hm, h.same c hm, Copy.retire_done rfl rfl rfl rfl, hcycles]
  exact congrArg _ (Copy.btbUpdate_notTaken hue hce _)

/-- Settles O10: each branch as it is taken, to its target and with its link, and not taken. -/
theorem branchTargetAndLink : Obligations.BranchTargetAndLink := by
  unfold Obligations.BranchTargetAndLink
  intro s w g off d a imm hit taken next
  have hhit (c : Copy) : (c.btbHit c.pc).isSome = hit c := Copy.btbHit_isSome c c.pc
  refine ⟨fun h => ⟨?_, ?_, ?_⟩, fun h i hi => ?_⟩
  · obtain ⟨t, he, hc⟩ := branch_taken (i := .b w g off) h (fun c => c.pc + (off.signExtend 64 <<< 1)) (fun _ => none) rfl
    exact ⟨t, he, hc.congr fun c => by rw [hhit]; rfl⟩
  · obtain ⟨t, he, hc⟩ := branch_taken (i := .bl w g off) h (fun c => c.pc + (off.signExtend 64 <<< 1)) (fun c => some (31, next c)) rfl
    exact ⟨t, he, hc.congr fun c => by rw [hhit]; rfl⟩
  · obtain ⟨t, he, hc⟩ := branch_taken (i := .jalr w g d a imm) h (fun c => c.reg a + (imm.signExtend 64 <<< 1)) (fun c => some (d, next c)) rfl
    exact ⟨t, he, hc.congr fun c => by rw [hhit]; rfl⟩
  · obtain ⟨body, he⟩ : ∃ body, exec i s = .next (s.runBranch w g body) := by
      simp only [List.mem_cons, List.not_mem_nil, or_false] at hi
      rcases hi with rfl | rfl | rfl <;> exact ⟨_, rfl⟩
    obtain ⟨t, het, hc⟩ := branch_notTaken h he
    exact ⟨t, het, hc.congr fun c => by rw [hhit]; rfl⟩

end Sys2Proof.Machine
end

section
/-!
PROOFS. Instructions whose encoding is undefined, and instructions whose condition is false (Obligations.UndefinedAndFalseConditions).
-/

namespace Sys2Proof.Machine

/-- The instruction is undefined, or its condition is false in the copies that run it: none of them does what it means. -/
def State.unmet (s : State) (w : Who) (g : Guard) (undef : Bool) : Bool := undef || g.undef || !g.holds (s.lead w)

theorem State.unmet_of_undef {s : State} {w : Who} {g : Guard} {undef : Bool} (h : (g.undef || undef) = true) : s.unmet w g undef = true := by
  unfold State.unmet
  rw [Bool.or_comm undef, h, Bool.true_or]

theorem State.unmet_of_fails {s : State} {w : Who} {g : Guard} (h : g.holds (s.lead w) = false) : s.unmet w g false = true := by
  rw [State.unmet, h, Bool.not_false, Bool.or_true]

/-- The first copy that runs a command holds what they all hold. -/
theorem Lockstep.first {s : State} {w : Who} (h : Lockstep s w) : ∃ c r, s.runners w = c :: r ∧ s.copy (copyIx w.t.val c) = s.lead w := by
  obtain ⟨c, r, hks⟩ := List.exists_cons_of_ne_nil h.runs
  exact ⟨c, r, hks, h.same c (hks ▸ List.mem_cons_self)⟩

/-- Nothing follows an instruction whose meaning no copy ran. -/
theorem State.runThen_unmet {s : State} {w : Who} {g : Guard} {undef : Bool} {body : State → Nat → Copy → Local}
    {post : List Nat → Copy → State → State} (h : Lockstep s w) (hx : s.unmet w g undef = true) :
    s.runThen w g undef body post = (s.runInstr w g undef (fun _ _ c => Local.nop c) body).1 := by
  unfold State.runThen
  dsimp only
  split
  · rfl
  next x r hleft =>
    have hm : x ∈ s.runners w := (List.mem_filter.mp (hleft ▸ List.mem_cons_self)).1
    rw [if_neg]
    rw [h.same x hm]
    unfold State.unmet at hx
    cases hu : undef <;> cases hg : g.undef <;> simp_all

/-- It does not execute. -/
theorem State.executes_unmet {s : State} {w : Who} {g : Guard} (h : Lockstep s w) (hx : s.unmet w g false = true) : s.executes w g = false := by
  obtain ⟨c, r, hks, hc⟩ := h.first
  unfold State.executes State.unmet at *
  rw [hks]
  simp only [hc]
  cases hg : g.undef <;> simp_all

/-- An instruction runs in its copies, and nothing is done outside them: with its false condition it is a NOP there, unless it is a branch. -/
def RunsInside (i : Instr) (s : State) (w : Who) (g : Guard) : Prop :=
  ∃ skip body, exec i s = .next (s.runInstr w g i.reserved skip body).1 ∧ (i.isBranch = false → skip = fun _ _ c => Local.nop c)

theorem RunsInside.of_run {i : Instr} {s : State} {w : Who} {g : Guard} {undef : Bool} {body : Copy → Local}
    (he : exec i s = .next (s.run w g undef body)) (hu : i.reserved = undef) : RunsInside i s w g := by
  subst hu
  exact ⟨_, _, he, fun _ => rfl⟩

theorem RunsInside.of_then {i : Instr} {s : State} {w : Who} {g : Guard} {undef : Bool} {body : State → Nat → Copy → Local}
    {post : List Nat → Copy → State → State} (h : Lockstep s w) (hx : s.unmet w g i.reserved = true)
    (he : exec i s = .next (s.runThen w g undef body post)) (hu : i.reserved = undef) : RunsInside i s w g := by
  subst hu
  exact ⟨_, _, he.trans (congrArg _ (State.runThen_unmet h hx)), fun _ => rfl⟩

theorem RunsInside.of_csrw {i : Instr} {s : State} {w : Who} {g : Guard} {d : RegNo} {n : Nat} (h : Lockstep s w) (hx : s.unmet w g i.reserved = true)
    (he : exec i s = .next (s.csrw w g d n)) (hu : i.reserved = false) : RunsInside i s w g := by
  unfold State.csrw at he
  exact .of_then h hx he hu

/-- No copy reads an agreed value where none executes the read. -/
theorem State.agreedRead_unmet {s : State} {w : Who} {g : Guard} {d : RegNo} {cls : Nat} {own : Nat → Word} {agree : State → Option Word × State}
    (h : Lockstep s w) (hx : s.unmet w g false = true) :
    ∃ body, s.agreedRead w g d cls own agree = (s.runInstr w g false (fun _ _ c => Local.nop c) body).1 := by
  have hnone : s.agreeing w.t.val cls = [] := h.agree cls
  obtain ⟨c, r, hks, hc⟩ := h.first
  unfold State.agreedRead
  simp only [hnone, hks, hc, List.contains_nil, Bool.false_eq_true, if_false]
  by_cases hm : s.groupMode w.t.val = true
  · have hskip : (bit (s.lead w).pc 0 || g.undef || !g.holds (s.lead w)) = true := by
      rw [Bool.or_assoc, show (g.undef || !g.holds (s.lead w)) = true from hx, Bool.or_true]
    rw [if_neg (by simp [hm]), if_pos hskip]
    exact ⟨_, rfl⟩
  · rw [if_pos (by simp [hm])]
    exact ⟨_, by rw [State.runInstr, hks]⟩

/-- The condition in a word's top bits. -/
theorem guard_top (word : BitVec 32) : Guard.c32 (BitVec.ofNat 4 (word.toNat / 2 ^ 28)) = .c32 (wCond word) := by
  congr 1
  apply BitVec.eq_of_toNat_eq
  simp [wCond, wbits]

theorem bne_eq_decide {α : Type} [DecidableEq α] (x y : α) : (x != y) = decide (x ≠ y) := by
  rw [bne, beq_eq_decide, decide_not]

theorem exec_unmet {i : Instr} {s : State} {w : Who} {g : Guard} (hg : i.guard = some (w, g)) (h : Lockstep s w)
    (hcop : ∀ word, i = .cop w word → s.copWaiters w = []) (hx : s.unmet w g i.reserved = true) : RunsInside i s w g := by
  cases i <;> cases hg
  case b | bl | jalr => exact ⟨_, _, rfl, fun h => nomatch h⟩
  case csrw | psrWrite | icinvVa | icinvAll | dcinvVa | dccleanVa | dccleanAll | dcinvAll | icSwset | patchDataWrite =>
    exact .of_csrw h hx rfl rfl
  case agtimeRead | ageventRead =>
    obtain ⟨_, he⟩ := State.agreedRead_unmet h hx
    exact ⟨_, _, congrArg _ he, fun _ => rfl⟩
  case csrr d csr =>
    by_cases h8 : csr.toNat = 0x008
    · obtain ⟨_, he⟩ := State.agreedRead_unmet h hx
      exact ⟨_, _, (if_pos h8).trans (congrArg _ he), fun _ => rfl⟩
    · exact .of_then h hx ((if_neg h8).trans (if_neg fun h9 => by simp [State.executes_unmet h hx] at h9)) rfl
  case eret d a b =>
    obtain ⟨c, r, hks, hc⟩ := h.first
    have hu : (Instr.eret w g d a b).reserved = (decide (d ≠ 0) || decide (a ≠ 0) || decide (b ≠ 0)) := by
      simp only [Instr.reserved, bne_eq_decide]
    refine .of_then (body := fun s k c => s.eretLocal k c none) (post := fun ks c s => s.eretPost w.t.val ks c none) h hx ?_ hu
    change execEret w g d a b s = _
    unfold execEret
    simp only [hks, hc]
    rw [if_pos]
    rw [hu] at hx
    unfold State.unmet at hx
    cases hu' : bit (s.lead w).pc 0 <;> simp_all
  case msync d a b =>
    obtain ⟨c, r, hks, hc⟩ := h.first
    have hu : (Instr.msync w g d a b).reserved = (decide (a ≠ 0) || decide (b ≠ 0)) := by
      simp only [Instr.reserved, bne_eq_decide]
    refine ⟨_, fun _ _ c => Local.msyncAt c d 1, ?_, fun _ => rfl⟩
    change execMsync w g d a b s = _
    unfold execMsync
    simp only [hks, hc]
    rw [if_pos, hu]
    rw [hu] at hx
    unfold State.unmet at hx
    cases hu' : bit (s.lead w).pc 0 <;> simp_all
  case dbar =>
    exact .of_run (congrArg _ (if_neg (by simp [State.executes_unmet h hx]))) rfl
  case cop word =>
    rw [guard_top] at hx ⊢
    exact .of_then h hx (exec_cop_sends (hcop word rfl)) rfl
  case patch word =>
    rw [guard_top] at hx ⊢
    exact .of_then h hx rfl (bne_eq_decide _ _)
  case sextZext | clzCtzPopcRev | shi | cmpi | fsqrt | fcmp | fcvt | fmvGfFg | trap | tlbrdT | tlbrdP => exact .of_run rfl (bne_eq_decide _ _)
  case fminFmaxFnegFabs fn _ _ _ rb =>
    exact .of_run rfl (by simp only [Instr.reserved, bne_eq_decide, beq_eq_decide, Bool.and_comm])
  all_goals exact .of_run rfl rfl

/-- An undefined instruction traps UNDEF in every copy that runs it, whatever its condition (R90). -/
theorem State.runInstr_undef {s : State} {w : Who} {g : Guard} {undef : Bool} {skip body : State → Nat → Copy → Local} (h : Lockstep s w)
    (hd : (s.lead w).depth < 32) (hu : (g.undef || undef) = true) : Trapped s (s.runInstr w g undef skip body).1 w (trapOf cUNDEF) := by
  have hl (k b : Copy → Local) : localOf g undef k b (s.lead w) = Local.trapping (s.lead w) (trapOf cUNDEF) := by
    unfold localOf
    rw [h.even, if_neg Bool.false_ne_true, if_pos (by simpa [or_comm] using hu)]
  rw [State.runInstr_traps h (fun c _ => hl _ _) rfl]
  exact State.trapCopies_trapped _ h.runs h.sound (fun c hc => by rw [h.same c hc]; exact hd) h.phase

/-- Settles O11: an undefined instruction and one with a false condition run inside their copies (`exec_unmet`), which trap or pass it. -/
theorem undefinedAndFalseConditions : Obligations.UndefinedAndFalseConditions := by
  unfold Obligations.UndefinedAndFalseConditions
  refine ⟨fun i s w g hg h hd hcop hu => ?_, fun i s w g hg hb hr h hcop => ?_⟩
  · obtain ⟨skip, body, he, _⟩ := exec_unmet hg h hcop (State.unmet_of_undef hu)
    exact ⟨_, he, State.runInstr_undef h hd hu⟩
  · obtain ⟨skip, body, he, hskip⟩ := exec_unmet hg h.toLockstep hcop (by rw [hr]; exact State.unmet_of_fails h.fails)
    obtain ⟨u, hrun, hu⟩ := State.runInstr_skips (skip := skip) (body := body) (l := Local.nop (s.lead w)) h (fun c _ => by rw [hskip hb]) rfl rfl rfl rfl
    refine ⟨u, by rw [he, hr, hrun], { hu with each := fun c hc => ?_ }⟩
    rw [hu.each c hc, h.same c hc]
    exact Copy.retire_done rfl rfl rfl rfl

end Sys2Proof.Machine
end

section
/-!
PROOFS. TRAP and ERET (Obligations.TrapEntryAndReturn).
-/

namespace Sys2Proof.Machine

theorem Copy.restored_errors (c : Copy) (fr : List Word) : (c.restored fr).ue = c.ue ∧ (c.restored fr).ce = c.ce := by
  unfold Copy.restored Copy.popLevel
  dsimp only
  constructor <;> repeat' split
  all_goals rfl

/-- What a return to the frame `fr` makes of a copy. -/
def Copy.returned (c : Copy) (fr : List Word) : Copy :=
  let y := (c.restored fr).flushPend
  { y with pc := fr.getD 0 0, slot := false, instret := y.instret + 1, cycle := c.cycle + 10 }

/-- What ERET to the frame `fr` does in a copy. -/
def Local.returnTo (c : Copy) (fr : List Word) : Local :=
  { Local.nop (c.restored fr) with
    nextPc := some (fr.getD 0 0), cycles := 10, reads := frameReads (c.frameOff (c.depth - 1)), eret := true, noLatch := true }

theorem Copy.retire_returnTo (c : Copy) (g : Guard) (fr : List Word) : c.retire g (Local.returnTo c fr) = c.returned fr := by
  obtain ⟨hrue, hrce⟩ := c.restored_errors fr
  have hue : (c.restored fr).flushPend.ue = c.ue := by rw [Copy.flushPend_frame]; exact hrue
  have hce : (c.restored fr).flushPend.ce = c.ce := by rw [Copy.flushPend_frame]; exact hrce
  change ({ (c.restored fr).flushPend with
    pc := fr.getD 0 0, slot := false, instret := (c.restored fr).flushPend.instret + 1, cycle := c.cycle + 10
    ue := (c.restored fr).flushPend.ue.filter fun r => c.ue.contains r
    ce := (c.restored fr).flushPend.ce.filter fun r => c.ce.contains r } : Copy) = _
  rw [hue, hce, filter_contains_self, filter_contains_self]
  unfold Copy.returned
  generalize (c.restored fr).flushPend = x at hue hce
  rw [← hue, ← hce]

theorem State.eretLocal_returnTo {s : State} {k : Nat} {c : Copy} {fr : List Word} (hp : c.priv ≠ 0) (hd : c.depth ≠ 0)
    (hfr : s.frame k (c.frameOff (c.depth - 1)) = fr) : s.eretLocal k c none = Local.returnTo c fr := by
  subst hfr
  unfold State.eretLocal
  rw [if_neg hp, if_neg hd]
  rfl

/-- ERET whose copies chain to no source. -/
theorem exec_eret_plain {s : State} {w : Who} {g : Guard} {d a b : RegNo} (h : Lockstep s w)
    (hn : ∀ c ∈ s.runners w, s.chainCandidate (copyIx w.t.val c) = none) : exec (.eret w g d a b) s =
    .next (s.runThen w g (decide (d ≠ 0) || decide (a ≠ 0) || decide (b ≠ 0)) (fun s k c => s.eretLocal k c none) fun ks c s =>
      s.eretPost w.t.val ks c none) := by
  obtain ⟨c, r, hks⟩ := List.exists_cons_of_ne_nil h.runs
  have hc := hn c (hks ▸ List.mem_cons_self)
  change execEret w g d a b s = _
  unfold execEret
  simp only [hks, hc, ite_self]

/-- The reservations are no part of what an instruction of its copies alone changes. -/
theorem Committed.resv {s t : State} {w : Who} {f : Copy → Copy} (h : Committed s t w f) : t.resv = s.resv := by
  rw [h.rest]

/-- Settles O12: every copy of TRAP traps alike, and ERET's frame is the same in every copy (`Copy.retire_returnTo`). -/
theorem trapEntryAndReturn : Obligations.TrapEntryAndReturn := by
  unfold Obligations.TrapEntryAndReturn
  refine ⟨fun s w g code h hd => ⟨_, rfl, ?_⟩, fun s w g fr h hp hd hfr hn => ?_⟩
  · exact State.runInstr_trapped h hd (fun _ _ => rfl) rfl
  · have hbody : ∀ c ∈ s.runners w, s.eretLocal (copyIx w.t.val c) (s.lead w) none = Local.returnTo (s.lead w) fr :=
      fun c hc => State.eretLocal_returnTo hp hd (hfr c hc)
    obtain ⟨u, hrun, hu⟩ := State.runInstr_ready (skip := fun _ _ c => Local.nop c) (body := fun s k c => s.eretLocal k c none) h hbody rfl rfl rfl rfl
    have hlead : s.eretLocal (copyIx w.t.val ((s.runners w).headD 0)) (s.lead w) none = Local.returnTo (s.lead w) fr := by
      obtain ⟨c, r, hks⟩ := List.exists_cons_of_ne_nil h.runs
      rw [hks]
      exact hbody c (hks ▸ List.mem_cons_self)
    have hthen := State.runThen_ready (post := fun ks c s => s.eretPost w.t.val ks c none) h (by rw [hlead]; rfl) hrun hu.live
    refine ⟨_, u, (exec_eret_plain h.toLockstep hn).trans (congrArg _ hthen), ?_, { hu with each := fun c hc => ?_ }⟩
    · rw [← hu.resv]
      rfl
    · rw [hu.each c hc, h.same c hc, Copy.retire_returnTo]
      rfl

end Sys2Proof.Machine
end

section
/-!
PROOFS. WFI, the barriers and MSYNC (Obligations.WaitBarriersAndMsync).
-/

namespace Sys2Proof.Machine

theorem Ready.executes {s : State} {w : Who} {g : Guard} (h : Ready s w g) : s.executes w g = true := by
  obtain ⟨c, r, hks, hc⟩ := h.first
  unfold State.executes
  rw [hks]
  simp only [hc, h.even, h.defd, h.holds, Bool.not_false, Bool.and_self]

/-- WFI, ready to run: it waits for an interrupt at SUP or MON, and traps at USR. -/
theorem wfi_waits {s : State} {w : Who} {g : Guard} (h : Ready s w g) (hp : (s.lead w).priv ≠ 0) :
    ∃ t, exec (.wfi w g) s = .next t ∧ Committed s t w fun c => c.done g 1 { c with status := .wfi } := by
  refine ⟨_, rfl, State.run_ready h (n := 1) (f := fun c => { c with status := .wfi }) ?_ ?_ ?_ ?_ ?_ ?_ ?_ ?_⟩ <;> rw [if_neg hp] <;> rfl

theorem wfi_traps {s : State} {w : Who} {g : Guard} (h : Ready s w g) (hp : (s.lead w).priv = 0) (hd : (s.lead w).depth < 32) :
    ∃ t, exec (.wfi w g) s = .next t ∧ Trapped s t w (trapOf cPRIV) :=
  ⟨_, rfl, State.runInstr_trapped h hd (fun _ _ => if_pos hp) rfl⟩

/-- IBAR empties the lines of the F stage. -/
theorem ibar_discards {s : State} {w : Who} {g : Guard} (h : Ready s w g) :
    ∃ t, exec (.ibar w g) s = .next t ∧ Committed s t w fun c => c.done g 3 { c with fCur := FLine.empty, fNext := FLine.empty, fPre := FLine.empty } :=
  copies_committed h rfl fun _ => ⟨rfl, rfl, rfl, rfl, rfl, rfl, rfl, rfl⟩

/-- DBAR waits while its copies have something outstanding. -/
theorem dbar_passes {s : State} {w : Who} {g : Guard} (h : Ready s w g) (ho : s.outstanding w = false) :
    ∃ t, exec (.dbar w g) s = .next t ∧ Committed s t w fun c => c.done g 1 c :=
  copies_committed h (congrArg _ (if_neg (by simp [ho]))) Local.nop_commits

theorem dbar_waits {s : State} {w : Who} {g : Guard} (h : Ready s w g) (ho : s.outstanding w = true) : exec (.dbar w g) s = .next s :=
  congrArg _ (if_pos (by rw [h.executes, ho]; rfl))

/-- MSYNC at SUP or MON: it waits for a resynchronisation, answers where no request is armed, and refuses one in DEBUG_SPLIT. -/
theorem exec_msync {s : State} {w : Who} {g : Guard} {d : RegNo} (h : Ready s w g) (hp : (s.lead w).priv ≠ 0) :
    ∃ transition, exec (.msync w g d 0 0) s =
      if s.resyncBusy w.t.val then .next s
      else if !s.armed w.t.val then .next (s.runInstr w g false (fun _ _ c => Local.nop c) fun _ _ c => Local.msyncAt c d 1).1
      else if s.mode w.t.val = 3 then .next (s.runThen w g false (fun _ _ c => Local.msyncAt c d 2) fun _ _ s => s.refuseMode w.t.val)
      else transition := by
  obtain ⟨c, r, hks, hc⟩ := h.first
  apply Exists.intro
  change execMsync w g d 0 0 s = _
  unfold execMsync
  simp only [hks, hc]
  rw [if_neg (by simp [h.even, h.defd, h.holds, hp])]
  rfl

/-- MSYNC that answers at once. -/
theorem State.msyncAt_committed {s : State} {w : Who} {g : Guard} {d : RegNo} {status : Nat} (h : Ready s w g) (hp : (s.lead w).priv ≠ 0) :
    (Local.msyncAt (s.lead w) d status).trap = none ∧
      ∃ u, s.runInstr w g false (fun _ _ c => Local.nop c) (fun _ _ c => Local.msyncAt c d status) = (u, true) ∧
        Committed s u w fun c => c.done g 4 (c.setReg d (BitVec.ofNat 64 status)) := by
  have hbody : Local.msyncAt (s.lead w) d status = { Local.toG (s.lead w) d (BitVec.ofNat 64 status) 4 with msync := true } := if_neg hp
  obtain ⟨u, hrun, hu⟩ := State.runInstr_ready (skip := fun _ _ c => Local.nop c) (body := fun _ _ c => Local.msyncAt c d status) h
    (fun _ _ => hbody) rfl rfl rfl rfl
  refine ⟨by rw [hbody]; rfl, u, hrun, { hu with each := fun c hc => ?_ }⟩
  rw [hu.each c hc, h.same c hc]
  exact Copy.retire_done rfl rfl rfl rfl

/-- Settles O13: each instruction commits, traps or waits as its own lemma says. -/
theorem waitBarriersAndMsync : Obligations.WaitBarriersAndMsync := by
  unfold Obligations.WaitBarriersAndMsync
  refine ⟨fun s w g h => ⟨wfi_waits h, wfi_traps h, ibar_discards h, dbar_passes h, dbar_waits h⟩, fun s w g d h hp => ?_⟩
  obtain ⟨transition, he⟩ := exec_msync (d := d) h hp
  refine ⟨fun hb => ?_, fun hb ha => ?_, fun hb ha hm => ?_⟩
  · rw [he, if_pos hb]
  · obtain ⟨_, u, hrun, hu⟩ := State.msyncAt_committed (d := d) (status := 1) h hp
    refine ⟨u, ?_, hu⟩
    rw [he, if_neg (by simp [hb]), if_pos (by simp [State.armed, ha]), hrun]
  · obtain ⟨htrap, u, hrun, hu⟩ := State.msyncAt_committed (d := d) (status := 2) h hp
    refine ⟨_, u, ?_, hu, rfl⟩
    rw [he, if_neg (by simp [hb]), if_neg (by simp [State.armed, ha]), if_pos hm, State.runThen_ready h htrap hrun hu.live]
    rfl

end Sys2Proof.Machine
end

section
/-!
PROOFS. Accesses that their plan stops (Obligations.AccessTraps).
-/

namespace Sys2Proof.Machine

/-- An access that its plan stops does nothing but trap. -/
theorem Local.access_stopped {c : Copy} {acc : Access} {va : Word} {ti : TrapInfo} (hp : c.plan acc.kind va (2 ^ acc.size) = .error ti) :
    Local.access c acc va = Local.trapping c ti := by
  unfold Local.access
  rw [hp]

theorem access_traps {i : Instr} {s : State} {w : Who} {g : Guard} {acc : Access} {va : Word} {ti : TrapInfo} (hg : i.guard = some (w, g))
    (hr : i.reserved = false) (h : Ready s w g) (hd : (s.lead w).depth < 32) (ha : accessOf i (s.lead w) = some (acc, va))
    (hp : (s.lead w).plan acc.kind va (2 ^ acc.size) = .error ti) : ∃ t, exec i s = .next t ∧ Trapped s t w ti := by
  obtain ⟨body, he, hbody⟩ := exec_access hg hr ha
  exact ⟨_, he, State.runInstr_trapped h hd (fun _ _ => hbody.trans (Local.access_stopped hp)) rfl⟩

/-! ### The plan's tests, in their order (R103, R104, R119) -/

/-- A naturally aligned access is in one piece. -/
theorem splitVa_aligned {va : Word} {k : Nat} (hk : k < 4) (ha : va.toNat % 2 ^ k = 0) : splitVa va (2 ^ k) = [(va, 2 ^ k)] := by
  unfold splitVa
  have hfits : va.toNat % 8 + 2 ^ k ≤ 8 := by
    interval_cases k <;> omega
  rw [if_pos hfits]

theorem Copy.plan_misaligned {c : Copy} {op : AtomOp} {va : Word} {n : Nat} (ha : va.toNat % n ≠ 0) :
    c.plan (.atom op) va n = .error (trapAt cALIGN va (decide (op ≠ .ll))) := by
  have hwrites : (AccessKind.atom op).writes = decide (op ≠ .ll) := by cases op <;> rfl
  unfold Copy.plan
  rw [if_pos (by simp [ha]), hwrites]

section
variable {c : Copy} {kind : AccessKind} {va : Word} {k : Nat} (hk : k < 4) (ha : va.toNat % 2 ^ k = 0)
include hk ha

theorem Copy.plan_miss (hm : c.tlbFind (va48 va) = none) : c.plan kind va (2 ^ k) = .error (trapAt cTLB_MISS_D (BitVec.ofNat 64 (va48 va)) kind.writes) := by
  simp [Copy.plan, splitVa_aligned hk ha, ha, Copy.xlate, hm, firstIx, trapAt, trapOf]

theorem Copy.plan_denied {i code : Nat} (hm : c.tlbFind (va48 va) = some i) (hp : permTrap kind.perm c.priv (c.tlbAt i).pte = some code) :
    c.plan kind va (2 ^ k) = .error (trapAt code va kind.writes) := by
  simp [Copy.plan, splitVa_aligned hk ha, ha, Copy.xlate, hm, firstIx, hp, trapAt, trapOf]

theorem Copy.plan_clean_page {i : Nat} (hm : c.tlbFind (va48 va) = some i) (hp : permTrap .store c.priv (c.tlbAt i).pte = none)
    (hd : pteD (c.tlbAt i).pte = false) : c.plan .store va (2 ^ k) = .error (trapAt cDIRTY va true) := by
  simp [Copy.plan, splitVa_aligned hk ha, ha, Copy.xlate, hm, firstIx, hp, hd, AccessKind.perm, AccessKind.writes, trapAt, trapOf]

end

/-- Settles O15: a stopped access traps in every copy, and the plan makes its tests in R119's order. -/
theorem accessTraps : Obligations.AccessTraps := by
  unfold Obligations.AccessTraps
  refine ⟨fun i s w g acc va ti hg hr h hd ha hp => access_traps hg hr h hd ha hp, fun c op va n ha => Copy.plan_misaligned ha,
    fun c kind va k hk ha => ⟨Copy.plan_miss hk ha, fun i hm => ?_⟩⟩
  have huser : (decide (c.priv ≠ 0) || pteU (c.tlbAt i).pte) = (!decide (c.priv = 0) || pteU (c.tlbAt i).pte) := by rw [decide_not]
  dsimp only
  rw [huser]
  refine ⟨fun hkind hp => ?_, fun hkind hp => ?_, fun hkind hp hd => ?_⟩
  all_goals subst hkind
  · exact Copy.plan_denied hk ha hm (if_neg (by rw [hp]; exact Bool.false_ne_true))
  · exact Copy.plan_denied hk ha hm (if_neg (by rw [hp]; exact Bool.false_ne_true))
  · exact Copy.plan_clean_page hk ha hm (if_pos hp) hd

end Sys2Proof.Machine
end

section
/-!
PROOFS. The cache operations (Obligations.CacheOperations).
-/

namespace Sys2Proof.Machine

/-! ### Instructions with an effect outside their copies -/

theorem Local.Commits.retire {l : Local} {n : Nat} {x : Copy} (h : l.Commits n x) (c : Copy) (g : Guard) : c.retire g l = c.done g n x := by
  obtain ⟨-, hacc, -, hstay, hnext, hlatch, rfl, rfl⟩ := h
  exact Copy.retire_done hacc hstay hnext hlatch

/-- An instruction, ready to run, that acts in its copies: they commit, and then its effect outside them follows. -/
theorem State.runThen_commits {s : State} {w : Who} {g : Guard} {body : State → Nat → Copy → Local}
    {post : List Nat → Copy → State → State} {l : Local} {n : Nat} {f : Copy → Copy} (h : Ready s w g)
    (hb : ∀ c ∈ s.runners w, body s (copyIx w.t.val c) (s.lead w) = l)
    (hl : l.Commits n (f (s.lead w))) :
    ∃ u, s.runThen w g false body post = post (s.runners w) (s.lead w) u ∧ Committed s u w fun c => c.done g n (f c) := by
  obtain ⟨u, hrun, hu⟩ := State.runInstr_ready (skip := fun _ _ c => Local.nop c) h hb hl.trap hl.acc hl.sides hl.stay
  have hfirst : body s (copyIx w.t.val ((s.runners w).headD 0)) (s.lead w) = l := by
    obtain ⟨c, r, hks⟩ := List.exists_cons_of_ne_nil h.runs
    rw [hks]
    exact hb c (hks ▸ List.mem_cons_self)
  refine ⟨u, State.runThen_ready h (by rw [hfirst]; exact hl.trap) hrun hu.live, { hu with each := fun c hc => ?_ }⟩
  rw [hu.each c hc, h.same c hc]
  exact hl.retire _ _

/-- One that traps in every copy has no effect outside them. -/
theorem State.runThen_trapped {s : State} {w : Who} {g : Guard} {body : State → Nat → Copy → Local}
    {post : List Nat → Copy → State → State} {l : Local} {ti : TrapInfo} (h : Ready s w g) (hd : (s.lead w).depth < 32)
    (hb : ∀ c ∈ s.runners w, body s (copyIx w.t.val c) (s.lead w) = l)
    (ht : l.trap = some ti) : Trapped s (s.runThen w g false body post) w ti := by
  have hthen : s.runThen w g false body post = (s.runInstr w g false (fun _ _ c => Local.nop c) body).1 := by
    unfold State.runThen
    dsimp only
    split
    next => rfl
    next x r hx =>
      have hmem : x ∈ s.runners w := (List.mem_filter.mp (hx ▸ List.mem_cons_self)).1
      rw [if_neg]
      rw [h.same x hmem, hb x hmem, ht]
      simp
  rw [hthen]
  exact State.runInstr_trapped h hd hb ht

theorem Committed.copyTag {s t : State} {w : Who} {f : Copy → Copy} (h : Committed s t w f) : t.copyTag w = s.copyTag w := by
  unfold State.copyTag State.groupMode State.mode State.fget
  rw [h.regs (Reg.triStatus w.t.val) (by unfold Reg.triStatus Reg.triCommitCount; omega)]

/-! ### What the cache operations do in a copy (R110, R127) -/

theorem cleanSides_stores (c : Copy) (key : Nat) : ∀ x ∈ cleanSides c key, x.kind = 2 := by
  intro x hx
  obtain ⟨_, -, rfl⟩ := List.mem_map.mp hx
  rfl

/-- What a cleaning adds is no part of how its copy commits. -/
theorem Copy.cleaning_commits {c x : Copy} {l : Local} {n : Nat} (keys : List Nat) (h : l.Commits n x) : (c.cleaning l keys).Commits n x := by
  unfold Copy.cleaning
  dsimp only
  split
  · exact h
  · refine ⟨h.trap, h.acc, ?_, h.stay, h.nextPc, h.noLatch, h.cycles, h.copy⟩
    rw [List.all_eq_true]
    intro y hy
    obtain ⟨key, -, hkey⟩ := List.mem_flatMap.mp hy
    rw [cleanSides_stores c key y hkey]
    rfl

section
variable {c : Copy} {d : RegNo} (hp : c.priv = 2)
include hp

theorem Local.csrw_icinvAll : (Local.csrw c d 0x029).Commits 256 c.icInvAll := by
  unfold Local.csrw
  rw [hp]
  exact ⟨rfl, rfl, rfl, rfl, rfl, rfl, rfl, rfl⟩

theorem Local.csrw_dcinvAll : (Local.csrw c d 0x02D).Commits 128 { c with dcache := [] } := by
  unfold Local.csrw
  rw [hp]
  exact ⟨rfl, rfl, rfl, rfl, rfl, rfl, rfl, rfl⟩

theorem Local.csrw_icSwset : (Local.csrw c d 0x128).Commits 1 (c.setLatch (192 + bits (c.reg d) 0 5)) := by
  unfold Local.csrw
  rw [hp]
  exact ⟨rfl, rfl, rfl, rfl, rfl, rfl, rfl, rfl⟩

theorem Local.csrw_dccleanAll : (Local.csrw c d 0x02C).Commits 128 c := by
  unfold Local.csrw
  rw [hp]
  exact Copy.cleaning_commits _ ⟨rfl, rfl, rfl, rfl, rfl, rfl, rfl, rfl⟩

section
variable {i pa : Nat} {pte : Word} (hx : c.xlate (c.reg d) = some (i, pte, pa))
include hx

theorem Local.csrw_icinvVa : (Local.csrw c d 0x028).Commits 2 (c.icInv pa) := by
  unfold Local.csrw
  dsimp only
  rw [hp, hx]
  exact ⟨rfl, rfl, rfl, rfl, rfl, rfl, rfl, rfl⟩

theorem Local.csrw_dcinvVa : (Local.csrw c d 0x02A).Commits 2 (c.dcInv pa) := by
  unfold Local.csrw
  dsimp only
  rw [hp, hx]
  exact ⟨rfl, rfl, rfl, rfl, rfl, rfl, rfl, rfl⟩

theorem Local.csrw_dccleanVa : (Local.csrw c d 0x02B).Commits 2 c := by
  unfold Local.csrw
  dsimp only
  rw [hp, hx]
  exact Copy.cleaning_commits _ ⟨rfl, rfl, rfl, rfl, rfl, rfl, rfl, rfl⟩

end

/-- The cache operations on an address that translates to no entry. -/
theorem Local.csrw_miss (hx : c.xlate (c.reg d) = none) {n : Nat} (hn : n ∈ [0x028, 0x02A, 0x02B]) :
    Local.csrw c d n = Local.trapping c (trapAt cTLB_MISS_D (BitVec.ofNat 64 (va48 (c.reg d))) false) := by
  unfold Local.csrw
  dsimp only
  rw [hp, hx]
  simp only [List.mem_cons, List.not_mem_nil, or_false] at hn
  rcases hn with rfl | rfl | rfl <;> rfl

end

/-! ### The operations -/

/-- What DCCLEAN_ALL and DCCLEAN_VA do outside their copies. -/
theorem exec_dccleanAll (s : State) (w : Who) (g : Guard) (d : RegNo) : exec (.dccleanAll w g d) s =
    .next (s.runThen w g false (fun _ _ c => Local.csrw c d 0x02C) fun ks c s =>
    s.cleanPost w.t.val (s.copyTag w) ks c.dirtyKeys) := rfl

theorem exec_dccleanVa (s : State) (w : Who) (g : Guard) (d : RegNo) : exec (.dccleanVa w g d) s =
    .next (s.runThen w g false (fun _ _ c => Local.csrw c d 0x02B) fun ks c s =>
    match (c.xlate (c.reg d)).bind fun x => c.dHit x.2.2 with
    | some key => if (c.dLine key).flag then s.cleanPost w.t.val (s.copyTag w) ks [key] else s
    | none => s) := rfl

section
variable {i : Instr} {s : State} {w : Who} {g : Guard} {d : RegNo} {n m : Nat} {f : Copy → Copy} (h : Ready s w g)
include h

/-- A write of a CSR without effect outside its copies commits in them. -/
theorem csrw_inside_committed (he : exec i s = .next (s.csrw w g d n)) (hn : csrOutside n = false)
    (hl : (Local.csrw (s.lead w) d n).Commits m (f (s.lead w))) : ∃ t, exec i s = .next t ∧ Committed s t w fun c => c.done g m (f c) := by
  obtain ⟨u, hthen, hu⟩ := State.runThen_commits (body := fun _ _ c => Local.csrw c d n) (post := fun _ _ s => s) h (fun _ _ => rfl) hl
  exact ⟨u, by rw [he, State.csrw_inside hn, ← State.runThen_inside, hthen], hu⟩

/-- One that traps has no effect outside its copies either. -/
theorem csrw_trapped {ti : TrapInfo} (hd : (s.lead w).depth < 32) (ht : (Local.csrw (s.lead w) d n).trap = some ti) :
    Trapped s (s.csrw w g d n) w ti := by
  unfold State.csrw
  exact State.runThen_trapped h hd (fun _ _ => rfl) ht

theorem dccleanAll_cleans (hp : (s.lead w).priv = 2) :
    ∃ u, exec (.dccleanAll w g d) s = .next (u.cleanPost w.t.val (s.copyTag w) (s.runners w) (s.lead w).dirtyKeys) ∧
      Committed s u w fun c => c.done g 128 c := by
  obtain ⟨u, hthen, hu⟩ := State.runThen_commits (body := fun _ _ c => Local.csrw c d 0x02C) (f := id) h (fun _ _ => rfl) (Local.csrw_dccleanAll hp)
  exact ⟨u, by rw [exec_dccleanAll, hthen, hu.copyTag], hu⟩

theorem dccleanVa_cleans (hp : (s.lead w).priv = 2) {ix pa : Nat} {pte : Word} (hx : (s.lead w).xlate ((s.lead w).reg d) = some (ix, pte, pa)) :
    ∃ u, Committed s u w (fun c => c.done g 2 c) ∧
      ((s.lead w).dHit pa = none → exec (.dccleanVa w g d) s = .next u) ∧
      (∀ key, (s.lead w).dHit pa = some key →
        exec (.dccleanVa w g d) s = .next (if ((s.lead w).dLine key).flag then u.cleanPost w.t.val (s.copyTag w) (s.runners w) [key] else u)) := by
  obtain ⟨u, hthen, hu⟩ := State.runThen_commits (body := fun _ _ c => Local.csrw c d 0x02B) (f := id) h (fun _ _ => rfl) (Local.csrw_dccleanVa hp hx)
  refine ⟨u, hu, fun hm => ?_, fun key hm => ?_⟩
  · rw [exec_dccleanVa, hthen, hx, Option.bind_some, hm]
  · rw [exec_dccleanVa, hthen, hx, Option.bind_some, hm, hu.copyTag]

end

/-- Settles O17: each operation commits with its own effect in a copy, and the clean writes follow outside the copies. -/
theorem cacheOperations : Obligations.CacheOperations := by
  unfold Obligations.CacheOperations
  intro s w g d h hp
  refine ⟨csrw_inside_committed h rfl rfl (Local.csrw_icinvAll hp), csrw_inside_committed h rfl rfl (Local.csrw_dcinvAll hp),
    csrw_inside_committed h rfl rfl (Local.csrw_icSwset hp), dccleanAll_cleans h hp, fun i pte pa hx => ⟨?_, ?_, dccleanVa_cleans h hp hx⟩,
    fun hx hd i hi => ?_⟩
  · exact csrw_inside_committed h rfl rfl (Local.csrw_icinvVa hp hx)
  · exact csrw_inside_committed h rfl rfl (Local.csrw_dcinvVa hp hx)
  · simp only [List.mem_cons, List.not_mem_nil, or_false] at hi
    rcases hi with rfl | rfl | rfl <;> exact ⟨_, rfl, csrw_trapped h hd (congrArg Local.trap (Local.csrw_miss hp hx (by decide)))⟩

end Sys2Proof.Machine
end

section
/-!
PROOFS. PATCH and the patch table (Obligations.PatchTable).
-/

namespace Sys2Proof.Machine

/-- The header that a PATCH word's entry has in the copy's triad, and its micro-ops. -/
def State.patchEntry (s : State) (t : Nat) (word : BitVec 32) : Word := (s.triad t).patchHeader (word.toNat / 2 ^ 22 % 16)

def State.patchRun (s : State) (t : Nat) (word : BitVec 32) (c : Copy) : UState :=
  runUops (wD word) (wA word) (wB word) none ((s.triad t).patchOps (word.toNat / 2 ^ 22 % 16) (s.patchEntry t word)) (UState.init c)

theorem wFn_entry (word : BitVec 32) : wFn word % 16 = word.toNat / 2 ^ 22 % 16 := by
  unfold wFn wbits
  exact Nat.mod_mod_of_dvd _ (by decide)

/-- The copies of a triad run the same entry. -/
theorem State.patchLocal_copyIx {s : State} {t c : Nat} {word : BitVec 32} {x : Copy} (hc : c < 3) :
    s.patchLocal word (copyIx t c) x = s.patchLocal word (copyIx t 0) x := by
  have hk {n : Nat} (hn : n < 3) : copyIx t n / 3 = t := by unfold copyIx; omega
  unfold State.patchLocal
  rw [hk hc, hk (by decide)]

/-- An entry that the table does not hold. -/
theorem State.patchLocal_invalid {s : State} {t : Nat} {word : BitVec 32} {x : Copy}
    (hv : s.patchActive = false ∨ bit (s.patchEntry t word) 3 = false) :
    s.patchLocal word (copyIx t 0) x = Local.trapping x (trapOf cUNDEF) := by
  have hk : copyIx t 0 / 3 = t := by unfold copyIx; omega
  unfold State.patchEntry at hv
  unfold State.patchLocal
  rw [hk, wFn_entry]
  generalize word.toNat / 2 ^ 22 % 16 = e at *
  rw [if_pos]
  rcases hv with hv | hv <;> simp [hv]

/-- An entry whose micro-ops are defined and access no memory. -/
theorem State.patchLocal_commits {s : State} {t : Nat} {word : BitVec 32} {x : Copy} (ha : s.patchActive = true)
    (hv : bit (s.patchEntry t word) 3 = true)
    (hops : ∀ y ∈ (s.triad t).patchOps (word.toNat / 2 ^ 22 % 16) (s.patchEntry t word), (uopAct y (fun _ => 0) x).isSome = true)
    (hm : (s.patchRun t word x).mem = none) :
    (s.patchLocal word (copyIx t 0) x).Commits (1 + (s.patchRun t word x).cyc) (s.patchRun t word x).copy := by
  have hk : copyIx t 0 / 3 = t := by unfold copyIx; omega
  unfold State.patchRun State.patchEntry at *
  unfold State.patchLocal
  rw [hk, wFn_entry]
  generalize word.toNat / 2 ^ 22 % 16 = e at *
  have hany : ((s.triad t).patchOps e ((s.triad t).patchHeader e)).any (fun y => (uopAct y (fun _ => 0) x).isNone) = false := by
    rw [List.any_eq_false]
    intro y hy
    rw [← Option.not_isSome, hops y hy]
    decide
  dsimp only
  rw [if_neg (by rw [hany, ha, hv]; decide), hm]
  dsimp only
  split
  · exact ⟨rfl, rfl, rfl, rfl, rfl, rfl, rfl, rfl⟩
  · split <;> exact ⟨rfl, rfl, rfl, rfl, rfl, rfl, rfl, rfl⟩

/-! ### PATCH (R115, R117) -/

/-- PATCH with a defined fn field. -/
theorem exec_patch {s : State} {w : Who} {word : BitVec 32} (hz : word.toNat / 2 ^ 26 % 4 = 0) :
    exec (.patch w word) s = .next (s.runThen w (.c32 (wCond word)) false (fun s k c => s.patchLocal word k c) fun ks c s' =>
      match (s.patchLocal word (copyIx w.t.val 0) c).acc with
      | some acc => if acc.kind.returns then s.patchFinish s' word w.t.val ks else s'
      | none => s') := by
  have hundef : decide (wbits word 26 2 ≠ 0) = false := decide_eq_false (not_not.mpr hz)
  change execPatch w word s = _
  unfold execPatch
  rw [hundef]
  rfl

theorem patch_runs {s : State} {w : Who} {word : BitVec 32} (h : Ready s w (.c32 (wCond word))) (hz : word.toNat / 2 ^ 26 % 4 = 0)
    (ha : s.patchActive = true) (hv : bit (s.patchEntry w.t.val word) 3 = true)
    (hops : ∀ y ∈ (s.triad w.t.val).patchOps (word.toNat / 2 ^ 22 % 16) (s.patchEntry w.t.val word), (uopAct y (fun _ => 0) (s.lead w)).isSome = true)
    (hm : (s.patchRun w.t.val word (s.lead w)).mem = none) :
    ∃ t, exec (.patch w word) s = .next t ∧ Committed s t w fun c =>
      c.done (.c32 (wCond word)) (1 + (s.patchRun w.t.val word c).cyc) (s.patchRun w.t.val word c).copy := by
  have hl := State.patchLocal_commits ha hv hops hm
  obtain ⟨u, hthen, hu⟩ := State.runThen_commits (body := fun s k c => s.patchLocal word k c) (f := fun c => (s.patchRun w.t.val word c).copy) h
    (fun c hc => State.patchLocal_copyIx (s.runners_lt w c hc)) hl
  refine ⟨u, ?_, { hu with each := fun c hc => ?_ }⟩
  · rw [exec_patch hz, hthen, hl.acc]
  · rw [hu.each c hc, h.same c hc]

theorem patch_undefined {s : State} {w : Who} {word : BitVec 32} (h : Ready s w (.c32 (wCond word))) (hz : word.toNat / 2 ^ 26 % 4 = 0)
    (hv : s.patchActive = false ∨ bit (s.patchEntry w.t.val word) 3 = false) (hd : (s.lead w).depth < 32) :
    ∃ t, exec (.patch w word) s = .next t ∧ Trapped s t w (trapOf cUNDEF) := by
  refine ⟨_, exec_patch hz, State.runThen_trapped (l := Local.trapping (s.lead w) (trapOf cUNDEF)) h hd (fun c hc => ?_) rfl⟩
  exact (State.patchLocal_copyIx (s.runners_lt w c hc)).trans (State.patchLocal_invalid hv)

/-! ### PATCH_DATA (R116) -/

theorem exec_patchDataWrite (s : State) (w : Who) (g : Guard) (d : RegNo) : exec (.patchDataWrite w g d) s =
    .next (s.runThen w g false (fun _ _ c => Local.csrw c d 0x031) fun _ c s => s.patchDataWrite w.t.val (c.reg d)) := rfl

theorem Local.csrw_patchData {c : Copy} {d : RegNo} (hp : c.priv = 2) : (Local.csrw c d 0x031).Commits 9 c := by
  unfold Local.csrw
  rw [hp]
  exact ⟨rfl, rfl, rfl, rfl, rfl, rfl, rfl, rfl⟩

theorem Committed.patchActive {s t : State} {w : Who} {f : Copy → Copy} (h : Committed s t w f) : t.patchActive = s.patchActive := by
  have hsys : t.rd Reg.sysState = s.rd Reg.sysState := h.regs _ (by unfold Reg.sysState Reg.triCommitCount; omega)
  unfold State.patchActive State.opstate State.lc State.fget
  rw [hsys]

theorem Committed.triad {s t : State} {w : Who} {f : Copy → Copy} (h : Committed s t w f) (k : Nat) : t.triad k = s.triad k := by
  rw [h.rest]
  rfl

section
variable {s : State} {t : Nat} {v : Word}

theorem State.patchDataWrite_inactive (ha : s.patchActive = false) : s.patchDataWrite t v = s := if_pos (by rw [ha]; rfl)

theorem State.patchDataWrite_word (ha : s.patchActive = true) (hi : bit (s.triad t).patchIdx 7 = false) : s.patchDataWrite t v =
    s.modTriad t fun x => { x with patch := SMap.put 0 x.patch (16 * bits x.patchIdx 0 4 + bits x.patchIdx 4 3) (v &&& 0xFFFFFFFF) } := by
  unfold State.patchDataWrite
  dsimp only
  rw [if_neg (by simp [ha]), if_neg (by simp [hi])]
  rfl

/-- A header without VALID is stored with no check. -/
theorem State.patchDataWrite_header (ha : s.patchActive = true) (hi : bit (s.triad t).patchIdx 7 = true) (hv : bit v 3 = false) : s.patchDataWrite t v =
    s.modTriad t fun x => { x with patch := SMap.put 0 x.patch (16 * bits x.patchIdx 0 4 + 8) (v &&& 0xF) } := by
  have hheader : bit (v &&& 0xF) 3 = false := by
    unfold bit at *
    rw [BitVec.getLsbD_and, hv, Bool.false_and]
  unfold State.patchDataWrite
  dsimp only
  rw [if_neg (by simp [ha]), if_pos hi, if_neg (by rw [hheader, Bool.false_and]; decide)]
  rfl

end

/-- Settles O22: a valid entry is one instruction of its copies, and what PATCH_DATA writes is the triad's. -/
theorem patchTable : Obligations.PatchTable := by
  unfold Obligations.PatchTable
  refine fun s w => ⟨fun word ops h hz hops => ?_, fun g d h hp => ?_⟩
  · subst hops
    exact ⟨patch_runs h hz, patch_undefined h hz⟩
  · obtain ⟨u, hthen, hu⟩ := State.runThen_commits (body := fun _ _ c => Local.csrw c d 0x031) (f := id) h (fun _ _ => rfl) (Local.csrw_patchData hp)
    refine ⟨_, u, (exec_patchDataWrite s w g d).trans (congrArg _ hthen), hu, ?_⟩
    rw [← hu.patchActive, ← hu.triad]
    exact ⟨State.patchDataWrite_inactive, State.patchDataWrite_word, State.patchDataWrite_header⟩

end Sys2Proof.Machine
end

section
/-!
PROOFS. The fetch of a line that the copies hold (Obligations.InstructionFetchLines).
-/

namespace Sys2Proof.Machine

/-! ### A state whose copies are written anew, each as it was -/

/-- The two states differ in how their copies are stored, and in no copy. -/
structure SameCopies (s u : State) : Prop where
  copy  : u.copy = s.copy
  frame : u = { s with copies := u.copies }

namespace SameCopies
variable {s u : State} (h : SameCopies s u)
include h

theorem runners (w : Who) : u.runners w = s.runners w := by
  have hruns (t : Nat) : u.copyRuns t = s.copyRuns t := by
    funext c
    unfold State.copyRuns
    rw [h.copy]
  unfold State.runners
  rw [hruns, h.frame]
  rfl

theorem lead (w : Who) : u.lead w = s.lead w := by
  unfold State.lead
  rw [h.runners, h.copy]

theorem agreeing (t cls : Nat) : u.agreeing t cls = s.agreeing t cls := by
  unfold State.agreeing
  rw [h.copy, h.frame]
  rfl

theorem sound {k : Nat} (hs : s.sound k) : u.sound k := by
  obtain ⟨hue, hce, hvalid⟩ := hs
  refine ⟨by rw [h.copy]; exact hue, by rw [h.copy]; exact hce, ?_⟩
  rw [h.frame]
  exact hvalid

theorem lockstep {w : Who} (hl : Lockstep s w) : Lockstep u w := by
  have hrd (r : Nat) : u.rd r = s.rd r := by rw [h.frame]; rfl
  constructor
  case runs => rw [h.runners]; exact hl.runs
  case same => rw [h.runners, h.copy, h.lead]; exact hl.same
  case even => rw [h.lead]; exact hl.even
  case sound => rw [h.runners]; exact fun c hc => h.sound (hl.sound c hc)
  case fetch => rw [h.lead]; exact hl.fetch
  case conf => rw [h.frame]; exact hl.conf
  case inject => rw [h.frame]; exact hl.inject
  case phase => rw [h.frame]; exact hl.phase
  case idle => rw [h.frame]; exact hl.idle
  case agree => exact fun cls => (h.agreeing _ cls).trans (hl.agree cls)

/-- A trap taken from the one is one taken from the other. -/
theorem trapped {w : Who} {t : State} {ti : TrapInfo} (ht : Trapped u t w ti) : Trapped s t w ti := by
  obtain ⟨heach, hframe, hothers, hbytes, hvalid, hresv, hrest⟩ := ht
  rw [h.runners, h.copy] at *
  have hread : u.tcmRead = s.tcmRead := by rw [h.frame]; rfl
  have hbyte : u.byte = s.byte := by rw [h.frame]; rfl
  have hprot : u.prot = s.prot := by rw [h.frame]
  have hres : u.resv = s.resv := by rw [h.frame]
  rw [hread] at heach
  rw [hbyte] at hbytes
  rw [hprot] at hvalid
  rw [hres] at hresv
  refine ⟨heach, hframe, hothers, hbytes, hvalid, hresv, ?_⟩
  rw [hrest, h.frame]

end SameCopies

/-! ### The F stage with empty buffers (R122) -/

/-- The line buffers are empty. -/
structure Copy.Bare (c : Copy) : Prop where
  cur  : c.fCur = FLine.empty
  next : c.fNext = FLine.empty
  pre  : c.fPre = FLine.empty

namespace Copy.Bare
variable {c : Copy} (h : c.Bare)
include h

theorem lineUp : c.lineUp = c := by
  unfold Copy.lineUp
  have hvalid : FLine.empty.valid = false := rfl
  have same (x y z : FLine) (hx : x = c.fCur) (hy : y = c.fNext) (hz : z = c.fPre) : ({ c with fCur := x, fNext := y, fPre := z } : Copy) = c := by
    subst hx hy hz
    rfl
  simp only [h.cur, h.next, h.pre, hvalid, Bool.false_and, Bool.false_eq_true, if_false]
  exact same _ _ _ h.cur.symm h.next.symm h.pre.symm

theorem holds0 : c.holds0 = false := by
  unfold Copy.holds0
  rw [h.cur]
  rfl

theorem missing : c.missing = some 0 := by
  unfold Copy.missing
  rw [h.holds0]
  rfl

theorem undefHeld : c.undefHeld = false := by
  unfold Copy.undefHeld Copy.holdsAll
  rw [h.holds0]
  rfl

end Copy.Bare

theorem lineVa_zero (c : Copy) : c.lineVa 0 = BitVec.ofNat 64 (va48 c.pc / 32 * 32) := by
  have hva : va48 c.pc < 2 ^ 48 := bits_lt c.pc 0 48
  unfold Copy.lineVa
  rw [Nat.add_zero, Nat.mod_eq_of_lt (by omega)]

/-- Sound copies mark no word of a line. -/
theorem Copy.marks_sound {c : Copy} (hue : c.ue = []) (whole words : List (ArrayId × Nat)) : c.marks whole words = [] := by
  have hfind : (whole.find? fun r => c.ue.contains r) = none := List.find?_eq_none.mpr fun x _ => by simp [hue]
  unfold Copy.marks
  rw [hfind, List.filter_eq_nil_iff]
  exact fun x _ => by simp [hue]

section
variable {s : State} {k : Nat} {c : Copy} (hbare : c.Bare) (heven : bit c.pc 0 = false)
include hbare heven

theorem State.fetchPlan_miss (hx : c.xlate (BitVec.ofNat 64 (va48 c.pc / 32 * 32)) = none) :
    s.fetchPlan k c = .trap (trapAt cTLB_MISS_I (BitVec.ofNat 64 (va48 c.pc)) false) := by
  unfold State.fetchPlan
  simp only [heven, hbare.missing, lineVa_zero, hx]
  rfl

variable {i pa : Nat} {pte : Word} (hue : c.ue = []) (hx : c.xlate (BitVec.ofNat 64 (va48 c.pc / 32 * 32)) = some (i, pte, pa))
  (hperm : permTrap .fetch c.priv pte = none)
include hue hx hperm

theorem State.fetchPlan_tcm (hself : isSelf pa = true) :
    s.fetchPlan k c = .fill 0 (s.bytes (tcmAddr k (pa % 0x10000)) 32) [] none := by
  unfold State.fetchPlan
  simp only [heven, hbare.missing, lineVa_zero, hx, hperm, Copy.marks_sound hue, hself]
  rfl

theorem State.fetchPlan_hit (hself : isSelf pa = false) {key : Nat} (hkey : c.iHit pa = some key) :
    s.fetchPlan k c = .fill 0 (c.iLine key).data [] (some key) := by
  unfold State.fetchPlan
  simp only [heven, hbare.missing, lineVa_zero, hx, hperm, Copy.marks_sound hue, hself, hkey]
  rfl

end

/-! ### INSTRUCTION_FETCH -/

/-- The state once the F stage of its copies has lined up. -/
def State.lined (s : State) (w : Who) : State := s.forCopies w.t.val (s.runners w) (·.lineUp)

section
variable {s : State} {w : Who} (h : Lockstep s w) (hbare : (s.lead w).Bare)
include h hbare

theorem State.lined_same : SameCopies s (s.lined w) := by
  refine ⟨?_, State.forCopies_frame ..⟩
  obtain ⟨hin, hout, -⟩ := State.foldCopies (t := w.t.val) (F := fun _ c => c.lineUp) (s.runners_nodup w) s
  funext k
  by_cases hk : ∃ c ∈ s.runners w, k = copyIx w.t.val c
  · obtain ⟨c, hc, rfl⟩ := hk
    refine (hin c hc).trans ?_
    rw [h.same c hc]
    exact hbare.lineUp
  · exact hout k fun c hc he => hk ⟨c, hc, he⟩

theorem State.lined_reads : (s.runners w).foldl (fun s c =>
    (s.copy (copyIx w.t.val c)).fetchReads.foldl (fun s r => s.arrayRead (copyIx w.t.val c) r) s) (s.lined w) = s.lined w :=
  State.arrayReads_sound fun c hc => State.arrayReads_sound fun r _ => ((State.lined_same h hbare).sound (h.sound c hc)).arrayRead r

theorem State.lined_fetchPlan (k : Nat) (c : Copy) : (s.lined w).fetchPlan k c = s.fetchPlan k c := by
  rw [(State.lined_same h hbare).frame]
  rfl

/-- The line that a plan finds, placed in its buffer: one of the instruction cache is used. -/
def Copy.takeLine (c : Copy) (slot data : Nat) (bad : Marks) (key : Option Nat) : Copy :=
  let x := c.putLine slot data bad 0
  match key with
  | some key => x.setILine key (x.iLine key)
  | none => x

/-- The fetch of copies that ask for no line from outside: they trap together, or each takes its line. -/
theorem exec_fetch_inside (hasks : ∀ k, (s.fetchPlan k (s.lead w)).asks = false) :
    (∀ ti, (∀ k, s.fetchPlan k (s.lead w) = .trap ti) → ∃ body,
      exec (.instructionFetch w) s = .next ((s.lined w).runInstr w (.c32 7) false (fun _ _ c => Local.nop c) body).1 ∧
        ∀ k, body (s.lined w) k (s.lead w) = Local.trapping (s.lead w) ti) ∧
    (∀ slot (data : Nat → Nat) bad key, (∀ k, s.fetchPlan k (s.lead w) = .fill slot (data k) bad key) →
      exec (.instructionFetch w) s = .next ((s.runners w).foldl (fun u c =>
        u.setCopy (copyIx w.t.val c) ((u.copy (copyIx w.t.val c)).takeLine slot (data (copyIx w.t.val c)) bad key)) (s.lined w))) := by
  have hsame := State.lined_same h hbare
  have hplan := State.lined_fetchPlan h hbare
  have hreads := State.lined_reads h hbare
  have hundef : ((s.lined w).copy (copyIx w.t.val ((s.runners w).headD 0))).undefHeld = false := by
    rw [hsame.copy]
    exact hbare.undefHeld
  have hany : ((s.runners w).any fun c => (s.lined w).live w.t.val c &&
      ((s.lined w).fetchPlan (copyIx w.t.val c) ((s.lined w).copy (copyIx w.t.val c))).asks) = false := by
    rw [List.any_eq_false]
    intro c hc
    rw [hplan, hsame.copy, h.same c hc, hasks]
    simp
  have hfilter : (s.runners w).filter (fun c => (s.lined w).live w.t.val c || !(s.lined w).live w.t.val c) = s.runners w :=
    List.filter_eq_self.mpr fun _ _ => Bool.or_not_self _
  have hlead : (s.lined w).fetchPlan (copyIx w.t.val ((s.runners w).headD 0)) ((s.lined w).copy (copyIx w.t.val ((s.runners w).headD 0))) =
      s.fetchPlan (copyIx w.t.val ((s.runners w).headD 0)) (s.lead w) := by
    rw [hplan, hsame.copy]
    rfl
  generalize hout : exec (.instructionFetch w) s = out
  change execInstructionFetch w s = out at hout
  unfold execInstructionFetch at hout
  dsimp only at hout
  split at hout
  next he => exact absurd he h.runs
  next x r he =>
  have hx : (s.runners w).headD 0 = x := by rw [he]; rfl
  unfold State.lined at *
  rw [hreads, ← hx, if_neg (by rw [hundef]; decide), hany, Bool.and_false, if_neg Bool.false_ne_true] at hout
  dsimp only at hout
  rw [hfilter, hlead] at hout
  refine ⟨fun ti htrap => ?_, fun slot data bad key hfill => ?_⟩
  · rw [htrap] at hout
    subst hout
    refine ⟨_, rfl, fun k => ?_⟩
    rw [hplan, htrap]
  · rw [hfill] at hout
    subst hout
    refine congrArg _ (List.foldl_ext _ _ _ fun u c hc => ?_)
    rw [hplan, hsame.copy, h.same c hc, hfill]
    rfl

theorem fetch_traps {ti : TrapInfo} (hd : (s.lead w).depth < 32) (hplan : ∀ k, s.fetchPlan k (s.lead w) = .trap ti) :
    ∃ t, exec (.instructionFetch w) s = .next t ∧ Trapped s t w ti := by
  have hsame := State.lined_same h hbare
  have hready : Ready (s.lined w) w (.c32 7) := { hsame.lockstep h with defd := rfl, holds := rfl }
  obtain ⟨body, he, hbody⟩ := (exec_fetch_inside h hbare fun k => by rw [hplan]; rfl).1 ti hplan
  refine ⟨_, he, hsame.trapped (State.runInstr_trapped (l := Local.trapping (s.lead w) ti) hready ?_ (fun c _ => ?_) rfl)⟩
  · rw [hsame.lead]
    exact hd
  · rw [hsame.lead]
    exact hbody _

theorem fetch_fills {slot : Nat} {data : Nat → Nat} {bad : Marks} {key : Option Nat}
    (hplan : ∀ k, s.fetchPlan k (s.lead w) = .fill slot (data k) bad key) :
    ∃ t, exec (.instructionFetch w) s = .next t ∧ t = { s with copies := t.copies } ∧
      (∀ c ∈ s.runners w, t.copy (copyIx w.t.val c) = (s.copy (copyIx w.t.val c)).takeLine slot (data (copyIx w.t.val c)) bad key) ∧
      ∀ j, (∀ c ∈ s.runners w, j ≠ copyIx w.t.val c) → t.copy j = s.copy j := by
  have hsame := State.lined_same h hbare
  have he := (exec_fetch_inside h hbare fun k => by rw [hplan]; rfl).2 slot data bad key hplan
  obtain ⟨hin, hout, hframe⟩ := State.foldCopies (t := w.t.val) (F := fun c x => x.takeLine slot (data (copyIx w.t.val c)) bad key)
    (s.runners_nodup w) (s.lined w)
  rw [hsame.copy] at hin hout
  refine ⟨_, he, hframe.trans ?_, hin, hout⟩
  rw [hsame.frame]

end

theorem Copy.takeLine_current (c : Copy) (data : Nat) (key : Option Nat) : c.takeLine 0 data [] key =
    let x : Copy := { c with fCur := { valid := true, va := va48 c.pc / 32, data := data, bad := [], lack := 0 } }
    match key with
    | some key => x.setILine key (x.iLine key)
    | none => x := by
  have hva : va48 c.pc < 2 ^ 48 := bits_lt c.pc 0 48
  have hline : (va48 c.pc / 32 + 0) % 2 ^ 43 = va48 c.pc / 32 := Nat.mod_eq_of_lt (by omega)
  simp only [Copy.takeLine, Copy.putLine, hline]

/-- Settles O23: the copies' plans are one plan, which traps or fills the current buffer. -/
theorem instructionFetchLines : Obligations.InstructionFetchLines := by
  unfold Obligations.InstructionFetchLines
  intro s w h hcur hnext hpre
  have hbare : (s.lead w).Bare := ⟨hcur, hnext, hpre⟩
  have hue := h.lead_sound.1
  refine ⟨fun hx hd => fetch_traps h hbare hd fun k => State.fetchPlan_miss hbare h.even hx,
    fun i pte pa hx hperm => ⟨fun hself => ?_, fun hself key hkey => ?_⟩⟩
  · obtain ⟨t, he, hframe, hin, hout⟩ := fetch_fills h hbare (data := fun k => s.bytes (tcmAddr k (pa % 0x10000)) 32)
      fun k => State.fetchPlan_tcm hbare h.even hue hx hperm hself
    refine ⟨t, he, hframe, fun c hc => ?_, hout⟩
    exact (hin c hc).trans (h.same c hc ▸ Copy.takeLine_current _ _ _)
  · obtain ⟨t, he, hframe, hin, hout⟩ := fetch_fills h hbare (data := fun _ => ((s.lead w).iLine key).data)
      fun k => State.fetchPlan_hit hbare h.even hue hx hperm hself hkey
    refine ⟨t, he, hframe, fun c hc => ?_, hout⟩
    exact (hin c hc).trans (h.same c hc ▸ Copy.takeLine_current _ _ _)

end Sys2Proof.Machine
end

section
/-!
PROOFS. The scalar TLB and its instructions (Obligations.TlbInstructions).
-/

namespace Sys2Proof.Machine

/-! ### Entries written and dropped (R156 to R158) -/

@[simp] theorem Copy.tlbAt_setTlb (c : Copy) (i j : Nat) (e : TlbEntry) : (c.setTlb i e).tlbAt j = if j = i then e else c.tlbAt j := SMap.get_put

/-- A dropped entry is no longer valid; the others stay. -/
theorem Copy.tlbAt_tlbDrop (c : Copy) (is : List Nat) (j : Nat) :
    (c.tlbDrop is).tlbAt j = if j ∈ is then { c.tlbAt j with v := false } else c.tlbAt j := by
  unfold Copy.tlbDrop
  induction is generalizing c with
  | nil => simp
  | cons i is ih =>
    rw [List.foldl_cons, ih]
    by_cases hj : j = i
    · subst hj
      simp
    · simp [hj]

/-- Dropping touches no LOCK. -/
theorem Copy.lock_tlbDrop (c : Copy) (is : List Nat) (j : Nat) : ((c.tlbDrop is).tlbAt j).lock = (c.tlbAt j).lock := by
  rw [Copy.tlbAt_tlbDrop]
  split <;> rfl

/-- Where some entry is unlocked, the next unlocked index names one. -/
theorem Copy.nextUnlocked_lt {c : Copy} (h : ∃ i < 64, (c.tlbAt i).lock = false) (p : Nat) : c.nextUnlocked p < 64 := by
  obtain ⟨i, hi, hl⟩ := h
  unfold Copy.nextUnlocked
  have hm : i ∈ (List.range 64).map fun j => (p + j) % 64 := List.mem_map.mpr ⟨(i + 64 - p % 64) % 64, by simp; omega, by omega⟩
  obtain ⟨n, hn⟩ := Option.isSome_iff_exists.mp (List.find?_isSome (p := fun j => !(c.tlbAt j).lock) |>.mpr ⟨i, hm, by simp [hl]⟩)
  obtain ⟨j, -, rfl⟩ := List.mem_map.mp (List.mem_of_find?_eq_some hn)
  rw [hn]
  exact Nat.mod_lt _ (by decide)

/-- The copy without the unlocked entries that a new one overlaps (R158). -/
def Copy.cleared (c : Copy) (e : TlbEntry) : Copy := c.tlbDrop (c.tlbWhere fun y => !y.lock && y.overlaps e)

/-- No unlocked entry overlaps the new one any more. -/
theorem Copy.cleared_overlaps (c : Copy) (e : TlbEntry) {i : Nat} (hi : i < 64) (hl : ((c.cleared e).tlbAt i).lock = false) :
    ((c.cleared e).tlbAt i).overlaps e = false := by
  unfold Copy.cleared at *
  rw [Copy.lock_tlbDrop] at hl
  rw [Copy.tlbAt_tlbDrop]
  split
  next => rfl
  next hn =>
    rw [Copy.tlbWhere, List.mem_filter] at hn
    simpa [hi, hl] using hn

/-- TLBWR writes its entry at one index of the cleared TLB: the named one with USE_IDX. -/
theorem Copy.tlbAt_tlbwr {c : Copy} (h : ∃ i < 64, (c.tlbAt i).lock = false) (tag pte ctl : Word) :
    let e := tlbwrEntry tag pte (bits ctl 7 2) (bit ctl 9)
    ∃ n < 64, (bit ctl 6 = true → n = bits ctl 0 6) ∧ ∀ i, (c.tlbwr tag pte ctl).tlbAt i = if i = n then e else (c.cleared e).tlbAt i := by
  intro e
  have hfree : ∃ i < 64, ((c.cleared e).tlbAt i).lock = false := by
    obtain ⟨i, hi, hl⟩ := h
    exact ⟨i, hi, (Copy.lock_tlbDrop _ _ _).trans hl⟩
  unfold Copy.tlbwr
  dsimp only
  change ∃ n < 64, _ ∧ ∀ i, Copy.tlbAt (if bit ctl 6 then (c.cleared e).setTlb (bits ctl 0 6) e else _) i = _
  split
  next => exact ⟨bits ctl 0 6, bits_lt ctl 0 6, fun _ => rfl, fun _ => Copy.tlbAt_setTlb _ _ _ _⟩
  next hidx =>
    split
    next i hi => exact ⟨i, List.mem_range.mp (List.mem_of_find?_eq_some hi), fun h => absurd h hidx, fun _ => Copy.tlbAt_setTlb _ _ _ _⟩
    next => exact ⟨_, Copy.nextUnlocked_lt hfree _, fun h => absurd h hidx, fun _ => Copy.tlbAt_setTlb _ _ _ _⟩

/-! ### The instructions (R155, R159 to R162) -/

section
variable {i : Instr} {s : State} {w : Who} {g : Guard} {body : Copy → Local} (h : Ready s w g)
  (he : exec i s = .next (s.run w g false fun c => Local.tlbOp c (body c)))
include h he

/-- A TLB instruction at SUP or MON commits as its body does; at USR it traps. -/
theorem tlbOp_committed {n : Nat} {f : Copy → Copy} (hp : (s.lead w).priv ≠ 0) (hb : (body (s.lead w)).Commits n (f (s.lead w))) :
    ∃ t, exec i s = .next t ∧ Committed s t w fun c => c.done g n (f c) := by
  have hop : (Local.tlbOp (s.lead w) (body (s.lead w))).Commits n (f (s.lead w)) := by rwa [Local.tlbOp, if_neg hp]
  obtain ⟨htrap, hacc, hsides, hstay, hnext, hlatch, hcycles, hcopy⟩ := hop
  exact ⟨_, he, State.run_ready h htrap hacc hsides hstay hnext hlatch hcycles hcopy⟩

theorem tlbOp_trapped (hp : (s.lead w).priv = 0) (hd : (s.lead w).depth < 32) : ∃ t, exec i s = .next t ∧ Trapped s t w (trapOf cPRIV) :=
  ⟨_, he, State.runInstr_trapped h hd (fun _ _ => if_pos hp) rfl⟩

end

/-- Settles O18: each instruction commits its own effect or traps, and TLBWR writes one entry of a TLB cleared of what it overlaps. -/
theorem tlbInstructions : Obligations.TlbInstructions := by
  unfold Obligations.TlbInstructions
  refine ⟨fun s w g d a b h => ⟨fun hp => ⟨fun ht => ?_, ?_, ?_, ?_, ?_, ?_, fun hpin hlock => ?_⟩, fun hp hd i hi => ?_⟩,
    fun c tag pte ctl _ hfree => ?_⟩
  · refine tlbOp_committed h rfl hp ?_
    rw [ht]
    exact ⟨rfl, rfl, rfl, rfl, rfl, rfl, rfl, rfl⟩
  · exact tlbOp_committed h rfl hp ⟨rfl, rfl, rfl, rfl, rfl, rfl, rfl, rfl⟩
  · exact tlbOp_committed h rfl hp ⟨rfl, rfl, rfl, rfl, rfl, rfl, rfl, rfl⟩
  · exact tlbOp_committed h rfl hp (Local.nop_commits _)
  · refine tlbOp_committed h rfl hp ?_
    simp only [← Bool.and_assoc]
    exact Local.nop_commits _
  · refine tlbOp_committed h rfl hp ⟨rfl, rfl, rfl, rfl, rfl, rfl, rfl, ?_⟩
    simp only [Bool.and_true]
    rfl
  · refine tlbOp_committed h rfl hp ?_
    rw [if_neg (by rcases hlock with hl | hl <;> simp [hpin, hl])]
    exact Local.nop_commits _
  · simp only [List.mem_cons, List.not_mem_nil, or_false] at hi
    rcases hi with rfl | rfl | rfl | rfl | rfl | rfl | rfl <;> exact tlbOp_trapped h rfl hp hd
  · obtain ⟨n, hn, hidx, hat⟩ := Copy.tlbAt_tlbwr hfree tag pte ctl
    refine ⟨fun hi => by rw [hat, if_pos (hidx hi).symm], n, hn, by rw [hat, if_pos rfl], fun i hi hne hl => ?_⟩
    rw [hat, if_neg hne] at hl ⊢
    exact Copy.cleared_overlaps c _ hi hl

end Sys2Proof.Machine
end

section
/-!
PROOFS. Register writes that their gate denies (Obligations.DeniedRegisterWrites).
-/

namespace Sys2Proof.Machine

/-! ### The commands that are one register write -/

/-- Every command that is one register write makes it through the gate of its register's block. -/
theorem exec_regRow {i : Instr} {rq : Rq} {off : Nat} (h : regRow i = some (rq, off)) (s : State) :
    ∃ v, exec i s = .next (s.gatedWrite rq off v) := by
  unfold regRow at h
  split at h
  case h_65 => simp at h
  all_goals
    obtain ⟨rfl, rfl⟩ := Prod.mk.inj (Option.some.inj h)
    exact ⟨_, rfl⟩

/-- Its register lies in the MMIO window. -/
theorem regRow_off_lt {i : Instr} {rq : Rq} {off : Nat} (h : regRow i = some (rq, off)) : off < 0x160000 := by
  unfold regRow at h
  split at h
  case h_65 => simp at h
  case h_12 gt k which v =>
    obtain ⟨rfl, rfl⟩ := Prod.mk.inj (Option.some.inj h)
    cases which <;> simp only [ruleRegOff, Reg.gateRuleBase, Reg.gateRuleLimit, Reg.gateRuleMask] <;> omega
  all_goals
    obtain ⟨rfl, rfl⟩ := Prod.mk.inj (Option.some.inj h)
    simp only [Reg.admReqCtl, Reg.admRingPtr, Reg.admSringPtr, Reg.clkGpioOut, Reg.clkI2cCmd, Reg.ddrZodCtl, Reg.ddrZodProbe, Reg.dhpJobqPtr,
      Reg.dhpSlotDone, Reg.dhpSlotProg, Reg.edcClassUeFirst, Reg.edcCtl, Reg.edcInjCtl, Reg.edcRemap, Reg.edcScrubGo, Reg.ethGclCtl,
      Reg.ethMsecInstall, Reg.ethTxqTail, Reg.fcruMatrix, Reg.fcruPend, Reg.fcruStatus, Reg.fcruSwRaise, Reg.fulCCheckLast, Reg.fulCCtl,
      Reg.fulCEvent, Reg.fulCFflags, Reg.fulPgCtl, Reg.gateCtl, Reg.gateLogClr, Reg.gateRuleCtl, Reg.hbxRet, Reg.hbxStatus, Reg.memSsPwr,
      Reg.pncCtl, Reg.pncFailLast, Reg.recCtl, Reg.sysIpi, Reg.sysLcCtl, Reg.sysSleep, Reg.timeOutCfg, Reg.timeRate, Reg.timeStep, Reg.triInject,
      Reg.triMismatch, Reg.triModeReq, Reg.triResyncCtl, Reg.triWdogKick, Reg.xltAsid, Reg.xltRoot]
    omega

/-! ### The record of a denial (R177, R178) -/

theorem gateOf_lt (pa : Nat) : gateOf pa < 27 := by
  unfold gateOf
  cases windowOf pa
  case mmio =>
    dsimp only
    split <;> omega
  all_goals
    dsimp only
    omega

/-- A detection sets its pending bit. -/
theorem State.raiseFor_pends (s : State) (src : Nat) (grp : Option Nat) :
    bit ((s.raiseFor src grp).rd (Reg.fcruPend (src / 64))) (src % 64) = true := by
  have hlt : src % 64 < 64 := Nat.mod_lt _ (by decide)
  change bit ((s.wr _ _).rd _) _ = true
  rw [State.rd_wr, if_pos rfl, bit, getLsbD_setBits _ _ _ _ hlt, if_pos (by omega)]
  simp

/-- From `s` to `t` nothing has changed but registers and the detections of sources. -/
def State.Records (s t : State) : Prop := t = { s with regs := t.regs, detected := t.detected }

theorem State.Records.wr {s t : State} (h : s.Records t) (r : Nat) (v : Word) : s.Records (t.wr r v) := by
  unfold State.Records at *
  rw [h]
  rfl

theorem State.raiseFor_records (s : State) (src : Nat) (grp : Option Nat) : s.Records (s.raiseFor src grp) := rfl

theorem State.fset_detected (s : State) (r : Nat) (f : Fld) (v : Nat) : (s.fset r f v).detected = s.detected := rfl

/-- A denial up to its log: the source is raised on the requester's behalf and the denial is counted. -/
def State.denyCount (s : State) (m : MeshReq) : State :=
  (s.raiseFor (0x160 + gateOf m.pa.toNat) (some m.rq.init.val)).fsat (Reg.gateStat (gateOf m.pa.toNat)) Reg.gateStat_DENIED 1

section
variable (s : State) (m : MeshReq) (c : Nat)

theorem State.fget_denyCount_LOG_COUNT : (s.denyCount m).fget (Reg.gateStat (gateOf m.pa.toNat)) Reg.gateStat_LOG_COUNT =
    s.fget (Reg.gateStat (gateOf m.pa.toNat)) Reg.gateStat_LOG_COUNT := by
  have hg := gateOf_lt m.pa.toNat
  unfold State.denyCount State.fsat
  rw [State.fget_fset_of_disjoint _ _ _ (by decide), State.fget, State.rd_raiseFor_of_ne _ _ _ (by unfold Reg.gateStat Reg.fcruPend; omega), State.fget]

/-- With room in the violation log the denial takes the next entry. -/
theorem State.deny_room (h : s.fget (Reg.gateStat (gateOf m.pa.toNat)) Reg.gateStat_LOG_COUNT < 8) : s.deny m c =
    let g := gateOf m.pa.toNat
    let n := s.fget (Reg.gateStat g) Reg.gateStat_LOG_COUNT
    (((s.denyCount m).wr (Reg.gateVlogAddr g n) (m.pa.setWidth 64)).wr (Reg.gateVlogInfo g n)
      (BitVec.ofNat 64 (m.rq.init.val + 2 ^ 5 * meshOpCode m.op + 2 ^ 8 * c + 2 ^ 10 + 2 ^ 24 * s.now40))).fset (Reg.gateStat g)
        Reg.gateStat_LOG_COUNT (n + 1) := by
  dsimp only
  rw [← State.fget_denyCount_LOG_COUNT] at h ⊢
  exact if_neg (Nat.not_le.mpr h)

/-- Without room the log is marked as overflowed. -/
theorem State.deny_full (h : 8 ≤ s.fget (Reg.gateStat (gateOf m.pa.toNat)) Reg.gateStat_LOG_COUNT) :
    s.deny m c = (s.denyCount m).fset (Reg.gateStat (gateOf m.pa.toNat)) Reg.gateStat_LOG_OVF 1 := by
  rw [← State.fget_denyCount_LOG_COUNT] at h
  exact if_pos h

/-- A denial writes no register but its gate's status and log, and the pending bits. -/
theorem State.rd_deny_of_ne {r : Nat} (hs : r ≠ Reg.gateStat (gateOf m.pa.toNat))
    (hl : ∀ n < 8, r ≠ Reg.gateVlogAddr (gateOf m.pa.toNat) n ∧ r ≠ Reg.gateVlogInfo (gateOf m.pa.toNat) n) :
    (s.deny m c).rd r = (s.raiseFor (0x160 + gateOf m.pa.toNat) (some m.rq.init.val)).rd r := by
  have hc : (s.denyCount m).rd r = (s.raiseFor (0x160 + gateOf m.pa.toNat) (some m.rq.init.val)).rd r := State.rd_fset_of_ne _ _ _ hs
  rcases Nat.lt_or_ge (s.fget (Reg.gateStat (gateOf m.pa.toNat)) Reg.gateStat_LOG_COUNT) 8 with h | h
  · rw [State.deny_room s m c h]
    dsimp only
    rw [State.rd_fset_of_ne _ _ _ hs, State.rd_wr_of_ne _ _ (hl _ h).2, State.rd_wr_of_ne _ _ (hl _ h).1, hc]
  · rw [State.deny_full s m c h, State.rd_fset_of_ne _ _ _ hs, hc]

theorem State.deny_pends : bit ((s.deny m c).rd (Reg.fcruPend ((0x160 + gateOf m.pa.toNat) / 64))) ((0x160 + gateOf m.pa.toNat) % 64) = true := by
  have hg := gateOf_lt m.pa.toNat
  rw [State.rd_deny_of_ne s m c (by unfold Reg.gateStat Reg.fcruPend; omega)
    (fun n hn => by unfold Reg.gateVlogAddr Reg.gateVlogInfo Reg.fcruPend; omega)]
  exact State.raiseFor_pends _ _ _

theorem State.rd_deny_gateCtl : (s.deny m c).rd (Reg.gateCtl (gateOf m.pa.toNat)) = s.rd (Reg.gateCtl (gateOf m.pa.toNat)) := by
  have hg := gateOf_lt m.pa.toNat
  rw [State.rd_deny_of_ne s m c (by unfold Reg.gateStat Reg.gateCtl; omega)
    (fun n hn => by unfold Reg.gateVlogAddr Reg.gateVlogInfo Reg.gateCtl; omega),
    State.rd_raiseFor_of_ne _ _ _ (by unfold Reg.gateCtl Reg.fcruPend; omega)]

theorem State.denyCount_records : s.Records (s.denyCount m) := (s.raiseFor_records _ _).wr _ _

theorem State.deny_records : s.Records (s.deny m c) := by
  rcases Nat.lt_or_ge (s.fget (Reg.gateStat (gateOf m.pa.toNat)) Reg.gateStat_LOG_COUNT) 8 with h | h
  · rw [State.deny_room s m c h]
    exact (((s.denyCount_records m).wr _ _).wr _ _).wr _ _
  · rw [State.deny_full s m c h]
    exact (s.denyCount_records m).wr _ _

theorem State.deny_detected : (s.deny m c).detected.map (fun d => (d.src, d.grp)) =
    s.detected.map (fun d => (d.src, d.grp)) ++ [(0x160 + gateOf m.pa.toNat, some m.rq.init.val)] := by
  have hc : (s.deny m c).detected = (s.denyCount m).detected := by
    rcases Nat.lt_or_ge (s.fget (Reg.gateStat (gateOf m.pa.toNat)) Reg.gateStat_LOG_COUNT) 8 with h | h
    · rw [State.deny_room s m c h, State.fset_detected, State.wr_detected, State.wr_detected]
    · rw [State.deny_full s m c h, State.fset_detected]
  rw [hc, State.denyCount, State.fsat, State.fset_detected]
  exact List.map_append

theorem State.fget_deny_DENIED : (s.deny m c).fget (Reg.gateStat (gateOf m.pa.toNat)) Reg.gateStat_DENIED =
    min (2 ^ 32 - 1) (s.fget (Reg.gateStat (gateOf m.pa.toNat)) Reg.gateStat_DENIED + 1) := by
  have hg := gateOf_lt m.pa.toNat
  have hc : (s.denyCount m).fget (Reg.gateStat (gateOf m.pa.toNat)) Reg.gateStat_DENIED =
      min (2 ^ 32 - 1) (s.fget (Reg.gateStat (gateOf m.pa.toNat)) Reg.gateStat_DENIED + 1) := by
    rw [State.denyCount, State.fget_fsat _ _ (by decide), State.fget, State.rd_raiseFor_of_ne _ _ _ (by unfold Reg.gateStat Reg.fcruPend; omega)]
    rfl
  rcases Nat.lt_or_ge (s.fget (Reg.gateStat (gateOf m.pa.toNat)) Reg.gateStat_LOG_COUNT) 8 with h | h
  · rw [State.deny_room s m c h]
    dsimp only
    rw [State.fget_fset_of_disjoint _ _ _ (by decide), State.fget_wr_of_ne _ _ _ (by unfold Reg.gateStat Reg.gateVlogInfo; omega),
      State.fget_wr_of_ne _ _ _ (by unfold Reg.gateStat Reg.gateVlogAddr; omega), hc]
  · rw [State.deny_full s m c h, State.fget_fset_of_disjoint _ _ _ (by decide), hc]

/-- A gate's check of its rule storage touches no register of its log. -/
theorem State.fget_gateFail_gateStat (g : Nat) (f : Fld) (hg : g < 27) : (s.gateFail g).fget (Reg.gateStat g) f = s.fget (Reg.gateStat g) f := by
  unfold State.gateFail
  split
  · rw [State.fget_raise_of_ne _ _ (by unfold Reg.gateStat Reg.fcruPend; omega), State.fget_fset_of_ne _ _ _ _ (by unfold Reg.gateStat Reg.gateCtl; omega)]
  · rfl

theorem State.gateFail_now40 (g : Nat) : (s.gateFail g).now40 = s.now40 := by
  unfold State.gateFail
  split <;> rfl

end

/-- Settles O24: the write is answered by its gate's denial, whose record has a lemma for each of its parts. -/
theorem deniedRegisterWrites : Obligations.DeniedRegisterWrites := by
  unfold Obligations.DeniedRegisterWrites
  intro i s rq off c hrow hc
  have hoff := regRow_off_lt hrow
  obtain ⟨v, he⟩ := exec_regRow hrow s
  have hpa : (regReq rq .write off).pa.toNat = paMmio + off := by
    unfold regReq
    rw [BitVec.toNat_ofNat, Nat.mod_eq_of_lt (by unfold paMmio; omega)]
  have hg : gateOf (paMmio + off) < 27 := gateOf_lt _
  rw [State.gatedWrite_denied hc] at he
  intro g n u
  have hu : s.gateFail (gateOf (regReq rq .write off).pa.toNat) = u := by
    rw [hpa]
    unfold State.gateFail
    simp only [List.contains_iff_mem]
    rfl
  have hstat (f : Fld) : u.fget (Reg.gateStat g) f = s.fget (Reg.gateStat g) f := by
    rw [← hu, hpa]
    exact State.fget_gateFail_gateStat s g f hg
  have hnow : u.now40 = s.now40 := hu ▸ State.gateFail_now40 s _
  have hgate : gateOf (regReq rq .write off).pa.toNat = g := by rw [hpa]
  rw [hu] at he
  refine ⟨_, he, State.deny_records u _ c, hgate ▸ State.deny_pends u _ c, hgate ▸ State.deny_detected u _ c, hgate ▸ State.rd_deny_gateCtl u _ c,
    ?_, fun hn => ?_, fun hn => ?_⟩
  · rw [← hstat, ← hgate]
    exact State.fget_deny_DENIED u _ c
  · have hlog : u.fget (Reg.gateStat g) Reg.gateStat_LOG_COUNT = n := hstat _
    rw [State.deny_room u _ c (by rw [hgate, hlog]; exact hn)]
    dsimp only
    rw [hgate, hlog, hnow]
    refine ⟨?_, ?_, ?_⟩
    · rw [State.fget_fset _ _ _ (by decide)]
      exact Nat.mod_eq_of_lt (by change n + 1 < 16; omega)
    · rw [State.rd_fset_of_ne _ _ _ (by unfold Reg.gateStat Reg.gateVlogAddr; omega),
        State.rd_wr_of_ne _ _ (by unfold Reg.gateVlogInfo Reg.gateVlogAddr; omega), State.rd_wr, if_pos rfl]
      unfold regReq
      rw [BitVec.toNat_setWidth, BitVec.toNat_ofNat]
      omega
    · rw [State.rd_fset_of_ne _ _ _ (by unfold Reg.gateStat Reg.gateVlogInfo; omega), State.rd_wr, if_pos rfl]
      rfl
  · have hlog : u.fget (Reg.gateStat g) Reg.gateStat_LOG_COUNT = n := hstat _
    rw [State.deny_full u _ c (by rw [hgate, hlog]; exact hn), hgate]
    refine ⟨?_, ?_⟩
    · rw [State.fget_fset_of_disjoint _ _ _ (by decide), ← hgate, State.fget_denyCount_LOG_COUNT, hgate, hlog]
    · rw [State.fget_fset _ _ _ (by decide)]
      rfl

end Sys2Proof.Machine
end

section
/-!
PROOFS. The GATE block's registers (Obligations.GateRegisterRows).
-/

namespace Sys2Proof.Machine

/-! ### The writes of the GATE block -/

/-- A double write that its gate lets reach the registers of gate `g`, at the offset `o` in them. -/
theorem State.gatedWrite_gate {s : State} {rq : Rq} {g o : Nat} (hg : g < 27) (ho : o < 0x800) (h : s.grants rq (0x60000 + 0x800 * g + o)) (v : Word) :
    s.gatedWrite rq (0x60000 + 0x800 * g + o) v =
      (s.gateWrite (0x60000 + 0x800 * g + o) (BitVec.allOnes 64) v).getD (s.plainWrite (0x60000 + 0x800 * g + o) (BitVec.allOnes 64) v) := by
  have hblock : (0x60000 + 0x800 * g + o) / 0x10000 = 6 := by omega
  rw [State.gatedWrite_granted h, State.regWrite]
  simp [hblock]

/-- The gate and the register that an offset in the GATE block names. -/
theorem gateOffset {g o : Nat} (ho : o < 0x800) :
    (0x60000 + 0x800 * g + o - 0x60000) / 0x800 = g ∧ (0x60000 + 0x800 * g + o - 0x60000) % 0x800 = o := by
  omega

/-- The rule and its register that an offset in a gate's registers names. -/
theorem ruleOffset {k j : Nat} (hk : k < 32) (hj : j < 4) :
    0x100 ≤ 0x100 + 0x20 * k + 8 * j ∧ 0x100 + 0x20 * k + 8 * j < 0x500 ∧ (0x100 + 0x20 * k + 8 * j) % 8 = 0 ∧
      (0x100 + 0x20 * k + 8 * j - 0x100) / 0x20 = k ∧ (0x100 + 0x20 * k + 8 * j - 0x100) % 0x20 / 8 = j := by
  omega

/-- The number of a shadowed register in its rule; CTL is number 3. -/
def ruleRegNum : RuleReg → Nat
  | .base => 0
  | .limit => 1
  | .mask => 2

theorem ruleRegOff_eq (which : RuleReg) (g k : Nat) : ruleRegOff which g k = 0x60000 + 0x800 * g + (0x100 + 0x20 * k + 8 * ruleRegNum which) := by
  cases which <;> simp only [ruleRegOff, ruleRegNum, Reg.gateRuleBase, Reg.gateRuleLimit, Reg.gateRuleMask] <;> omega

theorem gateRuleCtl_eq (g k : Nat) : Reg.gateRuleCtl g k = 0x60000 + 0x800 * g + (0x100 + 0x20 * k + 8 * 3) := by
  unfold Reg.gateRuleCtl
  omega

section
variable {s : State} {rq : Rq} {g : Nat} (hg : g < 27)
include hg

theorem State.gatedWrite_shadow {k : Nat} (hk : k < 32) {which : RuleReg} (h : s.grants rq (ruleRegOff which g k)) (v : Word) :
    s.gatedWrite rq (ruleRegOff which g k) v = s.shadowWrite g k which (BitVec.allOnes 64) v := by
  have hn : ruleRegNum which < 4 := by cases which <;> decide
  obtain ⟨hgate, hoff⟩ := gateOffset (g := g) (o := 0x100 + 0x20 * k + 8 * ruleRegNum which) (by omega)
  obtain ⟨hlo, hhi, halign, hrule, hreg⟩ := ruleOffset hk hn
  rw [ruleRegOff_eq] at h ⊢
  rw [State.gatedWrite_gate hg (by omega) h]
  unfold State.gateWrite
  rw [hgate, hoff]
  dsimp only
  rw [if_neg (by omega), if_neg (by omega), if_neg (by omega), if_pos ⟨hlo, hhi, halign⟩, hrule, hreg]
  cases which <;> rfl

theorem State.gatedWrite_ruleCtl {k : Nat} (hk : k < 32) (h : s.grants rq (Reg.gateRuleCtl g k)) (v : Word) :
    s.gatedWrite rq (Reg.gateRuleCtl g k) v = s.ruleCtlWrite g k (BitVec.allOnes 64) v := by
  obtain ⟨hgate, hoff⟩ := gateOffset (g := g) (o := 0x100 + 0x20 * k + 8 * 3) (by omega)
  obtain ⟨hlo, hhi, halign, hrule, hreg⟩ := ruleOffset hk (j := 3) (by decide)
  rw [gateRuleCtl_eq] at h ⊢
  rw [State.gatedWrite_gate hg (by omega) h]
  unfold State.gateWrite
  rw [hgate, hoff]
  dsimp only
  rw [if_neg (by omega), if_neg (by omega), if_neg (by omega), if_pos ⟨hlo, hhi, halign⟩, hrule, hreg]
  rfl

theorem State.gatedWrite_gateCtl (h : s.grants rq (Reg.gateCtl g)) : s.gatedWrite rq (Reg.gateCtl g) 1 = s.lockAll g := by
  obtain ⟨hgate, hoff⟩ := gateOffset (g := g) (o := 0) (by decide)
  refine (State.gatedWrite_gate hg (o := 0) (by decide) h 1).trans ?_
  unfold State.gateWrite
  rw [hgate, hoff]
  dsimp only
  rw [if_neg (by omega)]
  rfl

theorem State.gatedWrite_gateLogClr (h : s.grants rq (Reg.gateLogClr g)) : s.gatedWrite rq (Reg.gateLogClr g) 1 = s.gateLogClear g := by
  have hr : Reg.gateLogClr g = 0x60000 + 0x800 * g + 0x18 := by unfold Reg.gateLogClr; omega
  obtain ⟨hgate, hoff⟩ := gateOffset (g := g) (o := 0x18) (by decide)
  rw [hr] at h ⊢
  rw [State.gatedWrite_gate hg (by decide) h]
  unfold State.gateWrite
  rw [hgate, hoff]
  dsimp only
  rw [if_neg (by omega)]
  rfl

end

/-! ### Rules (R176) -/

/-- A whole write of a shadowed register. -/
theorem State.shadowWrite_whole (s : State) (g k : Nat) (which : RuleReg) (v : Word) : s.shadowWrite g k which (BitVec.allOnes 64) v =
    if bit (s.rd (Reg.gateRuleCtl g k)) 4 then s
    else { s with shadow := SMap.put 0 s.shadow (ruleRegOff which g k) (v &&& ruleRegMask which) } := by
  have hnot : ~~~BitVec.allOnes 64 = 0#64 := by decide
  unfold State.shadowWrite
  dsimp only
  rw [hnot, BitVec.and_allOnes, BitVec.and_zero, BitVec.zero_or]

/-- From `s` to `t` nothing has changed but registers. -/
def State.Writes (s t : State) : Prop := t = { s with regs := t.regs }

theorem State.Writes.refl (s : State) : s.Writes s := rfl

theorem State.Writes.wr {s t : State} (h : s.Writes t) (r : Nat) (v : Word) : s.Writes (t.wr r v) := by
  unfold State.Writes at *
  rw [h]
  rfl

/-- One field after another. -/
theorem State.Writes.foldl {α : Type} (f : α → Nat) (fld : Fld) (v : Nat) (l : List α) {s t : State} (h : s.Writes t) :
    s.Writes (l.foldl (fun s x => s.fset (f x) fld v) t) := by
  induction l generalizing t with
  | nil => exact h
  | cons x l ih => exact ih (h.wr _ _)

theorem State.rd_foldl_fset_of_ne {α : Type} (f : α → Nat) (fld : Fld) (v : Nat) {l : List α} {r : Nat} (h : ∀ x ∈ l, r ≠ f x) (s : State) :
    (l.foldl (fun s x => s.fset (f x) fld v) s).rd r = s.rd r := by
  induction l generalizing s with
  | nil => rfl
  | cons x l ih =>
    obtain ⟨hx, hl⟩ := List.forall_mem_cons.mp h
    rw [List.foldl_cons, ih hl, State.rd_fset_of_ne _ _ _ hx]

/-- Each of the registers `f 0` to `f (n - 1)`, all different, has its field written once. -/
theorem State.rd_foldl_fset {f : Nat → Nat} (hf : ∀ i j, f i = f j → i = j) (fld : Fld) (v : Nat) {n i : Nat} (hi : i < n) (s : State) :
    ((List.range n).foldl (fun s x => s.fset (f x) fld v) s).rd (f i) = setBits (s.rd (f i)) fld.lo fld.len v := by
  induction n with
  | zero => omega
  | succ n ih =>
    rw [List.range_succ, List.foldl_append, List.foldl_cons, List.foldl_nil, State.rd_fset]
    by_cases h : i = n
    · subst h
      rw [if_pos rfl, State.rd_foldl_fset_of_ne]
      exact fun x hx h => absurd (hf _ _ h) (by have := List.mem_range.mp hx; omega)
    · rw [if_neg fun he => h (hf _ _ he), ih (by omega)]

section
variable {s : State} {g k : Nat} (v : Word)

/-- A write of CTL, the rule locked. -/
theorem State.ruleCtlWrite_locked (h : bit (s.rd (Reg.gateRuleCtl g k)) 4 = true) : s.ruleCtlWrite g k (BitVec.allOnes 64) v = s :=
  if_pos (by rw [h, Bool.true_or])

/-- The rule with its shadow copy and CTL put in force, before the locked rules are counted. -/
def State.ruleApplied (s : State) (g k : Nat) (v : Word) : State :=
  (((s.wr (Reg.gateRuleBase g k) (SMap.get 0 s.shadow (Reg.gateRuleBase g k))).wr (Reg.gateRuleLimit g k)
    (SMap.get 0 s.shadow (Reg.gateRuleLimit g k))).wr (Reg.gateRuleMask g k) (SMap.get 0 s.shadow (Reg.gateRuleMask g k))).wr (Reg.gateRuleCtl g k)
      ((s.rd (Reg.gateRuleCtl g k) &&& ~~~0x1F) ||| (v &&& 0x1F))

theorem State.ruleCtlWrite_unlocked (h : ¬ bit (s.rd (Reg.gateRuleCtl g k)) 4 = true) :
    s.ruleCtlWrite g k (BitVec.allOnes 64) v = (s.ruleApplied g k v).recountLocked g := by
  have hb : bit (BitVec.allOnes 64) 0 = true := by decide
  have hm : (BitVec.allOnes 64 : Word) &&& 0x1F = 0x1F := by decide
  unfold State.ruleCtlWrite
  dsimp only
  rw [if_neg (by rw [hb]; simpa using h), BitVec.and_allOnes, hm]
  rfl

/-- Counting the locked rules writes GATE_CTL alone. -/
theorem State.rd_recountLocked_of_ne {r : Nat} (h : r ≠ Reg.gateCtl g) : (s.recountLocked g).rd r = s.rd r := State.rd_fset_of_ne _ _ _ h

end

/-- A rule is what its four registers hold. -/
theorem State.rule_congr {s t : State} {g k : Nat} (hb : t.rd (Reg.gateRuleBase g k) = s.rd (Reg.gateRuleBase g k))
    (hl : t.rd (Reg.gateRuleLimit g k) = s.rd (Reg.gateRuleLimit g k)) (hm : t.rd (Reg.gateRuleMask g k) = s.rd (Reg.gateRuleMask g k))
    (hc : t.rd (Reg.gateRuleCtl g k) = s.rd (Reg.gateRuleCtl g k)) : t.rule g k = s.rule g k := by
  simp only [State.rule, State.fget, hb, hl, hm, hc]

section
variable {s : State} {g k : Nat} (v : Word)

/-- A rule's registers once its shadow copy is in force. -/
theorem State.rd_ruleApplied (r : Nat) : (s.ruleApplied g k v).rd r =
    if r = Reg.gateRuleCtl g k then (s.rd (Reg.gateRuleCtl g k) &&& ~~~0x1F) ||| (v &&& 0x1F)
    else if r = Reg.gateRuleBase g k ∨ r = Reg.gateRuleLimit g k ∨ r = Reg.gateRuleMask g k then SMap.get 0 s.shadow r else s.rd r := by
  unfold State.ruleApplied
  simp only [State.rd_wr]
  grind

end

section
variable {s : State} {g k : Nat} (v : Word) (h : ¬ bit (s.rd (Reg.gateRuleCtl g k)) 4 = true)
include h

/-- A write of CTL, the rule not locked: the shadow copy and CTL are in force, and no other rule has changed. -/
theorem State.ruleCtlWrite_shadowed {r : Nat} (hr : r ∈ [Reg.gateRuleBase g k, Reg.gateRuleLimit g k, Reg.gateRuleMask g k]) :
    (s.ruleCtlWrite g k (BitVec.allOnes 64) v).rd r = SMap.get 0 s.shadow r := by
  simp only [List.mem_cons, List.not_mem_nil, or_false] at hr
  have hne : r ≠ Reg.gateCtl g ∧ r ≠ Reg.gateRuleCtl g k := by
    simp only [Reg.gateRuleBase, Reg.gateRuleLimit, Reg.gateRuleMask] at hr
    unfold Reg.gateCtl Reg.gateRuleCtl
    omega
  rw [State.ruleCtlWrite_unlocked v h, State.rd_recountLocked_of_ne hne.1, State.rd_ruleApplied, if_neg hne.2, if_pos hr]

theorem State.ruleCtlWrite_ctl : (s.ruleCtlWrite g k (BitVec.allOnes 64) v).rd (Reg.gateRuleCtl g k) =
    (s.rd (Reg.gateRuleCtl g k) &&& ~~~0x1F) ||| (v &&& 0x1F) := by
  rw [State.ruleCtlWrite_unlocked v h, State.rd_recountLocked_of_ne (by unfold Reg.gateRuleCtl Reg.gateCtl; omega), State.rd_ruleApplied, if_pos rfl]

theorem State.ruleCtlWrite_other {j : Nat} (hj : j < 32) (hne : j ≠ k) :
    (s.ruleCtlWrite g k (BitVec.allOnes 64) v).rule g j = s.rule g j := by
  rw [State.ruleCtlWrite_unlocked v h]
  have hrd (r : Nat) (h0 : r ≠ Reg.gateCtl g) (h1 : r ≠ Reg.gateRuleCtl g k)
      (h2 : ¬ (r = Reg.gateRuleBase g k ∨ r = Reg.gateRuleLimit g k ∨ r = Reg.gateRuleMask g k)) :
      ((s.ruleApplied g k v).recountLocked g).rd r = s.rd r := by
    rw [State.rd_recountLocked_of_ne h0, State.rd_ruleApplied, if_neg h1, if_neg h2]
  apply State.rule_congr <;> apply hrd <;>
    simp only [Reg.gateCtl, Reg.gateRuleBase, Reg.gateRuleLimit, Reg.gateRuleMask, Reg.gateRuleCtl] <;> omega

theorem State.ruleCtlWrite_writes : s.Writes (s.ruleCtlWrite g k (BitVec.allOnes 64) v) := by
  rw [State.ruleCtlWrite_unlocked v h]
  exact (((((State.Writes.refl s).wr _ _).wr _ _).wr _ _).wr _ _).wr _ _

end

/-! ### LOCK_ALL and CLEAR (R176, R177) -/

theorem setBits_one (w : Word) {n : Nat} (hn : n < 64) : setBits w n 1 1 = w ||| BitVec.twoPow 64 n := by
  refine BitVec.eq_of_getLsbD_eq fun i hi => ?_
  rw [getLsbD_setBits w n 1 1 hi, BitVec.getLsbD_or, BitVec.getLsbD_twoPow]
  by_cases h : i = n
  · subst h
    simp [hn]
  · rw [if_neg (by omega)]
    simp [Ne.symm h]

/-- The state in which LOCK is set in the 32 rules of a gate. -/
def State.rulesLocked (s : State) (g : Nat) : State :=
  (List.range 32).foldl (fun s k => s.fset (Reg.gateRuleCtl g k) Reg.gateRuleCtl_LOCK 1) s

theorem State.lockAll_eq (s : State) (g : Nat) :
    s.lockAll g = ((s.rulesLocked g).fset (Reg.gateCtl g) Reg.gateCtl_LOCK_ALL 1).recountLocked g := rfl

theorem State.rd_rulesLocked (s : State) (g : Nat) {j : Nat} (hj : j < 32) :
    (s.rulesLocked g).rd (Reg.gateRuleCtl g j) = s.rd (Reg.gateRuleCtl g j) ||| 0x10 := by
  unfold State.rulesLocked
  rw [State.rd_foldl_fset (fun i j h => by unfold Reg.gateRuleCtl at h; omega) _ _ hj]
  exact setBits_one _ (by decide)

theorem State.lockAll_ctl (s : State) (g : Nat) {j : Nat} (hj : j < 32) :
    (s.lockAll g).rd (Reg.gateRuleCtl g j) = s.rd (Reg.gateRuleCtl g j) ||| 0x10 := by
  have hne : Reg.gateRuleCtl g j ≠ Reg.gateCtl g := by unfold Reg.gateRuleCtl Reg.gateCtl; omega
  rw [State.lockAll_eq, State.rd_recountLocked_of_ne hne, State.rd_fset_of_ne _ _ _ hne, State.rd_rulesLocked s g hj]

/-- All 32 rules count as locked. -/
theorem State.lockAll_LOCKED (s : State) (g : Nat) : (s.lockAll g).fget (Reg.gateCtl g) Reg.gateCtl_LOCKED = 32 := by
  have hall : ∀ k ∈ List.range 32, bit (((s.rulesLocked g).fset (Reg.gateCtl g) Reg.gateCtl_LOCK_ALL 1).rd (Reg.gateRuleCtl g k)) 4 = true := by
    intro k hk
    have hlock : bit (0x10 : Word) 4 = true := by decide
    rw [State.rd_fset_of_ne _ _ _ (by unfold Reg.gateRuleCtl Reg.gateCtl; omega), State.rd_rulesLocked s g (List.mem_range.mp hk), bit,
      BitVec.getLsbD_or]
    unfold bit at hlock
    rw [hlock, Bool.or_true]
  rw [State.lockAll_eq, State.recountLocked, State.fget_fset _ _ _ (by decide), List.filter_eq_self.mpr hall]
  rfl

theorem State.lockAll_LOCK_ALL (s : State) (g : Nat) : (s.lockAll g).fget (Reg.gateCtl g) Reg.gateCtl_LOCK_ALL = 1 := by
  rw [State.lockAll_eq, State.recountLocked, State.fget_fset_of_disjoint _ _ _ (by decide), State.fget_fset _ _ _ (by decide)]
  rfl

theorem State.lockAll_writes (s : State) (g : Nat) : s.Writes (s.lockAll g) :=
  ((State.Writes.foldl (Reg.gateRuleCtl g) _ _ _ (State.Writes.refl s)).wr _ _).wr _ _

/-- The state in which the violation log of a gate holds no valid entry. -/
def State.vlogCleared (s : State) (g : Nat) : State :=
  (List.range 8).foldl (fun s n => s.fset (Reg.gateVlogInfo g n) Reg.gateVlogInfo_VALID 0) s

theorem State.gateLogClear_eq (s : State) (g : Nat) : s.gateLogClear g =
    ((s.vlogCleared g).fset (Reg.gateStat g) Reg.gateStat_LOG_COUNT 0).fset (Reg.gateStat g) Reg.gateStat_LOG_OVF 0 := rfl

section
variable (s : State) (g : Nat)

theorem State.gateLogClear_LOG_COUNT : (s.gateLogClear g).fget (Reg.gateStat g) Reg.gateStat_LOG_COUNT = 0 := by
  rw [State.gateLogClear_eq, State.fget_fset_of_disjoint _ _ _ (by decide), State.fget_fset _ _ _ (by decide), Nat.zero_mod]

theorem State.gateLogClear_LOG_OVF : (s.gateLogClear g).fget (Reg.gateStat g) Reg.gateStat_LOG_OVF = 0 := by
  rw [State.gateLogClear_eq, State.fget_fset _ _ _ (by decide), Nat.zero_mod]

theorem State.gateLogClear_DENIED : (s.gateLogClear g).fget (Reg.gateStat g) Reg.gateStat_DENIED = s.fget (Reg.gateStat g) Reg.gateStat_DENIED := by
  rw [State.gateLogClear_eq, State.fget_fset_of_disjoint _ _ _ (by decide), State.fget_fset_of_disjoint _ _ _ (by decide), State.fget,
    State.vlogCleared, State.rd_foldl_fset_of_ne _ _ _ (fun n _ => by unfold Reg.gateStat Reg.gateVlogInfo; omega), State.fget]

theorem State.gateLogClear_VALID {j : Nat} (hj : j < 8) : (s.gateLogClear g).fget (Reg.gateVlogInfo g j) Reg.gateVlogInfo_VALID = 0 := by
  have hne : Reg.gateVlogInfo g j ≠ Reg.gateStat g := by unfold Reg.gateStat Reg.gateVlogInfo; omega
  rw [State.gateLogClear_eq, State.fget_fset_of_ne _ _ _ _ hne, State.fget_fset_of_ne _ _ _ _ hne, State.fget, State.vlogCleared,
    State.rd_foldl_fset (fun i j h => by unfold Reg.gateVlogInfo at h; omega) _ _ hj, bits_setBits_mod _ _ (by decide), Nat.zero_mod]

theorem State.gateLogClear_writes : s.Writes (s.gateLogClear g) :=
  ((State.Writes.foldl (Reg.gateVlogInfo g) _ _ _ (State.Writes.refl s)).wr _ _).wr _ _

end

/-! ### Drains (R179) -/

/-- A drain that the gate lets pass is noted. -/
theorem exec_gateDrain_granted {s : State} {rq : Rq} {gt : Fin 27} (h : s.grantsRead rq (Reg.gateDrain gt.val)) :
    exec (.gateDrain rq gt) s = .next (s.drainStart rq gt.val) := by
  have hpass : s.gateDenies (drainReq rq gt.val) = none := by
    rw [State.gateDenies, Option.map_eq_none_iff]
    exact h
  change execGateDrain rq gt s = _
  rw [execGateDrain, hpass]

section
variable {s : State} {rq : Rq} {gt : Fin 27} {d : Drain} {r : List Drain} (hd : s.mesh.drains = d :: r) (hrq : d.rq = rq) (hg : d.gate = gt.val)
include hd hrq hg

/-- The oldest drain waits for a request, or answers. -/
theorem exec_gateDrainComplete : exec (.gateDrainComplete rq gt) s =
    if s.mesh.flights.any fun f => d.wait.contains f.num then .next s
    else .next ((({ s with mesh := { s.mesh with drains := r } } : State).fset (Reg.gateDrain gt.val) Reg.gateDrain_WAITED
      (min (2 ^ 32 - 1) d.wait.length)).answer rq.init.val { status := .ok, data := min (2 ^ 32 - 1) d.wait.length }) := by
  have hfind : s.mesh.drains.find? (fun d => decide (d.rq = rq) && decide (d.gate = gt.val)) = some d := by
    rw [hd, List.find?_cons_of_pos (by simp [hrq, hg])]
  have hdrop : dropDrain rq gt.val s.mesh.drains = r := by
    rw [hd]
    exact if_pos ⟨hrq, hg⟩
  change execGateDrainComplete rq gt s = _
  rw [execGateDrainComplete, hfind]
  dsimp only
  rw [hdrop]

theorem gateDrainComplete_waits (hw : ∃ f ∈ s.mesh.flights, f.num ∈ d.wait) : exec (.gateDrainComplete rq gt) s = .next s := by
  rw [exec_gateDrainComplete hd hrq hg, if_pos]
  simpa using hw

theorem gateDrainComplete_answers (hw : ∀ f ∈ s.mesh.flights, f.num ∉ d.wait) (hn : d.wait.length < 2 ^ 32) :
    ∃ t, exec (.gateDrainComplete rq gt) s = .next t ∧ t.mesh.drains = r ∧
      t.fget (Reg.gateDrain gt.val) Reg.gateDrain_WAITED = d.wait.length ∧
      SMap.get { status := .ok, data := 0 } t.mesh.last rq.init.val = { status := .ok, data := d.wait.length } := by
  have hnone : ¬ (s.mesh.flights.any fun f => d.wait.contains f.num) = true := by simpa using hw
  have hmin : min (2 ^ 32 - 1) d.wait.length = d.wait.length := by omega
  rw [exec_gateDrainComplete hd hrq hg, if_neg hnone, hmin]
  exact ⟨_, rfl, rfl, (State.fget_fset _ _ _ (by decide)).trans (Nat.mod_eq_of_lt hn), SMap.get_put.trans (if_pos rfl)⟩

end

/-- Settles O27: each write reaches its register's own behaviour in the GATE block, and a drain answers when nothing that it noted is left. -/
theorem gateRegisterRows : Obligations.GateRegisterRows := by
  unfold Obligations.GateRegisterRows
  intro s rq gt k which v
  dsimp only
  have hg : gt.val < 27 := gt.isLt
  have hk : k.toNat < 32 := k.isLt
  refine ⟨?_, fun hgr hl => ?_, fun hgr hl => ⟨_, congrArg Host.Outcome.next (State.gatedWrite_ruleCtl hg hk hgr v), ?_⟩,
    fun hgr => ⟨_, congrArg Host.Outcome.next (State.gatedWrite_gateCtl hg hgr), ?_⟩,
    fun hgr => ⟨_, congrArg Host.Outcome.next (State.gatedWrite_gateLogClr hg hgr), ?_⟩, exec_gateDrain_granted,
    fun d r hd hrq hgt => ⟨gateDrainComplete_waits hd hrq hgt, gateDrainComplete_answers hd hrq hgt⟩⟩
  · refine State.rows_cons rfl (fun h => congrArg Host.Outcome.next ?_) (by simp [State.rows])
    rw [State.gatedWrite_shadow hg hk h, State.shadowWrite_whole]
    cases which <;> rfl
  · exact congrArg Host.Outcome.next ((State.gatedWrite_ruleCtl hg hk hgr v).trans (State.ruleCtlWrite_locked v hl))
  · exact ⟨State.ruleCtlWrite_writes v hl, fun o ho => State.ruleCtlWrite_shadowed v hl ho, State.ruleCtlWrite_ctl v hl,
      fun j hj hne => State.ruleCtlWrite_other v hl hj hne⟩
  · exact ⟨s.lockAll_writes _, fun j hj => s.lockAll_ctl _ hj, s.lockAll_LOCK_ALL _, s.lockAll_LOCKED _⟩
  · exact ⟨s.gateLogClear_writes _, s.gateLogClear_LOG_COUNT _, s.gateLogClear_LOG_OVF _, s.gateLogClear_DENIED _,
      fun j hj => s.gateLogClear_VALID _ hj⟩

end Sys2Proof.Machine
end

section
/-!
PROOFS. The XLT block's registers and the walks of the Fuller contexts (Obligations.TranslationRowsAndWalks).
-/

namespace Sys2Proof.Machine

/-! ### The writes of the XLT block (R170) -/

/-- The XLT block's registers have no behaviour of their own. -/
theorem State.gatedWrite_xlt {s : State} {rq : Rq} {off : Nat} (h : s.grants rq off) (ho : off / 0x10000 = 5) (v : Word) :
    s.gatedWrite rq off v = s.plainWrite off (BitVec.allOnes 64) v := by
  rw [State.gatedWrite_granted h, State.regWrite]
  simp [ho]

theorem State.regLocked_xltRoot (s : State) (c : Fin 8) : s.regLocked (Reg.xltRoot c.val) = bit (s.rd (Reg.xltRoot c.val)) 63 := by
  have hf : famIx (Reg.xltRoot c.val) (Reg.xltRoot 0) 0x40 8 = some c.val := by
    revert c
    decide
  rw [State.regLocked, hf]

/-- The root's PPN is open to writes until LOCK is set, and LOCK is set by writing 1. -/
theorem State.plainWrite_xltRoot (s : State) (c : Fin 8) (v : Word) :
    let old := s.rd (Reg.xltRoot c.val)
    let m : Word := if bit old 63 then 0 else 0xFFFFFFFF000
    s.plainWrite (Reg.xltRoot c.val) (BitVec.allOnes 64) v =
      s.wr (Reg.xltRoot c.val) ((old &&& ~~~m) ||| (v &&& m) ||| (v &&& BitVec.twoPow 64 63)) := by
  have hd : regAt (Reg.xltRoot c.val) = some ⟨0x50000, (1, 0x10000000), (1, 0x10000000), (8, 64), 0, 0, 0x8000000000000000, 0xffffffff000, 0⟩ := by
    revert c
    decide +kernel
  have hlock : BitVec.ofNat 64 0x8000000000000000 = BitVec.twoPow 64 63 := by decide
  have hzero : (0 : Word) = 0#64 := rfl
  dsimp only
  rw [State.plainWrite, hd]
  simp only [regNext, State.regLocked_xltRoot, hlock, hzero, BitVec.and_allOnes, BitVec.zero_or, BitVec.and_zero, BitVec.not_zero]
  rfl

theorem State.plainWrite_xltAsid (s : State) (c : Fin 8) (v : Word) : s.plainWrite (Reg.xltAsid c.val) (BitVec.allOnes 64) v =
    s.wr (Reg.xltAsid c.val) ((s.rd (Reg.xltAsid c.val) &&& ~~~0xFFFF) ||| (v &&& 0xFFFF)) := by
  have hd : regAt (Reg.xltAsid c.val) = some ⟨0x50008, (1, 0x10000000), (1, 0x10000000), (8, 64), 0xffff, 0, 0, 0, 0⟩ := by
    revert c
    decide +kernel
  have hmask : BitVec.ofNat 64 0xffff = (0xFFFF : Word) := rfl
  have hzero : (0 : Word) = 0#64 := rfl
  rw [State.plainWrite, hd]
  simp only [regNext, hmask, hzero, ite_self, BitVec.and_allOnes, BitVec.or_zero, BitVec.and_zero, BitVec.not_zero]

/-- Writing the root back with LOCK changes nothing else. -/
theorem rootLocked (old m : Word) (hm : m = 0 ∨ m = 0xFFFFFFFF000) :
    (old &&& ~~~m) ||| ((old ||| BitVec.twoPow 64 63) &&& m) ||| ((old ||| BitVec.twoPow 64 63) &&& BitVec.twoPow 64 63) = old ||| BitVec.twoPow 64 63 := by
  refine BitVec.eq_of_getLsbD_eq fun i hi => ?_
  have hmi : i = 63 → m.getLsbD i = false := by
    rintro rfl
    rcases hm with rfl | rfl <;> decide
  simp only [BitVec.getLsbD_or, BitVec.getLsbD_and, BitVec.getLsbD_not, BitVec.getLsbD_twoPow, hi]
  by_cases h : i = 63
  · subst h
    simp
  · have h' : ¬ 63 = i := Ne.symm h
    cases old.getLsbD i <;> cases m.getLsbD i <;> simp [h']

/-! ### Walks (R165 to R167) -/

/-- The initiator of a context's walk. -/
theorem walkReq_init {c : Nat} (hc : c < 8) (op : MeshOp) (pa data cmp : Nat) : (walkReq c op pa data cmp).rq.init.val = 16 + c :=
  Nat.mod_eq_of_lt (by omega)

/-- An access for whose initiator no timeout has fired is served. -/
theorem State.serveAt_served {s : State} {m : MeshReq} {init : Nat} (hm : m.rq.init.val = init) (h : ∀ x ∈ s.mesh.late, x.1 ≠ init) (a : Word) :
    s.serveAt m a = s.serve m := by
  unfold State.serveAt
  dsimp only
  rw [if_neg]
  intro hc
  exact h _ (List.contains_iff_mem.mp hc) hm

/-- The address of the entry for `va` of a table read at a level. -/
def entryPa (table va level : Nat) : Nat := table + 8 * (va / 2 ^ (39 - 9 * level) % 512)

/-- The read of a table's entry for `va`. -/
def State.entryRead (s : State) (c table va level : Nat) : Resp × State := s.serve (walkReq c .walkRead (entryPa table va level) 0 0)

section
variable {s : State} {c va n level table : Nat} (hc : c < 8) (hw : walkMemory (entryPa table va level) = true) (hl : ∀ x ∈ s.mesh.late, x.1 ≠ 16 + c)
  (hs : (s.entryRead c table va level).1.status = .ok)
include hc hw hl hs

/-- One level of a descent whose read is answered. -/
theorem State.descend_read :
    let pte : Word := BitVec.ofNat 64 (s.entryRead c table va level).1.data
    let u := (s.entryRead c table va level).2
    s.descend c va (n + 1) level table =
      if !pteV pte then (.error 0x10, u)
      else if pteMalformed pte level then (.error 0x11, u)
      else if pteLeaf pte then (.ok (entryPa table va level, pte, level), u)
      else (u.setXlt c ((u.xltOf c).wcEnter (u.fget (Reg.xltAsid c) Reg.xltAsid_ASID) level va (ptePPN pte))).descend c va n (level + 1)
        (ptePPN pte * 2 ^ 12) := by
  dsimp only
  rw [State.descend]
  unfold State.entryRead entryPa at *
  dsimp only
  rw [if_neg (by simp [hw]), State.serveAt_served (walkReq_init hc _ _ _ _) hl, if_neg (by simp [hs])]

/-- An entry that is invalid or malformed ends it. -/
theorem State.descend_bad (hb : pteV (BitVec.ofNat 64 (s.entryRead c table va level).1.data) = false ∨
    pteMalformed (BitVec.ofNat 64 (s.entryRead c table va level).1.data) level = true) :
    ∃ f, s.descend c va (n + 1) level table = (.error f, (s.entryRead c table va level).2) := by
  rw [State.descend_read hc hw hl hs]
  split
  next => exact ⟨_, rfl⟩
  next hv =>
    rw [if_pos (hb.resolve_left (by simpa using hv))]
    exact ⟨_, rfl⟩

end

/-- With nothing in the walk cache there is nothing to hit. -/
theorem Xlt.wcHit_empty {x : Xlt} (h : x.wc = []) (asid va : Nat) : x.wcHit asid va = none := by
  unfold Xlt.wcHit
  rw [h]
  rfl

/-- Where the root table of a context lies. -/
def State.rootTable (s : State) (c : Nat) : Nat := s.fget (Reg.xltRoot c) Reg.xltRoot_PPN * 2 ^ 12

/-- A leaf's entry with A set, and D for a write. -/
def pteUsed (pte : Word) (write : Bool) : Word := pte ||| (if write then 0xC0 else 0x40)

theorem pteUsed_eq (pte : Word) (write : Bool) : pte ||| BitVec.ofNat 64 (0x40 + 0x80 * b2n write) = pteUsed pte write := by
  cases write <;> rfl

section
variable {s u : State} {c va n table : Nat} {write : Bool} (hwc : (s.xltOf c).wc = []) (ht : s.rootTable c = table)
include hwc ht

/-- An attempt from an empty walk cache descends from the root, and faults where its descent does. -/
theorem State.walkTry_faults {f : Nat} (hd : s.descend c va 4 0 table = (.error f, u)) :
    s.walkTry c va write (n + 1) true = (.error f, u) := by
  unfold State.rootTable at ht
  rw [State.walkTry]
  simp only [if_true, Xlt.wcHit_empty hwc, Option.getD_none, ht, hd]

section
variable {pa lvl : Nat} {pte : Word} (hd : s.descend c va 4 0 table = (.ok (pa, pte, lvl), u)) (hf : u.leafFault c pte write = none)
  (hmt : pteMT pte < 4)
include hd hf hmt

/-- A leaf that lets the access pass, A and D set as it needs them. -/
theorem State.walkTry_finds (hset : pteUsed pte write = pte) : s.walkTry c va write (n + 1) true = (.ok (pte, 3 - lvl), u) := by
  unfold State.rootTable at ht
  rw [State.walkTry]
  simp only [if_true, Xlt.wcHit_empty hwc, Option.getD_none, ht, hd, hf, if_neg (Nat.not_le.mpr hmt), pteUsed_eq, hset]

/-- A leaf whose A or D is clear, and which the compare-and-swap finds unchanged. -/
theorem State.walkTry_swaps (hc : c < 8) (hclear : pteUsed pte write ≠ pte) (hl : ∀ x ∈ u.mesh.late, x.1 ≠ 16 + c)
    (hs : (u.serve (walkReq c .walkCas pa (pteUsed pte write).toNat pte.toNat)).1.status = .ok)
    (hsame : (u.serve (walkReq c .walkCas pa (pteUsed pte write).toNat pte.toNat)).1.data = pte.toNat) :
    s.walkTry c va write (n + 1) true = (.ok (pteUsed pte write, 3 - lvl), (u.serve (walkReq c .walkCas pa (pteUsed pte write).toNat pte.toNat)).2) := by
  unfold State.rootTable at ht
  rw [State.walkTry]
  simp only [if_true, Xlt.wcHit_empty hwc, Option.getD_none, ht, hd, hf, if_neg (Nat.not_le.mpr hmt), pteUsed_eq, if_neg hclear,
    State.serveAt_served (walkReq_init hc _ _ _ _) hl, hs, hsame, ne_eq, not_true_eq_false, if_false]

end

end

/-- A walk counts its start, its end and its fault. -/
theorem State.walk_error {s u : State} {c va f : Nat} {write : Bool}
    (ht : (s.fsat (Reg.xltStat c) Reg.xltStat_WALKS 1).walkTry c va write 3 true = (.error f, u)) :
    s.walk c va write = (.error f, u.fsat (Reg.xltStat c) Reg.xltStat_WALK_FAULTS 1) := by
  unfold State.walk
  dsimp only
  rw [ht]

theorem State.walk_ok {s u : State} {c va size : Nat} {pte : Word} {write : Bool}
    (ht : (s.fsat (Reg.xltStat c) Reg.xltStat_WALKS 1).walkTry c va write 3 true = (.ok (pte, size), u)) :
    s.walk c va write = (.ok (pte, size), u.fulFill c va size pte) := by
  unfold State.walk
  dsimp only
  rw [ht]

/-- FUL_WALK with a tag free, and without. -/
theorem exec_fulWalk {s : State} {c : Fin 8} (h : s.tagFree (16 + c.val) = true) (va : Word) (write : Bool) :
    exec (.fulWalk c va write) s = .next (s.walk c.val (va.toNat % 2 ^ 48) write).2 := if_pos h

theorem exec_fulWalk_stalls {s : State} {c : Fin 8} (h : s.tagFree (16 + c.val) = false) (va : Word) (write : Bool) :
    exec (.fulWalk c va write) s = .next (s.ctxStall c.val) := if_neg (by simp [h])

/-- Counting a walk leaves its root and its walk cache in place. -/
theorem State.wc_counted {s : State} {c : Nat} (h : (s.xltOf c).wc = []) (r : Nat) (f : Fld) : ((s.fsat r f 1).xltOf c).wc = [] := h

theorem State.rootTable_counted (s : State) (c : Nat) (f : Fld) : (s.fsat (Reg.xltStat c) f 1).rootTable c = s.rootTable c := by
  unfold State.rootTable State.fsat
  rw [State.fget_fset_of_ne _ _ _ _ (by unfold Reg.xltRoot Reg.xltStat; omega)]

/-- The machines `σ` and the tables `tab` that a descent meets, level by level, from the root to the leaf at level `k`: each read is answered with a good
entry, a pointer above level `k` and the leaf there, and each pointer is entered into the walk cache. -/
structure Descent (c va k : Nat) (σ : Nat → State) (tab : Nat → Nat) : Prop where
  window : ∀ j ≤ k, walkMemory (entryPa (tab j) va j) = true
  late   : ∀ j ≤ k, ∀ x ∈ (σ j).mesh.late, x.1 ≠ 16 + c
  reads  : ∀ j ≤ k, ((σ j).entryRead c (tab j) va j).1.status = .ok
  good   : ∀ j ≤ k, let pte : Word := BitVec.ofNat 64 ((σ j).entryRead c (tab j) va j).1.data
    pteV pte = true ∧ pteMalformed pte j = false ∧ pteLeaf pte = decide (j = k)
  next   : ∀ j < k, let pte : Word := BitVec.ofNat 64 ((σ j).entryRead c (tab j) va j).1.data
    let u := ((σ j).entryRead c (tab j) va j).2
    tab (j + 1) = ptePPN pte * 2 ^ 12 ∧
      σ (j + 1) = u.setXlt c ((u.xltOf c).wcEnter (u.fget (Reg.xltAsid c) Reg.xltAsid_ASID) j va (ptePPN pte))

/-- A descent reaches its leaf from every level above it, where its bound leaves room. -/
theorem Descent.descend {c va k : Nat} {σ : Nat → State} {tab : Nat → Nat} (h : Descent c va k σ tab) (hc : c < 8) {n j : Nat} (hj : j ≤ k)
    (hn : k < j + n) : (σ j).descend c va n j (tab j) =
      (.ok (entryPa (tab k) va k, BitVec.ofNat 64 ((σ k).entryRead c (tab k) va k).1.data, k), ((σ k).entryRead c (tab k) va k).2) := by
  induction n generalizing j with
  | zero => omega
  | succ n ih =>
    obtain ⟨hv, hm, hleaf⟩ := h.good j hj
    rw [State.descend_read hc (h.window j hj) (h.late j hj) (h.reads j hj)]
    rw [if_neg (by simp [hv]), if_neg (by simp [hm]), hleaf]
    by_cases hk : j = k
    · subst hk
      simp
    · obtain ⟨htab, hσ⟩ := h.next j (by omega)
      rw [if_neg (by simp [hk]), ← htab, ← hσ, ih (by omega) (by omega)]

/-- Settles O28: the XLT block's registers are plain, and a walk from an empty walk cache descends level by level to what ends it. -/
theorem translationRowsAndWalks : Obligations.TranslationRowsAndWalks := by
  unfold Obligations.TranslationRowsAndWalks
  refine ⟨fun s rq c v => ?_, fun s c va write => ?_, fun s c va write k σ tab => ?_⟩
  · have hroot : Reg.xltRoot c.val / 0x10000 = 5 := by unfold Reg.xltRoot; omega
    have hasid : Reg.xltAsid c.val / 0x10000 = 5 := by unfold Reg.xltAsid; omega
    refine State.rows_cons rfl (fun hg => congrArg Host.Outcome.next ?_) <| State.rows_cons rfl (fun hg => congrArg Host.Outcome.next ?_) <|
      State.rows_cons rfl (fun hg => congrArg Host.Outcome.next ?_) (by simp [State.rows])
    · exact (State.gatedWrite_xlt hg hroot v).trans (s.plainWrite_xltRoot c v)
    · rw [State.gatedWrite_xlt hg hroot, State.plainWrite_xltRoot, rootLocked _ _ (by split <;> simp)]
    · exact (State.gatedWrite_xlt hg hasid v).trans (s.plainWrite_xltAsid c v)
  · refine ⟨fun ht => exec_fulWalk_stalls ht va write, fun ht hl hwc hw hs hb => ?_⟩
    obtain ⟨f, hd⟩ := State.descend_bad (s := s.fsat (Reg.xltStat c.val) Reg.xltStat_WALKS 1) (va := va.toNat % 2 ^ 48) (n := 3) (level := 0)
      (table := s.rootTable c.val) c.isLt hw hl hs hb
    rw [exec_fulWalk ht, State.walk_error (State.walkTry_faults (State.wc_counted hwc _ _) (s.rootTable_counted _ _) hd)]
    rfl
  · intro v pa r e u new q hk ht hwc hσ htab hgood hnext hf hmt
    have hdes : Descent c.val v k σ tab := {
      window := fun j hj => (hgood j hj).1
      late := fun j hj => (hgood j hj).2.1
      reads := fun j hj => (hgood j hj).2.2.1
      good := fun j hj => (hgood j hj).2.2.2
      next := hnext }
    have hd := hdes.descend c.isLt (n := 4) (Nat.zero_le k) (by omega)
    rw [hσ, htab] at hd
    refine ⟨fun hset => ?_, fun hclear hl hs hsame => ?_⟩
    · rw [exec_fulWalk ht, State.walk_ok (State.walkTry_finds (State.wc_counted hwc _ _) (s.rootTable_counted _ _) hd hf hmt hset)]
      rfl
    · rw [exec_fulWalk ht, State.walk_ok (State.walkTry_swaps (State.wc_counted hwc _ _) (s.rootTable_counted _ _) hd hf hmt c.isLt hclear hl hs hsame)]
      rfl

end Sys2Proof.Machine
end

section
/-!
PROOFS. Streams (Obligations.StreamsAndPrefetching): a context, as data, that holds a running stream beside the STRM at the head of its queue. The read
of that STRM's descriptor waits for a sleeping bank, and so lets another initiator's write take place first.
-/

namespace Sys2Proof.Machine

/-- A STRM whose descriptor lies at address 0. -/
def strmAtZero : FulOp :=
  { seq := 1, word := 0xE5800000, a := 0, b := 0, tag := 0, vl := 0, vtype := 0, deferred := false, written := [], next := 0, newVl := none
    old := [], oldBad := [] }

/-- The first page of the address space is the first page of Stream SRAM, for reading and writing (R151, R163). -/
def streamPage : Xlt :=
  { Xlt.reset with tlb := [(0, { valid := true, size := 0, vpn := 0, asid := 0, pte := BitVec.ofNat 64 (paStream + 0xD7), age := 0 })] }

/-- A write by triad 3 to bank 0 of Stream SRAM, which waits for the bank's wake (R252). -/
def waitingWrite : Flight :=
  { num := 0, gate := 1, epoch := 0, time := 0, held := true, done := false
    req := { rq := ⟨3, 0⟩, op := .write, atom := .swap, pa := BitVec.ofNat 44 (paStream + 0x4040), len := 8, data := 0, cmp := 0 }
    resp := { status := .ok, data := 0 }, own := false }

/-- Context 0 runs on all slices with tags to spare. It holds a running stream that no instruction of its run belongs to, and a STRM at the head of its
queue; the gate of Stream SRAM lets everybody read and write, and bank 0 is in retention. -/
def staleStream : State :=
  { State.reset with
    regs := [(Reg.sysTagq 16, 0x4004), (Reg.fulCState 0, 0xF02), (Reg.fulCTags 0, 0x40004), (Reg.gateRuleLimit 1 0, 0xFFFFFFFFFC0),
      (Reg.gateRuleMask 1 0, 0xFFFFFFFF), (Reg.gateRuleCtl 1 0, 0x7), (Reg.memSsState 0, 1)]
    ctxs := [(0, { Ctx.reset with queue := [strmAtZero], strm := some (Strm.start 0) })]
    xlt := [(0, streamPage)]
    mesh := { Mesh.reset with flights := [waitingWrite] } }

/-- The STRM is the head of the queue, and may start. -/
theorem staleStream_starts : staleStream.starts 0 strmAtZero [] := ⟨by decide +kernel, by decide +kernel, by decide +kernel⟩

/-- The machine in which the descriptor is read. -/
def staleStreamReads : State :=
  (((staleStream.modCtx 0 fun x => { x with queue := [] }).wr (Reg.fulCStrmStat 0) (BitVec.ofNat 64 (1 + 2 ^ 32))).wr (Reg.fulCStrmPos 0) 0).wr
    (Reg.fulCStrmCnt 0) 0

/-- The descriptor reads as zero, whose version is not 1, and the context's state stays. -/
theorem staleStreamReads_desc :
    (match staleStreamReads.readDesc 0 0 with
    | (.ok d, z) => decide (d = 0 ∧ z.cxState 0 = staleStream.cxState 0)
    | _ => false) = true := by
  decide +kernel

/-- STRM leaves the stream with a note of the write that took place (R226). -/
theorem staleStream_noted :
    (match exec (.strm 0) staleStream with
    | .next t => (t.ctx 0).strm.map (·.foreign)
    | _ => none) = some [(paStream + 0x4040, 8)] := by
  decide +kernel

/-- Refutes O39: the statement has a STRM whose descriptor is not legal leave the context's stream as it was, but the read of the descriptor lets the
writes that wait for the same bank take place (R252), and each is noted by the streams of other contexts (R226). On `staleStream`, which the
statement's hypotheses admit, the context holds a stream already, and the write is noted there. -/
theorem not_streamsAndPrefetching : ¬ Obligations.StreamsAndPrefetching := by
  unfold Obligations.StreamsAndPrefetching
  intro h
  obtain ⟨d, z, hread, hd, hstate⟩ : ∃ d z, staleStreamReads.readDesc 0 0 = (.ok d, z) ∧ d = 0 ∧ z.cxState 0 = staleStream.cxState 0 := by
    have hdesc := staleStreamReads_desc
    split at hdesc
    next d z hread => exact ⟨d, z, hread, of_decide_eq_true hdesc⟩
    next => exact absurd hdesc (by decide)
  have hbad := ((h.1.1 staleStream 0 strmAtZero [] staleStream_starts (by decide) ⟨rfl, rfl, rfl⟩ (by decide +kernel)).2 d z hread hstate).2.1
  obtain ⟨t, hexec, hstrm, -⟩ := hbad (by rw [hd]; decide) (by decide +kernel)
  have hnoted := staleStream_noted
  rw [hexec] at hnoted
  have hkept : (t.ctx 0).strm = some (Strm.start 0) := hstrm
  dsimp only at hnoted
  rw [hkept] at hnoted
  exact absurd hnoted (by decide)

end Sys2Proof.Machine
end

section
/-!
PROOFS. The operations on a Fuller context (R185, R196, R200, R206, R207): which contexts, registers and parts of the device each of them leaves as they
are, and what it makes of the fields that it writes.
-/

namespace Sys2Proof.Machine

/-! ### Contexts, and fields of registers -/

theorem State.ctx_setCtx (s : State) (c j : Nat) (x : Ctx) : (s.setCtx c x).ctx j = if j = c then x else s.ctx j := SMap.get_put

theorem State.ctx_modCtx_same (s : State) (c : Nat) (f : Ctx → Ctx) : (s.modCtx c f).ctx c = f (s.ctx c) := by rw [State.ctx_modCtx, if_pos rfl]

theorem State.ctx_modCtx_of_ne (s : State) {c j : Nat} (f : Ctx → Ctx) (h : j ≠ c) : (s.modCtx c f).ctx j = s.ctx j := by
  rw [State.ctx_modCtx, if_neg h]

/-- A saturating counter leaves the other registers. -/
theorem State.rd_fsat_of_ne (s : State) (f : Fld) (n : Nat) {r r' : Nat} (h : r' ≠ r) : (s.fsat r f n).rd r' = s.rd r' := s.rd_fset_of_ne f _ h

/-- A wrapping counter. -/
theorem State.fget_fadd (s : State) (r : Nat) {f : Fld} (n : Nat) (hf : f.lo + f.len ≤ 64) : (s.fadd r f n).fget r f = (s.fget r f + n) % 2 ^ f.len :=
  s.fget_fset r _ hf

/-- A register that an operation leaves alone has its fields as they were. -/
theorem State.fget_of_rd {s t : State} {r : Nat} (h : t.rd r = s.rd r) (f : Fld) : t.fget r f = s.fget r f := by rw [State.fget, h, State.fget]

/-! ### What an operation may change -/

/-- From `s` to `t` nothing has changed but contexts, registers, the latches of the copies and the state of the schedule. -/
def State.FulOnly (s t : State) : Prop := t = { s with ctxs := t.ctxs, regs := t.regs, copies := t.copies, ful := t.ful }

theorem State.FulOnly.trans {s t u : State} (h : s.FulOnly t) (k : t.FulOnly u) : s.FulOnly u := by
  unfold State.FulOnly at *
  rw [k, h]

theorem State.FulOnly.foldl {α : Type} {f : State → α → State} (hf : ∀ (s : State) x, s.FulOnly (f s x)) (l : List α) (s : State) : s.FulOnly (l.foldl f s) := by
  induction l generalizing s with
  | nil => rfl
  | cons x l ih => exact (hf s x).trans (ih _)

theorem State.fset_fulOnly (s : State) (r : Nat) (f : Fld) (v : Nat) : s.FulOnly (s.fset r f v) := rfl
theorem State.modCtx_fulOnly (s : State) (c : Nat) (f : Ctx → Ctx) : s.FulOnly (s.modCtx c f) := rfl

/-! ### Events (R207) -/

/-- An event changes its context's event register and the latches of copies. -/
theorem State.ctxEvent_frame (s : State) (c e : Nat) : s.ctxEvent c e = { s with regs := (s.ctxEvent c e).regs, copies := (s.ctxEvent c e).copies } := by
  unfold State.ctxEvent
  dsimp only
  split <;> rfl

theorem State.ctxEvent_fulOnly (s : State) (c e : Nat) : s.FulOnly (s.ctxEvent c e) := by
  unfold State.FulOnly
  rw [s.ctxEvent_frame c e]

theorem State.ctx_ctxEvent (s : State) (c e j : Nat) : (s.ctxEvent c e).ctx j = s.ctx j := by rw [s.ctxEvent_frame c e]; rfl
theorem State.ctxEvent_ful (s : State) (c e : Nat) : (s.ctxEvent c e).ful = s.ful := by rw [s.ctxEvent_frame c e]

theorem State.rd_ctxEvent (s : State) (c e r : Nat) :
    (s.ctxEvent c e).rd r = if r = Reg.fulCEvent c then setBits (s.rd (Reg.fulCEvent c)) (Reg.fulCEvent_PEND.lo + e) 1 1 else s.rd r := by
  have h : (s.ctxEvent c e).rd r =
      (s.wr (Reg.fulCEvent c) (setBits (s.rd (Reg.fulCEvent c)) (Reg.fulCEvent_PEND.lo + e) 1 1)).rd r := by
    unfold State.ctxEvent
    dsimp only
    split <;> rfl
  rw [h, State.rd_wr]

theorem State.rd_ctxEvent_of_ne (s : State) (c e : Nat) {r : Nat} (h : r ≠ Reg.fulCEvent c) : (s.ctxEvent c e).rd r = s.rd r := by
  rw [State.rd_ctxEvent, if_neg h]

/-- Its pending bit is set. -/
theorem State.ctxEvent_pends (s : State) (c : Nat) {e : Nat} (h : e < 6) : bit ((s.ctxEvent c e).rd (Reg.fulCEvent c)) (Reg.fulCEvent_PEND.lo + e) = true := by
  have hlo : Reg.fulCEvent_PEND.lo = 8 := rfl
  rw [State.rd_ctxEvent, if_pos rfl, bit, getLsbD_setBits _ _ _ _ (by omega), if_pos (by omega)]
  simp

/-! ### The state register (R185) -/

theorem State.cxEnter_fulOnly (s : State) (c n : Nat) : s.FulOnly (s.cxEnter c n) := by
  unfold State.cxEnter
  dsimp only
  split
  · exact (s.fset_fulOnly _ _ _).trans (State.FulOnly.trans (t := (s.fset _ _ _).slicesBusy c) rfl (State.ctxEvent_fulOnly _ _ _))
  · rfl

/-- Entering a state that is not IDLE writes the state register alone. -/
theorem State.cxEnter_of_ne_idle (s : State) (c : Nat) {n : Nat} (h : n ≠ cxIDLE) : s.cxEnter c n = s.fset (Reg.fulCState c) Reg.fulCState_STATE n := by
  unfold State.cxEnter
  dsimp only
  rw [if_neg fun hi => h hi.1]

theorem State.ctx_cxEnter (s : State) (c n j : Nat) : (s.cxEnter c n).ctx j = s.ctx j := by
  unfold State.cxEnter
  dsimp only
  split
  · exact State.ctx_ctxEvent _ _ _ _
  · rfl

theorem State.cxEnter_ful (s : State) (c n : Nat) : (s.cxEnter c n).ful = { s.ful with busy := (s.cxEnter c n).ful.busy } := by
  unfold State.cxEnter
  dsimp only
  split
  · rw [State.ctxEvent_ful]
    rfl
  · rfl

theorem State.rd_cxEnter_of_ne (s : State) (c n : Nat) {r : Nat} (h : r ≠ Reg.fulCEvent c) :
    (s.cxEnter c n).rd r = (s.fset (Reg.fulCState c) Reg.fulCState_STATE n).rd r := by
  unfold State.cxEnter
  dsimp only
  split
  · rw [State.rd_ctxEvent_of_ne _ _ _ h]
    rfl
  · rfl

theorem fulCState_ne_fulCEvent (c d : Nat) : Reg.fulCState c ≠ Reg.fulCEvent d := by unfold Reg.fulCState Reg.fulCEvent; omega

theorem State.cxState_cxEnter (s : State) (c : Nat) {n : Nat} (h : n < 8) : (s.cxEnter c n).cxState c = n := by
  rw [State.cxState, State.fget_of_rd (s.rd_cxEnter_of_ne c n (fulCState_ne_fulCEvent c c)), State.fget_fset _ _ _ (by decide)]
  exact Nat.mod_eq_of_lt h

/-- The event IDLE is pending after a context has entered IDLE. -/
theorem State.cxEnter_idle_pends (s : State) (c : Nat) (h : s.cxState c ≠ cxIDLE) :
    bit ((s.cxEnter c cxIDLE).rd (Reg.fulCEvent c)) Reg.fulCEvent_PEND.lo = true := by
  unfold State.cxEnter
  dsimp only
  rw [if_pos ⟨rfl, h⟩]
  exact State.ctxEvent_pends _ c (e := 0) (by omega)

/-- The states that a context's state register does not leave with its queue: UNBOUND, FAULTED and STOPPED. -/
def cxFixed (n : Nat) : Prop := n = cxUNBOUND ∨ n = cxFAULTED ∨ n = cxSTOPPED

theorem State.cxActive_lt (s : State) (c : Nat) : s.cxActive c < 8 := by
  unfold State.cxActive
  dsimp only
  split
  · decide
  · split <;> decide

theorem State.cxActive_idle {s : State} {c : Nat} (hq : (s.ctx c).queue = []) (hr : (s.ctx c).run = []) : s.cxActive c = cxIDLE := by
  simp [State.cxActive, hq, hr]

theorem State.cxActive_busy {s : State} {c : Nat} (h : ¬ ((s.ctx c).queue = [] ∧ (s.ctx c).run = [])) :
    s.cxActive c = if s.cxSlices c ≠ 0 then cxRUNNING else cxWAITING := by
  unfold State.cxActive
  dsimp only
  rw [if_neg (by simpa using h)]

/-- A context's register is written with its queue's length, and follows its queue and its slices where its state is not fixed. -/
theorem State.fulUpd_cases (s : State) (c : Nat) : ∃ u, u = s.fset (Reg.fulCState c) Reg.fulCState_QUEUED (s.ctx c).queue.length ∧
    ((cxFixed (s.cxState c) ∧ s.fulUpd c = u) ∨ (¬ cxFixed (s.cxState c) ∧ s.fulUpd c = u.cxEnter c (s.cxActive c))) := by
  have hst : (s.fset (Reg.fulCState c) Reg.fulCState_QUEUED (s.ctx c).queue.length).cxState c = s.cxState c :=
    s.fget_fset_of_disjoint _ _ (by decide)
  have hact : (s.fset (Reg.fulCState c) Reg.fulCState_QUEUED (s.ctx c).queue.length).cxActive c = s.cxActive c := by
    have hsl : (s.fset (Reg.fulCState c) Reg.fulCState_QUEUED (s.ctx c).queue.length).cxSlices c = s.cxSlices c :=
      s.fget_fset_of_disjoint _ _ (by decide)
    unfold State.cxActive
    rw [hsl]
    rfl
  refine ⟨_, rfl, ?_⟩
  unfold State.fulUpd
  dsimp only
  rw [hst, hact]
  by_cases h : cxFixed (s.cxState c)
  · exact .inl ⟨h, if_pos h⟩
  · exact .inr ⟨h, if_neg h⟩

theorem State.fulUpd_fulOnly (s : State) (c : Nat) : s.FulOnly (s.fulUpd c) := by
  obtain ⟨u, rfl, ⟨-, h⟩ | ⟨-, h⟩⟩ := s.fulUpd_cases c
  · rw [h]
    rfl
  · rw [h]
    exact (s.fset_fulOnly _ _ _).trans (State.cxEnter_fulOnly _ _ _)

theorem State.ctx_fulUpd (s : State) (c j : Nat) : (s.fulUpd c).ctx j = s.ctx j := by
  obtain ⟨u, rfl, ⟨-, h⟩ | ⟨-, h⟩⟩ := s.fulUpd_cases c
  · rw [h]
    rfl
  · rw [h]
    exact State.ctx_cxEnter _ _ _ _

theorem State.fulUpd_ful (s : State) (c : Nat) : (s.fulUpd c).ful = { s.ful with busy := (s.fulUpd c).ful.busy } := by
  obtain ⟨u, rfl, ⟨-, h⟩ | ⟨-, h⟩⟩ := s.fulUpd_cases c
  · rw [h]
    rfl
  · rw [h]
    exact State.cxEnter_ful _ _ _

theorem State.rd_fulUpd_of_ne (s : State) (c : Nat) {r : Nat} (h : r ≠ Reg.fulCState c) (he : r ≠ Reg.fulCEvent c) : (s.fulUpd c).rd r = s.rd r := by
  obtain ⟨u, rfl, ⟨-, hu⟩ | ⟨-, hu⟩⟩ := s.fulUpd_cases c
  · rw [hu, State.rd_fset_of_ne _ _ _ h]
  · rw [hu, State.rd_cxEnter_of_ne _ _ _ he, State.rd_fset_of_ne _ _ _ h, State.rd_fset_of_ne _ _ _ h]

/-- Of a state register the fields STATE and QUEUED are written, and no other. -/
theorem State.fget_fulUpd_high (s : State) (c j : Nat) {f : Fld} (hf : 8 ≤ f.lo) :
    (s.fulUpd c).fget (Reg.fulCState j) f = s.fget (Reg.fulCState j) f := by
  have hq : Reg.fulCState_QUEUED.lo + Reg.fulCState_QUEUED.len = 8 := rfl
  have hs : Reg.fulCState_STATE.lo + Reg.fulCState_STATE.len = 3 := rfl
  by_cases hj : j = c
  · subst hj
    obtain ⟨u, rfl, ⟨-, hu⟩ | ⟨-, hu⟩⟩ := s.fulUpd_cases j
    · rw [hu, State.fget_fset_of_disjoint _ _ _ (.inr (by omega))]
    · rw [hu, State.fget_of_rd (State.rd_cxEnter_of_ne _ _ _ (fulCState_ne_fulCEvent j j)), State.fget_fset_of_disjoint _ _ _ (.inr (by omega)),
        State.fget_fset_of_disjoint _ _ _ (.inr (by omega))]
  · exact State.fget_of_rd (s.rd_fulUpd_of_ne c (by unfold Reg.fulCState; omega) (fulCState_ne_fulCEvent j c)) f

theorem State.cxSlices_fulUpd (s : State) (c j : Nat) : (s.fulUpd c).cxSlices j = s.cxSlices j := s.fget_fulUpd_high c j (by decide)

/-- A fixed state stands. -/
theorem State.cxState_fulUpd_fixed {s : State} {c : Nat} (h : cxFixed (s.cxState c)) : (s.fulUpd c).cxState c = s.cxState c := by
  obtain ⟨u, rfl, ⟨-, hu⟩ | ⟨hn, -⟩⟩ := s.fulUpd_cases c
  · rw [hu]
    exact s.fget_fset_of_disjoint _ _ (by decide)
  · exact absurd h hn

theorem State.cxState_fulUpd_active {s : State} {c : Nat} (h : ¬ cxFixed (s.cxState c)) : (s.fulUpd c).cxState c = s.cxActive c := by
  obtain ⟨u, rfl, ⟨hy, -⟩ | ⟨-, hu⟩⟩ := s.fulUpd_cases c
  · exact absurd hy h
  · rw [hu, State.cxState_cxEnter _ _ (s.cxActive_lt c)]

/-- FAULTED stands. -/
theorem State.cxState_fulUpd_faulted {s : State} {c : Nat} (h : s.cxState c = cxFAULTED) : (s.fulUpd c).cxState c = cxFAULTED :=
  (State.cxState_fulUpd_fixed (.inr (.inl h))).trans h

/-- No other way leads to FAULTED. -/
theorem State.cxState_fulUpd_ne_faulted {s : State} {c : Nat} (h : s.cxState c ≠ cxFAULTED) : (s.fulUpd c).cxState c ≠ cxFAULTED := by
  by_cases hf : cxFixed (s.cxState c)
  · rwa [State.cxState_fulUpd_fixed hf]
  · rw [State.cxState_fulUpd_active hf]
    unfold State.cxActive
    dsimp only
    split
    · decide
    · split <;> decide

/-- While work is queued or runs, the state register alone is written: no event comes up. -/
theorem State.fulUpd_busy {s : State} {c : Nat} (h : ¬ ((s.ctx c).queue = [] ∧ (s.ctx c).run = [])) : s.fulUpd c = { s with regs := (s.fulUpd c).regs } := by
  obtain ⟨u, rfl, ⟨-, hu⟩ | ⟨-, hu⟩⟩ := s.fulUpd_cases c
  · rw [hu]
    rfl
  · have hne : s.cxActive c ≠ cxIDLE := by
      rw [State.cxActive_busy h]
      split <;> decide
    rw [hu, State.cxEnter_of_ne_idle _ _ hne]
    rfl

theorem State.rd_fulUpd_busy_of_ne {s : State} {c : Nat} (h : ¬ ((s.ctx c).queue = [] ∧ (s.ctx c).run = [])) {r : Nat} (hr : r ≠ Reg.fulCState c) :
    (s.fulUpd c).rd r = s.rd r := by
  obtain ⟨u, rfl, ⟨-, hu⟩ | ⟨-, hu⟩⟩ := s.fulUpd_cases c
  · rw [hu, State.rd_fset_of_ne _ _ _ hr]
  · have hne : s.cxActive c ≠ cxIDLE := by
      rw [State.cxActive_busy h]
      split <;> decide
    rw [hu, State.cxEnter_of_ne_idle _ _ hne, State.rd_fset_of_ne _ _ _ hr, State.rd_fset_of_ne _ _ _ hr]

/-- A context that has nothing more queued or started enters IDLE, with its event. -/
theorem State.fulUpd_idle {s : State} {c : Nat} (h : s.cxState c = cxRUNNING) (hq : (s.ctx c).queue = []) (hr : (s.ctx c).run = []) :
    (s.fulUpd c).cxState c = cxIDLE ∧ bit ((s.fulUpd c).rd (Reg.fulCEvent c)) Reg.fulCEvent_PEND.lo = true := by
  have hn : ¬ cxFixed (s.cxState c) := by
    rw [h]
    unfold cxFixed
    decide
  obtain ⟨u, rfl, ⟨hy, -⟩ | ⟨-, hu⟩⟩ := s.fulUpd_cases c
  · exact absurd hy hn
  · have hold : (s.fset (Reg.fulCState c) Reg.fulCState_QUEUED (s.ctx c).queue.length).cxState c = s.cxState c :=
      s.fget_fset_of_disjoint _ _ (by decide)
    rw [hu, State.cxActive_idle hq hr]
    exact ⟨State.cxState_cxEnter _ _ (by decide), State.cxEnter_idle_pends _ _ (by rw [hold, h]; decide)⟩

theorem State.leaveFaulted_fulOnly (s : State) (c : Nat) : s.FulOnly (s.leaveFaulted c) := by
  unfold State.leaveFaulted
  split
  · exact State.cxEnter_fulOnly _ _ _
  · rfl

theorem State.ctx_leaveFaulted (s : State) (c j : Nat) : (s.leaveFaulted c).ctx j = s.ctx j := by
  unfold State.leaveFaulted
  split
  · exact State.ctx_cxEnter _ _ _ _
  · rfl

theorem State.rd_leaveFaulted_of_ne (s : State) (c : Nat) {r : Nat} (h : r ≠ Reg.fulCState c) (he : r ≠ Reg.fulCEvent c) :
    (s.leaveFaulted c).rd r = s.rd r := by
  unfold State.leaveFaulted
  split
  · rw [State.rd_cxEnter_of_ne _ _ _ he, State.rd_fset_of_ne _ _ _ h]
  · rfl

theorem State.leaveFaulted_ne_faulted (s : State) (c : Nat) : (s.leaveFaulted c).cxState c ≠ cxFAULTED := by
  unfold State.leaveFaulted
  split
  next h =>
    rw [State.cxState_cxEnter _ _ (s.cxActive_lt c)]
    unfold State.cxActive
    dsimp only
    split
    · decide
    · split <;> decide
  next h => exact h

/-! ### Completion (R200, R208) -/

theorem State.wdogKeep_frame (s : State) (c : Nat) (was : Bool) : s.wdogKeep c was = { s with ctxs := (s.wdogKeep c was).ctxs } := by
  unfold State.wdogKeep
  split <;> rfl

/-- From `s` to `t` the contexts are as they were, but for the watchdog's count of context `c`. -/
def State.CountMoved (s t : State) (c : Nat) : Prop := ∃ n, ∀ j, t.ctx j = if j = c then { s.ctx c with wdogFrom := n } else s.ctx j

theorem State.wdogKeep_moves (s : State) (c : Nat) (was : Bool) : s.CountMoved (s.wdogKeep c was) c := by
  unfold State.wdogKeep
  split
  · refine ⟨(s.ctx c).wdogFrom, fun j => ?_⟩
    split
    next h => rw [h]
    · rfl
  · exact ⟨_, fun j => s.ctx_modCtx c j _⟩

theorem State.wdogRestart_moves (s : State) (c : Nat) : s.CountMoved (s.wdogRestart c) c := ⟨_, fun j => s.ctx_modCtx c j _⟩

theorem State.ctxComplete_fulOnly (s : State) (c : Nat) (o : FulOp) : s.FulOnly (s.ctxComplete c o) :=
  State.FulOnly.trans (t := ((s.fadd (Reg.fulCCnt c) Reg.fulCCnt_COMPLETED 1).ctxRetire c o.seq).wdogRestart c) rfl (State.fulUpd_fulOnly _ _)

/-- A completion changes the watchdog's count of its context, and nothing else of any context. -/
theorem State.ctxComplete_moves (s : State) (c : Nat) (o : FulOp) : s.CountMoved (s.ctxComplete c o) c := by
  obtain ⟨n, hn⟩ := State.wdogRestart_moves ((s.fadd (Reg.fulCCnt c) Reg.fulCCnt_COMPLETED 1).ctxRetire c o.seq) c
  refine ⟨n, fun j => ?_⟩
  unfold State.ctxComplete
  rw [State.ctx_fulUpd, hn]
  rfl

/-- The registers that a completion writes. -/
theorem State.rd_ctxComplete_of_ne (s : State) (c : Nat) (o : FulOp) {r : Nat} (hs : r ≠ Reg.fulCState c) (he : r ≠ Reg.fulCEvent c)
    (hq : r ≠ Reg.fulCSeq c) (hc : r ≠ Reg.fulCCnt c) : (s.ctxComplete c o).rd r = s.rd r := by
  unfold State.ctxComplete
  rw [State.rd_fulUpd_of_ne _ _ hs he]
  change (State.ctxRetire _ _ _).rd r = _
  unfold State.ctxRetire
  rw [State.rd_fset_of_ne _ _ _ hq]
  exact State.rd_fset_of_ne _ _ _ hc

theorem fulCSeq_ne (c d : Nat) : Reg.fulCSeq c ≠ Reg.fulCState d ∧ Reg.fulCSeq c ≠ Reg.fulCEvent d ∧ Reg.fulCSeq c ≠ Reg.fulCCnt d := by
  unfold Reg.fulCSeq Reg.fulCState Reg.fulCEvent Reg.fulCCnt
  omega

theorem fulCCnt_ne (c d : Nat) : Reg.fulCCnt c ≠ Reg.fulCState d ∧ Reg.fulCCnt c ≠ Reg.fulCEvent d ∧ Reg.fulCCnt c ≠ Reg.fulCSeq d := by
  unfold Reg.fulCSeq Reg.fulCState Reg.fulCEvent Reg.fulCCnt
  omega

/-- The instruction is retired; the number of the last accepted one stands. -/
theorem State.ctxComplete_retired (s : State) (c : Nat) (o : FulOp) :
    (s.ctxComplete c o).fget (Reg.fulCSeq c) Reg.fulCSeq_RETIRED = o.seq % 2 ^ 32 ∧
      (s.ctxComplete c o).fget (Reg.fulCSeq c) Reg.fulCSeq_ACCEPTED = s.fget (Reg.fulCSeq c) Reg.fulCSeq_ACCEPTED := by
  obtain ⟨hs, he, hc⟩ := fulCSeq_ne c c
  have h : (s.ctxComplete c o).rd (Reg.fulCSeq c) =
      ((s.fadd (Reg.fulCCnt c) Reg.fulCCnt_COMPLETED 1).fset (Reg.fulCSeq c) Reg.fulCSeq_RETIRED o.seq).rd (Reg.fulCSeq c) :=
    State.rd_fulUpd_of_ne _ _ hs he
  rw [State.fget_of_rd h, State.fget_of_rd h, State.fget_fset _ _ _ (by decide), State.fget_fset_of_disjoint _ _ _ (by decide)]
  exact ⟨rfl, State.fget_fset_of_ne _ _ _ _ hc⟩

/-- The instruction is counted. -/
theorem State.ctxComplete_counted (s : State) (c : Nat) (o : FulOp) : (s.ctxComplete c o).fget (Reg.fulCCnt c) Reg.fulCCnt_COMPLETED =
    (s.fget (Reg.fulCCnt c) Reg.fulCCnt_COMPLETED + 1) % 2 ^ Reg.fulCCnt_COMPLETED.len := by
  obtain ⟨hs, he, hq⟩ := fulCCnt_ne c c
  have h : (s.ctxComplete c o).rd (Reg.fulCCnt c) =
      ((s.fadd (Reg.fulCCnt c) Reg.fulCCnt_COMPLETED 1).fset (Reg.fulCSeq c) Reg.fulCSeq_RETIRED o.seq).rd (Reg.fulCCnt c) :=
    State.rd_fulUpd_of_ne _ _ hs he
  rw [State.fget_of_rd h, State.fget_fset_of_ne _ _ _ _ hq, State.fget_fadd _ _ _ (by decide)]

end Sys2Proof.Machine
end

section
/-!
PROOFS. The start of an instruction on registers (R189, R200): the head of a queue that may start leaves it, its effect is applied, and it completes at
once or runs.
-/

namespace Sys2Proof.Machine

/-! ### The head of the queue starts -/

/-- A context whose queue has lost its head. -/
def Ctx.dequeued (x : Ctx) (r : List FulOp) : Ctx := { x with queue := r }

def State.dequeued (s : State) (c : Nat) (r : List FulOp) : State := s.modCtx c (·.dequeued r)

theorem State.ctx_dequeued (s : State) (c : Nat) (r : List FulOp) : (s.dequeued c r).ctx c = (s.ctx c).dequeued r := s.ctx_modCtx_same c _

/-- What follows the effect of an instruction that has started. -/
def State.afterStart (s : State) (c : Nat) (o : FulOp) : State × Option FulOp → State
  | (u, some o') =>
    if fwElementwise o.word && decide (o.vl = 0) then u.ctxComplete c o
    else ((u.modCtx c fun x => { x with run := x.run ++ [o'] }).wdogKeep c (s.wdogOn c)).fulUpd c
  | (u, none) => u.fulUpd c

theorem State.vrfRead_sound {s : State} {c : Nat} (h : (s.ctx c).vUe = [] ∧ (s.ctx c).vCe = []) (o : FulOp) : s.vrfRead c o = s := if_pos h

/-- An instruction keeps what the registers of its context hold, whatever else the context holds. -/
theorem State.keepOld_congr {s u : State} {c : Nat} (hv : (u.ctx c).v = (s.ctx c).v) (hp : (u.ctx c).vPoison = (s.ctx c).vPoison)
    (hm : (u.ctx c).m = (s.ctx c).m) (hq : (u.ctx c).mPoison = (s.ctx c).mPoison) (o : FulOp) : u.keepOld c o = s.keepOld c o := by
  unfold State.keepOld
  dsimp only
  rw [hv, hp, hm, hq]

/-- An instruction that starts is itself, but for what it keeps of its destination. -/
theorem State.keepOld_eq (s : State) (c : Nat) (o : FulOp) : ∃ old bad, s.keepOld c o = { o with old := old, oldBad := bad } := by
  unfold State.keepOld
  dsimp only
  split
  · exact ⟨_, _, rfl⟩
  · split <;> exact ⟨_, _, rfl⟩

/-- The head of a queue that may start, in a context without errors and with a tag if it needs one. -/
theorem State.startHead_starts {s : State} {c : Nat} {o : FulOp} {r : List FulOp} {is : BitVec 32 → Bool}
    {eff : State → FulOp → State × Option FulOp} (h : s.starts c o r) (hf : s.faultless c) (his : is o.word = true)
    (hacc : o.accesses = false ∨ s.tagFree (16 + c) = true) :
    s.startHead c is eff = s.afterStart c o (eff (s.dequeued c r) (s.keepOld c o)) := by
  have hsound : ((s.dequeued c r).ctx c).vUe = [] ∧ ((s.dequeued c r).ctx c).vCe = [] := by
    rw [State.ctx_dequeued]
    exact hf.2
  have hkeep : (s.dequeued c r).keepOld c o = s.keepOld c o := by
    refine State.keepOld_congr ?_ ?_ ?_ ?_ o <;> rw [State.ctx_dequeued] <;> rfl
  have hstall : (o.accesses && !s.tagFree (16 + c)) = false := by
    rcases hacc with ha | ha <;> simp [ha]
  unfold State.startHead
  rw [h.queue]
  dsimp only
  rw [if_neg (by simp [his, h.may]), if_neg (by simp [h.window]), hstall]
  change (match eff ((s.dequeued c r).vrfRead c o) (((s.dequeued c r).vrfRead c o).keepOld c o) with
    | (u, some o') => _
    | (u, none) => _) = _
  rw [State.vrfRead_sound hsound, hkeep]
  unfold State.afterStart
  rfl

/-! ### An effect on registers -/

/-- From `s` to `u` the head of the queue of context `c` has left it, and the effect of an instruction on registers has been applied: of the context
vector and mask registers have changed, of the device's registers its flags and its count of poisoned words, and free values may have been drawn. -/
structure Affected (s u : State) (c : Nat) (r : List FulOp) : Prop where
  ctx    : ∃ v vp m mp ue ce, u.ctx c = { s.ctx c with queue := r, v := v, vPoison := vp, m := m, mPoison := mp, vUe := ue, vCe := ce }
  others : ∀ j, j ≠ c → u.ctx j = s.ctx j
  rest   : u = { s with ctxs := u.ctxs, regs := u.regs, free := u.free }
  rd     : ∀ q, q ≠ Reg.fulCCheckCnt c → q ≠ Reg.fulCFflags c → u.rd q = s.rd q

theorem State.cxState_of_rd {s u : State} {c : Nat} (h : u.rd (Reg.fulCState c) = s.rd (Reg.fulCState c)) :
    u.cxState c = s.cxState c ∧ u.cxSlices c = s.cxSlices c := ⟨State.fget_of_rd h _, State.fget_of_rd h _⟩

theorem fulCFflags_ne (c d : Nat) : Reg.fulCFflags c ≠ Reg.fulCState d ∧ Reg.fulCFflags c ≠ Reg.fulCEvent d ∧ Reg.fulCFflags c ≠ Reg.fulCSeq d ∧
    Reg.fulCFflags c ≠ Reg.fulCCnt d ∧ Reg.fulCFflags c ≠ Reg.fulCCheckCnt d := by
  unfold Reg.fulCFflags Reg.fulCState Reg.fulCEvent Reg.fulCSeq Reg.fulCCnt Reg.fulCCheckCnt
  omega

section
variable {s u : State} {c : Nat} {o : FulOp} {r : List FulOp}

theorem Affected.state (h : Affected s u c r) : u.cxState c = s.cxState c ∧ u.cxSlices c = s.cxSlices c :=
  State.cxState_of_rd (h.rd _ (by unfold Reg.fulCState Reg.fulCCheckCnt; omega) (fulCFflags_ne c c).1.symm)

/-- An effect with VL = 0: the instruction completes. -/
theorem Affected.completes (h : Affected s u c r) : Completed s (u.ctxComplete c o) c o r := by
  obtain ⟨v, vp, m, mp, ue, ce, hctx⟩ := h.ctx
  obtain ⟨n, hn⟩ := u.ctxComplete_moves c o
  obtain ⟨-, -, -, hne, -⟩ := fulCFflags_ne c c
  have hcnt : u.rd (Reg.fulCCnt c) = s.rd (Reg.fulCCnt c) := h.rd _ (by unfold Reg.fulCCnt Reg.fulCCheckCnt; omega) hne.symm
  refine ⟨?_, ?_, fun j hj => ?_, (u.ctxComplete_retired c o).1, ?_⟩
  · rw [hn, if_pos rfl, hctx]
  · rw [hn, if_pos rfl, hctx]
  · rw [hn, if_neg hj, h.others j hj]
  · rw [State.ctxComplete_counted, State.fget_of_rd hcnt]

/-- The state with an instruction among those started, its context's state register up to date. -/
def State.begun (u : State) (c : Nat) (o' : FulOp) (was : Bool) : State :=
  ((u.modCtx c fun x => { x with run := x.run ++ [o'] }).wdogKeep c was).fulUpd c

/-- A context with one more instruction started. -/
theorem State.begun_ctx (u : State) (c : Nat) (o' : FulOp) (was : Bool) :
    ∃ n, ∀ j, (u.begun c o' was).ctx j = if j = c then { u.ctx c with run := (u.ctx c).run ++ [o'], wdogFrom := n } else u.ctx j := by
  obtain ⟨n, hn⟩ := State.wdogKeep_moves (u.modCtx c fun x => { x with run := x.run ++ [o'] }) c was
  refine ⟨n, fun j => ?_⟩
  unfold State.begun
  rw [State.ctx_fulUpd, hn]
  split
  · rw [State.ctx_modCtx_same]
  next hj => rw [State.ctx_modCtx_of_ne _ _ hj]

theorem State.begun_busy (u : State) (c : Nat) (o' : FulOp) (was : Bool) :
    let z := (u.modCtx c fun x => { x with run := x.run ++ [o'] }).wdogKeep c was
    ¬ ((z.ctx c).queue = [] ∧ (z.ctx c).run = []) := by
  obtain ⟨n, hn⟩ := State.wdogKeep_moves (u.modCtx c fun x => { x with run := x.run ++ [o'] }) c was
  dsimp only
  rw [hn, if_pos rfl, State.ctx_modCtx_same]
  simp

/-- Nothing else than the context and its state register changes as an instruction begins to run. -/
theorem State.begun_frame (u : State) (c : Nat) (o' : FulOp) (was : Bool) :
    u.begun c o' was = { u with ctxs := (u.begun c o' was).ctxs, regs := (u.begun c o' was).regs } := by
  unfold State.begun
  rw [State.fulUpd_busy (u.begun_busy c o' was), State.wdogKeep_frame]
  rfl

theorem State.rd_begun_of_ne (u : State) (c : Nat) (o' : FulOp) (was : Bool) {q : Nat} (hq : q ≠ Reg.fulCState c) : (u.begun c o' was).rd q = u.rd q := by
  unfold State.begun
  rw [State.rd_fulUpd_busy_of_ne (u.begun_busy c o' was) hq, State.wdogKeep_frame]
  rfl

/-- A context that was idle, running or waiting runs or waits, by the slices that it holds. -/
theorem State.cxState_begun (u : State) (c : Nat) (o' : FulOp) (was : Bool)
    (h : u.cxState c = cxIDLE ∨ u.cxState c = cxRUNNING ∨ u.cxState c = cxWAITING) :
    (u.begun c o' was).cxState c = if u.cxSlices c ≠ 0 then cxRUNNING else cxWAITING := by
  have hregs : ((u.modCtx c fun x => { x with run := x.run ++ [o'] }).wdogKeep c was).regs = u.regs := by
    rw [State.wdogKeep_frame]
    rfl
  have hn : ¬ cxFixed (u.cxState c) := by
    rcases h with h | h | h <;> rw [h] <;> unfold cxFixed <;> decide
  unfold State.begun
  rw [State.cxState_fulUpd_active, State.cxActive_busy (u.begun_busy c o' was), State.cxSlices, State.fget_congr hregs]
  · rfl
  · rwa [State.cxState, State.fget_congr hregs]

/-- An instruction whose effect leaves its context with the queue, the state and the slices that it had begins to run. -/
theorem State.begun_began (hq : (u.ctx c).queue = r) (hr : (u.ctx c).run = (s.ctx c).run) (hothers : ∀ j, j ≠ c → u.ctx j = s.ctx j)
    (hp : u.pending = s.pending) (hst : u.cxState c = s.cxState c ∧ u.cxSlices c = s.cxSlices c) (o' : FulOp) (was : Bool) :
    Began s (u.begun c o' was) c o' r := by
  obtain ⟨n, hn⟩ := u.begun_ctx c o' was
  refine ⟨?_, ?_, fun hs => ?_, fun j hj => ?_, ?_⟩
  · rw [hn, if_pos rfl, hq]
  · rw [hn, if_pos rfl, hr]
  · rw [← hst.1] at hs
    rw [State.cxState_begun u c o' was hs, hst.2]
  · rw [hn, if_neg hj, hothers j hj]
  · rw [State.begun_frame, hp]

/-- An effect with VL above 0: the instruction runs. -/
theorem Affected.begins (h : Affected s u c r) (o' : FulOp) (was : Bool) : Began s (u.begun c o' was) c o' r := by
  obtain ⟨v, vp, m, mp, ue, ce, hctx⟩ := h.ctx
  exact State.begun_began (by rw [hctx]) (by rw [hctx]) h.others (by rw [h.rest]) h.state o' was

theorem State.afterStart_completes (s u : State) (c : Nat) (o' : FulOp) (hel : fwElementwise o.word = true) (h : o.vl = 0) :
    s.afterStart c o (u, some o') = u.ctxComplete c o := if_pos (by simp [hel, h])

theorem State.afterStart_begins (s u : State) (c : Nat) (o' : FulOp) (h : fwElementwise o.word = false ∨ o.vl ≠ 0) :
    s.afterStart c o (u, some o') = u.begun c o' (s.wdogOn c) := if_neg (by rcases h with h | h <;> simp [h])

/-- The registers of a context, and their poison, are those of another. -/
structure Ctx.SameRegs (y x : Ctx) : Prop where
  v       : y.v = x.v
  vPoison : y.vPoison = x.vPoison
  m       : y.m = x.m
  mPoison : y.mPoison = x.mPoison

/-- The start of an instruction on registers, from the state `u` that its effect leaves: it has acted, and the registers of its context, its flags and the
count of free values are as the effect leaves them. -/
theorem Affected.acts (h : Affected s u c r) (hel : fwElementwise o.word = true) :
    let t := s.afterStart c o (u, some (s.keepOld c o))
    Acted s t c o r ∧ t.free = u.free ∧ t.cxFlags c = u.cxFlags c ∧ (t.ctx c).SameRegs (u.ctx c) := by
  obtain ⟨hs, he, hq, hc, hp⟩ := fulCFflags_ne c c
  dsimp only
  by_cases hvl : o.vl = 0
  · obtain ⟨n, hn⟩ := u.ctxComplete_moves c o
    have hrest := u.ctxComplete_fulOnly c o
    unfold State.FulOnly at hrest
    rw [State.afterStart_completes s u c _ hel hvl, Acted, if_pos hvl, hn c, if_pos rfl]
    refine ⟨⟨h.completes, ?_⟩, ?_, State.fget_of_rd (State.rd_ctxComplete_of_ne u c o hs he hq hc) _, ⟨rfl, rfl, rfl, rfl⟩⟩
    · rw [hrest, h.rest]
    · rw [hrest]
  · obtain ⟨n, hn⟩ := u.begun_ctx c (s.keepOld c o) (s.wdogOn c)
    rw [State.afterStart_begins s u c _ (.inr hvl), Acted, if_neg hvl, hn, if_pos rfl]
    refine ⟨⟨h.begins _ _, ?_⟩, ?_, State.fget_of_rd (State.rd_begun_of_ne u c _ _ hs) _, ⟨rfl, rfl, rfl, rfl⟩⟩
    · rw [State.begun_frame, h.rest]
    · rw [State.begun_frame]

end

end Sys2Proof.Machine
end

section
/-!
PROOFS. The elements of a vector group and the bits of a mask group (R187 to R189, R241): what a result written to them leaves, and the effect of a vector
and of a mask instruction.
-/

namespace Sys2Proof.Machine

/-! ### Elements -/

/-- An element is 8, 16, 32 or 64 bits wide. -/
theorem elemBits_cases (t : Nat) : elemBits t = 8 ∨ elemBits t = 16 ∨ elemBits t = 32 ∨ elemBits t = 64 := by
  unfold elemBits
  split <;> simp

theorem elemBits_mod (t : Nat) : elemBits (t % 16) = elemBits t := by
  unfold elemBits
  rw [Nat.mod_mod]

/-- An element lies within one word, and two of them have no bit in common. -/
theorem elem_place {w : Nat} (hw : w = 8 ∨ w = 16 ∨ w = 32 ∨ w = 64) (i j : Nat) : i * w % 64 + w ≤ 64 ∧
    (i * w / 64 = j * w / 64 → i ≠ j → j * w % 64 + w ≤ i * w % 64 ∨ i * w % 64 + w ≤ j * w % 64) := by
  rcases hw with rfl | rfl | rfl | rfl <;> omega

theorem Ctx.elem_lt (x : Ctx) (r w i : Nat) : x.elem r w i < 2 ^ w := bits_lt _ _ _

theorem Ctx.elem_congr {x y : Ctx} (h : y.v = x.v) (r w i : Nat) : y.elem r w i = x.elem r w i := by
  unfold Ctx.elem
  rw [h]

theorem Ctx.maskBit_congr {x y : Ctx} (h : y.m = x.m) (m i : Nat) : y.maskBit m i = x.maskBit m i := by
  unfold Ctx.maskBit
  rw [h]

theorem Ctx.elem_putElem (x : Ctx) (r v : Nat) (b : Bool) {w : Nat} (hw : w = 8 ∨ w = 16 ∨ w = 32 ∨ w = 64) (i j : Nat) :
    (x.putElem r w i v b).elem r w j = if j = i then v % 2 ^ w else x.elem r w j := by
  obtain ⟨hin, hdis⟩ := elem_place hw i j
  unfold Ctx.elem Ctx.putElem
  dsimp only
  rw [SMap.get_put]
  by_cases hj : j = i
  · subst hj
    rw [if_pos rfl, if_pos rfl, bits_setBits_mod _ _ hin]
  · rw [if_neg hj]
    by_cases hk : i * w / 64 = j * w / 64
    · rw [if_pos (by omega), hk, bits_setBits_of_disjoint _ _ (hdis hk (Ne.symm hj))]
    · rw [if_neg (by omega)]

/-- The words of the registers below are as they were. -/
theorem Ctx.putElem_below (x : Ctx) (r w i v : Nat) (b : Bool) {k : Nat} (hk : k < 512 * r) :
    SMap.get 0 (x.putElem r w i v b).v k = SMap.get 0 x.v k := by
  unfold Ctx.putElem
  dsimp only
  rw [SMap.get_put, if_neg (by omega)]

/-! ### Results written to a vector group -/

/-- One result written, and one word marked. -/
def Ctx.putRes (r w : Nat) (res : Nat → Option ElemRes) (y : Ctx) (i : Nat) : Ctx :=
  match res i with
  | some e => y.putElem r w i e.val false
  | none => y

def Ctx.markRes (r w : Nat) (res : Nat → Option ElemRes) (y : Ctx) (i : Nat) : Ctx :=
  match res i with
  | some e => if e.bad then { y with vPoison := SMap.put false y.vPoison (512 * r + i * w / 64) true } else y
  | none => y

/-- From `x` to `y` vector registers, their poison and the errors found in them have changed, and nothing else. -/
def Ctx.VecOnly (x y : Ctx) : Prop := y = { x with v := y.v, vPoison := y.vPoison, vUe := y.vUe, vCe := y.vCe }

theorem Ctx.VecOnly.trans {x y z : Ctx} (h : x.VecOnly y) (k : y.VecOnly z) : x.VecOnly z := by
  unfold Ctx.VecOnly at *
  rw [k, h]

theorem Ctx.putRes_vecOnly (r w : Nat) (res : Nat → Option ElemRes) (y : Ctx) (i : Nat) : y.VecOnly (y.putRes r w res i) := by
  unfold Ctx.putRes
  split <;> rfl

theorem Ctx.markRes_vecOnly (r w : Nat) (res : Nat → Option ElemRes) (y : Ctx) (i : Nat) : y.VecOnly (y.markRes r w res i) := by
  unfold Ctx.markRes
  split
  · split <;> rfl
  · rfl

theorem Ctx.VecOnly.foldl {f : Ctx → Nat → Ctx} (hf : ∀ (y : Ctx) i, y.VecOnly (f y i)) (l : List Nat) (x : Ctx) : x.VecOnly (l.foldl f x) := by
  induction l generalizing x with
  | nil => rfl
  | cons i l ih => exact (hf x i).trans (ih _)

theorem Ctx.writeVec_eq (x : Ctx) (r w n : Nat) (res : Nat → Option ElemRes) : x.writeVec r w n res =
    (List.range n).foldl (Ctx.markRes r w res) ((List.range n).foldl (Ctx.putRes r w res) x) := rfl

theorem Ctx.writeVec_vecOnly (x : Ctx) (r w n : Nat) (res : Nat → Option ElemRes) : x.VecOnly (x.writeVec r w n res) := by
  rw [Ctx.writeVec_eq]
  exact (Ctx.VecOnly.foldl (Ctx.putRes_vecOnly r w res) _ x).trans (Ctx.VecOnly.foldl (Ctx.markRes_vecOnly r w res) _ _)

theorem Ctx.foldl_markRes_v (r w : Nat) (res : Nat → Option ElemRes) (l : List Nat) (y : Ctx) : (l.foldl (Ctx.markRes r w res) y).v = y.v := by
  induction l generalizing y with
  | nil => rfl
  | cons i l ih =>
    rw [List.foldl_cons, ih]
    unfold Ctx.markRes
    split
    · split <;> rfl
    · rfl

/-- The elements that the results are written to, one by one. -/
theorem Ctx.elem_foldl_putRes (x : Ctx) (r : Nat) {w : Nat} (hw : w = 8 ∨ w = 16 ∨ w = 32 ∨ w = 64) (res : Nat → Option ElemRes) (n j : Nat) :
    ((List.range n).foldl (Ctx.putRes r w res) x).elem r w j =
      if j < n then ((res j).map fun e => e.val % 2 ^ w).getD (x.elem r w j) else x.elem r w j := by
  induction n with
  | zero => simp
  | succ n ih =>
    rw [List.range_succ, List.foldl_append, List.foldl_cons, List.foldl_nil]
    have hput (y : Ctx) : (y.putRes r w res n).elem r w j = if j = n then ((res n).map fun e => e.val % 2 ^ w).getD (y.elem r w j) else y.elem r w j := by
      unfold Ctx.putRes
      split
      next e he => rw [Ctx.elem_putElem y r _ _ hw, he]; rfl
      next he => rw [he]; simp
    rw [hput, ih]
    by_cases hj : j = n
    · subst hj
      simp
    · simp only [if_neg hj]
      exact if_congr (by omega) rfl rfl

theorem Ctx.foldl_putRes_below (x : Ctx) (r w : Nat) (res : Nat → Option ElemRes) (l : List Nat) {k : Nat} (hk : k < 512 * r) :
    SMap.get 0 (l.foldl (Ctx.putRes r w res) x).v k = SMap.get 0 x.v k := by
  induction l generalizing x with
  | nil => rfl
  | cons i l ih =>
    rw [List.foldl_cons, ih]
    unfold Ctx.putRes
    split
    · exact Ctx.putElem_below _ _ _ _ _ _ hk
    · rfl

/-- What results written to a vector group leave. -/
theorem Ctx.writeVec_holds (x : Ctx) (r n : Nat) {w : Nat} (hw : w = 8 ∨ w = 16 ∨ w = 32 ∨ w = 64) (res : Nat → Option ElemRes) :
    (x.writeVec r w n res).holds x r w n fun i => (res i).map (·.val) := by
  have hv : (x.writeVec r w n res).v = ((List.range n).foldl (Ctx.putRes r w res) x).v := by rw [Ctx.writeVec_eq, Ctx.foldl_markRes_v]
  have honly := x.writeVec_vecOnly r w n res
  unfold Ctx.VecOnly at honly
  refine ⟨fun i hi => ?_, fun i hi => ?_, fun k hk => ?_, ?_, ?_⟩
  · rw [Ctx.elem_congr hv, Ctx.elem_foldl_putRes x r hw, if_pos hi, Option.map_map]
    rfl
  · rw [Ctx.elem_congr hv, Ctx.elem_foldl_putRes x r hw, if_neg (by omega)]
  · rw [hv, Ctx.foldl_putRes_below x r w res _ hk]
  · rw [honly]
  · rw [honly]

/-- Results free of poison leave registers free of poison. -/
theorem Ctx.writeVec_clean {x : Ctx} (hx : x.vPoison = []) (r w n : Nat) {res : Nat → Option ElemRes} (hres : ∀ i e, res i = some e → e.bad = false) :
    (x.writeVec r w n res).vPoison = [] := by
  have hput (l : List Nat) : ∀ y : Ctx, y.vPoison = [] → (l.foldl (Ctx.putRes r w res) y).vPoison = [] := by
    induction l with
    | nil => exact fun y hy => hy
    | cons i l ih =>
      refine fun y hy => ih _ ?_
      unfold Ctx.putRes
      split
      · unfold Ctx.putElem
        dsimp only
        rw [hy]
        rfl
      · exact hy
  have hmark (l : List Nat) : ∀ y : Ctx, y.vPoison = [] → (l.foldl (Ctx.markRes r w res) y).vPoison = [] := by
    induction l with
    | nil => exact fun y hy => hy
    | cons i l ih =>
      refine fun y hy => ih _ ?_
      unfold Ctx.markRes
      split
      next e he => rw [hres i e he]; exact hy
      · exact hy
  rw [Ctx.writeVec_eq]
  exact hmark _ _ (hput _ _ hx)

/-- Elements that hold the same values modulo the width hold what is named either way, and what the registers of another context hold, that holds too. -/
theorem Ctx.holds_congr {x y x' y' : Ctx} {d w n : Nat} {f g : Nat → Option Nat} (h : y.holds x d w n f) (hy : y'.SameRegs y) (hx : x'.SameRegs x)
    (hfg : ∀ i < n, (g i).map (· % 2 ^ w) = (f i).map (· % 2 ^ w)) : y'.holds x' d w n g := by
  obtain ⟨hin, hout, hlow, hm, hp⟩ := h
  refine ⟨fun i hi => ?_, fun i hi => ?_, fun k hk => ?_, ?_, ?_⟩
  · rw [Ctx.elem_congr hy.v, Ctx.elem_congr hx.v, hin i hi, hfg i hi]
  · rw [Ctx.elem_congr hy.v, Ctx.elem_congr hx.v, hout i hi]
  · rw [hy.v, hx.v, hlow k hk]
  · rw [hy.m, hx.m, hm]
  · rw [hy.mPoison, hx.mPoison, hp]

/-! ### Results written to a mask group -/

theorem Ctx.maskBit_putMask (x : Ctx) (m i j : Nat) (v b : Bool) : (x.putMask m i v b).maskBit m j = if j = i then v else x.maskBit m j := by
  unfold Ctx.maskBit Ctx.putMask
  dsimp only
  rw [SMap.get_put]
  by_cases hk : i / 64 = j / 64
  · rw [if_pos (by omega), bit, getLsbD_setBits _ _ _ _ (Nat.mod_lt j (by omega)), hk]
    by_cases hj : j = i
    · subst hj
      rw [if_pos rfl, if_pos (by omega), Nat.sub_self]
      cases v <;> rfl
    · rw [if_neg hj, if_neg (by omega), bit]
  · rw [if_neg (by omega), if_neg (by rintro rfl; exact hk rfl)]

/-- From `x` to `y` mask registers, their poison and the errors found in them have changed, and nothing else. -/
def Ctx.MaskOnly (x y : Ctx) : Prop := y = { x with m := y.m, mPoison := y.mPoison, vUe := y.vUe, vCe := y.vCe }

theorem Ctx.MaskOnly.trans {x y z : Ctx} (h : x.MaskOnly y) (k : y.MaskOnly z) : x.MaskOnly z := by
  unfold Ctx.MaskOnly at *
  rw [k, h]

theorem Ctx.MaskOnly.foldl {f : Ctx → Nat → Ctx} (hf : ∀ (y : Ctx) i, y.MaskOnly (f y i)) (l : List Nat) (x : Ctx) : x.MaskOnly (l.foldl f x) := by
  induction l generalizing x with
  | nil => rfl
  | cons i l ih => exact (hf x i).trans (ih _)

/-- One mask bit written, and one word marked. -/
def Ctx.putBit (m : Nat) (res : Nat → ElemRes) (y : Ctx) (i : Nat) : Ctx := y.putMask m i (decide ((res i).val ≠ 0)) false

def Ctx.markBit (m : Nat) (res : Nat → ElemRes) (y : Ctx) (i : Nat) : Ctx :=
  if (res i).bad then { y with mPoison := SMap.put false y.mPoison (64 * m + i / 64) true } else y

theorem Ctx.writeMask_eq (x : Ctx) (m n : Nat) (res : Nat → ElemRes) : x.writeMask m n res =
    (List.range n).foldl (Ctx.markBit m res) ((List.range n).foldl (Ctx.putBit m res) x) := rfl

theorem Ctx.markBit_maskOnly (m : Nat) (res : Nat → ElemRes) (y : Ctx) (i : Nat) : y.MaskOnly (y.markBit m res i) := by
  unfold Ctx.markBit
  split <;> rfl

theorem Ctx.writeMask_maskOnly (x : Ctx) (m n : Nat) (res : Nat → ElemRes) : x.MaskOnly (x.writeMask m n res) := by
  rw [Ctx.writeMask_eq]
  exact (Ctx.MaskOnly.foldl (f := Ctx.putBit m res) (fun _ _ => rfl) _ x).trans (Ctx.MaskOnly.foldl (Ctx.markBit_maskOnly m res) _ _)

theorem Ctx.foldl_markBit_m (m : Nat) (res : Nat → ElemRes) (l : List Nat) (y : Ctx) : (l.foldl (Ctx.markBit m res) y).m = y.m := by
  induction l generalizing y with
  | nil => rfl
  | cons i l ih =>
    rw [List.foldl_cons, ih]
    unfold Ctx.markBit
    split <;> rfl

theorem Ctx.maskBit_foldl_putBit (x : Ctx) (m : Nat) (res : Nat → ElemRes) (n j : Nat) :
    ((List.range n).foldl (Ctx.putBit m res) x).maskBit m j = if j < n then decide ((res j).val ≠ 0) else x.maskBit m j := by
  induction n with
  | zero => simp
  | succ n ih =>
    rw [List.range_succ, List.foldl_append, List.foldl_cons, List.foldl_nil, Ctx.putBit, Ctx.maskBit_putMask, ih]
    by_cases hj : j = n
    · subst hj
      simp
    · rw [if_neg hj]
      exact if_congr (by omega) rfl rfl

theorem Ctx.foldl_putBit_below (x : Ctx) (m : Nat) (res : Nat → ElemRes) (l : List Nat) {k : Nat} (hk : k < 64 * m) :
    SMap.get 0 (l.foldl (Ctx.putBit m res) x).m k = SMap.get 0 x.m k := by
  induction l generalizing x with
  | nil => rfl
  | cons i l ih =>
    rw [List.foldl_cons, ih]
    unfold Ctx.putBit Ctx.putMask
    dsimp only
    rw [SMap.get_put, if_neg (by omega)]

/-- What results written to a mask group leave, seen from a context with the same registers. -/
theorem Ctx.writeMask_holds {x x' y' : Ctx} {m n : Nat} {res : Nat → ElemRes} {f : Nat → Bool} (hy : y'.SameRegs (x.writeMask m n res))
    (hx : x'.SameRegs x) (hf : ∀ i < n, decide ((res i).val ≠ 0) = f i) : y'.maskHolds x' m n f := by
  have hm : y'.m = ((List.range n).foldl (Ctx.putBit m res) x).m := by rw [hy.m, Ctx.writeMask_eq, Ctx.foldl_markBit_m]
  have honly := x.writeMask_maskOnly m n res
  unfold Ctx.MaskOnly at honly
  refine ⟨fun i hi => ?_, fun i hi => ?_, fun k hk => ?_, ?_, ?_⟩
  · rw [Ctx.maskBit_congr hm, Ctx.maskBit_foldl_putBit, if_pos hi, hf i hi]
  · rw [Ctx.maskBit_congr hm, Ctx.maskBit_foldl_putBit, if_neg (by omega), Ctx.maskBit_congr hx.m]
  · rw [hm, Ctx.foldl_putBit_below x m res _ hk, hx.m]
  · rw [hy.v, hx.v, honly]
  · rw [hy.vPoison, hx.vPoison, honly]

/-! ### The effect of a vector and of a mask instruction -/

/-- Nothing else changes as poisoned words are counted. -/
theorem State.poisonSince_frame (s : State) (c : Nat) (x : Ctx) : s.poisonSince c x = { s with regs := (s.poisonSince c x).regs } := by
  unfold State.poisonSince
  dsimp only
  split <;> rfl

theorem State.rd_poisonSince_of_ne (s : State) (c : Nat) (x : Ctx) {q : Nat} (h : q ≠ Reg.fulCCheckCnt c) : (s.poisonSince c x).rd q = s.rd q := by
  unfold State.poisonSince
  dsimp only
  split
  · rfl
  · exact State.rd_fsat_of_ne _ _ _ h

theorem State.ctx_poisonSince (s : State) (c : Nat) (x : Ctx) (j : Nat) : (s.poisonSince c x).ctx j = s.ctx j := by
  rw [State.poisonSince_frame]
  rfl

/-- A context's registers replaced, the poison counted and the flags accrued. -/
def State.effected (s : State) (c : Nat) (y : Ctx) (fl : Nat) : State := ((s.setCtx c y).poisonSince c (s.ctx c)).accrue c fl

theorem State.ctx_effected (s : State) (c : Nat) (y : Ctx) (fl j : Nat) : (s.effected c y fl).ctx j = if j = c then y else s.ctx j := by
  change ((s.setCtx c y).poisonSince c (s.ctx c)).ctx j = _
  rw [State.ctx_poisonSince, State.ctx_setCtx]

theorem State.effected_frame (s : State) (c : Nat) (y : Ctx) (fl : Nat) :
    s.effected c y fl = { s with ctxs := (s.effected c y fl).ctxs, regs := (s.effected c y fl).regs } := by
  unfold State.effected State.accrue
  rw [State.poisonSince_frame]
  rfl

theorem State.cxFlags_effected (s : State) (c : Nat) (y : Ctx) (fl : Nat) : (s.effected c y fl).cxFlags c = (s.cxFlags c ||| fl) % 32 := by
  obtain ⟨-, -, -, -, hne⟩ := fulCFflags_ne c c
  have h : ((s.setCtx c y).poisonSince c (s.ctx c)).cxFlags c = s.cxFlags c :=
    State.fget_of_rd ((State.rd_poisonSince_of_ne _ _ _ hne).trans rfl) _
  unfold State.effected State.accrue
  rw [State.cxFlags, State.fget_fset _ _ _ (by decide), h]
  rfl

/-- The effect on a context that has lost the head of its queue. -/
theorem State.effected_affects (s : State) (c : Nat) (r : List FulOp) {y : Ctx} (fl : Nat)
    (hy : ∃ v vp m mp ue ce, y = { s.ctx c with queue := r, v := v, vPoison := vp, m := m, mPoison := mp, vUe := ue, vCe := ce }) (n : Nat) :
    Affected s (((s.dequeued c r).effected c y fl).draw n) c r := by
  refine ⟨?_, fun j hj => ?_, ?_, fun q hq hf => ?_⟩
  · change ∃ v vp m mp ue ce, ((s.dequeued c r).effected c y fl).ctx c = _
    rw [State.ctx_effected, if_pos rfl]
    exact hy
  · change ((s.dequeued c r).effected c y fl).ctx j = _
    rw [State.ctx_effected, if_neg hj, State.dequeued, State.ctx_modCtx_of_ne _ _ hj]
  · unfold State.draw
    rw [State.effected_frame]
    rfl
  · change (State.accrue _ _ _).rd q = _
    unfold State.accrue
    rw [State.rd_fset_of_ne _ _ _ hf, State.rd_poisonSince_of_ne _ _ _ hq]
    rfl

theorem State.laneChecks_sound {s : State} (h : s.latent.checks = []) (c : Nat) (o : FulOp) : s.laneChecks c o = ([], s) := if_pos h

/-- The effect of a vector instruction where no check fails. -/
theorem State.vecEffect_sound {s : State} (h : s.latent.checks = []) (c : Nat) (o : FulOp) (res : Ctx → Nat → Option ElemRes) :
    s.vecEffect c o res =
      (s.effected c ((s.ctx c).writeVec (fwD o.word) (elemBits o.vtype) o.vl (res (s.ctx c))) (resFlags o.vl (res (s.ctx c))), some o) := by
  unfold State.vecEffect
  rw [State.laneChecks_sound h]
  have hid (e : ElemRes) : ({ e with bad := e.bad || false } : ElemRes) = e := by simp
  simp only [List.contains_nil, hid, Option.map_id']
  rfl

/-- The effect of a mask instruction where no check fails. -/
theorem State.maskEffect_sound {s : State} (h : s.latent.checks = []) (c : Nat) (o : FulOp) (res : Ctx → Nat → ElemRes) :
    s.maskEffect c o res =
      (s.effected c ((s.ctx c).writeMask (fwD o.word % 8) o.vl (res (s.ctx c))) (resFlags o.vl fun i => some (res (s.ctx c) i)), some o) := by
  unfold State.maskEffect
  rw [State.laneChecks_sound h]
  simp only [List.contains_nil, Bool.or_false]
  rfl

end Sys2Proof.Machine
end

section
/-!
PROOFS. The arithmetic of elements (R190, R199): the integer functions of VI, the byte products of VDOT, and the tree of a reduction.
-/

namespace Sys2Proof.Machine

/-! ### Integers of a TYPE -/

theorem elemBits_pos (t : Nat) : 0 < elemBits t := by
  rcases elemBits_cases t with h | h | h | h <;> omega

theorem two_pow_elemBits (t : Nat) : 2 ^ elemBits t = 2 * 2 ^ (elemBits t - 1) := by
  have h := elemBits_pos t
  rw [← Nat.pow_succ']
  congr 1
  omega

theorem wrapTo_cast (t : Nat) (v : Int) : ((wrapTo t v : Nat) : Int) = v % ((2 ^ elemBits t : Nat) : Int) :=
  Int.toNat_of_nonneg (Int.emod_nonneg _ (by positivity))

theorem wrapTo_lt (t : Nat) (v : Int) : wrapTo t v < 2 ^ elemBits t := by
  have h := Int.emod_lt_of_pos v (b := ((2 ^ elemBits t : Nat) : Int)) (by positivity)
  rw [← wrapTo_cast] at h
  exact_mod_cast h

/-- A number wraps to what it is congruent to. -/
theorem wrapTo_eq_mod {t n : Nat} {v : Int} (h : v ≡ n [ZMOD ((2 ^ elemBits t : Nat) : Int)]) : wrapTo t v = n % 2 ^ elemBits t := by
  have hc : ((wrapTo t v : Nat) : Int) = ((n % 2 ^ elemBits t : Nat) : Int) := by
    rw [wrapTo_cast, h, Int.natCast_mod]
  exact_mod_cast hc

theorem signed_modEq (w v : Nat) : signed w v ≡ v [ZMOD ((2 ^ w : Nat) : Int)] := by
  have hv : ((v % 2 ^ w : Nat) : Int) ≡ v [ZMOD ((2 ^ w : Nat) : Int)] := by
    rw [Int.natCast_mod]
    exact Int.mod_modEq _ _
  unfold signed
  split
  · exact hv
  · exact (Int.sub_emod_right _ _).trans hv

/-- An element read as an integer is congruent to its bits. -/
theorem elemInt_modEq (t x : Nat) : elemInt t x ≡ x [ZMOD ((2 ^ elemBits t : Nat) : Int)] := by
  unfold elemInt
  split
  · exact signed_modEq _ _
  · rw [Int.natCast_mod]
    exact Int.mod_modEq _ _

theorem elemInt_signed {t : Nat} (h : t < 4) (x : Nat) : elemInt t x = signed (elemBits t) x := if_pos (decide_eq_true h)

theorem elemInt_unsigned {t x : Nat} (h : 4 ≤ t) (hx : x < 2 ^ elemBits t) : elemInt t x = x := by
  unfold elemInt tySigned
  rw [decide_eq_false (by omega), if_neg Bool.false_ne_true, Nat.mod_eq_of_lt hx]

/-- It lies in the range of its TYPE. -/
theorem elemInt_range (t x : Nat) : tyMin t ≤ elemInt t x ∧ elemInt t x ≤ tyMax t := by
  have hlt : x % 2 ^ elemBits t < 2 ^ elemBits t := Nat.mod_lt _ (Nat.two_pow_pos _)
  have htwo := two_pow_elemBits t
  unfold elemInt tyMin tyMax signed
  generalize 2 ^ (elemBits t - 1) = h at *
  generalize 2 ^ elemBits t = m at *
  generalize x % m = y at *
  split
  · split <;> omega
  · omega

/-- A number in the range of a TYPE is read as it was wrapped. -/
theorem elemInt_wrapTo {t : Nat} {v : Int} (h1 : tyMin t ≤ v) (h2 : v ≤ tyMax t) : elemInt t (wrapTo t v) = v := by
  have htwo := two_pow_elemBits t
  have hpos : 0 < 2 ^ (elemBits t - 1) := Nat.two_pow_pos _
  have hcast := wrapTo_cast t v
  have hlt := wrapTo_lt t v
  have hmod : v % ((2 ^ elemBits t : Nat) : Int) = if 0 ≤ v then v else v + ((2 ^ elemBits t : Nat) : Int) := by
    unfold tyMin tyMax at *
    split
    · exact Int.emod_eq_of_lt ‹_› (by split at h2 <;> omega)
    · rw [← Int.add_emod_right, Int.emod_eq_of_lt] <;> split at h1 <;> omega
  rw [hmod] at hcast
  unfold elemInt signed
  unfold tyMin tyMax at *
  rw [Nat.mod_eq_of_lt hlt]
  generalize wrapTo t v = n at *
  generalize 2 ^ (elemBits t - 1) = h at *
  generalize 2 ^ elemBits t = m at *
  split
  · simp only [*, if_true] at h1 h2
    split at hcast <;> split <;> omega
  · simp only [*] at h1 h2
    split at hcast <;> simp at h1 h2 <;> omega

theorem wrapTo_elemInt {t x : Nat} (hx : x < 2 ^ elemBits t) : wrapTo t (elemInt t x) = x :=
  (wrapTo_eq_mod (elemInt_modEq t x)).trans (Nat.mod_eq_of_lt hx)

/-! ### The integer functions (R190) -/

/-- Sums, differences and products wrap. -/
theorem viFn_wraps {t x y : Nat} (hx : x < 2 ^ elemBits t) (hy : y < 2 ^ elemBits t) :
    viFn t 0x0 x y = (x + y) % 2 ^ elemBits t ∧ viFn t 0x1 x y = (x + (2 ^ elemBits t - y)) % 2 ^ elemBits t ∧
      viFn t 0x2 x y = (y + (2 ^ elemBits t - x)) % 2 ^ elemBits t ∧ viFn t 0x3 x y = x * y % 2 ^ elemBits t := by
  have ha := elemInt_modEq t x
  have hb := elemInt_modEq t y
  have hsub {a b : Int} {x y : Nat} (ha : a ≡ x [ZMOD ((2 ^ elemBits t : Nat) : Int)]) (hb : b ≡ y [ZMOD ((2 ^ elemBits t : Nat) : Int)])
      (hy : y < 2 ^ elemBits t) : wrapTo t (a - b) = (x + (2 ^ elemBits t - y)) % 2 ^ elemBits t := by
    refine wrapTo_eq_mod ((ha.sub hb).trans ?_)
    rw [Nat.cast_add, Nat.cast_sub (Nat.le_of_lt hy), add_sub_left_comm]
    exact (Int.add_emod_left _ _).symm
  exact ⟨wrapTo_eq_mod (by rw [Nat.cast_add]; exact ha.add hb), hsub ha hb hy, hsub hb ha hx,
    wrapTo_eq_mod (by rw [Nat.cast_mul]; exact ha.mul hb)⟩

/-- The functions on the bits of two elements. -/
theorem viFn_bitwise {t x y : Nat} (hx : x < 2 ^ elemBits t) (hy : y < 2 ^ elemBits t) :
    viFn t 0x7 x y = x &&& y ∧ viFn t 0x8 x y = x ||| y ∧ viFn t 0x9 x y = x ^^^ y := by
  have hand : viFn t 0x7 x y = (x % 2 ^ elemBits t) &&& (y % 2 ^ elemBits t) := rfl
  have hor : viFn t 0x8 x y = (x % 2 ^ elemBits t) ||| (y % 2 ^ elemBits t) := rfl
  have hxor : viFn t 0x9 x y = (x % 2 ^ elemBits t) ^^^ (y % 2 ^ elemBits t) := rfl
  rw [hand, hor, hxor, Nat.mod_eq_of_lt hx, Nat.mod_eq_of_lt hy]
  exact ⟨rfl, rfl, rfl⟩

/-- The shifts, by the low bits of the second element. -/
theorem viFn_shifts {t x : Nat} (hx : x < 2 ^ elemBits t) (y : Nat) :
    viFn t 0xA x y = x * 2 ^ (y % elemBits t) % 2 ^ elemBits t ∧ viFn t 0xB x y = x / 2 ^ (y % elemBits t) ∧
      (viFn t 0xC x y : Int) = (signed (elemBits t) x / (2 ^ (y % elemBits t) : Nat)) % (2 ^ elemBits t : Nat) := by
  have hshr : viFn t 0xB x y = x % 2 ^ elemBits t / 2 ^ (y % elemBits t) := rfl
  rw [hshr, Nat.mod_eq_of_lt hx]
  exact ⟨rfl, rfl, wrapTo_cast _ _⟩

theorem wrapTo_natCast (t n : Nat) : wrapTo t (n : Int) = n % 2 ^ elemBits t := wrapTo_eq_mod (Int.ModEq.refl _)

/-- Saturation brings a number into the range of its TYPE. -/
theorem elemInt_saturate (t : Nat) (v : Int) : elemInt t (saturate t v) = max (tyMin t) (min (tyMax t) v) := by
  have hle : tyMin t ≤ tyMax t := (elemInt_range t 0).1.trans (elemInt_range t 0).2
  exact elemInt_wrapTo (le_max_left _ _) (max_le hle (min_le_left _ _))

/-- The functions of unsigned elements. -/
theorem viFn_unsigned {t x y : Nat} (ht : 4 ≤ t) (hx : x < 2 ^ elemBits t) (hy : y < 2 ^ elemBits t) :
    viFn t 0x4 x y = x * y / 2 ^ elemBits t ∧ viFn t 0x5 x y = min x y ∧ viFn t 0x6 x y = max x y ∧
      viFn t 0xD x y = min (2 ^ elemBits t - 1) (x + y) ∧ viFn t 0xE x y = x - y ∧ viFn t 0xF x y = max x y - min x y := by
  have ha := elemInt_unsigned ht hx
  have hb := elemInt_unsigned ht hy
  have hpos : 0 < 2 ^ elemBits t := Nat.two_pow_pos _
  have hmin : tyMin t = 0 := by
    unfold tyMin tySigned
    rw [decide_eq_false (by omega)]
    rfl
  have hmax : tyMax t = ((2 ^ elemBits t : Nat) : Int) - 1 := by
    unfold tyMax tySigned
    rw [decide_eq_false (by omega)]
    rfl
  have hwrap {n : Nat} (hn : n < 2 ^ elemBits t) {v : Int} (h : v = n) : wrapTo t v = n := by
    rw [h, wrapTo_natCast, Nat.mod_eq_of_lt hn]
  have hsat {n : Nat} (hn : n < 2 ^ elemBits t) {v : Int} (h : max (tyMin t) (min (tyMax t) v) = n) : saturate t v = n := hwrap hn h
  refine ⟨hwrap (Nat.div_lt_of_lt_mul (Nat.mul_lt_mul'' hx hy)) ?_, hwrap (by omega) ?_, hwrap (by omega) ?_, hsat (by omega) ?_, hsat (by omega) ?_,
    hwrap (by omega) ?_⟩ <;> rw [ha, hb]
  · rw [← Nat.cast_mul, ← Int.natCast_ediv]
  · exact (Nat.cast_min _ _).symm
  · exact (Nat.cast_max _ _).symm
  · rw [hmin, hmax]
    omega
  · rw [hmin, hmax]
    omega
  · omega

/-- The functions of signed elements. -/
theorem viFn_signed {t x y : Nat} (ht : t < 4) (hx : x < 2 ^ elemBits t) (hy : y < 2 ^ elemBits t) :
    let w := elemBits t
    let a := signed w x
    let b := signed w y
    let h : Int := 2 ^ (w - 1)
    (viFn t 0x4 x y : Int) = a * b / (2 ^ w : Nat) % (2 ^ w : Nat) ∧ viFn t 0x5 x y = (if a ≤ b then x else y) ∧
      viFn t 0x6 x y = (if a ≤ b then y else x) ∧ signed w (viFn t 0xD x y) = max (-h) (min (h - 1) (a + b)) ∧
      signed w (viFn t 0xE x y) = max (-h) (min (h - 1) (a - b)) ∧ (viFn t 0xF x y : Int) = (a - b).natAbs % (2 ^ w : Nat) := by
  intro w a b h
  have ha : elemInt t x = a := elemInt_signed ht x
  have hb : elemInt t y = b := elemInt_signed ht y
  have hsig : tySigned t = true := decide_eq_true ht
  have hmin : tyMin t = -h := by
    unfold tyMin
    rw [if_pos hsig]
    push_cast
    rfl
  have hmax : tyMax t = h - 1 := by
    unfold tyMax
    rw [if_pos hsig]
    push_cast
    rfl
  have hsat (v : Int) : signed w (saturate t v) = max (-h) (min (h - 1) v) := by
    rw [← elemInt_signed ht, elemInt_saturate, hmin, hmax]
  have hlow : viFn t 0x5 x y = wrapTo t (min (elemInt t x) (elemInt t y)) := rfl
  have hhigh : viFn t 0x6 x y = wrapTo t (max (elemInt t x) (elemInt t y)) := rfl
  refine ⟨?_, ?_, ?_, ?_, ?_, ?_⟩
  · rw [← ha, ← hb]
    exact wrapTo_cast _ _
  · rw [hlow, ← ha, ← hb, min_def]
    split
    · exact wrapTo_elemInt hx
    · exact wrapTo_elemInt hy
  · rw [hhigh, ← ha, ← hb, max_def]
    split
    · exact wrapTo_elemInt hy
    · exact wrapTo_elemInt hx
  · rw [← ha, ← hb]
    exact hsat _
  · rw [← ha, ← hb]
    exact hsat _
  · rw [← ha, ← hb]
    exact wrapTo_cast _ _

/-! ### Byte products (R197) -/

/-- The sum of the byte products of VDOT, with the old element. -/
theorem dot4_eq {t : Nat} (ht : t = 2 ∨ t = 6) (acc x y : Nat) :
    let byte (v k : Nat) : Int := if t = 2 then signed 8 (v / 2 ^ (8 * k)) else (v / 2 ^ (8 * k) % 256 : Nat)
    let sum : Int := acc + byte x 0 * byte y 0 + byte x 1 * byte y 1 + byte x 2 * byte y 2 + byte x 3 * byte y 3
    dot4 t acc x y = (sum % (2 ^ 32 : Nat)).toNat := by
  intro byte sum
  have hw : elemBits t = 32 := by rcases ht with rfl | rfl <;> rfl
  have hbyte (v k : Nat) : byteOf (tySigned t) v k = byte v k := by rcases ht with rfl | rfl <;> rfl
  have hacc := elemInt_modEq t acc
  rw [hw] at hacc
  have hsum : elemInt t acc + (([0, 1, 2, 3].map fun k => byteOf (tySigned t) x k * byteOf (tySigned t) y k).foldl (· + ·) 0) ≡ sum
      [ZMOD ((2 ^ 32 : Nat) : Int)] := by
    simp only [hbyte, List.map_cons, List.map_nil, List.foldl_cons, List.foldl_nil, zero_add]
    rw [← add_assoc, ← add_assoc, ← add_assoc]
    exact ((((hacc.add_right _).add_right _).add_right _).add_right _)
  unfold dot4 wrapTo
  dsimp only
  rw [hw, hsum]

/-! ### A reduction as a tree (R199) -/

/-- Adjacent elements combined. -/
def pairUp (op : Nat → Nat → Nat) : List Nat → List Nat
  | x :: y :: r => op x y :: pairUp op r
  | l => l

theorem treeLevel_some (op : Nat → Nat → Nat × Nat) (l : List Nat) :
    (treeLevel op (l.map some)).1 = (pairUp (fun x y => (op x y).1) l).map some := by
  induction l using pairUp.induct with
  | case1 x y r ih => simp [treeLevel, pairUp, ih]
  | case2 l h =>
    match l with
    | [] => rfl
    | [_] => rfl
    | x :: y :: r => exact absurd rfl (h x y r)

/-- An operation that is associative, with an identity on the left, on the numbers of a set that it does not leave. -/
structure Reduces (op : Nat → Nat → Nat) (e : Nat) (p : Nat → Prop) : Prop where
  id     : p e
  closed : ∀ x y, p x → p y → p (op x y)
  left   : ∀ x, p x → op e x = x
  assoc  : ∀ x y z, p x → p y → p z → op (op x y) z = op x (op y z)

section
variable {op : Nat → Nat → Nat} {e : Nat} {p : Nat → Prop} (h : Reduces op e p)
include h

theorem Reduces.pairUp_mem {l : List Nat} (hl : ∀ x ∈ l, p x) : ∀ x ∈ pairUp op l, p x := by
  induction l using pairUp.induct with
  | case1 x y r ih =>
    simp only [List.forall_mem_cons] at hl
    obtain ⟨hx, hy, hr⟩ := hl
    exact List.forall_mem_cons.mpr ⟨h.closed x y hx hy, ih hr⟩
  | case2 l hn =>
    rw [pairUp]
    · exact hl
    · exact hn

/-- Combining adjacent elements leaves the result over all elements in order. -/
theorem Reduces.foldl_pairUp {l : List Nat} (hl : ∀ x ∈ l, p x) {a : Nat} (ha : p a) : (pairUp op l).foldl op a = l.foldl op a := by
  induction l using pairUp.induct generalizing a with
  | case1 x y r ih =>
    simp only [List.forall_mem_cons] at hl
    obtain ⟨hx, hy, hr⟩ := hl
    rw [pairUp, List.foldl_cons, ih hr (h.closed a _ ha (h.closed x y hx hy)), List.foldl_cons, List.foldl_cons, h.assoc a x y ha hx hy]
  | case2 l hn =>
    rw [pairUp]
    exact hn

end

theorem pairUp_length (op : Nat → Nat → Nat) (l : List Nat) : (pairUp op l).length = (l.length + 1) / 2 := by
  induction l using pairUp.induct with
  | case1 x y r ih =>
    rw [pairUp, List.length_cons, ih]
    simp only [List.length_cons]
    omega
  | case2 l hn =>
    match l with
    | [] => rfl
    | [_] => simp [pairUp]
    | x :: y :: r => exact absurd rfl (hn x y r)

/-- A tree of enough levels gives the result over the elements in order. -/
theorem treeReduce_eq_foldl {op : Nat → Nat → Nat × Nat} {e : Nat} {p : Nat → Prop} (h : Reduces (fun x y => (op x y).1) e p) {n : Nat} {l : List Nat}
    (hl : ∀ x ∈ l, p x) (hne : l ≠ []) (hn : l.length ≤ 2 ^ n) :
    (treeReduce op n (l.map some)).1 = some (l.foldl (fun x y => (op x y).1) e) := by
  induction n generalizing l with
  | zero =>
    match l with
    | [] => exact absurd rfl hne
    | [x] => simp [treeReduce, h.left x (hl x (by simp))]
    | x :: y :: r => simp at hn
  | succ n ih =>
    have hlen := pairUp_length (fun x y => (op x y).1) l
    have hpos : 0 < l.length := List.length_pos_of_ne_nil hne
    have hstep : (treeReduce op (n + 1) (l.map some)).1 = (treeReduce op n (treeLevel op (l.map some)).1).1 := rfl
    rw [hstep, treeLevel_some, ih (h.pairUp_mem hl) ?_ ?_, h.foldl_pairUp hl h.id]
    · exact List.ne_nil_of_length_pos (by omega)
    · rw [Nat.pow_succ] at hn
      omega

/-- The levels of a reduction's tree reach every element. -/
theorem le_two_pow_clog2 (n : Nat) : n ≤ 2 ^ clog2 n := by
  unfold clog2
  split
  · exact le_trans ‹_› (Nat.one_le_two_pow)
  · have := Nat.lt_log2_self (n := n - 1)
    omega

/-- An operation that agrees with such a one on the set. -/
theorem Reduces.congr {f g : Nat → Nat → Nat} {e : Nat} {p : Nat → Prop} (h : Reduces g e p) (hfg : ∀ x y, p x → p y → f x y = g x y) :
    Reduces f e p := by
  refine ⟨h.id, fun x y hx hy => ?_, fun x hx => ?_, fun x y z hx hy hz => ?_⟩
  · rw [hfg x y hx hy]
    exact h.closed x y hx hy
  · rw [hfg e x h.id hx, h.left x hx]
  · rw [hfg x y hx hy, hfg y z hy hz, hfg _ z (h.closed x y hx hy) hz, hfg x _ hx (h.closed y z hy hz), h.assoc x y z hx hy hz]

theorem land_reduces (w : Nat) : Reduces (· &&& ·) (2 ^ w - 1) (· < 2 ^ w) :=
  ⟨Nat.sub_lt (Nat.two_pow_pos w) Nat.one_pos, fun _ _ _ hy => Nat.and_lt_two_pow _ hy,
    fun x hx => by rw [Nat.land_comm, Nat.and_two_pow_sub_one_of_lt_two_pow hx], fun x y z _ _ _ => Nat.land_assoc x y z⟩

theorem lor_reduces (w : Nat) : Reduces (· ||| ·) 0 (· < 2 ^ w) :=
  ⟨Nat.two_pow_pos w, fun _ _ hx hy => Nat.or_lt_two_pow hx hy, fun x _ => Nat.zero_or x, fun x y z _ _ _ => Nat.lor_assoc x y z⟩

theorem xor_reduces (w : Nat) : Reduces (· ^^^ ·) 0 (· < 2 ^ w) :=
  ⟨Nat.two_pow_pos w, fun _ _ hx hy => Nat.xor_lt_two_pow hx hy, fun x _ => Nat.zero_xor x, fun x y z _ _ _ => Nat.xor_assoc x y z⟩

theorem add_reduces (w : Nat) : Reduces (fun x y => (x + y) % 2 ^ w) 0 (· < 2 ^ w) :=
  ⟨Nat.two_pow_pos w, fun _ _ _ _ => Nat.mod_lt _ (Nat.two_pow_pos w), fun x hx => by rw [Nat.zero_add, Nat.mod_eq_of_lt hx],
    fun x y z _ _ _ => by rw [Nat.mod_add_mod, Nat.add_mod_mod, Nat.add_assoc]⟩

/-- The lesser of two elements of a TYPE. -/
theorem min_reduces (t : Nat) : Reduces (fun x y => wrapTo t (min (elemInt t x) (elemInt t y))) (wrapTo t (tyMax t)) (· < 2 ^ elemBits t) := by
  have hfits : tyMin t ≤ tyMax t := (elemInt_range t 0).1.trans (elemInt_range t 0).2
  have hmin (x y : Nat) : elemInt t (wrapTo t (min (elemInt t x) (elemInt t y))) = min (elemInt t x) (elemInt t y) :=
    elemInt_wrapTo (le_min (elemInt_range t x).1 (elemInt_range t y).1) ((min_le_left _ _).trans (elemInt_range t x).2)
  refine ⟨wrapTo_lt _ _, fun x y _ _ => wrapTo_lt _ _, fun x hx => ?_, fun x y z _ _ _ => ?_⟩
  · rw [elemInt_wrapTo hfits (le_refl _), min_eq_right (elemInt_range t x).2, wrapTo_elemInt hx]
  · rw [hmin, hmin, min_assoc]

/-- The greater of two elements of a TYPE. -/
theorem max_reduces (t : Nat) : Reduces (fun x y => wrapTo t (max (elemInt t x) (elemInt t y))) (wrapTo t (tyMin t)) (· < 2 ^ elemBits t) := by
  have hfits : tyMin t ≤ tyMax t := (elemInt_range t 0).1.trans (elemInt_range t 0).2
  have hmax (x y : Nat) : elemInt t (wrapTo t (max (elemInt t x) (elemInt t y))) = max (elemInt t x) (elemInt t y) :=
    elemInt_wrapTo ((elemInt_range t x).1.trans (le_max_left _ _)) (max_le (elemInt_range t x).2 (elemInt_range t y).2)
  refine ⟨wrapTo_lt _ _, fun x y _ _ => wrapTo_lt _ _, fun x hx => ?_, fun x y z _ _ _ => ?_⟩
  · rw [elemInt_wrapTo (le_refl _) hfits, max_eq_right (elemInt_range t x).1, wrapTo_elemInt hx]
  · rw [hmax, hmax, max_assoc]

/-- SUM, MIN, MAX, AND, OR and XOR are such operations, with the identities that R199 gives. -/
theorem redOp_reduces (t rm : Nat) {f : Nat} (hf : f < 6) :
    Reduces (fun x y => (redOp t rm f x y).1) (redIdentity t rm f) (· < 2 ^ elemBits t) := by
  obtain rfl | rfl | rfl | rfl | rfl | rfl : f = 0 ∨ f = 1 ∨ f = 2 ∨ f = 3 ∨ f = 4 ∨ f = 5 := by omega
  · exact (add_reduces (elemBits t)).congr fun x y hx hy => (viFn_wraps hx hy).1
  · exact min_reduces t
  · exact max_reduces t
  · exact (land_reduces (elemBits t)).congr fun x y hx hy => (viFn_bitwise hx hy).1
  · exact (lor_reduces (elemBits t)).congr fun x y hx hy => (viFn_bitwise hx hy).2.1
  · exact (xor_reduces (elemBits t)).congr fun x y hx hy => (viFn_bitwise hx hy).2.2

end Sys2Proof.Machine
end

section
/-!
PROOFS. The vector arithmetic of Fuller (Obligations.VectorElementResults).
-/

namespace Sys2Proof.Machine

/-! ### A vector or mask instruction acts -/

theorem fwRegister_plain {w : BitVec 32} (h : (fwSC w = 0 ∧ fwMAJ w ≠ 0xE) ∨ (fwSC w = 1 ∧ (fwMAJ w = 4 ∨ fwMAJ w = 5))) :
    fwElementwise w = true ∧ fwIsStrm w = false ∧ fwIsRegMem w = false := by
  unfold fwElementwise fwIsStrm fwIsRegMem
  rcases h with ⟨hsc, hmaj⟩ | ⟨hsc, hmaj | hmaj⟩ <;> simp [hsc, hmaj]

theorem FulOp.accesses_register {o : FulOp} (h : (fwSC o.word = 0 ∧ fwMAJ o.word ≠ 0xE) ∨ (fwSC o.word = 1 ∧ (fwMAJ o.word = 4 ∨ fwMAJ o.word = 5))) :
    o.accesses = false := by
  obtain ⟨-, hstrm, hmem⟩ := fwRegister_plain h
  simp [FulOp.accesses, hstrm, hmem]

/-- What an instruction on registers, with its results in place `y` and its flags `fl`, comes to once it has started. -/
structure ActsWith (s : State) (c : Nat) (o : FulOp) (r : List FulOp) (i : Instr) (y : Ctx) (fl n : Nat) (t : State) : Prop where
  exec  : exec i s = .next t
  acted : Acted s t c o r
  free  : t.free = s.free + n
  flags : t.cxFlags c = (s.cxFlags c ||| fl) % 32
  regs  : (t.ctx c).SameRegs y

section
variable {s : State} {c : Nat} {o : FulOp} {r : List FulOp} {i : Instr} {is : BitVec 32 → Bool} {eff : State → FulOp → State × Option FulOp}
  (h : s.starts c o r) (hf : s.faultless c)
  (hreg : (fwSC o.word = 0 ∧ fwMAJ o.word ≠ 0xE) ∨ (fwSC o.word = 1 ∧ (fwMAJ o.word = 4 ∨ fwMAJ o.word = 5)))
  (hx : exec i s = .next (s.startHead c is eff)) (his : is o.word = true)
include h hf hreg hx his

theorem starts_register {y : Ctx} {fl n : Nat}
    (hy : ∃ v vp m mp ue ce, y = { s.ctx c with queue := r, v := v, vPoison := vp, m := m, mPoison := mp, vUe := ue, vCe := ce })
    (heff : eff (s.dequeued c r) (s.keepOld c o) = (((s.dequeued c r).effected c y fl).draw n, some (s.keepOld c o))) :
    ∃ t, ActsWith s c o r i y fl n t := by
  obtain ⟨hacted, hfree, hflags, hregs⟩ := (s.effected_affects c r fl hy n).acts (o := o) (fwRegister_plain hreg).1
  have hu : (((s.dequeued c r).effected c y fl).draw n).ctx c = y := ((s.dequeued c r).ctx_effected c y fl c).trans (if_pos rfl)
  have hdraw : (((s.dequeued c r).effected c y fl).draw n).free = s.free + n := by
    rw [State.effected_frame]
    rfl
  rw [← heff] at hacted hfree hflags hregs
  rw [hu] at hregs
  rw [← State.startHead_starts h hf his (.inl (FulOp.accesses_register hreg))] at hacted hfree hflags hregs
  exact ⟨_, hx, hacted, hfree.trans hdraw, hflags.trans (State.cxFlags_effected _ _ _ _), hregs⟩

/-- A vector instruction that starts. -/
theorem starts_vector {res : FulOp → Ctx → Nat → Option ElemRes} {n : Nat}
    (heff : let p := s.keepOld c o
      eff (s.dequeued c r) p = (((s.dequeued c r).vecEffect c p (res p)).1.draw n, ((s.dequeued c r).vecEffect c p (res p)).2))
    (hold : ∀ old bad, res { o with old := old, oldBad := bad } = res o) :
    ∃ t, ActsWith s c o r i (((s.ctx c).dequeued r).writeVec (fwD o.word) (elemBits o.vtype) o.vl (res o ((s.ctx c).dequeued r)))
      (resFlags o.vl (res o ((s.ctx c).dequeued r))) n t := by
  obtain ⟨old, bad, hk⟩ := s.keepOld_eq c o
  have honly := Ctx.writeVec_vecOnly ((s.ctx c).dequeued r) (fwD o.word) (elemBits o.vtype) o.vl (res o ((s.ctx c).dequeued r))
  refine starts_register h hf hreg hx his ⟨_, _, _, _, _, _, honly⟩ ?_
  rw [heff, State.vecEffect_sound (s := s.dequeued c r) hf.1, State.ctx_dequeued, hk, hold]

/-- A mask instruction that starts. -/
theorem starts_mask {res : FulOp → Ctx → Nat → ElemRes} (heff : eff (s.dequeued c r) (s.keepOld c o) = (s.dequeued c r).maskEffect c (s.keepOld c o) (res (s.keepOld c o)))
    (hold : ∀ old bad, res { o with old := old, oldBad := bad } = res o) :
    ∃ t, ActsWith s c o r i (((s.ctx c).dequeued r).writeMask (fwD o.word % 8) o.vl (res o ((s.ctx c).dequeued r)))
      (resFlags o.vl fun j => some (res o ((s.ctx c).dequeued r) j)) 0 t := by
  obtain ⟨old, bad, hk⟩ := s.keepOld_eq c o
  have honly := Ctx.writeMask_maskOnly ((s.ctx c).dequeued r) (fwD o.word % 8) o.vl (res o ((s.ctx c).dequeued r))
  refine starts_register h hf hreg hx his ⟨_, _, _, _, _, _, honly⟩ ?_
  rw [heff, State.maskEffect_sound (s := s.dequeued c r) hf.1, State.ctx_dequeued, hk, hold]
  rfl

end

/-! ### Results in the words of the statement -/

/-- The result of an element is the value and the flags named, or both name none; it is free of poison where the registers are. -/
def ElemRes.Means (w : Nat) (x : Ctx) (e : Option ElemRes) (p : Option (Nat × Nat)) : Prop :=
  (e.map fun e => e.val % 2 ^ w) = (p.map fun p => p.1 % 2 ^ w) ∧ e.map (·.fl) = p.map (·.2) ∧
    (x.vPoison = [] → x.mPoison = [] → ∀ e', e = some e' → e'.bad = false)

theorem Ctx.elemBad_clean {x : Ctx} (h : x.vPoison = []) (r w i : Nat) : x.elemBad r w i = false := by
  unfold Ctx.elemBad
  rw [h]
  rfl

theorem Ctx.maskBad_clean {x : Ctx} (h : x.mPoison = []) (m i : Nat) : x.maskBad m i = false := by
  unfold Ctx.maskBad
  rw [h]
  rfl

/-- A result that is always written. -/
theorem ElemRes.means_some {w : Nat} {x : Ctx} {e : ElemRes} {p : Nat × Nat} (hv : e.val % 2 ^ w = p.1 % 2 ^ w) (hfl : e.fl = p.2)
    (hbad : x.vPoison = [] → x.mPoison = [] → e.bad = false) : ElemRes.Means w x (some e) (some p) := by
  refine ⟨congrArg some hv, congrArg some hfl, fun h1 h2 e' he => ?_⟩
  obtain rfl := Option.some.inj he
  exact hbad h1 h2

/-- A result under the implicit mask. -/
theorem ElemRes.means_under {w : Nat} {x : Ctx} {e : ElemRes} {p : Nat × Nat} (masked : Bool) (j : Nat) (hv : e.val % 2 ^ w = p.1 % 2 ^ w)
    (hfl : e.fl = p.2) (hbad : x.vPoison = [] → x.mPoison = [] → e.bad = false) :
    ElemRes.Means w x (x.under masked j e) (if masked then (if x.maskBit 0 j then some p else none) else some p) := by
  cases masked with
  | false => exact ElemRes.means_some hv hfl hbad
  | true =>
    unfold Ctx.under
    cases x.maskBit 0 j with
    | false => exact ⟨rfl, rfl, fun _ _ e' he => absurd he (by simp)⟩
    | true => exact ElemRes.means_some hv hfl fun h1 h2 => by simp [hbad h1 h2, Ctx.maskBad_clean h2]

/-- What a vector instruction comes to in the words of the statement. -/
def VectorDone (s : State) (c : Nat) (o : FulOp) (r : List FulOp) (i : Instr) (res : Nat → Option (Nat × Nat)) : Prop :=
  ∃ t, exec i s = .next t ∧ Acted s t c o r ∧ t.free = s.free ∧
    (t.ctx c).holds (s.ctx c) (fwD o.word) (elemBits (o.vtype % 16)) o.vl (fun j => (res j).map (·.1)) ∧
    t.cxFlags c = (s.cxFlags c ||| (List.range o.vl).foldl (fun fl j => fl ||| ((res j).map (·.2)).getD 0) 0) % 32 ∧
    ((s.ctx c).vPoison = [] → (s.ctx c).mPoison = [] → (t.ctx c).vPoison = [])

theorem Ctx.sameRegs_queue (x : Ctx) (q : List FulOp) : x.SameRegs (x.dequeued q) := ⟨rfl, rfl, rfl, rfl⟩

/-- A vector instruction whose results are those named. -/
theorem vector_done {s : State} {c : Nat} {o : FulOp} {r : List FulOp} {i : Instr} {is : BitVec 32 → Bool} {res : FulOp → Ctx → Nat → Option ElemRes}
    {spec : Nat → Option (Nat × Nat)} (h : s.starts c o r) (hf : s.faultless c)
    (hreg : (fwSC o.word = 0 ∧ fwMAJ o.word ≠ 0xE) ∨ (fwSC o.word = 1 ∧ (fwMAJ o.word = 4 ∨ fwMAJ o.word = 5)))
    (hx : exec i s = .next (s.startHead c is fun u p => u.vecEffect c p (res p))) (his : is o.word = true)
    (hold : ∀ old bad, res { o with old := old, oldBad := bad } = res o)
    (hqueue : res o ((s.ctx c).dequeued r) = res o (s.ctx c))
    (hres : ∀ j, ElemRes.Means (elemBits o.vtype) (s.ctx c) (res o (s.ctx c) j) (spec j)) : VectorDone s c o r i spec := by
  rw [← hqueue] at hres
  obtain ⟨t, hexec, hacted, hfree, hflags, hregs⟩ := starts_vector (res := res) (n := 0) h hf hreg hx his rfl hold
  refine ⟨t, hexec, hacted, hfree, ?_, ?_, fun hv hm => ?_⟩
  · rw [elemBits_mod]
    refine Ctx.holds_congr (Ctx.writeVec_holds _ _ _ (elemBits_cases _) _) hregs (Ctx.sameRegs_queue _ _) fun j _ => ?_
    rw [Option.map_map, Option.map_map]
    exact (hres j).1.symm
  · rw [hflags]
    unfold resFlags
    simp only [(hres _).2.1]
  · rw [hregs.vPoison]
    exact Ctx.writeVec_clean (x := ((s.ctx c).dequeued r)) hv _ _ _ fun j e he => (hres j).2.2 hv hm e he

/-! ### The instructions -/

theorem VectorDone.congr {s : State} {c : Nat} {o : FulOp} {r : List FulOp} {i : Instr} {f g : Nat → Option (Nat × Nat)} (h : VectorDone s c o r i f)
    (hfg : ∀ j, f j = g j) : VectorDone s c o r i g := funext hfg ▸ h

/-- The functions of VMASK, in their order. -/
theorem maskFn_eq : ∀ n < 8, ∀ a b, maskFn n a b = [a && b, a || b, xor a b, a && !b, !a, a, true, false].getD n false := by decide

theorem fwIs_of {w : BitVec 32} {sc maj : Nat} (hsc : fwSC w = sc) (hmaj : fwMAJ w = maj) : fwIs sc maj w = true := by simp [fwIs, hsc, hmaj]

theorem b2n_ne_zero (b : Bool) : decide (b2n b ≠ 0) = b := by cases b <;> rfl

section
variable {s : State} {c : Fin 8} {o : FulOp} {r : List FulOp} (h : s.starts c o r) (hf : s.faultless c)
include h hf

/-- An element that a slide brings in from beyond VL is 0. -/
theorem vslidedn_done (hsc : fwSC o.word = 1) (hmaj : fwMAJ o.word = 0x5) : VectorDone s c o r (.vslidedn c) fun i =>
    some (if i + o.a.toNat < o.vl then (s.ctx c).elem (fwD o.word) (elemBits (o.vtype % 16)) (i + o.a.toNat) else 0, 0) := by
  refine vector_done (res := slideRes) h hf (.inr ⟨hsc, .inr hmaj⟩) rfl (fwIs_of hsc hmaj) (fun _ _ => rfl) rfl fun j => ?_
  rw [elemBits_mod]
  unfold slideRes
  dsimp only
  split
  · exact ElemRes.means_some rfl rfl fun hv _ => Ctx.elemBad_clean hv _ _ _
  · exact ElemRes.means_some rfl rfl fun _ _ => rfl

theorem vmerge_done (hsc : fwSC o.word = 0) (hmaj : fwMAJ o.word = 0xC) : VectorDone s c o r (.vmerge c) fun i =>
    some (if (s.ctx c).maskBit 0 i then (s.ctx c).elem (fwA o.word) (elemBits (o.vtype % 16)) i
      else (s.ctx c).elem (fwB o.word) (elemBits (o.vtype % 16)) i, 0) := by
  refine vector_done (res := mergeRes) h hf (.inl ⟨hsc, by omega⟩) rfl (fwIs_of hsc hmaj) (fun _ _ => rfl) rfl fun j => ?_
  rw [elemBits_mod]
  exact ElemRes.means_some rfl rfl fun hv hm => by simp [Ctx.elemBad_clean hv, Ctx.maskBad_clean hm]

theorem vdot_done (hsc : fwSC o.word = 0) (hmaj : fwMAJ o.word = 0x7) (ht : o.vtype % 16 = 2 ∨ o.vtype % 16 = 6) :
    let w := elemBits (o.vtype % 16)
    VectorDone s c o r (.vdot c) fun i =>
      some (dot4 (o.vtype % 16) ((s.ctx c).elem (fwD o.word) w i) ((s.ctx c).elem (fwA o.word) w i) ((s.ctx c).elem (fwB o.word) w i), 0) := by
  have hw : elemBits (o.vtype % 16) = 32 := by rcases ht with ht | ht <;> simp [ht, elemBits]
  rw [hw]
  exact vector_done (res := dotRes) h hf (.inl ⟨hsc, by omega⟩) rfl (fwIs_of hsc hmaj) (fun _ _ => rfl) rfl fun _ =>
    ElemRes.means_some rfl rfl fun hv _ => by simp [Ctx.elemBad_clean hv]

/-- A mask instruction whose bits are those named. -/
theorem mask_done {i : Instr} {is : BitVec 32 → Bool} {res : FulOp → Ctx → Nat → ElemRes} {f : Nat → Bool} (hsc : fwSC o.word = 0)
    (hmaj : fwMAJ o.word ≠ 0xE) (hx : exec i s = .next (s.startHead c is fun u p => u.maskEffect c p (res p))) (his : is o.word = true)
    (hold : ∀ old bad, res { o with old := old, oldBad := bad } = res o) (hqueue : res o ((s.ctx c).dequeued r) = res o (s.ctx c))
    (hf' : ∀ j, decide ((res o (s.ctx c) j).val ≠ 0) = f j) :
    ∃ t, exec i s = .next t ∧ Acted s t c o r ∧ (t.ctx c).maskHolds (s.ctx c) (fwD o.word % 8) o.vl f := by
  obtain ⟨t, hexec, hacted, -, -, hregs⟩ := starts_mask (res := res) h hf (.inl ⟨hsc, hmaj⟩) hx his rfl hold
  refine ⟨t, hexec, hacted, Ctx.writeMask_holds hregs (Ctx.sameRegs_queue _ r) fun j _ => ?_⟩
  rw [hqueue, hf']

/-- VMOV, by what it writes to its elements. -/
theorem vmov_acts (hsc : fwSC o.word = 0) (hmaj : fwMAJ o.word = 0xD) : ∃ t, exec (.vmov c) s = .next t ∧ Acted s t c o r ∧ t.free = s.free + o.vl ∧
    (t.ctx c).holds (s.ctx c) (fwD o.word) (elemBits o.vtype) o.vl fun i => (movRes o s.free (s.ctx c) i).map (·.val) := by
  obtain ⟨old, bad, hk⟩ := s.keepOld_eq c o
  obtain ⟨t, hexec, hacted, hfree, -, hregs⟩ := starts_vector (res := fun o => movRes o s.free) (i := .vmov c) (n := o.vl) h hf (.inl ⟨hsc, by omega⟩) rfl
    (fwIs_of hsc hmaj) (by rw [hk]; rfl) fun _ _ => rfl
  exact ⟨t, hexec, hacted, hfree, Ctx.holds_congr (Ctx.writeVec_holds _ _ _ (elemBits_cases _) _) hregs (Ctx.sameRegs_queue _ r) fun _ _ => rfl⟩

/-- VRED, by what it writes to element 0. -/
theorem vred_acts (hsc : fwSC o.word = 0) (hmaj : fwMAJ o.word = 0xA) : ∃ t, exec (.vred c) s = .next t ∧ Acted s t c o r ∧ t.free = s.free + 1 ∧
    (t.ctx c).holds (s.ctx c) (fwD o.word) (elemBits o.vtype) o.vl fun i => (redRes o s.free (s.ctx c) i).map (·.val) := by
  obtain ⟨t, hexec, hacted, hfree, -, hregs⟩ := starts_vector (res := fun o => redRes o s.free) (i := .vred c) (n := 1) h hf (.inl ⟨hsc, by omega⟩) rfl
    (fwIs_of hsc hmaj) rfl fun _ _ => rfl
  exact ⟨t, hexec, hacted, hfree, Ctx.holds_congr (Ctx.writeVec_holds _ _ _ (elemBits_cases _) _) hregs (Ctx.sameRegs_queue _ r) fun _ _ => rfl⟩

end

/-- The operands of a reduction, a masked-off element counted as the identity (R199). -/
def redUse (o : FulOp) (x : Ctx) (k : Nat) : Nat :=
  if fwB o.word < 16 ∨ x.maskBit 0 k = true then x.elem (fwA o.word) (elemBits (o.vtype % 16)) k
  else redIdentity (o.vtype % 16) (vtRM o.vtype) (fwB o.word % 16)

/-- The value of a reduction that is not free. -/
theorem redRes_zero {o : FulOp} (x : Ctx) (free : Nat) (hvl : 0 < o.vl) (hfn : o.vtype % 16 < 8 ∨ 3 ≤ fwB o.word % 16) :
    (redRes o free x 0).map (·.val) =
      some ((treeReduce (redOp (o.vtype % 16) (vtRM o.vtype) (fwB o.word % 16)) (clog2 o.vl) ((List.range o.vl).map fun k => some (redUse o x k))).1.getD 0) := by
  have huse (k : Nat) : (if (!decide (16 ≤ fwB o.word) || x.maskBit 0 k) = true then x.elem (fwA o.word) (elemBits (o.vtype % 16)) k
      else redIdentity (o.vtype % 16) (vtRM o.vtype) (fwB o.word % 16)) = redUse o x k := by
    unfold redUse
    refine if_congr ?_ rfl rfl
    simp
  have hwild : ¬ (fwB o.word % 16 < 3 ∧ tyFloat (o.vtype % 16) = true) := by
    unfold tyFloat
    simp only [decide_eq_true_eq]
    omega
  unfold redRes
  dsimp only
  rw [if_neg (by omega)]
  simp only [huse, if_neg hwild, Option.map_some]

/-- An integer reduction is that over the elements in their order. -/
theorem redRes_foldl {o : FulOp} (x : Ctx) (free : Nat) (hvl : 0 < o.vl) (hf : fwB o.word % 16 < 6) (hfn : o.vtype % 16 < 8 ∨ 3 ≤ fwB o.word % 16) :
    (redRes o free x 0).map (·.val) = some ((List.range o.vl).foldl
      (fun acc k => (redOp (o.vtype % 16) (vtRM o.vtype) (fwB o.word % 16) acc (redUse o x k)).1) (redIdentity (o.vtype % 16) (vtRM o.vtype) (fwB o.word % 16))) := by
  have hred := redOp_reduces (o.vtype % 16) (vtRM o.vtype) hf
  have hmem : ∀ v ∈ (List.range o.vl).map (redUse o x), v < 2 ^ elemBits (o.vtype % 16) := by
    rintro v hv
    obtain ⟨k, -, rfl⟩ := List.mem_map.mp hv
    unfold redUse
    split
    · exact x.elem_lt _ _ _
    · exact hred.id
  have htree := treeReduce_eq_foldl (n := clog2 o.vl) hred hmem (List.ne_nil_of_length_pos (by simpa using hvl)) (by simpa using le_two_pow_clog2 o.vl)
  rw [List.map_map] at htree
  rw [redRes_zero x free hvl hfn]
  change some ((treeReduce _ _ ((List.range o.vl).map (some ∘ redUse o x))).1.getD 0) = _
  rw [htree, List.foldl_map]
  rfl

section
variable {s : State} {c : Fin 8} {o : FulOp} {r : List FulOp} (h : s.starts c o r) (hf : s.faultless c)
include h hf

/-- VRED in the words of the statement. -/
theorem vred_done (hsc : fwSC o.word = 0) (hmaj : fwMAJ o.word = 0xA) : ∃ t, exec (.vred c) s = .next t ∧ Acted s t c o r ∧
    (let x := s.ctx c
     let ty := o.vtype % 16
     let w := elemBits ty
     let d := fwD o.word
     let y := t.ctx c
     let f := fwB o.word % 16
     let rm := vtRM o.vtype
     (∀ i ≥ 1, y.elem d w i = x.elem d w i) ∧ (∀ k < 512 * d, SMap.get 0 y.v k = SMap.get 0 x.v k) ∧ y.m = x.m ∧ t.free = s.free + 1 ∧
     (o.vl = 0 → y.elem d w 0 = x.elem d w 0) ∧
     (0 < o.vl → f < 6 → ty < 8 ∨ 3 ≤ f →
       y.elem d w 0 = (List.range o.vl).foldl (fun acc k => (redOp ty rm f acc (redUse o x k)).1) (redIdentity ty rm f) % 2 ^ w) ∧
     (0 < o.vl → 6 ≤ f → y.elem d w 0 =
       ((treeReduce (redOp ty rm f) (clog2 o.vl) ((List.range o.vl).map fun k => some (redUse o x k))).1.getD 0) % 2 ^ w)) := by
  obtain ⟨t, hexec, hacted, hfree, hin, hout, hlow, hm, -⟩ := vred_acts h hf hsc hmaj
  rw [← elemBits_mod] at hin hout
  dsimp only at hin
  refine ⟨t, hexec, hacted, fun i hi => ?_, hlow, hm, hfree, fun hvl => hout 0 (by omega), fun hvl hf6 hfn => ?_, fun hvl hf6 => ?_⟩
  · by_cases hvl : i < o.vl
    · have hnone : redRes o s.free (s.ctx c) i = none := if_pos (.inl (by omega))
      rw [hin i hvl, hnone]
      rfl
    · exact hout i (by omega)
  · rw [hin 0 hvl, redRes_foldl _ _ hvl hf6 hfn]
    rfl
  · rw [hin 0 hvl, redRes_zero _ _ hvl (.inr (by omega))]
    rfl

/-- VMOV in the words of the statement. -/
theorem vmov_done (hsc : fwSC o.word = 0) (hmaj : fwMAJ o.word = 0xD) : ∃ t, exec (.vmov c) s = .next t ∧ Acted s t c o r ∧
    (let x := s.ctx c
     let ty := o.vtype % 16
     let w := elemBits ty
     let d := fwD o.word
     let fn := fwB o.word
     let va (i : Nat) := x.elem (fwA o.word) w i
     let y := t.ctx c
     (∀ i ≥ o.vl, y.elem d w i = x.elem d w i) ∧ (∀ k < 512 * d, SMap.get 0 y.v k = SMap.get 0 x.v k) ∧ y.m = x.m ∧ t.free = s.free + o.vl ∧
     ∀ i < o.vl,
       (fn = 0 → y.elem d w i = va i) ∧ (fn = 1 → i + 1 < o.vl → y.elem d w i = va (i + 1)) ∧ (fn = 2 → 0 < i → y.elem d w i = va (i - 1)) ∧
       (fn = 3 → ty < 8 → y.elem d w i = i % 2 ^ w) ∧
       (16 ≤ fn → y.elem d w i = (convertElem (fn % 16) ty (vtRM o.vtype) (x.elem (fwA o.word) (elemBits fn) i)).1 % 2 ^ w)) := by
  obtain ⟨t, hexec, hacted, hfree, hin, hout, hlow, hm, -⟩ := vmov_acts h hf hsc hmaj
  rw [← elemBits_mod] at hin hout
  dsimp only at hin
  refine ⟨t, hexec, hacted, hout, hlow, hm, hfree, fun i hi => ?_⟩
  have hval {v : Nat} (hv : (movRes o s.free (s.ctx c) i).map (·.val) = some v) :
      (t.ctx c).elem (fwD o.word) (elemBits (o.vtype % 16)) i = v % 2 ^ elemBits (o.vtype % 16) := by
    rw [hin i hi, hv]
    rfl
  have helem (j : Nat) : (s.ctx c).elem (fwA o.word) (elemBits (o.vtype % 16)) j % 2 ^ elemBits (o.vtype % 16) =
      (s.ctx c).elem (fwA o.word) (elemBits (o.vtype % 16)) j := Nat.mod_eq_of_lt (Ctx.elem_lt _ _ _ _)
  refine ⟨fun hfn => ?_, fun hfn hi' => ?_, fun hfn hi' => ?_, fun hfn ht => ?_, fun hfn => ?_⟩
  · exact (hval (by simp [movRes, hfn])).trans (helem i)
  · exact (hval (by simp [movRes, hfn, hi'])).trans (helem (i + 1))
  · exact (hval (by simp [movRes, hfn, Nat.pos_iff_ne_zero.mp hi'])).trans (helem (i - 1))
  · exact (hval (by simp [movRes, hfn, tyFloat, Nat.not_le.mpr ht])).trans (Nat.mod_mod _ _)
  · exact hval (by simp [movRes, Nat.not_lt.mpr hfn])

end

/-- Settles O34: the integer functions by their arithmetic, and each instruction by the results that it writes to the group of its destination. -/
theorem vectorElementResults : Obligations.VectorElementResults := by
  unfold Obligations.VectorElementResults
  refine ⟨⟨?_, fun s c o r h hf => ?_⟩, fun s c o r h hf => ?_⟩
  · intro ty x y _ w M hx hy
    obtain ⟨hadd, hsub, hrsub, hmul⟩ := viFn_wraps hx hy
    obtain ⟨hand, hor, hxor⟩ := viFn_bitwise hx hy
    obtain ⟨hshl, hshr, hsra⟩ := viFn_shifts hx y
    exact ⟨hadd, hsub, hrsub, hmul, hand, hor, hxor, hshl, hshr, hsra, fun h4 => viFn_unsigned h4 hx hy, fun h4 => viFn_signed h4 hx hy⟩
  · intro x ty w d fn rm vd va vb all under rows done
    refine ⟨?_, fun hsc hmaj ht => ?_⟩
    · have row {i : Instr} {sc maj : Nat} {res : FulOp → Ctx → Nat → Option ElemRes} {spec : Nat → Option (Nat × Nat)}
          (hreg : sc = 0 ∧ maj ≠ 0xE ∨ sc = 1 ∧ (maj = 4 ∨ maj = 5)) (hx : exec i s = .next (s.startHead c (fwIs sc maj) fun u p => u.vecEffect c p (res p)))
          (hold : ∀ old bad, res { o with old := old, oldBad := bad } = res o) (hqueue : res o ((s.ctx c).dequeued r) = res o (s.ctx c))
          (hres : ∀ j, ElemRes.Means (elemBits o.vtype) (s.ctx c) (res o (s.ctx c) j) (spec j)) :
          fwSC o.word = sc → fwMAJ o.word = maj → VectorDone s c o r i spec := by
        rintro rfl rfl
        exact vector_done h hf hreg hx (fwIs_of rfl rfl) hold hqueue hres
      simp only [rows, List.forall_mem_cons, List.not_mem_nil, false_imp_iff, implies_true, and_true]
      refine ⟨row (res := fun o => viRes o false) (by decide) rfl (fun _ _ => rfl) rfl fun j => ElemRes.means_under false j rfl rfl fun hv _ => ?_,
        row (res := fun o => viRes o true) (by decide) rfl (fun _ _ => rfl) rfl fun j => ElemRes.means_under true j rfl rfl fun hv _ => ?_,
        row (res := fun o => vfRes o false) (by decide) rfl (fun _ _ => rfl) rfl fun j => ElemRes.means_under false j rfl rfl fun hv _ => ?_,
        row (res := fun o => vfRes o true) (by decide) rfl (fun _ _ => rfl) rfl fun j => ElemRes.means_under true j rfl rfl fun hv _ => ?_,
        row (res := fun o => fmaRes o false false) (by decide) rfl (fun _ _ => rfl) rfl fun j => ElemRes.means_under false j rfl rfl fun hv _ => ?_,
        row (res := fun o => fmaRes o true false) (by decide) rfl (fun _ _ => rfl) rfl fun j => ElemRes.means_under true j rfl rfl fun hv _ => ?_,
        row (res := fun o => fmaRes o false true) (by decide) rfl (fun _ _ => rfl) rfl fun j => ElemRes.means_under false j rfl rfl fun hv _ => ?_,
        vmerge_done h hf, row (res := splatRes) (by decide) rfl (fun _ _ => rfl) rfl fun j => ElemRes.means_some (Nat.mod_mod _ _) rfl fun _ _ => rfl,
        vslidedn_done h hf⟩ <;> simp [Ctx.elemBad_clean hv]
    · exact (vdot_done h hf hsc hmaj ht).congr fun i => congrArg (fun n => some (n, 0)) (dot4_eq ht _ _ _)
  · intro x ty w d fn va vb begins cmp
    refine ⟨fun hsc hmaj => ?_, fun hsc hmaj => ?_, fun hsc hmaj hlt => ?_, fun hsc hmaj => vmov_done h hf hsc hmaj, fun hsc hmaj => vred_done h hf hsc hmaj⟩
    · refine mask_done (res := cmpRes) h hf hsc (by omega) rfl (fwIs_of hsc hmaj) (fun _ _ => rfl) rfl fun j => (b2n_ne_zero _).trans ?_
      change cmpFn (d / 8) (cmp j) = _
      generalize cmp j = q
      match d / 8 with
      | 0 | 1 | 2 | _ + 3 => cases q <;> rfl
    · refine mask_done (res := cmpuRes) h hf hsc (by omega) rfl (fwIs_of hsc hmaj) (fun _ _ => rfl) rfl fun j => ?_
      exact b2n_ne_zero _
    · refine mask_done (res := vmaskRes) h hf hsc (by omega) rfl (fwIs_of hsc hmaj) (fun _ _ => rfl) rfl fun j => (b2n_ne_zero _).trans ?_
      exact maskFn_eq _ hlt _ _

end Sys2Proof.Machine
end

section
/-!
PROOFS. The instructions of Fuller that return a value at their start, and the invalidations of its translation
(Obligations.VectorValuesAndInvalidations).
-/

namespace Sys2Proof.Machine

/-! ### Values (R202, R203) -/

/-- An instruction without a destination group keeps nothing of the registers. -/
theorem State.keepOld_self (s : State) (c : Nat) {o : FulOp} (h : fwDest o.word = 0) : s.keepOld c o = o := by
  unfold State.keepOld
  dsimp only
  rw [h]
  split <;> rfl

theorem fwDest_value {w : BitVec 32} (h : fwSC w = 2) : fwDest w = 0 := by
  simp [fwDest, h]

/-- An instruction that returns a value makes no access. -/
theorem FulOp.accesses_value {o : FulOp} (h : fwSC o.word ≠ 1) : o.accesses = false := by
  simp [FulOp.accesses, fwIsStrm, fwIsRegMem, h]

/-- The machine from which an instruction returns its value: the head of the queue has left it, and of the registers that of the context's state and its
events may have changed. -/
structure Returns (s u : State) (c : Nat) (r : List FulOp) : Prop where
  ctx    : u.ctx c = (s.ctx c).dequeued r
  others : ∀ j, j ≠ c → u.ctx j = s.ctx j
  rest   : s.FulOnly u
  rd     : ∀ q, q ≠ Reg.fulCState c → q ≠ Reg.fulCEvent c → u.rd q = s.rd q

theorem State.dequeued_returns (s : State) (c : Nat) (r : List FulOp) : Returns s (s.dequeued c r) c r :=
  ⟨s.ctx_dequeued c r, fun _ hj => s.ctx_modCtx_of_ne _ hj, rfl, fun _ _ _ => rfl⟩

theorem State.leaveFaulted_returns (s : State) (c : Nat) (r : List FulOp) : Returns s ((s.dequeued c r).leaveFaulted c) c r :=
  ⟨(State.ctx_leaveFaulted _ _ _).trans (s.ctx_dequeued c r), fun _ hj => (State.ctx_leaveFaulted _ _ _).trans (s.ctx_modCtx_of_ne _ hj),
    State.FulOnly.trans (t := s.dequeued c r) rfl (State.leaveFaulted_fulOnly _ _), fun _ hs he => State.rd_leaveFaulted_of_ne _ _ hs he⟩

/-- The machine after an instruction has returned its value. -/
def State.returned (u : State) (c : Nat) (o : FulOp) (v : Word) : State := ((u.ctxReturn c o.tag v).ctxComplete c o).fulUpd c

/-- A value returned, in the words of the statement. -/
structure ValueReturned (s t : State) (c : Nat) (o : FulOp) (r : List FulOp) (v : Word) : Prop where
  rest    : s.FulOnly t
  ctx     : ∃ n, t.ctx c = { s.ctx c with queue := r, ret := (s.ctx c).ret ++ [(o.tag, v)], wdogFrom := n }
  others  : ∀ j, j ≠ c → t.ctx j = s.ctx j
  retired : t.fget (Reg.fulCSeq c) Reg.fulCSeq_RETIRED = o.seq % 2 ^ 32
  counted : t.fget (Reg.fulCCnt c) Reg.fulCCnt_COMPLETED = (s.fget (Reg.fulCCnt c) Reg.fulCCnt_COMPLETED + 1) % 2 ^ Reg.fulCCnt_COMPLETED.len

section
variable {s u : State} {c : Nat} {o : FulOp} {r : List FulOp}

theorem Returns.returned (h : Returns s u c r) (v : Word) : ValueReturned s (u.returned c o v) c o r v := by
  obtain ⟨n, hn⟩ := State.ctxComplete_moves (u.ctxReturn c o.tag v) c o
  obtain ⟨hss, hse, hsc⟩ := fulCSeq_ne c c
  obtain ⟨hcs, hce, hcq⟩ := fulCCnt_ne c c
  have hctx (j : Nat) : (u.returned c o v).ctx j = if j = c then { (u.ctxReturn c o.tag v).ctx c with wdogFrom := n } else (u.ctxReturn c o.tag v).ctx j :=
    (State.ctx_fulUpd _ _ _).trans (hn j)
  refine ⟨h.rest.trans (State.FulOnly.trans (t := u.ctxReturn c o.tag v) rfl ((State.ctxComplete_fulOnly _ _ _).trans (State.fulUpd_fulOnly _ _))),
    ⟨n, ?_⟩, fun j hj => ?_, ?_, ?_⟩
  · rw [hctx, if_pos rfl, State.ctxReturn, State.ctx_modCtx_same, h.ctx]
    rfl
  · rw [hctx, if_neg hj, State.ctxReturn, State.ctx_modCtx_of_ne _ _ hj, h.others j hj]
  · exact (State.fget_of_rd (State.rd_fulUpd_of_ne _ _ hss hse) _).trans (State.ctxComplete_retired _ _ _).1
  · have hcnt : (u.ctxReturn c o.tag v).rd (Reg.fulCCnt c) = s.rd (Reg.fulCCnt c) := h.rd _ hcs hce
    rw [State.returned, State.fget_of_rd (State.rd_fulUpd_of_ne _ _ hcs hce), State.ctxComplete_counted, State.fget_of_rd hcnt]

/-- A context that was not in FAULTED as its value was returned is not there afterwards. -/
theorem State.returned_ne_faulted (h : u.cxState c ≠ cxFAULTED) (v : Word) : (u.returned c o v).cxState c ≠ cxFAULTED := by
  refine State.cxState_fulUpd_ne_faulted (State.cxState_fulUpd_ne_faulted ?_)
  have hst : (((u.ctxReturn c o.tag v).fadd (Reg.fulCCnt c) Reg.fulCCnt_COMPLETED 1).ctxRetire c o.seq).rd (Reg.fulCState c) = u.rd (Reg.fulCState c) := by
    unfold State.ctxRetire State.fadd
    rw [State.rd_fset_of_ne _ _ _ (fulCSeq_ne c c).1.symm, State.rd_fset_of_ne _ _ _ (fulCCnt_ne c c).1.symm]
    rfl
  exact fun hf => h ((State.cxState_of_rd hst).1.symm.trans hf)

/-- An instruction that returns a value starts, and has completed. -/
theorem starts_value {i : Instr} {is : BitVec 32 → Bool} {eff : State → FulOp → State × Option FulOp} {v : Word} (h : s.starts c o r)
    (hf : s.faultless c) (hsc : fwSC o.word = 2) (hx : exec i s = .next (s.startHead c is eff)) (his : is o.word = true) (hu : Returns s u c r)
    (heff : eff (s.dequeued c r) o = u.valueEffect c o v) : ∃ t, exec i s = .next t ∧ t = u.returned c o v ∧ ValueReturned s t c o r v := by
  have hstart := State.startHead_starts (eff := eff) h hf his (.inl (FulOp.accesses_value (by omega)))
  rw [s.keepOld_self c (fwDest_value hsc), heff] at hstart
  exact ⟨_, hx.trans (congrArg _ hstart), rfl, hu.returned v⟩

end

/-! ### Invalidations (R169) -/

theorem State.xltOf_setXlt (s : State) (c j : Nat) (x : Xlt) : (s.setXlt c x).xltOf j = if j = c then x else s.xltOf j := SMap.get_put

/-- An invalidation starts: it runs, and the translation state of its context is the one given. -/
theorem starts_invalidation {s : State} {c : Fin 8} {o : FulOp} {r : List FulOp} {i : Instr} {is : BitVec 32 → Bool} {f : Xlt} (h : s.starts c o r)
    {eff : State → FulOp → State × Option FulOp} (hf : s.faultless c) (hel : fwElementwise o.word = false) (hdest : fwDest o.word = 0)
    (hacc : o.accesses = false) (hx : exec i s = .next (s.startHead c is eff)) (his : is o.word = true)
    (heff : eff (s.dequeued c r) o = ((s.dequeued c r).setXlt c f, some o)) :
    ∃ t, exec i s = .next t ∧ Began s t c o r ∧ t = { s with ctxs := t.ctxs, regs := t.regs, xlt := t.xlt } ∧ t.xltOf c = f ∧
      ∀ j : Fin 8, j ≠ c → t.xltOf j = s.xltOf j := by
  have hstart := State.startHead_starts (eff := eff) h hf his (.inl hacc)
  rw [s.keepOld_self c hdest, heff, State.afterStart_begins _ _ _ _ (.inl hel)] at hstart
  let u := (s.dequeued c r).setXlt c f
  have hxlt (j : Nat) : (u.begun c o (s.wdogOn c)).xltOf j = if j = c then f else s.xltOf j := by
    rw [State.begun_frame]
    exact State.xltOf_setXlt _ _ _ _
  have hocc : Reg.fulCState c ≠ Reg.xltOcc c := by unfold Reg.fulCState Reg.xltOcc; omega
  have hst : u.rd (Reg.fulCState c) = s.rd (Reg.fulCState c) := by
    change (State.fset (State.fset _ _ _ _) _ _ _).rd _ = _
    rw [State.rd_fset_of_ne _ _ _ hocc, State.rd_fset_of_ne _ _ _ hocc]
    rfl
  have hctx : u.ctx c = (s.ctx c).dequeued r := s.ctx_dequeued c r
  refine ⟨_, hx.trans (congrArg _ hstart), ?_, ?_, ?_, fun j hj => ?_⟩
  · exact State.begun_began (s := s) (u := u) (by rw [hctx]; rfl) (by rw [hctx]; rfl) (fun j hj => s.ctx_modCtx_of_ne (·.dequeued r) hj) rfl
      (State.cxState_of_rd hst) _ _
  · rw [State.begun_frame]
    rfl
  · rw [hxlt, if_pos rfl]
  · rw [hxlt, if_neg fun hc => hj (Fin.ext hc)]

/-! ### The instructions -/

/-- Fields within their widths make up the status word as they are. -/
theorem vsyncWord_eq (seq : Nat) {st cause fl : Nat} (h1 : st < 4) (h2 : cause < 64) (h3 : fl < 32) :
    vsyncWord seq st cause fl = BitVec.ofNat 64 (seq % 2 ^ 32 + 2 ^ 32 * st + 2 ^ 34 * cause + 2 ^ 40 * fl) := by
  rw [vsyncWord, Nat.mod_eq_of_lt h1, Nat.mod_eq_of_lt h2, Nat.mod_eq_of_lt h3]

theorem maskAnyBad_clean {x : Ctx} (h : x.mPoison = []) (o : FulOp) : maskAnyBad o x = false := by
  simp [maskAnyBad, Ctx.maskBad_clean h]

/-- Element 0, by the sign that TYPE gives it (R197). -/
theorem mvsValue_eq (o : FulOp) (x : Ctx) : mvsValue o x =
    if o.vtype % 16 < 4 then BitVec.ofInt 64 (signed (elemBits (o.vtype % 16)) (x.elem (fwA o.word) (elemBits (o.vtype % 16)) 0))
    else BitVec.ofNat 64 (x.elem (fwA o.word) (elemBits (o.vtype % 16)) 0) := by
  simp [mvsValue, tySigned]

theorem find_range_none {p : Nat → Bool} {n : Nat} (h : ∀ i < n, p i = false) : (List.range n).find? p = none := by
  simpa [List.find?_eq_none] using h

/-- The first number below `n` that has a property. -/
theorem find_range_first {p : Nat → Bool} {n i : Nat} (hi : i < n) (hp : p i = true) (hfirst : ∀ j < i, p j = false) : (List.range n).find? p = some i := by
  rw [List.find?_range_eq_some]
  exact ⟨hp, List.mem_range.mpr hi, fun j hj => by simp [hfirst j hj]⟩

section
variable {s : State} {c : Fin 8} {o : FulOp} {r : List FulOp} (h : s.starts c o r) (hf : s.faultless c) (hsc : fwSC o.word = 2)
include h hf hsc

theorem vsync_returns (hmaj : fwMAJ o.word = 0x0) : ∃ t, exec (.vsync c) s = .next t ∧ t = ((s.dequeued c r).leaveFaulted c).returned c o
      (vsyncWord o.seq (b2n (decide (s.cxState c = cxFAULTED)))
        (if decide (s.cxState c = cxFAULTED) then s.fget (Reg.fulCCtxFault c) Reg.fulCCtxFault_CAUSE else 0) (s.cxFlags c)) ∧
    ValueReturned s t c o r (vsyncWord o.seq (b2n (decide (s.cxState c = cxFAULTED)))
      (if decide (s.cxState c = cxFAULTED) then s.fget (Reg.fulCCtxFault c) Reg.fulCCtxFault_CAUSE else 0) (s.cxFlags c)) :=
  starts_value h hf hsc rfl (by simp [fwIsVsync, hsc, hmaj]) (s.leaveFaulted_returns c r) rfl

/-- A value that is read from the registers of the context. -/
theorem read_returns {i : Instr} {maj : Nat} {eff : State → FulOp → State × Option FulOp} {v : Word} (hmaj : fwMAJ o.word = maj)
    (hx : exec i s = .next (s.startHead c (fwIs 2 maj) eff)) (heff : eff (s.dequeued c r) o = (s.dequeued c r).valueEffect c o v) :
    ∃ t, exec i s = .next t ∧ t = (s.dequeued c r).returned c o v ∧ ValueReturned s t c o r v :=
  starts_value h hf hsc hx (fwIs_of hsc hmaj) (s.dequeued_returns c r) heff

end

/-- Settles O36: each value by the state in which its instruction starts, each invalidation by the translation state that it leaves. -/
theorem vectorValuesAndInvalidations : Obligations.VectorValuesAndInvalidations := by
  unfold Obligations.VectorValuesAndInvalidations
  intro s c o r h hf x ty e0 ma clean returns begins
  have value {i : Instr} {v : Word} {u : State} (hu : Returns s u c r) (hne : i = .vsync c → u.cxState c ≠ cxFAULTED)
      (ht : ∃ t, exec i s = .next t ∧ t = u.returned c o v ∧ ValueReturned s t c o r v) : returns i v := by
    obtain ⟨t, hexec, rfl, hrest, ⟨n, hctx⟩, hothers, hretired, hcounted⟩ := ht
    refine ⟨_, hexec, hrest, ?_, ?_, ?_, ?_, ?_, fun j hj => hothers j fun hc => hj (Fin.ext hc), hretired, hcounted,
      fun _ hi => State.returned_ne_faulted (hne hi) v⟩ <;> rw [hctx]
  have hdeq := s.dequeued_returns c r
  have hdclean (hclean : clean) : ((s.dequeued c r).ctx c).vPoison = [] ∧ ((s.dequeued c r).ctx c).mPoison = [] := by
    rw [State.ctx_dequeued]
    exact hclean
  refine ⟨fun hsc => ⟨fun hmaj => ?_, fun hmaj hclean => ?_, fun hmaj hclean => ?_, fun hmaj hclean => ⟨fun hnone => ?_, fun i hi hset hfirst => ?_⟩⟩,
    fun hsc hmaj => ?_, fun hsc => ?_⟩
  · have ht := vsync_returns h hf hsc hmaj
    rw [vsyncWord_eq _ (by cases decide (s.cxState c = cxFAULTED) <;> decide) (by split <;> [exact s.fget_lt _ _; decide]) (s.fget_lt _ _)] at ht
    exact value (s.leaveFaulted_returns c r) (fun _ => State.leaveFaulted_ne_faulted _ _) ht
  · refine value hdeq (fun hi => by cases hi) (read_returns h hf hsc hmaj rfl ?_)
    rw [← mvsValue_eq, if_neg (by rw [Ctx.elemBad_clean (hdclean hclean).1]; decide), State.ctx_dequeued]
    rfl
  · refine value hdeq (fun hi => by cases hi) (read_returns h hf hsc hmaj rfl ?_)
    rw [if_neg (by rw [maskAnyBad_clean (hdclean hclean).2]; decide), State.ctx_dequeued]
    rfl
  · refine value hdeq (fun hi => by cases hi) (read_returns h hf hsc hmaj rfl ?_)
    rw [if_neg (by rw [maskAnyBad_clean (hdclean hclean).2]; decide), State.ctx_dequeued]
    change State.valueEffect _ _ _ (match (List.range o.vl).find? fun i => x.maskBit ma i with | some i => _ | none => _) = _
    rw [find_range_none hnone]
  · refine value hdeq (fun hi => by cases hi) (read_returns h hf hsc hmaj rfl ?_)
    rw [if_neg (by rw [maskAnyBad_clean (hdclean hclean).2]; decide), State.ctx_dequeued]
    change State.valueEffect _ _ _ (match (List.range o.vl).find? fun i => x.maskBit ma i with | some i => _ | none => _) = _
    rw [find_range_first hi hset hfirst]
  · intro f
    have hplain : fwElementwise o.word = false ∧ fwDest o.word = 0 ∧ o.accesses = false := by
      simp [fwElementwise, fwDest, FulOp.accesses, fwIsStrm, fwIsRegMem, hsc, hmaj]
    obtain ⟨hel, hdest, hacc⟩ := hplain
    refine ⟨fun hb => starts_invalidation (i := .vinvAll c) h hf hel hdest hacc rfl ?_ rfl,
      fun hb => starts_invalidation (i := .walkinv c) h hf hel hdest hacc rfl ?_ rfl⟩ <;> simp [fwIs, hsc, hmaj, hb]
  · intro f hit
    have hplain (hmaj : fwMAJ o.word = 7 ∨ fwMAJ o.word = 8) : fwElementwise o.word = false ∧ fwDest o.word = 0 ∧ o.accesses = false := by
      rcases hmaj with hmaj | hmaj <;> simp [fwElementwise, fwDest, FulOp.accesses, fwIsStrm, fwIsRegMem, hsc, hmaj]
    refine ⟨fun hmaj => ?_, fun hmaj => ?_⟩
    · obtain ⟨hel, hdest, hacc⟩ := hplain (.inl hmaj)
      have hinv : f.invVa o.a.toNat (o.b.toNat % 0x10000) = { f with tlb := f.tlb.filter fun e => !hit e.2 } := by
        simp [Xlt.invVa, FulTlbEntry.hits, hit]
      rw [← hinv]
      exact starts_invalidation (i := .vinvVa c) h hf hel hdest hacc rfl (fwIs_of hsc hmaj) rfl
    · obtain ⟨hel, hdest, hacc⟩ := hplain (.inr hmaj)
      exact starts_invalidation (i := .vinvAsid c) h hf hel hdest hacc rfl (fwIs_of hsc hmaj) rfl

end Sys2Proof.Machine
end

section
/-!
PROOFS. The fault of an instruction in a Fuller context (R205, R206): what it records, and what it leaves as it is.
-/

namespace Sys2Proof.Machine

/-! ### Instructions that a context sheds -/

/-- The registers that a fault or a cancellation in context `c` may write: the FCRU's below the FUL block, and those of the context's state, events,
sequence numbers, counts and fault record. -/
def faultReg (c r : Nat) : Prop :=
  r < 0x40000 ∨ r = Reg.fulCState c ∨ r = Reg.fulCEvent c ∨ r = Reg.fulCSeq c ∨ r = Reg.fulCCnt c ∨ r = Reg.fulCCtxFault c ∨
    r = Reg.fulCCtxFaultElem c ∨ r = Reg.fulCCtxFaultVa c

/-- The registers of the FUL block outside the context are none of them. -/
theorem not_faultReg_of_outside {c r : Nat} (h : 0x40000 ≤ r) (hb : r / 0x100 ≠ 0x410 + c) : ¬ faultReg c r := by
  unfold faultReg Reg.fulCState Reg.fulCEvent Reg.fulCSeq Reg.fulCCnt Reg.fulCCtxFault Reg.fulCCtxFaultElem Reg.fulCCtxFaultVa
  omega

theorem not_faultReg_vtype (c : Nat) : ¬ faultReg c (Reg.fulCVtype c) := by
  unfold faultReg Reg.fulCState Reg.fulCEvent Reg.fulCSeq Reg.fulCCnt Reg.fulCCtxFault Reg.fulCCtxFaultElem Reg.fulCCtxFaultVa Reg.fulCVtype
  omega

theorem not_faultReg_wdog (c : Nat) : ¬ faultReg c (Reg.fulCWdog c) := by
  unfold faultReg Reg.fulCState Reg.fulCEvent Reg.fulCSeq Reg.fulCCnt Reg.fulCCtxFault Reg.fulCCtxFaultElem Reg.fulCCtxFaultVa Reg.fulCWdog
  omega

/-- From `s` to `t` context `c` has faulted or cancelled instructions: its queue may be shorter, values may have been returned and sources raised, and
nothing else has changed but its own registers. -/
structure Shed (s t : State) (c : Nat) : Prop where
  ctx      : ∃ q v, t.ctx c = { s.ctx c with queue := q, ret := v }
  others   : ∀ j, j ≠ c → t.ctx j = s.ctx j
  rest     : t = { s with ctxs := t.ctxs, regs := t.regs, copies := t.copies, ful := t.ful, detected := t.detected }
  ful      : t.ful = { s.ful with busy := t.ful.busy }
  detected : ∃ l, t.detected = s.detected ++ l
  rd       : ∀ r, ¬ faultReg c r → t.rd r = s.rd r
  accepted : t.fget (Reg.fulCSeq c) Reg.fulCSeq_ACCEPTED = s.fget (Reg.fulCSeq c) Reg.fulCSeq_ACCEPTED

theorem Shed.refl (s : State) (c : Nat) : Shed s s c := ⟨⟨_, _, rfl⟩, fun _ _ => rfl, rfl, rfl, ⟨[], (List.append_nil _).symm⟩, fun _ _ => rfl, rfl⟩

theorem Shed.trans {s t u : State} {c : Nat} (h : Shed s t c) (k : Shed t u c) : Shed s u c := by
  obtain ⟨q, v, hc⟩ := h.ctx
  obtain ⟨q', v', kc⟩ := k.ctx
  obtain ⟨l, hd⟩ := h.detected
  obtain ⟨l', kd⟩ := k.detected
  refine ⟨⟨q', v', by rw [kc, hc]⟩, fun j hj => (k.others j hj).trans (h.others j hj), ?_, ?_, ⟨l ++ l', by rw [kd, hd, List.append_assoc]⟩,
    fun r hr => (k.rd r hr).trans (h.rd r hr), k.accepted.trans h.accepted⟩
  · rw [k.rest, h.rest]
  · rw [k.ful, h.ful]

theorem Shed.mem {s t : State} {c : Nat} (h : Shed s t c) : t.mem = s.mem := by rw [h.rest]

theorem Shed.foldl {α : Type} {f : State → α → State} {c : Nat} (hf : ∀ (s : State) x, Shed s (f s x) c) (l : List α) (s : State) :
    Shed s (l.foldl f s) c := by
  induction l generalizing s with
  | nil => exact .refl s c
  | cons x l ih => exact (hf s x).trans (ih _)

section
variable (s : State) (c : Nat)

theorem State.wr_shed {r : Nat} (v : Word) (h : faultReg c r) (hne : Reg.fulCSeq c ≠ r) : Shed s (s.wr r v) c :=
  ⟨⟨_, _, rfl⟩, fun _ _ => rfl, rfl, rfl, ⟨[], (List.append_nil _).symm⟩, fun _ hr => State.rd_wr_of_ne _ _ fun he => hr (he ▸ h),
    State.fget_wr_of_ne _ _ _ hne⟩

theorem State.fset_shed {r : Nat} (f : Fld) (v : Nat) (h : faultReg c r) (hne : Reg.fulCSeq c ≠ r) : Shed s (s.fset r f v) c := s.wr_shed c _ h hne

theorem State.fsat_shed {r : Nat} (f : Fld) (n : Nat) (h : faultReg c r) (hne : Reg.fulCSeq c ≠ r) : Shed s (s.fsat r f n) c := s.wr_shed c _ h hne

theorem State.ctxRetire_shed (seq : Nat) : Shed s (s.ctxRetire c seq) c :=
  ⟨⟨_, _, rfl⟩, fun _ _ => rfl, rfl, rfl, ⟨[], (List.append_nil _).symm⟩,
    fun _ hr => State.rd_fset_of_ne _ _ _ fun he => hr (.inr (.inr (.inr (.inl he)))), State.fget_fset_of_disjoint _ _ _ (by decide)⟩

theorem State.raise_shed (src : Nat) (h : src < 0x10000) : Shed s (s.raise src) c := by
  have hlo (r : Nat) (hr : ¬ faultReg c r) : r ≠ Reg.fcruPend (src / 64) := fun he => hr (.inl (by unfold Reg.fcruPend at he; omega))
  refine ⟨⟨_, _, rfl⟩, fun _ _ => rfl, rfl, rfl, ⟨_, rfl⟩, fun r hr => State.rd_raise_of_ne _ (hlo r hr), State.fget_raise_of_ne _ _ ?_⟩
  unfold Reg.fulCSeq Reg.fcruPend
  omega

theorem State.ctxEvent_shed (e : Nat) : Shed s (s.ctxEvent c e) c := by
  have hne : Reg.fulCSeq c ≠ Reg.fulCEvent c := (fulCSeq_ne c c).2.1
  refine ⟨⟨_, _, s.ctx_ctxEvent c e c⟩, fun j _ => s.ctx_ctxEvent c e j, ?_, ?_, ⟨[], ?_⟩,
    fun r hr => s.rd_ctxEvent_of_ne c e fun he => hr (.inr (.inr (.inl he))), State.fget_of_rd (s.rd_ctxEvent_of_ne c e hne) _⟩ <;>
    rw [s.ctxEvent_frame c e]
  exact (List.append_nil _).symm

theorem State.modCtx_shed {f : Ctx → Ctx} (hf : ∃ q v, f (s.ctx c) = { s.ctx c with queue := q, ret := v }) : Shed s (s.modCtx c f) c :=
  ⟨by rwa [State.ctx_modCtx_same], fun _ hj => s.ctx_modCtx_of_ne f hj, rfl, rfl, ⟨[], (List.append_nil _).symm⟩, fun _ _ => rfl, rfl⟩

theorem State.ctxReturn_shed (tag : Nat) (v : Word) : Shed s (s.ctxReturn c tag v) c := s.modCtx_shed c ⟨_, _, rfl⟩

theorem State.ctxCancel_shed (o : FulOp) (stopped : Bool) : Shed s (s.ctxCancel c o stopped) c := by
  have h : Shed s ((s.fsat (Reg.fulCCnt c) Reg.fulCCnt_CANCELLED 1).ctxRetire c o.seq) c :=
    (s.fsat_shed c _ _ (.inr (.inr (.inr (.inr (.inl rfl))))) (fulCSeq_ne c c).2.2).trans (State.ctxRetire_shed _ c _)
  unfold State.ctxCancel
  dsimp only
  split
  · exact h.trans (State.ctxReturn_shed _ c _ _)
  · exact h

/-- A cancellation writes the count of those and the last sequence number retired. -/
theorem State.rd_ctxCancel_of_ne (o : FulOp) (stopped : Bool) {r : Nat} (hc : r ≠ Reg.fulCCnt c) (hs : r ≠ Reg.fulCSeq c) :
    (s.ctxCancel c o stopped).rd r = s.rd r := by
  have h : (s.ctxCancel c o stopped).rd r = ((s.fsat (Reg.fulCCnt c) Reg.fulCCnt_CANCELLED 1).ctxRetire c o.seq).rd r := by
    unfold State.ctxCancel
    dsimp only
    split <;> rfl
  rw [h, State.ctxRetire, State.rd_fset_of_ne _ _ _ hs, State.rd_fsat_of_ne _ _ _ hc]

theorem State.rd_ctxCancels_of_ne (l : List FulOp) {r : Nat} (hc : r ≠ Reg.fulCCnt c) (hs : r ≠ Reg.fulCSeq c) :
    (l.foldl (fun s q => s.ctxCancel c q false) s).rd r = s.rd r := by
  induction l generalizing s with
  | nil => rfl
  | cons q l ih => exact (ih _).trans (s.rd_ctxCancel_of_ne c q false hc hs)

theorem State.fulUpd_shed : Shed s (s.fulUpd c) c := by
  obtain ⟨hs, he, -⟩ := fulCSeq_ne c c
  have hrest := s.fulUpd_fulOnly c
  unfold State.FulOnly at hrest
  refine ⟨⟨_, _, s.ctx_fulUpd c c⟩, fun j _ => s.ctx_fulUpd c j, ?_, s.fulUpd_ful c, ⟨[], ?_⟩,
    fun r hr => s.rd_fulUpd_of_ne c (fun he => hr (.inr (.inl he))) fun he => hr (.inr (.inr (.inl he))), State.fget_of_rd (s.rd_fulUpd_of_ne c hs he) _⟩
  · rw [hrest]
  · rw [hrest]
    exact (List.append_nil _).symm

end

/-! ### The record of a fault -/

/-- The fault of an instruction is recorded: the record, the state FAULTED, the source and the event. -/
def State.recordFault (s : State) (c : Nat) (o : FulOp) (cause elem va : Nat) (write : Bool) : State :=
  (((((((s.wr (Reg.fulCCtxFault c) (BitVec.ofNat 64 (o.seq % 2 ^ 32 + 2 ^ 32 * (cause % 64) + 2 ^ 38 + 2 ^ 39 * b2n write))).wr
    (Reg.fulCCtxFaultElem c) (BitVec.ofNat 64 (elem % 2 ^ 32))).wr (Reg.fulCCtxFaultVa c) (BitVec.ofNat 64 (va % 2 ^ 48))).ctxRetire c o.seq).fset
    (Reg.fulCState c) Reg.fulCState_STATE cxFAULTED).raise (0x103 + 8 * c)).ctxEvent c 1)

/-- The instructions behind a fault leave the queue, and the instruction that faulted returns 0 if it is to return a value. -/
def State.cancelYounger (s : State) (c : Nat) (o : FulOp) : State :=
  let z := (((s.ctx c).queue.filter fun q => seqOlder o.seq q.seq && !fwIsVsync q.word).foldl (fun s q => s.ctxCancel c q false) s).modCtx c fun x =>
    { x with queue := x.queue.filter fun q => !(seqOlder o.seq q.seq && !fwIsVsync q.word) }
  if fwReturns o.word then z.ctxReturn c o.tag 0 else z

section
variable (s : State) (c : Nat) (o : FulOp) (cause elem va : Nat) (write : Bool)

theorem State.ctxFault_cases : s.ctxFault c o cause elem va write = (s.ctxCancel c o false).fulUpd c ∨
    ∃ u, s.ctxFault c o cause elem va write = ((u.recordFault c o cause elem va write).cancelYounger c o).fulUpd c ∧
      (u = s ∨ s.cxState c = cxFAULTED ∧ u = s.fsat (Reg.fulCCnt c) Reg.fulCCnt_CANCELLED 1) := by
  unfold State.ctxFault
  dsimp only
  split
  · exact .inl rfl
  · refine .inr ⟨if s.cxState c = cxFAULTED then s.fsat (Reg.fulCCnt c) Reg.fulCCnt_CANCELLED 1 else s, rfl, ?_⟩
    split
    next h => exact .inr ⟨h, rfl⟩
    · exact .inl rfl

theorem State.recordFault_shed (hc : c < 8) : Shed s (s.recordFault c o cause elem va write) c := by
  have h1 := s.wr_shed c (BitVec.ofNat 64 (o.seq % 2 ^ 32 + 2 ^ 32 * (cause % 64) + 2 ^ 38 + 2 ^ 39 * b2n write)) (r := Reg.fulCCtxFault c)
    (by simp [faultReg]) (by unfold Reg.fulCSeq Reg.fulCCtxFault; omega)
  have h2 := h1.trans (State.wr_shed _ c (BitVec.ofNat 64 (elem % 2 ^ 32)) (r := Reg.fulCCtxFaultElem c)
    (by simp [faultReg]) (by unfold Reg.fulCSeq Reg.fulCCtxFaultElem; omega))
  have h3 := h2.trans (State.wr_shed _ c (BitVec.ofNat 64 (va % 2 ^ 48)) (r := Reg.fulCCtxFaultVa c)
    (by simp [faultReg]) (by unfold Reg.fulCSeq Reg.fulCCtxFaultVa; omega))
  have h4 := (h3.trans (State.ctxRetire_shed _ c o.seq)).trans (State.fset_shed _ c Reg.fulCState_STATE cxFAULTED (r := Reg.fulCState c)
    (by simp [faultReg]) (fulCSeq_ne c c).1)
  exact (h4.trans (State.raise_shed _ c (0x103 + 8 * c) (by omega))).trans (State.ctxEvent_shed _ c 1)

theorem State.cancelYounger_shed : Shed s (s.cancelYounger c o) c := by
  have h := (Shed.foldl (fun s q => s.ctxCancel_shed c q false) ((s.ctx c).queue.filter fun q => seqOlder o.seq q.seq && !fwIsVsync q.word) s).trans
    (State.modCtx_shed _ c (f := fun x => { x with queue := x.queue.filter fun q => !(seqOlder o.seq q.seq && !fwIsVsync q.word) }) ⟨_, _, rfl⟩)
  unfold State.cancelYounger
  dsimp only
  split
  · exact h.trans (State.ctxReturn_shed _ c _ _)
  · exact h

theorem State.rd_cancelYounger_of_ne {r : Nat} (hn : r ≠ Reg.fulCCnt c) (hs : r ≠ Reg.fulCSeq c) : (s.cancelYounger c o).rd r = s.rd r := by
  have h : (s.cancelYounger c o).rd r =
      (((s.ctx c).queue.filter fun q => seqOlder o.seq q.seq && !fwIsVsync q.word).foldl (fun s q => s.ctxCancel c q false) s).rd r := by
    unfold State.cancelYounger
    dsimp only
    split <;> rfl
  rw [h, State.rd_ctxCancels_of_ne s c _ hn hs]

theorem State.ctxFault_shed (hc : c < 8) : Shed s (s.ctxFault c o cause elem va write) c := by
  rcases s.ctxFault_cases c o cause elem va write with h | ⟨u, h, hu⟩
  · rw [h]
    exact (s.ctxCancel_shed c o false).trans (State.fulUpd_shed _ c)
  · have hsu : Shed s u c := by
      rcases hu with rfl | ⟨-, rfl⟩
      · exact .refl _ c
      · exact s.fsat_shed c _ _ (.inr (.inr (.inr (.inr (.inl rfl))))) (fulCSeq_ne c c).2.2
    rw [h]
    exact hsu.trans ((u.recordFault_shed c o cause elem va write hc).trans ((State.cancelYounger_shed _ c o).trans (State.fulUpd_shed _ c)))

end

/-- An instruction has faulted in a context that was not FAULTED. -/
structure Faulted (s t : State) (c : Nat) (o : FulOp) (cause elem va : Nat) (write : Bool) : Prop where
  shed  : Shed s t c
  state : t.cxState c = cxFAULTED
  fault : t.rd (Reg.fulCCtxFault c) = BitVec.ofNat 64 (o.seq % 2 ^ 32 + 2 ^ 32 * (cause % 64) + 2 ^ 38 + 2 ^ 39 * b2n write)
  elem  : t.rd (Reg.fulCCtxFaultElem c) = BitVec.ofNat 64 (elem % 2 ^ 32)
  va    : t.rd (Reg.fulCCtxFaultVa c) = BitVec.ofNat 64 (va % 2 ^ 48)
  event : bit (t.rd (Reg.fulCEvent c)) (Reg.fulCEvent_PEND.lo + 1) = true

/-- FAULTED stands, and the registers but the state register. -/
theorem State.rd_fulUpd_fixed_of_ne {s : State} {c : Nat} (h : cxFixed (s.cxState c)) {r : Nat} (hr : r ≠ Reg.fulCState c) : (s.fulUpd c).rd r = s.rd r := by
  obtain ⟨u, rfl, ⟨-, hu⟩ | ⟨hn, -⟩⟩ := s.fulUpd_cases c
  · rw [hu, State.rd_fset_of_ne _ _ _ hr]
  · exact absurd h hn

section
variable {s : State} {c : Nat} (o : FulOp) (cause elem va : Nat) (write : Bool)

/-- The registers of the record, the rest of the state register apart. -/
theorem State.recordFault_rd :
    let t := s.recordFault c o cause elem va write
    t.cxState c = cxFAULTED ∧ t.rd (Reg.fulCCtxFault c) = BitVec.ofNat 64 (o.seq % 2 ^ 32 + 2 ^ 32 * (cause % 64) + 2 ^ 38 + 2 ^ 39 * b2n write) ∧
      t.rd (Reg.fulCCtxFaultElem c) = BitVec.ofNat 64 (elem % 2 ^ 32) ∧ t.rd (Reg.fulCCtxFaultVa c) = BitVec.ofNat 64 (va % 2 ^ 48) ∧
      bit (t.rd (Reg.fulCEvent c)) (Reg.fulCEvent_PEND.lo + 1) = true := by
  refine ⟨?_, ?_, ?_, ?_, State.ctxEvent_pends _ c (by omega)⟩
  · have hpend : Reg.fulCState c ≠ Reg.fcruPend ((0x103 + 8 * c) / 64) := by
      unfold Reg.fulCState Reg.fcruPend
      omega
    have h : (s.recordFault c o cause elem va write).rd (Reg.fulCState c) = _ :=
      (State.rd_ctxEvent_of_ne _ c 1 (fulCState_ne_fulCEvent c c)).trans (State.rd_raise_of_ne _ hpend)
    rw [State.cxState, State.fget_of_rd h, State.fget_fset _ _ _ (by decide)]
    rfl
  all_goals
    unfold State.recordFault State.ctxRetire Reg.fulCSeq Reg.fulCState Reg.fulCCtxFault Reg.fulCCtxFaultElem Reg.fulCCtxFaultVa
    rw [State.rd_ctxEvent_of_ne _ _ _ (by unfold Reg.fulCEvent; omega), State.rd_raise_of_ne _ (by unfold Reg.fcruPend; omega)]
    simp [State.rd_fset, State.rd_wr]

/-- A fault in a context that is not FAULTED. -/
theorem State.ctxFault_faulted (hc : c < 8) (h : s.cxState c ≠ cxFAULTED) : Faulted s (s.ctxFault c o cause elem va write) c o cause elem va write := by
  let u := s.recordFault c o cause elem va write
  have heq : s.ctxFault c o cause elem va write = (u.cancelYounger c o).fulUpd c := by
    unfold State.ctxFault
    dsimp only
    rw [if_neg (fun hf => h hf.1), if_neg h]
    rfl
  obtain ⟨hst, hfault, helem, hva, hevent⟩ := State.recordFault_rd (s := s) o cause elem va write
  have hstate : (u.cancelYounger c o).cxState c = cxFAULTED :=
    (State.cxState_of_rd (u.rd_cancelYounger_of_ne c o (fulCCnt_ne c c).1.symm (fulCSeq_ne c c).1.symm)).1.trans hst
  have hrd (k : Nat) (h8 : k ≠ 0x8) (h10 : k ≠ 0x10) (h50 : k ≠ 0x50) :
      ((u.cancelYounger c o).fulUpd c).rd (0x41000 + k + 0x100 * c) = u.rd (0x41000 + k + 0x100 * c) := by
    have hne {j : Nat} (h : k ≠ j) : 0x41000 + k + 0x100 * c ≠ 0x41000 + j + 0x100 * c := by omega
    exact (State.rd_fulUpd_fixed_of_ne (.inr (.inl hstate)) (hne h8)).trans (u.rd_cancelYounger_of_ne c o (hne h50) (hne h10))
  refine ⟨s.ctxFault_shed c o cause elem va write hc, ?_, ?_, ?_, ?_, ?_⟩ <;> rw [heq]
  · exact State.cxState_fulUpd_faulted hstate
  · exact (hrd 0x20 (by decide) (by decide) (by decide)).trans hfault
  · exact (hrd 0x28 (by decide) (by decide) (by decide)).trans helem
  · exact (hrd 0x30 (by decide) (by decide) (by decide)).trans hva
  · rw [show Reg.fulCEvent c = 0x41000 + 0x38 + 0x100 * c from rfl, hrd 0x38 (by decide) (by decide) (by decide)]
    exact hevent

end

end Sys2Proof.Machine
end

section
/-!
PROOFS. Acceptance of the packets of a Fuller context, and the completion and expiry of its instructions (Obligations.ContextAcceptanceAndCompletion).
-/

namespace Sys2Proof.Machine

/-! ### A packet reaches acceptance (R191, R196) -/

/-- The number that the next instruction of a context takes. -/
def State.nextSeq (s : State) (c : Nat) : Nat := (s.fget (Reg.fulCSeq c) Reg.fulCSeq_ACCEPTED + 1) % 2 ^ 32

/-- The instruction that a packet becomes. -/
def State.packetOp (s : State) (c : Nat) (p : FulPkt) : FulOp :=
  { seq := s.nextSeq c, word := p.word, a := p.a, b := p.b, tag := p.tag, vl := s.fget (Reg.fulCVtype c) Reg.fulCVtype_VL,
    vtype := s.fget (Reg.fulCVtype c) Reg.fulCVtype_VTYPE, deferred := false, written := [], next := 0,
    newVl := none, old := [], oldBad := [] }

/-- The machine with a packet taken from the crossing of its context. -/
def State.takesPacket (s : State) (c : Nat) (ok : Bool) (rest : List FulPkt) : State :=
  let z := (s.modCtx c fun x => { x with crossing := rest }).fset (Reg.fulCSeq c) Reg.fulCSeq_ACCEPTED (s.nextSeq c)
  if ok then z else z.raise (0x107 + 8 * c)

/-- From `s` to `t` context `c` has taken a packet, behind which `rest` waits: its registers and what it runs are as they were, and so is memory. -/
structure TookPacket (s t : State) (c : Nat) (rest : List FulPkt) : Prop where
  crossing : (t.ctx c).crossing = rest
  accepted : t.fget (Reg.fulCSeq c) Reg.fulCSeq_ACCEPTED = s.nextSeq c
  v        : (t.ctx c).v = (s.ctx c).v
  m        : (t.ctx c).m = (s.ctx c).m
  run      : (t.ctx c).run = (s.ctx c).run
  others   : ∀ j, j ≠ c → t.ctx j = s.ctx j
  mem      : t.mem = s.mem

theorem State.nextSeq_lt (s : State) (c : Nat) : s.nextSeq c < 2 ^ 32 := Nat.mod_lt _ (by decide)

section
variable {s t u : State} {c : Nat} {ok : Bool} {p : FulPkt} {rest : List FulPkt}

/-- What follows acceptance in the same context. -/
theorem TookPacket.step (h : TookPacket s u c rest) (hctx : ∃ q v n, t.ctx c = { u.ctx c with queue := q, ret := v, wdogFrom := n })
    (hothers : ∀ j, j ≠ c → t.ctx j = u.ctx j) (hmem : t.mem = u.mem)
    (hacc : t.fget (Reg.fulCSeq c) Reg.fulCSeq_ACCEPTED = u.fget (Reg.fulCSeq c) Reg.fulCSeq_ACCEPTED) : TookPacket s t c rest := by
  obtain ⟨q, v, n, hc⟩ := hctx
  refine ⟨?_, hacc.trans h.accepted, ?_, ?_, ?_, fun j hj => (hothers j hj).trans (h.others j hj), hmem.trans h.mem⟩ <;> rw [hc]
  · exact h.crossing
  · exact h.v
  · exact h.m
  · exact h.run

theorem TookPacket.shed (h : TookPacket s u c rest) (k : Shed u t c) : TookPacket s t c rest := by
  obtain ⟨q, v, hc⟩ := k.ctx
  exact h.step ⟨q, v, _, hc⟩ k.others (by rw [k.rest]) k.accepted

theorem State.ctx_takesPacket (s : State) (c : Nat) (ok : Bool) (rest : List FulPkt) (j : Nat) :
    (s.takesPacket c ok rest).ctx j = if j = c then { s.ctx c with crossing := rest } else s.ctx j := by
  have h : (s.takesPacket c ok rest).ctx j = (s.modCtx c fun x => { x with crossing := rest }).ctx j := by
    unfold State.takesPacket
    dsimp only
    split <;> rfl
  rw [h, State.ctx_modCtx]

/-- Acceptance writes the sequence number, and for bad parity the FCRU's pending bits. -/
theorem State.rd_takesPacket_of_ne (s : State) {c : Nat} (ok : Bool) (rest : List FulPkt) {r : Nat} (hc : c < 8) (hr : 0x40000 ≤ r) (hs : r ≠ Reg.fulCSeq c) :
    (s.takesPacket c ok rest).rd r = s.rd r := by
  unfold State.takesPacket
  dsimp only
  split
  · exact State.rd_fset_of_ne _ _ _ hs
  · exact (State.rd_raise_of_ne _ (by unfold Reg.fcruPend; omega)).trans (State.rd_fset_of_ne _ _ _ hs)

theorem State.takesPacket_took (s : State) (c : Nat) (ok : Bool) (rest : List FulPkt) : TookPacket s (s.takesPacket c ok rest) c rest := by
  have hacc : (s.takesPacket c ok rest).rd (Reg.fulCSeq c) =
      ((s.modCtx c fun x => { x with crossing := rest }).fset (Reg.fulCSeq c) Reg.fulCSeq_ACCEPTED (s.nextSeq c)).rd (Reg.fulCSeq c) := by
    unfold State.takesPacket
    dsimp only
    split
    · rfl
    · exact State.rd_raise_of_ne _ (by unfold Reg.fulCSeq Reg.fcruPend; omega)
  refine ⟨?_, ?_, ?_, ?_, ?_, fun j hj => ?_, ?_⟩
  · rw [State.ctx_takesPacket, if_pos rfl]
  · rw [State.fget_of_rd hacc, State.fget_fset _ _ _ (by decide)]
    exact Nat.mod_eq_of_lt (s.nextSeq_lt c)
  · rw [State.ctx_takesPacket, if_pos rfl]
  · rw [State.ctx_takesPacket, if_pos rfl]
  · rw [State.ctx_takesPacket, if_pos rfl]
  · rw [State.ctx_takesPacket, if_neg hj]
  · unfold State.takesPacket
    dsimp only
    split <;> rfl

theorem State.cxState_takesPacket (s : State) {c : Nat} (ok : Bool) (rest : List FulPkt) (hc : c < 8) :
    (s.takesPacket c ok rest).cxState c = s.cxState c :=
  (State.cxState_of_rd (s.rd_takesPacket_of_ne ok rest hc (by unfold Reg.fulCState; omega) (fulCSeq_ne c c).1.symm)).1

theorem State.acceptHead_eq {is : BitVec 32 → Bool} (hx : (s.ctx c).crossing = p :: rest) (hlen : (s.ctx c).queue.length < 16) (his : is p.word = true) :
    s.acceptHead c ok is = s.acceptPkt c ok p rest := by
  unfold State.acceptHead
  rw [hx]
  exact if_pos (by simp [his, hlen])

/-! The branches of acceptance, by the state of the context. -/

theorem State.acceptPkt_stopped (hc : c < 8) (h : s.cxState c = cxSTOPPED) :
    s.acceptPkt c ok p rest = (s.takesPacket c ok rest).ctxCancel c (s.packetOp c p) true :=
  if_pos ((s.cxState_takesPacket ok rest hc).trans h)

theorem State.acceptPkt_faulted (hc : c < 8) (h : s.cxState c = cxFAULTED) (hv : fwIsVsync p.word = false) :
    s.acceptPkt c ok p rest = ((s.takesPacket c ok rest).ctxCancel c (s.packetOp c p) false).fulUpd c := by
  have hst := s.cxState_takesPacket ok rest hc
  exact (if_neg (fun hs => by exact absurd (h.symm.trans (hst.symm.trans hs)) (by decide))).trans (if_pos ⟨hst.trans h, by simp [hv]⟩)

section
variable (hc : c < 8) (hstop : s.cxState c ≠ cxSTOPPED) (hfault : s.cxState c ≠ cxFAULTED)
include hc hstop hfault

theorem State.acceptPkt_badParity : s.acceptPkt c false p rest = (s.takesPacket c false rest).ctxFault c (s.packetOp c p) 0x06 0 0 false := by
  have hst := s.cxState_takesPacket false rest hc
  exact (if_neg (fun h => hstop (hst.symm.trans h))).trans ((if_neg (fun h => hfault (hst.symm.trans h.1))).trans (if_pos rfl))

theorem State.acceptPkt_bad (h : acceptCause p.word (s.packetOp c p).vtype p.a p.b ≠ 0) : s.acceptPkt c true p rest =
    (s.takesPacket c true rest).ctxFault c (s.packetOp c p) (acceptCause p.word (s.packetOp c p).vtype p.a p.b) 0 0 false := by
  have hst := s.cxState_takesPacket true rest hc
  exact (if_neg (fun h => hstop (hst.symm.trans h))).trans ((if_neg (fun h => hfault (hst.symm.trans h.1))).trans
    ((if_neg (fun h => by cases h)).trans (if_pos h)))

variable (hgood : acceptCause p.word (s.packetOp c p).vtype p.a p.b = 0)
include hgood

/-- A packet without fault in a live context acts or joins the queue. -/
theorem State.acceptPkt_good : s.acceptPkt c true p rest =
    let u := s.takesPacket c true rest
    let o := s.packetOp c p
    if fwIsVshape p.word then
      (u.wr (Reg.fulCVtype c) (BitVec.ofNat 64 (p.a.toNat % 2 ^ 16 + 2 ^ 16 * (p.b.toNat % 512)))).actsNow c o
        (BitVec.ofNat 64 (vtVlmax (p.b.toNat % 512)))
    else if fwIsVgetvl p.word then u.actsNow c o (BitVec.ofNat 64 (o.vl + 2 ^ 16 * o.vtype))
    else if fwIsVrdseq p.word then u.actsNow c o (BitVec.ofNat 64 (s.nextSeq c))
    else (((u.modCtx c fun x => { x with queue := x.queue ++ [o] }).wakeOnAccept c true).fulUpd c).noteBusy := by
  have hst := s.cxState_takesPacket true rest hc
  exact (if_neg (fun h => hstop (hst.symm.trans h))).trans ((if_neg (fun h => hfault (hst.symm.trans h.1))).trans
    ((if_neg (fun h => by cases h)).trans (if_neg (not_not.mpr hgood))))

end

end

/-! ### Values at acceptance (R198, R201) -/

theorem State.noteBusy_frame (s : State) : s.noteBusy = { s with ful := { s.ful with busy := s.noteBusy.ful.busy } } := by
  have h (l : List Nat) (s : State) :
      let t := l.foldl (fun s i => if s.sliceIdle i then s else { s with ful := { s.ful with busy := SMap.put 0 s.ful.busy i s.ticks } }) s
      t = { s with ful := { s.ful with busy := t.ful.busy } } := by
    induction l generalizing s with
    | nil => rfl
    | cons i l ih =>
      dsimp only at ih ⊢
      rw [List.foldl_cons, ih]
      split <;> rfl
  exact h [0, 1, 2, 3] s

theorem State.noteBusy_fulOnly (s : State) : s.FulOnly s.noteBusy := by
  unfold State.FulOnly
  rw [s.noteBusy_frame]

theorem State.noteBusy_mem (s : State) : s.noteBusy.mem = s.mem := by rw [s.noteBusy_frame]

theorem State.ctx_noteBusy (s : State) (j : Nat) : s.noteBusy.ctx j = s.ctx j := by
  rw [s.noteBusy_frame]
  rfl

theorem State.rd_noteBusy (s : State) (r : Nat) : s.noteBusy.rd r = s.rd r := by
  rw [s.noteBusy_frame]
  rfl

/-- From `s` to `t` registers have changed, and of those none but the ones listed. -/
structure WritesOnly (s t : State) (l : List Nat) : Prop where
  rest : t = { s with regs := t.regs }
  rd   : ∀ r, r ∉ l → t.rd r = s.rd r

theorem WritesOnly.refl (s : State) (l : List Nat) : WritesOnly s s l := ⟨rfl, fun _ _ => rfl⟩

theorem WritesOnly.trans {s t u : State} {l : List Nat} (h : WritesOnly s t l) (k : WritesOnly t u l) : WritesOnly s u l :=
  ⟨by rw [k.rest, h.rest], fun r hr => (k.rd r hr).trans (h.rd r hr)⟩

theorem WritesOnly.mem {s t : State} {l : List Nat} (h : WritesOnly s t l) : t.mem = s.mem := by
  rw [h.rest]

theorem State.wr_writesOnly (s : State) {r : Nat} {l : List Nat} (v : Word) (h : r ∈ l) : WritesOnly s (s.wr r v) l :=
  ⟨rfl, fun _ hq => State.rd_wr_of_ne _ _ fun he => hq (he ▸ h)⟩

/-- The wakes that an acceptance causes are seen in the FUL block's status and counts and in the context's state register. -/
theorem State.wakeOnAccept_writesOnly (s : State) (c : Nat) (stalls : Bool) :
    WritesOnly s (s.wakeOnAccept c stalls) [Reg.fulStatus, Reg.fulPgStat, Reg.fulCState c] := by
  have hwake (l : List Nat) (s : State) : WritesOnly s (l.foldl (fun s i =>
      (s.wr Reg.fulStatus (setBits (s.rd Reg.fulStatus) (4 + i) 1 1)).fsat Reg.fulPgStat Reg.fulPgStat_WAKES 1) s)
      [Reg.fulStatus, Reg.fulPgStat, Reg.fulCState c] := by
    induction l generalizing s with
    | nil => exact .refl _ _
    | cons i l ih => exact ((s.wr_writesOnly _ (by simp)).trans (State.wr_writesOnly _ _ (by simp))).trans (ih _)
  unfold State.wakeOnAccept
  dsimp only
  split
  · exact .refl _ _
  · have h := (hwake (([0, 1, 2, 3].filter fun i => (s.curGrant c).testBit i && !bit (s.rd Reg.fulStatus) i).filter fun i =>
      !bit (s.rd Reg.fulStatus) (4 + i)) s).trans (State.wr_writesOnly _ _ (by simp) : WritesOnly _ (State.fset _ (Reg.fulCState c) Reg.fulCState_WAKE_WAIT 1) _)
    split
    · exact h.trans (State.wr_writesOnly _ _ (by simp))
    · exact h

theorem State.ctx_wakeOnAccept (s : State) (c : Nat) (stalls : Bool) (j : Nat) : (s.wakeOnAccept c stalls).ctx j = s.ctx j := by
  rw [(s.wakeOnAccept_writesOnly c stalls).rest]
  rfl

/-- An instruction that acts at acceptance returns its value, is counted and retired, and writes no register of its context's but those of its state,
events, counts and numbers. -/
structure ActedNow (u t : State) (c : Nat) (o : FulOp) (v : Word) : Prop where
  ctx      : ∃ n, t.ctx c = { u.ctx c with ret := (u.ctx c).ret ++ [(o.tag, v)], wdogFrom := n }
  others   : ∀ j, j ≠ c → t.ctx j = u.ctx j
  mem      : t.mem = u.mem
  accepted : t.fget (Reg.fulCSeq c) Reg.fulCSeq_ACCEPTED = u.fget (Reg.fulCSeq c) Reg.fulCSeq_ACCEPTED
  retired  : t.fget (Reg.fulCSeq c) Reg.fulCSeq_RETIRED = o.seq % 2 ^ 32
  counted  : t.fget (Reg.fulCCnt c) Reg.fulCCnt_COMPLETED = (u.fget (Reg.fulCCnt c) Reg.fulCCnt_COMPLETED + 1) % 2 ^ Reg.fulCCnt_COMPLETED.len
  vtype    : t.rd (Reg.fulCVtype c) = u.rd (Reg.fulCVtype c)

theorem fulCVtype_ne (c d : Nat) : Reg.fulCVtype c ≠ Reg.fulCState d ∧ Reg.fulCVtype c ≠ Reg.fulCEvent d ∧ Reg.fulCVtype c ≠ Reg.fulCSeq d ∧
    Reg.fulCVtype c ≠ Reg.fulCCnt d := by
  unfold Reg.fulCVtype Reg.fulCState Reg.fulCEvent Reg.fulCSeq Reg.fulCCnt
  omega

theorem not_mem_wakeRegs {c k : Nat} (hk : k ≠ 0x8) :
    0x41000 + k + 0x100 * c ∉ [Reg.fulStatus, Reg.fulPgStat, Reg.fulCState c] := by
  simp [Reg.fulStatus, Reg.fulPgStat, Reg.fulCState]
  omega

theorem State.actsNow_acted (u : State) (c : Nat) (o : FulOp) (v : Word) : ActedNow u (u.actsNow c o v) c o v := by
  let z := (u.ctxReturn c o.tag v).wakeOnAccept c false
  have hwake := (u.ctxReturn c o.tag v).wakeOnAccept_writesOnly c false
  have hfo := z.ctxComplete_fulOnly c o
  unfold State.FulOnly at hfo
  obtain ⟨n, hn⟩ := z.ctxComplete_moves c o
  have hctx (j : Nat) : (u.actsNow c o v).ctx j = if j = c then { z.ctx c with wdogFrom := n } else z.ctx j := (State.ctx_noteBusy _ j).trans (hn j)
  have hz (j : Nat) : z.ctx j = (u.ctxReturn c o.tag v).ctx j := State.ctx_wakeOnAccept _ _ _ _
  have hrd (r : Nat) : (u.actsNow c o v).rd r = (z.ctxComplete c o).rd r := State.rd_noteBusy _ r
  have hseq : z.rd (Reg.fulCSeq c) = u.rd (Reg.fulCSeq c) := hwake.rd _ (not_mem_wakeRegs (k := 0x10) (by decide))
  have hcnt : z.rd (Reg.fulCCnt c) = u.rd (Reg.fulCCnt c) := hwake.rd _ (not_mem_wakeRegs (k := 0x50) (by decide))
  have hvt : z.rd (Reg.fulCVtype c) = u.rd (Reg.fulCVtype c) := hwake.rd _ (not_mem_wakeRegs (k := 0x18) (by decide))
  obtain ⟨hret, hacc⟩ := z.ctxComplete_retired c o
  obtain ⟨hs, he, hq, hk⟩ := fulCVtype_ne c c
  refine ⟨⟨n, ?_⟩, fun j hj => ?_, ?_, ?_, ?_, ?_, ?_⟩
  · rw [hctx, if_pos rfl, hz, State.ctxReturn, State.ctx_modCtx_same]
  · rw [hctx, if_neg hj, hz, State.ctxReturn, State.ctx_modCtx_of_ne _ _ hj]
  · have hm : (z.ctxComplete c o).mem = z.mem := by rw [hfo]
    have hmz : z.mem = u.mem := hwake.mem
    rw [State.actsNow, State.noteBusy_frame]
    exact hm.trans hmz
  · rw [State.fget_of_rd (hrd _), hacc, State.fget_of_rd hseq]
  · rw [State.fget_of_rd (hrd _), hret]
  · rw [State.fget_of_rd (hrd _), State.ctxComplete_counted, State.fget_of_rd hcnt]
  · rw [hrd, State.rd_ctxComplete_of_ne _ _ _ hs he hq hk, hvt]

/-- A field is a quotient's remainder. -/
theorem bits_eq_div_mod (w : Word) (lo len : Nat) : bits w lo len = w.toNat / 2 ^ lo % 2 ^ len := by
  refine Nat.eq_of_testBit_eq fun i => ?_
  rw [testBit_bits, Nat.testBit_mod_two_pow, Nat.testBit_div_two_pow, BitVec.getLsbD, Nat.add_comm lo i]

/-- VLMAX of a VTYPE by its fields. -/
theorem vtVlmax_eq (b : Word) : vtVlmax b.toNat = 32768 * 2 ^ bits b 4 2 / elemBits (bits b 0 4) := by
  have hg : vtGroup b.toNat = 2 ^ bits b 4 2 := by
    rw [vtGroup, bits_eq_div_mod]
    rfl
  rw [vtVlmax, hg, bits_zero_len, ← elemBits_mod b.toNat]
  rfl

theorem vtVlmax_le (vt : Nat) : vtVlmax vt ≤ 32768 := by
  have hg : vtGroup vt ≤ 8 := by
    rw [vtGroup]
    have : vt / 16 % 4 < 4 := Nat.mod_lt _ (by decide)
    exact Nat.pow_le_pow_right (by decide) (by omega : vt / 16 % 4 ≤ 3)
  have he : 8 ≤ elemBits vt := by
    rcases elemBits_cases vt with h | h | h | h <;> omega
  rw [vtVlmax]
  exact Nat.div_le_of_le_mul (by nlinarith)

/-- What a VSHAPE without fault asks for (R198). -/
theorem acceptCause_vshape {w : BitVec 32} {vt : Nat} {a b : Word} (h : fwIsVshape w = true) (hc : acceptCause w vt a b = 0) :
    b.toNat < 512 ∧ a.toNat ≤ 32768 := by
  have hmax := vtVlmax_le b.toNat
  simp only [acceptCause, h, if_true] at hc
  split_ifs at hc with hundef hbad hlong
  simp only [Bool.or_eq_true, decide_eq_true_eq, not_or, ne_eq, not_not] at hbad
  omega

/-! ### Completion and expiry (R200, R208) -/

/-- What a completion is, up to the state register. -/
theorem State.ctxComplete_idle {u : State} {c : Nat} (o : FulOp) (h : u.cxState c = cxRUNNING) (hq : (u.ctx c).queue = []) (hr : (u.ctx c).run = []) :
    (u.ctxComplete c o).cxState c = cxIDLE ∧ bit ((u.ctxComplete c o).rd (Reg.fulCEvent c)) Reg.fulCEvent_PEND.lo = true := by
  let z := (u.fadd (Reg.fulCCnt c) Reg.fulCCnt_COMPLETED 1).ctxRetire c o.seq
  have hst : z.rd (Reg.fulCState c) = u.rd (Reg.fulCState c) :=
    (State.rd_fset_of_ne _ _ _ (fulCSeq_ne c c).1.symm).trans (State.rd_fset_of_ne _ _ _ (fulCCnt_ne c c).1.symm)
  obtain ⟨n, hn⟩ := z.wdogRestart_moves c
  have hctx : (z.wdogRestart c).ctx c = { u.ctx c with wdogFrom := n } := (hn c).trans (if_pos rfl)
  exact State.fulUpd_idle (s := z.wdogRestart c) ((State.cxState_of_rd hst).1.trans h) (by rw [hctx]; exact hq) (by rw [hctx]; exact hr)

/-- From `s` to `t` memory and the registers of context `c` may have become unspecified. -/
structure Unsettled (s t : State) (c : Nat) : Prop where
  strm   : (t.ctx c).strm = (s.ctx c).strm
  others : ∀ j, j ≠ c → t.ctx j = s.ctx j
  rest   : t = { s with ctxs := t.ctxs, mem := t.mem, free := t.free }

theorem Unsettled.refl (s : State) (c : Nat) : Unsettled s s c := ⟨rfl, fun _ _ => rfl, rfl⟩

theorem Unsettled.trans {s t u : State} {c : Nat} (h : Unsettled s t c) (k : Unsettled t u c) : Unsettled s u c :=
  ⟨k.strm.trans h.strm, fun j hj => (k.others j hj).trans (h.others j hj), by rw [k.rest, h.rest]⟩

theorem Unsettled.foldl {α : Type} {f : State → α → State} {c : Nat} (hf : ∀ (s : State) x, Unsettled s (f s x) c) (l : List α) (s : State) :
    Unsettled s (l.foldl f s) c := by
  induction l generalizing s with
  | nil => exact .refl s c
  | cons x l ih => exact (hf s x).trans (ih _)

/-- Changes of memory and of the count of free values. -/
theorem Unsettled.of_mem {s t : State} (c : Nat) (h : t = { s with mem := t.mem, free := t.free }) : Unsettled s t c :=
  ⟨by rw [h]; rfl, fun j _ => by rw [h]; rfl, by rw [h]⟩

theorem State.modCtx_unsettled (s : State) (c : Nat) {f : Ctx → Ctx} (h : ∀ x, (f x).strm = x.strm) : Unsettled s (s.modCtx c f) c :=
  ⟨by rw [State.ctx_modCtx_same, h], fun _ hj => s.ctx_modCtx_of_ne f hj, rfl⟩

theorem State.freeBytes_frame (s : State) (pa n : Nat) : s.freeBytes pa n = { s with mem := (s.freeBytes pa n).mem, free := (s.freeBytes pa n).free } := by
  induction n generalizing s pa with
  | zero => rfl
  | succ n ih =>
    unfold State.freeBytes
    dsimp only
    rw [ih]
    rfl

theorem State.freeBytes_unsettled (s : State) (c pa n : Nat) : Unsettled s (s.freeBytes pa n) c := .of_mem c (s.freeBytes_frame pa n)

/-- A part of an element that may still be written. -/
def State.freePart (s : State) (c va n : Nat) (ok : Nat → Bool) : State :=
  match s.peek c va with
  | some pa => if ok pa && (s.gateCause (ctxReq c .write pa n 0)).isNone then s.freeBytes pa n else s
  | none => s

theorem State.freePart_frame (s : State) (c va n : Nat) (ok : Nat → Bool) :
    s.freePart c va n ok = { s with mem := (s.freePart c va n ok).mem, free := (s.freePart c va n ok).free } := by
  unfold State.freePart
  split
  · split
    · exact s.freeBytes_frame _ _
    · rfl
  · rfl

theorem State.freeElem_frame (s : State) (c va n : Nat) (ok : Nat → Bool) :
    s.freeElem c va n ok = { s with mem := (s.freeElem c va n ok).mem, free := (s.freeElem c va n ok).free } := by
  have h : s.freeElem c va n ok = if firstPart va n = n then s.freePart c va n ok
      else (s.freePart c va (firstPart va n) ok).freePart c (va + firstPart va n) (n - firstPart va n) ok := rfl
  rw [h]
  split
  · exact s.freePart_frame c va n ok
  · rw [State.freePart_frame, State.freePart_frame]

theorem State.freeElem_unsettled (s : State) (c va n : Nat) (ok : Nat → Bool) : Unsettled s (s.freeElem c va n ok) c :=
  .of_mem c (s.freeElem_frame c va n ok)

/-- The memory that a store or a stream may still write to becomes unspecified. -/
def State.unspecifyMem (s : State) (c : Nat) (o : FulOp) : State :=
  if fwIsVst o.word then
    (List.range o.vl).foldl (fun s i =>
      if fwMemMasked o.word && !(s.ctx c).maskBit 0 i then s else s.freeElem c (regElemVa o i) (elemBits o.vtype / 8) fun _ => true) s
  else match fwIsStrm o.word, (s.ctx c).strm with
    | true, some st => (List.range (dDstCount st.desc)).foldl (fun s j =>
      s.freeElem c (s.dstVa c st.desc j).toNat (dBlk st.desc 3).size (dBlk st.desc 3).inMem) s
    | _, _ => s

theorem State.unspecifyMem_unsettled (s : State) (c : Nat) (o : FulOp) : Unsettled s (s.unspecifyMem c o) c := by
  unfold State.unspecifyMem
  split
  · refine Unsettled.foldl (fun s i => ?_) _ _
    split
    · exact .refl s c
    · exact s.freeElem_unsettled c _ _ _
  · split
    · exact Unsettled.foldl (fun s j => s.freeElem_unsettled c _ _ _) _ _
    · exact .refl s c

theorem State.unspecify_unsettled (s : State) (c : Nat) (o : FulOp) : Unsettled s (s.unspecify c o) c := by
  have hregs (f : Ctx → Ctx) (n : Nat) (h : ∀ x, (f x).strm = x.strm) : Unsettled s { s.modCtx c f with free := n } c :=
    (s.modCtx_unsettled c h).trans (.of_mem c rfl)
  have hwritten (z : State) : Unsettled z ((o.written.foldl (fun s p => s.freeBytes p.1 p.2) z).unspecifyMem c o) c :=
    (Unsettled.foldl (fun s (p : Nat × Nat) => s.freeBytes_unsettled c p.1 p.2) o.written z).trans (State.unspecifyMem_unsettled _ c o)
  refine Unsettled.trans ?_ (hwritten _)
  split
  · exact hregs _ _ fun _ => rfl
  · exact hregs _ _ fun _ => rfl
  · exact .refl s c

theorem State.stopElem_unsettled (s : State) (c d : Nat) (o : FulOp) : Unsettled s (s.stopElem d o).2 c := by
  unfold State.stopElem
  split
  · exact .refl s c
  · split
    · exact .refl s c
    · exact .of_mem c rfl

theorem Ctx.restore_strm (x : Ctx) (o : FulOp) (e : Nat) : (x.restore o e).strm = x.strm := by
  have h (f : Ctx → Nat → Ctx) (hf : ∀ y i, (f y i).strm = y.strm) (l : List Nat) (y : Ctx) : (l.foldl f y).strm = y.strm := by
    induction l generalizing y with
    | nil => rfl
    | cons i l ih => exact (ih _).trans (hf y i)
  unfold Ctx.restore
  refine h _ (fun y i => ?_) _ x
  split
  · rfl
  · split <;> rfl

theorem State.cutRun_unsettled (s : State) (c : Nat) (os : List FulOp) : Unsettled s (s.cutRun c os) c := by
  induction os with
  | nil => exact .refl s c
  | cons o os ih =>
    refine ih.trans ?_
    unfold State.cutRun
    rw [List.foldr_cons]
    split
    · exact .refl _ c
    · exact (State.stopElem_unsettled _ c c o).trans (State.modCtx_unsettled _ c fun x => x.restore_strm o _)

/-- The end of started work: what has become of the registers, then the record. -/
theorem State.killRun_eq {s : State} {c : Nat} {o : FulOp} {r : List FulOp} (h : (s.ctx c).run = o :: r) (cause : Nat) (overrun : Bool) :
    ∃ u e ph, Unsettled s u c ∧ s.killRun c cause overrun =
      ((((u.dropRun c ph).ctxFault c o cause e 0 false).cancelAll c r false).modCtx c fun x => { x with wdogFrom := 0 }).fulUpd c := by
  have hstop := s.stopElem_unsettled c c o
  have hcut : Unsettled s (if overrun then ((s.stopElem c o).2.cutRun c r).modCtx c
      fun x => if fwIsRegMem o.word then x else x.restore o (s.stopElem c o).1
      else (o :: r).foldl (fun s o => s.unspecify c o) (s.stopElem c o).2) c := by
    split
    · refine (hstop.trans (State.cutRun_unsettled _ c r)).trans (State.modCtx_unsettled _ c fun x => ?_)
      split
      · rfl
      · exact x.restore_strm o _
    · exact hstop.trans (Unsettled.foldl (fun s o => s.unspecify_unsettled c o) _ _)
  refine ⟨_, (s.stopElem c o).1, if fwIsStrm o.word then 5 else 7, hcut, ?_⟩
  unfold State.killRun
  rw [h]

/-- From `s` to `t` the started instructions of context `c` have ended. -/
structure Killed (s t : State) (c : Nat) : Prop where
  run      : (t.ctx c).run = []
  strm     : (t.ctx c).strm = none
  others   : ∀ j, j ≠ c → t.ctx j = s.ctx j
  rest     : t = { s with ctxs := t.ctxs, regs := t.regs, copies := t.copies, ful := t.ful, detected := t.detected, mem := t.mem, free := t.free }
  ful      : t.ful = { s.ful with busy := t.ful.busy }
  detected : ∃ l, t.detected = s.detected ++ l
  rd       : ∀ r, ¬ faultReg c r → r ≠ Reg.fulCStrmStat c → t.rd r = s.rd r

section
variable {s : State} {c : Nat} {o : FulOp} {r : List FulOp}

theorem State.ctx_dropRun (u : State) (c ph j : Nat) : (u.dropRun c ph).ctx j = if j = c then { u.ctx c with run := [], strm := none } else u.ctx j := by
  unfold State.dropRun
  dsimp only
  rw [State.ctx_modCtx]
  split <;> split <;> rfl

theorem State.dropRun_frame (u : State) (c ph : Nat) : u.dropRun c ph = { u with ctxs := (u.dropRun c ph).ctxs, regs := (u.dropRun c ph).regs } := by
  unfold State.dropRun
  dsimp only
  split <;> rfl

theorem State.rd_dropRun_of_ne (u : State) (c ph : Nat) {q : Nat} (h : q ≠ Reg.fulCStrmStat c) : (u.dropRun c ph).rd q = u.rd q := by
  unfold State.dropRun
  dsimp only
  split
  · exact State.rd_fset_of_ne _ _ _ h
  · rfl

/-- Without a stream no register is written. -/
theorem State.rd_dropRun_of_none {u : State} {c : Nat} (h : (u.ctx c).strm = none) (ph q : Nat) : (u.dropRun c ph).rd q = u.rd q := by
  unfold State.dropRun
  dsimp only
  rw [h]
  rfl

theorem State.cancelAll_shed (s : State) (c : Nat) (os : List FulOp) (stopped : Bool) : Shed s (s.cancelAll c os stopped) c :=
  Shed.foldl (fun s o => s.ctxCancel_shed c o stopped) os s

/-- What follows the record of the oldest: the younger ones are cancelled, the watchdog's count ends. -/
theorem State.killTail_killed {s u z : State} (hu : Unsettled s u c) (ph : Nat) (hz : Shed (u.dropRun c ph) z c) (r : List FulOp) :
    Killed s (((z.cancelAll c r false).modCtx c fun x => { x with wdogFrom := 0 }).fulUpd c) c := by
  let y := (z.cancelAll c r false).modCtx c fun x => { x with wdogFrom := 0 }
  have hzc := hz.trans (z.cancelAll_shed c r false)
  have hy := y.fulUpd_shed c
  obtain ⟨q, v, hctx⟩ := hzc.ctx
  obtain ⟨q', v', hctx'⟩ := hy.ctx
  obtain ⟨l, hd⟩ := hzc.detected
  obtain ⟨l', hd'⟩ := hy.detected
  have hyc : y.ctx c = { (z.cancelAll c r false).ctx c with wdogFrom := 0 } := State.ctx_modCtx_same _ c _
  have hfin : (y.fulUpd c).ctx c = { u.ctx c with run := [], strm := none, queue := q', ret := v', wdogFrom := 0 } := by
    rw [hctx', hyc, hctx, State.ctx_dropRun, if_pos rfl]
  have hyrest : y = { z.cancelAll c r false with ctxs := y.ctxs } := rfl
  refine ⟨?_, ?_, fun j hj => ?_, ?_, ?_, ⟨l ++ l', ?_⟩, fun k hk hne => ?_⟩
  · rw [hfin]
  · rw [hfin]
  · rw [hy.others j hj, State.ctx_modCtx_of_ne _ _ hj, hzc.others j hj, State.ctx_dropRun, if_neg hj, hu.others j hj]
  · rw [hy.rest, hyrest, hzc.rest, State.dropRun_frame, hu.rest]
  · rw [hy.ful, hyrest, hzc.ful, State.dropRun_frame, hu.rest]
  · rw [hd', hyrest, hd, State.dropRun_frame, hu.rest, List.append_assoc]
  · have hyk : y.rd k = (z.cancelAll c r false).rd k := rfl
    rw [hy.rd k hk, hyk, hzc.rd k hk, State.rd_dropRun_of_ne _ _ _ hne, hu.rest]
    rfl

theorem State.killRun_killed (hc : c < 8) (h : (s.ctx c).run = o :: r) (cause : Nat) (overrun : Bool) : Killed s (s.killRun c cause overrun) c := by
  obtain ⟨u, e, ph, hu, heq⟩ := State.killRun_eq h cause overrun
  rw [heq]
  exact State.killTail_killed hu ph (State.ctxFault_shed _ c o cause e 0 false hc) r

/-- The oldest started instruction is the one that faults. -/
theorem State.killRun_faulted (hc : c < 8) (h : (s.ctx c).run = o :: r) (hst : s.cxState c ≠ cxFAULTED) (hstrm : (s.ctx c).strm = none) (cause : Nat)
    (overrun : Bool) : (s.killRun c cause overrun).cxState c = cxFAULTED ∧
      (s.killRun c cause overrun).rd (Reg.fulCCtxFault c) = BitVec.ofNat 64 (o.seq % 2 ^ 32 + 2 ^ 32 * (cause % 64) + 2 ^ 38) := by
  obtain ⟨u, e, ph, hu, heq⟩ := State.killRun_eq h cause overrun
  have hregs (q : Nat) : (u.dropRun c ph).rd q = s.rd q := by
    rw [State.rd_dropRun_of_none (hu.strm.trans hstrm), hu.rest]
    rfl
  let z := (u.dropRun c ph).ctxFault c o cause e 0 false
  have hz : Faulted (u.dropRun c ph) z c o cause e 0 false :=
    State.ctxFault_faulted o cause e 0 false hc fun hf => hst ((State.cxState_of_rd (hregs _)).1.symm.trans hf)
  let y := (z.cancelAll c r false).modCtx c fun x => { x with wdogFrom := 0 }
  have hrd {q : Nat} (hn : q ≠ Reg.fulCCnt c) (hs : q ≠ Reg.fulCSeq c) : y.rd q = z.rd q := z.rd_ctxCancels_of_ne c r hn hs
  have hy : y.cxState c = cxFAULTED := (State.cxState_of_rd (hrd (fulCCnt_ne c c).1.symm (fulCSeq_ne c c).1.symm)).1.trans hz.state
  have hfault : (y.fulUpd c).rd (Reg.fulCCtxFault c) = z.rd (Reg.fulCCtxFault c) :=
    (State.rd_fulUpd_fixed_of_ne (.inr (.inl hy)) (by unfold Reg.fulCCtxFault Reg.fulCState; omega)).trans
      (hrd (by unfold Reg.fulCCtxFault Reg.fulCCnt; omega) (by unfold Reg.fulCCtxFault Reg.fulCSeq; omega))
  rw [heq]
  exact ⟨State.cxState_fulUpd_faulted hy, hfault.trans hz.fault⟩

end

/-! ### The commands -/

theorem State.ctxCancel_returns (s : State) (c : Nat) (o : FulOp) (stopped : Bool) :
    (s.ctxCancel c o stopped).ctx c = { s.ctx c with ret := (s.ctx c).ret ++ (if fwReturns o.word then
      [(o.tag, if stopped && fwIsVsync o.word then vsyncWord o.seq 2 0 (s.cxFlags c) else 0)] else []) } := by
  have hfl : ((s.fsat (Reg.fulCCnt c) Reg.fulCCnt_CANCELLED 1).ctxRetire c o.seq).cxFlags c = s.cxFlags c := by
    obtain ⟨-, -, hs, hc, -⟩ := fulCFflags_ne c c
    exact State.fget_of_rd ((State.rd_fset_of_ne _ _ _ hs).trans (State.rd_fset_of_ne _ _ _ hc)) _
  unfold State.ctxCancel
  dsimp only
  rw [hfl]
  split
  · exact State.ctx_modCtx_same _ c _
  · rw [List.append_nil]
    rfl

theorem State.ctxCancel_retired (s : State) (c : Nat) (o : FulOp) (stopped : Bool) :
    (s.ctxCancel c o stopped).fget (Reg.fulCSeq c) Reg.fulCSeq_RETIRED = o.seq % 2 ^ 32 := by
  have h : (s.ctxCancel c o stopped).rd (Reg.fulCSeq c) = ((s.fsat (Reg.fulCCnt c) Reg.fulCCnt_CANCELLED 1).ctxRetire c o.seq).rd (Reg.fulCSeq c) := by
    unfold State.ctxCancel
    dsimp only
    split <;> rfl
  rw [State.fget_of_rd h, State.ctxRetire, State.fget_fset _ _ _ (by decide)]
  rfl

section
variable {s : State} {c : Fin 8} {p : FulPkt} {rest : List FulPkt}

/-- A packet that faults. -/
theorem packet_faults (ok : Bool) {f : Nat} (hf : f < 64) (hst : s.cxState c ≠ cxFAULTED)
    (h : s.acceptPkt c ok p rest = (s.takesPacket c ok rest).ctxFault c (s.packetOp c p) f 0 0 false) :
    ∃ t, s.acceptPkt c ok p rest = t ∧ TookPacket s t c rest ∧ t.cxState c = cxFAULTED ∧
      t.rd (Reg.fulCCtxFault c) = BitVec.ofNat 64 (s.nextSeq c + 2 ^ 32 * f + 2 ^ 38) ∧ t.rd (Reg.fulCCtxFaultElem c) = 0 ∧
      t.rd (Reg.fulCCtxFaultVa c) = 0 ∧ bit (t.rd (Reg.fulCEvent c)) (Reg.fulCEvent_PEND.lo + 1) = true ∧
      t.rd (Reg.fulCVtype c) = s.rd (Reg.fulCVtype c) := by
  have hfault := State.ctxFault_faulted (s := s.takesPacket c ok rest) (s.packetOp c p) f 0 0 false c.isLt
    (by rwa [s.cxState_takesPacket ok rest c.isLt])
  refine ⟨_, h, (s.takesPacket_took c ok rest).shed hfault.shed, hfault.state, ?_, hfault.elem, hfault.va, hfault.event, ?_⟩
  · have hseq : (s.packetOp c p).seq % 2 ^ 32 = s.nextSeq c := Nat.mod_eq_of_lt (s.nextSeq_lt c)
    rw [hfault.fault, Nat.mod_eq_of_lt hf, hseq]
    rfl
  · obtain ⟨-, -, hne, -⟩ := fulCVtype_ne c c
    rw [hfault.shed.rd _ (not_faultReg_vtype c), s.rd_takesPacket_of_ne ok rest c.isLt (by unfold Reg.fulCVtype; omega) hne]

/-- A packet that is cancelled. -/
theorem packet_cancelled (ok : Bool) {t : State} {stopped : Bool} (h : Shed ((s.takesPacket c ok rest).ctxCancel c (s.packetOp c p) stopped) t c)
    (hctx : t.ctx c = ((s.takesPacket c ok rest).ctxCancel c (s.packetOp c p) stopped).ctx c)
    (hret : t.rd (Reg.fulCSeq c) = ((s.takesPacket c ok rest).ctxCancel c (s.packetOp c p) stopped).rd (Reg.fulCSeq c)) :
    TookPacket s t c rest ∧ (t.ctx c).queue = (s.ctx c).queue ∧ (t.ctx c).ret = (s.ctx c).ret ++ (if fwReturns p.word then [(p.tag,
      if stopped && fwIsVsync p.word then BitVec.ofNat 64 (s.nextSeq c + 2 ^ 32 * 2 + 2 ^ 40 * s.cxFlags c) else 0)] else []) ∧
      t.fget (Reg.fulCSeq c) Reg.fulCSeq_RETIRED = s.nextSeq c := by
  have hseq : s.nextSeq c % 2 ^ 32 = s.nextSeq c := Nat.mod_eq_of_lt (s.nextSeq_lt c)
  obtain ⟨-, -, hne, -⟩ := fulCFflags_ne c c
  have hfl : (s.takesPacket c ok rest).cxFlags c = s.cxFlags c :=
    State.fget_of_rd (s.rd_takesPacket_of_ne ok rest c.isLt (by unfold Reg.fulCFflags; omega) hne) _
  have hword : vsyncWord (s.nextSeq c) 2 0 (s.cxFlags c) = BitVec.ofNat 64 (s.nextSeq c + 2 ^ 32 * 2 + 2 ^ 40 * s.cxFlags c) := by
    rw [vsyncWord_eq _ (by decide) (by decide) (s.fget_lt _ _), hseq]
    rfl
  refine ⟨(s.takesPacket_took c ok rest).shed ((State.ctxCancel_shed _ c _ stopped).trans h), ?_, ?_, ?_⟩
  · rw [hctx, State.ctxCancel_returns, State.ctx_takesPacket, if_pos rfl]
  · rw [hctx, State.ctxCancel_returns, State.ctx_takesPacket, if_pos rfl, hfl, ← hword]
    rfl
  · rw [State.fget_of_rd hret, State.ctxCancel_retired]
    exact hseq

/-- A packet that acts at once. -/
theorem packet_acts {u : State} {v : Word} (hu : TookPacket s u c rest) (hctx : u.ctx c = { s.ctx c with crossing := rest })
    (hcnt : u.rd (Reg.fulCCnt c) = s.rd (Reg.fulCCnt c)) :
    let t := u.actsNow c (s.packetOp c p) v
    TookPacket s t c rest ∧ (t.ctx c).queue = (s.ctx c).queue ∧ (t.ctx c).ret = (s.ctx c).ret ++ [(p.tag, v)] ∧
      t.rd (Reg.fulCVtype c) = u.rd (Reg.fulCVtype c) ∧ t.fget (Reg.fulCSeq c) Reg.fulCSeq_RETIRED = s.nextSeq c ∧
      t.fget (Reg.fulCCnt c) Reg.fulCCnt_COMPLETED = (s.fget (Reg.fulCCnt c) Reg.fulCCnt_COMPLETED + 1) % 2 ^ Reg.fulCCnt_COMPLETED.len := by
  obtain ⟨⟨n, hn⟩, hothers, hmem, hacc, hret, hcount, hvt⟩ := u.actsNow_acted c (s.packetOp c p) v
  refine ⟨hu.step ⟨_, _, n, hn⟩ hothers hmem hacc, ?_, ?_, hvt, hret.trans (Nat.mod_eq_of_lt (s.nextSeq_lt c)), ?_⟩
  · rw [hn, hctx]
  · rw [hn, hctx]
    rfl
  · rw [hcount, State.fget_of_rd hcnt]

/-- A packet that joins the queue. -/
theorem packet_queues (c : Fin 8) (rest : List FulPkt) (o : FulOp) :
    let u := s.takesPacket c true rest
    let t := (((u.modCtx c fun x => { x with queue := x.queue ++ [o] }).wakeOnAccept c true).fulUpd c).noteBusy
    TookPacket s t c rest ∧ (t.ctx c).ret = (s.ctx c).ret ∧ (t.ctx c).queue = (s.ctx c).queue ++ [o] := by
  intro u t
  let y := u.modCtx c fun x => { x with queue := x.queue ++ [o] }
  have hw := y.wakeOnAccept_writesOnly c true
  have hf := (y.wakeOnAccept c true).fulUpd_fulOnly c
  unfold State.FulOnly at hf
  have hctx (j : Nat) : t.ctx j = y.ctx j := (State.ctx_noteBusy _ j).trans ((State.ctx_fulUpd _ c j).trans (State.ctx_wakeOnAccept _ c true j))
  have hyc : y.ctx c = { u.ctx c with queue := (u.ctx c).queue ++ [o] } := State.ctx_modCtx_same _ c _
  have huc : u.ctx c = { s.ctx c with crossing := rest } := (s.ctx_takesPacket c true rest c).trans (if_pos rfl)
  obtain ⟨hs, he, -⟩ := fulCSeq_ne c c
  have hseq : t.rd (Reg.fulCSeq c) = u.rd (Reg.fulCSeq c) :=
    (State.rd_noteBusy _ _).trans ((State.rd_fulUpd_of_ne _ c hs he).trans (hw.rd _ (not_mem_wakeRegs (k := 0x10) (by decide))))
  have hmem : t.mem = u.mem := by
    have hm : ((y.wakeOnAccept c true).fulUpd c).mem = (y.wakeOnAccept c true).mem := by rw [hf]
    have hn : t.mem = ((y.wakeOnAccept c true).fulUpd c).mem := State.noteBusy_mem _
    exact hn.trans (hm.trans hw.mem)
  refine ⟨(s.takesPacket_took c true rest).step ⟨_, _, _, (hctx c).trans hyc⟩ (fun j hj => (hctx j).trans (u.ctx_modCtx_of_ne _ hj)) hmem
    (State.fget_of_rd hseq _), ?_, ?_⟩
  · rw [hctx, hyc, huc]
  · rw [hctx, hyc, huc]

end

/-- The machine after a completion: a first-fault stream has left its VL. -/
def State.withNewVl (s : State) (c : Nat) (o : FulOp) : State :=
  match o.newVl with | some v => s.fset (Reg.fulCVtype c) Reg.fulCVtype_VL v | none => s

theorem State.withNewVl_fulOnly (s : State) (c : Nat) (o : FulOp) : s.FulOnly (s.withNewVl c o) := by
  unfold State.withNewVl
  split <;> rfl

theorem State.ctx_withNewVl (s : State) (c : Nat) (o : FulOp) (j : Nat) : (s.withNewVl c o).ctx j = s.ctx j := by
  unfold State.withNewVl
  split <;> rfl

theorem State.rd_withNewVl_of_ne (s : State) (c : Nat) (o : FulOp) {r : Nat} (h : r ≠ Reg.fulCVtype c) : (s.withNewVl c o).rd r = s.rd r := by
  unfold State.withNewVl
  split
  · exact State.rd_fset_of_ne _ _ _ h
  · rfl

section
variable {s : State} {c : Fin 8} {k : BitVec 5} {o : FulOp}

theorem instrComplete_waits (hk : (s.ctx c).run[k.toNat]? = some o)
    (h : (fwIsStrm o.word ∧ (s.ctx c).strm.isSome) ∨ (fwIsRegMem o.word ∧ o.next < o.vl)) : exec (.fulInstrComplete c k) s = .next s := by
  change execFulInstrComplete c k s = _
  unfold execFulInstrComplete
  rw [hk]
  exact if_pos h

theorem instrComplete_completes (hk : (s.ctx c).run[k.toNat]? = some o)
    (h : ¬ ((fwIsStrm o.word ∧ (s.ctx c).strm.isSome) ∨ (fwIsRegMem o.word ∧ o.next < o.vl))) : exec (.fulInstrComplete c k) s =
      .next (((s.withNewVl c o).modCtx c fun x => { x with run := x.run.eraseIdx k.toNat }).ctxComplete c o) := by
  change execFulInstrComplete c k s = _
  unfold execFulInstrComplete
  rw [hk]
  exact if_neg h

/-- What a completion leaves. -/
theorem completion_leaves (s : State) (c : Fin 8) (k : BitVec 5) (o : FulOp) :
    let x := s.ctx c
    let t := ((s.withNewVl c o).modCtx c fun x => { x with run := x.run.eraseIdx k.toNat }).ctxComplete c o
    s.FulOnly t ∧ (∀ j, j ≠ c.val → t.ctx j = s.ctx j) ∧ (∃ n, t.ctx c = { x with run := x.run.eraseIdx k.toNat, wdogFrom := n }) ∧
      t.fget (Reg.fulCSeq c) Reg.fulCSeq_RETIRED = o.seq % 2 ^ 32 ∧
      t.fget (Reg.fulCCnt c) Reg.fulCCnt_COMPLETED = (s.fget (Reg.fulCCnt c) Reg.fulCCnt_COMPLETED + 1) % 2 ^ Reg.fulCCnt_COMPLETED.len ∧
      t.rd (Reg.fulCVtype c) = (s.withNewVl c o).rd (Reg.fulCVtype c) := by
  intro x t
  let u := (s.withNewVl c o).modCtx c fun x => { x with run := x.run.eraseIdx k.toNat }
  obtain ⟨n, hn⟩ := u.ctxComplete_moves c o
  have huc : u.ctx c = { s.ctx c with run := (s.ctx c).run.eraseIdx k.toNat } := by
    rw [State.ctx_modCtx_same, State.ctx_withNewVl]
  obtain ⟨hvs, hve, hvq, hvc⟩ := fulCVtype_ne c c
  have hcnt : u.rd (Reg.fulCCnt c) = s.rd (Reg.fulCCnt c) := s.rd_withNewVl_of_ne c o hvc.symm
  refine ⟨((s.withNewVl_fulOnly c o).trans (State.modCtx_fulOnly _ c _)).trans (u.ctxComplete_fulOnly c o), fun j hj => ?_, ⟨n, ?_⟩,
    (u.ctxComplete_retired c o).1, ?_, State.rd_ctxComplete_of_ne u c o hvs hve hvq hvc⟩
  · rw [hn, if_neg hj, State.ctx_modCtx_of_ne _ _ hj, State.ctx_withNewVl]
  · rw [hn, if_pos rfl, huc]
  · rw [State.ctxComplete_counted, State.fget_of_rd hcnt]

/-- The watchdog's command where it counts and has reached its limit. -/
theorem watchdog_expires (s : State) (c : Fin 8) : exec (.fulWatchdog c) s =
    if s.cxSlices c ≠ 0 ∧ (s.ctx c).run ≠ [] ∧ 1000 * s.fget (Reg.fulCBind c) Reg.fulCBind_WDOG_US ≤ s.ticks - (s.ctx c).wdogFrom then
      .next (((((s.raise (0x104 + 8 * c)).fadd (Reg.fulCWdog c) Reg.fulCWdog_EPOCH 1).fsat (Reg.fulCWdog c) Reg.fulCWdog_EXPIRIES 1).nextEpoch
        (16 + c)).killRun c 0x0D false)
    else .next s := by
  change execFulWatchdog c s = _
  unfold execFulWatchdog
  by_cases hon : s.wdogOn c = true
  · have hon' := hon
    simp only [State.wdogOn, Bool.and_eq_true, decide_eq_true_eq, Bool.not_eq_true', List.isEmpty_eq_false_iff] at hon'
    have hel : s.wdogElapsed c < s.fget (Reg.fulCBind c) Reg.fulCBind_WDOG_US ↔
        ¬ 1000 * s.fget (Reg.fulCBind c) Reg.fulCBind_WDOG_US ≤ s.ticks - (s.ctx c).wdogFrom := by
      rw [State.wdogElapsed, if_pos hon]
      omega
    by_cases hle : 1000 * s.fget (Reg.fulCBind c) Reg.fulCBind_WDOG_US ≤ s.ticks - (s.ctx c).wdogFrom
    · rw [if_neg (by simp [hon, hel, hle]), if_pos ⟨hon'.1, hon'.2, hle⟩]
    · rw [if_pos (by simp [hel, hle]), if_neg fun ⟨_, _, h⟩ => hle h]
  · have hoff : ¬ (s.cxSlices c ≠ 0 ∧ (s.ctx c).run ≠ [] ∧ 1000 * s.fget (Reg.fulCBind c) Reg.fulCBind_WDOG_US ≤ s.ticks - (s.ctx c).wdogFrom) := by
      rintro ⟨hsl, hrun, -⟩
      exact hon (by simp [State.wdogOn, hsl, hrun])
    rw [if_pos (by simp [hon]), if_neg hoff]

end

/-- What the watchdog leaves where it has expired. -/
theorem expiry_leaves (s : State) (c : Fin 8) {o : FulOp} {r : List FulOp} (hrun : (s.ctx c).run = o :: r) :
    let t := ((((s.raise (0x104 + 8 * c)).fadd (Reg.fulCWdog c) Reg.fulCWdog_EPOCH 1).fsat (Reg.fulCWdog c) Reg.fulCWdog_EXPIRIES 1).nextEpoch
      (16 + c)).killRun c 0x0D false
    (t.ctx c).run = [] ∧ (t.ctx c).strm = none ∧ (∀ j, j ≠ c.val → t.ctx j = s.ctx j) ∧ t.epoch (16 + c) = (s.epoch (16 + c) + 1) % 256 ∧
      (∃ l, t.detected.map (·.src) = s.detected.map (·.src) ++ (0x104 + 8 * c.val) :: l) ∧
      t.fget (Reg.fulCWdog c) Reg.fulCWdog_EXPIRIES = min (2 ^ Reg.fulCWdog_EXPIRIES.len - 1) (s.fget (Reg.fulCWdog c) Reg.fulCWdog_EXPIRIES + 1) ∧
      (s.cxState c ≠ cxFAULTED → (s.ctx c).strm = none → t.cxState c = cxFAULTED ∧
        t.rd (Reg.fulCCtxFault c) = BitVec.ofNat 64 (o.seq % 2 ^ 32 + 2 ^ 32 * 0x0D + 2 ^ 38)) := by
  intro t
  let u := ((s.raise (0x104 + 8 * c)).fadd (Reg.fulCWdog c) Reg.fulCWdog_EPOCH 1).fsat (Reg.fulCWdog c) Reg.fulCWdog_EXPIRIES 1
  have hkill : Killed (u.nextEpoch (16 + c)) t c := State.killRun_killed (s := u.nextEpoch (16 + c)) c.isLt hrun 0x0D false
  have hstate : u.rd (Reg.fulCState c) = s.rd (Reg.fulCState c) := by
    have hne : Reg.fulCState c ≠ Reg.fulCWdog c := by unfold Reg.fulCState Reg.fulCWdog; omega
    exact (State.rd_fsat_of_ne _ _ _ hne).trans ((State.rd_fset_of_ne _ _ _ hne).trans
      (State.rd_raise_of_ne _ (by unfold Reg.fulCState Reg.fcruPend; omega)))
  refine ⟨hkill.run, hkill.strm, hkill.others, ?_, ?_, ?_, fun hst hstrm => ?_⟩
  · have hmesh : t.mesh = (u.nextEpoch (16 + c)).mesh := by rw [hkill.rest]
    rw [State.epoch, hmesh]
    exact SMap.get_put.trans (if_pos rfl)
  · obtain ⟨l, hl⟩ := hkill.detected
    refine ⟨l.map (·.src), ?_⟩
    rw [hl, List.map_append]
    change (s.raise (0x104 + 8 * c)).detected.map (·.src) ++ _ = _
    rw [State.raise_detected_src, List.append_assoc]
    rfl
  · have hraise : Reg.fulCWdog c ≠ Reg.fcruPend ((0x104 + 8 * c) / 64) := by unfold Reg.fulCWdog Reg.fcruPend; omega
    rw [State.fget_of_rd (hkill.rd _ (not_faultReg_wdog c) (by unfold Reg.fulCWdog Reg.fulCStrmStat; omega))]
    refine (State.fget_fsat _ _ (by decide)).trans ?_
    rw [State.fadd, State.fget_fset_of_disjoint _ _ _ (by decide), State.fget_raise_of_ne _ _ hraise]
  · exact State.killRun_faulted c.isLt (s := u.nextEpoch (16 + c)) hrun (fun hf => hst ((State.cxState_of_rd hstate).1.symm.trans hf)) hstrm 0x0D false

theorem not_vshape {w : BitVec 32} (h : fwIsVgetvl w = true) : fwIsVshape w = false := by
  simp only [fwIsVgetvl, Bool.and_eq_true, decide_eq_true_eq] at h
  simp [fwIsVshape, h.1]

theorem not_vshape_vgetvl {w : BitVec 32} (h : fwIsVrdseq w = true) : fwIsVshape w = false ∧ fwIsVgetvl w = false := by
  simp only [fwIsVrdseq, Bool.and_eq_true, decide_eq_true_eq] at h
  simp [fwIsVshape, fwIsVgetvl, h.1, h.2]

theorem acceptCause_lt (w : BitVec 32) (vt : Nat) (a b : Word) : acceptCause w vt a b < 64 := by
  unfold acceptCause
  split_ifs <;> decide

/-- Settles O37: acceptance by its branches, a completion by what `ctxComplete` leaves, the watchdog by the end of what the context runs. -/
theorem contextAcceptanceAndCompletion : Obligations.ContextAcceptanceAndCompletion := by
  unfold Obligations.ContextAcceptanceAndCompletion
  refine ⟨?_, ?_⟩
  · intro s c p rest hx hlen x st seq vl vt cause live taken returns faults cancels
    have htaken {t : State} (h : TookPacket s t c rest) : taken t := by
      obtain ⟨hcross, hacc, hv, hm, hrun, hothers, hmem⟩ := h
      exact ⟨hcross, hacc, hv, hm, hrun, fun j hj => hothers j fun hc => hj (Fin.ext hc), hmem⟩
    have haccept (ok : Bool) : exec (.fulPacketAccept c ok) s = .next (s.acceptPkt c ok p rest) :=
      congrArg Host.Outcome.next (State.acceptHead_eq hx hlen rfl)
    have huc (ok : Bool) : (s.takesPacket c ok rest).ctx c = { s.ctx c with crossing := rest } := (s.ctx_takesPacket c ok rest c).trans (if_pos rfl)
    have hrd (ok : Bool) {r : Nat} (hr : 0x40000 ≤ r) (hne : r ≠ Reg.fulCSeq c) := s.rd_takesPacket_of_ne ok rest c.isLt hr hne
    have hfaults (ok : Bool) {f : Nat} (hf : f < 64) (hst : st ≠ cxFAULTED)
        (h : s.acceptPkt c ok p rest = (s.takesPacket c ok rest).ctxFault c (s.packetOp c p) f 0 0 false) : faults ok f := by
      obtain ⟨t, ht, htook, hrecord⟩ := packet_faults ok hf hst h
      exact ⟨t, (haccept ok).trans (congrArg _ ht), htaken htook, hrecord⟩
    refine ⟨fun hlive hgood => ?_, fun hlive hbad => ?_, fun hlive => ?_, fun hst ok => ?_, fun hst ok hv => ?_⟩
    · have hpkt := State.acceptPkt_good (rest := rest) c.isLt hlive.1 hlive.2 hgood
      have hacts {is : BitVec 32 → Bool} {i : Instr} {u : State} {v vt' : Word} (his : is p.word = true)
          (hi : i = .fulPacketAccept c true ∨ exec i s = .next (s.acceptHead c true is)) (h : s.acceptPkt c true p rest = u.actsNow c (s.packetOp c p) v)
          (hu : TookPacket s u c rest) (hctx : u.ctx c = { s.ctx c with crossing := rest }) (hcnt : u.rd (Reg.fulCCnt c) = s.rd (Reg.fulCCnt c))
          (hvt : u.rd (Reg.fulCVtype c) = vt') : returns i v vt' := by
        obtain ⟨htook, hq, hret, hvt', hdone⟩ := packet_acts (p := p) (v := v) hu hctx hcnt
        refine ⟨_, ?_, htaken htook, hq, hret, hvt'.trans hvt, hdone⟩
        rcases hi with rfl | hi
        · rw [haccept, h]
        · rw [hi, State.acceptHead_eq hx hlen his, h]
      have hmem {i j : Instr} {is : BitVec 32 → Bool} (hi : i ∈ [Instr.fulPacketAccept c true, j]) (hj : exec j s = .next (s.acceptHead c true is)) :
          i = .fulPacketAccept c true ∨ exec i s = .next (s.acceptHead c true is) := by
        rcases List.mem_pair.mp hi with rfl | rfl
        · exact .inl rfl
        · exact .inr hj
      obtain ⟨-, -, hvtSeq, hvtCnt⟩ := fulCVtype_ne c c
      obtain ⟨-, -, hcntSeq⟩ := fulCCnt_ne c c
      have hcnt : (s.takesPacket c true rest).rd (Reg.fulCCnt c) = s.rd (Reg.fulCCnt c) :=
        hrd true (by unfold Reg.fulCCnt; omega) hcntSeq
      have hvtype : (s.takesPacket c true rest).rd (Reg.fulCVtype c) = s.rd (Reg.fulCVtype c) :=
        hrd true (by unfold Reg.fulCVtype; omega) hvtSeq
      have htook := s.takesPacket_took c true rest
      refine ⟨fun hshape i hi => ?_, fun hget i hi => ?_, fun hseq i hi => ?_, fun hshape hget hseq => ?_⟩
      · obtain ⟨hb, ha⟩ := acceptCause_vshape hshape hgood
        rw [if_pos hshape, Nat.mod_eq_of_lt hb, Nat.mod_eq_of_lt (by omega : p.a.toNat < 2 ^ 16), vtVlmax_eq] at hpkt
        exact hacts hshape (hmem hi rfl) hpkt (htook.step ⟨_, _, _, rfl⟩ (fun _ _ => rfl) rfl (State.fget_wr_of_ne _ _ _ hvtSeq.symm)) (huc true)
          ((State.rd_wr_of_ne _ _ hvtCnt.symm).trans hcnt) ((State.rd_wr _ _ _ _).trans (if_pos rfl))
      · rw [if_neg (by simp [not_vshape hget]), if_pos hget] at hpkt
        exact hacts hget (hmem hi rfl) hpkt htook (huc true) hcnt hvtype
      · obtain ⟨hshape, hget⟩ := not_vshape_vgetvl hseq
        rw [if_neg (by simp [hshape]), if_neg (by simp [hget]), if_pos hseq] at hpkt
        exact hacts hseq (hmem hi rfl) hpkt htook (huc true) hcnt hvtype
      · obtain ⟨ht, hret, hq⟩ := packet_queues (s := s) c rest (s.packetOp c p)
        refine ⟨_, (haccept true).trans (congrArg _ hpkt), ?_⟩
        dsimp only
        rw [hshape, hget, hseq]
        exact ⟨htaken ht, hret, hq⟩
    · exact hfaults true (acceptCause_lt _ _ _ _) hlive.2 (State.acceptPkt_bad c.isLt hlive.1 hlive.2 hbad)
    · exact hfaults false (by decide) hlive.2 (State.acceptPkt_badParity c.isLt hlive.1 hlive.2)
    · obtain ⟨htook, hq, hret, hseq⟩ := packet_cancelled (p := p) (rest := rest) (stopped := true) ok (.refl _ c) rfl rfl
      exact ⟨_, (haccept ok).trans (congrArg _ (State.acceptPkt_stopped c.isLt hst)), htaken htook, hq, hret, hseq⟩
    · obtain ⟨htook, hq, hret, hseq⟩ := packet_cancelled (s := s) (p := p) (rest := rest) (stopped := false) ok (State.fulUpd_shed _ c)
        (State.ctx_fulUpd _ c c) (State.rd_fulUpd_of_ne _ c (fulCSeq_ne c c).1 (fulCSeq_ne c c).2.1)
      exact ⟨_, (haccept ok).trans (congrArg _ (State.acceptPkt_faulted c.isLt hst hv)), htaken htook, hq, hret, hseq⟩
  · intro s c x
    refine ⟨fun k => ⟨fun hk => ?_, fun o hk => ?_⟩, ?_⟩
    · change execFulInstrComplete c k s = _
      unfold execFulInstrComplete
      rw [hk]
    · intro strm going
      have hgoing : ((fwIsStrm o.word ∧ (s.ctx c).strm.isSome) ∨ (fwIsRegMem o.word ∧ o.next < o.vl)) ↔ going := by
        simp only [going, strm, x, fwIsStrm, fwIsRegMem, Bool.and_eq_true, decide_eq_true_eq, Option.isSome_iff_ne_none, and_assoc]
      refine ⟨fun hgo => instrComplete_waits hk (hgoing.mpr hgo), fun hgo => ⟨_, instrComplete_completes hk (fun h => hgo (hgoing.mp h)), ?_⟩⟩
      obtain ⟨hrest, hothers, ⟨n, hctx⟩, hret, hcount, hvt⟩ := completion_leaves s c k o
      refine ⟨hrest, fun j hj => hothers j fun hc => hj (Fin.ext hc), ?_, ?_, ?_, ?_, hret, hcount, fun hnone => ?_, fun v hv => ?_, fun hst hlen hq => ?_⟩
      · rw [hctx]
      · rw [hctx]
      · rw [hctx]
      · rw [hctx]
      · rw [hvt, State.withNewVl, hnone]
      · rw [State.fget_of_rd hvt, State.withNewVl, hv]
        exact State.fget_fset _ _ _ (by decide)
      · have hlt := (List.getElem?_eq_some_iff.mp hk).1
        refine State.ctxComplete_idle o ((State.cxState_of_rd (s.rd_withNewVl_of_ne c o (fulCVtype_ne c c).1.symm)).1.trans hst) ?_ ?_ <;>
          rw [State.ctx_modCtx_same, State.ctx_withNewVl]
        · exact hq
        · exact List.eq_nil_of_length_eq_zero (by rw [List.length_eraseIdx_of_lt hlt, hlen])
    · intro on
      refine ⟨fun hoff => by rw [watchdog_expires, if_neg hoff], fun hon => ⟨_, by rw [watchdog_expires, if_pos hon], ?_⟩⟩
      obtain ⟨o, r, hrun⟩ := List.exists_cons_of_ne_nil hon.2.1
      obtain ⟨hr, hs, hothers, hepoch, hdet, hexp, hfault⟩ := expiry_leaves s c hrun
      refine ⟨hr, hs, fun j hj => hothers j fun hc => hj (Fin.ext hc), hepoch, hdet, hexp, fun o' r' h => ?_⟩
      obtain ⟨rfl, -⟩ := List.cons.inj (hrun.symm.trans h)
      exact hfault

end Sys2Proof.Machine
end

section
/-!
PROOFS. Vector loads and stores (Obligations.VectorMemoryResults): the accesses of the elements one by one, and the ends that a fault puts to them.
-/

namespace Sys2Proof.Machine

/-! ### An element without errors (R239 to R243) -/

theorem State.check_clean {s : State} (h : s.latent.checks = []) (c seq unit elem : Nat) (res pair : CheckKind → Bool) :
    s.check c seq unit elem res pair = (false, s) := by
  simp [State.check, State.takeCheck, h]

/-- The word of a VLD or VST, in the form given. -/
theorem fwIsRegMem_of {w : BitVec 32} (hsc : fwSC w = 1) (hmaj : fwMAJ w < 4) : fwIsRegMem w = true ∧ fwElementwise w = true ∧ fwIsMem w = true := by
  refine ⟨?_, ?_, ?_⟩
  · simp [fwIsRegMem, hsc, hmaj]
  · simp [fwElementwise, hsc, show fwMAJ w < 6 by omega]
  · simp [fwIsMem, hsc, hmaj]

section
variable {s : State} {c : Fin 8} {o : FulOp} {r : List FulOp}

/-- No VLD or VST runs where the head of the queue may start: it is the head that starts. -/
theorem State.starts.resumeOrStart (h : s.starts c o r) (hf : s.faultless c) (htag : o.vl = 0 ∨ s.tagFree (16 + c.val) = true) (hsc : fwSC o.word = 1)
    {k : Nat} (hmaj : fwMAJ o.word = k) (hk : k < 4) (eff : State → FulOp → State × Option FulOp) :
    s.resumeOrStart c (fwIs 1 k) eff = s.afterStart c o (eff (s.dequeued c r) o) := by
  have hnone : ((s.ctx c).run.find? fun q => fwIs 1 k q.word && decide (q.next < q.vl)) = none := by
    refine List.find?_eq_none.mpr fun q hq hgo => ?_
    have hmay := h.may
    simp only [State.mayStart, Bool.and_eq_true, Bool.not_eq_true', List.any_eq_false] at hmay
    obtain ⟨⟨⟨⟨hany, -⟩, -⟩, -⟩, -⟩ := hmay
    simp only [fwIs, Bool.and_eq_true, decide_eq_true_eq] at hgo
    obtain ⟨⟨hqsc, hqmaj⟩, -⟩ := hgo
    exact hany q hq (fwIsRegMem_of hqsc (by omega)).2.2
  have hmem := (fwIsRegMem_of hsc (hmaj ▸ hk)).1
  have hkeep : s.keepOld c o = o := by
    unfold State.keepOld
    dsimp only
    rw [if_pos hmem]
  have hacc : o.accesses = false ∨ s.tagFree (16 + c.val) = true := by
    refine htag.imp (fun hvl => ?_) id
    simp [FulOp.accesses, fwIsStrm, hvl, hsc, show fwMAJ o.word ≠ 6 by omega]
  unfold State.resumeOrStart
  rw [hnone]
  dsimp only
  rw [State.startHead_starts h hf (fwIs_of hsc hmaj) hacc, hkeep]

theorem State.dequeued_affected (s : State) (c : Nat) (r : List FulOp) : Affected s (s.dequeued c r) c r :=
  ⟨⟨_, _, _, _, _, _, s.ctx_dequeued c r⟩, fun _ hj => s.ctx_modCtx_of_ne _ hj, rfl, fun _ _ _ => rfl⟩

/-- With VL = 0 nothing is accessed. -/
theorem State.starts.emptyAccess (s : State) (c : Fin 8) (r : List FulOp) (hsc : fwSC o.word = 1) (hmaj : fwMAJ o.word < 4) :
    let t := s.afterStart c o (s.dequeued c r, some o)
    Acted s t c o r ∧ (t.ctx c).v = (s.ctx c).v := by
  obtain ⟨hmem, hel, -⟩ := fwIsRegMem_of hsc hmaj
  have hkeep : s.keepOld c o = o := by
    unfold State.keepOld
    dsimp only
    rw [if_pos hmem]
  obtain ⟨hacted, -, -, hregs⟩ := (s.dequeued_affected c r).acts (o := o) hel
  rw [hkeep] at hacted hregs
  exact ⟨hacted, hregs.v.trans (by rw [State.ctx_dequeued]; rfl)⟩

/-- A fault ends the access: the machine as it stands, and the record. -/
theorem Faulted.ends {z y : State} {f e va : Nat} {write : Bool} {o' : FulOp} (h : Faulted z y c o' f e va write) :
    let t := y.fulUpd c
    t.mem = z.mem ∧ (t.ctx c).v = (z.ctx c).v ∧ (t.ctx c).m = (z.ctx c).m ∧ (t.ctx c).run = (z.ctx c).run ∧ t.cxState c = cxFAULTED ∧
      t.rd (Reg.fulCCtxFault c) = BitVec.ofNat 64 (o'.seq % 2 ^ 32 + 2 ^ 32 * (f % 64) + 2 ^ 38 + 2 ^ 39 * b2n write) ∧
      t.rd (Reg.fulCCtxFaultElem c) = BitVec.ofNat 64 (e % 2 ^ 32) ∧ t.rd (Reg.fulCCtxFaultVa c) = BitVec.ofNat 64 (va % 2 ^ 48) := by
  intro t
  have hshed := h.shed.trans (y.fulUpd_shed c)
  obtain ⟨q, v, hctx⟩ := hshed.ctx
  have hrd {k : Nat} (hk : k ≠ Reg.fulCState c) : t.rd k = y.rd k := State.rd_fulUpd_fixed_of_ne (.inr (.inl h.state)) hk
  refine ⟨hshed.mem, by rw [hctx], by rw [hctx], by rw [hctx], State.cxState_fulUpd_faulted h.state, (hrd ?_).trans h.fault,
    (hrd ?_).trans h.elem, (hrd ?_).trans h.va⟩
  · unfold Reg.fulCCtxFault Reg.fulCState
    omega
  · unfold Reg.fulCCtxFaultElem Reg.fulCState
    omega
  · unfold Reg.fulCCtxFaultVa Reg.fulCState
    omega

theorem regMisaligned_iff (o : FulOp) : regMisaligned o = false ↔ o.a.toNat % (elemBits o.vtype / 8) = 0 ∧ o.b.toNat % (elemBits o.vtype / 8) = 0 := by
  simp [regMisaligned]

/-- The window's end does not depend on the queue. -/
theorem State.runLen_dequeued (s : State) (c : Nat) (r : List FulOp) (d g n w : Nat) : (s.dequeued c r).runLen d g n w = s.runLen d g n w := by
  induction n generalizing w with
  | zero => rfl
  | succ n ih =>
    unfold State.runLen
    rw [ih]
    rfl

theorem State.issueTo_dequeued (s : State) (c : Nat) (r : List FulOp) (d : Nat) : (s.dequeued c r).issueTo d o = s.issueTo d o := by
  have hend : (s.dequeued c r).runEnd d = s.runEnd d := by
    unfold State.runEnd
    rw [State.runLen_dequeued]
    rfl
  unfold State.issueTo
  rw [hend]
  rfl

theorem State.issueTo_zero (s : State) (c : Nat) (hvl : o.vl = 0) (hn : o.next = 0) : s.issueTo c o = 0 := by
  unfold State.issueTo
  dsimp only
  split
  · exact hvl
  · split
    · exact hn
    · rw [hvl, Nat.zero_min]

end

/-! ### The elements, one by one (R205) -/

section
variable {c : Fin 8} {o : FulOp} {masked : Bool} {σ : Nat → State}

/-- The machine `σ i` loads element `i` of a VLD and becomes `σ (i + 1)`. -/
def LoadsAt (c : Nat) (o : FulOp) (masked : Bool) (σ : Nat → State) (i : Nat) : Prop :=
  if masked && !((σ i).ctx c).maskBit 0 i then σ (i + 1) = σ i
  else ∃ v l u, (σ i).elemRead c (regElemVa o i) (elemBits o.vtype / 8) (fun _ => true) = (.ok (v, l), u) ∧ (σ i).latent.checks = [] ∧
    u.latent.checks = [] ∧
    σ (i + 1) = (u.modCtx c fun x => x.putElem (fwD o.word) (elemBits o.vtype) i v (masked && x.maskBad 0 i)).poisonSince c (u.ctx c)

/-- The machine `σ i` stores element `i` of a VST and becomes `σ (i + 1)`. -/
def StoresAt (c : Nat) (o : FulOp) (masked : Bool) (σ : Nat → State) (i : Nat) : Prop :=
  if masked && !((σ i).ctx c).maskBit 0 i then σ (i + 1) = σ i
  else (σ i).latent.checks = [] ∧
    (((σ i).ctx c).elemBad (fwD o.word) (elemBits o.vtype) i || (masked && ((σ i).ctx c).maskBad 0 i)) = false ∧
    ∃ l, (σ i).elemWrite c (regElemVa o i) (elemBits o.vtype / 8) (((σ i).ctx c).elem (fwD o.word) (elemBits o.vtype) i) (fun _ => true) =
      (.ok l, σ (i + 1))

theorem State.loadElems_step {n i : Nat} (h : LoadsAt c o masked σ i) : (σ i).loadElems c o masked (n + 1) i = (σ (i + 1)).loadElems c o masked n (i + 1) := by
  unfold LoadsAt at h
  rw [State.loadElems]
  split at h
  next hoff => rw [if_pos hoff, h]
  next hon =>
    obtain ⟨v, l, u, hread, hclean, hclean', hnext⟩ := h
    rw [if_neg hon, State.addrCheck, State.check_clean hclean]
    dsimp only
    rw [hread]
    dsimp only
    rw [State.laneCheck, State.check_clean hclean', hnext]
    rfl

/-- Elements without fault, up to the one at which the access is cut short. -/
theorem State.loadElems_upTo (e n i : Nat) (h : ∀ j, i ≤ j → j < i + e → LoadsAt c o masked σ j) :
    (σ i).loadElems c o masked (e + n) i = (σ (i + e)).loadElems c o masked n (i + e) := by
  induction e generalizing i with
  | zero => rw [Nat.zero_add, Nat.add_zero]
  | succ e ih =>
    rw [Nat.succ_add, State.loadElems_step (h i (le_refl i) (by omega)), ih (i + 1) fun j hj hj' => h j (by omega) (by omega)]
    rw [Nat.add_right_comm, Nat.add_assoc i e 1]

/-- An element whose read fails. -/
theorem State.loadElems_fails {s u : State} {n i f : Nat} (hon : (masked && !(s.ctx c).maskBit 0 i) = false) (hclean : s.latent.checks = [])
    (hread : s.elemRead c (regElemVa o i) (elemBits o.vtype / 8) (fun _ => true) = (.error f, u)) :
    s.loadElems c o masked (n + 1) i = (u.ctxFault c o f i (regElemVa o i) false, none) := by
  rw [State.loadElems, if_neg (Bool.eq_false_iff.mp hon), State.addrCheck, State.check_clean hclean]
  dsimp only
  rw [hread]

theorem State.storeElems_step {n i : Nat} (l : List (Nat × Nat)) (h : StoresAt c o masked σ i) :
    ∃ l', (σ i).storeElems c masked { o with written := l } (n + 1) i = (σ (i + 1)).storeElems c masked { o with written := l' } n (i + 1) := by
  unfold StoresAt at h
  rw [State.storeElems]
  split at h
  next hoff =>
    refine ⟨l, ?_⟩
    rw [if_pos hoff, h]
  next hon =>
    obtain ⟨hclean, hgood, ps, hwrite⟩ := h
    refine ⟨l ++ ps, ?_⟩
    rw [if_neg hon, State.addrCheck, State.check_clean hclean]
    dsimp only
    rw [State.storeCheck, State.check_clean hclean]
    dsimp only
    rw [Bool.false_or, if_neg (by rw [hgood]; decide)]
    change (match (σ i).elemWrite c (regElemVa o i) _ _ _ with | (.error f, s) => _ | (.ok ps, s) => _) = _
    rw [hwrite]

theorem State.storeElems_upTo (e n i : Nat) (l : List (Nat × Nat)) (h : ∀ j, i ≤ j → j < i + e → StoresAt c o masked σ j) :
    ∃ l', (σ i).storeElems c masked { o with written := l } (e + n) i =
      (σ (i + e)).storeElems c masked { o with written := l' } n (i + e) := by
  induction e generalizing i l with
  | zero => exact ⟨l, by rw [Nat.zero_add, Nat.add_zero]⟩
  | succ e ih =>
    obtain ⟨l', hl⟩ := State.storeElems_step (n := e + n) l (h i (le_refl i) (by omega))
    obtain ⟨l'', hl'⟩ := ih (i + 1) l' fun j hj hj' => h j (by omega) (by omega)
    refine ⟨l'', ?_⟩
    rw [Nat.succ_add, hl, hl', Nat.add_right_comm, Nat.add_assoc i e 1]

/-- The bytes of issued writes whose response timed out: memory and the count of free values alone change. -/
theorem State.freeIssued_frame (s : State) (c : Nat) (o : FulOp) (masked : Bool) (i n : Nat) :
    ∃ m k, s.freeIssued c o masked i n = { s with mem := m, free := k } := by
  unfold State.freeIssued
  generalize List.range n = js
  induction js generalizing s with
  | nil => exact ⟨_, _, rfl⟩
  | cons j js ih =>
    rw [List.foldl_cons]
    split
    · exact ih s
    · obtain ⟨m, k, h⟩ := ih (s.freeElem c (regElemVa o (i + j)) (elemBits o.vtype / 8) fun _ => true)
      refine ⟨m, k, ?_⟩
      rw [h, State.freeElem_frame]

/-- An element whose write fails. -/
theorem State.storeElems_fails {s u : State} {n i f : Nat} (hon : (masked && !(s.ctx c).maskBit 0 i) = false) (hclean : s.latent.checks = [])
    (hgood : (s.ctx c).elemBad (fwD o.word) (elemBits o.vtype) i = false) (hmask : (masked && (s.ctx c).maskBad 0 i) = false)
    (hwrite : s.elemWrite c (regElemVa o i) (elemBits o.vtype / 8) ((s.ctx c).elem (fwD o.word) (elemBits o.vtype) i) (fun _ => true) = (.error f, u)) :
    s.storeElems c masked o (n + 1) i =
      ((if f = 0x0A then u.freeIssued c o masked i (n + 1) else u).ctxFault c o f i (regElemVa o i) true, none) := by
  rw [State.storeElems, if_neg (Bool.eq_false_iff.mp hon), State.addrCheck, State.check_clean hclean]
  dsimp only
  rw [State.storeCheck, State.check_clean hclean]
  dsimp only
  rw [hgood, hmask, Bool.false_or, Bool.or_false, if_neg (by decide), hwrite]

/-- An element that carries poison. -/
theorem State.storeElems_poisoned {s : State} {n i : Nat} (hon : (masked && !(s.ctx c).maskBit 0 i) = false) (hclean : s.latent.checks = [])
    (hbad : ((s.ctx c).elemBad (fwD o.word) (elemBits o.vtype) i || (masked && (s.ctx c).maskBad 0 i)) = true) :
    s.storeElems c masked o (n + 1) i = (s.poisonFault c o i (regElemVa o i) true, none) := by
  rw [State.storeElems, if_neg (Bool.eq_false_iff.mp hon), State.addrCheck, State.check_clean hclean]
  dsimp only
  rw [State.storeCheck, State.check_clean hclean]
  dsimp only
  rw [Bool.false_or, if_pos hbad]

end

/-! ### The commands -/

section
variable {s : State} {c : Fin 8} {o : FulOp} {r : List FulOp} {masked : Bool}

/-- A VLD or a VST in the form given, as it starts. -/
theorem State.starts.loads (h : s.starts c o r) (hf : s.faultless c) (htag : o.vl = 0 ∨ s.tagFree (16 + c.val) = true) (hsc : fwSC o.word = 1)
    (hmaj : fwMAJ o.word = if masked then 1 else 0) :
    exec (if masked then .vldM c else .vld c) s = .next (s.afterStart c o ((s.dequeued c r).loadEffect c masked o)) := by
  have hstart := h.resumeOrStart hf htag hsc hmaj (by split <;> decide) fun s o => s.loadEffect c masked o
  cases masked <;> exact congrArg Host.Outcome.next hstart

theorem State.starts.stores (h : s.starts c o r) (hf : s.faultless c) (htag : o.vl = 0 ∨ s.tagFree (16 + c.val) = true) (hsc : fwSC o.word = 1)
    (hmaj : fwMAJ o.word = if masked then 3 else 2) :
    exec (if masked then .vstM c else .vst c) s = .next (s.afterStart c o ((s.dequeued c r).storeEffect c masked o)) := by
  have hstart := h.resumeOrStart hf htag hsc hmaj (by split <;> decide) fun s o => s.storeEffect c masked o
  cases masked <;> exact congrArg Host.Outcome.next hstart

/-- An access without fault: the instruction runs on. -/
theorem access_runs (s u : State) (c : Fin 8) (o o' : FulOp) (hvl : o.vl ≠ 0) :
    let t := s.afterStart c o (u, some o')
    t.mem = u.mem ∧ (t.ctx c).v = (u.ctx c).v ∧ (t.ctx c).queue = (u.ctx c).queue ∧ (t.ctx c).run = (u.ctx c).run ++ [o'] := by
  obtain ⟨n, hn⟩ := u.begun_ctx c o' (s.wdogOn c)
  dsimp only
  rw [State.afterStart_begins s u c o' (.inr hvl), hn, if_pos rfl]
  refine ⟨?_, rfl, rfl, rfl⟩
  rw [State.begun_frame]

/-- The poison of a store is counted and its source raised before the record. -/
theorem State.poisonFault_faulted {z : State} (e va : Nat) (hst : z.cxState c ≠ cxFAULTED) :
    ∃ z', z'.mem = z.mem ∧ z'.ctx c = z.ctx c ∧ Faulted z' (z.poisonFault c o e va true) c o 0x0B e va true := by
  let z' := (z.raise (0x102 + 8 * c)).fsat (Reg.fulCCheckCnt c) Reg.fulCCheckCnt_POISON_OUT 1
  have hrd : z'.rd (Reg.fulCState c) = z.rd (Reg.fulCState c) :=
    (State.rd_fsat_of_ne _ _ _ (by unfold Reg.fulCState Reg.fulCCheckCnt; omega)).trans
      (State.rd_raise_of_ne _ (by unfold Reg.fulCState Reg.fcruPend; omega))
  exact ⟨z', rfl, rfl, State.ctxFault_faulted o 0x0B e va true c.isLt fun hf => hst ((State.cxState_of_rd hrd).1.symm.trans hf)⟩

end

/-- Settles O35: along the elements that the window lets be issued, each taken as `σ` says, up to the last or to the one that faults. -/
theorem vectorMemoryResults : Obligations.VectorMemoryResults := by
  unfold Obligations.VectorMemoryResults
  intro s c o r masked σ h hf hsc hnext htag hσ w d n m va off aligned load store faults loads stores
  have hst0 : (σ 0).cxState c = s.cxState c := by rw [hσ]; rfl
  have hal : aligned ↔ regMisaligned o = false := (regMisaligned_iff o).symm
  have hissue : (s.dequeued c r).issueTo c o = m := s.issueTo_dequeued c r c
  have hvl {e : Nat} (he : e < m) : o.vl ≠ 0 := fun h0 => by
    have hm : m = 0 := s.issueTo_zero c h0 hnext
    omega
  have ends {i : Instr} {u z y : State} {f e : Nat} {wr : Bool} {o' : FulOp} (hx : exec i s = .next (y.fulUpd c))
      (hfault : Faulted z y c o' f e (regElemVa o e) wr) (hseq : o'.seq = o.seq) (hmem : f ≠ 0x0A → z.mem = u.mem) (hctx : z.ctx c = u.ctx c) :
      faults i u f e wr := fun _ => by
    obtain ⟨hm, hv, hmm, hrun, hst, hrec, helem, hva⟩ := hfault.ends
    rw [hseq] at hrec
    have hlt : regElemVa o e < 2 ^ 48 := Nat.mod_lt _ (by decide)
    rw [Nat.mod_eq_of_lt hlt] at hva
    exact ⟨_, hx, fun hf => hm.trans (hmem hf), hv.trans (by rw [hctx]), hmm.trans (by rw [hctx]), hrun.trans (by rw [hctx]), hst, hrec, helem, hva⟩
  constructor
  · intro hmaj
    have hstart := h.loads hf htag hsc hmaj
    have heffect (h0 : o.vl ≠ 0) (ha : aligned) : (s.dequeued c r).loadEffect c masked o = (σ 0).loadElems c o masked m 0 := by
      rw [State.loadEffect, if_neg h0, if_neg (Bool.eq_false_iff.mp (hal.mp ha)), hissue, hnext, hσ]
      rfl
    refine ⟨fun h0 ha hst => ?_, fun h0 => ?_, fun h0 ha hl => ?_, fun ha e he hl hoff hclean f u hread hu => ?_⟩
    · have heff : (s.dequeued c r).loadEffect c masked o = ((σ 0).ctxFault c o 0x05 0 (regElemVa o 0) false, none) := by
        rw [State.loadEffect, if_neg h0, if_pos (by simpa using fun hb => ha (hal.mpr hb)), hσ]
        rfl
      rw [heff] at hstart
      exact ends hstart (State.ctxFault_faulted o 0x05 0 _ false c.isLt (by rwa [hst0])) rfl (fun _ => rfl) rfl hst
    · rw [State.loadEffect, if_pos h0] at hstart
      exact ⟨_, hstart, State.starts.emptyAccess s c r hsc (by rw [hmaj]; split <;> decide)⟩
    · have hall := State.loadElems_upTo (σ := σ) (c := c) (o := o) (masked := masked) m 0 0 fun j _ hj => hl j (by omega)
      rw [heffect h0 ha, ← Nat.add_zero m, hall, Nat.zero_add] at hstart
      exact ⟨_, hstart, access_runs s (σ m) c o _ h0⟩
    · have hall := State.loadElems_upTo (σ := σ) (c := c) (o := o) (masked := masked) e (m - e - 1 + 1) 0 fun j _ hj => hl j (by omega)
      rw [Nat.zero_add, State.loadElems_fails hoff hclean hread] at hall
      rw [heffect (hvl he) ha, show m = e + (m - e - 1 + 1) by omega, hall] at hstart
      exact ends hstart (State.ctxFault_faulted o f e _ false c.isLt hu) rfl (fun _ => rfl) rfl
  · intro hmaj
    have hstart := h.stores hf htag hsc hmaj
    have heffect (h0 : o.vl ≠ 0) (ha : aligned) :
        (s.dequeued c r).storeEffect c masked o = (σ 0).storeElems c masked { o with written := o.written } m 0 := by
      rw [State.storeEffect, if_neg h0, if_neg (Bool.eq_false_iff.mp (hal.mp ha)), hissue, hnext, hσ]
      rfl
    have hupto (e k : Nat) (hl : ∀ i < e, stores i) := State.storeElems_upTo (σ := σ) (c := c) (o := o) (masked := masked) e k 0 o.written
      fun j _ hj => hl j (by omega)
    refine ⟨fun h0 ha hst => ?_, fun h0 => ?_, fun h0 ha hl => ?_, fun ha e he hl hoff hclean hgood hmask f u hwrite hu => ?_,
      fun ha e he hl hoff hclean hbad hu => ?_⟩
    · have heff : (s.dequeued c r).storeEffect c masked o = ((σ 0).ctxFault c o 0x05 0 (regElemVa o 0) true, none) := by
        rw [State.storeEffect, if_neg h0, if_pos (by simpa using fun hb => ha (hal.mpr hb)), hσ]
        rfl
      rw [heff] at hstart
      exact ends hstart (State.ctxFault_faulted o 0x05 0 _ true c.isLt (by rwa [hst0])) rfl (fun _ => rfl) rfl hst
    · rw [State.storeEffect, if_pos h0] at hstart
      exact ⟨_, hstart, State.starts.emptyAccess s c r hsc (by rw [hmaj]; split <;> decide)⟩
    · obtain ⟨l, hall⟩ := hupto m 0 hl
      rw [heffect h0 ha, ← Nat.add_zero m, hall, Nat.zero_add] at hstart
      obtain ⟨hmem, hv, hq, hrun⟩ := access_runs s (σ m) c o { o with written := l, next := m } h0
      exact ⟨_, _, hstart, hmem, hv, hq, hrun, rfl⟩
    · obtain ⟨l, hall⟩ := hupto e (m - e - 1 + 1) hl
      rw [Nat.zero_add, State.storeElems_fails (o := { o with written := l }) hoff hclean hgood hmask hwrite] at hall
      rw [heffect (hvl he) ha, show m = e + (m - e - 1 + 1) by omega, hall] at hstart
      obtain ⟨mem, k, hissued⟩ := u.freeIssued_frame c { o with written := l } masked e (m - e - 1 + 1)
      have hz : ∃ z, (if f = 0x0A then u.freeIssued c { o with written := l } masked e (m - e - 1 + 1) else u) = z ∧ (f ≠ 0x0A → z.mem = u.mem) ∧
          z.ctx c = u.ctx c ∧ z.cxState c = u.cxState c := by
        split
        · exact ⟨_, hissued, fun hne => absurd ‹_› hne, rfl, rfl⟩
        · exact ⟨_, rfl, fun _ => rfl, rfl, rfl⟩
      obtain ⟨z, hzeq, hzmem, hzctx, hzst⟩ := hz
      rw [hzeq] at hstart
      exact ends hstart (State.ctxFault_faulted _ f e _ true c.isLt (by rwa [hzst])) rfl hzmem hzctx
    · obtain ⟨l, hall⟩ := hupto e (m - e - 1 + 1) hl
      rw [Nat.zero_add, State.storeElems_poisoned (o := { o with written := l }) hoff hclean hbad] at hall
      rw [heffect (hvl he) ha, show m = e + (m - e - 1 + 1) by omega, hall] at hstart
      obtain ⟨z, hzmem, hzctx, hfault⟩ := State.poisonFault_faulted (o := { o with written := l }) e (regElemVa o e) hu
      exact ends hstart hfault rfl (fun _ => hzmem) hzctx

end Sys2Proof.Machine
end

section
/-!
PROOFS. The schedule of Fuller (Obligations.ScheduleSlicesAndContextRows): what a change of one context leaves of the others, and the slices that a context
holds after a boundary, a gap, a gating or a wake.
-/

namespace Sys2Proof.Machine

/-! ### A change of one context -/

/-- From `s` to `t` nothing of another context has changed, and of the FUL block's registers none but those of context `c`. -/
structure CtxLocal (s t : State) (c : Nat) : Prop where
  others : ∀ j, j ≠ c → t.ctx j = s.ctx j
  rd     : ∀ r, 0x40000 ≤ r → r / 0x100 ≠ 0x410 + c → t.rd r = s.rd r

theorem CtxLocal.refl (s : State) (c : Nat) : CtxLocal s s c := ⟨fun _ _ => rfl, fun _ _ _ => rfl⟩

theorem CtxLocal.trans {s t u : State} {c : Nat} (h : CtxLocal s t c) (k : CtxLocal t u c) : CtxLocal s u c :=
  ⟨fun j hj => (k.others j hj).trans (h.others j hj), fun r hr hb => (k.rd r hr hb).trans (h.rd r hr hb)⟩

theorem State.wr_local (s : State) {c r : Nat} (v : Word) (h : r / 0x100 = 0x410 + c) : CtxLocal s (s.wr r v) c :=
  ⟨fun _ _ => rfl, fun _ _ hb => State.rd_wr_of_ne _ _ fun he => hb (he ▸ h)⟩

theorem State.modCtx_local (s : State) (c : Nat) (f : Ctx → Ctx) : CtxLocal s (s.modCtx c f) c := ⟨fun _ hj => s.ctx_modCtx_of_ne f hj, fun _ _ _ => rfl⟩

theorem fulCState_block (c : Nat) : Reg.fulCState c / 0x100 = 0x410 + c := by unfold Reg.fulCState; omega
theorem fulCEvent_block (c : Nat) : Reg.fulCEvent c / 0x100 = 0x410 + c := by unfold Reg.fulCEvent; omega

theorem State.ctxEvent_local (s : State) (c e : Nat) : CtxLocal s (s.ctxEvent c e) c :=
  ⟨fun j _ => s.ctx_ctxEvent c e j, fun _ _ hb => s.rd_ctxEvent_of_ne c e fun he => hb (he ▸ fulCEvent_block c)⟩

theorem State.fulUpd_local (s : State) (c : Nat) : CtxLocal s (s.fulUpd c) c :=
  ⟨fun j _ => s.ctx_fulUpd c j,
    fun _ _ hb => s.rd_fulUpd_of_ne c (fun he => hb (he ▸ fulCState_block c)) fun he => hb (he ▸ fulCEvent_block c)⟩

/-- A change of one context after another: another's, and the registers outside. -/
theorem foldl_ctx {f : State → Nat → State} (hf : ∀ s c, c < 8 → CtxLocal s (f s c) c) (l : List Nat) (hl : ∀ j ∈ l, j < 8) (s : State) {c : Nat}
    (hc : c ∉ l) : (l.foldl f s).ctx c = s.ctx c := by
  induction l generalizing s with
  | nil => rfl
  | cons j l ih =>
    obtain ⟨hj, hc'⟩ : c ≠ j ∧ c ∉ l := not_or.mp fun h => hc (List.mem_cons.mpr h)
    rw [List.foldl_cons, ih (fun k hk => hl k (List.mem_cons_of_mem _ hk)) _ hc', (hf s j (hl j List.mem_cons_self)).others c hj]

theorem foldl_rd {f : State → Nat → State} (hf : ∀ s c, c < 8 → CtxLocal s (f s c) c) (l : List Nat) (hl : ∀ j ∈ l, j < 8) (s : State) {r : Nat}
    (hr : 0x40000 ≤ r) (hb : ∀ j ∈ l, r / 0x100 ≠ 0x410 + j) : (l.foldl f s).rd r = s.rd r := by
  induction l generalizing s with
  | nil => rfl
  | cons j l ih =>
    rw [List.foldl_cons, ih (fun k hk => hl k (List.mem_cons_of_mem _ hk)) _ fun k hk => hb k (List.mem_cons_of_mem _ hk),
      (hf s j (hl j List.mem_cons_self)).rd r hr (hb j List.mem_cons_self)]

/-- A step of each of the eight contexts in turn, seen from context `c`: its own step finds it as it was, and the device-wide registers too; the others
leave it alone. -/
theorem range_foldl_split {f : State → Nat → State} (hf : ∀ s c, c < 8 → CtxLocal s (f s c) c) (s : State) {c : Nat} (hc : c < 8) :
    ∃ l₁ l₂ : List Nat, (∀ j ∈ l₁, j < 8) ∧ (∀ j ∈ l₂, j < 8) ∧ (List.range 8).foldl f s = l₂.foldl f (f (l₁.foldl f s) c) ∧ (l₁.foldl f s).ctx c = s.ctx c ∧
      (∀ r, 0x40000 ≤ r → r < 0x41000 ∨ r / 0x100 = 0x410 + c → (l₁.foldl f s).rd r = s.rd r) ∧
      ((List.range 8).foldl f s).ctx c = (f (l₁.foldl f s) c).ctx c ∧
      ∀ r, 0x40000 ≤ r → r / 0x100 = 0x410 + c → ((List.range 8).foldl f s).rd r = (f (l₁.foldl f s) c).rd r := by
  obtain ⟨l₁, l₂, hl⟩ := List.append_of_mem (List.mem_range.mpr hc)
  have h8 (j : Nat) (hj : j ∈ l₁ ++ c :: l₂) : j < 8 := List.mem_range.mp (hl ▸ hj)
  have h1 (j : Nat) (hj : j ∈ l₁) : j < 8 := h8 j (by simp [hj])
  have h2 (j : Nat) (hj : j ∈ l₂) : j < 8 := h8 j (by simp [hj])
  have hnd : (l₁ ++ c :: l₂).Nodup := hl ▸ List.nodup_range
  obtain ⟨-, hcl, hdisj⟩ := List.nodup_append'.mp hnd
  have hc1 : c ∉ l₁ := fun h => hdisj h (by simp)
  have hc2 : c ∉ l₂ := (List.nodup_cons.mp hcl).1
  have hfold : (List.range 8).foldl f s = l₂.foldl f (f (l₁.foldl f s) c) := by rw [hl, List.foldl_append, List.foldl_cons]
  refine ⟨l₁, l₂, h1, h2, hfold, foldl_ctx hf l₁ h1 s hc1, fun r hr hb => foldl_rd hf l₁ h1 s hr fun j hj he => ?_, ?_, fun r hr hb => ?_⟩
  · have hjc : j ≠ c := fun h => hc1 (h ▸ hj)
    omega
  · rw [hfold, foldl_ctx hf l₂ h2 _ hc2]
  · rw [hfold, foldl_rd hf l₂ h2 _ hr fun j hj he => hc2 ?_]
    rwa [show c = j by omega]

theorem range_foldl_rd {f : State → Nat → State} (hf : ∀ s c, c < 8 → CtxLocal s (f s c) c) (s : State) {r : Nat} (hr : 0x40000 ≤ r) (hr' : r < 0x41000) :
    ((List.range 8).foldl f s).rd r = s.rd r :=
  foldl_rd hf _ (fun _ hj => List.mem_range.mp hj) s hr fun _ _ => by omega

/-! ### Slices and waits of a context (R185, R210, R213) -/

/-- The state of the schedule that no change of a context's slices touches. -/
def State.schedule (s : State) : Nat × Word := (s.ful.frame, s.ful.pg)

section
variable (s : State) (c : Nat)

theorem State.setSlices_fulOnly (n : Nat) : s.FulOnly (s.setSlices c n) := by
  unfold State.setSlices
  dsimp only
  refine State.FulOnly.trans ?_ (State.fulUpd_fulOnly _ c)
  unfold State.FulOnly
  rw [State.wdogKeep_frame]
  rfl

theorem State.setSlices_ful (n : Nat) : (s.setSlices c n).ful = { s.ful with busy := (s.setSlices c n).ful.busy } := by
  unfold State.setSlices
  dsimp only
  rw [State.fulUpd_ful, State.wdogKeep_frame]
  rfl

/-- The state register before the last step of a change of slices. -/
theorem State.rd_wdogKeep (b : Bool) (r : Nat) : (s.wdogKeep c b).rd r = s.rd r := by
  rw [State.wdogKeep_frame]
  rfl

theorem State.setSlices_local (n : Nat) : CtxLocal s (s.setSlices c n) c := by
  unfold State.setSlices
  dsimp only
  refine ((s.wr_local _ (fulCState_block c)).trans ⟨fun j hj => ?_, fun r _ _ => State.rd_wdogKeep _ c _ r⟩).trans (State.fulUpd_local _ c)
  obtain ⟨n', hn⟩ := State.wdogKeep_moves (s.fset (Reg.fulCState c) Reg.fulCState_SLICES n) c (s.wdogOn c)
  exact (hn j).trans (if_neg hj)

theorem State.cxSlices_setSlices {n : Nat} (h : n < 16) : (s.setSlices c n).cxSlices c = n := by
  unfold State.setSlices
  dsimp only
  rw [State.cxSlices_fulUpd, State.cxSlices, State.fget_of_rd (State.rd_wdogKeep _ c _ _), State.fget_fset _ _ _ (by decide)]
  exact Nat.mod_eq_of_lt h

/-- What the context runs is as it was. -/
theorem State.ctx_setSlices (n : Nat) : ∃ k, (s.setSlices c n).ctx c = { s.ctx c with wdogFrom := k } := by
  obtain ⟨k, hk⟩ := State.wdogKeep_moves (s.fset (Reg.fulCState c) Reg.fulCState_SLICES n) c (s.wdogOn c)
  refine ⟨k, ?_⟩
  unfold State.setSlices
  dsimp only
  rw [State.ctx_fulUpd, hk, if_pos rfl]
  rfl

/-- FAULTED stands, with its record. -/
theorem State.setSlices_faulted {n : Nat} (h : s.cxState c = cxFAULTED) : (s.setSlices c n).cxState c = cxFAULTED := by
  unfold State.setSlices
  dsimp only
  refine State.cxState_fulUpd_faulted ?_
  rw [State.cxState, State.fget_of_rd (State.rd_wdogKeep _ c _ _), State.fget_fset_of_disjoint _ _ _ (by decide)]
  exact h

theorem State.rd_setSlices_of_ne (n : Nat) {r : Nat} (hs : r ≠ Reg.fulCState c) (he : r ≠ Reg.fulCEvent c) : (s.setSlices c n).rd r = s.rd r := by
  unfold State.setSlices
  dsimp only
  rw [State.rd_fulUpd_of_ne _ _ hs he, State.rd_wdogKeep, State.rd_fset_of_ne _ _ _ hs]

theorem State.wakeWaits_cases : s.wakeWaits c = s ∨ s.wakeWaits c = s.fset (Reg.fulCState c) Reg.fulCState_WAKE_WAIT 0 := by
  unfold State.wakeWaits
  split
  · exact .inl rfl
  · exact .inr rfl

theorem State.wakeWaits_local : CtxLocal s (s.wakeWaits c) c := by
  rcases s.wakeWaits_cases c with h | h <;> rw [h]
  · exact .refl s c
  · exact s.wr_local _ (fulCState_block c)

theorem State.wakeWaits_regs : s.wakeWaits c = { s with regs := (s.wakeWaits c).regs } := by
  rcases s.wakeWaits_cases c with h | h <;> rw [h]
  rfl

theorem State.cxSlices_wakeWaits (j : Nat) : (s.wakeWaits c).cxSlices j = s.cxSlices j := by
  rcases s.wakeWaits_cases c with h | h <;> rw [h]
  by_cases hj : j = c
  · subst hj
    exact s.fget_fset_of_disjoint _ _ (by decide)
  · exact s.fget_fset_of_ne _ _ _ (by unfold Reg.fulCState; omega)

theorem State.windowEnds_fulOnly : s.FulOnly (s.windowEnds c) := by
  unfold State.windowEnds
  dsimp only
  split <;> rfl

theorem State.windowEnds_local : CtxLocal s (s.windowEnds c) c := by
  have h := s.modCtx_local c fun x => { x with queue := x.queue.map fun o => { o with deferred := false } }
  unfold State.windowEnds
  dsimp only
  split
  · exact (h.trans (State.wr_local _ _ (by unfold Reg.fulCStrmStat; omega))).trans (State.wr_local _ _ (by unfold Reg.fulCStrmCnt; omega))
  · exact h

theorem State.cxSlices_windowEnds : (s.windowEnds c).cxSlices c = s.cxSlices c := by
  refine State.fget_of_rd ?_ _
  unfold State.windowEnds
  dsimp only
  split
  · exact (State.rd_fsat_of_ne _ _ _ (by unfold Reg.fulCState Reg.fulCStrmCnt; omega)).trans
      (State.rd_fset_of_ne _ _ _ (by unfold Reg.fulCState Reg.fulCStrmStat; omega))
  · rfl

theorem State.cxSlices_ctxEvent (e : Nat) : (s.ctxEvent c e).cxSlices c = s.cxSlices c :=
  State.fget_of_rd (s.rd_ctxEvent_of_ne c e (fulCState_ne_fulCEvent c c)) _

end

/-! ### Boundaries (R209, R210) -/

/-- The slices of a context at a boundary, before its work ends or its window begins. -/
def State.boundarySlices (new : Option Nat) (s : State) (c : Nat) : State :=
  let n := s.cxSlices c &&& s.grantIn new c
  let u := s.setSlices c n
  let u := if n = s.cxSlices c then u else { u with ful := { u.ful with lost := c :: u.ful.lost } }
  u.wakeWaits c

/-- A step of the schedule in context `c`: nothing else changes, and neither do the frame and the setting of the power gating. -/
structure SchedStep (s t : State) (c : Nat) : Prop where
  only  : s.FulOnly t
  sched : t.schedule = s.schedule
  ctx   : CtxLocal s t c

theorem SchedStep.trans {s t u : State} {c : Nat} (h : SchedStep s t c) (k : SchedStep t u c) : SchedStep s u c :=
  ⟨h.only.trans k.only, k.sched.trans h.sched, h.ctx.trans k.ctx⟩

section
variable (s : State) (c : Nat)

theorem State.cxSlices_lt : s.cxSlices c < 16 := s.fget_lt _ _

theorem State.setSlices_step (n : Nat) : SchedStep s (s.setSlices c n) c :=
  ⟨s.setSlices_fulOnly c n, by unfold State.schedule; rw [s.setSlices_ful c n], s.setSlices_local c n⟩

theorem State.wakeWaits_step : SchedStep s (s.wakeWaits c) c := by
  have h := s.wakeWaits_regs c
  refine ⟨?_, ?_, s.wakeWaits_local c⟩
  · unfold State.FulOnly
    rw [h]
  · rw [h]
    rfl

theorem State.ctxEvent_step (e : Nat) : SchedStep s (s.ctxEvent c e) c :=
  ⟨s.ctxEvent_fulOnly c e, by unfold State.schedule; rw [s.ctxEvent_ful c e], s.ctxEvent_local c e⟩

theorem State.boundarySlices_step (new : Option Nat) : SchedStep s (State.boundarySlices new s c) c := by
  have hslices := s.setSlices_step c (s.cxSlices c &&& s.grantIn new c)
  have hlost (u : State) : SchedStep u { u with ful := { u.ful with lost := c :: u.ful.lost } } c :=
    ⟨rfl, rfl, fun _ _ => rfl, fun _ _ _ => rfl⟩
  unfold State.boundarySlices
  dsimp only
  split
  · exact hslices.trans (State.wakeWaits_step _ c)
  · exact (hslices.trans (hlost _)).trans (State.wakeWaits_step _ c)

theorem State.cxSlices_boundarySlices (new : Option Nat) : (State.boundarySlices new s c).cxSlices c = s.cxSlices c &&& s.grantIn new c := by
  have hlt : s.cxSlices c &&& s.grantIn new c < 16 := lt_of_le_of_lt Nat.and_le_left (s.cxSlices_lt c)
  unfold State.boundarySlices
  dsimp only
  rw [State.cxSlices_wakeWaits]
  split <;> exact s.cxSlices_setSlices c hlt

theorem State.boundaryCtx_step (old new : Option Nat) : SchedStep s (State.boundaryCtx old new s c) c := by
  refine (s.boundarySlices_step c new).trans ?_
  unfold State.boundaryCtx
  dsimp only
  split
  · exact ⟨(State.windowEnds_fulOnly _ c).trans rfl, rfl, ⟨(State.windowEnds_local _ c).others, (State.windowEnds_local _ c).rd⟩⟩
  · split
    · exact State.ctxEvent_step _ c 3
    · exact ⟨rfl, rfl, .refl _ c⟩

/-- A context keeps of its slices those that it is granted again. -/
theorem State.cxSlices_boundaryCtx (old new : Option Nat) : (State.boundaryCtx old new s c).cxSlices c = s.cxSlices c &&& s.grantIn new c := by
  refine Eq.trans ?_ (s.cxSlices_boundarySlices c new)
  unfold State.boundaryCtx
  dsimp only
  split
  · exact State.cxSlices_windowEnds _ c
  · split
    · exact State.cxSlices_ctxEvent _ c 3
    · rfl

end

/-- A grant is read from its window's register. -/
theorem State.winGrant_of_rd {s t : State} {w : Nat} (h : t.rd (Reg.fulWin w) = s.rd (Reg.fulWin w)) (c : Nat) : t.winGrant w c = s.winGrant w c := by
  unfold State.winGrant
  rw [h]

theorem State.grantIn_of_rd {s t : State} {w : Option Nat} (h : ∀ k ∈ w, t.rd (Reg.fulWin k) = s.rd (Reg.fulWin k)) (c : Nat) :
    t.grantIn w c = s.grantIn w c := by
  cases w with
  | none => rfl
  | some k => exact State.winGrant_of_rd (h k rfl) c

/-- The machine in which the contexts meet a boundary: the new window is current. -/
def State.atBoundary (s : State) (old new : Option Nat) (frame : Nat) : State :=
  let z := s.noteBusy
  let z := { z with ful := { z.ful with frame := frame, pg := z.rd Reg.fulPgCtl, changed := [], lost := [] } }
  ((z.fset Reg.fulStatus Reg.fulStatus_WIN (new.getD 0)).fset Reg.fulStatus Reg.fulStatus_SCHED_ACTIVE (b2n new.isSome)).fset Reg.fulStatus
    Reg.fulStatus_GAP (b2n ((List.range 8).any fun c => decide (s.grantIn old c ≠ s.grantIn new c)))

section
variable (s : State) (old new : Option Nat) (frame : Nat)

theorem State.crossBoundary_eq : s.crossBoundary old new frame = ((List.range 8).foldl (State.boundaryCtx old new) (s.atBoundary old new frame)).noteBusy := rfl

theorem State.rd_atBoundary_of_ne {r : Nat} (h : r ≠ Reg.fulStatus) : (s.atBoundary old new frame).rd r = s.rd r := by
  refine (State.rd_fset_of_ne _ _ _ h).trans ((State.rd_fset_of_ne _ _ _ h).trans ((State.rd_fset_of_ne _ _ _ h).trans (s.rd_noteBusy r)))

theorem State.atBoundary_fulOnly : s.FulOnly (s.atBoundary old new frame) := s.noteBusy_fulOnly.trans rfl

theorem State.crossBoundary_fulOnly : s.FulOnly (s.crossBoundary old new frame) :=
  ((s.atBoundary_fulOnly old new frame).trans
    (State.FulOnly.foldl (fun z c => (z.boundaryCtx_step c old new).only) _ _)).trans (State.noteBusy_fulOnly _)

theorem State.crossBoundary_schedule : (s.crossBoundary old new frame).schedule = (frame, s.rd Reg.fulPgCtl) := by
  have hbusy (z : State) : z.noteBusy.schedule = z.schedule := by
    unfold State.schedule
    rw [z.noteBusy_frame]
  have hfold : ((List.range 8).foldl (State.boundaryCtx old new) (s.atBoundary old new frame)).schedule = (s.atBoundary old new frame).schedule :=
    List.foldlRecOn (motive := fun z : State => z.schedule = (s.atBoundary old new frame).schedule) _ _ rfl fun z hz c _ =>
      (z.boundaryCtx_step c old new).sched.trans hz
  rw [State.crossBoundary_eq, hbusy, hfold]
  exact congrArg (Prod.mk frame) (s.rd_noteBusy _)

/-- The device-wide registers of the FUL block after a boundary. -/
theorem State.rd_crossBoundary {r : Nat} (h : 0x40000 ≤ r) (h' : r < 0x41000) :
    (s.crossBoundary old new frame).rd r = (s.atBoundary old new frame).rd r :=
  (State.rd_noteBusy _ _).trans (range_foldl_rd (fun z c _ => (z.boundaryCtx_step c old new).ctx) _ h h')

theorem State.fget_crossBoundary (f : Fld) {r : Nat} (h : 0x40000 ≤ r) (h' : r < 0x41000) :
    (s.crossBoundary old new frame).fget r f = (s.atBoundary old new frame).fget r f := State.fget_of_rd (s.rd_crossBoundary old new frame h h') f

/-- The status after a boundary: the window, whether the schedule runs, whether the gap does. -/
theorem State.crossBoundary_status (hw : ∀ w ∈ new, w < 64) :
    let t := s.crossBoundary old new frame
    t.curWin = new.getD 0 ∧ t.schedOn = new.isSome ∧
      (t.fget Reg.fulStatus Reg.fulStatus_GAP = 1 ↔ ∃ c < 8, s.grantIn old c ≠ s.grantIn new c) := by
  intro t
  have hst (f : Fld) : t.fget Reg.fulStatus f = (s.atBoundary old new frame).fget Reg.fulStatus f :=
    s.fget_crossBoundary old new frame f (by decide) (by decide)
  have hwin : new.getD 0 < 64 := by
    cases new with
    | none => decide
    | some w => exact hw w rfl
  refine ⟨?_, ?_, ?_⟩
  · rw [State.curWin, hst, State.atBoundary, State.fget_fset_of_disjoint _ _ _ (by decide), State.fget_fset_of_disjoint _ _ _ (by decide),
      State.fget_fset _ _ _ (by decide)]
    exact Nat.mod_eq_of_lt hwin
  · rw [State.schedOn, hst, State.atBoundary, State.fget_fset_of_disjoint _ _ _ (by decide), State.fget_fset _ _ _ (by decide)]
    cases new <;> rfl
  · rw [hst, State.atBoundary, State.fget_fset _ _ _ (by decide)]
    have hb (b : Bool) : b2n b % 2 ^ Reg.fulStatus_GAP.len = 1 ↔ b = true := by cases b <;> decide
    rw [hb]
    simp

/-- The slices of the contexts after a boundary. -/
theorem State.cxSlices_crossBoundary (hw : ∀ w ∈ new, w < 64) {c : Nat} (hc : c < 8) :
    (s.crossBoundary old new frame).cxSlices c = s.cxSlices c &&& s.grantIn new c := by
  obtain ⟨l₁, -, -, -, -, -, hrd, -, hfin⟩ :=
    range_foldl_split (fun z c _ => (z.boundaryCtx_step c old new).ctx) (s.atBoundary old new frame) hc
  have hcs : 0x40000 ≤ Reg.fulCState c := by unfold Reg.fulCState; omega
  have hne : Reg.fulCState c ≠ Reg.fulStatus := by unfold Reg.fulCState Reg.fulStatus; omega
  have hslices : (l₁.foldl (State.boundaryCtx old new) (s.atBoundary old new frame)).cxSlices c = s.cxSlices c :=
    State.fget_of_rd ((hrd _ hcs (.inr (fulCState_block c))).trans (s.rd_atBoundary_of_ne old new frame hne)) _
  have hgrant : (l₁.foldl (State.boundaryCtx old new) (s.atBoundary old new frame)).grantIn new c = s.grantIn new c := by
    refine State.grantIn_of_rd (fun w hm => ?_) c
    have hlt := hw w hm
    refine (hrd _ ?_ (.inl ?_)).trans (s.rd_atBoundary_of_ne old new frame ?_) <;> unfold Reg.fulWin
    · omega
    · omega
    · unfold Reg.fulStatus
      omega
  rw [State.crossBoundary_eq, State.cxSlices, State.fget_of_rd ((State.rd_noteBusy _ _).trans (hfin _ hcs (fulCState_block c)))]
  refine (State.cxSlices_boundaryCtx _ c old new).trans ?_
  rw [hslices, hgrant]

end

/-! ### The end of the gap (R210, R212) -/

/-- The window and the grants of the schedule stand from `s` to `t`. -/
structure SameGrants (s t : State) : Prop where
  win    : t.curWin = s.curWin
  on     : t.schedOn = s.schedOn
  grants : ∀ w < 64, t.rd (Reg.fulWin w) = s.rd (Reg.fulWin w)

theorem SameGrants.curGrant {s t : State} (h : SameGrants s t) (c : Nat) : t.curGrant c = s.curGrant c := by
  unfold State.curGrant
  rw [h.win, h.on, State.winGrant_of_rd (h.grants _ (s.fget_lt _ _)) c]

theorem fulWin_bounds {w : Nat} (h : w < 64) : 0x40000 ≤ Reg.fulWin w ∧ Reg.fulWin w < 0x41000 ∧ Reg.fulWin w ≠ Reg.fulStatus := by
  unfold Reg.fulWin Reg.fulStatus
  omega

/-- They stand where the device-wide registers do. -/
theorem SameGrants.of_rd {s t : State} (h : ∀ r, 0x40000 ≤ r → r < 0x41000 → t.rd r = s.rd r) : SameGrants s t := by
  have hst : t.rd Reg.fulStatus = s.rd Reg.fulStatus := h _ (by decide) (by decide)
  refine ⟨State.fget_of_rd hst _, ?_, fun w hw => h _ (fulWin_bounds hw).1 (fulWin_bounds hw).2.1⟩
  rw [State.schedOn, State.fget_of_rd hst, State.schedOn]

/-- They stand where another field of the status changes. -/
theorem State.fset_sameGrants (s : State) {f : Fld} (v : Nat) (hw : 14 ≤ f.lo ∨ f.lo + f.len ≤ 8) (ha : 15 ≤ f.lo ∨ f.lo + f.len ≤ 14) :
    SameGrants s (s.fset Reg.fulStatus f v) := by
  refine ⟨s.fget_fset_of_disjoint _ _ hw, ?_, fun w hlt => State.rd_fset_of_ne _ _ _ (fulWin_bounds hlt).2.2⟩
  rw [State.schedOn, s.fget_fset_of_disjoint Reg.fulStatus (g := Reg.fulStatus_SCHED_ACTIVE) v ha]
  rfl

section
variable (s : State) (c : Nat)

theorem State.takeSlices_step : SchedStep s (s.takeSlices c) c := by
  unfold State.takeSlices
  dsimp only
  split
  · exact (s.setSlices_step c _).trans (State.ctxEvent_step _ c 3)
  · exact s.setSlices_step c _

theorem State.cxSlices_takeSlices : (s.takeSlices c).cxSlices c = s.curGrant c &&& s.fget Reg.fulStatus Reg.fulStatus_SLICE_ON := by
  have hlt : s.curGrant c &&& s.fget Reg.fulStatus Reg.fulStatus_SLICE_ON < 16 := lt_of_le_of_lt Nat.and_le_right (s.fget_lt _ _)
  unfold State.takeSlices
  dsimp only
  split
  · rw [State.cxSlices_ctxEvent, s.cxSlices_setSlices c hlt]
  · exact s.cxSlices_setSlices c hlt

/-- A context that takes its slices runs what it ran, and its fault stands. -/
theorem State.takeSlices_stands : ((s.takeSlices c).ctx c).run = (s.ctx c).run ∧ (s.cxState c = cxFAULTED → (s.takeSlices c).cxState c = cxFAULTED) ∧
    (s.takeSlices c).rd (Reg.fulCCtxFault c) = s.rd (Reg.fulCCtxFault c) := by
  have hs : Reg.fulCCtxFault c ≠ Reg.fulCState c := by unfold Reg.fulCCtxFault Reg.fulCState; omega
  have he : Reg.fulCCtxFault c ≠ Reg.fulCEvent c := by unfold Reg.fulCCtxFault Reg.fulCEvent; omega
  obtain ⟨k, hk⟩ := s.ctx_setSlices c (s.curGrant c &&& s.fget Reg.fulStatus Reg.fulStatus_SLICE_ON)
  have hrun := congrArg Ctx.run hk
  unfold State.takeSlices
  dsimp only
  split
  · refine ⟨?_, fun hf => ?_, ?_⟩
    · rw [State.ctx_ctxEvent]
      exact hrun
    · exact (State.cxState_of_rd (State.rd_ctxEvent_of_ne _ c 3 (fulCState_ne_fulCEvent c c))).1.trans (s.setSlices_faulted c hf)
    · rw [State.rd_ctxEvent_of_ne _ c 3 he, s.rd_setSlices_of_ne c _ hs he]
  · exact ⟨hrun, s.setSlices_faulted c, s.rd_setSlices_of_ne c _ hs he⟩

/-- At the end of the gap the work of a context in `late` that a slice it has lost still holds ends as an overrun. -/
def State.endLate (late : BitVec 8) (s : State) (c : Nat) : State :=
  if late.getLsbD c && s.ful.lost.contains c && !(s.ctx c).run.isEmpty then (s.raise (0x106 + 8 * c)).killRun c 0x0C true else s

variable {s c}

theorem State.endLate_cases (late : BitVec 8) (hc : c < 8) : s.endLate late c = s ∨ Killed (s.raise (0x106 + 8 * c)) (s.endLate late c) c := by
  unfold State.endLate
  split
  next h =>
    obtain ⟨o, r, hr⟩ := List.exists_cons_of_ne_nil (show (s.ctx c).run ≠ [] by simp at h; exact h.2)
    exact .inr (State.killRun_killed (s := s.raise (0x106 + 8 * c)) hc hr 0x0C true)
  next => exact .inl rfl

theorem State.endLate_local (late : BitVec 8) (hc : c < 8) : CtxLocal s (s.endLate late c) c := by
  rcases State.endLate_cases (s := s) late hc with h | h
  · rw [h]
    exact .refl s c
  · refine ⟨h.others, fun r hr hb => (h.rd r (not_faultReg_of_outside hr hb) ?_).trans (State.rd_raise_of_ne _ ?_)⟩
    · unfold Reg.fulCStrmStat
      omega
    · unfold Reg.fcruPend
      omega

theorem State.endLate_lost (late : BitVec 8) (hc : c < 8) : (s.endLate late c).ful.lost = s.ful.lost := by
  rcases State.endLate_cases (s := s) late hc with h | h
  · rw [h]
  · rw [h.ful]
    rfl

/-- The sources raised before stay raised. -/
theorem State.mem_detected_endLate (late : BitVec 8) (hc : c < 8) {d : Detection} (hd : d ∈ s.detected) : d ∈ (s.endLate late c).detected := by
  rcases State.endLate_cases (s := s) late hc with h | h
  · rwa [h]
  · obtain ⟨l, hl⟩ := h.detected
    rw [hl]
    exact List.mem_append_left _ (List.mem_append_left _ hd)

/-- The overrun of one context. -/
theorem State.endLate_overruns {late : BitVec 8} (hc : c < 8) (hlate : late.getLsbD c = true) (hlost : c ∈ s.ful.lost) (hstrm : (s.ctx c).strm = none)
    {o : FulOp} {r : List FulOp} (hrun : (s.ctx c).run = o :: r) (hst : s.cxState c ≠ cxFAULTED) :
    let t := s.endLate late c
    (t.ctx c).run = [] ∧ t.cxState c = cxFAULTED ∧ t.rd (Reg.fulCCtxFault c) = BitVec.ofNat 64 (o.seq % 2 ^ 32 + 2 ^ 32 * 0x0C + 2 ^ 38) ∧
      ∃ d ∈ t.detected, d.src = 0x106 + 8 * c := by
  have heq : s.endLate late c = (s.raise (0x106 + 8 * c)).killRun c 0x0C true := if_pos (by simp [hlate, hlost, hrun])
  have hstate : (s.raise (0x106 + 8 * c)).rd (Reg.fulCState c) = s.rd (Reg.fulCState c) :=
    State.rd_raise_of_ne _ (by unfold Reg.fulCState Reg.fcruPend; omega)
  have hk := State.killRun_killed (s := s.raise (0x106 + 8 * c)) hc hrun 0x0C true
  obtain ⟨hf, hrec⟩ := State.killRun_faulted (s := s.raise (0x106 + 8 * c)) hc hrun
    (fun h => hst ((State.cxState_of_rd hstate).1.symm.trans h)) hstrm 0x0C true
  dsimp only
  rw [heq]
  refine ⟨hk.run, hf, hrec, ?_⟩
  obtain ⟨l, hl⟩ := hk.detected
  have hmem : 0x106 + 8 * c ∈ (s.raise (0x106 + 8 * c)).detected.map (·.src) := by
    rw [State.raise_detected_src]
    simp
  obtain ⟨d, hd, hsrc⟩ := List.mem_map.mp hmem
  exact ⟨d, by rw [hl]; exact List.mem_append_left _ hd, hsrc⟩

end

/-- The machine in which the contexts take their slices: late work has ended, the gap is over. -/
def State.lateEnded (s : State) (late : BitVec 8) : State := ((List.range 8).foldl (State.endLate late) s).fset Reg.fulStatus Reg.fulStatus_GAP 0

/-- The machine after the gap, but for the marks of the contexts. -/
def State.gapEnded (s : State) (late : BitVec 8) : State := (List.range 8).foldl State.takeSlices (s.lateEnded late)

section
variable (s : State) (late : BitVec 8)

theorem exec_gapEnd (h : s.fget Reg.fulStatus Reg.fulStatus_GAP = 1) : exec (.fulGapEnd late) s =
    .next { s.gapEnded late with ful := { (s.gapEnded late).ful with changed := [], lost := [] } } :=
  if_neg (by rw [h]; decide)

theorem State.rd_lateEnded_of_ne {r : Nat} (hr : 0x40000 ≤ r) (hr' : r < 0x41000) (h : r ≠ Reg.fulStatus) : (s.lateEnded late).rd r = s.rd r :=
  (State.rd_fset_of_ne _ _ _ h).trans (range_foldl_rd (fun _ _ hc => State.endLate_local late hc) s hr hr')

theorem State.lateEnded_status : (s.lateEnded late).rd Reg.fulStatus = (s.fset Reg.fulStatus Reg.fulStatus_GAP 0).rd Reg.fulStatus := by
  have h := range_foldl_rd (fun _ _ hc => State.endLate_local late hc) s (r := Reg.fulStatus) (by decide) (by decide)
  rw [State.lateEnded, State.rd_fset, if_pos rfl, h, State.rd_fset, if_pos rfl]

theorem State.rd_gapEnded {r : Nat} (hr : 0x40000 ≤ r) (hr' : r < 0x41000) : (s.gapEnded late).rd r = (s.lateEnded late).rd r :=
  range_foldl_rd (fun z c _ => (z.takeSlices_step c).ctx) _ hr hr'

theorem State.gapEnded_gap : (s.gapEnded late).fget Reg.fulStatus Reg.fulStatus_GAP = 0 := by
  rw [State.fget_of_rd (s.rd_gapEnded late (by decide) (by decide)), State.fget_of_rd (s.lateEnded_status late), State.fget_fset _ _ _ (by decide)]
  rfl

theorem State.cxSlices_gapEnded {c : Nat} (hc : c < 8) :
    (s.gapEnded late).cxSlices c = s.curGrant c &&& s.fget Reg.fulStatus Reg.fulStatus_SLICE_ON := by
  obtain ⟨l₁, -, -, -, -, -, hrd, -, hfin⟩ := range_foldl_split (fun z c _ => (z.takeSlices_step c).ctx) (s.lateEnded late) hc
  have hgrants : SameGrants s (l₁.foldl State.takeSlices (s.lateEnded late)) := by
    have h1 := s.fset_sameGrants (f := Reg.fulStatus_GAP) 0 (.inl (by decide)) (.inl (by decide))
    have h2 : SameGrants (s.fset Reg.fulStatus Reg.fulStatus_GAP 0) (l₁.foldl State.takeSlices (s.lateEnded late)) := by
      refine .of_rd fun r hr hr' => (hrd r hr (.inl hr')).trans ?_
      by_cases h : r = Reg.fulStatus
      · rw [h]
        exact s.lateEnded_status late
      · rw [s.rd_lateEnded_of_ne late hr hr' h, State.rd_fset_of_ne _ _ _ h]
    exact ⟨h2.win.trans h1.win, h2.on.trans h1.on, fun w hw => (h2.grants w hw).trans (h1.grants w hw)⟩
  have hon : (l₁.foldl State.takeSlices (s.lateEnded late)).fget Reg.fulStatus Reg.fulStatus_SLICE_ON =
      s.fget Reg.fulStatus Reg.fulStatus_SLICE_ON :=
    (State.fget_of_rd ((hrd _ (by decide) (.inl (by decide))).trans (s.lateEnded_status late)) _).trans (s.fget_fset_of_disjoint _ _ (by decide))
  rw [State.gapEnded, State.cxSlices, State.fget_of_rd (hfin _ (by unfold Reg.fulCState; omega) (fulCState_block c))]
  refine (State.cxSlices_takeSlices _ c).trans ?_
  rw [hgrants.curGrant, hon]

/-- With no context late the gap ends within the schedule. -/
theorem State.gapEnded_fulOnly : s.FulOnly (s.gapEnded 0) := by
  have hnone : (List.range 8).foldl (State.endLate 0) s = s :=
    List.foldlRecOn (motive := fun z : State => z = s) _ _ rfl fun z hz c _ => by rw [State.endLate, if_neg (by simp), hz]
  have hlate : s.FulOnly (s.lateEnded 0) := by
    rw [State.lateEnded, hnone]
    rfl
  exact hlate.trans (State.FulOnly.foldl (fun z c => (z.takeSlices_step c).only) _ _)

/-- The overrun of a context stands after the gap. -/
theorem State.gapEnded_overrun {c : Nat} (hc : c < 8) (hlate : late.getLsbD c = true) (hlost : c ∈ s.ful.lost) (hstrm : (s.ctx c).strm = none)
    {o : FulOp} {r : List FulOp} (hrun : (s.ctx c).run = o :: r) (hst : s.cxState c ≠ cxFAULTED) :
    let t := s.gapEnded late
    (t.ctx c).run = [] ∧ t.cxState c = cxFAULTED ∧ t.rd (Reg.fulCCtxFault c) = BitVec.ofNat 64 (o.seq % 2 ^ 32 + 2 ^ 32 * 0x0C + 2 ^ 38) ∧
      ∃ d ∈ t.detected, d.src = 0x106 + 8 * c := by
  obtain ⟨l₁, l₂, h1, h2, hfold, hctx, hrd, hctx', hrd'⟩ := range_foldl_split (fun _ _ hc => State.endLate_local late hc) s hc
  obtain ⟨m₁, m₂, -, -, hmfold, hmctx, hmrd, hmctx', hmrd'⟩ := range_foldl_split (fun z c _ => (z.takeSlices_step c).ctx) (s.lateEnded late) hc
  let u := l₁.foldl (State.endLate late) s
  have hcs : 0x40000 ≤ Reg.fulCState c := by unfold Reg.fulCState; omega
  have hcf : 0x40000 ≤ Reg.fulCCtxFault c := by unfold Reg.fulCCtxFault; omega
  have hbf : Reg.fulCCtxFault c / 0x100 = 0x410 + c := by unfold Reg.fulCCtxFault; omega
  have hlost' : u.ful.lost = s.ful.lost := List.foldlRecOn (motive := fun z : State => z.ful.lost = s.ful.lost) _ _ rfl fun z hz j hj =>
    (State.endLate_lost late (h1 j hj)).trans hz
  have hstate : u.rd (Reg.fulCState c) = s.rd (Reg.fulCState c) := hrd _ hcs (.inr (fulCState_block c))
  obtain ⟨hrun', hst', hrec, d, hd, hsrc⟩ := State.endLate_overruns (s := u) hc hlate (hlost'.symm ▸ hlost) (by rw [hctx]; exact hstrm)
    (by rw [hctx]; exact hrun) fun h => hst ((State.cxState_of_rd hstate).1.symm.trans h)
  let z := m₁.foldl State.takeSlices (s.lateEnded late)
  have hzrd {q : Nat} (hq : 0x40000 ≤ q) (hb : q / 0x100 = 0x410 + c) : z.rd q = (u.endLate late c).rd q :=
    (hmrd q hq (.inr hb)).trans ((State.rd_fset_of_ne _ _ _ (by unfold Reg.fulStatus; omega)).trans (hrd' q hq hb))
  have hzctx : z.ctx c = (u.endLate late c).ctx c := hmctx.trans hctx'
  obtain ⟨hkrun, hkst, hkrec⟩ := z.takeSlices_stands c
  refine ⟨?_, ?_, ?_, d, ?_, hsrc⟩
  · rw [State.gapEnded, hmctx', hkrun, hzctx, hrun']
  · rw [State.gapEnded, State.cxState, State.fget_of_rd (hmrd' _ hcs (fulCState_block c))]
    exact hkst ((State.cxState_of_rd (hzrd hcs (fulCState_block c))).1.trans hst')
  · rw [State.gapEnded, hmrd' _ hcf hbf]
    exact hkrec.trans ((hzrd hcf hbf).trans hrec)
  · have hlate' : d ∈ (s.lateEnded late).detected := by
      change d ∈ ((List.range 8).foldl (State.endLate late) s).detected
      rw [hfold]
      exact List.foldlRecOn (motive := fun z : State => d ∈ z.detected) _ _ hd fun z hz j hj => State.mem_detected_endLate late (h2 j hj) hz
    have hkeep : (s.gapEnded late).detected = (s.lateEnded late).detected := by
      have honly : (s.lateEnded late).FulOnly (s.gapEnded late) := State.FulOnly.foldl (fun z c => (z.takeSlices_step c).only) _ _
      rw [honly]
    rw [hkeep]
    exact hlate'

end

/-! ### Slices gate and wake (R213) -/

section
variable (s : State) (i : Fin 4)

theorem State.sliceIdle_iff : s.sliceIdle i = true ↔ ∀ c, s.sliceCtx i = some c → bit s.ful.pg 1 = true ∧ s.cxState c = cxIDLE := by
  have h : s.sliceIdle i = match s.sliceCtx i with
    | none => true
    | some c => bit s.ful.pg 1 && decide (s.cxState c = cxIDLE) := rfl
  rw [h]
  cases s.sliceCtx i <;> simp

/-- The context of a slice stands with the grants. -/
theorem SameGrants.sliceCtx {s t : State} (h : SameGrants s t) (i : Nat) : t.sliceCtx i = s.sliceCtx i := by
  unfold State.sliceCtx
  simp only [h.curGrant]

/-- A context takes its slices anew: the others keep theirs, and the status stands. -/
theorem State.setSlices_slices {c n : Nat} (hn : n < 16) (j : Nat) : (s.setSlices c n).cxSlices j = if j = c then n else s.cxSlices j := by
  split
  next h =>
    subst h
    exact s.cxSlices_setSlices j hn
  next h =>
    refine State.fget_of_rd ((s.setSlices_local c n).rd _ (by unfold Reg.fulCState; omega) ?_) _
    have hb := fulCState_block j
    omega

theorem State.rd_setSlices_status (c n : Nat) : (s.setSlices c n).rd Reg.fulStatus = s.rd Reg.fulStatus :=
  (s.setSlices_local c n).rd _ (by decide) (by unfold Reg.fulStatus; omega)

/-- The slice that gates leaves the context it is granted to. -/
theorem sliceGate_gates (hgate : (bit s.ful.pg 0 && (s.sliceIdle i && decide (1000 * bits s.ful.pg 16 16 ≤ s.ticks - SMap.get 0 s.ful.busy i)) &&
    bit (s.rd Reg.fulStatus) i) = true) :
    ∃ t, exec (.fulSliceGate i) s = .next t ∧ s.FulOnly t ∧ t.rd Reg.fulStatus = setBits (s.rd Reg.fulStatus) i 1 0 ∧
      ∀ c < 8, t.cxSlices c = if s.sliceCtx i = some c then s.cxSlices c &&& (15 - 2 ^ i.val) else s.cxSlices c := by
  let u := s.wr Reg.fulStatus (setBits (s.rd Reg.fulStatus) i 1 0)
  have hexec : exec (.fulSliceGate i) s = .next (match u.sliceCtx i with
      | some c => u.setSlices c (u.cxSlices c &&& (15 - 2 ^ i.val))
      | none => u) := if_pos hgate
  have hgrants : SameGrants s u := s.fset_sameGrants (f := ⟨i, 1⟩) 0 (.inr (by dsimp only; omega)) (.inr (by dsimp only; omega))
  have hst : u.rd Reg.fulStatus = setBits (s.rd Reg.fulStatus) i 1 0 := (State.rd_wr _ _ _ _).trans (if_pos rfl)
  have hsl (c : Nat) : u.cxSlices c = s.cxSlices c := State.fget_wr_of_ne _ _ _ (by unfold Reg.fulCState Reg.fulStatus; omega)
  rw [hgrants.sliceCtx] at hexec
  cases hc : s.sliceCtx i with
  | none =>
    rw [hc] at hexec
    exact ⟨u, hexec, rfl, hst, fun c _ => by rw [if_neg (by simp), hsl]⟩
  | some c =>
    rw [hc] at hexec
    have hlt : u.cxSlices c &&& (15 - 2 ^ i.val) < 16 := lt_of_le_of_lt Nat.and_le_left (u.cxSlices_lt c)
    refine ⟨_, hexec, State.FulOnly.trans (t := u) rfl (u.setSlices_fulOnly c _), (u.rd_setSlices_status c _).trans hst, fun j _ => ?_⟩
    rw [u.setSlices_slices hlt, hsl, hsl]
    by_cases hj : j = c
    · rw [if_pos hj, if_pos (by rw [hj]), hj]
    · rw [if_neg hj, if_neg fun h => hj (Option.some.inj h).symm]

/-- The slice that has woken is its context's, outside the gap. -/
theorem sliceWake_wakes (hwake : bit (s.rd Reg.fulStatus) (4 + i) = true) :
    ∃ t, exec (.fulSliceWakeDone i) s = .next t ∧ s.FulOnly t ∧ t.rd Reg.fulStatus = setBits (setBits (s.rd Reg.fulStatus) (4 + i) 1 0) i 1 1 ∧
      ∀ c < 8, t.cxSlices c =
        if s.sliceCtx i = some c ∧ s.fget Reg.fulStatus Reg.fulStatus_GAP = 0 then s.cxSlices c ||| 2 ^ i.val else s.cxSlices c := by
  let u := s.wr Reg.fulStatus (setBits (setBits (s.rd Reg.fulStatus) (4 + i) 1 0) i 1 1)
  let z := (List.range 8).foldl State.wakeWaits u
  have hexec : exec (.fulSliceWakeDone i) s = match z.sliceCtx i with
      | none => .next z
      | some c => .next (if z.fget Reg.fulStatus Reg.fulStatus_GAP = 1 then z else z.setSlices c (z.cxSlices c ||| 2 ^ i.val)) :=
    if_neg (by simp [hwake])
  have hone := s.fset_sameGrants (f := ⟨4 + i, 1⟩) 0 (.inr (by dsimp only; omega)) (.inr (by dsimp only; omega))
  have htwo := (s.fset Reg.fulStatus ⟨4 + i, 1⟩ 0).fset_sameGrants (f := ⟨i, 1⟩) 1 (.inr (by dsimp only; omega)) (.inr (by dsimp only; omega))
  have hword : ((s.fset Reg.fulStatus ⟨4 + i, 1⟩ 0).fset Reg.fulStatus ⟨i, 1⟩ 1).rd Reg.fulStatus = u.rd Reg.fulStatus := by
    rw [State.rd_fset, if_pos rfl, State.rd_fset, if_pos rfl]
    exact ((State.rd_wr _ _ _ _).trans (if_pos rfl)).symm
  have hzrd {r : Nat} (hr : 0x40000 ≤ r) (hr' : r < 0x41000) : z.rd r = u.rd r := range_foldl_rd (fun z c _ => z.wakeWaits_local c) u hr hr'
  have hst : z.rd Reg.fulStatus = setBits (setBits (s.rd Reg.fulStatus) (4 + i) 1 0) i 1 1 :=
    (hzrd (by decide) (by decide)).trans ((State.rd_wr _ _ _ _).trans (if_pos rfl))
  have hgap : z.fget Reg.fulStatus Reg.fulStatus_GAP = s.fget Reg.fulStatus Reg.fulStatus_GAP := by
    rw [State.fget_of_rd ((hzrd (by decide) (by decide)).trans hword.symm), State.fget_fset_of_disjoint _ _ _ (.inr ?_),
      State.fget_fset_of_disjoint _ _ _ (.inr ?_)]
    · change 4 + i.val + 1 ≤ 15
      omega
    · change i.val + 1 ≤ 15
      omega
  have hgrants : SameGrants s z := by
    have hlast : SameGrants ((s.fset Reg.fulStatus ⟨4 + i, 1⟩ 0).fset Reg.fulStatus ⟨i, 1⟩ 1) z := by
      refine .of_rd fun r hr hr' => (hzrd hr hr').trans ?_
      by_cases h : r = Reg.fulStatus
      · rw [h, hword]
      · rw [State.rd_wr_of_ne _ _ h, State.rd_fset_of_ne _ _ _ h, State.rd_fset_of_ne _ _ _ h]
    exact ⟨hlast.win.trans (htwo.win.trans hone.win), hlast.on.trans (htwo.on.trans hone.on),
      fun w hw => (hlast.grants w hw).trans ((htwo.grants w hw).trans (hone.grants w hw))⟩
  have hsl (c : Nat) : z.cxSlices c = s.cxSlices c := by
    have hz : z.cxSlices c = u.cxSlices c := List.foldlRecOn (motive := fun z : State => z.cxSlices c = u.cxSlices c) _ _ rfl
      fun z hz j _ => (z.cxSlices_wakeWaits j c).trans hz
    exact hz.trans (State.fget_wr_of_ne _ _ _ (by unfold Reg.fulCState Reg.fulStatus; omega))
  have honly : s.FulOnly z := State.FulOnly.trans (t := u) rfl (State.FulOnly.foldl (fun z c => (z.wakeWaits_step c).only) _ _)
  rw [hgrants.sliceCtx] at hexec
  cases hc : s.sliceCtx i with
  | none =>
    rw [hc] at hexec
    exact ⟨z, hexec, honly, hst, fun c _ => by rw [if_neg (by simp), hsl]⟩
  | some c =>
    rw [hc, hgap] at hexec
    have hbit : s.fget Reg.fulStatus Reg.fulStatus_GAP < 2 := s.fget_lt _ _
    by_cases hg : s.fget Reg.fulStatus Reg.fulStatus_GAP = 1
    · refine ⟨z, hexec.trans (congrArg _ (if_pos hg)), honly, hst, fun j _ => ?_⟩
      rw [if_neg (fun h => by omega), hsl]
    · have hlt : z.cxSlices c ||| 2 ^ i.val < 2 ^ 4 := Nat.or_lt_two_pow (z.cxSlices_lt c) (Nat.pow_lt_pow_right (by decide) i.isLt)
      refine ⟨_, hexec.trans (congrArg _ (if_neg hg)), honly.trans (z.setSlices_fulOnly c _), (z.rd_setSlices_status c _).trans hst, fun j _ => ?_⟩
      rw [z.setSlices_slices hlt, hsl, hsl]
      by_cases hj : j = c
      · rw [if_pos hj, if_pos ⟨by rw [hj], by omega⟩, hj]
      · rw [if_neg hj, if_neg fun h => hj (Option.some.inj h.1).symm]

theorem exec_scheduledWake : exec (.fulScheduledWake i) s =
    if bit (s.rd Reg.fulStatus) i = false ∧ bit (s.rd Reg.fulStatus) (4 + i) = false ∧ ∃ w < s.nwin, bit (s.rd (Reg.fulWin w)) (19 + 4 * i) = true then
      .next ((s.wr Reg.fulStatus (setBits (s.rd Reg.fulStatus) (4 + i) 1 1)).fsat Reg.fulPgStat Reg.fulPgStat_WAKES 1)
    else .next s := by
  have hlater : ((List.range s.nwin).any fun w => bit (s.rd (Reg.fulWin w)) (19 + 4 * i)) = true ↔
      ∃ w < s.nwin, bit (s.rd (Reg.fulWin w)) (19 + 4 * i) = true := by simp
  change execFulScheduledWake i s = _
  unfold execFulScheduledWake
  dsimp only
  split
  next h =>
    rw [if_neg]
    rintro ⟨h1, h2, h3⟩
    rw [h1, h2, hlater.mpr h3] at h
    exact absurd h (by decide)
  next h =>
    simp only [Bool.or_eq_true, Bool.not_eq_true', not_or, Bool.not_eq_true, Bool.not_eq_false] at h
    obtain ⟨⟨h1, h2⟩, h3⟩ := h
    rw [if_pos ⟨h1, h2, hlater.mp h3⟩]

end

/-! ### The register rows (R185, R207, R213) -/

section
variable {s : State} {rq : Rq} {c : Fin 8}

theorem State.gatedWrite_ful {off : Nat} (h : s.grants rq off) (ho : off / 0x10000 = 4) (v : Word) :
    s.gatedWrite rq off v = (s.fulWrite off (BitVec.allOnes 64) v).getD (s.plainWrite off (BitVec.allOnes 64) v) := by
  rw [State.gatedWrite_granted h, State.regWrite]
  simp [ho]

/-- A register of a context other than FUL_Cc_CTL is an ordinary one. -/
theorem State.gatedWrite_fulC {k : Nat} (hk : k < 0x100) (hk' : k ≠ 0x40) (h : s.grants rq (0x41000 + k + 0x100 * c)) (v : Word) :
    s.gatedWrite rq (0x41000 + k + 0x100 * c) v = s.plainWrite (0x41000 + k + 0x100 * c) (BitVec.allOnes 64) v := by
  have hnone : s.fulWrite (0x41000 + k + 0x100 * c) (BitVec.allOnes 64) v = none := by
    have hfam : famIx (0x41000 + k + 0x100 * c) (Reg.fulCCtl 0) 0x100 8 = none := if_neg (by unfold Reg.fulCCtl; omega)
    unfold State.fulWrite
    rw [if_neg (by unfold Reg.fulPgCtl; omega), hfam]
  rw [State.gatedWrite_ful h (by omega), hnone, Option.getD_none]

/-- A register with fields that are written, and others that a 1 clears. -/
theorem State.plainWrite_clears {off a b n m : Nat} {d1 d2 d3 : Nat × Nat} (hd : regAt off = some ⟨a, d1, d2, d3, n, m, 0, 0, b⟩)
    (h : BitVec.ofNat 64 n &&& BitVec.ofNat 64 m = 0) (v : Word) : s.plainWrite off (BitVec.allOnes 64) v =
      s.wr off (((s.rd off &&& ~~~(v &&& BitVec.ofNat 64 m)) &&& ~~~(BitVec.ofNat 64 n)) ||| (v &&& BitVec.ofNat 64 n)) := by
  have hzero : BitVec.ofNat 64 0 = (0 : Word) := rfl
  rw [State.plainWrite, hd]
  dsimp only
  refine congrArg (s.wr off) ?_
  simp only [regNext, hzero, ite_self, BitVec.and_allOnes]
  refine BitVec.eq_of_getLsbD_eq fun i hi => ?_
  have hbit := congrArg (fun w : Word => w.getLsbD i) h
  have hnone : (0 : Word).getLsbD i = false := BitVec.getLsbD_zero
  simp only [BitVec.getLsbD_and, BitVec.getLsbD_or, BitVec.getLsbD_not, hi, hnone, decide_true, Bool.true_and] at hbit ⊢
  revert hbit
  generalize (BitVec.ofNat 64 n).getLsbD i = x
  generalize (BitVec.ofNat 64 m).getLsbD i = y
  generalize v.getLsbD i = z
  generalize (s.rd off).getLsbD i = w
  revert w x y z
  decide

/-- FUL_PG_CTL takes its fields, and a THRESH of 0 as 1 (R213). -/
theorem State.fulWrite_pgCtl (s : State) (v : Word) : s.fulWrite Reg.fulPgCtl (BitVec.allOnes 64) v =
    some (s.wr Reg.fulPgCtl (if bits v 16 16 = 0 then (v &&& 3) ||| 0x10000 else v &&& 0xFFFF0003)) := by
  have hword : ((s.rd Reg.fulPgCtl &&& ~~~(BitVec.allOnes 64)) ||| (v &&& BitVec.allOnes 64)) &&& 0xFFFF0003 = v &&& 0xFFFF0003 := by
    rw [BitVec.not_allOnes, BitVec.and_allOnes, BitVec.and_zero, BitVec.zero_or]
  have hbits : bits (v &&& 0xFFFF0003) 16 16 = bits v 16 16 := by
    have hones : ∀ j < 16, (0xFFFF0003 : Word).getLsbD (16 + j) = true := by decide
    refine Nat.eq_of_testBit_eq fun j => ?_
    rw [testBit_bits, testBit_bits, BitVec.getLsbD_and]
    by_cases hj : j < 16
    · rw [hones j hj, Bool.and_true]
    · simp [hj]
  have hset : setBits (v &&& 0xFFFF0003) 16 16 1 = (v &&& 3) ||| 0x10000 := by
    have hone : ∀ j < 64, (0x10000 : Word).getLsbD j = decide (j = 16) ∧
        ((0xFFFF0003 : Word).getLsbD j = if 16 ≤ j ∧ j < 16 + 16 then true else (3 : Word).getLsbD j) ∧
        (16 ≤ j ∧ j < 16 + 16 → (3 : Word).getLsbD j = false ∧ (1 : Nat).testBit (j - 16) = decide (j = 16)) := by decide
    refine BitVec.eq_of_getLsbD_eq fun j hj => ?_
    obtain ⟨h1, h2, h3⟩ := hone j hj
    rw [getLsbD_setBits _ _ _ _ hj, BitVec.getLsbD_or, BitVec.getLsbD_and, BitVec.getLsbD_and, h1, h2]
    split
    next h =>
      obtain ⟨h4, h5⟩ := h3 h
      rw [h4, h5]
      simp
    next h =>
      have hne : j ≠ 16 := by omega
      simp [hne]
  unfold State.fulWrite
  rw [if_pos rfl]
  dsimp only
  rw [hword, hbits, hset]

end

section
variable {s : State} {rq : Rq} {c : Fin 8}

theorem State.plainWrite_fulCEvent (s : State) (c : Fin 8) (v : Word) : s.plainWrite (Reg.fulCEvent c) (BitVec.allOnes 64) v = s.wr (Reg.fulCEvent c)
    (((s.rd (Reg.fulCEvent c) &&& ~~~(v &&& 0x3F00)) &&& ~~~0x3F) ||| (v &&& 0x3F)) := by
  have hd : regAt (Reg.fulCEvent c.val) = some ⟨0x41038, (1, 0x10000000), (1, 0x10000000), (8, 256), 0x3f, 0x3f00, 0, 0, 0⟩ := by
    revert c
    decide +kernel
  exact State.plainWrite_clears hd (by decide) v

/-- A register without fields that are written. -/
theorem and_not_or_none (w v : Word) : (w &&& ~~~(BitVec.ofNat 64 0)) ||| (v &&& BitVec.ofNat 64 0) = w := by
  rw [BitVec.not_zero, BitVec.and_allOnes, BitVec.and_zero, BitVec.or_zero]

theorem State.plainWrite_fulCFflags (s : State) (c : Fin 8) (v : Word) : s.plainWrite (Reg.fulCFflags c) (BitVec.allOnes 64) v =
    s.wr (Reg.fulCFflags c) (s.rd (Reg.fulCFflags c) &&& ~~~(v &&& 0x1F)) := by
  have hd : regAt (Reg.fulCFflags c.val) = some ⟨0x41048, (1, 0x10000000), (1, 0x10000000), (8, 256), 0, 0x1f, 0, 0, 0⟩ := by
    revert c
    decide +kernel
  rw [State.plainWrite_clears hd (by decide) v, and_not_or_none]
  rfl

theorem State.plainWrite_fulCCheckLast (s : State) (c : Fin 8) : s.plainWrite (Reg.fulCCheckLast c) (BitVec.allOnes 64) (BitVec.twoPow 64 38) =
    s.wr (Reg.fulCCheckLast c) (s.rd (Reg.fulCCheckLast c) &&& ~~~(BitVec.twoPow 64 38)) := by
  have hd : regAt (Reg.fulCCheckLast c.val) = some ⟨0x41090, (1, 0x10000000), (1, 0x10000000), (8, 256), 0, 0x4000000000, 0, 0, 0⟩ := by
    revert c
    decide +kernel
  have hv : BitVec.twoPow 64 38 &&& BitVec.ofNat 64 0x4000000000 = BitVec.twoPow 64 38 := by decide
  rw [State.plainWrite_clears hd (by decide), and_not_or_none, hv]

/-- CLEAR leaves FAULTED (R185). -/
theorem exec_clear (h : s.grants rq (Reg.fulCCtl c)) : exec (.clear rq c) s = .next (s.leaveFaulted c) := by
  have hfam : famIx (Reg.fulCCtl c) (Reg.fulCCtl 0) 0x100 8 = some c.val := by
    unfold famIx Reg.fulCCtl
    rw [if_pos (by omega)]
    congr 1
    omega
  have hwrite : s.fulWrite (Reg.fulCCtl c) (BitVec.allOnes 64) 1 = some (s.leaveFaulted c) := by
    unfold State.fulWrite
    rw [if_neg (by unfold Reg.fulCCtl Reg.fulPgCtl; omega), hfam]
    rfl
  exact congrArg Host.Outcome.next (by rw [State.gatedWrite_ful h (by unfold Reg.fulCCtl; omega), hwrite, Option.getD_some])

theorem State.cxEnter_frame (s : State) (c n : Nat) :
    s.cxEnter c n = { s with regs := (s.cxEnter c n).regs, copies := (s.cxEnter c n).copies, ful := (s.cxEnter c n).ful } := by
  unfold State.cxEnter
  dsimp only
  split
  · rw [State.ctxEvent_frame]
    rfl
  · rfl

end

/-- The grant of the window before a boundary. -/
theorem State.grantIn_old (s : State) (c : Nat) : s.grantIn (if s.schedOn then some s.curWin else none) c = s.curGrant c := by
  unfold State.curGrant
  split <;> rfl

/-- What a boundary into window `w` of frame `k` leaves. -/
theorem boundary_crosses (s : State) {k w : Nat} (hl : s.locate = some (k, w)) (hnew : s.schedOn = false ∨ s.curWin ≠ w ∨ s.ful.frame ≠ k) (hw : w < 64) :
    ∃ t, exec .fulWindowBoundary s = .next t ∧ s.FulOnly t ∧ t.schedOn = true ∧ t.curWin = w ∧ t.ful.frame = k ∧ t.ful.pg = s.rd Reg.fulPgCtl ∧
      t.fget Reg.fulSchedStat Reg.fulSchedStat_FRAMES =
        (s.fget Reg.fulSchedStat Reg.fulSchedStat_FRAMES + if s.schedOn then k - s.ful.frame else 0) % 2 ^ Reg.fulSchedStat_FRAMES.len ∧
      (t.fget Reg.fulStatus Reg.fulStatus_GAP = 1 ↔ ∃ c < 8, s.curGrant c ≠ s.winGrant w c) ∧
      ∀ c < 8, t.cxSlices c = s.cxSlices c &&& s.winGrant w c := by
  let old := if s.schedOn then some s.curWin else none
  let u := if old.isSome then s.fadd Reg.fulSchedStat Reg.fulSchedStat_FRAMES (k - s.ful.frame) else s
  have hcond : ¬ (old = some w ∧ s.ful.frame = k) := by
    rintro ⟨hold, hk⟩
    by_cases hon : s.schedOn = true
    · have hcw : s.curWin = w := Option.some.inj ((if_pos hon).symm.trans hold)
      rcases hnew with h | h | h
      · exact absurd (h.symm.trans hon) (by decide)
      · exact h hcw
      · exact h hk
    · exact absurd ((if_neg hon).symm.trans hold) (by simp)
  have hexec : exec .fulWindowBoundary s = .next (u.crossBoundary old (some w) k) := by
    change execFulWindowBoundary s = _
    unfold execFulWindowBoundary
    dsimp only
    rw [hl]
    exact if_neg hcond
  have hsome : old.isSome = s.schedOn := by
    unfold old
    cases s.schedOn <;> rfl
  have hw' : ∀ v ∈ some w, v < 64 := fun v hv => Option.some.inj hv ▸ hw
  have hrd {r : Nat} (hr : r ≠ Reg.fulSchedStat) : u.rd r = s.rd r := by
    unfold u
    split
    · exact State.rd_fset_of_ne _ _ _ hr
    · rfl
  have honly : s.FulOnly u := by
    unfold u
    split <;> rfl
  have hgrant (v : Option Nat) (hv : ∀ x ∈ v, x < 64) (c : Nat) : u.grantIn v c = s.grantIn v c :=
    State.grantIn_of_rd (fun x hx => hrd (by have := hv x hx; unfold Reg.fulWin Reg.fulSchedStat; omega)) c
  have hold : ∀ x ∈ old, x < 64 := by
    unfold old
    intro x hx
    split at hx
    · exact Option.some.inj hx ▸ s.fget_lt _ _
    · cases hx
  obtain ⟨hwin, hon, hgap⟩ := u.crossBoundary_status old (some w) k hw'
  obtain ⟨hframe, hpg⟩ := Prod.mk.inj (u.crossBoundary_schedule old (some w) k)
  refine ⟨_, hexec, honly.trans (u.crossBoundary_fulOnly old (some w) k), hon, hwin, hframe, hpg.trans (hrd (by decide)), ?_, ?_, fun c hc => ?_⟩
  · rw [u.fget_crossBoundary old (some w) k _ (by decide) (by decide), State.fget_of_rd (u.rd_atBoundary_of_ne old (some w) k (by decide))]
    unfold u
    rw [hsome]
    split
    · exact State.fget_fadd _ _ _ (by decide)
    · exact (Nat.mod_eq_of_lt (s.fget_lt _ _)).symm
  · rw [hgap]
    refine exists_congr fun c => and_congr_right fun _ => ?_
    rw [hgrant old hold, hgrant (some w) hw', s.grantIn_old]
    rfl
  · have hslices : u.cxSlices c = s.cxSlices c := State.fget_of_rd (hrd (by unfold Reg.fulCState Reg.fulSchedStat; omega)) _
    rw [u.cxSlices_crossBoundary old (some w) k hw' hc, hslices, hgrant (some w) hw']
    rfl

/-- What leaving the schedule leaves. -/
theorem boundary_leaves (s : State) (hl : s.locate = none) (hon : s.schedOn = true) :
    ∃ t, exec .fulWindowBoundary s = .next t ∧ s.FulOnly t ∧ t.schedOn = false ∧ ∀ c < 8, t.cxSlices c = 0 := by
  have hexec : exec .fulWindowBoundary s = .next (s.crossBoundary (some s.curWin) none s.ful.frame) := by
    change execFulWindowBoundary s = _
    unfold execFulWindowBoundary
    dsimp only
    rw [hl, if_pos hon, if_pos hon]
  have hnone : ∀ w ∈ (none : Option Nat), w < 64 := fun w hw => by cases hw
  obtain ⟨-, hoff, -⟩ := s.crossBoundary_status (some s.curWin) none s.ful.frame hnone
  refine ⟨_, hexec, s.crossBoundary_fulOnly _ _ _, hoff, fun c hc => ?_⟩
  rw [s.cxSlices_crossBoundary _ _ _ hnone hc]
  exact Nat.and_zero _

/-- Settles O38: a boundary and the end of the gap by their steps in the contexts one by one, a slice by the context that it is granted to, the register
rows by their writes. -/
theorem scheduleSlicesAndContextRows : Obligations.ScheduleSlicesAndContextRows := by
  unfold Obligations.ScheduleSlicesAndContextRows
  refine ⟨⟨fun s => ⟨fun hl hoff => ?_, boundary_leaves s, fun k w hl => ⟨fun hon hw hk => ?_, boundary_crosses s hl⟩⟩,
    fun s late => ⟨fun hgap => if_pos hgap, fun hgap => ?_⟩⟩, fun s i => ?_, fun s rq c v => ?_⟩
  · change execFulWindowBoundary s = _
    unfold execFulWindowBoundary
    dsimp only
    rw [hl]
    exact congrArg Host.Outcome.next (if_neg (by rw [hoff]; decide))
  · change execFulWindowBoundary s = _
    unfold execFulWindowBoundary
    dsimp only
    rw [hl]
    exact if_pos ⟨by rw [if_pos hon, hw], hk⟩
  · exact ⟨_, exec_gapEnd s late hgap, s.gapEnded_gap late, fun c hc => s.cxSlices_gapEnded late hc,
      fun h => by subst h; exact s.gapEnded_fulOnly.trans rfl,
      fun c hc hlate hlost hstrm o r hrun hst => s.gapEnded_overrun late hc hlate hlost hstrm hrun hst⟩
  · intro st granted idle gates
    have hidle : s.sliceIdle i = true ↔ idle := s.sliceIdle_iff i
    have hgates : (bit s.ful.pg 0 && (s.sliceIdle i && decide (1000 * bits s.ful.pg 16 16 ≤ s.ticks - SMap.get 0 s.ful.busy i)) &&
        bit (s.rd Reg.fulStatus) i) = true ↔ gates := by
      simp only [Bool.and_eq_true, decide_eq_true_eq, hidle, gates, st, and_assoc]
    refine ⟨fun hno => if_neg fun h => hno (hgates.mp h), fun h => sliceGate_gates s i (hgates.mpr h), fun hno => if_pos (by rw [hno]; rfl),
      sliceWake_wakes s i, ?_⟩
    intro later wakes
    exact ⟨fun hno => (exec_scheduledWake s i).trans (if_neg hno), fun h => (exec_scheduledWake s i).trans (if_pos h)⟩
  · intro ev
    refine ⟨?_, fun hg => ⟨fun hst => ?_, fun hst => ⟨_, exec_clear hg, ?_, ?_⟩⟩⟩
    · refine State.rows_cons rfl (fun hg => congrArg Host.Outcome.next ?_) <| State.rows_cons rfl (fun hg => congrArg Host.Outcome.next ?_) <|
        State.rows_cons rfl (fun hg => congrArg Host.Outcome.next ?_) <| State.rows_cons rfl (fun hg => congrArg Host.Outcome.next ?_)
        (by simp [State.rows])
      · rw [State.gatedWrite_ful hg (by decide), State.fulWrite_pgCtl, Option.getD_some]
      · exact (State.gatedWrite_fulC (k := 0x38) (by decide) (by decide) hg v).trans (s.plainWrite_fulCEvent c v)
      · exact (State.gatedWrite_fulC (k := 0x48) (by decide) (by decide) hg v).trans (s.plainWrite_fulCFflags c v)
      · exact (State.gatedWrite_fulC (k := 0x90) (by decide) (by decide) hg _).trans (s.plainWrite_fulCCheckLast c)
    · rw [exec_clear hg, State.leaveFaulted, if_neg hst]
    · rw [State.leaveFaulted, if_pos hst]
      exact s.cxEnter_frame c _
    · rw [State.leaveFaulted, if_pos hst, State.cxState_cxEnter _ _ (s.cxActive_lt c)]
      by_cases hbusy : (s.ctx c).queue = [] ∧ (s.ctx c).run = []
      · rw [if_pos hbusy, State.cxActive_idle hbusy.1 hbusy.2]
      · rw [if_neg hbusy, State.cxActive_busy hbusy]

end Sys2Proof.Machine
end
